-- ==== Sys2Proof/Word.lean ====
section
/-!
DEFINITION. The word types of the package: bytes, words, dwords, addresses and names (R11, R13, R14, R26).
-/

namespace Sys2Proof

/-- A byte of memory. -/
abbrev Byte := BitVec 8
/-- A 32-bit word: one instruction (R162). -/
abbrev Word := BitVec 32
/-- A 64-bit dword: one general register (R25). -/
abbrev Dword := BitVec 64
/-- A vector register (R25). -/
abbrev VWord := BitVec 512
/-- A thread name (R26). -/
abbrev Name := BitVec 56

end Sys2Proof
end

