-- ==== Sys2Proof/Config.lean ====
section
/-!
DEFINITION. What the implementation fixes (sizes, the figures of R69 and of the chapters' timing lines) and the free values: constants without
a body for what the spec leaves undefined (R16) and for the secrets of the package (R415 to R418).
-/

namespace Sys2Proof.Config

/-- An undefined value (R16): the n-th one that the machine draws.  Nothing is known of it. -/
opaque freeValue : Nat → Dword

/-- What a byte reads as under key slot `read` when its sector was last written under key slot `written` (R385, R386): undefined, a function of
the place and of the byte written. -/
opaque wrongKey : (written read addr : Nat) → (byte : Byte) → Byte

/-- What a byte reads as under key slot `tag` when it has not been written under that slot (R134, R385): undefined, a function of the place and of the
number of the sector's filling, 0 for a sector not written since power-on. -/
opaque unwritten : (fill tag addr : Nat) → Byte

/-- The hash that spreads packets over ports, by source endpoint, destination endpoint and sequence number (R402): the spec names no function. -/
opaque portHash : (src dst seq : Nat) → Nat

/-- Packages whose entries for a collective may name a package as PARENT (R309), of n: supervisors wrote them there, and no register of that package holds them.  It is
asked only for the children that CHILDREN counts and that no summary or request has named yet. -/
opaque childrenOf (pkg collid n : Nat) : Vector Nat n

/-- The seed of the package's identity key pair, which its fused secret and MR0 to MR2 determine (R418): the spec keeps the derivation inside the
package. -/
opaque identitySeed : (mrs : List Byte) → List Byte

/-- The digest of the boot ROM (R417). -/
opaque romDigest : List Byte

/-- Where in the image slots a management frame's data is written (R423 names no place): a flash offset. -/
opaque flashPlace : (data : List Byte) → Nat

/-- The digest of the boot key that the fuses hold (R415). -/
opaque fusedDigest : List Byte

/-- Compute cores of a die (R41). -/
def coresPerDie : Nat := 160
/-- Compute cores of the package; core indices from here on are channel cores (R41). -/
def computeCores : Nat := 640
/-- All cores of the package. -/
def allCores : Nat := 896
/-- Tiles of the package (R73). -/
def tiles : Nat := 160
/-- Contexts of a compute core and of a channel core (R25). -/
def contextsOf (core : Nat) : Nat := if core < 640 then 256 else 64
/-- The cap on the store-acknowledge count (R213). -/
def storeCap : Nat := 64
/-- The cap on REDPEND (R143). -/
def redCap : Nat := 16
/-- Cycles within which gathered data is posted (R140). -/
def gatherCycles : Nat := 64
/-- Entries of a core's TLB (R380). -/
def tlbEntries : Nat := 2048
/-- Sectors of 64 bytes that the L1 of a core holds: 128 KiB, and 64 KiB in a channel core (R70, R75). -/
def l1Sectors (core : Nat) : Nat := if core < 640 then 2048 else 1024
/-- Lines of 256 bytes that the instruction cache of a core holds: 64 KiB (R71, R75). -/
def icacheLines : Nat := 256
/-- Lines of 256 bytes that a slice caches: 2 MiB without the 417 KiB that are pinned (R81). -/
def sliceLines : Nat := (2048 - 417) * 4
/-- Cycles that a slice miss adds (R69). -/
def sliceMiss : Nat := 150
/-- Watched-line entries of a slice's directory, and of a tile's or channel core's (R91). -/
def sliceWatches : Nat := 2048
def scratchWatches : Nat := 1024
/-- Table-pointer entries of a walk cache (R380). -/
def walkEntries : Nat := 256
/-- Walks that a core runs at once (R380). -/
def walkers : Nat := 4
/-- Spill slots of a compute die's default spill area (R56). -/
def spillSlots : Nat := 8192
/-- Entries of a compute die's name directory (R348). -/
def nameEntries : Nat := 16384
/-- Rotations after which a ready thread is promoted and a sleeper may be evicted (R33, R59). -/
def agingRotations : Nat := 65536
/-- Cycles of a second: the clock of R7 is 1.3 GHz. -/
def second : Nat := 1300000000
/-- Cycles of 16 microseconds: the ticket and side-band limit (R98, R412). -/
def microseconds16 : Nat := 20800

end Sys2Proof.Config
end

