-- ==== Sys2Proof/Syntax.lean ====
section
/-!
DEFINITION. The instructions and events of the ZQ-960 package: one constructor of `Instr` for every row of spec/opcode_table.json.
First come the instruction words of R164 and R165 that have fields, then those that have none, then the rows without a word: the events
that 95_what_each_step_holds.md lists.  An instruction word acts for the thread that State's `focus` names; an event acts on what State's
`subject` names.
-/

namespace Sys2Proof

/-- A general register number (R155). -/
abbrev GReg := Fin 32
/-- A vector register number (R155). -/
abbrev VReg := Fin 16
/-- A mask register number (R155). -/
abbrev KReg := Fin 8
/-- A branch-target register number (R155). -/
abbrev BReg := Fin 8
/-- A watch register number (R155). -/
abbrev WReg := Fin 4

/-- The vector element types in the order of their codes 0 to 11 (R166). -/
inductive VTy where
  | f64 | f32 | bf16 | f16 | i8 | i16 | i32 | i64 | n8 | n16 | n32 | n64
deriving DecidableEq, Repr

/-- The element size E of the vector memory instructions: 1, 2, 4 or 8 bytes (R165). -/
inductive ESize where
  | b | h | w | d
deriving DecidableEq, Repr

/-- The ordering suffix of AMO: minor[6:5] (R165). -/
inductive Order where
  | rlx | acq | rel | ar
deriving DecidableEq, Repr

/-- The conditions of BC and BCB in the order of their codes 0 to 5 (R164). -/
inductive Cond where
  | eqz | nez | ltz | gez | gtz | lez
deriving DecidableEq, Repr

/-- The input format F of MMA (R165). -/
inductive MmaFmt where
  | fp64 | fp32 | bf16 | fp16 | tag
deriving DecidableEq, Repr

/-- The output format F of ACCRD (R165). -/
inductive AccFmt where
  | fp64 | fp32 | bf16 | fp16 | i32
deriving DecidableEq, Repr

/-- Every row of the opcode table: an instruction word with its fields, or an event of the machine. -/
inductive Instr where
  /-- ADD (R183). -/
  | add (d : GReg) (a : GReg) (b : GReg) (w : Bool)
  /-- SUB (R183). -/
  | sub (d : GReg) (a : GReg) (b : GReg) (w : Bool)
  /-- AND (R183). -/
  | andg (d : GReg) (a : GReg) (b : GReg)
  /-- OR (R183). -/
  | org (d : GReg) (a : GReg) (b : GReg)
  /-- XOR (R183). -/
  | xorg (d : GReg) (a : GReg) (b : GReg)
  /-- ANDN (R183). -/
  | andn (d : GReg) (a : GReg) (b : GReg)
  /-- ORN (R183). -/
  | orn (d : GReg) (a : GReg) (b : GReg)
  /-- SLL (R183). -/
  | sll (d : GReg) (a : GReg) (b : GReg) (w : Bool)
  /-- SRL (R183). -/
  | srl (d : GReg) (a : GReg) (b : GReg) (w : Bool)
  /-- SRA (R183). -/
  | sra (d : GReg) (a : GReg) (b : GReg) (w : Bool)
  /-- ROL (R183). -/
  | rol (d : GReg) (a : GReg) (b : GReg) (w : Bool)
  /-- MUL (R183). -/
  | mul (d : GReg) (a : GReg) (b : GReg) (w : Bool)
  /-- MULH (R183). -/
  | mulh (d : GReg) (a : GReg) (b : GReg) (w : Bool)
  /-- MULHU (R183). -/
  | mulhu (d : GReg) (a : GReg) (b : GReg) (w : Bool)
  /-- DIV (R183). -/
  | div (d : GReg) (a : GReg) (b : GReg) (w : Bool)
  /-- DIVU (R183). -/
  | divu (d : GReg) (a : GReg) (b : GReg) (w : Bool)
  /-- REM (R183). -/
  | rem (d : GReg) (a : GReg) (b : GReg) (w : Bool)
  /-- REMU (R183). -/
  | remu (d : GReg) (a : GReg) (b : GReg) (w : Bool)
  /-- MIN (R183). -/
  | min (d : GReg) (a : GReg) (b : GReg)
  /-- MAX (R183). -/
  | max (d : GReg) (a : GReg) (b : GReg)
  /-- MINU (R183). -/
  | minu (d : GReg) (a : GReg) (b : GReg)
  /-- MAXU (R183). -/
  | maxu (d : GReg) (a : GReg) (b : GReg)
  /-- SLT (R183). -/
  | slt (d : GReg) (a : GReg) (b : GReg)
  /-- SLTU (R183). -/
  | sltu (d : GReg) (a : GReg) (b : GReg)
  /-- SEQ (R183). -/
  | seq (d : GReg) (a : GReg) (b : GReg)
  /-- SNE (R183). -/
  | sne (d : GReg) (a : GReg) (b : GReg)
  /-- CMOVZ (R183). -/
  | cmovz (d : GReg) (a : GReg) (b : GReg)
  /-- CMOVNZ (R183). -/
  | cmovnz (d : GReg) (a : GReg) (b : GReg)
  /-- CLZ (R183). -/
  | clz (d : GReg) (a : GReg)
  /-- CTZ (R183). -/
  | ctz (d : GReg) (a : GReg)
  /-- POPC (R183). -/
  | popc (d : GReg) (a : GReg)
  /-- BSWAP (R183). -/
  | bswap (d : GReg) (a : GReg)
  /-- LEA (R183). -/
  | lea (d : GReg) (a : GReg) (b : GReg) (s : BitVec 3)
  /-- ADDI (R184). -/
  | addi (d : GReg) (a : GReg) (i : BitVec 16)
  /-- ANDI (R184). -/
  | andi (d : GReg) (a : GReg) (i : BitVec 16)
  /-- ORI (R184). -/
  | ori (d : GReg) (a : GReg) (i : BitVec 16)
  /-- XORI (R184). -/
  | xori (d : GReg) (a : GReg) (i : BitVec 16)
  /-- SLTI (R184). -/
  | slti (d : GReg) (a : GReg) (i : BitVec 16)
  /-- SLLI (R185). -/
  | slli (d : GReg) (a : GReg) (w : Bool) (n : BitVec 6)
  /-- SRLI (R185). -/
  | srli (d : GReg) (a : GReg) (w : Bool) (n : BitVec 6)
  /-- SRAI (R185). -/
  | srai (d : GReg) (a : GReg) (w : Bool) (n : BitVec 6)
  /-- ROLI (R185). -/
  | roli (d : GReg) (a : GReg) (w : Bool) (n : BitVec 6)
  /-- MOVI (R186). -/
  | movi (d : GReg) (i : BitVec 21)
  /-- MOVHI (R186). -/
  | movhi (d : GReg) (i : BitVec 21)
  /-- ADDPC (R186). -/
  | addpc (d : GReg) (i : BitVec 21)
  /-- BC_EQZ (R189). -/
  | bcEqz (a : GReg) (i : BitVec 16)
  /-- BC_NEZ (R189). -/
  | bcNez (a : GReg) (i : BitVec 16)
  /-- BC_LTZ (R189). -/
  | bcLtz (a : GReg) (i : BitVec 16)
  /-- BC_GEZ (R189). -/
  | bcGez (a : GReg) (i : BitVec 16)
  /-- BC_GTZ (R189). -/
  | bcGtz (a : GReg) (i : BitVec 16)
  /-- BC_LEZ (R189). -/
  | bcLez (a : GReg) (i : BitVec 16)
  /-- JL (R189). -/
  | jl (d : GReg) (i : BitVec 21)
  /-- PREP (R187). -/
  | prep (k : BReg) (i : BitVec 21)
  /-- JR (R189). -/
  | jr (a : GReg)
  /-- JLR (R189). -/
  | jlr (d : GReg) (a : GReg)
  /-- JB (R189). -/
  | jb (k : BReg)
  /-- JBL (R189). -/
  | jbl (d : GReg) (k : BReg)
  /-- BCB (R189). -/
  | bcb (c : Cond) (a : GReg) (k : BReg)
  /-- PREPR (R189). -/
  | prepr (a : GReg) (k : BReg)
  /-- LOOP (R190). -/
  | loop (a : GReg) (n : BitVec 16)
  /-- LOOPI (R190). -/
  | loopi (c : BitVec 10) (n : BitVec 16)
  /-- SPAWN (R197). -/
  | spawn (d : GReg) (k : BReg)
  /-- SPAWNN (R198). -/
  | spawnn (d : GReg) (a : GReg) (k : BReg)
  /-- FORK (R199). -/
  | fork (k : BReg)
  /-- JOIN (R200). -/
  | join (a : GReg)
  /-- CALLAT (R201). -/
  | callat (d : GReg) (a : GReg) (k : BReg)
  /-- REPLY (R202). -/
  | reply (a : GReg) (b : GReg)
  /-- END (R203). -/
  | endT (a : GReg) (e : Bool)
  /-- GOHOME (R204). -/
  | gohome (a : GReg)
  /-- LAUNCH (R205). -/
  | launch (a : GReg)
  /-- CANCEL (R48). -/
  | cancel (a : GReg)
  /-- SRD (R207). -/
  | srd (d : GReg) (n : BitVec 10)
  /-- SWR (R207). -/
  | swr (a : GReg) (n : BitVec 10)
  /-- SRSET (R159). -/
  | srset (a : GReg) (n : BitVec 10)
  /-- SRCLR (R159). -/
  | srclr (a : GReg) (n : BitVec 10)
  /-- LD_B (R215). -/
  | ldB (d : GReg) (a : GReg) (o : BitVec 13)
  /-- LD_BN (R215). -/
  | ldBn (d : GReg) (a : GReg) (o : BitVec 13)
  /-- LD_H (R215). -/
  | ldH (d : GReg) (a : GReg) (o : BitVec 13)
  /-- LD_HN (R215). -/
  | ldHn (d : GReg) (a : GReg) (o : BitVec 13)
  /-- LD_W (R215). -/
  | ldW (d : GReg) (a : GReg) (o : BitVec 13)
  /-- LD_WN (R215). -/
  | ldWn (d : GReg) (a : GReg) (o : BitVec 13)
  /-- LD_D (R215). -/
  | ldD (d : GReg) (a : GReg) (o : BitVec 13)
  /-- ST_B (R215). -/
  | stB (d : GReg) (a : GReg) (o : BitVec 13)
  /-- ST_H (R215). -/
  | stH (d : GReg) (a : GReg) (o : BitVec 13)
  /-- ST_W (R215). -/
  | stW (d : GReg) (a : GReg) (o : BitVec 13)
  /-- ST_D (R215). -/
  | stD (d : GReg) (a : GReg) (o : BitVec 13)
  /-- LDX_B (R215). -/
  | ldxB (d : GReg) (a : GReg) (b : GReg) (s : BitVec 3)
  /-- LDX_BN (R215). -/
  | ldxBn (d : GReg) (a : GReg) (b : GReg) (s : BitVec 3)
  /-- LDX_H (R215). -/
  | ldxH (d : GReg) (a : GReg) (b : GReg) (s : BitVec 3)
  /-- LDX_HN (R215). -/
  | ldxHn (d : GReg) (a : GReg) (b : GReg) (s : BitVec 3)
  /-- LDX_W (R215). -/
  | ldxW (d : GReg) (a : GReg) (b : GReg) (s : BitVec 3)
  /-- LDX_WN (R215). -/
  | ldxWn (d : GReg) (a : GReg) (b : GReg) (s : BitVec 3)
  /-- LDX_D (R215). -/
  | ldxD (d : GReg) (a : GReg) (b : GReg) (s : BitVec 3)
  /-- STX_B (R215). -/
  | stxB (d : GReg) (a : GReg) (b : GReg) (s : BitVec 3)
  /-- STX_H (R215). -/
  | stxH (d : GReg) (a : GReg) (b : GReg) (s : BitVec 3)
  /-- STX_W (R215). -/
  | stxW (d : GReg) (a : GReg) (b : GReg) (s : BitVec 3)
  /-- STX_D (R215). -/
  | stxD (d : GReg) (a : GReg) (b : GReg) (s : BitVec 3)
  /-- LD_ACQ_W (R215). -/
  | ldAcqW (d : GReg) (a : GReg) (b : GReg) (s : BitVec 3)
  /-- LD_ACQ_WN (R215). -/
  | ldAcqWn (d : GReg) (a : GReg) (b : GReg) (s : BitVec 3)
  /-- LD_ACQ_D (R215). -/
  | ldAcqD (d : GReg) (a : GReg) (b : GReg) (s : BitVec 3)
  /-- ST_REL_W (R215). -/
  | stRelW (d : GReg) (a : GReg) (b : GReg) (s : BitVec 3)
  /-- ST_REL_D (R215). -/
  | stRelD (d : GReg) (a : GReg) (b : GReg) (s : BitVec 3)
  /-- VLD (R218). -/
  | vld (v : VReg) (a : GReg) (b : GReg) (k : KReg)
  /-- VST (R218). -/
  | vst (v : VReg) (a : GReg) (b : GReg) (k : KReg)
  /-- VLDS (R218). -/
  | vlds (v : VReg) (a : GReg) (b : GReg) (e : ESize) (k : KReg)
  /-- VSTS (R218). -/
  | vsts (v : VReg) (a : GReg) (b : GReg) (e : ESize) (k : KReg)
  /-- VGATHER (R218). -/
  | vgather (v : VReg) (a : GReg) (x : VReg) (e : ESize) (k : KReg)
  /-- VSCATTER (R218). -/
  | vscatter (v : VReg) (a : GReg) (x : VReg) (e : ESize) (k : KReg)
  /-- VBCLD (R218). -/
  | vbcld (v : VReg) (a : GReg) (b : GReg) (e : ESize)
  /-- AMO_ADD (R221). -/
  | amoAdd (d : GReg) (a : GReg) (b : GReg) (o : Order) (s : Bool)
  /-- AMO_AND (R221). -/
  | amoAnd (d : GReg) (a : GReg) (b : GReg) (o : Order) (s : Bool)
  /-- AMO_OR (R221). -/
  | amoOr (d : GReg) (a : GReg) (b : GReg) (o : Order) (s : Bool)
  /-- AMO_XOR (R221). -/
  | amoXor (d : GReg) (a : GReg) (b : GReg) (o : Order) (s : Bool)
  /-- AMO_MIN (R221). -/
  | amoMin (d : GReg) (a : GReg) (b : GReg) (o : Order) (s : Bool)
  /-- AMO_MAX (R221). -/
  | amoMax (d : GReg) (a : GReg) (b : GReg) (o : Order) (s : Bool)
  /-- AMO_MINU (R221). -/
  | amoMinu (d : GReg) (a : GReg) (b : GReg) (o : Order) (s : Bool)
  /-- AMO_MAXU (R221). -/
  | amoMaxu (d : GReg) (a : GReg) (b : GReg) (o : Order) (s : Bool)
  /-- AMO_SWAP (R221). -/
  | amoSwap (d : GReg) (a : GReg) (b : GReg) (o : Order) (s : Bool)
  /-- AMO_CAS (R221). -/
  | amoCas (d : GReg) (a : GReg) (b : GReg) (o : Order) (s : Bool)
  /-- AMO_FADD (R221). -/
  | amoFadd (d : GReg) (a : GReg) (b : GReg) (o : Order) (s : Bool)
  /-- AMO_FMIN (R221). -/
  | amoFmin (d : GReg) (a : GReg) (b : GReg) (o : Order) (s : Bool)
  /-- AMO_FMAX (R221). -/
  | amoFmax (d : GReg) (a : GReg) (b : GReg) (o : Order) (s : Bool)
  /-- RED_ADD (R223). -/
  | redAdd (a : GReg) (b : GReg) (o : Bool) (s : Bool)
  /-- RED_AND (R223). -/
  | redAnd (a : GReg) (b : GReg) (o : Bool) (s : Bool)
  /-- RED_OR (R223). -/
  | redOr (a : GReg) (b : GReg) (o : Bool) (s : Bool)
  /-- RED_XOR (R223). -/
  | redXor (a : GReg) (b : GReg) (o : Bool) (s : Bool)
  /-- RED_MIN (R223). -/
  | redMin (a : GReg) (b : GReg) (o : Bool) (s : Bool)
  /-- RED_MAX (R223). -/
  | redMax (a : GReg) (b : GReg) (o : Bool) (s : Bool)
  /-- RED_MINU (R223). -/
  | redMinu (a : GReg) (b : GReg) (o : Bool) (s : Bool)
  /-- RED_MAXU (R223). -/
  | redMaxu (a : GReg) (b : GReg) (o : Bool) (s : Bool)
  /-- RED_FADD (R223). -/
  | redFadd (a : GReg) (b : GReg) (o : Bool) (s : Bool)
  /-- RED_FMIN (R223). -/
  | redFmin (a : GReg) (b : GReg) (o : Bool) (s : Bool)
  /-- RED_FMAX (R223). -/
  | redFmax (a : GReg) (b : GReg) (o : Bool) (s : Bool)
  /-- WATCH (R227). -/
  | watch (w : WReg) (a : GReg) (m : BitVec 4)
  /-- UNWATCH (R228). -/
  | unwatch (w : WReg)
  /-- SLEEP (R229). -/
  | sleep (a : GReg)
  /-- WFIRED (R230). -/
  | wfired (d : GReg)
  /-- TMARM (R232). -/
  | tmarm (a : GReg) (b : GReg)
  /-- TBINIT (R234). -/
  | tbinit (a : GReg) (b : GReg)
  /-- TBEXPECT (R235). -/
  | tbexpect (a : GReg) (b : GReg)
  /-- TBARRIVE (R236). -/
  | tbarrive (a : GReg)
  /-- TBWAIT (R237). -/
  | tbwait (a : GReg) (p : BitVec 4)
  /-- MBADD (R240). -/
  | mbadd (a : GReg) (b : GReg)
  /-- MBRD (R241). -/
  | mbrd (a : GReg) (c : GReg)
  /-- MBWAIT (R242). -/
  | mbwait (a : GReg) (b : GReg)
  /-- TKTAKE (R243). -/
  | tktake (a : GReg) (c : GReg)
  /-- TKWAIT (R244). -/
  | tkwait (a : GReg) (b : GReg)
  /-- VADD (R246). -/
  | vadd (d : VReg) (a : VReg) (b : VReg) (k : KReg) (t : VTy)
  /-- VSUB (R246). -/
  | vsub (d : VReg) (a : VReg) (b : VReg) (k : KReg) (t : VTy)
  /-- VMUL (R246). -/
  | vmul (d : VReg) (a : VReg) (b : VReg) (k : KReg) (t : VTy)
  /-- VFMA (R246). -/
  | vfma (d : VReg) (a : VReg) (b : VReg) (k : KReg) (t : VTy)
  /-- VFNMA (R246). -/
  | vfnma (d : VReg) (a : VReg) (b : VReg) (k : KReg) (t : VTy)
  /-- VMIN (R246). -/
  | vmin (d : VReg) (a : VReg) (b : VReg) (k : KReg) (t : VTy)
  /-- VMAX (R246). -/
  | vmax (d : VReg) (a : VReg) (b : VReg) (k : KReg) (t : VTy)
  /-- VABS (R246). -/
  | vabs (d : VReg) (a : VReg) (k : KReg) (t : VTy)
  /-- VNEG (R246). -/
  | vneg (d : VReg) (a : VReg) (k : KReg) (t : VTy)
  /-- VDIV (R246). -/
  | vdiv (d : VReg) (a : VReg) (b : VReg) (k : KReg) (t : VTy)
  /-- VSQRT (R246). -/
  | vsqrt (d : VReg) (a : VReg) (k : KReg) (t : VTy)
  /-- VAND (R246). -/
  | vand (d : VReg) (a : VReg) (b : VReg) (k : KReg) (t : VTy)
  /-- VOR (R246). -/
  | vor (d : VReg) (a : VReg) (b : VReg) (k : KReg) (t : VTy)
  /-- VXOR (R246). -/
  | vxor (d : VReg) (a : VReg) (b : VReg) (k : KReg) (t : VTy)
  /-- VNOT (R246). -/
  | vnot (d : VReg) (a : VReg) (k : KReg) (t : VTy)
  /-- VSHL (R246). -/
  | vshl (d : VReg) (a : VReg) (b : VReg) (k : KReg) (t : VTy)
  /-- VSHR (R246). -/
  | vshr (d : VReg) (a : VReg) (b : VReg) (k : KReg) (t : VTy)
  /-- VSHRA (R246). -/
  | vshra (d : VReg) (a : VReg) (b : VReg) (k : KReg) (t : VTy)
  /-- VCMP_EQ (R247). -/
  | vcmpEq (d : KReg) (a : VReg) (b : VReg) (k : KReg) (t : VTy)
  /-- VCMP_NE (R247). -/
  | vcmpNe (d : KReg) (a : VReg) (b : VReg) (k : KReg) (t : VTy)
  /-- VCMP_LT (R247). -/
  | vcmpLt (d : KReg) (a : VReg) (b : VReg) (k : KReg) (t : VTy)
  /-- VCMP_LE (R247). -/
  | vcmpLe (d : KReg) (a : VReg) (b : VReg) (k : KReg) (t : VTy)
  /-- VCMP_GT (R247). -/
  | vcmpGt (d : KReg) (a : VReg) (b : VReg) (k : KReg) (t : VTy)
  /-- VCMP_GE (R247). -/
  | vcmpGe (d : KReg) (a : VReg) (b : VReg) (k : KReg) (t : VTy)
  /-- VSEL (R248). -/
  | vsel (d : VReg) (a : VReg) (b : VReg) (k : KReg) (t : VTy)
  /-- VBCAST (R248). -/
  | vbcast (d : VReg) (g : GReg) (k : KReg) (t : VTy)
  /-- VINS (R248). -/
  | vins (d : VReg) (g : GReg) (l : BitVec 6) (t : VTy)
  /-- VEXT (R248). -/
  | vext (g : GReg) (a : VReg) (l : BitVec 6) (t : VTy)
  /-- VPERM (R248). -/
  | vperm (d : VReg) (a : VReg) (b : VReg) (k : KReg) (t : VTy)
  /-- VSLIDE_UP (R248). -/
  | vslideUp (d : VReg) (a : VReg) (n : BitVec 6) (t : VTy)
  /-- VSLIDE_DOWN (R248). -/
  | vslideDown (d : VReg) (a : VReg) (n : BitVec 6) (t : VTy)
  /-- VMOV (R248). -/
  | vmov (d : VReg) (a : VReg) (k : KReg)
  /-- VRSUM (R249). -/
  | vrsum (d : VReg) (a : VReg) (k : KReg) (t : VTy)
  /-- VRMAX (R249). -/
  | vrmax (d : VReg) (a : VReg) (k : KReg) (t : VTy)
  /-- VRMIN (R249). -/
  | vrmin (d : VReg) (a : VReg) (k : KReg) (t : VTy)
  /-- VCVT_F64_F32 (R251). -/
  | vcvtF64F32 (d : VReg) (a : VReg) (k : KReg)
  /-- VCVT_F32_F64 (R251). -/
  | vcvtF32F64 (d : VReg) (a : VReg) (k : KReg)
  /-- VCVT_F32_BF16 (R251). -/
  | vcvtF32Bf16 (d : VReg) (a : VReg) (k : KReg)
  /-- VCVT_BF16_F32 (R251). -/
  | vcvtBf16F32 (d : VReg) (a : VReg) (k : KReg)
  /-- VCVT_F32_F16 (R251). -/
  | vcvtF32F16 (d : VReg) (a : VReg) (k : KReg)
  /-- VCVT_F16_F32 (R251). -/
  | vcvtF16F32 (d : VReg) (a : VReg) (k : KReg)
  /-- VCVT_F32_I32 (R251). -/
  | vcvtF32I32 (d : VReg) (a : VReg) (k : KReg)
  /-- VCVT_I32_F32 (R251). -/
  | vcvtI32F32 (d : VReg) (a : VReg) (k : KReg)
  /-- VCVT_F64_I64 (R251). -/
  | vcvtF64I64 (d : VReg) (a : VReg) (k : KReg)
  /-- VCVT_I64_F64 (R251). -/
  | vcvtI64F64 (d : VReg) (a : VReg) (k : KReg)
  /-- VCVT_BF16_LNS8 (R125). -/
  | vcvtBf16Lns8 (d : VReg) (a : VReg) (k : KReg)
  /-- VCVT_LNS8_BF16 (R126). -/
  | vcvtLns8Bf16 (d : VReg) (a : VReg) (k : KReg)
  /-- VCVT_BF16_LNS6 (R125). -/
  | vcvtBf16Lns6 (d : VReg) (a : VReg) (k : KReg)
  /-- VCVT_LNS6_BF16 (R126). -/
  | vcvtLns6Bf16 (d : VReg) (a : VReg) (k : KReg)
  /-- VTLOAD (R255). -/
  | vtload (y : Fin 4) (g : GReg)
  /-- VTAB (R257). -/
  | vtab (d : VReg) (a : VReg) (y : Fin 4) (k : KReg) (t : VTy)
  /-- KAND (R258). -/
  | kand (d : KReg) (a : KReg) (b : KReg)
  /-- KOR (R258). -/
  | kor (d : KReg) (a : KReg) (b : KReg)
  /-- KXOR (R258). -/
  | kxor (d : KReg) (a : KReg) (b : KReg)
  /-- KNOT (R258). -/
  | knot (d : KReg) (a : KReg)
  /-- KPOP (R258). -/
  | kpop (d : GReg) (a : KReg)
  /-- KSET (R258). -/
  | kset (d : KReg) (a : GReg)
  /-- KGET (R258). -/
  | kget (d : GReg) (a : KReg)
  /-- OCLAIM (R265). -/
  | oclaim (a : GReg) (c : GReg)
  /-- ORELEASE (R266). -/
  | orelease (a : GReg)
  /-- OPPUT (R267). -/
  | opput (a : GReg) (b : GReg)
  /-- MMA (R269). -/
  | mma (a : GReg) (b : GReg) (c : GReg) (w : Bool) (f : MmaFmt)
  /-- ACCZERO (R273). -/
  | acczero (a : GReg)
  /-- ACCRD (R274). -/
  | accrd (a : GReg) (b : GReg) (c : GReg) (w : Bool) (f : AccFmt)
  /-- ACCSAT (R275). -/
  | accsat (a : GReg) (c : GReg)
  /-- ACCGET (R276). -/
  | accget (a : GReg) (b : GReg) (c : GReg)
  /-- ACCADD (R276). -/
  | accadd (a : GReg) (b : GReg) (c : GReg)
  /-- XCOPY (R278). -/
  | xcopy (a : GReg) (b : GReg) (c : GReg)
  /-- XCOPYSP (R281). -/
  | xcopysp (a : GReg) (b : GReg) (c : GReg)
  /-- XWAIT (R286). -/
  | xwait (n : BitVec 3)
  /-- HREAD (R291). -/
  | hread (a : GReg)
  /-- HCANCEL (R292). -/
  | hcancel (a : GReg)
  /-- CJOIN (R314). -/
  | cjoin (a : GReg)
  /-- CBR_ANY (R315). -/
  | cbrAny (a : GReg) (k : BReg)
  /-- CBR_ALL (R315). -/
  | cbrAll (a : GReg) (k : BReg)
  /-- CSTATE (R325). -/
  | cstate (d : GReg)
  /-- TSTOP (R365). -/
  | tstop (a : GReg)
  /-- TSTOP_H (R35). -/
  | tstopH (a : GReg)
  /-- TSTART (R362). -/
  | tstart (a : GReg)
  /-- TREAD (R365). -/
  | tread (a : GReg) (b : GReg) (c : GReg)
  /-- TWRITE (R365). -/
  | twrite (a : GReg) (b : GReg) (c : GReg)
  /-- TSTATE (R366). -/
  | tstate (a : GReg) (c : GReg)
  /-- TSAVE (R370). -/
  | tsave (a : GReg) (b : GReg)
  /-- TRESTORE (R372). -/
  | trestore (a : GReg) (b : GReg)
  /-- TLBINV (R391). -/
  | tlbinv (a : GReg) (b : GReg)
  /-- PGLOCK (R392). -/
  | pglock (a : GReg)
  /-- PGSWITCH (R393). -/
  | pgswitch (a : GReg) (b : GReg)
  /-- CLWB (R395). -/
  | clwb (a : GReg)
  /-- CLINV (R396). -/
  | clinv (a : GReg)
  /-- PFX_IMM (R170). -/
  | pfxImm (p : BitVec 24)
  /-- PFX_MOD (R171). -/
  | pfxMod (p : BitVec 24)
  /-- PFX_HINT (R172). -/
  | pfxHint (p : BitVec 24)
  /-- YIELD (R34). -/
  | yieldT
  /-- ROAM (R60). -/
  | roam
  /-- ANCHOR (R64). -/
  | anchor
  /-- FLUSHF (R159). -/
  | flushf
  /-- NOP (R207). -/
  | nop
  /-- FENCE_ACQ (R225). -/
  | fenceAcq
  /-- FENCE_REL (R225). -/
  | fenceRel
  /-- FENCE_FULL (R225). -/
  | fenceFull
  /-- RWAIT (R225). -/
  | rwait
  /-- XCOMMIT (R285). -/
  | xcommit
  /-- CLEAVE (R316). -/
  | cleave
  /-- LOOP_BACK (R191). -/
  | loopBack
  /-- ILLEGAL_WORD (R167). -/
  | illegalWord
  /-- BREAKPOINT_MATCH (R430). -/
  | breakpointMatch
  /-- ROTATION_BOUNDARY (R32). -/
  | rotationBoundary
  /-- QUANTUM_EXPIRY (R34). -/
  | quantumExpiry
  /-- AGING_PROMOTION (R33). -/
  | agingPromotion
  /-- SPILL_EVICTION (R59). -/
  | spillEviction
  /-- SPILL_MOVE_DONE (R367). -/
  | spillMoveDone
  /-- WATCH_FIRE (R92). -/
  | watchFire
  /-- SLEEP_TIMEOUT (R229). -/
  | sleepTimeout
  /-- TIMER_RECORD (R232). -/
  | timerRecord
  /-- STORE_GATHER_POST (R140). -/
  | storeGatherPost
  /-- ICACHE_FILL (R71). -/
  | icacheFill
  /-- TLB_WALK_DONE (R380). -/
  | tlbWalkDone
  /-- LOAD (R403). -/
  | load
  /-- STORE (R140). -/
  | store
  /-- ATOMIC (R86). -/
  | atomic
  /-- REDUCE (R86). -/
  | reduce
  /-- RECALL (R144). -/
  | recall
  /-- MIGRATE (R61). -/
  | migrate
  /-- CALL (R201). -/
  | call
  /-- THREADOP (R365). -/
  | threadop
  /-- CONTROL_CANCEL (R48). -/
  | controlCancel
  /-- CONTROL_TLBINV (R391). -/
  | controlTlbinv
  /-- TICKET (R98). -/
  | ticket
  /-- TICKET_CALL_NOTICE (R408). -/
  | ticketCallNotice
  /-- TICKET_EXPIRY (R98). -/
  | ticketExpiry
  /-- BULK (R403). -/
  | bulk
  /-- SIDEBAND (R412). -/
  | sideband
  /-- SIDEBAND_TIMEOUT (R412). -/
  | sidebandTimeout
  /-- DATA (R31). -/
  | data
  /-- ACK (R213). -/
  | ack
  /-- NACK (R406). -/
  | nack
  /-- TRANSPORT_TIMEOUT (R406). -/
  | transportTimeout
  /-- DEDUP_RETRY_TIMER (R409). -/
  | dedupRetryTimer
  /-- DEDUP_WINDOW_IDLE (R409). -/
  | dedupWindowIdle
  /-- LINK_UP (R399). -/
  | linkUp
  /-- LANE_CHANGE (R405). -/
  | laneChange
  /-- LINK_RETIRE (R406). -/
  | linkRetire
  /-- VOTE (R317). -/
  | vote
  /-- SUMMARY (R317). -/
  | summary
  /-- VERDICT (R317). -/
  | verdict
  /-- ABORT_REQUEST (R323). -/
  | abortRequest
  /-- COLL_JOIN_REQUEST (R314). -/
  | collJoinRequest
  /-- COLL_LEAVE_REQUEST (R316). -/
  | collLeaveRequest
  /-- DEADLINE_EXPIRY (R323). -/
  | deadlineExpiry
  /-- VERDICT_APPLY (R321). -/
  | verdictApply
  /-- HELD_STORE_COMMIT (R321). -/
  | heldStoreCommit
  /-- WAVE_CREATE (R44). -/
  | waveCreate
  /-- WAVE_END (R40). -/
  | waveEnd
  /-- JOB_COMPLETION (R47). -/
  | jobCompletion
  /-- ENGINE_ACCEPT (R260). -/
  | engineAccept
  /-- MMA_COMPLETE (R262). -/
  | mmaComplete
  /-- NAN_STOP (R130). -/
  | nanStop
  /-- ACCZERO_DONE (R273). -/
  | acczeroDone
  /-- ACCRD_COMPLETE (R274). -/
  | accrdComplete
  /-- ACCSAT_COMPLETE (R275). -/
  | accsatComplete
  /-- ACCGET_COMPLETE (R276). -/
  | accgetComplete
  /-- ACCADD_COMPLETE (R276). -/
  | accaddComplete
  /-- COPY_ACCEPT (R279). -/
  | copyAccept
  /-- COPY_DELIVERY (R279). -/
  | copyDelivery
  /-- COPY_ARRIVAL (R279). -/
  | copyArrival
  /-- VTLOAD_REPLACE (R255). -/
  | vtloadReplace
  /-- RESERVATION_GRANT (R293). -/
  | reservationGrant
  /-- BURST_REQUEST (R296). -/
  | burstRequest
  /-- BURST_ARRIVAL (R298). -/
  | burstArrival
  /-- HREAD_COMPLETE (R301). -/
  | hreadComplete
  /-- STOP_COMPLETE (R360). -/
  | stopComplete
  /-- FAULT_RECORD (R355). -/
  | faultRecord
  /-- CORE_LOST (R426). -/
  | coreLost
  /-- SPARE_REPLACE (R425). -/
  | spareReplace
  /-- UNCORRECTABLE_ERROR (R427). -/
  | uncorrectableError
  /-- SCRUB (R427). -/
  | scrub
  /-- SAVE_DRAINED (R370). -/
  | saveDrained
  /-- SAVE_COMPLETE (R370). -/
  | saveComplete
  /-- RESTORE_COMPLETE (R372). -/
  | restoreComplete
  /-- DISCARD_COMPLETE (R372). -/
  | discardComplete
  /-- RESET_DROP_WINDOW (R373). -/
  | resetDropWindow
  /-- TILE_ASSIGN_DONE (R388). -/
  | tileAssignDone
  /-- KEY_SLOT_WRITE (R384). -/
  | keySlotWrite
  /-- JOB_ENTRY_WRITE (R383). -/
  | jobEntryWrite
  /-- TILE_ASSIGN_WRITE (R388). -/
  | tileAssignWrite
  /-- QUANTUM_WRITE (R429). -/
  | quantumWrite
  /-- ADMCAP_WRITE (R429). -/
  | admcapWrite
  /-- BKPT_WRITE (R430). -/
  | bkptWrite
  /-- PKG_WRITE (R398). -/
  | pkgWrite
  /-- STARTOK_WRITE (R419). -/
  | startokWrite
  /-- RESETGO_WRITE (R424). -/
  | resetgoWrite
  /-- QUOTE_WRITE (R418). -/
  | quoteWrite
  /-- QUOTE_DONE (R418). -/
  | quoteDone
  /-- MREXT_WRITE (R417). -/
  | mrextWrite
  /-- SAMPLE_WRITE (R428). -/
  | sampleWrite
  /-- SAMPLE_PULSE (R428). -/
  | samplePulse
  /-- REGISTER_WRITE (R85). -/
  | registerWrite
  /-- POWER_GOOD (R414). -/
  | powerGood
  /-- STARTOK_TIMEOUT (R419). -/
  | startokTimeout
  /-- MGMT_RESET (R424). -/
  | mgmtReset
  /-- MGMT_READ_FAILREC (R423). -/
  | mgmtReadFailrec
  /-- MGMT_FLASH_WRITE (R423). -/
  | mgmtFlashWrite
  /-- RESET_DEADLINE (R424). -/
  | resetDeadline
  /-- HEARTBEAT (R422). -/
  | heartbeat
  /-- HEARTBEAT_TIMER (R422). -/
  | heartbeatTimer
  /-- LEADER_TIMEOUT (R422). -/
  | leaderTimeout
  /-- OVERTEMP_ALERT (R430). -/
  | overtempAlert
  /-- OVERTEMP_SHUTDOWN (R430). -/
  | overtempShutdown
  /-- WATCH_REGISTRATION (R227). -/
  | watchRegistration
  /-- OPERAND_SLOT_CLEARED (R265). -/
  | operandSlotCleared
  /-- KEY_SLOT_WRITEBACK_DONE (R384). -/
  | keySlotWritebackDone
  /-- INGRESS_DROP (R397). -/
  | ingressDrop
  /-- LINK_LEVEL_RETRY (R399). -/
  | linkLevelRetry
deriving DecidableEq, Repr

end Sys2Proof
end

