-- ==== Sys2Proof/WellFormed.lean ====
section
/-!
DEFINITION. Well-formed instructions: the range and type limits of R165, R166 and R167 that the constructors' own types leave open.
-/

namespace Sys2Proof

/-- Width of a lane in bits (R156, R166). -/
def VTy.width : VTy → Nat
  | .f64 => 64 | .f32 => 32 | .bf16 => 16 | .f16 => 16
  | .i8 => 8 | .i16 => 16 | .i32 => 32 | .i64 => 64
  | .n8 => 8 | .n16 => 16 | .n32 => 32 | .n64 => 64

/-- Number of lanes of a vector register read as this type (R156). -/
def VTy.lanes (t : VTy) : Nat := 512 / t.width

/-- The IEEE types, codes 0 to 3 (R166). -/
def VTy.isFloat : VTy → Bool
  | .f64 | .f32 | .bf16 | .f16 => true
  | .i8 | .i16 | .i32 | .i64 | .n8 | .n16 | .n32 | .n64 => false

/-- The types that VABS and VNEG accept, codes 0 to 7 (R166). -/
def VTy.isSigned : VTy → Bool
  | .n8 | .n16 | .n32 | .n64 => false
  | .f64 | .f32 | .bf16 | .f16 | .i8 | .i16 | .i32 | .i64 => true

/-- The destination types of VTAB, codes 1 to 3 (R166). -/
def VTy.isTableDest : VTy → Bool
  | .f32 | .bf16 | .f16 => true
  | .f64 | .i8 | .i16 | .i32 | .i64 | .n8 | .n16 | .n32 | .n64 => false

/-- The limits of R165 and R166 on an instruction: a shift of a .w form below 32, a body length, a WATCH mask, a lane or slide amount below
the lane count, an element type that the operation accepts.  `srset` of FLAGS from g0 is `flushf` (R159), and `end` without a counter
names no register (R165). -/
def Instr.wellFormed : Instr → Bool
  | .add _ _ _ _ => true
  | .sub _ _ _ _ => true
  | .andg _ _ _ => true
  | .org _ _ _ => true
  | .xorg _ _ _ => true
  | .andn _ _ _ => true
  | .orn _ _ _ => true
  | .sll _ _ _ _ => true
  | .srl _ _ _ _ => true
  | .sra _ _ _ _ => true
  | .rol _ _ _ _ => true
  | .mul _ _ _ _ => true
  | .mulh _ _ _ _ => true
  | .mulhu _ _ _ _ => true
  | .div _ _ _ _ => true
  | .divu _ _ _ _ => true
  | .rem _ _ _ _ => true
  | .remu _ _ _ _ => true
  | .min _ _ _ => true
  | .max _ _ _ => true
  | .minu _ _ _ => true
  | .maxu _ _ _ => true
  | .slt _ _ _ => true
  | .sltu _ _ _ => true
  | .seq _ _ _ => true
  | .sne _ _ _ => true
  | .cmovz _ _ _ => true
  | .cmovnz _ _ _ => true
  | .clz _ _ => true
  | .ctz _ _ => true
  | .popc _ _ => true
  | .bswap _ _ => true
  | .lea _ _ _ _ => true
  | .addi _ _ _ => true
  | .andi _ _ _ => true
  | .ori _ _ _ => true
  | .xori _ _ _ => true
  | .slti _ _ _ => true
  | .slli _ _ w n => !w || n.ult 32
  | .srli _ _ w n => !w || n.ult 32
  | .srai _ _ w n => !w || n.ult 32
  | .roli _ _ w n => !w || n.ult 32
  | .movi _ _ => true
  | .movhi _ _ => true
  | .addpc _ _ => true
  | .bcEqz _ _ => true
  | .bcNez _ _ => true
  | .bcLtz _ _ => true
  | .bcGez _ _ => true
  | .bcGtz _ _ => true
  | .bcLez _ _ => true
  | .jl _ _ => true
  | .prep _ _ => true
  | .jr _ => true
  | .jlr _ _ => true
  | .jb _ => true
  | .jbl _ _ => true
  | .bcb _ _ _ => true
  | .prepr _ _ => true
  | .loop _ n => n != 0
  | .loopi _ n => n != 0
  | .spawn _ _ => true
  | .spawnn _ _ _ => true
  | .fork _ => true
  | .join _ => true
  | .callat _ _ _ => true
  | .reply _ _ => true
  | .endT a e => e || a == 0
  | .gohome _ => true
  | .launch _ => true
  | .cancel _ => true
  | .srd _ _ => true
  | .swr _ _ => true
  | .srset a n => !(a == 0 && n == 3)
  | .srclr _ _ => true
  | .ldB _ _ _ => true
  | .ldBn _ _ _ => true
  | .ldH _ _ _ => true
  | .ldHn _ _ _ => true
  | .ldW _ _ _ => true
  | .ldWn _ _ _ => true
  | .ldD _ _ _ => true
  | .stB _ _ _ => true
  | .stH _ _ _ => true
  | .stW _ _ _ => true
  | .stD _ _ _ => true
  | .ldxB _ _ _ _ => true
  | .ldxBn _ _ _ _ => true
  | .ldxH _ _ _ _ => true
  | .ldxHn _ _ _ _ => true
  | .ldxW _ _ _ _ => true
  | .ldxWn _ _ _ _ => true
  | .ldxD _ _ _ _ => true
  | .stxB _ _ _ _ => true
  | .stxH _ _ _ _ => true
  | .stxW _ _ _ _ => true
  | .stxD _ _ _ _ => true
  | .ldAcqW _ _ _ _ => true
  | .ldAcqWn _ _ _ _ => true
  | .ldAcqD _ _ _ _ => true
  | .stRelW _ _ _ _ => true
  | .stRelD _ _ _ _ => true
  | .vld _ _ _ _ => true
  | .vst _ _ _ _ => true
  | .vlds _ _ _ _ _ => true
  | .vsts _ _ _ _ _ => true
  | .vgather _ _ _ _ _ => true
  | .vscatter _ _ _ _ _ => true
  | .vbcld _ _ _ _ => true
  | .amoAdd _ _ _ _ _ => true
  | .amoAnd _ _ _ _ _ => true
  | .amoOr _ _ _ _ _ => true
  | .amoXor _ _ _ _ _ => true
  | .amoMin _ _ _ _ _ => true
  | .amoMax _ _ _ _ _ => true
  | .amoMinu _ _ _ _ _ => true
  | .amoMaxu _ _ _ _ _ => true
  | .amoSwap _ _ _ _ _ => true
  | .amoCas _ _ _ _ _ => true
  | .amoFadd _ _ _ _ _ => true
  | .amoFmin _ _ _ _ _ => true
  | .amoFmax _ _ _ _ _ => true
  | .redAdd _ _ _ _ => true
  | .redAnd _ _ _ _ => true
  | .redOr _ _ _ _ => true
  | .redXor _ _ _ _ => true
  | .redMin _ _ _ _ => true
  | .redMax _ _ _ _ => true
  | .redMinu _ _ _ _ => true
  | .redMaxu _ _ _ _ => true
  | .redFadd _ _ _ _ => true
  | .redFmin _ _ _ _ => true
  | .redFmax _ _ _ _ => true
  | .watch _ _ m => m != 0
  | .unwatch _ => true
  | .sleep _ => true
  | .wfired _ => true
  | .tmarm _ _ => true
  | .tbinit _ _ => true
  | .tbexpect _ _ => true
  | .tbarrive _ => true
  | .tbwait _ _ => true
  | .mbadd _ _ => true
  | .mbrd _ _ => true
  | .mbwait _ _ => true
  | .tktake _ _ => true
  | .tkwait _ _ => true
  | .vadd _ _ _ _ _ => true
  | .vsub _ _ _ _ _ => true
  | .vmul _ _ _ _ _ => true
  | .vfma _ _ _ _ t => t.isFloat
  | .vfnma _ _ _ _ t => t.isFloat
  | .vmin _ _ _ _ _ => true
  | .vmax _ _ _ _ _ => true
  | .vabs _ _ _ t => t.isSigned
  | .vneg _ _ _ t => t.isSigned
  | .vdiv _ _ _ _ t => t.isFloat
  | .vsqrt _ _ _ t => t.isFloat
  | .vand _ _ _ _ t => !t.isFloat
  | .vor _ _ _ _ t => !t.isFloat
  | .vxor _ _ _ _ t => !t.isFloat
  | .vnot _ _ _ t => !t.isFloat
  | .vshl _ _ _ _ t => !t.isFloat
  | .vshr _ _ _ _ t => !t.isFloat
  | .vshra _ _ _ _ t => !t.isFloat
  | .vcmpEq _ _ _ _ _ => true
  | .vcmpNe _ _ _ _ _ => true
  | .vcmpLt _ _ _ _ _ => true
  | .vcmpLe _ _ _ _ _ => true
  | .vcmpGt _ _ _ _ _ => true
  | .vcmpGe _ _ _ _ _ => true
  | .vsel _ _ _ _ _ => true
  | .vbcast _ _ _ _ => true
  | .vins _ _ l t => decide (l.toNat < t.lanes)
  | .vext _ _ l t => decide (l.toNat < t.lanes)
  | .vperm _ _ _ _ _ => true
  | .vslideUp _ _ n t => decide (n.toNat < t.lanes)
  | .vslideDown _ _ n t => decide (n.toNat < t.lanes)
  | .vmov _ _ _ => true
  | .vrsum _ _ _ _ => true
  | .vrmax _ _ _ _ => true
  | .vrmin _ _ _ _ => true
  | .vcvtF64F32 _ _ _ => true
  | .vcvtF32F64 _ _ _ => true
  | .vcvtF32Bf16 _ _ _ => true
  | .vcvtBf16F32 _ _ _ => true
  | .vcvtF32F16 _ _ _ => true
  | .vcvtF16F32 _ _ _ => true
  | .vcvtF32I32 _ _ _ => true
  | .vcvtI32F32 _ _ _ => true
  | .vcvtF64I64 _ _ _ => true
  | .vcvtI64F64 _ _ _ => true
  | .vcvtBf16Lns8 _ _ _ => true
  | .vcvtLns8Bf16 _ _ _ => true
  | .vcvtBf16Lns6 _ _ _ => true
  | .vcvtLns6Bf16 _ _ _ => true
  | .vtload _ _ => true
  | .vtab _ _ _ _ t => t.isTableDest
  | .kand _ _ _ => true
  | .kor _ _ _ => true
  | .kxor _ _ _ => true
  | .knot _ _ => true
  | .kpop _ _ => true
  | .kset _ _ => true
  | .kget _ _ => true
  | .oclaim _ _ => true
  | .orelease _ => true
  | .opput _ _ => true
  | .mma _ _ _ _ _ => true
  | .acczero _ => true
  | .accrd _ _ _ _ _ => true
  | .accsat _ _ => true
  | .accget _ _ _ => true
  | .accadd _ _ _ => true
  | .xcopy _ _ _ => true
  | .xcopysp _ _ _ => true
  | .xwait _ => true
  | .hread _ => true
  | .hcancel _ => true
  | .cjoin _ => true
  | .cbrAny _ _ => true
  | .cbrAll _ _ => true
  | .cstate _ => true
  | .tstop _ => true
  | .tstopH _ => true
  | .tstart _ => true
  | .tread _ _ _ => true
  | .twrite _ _ _ => true
  | .tstate _ _ => true
  | .tsave _ _ => true
  | .trestore _ _ => true
  | .tlbinv _ _ => true
  | .pglock _ => true
  | .pgswitch _ _ => true
  | .clwb _ => true
  | .clinv _ => true
  | .pfxImm _ => true
  | .pfxMod _ => true
  | .pfxHint _ => true
  | .yieldT => true
  | .roam => true
  | .anchor => true
  | .flushf => true
  | .nop => true
  | .fenceAcq => true
  | .fenceRel => true
  | .fenceFull => true
  | .rwait => true
  | .xcommit => true
  | .cleave => true
  | .loopBack => true
  | .illegalWord => true
  | .breakpointMatch => true
  | .rotationBoundary => true
  | .quantumExpiry => true
  | .agingPromotion => true
  | .spillEviction => true
  | .spillMoveDone => true
  | .watchFire => true
  | .sleepTimeout => true
  | .timerRecord => true
  | .storeGatherPost => true
  | .icacheFill => true
  | .tlbWalkDone => true
  | .load => true
  | .store => true
  | .atomic => true
  | .reduce => true
  | .recall => true
  | .migrate => true
  | .call => true
  | .threadop => true
  | .controlCancel => true
  | .controlTlbinv => true
  | .ticket => true
  | .ticketCallNotice => true
  | .ticketExpiry => true
  | .bulk => true
  | .sideband => true
  | .sidebandTimeout => true
  | .data => true
  | .ack => true
  | .nack => true
  | .transportTimeout => true
  | .dedupRetryTimer => true
  | .dedupWindowIdle => true
  | .linkUp => true
  | .laneChange => true
  | .linkRetire => true
  | .vote => true
  | .summary => true
  | .verdict => true
  | .abortRequest => true
  | .collJoinRequest => true
  | .collLeaveRequest => true
  | .deadlineExpiry => true
  | .verdictApply => true
  | .heldStoreCommit => true
  | .waveCreate => true
  | .waveEnd => true
  | .jobCompletion => true
  | .engineAccept => true
  | .mmaComplete => true
  | .nanStop => true
  | .acczeroDone => true
  | .accrdComplete => true
  | .accsatComplete => true
  | .accgetComplete => true
  | .accaddComplete => true
  | .copyAccept => true
  | .copyDelivery => true
  | .copyArrival => true
  | .vtloadReplace => true
  | .reservationGrant => true
  | .burstRequest => true
  | .burstArrival => true
  | .hreadComplete => true
  | .stopComplete => true
  | .faultRecord => true
  | .coreLost => true
  | .spareReplace => true
  | .uncorrectableError => true
  | .scrub => true
  | .saveDrained => true
  | .saveComplete => true
  | .restoreComplete => true
  | .discardComplete => true
  | .resetDropWindow => true
  | .tileAssignDone => true
  | .keySlotWrite => true
  | .jobEntryWrite => true
  | .tileAssignWrite => true
  | .quantumWrite => true
  | .admcapWrite => true
  | .bkptWrite => true
  | .pkgWrite => true
  | .startokWrite => true
  | .resetgoWrite => true
  | .quoteWrite => true
  | .quoteDone => true
  | .mrextWrite => true
  | .sampleWrite => true
  | .samplePulse => true
  | .registerWrite => true
  | .powerGood => true
  | .startokTimeout => true
  | .mgmtReset => true
  | .mgmtReadFailrec => true
  | .mgmtFlashWrite => true
  | .resetDeadline => true
  | .heartbeat => true
  | .heartbeatTimer => true
  | .leaderTimeout => true
  | .overtempAlert => true
  | .overtempShutdown => true
  | .watchRegistration => true
  | .operandSlotCleared => true
  | .keySlotWritebackDone => true
  | .ingressDrop => true
  | .linkLevelRetry => true

end Sys2Proof
end

