-- ==== Sys2Proof/Decode.lean ====
section
/-!
DEFINITION. The decoder and the encoder, both written from R155 and R162 to R167.  A word that names no instruction is rejected by the name
of the case of R167 that holds.
-/

namespace Sys2Proof

/-- The four cases of R167, and a list of bytes too short to hold a word (R162). -/
inductive Reject where
  | reservedMajor
  | unassigned
  | mustBeZero
  | limits
  | short
deriving DecidableEq, Repr

/-- What the decoder answers. -/
inductive Decoded where
  | ok (i : Instr)
  | reject (r : Reject)
deriving DecidableEq, Repr

/-- Bits [lo + n - 1 : lo] of a word. -/
def fld (w : Word) (lo n : Nat) : BitVec n := w.extractLsb' lo n

/-- The answer for an instruction, tested against the limits of R165 and R166. -/
def accept (i : Instr) : Decoded := if i.wellFormed then .ok i else .reject .limits

/-- The answer where a field must hold a code that the map assigns. -/
def ofOption {α : Type} (c : Option α) (f : α → Instr) : Decoded :=
  match c with
  | some a => accept (f a)
  | none => .reject .limits

/-- The answer where must-be-zero bits are tested first (R155, R165). -/
def mbz (zero : Bool) (d : Decoded) : Decoded := if zero then d else .reject .mustBeZero

/-- The element type of a code; codes 12 to 15 are unassigned (R166). -/
def VTy.ofCode (c : BitVec 4) : Option VTy :=
  match c.toNat with
  | 0 => some .f64 | 1 => some .f32 | 2 => some .bf16 | 3 => some .f16
  | 4 => some .i8 | 5 => some .i16 | 6 => some .i32 | 7 => some .i64
  | 8 => some .n8 | 9 => some .n16 | 10 => some .n32 | 11 => some .n64
  | _ => none

/-- The code of an element type (R166). -/
def VTy.code : VTy → BitVec 4
  | .f64 => 0 | .f32 => 1 | .bf16 => 2 | .f16 => 3
  | .i8 => 4 | .i16 => 5 | .i32 => 6 | .i64 => 7
  | .n8 => 8 | .n16 => 9 | .n32 => 10 | .n64 => 11

/-- The element size of a code of E (R165). -/
def ESize.ofCode (c : BitVec 2) : ESize :=
  match c.toNat with
  | 0 => .b | 1 => .h | 2 => .w | _ => .d

/-- The code of an element size. -/
def ESize.code : ESize → BitVec 2
  | .b => 0 | .h => 1 | .w => 2 | .d => 3

/-- The ordering of a code (R165). -/
def Order.ofCode (c : BitVec 2) : Order :=
  match c.toNat with
  | 0 => .rlx | 1 => .acq | 2 => .rel | _ => .ar

/-- The code of an ordering. -/
def Order.code : Order → BitVec 2
  | .rlx => 0 | .acq => 1 | .rel => 2 | .ar => 3

/-- The condition of a code of BCB; codes above 5 are refused (R167). -/
def Cond.ofCode (c : BitVec 5) : Option Cond :=
  match c.toNat with
  | 0 => some .eqz | 1 => some .nez | 2 => some .ltz | 3 => some .gez | 4 => some .gtz | 5 => some .lez
  | _ => none

/-- The code of a condition. -/
def Cond.code : Cond → BitVec 5
  | .eqz => 0 | .nez => 1 | .ltz => 2 | .gez => 3 | .gtz => 4 | .lez => 5

/-- The input format of a value of F (R165). -/
def MmaFmt.ofCode (c : BitVec 4) : Option MmaFmt :=
  match c.toNat with
  | 0 => some .fp64 | 1 => some .fp32 | 2 => some .bf16 | 3 => some .fp16 | 4 => some .tag
  | _ => none

/-- The value of F of an input format. -/
def MmaFmt.code : MmaFmt → BitVec 4
  | .fp64 => 0 | .fp32 => 1 | .bf16 => 2 | .fp16 => 3 | .tag => 4

/-- The output format of a value of F (R165). -/
def AccFmt.ofCode (c : BitVec 4) : Option AccFmt :=
  match c.toNat with
  | 0 => some .fp64 | 1 => some .fp32 | 2 => some .bf16 | 3 => some .fp16 | 4 => some .i32
  | _ => none

/-- The value of F of an output format. -/
def AccFmt.code : AccFmt → BitVec 4
  | .fp64 => 0 | .fp32 => 1 | .bf16 => 2 | .fp16 => 3 | .i32 => 4

/-- Major 0x01 (R164): ADD, SUB, AND, OR, XOR, ANDN, ORN, SLL, SRL, SRA, ROL, MUL, MULH, MULHU, DIV, DIVU, REM, REMU, MIN, MAX, MINU, MAXU, SLT, SLTU, SEQ, SNE, CMOVZ, CMOVNZ, CLZ, CTZ, POPC, BSWAP, LEA. -/
def decodeMajor01 (w : Word) : Decoded :=
  match (fld w 0 6).toNat with
  | 0 => mbz (fld w 7 4 == 0) (accept (.add (fld w 21 5).toFin (fld w 16 5).toFin (fld w 11 5).toFin (fld w 6 1 == 1)))
  | 1 => mbz (fld w 7 4 == 0) (accept (.sub (fld w 21 5).toFin (fld w 16 5).toFin (fld w 11 5).toFin (fld w 6 1 == 1)))
  | 2 => mbz (fld w 6 5 == 0) (accept (.andg (fld w 21 5).toFin (fld w 16 5).toFin (fld w 11 5).toFin))
  | 3 => mbz (fld w 6 5 == 0) (accept (.org (fld w 21 5).toFin (fld w 16 5).toFin (fld w 11 5).toFin))
  | 4 => mbz (fld w 6 5 == 0) (accept (.xorg (fld w 21 5).toFin (fld w 16 5).toFin (fld w 11 5).toFin))
  | 5 => mbz (fld w 6 5 == 0) (accept (.andn (fld w 21 5).toFin (fld w 16 5).toFin (fld w 11 5).toFin))
  | 6 => mbz (fld w 6 5 == 0) (accept (.orn (fld w 21 5).toFin (fld w 16 5).toFin (fld w 11 5).toFin))
  | 7 => mbz (fld w 7 4 == 0) (accept (.sll (fld w 21 5).toFin (fld w 16 5).toFin (fld w 11 5).toFin (fld w 6 1 == 1)))
  | 8 => mbz (fld w 7 4 == 0) (accept (.srl (fld w 21 5).toFin (fld w 16 5).toFin (fld w 11 5).toFin (fld w 6 1 == 1)))
  | 9 => mbz (fld w 7 4 == 0) (accept (.sra (fld w 21 5).toFin (fld w 16 5).toFin (fld w 11 5).toFin (fld w 6 1 == 1)))
  | 10 => mbz (fld w 7 4 == 0) (accept (.rol (fld w 21 5).toFin (fld w 16 5).toFin (fld w 11 5).toFin (fld w 6 1 == 1)))
  | 11 => mbz (fld w 7 4 == 0) (accept (.mul (fld w 21 5).toFin (fld w 16 5).toFin (fld w 11 5).toFin (fld w 6 1 == 1)))
  | 12 => mbz (fld w 7 4 == 0) (accept (.mulh (fld w 21 5).toFin (fld w 16 5).toFin (fld w 11 5).toFin (fld w 6 1 == 1)))
  | 13 => mbz (fld w 7 4 == 0) (accept (.mulhu (fld w 21 5).toFin (fld w 16 5).toFin (fld w 11 5).toFin (fld w 6 1 == 1)))
  | 14 => mbz (fld w 7 4 == 0) (accept (.div (fld w 21 5).toFin (fld w 16 5).toFin (fld w 11 5).toFin (fld w 6 1 == 1)))
  | 15 => mbz (fld w 7 4 == 0) (accept (.divu (fld w 21 5).toFin (fld w 16 5).toFin (fld w 11 5).toFin (fld w 6 1 == 1)))
  | 16 => mbz (fld w 7 4 == 0) (accept (.rem (fld w 21 5).toFin (fld w 16 5).toFin (fld w 11 5).toFin (fld w 6 1 == 1)))
  | 17 => mbz (fld w 7 4 == 0) (accept (.remu (fld w 21 5).toFin (fld w 16 5).toFin (fld w 11 5).toFin (fld w 6 1 == 1)))
  | 18 => mbz (fld w 6 5 == 0) (accept (.min (fld w 21 5).toFin (fld w 16 5).toFin (fld w 11 5).toFin))
  | 19 => mbz (fld w 6 5 == 0) (accept (.max (fld w 21 5).toFin (fld w 16 5).toFin (fld w 11 5).toFin))
  | 20 => mbz (fld w 6 5 == 0) (accept (.minu (fld w 21 5).toFin (fld w 16 5).toFin (fld w 11 5).toFin))
  | 21 => mbz (fld w 6 5 == 0) (accept (.maxu (fld w 21 5).toFin (fld w 16 5).toFin (fld w 11 5).toFin))
  | 22 => mbz (fld w 6 5 == 0) (accept (.slt (fld w 21 5).toFin (fld w 16 5).toFin (fld w 11 5).toFin))
  | 23 => mbz (fld w 6 5 == 0) (accept (.sltu (fld w 21 5).toFin (fld w 16 5).toFin (fld w 11 5).toFin))
  | 24 => mbz (fld w 6 5 == 0) (accept (.seq (fld w 21 5).toFin (fld w 16 5).toFin (fld w 11 5).toFin))
  | 25 => mbz (fld w 6 5 == 0) (accept (.sne (fld w 21 5).toFin (fld w 16 5).toFin (fld w 11 5).toFin))
  | 26 => mbz (fld w 6 5 == 0) (accept (.cmovz (fld w 21 5).toFin (fld w 16 5).toFin (fld w 11 5).toFin))
  | 27 => mbz (fld w 6 5 == 0) (accept (.cmovnz (fld w 21 5).toFin (fld w 16 5).toFin (fld w 11 5).toFin))
  | 28 => mbz (fld w 6 10 == 0) (accept (.clz (fld w 21 5).toFin (fld w 16 5).toFin))
  | 29 => mbz (fld w 6 10 == 0) (accept (.ctz (fld w 21 5).toFin (fld w 16 5).toFin))
  | 30 => mbz (fld w 6 10 == 0) (accept (.popc (fld w 21 5).toFin (fld w 16 5).toFin))
  | 31 => mbz (fld w 6 10 == 0) (accept (.bswap (fld w 21 5).toFin (fld w 16 5).toFin))
  | 32 => mbz (fld w 10 1 == 0 && fld w 6 1 == 0) (accept (.lea (fld w 21 5).toFin (fld w 16 5).toFin (fld w 11 5).toFin (fld w 7 3)))
  | _ => .reject .unassigned

/-- Major 0x02 (R164): ADDI. -/
def decodeMajor02 (w : Word) : Decoded :=
  accept (.addi (fld w 21 5).toFin (fld w 16 5).toFin (fld w 0 16))

/-- Major 0x03 (R164): ANDI. -/
def decodeMajor03 (w : Word) : Decoded :=
  accept (.andi (fld w 21 5).toFin (fld w 16 5).toFin (fld w 0 16))

/-- Major 0x04 (R164): ORI. -/
def decodeMajor04 (w : Word) : Decoded :=
  accept (.ori (fld w 21 5).toFin (fld w 16 5).toFin (fld w 0 16))

/-- Major 0x05 (R164): XORI. -/
def decodeMajor05 (w : Word) : Decoded :=
  accept (.xori (fld w 21 5).toFin (fld w 16 5).toFin (fld w 0 16))

/-- Major 0x06 (R164): SLTI. -/
def decodeMajor06 (w : Word) : Decoded :=
  accept (.slti (fld w 21 5).toFin (fld w 16 5).toFin (fld w 0 16))

/-- Major 0x07 (R164): SLLI, SRLI, SRAI, ROLI. -/
def decodeMajor07 (w : Word) : Decoded :=
  match (fld w 7 2).toNat with
  | 0 => mbz (fld w 9 7 == 0) (accept (.slli (fld w 21 5).toFin (fld w 16 5).toFin (fld w 6 1 == 1) (fld w 0 6)))
  | 1 => mbz (fld w 9 7 == 0) (accept (.srli (fld w 21 5).toFin (fld w 16 5).toFin (fld w 6 1 == 1) (fld w 0 6)))
  | 2 => mbz (fld w 9 7 == 0) (accept (.srai (fld w 21 5).toFin (fld w 16 5).toFin (fld w 6 1 == 1) (fld w 0 6)))
  | 3 => mbz (fld w 9 7 == 0) (accept (.roli (fld w 21 5).toFin (fld w 16 5).toFin (fld w 6 1 == 1) (fld w 0 6)))
  | _ => .reject .unassigned

/-- Major 0x08 (R164): MOVI. -/
def decodeMajor08 (w : Word) : Decoded :=
  accept (.movi (fld w 21 5).toFin (fld w 0 21))

/-- Major 0x09 (R164): MOVHI. -/
def decodeMajor09 (w : Word) : Decoded :=
  accept (.movhi (fld w 21 5).toFin (fld w 0 21))

/-- Major 0x0A (R164): ADDPC. -/
def decodeMajor0A (w : Word) : Decoded :=
  accept (.addpc (fld w 21 5).toFin (fld w 0 21))

/-- Major 0x10 (R164): BC_EQZ, BC_NEZ, BC_LTZ, BC_GEZ, BC_GTZ, BC_LEZ. -/
def decodeMajor10 (w : Word) : Decoded :=
  match (fld w 21 5).toNat with
  | 0 => accept (.bcEqz (fld w 16 5).toFin (fld w 0 16))
  | 1 => accept (.bcNez (fld w 16 5).toFin (fld w 0 16))
  | 2 => accept (.bcLtz (fld w 16 5).toFin (fld w 0 16))
  | 3 => accept (.bcGez (fld w 16 5).toFin (fld w 0 16))
  | 4 => accept (.bcGtz (fld w 16 5).toFin (fld w 0 16))
  | 5 => accept (.bcLez (fld w 16 5).toFin (fld w 0 16))
  | _ => .reject .unassigned

/-- Major 0x11 (R164): JL. -/
def decodeMajor11 (w : Word) : Decoded :=
  accept (.jl (fld w 21 5).toFin (fld w 0 21))

/-- Major 0x12 (R164): PREP. -/
def decodeMajor12 (w : Word) : Decoded :=
  mbz (fld w 24 2 == 0) (accept (.prep (fld w 21 3).toFin (fld w 0 21)))

/-- Major 0x13 (R164): JR, JLR, JB, JBL, BCB, PREPR. -/
def decodeMajor13 (w : Word) : Decoded :=
  match (fld w 0 3).toNat with
  | 0 => mbz (fld w 21 5 == 0 && fld w 3 13 == 0) (accept (.jr (fld w 16 5).toFin))
  | 1 => mbz (fld w 3 13 == 0) (accept (.jlr (fld w 21 5).toFin (fld w 16 5).toFin))
  | 2 => mbz (fld w 14 12 == 0 && fld w 3 8 == 0) (accept (.jb (fld w 11 3).toFin))
  | 3 => mbz (fld w 14 7 == 0 && fld w 3 8 == 0) (accept (.jbl (fld w 21 5).toFin (fld w 11 3).toFin))
  | 4 => mbz (fld w 14 2 == 0 && fld w 3 8 == 0) (ofOption (Cond.ofCode (fld w 21 5)) fun c => .bcb c (fld w 16 5).toFin (fld w 11 3).toFin)
  | 5 => mbz (fld w 21 5 == 0 && fld w 14 2 == 0 && fld w 3 8 == 0) (accept (.prepr (fld w 16 5).toFin (fld w 11 3).toFin))
  | _ => .reject .unassigned

/-- Major 0x14 (R164): LOOP. -/
def decodeMajor14 (w : Word) : Decoded :=
  mbz (fld w 21 5 == 0) (accept (.loop (fld w 16 5).toFin (fld w 0 16)))

/-- Major 0x15 (R164): LOOPI. -/
def decodeMajor15 (w : Word) : Decoded :=
  accept (.loopi (fld w 16 10) (fld w 0 16))

/-- Major 0x16 (R164): SPAWN, SPAWNN, FORK, JOIN, CALLAT, REPLY, END, YIELD, ROAM, ANCHOR, GOHOME, LAUNCH, CANCEL. -/
def decodeMajor16 (w : Word) : Decoded :=
  match (fld w 0 4).toNat with
  | 0 => mbz (fld w 14 7 == 0 && fld w 4 7 == 0) (accept (.spawn (fld w 21 5).toFin (fld w 11 3).toFin))
  | 1 => mbz (fld w 14 2 == 0 && fld w 4 7 == 0) (accept (.spawnn (fld w 21 5).toFin (fld w 16 5).toFin (fld w 11 3).toFin))
  | 2 => mbz (fld w 14 12 == 0 && fld w 4 7 == 0) (accept (.fork (fld w 11 3).toFin))
  | 3 => mbz (fld w 21 5 == 0 && fld w 4 12 == 0) (accept (.join (fld w 16 5).toFin))
  | 4 => mbz (fld w 14 2 == 0 && fld w 4 7 == 0) (accept (.callat (fld w 21 5).toFin (fld w 16 5).toFin (fld w 11 3).toFin))
  | 5 => mbz (fld w 21 5 == 0 && fld w 4 7 == 0) (accept (.reply (fld w 16 5).toFin (fld w 11 5).toFin))
  | 6 => mbz (fld w 21 5 == 0 && fld w 5 11 == 0) (accept (.endT (fld w 16 5).toFin (fld w 4 1 == 1)))
  | 7 => mbz (fld w 4 22 == 0) (accept (.yieldT))
  | 8 => mbz (fld w 4 22 == 0) (accept (.roam))
  | 9 => mbz (fld w 4 22 == 0) (accept (.anchor))
  | 10 => mbz (fld w 21 5 == 0 && fld w 4 12 == 0) (accept (.gohome (fld w 16 5).toFin))
  | 11 => mbz (fld w 21 5 == 0 && fld w 4 12 == 0) (accept (.launch (fld w 16 5).toFin))
  | 12 => mbz (fld w 21 5 == 0 && fld w 4 12 == 0) (accept (.cancel (fld w 16 5).toFin))
  | _ => .reject .unassigned

/-- Major 0x17 (R164): SRD, SWR, SRSET, FLUSHF, SRCLR, NOP. -/
def decodeMajor17 (w : Word) : Decoded :=
  match (fld w 13 3).toNat with
  | 0 => mbz (fld w 16 5 == 0 && fld w 10 3 == 0) (accept (.srd (fld w 21 5).toFin (fld w 0 10)))
  | 1 => mbz (fld w 21 5 == 0 && fld w 10 3 == 0) (accept (.swr (fld w 16 5).toFin (fld w 0 10)))
  | 2 => if w == 0x5C004003 then accept .flushf else mbz (fld w 21 5 == 0 && fld w 10 3 == 0) (accept (.srset (fld w 16 5).toFin (fld w 0 10)))
  | 3 => mbz (fld w 21 5 == 0 && fld w 10 3 == 0) (accept (.srclr (fld w 16 5).toFin (fld w 0 10)))
  | 4 => mbz (fld w 16 10 == 0 && fld w 0 13 == 0) (accept (.nop))
  | _ => .reject .unassigned

/-- Major 0x18 (R164): LD_B, LD_BN, LD_H, LD_HN, LD_W, LD_WN, LD_D. -/
def decodeMajor18 (w : Word) : Decoded :=
  match (fld w 13 3).toNat with
  | 0 => accept (.ldB (fld w 21 5).toFin (fld w 16 5).toFin (fld w 0 13))
  | 1 => accept (.ldBn (fld w 21 5).toFin (fld w 16 5).toFin (fld w 0 13))
  | 2 => accept (.ldH (fld w 21 5).toFin (fld w 16 5).toFin (fld w 0 13))
  | 3 => accept (.ldHn (fld w 21 5).toFin (fld w 16 5).toFin (fld w 0 13))
  | 4 => accept (.ldW (fld w 21 5).toFin (fld w 16 5).toFin (fld w 0 13))
  | 5 => accept (.ldWn (fld w 21 5).toFin (fld w 16 5).toFin (fld w 0 13))
  | 6 => accept (.ldD (fld w 21 5).toFin (fld w 16 5).toFin (fld w 0 13))
  | _ => .reject .unassigned

/-- Major 0x19 (R164): ST_B, ST_H, ST_W, ST_D. -/
def decodeMajor19 (w : Word) : Decoded :=
  match (fld w 13 3).toNat with
  | 0 => accept (.stB (fld w 21 5).toFin (fld w 16 5).toFin (fld w 0 13))
  | 1 => accept (.stH (fld w 21 5).toFin (fld w 16 5).toFin (fld w 0 13))
  | 2 => accept (.stW (fld w 21 5).toFin (fld w 16 5).toFin (fld w 0 13))
  | 3 => accept (.stD (fld w 21 5).toFin (fld w 16 5).toFin (fld w 0 13))
  | _ => .reject .unassigned

/-- Major 0x1A (R164): LDX_B, LDX_BN, LDX_H, LDX_HN, LDX_W, LDX_WN, LDX_D, STX_B, STX_H, STX_W, STX_D, LD_ACQ_W, LD_ACQ_WN, LD_ACQ_D, ST_REL_W, ST_REL_D. -/
def decodeMajor1A (w : Word) : Decoded :=
  match (fld w 0 4).toNat with
  | 0 => mbz (fld w 7 4 == 0) (accept (.ldxB (fld w 21 5).toFin (fld w 16 5).toFin (fld w 11 5).toFin (fld w 4 3)))
  | 1 => mbz (fld w 7 4 == 0) (accept (.ldxBn (fld w 21 5).toFin (fld w 16 5).toFin (fld w 11 5).toFin (fld w 4 3)))
  | 2 => mbz (fld w 7 4 == 0) (accept (.ldxH (fld w 21 5).toFin (fld w 16 5).toFin (fld w 11 5).toFin (fld w 4 3)))
  | 3 => mbz (fld w 7 4 == 0) (accept (.ldxHn (fld w 21 5).toFin (fld w 16 5).toFin (fld w 11 5).toFin (fld w 4 3)))
  | 4 => mbz (fld w 7 4 == 0) (accept (.ldxW (fld w 21 5).toFin (fld w 16 5).toFin (fld w 11 5).toFin (fld w 4 3)))
  | 5 => mbz (fld w 7 4 == 0) (accept (.ldxWn (fld w 21 5).toFin (fld w 16 5).toFin (fld w 11 5).toFin (fld w 4 3)))
  | 6 => mbz (fld w 7 4 == 0) (accept (.ldxD (fld w 21 5).toFin (fld w 16 5).toFin (fld w 11 5).toFin (fld w 4 3)))
  | 7 => mbz (fld w 7 4 == 0) (accept (.stxB (fld w 21 5).toFin (fld w 16 5).toFin (fld w 11 5).toFin (fld w 4 3)))
  | 8 => mbz (fld w 7 4 == 0) (accept (.stxH (fld w 21 5).toFin (fld w 16 5).toFin (fld w 11 5).toFin (fld w 4 3)))
  | 9 => mbz (fld w 7 4 == 0) (accept (.stxW (fld w 21 5).toFin (fld w 16 5).toFin (fld w 11 5).toFin (fld w 4 3)))
  | 10 => mbz (fld w 7 4 == 0) (accept (.stxD (fld w 21 5).toFin (fld w 16 5).toFin (fld w 11 5).toFin (fld w 4 3)))
  | 11 => mbz (fld w 7 4 == 0) (accept (.ldAcqW (fld w 21 5).toFin (fld w 16 5).toFin (fld w 11 5).toFin (fld w 4 3)))
  | 12 => mbz (fld w 7 4 == 0) (accept (.ldAcqWn (fld w 21 5).toFin (fld w 16 5).toFin (fld w 11 5).toFin (fld w 4 3)))
  | 13 => mbz (fld w 7 4 == 0) (accept (.ldAcqD (fld w 21 5).toFin (fld w 16 5).toFin (fld w 11 5).toFin (fld w 4 3)))
  | 14 => mbz (fld w 7 4 == 0) (accept (.stRelW (fld w 21 5).toFin (fld w 16 5).toFin (fld w 11 5).toFin (fld w 4 3)))
  | 15 => mbz (fld w 7 4 == 0) (accept (.stRelD (fld w 21 5).toFin (fld w 16 5).toFin (fld w 11 5).toFin (fld w 4 3)))
  | _ => .reject .unassigned

/-- Major 0x1B (R164): VLD, VST, VLDS, VSTS, VGATHER, VSCATTER, VBCLD. -/
def decodeMajor1B (w : Word) : Decoded :=
  match (fld w 0 3).toNat with
  | 0 => mbz (fld w 25 1 == 0 && fld w 6 5 == 0) (accept (.vld (fld w 21 4).toFin (fld w 16 5).toFin (fld w 11 5).toFin (fld w 3 3).toFin))
  | 1 => mbz (fld w 25 1 == 0 && fld w 6 5 == 0) (accept (.vst (fld w 21 4).toFin (fld w 16 5).toFin (fld w 11 5).toFin (fld w 3 3).toFin))
  | 2 => mbz (fld w 25 1 == 0 && fld w 8 3 == 0) (accept (.vlds (fld w 21 4).toFin (fld w 16 5).toFin (fld w 11 5).toFin (ESize.ofCode (fld w 6 2)) (fld w 3 3).toFin))
  | 3 => mbz (fld w 25 1 == 0 && fld w 8 3 == 0) (accept (.vsts (fld w 21 4).toFin (fld w 16 5).toFin (fld w 11 5).toFin (ESize.ofCode (fld w 6 2)) (fld w 3 3).toFin))
  | 4 => mbz (fld w 25 1 == 0 && fld w 15 1 == 0 && fld w 8 3 == 0) (accept (.vgather (fld w 21 4).toFin (fld w 16 5).toFin (fld w 11 4).toFin (ESize.ofCode (fld w 6 2)) (fld w 3 3).toFin))
  | 5 => mbz (fld w 25 1 == 0 && fld w 15 1 == 0 && fld w 8 3 == 0) (accept (.vscatter (fld w 21 4).toFin (fld w 16 5).toFin (fld w 11 4).toFin (ESize.ofCode (fld w 6 2)) (fld w 3 3).toFin))
  | 6 => mbz (fld w 25 1 == 0 && fld w 8 3 == 0 && fld w 3 3 == 0) (accept (.vbcld (fld w 21 4).toFin (fld w 16 5).toFin (fld w 11 5).toFin (ESize.ofCode (fld w 6 2))))
  | _ => .reject .unassigned

/-- Major 0x20 (R164): AMO_ADD, AMO_AND, AMO_OR, AMO_XOR, AMO_MIN, AMO_MAX, AMO_MINU, AMO_MAXU, AMO_SWAP, AMO_CAS, AMO_FADD, AMO_FMIN, AMO_FMAX. -/
def decodeMajor20 (w : Word) : Decoded :=
  match (fld w 0 4).toNat with
  | 0 => mbz (fld w 7 4 == 0) (accept (.amoAdd (fld w 21 5).toFin (fld w 16 5).toFin (fld w 11 5).toFin (Order.ofCode (fld w 5 2)) (fld w 4 1 == 1)))
  | 1 => mbz (fld w 7 4 == 0) (accept (.amoAnd (fld w 21 5).toFin (fld w 16 5).toFin (fld w 11 5).toFin (Order.ofCode (fld w 5 2)) (fld w 4 1 == 1)))
  | 2 => mbz (fld w 7 4 == 0) (accept (.amoOr (fld w 21 5).toFin (fld w 16 5).toFin (fld w 11 5).toFin (Order.ofCode (fld w 5 2)) (fld w 4 1 == 1)))
  | 3 => mbz (fld w 7 4 == 0) (accept (.amoXor (fld w 21 5).toFin (fld w 16 5).toFin (fld w 11 5).toFin (Order.ofCode (fld w 5 2)) (fld w 4 1 == 1)))
  | 4 => mbz (fld w 7 4 == 0) (accept (.amoMin (fld w 21 5).toFin (fld w 16 5).toFin (fld w 11 5).toFin (Order.ofCode (fld w 5 2)) (fld w 4 1 == 1)))
  | 5 => mbz (fld w 7 4 == 0) (accept (.amoMax (fld w 21 5).toFin (fld w 16 5).toFin (fld w 11 5).toFin (Order.ofCode (fld w 5 2)) (fld w 4 1 == 1)))
  | 6 => mbz (fld w 7 4 == 0) (accept (.amoMinu (fld w 21 5).toFin (fld w 16 5).toFin (fld w 11 5).toFin (Order.ofCode (fld w 5 2)) (fld w 4 1 == 1)))
  | 7 => mbz (fld w 7 4 == 0) (accept (.amoMaxu (fld w 21 5).toFin (fld w 16 5).toFin (fld w 11 5).toFin (Order.ofCode (fld w 5 2)) (fld w 4 1 == 1)))
  | 8 => mbz (fld w 7 4 == 0) (accept (.amoSwap (fld w 21 5).toFin (fld w 16 5).toFin (fld w 11 5).toFin (Order.ofCode (fld w 5 2)) (fld w 4 1 == 1)))
  | 9 => mbz (fld w 7 4 == 0) (accept (.amoCas (fld w 21 5).toFin (fld w 16 5).toFin (fld w 11 5).toFin (Order.ofCode (fld w 5 2)) (fld w 4 1 == 1)))
  | 10 => mbz (fld w 7 4 == 0) (accept (.amoFadd (fld w 21 5).toFin (fld w 16 5).toFin (fld w 11 5).toFin (Order.ofCode (fld w 5 2)) (fld w 4 1 == 1)))
  | 11 => mbz (fld w 7 4 == 0) (accept (.amoFmin (fld w 21 5).toFin (fld w 16 5).toFin (fld w 11 5).toFin (Order.ofCode (fld w 5 2)) (fld w 4 1 == 1)))
  | 12 => mbz (fld w 7 4 == 0) (accept (.amoFmax (fld w 21 5).toFin (fld w 16 5).toFin (fld w 11 5).toFin (Order.ofCode (fld w 5 2)) (fld w 4 1 == 1)))
  | _ => .reject .unassigned

/-- Major 0x21 (R164): RED_ADD, RED_AND, RED_OR, RED_XOR, RED_MIN, RED_MAX, RED_MINU, RED_MAXU, RED_FADD, RED_FMIN, RED_FMAX. -/
def decodeMajor21 (w : Word) : Decoded :=
  match (fld w 0 4).toNat with
  | 0 => mbz (fld w 21 5 == 0 && fld w 7 4 == 0 && fld w 5 1 == 0) (accept (.redAdd (fld w 16 5).toFin (fld w 11 5).toFin (fld w 6 1 == 1) (fld w 4 1 == 1)))
  | 1 => mbz (fld w 21 5 == 0 && fld w 7 4 == 0 && fld w 5 1 == 0) (accept (.redAnd (fld w 16 5).toFin (fld w 11 5).toFin (fld w 6 1 == 1) (fld w 4 1 == 1)))
  | 2 => mbz (fld w 21 5 == 0 && fld w 7 4 == 0 && fld w 5 1 == 0) (accept (.redOr (fld w 16 5).toFin (fld w 11 5).toFin (fld w 6 1 == 1) (fld w 4 1 == 1)))
  | 3 => mbz (fld w 21 5 == 0 && fld w 7 4 == 0 && fld w 5 1 == 0) (accept (.redXor (fld w 16 5).toFin (fld w 11 5).toFin (fld w 6 1 == 1) (fld w 4 1 == 1)))
  | 4 => mbz (fld w 21 5 == 0 && fld w 7 4 == 0 && fld w 5 1 == 0) (accept (.redMin (fld w 16 5).toFin (fld w 11 5).toFin (fld w 6 1 == 1) (fld w 4 1 == 1)))
  | 5 => mbz (fld w 21 5 == 0 && fld w 7 4 == 0 && fld w 5 1 == 0) (accept (.redMax (fld w 16 5).toFin (fld w 11 5).toFin (fld w 6 1 == 1) (fld w 4 1 == 1)))
  | 6 => mbz (fld w 21 5 == 0 && fld w 7 4 == 0 && fld w 5 1 == 0) (accept (.redMinu (fld w 16 5).toFin (fld w 11 5).toFin (fld w 6 1 == 1) (fld w 4 1 == 1)))
  | 7 => mbz (fld w 21 5 == 0 && fld w 7 4 == 0 && fld w 5 1 == 0) (accept (.redMaxu (fld w 16 5).toFin (fld w 11 5).toFin (fld w 6 1 == 1) (fld w 4 1 == 1)))
  | 8 => mbz (fld w 21 5 == 0 && fld w 7 4 == 0 && fld w 5 1 == 0) (accept (.redFadd (fld w 16 5).toFin (fld w 11 5).toFin (fld w 6 1 == 1) (fld w 4 1 == 1)))
  | 9 => mbz (fld w 21 5 == 0 && fld w 7 4 == 0 && fld w 5 1 == 0) (accept (.redFmin (fld w 16 5).toFin (fld w 11 5).toFin (fld w 6 1 == 1) (fld w 4 1 == 1)))
  | 10 => mbz (fld w 21 5 == 0 && fld w 7 4 == 0 && fld w 5 1 == 0) (accept (.redFmax (fld w 16 5).toFin (fld w 11 5).toFin (fld w 6 1 == 1) (fld w 4 1 == 1)))
  | _ => .reject .unassigned

/-- Major 0x22 (R164): FENCE_ACQ, FENCE_REL, FENCE_FULL, RWAIT. -/
def decodeMajor22 (w : Word) : Decoded :=
  match (fld w 0 2).toNat with
  | 0 => mbz (fld w 2 24 == 0) (accept (.fenceAcq))
  | 1 => mbz (fld w 2 24 == 0) (accept (.fenceRel))
  | 2 => mbz (fld w 2 24 == 0) (accept (.fenceFull))
  | 3 => mbz (fld w 2 24 == 0) (accept (.rwait))
  | _ => .reject .unassigned

/-- Major 0x24 (R164): WATCH, UNWATCH, SLEEP, WFIRED, TMARM. -/
def decodeMajor24 (w : Word) : Decoded :=
  match (fld w 0 3).toNat with
  | 0 => mbz (fld w 23 3 == 0 && fld w 7 9 == 0) (accept (.watch (fld w 21 2).toFin (fld w 16 5).toFin (fld w 3 4)))
  | 1 => mbz (fld w 23 3 == 0 && fld w 3 18 == 0) (accept (.unwatch (fld w 21 2).toFin))
  | 2 => mbz (fld w 21 5 == 0 && fld w 3 13 == 0) (accept (.sleep (fld w 16 5).toFin))
  | 3 => mbz (fld w 3 18 == 0) (accept (.wfired (fld w 21 5).toFin))
  | 4 => mbz (fld w 21 5 == 0 && fld w 3 8 == 0) (accept (.tmarm (fld w 16 5).toFin (fld w 11 5).toFin))
  | _ => .reject .unassigned

/-- Major 0x25 (R164): TBINIT, TBEXPECT, TBARRIVE, TBWAIT. -/
def decodeMajor25 (w : Word) : Decoded :=
  match (fld w 0 2).toNat with
  | 0 => mbz (fld w 2 14 == 0) (accept (.tbinit (fld w 21 5).toFin (fld w 16 5).toFin))
  | 1 => mbz (fld w 2 14 == 0) (accept (.tbexpect (fld w 21 5).toFin (fld w 16 5).toFin))
  | 2 => mbz (fld w 2 19 == 0) (accept (.tbarrive (fld w 21 5).toFin))
  | 3 => mbz (fld w 6 15 == 0) (accept (.tbwait (fld w 21 5).toFin (fld w 2 4)))
  | _ => .reject .unassigned

/-- Major 0x26 (R164): MBADD, MBRD, MBWAIT, TKTAKE, TKWAIT. -/
def decodeMajor26 (w : Word) : Decoded :=
  match (fld w 0 3).toNat with
  | 0 => mbz (fld w 3 13 == 0) (accept (.mbadd (fld w 21 5).toFin (fld w 16 5).toFin))
  | 1 => mbz (fld w 16 5 == 0 && fld w 3 8 == 0) (accept (.mbrd (fld w 21 5).toFin (fld w 11 5).toFin))
  | 2 => mbz (fld w 3 13 == 0) (accept (.mbwait (fld w 21 5).toFin (fld w 16 5).toFin))
  | 3 => mbz (fld w 16 5 == 0 && fld w 3 8 == 0) (accept (.tktake (fld w 21 5).toFin (fld w 11 5).toFin))
  | 4 => mbz (fld w 3 13 == 0) (accept (.tkwait (fld w 21 5).toFin (fld w 16 5).toFin))
  | _ => .reject .unassigned

/-- Major 0x28 (R164): VADD, VSUB, VMUL, VFMA, VFNMA, VMIN, VMAX, VABS, VNEG, VDIV, VSQRT, VAND, VOR, VXOR, VNOT, VSHL, VSHR, VSHRA. -/
def decodeMajor28 (w : Word) : Decoded :=
  match (fld w 0 5).toNat with
  | 0 => mbz (fld w 9 2 == 0) (ofOption (VTy.ofCode (fld w 5 4)) fun t => .vadd (fld w 22 4).toFin (fld w 18 4).toFin (fld w 14 4).toFin (fld w 11 3).toFin t)
  | 1 => mbz (fld w 9 2 == 0) (ofOption (VTy.ofCode (fld w 5 4)) fun t => .vsub (fld w 22 4).toFin (fld w 18 4).toFin (fld w 14 4).toFin (fld w 11 3).toFin t)
  | 2 => mbz (fld w 9 2 == 0) (ofOption (VTy.ofCode (fld w 5 4)) fun t => .vmul (fld w 22 4).toFin (fld w 18 4).toFin (fld w 14 4).toFin (fld w 11 3).toFin t)
  | 3 => mbz (fld w 9 2 == 0) (ofOption (VTy.ofCode (fld w 5 4)) fun t => .vfma (fld w 22 4).toFin (fld w 18 4).toFin (fld w 14 4).toFin (fld w 11 3).toFin t)
  | 4 => mbz (fld w 9 2 == 0) (ofOption (VTy.ofCode (fld w 5 4)) fun t => .vfnma (fld w 22 4).toFin (fld w 18 4).toFin (fld w 14 4).toFin (fld w 11 3).toFin t)
  | 5 => mbz (fld w 9 2 == 0) (ofOption (VTy.ofCode (fld w 5 4)) fun t => .vmin (fld w 22 4).toFin (fld w 18 4).toFin (fld w 14 4).toFin (fld w 11 3).toFin t)
  | 6 => mbz (fld w 9 2 == 0) (ofOption (VTy.ofCode (fld w 5 4)) fun t => .vmax (fld w 22 4).toFin (fld w 18 4).toFin (fld w 14 4).toFin (fld w 11 3).toFin t)
  | 7 => mbz (fld w 14 4 == 0 && fld w 9 2 == 0) (ofOption (VTy.ofCode (fld w 5 4)) fun t => .vabs (fld w 22 4).toFin (fld w 18 4).toFin (fld w 11 3).toFin t)
  | 8 => mbz (fld w 14 4 == 0 && fld w 9 2 == 0) (ofOption (VTy.ofCode (fld w 5 4)) fun t => .vneg (fld w 22 4).toFin (fld w 18 4).toFin (fld w 11 3).toFin t)
  | 9 => mbz (fld w 9 2 == 0) (ofOption (VTy.ofCode (fld w 5 4)) fun t => .vdiv (fld w 22 4).toFin (fld w 18 4).toFin (fld w 14 4).toFin (fld w 11 3).toFin t)
  | 10 => mbz (fld w 14 4 == 0 && fld w 9 2 == 0) (ofOption (VTy.ofCode (fld w 5 4)) fun t => .vsqrt (fld w 22 4).toFin (fld w 18 4).toFin (fld w 11 3).toFin t)
  | 11 => mbz (fld w 9 2 == 0) (ofOption (VTy.ofCode (fld w 5 4)) fun t => .vand (fld w 22 4).toFin (fld w 18 4).toFin (fld w 14 4).toFin (fld w 11 3).toFin t)
  | 12 => mbz (fld w 9 2 == 0) (ofOption (VTy.ofCode (fld w 5 4)) fun t => .vor (fld w 22 4).toFin (fld w 18 4).toFin (fld w 14 4).toFin (fld w 11 3).toFin t)
  | 13 => mbz (fld w 9 2 == 0) (ofOption (VTy.ofCode (fld w 5 4)) fun t => .vxor (fld w 22 4).toFin (fld w 18 4).toFin (fld w 14 4).toFin (fld w 11 3).toFin t)
  | 14 => mbz (fld w 14 4 == 0 && fld w 9 2 == 0) (ofOption (VTy.ofCode (fld w 5 4)) fun t => .vnot (fld w 22 4).toFin (fld w 18 4).toFin (fld w 11 3).toFin t)
  | 15 => mbz (fld w 9 2 == 0) (ofOption (VTy.ofCode (fld w 5 4)) fun t => .vshl (fld w 22 4).toFin (fld w 18 4).toFin (fld w 14 4).toFin (fld w 11 3).toFin t)
  | 16 => mbz (fld w 9 2 == 0) (ofOption (VTy.ofCode (fld w 5 4)) fun t => .vshr (fld w 22 4).toFin (fld w 18 4).toFin (fld w 14 4).toFin (fld w 11 3).toFin t)
  | 17 => mbz (fld w 9 2 == 0) (ofOption (VTy.ofCode (fld w 5 4)) fun t => .vshra (fld w 22 4).toFin (fld w 18 4).toFin (fld w 14 4).toFin (fld w 11 3).toFin t)
  | _ => .reject .unassigned

/-- Major 0x29 (R164): VCMP_EQ, VCMP_NE, VCMP_LT, VCMP_LE, VCMP_GT, VCMP_GE. -/
def decodeMajor29 (w : Word) : Decoded :=
  match (fld w 0 3).toNat with
  | 0 => mbz (fld w 25 1 == 0 && fld w 7 4 == 0) (ofOption (VTy.ofCode (fld w 3 4)) fun t => .vcmpEq (fld w 22 3).toFin (fld w 18 4).toFin (fld w 14 4).toFin (fld w 11 3).toFin t)
  | 1 => mbz (fld w 25 1 == 0 && fld w 7 4 == 0) (ofOption (VTy.ofCode (fld w 3 4)) fun t => .vcmpNe (fld w 22 3).toFin (fld w 18 4).toFin (fld w 14 4).toFin (fld w 11 3).toFin t)
  | 2 => mbz (fld w 25 1 == 0 && fld w 7 4 == 0) (ofOption (VTy.ofCode (fld w 3 4)) fun t => .vcmpLt (fld w 22 3).toFin (fld w 18 4).toFin (fld w 14 4).toFin (fld w 11 3).toFin t)
  | 3 => mbz (fld w 25 1 == 0 && fld w 7 4 == 0) (ofOption (VTy.ofCode (fld w 3 4)) fun t => .vcmpLe (fld w 22 3).toFin (fld w 18 4).toFin (fld w 14 4).toFin (fld w 11 3).toFin t)
  | 4 => mbz (fld w 25 1 == 0 && fld w 7 4 == 0) (ofOption (VTy.ofCode (fld w 3 4)) fun t => .vcmpGt (fld w 22 3).toFin (fld w 18 4).toFin (fld w 14 4).toFin (fld w 11 3).toFin t)
  | 5 => mbz (fld w 25 1 == 0 && fld w 7 4 == 0) (ofOption (VTy.ofCode (fld w 3 4)) fun t => .vcmpGe (fld w 22 3).toFin (fld w 18 4).toFin (fld w 14 4).toFin (fld w 11 3).toFin t)
  | _ => .reject .unassigned

/-- Major 0x2A (R164): VSEL, VBCAST, VINS, VEXT, VPERM, VSLIDE_UP, VSLIDE_DOWN, VMOV. -/
def decodeMajor2A (w : Word) : Decoded :=
  match (fld w 0 3).toNat with
  | 0 => mbz (fld w 7 4 == 0) (ofOption (VTy.ofCode (fld w 3 4)) fun t => .vsel (fld w 22 4).toFin (fld w 18 4).toFin (fld w 14 4).toFin (fld w 11 3).toFin t)
  | 1 => mbz (fld w 14 3 == 0 && fld w 7 4 == 0) (ofOption (VTy.ofCode (fld w 3 4)) fun t => .vbcast (fld w 22 4).toFin (fld w 17 5).toFin (fld w 11 3).toFin t)
  | 2 => mbz (fld w 7 4 == 0) (ofOption (VTy.ofCode (fld w 3 4)) fun t => .vins (fld w 22 4).toFin (fld w 17 5).toFin (fld w 11 6) t)
  | 3 => mbz (fld w 7 4 == 0) (ofOption (VTy.ofCode (fld w 3 4)) fun t => .vext (fld w 21 5).toFin (fld w 17 4).toFin (fld w 11 6) t)
  | 4 => mbz (fld w 7 4 == 0) (ofOption (VTy.ofCode (fld w 3 4)) fun t => .vperm (fld w 22 4).toFin (fld w 18 4).toFin (fld w 14 4).toFin (fld w 11 3).toFin t)
  | 5 => if fld w 11 1 == 0 then mbz (fld w 7 4 == 0) (ofOption (VTy.ofCode (fld w 3 4)) fun t => .vslideUp (fld w 22 4).toFin (fld w 18 4).toFin (fld w 12 6) t) else mbz (fld w 7 4 == 0) (ofOption (VTy.ofCode (fld w 3 4)) fun t => .vslideDown (fld w 22 4).toFin (fld w 18 4).toFin (fld w 12 6) t)
  | 6 => mbz (fld w 14 4 == 0 && fld w 3 8 == 0) (accept (.vmov (fld w 22 4).toFin (fld w 18 4).toFin (fld w 11 3).toFin))
  | _ => .reject .unassigned

/-- Major 0x2B (R164): VRSUM, VRMAX, VRMIN. -/
def decodeMajor2B (w : Word) : Decoded :=
  match (fld w 0 2).toNat with
  | 0 => mbz (fld w 14 4 == 0 && fld w 6 5 == 0) (ofOption (VTy.ofCode (fld w 2 4)) fun t => .vrsum (fld w 22 4).toFin (fld w 18 4).toFin (fld w 11 3).toFin t)
  | 1 => mbz (fld w 14 4 == 0 && fld w 6 5 == 0) (ofOption (VTy.ofCode (fld w 2 4)) fun t => .vrmax (fld w 22 4).toFin (fld w 18 4).toFin (fld w 11 3).toFin t)
  | 2 => mbz (fld w 14 4 == 0 && fld w 6 5 == 0) (ofOption (VTy.ofCode (fld w 2 4)) fun t => .vrmin (fld w 22 4).toFin (fld w 18 4).toFin (fld w 11 3).toFin t)
  | _ => .reject .unassigned

/-- Major 0x2C (R164): VCVT_F64_F32, VCVT_F32_F64, VCVT_F32_BF16, VCVT_BF16_F32, VCVT_F32_F16, VCVT_F16_F32, VCVT_F32_I32, VCVT_I32_F32, VCVT_F64_I64, VCVT_I64_F64, VCVT_BF16_LNS8, VCVT_LNS8_BF16, VCVT_BF16_LNS6, VCVT_LNS6_BF16. -/
def decodeMajor2C (w : Word) : Decoded :=
  match (fld w 0 4).toNat with
  | 0 => mbz (fld w 14 4 == 0 && fld w 4 7 == 0) (accept (.vcvtF64F32 (fld w 22 4).toFin (fld w 18 4).toFin (fld w 11 3).toFin))
  | 1 => mbz (fld w 14 4 == 0 && fld w 4 7 == 0) (accept (.vcvtF32F64 (fld w 22 4).toFin (fld w 18 4).toFin (fld w 11 3).toFin))
  | 2 => mbz (fld w 14 4 == 0 && fld w 4 7 == 0) (accept (.vcvtF32Bf16 (fld w 22 4).toFin (fld w 18 4).toFin (fld w 11 3).toFin))
  | 3 => mbz (fld w 14 4 == 0 && fld w 4 7 == 0) (accept (.vcvtBf16F32 (fld w 22 4).toFin (fld w 18 4).toFin (fld w 11 3).toFin))
  | 4 => mbz (fld w 14 4 == 0 && fld w 4 7 == 0) (accept (.vcvtF32F16 (fld w 22 4).toFin (fld w 18 4).toFin (fld w 11 3).toFin))
  | 5 => mbz (fld w 14 4 == 0 && fld w 4 7 == 0) (accept (.vcvtF16F32 (fld w 22 4).toFin (fld w 18 4).toFin (fld w 11 3).toFin))
  | 6 => mbz (fld w 14 4 == 0 && fld w 4 7 == 0) (accept (.vcvtF32I32 (fld w 22 4).toFin (fld w 18 4).toFin (fld w 11 3).toFin))
  | 7 => mbz (fld w 14 4 == 0 && fld w 4 7 == 0) (accept (.vcvtI32F32 (fld w 22 4).toFin (fld w 18 4).toFin (fld w 11 3).toFin))
  | 8 => mbz (fld w 14 4 == 0 && fld w 4 7 == 0) (accept (.vcvtF64I64 (fld w 22 4).toFin (fld w 18 4).toFin (fld w 11 3).toFin))
  | 9 => mbz (fld w 14 4 == 0 && fld w 4 7 == 0) (accept (.vcvtI64F64 (fld w 22 4).toFin (fld w 18 4).toFin (fld w 11 3).toFin))
  | 10 => mbz (fld w 14 4 == 0 && fld w 4 7 == 0) (accept (.vcvtBf16Lns8 (fld w 22 4).toFin (fld w 18 4).toFin (fld w 11 3).toFin))
  | 11 => mbz (fld w 14 4 == 0 && fld w 4 7 == 0) (accept (.vcvtLns8Bf16 (fld w 22 4).toFin (fld w 18 4).toFin (fld w 11 3).toFin))
  | 12 => mbz (fld w 14 4 == 0 && fld w 4 7 == 0) (accept (.vcvtBf16Lns6 (fld w 22 4).toFin (fld w 18 4).toFin (fld w 11 3).toFin))
  | 13 => mbz (fld w 14 4 == 0 && fld w 4 7 == 0) (accept (.vcvtLns6Bf16 (fld w 22 4).toFin (fld w 18 4).toFin (fld w 11 3).toFin))
  | _ => .reject .unassigned

/-- Major 0x2D (R164): VTLOAD, VTAB. -/
def decodeMajor2D (w : Word) : Decoded :=
  match (fld w 0 1).toNat with
  | 0 => mbz (fld w 24 2 == 0 && fld w 1 16 == 0) (accept (.vtload (fld w 22 2).toFin (fld w 17 5).toFin))
  | 1 => mbz (fld w 14 2 == 0 && fld w 5 6 == 0) (ofOption (VTy.ofCode (fld w 1 4)) fun t => .vtab (fld w 22 4).toFin (fld w 18 4).toFin (fld w 16 2).toFin (fld w 11 3).toFin t)
  | _ => .reject .unassigned

/-- Major 0x2E (R164): KAND, KOR, KXOR, KNOT, KPOP, KSET, KGET. -/
def decodeMajor2E (w : Word) : Decoded :=
  match (fld w 0 3).toNat with
  | 0 => mbz (fld w 24 2 == 0 && fld w 19 2 == 0 && fld w 14 2 == 0 && fld w 3 8 == 0) (accept (.kand (fld w 21 3).toFin (fld w 16 3).toFin (fld w 11 3).toFin))
  | 1 => mbz (fld w 24 2 == 0 && fld w 19 2 == 0 && fld w 14 2 == 0 && fld w 3 8 == 0) (accept (.kor (fld w 21 3).toFin (fld w 16 3).toFin (fld w 11 3).toFin))
  | 2 => mbz (fld w 24 2 == 0 && fld w 19 2 == 0 && fld w 14 2 == 0 && fld w 3 8 == 0) (accept (.kxor (fld w 21 3).toFin (fld w 16 3).toFin (fld w 11 3).toFin))
  | 3 => mbz (fld w 24 2 == 0 && fld w 19 2 == 0 && fld w 3 13 == 0) (accept (.knot (fld w 21 3).toFin (fld w 16 3).toFin))
  | 4 => mbz (fld w 19 2 == 0 && fld w 3 13 == 0) (accept (.kpop (fld w 21 5).toFin (fld w 16 3).toFin))
  | 5 => mbz (fld w 24 2 == 0 && fld w 3 13 == 0) (accept (.kset (fld w 21 3).toFin (fld w 16 5).toFin))
  | 6 => mbz (fld w 19 2 == 0 && fld w 3 13 == 0) (accept (.kget (fld w 21 5).toFin (fld w 16 3).toFin))
  | _ => .reject .unassigned

/-- Major 0x34 (R164): OCLAIM, ORELEASE, OPPUT, MMA, ACCZERO, ACCRD, ACCSAT, ACCGET, ACCADD. -/
def decodeMajor34 (w : Word) : Decoded :=
  match (fld w 0 4).toNat with
  | 0 => mbz (fld w 16 5 == 0 && fld w 4 7 == 0) (accept (.oclaim (fld w 21 5).toFin (fld w 11 5).toFin))
  | 1 => mbz (fld w 4 17 == 0) (accept (.orelease (fld w 21 5).toFin))
  | 2 => mbz (fld w 4 12 == 0) (accept (.opput (fld w 21 5).toFin (fld w 16 5).toFin))
  | 3 => mbz (fld w 9 2 == 0) (ofOption (MmaFmt.ofCode (fld w 4 4)) fun f => .mma (fld w 21 5).toFin (fld w 16 5).toFin (fld w 11 5).toFin (fld w 8 1 == 1) f)
  | 4 => mbz (fld w 4 17 == 0) (accept (.acczero (fld w 21 5).toFin))
  | 5 => mbz (fld w 9 2 == 0) (ofOption (AccFmt.ofCode (fld w 4 4)) fun f => .accrd (fld w 21 5).toFin (fld w 16 5).toFin (fld w 11 5).toFin (fld w 8 1 == 1) f)
  | 6 => mbz (fld w 16 5 == 0 && fld w 4 7 == 0) (accept (.accsat (fld w 21 5).toFin (fld w 11 5).toFin))
  | 7 => mbz (fld w 4 7 == 0) (accept (.accget (fld w 21 5).toFin (fld w 16 5).toFin (fld w 11 5).toFin))
  | 8 => mbz (fld w 4 7 == 0) (accept (.accadd (fld w 21 5).toFin (fld w 16 5).toFin (fld w 11 5).toFin))
  | _ => .reject .unassigned

/-- Major 0x35 (R164): XCOPY, XCOPYSP, XCOMMIT, XWAIT. -/
def decodeMajor35 (w : Word) : Decoded :=
  match (fld w 0 2).toNat with
  | 0 => mbz (fld w 2 9 == 0) (accept (.xcopy (fld w 21 5).toFin (fld w 16 5).toFin (fld w 11 5).toFin))
  | 1 => mbz (fld w 2 9 == 0) (accept (.xcopysp (fld w 21 5).toFin (fld w 16 5).toFin (fld w 11 5).toFin))
  | 2 => mbz (fld w 2 24 == 0) (accept (.xcommit))
  | 3 => mbz (fld w 5 21 == 0) (accept (.xwait (fld w 2 3)))
  | _ => .reject .unassigned

/-- Major 0x36 (R164): HREAD, HCANCEL. -/
def decodeMajor36 (w : Word) : Decoded :=
  match (fld w 0 1).toNat with
  | 0 => mbz (fld w 1 20 == 0) (accept (.hread (fld w 21 5).toFin))
  | 1 => mbz (fld w 1 20 == 0) (accept (.hcancel (fld w 21 5).toFin))
  | _ => .reject .unassigned

/-- Major 0x37 (R164): CJOIN, CLEAVE, CBR_ANY, CBR_ALL, CSTATE. -/
def decodeMajor37 (w : Word) : Decoded :=
  match (fld w 0 3).toNat with
  | 0 => mbz (fld w 21 5 == 0 && fld w 3 13 == 0) (accept (.cjoin (fld w 16 5).toFin))
  | 1 => mbz (fld w 3 23 == 0) (accept (.cleave))
  | 2 => mbz (fld w 21 5 == 0 && fld w 14 2 == 0 && fld w 3 8 == 0) (accept (.cbrAny (fld w 16 5).toFin (fld w 11 3).toFin))
  | 3 => mbz (fld w 21 5 == 0 && fld w 14 2 == 0 && fld w 3 8 == 0) (accept (.cbrAll (fld w 16 5).toFin (fld w 11 3).toFin))
  | 4 => mbz (fld w 3 18 == 0) (accept (.cstate (fld w 21 5).toFin))
  | _ => .reject .unassigned

/-- Major 0x3C (R164): TSTOP, TSTOP_H, TSTART, TREAD, TWRITE, TSTATE, TSAVE, TRESTORE. -/
def decodeMajor3C (w : Word) : Decoded :=
  match (fld w 0 3).toNat with
  | 0 => if fld w 3 1 == 0 then mbz (fld w 4 17 == 0) (accept (.tstop (fld w 21 5).toFin)) else mbz (fld w 4 17 == 0) (accept (.tstopH (fld w 21 5).toFin))
  | 1 => mbz (fld w 3 18 == 0) (accept (.tstart (fld w 21 5).toFin))
  | 2 => mbz (fld w 3 8 == 0) (accept (.tread (fld w 21 5).toFin (fld w 16 5).toFin (fld w 11 5).toFin))
  | 3 => mbz (fld w 3 8 == 0) (accept (.twrite (fld w 21 5).toFin (fld w 16 5).toFin (fld w 11 5).toFin))
  | 4 => mbz (fld w 16 5 == 0 && fld w 3 8 == 0) (accept (.tstate (fld w 21 5).toFin (fld w 11 5).toFin))
  | 5 => mbz (fld w 3 13 == 0) (accept (.tsave (fld w 21 5).toFin (fld w 16 5).toFin))
  | 6 => mbz (fld w 3 13 == 0) (accept (.trestore (fld w 21 5).toFin (fld w 16 5).toFin))
  | _ => .reject .unassigned

/-- Major 0x3D (R164): TLBINV, PGLOCK, PGSWITCH, CLWB, CLINV. -/
def decodeMajor3D (w : Word) : Decoded :=
  match (fld w 0 3).toNat with
  | 0 => mbz (fld w 3 13 == 0) (accept (.tlbinv (fld w 21 5).toFin (fld w 16 5).toFin))
  | 1 => mbz (fld w 3 18 == 0) (accept (.pglock (fld w 21 5).toFin))
  | 2 => mbz (fld w 3 13 == 0) (accept (.pgswitch (fld w 21 5).toFin (fld w 16 5).toFin))
  | 3 => mbz (fld w 3 18 == 0) (accept (.clwb (fld w 21 5).toFin))
  | 4 => mbz (fld w 3 18 == 0) (accept (.clinv (fld w 21 5).toFin))
  | _ => .reject .unassigned

/-- Major 0x3F (R164): PFX_IMM, PFX_MOD, PFX_HINT. -/
def decodeMajor3F (w : Word) : Decoded :=
  match (fld w 24 2).toNat with
  | 0 => accept (.pfxImm (fld w 0 24))
  | 1 => accept (.pfxMod (fld w 0 24))
  | 2 => accept (.pfxHint (fld w 0 24))
  | _ => .reject .unassigned

/-- The instruction of a word (R162, R164, R167): the major code selects the format. -/
def decode (w : Word) : Decoded :=
  match (fld w 26 6).toNat with
  | 0x01 => decodeMajor01 w
  | 0x02 => decodeMajor02 w
  | 0x03 => decodeMajor03 w
  | 0x04 => decodeMajor04 w
  | 0x05 => decodeMajor05 w
  | 0x06 => decodeMajor06 w
  | 0x07 => decodeMajor07 w
  | 0x08 => decodeMajor08 w
  | 0x09 => decodeMajor09 w
  | 0x0A => decodeMajor0A w
  | 0x10 => decodeMajor10 w
  | 0x11 => decodeMajor11 w
  | 0x12 => decodeMajor12 w
  | 0x13 => decodeMajor13 w
  | 0x14 => decodeMajor14 w
  | 0x15 => decodeMajor15 w
  | 0x16 => decodeMajor16 w
  | 0x17 => decodeMajor17 w
  | 0x18 => decodeMajor18 w
  | 0x19 => decodeMajor19 w
  | 0x1A => decodeMajor1A w
  | 0x1B => decodeMajor1B w
  | 0x20 => decodeMajor20 w
  | 0x21 => decodeMajor21 w
  | 0x22 => decodeMajor22 w
  | 0x24 => decodeMajor24 w
  | 0x25 => decodeMajor25 w
  | 0x26 => decodeMajor26 w
  | 0x28 => decodeMajor28 w
  | 0x29 => decodeMajor29 w
  | 0x2A => decodeMajor2A w
  | 0x2B => decodeMajor2B w
  | 0x2C => decodeMajor2C w
  | 0x2D => decodeMajor2D w
  | 0x2E => decodeMajor2E w
  | 0x34 => decodeMajor34 w
  | 0x35 => decodeMajor35 w
  | 0x36 => decodeMajor36 w
  | 0x37 => decodeMajor37 w
  | 0x3C => decodeMajor3C w
  | 0x3D => decodeMajor3D w
  | 0x3F => decodeMajor3F w
  | _ => .reject .reservedMajor

/-- The instruction at the head of a list of bytes: one little-endian word (R162), with the rest of the list. -/
def decodeBytes : List Byte → Decoded × List Byte
  | b0 :: b1 :: b2 :: b3 :: rest => (decode (b3 ++ b2 ++ b1 ++ b0), rest)
  | bs => (.reject .short, bs)

/-- The four bytes of a word, least significant first (R11, R162). -/
def wordBytes (w : Word) : List Byte :=
  [w.extractLsb' 0 8, w.extractLsb' 8 8, w.extractLsb' 16 8, w.extractLsb' 24 8]

/-- The instruction that the decoder reads from an instruction whose bits are `w`, laid out as the opcode table numbers them. -/
def decodeTableWord (_nbits w : Nat) : Option Instr :=
  match (decodeBytes (wordBytes (BitVec.ofNat 32 w))).1 with
  | .ok i => some i
  | .reject _ => none

/-- The word of an instruction, written from the field table of R165; an event of the machine has no word. -/
def encode : Instr → Option Word
  | .add d a b w => some ((1 : BitVec 6) ++ BitVec.ofFin (w := 5) d ++ BitVec.ofFin (w := 5) a ++ BitVec.ofFin (w := 5) b ++ (0 : BitVec 4) ++ BitVec.ofBool w ++ (0 : BitVec 6))
  | .sub d a b w => some ((1 : BitVec 6) ++ BitVec.ofFin (w := 5) d ++ BitVec.ofFin (w := 5) a ++ BitVec.ofFin (w := 5) b ++ (0 : BitVec 4) ++ BitVec.ofBool w ++ (1 : BitVec 6))
  | .andg d a b => some ((1 : BitVec 6) ++ BitVec.ofFin (w := 5) d ++ BitVec.ofFin (w := 5) a ++ BitVec.ofFin (w := 5) b ++ (2 : BitVec 11))
  | .org d a b => some ((1 : BitVec 6) ++ BitVec.ofFin (w := 5) d ++ BitVec.ofFin (w := 5) a ++ BitVec.ofFin (w := 5) b ++ (3 : BitVec 11))
  | .xorg d a b => some ((1 : BitVec 6) ++ BitVec.ofFin (w := 5) d ++ BitVec.ofFin (w := 5) a ++ BitVec.ofFin (w := 5) b ++ (4 : BitVec 11))
  | .andn d a b => some ((1 : BitVec 6) ++ BitVec.ofFin (w := 5) d ++ BitVec.ofFin (w := 5) a ++ BitVec.ofFin (w := 5) b ++ (5 : BitVec 11))
  | .orn d a b => some ((1 : BitVec 6) ++ BitVec.ofFin (w := 5) d ++ BitVec.ofFin (w := 5) a ++ BitVec.ofFin (w := 5) b ++ (6 : BitVec 11))
  | .sll d a b w => some ((1 : BitVec 6) ++ BitVec.ofFin (w := 5) d ++ BitVec.ofFin (w := 5) a ++ BitVec.ofFin (w := 5) b ++ (0 : BitVec 4) ++ BitVec.ofBool w ++ (7 : BitVec 6))
  | .srl d a b w => some ((1 : BitVec 6) ++ BitVec.ofFin (w := 5) d ++ BitVec.ofFin (w := 5) a ++ BitVec.ofFin (w := 5) b ++ (0 : BitVec 4) ++ BitVec.ofBool w ++ (8 : BitVec 6))
  | .sra d a b w => some ((1 : BitVec 6) ++ BitVec.ofFin (w := 5) d ++ BitVec.ofFin (w := 5) a ++ BitVec.ofFin (w := 5) b ++ (0 : BitVec 4) ++ BitVec.ofBool w ++ (9 : BitVec 6))
  | .rol d a b w => some ((1 : BitVec 6) ++ BitVec.ofFin (w := 5) d ++ BitVec.ofFin (w := 5) a ++ BitVec.ofFin (w := 5) b ++ (0 : BitVec 4) ++ BitVec.ofBool w ++ (10 : BitVec 6))
  | .mul d a b w => some ((1 : BitVec 6) ++ BitVec.ofFin (w := 5) d ++ BitVec.ofFin (w := 5) a ++ BitVec.ofFin (w := 5) b ++ (0 : BitVec 4) ++ BitVec.ofBool w ++ (11 : BitVec 6))
  | .mulh d a b w => some ((1 : BitVec 6) ++ BitVec.ofFin (w := 5) d ++ BitVec.ofFin (w := 5) a ++ BitVec.ofFin (w := 5) b ++ (0 : BitVec 4) ++ BitVec.ofBool w ++ (12 : BitVec 6))
  | .mulhu d a b w => some ((1 : BitVec 6) ++ BitVec.ofFin (w := 5) d ++ BitVec.ofFin (w := 5) a ++ BitVec.ofFin (w := 5) b ++ (0 : BitVec 4) ++ BitVec.ofBool w ++ (13 : BitVec 6))
  | .div d a b w => some ((1 : BitVec 6) ++ BitVec.ofFin (w := 5) d ++ BitVec.ofFin (w := 5) a ++ BitVec.ofFin (w := 5) b ++ (0 : BitVec 4) ++ BitVec.ofBool w ++ (14 : BitVec 6))
  | .divu d a b w => some ((1 : BitVec 6) ++ BitVec.ofFin (w := 5) d ++ BitVec.ofFin (w := 5) a ++ BitVec.ofFin (w := 5) b ++ (0 : BitVec 4) ++ BitVec.ofBool w ++ (15 : BitVec 6))
  | .rem d a b w => some ((1 : BitVec 6) ++ BitVec.ofFin (w := 5) d ++ BitVec.ofFin (w := 5) a ++ BitVec.ofFin (w := 5) b ++ (0 : BitVec 4) ++ BitVec.ofBool w ++ (16 : BitVec 6))
  | .remu d a b w => some ((1 : BitVec 6) ++ BitVec.ofFin (w := 5) d ++ BitVec.ofFin (w := 5) a ++ BitVec.ofFin (w := 5) b ++ (0 : BitVec 4) ++ BitVec.ofBool w ++ (17 : BitVec 6))
  | .min d a b => some ((1 : BitVec 6) ++ BitVec.ofFin (w := 5) d ++ BitVec.ofFin (w := 5) a ++ BitVec.ofFin (w := 5) b ++ (18 : BitVec 11))
  | .max d a b => some ((1 : BitVec 6) ++ BitVec.ofFin (w := 5) d ++ BitVec.ofFin (w := 5) a ++ BitVec.ofFin (w := 5) b ++ (19 : BitVec 11))
  | .minu d a b => some ((1 : BitVec 6) ++ BitVec.ofFin (w := 5) d ++ BitVec.ofFin (w := 5) a ++ BitVec.ofFin (w := 5) b ++ (20 : BitVec 11))
  | .maxu d a b => some ((1 : BitVec 6) ++ BitVec.ofFin (w := 5) d ++ BitVec.ofFin (w := 5) a ++ BitVec.ofFin (w := 5) b ++ (21 : BitVec 11))
  | .slt d a b => some ((1 : BitVec 6) ++ BitVec.ofFin (w := 5) d ++ BitVec.ofFin (w := 5) a ++ BitVec.ofFin (w := 5) b ++ (22 : BitVec 11))
  | .sltu d a b => some ((1 : BitVec 6) ++ BitVec.ofFin (w := 5) d ++ BitVec.ofFin (w := 5) a ++ BitVec.ofFin (w := 5) b ++ (23 : BitVec 11))
  | .seq d a b => some ((1 : BitVec 6) ++ BitVec.ofFin (w := 5) d ++ BitVec.ofFin (w := 5) a ++ BitVec.ofFin (w := 5) b ++ (24 : BitVec 11))
  | .sne d a b => some ((1 : BitVec 6) ++ BitVec.ofFin (w := 5) d ++ BitVec.ofFin (w := 5) a ++ BitVec.ofFin (w := 5) b ++ (25 : BitVec 11))
  | .cmovz d a b => some ((1 : BitVec 6) ++ BitVec.ofFin (w := 5) d ++ BitVec.ofFin (w := 5) a ++ BitVec.ofFin (w := 5) b ++ (26 : BitVec 11))
  | .cmovnz d a b => some ((1 : BitVec 6) ++ BitVec.ofFin (w := 5) d ++ BitVec.ofFin (w := 5) a ++ BitVec.ofFin (w := 5) b ++ (27 : BitVec 11))
  | .clz d a => some ((1 : BitVec 6) ++ BitVec.ofFin (w := 5) d ++ BitVec.ofFin (w := 5) a ++ (28 : BitVec 16))
  | .ctz d a => some ((1 : BitVec 6) ++ BitVec.ofFin (w := 5) d ++ BitVec.ofFin (w := 5) a ++ (29 : BitVec 16))
  | .popc d a => some ((1 : BitVec 6) ++ BitVec.ofFin (w := 5) d ++ BitVec.ofFin (w := 5) a ++ (30 : BitVec 16))
  | .bswap d a => some ((1 : BitVec 6) ++ BitVec.ofFin (w := 5) d ++ BitVec.ofFin (w := 5) a ++ (31 : BitVec 16))
  | .lea d a b s => some ((1 : BitVec 6) ++ BitVec.ofFin (w := 5) d ++ BitVec.ofFin (w := 5) a ++ BitVec.ofFin (w := 5) b ++ (0 : BitVec 1) ++ s ++ (32 : BitVec 7))
  | .addi d a i => some ((2 : BitVec 6) ++ BitVec.ofFin (w := 5) d ++ BitVec.ofFin (w := 5) a ++ i)
  | .andi d a i => some ((3 : BitVec 6) ++ BitVec.ofFin (w := 5) d ++ BitVec.ofFin (w := 5) a ++ i)
  | .ori d a i => some ((4 : BitVec 6) ++ BitVec.ofFin (w := 5) d ++ BitVec.ofFin (w := 5) a ++ i)
  | .xori d a i => some ((5 : BitVec 6) ++ BitVec.ofFin (w := 5) d ++ BitVec.ofFin (w := 5) a ++ i)
  | .slti d a i => some ((6 : BitVec 6) ++ BitVec.ofFin (w := 5) d ++ BitVec.ofFin (w := 5) a ++ i)
  | .slli d a w n => some ((7 : BitVec 6) ++ BitVec.ofFin (w := 5) d ++ BitVec.ofFin (w := 5) a ++ (0 : BitVec 9) ++ BitVec.ofBool w ++ n)
  | .srli d a w n => some ((7 : BitVec 6) ++ BitVec.ofFin (w := 5) d ++ BitVec.ofFin (w := 5) a ++ (1 : BitVec 9) ++ BitVec.ofBool w ++ n)
  | .srai d a w n => some ((7 : BitVec 6) ++ BitVec.ofFin (w := 5) d ++ BitVec.ofFin (w := 5) a ++ (2 : BitVec 9) ++ BitVec.ofBool w ++ n)
  | .roli d a w n => some ((7 : BitVec 6) ++ BitVec.ofFin (w := 5) d ++ BitVec.ofFin (w := 5) a ++ (3 : BitVec 9) ++ BitVec.ofBool w ++ n)
  | .movi d i => some ((8 : BitVec 6) ++ BitVec.ofFin (w := 5) d ++ i)
  | .movhi d i => some ((9 : BitVec 6) ++ BitVec.ofFin (w := 5) d ++ i)
  | .addpc d i => some ((10 : BitVec 6) ++ BitVec.ofFin (w := 5) d ++ i)
  | .bcEqz a i => some ((16 : BitVec 6) ++ (0 : BitVec 5) ++ BitVec.ofFin (w := 5) a ++ i)
  | .bcNez a i => some ((16 : BitVec 6) ++ (1 : BitVec 5) ++ BitVec.ofFin (w := 5) a ++ i)
  | .bcLtz a i => some ((16 : BitVec 6) ++ (2 : BitVec 5) ++ BitVec.ofFin (w := 5) a ++ i)
  | .bcGez a i => some ((16 : BitVec 6) ++ (3 : BitVec 5) ++ BitVec.ofFin (w := 5) a ++ i)
  | .bcGtz a i => some ((16 : BitVec 6) ++ (4 : BitVec 5) ++ BitVec.ofFin (w := 5) a ++ i)
  | .bcLez a i => some ((16 : BitVec 6) ++ (5 : BitVec 5) ++ BitVec.ofFin (w := 5) a ++ i)
  | .jl d i => some ((17 : BitVec 6) ++ BitVec.ofFin (w := 5) d ++ i)
  | .prep k i => some ((18 : BitVec 6) ++ (0 : BitVec 2) ++ BitVec.ofFin (w := 3) k ++ i)
  | .jr a => some ((19 : BitVec 6) ++ (0 : BitVec 5) ++ BitVec.ofFin (w := 5) a ++ (0 : BitVec 16))
  | .jlr d a => some ((19 : BitVec 6) ++ BitVec.ofFin (w := 5) d ++ BitVec.ofFin (w := 5) a ++ (1 : BitVec 16))
  | .jb k => some ((19 : BitVec 6) ++ (0 : BitVec 12) ++ BitVec.ofFin (w := 3) k ++ (2 : BitVec 11))
  | .jbl d k => some ((19 : BitVec 6) ++ BitVec.ofFin (w := 5) d ++ (0 : BitVec 7) ++ BitVec.ofFin (w := 3) k ++ (3 : BitVec 11))
  | .bcb c a k => some ((19 : BitVec 6) ++ c.code ++ BitVec.ofFin (w := 5) a ++ (0 : BitVec 2) ++ BitVec.ofFin (w := 3) k ++ (4 : BitVec 11))
  | .prepr a k => some ((19 : BitVec 6) ++ (0 : BitVec 5) ++ BitVec.ofFin (w := 5) a ++ (0 : BitVec 2) ++ BitVec.ofFin (w := 3) k ++ (5 : BitVec 11))
  | .loop a n => some ((20 : BitVec 6) ++ (0 : BitVec 5) ++ BitVec.ofFin (w := 5) a ++ n)
  | .loopi c n => some ((21 : BitVec 6) ++ c ++ n)
  | .spawn d k => some ((22 : BitVec 6) ++ BitVec.ofFin (w := 5) d ++ (0 : BitVec 7) ++ BitVec.ofFin (w := 3) k ++ (0 : BitVec 11))
  | .spawnn d a k => some ((22 : BitVec 6) ++ BitVec.ofFin (w := 5) d ++ BitVec.ofFin (w := 5) a ++ (0 : BitVec 2) ++ BitVec.ofFin (w := 3) k ++ (1 : BitVec 11))
  | .fork k => some ((22 : BitVec 6) ++ (0 : BitVec 12) ++ BitVec.ofFin (w := 3) k ++ (2 : BitVec 11))
  | .join a => some ((22 : BitVec 6) ++ (0 : BitVec 5) ++ BitVec.ofFin (w := 5) a ++ (3 : BitVec 16))
  | .callat d a k => some ((22 : BitVec 6) ++ BitVec.ofFin (w := 5) d ++ BitVec.ofFin (w := 5) a ++ (0 : BitVec 2) ++ BitVec.ofFin (w := 3) k ++ (4 : BitVec 11))
  | .reply a b => some ((22 : BitVec 6) ++ (0 : BitVec 5) ++ BitVec.ofFin (w := 5) a ++ BitVec.ofFin (w := 5) b ++ (5 : BitVec 11))
  | .endT a e => some ((22 : BitVec 6) ++ (0 : BitVec 5) ++ BitVec.ofFin (w := 5) a ++ (0 : BitVec 11) ++ BitVec.ofBool e ++ (6 : BitVec 4))
  | .gohome a => some ((22 : BitVec 6) ++ (0 : BitVec 5) ++ BitVec.ofFin (w := 5) a ++ (10 : BitVec 16))
  | .launch a => some ((22 : BitVec 6) ++ (0 : BitVec 5) ++ BitVec.ofFin (w := 5) a ++ (11 : BitVec 16))
  | .cancel a => some ((22 : BitVec 6) ++ (0 : BitVec 5) ++ BitVec.ofFin (w := 5) a ++ (12 : BitVec 16))
  | .srd d n => some ((23 : BitVec 6) ++ BitVec.ofFin (w := 5) d ++ (0 : BitVec 11) ++ n)
  | .swr a n => some ((23 : BitVec 6) ++ (0 : BitVec 5) ++ BitVec.ofFin (w := 5) a ++ (8 : BitVec 6) ++ n)
  | .srset a n => some ((23 : BitVec 6) ++ (0 : BitVec 5) ++ BitVec.ofFin (w := 5) a ++ (16 : BitVec 6) ++ n)
  | .srclr a n => some ((23 : BitVec 6) ++ (0 : BitVec 5) ++ BitVec.ofFin (w := 5) a ++ (24 : BitVec 6) ++ n)
  | .ldB d a o => some ((24 : BitVec 6) ++ BitVec.ofFin (w := 5) d ++ BitVec.ofFin (w := 5) a ++ (0 : BitVec 3) ++ o)
  | .ldBn d a o => some ((24 : BitVec 6) ++ BitVec.ofFin (w := 5) d ++ BitVec.ofFin (w := 5) a ++ (1 : BitVec 3) ++ o)
  | .ldH d a o => some ((24 : BitVec 6) ++ BitVec.ofFin (w := 5) d ++ BitVec.ofFin (w := 5) a ++ (2 : BitVec 3) ++ o)
  | .ldHn d a o => some ((24 : BitVec 6) ++ BitVec.ofFin (w := 5) d ++ BitVec.ofFin (w := 5) a ++ (3 : BitVec 3) ++ o)
  | .ldW d a o => some ((24 : BitVec 6) ++ BitVec.ofFin (w := 5) d ++ BitVec.ofFin (w := 5) a ++ (4 : BitVec 3) ++ o)
  | .ldWn d a o => some ((24 : BitVec 6) ++ BitVec.ofFin (w := 5) d ++ BitVec.ofFin (w := 5) a ++ (5 : BitVec 3) ++ o)
  | .ldD d a o => some ((24 : BitVec 6) ++ BitVec.ofFin (w := 5) d ++ BitVec.ofFin (w := 5) a ++ (6 : BitVec 3) ++ o)
  | .stB d a o => some ((25 : BitVec 6) ++ BitVec.ofFin (w := 5) d ++ BitVec.ofFin (w := 5) a ++ (0 : BitVec 3) ++ o)
  | .stH d a o => some ((25 : BitVec 6) ++ BitVec.ofFin (w := 5) d ++ BitVec.ofFin (w := 5) a ++ (1 : BitVec 3) ++ o)
  | .stW d a o => some ((25 : BitVec 6) ++ BitVec.ofFin (w := 5) d ++ BitVec.ofFin (w := 5) a ++ (2 : BitVec 3) ++ o)
  | .stD d a o => some ((25 : BitVec 6) ++ BitVec.ofFin (w := 5) d ++ BitVec.ofFin (w := 5) a ++ (3 : BitVec 3) ++ o)
  | .ldxB d a b s => some ((26 : BitVec 6) ++ BitVec.ofFin (w := 5) d ++ BitVec.ofFin (w := 5) a ++ BitVec.ofFin (w := 5) b ++ (0 : BitVec 4) ++ s ++ (0 : BitVec 4))
  | .ldxBn d a b s => some ((26 : BitVec 6) ++ BitVec.ofFin (w := 5) d ++ BitVec.ofFin (w := 5) a ++ BitVec.ofFin (w := 5) b ++ (0 : BitVec 4) ++ s ++ (1 : BitVec 4))
  | .ldxH d a b s => some ((26 : BitVec 6) ++ BitVec.ofFin (w := 5) d ++ BitVec.ofFin (w := 5) a ++ BitVec.ofFin (w := 5) b ++ (0 : BitVec 4) ++ s ++ (2 : BitVec 4))
  | .ldxHn d a b s => some ((26 : BitVec 6) ++ BitVec.ofFin (w := 5) d ++ BitVec.ofFin (w := 5) a ++ BitVec.ofFin (w := 5) b ++ (0 : BitVec 4) ++ s ++ (3 : BitVec 4))
  | .ldxW d a b s => some ((26 : BitVec 6) ++ BitVec.ofFin (w := 5) d ++ BitVec.ofFin (w := 5) a ++ BitVec.ofFin (w := 5) b ++ (0 : BitVec 4) ++ s ++ (4 : BitVec 4))
  | .ldxWn d a b s => some ((26 : BitVec 6) ++ BitVec.ofFin (w := 5) d ++ BitVec.ofFin (w := 5) a ++ BitVec.ofFin (w := 5) b ++ (0 : BitVec 4) ++ s ++ (5 : BitVec 4))
  | .ldxD d a b s => some ((26 : BitVec 6) ++ BitVec.ofFin (w := 5) d ++ BitVec.ofFin (w := 5) a ++ BitVec.ofFin (w := 5) b ++ (0 : BitVec 4) ++ s ++ (6 : BitVec 4))
  | .stxB d a b s => some ((26 : BitVec 6) ++ BitVec.ofFin (w := 5) d ++ BitVec.ofFin (w := 5) a ++ BitVec.ofFin (w := 5) b ++ (0 : BitVec 4) ++ s ++ (7 : BitVec 4))
  | .stxH d a b s => some ((26 : BitVec 6) ++ BitVec.ofFin (w := 5) d ++ BitVec.ofFin (w := 5) a ++ BitVec.ofFin (w := 5) b ++ (0 : BitVec 4) ++ s ++ (8 : BitVec 4))
  | .stxW d a b s => some ((26 : BitVec 6) ++ BitVec.ofFin (w := 5) d ++ BitVec.ofFin (w := 5) a ++ BitVec.ofFin (w := 5) b ++ (0 : BitVec 4) ++ s ++ (9 : BitVec 4))
  | .stxD d a b s => some ((26 : BitVec 6) ++ BitVec.ofFin (w := 5) d ++ BitVec.ofFin (w := 5) a ++ BitVec.ofFin (w := 5) b ++ (0 : BitVec 4) ++ s ++ (10 : BitVec 4))
  | .ldAcqW d a b s => some ((26 : BitVec 6) ++ BitVec.ofFin (w := 5) d ++ BitVec.ofFin (w := 5) a ++ BitVec.ofFin (w := 5) b ++ (0 : BitVec 4) ++ s ++ (11 : BitVec 4))
  | .ldAcqWn d a b s => some ((26 : BitVec 6) ++ BitVec.ofFin (w := 5) d ++ BitVec.ofFin (w := 5) a ++ BitVec.ofFin (w := 5) b ++ (0 : BitVec 4) ++ s ++ (12 : BitVec 4))
  | .ldAcqD d a b s => some ((26 : BitVec 6) ++ BitVec.ofFin (w := 5) d ++ BitVec.ofFin (w := 5) a ++ BitVec.ofFin (w := 5) b ++ (0 : BitVec 4) ++ s ++ (13 : BitVec 4))
  | .stRelW d a b s => some ((26 : BitVec 6) ++ BitVec.ofFin (w := 5) d ++ BitVec.ofFin (w := 5) a ++ BitVec.ofFin (w := 5) b ++ (0 : BitVec 4) ++ s ++ (14 : BitVec 4))
  | .stRelD d a b s => some ((26 : BitVec 6) ++ BitVec.ofFin (w := 5) d ++ BitVec.ofFin (w := 5) a ++ BitVec.ofFin (w := 5) b ++ (0 : BitVec 4) ++ s ++ (15 : BitVec 4))
  | .vld v a b k => some ((27 : BitVec 6) ++ (0 : BitVec 1) ++ BitVec.ofFin (w := 4) v ++ BitVec.ofFin (w := 5) a ++ BitVec.ofFin (w := 5) b ++ (0 : BitVec 5) ++ BitVec.ofFin (w := 3) k ++ (0 : BitVec 3))
  | .vst v a b k => some ((27 : BitVec 6) ++ (0 : BitVec 1) ++ BitVec.ofFin (w := 4) v ++ BitVec.ofFin (w := 5) a ++ BitVec.ofFin (w := 5) b ++ (0 : BitVec 5) ++ BitVec.ofFin (w := 3) k ++ (1 : BitVec 3))
  | .vlds v a b e k => some ((27 : BitVec 6) ++ (0 : BitVec 1) ++ BitVec.ofFin (w := 4) v ++ BitVec.ofFin (w := 5) a ++ BitVec.ofFin (w := 5) b ++ (0 : BitVec 3) ++ e.code ++ BitVec.ofFin (w := 3) k ++ (2 : BitVec 3))
  | .vsts v a b e k => some ((27 : BitVec 6) ++ (0 : BitVec 1) ++ BitVec.ofFin (w := 4) v ++ BitVec.ofFin (w := 5) a ++ BitVec.ofFin (w := 5) b ++ (0 : BitVec 3) ++ e.code ++ BitVec.ofFin (w := 3) k ++ (3 : BitVec 3))
  | .vgather v a x e k => some ((27 : BitVec 6) ++ (0 : BitVec 1) ++ BitVec.ofFin (w := 4) v ++ BitVec.ofFin (w := 5) a ++ (0 : BitVec 1) ++ BitVec.ofFin (w := 4) x ++ (0 : BitVec 3) ++ e.code ++ BitVec.ofFin (w := 3) k ++ (4 : BitVec 3))
  | .vscatter v a x e k => some ((27 : BitVec 6) ++ (0 : BitVec 1) ++ BitVec.ofFin (w := 4) v ++ BitVec.ofFin (w := 5) a ++ (0 : BitVec 1) ++ BitVec.ofFin (w := 4) x ++ (0 : BitVec 3) ++ e.code ++ BitVec.ofFin (w := 3) k ++ (5 : BitVec 3))
  | .vbcld v a b e => some ((27 : BitVec 6) ++ (0 : BitVec 1) ++ BitVec.ofFin (w := 4) v ++ BitVec.ofFin (w := 5) a ++ BitVec.ofFin (w := 5) b ++ (0 : BitVec 3) ++ e.code ++ (6 : BitVec 6))
  | .amoAdd d a b o s => some ((32 : BitVec 6) ++ BitVec.ofFin (w := 5) d ++ BitVec.ofFin (w := 5) a ++ BitVec.ofFin (w := 5) b ++ (0 : BitVec 4) ++ o.code ++ BitVec.ofBool s ++ (0 : BitVec 4))
  | .amoAnd d a b o s => some ((32 : BitVec 6) ++ BitVec.ofFin (w := 5) d ++ BitVec.ofFin (w := 5) a ++ BitVec.ofFin (w := 5) b ++ (0 : BitVec 4) ++ o.code ++ BitVec.ofBool s ++ (1 : BitVec 4))
  | .amoOr d a b o s => some ((32 : BitVec 6) ++ BitVec.ofFin (w := 5) d ++ BitVec.ofFin (w := 5) a ++ BitVec.ofFin (w := 5) b ++ (0 : BitVec 4) ++ o.code ++ BitVec.ofBool s ++ (2 : BitVec 4))
  | .amoXor d a b o s => some ((32 : BitVec 6) ++ BitVec.ofFin (w := 5) d ++ BitVec.ofFin (w := 5) a ++ BitVec.ofFin (w := 5) b ++ (0 : BitVec 4) ++ o.code ++ BitVec.ofBool s ++ (3 : BitVec 4))
  | .amoMin d a b o s => some ((32 : BitVec 6) ++ BitVec.ofFin (w := 5) d ++ BitVec.ofFin (w := 5) a ++ BitVec.ofFin (w := 5) b ++ (0 : BitVec 4) ++ o.code ++ BitVec.ofBool s ++ (4 : BitVec 4))
  | .amoMax d a b o s => some ((32 : BitVec 6) ++ BitVec.ofFin (w := 5) d ++ BitVec.ofFin (w := 5) a ++ BitVec.ofFin (w := 5) b ++ (0 : BitVec 4) ++ o.code ++ BitVec.ofBool s ++ (5 : BitVec 4))
  | .amoMinu d a b o s => some ((32 : BitVec 6) ++ BitVec.ofFin (w := 5) d ++ BitVec.ofFin (w := 5) a ++ BitVec.ofFin (w := 5) b ++ (0 : BitVec 4) ++ o.code ++ BitVec.ofBool s ++ (6 : BitVec 4))
  | .amoMaxu d a b o s => some ((32 : BitVec 6) ++ BitVec.ofFin (w := 5) d ++ BitVec.ofFin (w := 5) a ++ BitVec.ofFin (w := 5) b ++ (0 : BitVec 4) ++ o.code ++ BitVec.ofBool s ++ (7 : BitVec 4))
  | .amoSwap d a b o s => some ((32 : BitVec 6) ++ BitVec.ofFin (w := 5) d ++ BitVec.ofFin (w := 5) a ++ BitVec.ofFin (w := 5) b ++ (0 : BitVec 4) ++ o.code ++ BitVec.ofBool s ++ (8 : BitVec 4))
  | .amoCas d a b o s => some ((32 : BitVec 6) ++ BitVec.ofFin (w := 5) d ++ BitVec.ofFin (w := 5) a ++ BitVec.ofFin (w := 5) b ++ (0 : BitVec 4) ++ o.code ++ BitVec.ofBool s ++ (9 : BitVec 4))
  | .amoFadd d a b o s => some ((32 : BitVec 6) ++ BitVec.ofFin (w := 5) d ++ BitVec.ofFin (w := 5) a ++ BitVec.ofFin (w := 5) b ++ (0 : BitVec 4) ++ o.code ++ BitVec.ofBool s ++ (10 : BitVec 4))
  | .amoFmin d a b o s => some ((32 : BitVec 6) ++ BitVec.ofFin (w := 5) d ++ BitVec.ofFin (w := 5) a ++ BitVec.ofFin (w := 5) b ++ (0 : BitVec 4) ++ o.code ++ BitVec.ofBool s ++ (11 : BitVec 4))
  | .amoFmax d a b o s => some ((32 : BitVec 6) ++ BitVec.ofFin (w := 5) d ++ BitVec.ofFin (w := 5) a ++ BitVec.ofFin (w := 5) b ++ (0 : BitVec 4) ++ o.code ++ BitVec.ofBool s ++ (12 : BitVec 4))
  | .redAdd a b o s => some ((33 : BitVec 6) ++ (0 : BitVec 5) ++ BitVec.ofFin (w := 5) a ++ BitVec.ofFin (w := 5) b ++ (0 : BitVec 4) ++ BitVec.ofBool o ++ (0 : BitVec 1) ++ BitVec.ofBool s ++ (0 : BitVec 4))
  | .redAnd a b o s => some ((33 : BitVec 6) ++ (0 : BitVec 5) ++ BitVec.ofFin (w := 5) a ++ BitVec.ofFin (w := 5) b ++ (0 : BitVec 4) ++ BitVec.ofBool o ++ (0 : BitVec 1) ++ BitVec.ofBool s ++ (1 : BitVec 4))
  | .redOr a b o s => some ((33 : BitVec 6) ++ (0 : BitVec 5) ++ BitVec.ofFin (w := 5) a ++ BitVec.ofFin (w := 5) b ++ (0 : BitVec 4) ++ BitVec.ofBool o ++ (0 : BitVec 1) ++ BitVec.ofBool s ++ (2 : BitVec 4))
  | .redXor a b o s => some ((33 : BitVec 6) ++ (0 : BitVec 5) ++ BitVec.ofFin (w := 5) a ++ BitVec.ofFin (w := 5) b ++ (0 : BitVec 4) ++ BitVec.ofBool o ++ (0 : BitVec 1) ++ BitVec.ofBool s ++ (3 : BitVec 4))
  | .redMin a b o s => some ((33 : BitVec 6) ++ (0 : BitVec 5) ++ BitVec.ofFin (w := 5) a ++ BitVec.ofFin (w := 5) b ++ (0 : BitVec 4) ++ BitVec.ofBool o ++ (0 : BitVec 1) ++ BitVec.ofBool s ++ (4 : BitVec 4))
  | .redMax a b o s => some ((33 : BitVec 6) ++ (0 : BitVec 5) ++ BitVec.ofFin (w := 5) a ++ BitVec.ofFin (w := 5) b ++ (0 : BitVec 4) ++ BitVec.ofBool o ++ (0 : BitVec 1) ++ BitVec.ofBool s ++ (5 : BitVec 4))
  | .redMinu a b o s => some ((33 : BitVec 6) ++ (0 : BitVec 5) ++ BitVec.ofFin (w := 5) a ++ BitVec.ofFin (w := 5) b ++ (0 : BitVec 4) ++ BitVec.ofBool o ++ (0 : BitVec 1) ++ BitVec.ofBool s ++ (6 : BitVec 4))
  | .redMaxu a b o s => some ((33 : BitVec 6) ++ (0 : BitVec 5) ++ BitVec.ofFin (w := 5) a ++ BitVec.ofFin (w := 5) b ++ (0 : BitVec 4) ++ BitVec.ofBool o ++ (0 : BitVec 1) ++ BitVec.ofBool s ++ (7 : BitVec 4))
  | .redFadd a b o s => some ((33 : BitVec 6) ++ (0 : BitVec 5) ++ BitVec.ofFin (w := 5) a ++ BitVec.ofFin (w := 5) b ++ (0 : BitVec 4) ++ BitVec.ofBool o ++ (0 : BitVec 1) ++ BitVec.ofBool s ++ (8 : BitVec 4))
  | .redFmin a b o s => some ((33 : BitVec 6) ++ (0 : BitVec 5) ++ BitVec.ofFin (w := 5) a ++ BitVec.ofFin (w := 5) b ++ (0 : BitVec 4) ++ BitVec.ofBool o ++ (0 : BitVec 1) ++ BitVec.ofBool s ++ (9 : BitVec 4))
  | .redFmax a b o s => some ((33 : BitVec 6) ++ (0 : BitVec 5) ++ BitVec.ofFin (w := 5) a ++ BitVec.ofFin (w := 5) b ++ (0 : BitVec 4) ++ BitVec.ofBool o ++ (0 : BitVec 1) ++ BitVec.ofBool s ++ (10 : BitVec 4))
  | .watch w a m => some ((36 : BitVec 6) ++ (0 : BitVec 3) ++ BitVec.ofFin (w := 2) w ++ BitVec.ofFin (w := 5) a ++ (0 : BitVec 9) ++ m ++ (0 : BitVec 3))
  | .unwatch w => some ((36 : BitVec 6) ++ (0 : BitVec 3) ++ BitVec.ofFin (w := 2) w ++ (1 : BitVec 21))
  | .sleep a => some ((36 : BitVec 6) ++ (0 : BitVec 5) ++ BitVec.ofFin (w := 5) a ++ (2 : BitVec 16))
  | .wfired d => some ((36 : BitVec 6) ++ BitVec.ofFin (w := 5) d ++ (3 : BitVec 21))
  | .tmarm a b => some ((36 : BitVec 6) ++ (0 : BitVec 5) ++ BitVec.ofFin (w := 5) a ++ BitVec.ofFin (w := 5) b ++ (4 : BitVec 11))
  | .tbinit a b => some ((37 : BitVec 6) ++ BitVec.ofFin (w := 5) a ++ BitVec.ofFin (w := 5) b ++ (0 : BitVec 16))
  | .tbexpect a b => some ((37 : BitVec 6) ++ BitVec.ofFin (w := 5) a ++ BitVec.ofFin (w := 5) b ++ (1 : BitVec 16))
  | .tbarrive a => some ((37 : BitVec 6) ++ BitVec.ofFin (w := 5) a ++ (2 : BitVec 21))
  | .tbwait a p => some ((37 : BitVec 6) ++ BitVec.ofFin (w := 5) a ++ (0 : BitVec 15) ++ p ++ (3 : BitVec 2))
  | .mbadd a b => some ((38 : BitVec 6) ++ BitVec.ofFin (w := 5) a ++ BitVec.ofFin (w := 5) b ++ (0 : BitVec 16))
  | .mbrd a c => some ((38 : BitVec 6) ++ BitVec.ofFin (w := 5) a ++ (0 : BitVec 5) ++ BitVec.ofFin (w := 5) c ++ (1 : BitVec 11))
  | .mbwait a b => some ((38 : BitVec 6) ++ BitVec.ofFin (w := 5) a ++ BitVec.ofFin (w := 5) b ++ (2 : BitVec 16))
  | .tktake a c => some ((38 : BitVec 6) ++ BitVec.ofFin (w := 5) a ++ (0 : BitVec 5) ++ BitVec.ofFin (w := 5) c ++ (3 : BitVec 11))
  | .tkwait a b => some ((38 : BitVec 6) ++ BitVec.ofFin (w := 5) a ++ BitVec.ofFin (w := 5) b ++ (4 : BitVec 16))
  | .vadd d a b k t => some ((40 : BitVec 6) ++ BitVec.ofFin (w := 4) d ++ BitVec.ofFin (w := 4) a ++ BitVec.ofFin (w := 4) b ++ BitVec.ofFin (w := 3) k ++ (0 : BitVec 2) ++ t.code ++ (0 : BitVec 5))
  | .vsub d a b k t => some ((40 : BitVec 6) ++ BitVec.ofFin (w := 4) d ++ BitVec.ofFin (w := 4) a ++ BitVec.ofFin (w := 4) b ++ BitVec.ofFin (w := 3) k ++ (0 : BitVec 2) ++ t.code ++ (1 : BitVec 5))
  | .vmul d a b k t => some ((40 : BitVec 6) ++ BitVec.ofFin (w := 4) d ++ BitVec.ofFin (w := 4) a ++ BitVec.ofFin (w := 4) b ++ BitVec.ofFin (w := 3) k ++ (0 : BitVec 2) ++ t.code ++ (2 : BitVec 5))
  | .vfma d a b k t => some ((40 : BitVec 6) ++ BitVec.ofFin (w := 4) d ++ BitVec.ofFin (w := 4) a ++ BitVec.ofFin (w := 4) b ++ BitVec.ofFin (w := 3) k ++ (0 : BitVec 2) ++ t.code ++ (3 : BitVec 5))
  | .vfnma d a b k t => some ((40 : BitVec 6) ++ BitVec.ofFin (w := 4) d ++ BitVec.ofFin (w := 4) a ++ BitVec.ofFin (w := 4) b ++ BitVec.ofFin (w := 3) k ++ (0 : BitVec 2) ++ t.code ++ (4 : BitVec 5))
  | .vmin d a b k t => some ((40 : BitVec 6) ++ BitVec.ofFin (w := 4) d ++ BitVec.ofFin (w := 4) a ++ BitVec.ofFin (w := 4) b ++ BitVec.ofFin (w := 3) k ++ (0 : BitVec 2) ++ t.code ++ (5 : BitVec 5))
  | .vmax d a b k t => some ((40 : BitVec 6) ++ BitVec.ofFin (w := 4) d ++ BitVec.ofFin (w := 4) a ++ BitVec.ofFin (w := 4) b ++ BitVec.ofFin (w := 3) k ++ (0 : BitVec 2) ++ t.code ++ (6 : BitVec 5))
  | .vabs d a k t => some ((40 : BitVec 6) ++ BitVec.ofFin (w := 4) d ++ BitVec.ofFin (w := 4) a ++ (0 : BitVec 4) ++ BitVec.ofFin (w := 3) k ++ (0 : BitVec 2) ++ t.code ++ (7 : BitVec 5))
  | .vneg d a k t => some ((40 : BitVec 6) ++ BitVec.ofFin (w := 4) d ++ BitVec.ofFin (w := 4) a ++ (0 : BitVec 4) ++ BitVec.ofFin (w := 3) k ++ (0 : BitVec 2) ++ t.code ++ (8 : BitVec 5))
  | .vdiv d a b k t => some ((40 : BitVec 6) ++ BitVec.ofFin (w := 4) d ++ BitVec.ofFin (w := 4) a ++ BitVec.ofFin (w := 4) b ++ BitVec.ofFin (w := 3) k ++ (0 : BitVec 2) ++ t.code ++ (9 : BitVec 5))
  | .vsqrt d a k t => some ((40 : BitVec 6) ++ BitVec.ofFin (w := 4) d ++ BitVec.ofFin (w := 4) a ++ (0 : BitVec 4) ++ BitVec.ofFin (w := 3) k ++ (0 : BitVec 2) ++ t.code ++ (10 : BitVec 5))
  | .vand d a b k t => some ((40 : BitVec 6) ++ BitVec.ofFin (w := 4) d ++ BitVec.ofFin (w := 4) a ++ BitVec.ofFin (w := 4) b ++ BitVec.ofFin (w := 3) k ++ (0 : BitVec 2) ++ t.code ++ (11 : BitVec 5))
  | .vor d a b k t => some ((40 : BitVec 6) ++ BitVec.ofFin (w := 4) d ++ BitVec.ofFin (w := 4) a ++ BitVec.ofFin (w := 4) b ++ BitVec.ofFin (w := 3) k ++ (0 : BitVec 2) ++ t.code ++ (12 : BitVec 5))
  | .vxor d a b k t => some ((40 : BitVec 6) ++ BitVec.ofFin (w := 4) d ++ BitVec.ofFin (w := 4) a ++ BitVec.ofFin (w := 4) b ++ BitVec.ofFin (w := 3) k ++ (0 : BitVec 2) ++ t.code ++ (13 : BitVec 5))
  | .vnot d a k t => some ((40 : BitVec 6) ++ BitVec.ofFin (w := 4) d ++ BitVec.ofFin (w := 4) a ++ (0 : BitVec 4) ++ BitVec.ofFin (w := 3) k ++ (0 : BitVec 2) ++ t.code ++ (14 : BitVec 5))
  | .vshl d a b k t => some ((40 : BitVec 6) ++ BitVec.ofFin (w := 4) d ++ BitVec.ofFin (w := 4) a ++ BitVec.ofFin (w := 4) b ++ BitVec.ofFin (w := 3) k ++ (0 : BitVec 2) ++ t.code ++ (15 : BitVec 5))
  | .vshr d a b k t => some ((40 : BitVec 6) ++ BitVec.ofFin (w := 4) d ++ BitVec.ofFin (w := 4) a ++ BitVec.ofFin (w := 4) b ++ BitVec.ofFin (w := 3) k ++ (0 : BitVec 2) ++ t.code ++ (16 : BitVec 5))
  | .vshra d a b k t => some ((40 : BitVec 6) ++ BitVec.ofFin (w := 4) d ++ BitVec.ofFin (w := 4) a ++ BitVec.ofFin (w := 4) b ++ BitVec.ofFin (w := 3) k ++ (0 : BitVec 2) ++ t.code ++ (17 : BitVec 5))
  | .vcmpEq d a b k t => some ((41 : BitVec 6) ++ (0 : BitVec 1) ++ BitVec.ofFin (w := 3) d ++ BitVec.ofFin (w := 4) a ++ BitVec.ofFin (w := 4) b ++ BitVec.ofFin (w := 3) k ++ (0 : BitVec 4) ++ t.code ++ (0 : BitVec 3))
  | .vcmpNe d a b k t => some ((41 : BitVec 6) ++ (0 : BitVec 1) ++ BitVec.ofFin (w := 3) d ++ BitVec.ofFin (w := 4) a ++ BitVec.ofFin (w := 4) b ++ BitVec.ofFin (w := 3) k ++ (0 : BitVec 4) ++ t.code ++ (1 : BitVec 3))
  | .vcmpLt d a b k t => some ((41 : BitVec 6) ++ (0 : BitVec 1) ++ BitVec.ofFin (w := 3) d ++ BitVec.ofFin (w := 4) a ++ BitVec.ofFin (w := 4) b ++ BitVec.ofFin (w := 3) k ++ (0 : BitVec 4) ++ t.code ++ (2 : BitVec 3))
  | .vcmpLe d a b k t => some ((41 : BitVec 6) ++ (0 : BitVec 1) ++ BitVec.ofFin (w := 3) d ++ BitVec.ofFin (w := 4) a ++ BitVec.ofFin (w := 4) b ++ BitVec.ofFin (w := 3) k ++ (0 : BitVec 4) ++ t.code ++ (3 : BitVec 3))
  | .vcmpGt d a b k t => some ((41 : BitVec 6) ++ (0 : BitVec 1) ++ BitVec.ofFin (w := 3) d ++ BitVec.ofFin (w := 4) a ++ BitVec.ofFin (w := 4) b ++ BitVec.ofFin (w := 3) k ++ (0 : BitVec 4) ++ t.code ++ (4 : BitVec 3))
  | .vcmpGe d a b k t => some ((41 : BitVec 6) ++ (0 : BitVec 1) ++ BitVec.ofFin (w := 3) d ++ BitVec.ofFin (w := 4) a ++ BitVec.ofFin (w := 4) b ++ BitVec.ofFin (w := 3) k ++ (0 : BitVec 4) ++ t.code ++ (5 : BitVec 3))
  | .vsel d a b k t => some ((42 : BitVec 6) ++ BitVec.ofFin (w := 4) d ++ BitVec.ofFin (w := 4) a ++ BitVec.ofFin (w := 4) b ++ BitVec.ofFin (w := 3) k ++ (0 : BitVec 4) ++ t.code ++ (0 : BitVec 3))
  | .vbcast d g k t => some ((42 : BitVec 6) ++ BitVec.ofFin (w := 4) d ++ BitVec.ofFin (w := 5) g ++ (0 : BitVec 3) ++ BitVec.ofFin (w := 3) k ++ (0 : BitVec 4) ++ t.code ++ (1 : BitVec 3))
  | .vins d g l t => some ((42 : BitVec 6) ++ BitVec.ofFin (w := 4) d ++ BitVec.ofFin (w := 5) g ++ l ++ (0 : BitVec 4) ++ t.code ++ (2 : BitVec 3))
  | .vext g a l t => some ((42 : BitVec 6) ++ BitVec.ofFin (w := 5) g ++ BitVec.ofFin (w := 4) a ++ l ++ (0 : BitVec 4) ++ t.code ++ (3 : BitVec 3))
  | .vperm d a b k t => some ((42 : BitVec 6) ++ BitVec.ofFin (w := 4) d ++ BitVec.ofFin (w := 4) a ++ BitVec.ofFin (w := 4) b ++ BitVec.ofFin (w := 3) k ++ (0 : BitVec 4) ++ t.code ++ (4 : BitVec 3))
  | .vslideUp d a n t => some ((42 : BitVec 6) ++ BitVec.ofFin (w := 4) d ++ BitVec.ofFin (w := 4) a ++ n ++ (0 : BitVec 5) ++ t.code ++ (5 : BitVec 3))
  | .vslideDown d a n t => some ((42 : BitVec 6) ++ BitVec.ofFin (w := 4) d ++ BitVec.ofFin (w := 4) a ++ n ++ (16 : BitVec 5) ++ t.code ++ (5 : BitVec 3))
  | .vmov d a k => some ((42 : BitVec 6) ++ BitVec.ofFin (w := 4) d ++ BitVec.ofFin (w := 4) a ++ (0 : BitVec 4) ++ BitVec.ofFin (w := 3) k ++ (6 : BitVec 11))
  | .vrsum d a k t => some ((43 : BitVec 6) ++ BitVec.ofFin (w := 4) d ++ BitVec.ofFin (w := 4) a ++ (0 : BitVec 4) ++ BitVec.ofFin (w := 3) k ++ (0 : BitVec 5) ++ t.code ++ (0 : BitVec 2))
  | .vrmax d a k t => some ((43 : BitVec 6) ++ BitVec.ofFin (w := 4) d ++ BitVec.ofFin (w := 4) a ++ (0 : BitVec 4) ++ BitVec.ofFin (w := 3) k ++ (0 : BitVec 5) ++ t.code ++ (1 : BitVec 2))
  | .vrmin d a k t => some ((43 : BitVec 6) ++ BitVec.ofFin (w := 4) d ++ BitVec.ofFin (w := 4) a ++ (0 : BitVec 4) ++ BitVec.ofFin (w := 3) k ++ (0 : BitVec 5) ++ t.code ++ (2 : BitVec 2))
  | .vcvtF64F32 d a k => some ((44 : BitVec 6) ++ BitVec.ofFin (w := 4) d ++ BitVec.ofFin (w := 4) a ++ (0 : BitVec 4) ++ BitVec.ofFin (w := 3) k ++ (0 : BitVec 11))
  | .vcvtF32F64 d a k => some ((44 : BitVec 6) ++ BitVec.ofFin (w := 4) d ++ BitVec.ofFin (w := 4) a ++ (0 : BitVec 4) ++ BitVec.ofFin (w := 3) k ++ (1 : BitVec 11))
  | .vcvtF32Bf16 d a k => some ((44 : BitVec 6) ++ BitVec.ofFin (w := 4) d ++ BitVec.ofFin (w := 4) a ++ (0 : BitVec 4) ++ BitVec.ofFin (w := 3) k ++ (2 : BitVec 11))
  | .vcvtBf16F32 d a k => some ((44 : BitVec 6) ++ BitVec.ofFin (w := 4) d ++ BitVec.ofFin (w := 4) a ++ (0 : BitVec 4) ++ BitVec.ofFin (w := 3) k ++ (3 : BitVec 11))
  | .vcvtF32F16 d a k => some ((44 : BitVec 6) ++ BitVec.ofFin (w := 4) d ++ BitVec.ofFin (w := 4) a ++ (0 : BitVec 4) ++ BitVec.ofFin (w := 3) k ++ (4 : BitVec 11))
  | .vcvtF16F32 d a k => some ((44 : BitVec 6) ++ BitVec.ofFin (w := 4) d ++ BitVec.ofFin (w := 4) a ++ (0 : BitVec 4) ++ BitVec.ofFin (w := 3) k ++ (5 : BitVec 11))
  | .vcvtF32I32 d a k => some ((44 : BitVec 6) ++ BitVec.ofFin (w := 4) d ++ BitVec.ofFin (w := 4) a ++ (0 : BitVec 4) ++ BitVec.ofFin (w := 3) k ++ (6 : BitVec 11))
  | .vcvtI32F32 d a k => some ((44 : BitVec 6) ++ BitVec.ofFin (w := 4) d ++ BitVec.ofFin (w := 4) a ++ (0 : BitVec 4) ++ BitVec.ofFin (w := 3) k ++ (7 : BitVec 11))
  | .vcvtF64I64 d a k => some ((44 : BitVec 6) ++ BitVec.ofFin (w := 4) d ++ BitVec.ofFin (w := 4) a ++ (0 : BitVec 4) ++ BitVec.ofFin (w := 3) k ++ (8 : BitVec 11))
  | .vcvtI64F64 d a k => some ((44 : BitVec 6) ++ BitVec.ofFin (w := 4) d ++ BitVec.ofFin (w := 4) a ++ (0 : BitVec 4) ++ BitVec.ofFin (w := 3) k ++ (9 : BitVec 11))
  | .vcvtBf16Lns8 d a k => some ((44 : BitVec 6) ++ BitVec.ofFin (w := 4) d ++ BitVec.ofFin (w := 4) a ++ (0 : BitVec 4) ++ BitVec.ofFin (w := 3) k ++ (10 : BitVec 11))
  | .vcvtLns8Bf16 d a k => some ((44 : BitVec 6) ++ BitVec.ofFin (w := 4) d ++ BitVec.ofFin (w := 4) a ++ (0 : BitVec 4) ++ BitVec.ofFin (w := 3) k ++ (11 : BitVec 11))
  | .vcvtBf16Lns6 d a k => some ((44 : BitVec 6) ++ BitVec.ofFin (w := 4) d ++ BitVec.ofFin (w := 4) a ++ (0 : BitVec 4) ++ BitVec.ofFin (w := 3) k ++ (12 : BitVec 11))
  | .vcvtLns6Bf16 d a k => some ((44 : BitVec 6) ++ BitVec.ofFin (w := 4) d ++ BitVec.ofFin (w := 4) a ++ (0 : BitVec 4) ++ BitVec.ofFin (w := 3) k ++ (13 : BitVec 11))
  | .vtload y g => some ((45 : BitVec 6) ++ (0 : BitVec 2) ++ BitVec.ofFin (w := 2) y ++ BitVec.ofFin (w := 5) g ++ (0 : BitVec 17))
  | .vtab d a y k t => some ((45 : BitVec 6) ++ BitVec.ofFin (w := 4) d ++ BitVec.ofFin (w := 4) a ++ BitVec.ofFin (w := 2) y ++ (0 : BitVec 2) ++ BitVec.ofFin (w := 3) k ++ (0 : BitVec 6) ++ t.code ++ (1 : BitVec 1))
  | .kand d a b => some ((46 : BitVec 6) ++ (0 : BitVec 2) ++ BitVec.ofFin (w := 3) d ++ (0 : BitVec 2) ++ BitVec.ofFin (w := 3) a ++ (0 : BitVec 2) ++ BitVec.ofFin (w := 3) b ++ (0 : BitVec 11))
  | .kor d a b => some ((46 : BitVec 6) ++ (0 : BitVec 2) ++ BitVec.ofFin (w := 3) d ++ (0 : BitVec 2) ++ BitVec.ofFin (w := 3) a ++ (0 : BitVec 2) ++ BitVec.ofFin (w := 3) b ++ (1 : BitVec 11))
  | .kxor d a b => some ((46 : BitVec 6) ++ (0 : BitVec 2) ++ BitVec.ofFin (w := 3) d ++ (0 : BitVec 2) ++ BitVec.ofFin (w := 3) a ++ (0 : BitVec 2) ++ BitVec.ofFin (w := 3) b ++ (2 : BitVec 11))
  | .knot d a => some ((46 : BitVec 6) ++ (0 : BitVec 2) ++ BitVec.ofFin (w := 3) d ++ (0 : BitVec 2) ++ BitVec.ofFin (w := 3) a ++ (3 : BitVec 16))
  | .kpop d a => some ((46 : BitVec 6) ++ BitVec.ofFin (w := 5) d ++ (0 : BitVec 2) ++ BitVec.ofFin (w := 3) a ++ (4 : BitVec 16))
  | .kset d a => some ((46 : BitVec 6) ++ (0 : BitVec 2) ++ BitVec.ofFin (w := 3) d ++ BitVec.ofFin (w := 5) a ++ (5 : BitVec 16))
  | .kget d a => some ((46 : BitVec 6) ++ BitVec.ofFin (w := 5) d ++ (0 : BitVec 2) ++ BitVec.ofFin (w := 3) a ++ (6 : BitVec 16))
  | .oclaim a c => some ((52 : BitVec 6) ++ BitVec.ofFin (w := 5) a ++ (0 : BitVec 5) ++ BitVec.ofFin (w := 5) c ++ (0 : BitVec 11))
  | .orelease a => some ((52 : BitVec 6) ++ BitVec.ofFin (w := 5) a ++ (1 : BitVec 21))
  | .opput a b => some ((52 : BitVec 6) ++ BitVec.ofFin (w := 5) a ++ BitVec.ofFin (w := 5) b ++ (2 : BitVec 16))
  | .mma a b c w f => some ((52 : BitVec 6) ++ BitVec.ofFin (w := 5) a ++ BitVec.ofFin (w := 5) b ++ BitVec.ofFin (w := 5) c ++ (0 : BitVec 2) ++ BitVec.ofBool w ++ f.code ++ (3 : BitVec 4))
  | .acczero a => some ((52 : BitVec 6) ++ BitVec.ofFin (w := 5) a ++ (4 : BitVec 21))
  | .accrd a b c w f => some ((52 : BitVec 6) ++ BitVec.ofFin (w := 5) a ++ BitVec.ofFin (w := 5) b ++ BitVec.ofFin (w := 5) c ++ (0 : BitVec 2) ++ BitVec.ofBool w ++ f.code ++ (5 : BitVec 4))
  | .accsat a c => some ((52 : BitVec 6) ++ BitVec.ofFin (w := 5) a ++ (0 : BitVec 5) ++ BitVec.ofFin (w := 5) c ++ (6 : BitVec 11))
  | .accget a b c => some ((52 : BitVec 6) ++ BitVec.ofFin (w := 5) a ++ BitVec.ofFin (w := 5) b ++ BitVec.ofFin (w := 5) c ++ (7 : BitVec 11))
  | .accadd a b c => some ((52 : BitVec 6) ++ BitVec.ofFin (w := 5) a ++ BitVec.ofFin (w := 5) b ++ BitVec.ofFin (w := 5) c ++ (8 : BitVec 11))
  | .xcopy a b c => some ((53 : BitVec 6) ++ BitVec.ofFin (w := 5) a ++ BitVec.ofFin (w := 5) b ++ BitVec.ofFin (w := 5) c ++ (0 : BitVec 11))
  | .xcopysp a b c => some ((53 : BitVec 6) ++ BitVec.ofFin (w := 5) a ++ BitVec.ofFin (w := 5) b ++ BitVec.ofFin (w := 5) c ++ (1 : BitVec 11))
  | .xwait n => some ((53 : BitVec 6) ++ (0 : BitVec 21) ++ n ++ (3 : BitVec 2))
  | .hread a => some ((54 : BitVec 6) ++ BitVec.ofFin (w := 5) a ++ (0 : BitVec 21))
  | .hcancel a => some ((54 : BitVec 6) ++ BitVec.ofFin (w := 5) a ++ (1 : BitVec 21))
  | .cjoin a => some ((55 : BitVec 6) ++ (0 : BitVec 5) ++ BitVec.ofFin (w := 5) a ++ (0 : BitVec 16))
  | .cbrAny a k => some ((55 : BitVec 6) ++ (0 : BitVec 5) ++ BitVec.ofFin (w := 5) a ++ (0 : BitVec 2) ++ BitVec.ofFin (w := 3) k ++ (2 : BitVec 11))
  | .cbrAll a k => some ((55 : BitVec 6) ++ (0 : BitVec 5) ++ BitVec.ofFin (w := 5) a ++ (0 : BitVec 2) ++ BitVec.ofFin (w := 3) k ++ (3 : BitVec 11))
  | .cstate d => some ((55 : BitVec 6) ++ BitVec.ofFin (w := 5) d ++ (4 : BitVec 21))
  | .tstop a => some ((60 : BitVec 6) ++ BitVec.ofFin (w := 5) a ++ (0 : BitVec 21))
  | .tstopH a => some ((60 : BitVec 6) ++ BitVec.ofFin (w := 5) a ++ (8 : BitVec 21))
  | .tstart a => some ((60 : BitVec 6) ++ BitVec.ofFin (w := 5) a ++ (1 : BitVec 21))
  | .tread a b c => some ((60 : BitVec 6) ++ BitVec.ofFin (w := 5) a ++ BitVec.ofFin (w := 5) b ++ BitVec.ofFin (w := 5) c ++ (2 : BitVec 11))
  | .twrite a b c => some ((60 : BitVec 6) ++ BitVec.ofFin (w := 5) a ++ BitVec.ofFin (w := 5) b ++ BitVec.ofFin (w := 5) c ++ (3 : BitVec 11))
  | .tstate a c => some ((60 : BitVec 6) ++ BitVec.ofFin (w := 5) a ++ (0 : BitVec 5) ++ BitVec.ofFin (w := 5) c ++ (4 : BitVec 11))
  | .tsave a b => some ((60 : BitVec 6) ++ BitVec.ofFin (w := 5) a ++ BitVec.ofFin (w := 5) b ++ (5 : BitVec 16))
  | .trestore a b => some ((60 : BitVec 6) ++ BitVec.ofFin (w := 5) a ++ BitVec.ofFin (w := 5) b ++ (6 : BitVec 16))
  | .tlbinv a b => some ((61 : BitVec 6) ++ BitVec.ofFin (w := 5) a ++ BitVec.ofFin (w := 5) b ++ (0 : BitVec 16))
  | .pglock a => some ((61 : BitVec 6) ++ BitVec.ofFin (w := 5) a ++ (1 : BitVec 21))
  | .pgswitch a b => some ((61 : BitVec 6) ++ BitVec.ofFin (w := 5) a ++ BitVec.ofFin (w := 5) b ++ (2 : BitVec 16))
  | .clwb a => some ((61 : BitVec 6) ++ BitVec.ofFin (w := 5) a ++ (3 : BitVec 21))
  | .clinv a => some ((61 : BitVec 6) ++ BitVec.ofFin (w := 5) a ++ (4 : BitVec 21))
  | .pfxImm p => some ((63 : BitVec 6) ++ (0 : BitVec 2) ++ p)
  | .pfxMod p => some ((63 : BitVec 6) ++ (1 : BitVec 2) ++ p)
  | .pfxHint p => some ((63 : BitVec 6) ++ (2 : BitVec 2) ++ p)
  | .yieldT => some ((22 : BitVec 6) ++ (7 : BitVec 26))
  | .roam => some ((22 : BitVec 6) ++ (8 : BitVec 26))
  | .anchor => some ((22 : BitVec 6) ++ (9 : BitVec 26))
  | .flushf => some ((23 : BitVec 6) ++ (16387 : BitVec 26))
  | .nop => some ((23 : BitVec 6) ++ (32768 : BitVec 26))
  | .fenceAcq => some ((34 : BitVec 6) ++ (0 : BitVec 26))
  | .fenceRel => some ((34 : BitVec 6) ++ (1 : BitVec 26))
  | .fenceFull => some ((34 : BitVec 6) ++ (2 : BitVec 26))
  | .rwait => some ((34 : BitVec 6) ++ (3 : BitVec 26))
  | .xcommit => some ((53 : BitVec 6) ++ (2 : BitVec 26))
  | .cleave => some ((55 : BitVec 6) ++ (1 : BitVec 26))
  | .loopBack  => none
  | .illegalWord  => none
  | .breakpointMatch  => none
  | .rotationBoundary  => none
  | .quantumExpiry  => none
  | .agingPromotion  => none
  | .spillEviction  => none
  | .spillMoveDone  => none
  | .watchFire  => none
  | .sleepTimeout  => none
  | .timerRecord  => none
  | .storeGatherPost  => none
  | .icacheFill  => none
  | .tlbWalkDone  => none
  | .load  => none
  | .store  => none
  | .atomic  => none
  | .reduce  => none
  | .recall  => none
  | .migrate  => none
  | .call  => none
  | .threadop  => none
  | .controlCancel  => none
  | .controlTlbinv  => none
  | .ticket  => none
  | .ticketCallNotice  => none
  | .ticketExpiry  => none
  | .bulk  => none
  | .sideband  => none
  | .sidebandTimeout  => none
  | .data  => none
  | .ack  => none
  | .nack  => none
  | .transportTimeout  => none
  | .dedupRetryTimer  => none
  | .dedupWindowIdle  => none
  | .linkUp  => none
  | .laneChange  => none
  | .linkRetire  => none
  | .vote  => none
  | .summary  => none
  | .verdict  => none
  | .abortRequest  => none
  | .collJoinRequest  => none
  | .collLeaveRequest  => none
  | .deadlineExpiry  => none
  | .verdictApply  => none
  | .heldStoreCommit  => none
  | .waveCreate  => none
  | .waveEnd  => none
  | .jobCompletion  => none
  | .engineAccept  => none
  | .mmaComplete  => none
  | .nanStop  => none
  | .acczeroDone  => none
  | .accrdComplete  => none
  | .accsatComplete  => none
  | .accgetComplete  => none
  | .accaddComplete  => none
  | .copyAccept  => none
  | .copyDelivery  => none
  | .copyArrival  => none
  | .vtloadReplace  => none
  | .reservationGrant  => none
  | .burstRequest  => none
  | .burstArrival  => none
  | .hreadComplete  => none
  | .stopComplete  => none
  | .faultRecord  => none
  | .coreLost  => none
  | .spareReplace  => none
  | .uncorrectableError  => none
  | .scrub  => none
  | .saveDrained  => none
  | .saveComplete  => none
  | .restoreComplete  => none
  | .discardComplete  => none
  | .resetDropWindow  => none
  | .tileAssignDone  => none
  | .keySlotWrite  => none
  | .jobEntryWrite  => none
  | .tileAssignWrite  => none
  | .quantumWrite  => none
  | .admcapWrite  => none
  | .bkptWrite  => none
  | .pkgWrite  => none
  | .startokWrite  => none
  | .resetgoWrite  => none
  | .quoteWrite  => none
  | .quoteDone  => none
  | .mrextWrite  => none
  | .sampleWrite  => none
  | .samplePulse  => none
  | .registerWrite  => none
  | .powerGood  => none
  | .startokTimeout  => none
  | .mgmtReset  => none
  | .mgmtReadFailrec  => none
  | .mgmtFlashWrite  => none
  | .resetDeadline  => none
  | .heartbeat  => none
  | .heartbeatTimer  => none
  | .leaderTimeout  => none
  | .overtempAlert  => none
  | .overtempShutdown  => none
  | .watchRegistration  => none
  | .operandSlotCleared  => none
  | .keySlotWritebackDone  => none
  | .ingressDrop  => none
  | .linkLevelRetry  => none

/-- The rows of the opcode table that have no instruction word: the events of the machine. -/
def Instr.isEvent (i : Instr) : Bool := (encode i).isNone

end Sys2Proof
end

