-- ==== Sys2Proof/Machine/Assoc.lean ====
section
/-!
DEFINITION. Sparse tables: lists of keyed entries in strictly rising key order.  A table stands for a function from keys to entries, with a
default for the keys it does not list.
-/

namespace Sys2Proof.Machine

/-- A table from natural-number keys. -/
abbrev Assoc (α : Type) := List (Nat × α)

/-- The entry at a key, if one is listed. -/
def Assoc.look {α : Type} : Assoc α → Nat → Option α
  | [], _ => none
  | (j, x) :: l, k => if j = k then some x else Assoc.look l k

/-- The entry at a key, or the default. -/
def Assoc.getD {α : Type} (l : Assoc α) (k : Nat) (d : α) : α := (Assoc.look l k).getD d

/-- The table with an entry set. -/
def Assoc.insert {α : Type} : Assoc α → Nat → α → Assoc α
  | [], k, x => [(k, x)]
  | (j, y) :: l, k, x =>
    if k < j then (k, x) :: (j, y) :: l
    else if k = j then (k, x) :: l
    else (j, y) :: Assoc.insert l k x

/-- The table without an entry. -/
def Assoc.erase {α : Type} : Assoc α → Nat → Assoc α
  | [], _ => []
  | (j, y) :: l, k => if j = k then l else (j, y) :: Assoc.erase l k

/-- The keys of a table, rising. -/
def Assoc.keys {α : Type} (l : Assoc α) : List Nat := l.map (·.1)

/-- The table with every entry mapped. -/
def Assoc.mapVals {α : Type} (f : Nat → α → α) (l : Assoc α) : Assoc α := l.map fun p => (p.1, f p.1 p.2)

/-- Keys that rise strictly. -/
def Assoc.sorted {α : Type} : Assoc α → Bool
  | [] => true
  | [_] => true
  | (j, _) :: (k, y) :: l => decide (j < k) && Assoc.sorted ((k, y) :: l)

end Sys2Proof.Machine
end

