-- ==== Sys2Proof/Machine/State.lean ====
section
/-!
DEFINITION. The state of the package: plain data holding everything the spec gives the machine, the model's own bookkeeping (which agent moves,
what is in flight), the reasons a step can stop, and the state after reset.
-/

namespace Sys2Proof.Machine

/-! ## Threads -/

/-- The states of R353. -/
inductive TState where
  | free | ready | bound | waiting | sleeping | stopped | faulted | spilled | held
deriving DecidableEq, Repr

/-- The value of a state (R353). -/
def TState.code : TState → BitVec 4
  | .free => 0 | .ready => 1 | .bound => 2 | .waiting => 3 | .sleeping => 4
  | .stopped => 5 | .faulted => 6 | .spilled => 7 | .held => 8

/-- The state of a value of R353. -/
def TState.ofCode (n : Nat) : TState :=
  match n with
  | 1 => .ready | 2 => .bound | 3 => .waiting | 4 => .sleeping
  | 5 => .stopped | 6 => .faulted | 7 => .spilled | 8 => .held | _ => .free

/-- What a thread waits for before its instruction goes on.  Where the condition comes to hold, the instruction goes on at once, and the thread is READY
when it has completed (R31); after `fetch` and `verdict`, whose instruction has not begun, it issues in a later turn. -/
inductive WaitCond where
  /-- Stores, reductions and REPLY acknowledged (R141). -/
  | released
  /-- REDPEND below 16 (R143). -/
  | redRoom
  /-- REDPEND zero (R143). -/
  | redZero
  /-- Room for n more store requests (R213). -/
  | storeRoom (n : Nat)
  /-- At most n closed batches outstanding (R284). -/
  | batches (n : Nat)
  /-- The core's network interface has fewer than 4,096 requests outstanding (R410). -/
  | netRoom
  /-- An entry of a table of the device is read from another package (R351, R393). -/
  | table
  /-- The core has a free timer entry (R232). -/
  | timerRoom
  /-- The tile's engine queue has a free place (R260). -/
  | engineRoom
  /-- The tile's copy queue has a free place (R278). -/
  | copyRoom
  /-- The wave control blocks of the tile have a free one (R38). -/
  | block
  /-- A walk of the page that the access needs (R380). -/
  | walk
  /-- The next word: its line in the instruction cache, or the walk of its page (R71, R380). -/
  | fetch
  /-- The verdict of a run-ahead (R319): the instruction then issues afresh. -/
  | verdict
  /-- The answer to a message of the instruction's own. -/
  | event
deriving DecidableEq, Repr

/-- Where a returning access puts its result. -/
inductive Dest where
  /-- A general register, sign- or zero-extended from a size in bytes. -/
  | gpr (d : GReg) (size : Nat) (signed : Bool)
  /-- Lanes of a vector register, of an element size in bytes. -/
  | lanes (v : VReg) (size : Nat)
  /-- Every lane of a vector register. -/
  | splat (v : VReg) (size : Nat)
  /-- No register: the value serves the instruction itself, which goes on (a descriptor or an image). -/
  | none
deriving DecidableEq, Repr

/-- What completes when a waiting thread's condition holds. -/
inductive WaitAct where
  | none
  /-- The instruction goes on when a condition holds. -/
  | again (c : WaitCond)
  /-- The condition holds, and the instruction goes on with the next step: the model's own. -/
  | resume
  /-- Returned data: pieces still to come, pieces in hand as (lane, value), the destination, and whether the access acquires. -/
  | data (left : Nat) (got : List (Nat × Nat)) (dst : Dest) (acq : Bool)
  /-- A transaction barrier's phase (R237), by the barrier's physical address. -/
  | barrier (pa : Nat) (phase : BitVec 4)
  /-- A mailbox counter's target (R241), by the counter's physical address. -/
  | mailbox (pa : Nat) (target : BitVec 32)
  /-- A join counter's zero (R200), by the counter's physical address and the key slot of its leaf. -/
  | join (pa key : Nat)
  /-- A join counter or a barrier of another package, whose home says when the condition holds (R200, R237). -/
  | far
  /-- SLEEP (R229). -/
  | sleep
  /-- The instruction completes, writing a register where one is named, when its own event says so. -/
  | done (d : GReg)
deriving DecidableEq, Repr

/-- A wait: WAITK, WAITA and WAITV of R354 and what completes. -/
structure Wait where
  k : Nat := 0
  a : Dword := 0
  v : Dword := 0
  act : WaitAct := .none
  /-- Cycle at which the instruction left the rotation, by which waiters for one place are served in issue order (R260, R278). -/
  since : Nat := 0
  /-- Request number at which the wait began: an answer to an earlier request of the thread is none to this wait; the model's own. -/
  first : Nat := 0
deriving DecidableEq, Repr

/-- A fault whose record is not yet written (R355, R356): the words that are fixed at the fault. -/
structure PendingFault where
  code : BitVec 8
  pc : Dword
  w2 : Dword
  w4 : Dword
  w5 : Dword
  deferred : Bool := false
  /-- The PC that the record names, where it is not the PC of the stop (R130). -/
  recordPc : Option Dword := none
  /-- CYCLE at which a deferred fault was raised (R320). -/
  raised : Option Nat := none
deriving DecidableEq, Repr

/-- A stop of R130: the PC of the MMA, the barrier's address and the information words; and the request that carries the MMA's arrival, which the
stop follows, while it is under way. -/
structure NanStop where
  pc : Dword
  va : Dword
  w4 : Dword
  w5 : Dword
  after : Option Nat := none
deriving DecidableEq, Repr

/-- The stub of a roaming thread (R62): the endpoint and context that keep its name. -/
structure StubRef where
  ep : Nat
  ctx : Nat
deriving DecidableEq, Repr

/-- A store of a run-ahead (R318): the bytes it will write, with the key slot of their leaf. -/
structure HeldStore where
  bytes : List (Nat × Byte)
  key : Nat
  /-- PC and address of its instruction, and the lane of a vector store. -/
  pc : Dword := 0
  ea : Dword := 0
  lane : Nat := 0
  /-- Request number at which it was held: an invalidation of its translation waits for it (R154). -/
  since : Nat := 0
deriving DecidableEq, Repr

/-- The registers that a checkpoint of run-ahead keeps (R318, R173, R193). -/
structure Checkpoint where
  pc : Dword
  g : Vector Dword 32
  v : Vector VWord 16
  k : Vector Dword 8
  b : Vector Dword 8
  flags : Dword
  pfxst : Dword
  modBad : Bool
  hintBad : Bool
  pfxAt : Vector (Option Dword) 3
  loopst : Dword
  loopb : Vector Dword 3
  loopc : Vector Dword 3
  sregs : List Dword
deriving DecidableEq, Repr

/-- A shadow bank (R318): the checkpoint, the predicted direction and target of the CBR, and the held stores in program order. -/
structure Bank where
  ck : Checkpoint
  target : Dword
  predicted : Bool
  stores : List HeldStore
  /-- A fault met during run-ahead (R320), raised after a commit. -/
  fault : Option PendingFault
  /-- The verdict that was applied and whose held stores are still being posted (R321). -/
  committing : Bool
  /-- What CSTATE reads of the wave's block where that lies on another package, as the answer to the vote brought it (R325): it stands until the verdict. -/
  seen : Dword := 0
deriving DecidableEq, Repr

/-- One context and the thread it holds (R25, R158, R354). -/
structure Thread where
  st : TState := .free
  /-- The state at the stop, for STOPPED and HELD (R366). -/
  prior : TState := .free
  fcode : BitVec 8 := 0
  pc : Dword := 0
  /-- The word that the thread issued last, with which an instruction that left the rotation goes on (R31). -/
  word : Option Word := none
  /-- The instruction buffer of its position (R71): the words after the PC, with their global physical addresses. -/
  buffer : List (Nat × Word) := []
  g : Vector Dword 32 := Vector.replicate 32 0
  v : Vector VWord 16 := Vector.replicate 16 0
  k : Vector Dword 8 := Vector.replicate 8 0
  b : Vector Dword 8 := Vector.replicate 8 0
  /-- Which b-registers are prepared (R187). -/
  prepared : Vector Bool 8 := Vector.replicate 8 false
  /-- The target buffers of its position (R72, R187): the words that were copied from each prepared target, with their global physical addresses. -/
  targets : Vector (List (Nat × Word)) 8 := Vector.replicate 8 []
  w : Vector Dword 4 := Vector.replicate 4 0
  tid : Dword := 0
  wid : Dword := 0xFFFFFFFF
  job : Dword := 0
  flags : Dword := 0
  faultrec : Dword := 0
  auth : Dword := 0
  troot : Dword := 0
  prio : Dword := 0
  nanctl : Dword := 0
  cabort : Dword := 0
  ctimeout : Dword := 0
  cmem : Dword := 0
  bx : Dword := 0
  by' : Dword := 0
  bseq : Dword := 0
  blen : Dword := 0
  xbatch : Dword := 0
  /-- Number of the open batch, by which the copies of a batch are known (R284). -/
  batchNo : Nat := 0
  pfxst : Dword := 0
  /-- A pending PFX.MOD, and a pending PFX.HINT, whose payload sets a bit that R171 or R172 makes must-be-zero. -/
  modBad : Bool := false
  hintBad : Bool := false
  /-- Recorded addresses of the pending PFX.IMM, PFX.MOD and PFX.HINT (R169). -/
  pfxAt : Vector (Option Dword) 3 := Vector.replicate 3 none
  loopst : Dword := 0
  loopb : Vector Dword 3 := Vector.replicate 3 0
  loopc : Vector Dword 3 := Vector.replicate 3 0
  /-- The instruction at PC has completed as the last word of the innermost body, and the loop-back of R191 is still to be applied. -/
  retiring : Bool := false
  redpend : Nat := 0
  /-- The store-acknowledge count (R213). -/
  storeAck : Nat := 0
  /-- The position while bound or held (R27, R35). -/
  pos : Option Nat := none
  roaming : Bool := false
  burst : Bool := false
  /-- The handler read that a burst thread, or a reserved context, belongs to (R293, R298). -/
  read : Option Nat := none
  /-- Reserved for a handler read (R293). -/
  reserved : Bool := false
  /-- Admitted by migration (R63). -/
  admitted : Bool := false
  readyTime : Nat := 0
  /-- Effective priority, and the cycle from which aging counts (R33). -/
  effPrio : Nat := 0
  agedAt : Nat := 0
  /-- Turns since bound (R34), turns owed to the current instruction (R27), and a YIELD to test at the next boundary (R34). -/
  turns : Nat := 0
  stall : Nat := 0
  yielding : Bool := false
  wait : Wait := {}
  /-- SLEEP deadline, 0 for none (R354). -/
  deadline : Nat := 0
  /-- Cycle at which the thread became SLEEPING (R59). -/
  sleptAt : Nat := 0
  stub : Option StubRef := none
  /-- This context is the origin stub of a roaming thread with this name, which stands at this endpoint and context (R62). -/
  stubFor : Option (Name × Nat × Nat) := none
  replyAddr : Dword := 0
  replyKey : Nat := 0
  pending : Option PendingFault := none
  nanStop : Option NanStop := none
  /-- Further stops whose arrivals are still under way (R130). -/
  nanLater : List NanStop := []
  /-- Breakpoints do not match the first instruction after a TSTART (R430). -/
  skipBreak : Bool := false
  /-- A TWRITE has changed the PC since the thread's last fault (R430). -/
  pcWritten : Bool := false
  lastTag : BitVec 8 := 0
  /-- Ticket admission: the endpoint and the number called (R244). -/
  ticket : Option (Nat × BitVec 32) := none
  abortReason : BitVec 8 := 0
  /-- The core whose tile or scratch holds the block of the thread's wave (R37). -/
  waveCore : Nat := 0
  /-- The package of that core, where it is another than the one the thread stands on. -/
  wavePkg : Option Nat := none
  /-- The thread has voted in the current epoch of its wave, or executed the pending CJOIN or CLEAVE (R310, R322). -/
  voted : Bool := false
  /-- Creators and starters, each with its request number at that moment: the thread issues only after their earlier stores are acknowledged (R146, R149). -/
  after : List (Name × Nat) := []
  /-- The core's L1 is discarded before the thread's next instruction (R150). -/
  stale : Bool := false
  /-- A descriptor in hand for the instruction at an address that left the rotation to read it (R28, R205, R278). -/
  inHand : Option (Dword × List Nat) := none
  bank : Option Bank := none
  /-- The target of a CBR that waits without a shadow bank (R315). -/
  cbrTarget : Dword := 0
  /-- The spilled copy sleeps (R366). -/
  spSleep : Bool := false
  /-- END has vacated the position and waits for acknowledgements (R203): the join counter it still has to decrement, with its key slot. -/
  ending : Option (Option (Nat × Nat)) := none
  /-- The end is by the thread's own END, which a refused store still stops (R203, R378). -/
  ownEnd : Bool := false
  /-- A stop that waits under R360, and whether a TSTART has arrived meanwhile (R361). -/
  stopping : Bool := false
  startAfter : Bool := false
  /-- Stopped by a save of its tile (R370, R372). -/
  bySave : Bool := false
deriving DecidableEq, Repr

/-- A context that holds no thread. -/
def Thread.idle : Thread := {}

/-! ## Cores -/

/-- A collective flit (R407). -/
structure Flit where
  collid : Word := 0
  epoch : Word := 0
  count : Nat := 0
  kindAll : Bool := false
  orv : Bool := false
  andv : Bool := true
  mixed : Bool := false
  /-- Verdict: 0 false, 1 true, 2 ABORT. -/
  result : Nat := 0
  reason : Nat := 0
  sender : Nat := 0
  /-- The member index of the wave that a vote comes from, by which its gateway on this package tells its members apart (R324): no field of R407, and not carried by
  a link; the model's own. -/
  member : Nat := 0
  /-- The wave control block that a verdict on its way to a core is for; the model's own. -/
  block : Option Nat := none
  /-- The voter of a wave of another package that a verdict is for; the model's own. -/
  far : Option Name := none
deriving DecidableEq, Repr

/-- What the block's package tells a member of a wave on another package that has voted, or executed the pending CJOIN or CLEAVE: that its wave has joined, with its
CMEM; that the join is refused, with the reason; that its wave has left; or a verdict (R314, R316, R317; log 77). -/
inductive CollNews where
  | joined (cmem : Dword)
  | refused (reason : Nat)
  | left
  | verdict (f : Flit)
deriving DecidableEq, Repr

/-- One TLB entry (R380): the root it serves, the page and the leaf. -/
structure TlbEntry where
  root : Nat
  /-- The page's first virtual address. -/
  va : Nat
  /-- log2 of the page size: 16, 25 or 34. -/
  bits : Nat
  /-- The leaf's two dwords, bit 64 up being dword 1 (R375). -/
  leaf : BitVec 128
deriving DecidableEq, Repr

/-- An access that waits for a walk: the thread, the address, the size and the rights it needs. -/
structure WalkReq where
  name : Name
  va : Dword
  size : Nat
  r : Bool
  w : Bool
  x : Bool
  /-- An atomic or reduction, and whether it may act on a mailbox counter (R210, R379). -/
  red : Option Bool := none
  /-- Word 4 of a fault: the lane, for a vector access (R211). -/
  w4 : Dword := 0
deriving DecidableEq, Repr

/-- A walk that runs or waits on a core (R380): the root, the page of its first request, and every access that waits for it. -/
structure Walk where
  id : Nat
  root : Nat
  page : Nat
  reqs : List WalkReq
deriving DecidableEq, Repr

/-- A word of an L1 (R70): its value, the key slot it was filled under (R386), and the moment at its home whose value it is, by which two words of one
dword are known to stand together (R131); the model's own. -/
structure L1Word where
  val : Word
  key : Nat
  moment : Nat := 0
deriving DecidableEq, Repr

/-- A timer entry (R232). -/
structure Timer where
  target : Nat
  /-- Global physical address of the record's line and the key slot of its leaf. -/
  pa : Nat
  key : Nat
  name : Name
  job : Word
  /-- Request number at TMARM: the record follows the issuer's earlier stores (R146). -/
  since : Nat := 0
  /-- The request that carries the record, until it is applied. -/
  sent : Option Nat := none
deriving DecidableEq, Repr

/-- A breakpoint register (R430). -/
structure Breakpoint where
  en : Bool := false
  allJobs : Bool := false
  pc : Dword := 0
  job : Word := 0
deriving DecidableEq, Repr

/-- A drop window (R373, R406): the issuing thread, the first dropped address, what word 4 names, the drops so far, FAULTREC and TROOT that
the thread held at issue, and its end. -/
structure DropWindow where
  name : Name
  first : Nat
  place : Nat
  count : Nat
  faultrec : Dword
  troot : Dword
  job : Word
  till : Nat
  code : BitVec 8 := 0x12
deriving DecidableEq, Repr

/-- A fault record that waits for its place in a core's sequence (R356): what fixes its place, and words 0 to 6. -/
structure RecordReq where
  faultrec : Dword
  troot : Dword
  job : Word
  words : List Nat
deriving DecidableEq, Repr

/-- One core (R25). -/
structure Core where
  ctxs : Assoc Thread := []
  /-- Generation counters (R26). -/
  gens : Assoc (BitVec 17) := []
  namePtr : Nat := 0
  tlb : List TlbEntry := []
  walks : List Walk := []
  /-- Instruction cache lines by global physical line number, the last filled first (R71). -/
  icache : List (Nat × BitVec 2048) := []
  /-- L1 sectors by global physical sector number, the most recently used first, each with its valid words by global word number (R70), and a count of
  the L1's discards (R142). -/
  l1 : List (Nat × Assoc L1Word) := []
  l1Epoch : Nat := 0
  timers : Assoc Timer := []
  quantum : Nat := 4096
  admcap : Nat := 48
  breakpoints : Assoc Breakpoint := []
  /-- Breakpoint stores that take effect at the next boundary (R430). -/
  breakStores : List (Nat × Breakpoint) := []
  /-- Handler reads that wait for contexts, oldest first, and reads granted (R293, R306). -/
  resQueue : List Nat := []
  granted : Nat := 0
  /-- Position of the new end and number of entries of the deque (R50). -/
  dequeTop : Nat := 0
  dequeCount : Nat := 0
  /-- For each deque entry, old end first: the creator and the request number at the push (R146); the model's own. -/
  dequeAfter : List (Option (Name × Nat)) := []
  /-- Spill queue: names of spilled-ready threads, oldest first (R57). -/
  spillQueue : List Name := []
  /-- Records written to FAULTREC lines (R356), and records that went to the last-resort line, by which a start knows of them (R419). -/
  records : Nat := 0
  lastResorts : Nat := 0
  /-- Records that wait until one before them is known to be written, oldest first, by which word 7 counts those written (R356). -/
  recordQueue : List RecordReq := []
  drops : List DropWindow := []
  /-- Verdicts that have reached the core and wait for the boundary, with the block of their wave (R321). -/
  verdicts : List (Nat × Flit) := []
  lost : Bool := false
deriving DecidableEq, Repr

/-! ## What is in flight -/

/-- The operations of the atomic units (R220, R223). -/
inductive AluOp where
  | add | and | or | xor | min | max | minu | maxu | swap | cas | fadd | fmin | fmax
deriving DecidableEq, Repr

/-- One element of an access: the lane it serves, its global physical address and its size in bytes. -/
structure Piece where
  lane : Nat
  pa : Nat
  size : Nat
  va : Dword := 0
deriving DecidableEq, Repr

/-- What a reduction does at its place (R223, R235, R236). -/
inductive RedWhat where
  | alu (op : AluOp) (size : Nat) (v : Dword)
  | expect (n : Int)
  | arrive
  /-- A delivery of n sectors, the completion of an operation of n sectors, and a fault (R94, R95, R262). -/
  | deliver (n : Nat)
  | complete (n : Nat)
  | report (code sect : Nat)
deriving DecidableEq, Repr

/-- Who issued a request: package, core index, thread name, job, and the acknowledgement that its reply lowers. -/
structure Origin where
  pkg : Nat := 0
  core : Nat := 0
  /-- The thread; the name that has all bits set, which no thread can have, for the device's own requests. -/
  name : Name := 0xFFFFFFFFFFFFFF
  job : Word := 0
  /-- The access names its place by physical address or counter name, with no leaf: no owner or tile test is made (R202, R389). -/
  free : Bool := false
  /-- PC and address of the instruction, and the lane of a vector access, for the fault of a posted write that a peer refuses (R378). -/
  pc : Dword := 0
  ea : Dword := 0
  lane : Nat := 0
  /-- FAULTREC and TROOT of the thread at issue, for the record of a dropped write (R373). -/
  faultrec : Dword := 0
  troot : Dword := 0
  /-- The admission of the thread at issue: an endpoint and a ticket (R244). -/
  ticket : Option (Nat × Word) := none
  /-- A device record, which no tile test stops (R389); and a fault record, whose refusal sends it to a core's last-resort line (R358). -/
  record : Bool := false
  lastResort : Option Nat := none
  /-- The block of a tagged copy that a load reads, by its number in the copy, whose header comes by the side band (R412). -/
  block : Option Nat := none
  /-- For a request that a home sends on to the page's new home (R393): the package and the thread whose request it is. -/
  by' : Option (Nat × Name) := none
  /-- A read or an update of a translation table's entry by a walker, or of another table of the device, on a page that forwards to another package (R376,
  R393). -/
  walker : Bool := false
  /-- The number of the device's own work that makes the request (R279, R296). -/
  dev : Option Nat := none
  /-- For a write that a home sends on: the arms of its thread that it precedes, by their numbers, which it does not fire (R151, R393). -/
  quiet : List Nat := []
deriving DecidableEq, Repr

/-- The thread whose access a request makes. -/
def Origin.author (o : Origin) : Name := match o.by' with | some (_, n) => n | none => o.name

/-- The package of that thread. -/
def Origin.authorPkg (o : Origin) : Nat := match o.by' with | some (p, _) => p | none => o.pkg

/-- Whether two requests come from one thread at one core. -/
def Origin.same (a b : Origin) : Bool := a.pkg == b.pkg && a.core == b.core && a.name == b.name && a.by' == b.by' && a.dev == b.dev

/-- The identity that a created thread takes from its creator (R43, R50, R54). -/
structure Identity where
  job : Word := 0
  prio : Nat := 0
  auth : Dword := 0
  troot : Dword := 0
  faultrec : Dword := 0
  /-- Key slot of the caller's reply line; 0 for FORK (R50). -/
  key : Nat := 0
deriving DecidableEq, Repr

/-- A deque entry (R50). -/
structure TaskEntry where
  remote : Bool := false
  entry : Dword := 0
  g1 : Dword := 0
  g2 : Dword := 0
  g3 : Word := 0
  g4 : Word := 0
deriving DecidableEq, Repr

/-- The thread-state operations (R364). -/
inductive ThreadOp where
  | stop (hold : Bool)
  | start
  | read (index : Dword)
  | write (index value : Dword)
  | state
deriving DecidableEq, Repr

/-- A TLB invalidation (R391). -/
structure TlbInv where
  root : Nat
  allRoots : Bool
  allPages : Bool
  va : Nat
deriving DecidableEq, Repr

/-- What is asked of the homes of a page (R392, R393, R395): its lock; its move to a global page, with both key slots; the end of its forwarding;
the write-back of a line. -/
inductive PageOp where
  | lock
  /-- Whether the page is free to be moved to: it is kept for the move that asks. -/
  | test
  /-- The move to the page has come to its end. -/
  | release
  | switch (target oldKey newKey : Nat)
  | finish
  | clean (line : Nat)
deriving DecidableEq, Repr

/-- An update of a wave control block from another package (R39, R49): sticky bits of a member that goes on; a member that ends, as it ended; one more
member, which is answered with SIZE and the epoch that it starts with; and one that was not created after all; the collective instructions of a member, and its reading
of the block for CSTATE (R314 to R316, R325). -/
inductive WaveOp (T : Type) where
  | flags (f : BitVec 6)
  | leave (t : T)
  | grow
  | shrink
  | join (id : Word)
  | quit
  | cast (all p : Bool) (timeout epoch : Nat)
  | read
deriving DecidableEq, Repr

/-- A watch at its directory (R89, R90): the thread, its watch register, the line, the mask, and its arm point (R151). -/
structure Registration where
  name : Name
  reg : WReg
  line : Nat
  mask : BitVec 4
  armed : Nat
  /-- The number of its arm on the thread's own package, by which a fire from another package finds it; the model's own. -/
  token : Nat := 0
  /-- The package of the thread, where the page of the line has moved here from another (R393). -/
  away : Option Nat := none
deriving DecidableEq, Repr

/-- News of a thread for another package (R62, R109, R130, R348): where it stands; that it has ended; that it has anchored, with the stub it leaves; that
its stub there is free; sticky bits, and a stop, of operations that it left behind. -/
inductive News where
  | moved (ep ctx : Nat)
  | ended
  | anchored (ep ctx : Nat) (stub : Option StubRef)
  | freed (u : StubRef)
  | flags (job : Word) (f : BitVec 6)
  | nan (x : NanStop)
  /-- A watch whose page has moved there, and the package of its thread (R393). -/
  | watch (r : Registration) (home : Nat)
  /-- What a collective of its wave tells it (R314 to R317). -/
  | coll (x : CollNews)
  /-- A word of a store under way that a soft error has spoilt: its home marks the granule there (R427). -/
  | poison (a : Nat)
deriving DecidableEq, Repr

/-- A management frame (R423). -/
structure MgmtFrame where
  target : Nat
  kind : Nat
  counter : Nat
  data : List Byte
  signature : List Byte
deriving DecidableEq, Repr

/-- Which event an `event` notice brings, and on what: the fields that the event reads. -/
structure Subject where
  a : Nat := 0
  b : Nat := 0
  name : Name := 0
  word : Word := 0
deriving DecidableEq, Repr

/-- A request, a reply or a piece of work in progress. -/
inductive Body where
  /-- LOAD (R403): pieces of one sector, the leaf's key slot, and whether the L1 keeps the sector, with the epoch of its discards. -/
  | load (pieces : List Piece) (key : Nat) (fill : Bool) (epoch : Nat)
  /-- STORE (R140): bytes by global physical address; the registration's place in coherence order; whether the data is posted; whether the
  store waits for the thread's earlier stores (ST.REL, REPLY). -/
  | store (bytes : List (Nat × Byte)) (key : Nat) (seq : Option Nat) (posted rel : Bool)
  /-- ATOMIC (R221), waiting for the release where `rel` holds. -/
  | atomic (op : AluOp) (pa size : Nat) (v cmp : Dword) (key : Nat) (rel : Bool)
  /-- A LOAD that is answered once what it waits for holds at the home (R200, R237): the condition, its global address and key slot, and whether it is
  armed, or has come to hold. -/
  | await (w : WaitAct) (pa key : Nat) (armed met : Bool)
  /-- REDUCE (R223, R235, R236, R240), waiting for the release where `rel` holds. -/
  | reduce (what : RedWhat) (pa key : Nat) (rel : Bool)
  /-- RECALL of a word from the core that registered it (R144). -/
  | recall (pa core : Nat)
  /-- DATA: values by lane, and the words that fill the L1. -/
  | data (vals : List (Nat × Nat)) (fill : List (Nat × L1Word)) (epoch : Nat)
  /-- DATA of an AMO: the old value, and the global physical numbers of the words it touched. -/
  | old (v : Dword) (words : List Nat)
  /-- DATA of a thread-state operation or a ticket: a register value. -/
  | value (v : Dword)
  /-- ACK of a store, or of a reduction: the words it touched, and the words that the L1 keeps, with the epoch of its discards. -/
  | ack (store : Bool) (words : List Nat) (fill : List (Nat × L1Word)) (epoch : Nat)
  /-- A note of the home of a write of another package that a directory lock holds it (R391). -/
  | heldNote
  /-- NACK with a fault code and the words of its record, or a retry (R406, R409). -/
  | nack (code : BitVec 8) (w2 w4 : Dword) (posted : Bool)
  /-- A fire for a core (R92): the line number and the registrations that the write fires. -/
  | fire (core line : Nat) (hits : List Registration)
  /-- A watch registration (R227): watch register, line number, sector mask; and the number of the arm, where the thread's package has made it for a line of
  another. -/
  | arm (reg : WReg) (line : Nat) (mask : BitVec 4) (key : Nat) (token : Option Nat)
  /-- An instruction cache fill (R71): line number and key slot. -/
  | icache (core line key : Nat)
  /-- A context moving into or out of a spill slot (R367). -/
  | spillMove (die slot core : Nat) (out : Bool)
  /-- MIGRATE (R61): the thread, and the core it goes to. -/
  | migrate (t : Thread) (core from' : Nat)
  /-- CALL (R201): target core, entry and identity. -/
  | call (core : Nat) (e : TaskEntry) (who : Identity)
  /-- THREADOP (R365). -/
  | threadOp (op : ThreadOp) (target : Name)
  /-- An update of a wave control block, by its global physical address, for a member on another package. -/
  | wave (op : WaveOp Thread) (pa : Nat)
  /-- News of a thread for another package. -/
  | news (n : Name) (x : News)
  /-- CONTROL: CANCEL of a job (R48). -/
  | cancelJob (job : Word)
  /-- CONTROL: TLBINV at scope 2 (R391), with the request number at which the entries were dropped. -/
  | tlbinv (i : TlbInv) (since : Option (Nat × Nat))
  /-- A step of a page migration at the homes of a page, by its local page number and the key slot of its leaf, or the write-back of a line (R392,
  R393, R395). -/
  | page (op : PageOp) (page key : Nat)
  /-- TICKET: TKTAKE for an endpoint (R98, R243). -/
  | ticket (ep : Nat)
  /-- TICKET: TKWAIT for a number of an endpoint, which is answered with 0 where it is not called yet, 1 where it is retired, 2 where it is called (R244). -/
  | ticketWait (ep : Nat) (number : Word)
  /-- TICKET: the notice to a core that a number of an endpoint is called (R408). -/
  | ticketCall (ep : Nat) (number : Word) (core : Nat)
  /-- BULK: written copy sectors, by global physical address, for a copy of this package or of another (R279). -/
  | bulk (bytes : List (Nat × Byte)) (key : Nat)
  /-- SIDEBAND: the header of a tagged block of a copy, by sector index (R412). -/
  | sideband (copy index : Nat) (header : BitVec 16)
  | vote (f : Flit)
  | summary (f : Flit)
  | verdict (f : Flit)
  | abortReq (f : Flit)
  /-- A join request of the wave whose block lies at this address (R314). -/
  | collJoin (wcb : Nat) (collid : Word)
  /-- A leave request (R316). -/
  | collLeave (wcb : Nat) (collid : Word)
  /-- A management frame at port 0 (R423). -/
  | mgmt (f : MgmtFrame)
  /-- A packet whose code no kind has, at a port (R403). -/
  | unknown (code : BitVec 8) (port : Nat)
  /-- A heartbeat of another package: its number, term, and the leader it follows (R422). -/
  | heartbeat (pkg term leader : Nat) (isLeader : Bool)
  /-- An event that falls due at a cycle. -/
  | notice (i : Instr) (on : Subject)
deriving DecidableEq, Repr

/-- The header of a packet on a link (R402 to R405): code of its kind, source and destination endpoint, channel, sequence number, virtual channel, flits of
64 bytes, and the port of the source package, where one is UP. -/
structure Header where
  kind : Nat := 0
  src : Nat
  dst : Nat
  chan : Nat
  seq : Nat
  vc : Nat := 0
  flits : Nat := 1
  port : Option Nat := none
deriving DecidableEq, Repr

/-- Something in flight: an identity, the cycle at which it nominally arrives, who issued it, and a sequence number for deduplication where
another package sent it (R409). -/
structure Msg where
  id : Nat
  due : Nat
  origin : Origin
  body : Body
  /-- Destination package. -/
  dst : Nat := 0
  /-- Deduplication number and LUS, for a request from another package (R409). -/
  dedup : Option (Nat × Nat) := none
  /-- Transport attempts that failed (R406). -/
  tries : Nat := 0
  /-- For a request to another package: 0 still in the network interface, 1 its registration has left, 2 all of it has left. -/
  sent : Nat := 0
  /-- The request that a reply answers. -/
  req : Option Nat := none
  /-- The request that a refusal made on this package answers. -/
  about : Option Body := none
  /-- For an atomic or a reduction: its registration at the home (R140). -/
  regd : Option Nat := none
  /-- For a store: the bytes above which a later registration has written (R140), the words whose recall the home has sent, and the words that a recall
  has made invalid at the owner (R144). -/
  masked : List Nat := []
  told : List Nat := []
  recalled : List Nat := []
  /-- For a store that is applied and whose acknowledgement is on its way: its bytes with the key slot of their leaf, which its thread still reads (R216). -/
  own : Option (List (Nat × Byte) × Nat) := none
  /-- A directory lock at the home holds this write (R391, R392). -/
  held : Bool := false
  /-- The request of this package's homes' own that carries the request of that number on to a page's new home (R393). -/
  relay : Option Nat := none
  /-- Discards of the issuing core's L1 at issue (R142). -/
  epoch : Nat := 0
  /-- Its header, for a packet between packages; its gateway here has delivered it (R404); the ports that it has left by, the latest first (R406). -/
  head : Option Header := none
  delivered : Bool := false
  ports : List Nat := []
deriving DecidableEq, Repr

/-! ## Tiles -/

/-- The states of a tile's context-save engine (R368). -/
inductive TileState where
  | live | saving | saved | restoring | reset | discarding
deriving DecidableEq, Repr

/-- The value of STATE (R368). -/
def TileState.code : TileState → Nat
  | .live => 0 | .saving => 1 | .saved => 2 | .restoring => 3 | .reset => 4 | .discarding => 5

/-- An operand slot (R78, R264): its owner, the job of its last owner, sectors and tags.  `undef` counts free values: a sector not listed is
undefined when it is set, and zero otherwise. -/
structure OpSlot where
  owner : Option Name := none
  lastJob : Option Word := none
  sectors : Assoc VWord := []
  tags : Assoc (BitVec 17) := []
  undef : Option Nat := none
  /-- A claim waits for the clearing (R265). -/
  clearing : Option Name := none
  /-- Number of claims so far, by which work on an earlier claim is known (R79). -/
  claims : Nat := 0
  /-- Granules of 8 bytes marked poisoned, by their number in the slot (R427). -/
  poison : List Nat := []
deriving DecidableEq, Repr

/-- An accumulator slot (R80): dwords by index, and the saturation count. -/
structure AccSlot where
  data : Assoc Dword := []
  sat : Word := 0
  /-- Granules of 8 bytes marked poisoned, by their number in the slot (R427). -/
  poison : List Nat := []
deriving DecidableEq, Repr

/-- The operations of the engine queue (R260). -/
inductive EngKind where
  | mma (f : MmaFmt)
  | acczero
  | accrd (f : AccFmt)
  | accsat (d : GReg)
  | accget
  | accadd
deriving DecidableEq, Repr

/-- An operation in the engine queue (R260, R262). -/
structure EngineOp where
  id : Nat
  kind : EngKind
  issuer : Name
  core : Nat
  job : Word
  troot : Dword
  /-- NANCTL.STOP as read at issue (R130). -/
  nanStop : Bool
  a : Dword
  b : Dword
  c : Dword
  wait : Bool
  bar : Nat
  barKey : Nat
  /-- Address of the instruction (R130). -/
  pc : Dword := 0
  /-- Virtual address of the barrier. -/
  barVa : Dword := 0
  accepted : Bool := false
  /-- The expectation has reached the barrier, and the phase is known where a wait form needs it (R262). -/
  known : Bool := true
  /-- Its completion is due. -/
  started : Bool := false
  /-- The claims of the operand slots, for R79. -/
  claimA : Nat := 0
  claimB : Nat := 0
  /-- Rows or sectors written so far. -/
  done : Nat := 0
  /-- Words read from another package, by virtual word number. -/
  cache : Assoc Nat := []
  /-- The row or sector that follows them is on its way to another package. -/
  written : Bool := false
  /-- FAULTREC of the issuer at issue (R373). -/
  faultrec : Dword := 0
  /-- Its results stand, and news of its flags or its stop is on its way to an issuer on another package: the requests that tell it (R109, R130). -/
  told : Option (List Nat) := none
deriving DecidableEq, Repr

/-- A copy in the copy queue (R279). -/
structure Copy where
  id : Nat
  sparse : Bool
  issuer : Name
  core : Nat
  job : Word
  troot : Dword
  a : Dword
  b : Dword
  d0 : Dword
  d1 : Dword
  d2 : Dword
  d3 : Dword
  bar : Nat
  barKey : Nat
  accepted : Bool := false
  /-- Sectors written and delivered so far (R279), and set elements of the rows before the current one (R281). -/
  done : Nat := 0
  packed : Nat := 0
  /-- The final arrival, or the fault, has been sent to the barrier. -/
  arrived : Bool := false
  /-- The sectors of which a part has come from another package and whose time limit for the other runs (R412). -/
  timers : List Nat := []
  /-- Side-band headers in hand, by sector index, and payloads that wait for theirs (R280, R412). -/
  headers : Assoc (BitVec 16) := []
  /-- Batch that the copy belongs to, counted per thread (R284). -/
  batch : Nat := 0
  /-- Words read from another package, by virtual word number. -/
  cache : Assoc Nat := []
  /-- Bytes of a FROMACC source (R279). -/
  snap : Option (List Byte) := none
  /-- Poisoned granules of that source's slot (R427). -/
  marks : List Nat := []
  /-- The next sector is written, and the home of its bytes is still to acknowledge them: how many elements its row sets (R281). -/
  sending : Option Nat := none
  /-- The claim of the destination slot, for R79. -/
  claim : Nat := 0
  /-- FAULTREC of the issuer at issue (R373). -/
  faultrec : Dword := 0
  /-- The issuer's admission at issue (R244). -/
  ticket : Option (Nat × Word) := none
deriving DecidableEq, Repr

/-- A tile: its context-save engine, its assignment, its operand and accumulator memory, its tables and its engines. -/
structure Tile where
  state : TileState := .reset
  image : Nat := 0
  /-- Physical addresses of the image's 160 pages of 64 KiB, and the key slots of their leaves (R370, R387). -/
  imagePages : List Nat := []
  imageKeys : List Nat := []
  savedAt : Nat := 0
  redirected : Word := 0
  dropped : Word := 0
  job : Word := 0
  assigned : Bool := false
  openAll : Bool := false
  refused : Bool := false
  slots : Assoc OpSlot := []
  accs : Assoc AccSlot := []
  /-- Table images by table number, as dwords (R253, R254). -/
  tables : Assoc (Assoc Dword) := []
  engine : List EngineOp := []
  copies : List Copy := []
  /-- While SAVING: drained, and the image of the contexts written (R370).  While RESTORING: the tile was RESET before (R372). -/
  drained : Bool := false
  /-- The thread that restores the tile, with its request number: its earlier stores come before what the restored threads do (R149). -/
  starter : Option (Name × Nat) := none
deriving DecidableEq, Repr

/-! ## Slices, directories, walk caches -/

/-- What is known of a Damask sector (R385, R386): the slot and keys under which it was last written, which of its bytes have been written under them, and the number
of the filling under which the others are undefined. -/
structure Sector where
  tag : Nat
  written : BitVec 64
  fill : Nat := 0
deriving DecidableEq, Repr

/-- A sector in a slice (R81, R386): its owner tag, valid and dirty bits, and write mask; its bytes stand in the state's memory, which is what the slice over the
channel holds. -/
structure SliceSector where
  tag : Nat := 0
  valid : Bool := false
  dirty : Bool := false
  mask : BitVec 16 := 0
deriving DecidableEq, Repr

/-- A directory entry of a watched line (R90): up to four cores, or broadcast to the marked dies. -/
structure DirEntry where
  line : Nat
  cores : List Nat := []
  broadcast : Bool := false
  dies : BitVec 12 := 0
deriving DecidableEq, Repr

/-- The watch directory of a slice, a tile or a channel core (R90, R91): its entries, and the overflow filter with the lines that it records and its die mask. -/
structure Directory where
  entries : List DirEntry := []
  filter : List Nat := []
  lines : List Nat := []
  dies : BitVec 12 := 0
deriving DecidableEq, Repr

/-- An entry of a walk cache (R380): the table of a level that serves the addresses with a leading part, under a root. -/
structure TablePtr where
  root : Nat
  level : Nat
  lead : Nat
  table : Nat
deriving DecidableEq, Repr

/-! ## Dies, jobs, keys, collectives -/

/-- A context in a spill slot: its core and the thread; `moving` while a move is in progress (R367). -/
structure Spilled where
  core : Nat
  thr : Thread
  moving : Bool := false
deriving DecidableEq, Repr

/-- A compute die: its spill area and its name directory (R56, R348). -/
structure Die where
  slots : Assoc Spilled := []
  names : List (Name × Nat × Nat) := []
  /-- Threads that anchored while the directory was full, oldest first: where each stands, and the stubs that it leaves allocated (R348). -/
  anchors : List (Name × Nat × Nat × List StubRef) := []
deriving DecidableEq, Repr

/-- A job table entry (R46). -/
structure JobEntry where
  job : Word := 0
  valid : Bool := false
  cancelled : Bool := false
  limit : Word := 0
  live : Word := 0
  counter : Dword := 0
  ckey : BitVec 12 := 0
  flagsor : BitVec 6 := 0
deriving DecidableEq, Repr

/-- A key slot (R384). -/
structure KeySlot where
  owner : Word := 0
  anyJob : Bool := false
  valid : Bool := false
  key1 : BitVec 256 := 0
  key2 : BitVec 256 := 0
  /-- A store that clears VALID and waits for the slices (R384): its thread and whether it is acknowledged yet. -/
  clearing : Option Origin := none
deriving DecidableEq, Repr

/-- A collective entry (R309) and what its gateway has gathered for the current epoch (R317). -/
structure Coll where
  valid : Bool := false
  parent : Nat := 0
  collid : Word := 0
  totalm1 : BitVec 16 := 0
  children : BitVec 16 := 0
  base : BitVec 16 := 0
  locals : BitVec 16 := 0
  report : Dword := 0
  joined : BitVec 16 := 0
  left : BitVec 16 := 0
  epoch : Word := 0
  aepoch : Word := 0
  missCount : BitVec 16 := 0
  firstMiss : BitVec 16 := 0
  rkey : BitVec 12 := 0
  /-- Member waves on this package: block address and member index. -/
  members : List (Nat × Nat) := []
  /-- Members that have contributed to the epoch, by index, and how many of them have left since. -/
  voted : List Nat := []
  votedLeft : Nat := 0
  /-- Children whose summary has arrived. -/
  heard : List Nat := []
  /-- Children that have been heard of since the entry was written: the senders of summaries and abort requests (R309; log 19). -/
  kids : List Nat := []
  votes : Nat := 0
  orv : Bool := false
  andv : Bool := true
  kindAll : Bool := false
  mixed : Bool := false
  /-- The summary has been sent, or the verdict formed. -/
  sent : Bool := false
  abortSent : Bool := false
deriving DecidableEq, Repr

/-- A port (R399). -/
structure Port where
  retries : BitVec 16 := 0
  errors : BitVec 16 := 0
  rod : Bool := false
  up : Bool := false
  vcmode : BitVec 2 := 0
  lanes : BitVec 4 := 0
  /-- The port's MAC address and IPv6 address (R397). -/
  mac : BitVec 48 := 0
  ip : BitVec 128 := 0
deriving DecidableEq, Repr

/-- The ticket counts of an endpoint (R98), the numbers called and not retired with the cycle of the call and the bytes delivered, and
the contexts that wait for a number. -/
structure TicketGate where
  next : Word := 0
  called : Word := 0
  active : List (Word × Nat × Nat) := []
  /-- Numbers that other packages took and that are not called yet, with the taker's package and core. -/
  takers : List (Word × Nat × Nat) := []
deriving DecidableEq, Repr

/-- A deduplication window (R409): source endpoint and target gateway, LUS, saved replies, and the cycle of the last request. -/
structure Window where
  source : Nat
  gateway : Nat
  lus : Nat
  entries : List (Nat × Body)
  last : Nat
deriving DecidableEq, Repr

/-- A launch in progress (R44): the launcher, its identity and wave's root, and the descriptor. -/
structure Launch where
  id : Nat
  name : Name
  who : Identity
  core : Nat
  d0 : Dword
  d1 : Dword
  d2 : Dword
  d3 : Dword
  d4 : Dword
  d5 : Dword
  d6 : Dword
  /-- Next wave index. -/
  next : Nat := 0
deriving DecidableEq, Repr

/-- A wave whose LIVE has reached zero and whose block is not yet free (R40): the block, the member that ended last with its core, FAULTREC,
TROOT and job, and the reduction of COUNTER once it is made. -/
structure WaveEnd where
  wcb : Nat
  name : Name
  core : Nat
  faultrec : Dword
  troot : Dword
  job : Word
  red : Option Nat := none
deriving DecidableEq, Repr

/-- The completion of a job that is still to be counted (R47): the counter's global address and its key slot. -/
structure Completion where
  job : Word
  counter : Nat
  key : Nat
deriving DecidableEq, Repr

/-- The states of a handler read (R306). -/
inductive ReadState where
  | reserving | streaming | draining
deriving DecidableEq, Repr

/-- A burst on its way (R296): its number, the number of its requests, and its words from another package. -/
structure OpenBurst where
  seq : Nat
  id : Nat
  cache : Assoc Nat := []
deriving DecidableEq, Repr

/-- A handler read (R287, R306): the issuer as it stood, the descriptor, and the counts of its record. -/
structure HRead where
  core : Nat
  issuer : Name
  who : Identity
  addr : Dword
  desc : List Dword
  state : ReadState := .reserving
  next : Nat := 0
  opened : Nat := 0
  faulted : Nat := 0
  first : Nat := 0xFFFFFFFF
  fcode : BitVec 8 := 0
  cancelled : Bool := false
  contexts : List Nat := []
  saved : Bool := false
  /-- Request number at HREAD: the stream reads after the issuer's earlier stores (R296). -/
  since : Nat := 0
  /-- Bursts requested whose thread is not yet born, and the cycle of the last request. -/
  asked : List OpenBurst := []
  lastAt : Nat := 0
  /-- The request that carries the completion record, until it is acknowledged (R301). -/
  closing : Option Nat := none
deriving DecidableEq, Repr

/-- What the layout of a save image (R369) does not list: the threads of its contexts with what R354 leaves out of an image (which of them the save stopped, what they
wait for, where their waves' blocks lie); the reads of its records with their numbers; and the positions of the cores' deques.  The model's own. -/
structure SavedImage where
  contexts : List ((Nat × Nat) × Thread) := []
  reads : List (Nat × HRead) := []
  deques : List (Nat × Nat) := []
deriving DecidableEq, Repr

/-- A locked or forwarding page (R392, R393), by its local physical page number. -/
structure PageMove where
  page : Nat
  /-- The page it forwards to, by its global physical number; none while it is locked. -/
  target : Option Nat
  /-- Registration number at the lock: later writes are held. -/
  since : Nat
  /-- Steps made toward a frame on another package (its reservation, then bursts of 4 KiB), and the one in flight; after the switch, the request that
  moved the page, until it is answered. -/
  moved : Nat := 0
  burst : Option Nat := none
  /-- The page is kept as the frame of a move (R394): it is neither locked nor forwarding. -/
  frame : Bool := false
  /-- What the move waits for now (R393): before the switch, the watches on their way; after it, what has still to be acknowledged before PGSWITCH completes. -/
  waits : List Nat := []
deriving DecidableEq, Repr

/-- The modes of the whole package: waiting for power-good, running, in minimal mode, and powered off (R414, R419, R430). -/
inductive Power where
  | off | running | minimal | shutdown
deriving DecidableEq, Repr

/-- The anchor of the boot flash (R415): the start counter, the failure record (R420), the last management COUNTER, the minimum VERSION and the
management key of the last verified image. -/
structure Anchor where
  count : Nat := 0
  reasons : BitVec 24 := 0
  slot : Nat := 0
  version : Word := 0
  counter : Nat := 0
  minVersion : Word := 0
  mgmtKey : List Byte := []
deriving DecidableEq, Repr

/-- The health registers, the boot flash and the election (R415 to R424, R427, R428). -/
structure Health where
  power : Power := .off
  /-- Bytes of the boot flash's image slots, by flash offset, as written over zeros. -/
  flash : List Host.Cell := []
  anchor : Anchor := {}
  /-- FAILREC mirrors the always-on register: the last failed start failed within step 1 (R419). -/
  mirrorOn : Bool := false
  /-- STARTOK has been stored since the start (R419). -/
  startOk : Bool := false
  /-- The flash offers SFDP and 4-byte addressing (R415). -/
  flashOk : Bool := true
  /-- Always-on start count and failure record of starts that fail in step 1 (R419). -/
  bootCount : Nat := 0
  bootReasons : BitVec 24 := 0
  /-- Key slot 0 has been loaded with fresh keys since power-good (R414). -/
  keyed : Bool := false
  /-- Starts so far, by which a late timeout is told from one of this start. -/
  starts : Nat := 0
  rootName : Name := 0
  mrs : Vector (BitVec 512) 8 := Vector.replicate 8 0
  rstline : Dword := 0
  /-- What STARTOK, RESETGO, QUOTE and MREXT were last stored, by which a 4-byte store is merged (R85, R421). -/
  startokReg : Dword := 0
  resetgoReg : Dword := 0
  quoteReg : Dword := 0
  mrextReg : Dword := 0
  /-- Deadline of a pending reset (R424). -/
  resetAt : Option Nat := none
  /-- Address of a pending quote (R418), and the nonce that was read for it. -/
  quote : Option Nat := none
  nonce : List Byte := []
  sample : Dword := 0
  sampleArmed : Bool := false
  trbase : Dword := 0
  trsize : Dword := 0
  pulses : Dword := 0
  corrected : Dword := 0
  uncorrected : Dword := 0
  spared : Dword := 0
  /-- Slices and channels found failed and not yet replaced, by kind (1 a slice, 2 a channel) and number (R425). -/
  failed : List (Nat × Nat) := []
  /-- Spares in use (R425): cores of each compute die at 0 to 3, slices of each compute die at 4 to 7, channels of each stack from 8 up. -/
  spares : Assoc Nat := []
  /-- The election (R422): term, leader followed, whether this package leads, cycle of the last leader heartbeat and of the last heartbeat of a
  lower number. -/
  term : Word := 0
  leader : Nat := 0
  isLeader : Bool := false
  settled : Bool := false
  heardLeader : Nat := 0
  heardLower : Option Nat := none
  maxTerm : Word := 0
  /-- Dies whose temperature alert has been told to board management (R430). -/
  alerts : List Nat := []
deriving DecidableEq, Repr

/-! ## The package -/

/-- Where the machine stands inside a cycle: the model's own. -/
inductive Phase where
  | boundary | issue | deliver | tick
deriving DecidableEq, Repr

/-- The core and context whose turn it is: the model's own. -/
structure Focus where
  core : Nat := 0
  ctx : Nat := 0
deriving DecidableEq, Repr

/-- What came back for a read or a write of the device's own: values by lane, or a refusal with its code and word 4. -/
inductive Fetch where
  | data (vals : List (Nat × Nat))
  | failed (code : BitVec 8) (w4 : Dword)
deriving DecidableEq, Repr

/-- The package. -/
structure State where
  cycle : Nat := 0
  phase : Phase := .boundary
  cursor : Nat := 0
  focus : Focus := {}
  subject : Subject := {}
  /-- Events that the outside world, or a choice of order, brings at given cycles. -/
  inputs : List (Nat × Instr × Subject) := []
  /-- Events still to take in this phase. -/
  agenda : List (Instr × Subject) := []
  /-- Threads whose instruction goes on, as (cycle at which it left, core, context), oldest first: the model's own. -/
  resumes : List (Nat × Nat × Nat) := []
  nextId : Nat := 0
  /-- Registrations made so far: the coherence order of R134. -/
  nextSeq : Nat := 0
  fresh : Nat := 0
  flight : List Msg := []
  egress : List Msg := []
  /-- Deduplication numbers in use (R409): source endpoint, target gateway with its package, next number. -/
  numbers : List (Nat × Nat × Nat) := []
  /-- What a tile's save notes beside its image, by the image's address: the model's own. -/
  images : Assoc SavedImage := []
  /-- Sequence numbers (R404), by source endpoint, destination endpoint and channel: the next to send, and the next to deliver. -/
  sending : List ((Nat × Nat × Nat) × Nat) := []
  receiving : List ((Nat × Nat × Nat) × Nat) := []
  /-- Where threads went that stood here without a stub of theirs: their names and the packages, by which what comes for them goes on (R62). -/
  trail : List (Name × Nat) := []
  /-- The highest number of an endpoint of another package that this one knows to be called (R244, R408). -/
  heardCalls : List (Nat × Word) := []
  /-- Entries of translation tables, and of other tables of the device, that were read for a walk from a page that forwards to another package, by their local
  address (R376, R393); the model's own. -/
  farEntries : List (Nat × Nat) := []
  /-- Ports that have ROD set and carry a source, destination and channel alone (R402). -/
  pinned : List ((Nat × Nat × Nat) × Nat) := []
  pkg : Nat := 0
  pkgWritten : Bool := false
  cores : Assoc Core := []
  tiles : Assoc Tile := []
  dies : Assoc Die := []
  mem : List Host.Cell := []
  /-- Damask sectors that have been written, by local physical sector number. -/
  sectors : Assoc Sector := []
  /-- The 256 slices: lines by local physical line number, the most recently used first, with their sectors by number (R81). -/
  slices : Assoc (List (Nat × Assoc SliceSector)) := []
  /-- Watch directories: slices at 0 to 255, tiles from 256, channel cores from 416 (R90, R91). -/
  dirs : Assoc Directory := []
  /-- Walk caches, the last entered first: tiles at 0 to 159, stack logic dies from 160 (R380). -/
  walkCaches : Assoc (List TablePtr) := []
  poison : List Nat := []
  /-- Granules of 8 bytes of Damask memory that a slice's error marks poisoned (R427). -/
  slicePoison : List Nat := []
  moves : List PageMove := []
  watches : List Registration := []
  jobs : Assoc JobEntry := []
  keys : Assoc KeySlot := []
  colls : Assoc Coll := []
  ports : Assoc Port := []
  /-- Route registers by device-register address (R402). -/
  routes : Assoc Word := []
  tickets : Assoc TicketGate := []
  windows : List Window := []
  launches : List Launch := []
  reads : Assoc HRead := []
  /-- Wave control blocks in use, by physical address (R38). -/
  waves : List Nat := []
  waveEnds : List WaveEnd := []
  /-- Members on other packages that count in VOTED of a block here: the block, the member and its package (R310; log 77). -/
  farVoters : List (Nat × Name × Nat) := []
  completions : List Completion := []
  /-- Answers to the device's own requests, by the number in their origin's name. -/
  fetched : Assoc Fetch := []
  health : Health := {}
deriving DecidableEq, Repr

/-- Why the machine takes no step. -/
inductive Fault where
  /-- Raised by `step` on a package that OVERTEMP_SHUTDOWN has powered off (R430): nothing issues any more.  Safe. -/
  | poweredOff
deriving DecidableEq, Repr

/-- What the model has no meaning for. -/
inductive Refusal where
  /-- Raised by `exec` on an instruction that the model does not give a meaning yet.  Safe. -/
  | notModelled (mnemonic : String)
deriving DecidableEq, Repr

/-- The package right after reset, waiting for power-good (R414): every field at the value its type's default gives, which is the value the
spec states, or the one a log entry names. -/
def State.reset : State := {}

end Sys2Proof.Machine
end

