-- ==== Sys2Proof/Machine/Mem.lean ====
section
/-!
DEFINITION. Physical memory: byte cells in one canonical form, the local physical map of R84, key slots (R385, R386), the special regions of the
system areas (R74 to R76), and little-endian access (R11).
-/

namespace Sys2Proof.Machine

/-! ## Cells -/

/-- A byte of memory; a byte that is not listed reads as zero. -/
def Memory.read : List Host.Cell → Nat → Byte
  | [], _ => 0
  | (k, b) :: m, a => if k = a then b else Memory.read m a

/-- Memory with one byte written, in canonical form: addresses rise strictly and no listed byte is zero. -/
def Memory.write : List Host.Cell → Nat → Byte → List Host.Cell
  | [], a, b => if b = 0 then [] else [(a, b)]
  | (k, c) :: m, a, b =>
    if a < k then (if b = 0 then (k, c) :: m else (a, b) :: (k, c) :: m)
    else if a = k then (if b = 0 then m else (a, b) :: m)
    else (k, c) :: Memory.write m a b

/-- Every listed address lies above a bound, and the list is canonical. -/
def Memory.wfAbove : Nat → List Host.Cell → Bool
  | _, [] => true
  | lo, (k, b) :: m => decide (lo ≤ k) && (b != 0) && Memory.wfAbove (k + 1) m

/-- The canonical form: addresses rise strictly and no listed byte is zero. -/
def Memory.wf (m : List Host.Cell) : Bool := Memory.wfAbove 0 m

/-- Memory without the bytes of a range (they read as zero). -/
def Memory.clear (m : List Host.Cell) (lo n : Nat) : List Host.Cell :=
  m.filter fun c => decide (c.1 < lo) || decide (lo + n ≤ c.1)

/-- The listed bytes of a range, by their offset in it. -/
def Memory.slice (m : List Host.Cell) (lo n : Nat) : List Host.Cell :=
  (m.filter fun c => decide (lo ≤ c.1) && decide (c.1 < lo + n)).map fun c => (c.1 - lo, c.2)

/-- Memory with a range replaced by the bytes of another range's slice. -/
def Memory.paste (m : List Host.Cell) (lo n : Nat) (src : List Host.Cell) : List Host.Cell :=
  src.foldl (fun m c => Memory.write m (lo + c.1) c.2) (Memory.clear m lo n)

/-! ## Little-endian values -/

/-- The value of a list of bytes, the first least significant (R11). -/
def leValue : List Byte → Nat
  | [] => 0
  | b :: bs => b.toNat + 256 * leValue bs

/-- The low n bytes of a value, least significant first (R11). -/
def leBytes : Nat → Nat → List Byte
  | 0, _ => []
  | n + 1, v => BitVec.ofNat 8 v :: leBytes n (v / 256)

/-- The addresses a, a + 1, … of n bytes. -/
def addrs (a n : Nat) : List Nat := (List.range n).map (a + ·)

/-- Bytes with their addresses, from an address up. -/
def atAddrs (a : Nat) (bs : List Byte) : List (Nat × Byte) := (addrs a bs.length).zip bs

/-! ## The local physical map (R84) -/

/-- The ranges of the local physical map. -/
inductive Region where
  | damask
  | tileScratch (tile offset : Nat)
  | chanScratch (chan offset : Nat)
  | device
  | hole
deriving DecidableEq, Repr

/-- The range that a local physical address lies in (R84). -/
def region (a : Nat) : Region :=
  if a < 0xC000000000 then .damask
  else if 0xE000000000 ≤ a ∧ a < 0xE028000000 then
    .tileScratch ((a - 0xE000000000) / 0x400000) ((a - 0xE000000000) % 0x400000)
  else if 0xE800000000 ≤ a ∧ a < 0xE804000000 then
    .chanScratch ((a - 0xE800000000) / 0x40000) ((a - 0xE800000000) % 0x40000)
  else if 0xF000000000 ≤ a ∧ a < 0x10000000000 then .device
  else .hole

/-- The home slice of a Damask address (R82). -/
def homeSlice (a : Nat) : Nat := (a / 256 % 256) ^^^ (a / 65536 % 256) ^^^ (a / 16777216 % 256) ^^^ (a / 4294967296 % 256)

/-- A global physical address: package number above a 40-bit local physical address (R196). -/
def gpa (pkg local' : Nat) : Nat := pkg * 0x10000000000 + local'
/-- The package of a global physical address. -/
def gpaPkg (a : Nat) : Nat := a / 0x10000000000
/-- The local part of a global physical address. -/
def gpaLocal (a : Nat) : Nat := a % 0x10000000000

/-- First byte of a tile's scratchpad (R73). -/
def tileBase (tile : Nat) : Nat := 0xE000000000 + tile * 0x400000
/-- First byte of a channel core's scratch (R75). -/
def chanBase (chan : Nat) : Nat := 0xE800000000 + chan * 0x40000
/-- First byte of the system area of a core's tile or scratch, for a core index (R74, R75). -/
def sysBase (core : Nat) : Nat :=
  if core < 640 then tileBase (core / 4) + 0x3F0000 else chanBase (core - 640) + 0x38000
/-- First byte of a core's deque (R50). -/
def dequeBase (core : Nat) : Nat :=
  if core < 640 then sysBase core + 0x4000 + (core % 4) * 0x2000 else sysBase core + 0x1000
/-- First byte of a core's identity set (R50). -/
def identBase (core : Nat) : Nat :=
  if core < 640 then sysBase core + 0xC000 + (core % 4) * 0x400 else sysBase core + 0x3000
/-- A core's last-resort record (R74, R75). -/
def lastResort (core : Nat) : Nat :=
  if core < 640 then sysBase core + 0xD000 + (core % 4) * 64 else sysBase core + 0x3400
/-- A core's mailbox line (R74, R75). -/
def mailboxLine (core : Nat) : Nat :=
  if core < 640 then sysBase core + 0xD100 + (core % 4) * 0x100 else sysBase core + 0x3500

/-- Whether a local physical address lies in a mailbox line (R74, R75). -/
def isMailbox (a : Nat) : Bool :=
  match region a with
  | .tileScratch _ o => decide (0x3FD100 ≤ o) && decide (o < 0x3FD500)
  | .chanScratch _ o => decide (0x3B500 ≤ o) && decide (o < 0x3B600)
  | _ => false

/-- Whether a local physical address lies in a reserved region of a system area (R76). -/
def isReserved (a : Nat) : Bool :=
  match region a with
  | .tileScratch _ o => decide (0x3FD500 ≤ o) && decide (o < 0x3FE000)
  | .chanScratch _ o => decide (0x3B600 ≤ o)
  | _ => false

/-- Whether a local physical address lies in a context-save engine's control block (R74, R368). -/
def isSaveBlock (a : Nat) : Bool :=
  match region a with
  | .tileScratch _ o => decide (0x3FE000 ≤ o)
  | _ => false

/-! ## State accessors -/

/-- A core; one that is not listed stands as after reset. -/
def State.core (s : State) (i : Nat) : Core := Assoc.getD s.cores i {}
/-- The state with a core replaced. -/
def State.setCore (s : State) (i : Nat) (c : Core) : State := { s with cores := Assoc.insert s.cores i c }
/-- A tile. -/
def State.tile (s : State) (t : Nat) : Tile := Assoc.getD s.tiles t {}
/-- The state with a tile replaced. -/
def State.setTile (s : State) (t : Nat) (x : Tile) : State := { s with tiles := Assoc.insert s.tiles t x }
/-- A compute die. -/
def State.die (s : State) (d : Nat) : Die := Assoc.getD s.dies d {}
/-- The state with a die replaced. -/
def State.setDie (s : State) (d : Nat) (x : Die) : State := { s with dies := Assoc.insert s.dies d x }
/-- A key slot. -/
def State.key (s : State) (k : Nat) : KeySlot := Assoc.getD s.keys k {}
/-- A job table entry. -/
def State.jobEntry (s : State) (j : Nat) : JobEntry := Assoc.getD s.jobs j {}

/-! ## Physical bytes -/

/-- The key slot under which an access by key `k` is made: slot 0 where `k` is not VALID (R387). -/
def State.effKey (s : State) (k : Nat) : Nat := if (s.key k).valid then k else 0

/-- The tag of a sector written under a key slot: the slot and the keys it holds (R384 to R386). -/
def State.tag (s : State) (k : Nat) : Nat := k + 4096 * ((s.key k).key1.toNat + 2 ^ 256 * (s.key k).key2.toNat)

/-- Dword `i` of a context-save engine's control block (R368). -/
def Tile.saveDword (t : Tile) (i : Nat) : Nat :=
  match i with
  | 0 => t.state.code
  | 1 => t.image
  | 2 => t.savedAt
  | 3 => t.redirected.toNat
  | 4 => t.dropped.toNat
  | _ => 0

/-- The physical address and the key slot of an offset in a tile's save image (R370). -/
def Tile.imagePlace (t : Tile) (off : Nat) : Nat × Nat :=
  (t.imagePages.getD (off / 0x10000) 0 + off % 0x10000, t.imageKeys.getD (off / 0x10000) 0)

/-- The global address that an address of a switched page forwards to (R393). -/
def State.forwardsTo (s : State) (a : Nat) : Option Nat :=
  (s.moves.find? fun m => m.page == a / 0x10000 && m.target.isSome).map fun m => (m.target.getD 0) * 0x10000 + a % 0x10000

/-- The local address that serves an address of a switched page. -/
def State.forwarded (s : State) (a : Nat) : Nat :=
  match s.forwardsTo a with
  | some x => if gpaPkg x = s.pkg then gpaLocal x else a
  | none => a

/-- Where the bytes of a local physical address are held: in a SAVED tile's image for its scratchpad (R371), whose pages may forward (R393), at the address
otherwise.  The second component is the key slot, for Damask memory. -/
def State.place (s : State) (a k : Nat) : Nat × Nat :=
  match region a with
  | .tileScratch t o =>
    let tl := s.tile t
    if tl.state = .saved ∧ o < 0x3FE000 then
      let p := tl.imagePlace (0x600000 + o)
      (s.forwarded p.1, p.2)
    else (a, 0)
  | _ => (a, k)

/-- A byte as it stands at its place: one of a Damask sector that is last written under another key slot, or not written under this one, reads as an undefined
value (R134, R385). -/
def State.rawByte (s : State) (a k : Nat) : Byte :=
  match region a with
  | .damask =>
    let r := s.tag (s.effKey k)
    match Assoc.look s.sectors (a / 64) with
    | some e =>
      if e.tag ≠ r then Config.wrongKey e.tag r a (Memory.read s.mem a)
      else if e.written.getLsbD (a % 64) then Memory.read s.mem a else Config.unwritten e.fill r a
    | none => Config.unwritten 0 r a
  | _ => Memory.read s.mem a

/-- A byte of local memory read under a key slot: reserved regions read zero (R76), a control block reads its fields (R368). -/
def State.byte (s : State) (a k : Nat) : Byte :=
  if isReserved a then 0
  else if isSaveBlock a then
    match region a with
    | .tileScratch t o => BitVec.ofNat 8 ((s.tile t).saveDword ((o - 0x3FE000) / 8) / 256 ^ (o % 8))
    | _ => 0
  else
    let p := s.place a k
    s.rawByte p.1 p.2

/-- The bytes of a range of local memory. -/
def State.bytes (s : State) (a n k : Nat) : List Byte := (addrs a n).map fun x => s.byte x k

/-- A little-endian value of n bytes of local memory. -/
def State.val (s : State) (a n k : Nat) : Nat := leValue (s.bytes a n k)

/-- A Damask sector after one of its bytes is written under a tag: the first write under another key slot refills the sector under the new key, and its other bytes
become undefined (R386). -/
def Sector.write (e : Option Sector) (tag fill i : Nat) : Sector :=
  let one : BitVec 64 := 1#64 <<< i
  match e with
  | some e => if e.tag = tag then { e with written := e.written ||| one } else { tag := tag, written := one, fill := fill }
  | none => { tag := tag, written := one, fill := fill }

/-- The state with a byte of a Damask sector marked written under a tag (R386). -/
def State.retag (s : State) (a tag : Nat) : State :=
  match region a with
  | .damask =>
    { s with
      sectors := Assoc.insert s.sectors (a / 64) (Sector.write (Assoc.look s.sectors (a / 64)) tag (s.fresh + 1) (a % 64)), fresh := s.fresh + 1 }
  | _ => s

/-- One byte written at its place. -/
def State.putRaw (s : State) (a k : Nat) (b : Byte) : State :=
  let s := s.retag a (s.tag (s.effKey k))
  { s with mem := Memory.write s.mem a b }

/-- One byte of local memory written under a key slot: writes to reserved regions, mailbox lines and control blocks are dropped (R76, R368). -/
def State.putByte (s : State) (a k : Nat) (b : Byte) : State :=
  if isReserved a || isSaveBlock a || isMailbox a then s
  else
    let p := s.place a k
    s.putRaw p.1 p.2 b

/-- Bytes written at their addresses, in order. -/
def State.putBytes (s : State) (k : Nat) (bs : List (Nat × Byte)) : State :=
  bs.foldl (fun s b => s.putByte b.1 k b.2) s

/-- A little-endian value of n bytes written to local memory. -/
def State.putVal (s : State) (a n k v : Nat) : State := s.putBytes k (atAddrs a (leBytes n v))

/-- A mailbox counter set: the only write that reaches a mailbox line (R97). -/
def State.putMailbox (s : State) (a v : Nat) : State :=
  let p := s.place a 0
  (atAddrs p.1 (leBytes 4 v)).foldl (fun s b => s.putRaw b.1 p.2 b.2) s

/-- The size of the granule that a poison mark covers: a Damask sector, or 8 bytes of scratchpad (R427). -/
def granule (a : Nat) : Nat := match region a with | .damask => 64 | _ => 8

/-- Whether a byte lies in a granule marked poisoned (R427), where a SAVED tile's image serves it (R371). -/
def State.poisoned (s : State) (x : Nat) : Bool :=
  let a := (s.place x 0).1
  (s.poison.any fun p => decide (p ≤ a) && decide (a < p + granule p)) || s.slicePoison.any fun p => decide (p ≤ a) && decide (a < p + 8)

/-- The marks that remain after a write of these addresses: a write of a whole granule clears its mark (R427). -/
def State.unpoison (s : State) (as : List Nat) : State :=
  { s with
    poison := s.poison.filter fun p => !(addrs p (granule p)).all fun x => as.contains x
    slicePoison := s.slicePoison.filter fun p => !(addrs p 8).all fun x => as.contains x }

/-- The state with a granule of memory marked poisoned: of Damask memory a sector, of a scratchpad 8 bytes (R427). -/
def State.markPoison (s : State) (a : Nat) : State :=
  let g := a / granule a * granule a
  if s.poison.contains g ∨ region a = .device ∨ region a = .hole then s else { s with poison := s.poison ++ [g] }

/-- The state with a granule marked poisoned where the slices or the scratchpads hold it, 8 bytes: the mark stays with the bytes when the sector leaves its slice
(R427; log 104). -/
def State.markHome (s : State) (a : Nat) : State :=
  let g := a / 8 * 8
  if region a ≠ .damask then s.markPoison a else if s.slicePoison.contains g then s else { s with slicePoison := s.slicePoison ++ [g] }

end Sys2Proof.Machine
end

