-- ==== Sys2Proof/Machine/Crypto.lean ====
section
/-!
DEFINITION. The functions of the standards that R9 names: SHAKE256 (FIPS 202) and Ed448 (RFC 8032, pure form), over lists of bytes.  What the package
alone knows (the digest that its fuses hold, its identity key's seed, the digest of its ROM) is left open in Config.
-/

namespace Sys2Proof.Machine

/-- The bytes of a text in ASCII. -/
def asciiBytes (t : String) : List Byte := t.toList.map fun c => BitVec.ofNat 8 c.toNat

/-! ## SHAKE256 -/

/-- The rotation of each of Keccak's 25 lanes, lane x + 5·y. -/
def keccakTurns : List Nat := [0, 1, 62, 28, 27, 36, 44, 6, 55, 20, 3, 10, 43, 25, 39, 41, 45, 15, 21, 8, 18, 2, 61, 56, 14]

/-- The constants of Keccak's 24 rounds. -/
def keccakConstants : List Dword :=
  [0x1, 0x8082, 0x800000000000808A, 0x8000000080008000, 0x808B, 0x80000001, 0x8000000080008081, 0x8000000000008009,
   0x8A, 0x88, 0x80008009, 0x8000000A, 0x8000808B, 0x800000000000008B, 0x8000000000008089, 0x8000000000008003,
   0x8000000000008002, 0x8000000000000080, 0x800A, 0x800000008000000A, 0x8000000080008081, 0x8000000000008080, 0x80000001, 0x8000000080008008]

/-- One round of Keccak-f[1600] on 25 lanes. -/
def keccakRound (a : List Dword) (rc : Dword) : List Dword :=
  let c := (List.range 5).map fun x => (List.range 5).foldl (fun r y => r ^^^ a.getD (x + 5 * y) 0) 0
  let a := a.mapIdx fun i w => w ^^^ c.getD ((i + 4) % 5) 0 ^^^ (c.getD ((i + 1) % 5) 0).rotateLeft 1
  let b := (List.range 25).map fun i =>
    let j := (i % 5 + 3 * (i / 5)) % 5 + 5 * (i % 5)
    (a.getD j 0).rotateLeft (keccakTurns.getD j 0)
  (List.range 25).map fun i =>
    let row := i / 5 * 5
    let w := b.getD i 0 ^^^ (~~~ b.getD (row + (i + 1) % 5) 0 &&& b.getD (row + (i + 2) % 5) 0)
    if i = 0 then w ^^^ rc else w

/-- Keccak-f[1600]. -/
def keccak (a : List Dword) : List Dword := keccakConstants.foldl keccakRound a

/-- The bytes that SHAKE256 takes in and gives out with each permutation. -/
def shakeRate : Nat := 136

/-- A message with SHAKE256's padding, which brings it to whole blocks. -/
def shakePadded (bs : List Byte) : List Byte :=
  let fill := shakeRate - 1 - bs.length % shakeRate
  if fill = 0 then bs ++ [0x9F] else bs ++ [0x1F] ++ List.replicate (fill - 1) 0 ++ [0x80]

/-- The lanes after one block of a message. -/
def shakeTake (a : List Dword) (block : List Byte) : List Dword :=
  keccak (a.mapIdx fun i w => if i < shakeRate / 8 then w ^^^ BitVec.ofNat 64 (leValue ((block.drop (8 * i)).take 8)) else w)

/-- The lanes after `n` blocks. -/
def shakeAbsorb : Nat → List Dword → List Byte → List Dword
  | 0, a, _ => a
  | n + 1, a, bs => shakeAbsorb n (shakeTake a (bs.take shakeRate)) (bs.drop shakeRate)

/-- The bytes that `n` blocks of output give. -/
def shakeSqueeze : Nat → List Dword → List Byte
  | 0, _ => []
  | n + 1, a => ((a.take (shakeRate / 8)).flatMap fun w => leBytes 8 w.toNat) ++ shakeSqueeze n (keccak a)

/-- SHAKE256 with `n` bytes of output. -/
@[irreducible] def shake256 (n : Nat) (bs : List Byte) : List Byte :=
  let m := shakePadded bs
  (shakeSqueeze (n / shakeRate + 1) (shakeAbsorb (m.length / shakeRate) (List.replicate 25 0) m)).take n

/-! ## Ed448 -/

/-- The prime of the field. -/
def edPrime : Nat := 2 ^ 448 - 2 ^ 224 - 1

/-- The order of the base point. -/
def edOrder : Nat := 2 ^ 446 - 13818066809895115352007386748515426880336692474882178609894547503885

/-- The field's difference. -/
def edSub (a b : Nat) : Nat := (a + edPrime - b) % edPrime

/-- The field's power, by the `n` low bits of the exponent. -/
def edPow (a e n : Nat) : Nat :=
  (List.range n).reverse.foldl (fun r i => let r := r * r % edPrime; if e.testBit i then r * a % edPrime else r) 1

/-- A point of the curve x² + y² = 1 − 39081·x²·y², in projective coordinates. -/
structure EdPoint where
  x : Nat
  y : Nat
  z : Nat
deriving DecidableEq, Repr

/-- −d of the curve. -/
def edNegD : Nat := 39081

/-- The sum of two points. -/
def EdPoint.add (p q : EdPoint) : EdPoint :=
  let a := p.z * q.z % edPrime
  let b := a * a % edPrime
  let c := p.x * q.x % edPrime
  let d := p.y * q.y % edPrime
  let e := edNegD * c * d % edPrime
  let f := (b + e) % edPrime
  let g := edSub b e
  let h := (p.x + p.y) * (q.x + q.y) % edPrime
  { x := a * f % edPrime * edSub (edSub h c) d % edPrime, y := a * g % edPrime * edSub d c % edPrime, z := f * g % edPrime }

/-- A multiple of a point, by the 446 low bits of the factor. -/
def EdPoint.times (p : EdPoint) (k : Nat) : EdPoint :=
  (List.range 446).reverse.foldl (fun r i => let r := r.add r; if k.testBit i then r.add p else r) { x := 0, y := 1, z := 1 }

/-- Whether two triples name one point. -/
def EdPoint.same (p q : EdPoint) : Bool :=
  p.x * q.z % edPrime == q.x * p.z % edPrime && p.y * q.z % edPrime == q.y * p.z % edPrime

/-- The base point. -/
def edBase : EdPoint :=
  { x := 224580040295924300187604334099896036246789641632564134246125461686950415467406032909029192869357953282578032075146446173674602635247710
    y := 298819210078481492676017930443930673437544040154080242095928241372331506189835876003536878655418784733982303233503462500531545062832660
    z := 1 }

/-- The 57 bytes of a point. -/
def EdPoint.encode (p : EdPoint) : List Byte :=
  let i := edPow p.z (edPrime - 2) 448
  leBytes 57 (p.y * i % edPrime + p.x * i % edPrime % 2 * 2 ^ 455)

/-- The point that 57 bytes name, if they name one. -/
def edDecode (bs : List Byte) : Option EdPoint :=
  let v := leValue bs
  let y := v % 2 ^ 455
  let sign := v / 2 ^ 455
  let yy := y * y % edPrime
  let u := edSub yy 1
  let w := edSub 0 ((edNegD * yy + 1) % edPrime)
  let uw := u * u % edPrime * u % edPrime * w % edPrime
  let x := uw * edPow (uw * (u * u % edPrime * (w * w % edPrime) % edPrime) % edPrime) ((edPrime - 3) / 4) 448 % edPrime
  if bs.length ≠ 57 ∨ edPrime ≤ y ∨ w * (x * x) % edPrime ≠ u ∨ (x = 0 ∧ sign = 1) then none
  else some { x := if x % 2 = sign then x else edPrime - x, y := y, z := 1 }

/-- The number that Ed448's hash gives a message in a context. -/
def edHash (context message : List Byte) : Nat :=
  leValue (shake256 114 (asciiBytes "SigEd448" ++ [0, BitVec.ofNat 8 context.length] ++ context ++ message)) % edOrder

/-- Whether an Ed448 signature in a context holds under a public key for a message: R, S with 4·S·B = 4·(R + k·A). -/
@[irreducible] def edVerify (context key message signature : List Byte) : Bool :=
  let s := leValue (signature.drop 57)
  match edDecode key, edDecode (signature.take 57) with
  | some a, some r =>
    let k := edHash context (signature.take 57 ++ key ++ message)
    decide (signature.length = 114) && decide (s < edOrder) && ((edBase.times s).times 4).same ((r.add (a.times k)).times 4)
  | _, _ => false

/-- The secret factor and the second half of the digest of a 57-byte seed. -/
def edSecret (seed : List Byte) : Nat × List Byte :=
  let h := shake256 114 seed
  (leValue (h.take 56) % 2 ^ 447 / 4 * 4 + 2 ^ 447, h.drop 57)

/-- The public key of a seed. -/
@[irreducible] def edPublic (seed : List Byte) : List Byte := (edBase.times ((edSecret seed).1 % edOrder)).encode

/-- The signature that a seed's key gives a message in a context. -/
@[irreducible] def edSign (seed context message : List Byte) : List Byte :=
  let (a, half) := edSecret seed
  let r := edHash context (half ++ message)
  let head := (edBase.times r).encode
  head ++ leBytes 57 ((r + edHash context (head ++ edPublic seed ++ message) * a) % edOrder)

end Sys2Proof.Machine
end

