-- ==== Sys2Proof/Machine/Ops.lean ====
section
/-!
DEFINITION. The named operations that the meanings share: threads and their registers, completing an instruction (R169, R191, R192), leaving the
rotation (R29 to R31), taking a fault and returning from one (R355, R362), requests in flight, and the address check (R209, R376, R377, R386,
R389).
-/

namespace Sys2Proof.Machine

/-! ## Threads and cores -/

/-- The thread of a context. -/
def State.thread (s : State) (core ctx : Nat) : Thread := Assoc.getD (s.core core).ctxs ctx {}

/-- The state with a context's thread replaced. -/
def State.setThread (s : State) (core ctx : Nat) (t : Thread) : State :=
  s.setCore core { s.core core with ctxs := Assoc.insert (s.core core).ctxs ctx t }

/-- The thread whose turn it is. -/
def State.cur (s : State) : Thread := s.thread s.focus.core s.focus.ctx

/-- The state with the thread whose turn it is replaced. -/
def State.setCur (s : State) (t : Thread) : State := s.setThread s.focus.core s.focus.ctx t

/-- The state with the thread whose turn it is changed. -/
def State.modCur (s : State) (f : Thread → Thread) : State := s.setCur (f s.cur)

/-- A general register; g0 reads as zero (R25). -/
def Thread.rg (t : Thread) (r : GReg) : Dword := if r = 0 then 0 else t.g[r]

/-- The thread with a general register written; a write of g0 is ignored (R25). -/
def Thread.wg (t : Thread) (r : GReg) (x : Dword) : Thread :=
  if r = 0 then t else { t with g := t.g.set r.val x r.isLt }

/-- A general register of the thread whose turn it is. -/
def State.rg (s : State) (r : GReg) : Dword := s.cur.rg r

/-- The thread's name (R158). -/
def Thread.name (t : Thread) : Name := t.tid.setWidth 56

/-- The die of a core index: 0 to 3 for compute cores, 4 to 11 for channel cores (R41). -/
def coreDie (core : Nat) : Nat := if core < 640 then core / 160 else 4 + (core - 640) / 32

/-- The number of a core on its die (R41). -/
def coreOnDie (core : Nat) : Nat := if core < 640 then core % 160 else (core - 640) % 32

/-- The compute die whose spill area and name directory serve a core (R56). -/
def spillDie (core : Nat) : Nat := if core < 640 then core / 160 else (coreDie core - 4) / 2

/-- The endpoint of a core of a package (R14). -/
def endpoint (pkg core : Nat) : Nat := pkg * 4096 + coreDie core * 256 + coreOnDie core

/-- The core index of an endpoint's die and core fields, where such a core exists (R14, R201). -/
def endpointCore (ep : Nat) : Option Nat :=
  let d := ep / 256 % 16
  let c := ep % 256
  if d < 4 then (if c < 160 then some (d * 160 + c) else none)
  else if d < 12 then (if c < 32 then some (640 + (d - 4) * 32 + c) else none)
  else none

/-- The package of an endpoint. -/
def endpointPkg (ep : Nat) : Nat := ep / 4096

/-- The load-store domain of a package number (R400). -/
def domainOf (pkg : Nat) : Nat := pkg / 4096

/-- A thread name (R26). -/
def mkName (ep ctx : Nat) (gen : BitVec 17) : Name := BitVec.ofNat 56 (ep * 0x2000000 + ctx * 0x20000 + gen.toNat)

/-- The endpoint field of a name. -/
def nameEp (n : Name) : Nat := n.toNat / 0x2000000
/-- The context field of a name. -/
def nameCtx (n : Name) : Nat := n.toNat / 0x20000 % 256

/-- The global tile number of a compute core (R73). -/
def tileOf (core : Nat) : Nat := core / 4

/-- Where a thread stands: in a context, or in a spill slot of a die. -/
inductive Place where
  | ctx (core ctx : Nat)
  | slot (die slot : Nat)
deriving DecidableEq, Repr

/-- Whether a context holds a thread with this name. -/
def Thread.holds (t : Thread) (n : Name) : Bool := t.st != .free && t.stubFor.isNone && t.name == n

/-- The context of a core that holds a thread with this name. -/
def Core.whereIs (c : Core) (n : Name) : Option Nat := (c.ctxs.find? fun p => p.2.holds n).map (·.1)

/-- Where the thread with this name stands on the package. -/
def State.whereIs (s : State) (n : Name) : Option Place :=
  match s.cores.findSome? fun p => (p.2.whereIs n).map fun x => Place.ctx p.1 x with
  | some p => some p
  | none => s.dies.findSome? fun d => (d.2.slots.find? fun q => q.2.thr.holds n).map fun q => Place.slot d.1 q.1

/-- The thread at a place. -/
def State.at (s : State) : Place → Thread
  | .ctx c x => s.thread c x
  | .slot d i => (Assoc.getD (s.die d).slots i { core := 0, thr := {} }).thr

/-- The state with the thread at a place replaced. -/
def State.setAt (s : State) (p : Place) (t : Thread) : State :=
  match p with
  | .ctx c x => s.setThread c x t
  | .slot d i =>
    let x := Assoc.getD (s.die d).slots i { core := 0, thr := {} }
    s.setDie d { s.die d with slots := Assoc.insert (s.die d).slots i { x with thr := t } }

/-- Whether a place is a context of a saved tile. -/
def State.isSaved (s : State) (p : Place) : Bool :=
  match p with
  | .ctx c _ => decide (c < 640) && (s.tile (tileOf c)).state == .saved
  | .slot .. => false

/-- The core that a place belongs to. -/
def State.coreAt (s : State) : Place → Nat
  | .ctx c _ => c
  | .slot d i => (Assoc.getD (s.die d).slots i { core := 0, thr := {} }).core

/-- The state with the thread of a name changed, wherever it stands; unchanged where no thread has the name. -/
def State.modNamed (s : State) (n : Name) (f : Thread → Thread) : State :=
  match s.whereIs n with
  | some p => s.setAt p (f (s.at p))
  | none => s

/-- The thread with this name, if it lives on the package. -/
def State.named (s : State) (n : Name) : Option Thread := (s.whereIs n).map s.at

/-! ## In flight -/

/-- The state with a message put in flight, due after a delay. -/
def State.post (s : State) (delay : Nat) (o : Origin) (b : Body) : State :=
  { s with nextId := s.nextId + 1
           flight := s.flight ++ [{ id := s.nextId, due := s.cycle + delay, origin := o, body := b, dst := s.pkg, epoch := (s.core o.core).l1Epoch }] }

/-- The state with a request for another package in its core's network interface; it stands there until the answer comes. -/
def State.postOut (s : State) (dst : Nat) (o : Origin) (b : Body) : State :=
  { s with nextId := s.nextId + 1
           flight := s.flight ++ [{ id := s.nextId, due := s.cycle, origin := o, body := b, dst := dst, epoch := (s.core o.core).l1Epoch }] }

/-- The channel core of the stack die that stands for the home of an address on its package: the device's own work at the home sends by it. -/
def homeCore (a : Nat) : Nat := 640 + a / 4096 % 256

/-- The gateway by which a core's packets leave (R98, R402): gateway c mod 8 of its compute die, or of the die that its stack die hangs on. -/
def gatewayOf (core : Nat) : Nat := 8 * spillDie core + coreOnDie core % 8

/-- The spray set of a gateway toward a package (R398, R402). -/
def State.spray (s : State) (g dst : Nat) : Word :=
  let base := 0xF000400000 + 0x10000 * g
  if domainOf dst = domainOf s.pkg then Assoc.getD s.routes (base + 0x4000 + 8 * (dst % 4096)) 0
  else Assoc.getD s.routes (base + 0xC000 + 8 * domainOf dst) 0

/-- A port of the package. -/
def State.port (s : State) (p : Nat) : Port := Assoc.getD s.ports p {}

/-- The UP ports of the spray set of a gateway's cores for a package (R402). -/
def State.upPorts (s : State) (g dst : Nat) : List Nat := (List.range 32).filter fun i => (s.spray g dst).getLsbD i && (s.port i).up

/-- Whether a package can be reached from a gateway: its set holds a port that is UP (R402). -/
def State.reachableBy (s : State) (g dst : Nat) : Bool :=
  !(s.upPorts g dst).isEmpty

/-- Whether a package can be reached from a core. -/
def State.reachable (s : State) (core dst : Nat) : Bool := dst == s.pkg || s.reachableBy (gatewayOf core) dst

/-- Whether a body is a collective flit (R407). -/
def Body.collective (b : Body) : Bool := match b with | .vote _ | .summary _ | .verdict _ | .abortReq _ => true | _ => false

/-- The state with a message sent to a package: into flight for this one, out of a port for another.  An unreachable one gives the request up
(R406): its answer is a NACK with FABRIC. -/
def State.send (s : State) (delay dst : Nat) (o : Origin) (b : Body) : State :=
  if dst = s.pkg then s.post delay o b
  else if s.reachable o.core dst && (b.collective || domainOf dst == domainOf s.pkg) then s.postOut dst o b
  else
    let m : Msg := { id := s.nextId, due := s.cycle, origin := o, body := b, dst := dst }
    let r : Msg :=
      { id := s.nextId + 1, due := s.cycle + 1, origin := o, body := .nack 0x12 0 (BitVec.ofNat 64 (dst * 4096)) false, dst := s.pkg
        req := some s.nextId }
    { s with nextId := s.nextId + 2, flight := s.flight ++ [m, r] }

/-- The state with an event due at a cycle. -/
def State.notice (s : State) (cycle : Nat) (i : Instr) (on : Subject) : State :=
  { s with nextId := s.nextId + 1
           flight := s.flight ++ [{ id := s.nextId, due := cycle, origin := {}, body := .notice i on, dst := s.pkg }] }

/-- The ticket counts of an endpoint. -/
def State.gate (s : State) (ep : Nat) : TicketGate := Assoc.getD s.tickets ep {}

/-! ### Packets (R402 to R405) -/

/-- The gateway that serves an endpoint, of 32 on its package (R98). -/
def endpointGateway (ep : Nat) : Nat :=
  let d := ep / 256 % 16
  8 * (if d < 4 then d else (d - 4) / 2) + ep % 8

/-- The gateway that receives a request to a physical address: that of the core that owns a scratch address, and that of a Damask line's home
slice (R82). -/
def addressGateway (pa : Nat) : Nat :=
  let a := gpaLocal pa
  match region a with
  | .tileScratch t o => 8 * (t / 40) + (4 * (t % 40) + o / 0x100000) % 8
  | .chanScratch n _ => 8 * (n / 64) + n % 8
  | .damask =>
    8 * (homeSlice a / 64) + homeSlice a % 8
  | _ => 0

/-- The core that owns a local scratch address (R61, R73, R75). -/
def ownerCore (a : Nat) : Option Nat :=
  match region a with
  | .tileScratch t o => some (4 * t + o / 0x100000)
  | .chanScratch n _ => some (640 + n)
  | _ => none

/-- The target gateway of a request. -/
def Body.gateway (b : Body) : Nat :=
  match b with
  | .load ps _ _ _ => addressGateway ((ps.head?.map (·.pa)).getD 0)
  | .await _ pa _ _ _ => addressGateway pa
  | .store bs _ _ _ _ => addressGateway ((bs.headD (0, 0)).1)
  | .bulk bs _ => addressGateway ((bs.headD (0, 0)).1)
  | .atomic _ pa _ _ _ _ _ => addressGateway pa
  | .reduce _ pa _ _ => addressGateway pa
  | .wave _ pa => addressGateway pa
  | .recall _ c => endpointGateway (endpoint 0 c)
  | .migrate _ c _ => endpointGateway (endpoint 0 c)
  | .call c _ _ => endpointGateway (endpoint 0 c)
  | .threadOp _ n => endpointGateway (nameEp n)
  | .news n _ => endpointGateway (nameEp n)
  | .ticket ep => endpointGateway ep
  | .ticketWait ep _ => endpointGateway ep
  | .ticketCall _ _ c => endpointGateway (endpoint 0 c)
  | _ => 0

/-- The destination endpoint of a request to a package: its core where the request names one; a thread's, where its name is homed there. -/
def Body.target (dst : Nat) (b : Body) : Nat :=
  let owner := fun pa => match ownerCore (gpaLocal pa) with | some c => endpoint dst c | none => dst * 4096
  let named := fun n => if endpointPkg (nameEp n) = dst then nameEp n else dst * 4096
  match b with
  | .load ps _ _ _ => owner ((ps.head?.map (·.pa)).getD 0)
  | .await _ pa _ _ _ => owner pa
  | .store bs _ _ _ _ => owner ((bs.headD (0, 0)).1)
  | .bulk bs _ => owner ((bs.headD (0, 0)).1)
  | .atomic _ pa _ _ _ _ _ => owner pa
  | .reduce _ pa _ _ => owner pa
  | .wave _ pa => owner pa
  | .migrate _ c _ => endpoint dst c
  | .call c _ _ => endpoint dst c
  | .threadOp _ n => named n
  | .ticket ep => ep
  | .ticketWait ep _ => ep
  | .ticketCall _ _ c => endpoint dst c
  | .recall _ c => endpoint dst c
  | .news n _ => named n
  | _ => dst * 4096

/-- The channel of a request (R403): an agent's load is a BULK packet. -/
def Msg.channel (m : Msg) : Nat :=
  match m.body with
  | .vote _ | .summary _ | .verdict _ | .abortReq _ => 2
  | .bulk .. | .sideband .. => 3
  | .load .. => if m.origin.dev.isSome then 3 else 0
  | .recall .. => 1
  | _ => 0

/-- The code of a packet's kind (R403); 0 for what is no Maelgen packet.  What the package tells another of its threads goes as THREADOP, what concerns a page or
a fire as CONTROL: DESIGN CHOICE (log 100). -/
def Msg.kind (m : Msg) : Nat :=
  match m.body with
  | .load .. => if m.origin.dev.isSome then 0x0B else 0x01
  | .await .. | .icache .. => 0x01
  | .store .. => 0x02
  | .atomic .. => 0x03
  | .reduce .. | .wave .. => 0x04
  | .migrate .. => 0x05
  | .call .. => 0x06
  | .threadOp .. | .news .. => 0x07
  | .cancelJob _ | .tlbinv .. | .page .. | .fire .. | .arm .. => 0x08
  | .ticket _ | .ticketWait .. | .ticketCall .. => 0x09
  | .vote _ | .summary _ | .verdict _ | .abortReq _ | .collJoin .. | .collLeave .. => 0x0A
  | .bulk .. => 0x0B
  | .sideband .. => 0x0C
  | .data .. | .old .. | .value _ => 0x10
  | .ack .. | .heldNote => 0x11
  | .nack .. => 0x12
  | .recall .. => 0x13
  | .unknown code _ => code.toNat
  | .spillMove .. | .mgmt _ | .heartbeat .. | .notice .. => 0

/-- Whether a packet that is no reply is of class Response (R403). -/
def Body.response (b : Body) : Bool := match b with | .recall .. => true | _ => false

/-- The flits of 64 bytes of a packet (R403): a header, and what the body carries. -/
def Body.flits (b : Body) : Nat :=
  match b with
  | .store bs .. => 1 + (bs.length + 63) / 64
  | .bulk bs _ => 1 + (bs.length + 63) / 64
  | .data vals fill _ => 1 + max 1 ((8 * vals.length + 4 * fill.length + 63) / 64)
  | .migrate .. => 3
  | .ack .. | .nack .. => 1
  | _ => 2

/-- The virtual channel of a packet in a mode of the link, by channel and class (R405). -/
def virtualChannel (mode chan : Nat) (response : Bool) : Nat :=
  let k := if response then 1 else 0
  if chan = 2 then 4 else if mode = 0 then 2 * chan + k else if mode = 1 ∧ chan = 3 then 6 + k else k

/-- The port by which a packet leaves: the port that carries its order alone, or one that a hash picks from the UP ports of its spray set; a retry takes
one that it has not left by, where there is one (R402, R406). -/
def State.portFor (s : State) (key : Nat × Nat × Nat) (seq : Nat) (tried : List Nat) : Option Nat :=
  let ups := s.upPorts (endpointGateway key.1) (endpointPkg key.2.1)
  match s.pinned.find? fun x => x.1 == key && (s.port x.2).up && (s.port x.2).rod with
  | some x => some x.2
  | none =>
    let fresh := ups.filter fun p => !tried.contains p
    let l := if fresh.isEmpty then ups else fresh
    l[Config.portHash key.1 key.2.1 seq % l.length]?

/-- The 64 bytes of a collective flit of a type (R407): its fields in bytes 0 to 15, zeros in the others. -/
def Flit.encode (f : Flit) (type : Nat) : BitVec 512 :=
  let one := fun (b : Bool) => BitVec.ofBool b
  ((BitVec.ofNat 3 type ++ BitVec.ofNat 2 f.result ++ BitVec.ofNat 2 f.reason ++ one f.mixed ++ one f.kindAll ++ one f.orv ++ one f.andv ++
    BitVec.ofNat 19 f.sender ++ 0#2 ++ f.epoch ++ BitVec.ofNat 16 f.count ++ 0#16 ++ f.collid : BitVec 128)).setWidth 512

/-- The type of a flit's 64 bytes (R407). -/
def flitType (x : BitVec 512) : Nat := (x.extractLsb' 125 3).toNat

/-- What a flit's 64 bytes say (R407). -/
def Flit.decode (x : BitVec 512) : Flit :=
  { collid := x.extractLsb' 0 32, epoch := x.extractLsb' 64 32, count := (x.extractLsb' 48 16).toNat, kindAll := x.getLsbD 119, orv := x.getLsbD 118
    andv := x.getLsbD 117, mixed := x.getLsbD 120, result := (x.extractLsb' 123 2).toNat, reason := (x.extractLsb' 121 2).toNat
    sender := (x.extractLsb' 98 19).toNat }

/-- A collective flit as its data flit on a link carries it (R407); any other body as it is. -/
def Body.onLink (b : Body) : Body :=
  match b with
  | .vote f => .vote (Flit.decode (f.encode 1))
  | .summary f => .summary (Flit.decode (f.encode 2))
  | .verdict f => .verdict (Flit.decode (f.encode 3))
  | .abortReq f => .abortReq (Flit.decode (f.encode 4))
  | b => b

/-- The state with a packet on its way out: it takes its sequence number, unless it has one, and a port. -/
def State.outward (s : State) (m : Msg) (src dst chan : Nat) (response : Bool) : State :=
  let key := (src, dst, chan)
  let next := match s.sending.find? fun x => x.1 == key with | some x => x.2 | none => 0
  let seq := match m.head with | some h => h.seq | none => next
  let s := if m.head.isSome then s else { s with sending := (key, (next + 1) % 0x100000000) :: s.sending.filter fun x => x.1 != key }
  let port := s.portFor key seq m.ports
  let s := match port with
    | some p => if (s.port p).rod then { s with pinned := (key, p) :: s.pinned.filter fun x => x.1 != key } else s
    | none => s
  let mode := match port with | some p => (s.port p).vcmode.toNat | none => 0
  let h : Header := { kind := m.kind, src := src, dst := dst, chan := chan, seq := seq, vc := virtualChannel mode chan response, flits := m.body.flits, port := port }
  { s with egress := s.egress ++ [{ m with head := some h, body := m.body.onLink, ports := port.toList ++ m.ports }] }

/-- The state with a reply to a request on its way to the requester: into flight for this package, out of a port for another. -/
def State.reply (s : State) (delay : Nat) (m : Msg) (b : Body) : State :=
  let r : Msg := { id := s.nextId, due := s.cycle + delay, origin := m.origin, body := b, dst := m.origin.pkg, req := some m.id }
  if m.origin.pkg = s.pkg then { s with nextId := s.nextId + 1, flight := s.flight ++ [r] }
  else { s with nextId := s.nextId + 1 }.outward { r with head := none } (m.body.target s.pkg) (endpoint m.origin.pkg m.origin.core) m.channel true

/-- The message with an identity. -/
def State.msg? (s : State) (id : Nat) : Option Msg := s.flight.find? fun m => m.id == id

/-- The state without a message. -/
def State.drop (s : State) (id : Nat) : State := { s with flight := s.flight.filter fun m => m.id != id }

/-- The state with a message changed. -/
def State.modMsg (s : State) (id : Nat) (f : Msg → Msg) : State :=
  { s with flight := s.flight.map fun m => if m.id == id then f m else m }

/-- The origin that a thread of a core gives its requests. -/
def State.originOf (s : State) (core : Nat) (t : Thread) : Origin :=
  { pkg := s.pkg, core := core, name := t.name, job := t.job.setWidth 32, faultrec := t.faultrec, troot := t.troot }

/-- The origin of a request that carries the thread's ticket to its endpoint: a store, an AMO or a reduction (R244). -/
def Origin.ticketed (o : Origin) (t : Thread) : Origin := { o with ticket := t.ticket }

/-- The origin of the thread whose turn it is. -/
def State.curOrigin (s : State) : Origin := { s.originOf s.focus.core s.cur with pc := s.cur.pc }

/-! ## Prefixes (R161, R169 to R172) -/

/-- PFXST bits: PFX.IMM pending. -/
def Thread.pimm (t : Thread) : Bool := t.pfxst.getLsbD 37
/-- PFX.MOD pending. -/
def Thread.pmod (t : Thread) : Bool := t.pfxst.getLsbD 38
/-- PFX.HINT pending. -/
def Thread.phint (t : Thread) : Bool := t.pfxst.getLsbD 39
/-- Payload of the pending PFX.IMM. -/
def Thread.immPayload (t : Thread) : BitVec 24 := t.pfxst.extractLsb' 0 24
/-- Payload of the pending PFX.MOD. -/
def Thread.modPayload (t : Thread) : BitVec 4 := t.pfxst.extractLsb' 24 4
/-- Payload of the pending PFX.HINT. -/
def Thread.hintPayload (t : Thread) : BitVec 9 := t.pfxst.extractLsb' 28 9

/-- The thread after its prefixes are consumed (R169): PFXST is zero, a TAG is kept for sampling (R428), YIELDAFTER asks for a YIELD (R172). -/
def Thread.consume (t : Thread) : Thread :=
  { t with
    lastTag := if t.phint then t.hintPayload.extractLsb' 1 8 else t.lastTag
    yielding := t.yielding || (t.phint && t.hintPayload.getLsbD 0)
    pfxst := 0, pfxAt := Vector.replicate 3 none, modBad := false, hintBad := false, inHand := none }

/-! ## Loops (R160, R190 to R192) -/

/-- LOOPST.DEPTH. -/
def Thread.depth (t : Thread) : Nat := t.loopst.toNat % 4

/-- Address of the first word of a level's body. -/
def Thread.loopStart (t : Thread) (j : Nat) : Nat := (t.loopb[j]?.getD 0).toNat

/-- Address of the last word of a level's body: START + 4 × (LEN − 1), modulo 2^64 (R190). -/
def Thread.loopEnd (t : Thread) (j : Nat) : Nat :=
  (t.loopStart j + 4 * ((t.loopc[j]?.getD 0).toNat % 65536) + (2 ^ 64 - 4)) % 2 ^ 64

/-- Iterations still to start of a level. -/
def Thread.remain (t : Thread) (j : Nat) : Nat := (t.loopc[j]?.getD 0).toNat / 0x100000000

/-- The thread with its innermost level cleared. -/
def Thread.popLoop (t : Thread) : Thread :=
  let j := t.depth - 1
  { t with loopb := t.loopb.setIfInBounds j 0, loopc := t.loopc.setIfInBounds j 0, loopst := BitVec.ofNat 64 j }

/-- Whether the word at PC ends the innermost body. -/
def Thread.atLoopEnd (t : Thread) : Bool := decide (0 < t.depth) && decide (t.pc.toNat = t.loopEnd (t.depth - 1))

/-- The loop-back of R191, after the word at PC has completed as the last word of the innermost body. -/
def Thread.loopBack (t : Thread) : Thread :=
  let j := t.depth - 1
  if 0 < t.remain j then
    { t with loopc := t.loopc.setIfInBounds j ((t.loopc[j]?.getD 0) - 0x100000000)
             pc := BitVec.ofNat 64 (t.loopStart j), retiring := false }
  else { t.popLoop with pc := t.pc + 4, retiring := false }

/-- The thread as its registers read: a loop-back that is due has been applied. -/
def Thread.looped (t : Thread) : Thread := if t.retiring then t.loopBack else t

/-- The thread after an instruction completes without transferring control (R169, R191): at the end of a body the loop-back is left to the
LOOP_BACK step. -/
def Thread.retire (t : Thread) : Thread :=
  let t := t.consume
  if t.atLoopEnd then { t with retiring := true } else { t with pc := t.pc + 4 }

/-- Levels that a branch to X leaves are abandoned, from the innermost out (R192). -/
def Thread.leaveLoops : Nat → Thread → Nat → Thread
  | 0, t, _ => t
  | n + 1, t, x =>
    if 0 < t.depth ∧ ¬ (t.loopStart (t.depth - 1) ≤ x ∧ x ≤ t.loopEnd (t.depth - 1)) then
      Thread.leaveLoops n t.popLoop x
    else t

/-- The loop state after a taken branch at PC to X (R192). -/
def Thread.branchLoops (t : Thread) (x : Nat) : Thread :=
  Thread.leaveLoops 3 (if t.atLoopEnd then t.popLoop else t) x

/-- The thread after a transfer of control to X (R192), which owes `extra` further turns (R187). -/
def Thread.jump (t : Thread) (x : Dword) (extra : Nat) : Thread :=
  { (t.consume.branchLoops x.toNat) with pc := x, stall := extra }

/-! ## Positions and states (R29 to R36) -/

/-- The thread without its position: b-registers become unprepared (R187), and the instruction buffer is empty (R71). -/
def Thread.unbound (t : Thread) : Thread :=
  { t with pos := none, buffer := [], prepared := Vector.replicate 8 false, targets := Vector.replicate 8 [], stall := 0, turns := 0, yielding := false }

/-- The thread after it leaves the rotation for a wait (R29). -/
def Thread.leave (t : Thread) (st : TState) (w : Wait) : Thread := { t.unbound with st := st, wait := w }

/-- The thread made READY (R31, R33). -/
def Thread.toReady (t : Thread) (cycle : Nat) : Thread :=
  { t with st := .ready, wait := {}, readyTime := cycle, agedAt := cycle, effPrio := t.prio.toNat % 4, deadline := 0 }

/-- A wake or a condition that holds, applied in the thread's state (R36): a WAITING or SLEEPING thread becomes READY, a stopped one resumes as
READY, a spilled sleeper is spilled-ready; a thread that a stop waits for is then stopped (R360). -/
def Thread.wake (t : Thread) (cycle : Nat) : Thread :=
  match t.st with
  | .waiting | .sleeping => if t.stopping then { t with st := .stopped, prior := .ready, wait := {}, deadline := 0 } else t.toReady cycle
  | .stopped | .held =>
    if t.prior = .waiting ∨ t.prior = .sleeping then { t with prior := .ready, wait := {}, deadline := 0 }
    else if t.prior = .spilled then { t with spSleep := false, wait := {}, deadline := 0 }
    else t
  | .spilled => { t with spSleep := false, wait := {}, deadline := 0, readyTime := cycle }
  | _ => t

/-- The state after the thread whose turn it is waits. -/
def State.wait (s : State) (w : Wait) : State := s.modCur fun t => t.leave .waiting { w with since := s.cycle, first := s.nextId }

/-- The state after the thread whose turn it is waits for a condition, for its instruction to go on. -/
def State.stallFor (s : State) (k : Nat) (a v : Dword) (c : WaitCond) : State := s.wait { k := k, a := a, v := v, act := .again c }

/-- The state after the thread whose turn it is completes its instruction. -/
def State.retire (s : State) : State := s.modCur Thread.retire

/-! ## Faults (R355 to R359) -/

/-- The thread stopped by a fault at a PC (R355): FAULTED, its position free unless it was held.  The recorded addresses of its prefixes stay: R169 drops them at
a stop, and R355, whose first step is the stop, does not say whether that one is meant: DESIGN CHOICE (log 105). -/
def Thread.stopAt (t : Thread) (f : PendingFault) : Thread :=
  { t.unbound with
    pos := if t.st = .held then t.pos else none
    st := .faulted, fcode := f.code, pc := f.pc, word := none, wait := {}, deadline := 0, pending := some f, retiring := false, inHand := none
    pcWritten := false }

/-- The event that writes the fault record of a thread. -/
def State.recordDue (s : State) (n : Name) : State := s.notice (s.cycle + 1) .faultRecord { name := n }

/-- The state after the thread at a place takes a fault: this is taking an exception, the one operation that every meaning shares (R355). -/
def State.faultAt (s : State) (p : Place) (f : PendingFault) : State :=
  (s.setAt p ((s.at p).stopAt f)).recordDue (s.at p).name

/-- The state after the thread whose turn it is raises a fault.  In run-ahead the fault is deferred: the
thread waits for the verdict and holds it (R320). -/
def State.raiseFault (s : State) (f : PendingFault) : State :=
  match s.cur.bank with
  | some b =>
    if b.committing then s.faultAt (.ctx s.focus.core s.focus.ctx) f
    else s.modCur fun t =>
      { t.leave .waiting { k := 12, act := .again .verdict } with bank := some { b with fault := some { f with deferred := true } } }
  | none => s.faultAt (.ctx s.focus.core s.focus.ctx) f

/-- The state after the thread whose turn it is raises a fault at a PC with the record words 2, 4 and 5. -/
def State.raiseAt (s : State) (pc : Dword) (code : BitVec 8) (w2 w4 w5 : Dword) : State :=
  s.raiseFault { code := code, pc := pc, w2 := w2, w4 := w4, w5 := w5 }

/-- The state after the instruction at PC raises a fault. -/
def State.raise (s : State) (code : BitVec 8) (w2 w4 w5 : Dword) : State := s.raiseAt s.cur.pc code w2 w4 w5

/-- The thread resumed from a fault (R362): READY at its PC as its registers stand; after a breakpoint's fault, breakpoints do not match the word at that PC again,
unless a TWRITE has changed it since (R430). -/
def Thread.resumeFault (t : Thread) (cycle : Nat) : Thread :=
  { t.unbound.toReady cycle with fcode := 0, skipBreak := decide (t.fcode = 0x0E) && !t.pcWritten }

/-! ## Translation (R374 to R380, R386) -/

/-- log2 of the page size of a leaf KIND (R375). -/
def kindBits (k : Nat) : Nat := match k with | 1 => 16 | 2 => 25 | 3 => 34 | _ => 0

/-- KIND of an entry. -/
def leafKind (e : BitVec 128) : Nat := (e.extractLsb' 1 2).toNat
/-- Aperture of a leaf. -/
def leafAper (e : BitVec 128) : Nat := (e.extractLsb' 6 2).toNat
/-- Key slot of a leaf. -/
def leafKey (e : BitVec 128) : Nat := (e.extractLsb' 96 12).toNat
/-- Peer package of a leaf. -/
def leafPeer (e : BitVec 128) : Nat := (e.extractLsb' 64 19).toNat

/-- Whether an entry's zero fields are zero (R375). -/
def entryZeros (e : BitVec 128) : Bool :=
  if leafKind e = 0 then e.extractLsb' 40 88 == 0 && e.extractLsb' 3 10 == 0
  else
    e.extractLsb' 108 20 == 0 && e.extractLsb' 83 13 == 0 && e.extractLsb' 40 24 == 0 && e.extractLsb' 12 4 == 0 &&
    (leafKind e != 2 || e.extractLsb' 16 9 == 0) && (leafKind e != 3 || e.extractLsb' 16 18 == 0) &&
    (leafAper e < 2 || leafKey e == 0) && (leafAper e == 1 || leafPeer e == 0) && (leafAper e == 1 || !e.getLsbD 8)

/-- Whether the page of a local address is locked. -/
def PageMove.locks (m : PageMove) (a : Nat) : Bool := m.page == a / 0x10000 && m.target.isNone && !m.frame

/-- Whether the page that holds a local address, a SAVED tile's image page among them, is locked at its directory, so that writes to it are held (R153, R371,
R392). -/
def State.locked (s : State) (a : Nat) : Bool := s.moves.any fun m => m.locks (s.place a 0).1

/-- Whether a write that registered in its order is held there: the lock came before it (R153, R393). -/
def State.lockedFor (s : State) (a seq : Nat) : Bool := s.moves.any fun m => m.locks (s.place a 0).1 && decide (m.since ≤ seq)

/-- The address on another package that an address of this package forwards to. -/
def State.farPage (s : State) (pa : Nat) : Option Nat :=
  match s.forwardsTo (s.place (gpaLocal pa) 0).1 with
  | some x => if gpaPkg x = s.pkg ∨ gpaPkg pa ≠ s.pkg then none else some x
  | none => none

/-- The global address that serves an address of this package: that of the new place of a page that forwards on it (R393). -/
def State.homeAddr (s : State) (pa : Nat) : Nat := if gpaPkg pa = s.pkg then gpa s.pkg (s.forwarded (gpaLocal pa)) else pa

/-- The 16 bytes of a table's entry at a local address, under key slot 0: from the home that serves it, or as it was read from the package that its page
forwards to (R376, R393). -/
def State.entryAt (s : State) (a : Nat) : Nat :=
  match s.farPage (gpa s.pkg a) with
  | some _ => ((s.farEntries.find? fun e => e.1 == a).map (·.2)).getD 0
  | none => s.val (s.forwarded a) 16 0

/-- Whether an entry is still to be read from another package. -/
def State.entryFar (s : State) (a : Nat) : Bool := (s.farPage (gpa s.pkg a)).isSome && !s.farEntries.any fun e => e.1 == a

/-- The walk of R376 from level `lvl` with a table at `T`: the leaf and the address of its entry.  Each entry is read under key slot 0. -/
def State.walkFrom (s : State) (va : Nat) : Nat → Nat → Nat → Option (BitVec 128 × Nat)
  | 0, _, _ => none
  | n + 1, lvl, T =>
    let idx := va / 2 ^ (43 - 9 * lvl) % 512
    let a := T + 16 * idx
    if 0xC000000000 ≤ a then none
    else
      let e := BitVec.ofNat 128 (s.entryAt a)
      if !e.getLsbD 0 || !entryZeros e then none
      else if leafKind e = 0 then
        if lvl = 3 then none else State.walkFrom s va n (lvl + 1) ((e.extractLsb' 13 27).toNat * 0x2000)
      else if (lvl, leafKind e) = (1, 3) ∨ (lvl, leafKind e) = (2, 2) ∨ (lvl, leafKind e) = (3, 1) then some (e, a)
      else none

/-- The walk of R376 through a translation root. -/
def State.walk (s : State) (troot va : Nat) : Option (BitVec 128 × Nat) :=
  if troot = 0 then none else s.walkFrom va 4 0 (troot / 0x2000 * 0x2000)

/-- The addresses of the entries that a walk from a level reads (R376). -/
def State.walkPath (s : State) (va : Nat) : Nat → Nat → Nat → List Nat
  | 0, _, _ => []
  | n + 1, lvl, T =>
    let a := T + 16 * (va / 2 ^ (43 - 9 * lvl) % 512)
    if 0xC000000000 ≤ a then []
    else
      let e := BitVec.ofNat 128 (s.entryAt a)
      if !e.getLsbD 0 || !entryZeros e || leafKind e ≠ 0 || lvl = 3 then [a]
      else a :: State.walkPath s va n (lvl + 1) ((e.extractLsb' 13 27).toNat * 0x2000)

/-- The entry that a walk through a root has still to read from another package. -/
def State.walkNeeds (s : State) (troot va : Nat) : Option Nat :=
  if troot = 0 then none else (s.walkPath va 4 0 (troot / 0x2000 * 0x2000)).find? s.entryFar

/-- A checked access: its global physical address, its leaf and key slot. -/
structure Access where
  pa : Nat
  key : Nat
  leaf : BitVec 128
deriving DecidableEq, Repr

/-- The outcome of an address check: an access, a fault with its code and word 4, or a translation that must be walked first. -/
inductive Checked where
  | ok (x : Access)
  | fault (code : BitVec 8) (w4 : Dword)
  | walk
deriving DecidableEq, Repr

/-- The physical address that a leaf gives (R377). -/
def leafPa (e : BitVec 128) (va : Nat) : Nat :=
  (e.extractLsb' 16 24).toNat * 0x10000 + va % 2 ^ kindBits (leafKind e)

/-- The package that a leaf's addresses lie on: a peer aperture on the issuing package acts as aperture 0 (R378). -/
def State.leafPkg (s : State) (e : BitVec 128) : Nat := if leafAper e = 1 then leafPeer e else s.pkg

/-- The aperture that a leaf acts as (R378). -/
def State.actAper (s : State) (e : BitVec 128) : Nat := if leafAper e = 1 ∧ leafPeer e = s.pkg then 0 else leafAper e

/-- Whether a physical address lies in the range that an aperture allows (R377). -/
def aperAllows (aper pa : Nat) : Bool :=
  match region pa with
  | .damask => aper == 0 || aper == 1
  | .tileScratch _ _ | .chanScratch _ _ => aper == 2 || aper == 1
  | .device => aper == 3 || aper == 1
  | .hole => false

/-- The owner test of R386 for a job. -/
def State.ownerOk (s : State) (key : Nat) (job : Word) : Bool := (s.key key).anyJob || (s.key key).owner == job

/-- The tile test of R389 for a job: a RESET tile is governed by R373 alone. -/
def State.tileOk (s : State) (pa : Nat) (job : Word) : Bool :=
  match region pa with
  | .tileScratch t o => (s.tile t).state == .reset || ((s.tile t).state == .saved && decide (o < 0x3FE000)) || (s.tile t).openAll || (s.tile t).job == job
  | _ => true

/-- The lines of Check from the leaf on (R209), with the key slot's validity (R376), the domain test (R378) and the tile test (R389).
R209 names no place for the domain test: DESIGN CHOICE (log 90), it follows the tests of rights, owner and range. -/
def State.checkLeaf (s : State) (job : Word) (e : BitVec 128) (va : Nat) (r w x : Bool) (tile : Bool := true) : Checked :=
  let aper := s.actAper e
  if aper = 0 ∧ ¬ (s.key (leafKey e)).valid then .fault 0x04 0
  else if (r && !e.getLsbD 3) || (w && !e.getLsbD 4) || (x && !e.getLsbD 5) then .fault 0x05 0
  else if aper = 0 ∧ ¬ s.ownerOk (leafKey e) job then .fault 0x05 0
  else if !aperAllows aper (leafPa e va) then .fault 0x04 (BitVec.ofNat 64 (leafPa e va))
  else if aper = 1 ∧ domainOf (leafPeer e) ≠ domainOf s.pkg then .fault 0x12 (BitVec.ofNat 64 (leafPeer e * 4096))
  else if tile ∧ aper = 2 ∧ ¬ s.tileOk (leafPa e va) job then .fault 0x05 0
  else .ok { pa := gpa (s.leafPkg e) (leafPa e va), key := leafKey e, leaf := e }

/-- The TLB entry of a core that serves an address (R380). -/
def Core.tlbFind (c : Core) (root va : Nat) : Option TlbEntry :=
  c.tlb.find? fun e => (e.root == root || e.leaf.getLsbD 11) && e.va == va / 2 ^ e.bits * 2 ^ e.bits

/-- Check (R209) of an access by a core through a translation root: a page that the TLB lacks, or whose A or D bit is still to be set, is walked
first (R379, R380). -/
def State.check (s : State) (core : Nat) (troot : Dword) (job : Word) (ea : Dword) (size : Nat) (r w x : Bool) (tile : Bool := true) : Checked :=
  if ea.toNat / 0x10000000000000 ≠ 0 then .fault 0x04 0
  else if ea.toNat % size ≠ 0 then .fault 0x03 0
  else if troot = 0 then .fault 0x04 0
  else
    match (s.core core).tlbFind troot.toNat ea.toNat with
    | none => .walk
    | some e =>
      match s.checkLeaf job e.leaf ea.toNat r w x tile with
      | .ok a => if !e.leaf.getLsbD 9 || (w && !e.leaf.getLsbD 10) then .walk else .ok a
      | c => c

/-- Check for the thread whose turn it is. -/
def State.checkCur (s : State) (ea : Dword) (size : Nat) (r w : Bool) (tile : Bool := true) : Checked :=
  s.check s.focus.core s.cur.troot (s.cur.job.setWidth 32) ea size r w false tile

/-- A leaf with its A bit, and its D bit for a write, set (R379). -/
def markLeaf (e : BitVec 128) (w : Bool) : BitVec 128 := e ||| 0x200 ||| (if w then 0x400 else 0)

/-- The walk cache that serves a core: its tile's, or its stack logic die's (R380). -/
def walkCacheOf (core : Nat) : Nat := if core < 640 then tileOf core else 160 + (core - 640) / 32

/-- Where a walk by a core begins: the level and address of the deepest table that its walk cache has for an address, or the root's. -/
def State.walkStart (s : State) (core root va : Nat) : Nat × Nat :=
  let c := Assoc.getD s.walkCaches (walkCacheOf core) []
  match [3, 2, 1].findSome? fun l => c.find? fun e => e.root == root && e.level == l && e.lead == va / 2 ^ (52 - 9 * l) with
  | some e => (e.level, e.table)
  | none => (0, root / 0x2000 * 0x2000)

/-- The tables that a walk from a level goes through below it, as walk-cache entries. -/
def State.tablesFrom (s : State) (root va : Nat) : Nat → Nat → Nat → List TablePtr
  | 0, _, _ => []
  | n + 1, lvl, T =>
    let e := BitVec.ofNat 128 (s.entryAt (T + 16 * (va / 2 ^ (43 - 9 * lvl) % 512)))
    if !e.getLsbD 0 || !entryZeros e || leafKind e ≠ 0 || lvl = 3 then []
    else
      let T' := (e.extractLsb' 13 27).toNat * 0x2000
      { root := root, level := lvl + 1, lead := va / 2 ^ (52 - 9 * (lvl + 1)), table := T' } :: State.tablesFrom s root va n (lvl + 1) T'

/-- The state with the tables of a walk in the walk cache of a core; the oldest of 256 entries give way. -/
def State.cacheTables (s : State) (core : Nat) (ts : List TablePtr) : State :=
  let c := Assoc.getD s.walkCaches (walkCacheOf core) []
  { s with walkCaches := Assoc.insert s.walkCaches (walkCacheOf core) ((ts ++ c.filter fun e => !ts.contains e).take Config.walkEntries) }

/-- Whether a thread runs ahead: it holds a shadow bank that no verdict is committing (R318). -/
def Thread.runsAhead (t : Thread) : Bool := match t.bank with | some b => !b.committing | none => false

/-- The state after the thread whose turn it is waits for a walk (R380): it joins a walk of the same page, or starts one.  In run-ahead, no request
leaves the core and the thread waits for the verdict (R319). -/
def State.walkFor (s : State) (ea : Dword) (size : Nat) (r w x : Bool) (red : Option Bool) (w4 : Dword) : State :=
  if s.cur.runsAhead then s.stallFor 12 0 0 .verdict else
  let i := s.focus.core
  let c := s.core i
  let q : WalkReq := { name := s.cur.name, va := ea, size := size, r := r, w := w, x := x, red := red, w4 := w4 }
  let root := s.cur.troot.toNat
  let page := ea.toNat / 0x10000
  let s := s.wait { k := 14, a := ea, act := .again (if x then .fetch else .walk) }
  let c' := s.core i
  if c.walks.any fun k => k.root == root && k.page == page then
    s.setCore i { c' with walks := c'.walks.map fun k =>
      if k.root == root && k.page == page then { k with reqs := k.reqs ++ [q] } else k }
  else
    let s' := s.setCore i { c' with walks := c'.walks ++ [{ id := s.nextId, root := root, page := page, reqs := [q] }] }
    s'.notice (s.cycle + 60 * (4 - (s.walkStart i root ea.toNat).1)) .tlbWalkDone { a := i, b := s.nextId }

/-- The state after the thread whose turn it is waits for a walk for a load, a store or a fetch. -/
def State.startWalk (s : State) (ea : Dword) (size : Nat) (r w x : Bool) : State := s.walkFor ea size r w x none 0

/-- Run a meaning on a checked access of the thread whose turn it is: a fault is raised with the address in word 2 (R209), a missing translation
is walked for.  Without `tile` no tile test is made: what is checked is the place of a device record (R389). -/
def State.withAccess (s : State) (ea : Dword) (size : Nat) (r w : Bool) (f : Access → State) (tile : Bool := true) : State :=
  match s.checkCur ea size r w tile with
  | .ok a => f a
  | .fault code w4 => s.raise code ea w4 0
  | .walk => s.startWalk ea size r w false

end Sys2Proof.Machine
end

