-- ==== Sys2Proof/Machine/Fetch.lean ====
section
/-!
DEFINITION. Issuing: which thread has the turn (R27), fetching its next word (R71, R377), the events that fall due, and placing a word where the
next step fetches.
-/

namespace Sys2Proof.Machine

/-- What fetching the next word gives. -/
inductive Fetched where
  | word (w : Word)
  | fault (code : BitVec 8) (w4 : Dword)
  | walk
  /-- The line misses in the instruction cache. -/
  | miss (line key : Nat)
deriving DecidableEq, Repr

/-- The word at a byte address of a 256-byte line. -/
def lineWord (l : BitVec 2048) (a : Nat) : Word := l.extractLsb' (a % 256 / 4 * 32) 32

/-- The fetch of a thread's next word: the translation with the right X, then the instruction buffer of its position and the instruction cache (R71). -/
def State.fetch (s : State) (core : Nat) (t : Thread) : Fetched :=
  match s.check core t.troot (t.job.setWidth 32) t.pc 4 false false true with
  | .ok a =>
    if region (gpaLocal a.pa) = .device then .fault 0x05 0
    else
      match Assoc.look t.buffer a.pa with
      | some w => .word w
      | none =>
        match Assoc.look (s.core core).icache (a.pa / 256) with
        | some l => .word (lineWord l a.pa)
        | none => .miss (a.pa / 256) a.key
  | .fault code w4 => .fault code w4
  | .walk => .walk

/-- The lowest breakpoint of a core that matches a thread's next word (R430). -/
def State.breakpoint (s : State) (core : Nat) (t : Thread) : Option Nat :=
  if t.skipBreak then none
  else
    ((s.core core).breakpoints.find? fun p =>
      p.2.en && p.2.pc == t.pc && (p.2.allJobs || p.2.job == t.job.setWidth 32)).map (·.1)

/-- The bound context that has its turn on a core in this cycle (R27). -/
def Core.turn (c : Core) (pos : Nat) : Option Nat :=
  (c.ctxs.find? fun p => p.2.st == .bound && p.2.pos == some pos).map (·.1)

/-- The next core at or after the cursor with a turn to take, and its context. -/
def State.nextTurn (s : State) : Option (Nat × Nat) :=
  s.cores.findSome? fun p =>
    if p.1 < s.cursor then none else (p.2.turn (s.cycle % 16)).map fun x => (p.1, x)

/-- The latency of a fill or load to a home (R69), from a core to a global physical address, without a slice miss. -/
def State.latency (s : State) (core pa : Nat) : Nat :=
  if gpaPkg pa ≠ s.pkg then 468
  else
    let a := gpaLocal pa
    match region a with
    | .damask =>
      if 640 ≤ core then 130 else if homeSlice a / 64 = core / 160 then 60 else 110
    | .tileScratch t _ =>
      if core < 640 ∧ tileOf core = t then 12 else if core < 640 ∧ t / 40 = core / 160 then 60 else 110
    | .chanScratch n _ => if core = 640 + n then 12 else 110
    | .device => 200
    | .hole => 60

/-- The state after an instruction fetch misses (R71): the thread waits for the line; in run-ahead it waits for the verdict (R319). -/
def State.fetchMiss (s : State) (line key : Nat) : State :=
  if s.cur.runsAhead then s.stallFor 12 0 0 .verdict
  else
    let i := s.focus.core
    let o := s.curOrigin
    let s' := s.stallFor 14 s.cur.pc 0 .fetch
    s'.send (s.latency i (line * 256)) (gpaPkg (line * 256)) o (.icache i line key)

/-- The event that a message brings when it arrives. -/
def Body.event (b : Body) : Instr :=
  match b with
  | .load .. => .load
  | .await .. => .load
  | .store .. => .store
  | .atomic .. => .atomic
  | .reduce .. => .reduce
  | .wave .. => .reduce
  | .recall .. => .recall
  | .data .. => .data
  | .old .. => .data
  | .value _ => .data
  | .ack .. => .ack
  | .heldNote => .ack
  | .nack .. => .nack
  | .fire .. => .watchFire
  | .arm .. => .watchRegistration
  | .icache .. => .icacheFill
  | .spillMove .. => .spillMoveDone
  | .migrate .. => .migrate
  | .call .. => .call
  | .threadOp .. => .threadop
  | .news .. => .threadop
  | .cancelJob _ => .controlCancel
  | .tlbinv .. => .controlTlbinv
  | .page .. => .controlTlbinv
  | .ticket _ => .ticket
  | .ticketWait .. => .ticket
  | .ticketCall .. => .ticketCallNotice
  | .bulk .. => .bulk
  | .sideband .. => .sideband
  | .vote _ => .vote
  | .summary _ => .summary
  | .verdict _ => .verdict
  | .abortReq _ => .abortRequest
  | .collJoin .. => .collJoinRequest
  | .collLeave .. => .collLeaveRequest
  | .mgmt f => if f.kind = 1 then .mgmtReset else if f.kind = 2 then .mgmtReadFailrec else if f.kind = 3 then .mgmtFlashWrite else .ingressDrop
  | .heartbeat .. => .heartbeat
  | .unknown .. => .ingressDrop
  | .notice i _ => i

/-- The event of a store that arrives at a device register, by its address (R382, R398, R421, R429). -/
def deviceEvent (a : Nat) : Instr :=
  if 0xF000100000 ≤ a ∧ a < 0xF000120000 then .jobEntryWrite
  else if 0xF000200000 ≤ a ∧ a < 0xF000280000 then .keySlotWrite
  else if 0xF000300000 ≤ a ∧ a < 0xF000300500 then .tileAssignWrite
  else if 0xF000700000 ≤ a ∧ a < 0xF000700008 then .pkgWrite
  else if 0xF000600000 ≤ a ∧ a < 0xF000600008 then .startokWrite
  else if 0xF000600088 ≤ a ∧ a < 0xF000600090 then .resetgoWrite
  else if 0xF000600090 ≤ a ∧ a < 0xF000600098 then .quoteWrite
  else if 0xF000600098 ≤ a ∧ a < 0xF0006000A0 then .mrextWrite
  else if 0xF0006000A0 ≤ a ∧ a < 0xF0006000A8 then .sampleWrite
  else if (0xF001000000 ≤ a ∧ a < 0xF001280000) ∨ (0xF002000000 ≤ a ∧ a < 0xF002100000) then
    (if a % 0x1000 < 0x08 then .quantumWrite else if a % 0x1000 < 0x10 then .admcapWrite
     else if a % 0x1000 < 0x50 then .bkptWrite else .registerWrite)
  else .registerWrite

/-- The event of a message, with what it acts on. -/
def Msg.event (m : Msg) : Instr × Subject :=
  match m.body with
  | .notice i on => (i, on)
  | .unknown _ port => (.ingressDrop, { a := port, b := m.id + 1 })
  | .mgmt f => (Body.event (.mgmt f), if 1 ≤ f.kind ∧ f.kind ≤ 3 then { a := m.id } else { b := m.id + 1 })
  | .store ((a, _) :: _) _ _ _ _ =>
    if region (gpaLocal a) = .device then (deviceEvent (gpaLocal a), { a := m.id }) else (.store, { a := m.id })
  | b => (b.event, { a := m.id })

/-- The events that the outside world brings: power, links and lanes, frames that do not arrive, errors and losses, and temperature. -/
def isExternal (i : Instr) : Bool :=
  match i with
  | .powerGood | .linkUp | .laneChange | .linkRetire | .linkLevelRetry | .ingressDrop | .transportTimeout | .coreLost | .uncorrectableError
  | .overtempAlert | .overtempShutdown => true
  | _ => false

/-- Whether a message only brings a due event. -/
def Msg.isNotice (m : Msg) : Bool := match m.body with | .notice _ _ => true | _ => false

/-- Whether a message is a frame at a port of this package: a management frame, a packet that no kind has, or one that its gateway has not delivered yet. -/
def State.atPort (s : State) (m : Msg) : Bool :=
  m.dst == s.pkg && !m.delivered && (m.head.isSome || (match m.body with | .mgmt _ | .unknown .. => true | _ => false))

/-- Whether the outside world may bring an event (R1): of messages, it loses none but a frame at a port; of scrubs, it brings what they correct, and not when they run
(R427). -/
def State.outside (s : State) (i : Instr) (on : Subject) : Bool :=
  match i with
  | .scrub => on.b == 0
  | .ingressDrop => on.b == 0 || s.flight.any fun m => m.id + 1 == on.b && s.atPort m
  | i => isExternal i

/-- Whether an event may happen now (R1): the outside world brings it, or it is the arrival of a message that is in flight, which its gateway has delivered in
its order where it came from another package (R404). -/
def State.enabled (s : State) (i : Instr) (on : Subject) : Bool :=
  s.outside i on || s.flight.any fun m => m.dst == s.pkg && !m.isNotice && (m.head.isNone || m.delivered) && m.event == (i, on)

/-- The state after a packet from another package is delivered to its endpoint, if it is the next of its source, destination and channel, or a copy of an
earlier one; its gateway holds an early one (R404). -/
def State.deliverPacket (s : State) (id : Nat) : State :=
  match s.msg? id with
  | none => s
  | some m =>
    match m.head with
    | none => s
    | some h =>
      let key := (h.src, h.dst, h.chan)
      let n := match s.receiving.find? fun x => x.1 == key with | some x => x.2 | none => 0
      let s' := s.modMsg id fun m => { m with delivered := true }
      if m.delivered then s
      else if h.seq = n then { s' with receiving := (key, (n + 1) % 0x100000000) :: s.receiving.filter fun x => x.1 != key }
      else if (n + 0x100000000 - h.seq) % 0x100000000 < 0x80000000 then s'
      else s

/-- Whether two messages are one request of another package (R409). -/
def Msg.sameRequest (m x : Msg) : Bool :=
  m.req.isNone && x.req.isNone && m.dst == x.dst && m.origin.pkg == x.origin.pkg && m.origin.core == x.origin.core &&
  m.body.gateway == x.body.gateway && (match m.dedup, x.dedup with | some a, some b => a.1 == b.1 | _, _ => false)

/-- The state after a further copy of a request that is here already is absorbed: it brings a registered store the word that its data are posted (R140,
R411). -/
def State.absorb (s : State) (m : Msg) : State :=
  if m.origin.pkg = s.pkg ∨ m.dst ≠ s.pkg then s
  else
    match s.flight.find? fun x => x.sameRequest m with
    | some x =>
      if x.id = m.id then s
      else
        let posted := match m.body with | .store _ _ _ p _ => p | _ => false
        (s.modMsg x.id fun x => match x.body with | .store bs k q p re => { x with body := .store bs k q (p || posted) re } | _ => x).drop m.id
    | none => s

/-- The state after the packets that have reached this package are taken in: in their order, and each request once. -/
def State.arrivals (s : State) : State :=
  let here := s.flight.filter fun m => m.head.isSome && !m.delivered && m.dst == s.pkg && decide (m.due ≤ s.cycle)
  let s := here.foldl (fun s _ => here.foldl (fun s m => s.deliverPacket m.id) s) s
  s.flight.foldl (fun s m => if m.dedup.isSome then s.absorb m else s) s

/-- The place in the order of calls of the called ticket that a request carries to its endpoint (R98, R244). -/
def State.called (s : State) (m : Msg) : Option Nat :=
  match m.origin.ticket, m.head with
  | some (ep, n), some h => if ep = h.dst then (s.gate ep).active.findIdx? fun a => a.1 == n else none
  | _, _ => none

/-- The requests that wait at a gateway for one endpoint, in the order in which they are delivered (R408): those with called tickets in ticket order,
with one in eight for the others where both wait; each source's packets of a channel keep their order (R404). -/
def State.shares (s : State) : Nat → Nat → List Msg → List Msg
  | 0, _, l => l
  | k + 1, served, l =>
    let ready := l.filter fun m =>
      ((l.takeWhile fun x => x.id != m.id).all fun x => !(x.head.map (fun h => (h.src, h.chan)) == m.head.map fun h => (h.src, h.chan)))
    let tickets := ready.filter fun m => (s.called m).isSome
    let best := tickets.foldl (fun b m =>
      match b with | some x => if (s.called m).getD 0 < (s.called x).getD 0 then some m else b | none => some m) (none : Option Msg)
    let other := ready.find? fun m => (s.called m).isNone
    match (if served % 8 = 7 then other.or best else best.or other) with
    | some m => m :: State.shares s k (served + 1) (l.filter fun x => x.id != m.id)
    | none => l

/-- The events of the messages that have fallen due: the package's own and replies, then the requests of other packages, endpoint by endpoint. -/
def State.dueEvents (s : State) : List (Instr × Subject) :=
  let due := s.flight.filter fun m => decide (m.due ≤ s.cycle) && m.dst == s.pkg && (m.head.isNone || m.delivered)
  let (far, own) := due.partition fun m => m.head.isSome && m.req.isNone
  let eps := (far.filterMap fun m => m.head.map (·.dst)).eraseDups
  (own ++ eps.flatMap fun ep => s.shares far.length 0 (far.filter fun m => m.head.map (·.dst) == some ep)).map Msg.event

/-- The state without the notices that fall due in this cycle. -/
def State.dropNotices (s : State) : State :=
  { s with flight := s.flight.filter fun m => !(m.isNotice && decide (m.due ≤ s.cycle)) }

/-- The boundary events of one core (R32 to R34, R59, R321): quantum expiry and YIELD of its bound threads, promotions, verdicts to apply, held
stores to post, an eviction, and the binder. -/
def Core.boundaryEvents (i : Nat) (c : Core) (cycle : Nat) : List (Instr × Subject) :=
  (c.ctxs.filterMap fun p =>
    if p.2.st = .bound ∧ (c.quantum ≤ p.2.turns ∨ p.2.yielding) then
      p.2.pos.map fun q => (Instr.quantumExpiry, { a := i, b := q })
    else none) ++
  (c.ctxs.filterMap fun p =>
    if p.2.st = .ready ∧ 0 < p.2.effPrio ∧ p.2.agedAt + Config.agingRotations * 16 ≤ cycle then
      some (Instr.agingPromotion, { a := i, b := p.1 })
    else none) ++
  (c.verdicts.map fun v => (Instr.verdictApply, { a := i, b := v.1, name := v.2.far.getD 0 })) ++
  (c.ctxs.filterMap fun p =>
    match p.2.bank with
    | some b => if b.committing then some (Instr.heldStoreCommit, { name := p.2.name }) else none
    | none => none) ++
  [(.spillEviction, { a := i }), (.reservationGrant, { a := i }), (.rotationBoundary, { a := i })]

/-- The boundary events of the package, in ascending core order; none outside a boundary (R27). -/
def State.boundaryEvents (s : State) : List (Instr × Subject) :=
  if s.cycle % 16 = 0 then s.cores.flatMap fun p => p.2.boundaryEvents p.1 s.cycle else []

/-- The turn of a bound thread, up to its issue: the core and context have the focus, the turn is counted (R34). -/
def State.takeTurn (s : State) (core ctx : Nat) : State :=
  let s := { s with focus := { core := core, ctx := ctx }, cursor := core + 1 }
  s.modCur fun t => { t with turns := t.turns + 1 }

/-- The instruction buffer of a thread's position as its next word issues (R71): the four words after the PC, up to the end of its line, while the
instruction cache holds the line; what the buffer still holds of them otherwise. -/
def State.buffered (s : State) (core : Nat) (t : Thread) : List (Nat × Word) :=
  match s.check core t.troot (t.job.setWidth 32) t.pc 4 false false true with
  | .ok a =>
    match Assoc.look (s.core core).icache (a.pa / 256) with
    | some l => (((List.range 4).map fun i => a.pa + 4 * (i + 1)).filter fun x => x / 256 == a.pa / 256).map fun x => (x, lineWord l x)
    | none => t.buffer.filter fun x => decide (a.pa < x.1) && x.1 / 256 == a.pa / 256
  | _ => []

/-- The state as a word issues: it is the thread's word, the words after it are in the buffer (R71), and breakpoints match again (R430). -/
def State.issues (s : State) (w : Word) : State :=
  s.modCur fun t => { t with skipBreak := false, word := some w, buffer := s.buffered s.focus.core t }

/-- Whether a verdict is still posting the held stores of a thread (R321). -/
def Thread.commits (t : Thread) : Bool := match t.bank with | some b => b.committing | none => false

/-- The instruction cache of a core with a line filled: of more lines than it holds, the one filled first gives way (R71). -/
def Core.holdLine (c : Core) (line : Nat) (l : BitVec 2048) : List (Nat × BitVec 2048) :=
  ((line, l) :: c.icache.filter fun x => x.1 != line).take Config.icacheLines

/-- A word placed where the next step fetches: context 0 of core 0 is bound at the position of this cycle, with a translation of its PC by the boot
map's rights (R414) in the TLB, the word's line in the instruction cache, and nothing else to do first. -/
def State.placeWord (s : State) (w : Word) : State :=
  let t := s.thread 0 0
  let pc := t.pc.toNat % 0x10000000000000 / 4 * 4
  let root := if t.troot = 0 then 0x2000 else t.troot
  let frame := pc / 0x10000 % 0xC00000
  let leaf : BitVec 128 := BitVec.ofNat 128 (frame * 0x10000 + 0x63B)
  let pa := gpa s.pkg (frame * 0x10000 + pc % 0x10000)
  let t' : Thread :=
    { t with st := .bound, pos := some (s.cycle % 16), pc := BitVec.ofNat 64 pc, troot := root, stall := 0, retiring := false
             buffer := [], wait := {}, nanStop := none, bank := none, stubFor := none, reserved := false, skipBreak := true }
  let old := (Assoc.look (s.core 0).icache (pa / 256)).getD 0
  let lo := pa % 256 / 4 * 32
  let line : BitVec 2048 := BitVec.ofNat 2048 (old.toNat - (old.toNat / 2 ^ lo % 2 ^ 32) * 2 ^ lo + w.toNat * 2 ^ lo)
  let c : Core :=
    { s.core 0 with
      ctxs := Assoc.insert (s.core 0).ctxs 0 t'
      tlb := { root := root.toNat, va := pc / 0x10000 * 0x10000, bits := 16, leaf := leaf } :: (s.core 0).tlb
      icache := (s.core 0).holdLine (pa / 256) line }
  { s.setCore 0 c with
    inputs := [], agenda := [], resumes := [], phase := .issue, cursor := 0
    keys := Assoc.insert s.keys 0 { s.key 0 with valid := true, anyJob := true }
    health := { s.health with power := if s.health.power = .shutdown then .running else s.health.power } }

end Sys2Proof.Machine
end

