-- ==== Sys2Proof/Machine/Operands.lean ====
section
/-!
DEFINITION. Issuing an instruction: the order of its faults (R168), which prefixes it accepts (R169 to R171), what a roaming thread may name (R60),
what waits in run-ahead (R319); and the operand forms: immediates (R170), addresses (R214, R217) and branch targets (R188).
-/

namespace Sys2Proof.Machine

/-- What an instruction accepts and where it may run. -/
structure Attrs where
  /-- Accepts PFX.IMM (R170). -/
  imm : Bool := false
  /-- Accepts PFX.MOD with NOL1 (R170). -/
  nol1 : Bool := false
  /-- Accepts PFX.MOD with RMO (R170). -/
  rmo : Bool := false
  /-- Faults with ROAMING in a roaming thread whatever its registers (R60). -/
  roam : Bool := false
  /-- Runs in run-ahead (R319). -/
  ahead : Bool := true
  /-- The word, where the instruction faults with ILLEGAL on a channel core (R253, R259). -/
  compute : Option Word := none
deriving DecidableEq, Repr

/-- Whether the pending PFX.IMM is refused. -/
def Attrs.refusesImm (a : Attrs) (t : Thread) : Bool := t.pimm && !a.imm

/-- Whether the pending PFX.MOD is refused: an empty payload, a bit of [23:4], a bit that is not accepted, or a mode without RMO (R170, R171). -/
def Attrs.refusesMod (a : Attrs) (t : Thread) : Bool :=
  let p := t.modPayload
  t.pmod && (p == 0 || t.modBad || (p.getLsbD 0 && !a.nol1) || (p.getLsbD 1 && !a.rmo) ||
    (!p.getLsbD 1 && p.extractLsb' 2 2 != 0))

/-- Whether the pending PFX.HINT is refused (R172). -/
def Thread.refusesHint (t : Thread) : Bool := t.phint && t.hintBad

/-- The address that word 4 of a PREFIX record names: that of the first refused prefix of the chain, or 0 where it was not recorded (R169). -/
def Attrs.refusedAt (a : Attrs) (t : Thread) : Dword :=
  let ps := (if a.refusesImm t then [t.pfxAt[0]] else []) ++ (if a.refusesMod t then [t.pfxAt[1]] else []) ++
    (if t.refusesHint then [t.pfxAt[2]] else [])
  if ps.any Option.isNone then 0
  else ((ps.filterMap id).foldl (fun (m : Option Dword) x => some (match m with | some y => if x < y then x else y | none => x)) none).getD 0

/-- The state after a PREFIX fault at a PC: no payload is applied and PFXST is zero in the fault state (R169), that of
R173 at the end of a loop body too: DEDUCED (log 84). -/
def State.prefixFault (s : State) (w4 : Dword) : State :=
  (s.modCur fun t => { t with pfxst := 0, pfxAt := Vector.replicate 3 none, modBad := false, hintBad := false }).raise 0x02 0 w4 0

/-- Issue an instruction of the thread whose turn it is: the faults of R168 in their order, the wait of run-ahead, and then its own effect.  `regs`
are the general registers that it names. -/
def State.issueWith (s : State) (a : Attrs) (regs : List GReg) (body : State → State) : State :=
  let t := s.cur
  if a.refusesImm t || a.refusesMod t || t.refusesHint then s.prefixFault (a.refusedAt t)
  else if t.roaming && (a.roam || regs.any fun r => decide (9 ≤ r.val)) then s.raise 0x17 0 0 0
  else if t.runsAhead && !a.ahead then s.stallFor 12 0 0 .verdict
  else if a.compute.isSome ∧ 640 ≤ s.focus.core then s.raise 0x01 0 ((a.compute.getD 0).setWidth 64) 0
  else body s

/-- Issue an instruction, as the outcome of a step. -/
def issue (a : Attrs) (regs : List GReg) (s : State) (body : State → State) : Host.Outcome State Fault Refusal :=
  .next (s.issueWith a regs body)

/-- Write a general register and complete. -/
def State.result (s : State) (d : GReg) (x : Dword) : State := s.modCur fun t => (t.wg d x).retire

/-! ## Immediates (R170) -/

/-- A 16-bit immediate, or the 40-bit one that a PFX.IMM makes of it. -/
def Thread.imm16 (t : Thread) (i : BitVec 16) : Dword :=
  if t.pimm then (t.immPayload ++ i).signExtend 64 else i.signExtend 64

/-- A 21-bit immediate, or the 45-bit one that a PFX.IMM makes of it. -/
def Thread.imm21 (t : Thread) (i : BitVec 21) : Dword :=
  if t.pimm then (t.immPayload ++ i).signExtend 64 else i.signExtend 64

/-- A 13-bit byte offset, or the 37-bit one that a PFX.IMM makes of it. -/
def Thread.imm13 (t : Thread) (o : BitVec 13) : Dword :=
  if t.pimm then (t.immPayload ++ o).signExtend 64 else o.signExtend 64

/-! ## Effective addresses (R214, R217) -/

/-- The address of LD and ST. -/
def State.eaOffset (s : State) (a : GReg) (o : BitVec 13) : Dword := s.rg a + s.cur.imm13 o

/-- The address of the scaled-index forms. -/
def State.eaIndex (s : State) (a b : GReg) (sh : BitVec 3) : Dword := s.rg a + (s.rg b <<< sh.toNat)

/-! ## Branch targets (R188) -/

/-- A target that an offset in words gives. -/
def State.offsetTarget (s : State) (off : Dword) : Dword := s.cur.pc + 4 * off

/-- Run a transfer on a checked target: a misaligned register target faults with ALIGN, high bits fault with XLATE (R188). -/
def State.withTarget (s : State) (x : Dword) (f : State → State) : State :=
  if x.toNat % 4 ≠ 0 then s.raise 0x03 x 0 0
  else if x.toNat / 0x10000000000000 ≠ 0 then s.raise 0x04 x 0 0
  else f s

end Sys2Proof.Machine
end

