-- ==== Sys2Proof/Machine/Flags.lean ====
section
/-!
DEFINITION. The FLAGS register (R106): its fields, the rounding mode an operation reads at issue (R107, R171), and the sticky bits (R108).  No
integer operation sets a flag (R99).
-/

namespace Sys2Proof.Machine

/-- The rounding modes in the order of their codes (R106). -/
inductive Rm where
  | rne | rtz | rup | rdn
deriving DecidableEq, Repr

/-- The mode of a code of RM. -/
def Rm.ofCode (c : BitVec 2) : Rm := match c.toNat with | 0 => .rne | 1 => .rtz | 2 => .rup | _ => .rdn

/-- The sticky flags (R106). -/
structure Sticky where
  nv : Bool := false
  dz : Bool := false
  of : Bool := false
  uf : Bool := false
  nx : Bool := false
  sat : Bool := false
deriving DecidableEq, Repr

/-- The flags of either of two events. -/
def Sticky.or (a b : Sticky) : Sticky :=
  { nv := a.nv || b.nv, dz := a.dz || b.dz, of := a.of || b.of, uf := a.uf || b.uf, nx := a.nx || b.nx, sat := a.sat || b.sat }

/-- The flags in their places of FLAGS[5:0] (R106). -/
def Sticky.bits (f : Sticky) : BitVec 6 :=
  BitVec.ofBool f.sat ++ BitVec.ofBool f.nx ++ BitVec.ofBool f.uf ++ BitVec.ofBool f.of ++ BitVec.ofBool f.dz ++ BitVec.ofBool f.nv

/-- FLAGS with sticky bits ORed in (R108). -/
def orFlags (flags : Dword) (f : Sticky) : Dword := flags ||| f.bits.setWidth 64

/-- The thread with sticky bits ORed into its FLAGS. -/
def Thread.orFlags (t : Thread) (f : Sticky) : Thread := { t with flags := Machine.orFlags t.flags f }

/-- The thread's rounding mode: FLAGS.RM (R106). -/
def Thread.rm (t : Thread) : Rm := Rm.ofCode (t.flags.extractLsb' 8 2)

/-- The mode that the instruction at issue rounds in: that of a PFX.MOD with RMO, or FLAGS.RM (R107, R171). -/
def Thread.issueRm (t : Thread) : Rm :=
  if t.pmod && t.modPayload.getLsbD 1 then Rm.ofCode (t.modPayload.extractLsb' 2 2) else t.rm

/-- Whether a value of FLAGS has its zero fields zero (R106). -/
def flagsOk (x : Dword) : Bool := x.extractLsb' 10 54 == 0 && x.extractLsb' 6 2 == 0

end Sys2Proof.Machine
end

