-- ==== Sys2Proof/Machine/Float.lean ====
section
/-!
DEFINITION. Binary floating point to the bit (R101 to R105, R108, R123, R124): values are decoded to exact integers times powers of two, computed
exactly, and rounded once.
-/

namespace Sys2Proof.Machine

/-- A binary format: widths of the exponent and of the fraction (R101). -/
structure FFmt where
  eb : Nat
  mb : Nat
deriving DecidableEq, Repr

/-- FP64. -/
def fp64 : FFmt := { eb := 11, mb := 52 }
/-- FP32. -/
def fp32 : FFmt := { eb := 8, mb := 23 }
/-- FP16. -/
def fp16 : FFmt := { eb := 5, mb := 10 }
/-- BF16. -/
def bf16 : FFmt := { eb := 8, mb := 7 }

/-- The exponent bias. -/
def FFmt.bias (f : FFmt) : Nat := 2 ^ (f.eb - 1) - 1
/-- The width in bits. -/
def FFmt.width (f : FFmt) : Nat := 1 + f.eb + f.mb
/-- The width in bytes. -/
def FFmt.bytes (f : FFmt) : Nat := f.width / 8
/-- The exponent of the least normal magnitude. -/
def FFmt.emin (f : FFmt) : Int := 1 - (f.bias : Int)
/-- The sign bit in its place. -/
def FFmt.signBit (f : FFmt) (neg : Bool) : Nat := if neg then 2 ^ (f.eb + f.mb) else 0
/-- The pattern of infinity. -/
def FFmt.inf (f : FFmt) (neg : Bool) : Nat := f.signBit neg + (2 ^ f.eb - 1) * 2 ^ f.mb
/-- The pattern of the largest finite value. -/
def FFmt.largest (f : FFmt) (neg : Bool) : Nat := f.inf neg - 1
/-- The canonical NaN (R101, R102). -/
def FFmt.nan (f : FFmt) : Nat := f.inf false + 2 ^ (f.mb - 1)

/-- A value: a NaN, an infinity, or (−1)^neg × m × 2^e. -/
inductive FVal where
  | nan (signalling : Bool)
  | inf (neg : Bool)
  | fin (neg : Bool) (m : Nat) (e : Int)
deriving DecidableEq, Repr

/-- The value of a pattern. -/
def FFmt.decode (f : FFmt) (x : Nat) : FVal :=
  let neg := x / 2 ^ (f.eb + f.mb) % 2 == 1
  let ex := x / 2 ^ f.mb % 2 ^ f.eb
  let fr := x % 2 ^ f.mb
  if ex = 2 ^ f.eb - 1 then
    (if fr = 0 then .inf neg else .nan (fr / 2 ^ (f.mb - 1) == 0))
  else if ex = 0 then .fin neg fr (f.emin - f.mb)
  else .fin neg (2 ^ f.mb + fr) ((ex : Int) - f.bias - f.mb)

/-- A signalling NaN. -/
def FVal.isSig : FVal → Bool
  | .nan s => s
  | _ => false

/-- Any NaN. -/
def FVal.isNan : FVal → Bool
  | .nan _ => true
  | _ => false

/-- m × 2^e plus, where `rest` holds, less than one unit more, rounded to a multiple of 2^q in a mode: the multiple and whether it is inexact. -/
def roundAt (rm : Rm) (neg : Bool) (m : Nat) (e q : Int) (rest : Bool) : Nat × Bool :=
  if q ≤ e then (m * 2 ^ (e - q).toNat, rest)
  else
    let k := (q - e).toNat
    let n := m / 2 ^ k
    let r := m % 2 ^ k
    let half := 2 ^ (k - 1)
    let inexact := r != 0 || rest
    let up :=
      match rm with
      | .rne => decide (half < r) || (r == half && (rest || n % 2 == 1))
      | .rtz => false
      | .rup => inexact && !neg
      | .rdn => inexact && neg
    (if up then n + 1 else n, inexact)

/-- The result of an overflow in a mode (R108). -/
def FFmt.overflow (f : FFmt) (rm : Rm) (neg : Bool) : Nat :=
  match rm with
  | .rne => f.inf neg
  | .rtz => f.largest neg
  | .rup => if neg then f.largest neg else f.inf neg
  | .rdn => if neg then f.inf neg else f.largest neg

/-- The pattern of n × 2^q, where n has at most mb + 2 bits and q is a quantum of the format. -/
def FFmt.pack (f : FFmt) (neg : Bool) (n : Nat) (q : Int) : Nat :=
  if n < 2 ^ f.mb then f.signBit neg + n
  else
    let n' := if n < 2 ^ (f.mb + 1) then n else n / 2
    let q' := if n < 2 ^ (f.mb + 1) then q else q + 1
    f.signBit neg + (q' + f.mb + f.bias).toNat * 2 ^ f.mb + (n' - 2 ^ f.mb)

/-- Round an exact value into a format (R103, R107, R108): tininess is detected after rounding. -/
def FFmt.round (f : FFmt) (rm : Rm) (neg : Bool) (m : Nat) (e : Int) (rest : Bool) : Nat × Sticky :=
  if m = 0 then (f.signBit neg, {})
  else
    let E : Int := e + Nat.log2 m
    let q := max (E - f.mb) (f.emin - f.mb)
    let (n, inexact) := roundAt rm neg m e q rest
    if f.bias < q + Nat.log2 n ∧ n ≠ 0 then (f.overflow rm neg, { of := true, nx := true })
    else
      let nu := (roundAt rm neg m e (E - f.mb) rest).1
      let tiny := decide (E < f.emin) && !(E == f.emin - 1 && nu == 2 ^ (f.mb + 1))
      (f.pack neg n q, { uf := tiny && inexact, nx := inexact })

/-- The sign of an exact zero sum (R122, IEEE 754): that of the terms where they agree, otherwise negative only in RDN. -/
def zeroSign (rm : Rm) (a b : Bool) : Bool := if a = b then a else rm = .rdn

/-- A signed integer times a power of two, as an exact value. -/
def FVal.int : FVal → Int
  | .fin true m _ => -(m : Int)
  | .fin false m _ => m
  | _ => 0

/-- The exponent of a finite value. -/
def FVal.exp : FVal → Int
  | .fin _ _ e => e
  | _ => 0

/-- The sign of a value; a NaN has none. -/
def FVal.neg : FVal → Bool
  | .fin n _ _ => n
  | .inf n => n
  | .nan _ => false

/-- The sum of two exact values, as an integer and its exponent. -/
def exactSum (a b : Int × Int) : Int × Int :=
  let e := min a.2 b.2
  (a.1 * 2 ^ (a.2 - e).toNat + b.1 * 2 ^ (b.2 - e).toNat, e)

/-- Round a signed exact value; `z` is the sign of an exact zero. -/
def FFmt.roundInt (f : FFmt) (rm : Rm) (v : Int × Int) (z : Bool) : Nat × Sticky :=
  if v.1 = 0 then (f.signBit z, {}) else f.round rm (decide (v.1 < 0)) v.1.natAbs v.2 false

/-- The invalid-operation result: the canonical NaN with NV. -/
def FFmt.invalid (f : FFmt) : Nat × Sticky := (f.nan, { nv := true })

/-- Addition of values. -/
def FFmt.addV (f : FFmt) (rm : Rm) (a b : FVal) : Nat × Sticky :=
  match a, b with
  | .nan s, y => (f.nan, { nv := s || y.isSig })
  | _, .nan s => (f.nan, { nv := s })
  | .inf x, .inf y => if x = y then (f.inf x, {}) else f.invalid
  | .inf x, _ => (f.inf x, {})
  | _, .inf y => (f.inf y, {})
  | x, y => f.roundInt rm (exactSum (x.int, x.exp) (y.int, y.exp)) (zeroSign rm x.neg y.neg)

/-- The value with its sign inverted. -/
def FVal.negate : FVal → FVal
  | .fin n m e => .fin (!n) m e
  | .inf n => .inf (!n)
  | .nan s => .nan s

/-- The exact product of two values; none is invalid (0 × ∞). -/
def exactMul (a b : FVal) : Option FVal :=
  match a, b with
  | .nan s, y => some (.nan (s || y.isSig))
  | _, .nan s => some (.nan s)
  | .inf x, .inf y => some (.inf (x != y))
  | .inf x, .fin y m _ => if m = 0 then none else some (.inf (x != y))
  | .fin x m _, .inf y => if m = 0 then none else some (.inf (x != y))
  | .fin x m e, .fin y n g => some (.fin (x != y) (m * n) (e + g))

/-- a + b. -/
def FFmt.add (f : FFmt) (rm : Rm) (a b : Nat) : Nat × Sticky := f.addV rm (f.decode a) (f.decode b)
/-- a − b. -/
def FFmt.sub (f : FFmt) (rm : Rm) (a b : Nat) : Nat × Sticky := f.addV rm (f.decode a) (f.decode b).negate

/-- a × b. -/
def FFmt.mul (f : FFmt) (rm : Rm) (a b : Nat) : Nat × Sticky :=
  match exactMul (f.decode a) (f.decode b) with
  | none => f.invalid
  | some (.nan s) => (f.nan, { nv := s })
  | some (.inf n) => (f.inf n, {})
  | some (.fin n m e) => f.round rm n m e false

/-- a × b + c of values, rounded once; 0 × ∞ is invalid even beside a quiet NaN (R108). -/
def FFmt.fmaV (f : FFmt) (rm : Rm) (a b c : FVal) : Nat × Sticky :=
  match exactMul a b with
  | none => f.invalid
  | some p => f.addV rm p c

/-- a × b + c. -/
def FFmt.fma (f : FFmt) (rm : Rm) (a b c : Nat) : Nat × Sticky := f.fmaV rm (f.decode a) (f.decode b) (f.decode c)
/-- c − a × b. -/
def FFmt.fnma (f : FFmt) (rm : Rm) (a b c : Nat) : Nat × Sticky :=
  f.fmaV rm (f.decode a).negate (f.decode b) (f.decode c)

/-- a / b. -/
def FFmt.div (f : FFmt) (rm : Rm) (a b : Nat) : Nat × Sticky :=
  match f.decode a, f.decode b with
  | .nan s, y => (f.nan, { nv := s || y.isSig })
  | _, .nan s => (f.nan, { nv := s })
  | .inf _, .inf _ => f.invalid
  | .inf x, .fin y _ _ => (f.inf (x != y), {})
  | .fin x _ _, .inf y => (f.signBit (x != y), {})
  | .fin x m e, .fin y n g =>
    if n = 0 then (if m = 0 then f.invalid else (f.inf (x != y), { dz := true }))
    else if m = 0 then (f.signBit (x != y), {})
    else
      let k := f.mb + 4 + Nat.log2 n
      f.round rm (x != y) (m * 2 ^ k / n) (e - g - k) (m * 2 ^ k % n != 0)

/-- The integer square root of x below 2^(2 × k): bits are tried from the highest. -/
def rootBits (x : Nat) : Nat → Nat → Nat
  | 0, r => r
  | k + 1, r => if (r + 2 ^ k) * (r + 2 ^ k) ≤ x then rootBits x k (r + 2 ^ k) else rootBits x k r

/-- The square root of a. -/
def FFmt.sqrt (f : FFmt) (rm : Rm) (a : Nat) : Nat × Sticky :=
  match f.decode a with
  | .nan s => (f.nan, { nv := s })
  | .inf n => if n then f.invalid else (f.inf false, {})
  | .fin n m e =>
    if m = 0 then (f.signBit n, {})
    else if n then f.invalid
    else
      let k := 2 * (f.mb + 4)
      let j := if (e - k) % 2 = 0 then k else k + 1
      let x := m * 2 ^ j
      let r := rootBits x (Nat.log2 x / 2 + 1) 0
      f.round rm false r ((e - j) / 2) (r * r != x)

/-- Whether a < b, of numbers; −0 is below +0 where `zeros` holds. -/
def FVal.below (zeros : Bool) (a b : FVal) : Bool :=
  match a, b with
  | .nan _, _ | _, .nan _ => false
  | .inf x, .inf y => x && !y
  | .inf x, _ => x
  | _, .inf y => !y
  | x, y =>
    let d := exactSum (x.int, x.exp) (-y.int, y.exp)
    decide (d.1 < 0) || (zeros && d.1 == 0 && x.int == 0 && x.neg && !y.neg)

/-- minimumNumber, or maximumNumber where `big` holds (R104). -/
def FFmt.minmax (f : FFmt) (big : Bool) (a b : Nat) : Nat × Sticky :=
  let x := f.decode a
  let y := f.decode b
  let fl : Sticky := { nv := x.isSig || y.isSig }
  match x, y with
  | .nan _, .nan _ => (f.nan, fl)
  | .nan _, _ => (b, fl)
  | _, .nan _ => (a, fl)
  | _, _ => (if (if big then x.below true y else y.below true x) then b else a, fl)

/-- Conversion of a pattern between formats (R123). -/
def FFmt.convert (f g : FFmt) (rm : Rm) (a : Nat) : Nat × Sticky :=
  match f.decode a with
  | .nan s => (g.nan, { nv := s })
  | .inf n => (g.inf n, {})
  | .fin n m e => g.round rm n m e false

/-- Conversion of a signed integer of n bits to a format (R123). -/
def FFmt.ofInt (f : FFmt) (rm : Rm) (v : Int) : Nat × Sticky := f.roundInt rm (v, 0) false

/-- A signed value as an n-bit pattern. -/
def patOfInt (n : Nat) (v : Int) : Nat := (v % 2 ^ n).toNat

/-- Conversion of a pattern to a signed integer of n bits (R124). -/
def FFmt.toInt (f : FFmt) (rm : Rm) (n : Nat) (a : Nat) : Nat × Sticky :=
  match f.decode a with
  | .nan _ => (0, { nv := true })
  | .inf neg => (if neg then 2 ^ (n - 1) else 2 ^ (n - 1) - 1, { nv := true, sat := true })
  | .fin neg m e =>
    let (k, inexact) := roundAt rm neg m e 0 false
    let v : Int := if neg then -(k : Int) else k
    if v < -2 ^ (n - 1) then (2 ^ (n - 1), { nv := true, sat := true })
    else if 2 ^ (n - 1) ≤ v then (2 ^ (n - 1) - 1, { nv := true, sat := true })
    else (patOfInt n v, { nx := inexact })

/-! ## Sums of many terms (R122) -/

/-- What a sum of products has met so far: the exact finite part, infinities of each sign, a NaN, an invalid operation, and whether every term is a
negative zero. -/
structure Gather where
  sum : Int × Int := (0, 0)
  posInf : Bool := false
  negInf : Bool := false
  nan : Bool := false
  nv : Bool := false
  allNegZero : Bool := true
deriving DecidableEq, Repr

/-- A term added to a sum; none is an invalid product. -/
def Gather.term (g : Gather) (t : Option FVal) : Gather :=
  match t with
  | none => { g with nan := true, nv := true, allNegZero := false }
  | some (.nan s) => { g with nan := true, nv := g.nv || s, allNegZero := false }
  | some (.inf n) => { g with posInf := g.posInf || !n, negInf := g.negInf || n, allNegZero := false }
  | some (.fin n m e) =>
    { g with sum := if m = 0 then g.sum else if g.sum.1 = 0 then ((FVal.fin n m e).int, e) else exactSum g.sum ((FVal.fin n m e).int, e)
             allNegZero := g.allNegZero && n && m == 0 }

/-- The rounded result of a sum (R122).  Where a NaN term and infinities of both signs meet, the NaN comes first and NV is set only by a signalling
term or an invalid product: DESIGN CHOICE (log 83). -/
def FFmt.gathered (f : FFmt) (g : Gather) : Nat × Sticky :=
  if g.nan then (f.nan, { nv := g.nv })
  else if g.posInf && g.negInf then (f.nan, { nv := true })
  else if g.posInf then (f.inf false, {})
  else if g.negInf then (f.inf true, {})
  else f.roundInt .rne g.sum g.allNegZero

/-- v / 2^n rounded to the nearest integer, ties to even, and whether a non-zero bit was discarded; a left shift where n ≤ 0 (R120). -/
def rneShift (v n : Int) : Int × Bool :=
  if n ≤ 0 then (v * 2 ^ (-n).toNat, false)
  else
    let (k, inexact) := roundAt .rne (decide (v < 0)) v.natAbs 0 n false
    (if v < 0 then -(k : Int) else k, inexact)

end Sys2Proof.Machine
end

