-- ==== Sys2Proof/Machine/Writes.lean ====
section
/-!
DEFINITION. Applying writes at their place: watches fire (R89, R92, R151), waits are tested again (R36, R200, R237, R242), registered stores are
merged beneath (R140); the operations of the atomic units (R220), transaction barriers (R93, R94) and mailbox counters (R97); and the device's own
records.
-/

namespace Sys2Proof.Machine

/-! ## Waking and completing -/

/-- The state with a name at the tail of a core's spill queue (R57). -/
def State.enqueue (s : State) (core : Nat) (n : Name) : State :=
  s.setCore core { s.core core with spillQueue := (s.core core).spillQueue ++ [n] }

/-- Whether an instruction that waited so goes on with the next step (R31). -/
def WaitAct.goesOn (w : WaitAct) : Bool :=
  match w with
  | .again .fetch | .again .verdict => false
  | .again _ | .data _ _ .none _ => true
  | _ => false

/-- A waiter put among those that go on, which stand in the order in which they left the rotation, cores of one cycle in ascending order. -/
def insertResume (x : Nat × Nat × Nat) : List (Nat × Nat × Nat) → List (Nat × Nat × Nat)
  | [] => [x]
  | y :: ys => if x.1 < y.1 ∨ (x.1 = y.1 ∧ x.2.1 < y.2.1) then x :: y :: ys else y :: insertResume x ys

/-- The state with the instruction of a context going on with the next step. -/
def State.resumeAt (s : State) (core ctx : Nat) : State :=
  let t := s.thread core ctx
  { s.setThread core ctx { t with wait := { t.wait with act := .resume } } with resumes := insertResume (t.wait.since, core, ctx) s.resumes }

/-- The state after a wake of the thread at a place (R36, R65): a spilled sleeper goes to the tail of its core's queue (R59). -/
def State.wakeThread (s : State) (p : Place) : State :=
  let t := s.at p
  let s' := s.setAt p (t.wake s.cycle)
  let s' := if t.stopping then s'.notice (s.cycle + 1) .stopComplete { name := t.name } else s'
  if t.st = .spilled ∧ t.spSleep then s'.enqueue (s.coreAt p) t.name else s'

/-- The state after what the thread at a place waits for has come: an instruction that left the rotation before its effect goes on (R31), where its
word is known and its tile is not saved; another wakes. -/
def State.wakeAt (s : State) (p : Place) : State :=
  let t := s.at p
  match p with
  | .ctx c x => if t.wait.act.goesOn && t.word.isSome then (if s.isSaved p then s else s.resumeAt c x) else s.wakeThread p
  | .slot .. => s.wakeThread p

/-- The state in which the instruction of a context goes on: it has the focus, and issues as in its own turn, without a position. -/
def State.resumed (s : State) (core ctx : Nat) : State :=
  { s.setThread core ctx { s.thread core ctx with st := .bound, wait := {} } with focus := { core := core, ctx := ctx } }

/-- The state after an instruction has gone on, over the thread as it waited: one that completed is READY, or stopped as R36 gives it; one that waits
again keeps its place in the order of issue. -/
def State.afterResume (s : State) (core ctx : Nat) (old : Thread) : State :=
  let p := Place.ctx core ctx
  let t := s.at p
  if t.tid ≠ old.tid ∨ t.ending.isSome then s
  else
    match t.st with
    | .bound => (s.setAt p { t.unbound with st := old.st, prior := old.prior, wait := {} }).wakeThread p
    | .waiting | .sleeping =>
      let w := match t.wait.act with | .again _ => { t.wait with since := old.wait.since } | _ => t.wait
      s.setAt p (if old.st = .stopped then { t with st := .stopped, prior := t.st, wait := w } else { t with wait := w })
    | _ => s

/-- The state after the waiting thread at a place completes its instruction with a change to its registers (R31): a YIELDAFTER of an instruction
that left the rotation has no effect (R172). -/
def State.completeAt (s : State) (p : Place) (f : Thread → Thread) : State :=
  (s.setAt p { (f (s.at p)).retire with yielding := false }).wakeThread p

/-- The word that a core's L1 holds (R70). -/
def Core.l1Word (c : Core) (w : Nat) : Option L1Word := (Assoc.look c.l1 (w / 16)).bind fun q => Assoc.look q w

/-- A core whose L1 has used a sector last (R70). -/
def Core.touch (c : Core) (q : Nat) : Core :=
  match Assoc.look c.l1 q with
  | some x => { c with l1 := (q, x) :: c.l1.filter fun y => y.1 != q }
  | none => c

/-- A core with a word in its L1; of more sectors than it holds, the least recently used one is dropped (R70), the whole L1 as one set: R70 gives no number of
sets and no index, DESIGN CHOICE (log 12). -/
def Core.putWord (room : Nat) (c : Core) (w : Nat × L1Word) : Core :=
  let q := w.1 / 16
  { c with l1 := ((q, Assoc.insert ((Assoc.look c.l1 q).getD []) w.1 w.2) :: c.l1.filter fun y => y.1 != q).take room }

/-- A core without some words in its L1. -/
def Core.loseWords (c : Core) (ws : List Nat) : Core :=
  { c with l1 := c.l1.map fun q => (q.1, q.2.filter fun p => !ws.contains p.1) }

/-- A core after the discard of an acquire (R142).  Words that hold unacknowledged stores are in flight, not listed here. -/
def Core.discard (c : Core) : Core := { c with l1 := [], l1Epoch := c.l1Epoch + 1 }

/-- The state after an acquire by a thread of a core (R142). -/
def State.acquire (s : State) (core : Nat) : State := s.setCore core (s.core core).discard

/-! ## Transaction barriers (R93, R94) -/

/-- The fields of a transaction barrier. -/
structure TBar where
  phase : Nat
  fault : Bool
  /-- Bits [7:5], zero unless a store set them. -/
  low : Nat
  arrivals : Int
  expected : Nat
  sectors : Int
  fsect : Nat
  fcode : Nat
deriving DecidableEq, Repr

/-- A field of n bits as a signed number. -/
def signedField (n x : Nat) : Int := if x < 2 ^ (n - 1) then x else (x : Int) - 2 ^ n

/-- The barrier that 16 bytes hold. -/
def TBar.ofNat (x : Nat) : TBar :=
  { phase := x % 16
    fault := x / 16 % 2 == 1
    low := x / 32 % 8
    arrivals := signedField 24 (x / 0x100 % 0x1000000)
    expected := x / 0x100000000 % 0x100000000
    sectors := signedField 32 (x / 0x10000000000000000 % 0x100000000)
    fsect := x / 2 ^ 96 % 0x1000000
    fcode := x / 2 ^ 120 % 256 }

/-- The 16 bytes of a barrier. -/
def TBar.toNat (b : TBar) : Nat :=
  b.phase % 16 + (if b.fault then 16 else 0) + b.low % 8 * 32 + patOfInt 24 b.arrivals * 0x100 +
  b.expected % 0x100000000 * 0x100000000 + patOfInt 32 b.sectors * 0x10000000000000000 +
  b.fsect % 0x1000000 * 2 ^ 96 + b.fcode % 256 * 2 ^ 120

/-- FAULT reported to a barrier: FCODE and FSECT keep the first fault (R95). -/
def TBar.report (b : TBar) (code sect : Nat) : TBar :=
  if b.fault then b else { b with fault := true, fcode := code % 256, fsect := sect % 0x1000000 }

/-- The advance of R94 in closed form: while ARRIVALS ≤ 0, SECTORS = 0 and FAULT = 0, phases advance by EXPECTED arrivals each. -/
def TBar.advance (b : TBar) : TBar :=
  if b.arrivals ≤ 0 ∧ b.sectors = 0 ∧ b.fault = false then
    if b.expected < 1 ∨ 0x7FFFFF < b.expected then { b with fault := true, fcode := 0x15, fsect := 0 }
    else
      let k := (-b.arrivals).toNat / b.expected + 1
      { b with phase := (b.phase + k) % 16, arrivals := b.arrivals + k * b.expected }
  else b

/-- An expectation of n sectors (R94, R235). -/
def TBar.expect (b : TBar) (n : Nat) : TBar :=
  (if 0x7FFFFFFF < b.sectors + n then b.report 0x15 0 else { b with sectors := b.sectors + n }).advance

/-- An arrival (R94, R236). -/
def TBar.arrive (b : TBar) : TBar :=
  (if b.arrivals ≤ -0x800000 then b.report 0x15 0 else { b with arrivals := b.arrivals - 1 }).advance

/-- A delivery of n sectors (R94). -/
def TBar.deliver (b : TBar) (n : Nat) : TBar := ({ b with sectors := b.sectors - n }).advance

/-- The completion write of an engine operation: n sectors and one arrival in one update (R262). -/
def TBar.complete (b : TBar) (n : Nat) : TBar := ({ b with sectors := b.sectors - n }).arrive

/-- The barrier of TBINIT (R234). -/
def TBar.init (n : Nat) : TBar :=
  { phase := 0, fault := false, low := 0, arrivals := n, expected := n, sectors := 0, fsect := 0, fcode := 0 }

/-- The barrier at a local address. -/
def State.tbar (s : State) (a : Nat) : TBar := TBar.ofNat (s.val a 16 0)

/-! ## Mailbox counters (R97) -/

/-- Whether a wait on a counter with a target is satisfied. -/
def mailboxMet (counter target : Nat) : Bool := decide ((counter + 0x100000000 - target % 0x100000000) % 0x100000000 < 0x80000000)

/-- Whether one number of 32 bits lies below another, modulo 2^32. -/
def numberBelow (a b : Nat) : Bool := decide (a % 0x100000000 ≠ b % 0x100000000) && mailboxMet b a

/-! ## Waits tested again -/

/-- Whether what a thread waits for holds; only the waits that a write can satisfy are tested here. -/
def State.waitMet (s : State) (w : WaitAct) : Bool :=
  match w with
  | .barrier pa ph => (s.tbar pa).fault || (s.tbar pa).phase != ph.toNat
  | .mailbox pa tg => mailboxMet (s.val pa 4 0) tg.toNat
  | .join pa key => s.val pa 4 key == 0
  | _ => false

/-- Every place that holds a thread. -/
def State.places (s : State) : List Place :=
  (s.cores.flatMap fun c => c.2.ctxs.map fun x => Place.ctx c.1 x.1) ++
  (s.dies.flatMap fun d => d.2.slots.map fun x => Place.slot d.1 x.1)

/-- The bytes that a wait watches. -/
def WaitAct.watched (w : WaitAct) : List Nat :=
  match w with
  | .barrier pa _ => addrs pa 16
  | .mailbox pa _ => addrs pa 4
  | .join pa _ => addrs pa 4
  | _ => []

/-- The state after a write to local addresses: the armed requests of other packages whose condition it leaves true are answered (R200, R237). -/
def State.meetFar (s : State) (as : List Nat) : State :=
  { s with flight := s.flight.map fun m =>
      match m.body with
      | .await w pa key true false =>
        if m.dst == s.pkg && w.watched.any (fun a => as.contains a) && s.waitMet w then { m with due := s.cycle, body := .await w pa key true true } else m
      | _ => m }

/-- A wait's addresses moved. -/
def WaitAct.moved (f : Nat → Nat) (w : WaitAct) : WaitAct :=
  match w with
  | .barrier pa ph => .barrier (f pa) ph
  | .mailbox pa tg => .mailbox (f pa) tg
  | .join pa key => .join (f pa) key
  | w => w

/-- The bytes of memory that an operation of the atomic units touches. -/
def RedWhat.size : RedWhat → Nat
  | .alu _ size _ => size
  | _ => 16

/-- Whether a request is a store, an atomic or a reduction that writes bytes of a range, with its addresses as a map gives them. -/
def Msg.writesVia (f : Nat → Nat) (m : Msg) (a n : Nat) : Bool :=
  match m.body with
  | .store bs _ _ _ _ => bs.any fun b => decide (a ≤ f b.1) && decide (f b.1 < a + n)
  | .atomic _ pa size _ _ _ _ => decide (f pa < a + n) && decide (a < f pa + size)
  | .reduce w pa _ _ => decide (f pa < a + n) && decide (a < f pa + w.size)
  | _ => false

/-- Whether a request is a store, an atomic or a reduction that writes bytes of a range. -/
def Msg.writesIn (m : Msg) (a n : Nat) : Bool := m.writesVia (fun x => x) a n

/-- Whether a write of a thread to words that it watches is still to be applied: what they hold before is older than its own write (R138). -/
def State.ownAhead (s : State) (n : Name) (w : WaitAct) : Bool :=
  match w.watched with
  | [] => false
  | a :: _ => s.flight.any fun m => m.origin.author == n && m.origin.authorPkg == s.pkg && m.writesVia s.homeAddr (gpa s.pkg a) w.watched.length

/-- The state after the wait of the thread at a place is tested: it completes, with its acquire, where it is satisfied and no earlier write of the thread to what
it watches is still to be applied (R138, R200, R237, R242). -/
def State.testWait (s : State) (p : Place) : State :=
  let t := s.at p
  if !t.wait.act.watched.isEmpty && s.waitMet t.wait.act && !s.ownAhead t.name t.wait.act then (s.acquire (s.coreAt p)).completeAt p id else s

/-- The state after every wait that a write to local addresses has satisfied completes, with its acquire (R200, R237, R242). -/
def State.retest (s : State) (as : List Nat) : State :=
  s.places.foldl (fun s p => if (s.at p).wait.act.watched.any (fun a => as.contains a) then s.testWait p else s) (s.meetFar as)

/-- The state after a write of a thread has been applied, or is refused: its own wait is tested again. -/
def State.ownDone (s : State) (o : Origin) : State :=
  if o.authorPkg ≠ s.pkg then s
  else match s.whereIs o.author with | some p => s.testWait p | none => s

/-! ## Fires (R89, R90, R92, R151) -/

/-- The core where the thread with a name stands. -/
def State.coreOfName (s : State) (n : Name) : Option Nat := (s.whereIs n).map s.coreAt

/-- Who makes a write, where it stands in the order of registrations, and the arms that it is known to precede: a thread's own store that precedes an arm does
not fire it (R151). -/
structure Author where
  name : Name
  seq : Nat
  quiet : List Nat := []
deriving DecidableEq, Repr

/-- The author of a request that has registered under a number. -/
def Origin.writer (o : Origin) (seq : Nat) : Author := { name := o.author, seq := seq, quiet := o.quiet }

/-- The directory of a line, by its local number (R89). -/
def directoryOf (line : Nat) : Nat :=
  match region (line * 256) with
  | .tileScratch t _ => 256 + t
  | .chanScratch n _ => 416 + n
  | _ => homeSlice (line * 256)

/-- The bit of a core's die in a mask of twelve dies. -/
def dieBit (core : Nat) : BitVec 12 := 1#12 <<< coreDie core

/-- The cores of the dies of a mask. -/
def coresOf (dies : BitVec 12) : List Nat := (List.range Config.allCores).filter fun c => dies.getLsbD (coreDie c)

/-- An entry after a core arms its line: a fifth distinct core makes it broadcast (R90). -/
def DirEntry.add (e : DirEntry) (core : Nat) : DirEntry :=
  if e.broadcast then { e with dies := e.dies ||| dieBit core }
  else if e.cores.contains core then e
  else if e.cores.length < 4 then { e with cores := e.cores ++ [core] }
  else { e with broadcast := true, cores := [], dies := (core :: e.cores).foldl (fun m c => m ||| dieBit c) 0 }

/-- A directory without the lines that nobody watches any more: their entries are free, and the filter is clear once it records none (R90, R91). -/
def Directory.tidy (d : Directory) (watched : Nat → Bool) : Directory :=
  let lines := d.lines.filter watched
  { entries := d.entries.filter fun e => watched e.line, lines := lines, filter := if lines.isEmpty then [] else d.filter
    dies := if lines.isEmpty then 0 else d.dies }

/-- A directory with room for some entries after a core arms a line: one that finds no free entry is recorded in the overflow filter (R91). -/
def Directory.arm (d : Directory) (room core line : Nat) : Directory :=
  match d.entries.find? fun e => e.line == line with
  | some e => { d with entries := d.entries.map fun x => if x.line = line then e.add core else x }
  | none =>
    if d.entries.length < room then { d with entries := d.entries ++ [DirEntry.add { line := line } core] }
    else { d with lines := (line :: d.lines).eraseDups, filter := (line % 4096 :: d.filter).eraseDups, dies := d.dies ||| dieBit core }

/-- The cores to which a directory sends a fire of a line (R90, R91). -/
def Directory.targets (d : Directory) (line : Nat) : List Nat :=
  (match d.entries.find? fun e => e.line == line with
   | some e => if e.broadcast then coresOf e.dies else e.cores
   | none => []) ++ (if d.filter.contains (line % 4096) then coresOf d.dies else [])

/-- The state after a core arms a line, by its local number, at its directory. -/
def State.armLine (s : State) (core line : Nat) : State :=
  let i := directoryOf line
  let watched := fun l => s.watches.any fun r => r.line == gpa s.pkg (l * 256) / 256
  let d := (Assoc.getD s.dirs i {}).tidy watched
  { s with dirs := Assoc.insert s.dirs i (d.arm (if i < 256 then Config.sliceWatches else Config.scratchWatches) core line) }

/-- The registrations that a write to sectors of a line fires. -/
def State.firedBy (s : State) (author : Option Author) (line : Nat) (sectors : BitVec 4) : List Registration :=
  s.watches.filter fun r =>
    r.line == line && (r.mask &&& sectors) != 0 &&
      (match author with | some a => !(a.name == r.name && (decide (a.seq < r.armed) || a.quiet.contains r.token)) | none => true)

/-- The state with a watch of a thread of another package, whose page has moved here (R393). -/
def State.watchFor (s : State) (pkg : Nat) (r : Registration) : State :=
  { s with nextSeq := s.nextSeq + 1, watches := s.watches ++ [{ r with armed := s.nextSeq, away := some pkg }] }

/-- The state after fires are sent for a write to sectors of a line, by global line number: to each core that the line's directory names, which compares them
with its watches (R90, R91). -/
def State.fireLine (s : State) (author : Option Author) (line : Nat) (sectors : BitVec 4) : State :=
  let hits := s.firedBy author line sectors
  let l := gpaLocal (line * 256) / 256
  let cores := ((hits.filterMap fun r => s.coreOfName r.name) ++ (Assoc.getD s.dirs (directoryOf l) {}).targets l).eraseDups
  let s := hits.foldl (fun s r => match r.away with | some p => s.send 234 p { pkg := s.pkg } (.fire 0 line [r]) | none => s) s
  cores.foldl (fun s c =>
    s.post (s.latency c (line * 256) / 2) {} (.fire c line (hits.filter fun r => s.coreOfName r.name == some c))) s

/-- The sectors of a line that written addresses touch. -/
def sectorsOf (line : Nat) (as : List Nat) : BitVec 4 :=
  as.foldl (fun m a => if a / 256 = line then m ||| (1#4 <<< (a % 256 / 64)) else m) 0

/-- The state after fires are sent for written global addresses. -/
def State.fireFor (s : State) (author : Option Author) (as : List Nat) : State :=
  ((as.map (· / 256)).eraseDups).foldl (fun s l => s.fireLine author l (sectorsOf l as)) s

/-! ## The slices (R81) -/

/-- The lines of a slice after an access to a sector, by its number; of more lines than the slice caches, the least recently used one is written back and gives way. -/
def sliceUse (q : Nat) (f : SliceSector → SliceSector) (l : List (Nat × Assoc SliceSector)) : List (Nat × Assoc SliceSector) :=
  let held := (Assoc.look l (q / 4)).getD []
  ((q / 4, Assoc.insert held q (f (Assoc.getD held q {}))) :: l.filter fun x => x.1 != q / 4).take Config.sliceLines

/-- A sector as an access under a tag finds it: one with another tag is written back and filled again (R386). -/
def SliceSector.under (x : SliceSector) (tag : Nat) : SliceSector := if x.tag = tag then x else { tag := tag, valid := true }

/-- A sector after a write of words, by their mask: all of it is valid where `whole` holds or it was. -/
def SliceSector.write (x : SliceSector) (mask : BitVec 16) (whole : Bool) : SliceSector :=
  { x with valid := x.valid || whole || (x.mask ||| mask) == 0xFFFF, dirty := true, mask := x.mask ||| mask }

/-- The state with a sector of Damask memory used in its slice. -/
def State.useSector (s : State) (q : Nat) (f : SliceSector → SliceSector) : State :=
  let i := homeSlice (q * 64)
  { s with slices := Assoc.insert s.slices i (sliceUse q f (Assoc.getD s.slices i [])) }

/-- The state after a read of a local Damask address under a key slot: its sector is valid in its slice. -/
def State.sliceRead (s : State) (a key : Nat) : State :=
  if region a = .damask then s.useSector (a / 64) fun x => { x.under (s.tag (s.effKey key)) with valid := true } else s

/-- The state after writes of local Damask bytes under a key slot: their words are dirty in their slices; a word written in part is read first. -/
def State.sliceWrite (s : State) (key : Nat) (as : List Nat) : State :=
  let ds := as.filter fun a => region a == .damask
  ((ds.map (· / 64)).eraseDups).foldl (fun s q =>
    let ours := ds.filter fun a => a / 64 == q
    let words := (ours.map fun a => a % 64 / 4).eraseDups
    let part := words.any fun w => !((addrs (q * 64 + 4 * w) 4).all fun a => ours.contains a)
    s.useSector q fun x => (x.under (s.tag (s.effKey key))).write (words.foldl (fun m w => m ||| (1#16 <<< w)) 0) part) s

/-- Whether the slice of a local Damask address holds its sector valid. -/
def State.sliceHolds (s : State) (a key : Nat) : Bool :=
  match (Assoc.look (Assoc.getD s.slices (homeSlice a) []) (a / 256)).bind fun l => Assoc.look l (a / 64) with
  | some x => x.valid && x.tag == s.tag (s.effKey key)
  | none => false

/-- The state after every dirty sector of a Damask line, by its local number, is written to its channel (R395). -/
def State.cleanLine (s : State) (line : Nat) : State :=
  let i := homeSlice (line * 256)
  { s with slices := Assoc.insert s.slices i ((Assoc.getD s.slices i []).map fun l =>
      if l.1 = line then (l.1, Assoc.mapVals (fun _ x => { x with dirty := false, mask := 0 }) l.2) else l) }

/-- The state after every slice has written back and dropped the sectors tagged with a key slot (R384). -/
def State.dropTagged (s : State) (slot : Nat) : State :=
  { s with slices := Assoc.mapVals (fun _ l => l.map fun x => (x.1, x.2.filter fun y => y.2.tag % 4096 != slot)) s.slices }

/-! ## Applying a write -/

/-- Whether a local address takes writes (R76, R368). -/
def writable (a : Nat) : Bool := !(isReserved a || isSaveBlock a || isMailbox a) && region a != .hole && region a != .device

/-- The registered stores after a write that registered later: its bytes lie above theirs (R140). -/
def State.mask (s : State) (seq : Nat) (as : List Nat) : State :=
  { s with flight := s.flight.map fun m =>
      match m.body with
      | .store bs _ (some q) _ _ =>
        if q < seq ∧ m.dst = s.pkg then { m with masked := m.masked ++ (bs.map (·.1)).filter fun a => as.contains a } else m
      | _ => m }

/-- The state after a write to DEADLINE of a wave control block: the cycle that it names is waited for (R76, R323). -/
def State.newDeadlines (s : State) (as : List Nat) : State :=
  s.waves.foldl (fun s w =>
    if as.any fun a => decide (w + 40 ≤ a) && decide (a < w + 48) then
      let d := s.val (w + 40) 8 0
      if d = 0 then s else s.notice (max (s.cycle + 1) d) .deadlineExpiry { a := w, b := d }
    else s) s

/-- The state after bytes are written at their local addresses under a key slot, with everything that a write brings about. -/
def State.applyBytes (s : State) (author : Option Author) (key : Nat) (bs : List (Nat × Byte)) : State :=
  let bs := bs.filter fun b => writable b.1
  let as := bs.map fun b => gpa s.pkg b.1
  if bs.isEmpty then s
  else
    let seq := match author with | some a => a.seq | none => s.nextSeq
    let s := s.mask seq as
    let s := ((s.putBytes key bs).sliceWrite key (bs.map (·.1))).unpoison (bs.map fun b => (s.place b.1 key).1)
    let s := s.fireFor author as
    (s.newDeadlines (bs.map (·.1))).retest (bs.map (·.1))

/-- The state after a little-endian value is written at a local address. -/
def State.applyVal (s : State) (w : Option Author) (a n key v : Nat) : State := s.applyBytes w key (atAddrs a (leBytes n v))

/-- The state after a mailbox counter is set (R97): its watches fire and its waiters are tested. -/
def State.applyMailbox (s : State) (w : Option Author) (a v : Nat) : State :=
  ((s.putMailbox a v).fireFor w [gpa s.pkg a]).retest (addrs a 4)

/-- The state after a barrier update (R93). -/
def State.updateBar (s : State) (w : Option Author) (a : Nat) (f : TBar → TBar) : State :=
  if isMailbox a then s else s.applyVal w a 16 0 (f (s.tbar a)).toNat

/-- The tile whose scratchpad holds a local address. -/
def tileAt (a : Nat) : Option Nat := match region a with | .tileScratch t _ => some t | _ => none

/-- The state of the tile whose scratchpad holds a local address; LIVE elsewhere. -/
def State.tileStateAt (s : State) (a : Nat) : TileState := match tileAt a with | some t => (s.tile t).state | none => .live

/-- Whether an access to a local address is held at its tile: while its scratchpad is copied out, and during a restore (R370, R372). -/
def State.heldAtTile (s : State) (a : Nat) : Bool :=
  match tileAt a with
  | some t => (s.tile t).state == .restoring || (s.tile t).state == .discarding || ((s.tile t).state == .saving && (s.tile t).drained)
  | none => false

/-- The state with an access to a SAVED tile's scratchpad counted (R371). -/
def State.countRedirect (s : State) (a : Nat) : State :=
  match tileAt a with
  | some t => if (s.tile t).state = .saved ∧ !isSaveBlock a then s.setTile t { s.tile t with redirected := (s.tile t).redirected + 1 } else s
  | none => s

/-! ## The atomic units (R86, R220) -/

/-- The format of an atomic float operation (R105, R220). -/
def fmtOfSize (size : Nat) : FFmt := if size = 8 then fp64 else fp32

/-- The value that an operation writes, on values of `size` bytes; none where it writes nothing. -/
def AluOp.apply (op : AluOp) (size old v cmp : Nat) : Option Nat :=
  let m := 2 ^ (8 * size)
  let sg := signedField (8 * size)
  match op with
  | .add => some ((old + v) % m)
  | .and => some (old &&& v)
  | .or => some (old ||| v)
  | .xor => some (old ^^^ v)
  | .min => some (if sg v < sg old then v else old)
  | .max => some (if sg old < sg v then v else old)
  | .minu => some (if v < old then v else old)
  | .maxu => some (if old < v then v else old)
  | .swap => some v
  | .cas => if old = cmp then some v else none
  | .fadd => some ((fmtOfSize size).add .rne old v).1
  | .fmin => some ((fmtOfSize size).minmax false old v).1
  | .fmax => some ((fmtOfSize size).minmax true old v).1

/-- An atomic operation at a local address: the old value, and the state after it. -/
def State.amoAt (s : State) (w : Option Author) (op : AluOp) (a size key v cmp : Nat) : Nat × State :=
  let old := s.val a size key
  let s := s.sliceRead a key
  match op.apply size old v cmp with
  | none => (old, s)
  | some n => (old, if isMailbox a then s.applyMailbox w a n else s.applyVal w a size key n)

/-- A reduction applied at a local address. -/
def State.reduceAt (s : State) (w : Option Author) (what : RedWhat) (a key : Nat) : State :=
  match what with
  | .alu op size v => (s.amoAt w op a size key (v.toNat % 2 ^ (8 * size)) 0).2
  | .expect n => s.updateBar w a (·.expect n.toNat)
  | .arrive => s.updateBar w a (·.arrive)
  | .deliver n => s.updateBar w a (·.deliver n)
  | .complete n => s.updateBar w a (·.complete n)
  | .report code sect => s.updateBar w a (·.report code sect)

/-! ## Requests of threads -/

/-- Global word numbers of a range of bytes. -/
def wordsOf (a n : Nat) : List Nat := ((addrs a n).map (· / 4)).eraseDups

/-- The words that a message of a core has registered or is about to change, not yet acknowledged. -/
def Msg.unacked (m : Msg) : List Nat :=
  match m.body with
  | .store bs _ _ _ _ => (bs.map (·.1 / 4)).eraseDups
  | .reduce w pa _ _ => wordsOf pa w.size
  | .atomic _ pa size _ _ _ _ => wordsOf pa size
  | .ack _ ws _ _ => ws
  | .old _ ws => ws
  | _ => []

/-- Whether a core of this package has an unacknowledged store, reduction or atomic on a word. -/
def State.unackedAt (s : State) (core w : Nat) : Bool :=
  s.flight.any fun m => m.origin.core == core && m.origin.pkg == s.pkg && m.unacked.contains w

/-- The state with words dropped from a core's L1 and from the fills on their way to it: later reads are served by the home (R140, R144). -/
def State.dropWords (s : State) (core : Nat) (ws : List Nat) : State :=
  let s := s.setCore core ((s.core core).loseWords ws)
  { s with flight := s.flight.map fun m =>
      if m.origin.core ≠ core ∨ m.origin.pkg ≠ s.pkg then m
      else
        match m.body with
        | .data v f e => { m with body := .data v (f.filter fun p => !ws.contains p.1) e }
        | .ack st us f e => { m with body := .ack st us (f.filter fun p => !ws.contains p.1) e }
        | _ => m }

/-- Whether a request to a global address is posted with its data at once: everything but Damask memory, whose stores are gathered (R140). -/
def postsAtOnce (a : Nat) : Bool := region (gpaLocal a) != .damask

/-- The state after a store request leaves a core (R140): registration goes at once, gathered data within 64 cycles. -/
def State.sendStore (s : State) (o : Origin) (bytes : List (Nat × Byte)) (key : Nat) (now rel : Bool) : State :=
  match bytes with
  | [] => s
  | (a, _) :: _ =>
    let s := s.dropWords o.core ((bytes.map (·.1 / 4)).eraseDups)
    let posted := now || postsAtOnce a
    let s := s.send (s.latency o.core a / 2) (gpaPkg a) o (.store bytes key none posted rel)
    if posted then s else s.notice (s.cycle + Config.gatherCycles) .storeGatherPost { a := o.core, b := a / 64 }

/-- The state after a reduction leaves a core (R143). -/
def State.sendReduce (s : State) (o : Origin) (what : RedWhat) (pa key : Nat) (rel : Bool) : State :=
  let s := s.dropWords o.core (wordsOf pa what.size)
  s.send (s.latency o.core pa / 2) (gpaPkg pa) o (.reduce what pa key rel)

/-- The state with gathered data posted at once, for the stores that a test picks (R140). -/
def State.postGathered (s : State) (p : Msg → Bool) : State :=
  { s with flight := s.flight.map fun m =>
      match m.body with
      | .store bs k q false re =>
        if p m then
          { m with body := .store bs k q true re
                   due := if q.isSome then s.cycle + s.latency m.origin.core ((bs.headD (0, 0)).1) / 2 else m.due }
        else m
      | _ => m }

/-- The state with a thread's gathered data posted at once. -/
def State.postOf (s : State) (n : Name) : State := s.postGathered fun m => m.origin.name == n

/-- Whether an earlier store or reduction of the thread of a request is unacknowledged (R141): the request waits in the network interface. -/
def State.earlierOpen (s : State) (n : Name) (id : Nat) : Bool :=
  s.flight.any fun m => m.origin.name == n &&
    (match m.body with
     | .store .. => decide (m.id < id)
     | .reduce .. => decide (m.id < id)
     | .ack .. => (match m.req with | some r => decide (r < id) | none => false)
     | .nack .. => m.about.isSome && (match m.req with | some r => decide (r < id) | none => false)
     | _ => false)

/-- The number under which a request has registered at its home (R134, R140). -/
def Msg.registered (m : Msg) : Option Nat :=
  match m.body with
  | .store _ _ q _ _ => q
  | .atomic .. | .reduce .. => m.regd
  | _ => none

/-- The requests on a range that registered here before a number and are not applied yet. -/
def State.aheadOf (s : State) (a n no : Nat) : List Msg :=
  s.flight.filter fun m => m.dst == s.pkg && (match m.registered with | some q => decide (q < no) | none => false) && m.writesIn a n

/-- The requests on a range that have registered here and are not applied yet. -/
def State.registeredAt (s : State) (a n : Nat) : List Msg := s.aheadOf a n s.nextSeq

/-- The state after the home has recalled the words of a range from the owners of registered stores (R144), each word of a store once; scratch words have
no owner. -/
def State.recallAt (s : State) (a n no : Nat) : State :=
  (s.aheadOf a n no).foldl (fun s m =>
    match m.body with
    | .store bs _ _ _ _ =>
      (wordsOf a n).foldl (fun s w =>
        if m.told.contains w ∨ postsAtOnce (w * 4) ∨ !(bs.any fun b => b.1 / 4 == w) then s
        else
          (s.modMsg m.id fun x => { x with told := w :: x.told }).send (s.latency m.origin.core a / 2) m.origin.pkg
            { pkg := s.pkg, core := homeCore a } (.recall (w * 4) m.origin.core)) s
    | _ => s) s

/-- The value of a list of bytes, where every byte is there. -/
def allBytes : List (Option Byte) → Option (List Byte)
  | [] => some []
  | some b :: bs => (allBytes bs).map (b :: ·)
  | none :: _ => none

/-- The unapplied stores of a thread to the words of a range, in program order, from before a request. -/
def State.ownStores (s : State) (n : Name) (a size before : Nat) : List Msg :=
  s.flight.filter fun m => m.origin.name == n && decide (m.id < before) &&
    (match m.body with | .store bs _ _ _ _ => bs.any fun b => decide (a / 4 ≤ b.1 / 4) && decide (b.1 / 4 ≤ (a + size - 1) / 4) | _ => false)

/-- The bytes of a store that is not acknowledged yet, with the key slot of their leaf. -/
def Msg.ownBytes (m : Msg) : Option (List (Nat × Byte) × Nat) := match m.body with | .store bs k _ _ _ => some (bs, k) | .ack .. => m.own | _ => none

/-- Whether a store that is not acknowledged yet writes to a word. -/
def Msg.writesWord (m : Msg) (w : Nat) : Bool := match m.ownBytes with | some (bs, _) => bs.any fun b => b.1 / 4 == w | none => false

/-- The unacknowledged stores of a thread to the words of a range (R140, R216), the latest first. -/
def State.ownUnacked (s : State) (n : Name) (a size : Nat) : List Msg :=
  (s.flight.filter fun m => m.origin.name == n && (wordsOf a size).any m.writesWord).foldl (fun l m =>
    let no := fun (x : Msg) => x.req.getD x.id
    l.filter (fun x => decide (no m < no x)) ++ m :: l.filter fun x => !decide (no m < no x)) []

/-- Whether a thread may read a word from its own store (R140): it reads under the key slot of the store (R386), and no recall has made the word invalid
(R144). -/
def Msg.readable (m : Msg) (w key : Nat) : Bool := !m.recalled.contains w && (postsAtOnce (w * 4) || (m.ownBytes.map (·.2)) == some key)

/-- The byte that a store holds at an address. -/
def Msg.ownByte (m : Msg) (a : Nat) : Option Byte := m.ownBytes.bind fun o => (o.1.find? fun b => b.1 == a).map (·.2)

/-- Whether an earlier write of the thread of a request touches the same bytes and has not registered, or not been applied where it is a reduction or an
atomic: a thread's writes of one word keep program order (R138, R139). -/
def State.ownBefore (s : State) (m : Msg) : Bool :=
  s.flight.any fun x => x.origin.same m.origin && decide (x.id < m.id) &&
    (match x.body, m.body with
     | .store _ _ (some _) _ _, _ => false
     | _, .store bs _ _ _ _ => bs.any fun b => x.writesIn b.1 1 || x.writesIn (s.homeAddr b.1) 1
     | _, .atomic _ pa size _ _ _ _ => x.writesIn pa size || x.writesIn (s.homeAddr pa) size
     | _, .reduce w pa _ _ => x.writesIn pa w.size || x.writesIn (s.homeAddr pa) w.size
     | _, _ => false)

/-- Whether an earlier store or reduction of the thread of a request on the words of a range is not applied yet: its read of them comes after (R138). -/
def State.ownOpenAt (s : State) (m : Msg) (a size : Nat) : Bool :=
  s.flight.any fun x => x.origin.same m.origin && decide (x.id < m.id) &&
    (match x.body with | .store .. => x.writesVia s.homeAddr (a / 4 * 4) ((a + size + 3) / 4 * 4 - a / 4 * 4) | _ => x.writesVia s.homeAddr a size)

/-- Whether a thread has a reduction in flight on a range of bytes: its load of them waits behind it at the home (R138). -/
def State.ownReduce (s : State) (n : Name) (a size before : Nat) : Bool :=
  s.flight.any fun m => m.origin.name == n && decide (m.id < before) &&
    (match m.body with
     | .reduce w pa _ _ => decide (pa < a + size) && decide (a < pa + w.size)
     | _ => false)

/-- A byte of the held stores of a thread that runs ahead, from the latest, with the key slot of its leaf (R319). -/
def Thread.heldByte (t : Thread) (a : Nat) : Option (Byte × Nat) :=
  match t.bank with
  | some b => b.stores.foldl (fun r h => match h.bytes.find? fun x => x.1 == a with | some x => some (x.2, h.key) | none => r) none
  | none => none

/-! ## Checks by the device (R209, R379) -/

/-- What a walker sends to the home of an entry, at a local address, on the package that the entry's page forwards to (R376, R393); one request for an entry at a
time. -/
def State.walkerSends (s : State) (a : Nat) (b : Nat → Body) : State :=
  match s.farPage (gpa s.pkg a) with
  | none => s
  | some x =>
    if s.flight.any fun m => m.origin.walker && m.origin.pkg == s.pkg && m.origin.ea.toNat == a then s
    else s.send 234 (gpaPkg x) { pkg := s.pkg, core := homeCore a, free := true, walker := true, ea := BitVec.ofNat 64 a } (b x)

/-- The state after an entry is asked for at the package that its page forwards to. -/
def State.farRead (s : State) (a : Nat) : State :=
  s.walkerSends a fun x => .load [{ lane := 0, pa := x, size := 8 }, { lane := 1, pa := x + 8, size := 8 }] 0 false 0

/-- The state after A, and D for a write, are set in a leaf at the package that its page forwards to: an atomic at its home (R379). -/
def State.farMark (s : State) (a : Nat) (w : Bool) : State :=
  s.walkerSends a fun x => .reduce (.alu .or 4 (if w then 0x600 else 0x200)) x 0 false

/-- The state after a walk has read its entries: their sectors are valid in their slices (R81), and those read from another package are not kept. -/
def State.walked (s : State) (path : List Nat) : State :=
  { path.foldl (fun s a => s.sliceRead (s.forwarded a) 0) s with farEntries := s.farEntries.filter fun e => !path.contains e.1 }

/-- Check by walks made at once, for the device's own accesses: the walker's update of A and D is an atomic at the leaf's home, applied before the access
(R379).  Where that home holds it (R153, R393), where a store to the leaf has registered and is not applied, or where a table is read or marked on another
package, the answer is `walk`, for a later try.  Without `tile` no tile test is made (R389). -/
def State.checkWalk (s : State) (troot : Dword) (job : Word) (ea : Dword) (size : Nat) (r w : Bool) (tile : Bool := true) : State × Checked :=
  if ea.toNat / 0x10000000000000 ≠ 0 then (s, .fault 0x04 0)
  else if ea.toNat % size ≠ 0 then (s, .fault 0x03 0)
  else
    match s.walkNeeds troot.toNat ea.toNat with
    | some a => (s.farRead a, .walk)
    | none =>
    let path := s.walkPath ea.toNat 4 0 (troot.toNat / 0x2000 * 0x2000)
    match s.walk troot.toNat ea.toNat with
    | none => (s.walked path, .fault 0x04 0)
    | some (e, a) =>
      match s.checkLeaf job e ea.toNat r w false tile with
      | .ok x =>
        let home := s.forwarded a
        if markLeaf e w = e then (s.walked path, .ok x)
        else if (s.farPage (gpa s.pkg a)).isSome then (s.farMark a w, .walk)
        else if s.locked a || !(s.registeredAt (gpa s.pkg home) 2).isEmpty then (s.recallAt (gpa s.pkg home) 2 s.nextSeq, .walk)
        else ((s.walked path).applyVal none home 2 0 ((markLeaf e w).toNat % 65536), .ok { x with leaf := markLeaf e w })
      | c => (s.walked path, c)

/-! ## Requests to other packages (R403, R409, R410) -/

/-- Whether a request carries a deduplication number (R409). -/
def Body.numbered (b : Body) : Bool :=
  match b with
  | .store .. | .atomic .. | .reduce .. | .wave .. | .news .. | .migrate .. | .call .. | .threadOp .. | .cancelJob _ | .tlbinv .. | .page .. | .ticket _ | .ticketWait .. | .ticketCall .. | .heartbeat .. | .bulk .. => true
  | _ => false

/-- Whether a request has a reply (R403). -/
def Body.answered (b : Body) : Bool :=
  match b with
  | .vote _ | .summary _ | .verdict _ | .abortReq _ | .sideband .. | .unknown .. | .fire .. => false
  | _ => true

/-- Deduplicated requests to other packages that a core's network interface may have outstanding (R410). -/
def netCap : Nat := 4096

/-- The deduplicated requests of a core to other packages, those that still wait in its network interface among them. -/
def State.netHeld (s : State) (core : Nat) : List Msg :=
  s.flight.filter fun m => m.origin.core == core && m.origin.pkg == s.pkg && m.dst != s.pkg && m.body.numbered && m.req.isNone && m.relay.isNone

/-- Whether n more requests would not fit a core's network interface. -/
def State.niFull (s : State) (core n : Nat) : Bool := decide (netCap < (s.netHeld core).length + n)

/-- Run an issue that sends n deduplicated requests to other packages: the thread waits while they do not fit the network interface (R410). -/
def State.viaNets (s : State) (n : Nat) (ea : Dword) (f : State → State) : State :=
  if n ≠ 0 ∧ s.niFull s.focus.core n then s.stallFor 14 ea 0 .netRoom else f s

/-- Run an issue that sends one deduplicated request to a package, if it is another. -/
def State.viaNet (s : State) (pkg : Nat) (ea : Dword) (f : State → State) : State := s.viaNets (if pkg = s.pkg then 0 else 1) ea f

/-- The source endpoint and target gateway of a request, by which its numbers are counted. -/
def State.pairOf (s : State) (m : Msg) : Nat × Nat := (endpoint s.pkg m.origin.core, m.dst * 32 + m.body.gateway)

/-- The number of a request and the lowest number of its pair that has no reply yet (LUS), and the state with the number used. -/
def State.numberFor (s : State) (m : Msg) : Option (Nat × Nat) × State :=
  match m.dedup with
  | some d => (some d, s)
  | none =>
    if !m.body.numbered then (none, s)
    else
      let p := s.pairOf m
      let n := match s.numbers.find? fun x => (x.1, x.2.1) == p with | some x => x.2.2 | none => 0
      let back := fun (k : Nat) => (n + 0x100000000 - k) % 0x100000000
      let lus := s.flight.foldl (fun l x =>
        match x.dedup with | some d => if s.pairOf x = p ∧ x.dst ≠ s.pkg ∧ back l < back d.1 then d.1 else l | none => l) n
      (some (n, lus), { s with numbers := (p.1, p.2, (n + 1) % 0x100000000) :: s.numbers.filter fun x => (x.1, x.2.1) != p })

/-- The bytes that a request accesses, as ranges. -/
def Body.spans (b : Body) : List (Nat × Nat) :=
  match b with
  | .load ps _ _ _ => ps.map fun p => (p.pa, p.size)
  | .await _ pa _ _ _ => [(pa, 16)]
  | .store bs _ _ _ _ => bs.map fun b => (b.1, 1)
  | .atomic _ pa size _ _ _ _ => [(pa, size)]
  | .reduce w pa _ _ => [(pa, w.size)]
  | _ => []

/-- Whether an earlier write of the thread of a request to the same bytes has not left yet: accesses of one word keep program order (R138, R139). -/
def State.ownUnsent (s : State) (m : Msg) : Bool :=
  s.flight.any fun x => x.origin.same m.origin && decide (x.id < m.id) && x.dst == m.dst && x.sent == 0 && x.req.isNone &&
    m.body.spans.any fun p => x.writesIn p.1 p.2

/-- How far a request for another package may leave its core now: its registration, or all of it; a release and the creation of a thread wait for the
thread's earlier stores and reductions (R140, R141, R146), and any access for the thread's earlier writes of its words (R139). -/
def State.mayLeave (s : State) (m : Msg) : Nat :=
  if domainOf m.dst ≠ domainOf s.pkg ∧ !m.body.collective then 0 else
  if s.ownUnsent m then 0 else
  match m.body with
  | .store _ _ _ posted rel => if !posted then 1 else if rel && s.earlierOpen m.origin.name m.id then 0 else 2
  | .atomic _ _ _ _ _ _ rel => if rel && s.earlierOpen m.origin.name m.id then 0 else 2
  | .reduce _ _ _ rel => if rel && s.earlierOpen m.origin.name m.id then 0 else 2
  | .call .. => if s.earlierOpen m.origin.name m.id then 0 else 2
  | .threadOp .start _ => if s.earlierOpen m.origin.name m.id then 0 else 2
  | _ => 2

/-- The state after a request for another package leaves by a port, as far as it may: one that would be the 4,097th of its core waits in the network
interface (R410), and one whose destination has become unreachable is refused (R406).  A store's registration and its data leave as two packets with the same sequence
number and deduplication number: DESIGN CHOICE (log 111). -/
def State.emitOne (s : State) (m : Msg) : State :=
  if m.dst = s.pkg ∨ s.mayLeave m ≤ m.sent then s
  else if !s.reachable m.origin.core m.dst then
    (if !m.body.answered then { s with flight := s.flight.filter fun x => x.id != m.id }
     else if s.flight.any fun x => x.req == some m.id then s
     else
       { s with
         nextId := s.nextId + 1
         flight := s.flight ++ [{ id := s.nextId, due := s.cycle + 1, origin := m.origin, body := .nack 0x12 0 (BitVec.ofNat 64 (m.dst * 4096)) false
                                  dst := s.pkg, req := some m.id }] })
  else if m.body.numbered ∧ m.dedup.isNone ∧ m.relay.isNone ∧ netCap ≤ ((s.netHeld m.origin.core).filter fun x => x.dedup.isSome).length then s
  else
    let (d, s') := s.numberFor m
    let s' := s'.outward { m with sent := s.mayLeave m, dedup := d } (endpoint s.pkg m.origin.core) (m.body.target m.dst) m.channel m.body.response
    let m' := s'.egress.getLastD m
    { s' with
      flight := if m.body.answered then s'.flight.map fun x => if x.id = m.id then m' else x else s'.flight.filter fun x => x.id != m.id }

/-- The state after every request that may leave has left: a collective flit before any other (R405, R407). -/
def State.emit (s : State) : State :=
  let (first, rest) := s.flight.partition fun m => m.body.collective
  (first ++ rest).foldl (fun s m => s.emitOne m) s

/-! ## Records of the device -/

/-- Whether a write of the device's own is sent as a store: its place holds its writes, or lies on another package. -/
def State.sendsWrite (s : State) (pa : Nat) : Bool :=
  gpaPkg pa != s.pkg || s.locked (gpaLocal pa) || s.heldAtTile (gpaLocal pa) || (s.farPage pa).isSome

/-- The state after the device writes bytes to a global physical address under a key slot: at once where the place takes writes; dropped in a RESET
tile (R373); sent as a store where the place holds its writes or lies on another package. -/
def State.deviceWrite (s : State) (pa key : Nat) (bs : List Byte) (o : Origin := { free := true }) : State :=
  let a := gpaLocal pa
  if s.sendsWrite pa then
    s.send 234 (gpaPkg pa) { o with pkg := s.pkg } (.store (atAddrs pa bs) key none true false)
  else if s.tileStateAt a = .reset then s
  else (s.countRedirect a).applyBytes none key (atAddrs (s.forwarded a) bs)

/-- The bytes of a list of dwords. -/
def dwordBytes (ds : List Nat) : List Byte := ds.flatMap fun d => leBytes 8 d

end Sys2Proof.Machine
end

