-- ==== Sys2Proof/Machine/Life.lean ====
section
/-!
DEFINITION. The lives of threads: names and contexts (R26, R57), the spill area (R56 to R58), waves (R37 to R40), jobs (R46, R47), deques (R50),
fault records (R356, R358), the end of a thread (R203), and what an acknowledgement settles.
-/

namespace Sys2Proof.Machine

/-! ## Bit fields of dwords -/

/-- A field of n bits from bit lo. -/
def fieldOf (v lo n : Nat) : Nat := v / 2 ^ lo % 2 ^ n

/-- The value with a field replaced. -/
def putField (v lo n x : Nat) : Nat := v - fieldOf v lo n * 2 ^ lo + x % 2 ^ n * 2 ^ lo

/-- A field value at a bit. -/
def at' (lo x : Nat) : Nat := x * 2 ^ lo

/-- A condition as a bit. -/
def bit (b : Bool) : Nat := if b then 1 else 0

/-! ## Fault records (R356, R358) -/

/-- The state after every thread of a core that a test picks wakes. -/
def State.wakeWhere (s : State) (core : Nat) (p : Thread → Bool) : State :=
  (s.core core).ctxs.foldl (fun s x => if p x.2 then s.wakeAt (.ctx core x.1) else s) s

/-- The state after every thread that waits for a condition goes on. -/
def State.wakeCond (s : State) (k : WaitCond) : State :=
  (s.cores.map (·.1)).foldl (fun s c => s.wakeWhere c fun t => t.wait.act == .again k) s

/-- The flag NOSTOP of a record's word 0 (R356). -/
def nostopBit : Nat := 0x40000

/-- Whether a record is the one of the root supervisor's own fault, while it has not stored 1 to STARTOK (R419): one that stopped it, or the loss of its core. -/
def State.rootRecord (s : State) (w : List Nat) : Bool :=
  BitVec.ofNat 56 (w.getD 3 0) == s.health.rootName && !s.health.startOk && s.health.power == .running &&
    (w.headD 0 / nostopBit % 2 == 0 || w.headD 0 % 65536 == 0x13)

/-- The state after a record of eight words, the last of them aside, is written to a core's last-resort line, with LASTRESORT; word 7 is one more than the
line held (R76, R77, R358).  The root supervisor's fails the start (R419). -/
def State.toLastResort (s : State) (core : Nat) (w : List Nat) : State :=
  let n := s.val (lastResort core + 56) 8 0 + 1
  let s := s.setCore core { s.core core with lastResorts := (s.core core).lastResorts + 1 }
  let s := s.applyBytes none 0 (atAddrs (lastResort core) (dwordBytes ((w.headD 0 + 0x10000) :: w.drop 1 ++ [n])))
  if s.rootRecord w then s.notice (s.cycle + 1) .faultRecord { name := BitVec.ofNat 56 (w.getD 3 0), b := 1 } else s

/-- Whether a record of a core is on its way to its FAULTREC: whether it is one of those that word 7 counts is not known yet (R356). -/
def State.recordOut (s : State) (core : Nat) : Bool := s.flight.any fun m => m.origin.lastResort == some core && m.origin.pkg == s.pkg

/-- The state after a record takes its place in its core's sequence (R356, R358): written at FAULTREC, through the thread's root, or in the core's last-resort
line; where FAULTREC lies on another package, or its page holds its writes, it is sent, and counted once it is written. -/
def State.writeRecord (s : State) (core : Nat) (q : RecordReq) : State :=
  let (s', c) := if q.faultrec = 0 then (s, Checked.fault 0x04 0) else s.checkWalk q.troot q.job q.faultrec 64 false true false
  let n := (s'.core core).records + 1
  let o : Origin := { core := core, job := q.job, record := true, lastResort := some core }
  match c with
  | .walk =>
    (s'.setCore core { s'.core core with recordQueue := q :: (s'.core core).recordQueue }).notice (s.cycle + 1) .faultRecord { a := core, b := 2 }
  | .fault _ _ => s'.toLastResort core q.words
  | .ok x =>
    if region (gpaLocal x.pa) = .device ∨ s.tileStateAt (gpaLocal x.pa) = .reset ∧ gpaPkg x.pa = s.pkg ∨ !s.reachable core (gpaPkg x.pa) then
      s'.toLastResort core q.words
    else
      let s' := if s'.sendsWrite x.pa then s' else s'.setCore core { s'.core core with records := n }
      s'.deviceWrite x.pa x.key (dwordBytes (q.words ++ [n])) o

/-- The state after the device has formed a fault record for a thread of a core (R355, R358): the records of a core are written one after another. -/
def State.record (s : State) (core : Nat) (faultrec troot : Dword) (job : Word) (w0 w1 w2 w3 w4 w5 : Nat) (raised : Option Nat := none) : State :=
  let q : RecordReq := { faultrec := faultrec, troot := troot, job := job, words := [w0, w1, w2, w3, w4, w5, raised.getD s.cycle] }
  if (s.core core).recordQueue.isEmpty && !s.recordOut core then s.writeRecord core q
  else s.setCore core { s.core core with recordQueue := (s.core core).recordQueue ++ [q] }

/-- The state after the records of a core that wait go on, up to the first that is sent or walks. -/
def State.nextRecords (core : Nat) : Nat → State → State
  | 0, s => s
  | k + 1, s =>
    match (s.core core).recordQueue with
    | [] => s
    | q :: rest =>
      if s.recordOut core then s
      else
        let s := (s.setCore core { s.core core with recordQueue := rest }).writeRecord core q
        if (s.core core).recordQueue.length ≤ rest.length then State.nextRecords core k s else s

/-- The state after the records of a core that wait go on. -/
def State.drainRecords (s : State) (core : Nat) : State := State.nextRecords core (s.core core).recordQueue.length s

/-- The state after a record that was sent is known to be written: it counts (R356). -/
def State.recordWritten (s : State) (core : Nat) : State :=
  (s.setCore core { s.core core with records := (s.core core).records + 1 }).drainRecords core

/-! ## Jobs (R46, R47) -/

/-- The index of the valid job table entry of a job. -/
def State.jobIndex (s : State) (job : Word) : Option Nat := (s.jobs.find? fun e => e.2.valid && e.2.job == job).map (·.1)

/-- The state with a job table entry changed. -/
def State.modJob (s : State) (i : Nat) (f : JobEntry → JobEntry) : State := { s with jobs := Assoc.insert s.jobs i (f (s.jobEntry i)) }

/-- Whether n further threads of an entry keep within its LIMIT. -/
def JobEntry.allows (e : JobEntry) (n : Nat) : Bool := e.limit == 0 || decide (e.live.toNat + n ≤ e.limit.toNat)

/-- The state with n threads counted in a job's LIVE. -/
def State.liveUp (s : State) (job : Word) (n : Nat) : State :=
  match s.jobIndex job with
  | some i => s.modJob i fun e => { e with live := e.live + BitVec.ofNat 32 n }
  | none => s

/-- The state with n threads taken off a job's LIVE; at zero the completion counter falls due (R47). -/
def State.liveDown (s : State) (job : Word) (n : Nat) : State :=
  match s.jobIndex job with
  | some i =>
    let e := s.jobEntry i
    let live := BitVec.ofNat 32 (e.live.toNat - n)
    let s := s.modJob i fun e => { e with live := live }
    if live = 0 ∧ e.live ≠ 0 ∧ e.counter ≠ 0 then
      let c : Completion := { job := job, counter := e.counter.toNat, key := e.ckey.toNat }
      { s with completions := s.completions ++ [c] }.notice (s.cycle + 1) .jobCompletion { word := job }
    else s
  | none => s

/-! ## Contexts and names (R26, R57) -/

/-- Whether a context is free: no thread, no stub, not reserved (R293). -/
def Thread.isFree (t : Thread) : Bool := t.st == .free && t.stubFor.isNone && !t.reserved

/-- The lowest free context of a core. -/
def State.freeCtx (s : State) (core : Nat) : Option Nat :=
  (List.range (Config.contextsOf core)).find? fun x => (s.thread core x).isFree

/-- How many contexts of a core are free. -/
def State.freeCount (s : State) (core : Nat) : Nat :=
  ((List.range (Config.contextsOf core)).filter fun x => (s.thread core x).isFree).length

/-- Whether a core's tile is out of service for its contexts (R367). -/
def State.coreSaved (s : State) (core : Nat) : Bool :=
  decide (core < 640) && (match (s.tile (tileOf core)).state with | .saving | .saved | .restoring | .discarding => true | _ => false)

/-- The lowest free spill slot of a die. -/
def State.freeSlot (s : State) (die : Nat) : Option Nat :=
  let used := (s.die die).slots
  (List.range (used.length + 1)).find? fun i => decide (i < Config.spillSlots) && (Assoc.look used i).isNone

/-- How many spill slots of a die are free. -/
def State.slotsLeft (s : State) (die : Nat) : Nat := Config.spillSlots - (s.die die).slots.length

/-- A name of a context number of a core, and the state with the number's generation counter raised (R26). -/
def State.takeName (s : State) (core ctx : Nat) : Name × State :=
  let c := s.core core
  let g := Assoc.getD c.gens ctx 0
  (mkName (endpoint s.pkg core) ctx g, s.setCore core { c with gens := Assoc.insert c.gens ctx (g + 1) })

/-- Contexts that a core's handler reads hold reserved, or will, once granted: the counted ones are granted (R293). -/
def State.reservedBy (s : State) (core : Nat) : Nat :=
  s.reads.foldl (fun n r =>
    if r.2.core = core ∧ r.2.state ≠ .reserving ∧ !r.2.saved then n + (r.2.desc.getD 1 0).toNat % 128 else n) 0

/-- The head of a core's reservation queue, where it gathers contexts: both caps leave room for its grant (R293). -/
def State.gathering (s : State) (core : Nat) : Option Nat :=
  match (s.core core).resQueue with
  | [] => none
  | r :: _ =>
    match Assoc.look s.reads r with
    | some h =>
      if s.reservedBy core + (h.desc.getD 1 0).toNat % 128 ≤ (if core < 640 then 192 else 48) ∧ (s.core core).granted < 16 then some r
      else none
    | none => none

/-- Create a thread for a core (R26, R57): in a free context, or in the spill queue where no context is free or threads wait there already; none
where it needs a spill slot and none is free (R58).  `made` gives the thread its name. -/
def State.create (s : State) (core : Nat) (t : Thread) : Option (Name × State) :=
  let c := s.core core
  match (if c.spillQueue.isEmpty && !s.coreSaved core && (s.gathering core).isNone then s.freeCtx core else none) with
  | some x =>
    let (n, s) := s.takeName core x
    some (n, s.setThread core x ({ t with tid := n.setWidth 64 }.toReady s.cycle))
  | none =>
    let d := spillDie core
    match s.freeSlot d with
    | none => none
    | some i =>
      let p := c.namePtr
      let (n, s) := s.takeName core p
      let s := s.setCore core { s.core core with namePtr := (p + 1) % Config.contextsOf core }
      let t := { t with tid := n.setWidth 64, st := .spilled, readyTime := s.cycle }
      let s := s.setDie d { s.die d with slots := Assoc.insert (s.die d).slots i { core := core, thr := t } }
      some (n, s.enqueue core n)

/-- Whether a core has room for n further threads, in contexts and spill slots together (R44). -/
def State.roomFor (s : State) (core n : Nat) : Bool :=
  let free := if (s.core core).spillQueue.isEmpty && !s.coreSaved core && (s.gathering core).isNone then s.freeCount core else 0
  decide (n ≤ free + s.slotsLeft (spillDie core))

/-- A new thread with an identity (R43, R196): everything else as R43 gives it. -/
def newThread (who : Identity) (pc g1 g2 g3 g4 : Dword) : Thread :=
  { pc := pc
    g := ((((Vector.replicate 32 0).set 1 g1).set 2 g2).set 3 g3).set 4 g4
    job := who.job.setWidth 64, prio := BitVec.ofNat 64 who.prio, auth := who.auth, troot := who.troot, faultrec := who.faultrec }

/-- The identity that a thread gives the threads it creates. -/
def Thread.identity (t : Thread) : Identity :=
  { job := t.job.setWidth 32, prio := t.prio.toNat % 4, auth := t.auth, troot := t.troot, faultrec := t.faultrec }

/-! ## Waves (R37 to R40, R310) -/

/-- The address of a wave control block. -/
def wcbAddr (core idx : Nat) : Nat := sysBase core + 64 * idx

/-- The address of the block of a thread's wave; none where it belongs to no wave (R38). -/
def Thread.wave (t : Thread) : Option Nat :=
  if t.wid.toNat % 0x100000000 = 0xFFFFFFFF ∨ t.wavePkg.isSome then none else some (wcbAddr t.waveCore (t.wid.toNat % 256))

/-- The package and the global address of the block of the thread's wave, where that is another package. -/
def Thread.waveAfar (t : Thread) : Option (Nat × Nat) :=
  if t.wid.toNat % 0x100000000 = 0xFFFFFFFF then none
  else t.wavePkg.map fun pkg => (pkg, gpa pkg (wcbAddr t.waveCore (t.wid.toNat % 256)))

/-- The state with an update sent to the block of a thread's wave on another package. -/
def State.tellWave (s : State) (core : Nat) (t : Thread) (op : WaveOp Thread) : State :=
  match t.waveAfar with
  | some (pkg, a) => s.send 234 pkg (s.originOf core t) (.wave op a)
  | none => s

/-- A dword of a block. -/
def State.wcb (s : State) (a i : Nat) : Nat := s.val (a + 8 * i) 8 0

/-- The state with a dword of a block updated by the scratchpad ALU. -/
def State.setWcb (s : State) (a i v : Nat) : State := s.applyVal none (a + 8 * i) 8 0 v

/-- The state with a field of a block updated. -/
def State.wcbField (s : State) (a i lo n x : Nat) : State := s.setWcb a i (putField (s.wcb a i) lo n x)

/-- LIVE, SIZE, CSTAT, VOTED of a block. -/
def State.waveLive (s : State) (a : Nat) : Nat := fieldOf (s.wcb a 0) 16 7
def State.waveSize (s : State) (a : Nat) : Nat := fieldOf (s.wcb a 0) 24 7
def State.cstat (s : State) (a : Nat) : Nat := fieldOf (s.wcb a 3) 62 2
def State.voted (s : State) (a : Nat) : Nat := fieldOf (s.wcb a 4) 16 7

/-- The address of a free block for a core's tile or scratch: the lowest. -/
def State.freeBlock (s : State) (core : Nat) : Option Nat :=
  ((List.range (if core < 640 then 256 else 64)).map (wcbAddr core)).find? fun a => !s.waves.contains a

/-- The state with a block taken and written at a wave's creation (R37, R310). -/
def State.initBlock (s : State) (a count : Nat) (counter troot : Dword) (job : Word) : State :=
  let s := { s with waves := s.waves ++ [a] }
  s.applyBytes none 0 (atAddrs a (dwordBytes
    [count * 0x1000000 + count * 0x10000, counter.toNat % 2 ^ 52,
     fieldOf troot.toNat 13 27 * 0x100000000 + job.toNat, 0, 0xB, 0, 0, 0]))

/-- The core that holds a block's tile or scratch, for its messages: the first of a tile. -/
def coreOfBlock (a : Nat) : Nat := match region a with | .tileScratch t _ => 4 * t | .chanScratch n _ => 640 + n | _ => 0

/-- The home gateway of a collective (R309). -/
def homeGateway (collid : Word) : Nat := collid.toNat % 32

/-- The cycles that a request between a core and a gateway takes (R314). -/
def gatewayDelay (core g : Nat) : Nat := if spillDie core = g / 8 then 30 else 55

/-- The contribution of a wave (R317). -/
def State.contribution (s : State) (a : Nat) : Flit :=
  let d4 := s.wcb a 4
  let d3 := s.wcb a 3
  { collid := BitVec.ofNat 32 d3, epoch := BitVec.ofNat 32 (d4 / 0x100000000), count := 1
    kindAll := fieldOf d4 5 1 == 1, orv := fieldOf d4 4 1 == 1, andv := fieldOf d4 3 1 == 1, mixed := fieldOf d4 6 1 == 1
    sender := s.pkg, member := fieldOf d3 32 16 }

/-- The test VOTED = LIVE of a block, made after either changes (R314 to R316, R322): a join request, a contribution or a leave request goes to the
home gateway. -/
def State.waveTest (s : State) (a : Nat) : State :=
  let core := coreOfBlock a
  let collid := BitVec.ofNat 32 (s.wcb a 3)
  let delay := gatewayDelay core (homeGateway collid)
  let live := s.waveLive a
  let started := fieldOf (s.wcb a 4) 2 1 == 1
  let sent := fieldOf (s.wcb a 4) 7 1 == 1
  let o : Origin := { pkg := s.pkg, core := core }
  match s.cstat a with
  | 1 => if s.voted a = live ∧ live ≠ 0 then s.post delay o (.collJoin a collid) else s
  | 2 =>
    let s := if s.voted a = live ∧ started ∧ !sent then (s.wcbField a 4 7 1 1).post delay o (.vote (s.contribution a)) else s
    if live = 0 then (s.wcbField a 3 62 2 3).post delay o (.collLeave a collid) else s
  | 3 => if s.voted a = live then s.post delay o (.collLeave a collid) else s
  | _ => s

/-- The state with sticky bits ORed where R39 puts them: into the block of the thread's wave, or into its job's FLAGSOR. -/
def State.flushFlags (s : State) (t : Thread) : State :=
  let f := t.flags.toNat % 64
  match t.wave with
  | some a => s.setWcb a 0 (s.wcb a 0 ||| f)
  | none =>
    if t.waveAfar.isSome then s
    else match s.jobIndex (t.job.setWidth 32) with
    | some i => s.modJob i fun e => { e with flagsor := e.flagsor ||| BitVec.ofNat 6 f }
    | none => s

/-- The state after a member of a wave has ended (R39, R40, R322): LIVE, and VOTED where it had voted, fall; at zero the wave ends. -/
def State.leaveWave (s : State) (core : Nat) (t : Thread) (a : Nat) : State :=
  let s := if t.voted ∧ 0 < s.voted a then s.wcbField a 4 16 7 (s.voted a - 1) else s
  let live := s.waveLive a - 1
  let s := s.wcbField a 0 16 7 live
  let s := s.waveTest a
  if live = 0 then
    let s := s.wcbField a 0 31 1 1
    let e : WaveEnd := { wcb := a, name := t.name, core := core, faultrec := t.faultrec, troot := t.troot, job := t.job.setWidth 32 }
    let s := { s with waveEnds := s.waveEnds ++ [e] }
    s.notice (s.cycle + 1) .waveEnd { a := a }
  else s

/-- The state after a member of a wave ends, wherever the wave's block lies (R39). -/
def State.leaveAny (s : State) (core : Nat) (t : Thread) : State :=
  match t.wave with
  | some a => s.leaveWave core t a
  | none => s.tellWave core t (.leave t)

/-! ## Deques (R50 to R52) -/

/-- The four dwords of the deque entry at a position. -/
def State.dequeEntry (s : State) (core pos : Nat) : List Nat :=
  (List.range 4).map fun i => s.val (dequeBase core + 32 * (pos % 256) + 8 * i) 8 0

/-- A core's deque, old end first. -/
def State.deque (s : State) (core : Nat) : List (List Nat) :=
  let c := s.core core
  (List.range c.dequeCount).map fun k => s.dequeEntry core (c.dequeTop + 256 - c.dequeCount + k)

/-- The state with an entry pushed at the new end of a core's deque, with the creator that it follows (R146). -/
def State.pushDeque (s : State) (core : Nat) (e : List Nat) (after : Option (Name × Nat)) : State :=
  let c := s.core core
  let s := s.applyBytes none 0 (atAddrs (dequeBase core + 32 * (c.dequeTop % 256)) (dwordBytes e))
  s.setCore core { s.core core with
    dequeTop := (c.dequeTop + 1) % 256, dequeCount := c.dequeCount + 1, dequeAfter := c.dequeAfter ++ [after] }

/-- The state with a core's deque holding a list, old end first.  R50 names no slot of an entry: DESIGN CHOICE (log 81), the entries lie from slot 0
on, the oldest first, and are written anew at each pop, steal and cancel. -/
def State.setDeque (s : State) (core : Nat) (es : List (List Nat × Option (Name × Nat))) : State :=
  let s := s.setCore core { s.core core with dequeTop := 0, dequeCount := 0, dequeAfter := [] }
  es.foldl (fun s e => s.pushDeque core e.1 e.2) s

/-- A core's deque with the creators that its entries follow, old end first. -/
def State.dequeFull (s : State) (core : Nat) : List (List Nat × Option (Name × Nat)) :=
  let es := s.deque core
  (List.range es.length).map fun i => (es.getD i [], (s.core core).dequeAfter.getD i none)

/-- The address of an identity entry. -/
def identAddr (core i : Nat) : Nat := identBase core + 64 * i

/-- The reference count of an identity entry. -/
def State.identRefs (s : State) (core i : Nat) : Nat := s.val (identAddr core i) 8 0 / 2 ^ 48

/-- The dwords of an identity entry without its count. -/
def Identity.dwords (w : Identity) : List Nat :=
  [w.job.toNat + w.prio % 4 * 0x100000000, w.auth.toNat, w.troot.toNat, w.faultrec.toNat, w.key % 4096]

/-- The identity of an entry. -/
def State.ident (s : State) (core i : Nat) : Identity :=
  let d := fun k => s.val (identAddr core i + 8 * k) 8 0
  { job := BitVec.ofNat 32 (d 0), prio := fieldOf (d 0) 32 2, auth := BitVec.ofNat 64 (d 1), troot := BitVec.ofNat 64 (d 2)
    faultrec := BitVec.ofNat 64 (d 3), key := fieldOf (d 4) 0 12 }

/-- The identity entry that an identity uses: a match in use, or the lowest free one (R51). -/
def State.identFor (s : State) (core : Nat) (w : Identity) : Option Nat :=
  match (List.range 16).find? fun i => s.identRefs core i != 0 && s.ident core i == w with
  | some i => some i
  | none => (List.range 16).find? fun i => s.identRefs core i == 0

/-- The state with an identity entry written with a count. -/
def State.setIdent (s : State) (core i : Nat) (w : Identity) (refs : Nat) : State :=
  match w.dwords with
  | d0 :: ds => s.applyBytes none 0 (atAddrs (identAddr core i) (dwordBytes ((d0 + refs * 2 ^ 48) :: ds ++ [0, 0, 0])))
  | [] => s

/-- The state with the count of an identity entry lowered by one. -/
def State.dropIdent (s : State) (core i : Nat) : State := s.setIdent core i (s.ident core i) (s.identRefs core i - 1)

/-- The four dwords of a deque entry (R50). -/
def TaskEntry.dwords (e : TaskEntry) (ident : Nat) : List Nat :=
  [e.entry.toNat % 2 ^ 52 + ident % 16 * 2 ^ 52 + (if e.remote then 2 ^ 56 else 0), e.g1.toNat, e.g2.toNat,
   e.g3.toNat + e.g4.toNat * 0x100000000]

/-- Push a task on a core's deque (R51); none where the deque or the identity set is full. -/
def State.pushTask (s : State) (core : Nat) (e : TaskEntry) (w : Identity) (after : Option (Name × Nat)) : Option State :=
  if 256 ≤ (s.core core).dequeCount then none
  else
    match s.identFor core w with
    | none => none
    | some i => some ((s.setIdent core i w (s.identRefs core i + 1)).pushDeque core (e.dwords i) after)

/-- The thread that a task becomes (R196). -/
def taskThread (d : List Nat) (w : Identity) : Thread :=
  let d0 := d.getD 0 0
  let t := newThread w (BitVec.ofNat 64 (d0 % 2 ^ 52)) (BitVec.ofNat 64 (d.getD 1 0)) (BitVec.ofNat 64 (d.getD 2 0))
    (BitVec.ofNat 64 (d.getD 3 0 % 0x100000000)) (BitVec.ofNat 64 (d.getD 3 0 / 0x100000000))
  if fieldOf d0 56 1 = 1 then { t with replyAddr := BitVec.ofNat 64 (d.getD 2 0), replyKey := w.key } else t

/-- The state without the queued tasks of a job on a core (R48). -/
def State.dropTasks (s : State) (core : Nat) (job : Word) : State :=
  let es := s.dequeFull core
  let ours := fun (e : List Nat × Option (Name × Nat)) => (s.ident core (fieldOf (e.1.getD 0 0) 52 4)).job == job
  let gone := es.filter ours
  if gone.isEmpty then s
  else
    let s' := gone.foldl (fun s e => s.dropIdent core (fieldOf (e.1.getD 0 0) 52 4)) s
    s'.setDeque core (es.filter fun e => !ours e)

/-! ## The end of a thread (R203) -/

/-- The state with the operand slots of a name released (R79). -/
def State.releaseSlots (s : State) (n : Name) : State :=
  { s with tiles := Assoc.mapVals (fun _ t =>
      { t with slots := Assoc.mapVals (fun _ o => if o.owner = some n then { o with owner := none, clearing := none } else o) t.slots }) s.tiles }

/-- The state with the watches of a name withdrawn (R228). -/
def State.dropWatches (s : State) (n : Name) : State := { s with watches := s.watches.filter fun r => r.name != n }

/-! ### Names (R62, R348) -/

/-- The compute die whose name directory serves a name (R348). -/
def nameDie (n : Name) : Nat :=
  let d := nameEp n / 256 % 16
  if d < 4 then d else (d - 4) / 2

/-- Where a stub, a directory entry, or the trail of a thread that left this package says that a name stands, if it is another package. -/
def State.wentTo (s : State) (n : Name) : Option Nat :=
  let stubs := s.cores.flatMap fun c => c.2.ctxs.filterMap fun x => x.2.stubFor
  let dirs := s.dies.flatMap fun d => d.2.names
  match (stubs ++ dirs).find? fun e => e.1 == n && endpointPkg e.2.1 != s.pkg with
  | some e => some (endpointPkg e.2.1)
  | none => (s.trail.find? fun e => e.1 == n).map (·.2)

/-- The state with news of a thread sent to another package. -/
def State.tell (s : State) (core pkg : Nat) (n : Name) (x : News) : State :=
  if pkg = s.pkg then s else s.send 234 pkg { pkg := s.pkg, core := core } (.news n x)

/-- The state after the word of a store under way is marked poisoned at its home, wherever its page has moved (R393, R427). -/
def State.poisonAt (s : State) (core pa : Nat) : State :=
  let x := if gpaPkg pa = s.pkg then (s.forwardsTo (gpaLocal pa)).getD pa else pa
  if gpaPkg x = s.pkg then s.markHome (gpaLocal x) else s.tell core (gpaPkg x) 0 (.poison (gpaLocal x))

/-- The state with one stub of a name free, on whatever package it is. -/
def State.freeStub (s : State) (n : Name) (u : StubRef) : State :=
  if endpointPkg u.ep ≠ s.pkg then s.tell (160 * nameDie n) (endpointPkg u.ep) n (.freed u)
  else
    match endpointCore u.ep with
    | some c => if (s.thread c u.ctx).stubFor.any (fun e => e.1 == n) then s.setThread c u.ctx Thread.idle else s
    | none => s

/-- The state with the name directory of a die filled with the threads that wait for an entry, while it has room; their stubs are free then (R348). -/
def State.fillNames (s : State) (die : Nat) : State :=
  let d := s.die die
  let room := Config.nameEntries - d.names.length
  let now := d.anchors.take room
  let s := s.setDie die { d with names := now.map (fun e => (e.1, e.2.1, e.2.2.1)) ++ d.names, anchors := d.anchors.drop room }
  now.foldl (fun s e => e.2.2.2.foldl (fun s u => s.freeStub e.1 u) s) s

/-- The state without a name's directory entry, and without its place in the queue for one. -/
def State.dropName (s : State) (n : Name) : State :=
  let i := nameDie n
  let d := s.die i
  if !(d.names.any (fun e => e.1 == n)) && !(d.anchors.any (fun e => e.1 == n)) then s
  else
    let stubs := (d.anchors.filter fun e => e.1 == n).flatMap fun e => e.2.2.2
    let s := s.setDie i { d with names := d.names.filter fun e => e.1 != n, anchors := d.anchors.filter fun e => e.1 != n }
    (stubs.foldl (fun s u => s.freeStub n u) s).fillNames i

/-- The state after a thread of a name of this package has anchored (R64, R348): its stub is free and its directory entry made, where the directory has
room, or once an entry frees; a thread that stands in the context of its name needs none. -/
def State.anchored (s : State) (n : Name) (ep ctx : Nat) (stub : Option StubRef) : State :=
  let i := nameDie n
  let d := s.die i
  let own := nameEp n == ep && nameCtx n == ctx
  let had := !own && d.names.any fun e => e.1 == n
  let stubs := stub.toList ++ (d.anchors.filter fun e => e.1 == n).flatMap fun e => e.2.2.2
  let s := s.setDie i { d with names := d.names.filter fun e => e.1 != n, anchors := d.anchors.filter fun e => e.1 != n }
  if had then stubs.foldl (fun s u => s.freeStub n u) (s.setDie i { s.die i with names := (n, ep, ctx) :: (s.die i).names })
  else if own then (stubs.foldl (fun s u => s.freeStub n u) s).fillNames i
  else
    let s := s.fillNames i
    (s.setDie i { s.die i with anchors := (s.die i).anchors ++ [(n, ep, ctx, stubs)] }).fillNames i

/-- The state without the origin stub and the directory entry of a name (R62, R348). -/
def State.dropStub (s : State) (n : Name) : State :=
  ({ s with
    cores := Assoc.mapVals (fun _ c =>
      { c with ctxs := Assoc.mapVals (fun _ t =>
          match t.stubFor with
          | some (m, _, _) => if m = n then Thread.idle else t
          | none => t) c.ctxs }) s.cores }).dropName n

/-- The state without anything that keeps the name of a thread that has ended: its stubs and its directory entry, on whatever package they are (R62,
R348). -/
def State.forget (s : State) (core : Nat) (t : Thread) : State :=
  let pkgs := (nameEp t.name :: (t.stub.map (·.ep)).toList).map endpointPkg
  pkgs.eraseDups.foldl (fun s pkg => s.tell core pkg t.name .ended) (s.dropStub t.name)

/-- The state without the thread at a place, its context FREE, or back with its handler read (R299), or its slot free. -/
def State.vacate (s : State) (p : Place) : State :=
  match p with
  | .ctx c x =>
    let t := s.thread c x
    match (if t.burst then t.read else none) with
    | some r =>
      let s := s.setThread c x { reserved := true, read := some r }
      match Assoc.look s.reads r with
      | some h =>
        let s := { s with reads := Assoc.insert s.reads r { h with opened := h.opened - 1 } }
        s.notice (s.cycle + 1) .burstRequest { a := r }
      | none => s
    | none => s.setThread c x Thread.idle
  | .slot d i =>
    let n := (s.at p).name
    let core := s.coreAt p
    let s := s.setDie d { s.die d with slots := Assoc.erase (s.die d).slots i }
    s.setCore core { s.core core with spillQueue := (s.core core).spillQueue.filter (· != n) }

/-- The last lines of END, after every acknowledgement (R203); a TSTOP that waits for the thread completes. -/
def State.finishEnd (s : State) (p : Place) : State :=
  let t := s.at p
  let core := s.coreAt p
  let s := ((s.releaseSlots t.name).dropWatches t.name).forget core t
  let s := (s.flushFlags t).leaveAny core t
  let s := if t.burst then s else s.liveDown (t.job.setWidth 32) 1
  (s.vacate p).notice (s.cycle + 1) .stopComplete { name := t.name }

/-- The state after a thread begins its end, naming a join counter or none: it issues no more, its held stores are discarded, and its gathered
stores are posted. -/
def State.beginEnd (s : State) (p : Place) (counter : Option (Nat × Nat)) : State :=
  let t := s.at p
  let core := s.coreAt p
  let s := s.setAt p { t.unbound with st := .waiting, wait := {}, pending := none, nanStop := none, bank := none, deadline := 0
                                      retiring := false, spSleep := false, stopping := false, startAfter := false, ending := some counter, ownEnd := false }
  let s := s.setCore core { s.core core with spillQueue := (s.core core).spillQueue.filter (· != t.name) }
  s.postOf t.name

/-! ## What an acknowledgement settles -/

/-- CLOSED of XBATCH (R283). -/
def Thread.closed (t : Thread) : Nat := t.xbatch.toNat % 16

/-- Whether a condition on a thread's own counts holds. -/
def WaitCond.met (c : WaitCond) (t : Thread) : Bool :=
  match c with
  | .released => t.storeAck == 0 && t.redpend == 0
  | .redRoom => decide (t.redpend < Config.redCap)
  | .redZero => t.redpend == 0
  | .storeRoom n => decide (t.storeAck + n ≤ Config.storeCap)
  | .batches n => decide (t.closed ≤ n)
  | .netRoom => false
  | .table => false
  | .timerRoom => false
  | .engineRoom => false
  | .copyRoom => false
  | .block => false
  | .walk => false
  | .fetch => false
  | .verdict => false
  | .event => false

/-- Whether a wait completes before a stop takes effect (R360): a load, an AMO, a release wait, a migration, an instruction fetch or a walk. -/
def Wait.beforeStop (w : Wait) : Bool :=
  match w.act with
  | .data .. => true
  | .again .released => true
  | .again .walk => true
  | .again .fetch => true
  | .resume => true
  | _ => w.k == 13

/-- Whether a stop of a thread is complete (R360): no access in flight, no bank, and everything acknowledged. -/
def Thread.stopDone (t : Thread) : Bool :=
  !(t.st == .waiting && t.wait.beforeStop) && t.bank.isNone && t.storeAck == 0 && t.redpend == 0

/-- The state after the counts of a thread have changed: a wait on them ends, an end goes on, a fault record or the end of a stop falls due. -/
def State.settle (s : State) (n : Name) : State :=
  match s.whereIs n with
  | none => s
  | some p =>
    let t := s.at p
    let s :=
      match t.wait.act with
      | .again c => if c.met t then s.wakeAt p else s
      | _ => s
    let quiet := t.storeAck == 0 && t.redpend == 0
    match t.ending with
    | some (some (pa, key)) =>
      if quiet then
        let s := s.setAt p { s.at p with ending := some none, redpend := 1 }
        s.sendReduce { s.originOf (s.coreAt p) t with pc := t.pc, ea := t.wait.a } (.alu .add 4 0xFFFFFFFF) pa key false
      else s
    | some none => if quiet then s.finishEnd p else s
    | none =>
      let s := if t.pending.isSome && quiet then s.recordDue n else s
      if t.stopping && (s.at p).stopDone then s.notice (s.cycle + 1) .stopComplete { name := n } else s

/-- The state after an acknowledgement reaches a thread, wherever its context is (R213, R143). -/
def State.acknowledge (s : State) (n : Name) (store : Bool) : State :=
  (s.modNamed n fun t => if store then { t with storeAck := t.storeAck - 1 } else { t with redpend := t.redpend - 1 }).settle n

/-- The state without the pending timers of a job on a core (R232). -/
def State.dropTimers (s : State) (core : Nat) (job : Word) : State :=
  (s.setCore core { s.core core with timers := (s.core core).timers.filter fun t => t.2.job != job || t.2.sent.isSome }).wakeWhere core fun t =>
    t.wait.act == .again .timerRoom

/-- The state after a handler read of a cancelled job (R306): one that still reserves is gone and its contexts are FREE; a granted one requests no
more. -/
def State.cancelRead (s : State) (r : Nat) (job : Word) : State :=
  match Assoc.look s.reads r with
  | none => s
  | some h =>
    if h.who.job ≠ job then s
    else if h.state = .reserving then
      let c := s.core h.core
      let s := s.setCore h.core
        { c with resQueue := c.resQueue.filter (· != r)
                 ctxs := Assoc.mapVals (fun _ t => if t.reserved && t.st == .free && t.read == some r then Thread.idle else t) c.ctxs }
      { s with reads := Assoc.erase s.reads r }
    else
      let s := { s with reads := Assoc.insert s.reads r { h with state := .draining, cancelled := true } }
      s.notice (s.cycle + 1) .hreadComplete { a := r }

/-- The migration of a thread to another package that is under way: its request number, and whether it has left. -/
def State.leavingPkg (s : State) (n : Name) : Option (Nat × Bool) :=
  s.flight.findSome? fun m =>
    match m.body with
    | .migrate t _ _ => if t.name == n && m.origin.pkg == s.pkg && m.dst != s.pkg then some (m.id, m.sent != 0) else none
    | _ => none

/-- The state after the thread at a place ends because its job is cancelled (R48); one that is on its way to another package ends there, where it arrives, and one
whose migration has not left stays. -/
def State.cancelAt (s : State) (p : Place) : State :=
  let t := s.at p
  if t.ending.isSome then s.setAt p { t with ownEnd := false }
  else
    match s.leavingPkg t.name with
    | some (id, sent) => if sent then s else (s.drop id).beginEnd p none
    | none => s.beginEnd p none

/-- The state after every thread of a job ends (R48): tasks leave the deques, timers and waiting reservations of the job go. -/
def State.cancelJob (s : State) (job : Word) : State :=
  match s.jobIndex job with
  | none => s
  | some i =>
    if (s.jobEntry i).cancelled then s
    else
      let s := s.modJob i fun e => { e with cancelled := true }
      let s := s.places.foldl (fun s p =>
        let t := s.at p
        if t.st ≠ .free ∧ t.stubFor.isNone ∧ t.job.setWidth 32 = job then s.cancelAt p else s) s
      let s := (s.cores.map (·.1)).foldl (fun s c => s.dropTasks c job) s
      let s := (s.cores.map (·.1)).foldl (fun s c => s.dropTimers c job) s
      let s := (s.reads.map (·.1)).foldl (fun s r => s.cancelRead r job) s
      let s := s.launches.foldl (fun s l => if l.who.job = job then s.notice (s.cycle + 1) .waveCreate { a := l.id } else s) s
      let names := s.places.filterMap fun p => if (s.at p).ending.isSome then some (s.at p).name else none
      names.foldl (fun s n => s.settle n) s

end Sys2Proof.Machine
end

