-- ==== Sys2Proof/Machine/Special.lean ====
section
/-!
DEFINITION. Prefixes (R169, R173, R208) and the special-register instructions (R158, R159, R207).
-/

namespace Sys2Proof.Machine

/-! ## Prefixes -/

/-- PFXST with a payload pending, over what its place held: the payload and the pending bit. -/
def pendPrefix (pfxst : Dword) (kind payload : Nat) : Dword :=
  match kind with
  | 0 => (pfxst &&& ~~~0xFFFFFF#64) ||| BitVec.ofNat 64 (payload % 2 ^ 24 + 2 ^ 37)
  | 1 => (pfxst &&& ~~~0xF000000#64) ||| BitVec.ofNat 64 (payload % 2 ^ 4 * 2 ^ 24 + 2 ^ 38)
  | _ => (pfxst &&& ~~~0x1FF0000000#64) ||| BitVec.ofNat 64 (payload % 2 ^ 9 * 2 ^ 28 + 2 ^ 39)

/-- Whether a prefix of a kind is pending. -/
def Thread.prefixPending (t : Thread) (kind : Nat) : Bool :=
  match kind with | 0 => t.pimm | 1 => t.pmod | _ => t.phint

/-- Issue a prefix: a repeated kind, or the last word of a loop body, gives PREFIX (R169, R173); otherwise it is pending, at its address.
A word that is both names the repeated prefix in word 4: DESIGN CHOICE (log 86).  Payload bits that PFXST has no place for are kept beside it until
the use that refuses them: DESIGN CHOICE (log 85). -/
def State.prefixWord (s : State) (kind : Nat) (payload : BitVec 24) : State :=
  let t := s.cur
  if t.prefixPending kind then s.prefixFault ((t.pfxAt[kind]?.getD none).getD 0)
  else if t.atLoopEnd then s.prefixFault t.pc
  else
    s.setCur { t with
      pfxst := pendPrefix t.pfxst kind payload.toNat
      pfxAt := t.pfxAt.setIfInBounds kind (some t.pc)
      modBad := t.modBad || (kind == 1 && payload.toNat / 16 != 0)
      hintBad := t.hintBad || (kind == 2 && payload.toNat / 512 != 0)
      pc := t.pc + 4 }

def execPfxImm (p : BitVec 24) (s : State) : Host.Outcome State Fault Refusal := .next (s.prefixWord 0 p)
def execPfxMod (p : BitVec 24) (s : State) : Host.Outcome State Fault Refusal := .next (s.prefixWord 1 p)
def execPfxHint (p : BitVec 24) (s : State) : Host.Outcome State Fault Refusal := .next (s.prefixWord 2 p)

/-! ## Special registers (R158) -/

/-- A special register of a thread; none for a reserved number (R159). -/
def Thread.special (t : Thread) (cycle n : Nat) : Option Dword :=
  match n with
  | 0x000 => some t.tid | 0x001 => some t.wid | 0x002 => some t.job | 0x003 => some t.flags | 0x004 => some t.faultrec
  | 0x005 => some t.auth | 0x006 => some t.troot | 0x007 => some t.prio | 0x008 => some (BitVec.ofNat 64 cycle)
  | 0x009 => some t.nanctl | 0x00A => some t.cabort | 0x00B => some t.ctimeout | 0x00C => some t.cmem
  | 0x010 => some t.bx | 0x011 => some t.by' | 0x012 => some t.bseq | 0x013 => some t.blen
  | 0x014 => some (BitVec.ofNat 64 t.redpend) | 0x015 => some t.xbatch | 0x016 => some t.pfxst | 0x017 => some t.loopst
  | 0x018 => some t.loopb[0] | 0x019 => some t.loopc[0] | 0x01A => some t.loopb[1] | 0x01B => some t.loopc[1]
  | 0x01C => some t.loopb[2] | 0x01D => some t.loopc[2]
  | _ => none

/-- A thread after its own write of a special register; none where R158 refuses the write.  Its effective priority follows PRIO (R33). -/
def Thread.writeOwn (t : Thread) (n : Nat) (x : Dword) : Option Thread :=
  match n with
  | 0x003 => if flagsOk x then some { t with flags := x } else none
  | 0x007 => if x.toNat < 4 ∧ t.prio.toNat ≤ x.toNat then some { t with prio := x, effPrio := x.toNat } else none
  | 0x009 => if x.toNat < 2 then some { t with nanctl := x } else none
  | 0x00A => if x.toNat < 2 ^ 52 ∧ x.toNat % 4 = 0 then some { t with cabort := x } else none
  | 0x00B => if x.toNat < 2 ^ 32 then some { t with ctimeout := x } else none
  | _ => none

def execSrd (d : GReg) (n : BitVec 10) (s : State) : Host.Outcome State Fault Refusal :=
  issue {} [d] s fun s =>
    match s.cur.special s.cycle n.toNat with
    | some x => s.result d x
    | none => s.raise 0x08 0 (n.setWidth 64) 0

/-- Whether a write of a special register waits in run-ahead: PRIO, which R319 names. -/
def waitsAhead (n : BitVec 10) : Bool := n == 0x007

/-- Issue a write of a special register with a value computed from the old one (R159, R207). -/
def writeSpecial (a : GReg) (n : BitVec 10) (s : State) (f : Dword → Dword → Dword) : Host.Outcome State Fault Refusal :=
  issue { ahead := !waitsAhead n } [a] s fun s =>
    match s.cur.special s.cycle n.toNat with
    | some x =>
      match s.cur.writeOwn n.toNat (f x (s.rg a)) with
      | some t => s.setCur t.retire
      | none => s.raise 0x08 0 (n.setWidth 64) 0
    | none => s.raise 0x08 0 (n.setWidth 64) 0

def execSwr (a : GReg) (n : BitVec 10) (s : State) : Host.Outcome State Fault Refusal := writeSpecial a n s fun _ y => y

def execSrclr (a : GReg) (n : BitVec 10) (s : State) : Host.Outcome State Fault Refusal := writeSpecial a n s fun x y => x &&& ~~~y

/-- FLUSHF (R39, R159): the sticky bits go to the wave or the job, FLAGS stays. -/
def flushNow (s : State) : Host.Outcome State Fault Refusal :=
  issue { ahead := false } [] s fun s =>
    let t := s.cur
    match t.waveAfar with
    | none => (s.flushFlags t).retire
    | some (pkg, _) =>
      if Config.redCap ≤ t.redpend then s.stallFor 5 0 0 .redRoom
      else s.viaNet pkg 0 fun s =>
        (s.modCur fun t => Thread.retire { t with redpend := t.redpend + 1 }).tellWave s.focus.core t (.flags (t.flags.setWidth 6))

/-- SRSET; the form that names FLAGS and g0 is FLUSHF (R159). -/
def execSrset (a : GReg) (n : BitVec 10) (s : State) : Host.Outcome State Fault Refusal :=
  if a = 0 ∧ n = 0x003 then flushNow s else writeSpecial a n s fun x y => x ||| y

def execFlushf (s : State) : Host.Outcome State Fault Refusal := flushNow s

end Sys2Proof.Machine
end

