-- ==== Sys2Proof/Machine/Image.lean ====
section
/-!
DEFINITION. The context image (R354) as TREAD reads it and as spill slots and save images hold it, and the contexts of a saved tile, which live in
its save image (R365, R369, R371).
-/

namespace Sys2Proof.Machine

/-! ## Its words (R354) -/

/-- RES of a context image. -/
def Thread.res (t : Thread) : Nat :=
  bit t.roaming + at' 1 (bit t.bank.isSome) + at' 2 (bit t.burst) + at' 3 (bit (t.st == .held)) + at' 4 (t.pos.getD 0 % 16) +
  at' 8 (bit t.admitted) + at' 9 (bit t.reserved)

/-- STUB of a context image. -/
def Thread.stubWord (t : Thread) : Nat := match t.stub with | some u => at' 31 u.ctx + u.ep | none => 0

/-- Dword i of a thread's context image. -/
def Thread.imageWord (t : Thread) (cycle i : Nat) : Dword :=
  let t := t.looped
  if i < 0x20 then t.rg (Fin.ofNat 32 i)
  else if i < 0xA0 then (t.v[(i - 0x20) / 8]?.getD 0).extractLsb' (64 * ((i - 0x20) % 8)) 64
  else if i < 0xA8 then t.k[i - 0xA0]?.getD 0
  else if i < 0xB0 then t.b[i - 0xA8]?.getD 0
  else if 0xB2 ≤ i ∧ i < 0xB6 then t.w[i - 0xB2]?.getD 0
  else if 0xC0 ≤ i then (t.special cycle (i - 0xC0)).getD 0
  else
    match i with
    | 0xB0 => t.pc
    | 0xB1 => t.st.code.setWidth 64
    | 0xB6 => t.replyAddr
    | 0xB7 => BitVec.ofNat 64 t.res
    | 0xB8 => BitVec.ofNat 64 t.readyTime
    | 0xB9 => BitVec.ofNat 64 t.wait.k
    | 0xBA => t.wait.a
    | 0xBB => t.wait.v
    | 0xBC => BitVec.ofNat 64 t.deadline
    | 0xBD => BitVec.ofNat 64 t.stubWord
    | 0xBE => BitVec.ofNat 64 t.replyKey
    | _ => 0

/-! ## A thread from its image (R372) -/

/-- The registers of an image in a thread. -/
def Thread.withImage (t : Thread) (w : Nat → Dword) : Thread :=
  { t with
    g := Vector.ofFn fun (i : Fin 32) => if i.val = 0 then t.g[i] else w i.val
    v := Vector.ofFn fun (i : Fin 16) =>
      BitVec.ofNat 512 ((List.range 8).foldl (fun n j => n + (w (0x20 + 8 * i.val + j)).toNat * 2 ^ (64 * j)) 0)
    k := Vector.ofFn fun (i : Fin 8) => w (0xA0 + i.val)
    b := Vector.ofFn fun (i : Fin 8) => w (0xA8 + i.val)
    w := Vector.ofFn fun (i : Fin 4) => w (0xB2 + i.val)
    pc := w 0xB0, replyAddr := w 0xB6, replyKey := (w 0xBE).toNat % 4096, readyTime := (w 0xB8).toNat, deadline := (w 0xBC).toNat
    roaming := (w 0xB7).getLsbD 0, burst := (w 0xB7).getLsbD 2, admitted := (w 0xB7).getLsbD 8
    stub := if w 0xBD = 0 then none else some { ep := (w 0xBD).toNat % 2 ^ 31, ctx := (w 0xBD).toNat / 2 ^ 31 % 256 }
    tid := w 0xC0, wid := w 0xC1, job := w 0xC2, flags := w 0xC3, faultrec := w 0xC4, auth := w 0xC5, troot := w 0xC6, prio := w 0xC7
    nanctl := w 0xC9, cabort := w 0xCA, ctimeout := w 0xCB, cmem := w 0xCC
    bx := w 0xD0, by' := w 0xD1, bseq := w 0xD2, blen := w 0xD3, redpend := (w 0xD4).toNat, xbatch := w 0xD5, pfxst := w 0xD6
    loopst := w 0xD7
    loopb := Vector.ofFn fun (i : Fin 3) => w (0xD8 + 2 * i.val)
    loopc := Vector.ofFn fun (i : Fin 3) => w (0xD9 + 2 * i.val)
    retiring := false }

/-- The state and the wait of an image in a thread.  Where the image names the wait that the context recorded, that one stands; otherwise a sleeper
sleeps on, and any other waiter issues its instruction again. -/
def Thread.withState (t : Thread) (w : Nat → Dword) : Thread :=
  let st := TState.ofCode ((w 0xB1).toNat % 16)
  let k := (w 0xB9).toNat
  let act : WaitAct :=
    if k = t.wait.k ∧ w 0xBA = t.wait.a ∧ w 0xBB = t.wait.v then t.wait.act else if k = 9 ∧ w 0xBA = 0 then .sleep else .none
  let asleep := k = 9 ∧ act ≠ .none
  let prior : TState := if st ≠ .stopped ∧ st ≠ .held then .free else if asleep then .sleeping else if act = .none then .ready else .waiting
  { t with
    st := st
    prior := if t.st = st ∧ act = t.wait.act then t.prior else prior
    pos := if st = .held then some ((w 0xB7).toNat / 16 % 16) else none
    wait := { t.wait with k := k, a := w 0xBA, v := w 0xBB, act := act } }

/-- The thread of an image, over what its context held. -/
def Thread.ofImage (old : Thread) (w : Nat → Dword) : Thread :=
  let base : Thread := if old.st ≠ .free ∧ old.tid = w 0xC0 then old else {}
  if (w 0xB1).toNat % 16 = 0 then { reserved := (w 0xB7).getLsbD 9, read := if (w 0xB7).getLsbD 9 then old.read else none, stubFor := old.stubFor }
  else (base.withImage w).withState w

/-! ## The contexts of a saved tile -/

/-- The offset of a context's image in its tile's save image (R369). -/
def contextOffset (core ctx : Nat) : Nat := 0x400000 + (256 * (core % 4) + ctx) * 0x800

/-- Dword at an offset of a tile's save image. -/
def State.imageDword (s : State) (tile off : Nat) : Nat :=
  leValue ((List.range 8).map fun i => let p := (s.tile tile).imagePlace (off + i); s.rawByte (s.forwarded p.1) p.2)

/-- Whether a write of the device's own to an offset of a tile's save image is on its way: its page is locked, or forwards to another package (R392, R393). -/
def State.imageOpen (s : State) (tile off n : Nat) : Bool :=
  let a := ((s.tile tile).imagePlace off).1
  (s.farPage (gpa s.pkg a)).isSome || s.flight.any fun m => m.origin.free && m.origin.pkg == s.pkg && m.writesVia s.homeAddr (s.homeAddr (gpa s.pkg a)) n

/-- The state with bytes written at an offset of a tile's save image, within a page of it; a page that is locked or forwards to another package is written as
R392 and R393 give it. -/
def State.putImage (s : State) (tile off : Nat) (bs : List Byte) : State :=
  let p := (s.tile tile).imagePlace off
  if s.sendsWrite (gpa s.pkg p.1) then s.deviceWrite (gpa s.pkg p.1) p.2 bs
  else
  (List.range bs.length).foldl (fun s i =>
    let p := (s.tile tile).imagePlace (off + i)
    s.applyBytes none p.2 [(s.forwarded p.1, bs.getD i 0)]) s

/-- The 256 dwords of a context's image as bytes: a free context's TID is the name that it would give next (R354). -/
def State.contextBytes (s : State) (core ctx : Nat) : List Byte :=
  let t := s.thread core ctx
  let next := mkName (endpoint s.pkg core) ctx (Assoc.getD (s.core core).gens ctx 0)
  dwordBytes ((List.range 256).map fun i =>
    if t.st = .free then (if i = 0xC0 then next.toNat else if i = 0xB7 then t.res else 0) else (t.imageWord s.cycle i).toNat)

/-- The state with a saved context's thread as its save image holds it. -/
def State.refresh (s : State) (p : Place) : State :=
  match p with
  | .ctx c x =>
    if s.isSaved p && !s.imageOpen (tileOf c) (contextOffset c x) 0x800 then s.setThread c x ((s.thread c x).ofImage fun i => BitVec.ofNat 64 (s.imageDword (tileOf c) (contextOffset c x + 8 * i))) else s
  | .slot .. => s

/-- The state with a saved context's thread written to its save image. -/
def State.writeBack (s : State) (p : Place) : State :=
  match p with
  | .ctx c x => if s.isSaved p then s.putImage (tileOf c) (contextOffset c x) (s.contextBytes c x) else s
  | .slot .. => s

end Sys2Proof.Machine
end

