-- ==== Sys2Proof/Machine/MemOps.lean ====
section
/-!
DEFINITION. What the memory instructions share: checking lanes (R211), loads through the L1 and the scratchpads (R70, R138 to R142, R215, R216,
R219), stores and held stores (R140, R213, R318), atomics and reductions (R210, R221, R223), roaming threads at another core's scratchpad (R61,
R212), and authority (R351).
-/

namespace Sys2Proof.Machine

/-! ## Where an address lies -/

/-- Whether a global address lies in a core's own tile scratchpad or own channel scratch. -/
def State.ownScratch (s : State) (core a : Nat) : Bool :=
  gpaPkg a == s.pkg &&
    (match region (gpaLocal a) with
     | .tileScratch t _ => decide (core < 640) && t == tileOf core
     | .chanScratch n _ => core == 640 + n
     | _ => false)

/-- Whether a global address is a device register. -/
def isDevice (a : Nat) : Bool := region (gpaLocal a) == .device

/-- Whether a global address is Damask memory. -/
def isDamask (a : Nat) : Bool := region (gpaLocal a) == .damask

/-! ## Checked lanes (R209, R211) -/

/-- The outcome of checking lanes: every lane's access, a fault with its code, address and word 4, or a page to walk with the word 4 of its fault. -/
inductive Lanes where
  | ok (xs : List (Piece × Nat))
  | fault (code : BitVec 8) (ea w4 : Dword)
  | walk (ea w4 : Dword)
deriving DecidableEq, Repr

/-- Word 4 of the fault of a lane: what R84, R378 and R357 name there, a physical address outside the map or a peer outside the domain, and the lane otherwise
(R211): DEDUCED (log 82). -/
def laneWord (code : BitVec 8) (w4 : Dword) (lane : Nat) : Dword := if code = 0x12 ∨ w4 ≠ 0 then w4 else BitVec.ofNat 64 lane

/-- Check lanes in ascending order: a vector access of a device register faults with RIGHTS (R210). -/
def State.checkLanes (s : State) (size : Nat) (r w dev : Bool) : List (Nat × Dword) → Lanes
  | [] => .ok []
  | (i, ea) :: rest =>
    match s.checkCur ea size r w with
    | .ok x =>
      if dev && isDevice x.pa then .fault 0x05 ea (BitVec.ofNat 64 i)
      else
        match s.checkLanes size r w dev rest with
        | .ok xs => .ok (({ lane := i, pa := x.pa, size := size, va := ea }, x.key) :: xs)
        | o => o
    | .fault c w4 => .fault c ea (laneWord c w4 i)
    | .walk => .walk ea (BitVec.ofNat 64 i)

/-! ## Results of loads -/

/-- A vector register with an element written. -/
def putLane (v : VWord) (size lane x : Nat) : VWord :=
  BitVec.ofNat 512 (v.toNat - fieldOf v.toNat (8 * size * lane) (8 * size) * 2 ^ (8 * size * lane) + x % 2 ^ (8 * size) * 2 ^ (8 * size * lane))

/-- A thread with a vector register written. -/
def Thread.wv (t : Thread) (r : VReg) (x : VWord) : Thread := { t with v := t.v.set r.val x r.isLt }

/-- A value extended from a size in bytes (R100). -/
def extend (size : Nat) (signed : Bool) (x : Nat) : Dword :=
  if signed then BitVec.ofInt 64 (signedField (8 * size) (x % 2 ^ (8 * size))) else BitVec.ofNat 64 (x % 2 ^ (8 * size))

/-- A thread with the values of an access in their destination. -/
def Dest.put (d : Dest) (vals : List (Nat × Nat)) (t : Thread) : Thread :=
  match d with
  | .gpr r size signed => t.wg r (extend size signed (((vals.find? fun p => p.1 == 0).map (·.2)).getD 0))
  | .lanes v size => t.wv v (vals.foldl (fun x p => putLane x size p.1 p.2) t.v[v])
  | .splat v size =>
    let x := ((vals.head?).map (·.2)).getD 0
    t.wv v ((List.range (64 / size)).foldl (fun y i => putLane y size i x) 0)
  | .none =>
    let n := vals.length
    { t with inHand := some (t.pc, (List.range n).map fun i => ((vals.find? fun p => p.1 == i).map (·.2)).getD 0) }

/-- The values that a thread holds for the instruction at its PC. -/
def Thread.handFor (t : Thread) : Option (List Nat) :=
  match t.inHand with
  | some (pc, vs) => if pc = t.pc then some vs else none
  | none => none

/-- The state with values that the instruction of the thread whose turn it is keeps in hand over a wait. -/
def State.keep (s : State) (vs : List Nat) : State := s.modCur fun t => { t with inHand := some (t.pc, vs) }

/-! ## Loads -/

/-- Whether some words are valid in a core's L1 (R70) under a leaf's key slot (R386), and stood at their home at one moment, so that the words of a dword are not of
different ages (R131). -/
def Core.l1Fits (c : Core) (ws : List Nat) (key : Nat) : Bool :=
  ws.all fun w => match c.l1Word w, ws.head?.bind c.l1Word with | some x, some y => x.key == key && x.moment == y.moment | _, _ => false

/-- A byte of a word in a core's L1. -/
def Core.l1Byte (c : Core) (x : Nat) : Option Byte := (c.l1Word (x / 4)).map fun w => BitVec.ofNat 8 (w.val.toNat / 256 ^ (x % 4))

/-- The bytes of an element that a load finds without leaving the core: each in the thread's latest unacknowledged store of it (R140, R216), in the own
scratchpad, or in a word of the L1 that the thread has no such store to. -/
def State.nearBytes (s : State) (core : Nat) (n : Name) (a size key : Nat) : Option (List Byte) :=
  let own := s.ownUnacked n a size
  let ws := wordsOf a size
  if own.any fun m => ws.any fun w => m.writesWord w && !m.readable w key then none
  else
    let scratch := s.ownScratch core a
    let free := if scratch then [] else ws.filter fun w => !own.any fun m => m.writesWord w
    match (s.core core).l1Fits free key with
    | false => none
    | true =>
      allBytes ((addrs a size).map fun x =>
        match own.findSome? fun m => m.ownByte x with
        | some b => some b
        | none => if scratch then some (s.byte (gpaLocal x) 0) else if free.contains (x / 4) then (s.core core).l1Byte x else none)

/-- The value of a range as the thread's own unacknowledged stores alone leave it, where they hold every byte of it and no reduction of the thread on it is in
flight. -/
def State.ownValue (s : State) (n : Name) (a size key : Nat) : Option Nat :=
  let own := s.ownUnacked n a size
  if s.ownReduce n a size s.nextId || own.any (fun m => (wordsOf a size).any fun w => m.writesWord w && !m.readable w key) then none
  else (allBytes ((addrs a size).map fun x => own.findSome? fun m => m.ownByte x)).map leValue

/-- The bytes of an element as the thread's latest held stores leave them (R319). -/
def Thread.overHeld (t : Thread) (a size key : Nat) (under : Option (List Byte)) : Option (List Byte) :=
  allBytes ((List.range size).map fun i =>
    match t.heldByte (a + i) with
    | some (b, k) => if k = key ∨ postsAtOnce a then some b else none
    | none => under.bind (·[i]?))

/-- The value of an element that a load finds within the turn; none where it must go to the home: a reduction of the thread on it is in flight, its
tile is RESET, or it is poisoned. -/
def State.loadNear (s : State) (core : Nat) (t : Thread) (p : Piece) (key : Nat) : Option Nat :=
  let a := gpaLocal p.pa
  if s.ownReduce t.name p.pa p.size s.nextId then none
  else if isDevice p.pa ∨ gpaPkg p.pa = s.pkg ∧ (s.tileStateAt a = .reset ∨ s.heldAtTile a ∨ (addrs a p.size).any fun x => s.poisoned x) then none
  else (t.overHeld p.pa p.size key (s.nearBytes core t.name p.pa p.size key)).map leValue

/-- The requests of a load that goes to its homes: one for each sector of Damask memory or of a scratchpad (R70). -/
def sectorGroups (ps : List (Piece × Nat)) : List (List Piece × Nat) :=
  let keys := (ps.map fun p => (p.1.pa / 64, p.2)).eraseDups
  keys.map fun k => ((ps.filter fun p => (p.1.pa / 64, p.2) == k).map (·.1), k.2)

/-- The state after the load requests of a thread leave its core. -/
def State.sendLoads (s : State) (o : Origin) (groups : List (List Piece × Nat)) (fill : Bool) : State :=
  groups.foldl (fun s g =>
    match g.1 with
    | [] => s
    | p :: _ =>
      s.send (s.latency o.core p.pa / 2) (gpaPkg p.pa) o
        (.load g.1 g.2 (fill && isDamask p.pa) (s.core o.core).l1Epoch)) s

/-- The state after a core's L1 has used the sectors of some elements (R70). -/
def State.touchL1 (s : State) (core : Nat) (ps : List (Piece × Nat)) : State :=
  s.setCore core (((ps.map fun p => p.1.pa / 64).eraseDups).foldl Core.touch (s.core core))

/-- A load of the thread whose turn it is, on checked elements: complete within the turn where every element is near and `short` holds, otherwise
the thread waits for the sectors it lacks, behind its own stores to them.  An acquire discards the L1 before it reads and again when its value arrives (R142, R215).  In run-ahead
it waits for the verdict instead (R319). -/
def State.loadPieces (s : State) (ea : Dword) (ps : List (Piece × Nat)) (dst : Dest) (acq nol1 short : Bool) (free : Bool := false) : State :=
  let core := s.focus.core
  let s := if acq then s.acquire core else s
  let t := s.cur
  let found := ps.map fun p => (p, s.loadNear core t p.1 p.2)
  let got := found.filterMap fun f => f.2.map fun v => (f.1.1.lane, v)
  let far := found.filterMap fun f => if f.2.isNone then some f.1 else none
  if far.isEmpty && (short || t.runsAhead) then
    let s := if acq then s.acquire core else s.touchL1 core ps
    match dst with
    | .none => s.modCur (dst.put got)
    | _ => s.modCur fun t => (dst.put got t).retire
  else if t.runsAhead then s.stallFor 12 0 0 .verdict
  else
    let groups := sectorGroups (if far.isEmpty then ps else far)
    let got := if far.isEmpty then [] else got
    let peer := ps.any fun p => gpaPkg p.1.pa != s.pkg
    let behind := far.any fun p => !(s.ownStores t.name p.1.pa p.1.size s.nextId).isEmpty
    let s := if behind then s.postOf t.name else s
    let o := { s.curOrigin with free := free }
    let s := s.wait { k := if peer then 2 else 1, a := ea, act := .data groups.length got dst acq }
    s.sendLoads o groups (!nol1)

/-! ## Roaming (R60, R61, R204) -/

/-- The address of the first prefix of the pending chain, or the PC (R173). -/
def Thread.chainStart (t : Thread) : Dword :=
  t.pc - BitVec.ofNat 64 (4 * ((if t.pimm then 1 else 0) + (if t.pmod then 1 else 0) + (if t.phint then 1 else 0)))

/-- The state after the thread whose turn it is leaves for a core of a package (R61): first its stores and reductions are acknowledged, then it
travels.  `next` holds where it goes on at the next instruction (GOHOME). -/
def State.depart (s : State) (pkg core : Nat) (next : Bool) : State :=
  let t := s.cur
  if t.storeAck ≠ 0 ∨ t.redpend ≠ 0 then (s.postOf t.name).stallFor 13 0 0 .released
  else
    let here := { t with pc := t.chainStart, pfxst := 0, pfxAt := Vector.replicate 3 none, modBad := false, hintBad := false, yielding := false }
    let away := if next then { t.retire with yielding := false } else here
    let o := s.curOrigin
    s.viaNet pkg 0 fun s =>
      let s := s.setCur ((if next then t else here).leave .waiting { k := 13, act := .done 0, first := s.nextId })
      s.send (if pkg = s.pkg then 100 else 234) pkg o (.migrate away core s.focus.core)

/-- Run an access of the thread whose turn it is at its place: a roaming thread migrates to the owner of another core's scratchpad first. -/
def State.atOwner (s : State) (pa : Nat) (f : State → State) : State :=
  if s.cur.roaming then
    match ownerCore (gpaLocal pa) with
    | some c => if gpaPkg pa = s.pkg ∧ c = s.focus.core then f s else s.depart (gpaPkg pa) c false
    | none => f s
  else f s

/-- A scalar load of the thread whose turn it is: its checks, the rule of device registers (R85, R210), then the load. -/
def State.loadScalar (s : State) (ea : Dword) (size : Nat) (dst : Dest) (acq nol1 : Bool) : State :=
  s.withAccess ea size true false fun x =>
    if isDevice x.pa ∧ size < 4 then s.raise 0x05 ea 0 0
    else s.atOwner x.pa fun s => s.loadPieces ea [({ lane := 0, pa := x.pa, size := size, va := ea }, x.key)] dst acq nol1 true

/-- Whether the pending prefix asks for no L1 copy (R171). -/
def Thread.nol1 (t : Thread) : Bool := t.pmod && t.modPayload.getLsbD 0

/-! ## Stores -/

/-- A store request: its bytes at their global addresses, and the key slot of their leaf. -/
structure StoreReq where
  bytes : List (Nat × Byte)
  key : Nat
  /-- Its address, and its lane in a vector store. -/
  ea : Dword
  lane : Nat := 0
deriving DecidableEq, Repr

/-- The state after the thread whose turn it is performs store requests: in run-ahead they enter its held-store buffer, all or none (R319);
otherwise they are posted and counted, once the count has room (R213).  `held` are the same bytes as the entries of the buffer. -/
def State.storeReqs (s : State) (ea : Dword) (reqs held : List StoreReq) (now : Bool) : State :=
  let t := s.cur
  match t.bank with
  | some b =>
    if b.committing then s.stallFor 12 0 0 .verdict
    else if 64 < b.stores.length + held.length then s.stallFor 12 0 0 .verdict
    else s.modCur fun t => Thread.retire { t with bank := some { b with stores := b.stores ++ held.map fun h => { bytes := h.bytes, key := h.key, pc := t.pc, ea := h.ea, lane := h.lane, since := s.nextId } } }
  | none =>
    let n := reqs.length
    if Config.storeCap < t.storeAck + n then (s.postOf t.name).stallFor 14 ea 0 (.storeRoom n)
    else
      s.viaNets (reqs.filter fun r => gpaPkg ((r.bytes.headD (0, 0)).1) != s.pkg).length ea fun s =>
        let o := s.curOrigin.ticketed t
        let s := s.modCur fun t => Thread.retire { t with storeAck := t.storeAck + n }
        reqs.foldl (fun s r => s.sendStore { o with ea := r.ea, lane := r.lane } r.bytes r.key now false) s

/-- The bytes that a value stores at a global address. -/
def storeBytes (pa size : Nat) (x : Dword) : List (Nat × Byte) := atAddrs pa (leBytes size x.toNat)

/-- A scalar store of the thread whose turn it is. -/
def State.storeScalar (s : State) (ea : Dword) (size : Nat) (x : Dword) (now : Bool) : State :=
  s.withAccess ea size false true fun a =>
    if isDevice a.pa ∧ size < 4 then s.raise 0x05 ea 0 0
    else
      s.atOwner a.pa fun s =>
        let r : StoreReq := { bytes := storeBytes a.pa size x, key := a.key, ea := ea }
        s.storeReqs ea [r] [r] now

/-- Elements with their values, in runs of one key slot. -/
def keyRuns : List ((Piece × Nat) × Nat) → List (List ((Piece × Nat) × Nat))
  | [] => []
  | p :: ps =>
    match keyRuns ps with
    | (q :: r) :: rs => if p.1.2 = q.1.2 then (p :: q :: r) :: rs else [p] :: (q :: r) :: rs
    | rs => [p] :: rs

/-- The store request of a run of elements of one sector: the higher lane's byte is applied last (R133). -/
def runReq (ps : List ((Piece × Nat) × Nat)) : StoreReq :=
  let bytes := ps.flatMap fun p => atAddrs p.1.1.pa (leBytes p.1.1.size p.2)
  { bytes := bytes.foldl (fun l b => l.filter (fun x => x.1 != b.1) ++ [b]) [], key := (ps.head?.map (·.1.2)).getD 0
    ea := (ps.head?.map (·.1.1.va)).getD 0, lane := (ps.head?.map (·.1.1.lane)).getD 0 }

/-- The store requests of a vector store: one for each sector it writes (R213), or for each run of lanes of one key slot where its lanes of a sector use several, in
lane order (R133; log 93). -/
def vectorReqs (ps : List ((Piece × Nat) × Nat)) : List StoreReq :=
  ((ps.map fun p => p.1.1.pa / 64).eraseDups).flatMap fun q => (keyRuns (ps.filter fun p => p.1.1.pa / 64 == q)).map runReq

/-! ## Atomics and reductions (R210, R221, R223) -/

/-- The fault that the further checks of R210 give an atomic or reduction on a checked access: its code and word 4.  `count` says whether it may act on a
mailbox counter: an integer ADD of size w. -/
def State.atomicFault (s : State) (x : Access) (count : Bool) : Option (BitVec 8 × Dword) :=
  if isDevice x.pa then some (0x05, 0)
  else if leafAper x.leaf = 1 ∧ leafPeer x.leaf ≠ s.pkg ∧ !x.leaf.getLsbD 8 then some (0x06, BitVec.ofNat 64 (leafPeer x.leaf))
  else if isMailbox (gpaLocal x.pa) ∧ !count then some (0x05, 0)
  else none

/-- A checked access by the leaf that the TLB holds, whether or not its A and D bits are still to be set. -/
def State.heldLeaf (s : State) (ea : Dword) : Option Access :=
  match (s.core s.focus.core).tlbFind s.cur.troot.toNat ea.toNat with
  | some e => match s.checkLeaf (s.cur.job.setWidth 32) e.leaf ea.toNat true true false with | .ok x => some x | _ => none
  | none => none

/-- Run an atomic or reduction on a checked address, with the further checks of R210; a refused one sets neither A nor D (R379). -/
def State.atomicAccess (s : State) (ea : Dword) (size : Nat) (count : Bool) (f : Access → State) : State :=
  match s.checkCur ea size true true with
  | .fault code w4 => s.raise code ea w4 0
  | .ok x => match s.atomicFault x count with | some (c, w4) => s.raise c ea w4 0 | none => f x
  | .walk =>
    match (s.heldLeaf ea).bind fun x => s.atomicFault x count with
    | some (c, w4) => s.raise c ea w4 0
    | none => s.walkFor ea size true true false (some count) 0

/-- The state after the thread whose turn it is issues an AMO on a checked address. -/
def State.issueAmo (s : State) (op : AluOp) (d : GReg) (ea : Dword) (x : Access) (size : Nat) (v cmp : Dword) (acq rel : Bool) : State :=
  let core := s.focus.core
  let t := s.cur
  s.viaNet (gpaPkg x.pa) 0 fun s =>
  let s := if acq then s.acquire core else s
  let s := if rel then s.postOf t.name else s
  let o := s.curOrigin.ticketed t
  let s := s.wait { k := 3, a := ea, act := .data 1 [] (.gpr d size true) acq }
  let s := s.dropWords core (wordsOf x.pa size)
  s.send ((if s.ownScratch core x.pa then 20 else s.latency core x.pa) / 2) (gpaPkg x.pa) o (.atomic op x.pa size v cmp x.key rel)

/-- The state after the thread whose turn it is issues a reduction: it waits while 16 are pending (R143). -/
def State.issueRed (s : State) (what : RedWhat) (ea : Dword) (pa key : Nat) (rel byName : Bool) : State :=
  let t := s.cur
  if Config.redCap ≤ t.redpend then s.stallFor 5 0 0 .redRoom
  else
    s.viaNet (gpaPkg pa) 0 fun s =>
      let o := { s.curOrigin.ticketed t with free := byName, ea := ea }
      let s := if rel then s.postOf t.name else s
      let s := s.modCur fun t => Thread.retire { t with redpend := t.redpend + 1 }
      s.sendReduce o what pa key rel

/-- Run a release by the thread whose turn it is: it leaves the rotation until its stores and reductions are acknowledged (R141). -/
def State.released (s : State) (f : State → State) : State :=
  let t := s.cur
  if t.storeAck = 0 ∧ t.redpend = 0 then f s else (s.postOf t.name).stallFor 4 0 0 .released

/-! ## Authority (R349 to R351) -/

/-- The rights that a thread's table gives by the entries that a test picks, or the index of the first malformed entry. -/
def State.rights (s : State) (t : Thread) (picks : (mask value : Nat) → Bool) : Except Nat Nat :=
  (List.range (t.auth.toNat % 32)).foldl (fun r e =>
    match r with
    | .error i => .error i
    | .ok r =>
      let a := fieldOf t.auth.toNat 8 32 * 0x100 + 16 * e
      let bad := match region a with | .device => true | .hole => true | _ => false
      let x := s.entryAt a
      if bad || x / 2 ^ 117 != 0 then .error e
      else if picks (fieldOf x 56 56) (fieldOf x 0 56) then .ok (r ||| fieldOf x 112 5) else .ok r) (.ok 0)

/-- The local addresses of the entries of a thread's table. -/
def Thread.tableEntries (t : Thread) : List Nat := (List.range (t.auth.toNat % 32)).map fun e => fieldOf t.auth.toNat 8 32 * 0x100 + 16 * e

/-- Run a test of the rights of the thread whose turn it is: an entry of its table on a page that forwards to another package is read from there first (R351,
R393). -/
def State.withTable (s : State) (f : State → State) : State :=
  let as := s.cur.tableEntries
  match as.find? s.entryFar with
  | some a => (s.stallFor 14 0 0 .table).farRead a
  | none =>
    if as.any fun a => s.farEntries.any fun e => e.1 == a then
      let s' := f s
      { s' with farEntries := s'.farEntries.filter fun e => !as.contains e.1 }
    else f s

/-- The right to stop, to start, to read, to rewrite, and to launch (R350). -/
def rightStop : Nat := 1
def rightStart : Nat := 2
def rightRead : Nat := 4
def rightRewrite : Nat := 8
def rightLaunch : Nat := 16

/-- Whether an entry covers a core: it compares nothing below the core field, and the fields it compares agree (R42, R351). -/
def coversCore (ep mask value : Nat) : Bool :=
  decide (mask % 2 ^ 25 = 0) && ((ep * 2 ^ 25) &&& mask) == (value &&& mask)

/-- Whether an entry matches a name other than the thread's own. -/
def coversName (own n : Name) (mask value : Nat) : Bool := n != own && (n.toNat &&& mask) == (value &&& mask)

/-- Run with a right over some cores, or fault with AUTHORITY (R42). -/
def State.coreRights (s : State) (eps : List Nat) (need : Nat) (f : State → State) : State :=
  match eps with
  | [] => f s
  | ep :: rest =>
    match s.rights s.cur (coversCore ep) with
    | .error e => s.raise 0x07 0 3 (BitVec.ofNat 64 e)
    | .ok r =>
      if r &&& need ≠ need then s.raise 0x07 0 1 (BitVec.ofNat 64 ep)
      else s.coreRights rest need f

/-- Run with a right over some cores, or fault with AUTHORITY (R42), by the thread's table as it stands at its home. -/
def State.withCoreRight (s : State) (eps : List Nat) (need : Nat) (f : State → State) : State :=
  match eps with
  | [] => f s
  | _ => s.withTable fun s => s.coreRights eps need f

end Sys2Proof.Machine
end

