-- ==== Sys2Proof/Machine/Memory.lean ====
section
/-!
DEFINITION. Loads and stores (R214 to R216), vector memory instructions (R217 to R219), atomics (R220 to R222), reductions (R223) and fences
(R225).
-/

namespace Sys2Proof.Machine

/-! ## Scalar loads (R214, R215) -/

/-- Issue LD: PFX.IMM widens the offset, NOL1 is accepted (R170). -/
def loadOffset (d a : GReg) (o : BitVec 13) (size : Nat) (signed : Bool) (s : State) : Host.Outcome State Fault Refusal :=
  issue { imm := true, nol1 := true } [d, a] s fun s => s.loadScalar (s.eaOffset a o) size (.gpr d size signed) false s.cur.nol1

/-- Issue LDX, or LD.ACQ, which waits in run-ahead (R319). -/
def loadIndex (d a b : GReg) (sh : BitVec 3) (size : Nat) (signed acq : Bool) (s : State) : Host.Outcome State Fault Refusal :=
  issue { nol1 := true, ahead := !acq } [d, a, b] s fun s => s.loadScalar (s.eaIndex a b sh) size (.gpr d size signed) acq s.cur.nol1

def execLdB (d a : GReg) (o : BitVec 13) (s : State) : Host.Outcome State Fault Refusal := loadOffset d a o 1 true s
def execLdBn (d a : GReg) (o : BitVec 13) (s : State) : Host.Outcome State Fault Refusal := loadOffset d a o 1 false s
def execLdH (d a : GReg) (o : BitVec 13) (s : State) : Host.Outcome State Fault Refusal := loadOffset d a o 2 true s
def execLdHn (d a : GReg) (o : BitVec 13) (s : State) : Host.Outcome State Fault Refusal := loadOffset d a o 2 false s
def execLdW (d a : GReg) (o : BitVec 13) (s : State) : Host.Outcome State Fault Refusal := loadOffset d a o 4 true s
def execLdWn (d a : GReg) (o : BitVec 13) (s : State) : Host.Outcome State Fault Refusal := loadOffset d a o 4 false s
def execLdD (d a : GReg) (o : BitVec 13) (s : State) : Host.Outcome State Fault Refusal := loadOffset d a o 8 false s
def execLdxB (d a b : GReg) (sh : BitVec 3) (s : State) : Host.Outcome State Fault Refusal := loadIndex d a b sh 1 true false s
def execLdxBn (d a b : GReg) (sh : BitVec 3) (s : State) : Host.Outcome State Fault Refusal := loadIndex d a b sh 1 false false s
def execLdxH (d a b : GReg) (sh : BitVec 3) (s : State) : Host.Outcome State Fault Refusal := loadIndex d a b sh 2 true false s
def execLdxHn (d a b : GReg) (sh : BitVec 3) (s : State) : Host.Outcome State Fault Refusal := loadIndex d a b sh 2 false false s
def execLdxW (d a b : GReg) (sh : BitVec 3) (s : State) : Host.Outcome State Fault Refusal := loadIndex d a b sh 4 true false s
def execLdxWn (d a b : GReg) (sh : BitVec 3) (s : State) : Host.Outcome State Fault Refusal := loadIndex d a b sh 4 false false s
def execLdxD (d a b : GReg) (sh : BitVec 3) (s : State) : Host.Outcome State Fault Refusal := loadIndex d a b sh 8 false false s
def execLdAcqW (d a b : GReg) (sh : BitVec 3) (s : State) : Host.Outcome State Fault Refusal := loadIndex d a b sh 4 true true s
def execLdAcqWn (d a b : GReg) (sh : BitVec 3) (s : State) : Host.Outcome State Fault Refusal := loadIndex d a b sh 4 false true s
def execLdAcqD (d a b : GReg) (sh : BitVec 3) (s : State) : Host.Outcome State Fault Refusal := loadIndex d a b sh 8 false true s

/-! ## Scalar stores (R214, R215) -/

/-- Issue ST. -/
def storeOffset (d a : GReg) (o : BitVec 13) (size : Nat) (s : State) : Host.Outcome State Fault Refusal :=
  issue { imm := true } [d, a] s fun s => s.storeScalar (s.eaOffset a o) size (s.rg d) false

/-- Issue STX. -/
def storeIndex (d a b : GReg) (sh : BitVec 3) (size : Nat) (s : State) : Host.Outcome State Fault Refusal :=
  issue {} [d, a, b] s fun s => s.storeScalar (s.eaIndex a b sh) size (s.rg d) false

/-- Issue ST.REL: the checks, the release, then the store, posted at once (R140, R141, R215). -/
def storeRelease (d a b : GReg) (sh : BitVec 3) (size : Nat) (s : State) : Host.Outcome State Fault Refusal :=
  issue { ahead := false } [d, a, b] s fun s =>
    let ea := s.eaIndex a b sh
    s.withAccess ea size false true fun x =>
      if isDevice x.pa ∧ size < 4 then s.raise 0x05 ea 0 0
      else
        s.atOwner x.pa fun s => s.released fun s =>
          let r : StoreReq := { bytes := storeBytes x.pa size (s.rg d), key := x.key, ea := ea }
          s.storeReqs ea [r] [r] true

def execStB (d a : GReg) (o : BitVec 13) (s : State) : Host.Outcome State Fault Refusal := storeOffset d a o 1 s
def execStH (d a : GReg) (o : BitVec 13) (s : State) : Host.Outcome State Fault Refusal := storeOffset d a o 2 s
def execStW (d a : GReg) (o : BitVec 13) (s : State) : Host.Outcome State Fault Refusal := storeOffset d a o 4 s
def execStD (d a : GReg) (o : BitVec 13) (s : State) : Host.Outcome State Fault Refusal := storeOffset d a o 8 s
def execStxB (d a b : GReg) (sh : BitVec 3) (s : State) : Host.Outcome State Fault Refusal := storeIndex d a b sh 1 s
def execStxH (d a b : GReg) (sh : BitVec 3) (s : State) : Host.Outcome State Fault Refusal := storeIndex d a b sh 2 s
def execStxW (d a b : GReg) (sh : BitVec 3) (s : State) : Host.Outcome State Fault Refusal := storeIndex d a b sh 4 s
def execStxD (d a b : GReg) (sh : BitVec 3) (s : State) : Host.Outcome State Fault Refusal := storeIndex d a b sh 8 s
def execStRelW (d a b : GReg) (sh : BitVec 3) (s : State) : Host.Outcome State Fault Refusal := storeRelease d a b sh 4 s
def execStRelD (d a b : GReg) (sh : BitVec 3) (s : State) : Host.Outcome State Fault Refusal := storeRelease d a b sh 8 s

/-! ## Vector memory (R217, R218) -/

/-- The size of an element code. -/
def esize (e : ESize) : Nat := match e with | .b => 1 | .h => 2 | .w => 4 | .d => 8

/-- Whether a mask register makes a lane active; k0 makes every lane active (R25). -/
def Thread.active (t : Thread) (k : KReg) (lane : Nat) : Bool := k == 0 || t.k[k].getLsbD lane

/-- The active lanes with their addresses. -/
def Thread.lanesAt (t : Thread) (k : KReg) (n : Nat) (f : Nat → Dword) : List (Nat × Dword) :=
  ((List.range n).filter fun i => t.active k i).map fun i => (i, f i)

/-- Whether the active lanes touch at most four sectors (R219). -/
def fewSectors (ps : List (Piece × Nat)) : Bool := decide (((ps.map fun p => p.1.pa / 64).eraseDups).length ≤ 4)

/-- Run a vector access on its checked lanes; with no active lane it completes in its turn (R211). -/
def State.withLanes (s : State) (size : Nat) (r w : Bool) (ls : List (Nat × Dword)) (f : List (Piece × Nat) → State) : State :=
  if ls.isEmpty then s.retire
  else
    match s.checkLanes size r w true ls with
    | .ok xs => f xs
    | .fault c ea w4 => s.raise c ea w4 0
    | .walk ea w4 => s.walkFor ea size r w false none w4

/-- Issue a vector load.  `spread` holds for the forms that stay within the turn only for at most four sectors (R219). -/
def vectorLoad (v : VReg) (regs : List GReg) (size : Nat) (spread : Bool) (ls : State → List (Nat × Dword)) (s : State) :
    Host.Outcome State Fault Refusal :=
  issue { nol1 := true, roam := true } regs s fun s =>
    let ls := ls s
    s.withLanes size true false ls fun xs =>
      s.loadPieces ((ls.headD (0, 0)).2) xs (.lanes v size) false s.cur.nol1 (!spread || fewSectors xs)

/-- An element of a vector register. -/
def laneOf (v : VWord) (size i : Nat) : Nat := fieldOf v.toNat (8 * size * i) (8 * size)

/-- Issue a vector store; its entries of the held-store buffer are one for each active lane (R318). -/
def vectorStore (v : VReg) (regs : List GReg) (size : Nat) (ls : State → List (Nat × Dword)) (s : State) :
    Host.Outcome State Fault Refusal :=
  issue { roam := true } regs s fun s =>
    let ls := ls s
    s.withLanes size false true ls fun xs =>
      let ps := xs.map fun x => (x, laneOf s.cur.v[v] size x.1.lane)
      s.storeReqs ((ls.headD (0, 0)).2) (vectorReqs ps)
        (ps.map fun p => { bytes := atAddrs p.1.1.pa (leBytes size p.2), key := p.1.2, ea := p.1.1.va, lane := p.1.1.lane }) false

/-- The lanes of VLD and VST. -/
def State.unitLanes (s : State) (a b : GReg) (k : KReg) : List (Nat × Dword) :=
  s.cur.lanesAt k 8 fun i => s.rg a + s.rg b + BitVec.ofNat 64 (8 * i)

/-- The lanes of VLDS and VSTS. -/
def State.strideLanes (s : State) (a b : GReg) (size : Nat) (k : KReg) : List (Nat × Dword) :=
  s.cur.lanesAt k (64 / size) fun i => s.rg a + BitVec.ofNat 64 i * s.rg b

/-- The lanes of VGATHER and VSCATTER: signed indexes of the element width, scaled by the size. -/
def State.indexLanes (s : State) (a : GReg) (x : VReg) (size : Nat) (k : KReg) : List (Nat × Dword) :=
  s.cur.lanesAt k (64 / size) fun i => s.rg a + BitVec.ofInt 64 (size * signedField (8 * size) (laneOf s.cur.v[x] size i))

def execVld (v : VReg) (a b : GReg) (k : KReg) (s : State) : Host.Outcome State Fault Refusal :=
  vectorLoad v [a, b] 8 false (fun s => s.unitLanes a b k) s
def execVst (v : VReg) (a b : GReg) (k : KReg) (s : State) : Host.Outcome State Fault Refusal :=
  vectorStore v [a, b] 8 (fun s => s.unitLanes a b k) s
def execVlds (v : VReg) (a b : GReg) (e : ESize) (k : KReg) (s : State) : Host.Outcome State Fault Refusal :=
  vectorLoad v [a, b] (esize e) true (fun s => s.strideLanes a b (esize e) k) s
def execVsts (v : VReg) (a b : GReg) (e : ESize) (k : KReg) (s : State) : Host.Outcome State Fault Refusal :=
  vectorStore v [a, b] (esize e) (fun s => s.strideLanes a b (esize e) k) s
def execVgather (v : VReg) (a : GReg) (x : VReg) (e : ESize) (k : KReg) (s : State) : Host.Outcome State Fault Refusal :=
  vectorLoad v [a] (esize e) true (fun s => s.indexLanes a x (esize e) k) s
def execVscatter (v : VReg) (a : GReg) (x : VReg) (e : ESize) (k : KReg) (s : State) : Host.Outcome State Fault Refusal :=
  vectorStore v [a] (esize e) (fun s => s.indexLanes a x (esize e) k) s

/-- VBCLD: one element, copied to every lane; its fault is that of a vector access of lane 0. -/
def execVbcld (v : VReg) (a b : GReg) (e : ESize) (s : State) : Host.Outcome State Fault Refusal :=
  issue { nol1 := true, roam := true } [a, b] s fun s =>
    let ea := s.rg a + s.rg b
    s.withLanes (esize e) true false [(0, ea)] fun xs => s.loadPieces ea xs (.splat v (esize e)) false s.cur.nol1 true

/-! ## Atomics (R220 to R222) -/

/-- Whether an order acquires, and whether it releases. -/
def ordAcq (o : Order) : Bool := match o with | .acq | .ar => true | _ => false
def ordRel (o : Order) : Bool := match o with | .rel | .ar => true | _ => false

/-- The low bits of a dword for a size in bytes. -/
def low (size : Nat) (x : Dword) : Dword := BitVec.ofNat 64 (x.toNat % 2 ^ (8 * size))

/-- The size that the size bit of AMO and RED gives. -/
def atomicSize (d : Bool) : Nat := if d then 8 else 4

/-- Issue AMO. -/
def amo (op : AluOp) (d a b : GReg) (o : Order) (sz : Bool) (s : State) : Host.Outcome State Fault Refusal :=
  issue { ahead := false } [d, a, b] s fun s =>
    let size := atomicSize sz
    let ea := s.rg a
    s.atomicAccess ea size (op == .add && size == 4) fun x =>
      s.atOwner x.pa fun s => s.issueAmo op d ea x size (low size (s.rg b)) (low size (s.rg d)) (ordAcq o) (ordRel o)

def execAmoAdd (d a b : GReg) (o : Order) (sz : Bool) (s : State) : Host.Outcome State Fault Refusal := amo .add d a b o sz s
def execAmoAnd (d a b : GReg) (o : Order) (sz : Bool) (s : State) : Host.Outcome State Fault Refusal := amo .and d a b o sz s
def execAmoOr (d a b : GReg) (o : Order) (sz : Bool) (s : State) : Host.Outcome State Fault Refusal := amo .or d a b o sz s
def execAmoXor (d a b : GReg) (o : Order) (sz : Bool) (s : State) : Host.Outcome State Fault Refusal := amo .xor d a b o sz s
def execAmoMin (d a b : GReg) (o : Order) (sz : Bool) (s : State) : Host.Outcome State Fault Refusal := amo .min d a b o sz s
def execAmoMax (d a b : GReg) (o : Order) (sz : Bool) (s : State) : Host.Outcome State Fault Refusal := amo .max d a b o sz s
def execAmoMinu (d a b : GReg) (o : Order) (sz : Bool) (s : State) : Host.Outcome State Fault Refusal := amo .minu d a b o sz s
def execAmoMaxu (d a b : GReg) (o : Order) (sz : Bool) (s : State) : Host.Outcome State Fault Refusal := amo .maxu d a b o sz s
def execAmoSwap (d a b : GReg) (o : Order) (sz : Bool) (s : State) : Host.Outcome State Fault Refusal := amo .swap d a b o sz s
def execAmoCas (d a b : GReg) (o : Order) (sz : Bool) (s : State) : Host.Outcome State Fault Refusal := amo .cas d a b o sz s
def execAmoFadd (d a b : GReg) (o : Order) (sz : Bool) (s : State) : Host.Outcome State Fault Refusal := amo .fadd d a b o sz s
def execAmoFmin (d a b : GReg) (o : Order) (sz : Bool) (s : State) : Host.Outcome State Fault Refusal := amo .fmin d a b o sz s
def execAmoFmax (d a b : GReg) (o : Order) (sz : Bool) (s : State) : Host.Outcome State Fault Refusal := amo .fmax d a b o sz s

/-! ## Reductions (R223) -/

/-- Issue RED. -/
def red (op : AluOp) (a b : GReg) (rel sz : Bool) (s : State) : Host.Outcome State Fault Refusal :=
  issue { ahead := false } [a, b] s fun s =>
    let size := atomicSize sz
    let ea := s.rg a
    s.atomicAccess ea size (op == .add && size == 4) fun x =>
      s.issueRed (.alu op size (low size (s.rg b))) ea x.pa x.key rel false

def execRedAdd (a b : GReg) (rel sz : Bool) (s : State) : Host.Outcome State Fault Refusal := red .add a b rel sz s
def execRedAnd (a b : GReg) (rel sz : Bool) (s : State) : Host.Outcome State Fault Refusal := red .and a b rel sz s
def execRedOr (a b : GReg) (rel sz : Bool) (s : State) : Host.Outcome State Fault Refusal := red .or a b rel sz s
def execRedXor (a b : GReg) (rel sz : Bool) (s : State) : Host.Outcome State Fault Refusal := red .xor a b rel sz s
def execRedMin (a b : GReg) (rel sz : Bool) (s : State) : Host.Outcome State Fault Refusal := red .min a b rel sz s
def execRedMax (a b : GReg) (rel sz : Bool) (s : State) : Host.Outcome State Fault Refusal := red .max a b rel sz s
def execRedMinu (a b : GReg) (rel sz : Bool) (s : State) : Host.Outcome State Fault Refusal := red .minu a b rel sz s
def execRedMaxu (a b : GReg) (rel sz : Bool) (s : State) : Host.Outcome State Fault Refusal := red .maxu a b rel sz s
def execRedFadd (a b : GReg) (rel sz : Bool) (s : State) : Host.Outcome State Fault Refusal := red .fadd a b rel sz s
def execRedFmin (a b : GReg) (rel sz : Bool) (s : State) : Host.Outcome State Fault Refusal := red .fmin a b rel sz s
def execRedFmax (a b : GReg) (rel sz : Bool) (s : State) : Host.Outcome State Fault Refusal := red .fmax a b rel sz s

/-! ## Fences (R225) -/

def execFenceAcq (s : State) : Host.Outcome State Fault Refusal :=
  issue { ahead := false } [] s fun s => (s.acquire s.focus.core).retire

def execFenceRel (s : State) : Host.Outcome State Fault Refusal :=
  issue { ahead := false } [] s fun s => s.released State.retire

def execFenceFull (s : State) : Host.Outcome State Fault Refusal :=
  issue { ahead := false } [] s fun s => s.released fun s => (s.acquire s.focus.core).retire

def execRwait (s : State) : Host.Outcome State Fault Refusal :=
  issue { ahead := false } [] s fun s =>
    let s := s.postOf s.cur.name
    if s.cur.redpend = 0 then s.retire else s.stallFor 5 0 0 .redZero

end Sys2Proof.Machine
end

