-- ==== Sys2Proof/Machine/Waiting.lean ====
section
/-!
DEFINITION. Watches, sleep and timers (R226 to R232), transaction barriers (R233 to R238), mailbox counters (R239 to R242) and tickets (R243,
R244).
-/

namespace Sys2Proof.Machine

/-! ## Watch registers (R157) -/

/-- ARMED and FIRED of a watch register. -/
def armed (w : Dword) : Bool := w.getLsbD 63
def fired (w : Dword) : Bool := w.getLsbD 62

/-- The watch register of an arm: ARMED 1, FIRED 0, MASK and LINE. -/
def watchWord (m : BitVec 4) (ea : Dword) : Dword :=
  BitVec.ofNat 64 (2 ^ 63 + m.toNat * 2 ^ 52 + ea.toNat % 2 ^ 52 / 256 * 256)

/-- A thread with a watch register written. -/
def Thread.ww (t : Thread) (r : WReg) (x : Dword) : Thread := { t with w := t.w.set r.val x r.isLt }

/-- The state with a watch of a name withdrawn. -/
def State.withdraw (s : State) (n : Name) (r : WReg) : State :=
  { s with watches := s.watches.filter fun g => !(g.name == n && g.reg == r) }

/-- Whether a word lies in a sector of a line that a mask names. -/
def maskedWord (line : Nat) (m : BitVec 4) (w : Nat) : Bool := decide (w / 64 = line) && m.getLsbD (w % 64 / 16)

/-- The state after the arm point of a thread's watch (R151): of the thread's own stores to the masked sectors, it reads none any more above which a later write
stands, and none that the home has applied; its reads of those words come from the home. -/
def State.armPoint (s : State) (n : Name) (line : Nat) (m : BitVec 4) : State :=
  { s with flight := s.flight.map fun x =>
      if x.origin.name != n then x
      else
        match x.body with
        | .store .. => { x with recalled := (x.masked.map (· / 4)).filter (maskedWord line m) ++ x.recalled }
        | .ack .. =>
          match x.own with
          | some (bs, _) => { x with recalled := (bs.map (·.1 / 4)).filter (maskedWord line m) ++ x.recalled }
          | none => x
        | _ => x }

/-- The words of the masked sectors of a line. -/
def maskedWords (line : Nat) (m : BitVec 4) : List Nat := ((List.range 64).map (64 * line + ·)).filter (maskedWord line m)

/-- The state with a watch of a core's thread registered at its line's directory: its arm point (R90, R151), before which every copy of the masked sectors in the
core's L1 was read. -/
def State.register (s : State) (n : Name) (core : Nat) (r : WReg) (line : Nat) (m : BitVec 4) : State :=
  let s := (s.dropWords core (maskedWords line m)).armPoint n line m
  { s.armLine core (gpaLocal (line * 256) / 256) with
    nextSeq := s.nextSeq + 1
    watches := s.watches ++ [{ name := n, reg := r, line := line, mask := m, armed := s.nextSeq, token := s.nextSeq }] }

def execWatch (w : WReg) (a : GReg) (m : BitVec 4) (s : State) : Host.Outcome State Fault Refusal :=
  issue { roam := true, ahead := false } [a] s fun s =>
    let ea := BitVec.ofNat 64 ((s.rg a).toNat / 256 * 256)
    s.withAccess ea 1 true false fun x =>
      if isDevice x.pa ∨ gpaPkg x.pa ≠ s.pkg then s.raise 0x05 ea 0 0
      else
        let t := s.cur
        let s := (s.withdraw t.name w).modCur fun t => t.ww w (watchWord m ea)
        if s.ownScratch s.focus.core x.pa then (s.register t.name s.focus.core w (x.pa / 256) m).retire
        else
          let o := s.curOrigin
          let s := s.wait { k := 14, a := ea, act := .done 0 }
          s.post (s.latency s.focus.core x.pa / 2) o (.arm w (x.pa / 256) m x.key none)

def execUnwatch (w : WReg) (s : State) : Host.Outcome State Fault Refusal :=
  issue { roam := true, ahead := false } [] s fun s =>
    (s.withdraw s.cur.name w).modCur fun t =>
      (t.ww w (BitVec.ofNat 64 (t.w[w].toNat % 2 ^ 62))).retire

def execSleep (a : GReg) (s : State) : Host.Outcome State Fault Refusal :=
  issue { roam := true, ahead := false } [a] s fun s =>
    let t := s.cur
    let n := (s.rg a).toNat
    if t.w.toList.any (fun w => armed w && fired w) then s.retire
    else if !(t.w.toList.any armed) ∧ n = 0 then s.retire
    else
      let dl := if n = 0 then 0 else s.cycle + n
      let s := s.modCur fun t =>
        { (t.retire).leave .sleeping { k := 9, act := .sleep, first := s.nextId } with deadline := dl, sleptAt := s.cycle }
      if n = 0 then s else s.notice dl .sleepTimeout { name := t.name }

/-- The value of WFIRED (R230). -/
def Thread.firedWord (t : Thread) : Dword :=
  BitVec.ofNat 64 ((List.range 4).foldl (fun n i =>
    let w := t.w[i]?.getD 0
    n + (if fired w then 2 ^ i else 0) + (if armed w then 2 ^ (4 + i) else 0)) 0)

def execWfired (d : GReg) (s : State) : Host.Outcome State Fault Refusal :=
  issue { ahead := false } [d] s fun s =>
    s.modCur fun t =>
      let x := t.firedWord
      Thread.retire { (t.wg d x) with w := t.w.map fun w => w &&& ~~~(BitVec.ofNat 64 (2 ^ 62)) }

/-- The lowest free timer entry of a core (R232). -/
def Core.freeTimer (c : Core) : Option Nat := (List.range 64).find? fun i => (Assoc.look c.timers i).isNone

def execTmarm (a b : GReg) (s : State) : Host.Outcome State Fault Refusal :=
  issue { ahead := false } [a, b] s fun s =>
    let ea := s.rg a
    s.withAccess ea 32 false true (tile := false) fun x =>
      if isDevice x.pa ∨ gpaPkg x.pa ≠ s.pkg then s.raise 0x05 ea 0 0
      else
        let core := s.focus.core
        match (s.core core).freeTimer with
        | none => s.stallFor 14 ea 0 .timerRoom
        | some i =>
          let t := s.cur
          let e : Timer :=
            { target := (s.rg b).toNat, pa := x.pa, key := x.key, name := t.name, job := t.job.setWidth 32, since := s.nextId }
          let s := s.setCore core { s.core core with timers := Assoc.insert (s.core core).timers i e }
          (s.notice (max (s.cycle + 1) (s.rg b).toNat) .timerRecord { a := core, b := i }).retire

/-! ## Transaction barriers (R233) -/

/-- Run a barrier instruction on its checked address: one outside scratchpad, or in a mailbox line, faults with BARRIER (R93, R233). -/
def State.barrierAccess (s : State) (ea : Dword) (w : Bool) (f : Access → State) : State :=
  s.withAccess ea 16 true w fun x =>
    let a := gpaLocal x.pa
    if (ownerCore a).isNone ∨ isMailbox a then s.raise 0x15 0 (BitVec.ofNat 64 a) 0 else f x

def execTbinit (a b : GReg) (s : State) : Host.Outcome State Fault Refusal :=
  issue { ahead := false } [a, b] s fun s =>
    let ea := s.rg a
    s.barrierAccess ea true fun x =>
      let n := (s.rg b).toNat
      if n < 1 ∨ 0x7FFFFF < n then s.raise 0x15 0 (s.rg b) 0
      else
        s.atOwner x.pa fun s =>
          let r : StoreReq := { bytes := atAddrs x.pa (leBytes 16 (TBar.init n).toNat), key := x.key, ea := ea }
          s.storeReqs ea [r] [r] true

def execTbexpect (a b : GReg) (s : State) : Host.Outcome State Fault Refusal :=
  issue { ahead := false } [a, b] s fun s =>
    let ea := s.rg a
    s.barrierAccess ea true fun x =>
      let n := (s.rg b).toNat
      if 0x7FFFFFFF < n then s.raise 0x15 0 (s.rg b) 0
      else s.issueRed (.expect n) ea x.pa x.key false false

def execTbarrive (a : GReg) (s : State) : Host.Outcome State Fault Refusal :=
  issue { ahead := false } [a] s fun s =>
    s.barrierAccess (s.rg a) true fun x => s.issueRed .arrive (s.rg a) x.pa x.key true false

/-- The state after the thread whose turn it is waits for a condition on words of another package (R200, R237): their home arms the watch and says when
the condition holds.  The thread's own writes of the words leave at once and come before it (R138). -/
def State.awaitFar (s : State) (st : TState) (x : Access) (act : WaitAct) (w : Wait) : State :=
  let s := s.postOf s.cur.name
  let o := { s.curOrigin with ea := w.a }
  let s := s.modCur fun t => { t.leave st { w with act := .far, first := s.nextId } with sleptAt := s.cycle }
  s.send (s.latency o.core x.pa / 2) (gpaPkg x.pa) o (.await act x.pa x.key false false)

/-- An acquire by the thread whose turn it is, which completes its instruction. -/
def State.acquireRetire (s : State) : State := (s.acquire s.focus.core).retire

/-- Run a read of watched words of this package: a RESET tile gives FABRIC (R373), a poisoned granule POISON (R427); one of a SAVED tile counts in REDIRECTED
(R371). -/
def State.withWatched (s : State) (ea : Dword) (la size : Nat) (f : State → State) : State :=
  if s.tileStateAt la = .reset then s.raise 0x12 ea (BitVec.ofNat 64 ((tileAt la).getD 0)) 0
  else if (addrs la size).any fun x => s.poisoned x then s.raise 0x14 ea (BitVec.ofNat 64 la) 0
  else f (s.countRedirect la)

/-- The value of watched words as the thread reads them: as they stand at their home, or, where a write of its own to them is still to be applied, as its own
stores leave them, if they hold all of it (R138, R216). -/
def State.watchedValue (s : State) (act : WaitAct) (la size key : Nat) : Option Nat :=
  if s.ownAhead s.cur.name act then s.ownValue s.cur.name (gpa s.pkg la) size key else some (s.val la size key)

/-- The state after a wait on watched words that the thread reads as one step: it completes at once where the words satisfy it and lie in the own
scratchpad, or are a join counter (R53), and otherwise leaves the rotation, its gathered stores posted; a satisfied wait on farther words, or on words that
their tile holds, completes when its read has made the way there and back. -/
def State.watchWait (s : State) (now : Bool) (st : TState) (pa : Nat) (w : Wait) : State :=
  let held := s.heldAtTile (gpaLocal pa)
  if now && (s.ownScratch s.focus.core pa || st == .sleeping) && !held then s.acquireRetire
  else
    let o := s.curOrigin
    let lat := s.latency s.focus.core pa
    let s := (s.postOf s.cur.name).modCur fun t => { t.leave st { w with first := s.nextId } with sleptAt := s.cycle }
    if now || held then s.post lat o (.value 0) else s

def execTbwait (a : GReg) (p : BitVec 4) (s : State) : Host.Outcome State Fault Refusal :=
  issue { ahead := false } [a] s fun s =>
    let ea := s.rg a
    s.barrierAccess ea false fun x =>
      s.atOwner x.pa fun s =>
        if gpaPkg x.pa ≠ s.pkg then
          s.awaitFar .waiting x (.barrier (gpaLocal x.pa) p) { k := 8, a := ea, v := p.setWidth 64 }
        else
          let la := gpaLocal x.pa
          s.withWatched ea la 16 fun s =>
            let now := match s.watchedValue (.barrier la p) la 16 0 with
              | some v => (TBar.ofNat v).fault || (TBar.ofNat v).phase != p.toNat
              | none => false
            s.watchWait now .waiting x.pa { k := 8, a := ea, v := p.setWidth 64, act := .barrier la p }

/-! ## Mailbox counters (R96, R239) -/

/-- The core index and package of an endpoint that a thread may name; none where R201 or R239 refuses it. -/
def State.endpointFor (s : State) (x : Dword) (bits : Nat) : Option (Nat × Nat) :=
  if x.toNat / 2 ^ bits ≠ 0 then none
  else
    let ep := x.toNat / 2 ^ (bits - 31)
    match endpointCore ep with
    | some c => if domainOf (endpointPkg ep) = domainOf s.pkg then some (c, endpointPkg ep) else none
    | none => none

/-- The global address of a counter: the core's mailbox line, four bytes an index (R96). -/
def counterAt (pkg core : Nat) (x : Dword) : Nat := gpa pkg (mailboxLine core + 4 * (x.toNat % 64))

/-- Run a mailbox instruction on the counter that its register names, or fault with FABRIC. -/
def State.withCounter (s : State) (x : Dword) (f : (core pkg pa : Nat) → State) : State :=
  match s.endpointFor x 37 with
  | some (c, p) => f c p (counterAt p c x)
  | none => s.raise 0x12 0 x 0

def execMbadd (a b : GReg) (s : State) : Host.Outcome State Fault Refusal :=
  issue { ahead := false } [a, b] s fun s =>
    s.withCounter (s.rg a) fun _ _ pa => s.issueRed (.alu .add 4 (low 4 (s.rg b))) 0 pa 0 true true

def execMbrd (a d : GReg) (s : State) : Host.Outcome State Fault Refusal :=
  issue { ahead := false } [d, a] s fun s =>
    s.withCounter (s.rg a) fun c p pa =>
      s.loadPieces (s.rg a) [({ lane := 0, pa := pa, size := 4 }, 0)] (.gpr d 4 false) false true
        (c == s.focus.core && p == s.pkg) true

def execMbwait (a b : GReg) (s : State) : Host.Outcome State Fault Refusal :=
  issue { ahead := false } [a, b] s fun s =>
    s.withCounter (s.rg a) fun _ p pa =>
      if p ≠ s.pkg then s.raise 0x12 0 (s.rg a) 0
      else
        let la := gpaLocal pa
        let tg := (s.rg b).setWidth 32
        s.withWatched 0 la 4 fun s =>
          let now := match s.watchedValue (.mailbox la tg) la 4 0 with | some v => mailboxMet v tg.toNat | none => false
          s.watchWait now .waiting pa { k := 8, a := s.rg a, v := tg.setWidth 64, act := .mailbox la tg }

/-! ## Tickets (R243, R244) -/

/-- Run a ticket instruction on the endpoint that its register names, or fault with FABRIC (R201). -/
def State.withEndpoint (s : State) (x : Dword) (f : (ep pkg : Nat) → State) : State :=
  match s.endpointFor x 31 with
  | some (_, p) => f x.toNat p
  | none => s.raise 0x12 0 x 0

def execTktake (a d : GReg) (s : State) : Host.Outcome State Fault Refusal :=
  issue { ahead := false } [d, a] s fun s =>
    s.withEndpoint (s.rg a) fun ep p => s.viaNet p (s.rg a) fun s =>
      let o := s.curOrigin
      let s := s.wait { k := 14, a := s.rg a, act := .data 1 [] (.gpr d 8 false) false }
      s.send 30 p o (.ticket ep)

/-- Whether a number has been called (R244). -/
def TicketGate.hasCalled (g : TicketGate) (n : Word) : Bool := mailboxMet g.called.toNat n.toNat

/-- Whether a called number is not yet retired (R98). -/
def TicketGate.isActive (g : TicketGate) (n : Word) : Bool := g.active.any fun a => a.1 == n

/-- A thread with its admission recorded, where the number is unretired (R244); a TKWAIT on a retired number
keeps the admission recorded before it: DESIGN CHOICE (log 91). -/
def Thread.admission (t : Thread) (g : TicketGate) (ep : Nat) (n : Word) : Thread :=
  if g.isActive n then { t with ticket := some (ep, n) } else t

/-- Whether a number of an endpoint of another package is known here to be called: its gateway has said so of it, or of a later one (R244, R408). -/
def State.heardCalled (s : State) (ep : Nat) (n : Word) : Bool := s.heardCalls.any fun h => h.1 == ep && mailboxMet h.2.toNat n.toNat

/-- The state after a far gateway has said that a number of an endpoint is called. -/
def State.hearCall (s : State) (ep : Nat) (n : Word) : State :=
  if s.heardCalled ep n then s else { s with heardCalls := (ep, n) :: s.heardCalls.filter fun h => h.1 != ep }

def execTkwait (a b : GReg) (s : State) : Host.Outcome State Fault Refusal :=
  issue { ahead := false } [a, b] s fun s =>
    s.withEndpoint (s.rg a) fun ep p =>
      let n := (s.rg b).setWidth 32
      if p = s.pkg ∧ (s.gate ep).hasCalled n then s.modCur fun t => (t.admission (s.gate ep) ep n).retire
      else if p ≠ s.pkg ∧ s.heardCalled ep n then s.modCur fun t => Thread.retire { t with ticket := some (ep, n) }
      else
        let w : Wait := { k := 8, a := s.rg a, v := n.setWidth 64, act := .done 0 }
        if p = s.pkg then s.wait w
        else s.viaNet p (s.rg a) fun s =>
          let o := s.curOrigin
          (s.wait w).send 30 p o (.ticketWait ep n)

end Sys2Proof.Machine
end

