-- ==== Sys2Proof/Machine/Threads.lean ====
section
/-!
DEFINITION. The thread instructions (R194 to R206): creating threads, tasks and calls, joining and ending, residence, LAUNCH and CANCEL.
-/

namespace Sys2Proof.Machine

/-! ## Creation (R46 to R48, R58, R196) -/

/-- The state after a CAPACITY fault (R357). -/
def State.capacity (s : State) (w4 w5 : Nat) : State := s.raise 0x11 0 (BitVec.ofNat 64 w4) (BitVec.ofNat 64 w5)

/-- Run a creation of n threads by the thread whose turn it is, after the tests of its job: no valid entry gives CAPACITY (R46), a cancelled job
gives `gone` (R48), a full one CAPACITY (R47). -/
def State.withJob (s : State) (n : Nat) (gone f : State → State) : State :=
  match s.jobIndex (s.cur.job.setWidth 32) with
  | none => s.capacity 0 0
  | some i =>
    if (s.jobEntry i).cancelled then gone s
    else if !(s.jobEntry i).allows n then s.capacity 0 0
    else f s

/-- The thread's place in the order of requests: what it creates now follows its earlier stores (R146). -/
def State.forkEdge (s : State) : Option (Name × Nat) := some (s.cur.name, s.nextId)

/-- CMEM of a thread created into the wave whose block lies at an address (R311). -/
def State.memberCmem (s : State) (a : Nat) (t : Thread) : Dword :=
  if fieldOf (s.wcb a 3) 48 1 = 1 then BitVec.ofNat 64 (putField t.cmem.toNat 48 16 (s.wcb a 4 / 0x100000000)) else 0

/-- The thread that SPAWN creates (R196). -/
def State.spawned (s : State) (pc : Dword) : Thread :=
  let t := s.cur
  let w := t.wave
  let size := match w with | some a => s.waveSize a | none => 0
  { newThread t.identity pc (t.rg 1) (BitVec.ofNat 64 size) (match w with | some _ => t.wid >>> 8 | none => 0)
      (BitVec.ofNat 64 (size + 1)) with
    wid := t.wid, waveCore := t.waveCore, after := s.forkEdge.toList
    cmem := match w with | some a => s.memberCmem a t | none => 0 }

/-- What the block of a wave answers to a request for one more member (R197): SIZE before, and where that is below 64 both counts have risen; and CMEM of
the new thread but for the fields that it takes from its creator, where the wave is a member of a collective (R311). -/
def State.growAnswer (s : State) (a : Nat) : Dword :=
  let epoch := if fieldOf (s.wcb a 3) 48 1 = 1 then at' 31 1 + at' 32 (s.wcb a 4 / 0x100000000) else 0
  BitVec.ofNat 64 (s.waveSize a + epoch)

/-- The thread that SPAWN creates into a wave whose block is on another package, by what the block answered. -/
def State.spawnedAfar (s : State) (pc : Dword) (x : Nat) : Thread :=
  let t := s.cur
  let size := x % 128
  { newThread t.identity pc (t.rg 1) (BitVec.ofNat 64 size) (t.wid >>> 8) (BitVec.ofNat 64 (size + 1)) with
    wid := t.wid, waveCore := t.waveCore, wavePkg := t.wavePkg, after := s.forkEdge.toList
    cmem := if fieldOf x 31 1 = 1 then BitVec.ofNat 64 (putField t.cmem.toNat 48 16 (x / 0x100000000)) else 0 }

/-- The state with SIZE and LIVE of a wave raised by one, in one update (R197). -/
def State.growWave (s : State) (a : Nat) : State :=
  let d := s.wcb a 0
  s.setWcb a 0 (putField (putField d 24 7 (s.waveSize a + 1)) 16 7 (s.waveLive a + 1))

/-- Create a wave-less thread, or one of the creator's wave, counted in its job; no spill slot gives CAPACITY (R58). -/
def State.createOne (s : State) (t : Thread) (f : Name → State → State) : State :=
  match s.create s.focus.core t with
  | none => s.capacity (spillDie s.focus.core) 0
  | some (n, s) => f n (s.liveUp (t.job.setWidth 32) 1)

/-- SPAWN into a wave whose block is on another package: the thread waits for the block to count the new member (R197). -/
def spawnAfar (d : GReg) (pc : Dword) (pkg : Nat) (s : State) : State :=
  let t := s.cur
  match t.handFor with
  | some (x :: _) =>
    if x % 128 = 64 then s.result d 0
    else
      let back := s.tellWave s.focus.core t .shrink
      back.withJob 1 (fun s => s.result d 0) fun _ =>
        match s.create s.focus.core (s.spawnedAfar pc x) with
        | none => back.capacity (spillDie s.focus.core) 0
        | some (n, s) => (s.liveUp (t.job.setWidth 32) 1).result d (n.setWidth 64)
  | _ => s.viaNet pkg 0 fun s => (s.wait { k := 14, act := .data 1 [] .none false }).tellWave s.focus.core t .grow

def execSpawn (d : GReg) (k : BReg) (s : State) : Host.Outcome State Fault Refusal :=
  issue { roam := true, ahead := false } [d] s fun s =>
    let t := s.cur
    match t.waveAfar with
    | some (pkg, _) => spawnAfar d t.b[k] pkg s
    | none =>
      let full := match t.wave with | some a => s.waveSize a == 64 | none => false
      if full then s.result d 0
      else
        s.withJob 1 (fun s => s.result d 0) fun s =>
          s.createOne (s.spawned t.b[k]) fun n s =>
            let s := match t.wave with | some a => s.growWave a | none => s
            s.result d (n.setWidth 64)

/-- The thread of an index of a new wave (R43, R196). -/
def waveThread (who : Identity) (pc g1 : Dword) (core block wave index size : Nat) (after : Option (Name × Nat)) : Thread :=
  { newThread who pc g1 (BitVec.ofNat 64 index) (BitVec.ofNat 64 wave) (BitVec.ofNat 64 size) with
    wid := BitVec.ofNat 64 (wave % 2 ^ 24 * 256 + block), waveCore := core, after := after.toList }

/-- Create n threads of a wave in index order: the number created, the name of thread 0, and the state. -/
def State.createWave (s : State) (core : Nat) (mk : Nat → Thread) : Nat → Nat → Name → Nat × Name × State
  | 0, i, first => (i, first, s)
  | n + 1, i, first =>
    match s.create core (mk i) with
    | none => (i, first, s)
    | some (m, s) => State.createWave s core mk n (i + 1) (if i = 0 then m else first)

/-- The block index of a block's address, on its core's tile or scratch. -/
def blockIndex (core a : Nat) : Nat := (a - sysBase core) / 64

/-- SPAWNN (R198): the tests of the job come before the wait for a wave control block: DESIGN CHOICE (log 88). -/
def execSpawnn (d a : GReg) (k : BReg) (s : State) : Host.Outcome State Fault Refusal :=
  issue { roam := true, ahead := false } [d, a] s fun s =>
    let t := s.cur
    let n := (s.rg a).toNat
    if n = 0 then s.result d 0
    else if 64 < n then s.capacity n 0
    else
      s.withJob n (fun s => s.result d 0) fun s =>
        let core := s.focus.core
        match s.freeBlock core with
        | none => s.stallFor 11 0 0 .block
        | some w =>
          let (made, first, s') := s.createWave core
            (fun i => waveThread t.identity t.b[k] (t.rg 1) core (blockIndex core w) 0 i n s.forkEdge) n 0 0
          if made = 0 then s.capacity (spillDie core) 0
          else
            let s' := (s'.initBlock w made 0 t.troot (t.job.setWidth 32)).liveUp (t.job.setWidth 32) made
            if made < n then s'.capacity (spillDie core) made else s'.result d (first.setWidth 64)

/-! ## Tasks (R50, R51, R199) and calls (R54, R201, R202) -/

/-- The task that a FORK or CALLAT of the thread whose turn it is places. -/
def Thread.taskEntry (t : Thread) (remote : Bool) (entry g2 : Dword) : TaskEntry :=
  { remote := remote, entry := entry, g1 := t.rg 1, g2 := g2, g3 := (t.rg 3).setWidth 32, g4 := (t.rg 4).setWidth 32 }

def execFork (k : BReg) (s : State) : Host.Outcome State Fault Refusal :=
  issue { roam := true, ahead := false } [] s fun s =>
    let t := s.cur
    match s.jobIndex (t.job.setWidth 32) with
    | none => s.capacity 0 0
    | some i =>
      if (s.jobEntry i).cancelled then s.retire
      else
        match s.pushTask s.focus.core (t.taskEntry false t.b[k] (t.rg 2)) t.identity s.forkEdge with
        | some s => s.retire
        | none =>
          s.withJob 1 State.retire fun s =>
            s.createOne { newThread t.identity t.b[k] (t.rg 1) 0 0 1 with after := s.forkEdge.toList } fun _ s => s.retire

/-- JOIN (R200): a counter in the device-register range faults with RIGHTS, with its address in word 2, as R210 has it for other accesses: DESIGN CHOICE
(log 106). -/
def execJoin (a : GReg) (s : State) : Host.Outcome State Fault Refusal :=
  issue { ahead := false } [a] s fun s =>
    let ea := s.rg a
    s.withAccess ea 4 true false fun x =>
      if isDevice x.pa then s.raise 0x05 ea 0 0
      else
        let pa := (s.farPage x.pa).getD (s.homeAddr x.pa)
        let la := gpaLocal pa
        if gpaPkg pa ≠ s.pkg then
          if s.ownValue s.cur.name pa 4 x.key = some 0 then s.acquireRetire
          else s.awaitFar .sleeping { x with pa := pa } (.join la x.key) { k := 9, a := ea }
        else
          s.withWatched ea la 4 fun s =>
            s.watchWait (s.watchedValue (.join la x.key) la 4 x.key == some 0) .sleeping pa { k := 9, a := ea, act := .join la x.key }

def execCallat (d a : GReg) (k : BReg) (s : State) : Host.Outcome State Fault Refusal :=
  issue { roam := true, ahead := false } [d, a] s fun s =>
    let t := s.cur
    match s.endpointFor (s.rg a) 31 with
    | none => s.raise 0x12 0 (s.rg a) 0
    | some (core, pkg) =>
      s.withAccess (s.rg d) 8 false true fun x =>
        s.withCoreRight [(s.rg a).toNat] rightLaunch fun s =>
          let gone := match s.jobIndex (t.job.setWidth 32) with | some i => (s.jobEntry i).cancelled | none => false
          if gone then s.retire
          else s.viaNet pkg (s.rg a) fun s =>
            let o := s.curOrigin
            let e := t.taskEntry true t.b[k] (BitVec.ofNat 64 x.pa)
            let s := s.retire
            s.send (if pkg = s.pkg then 60 else 234) pkg o (.call core e { t.identity with key := x.key })

def execReply (a b : GReg) (s : State) : Host.Outcome State Fault Refusal :=
  issue { ahead := false } [a, b] s fun s =>
    let t := s.cur
    if t.replyAddr = 0 ∨ s.rg a ≠ t.replyAddr then s.raise 0x05 (s.rg a) 0 0
    else if Config.storeCap < t.storeAck + 1 then (s.postOf t.name).stallFor 14 (s.rg a) 0 (.storeRoom 1)
    else s.viaNet (gpaPkg (s.rg a).toNat) (s.rg a) fun s =>
      let o := { s.curOrigin with free := true }
      let bytes := storeBytes (s.rg a).toNat 8 (s.rg b)
      let s := (s.postOf t.name).modCur fun t => Thread.retire { t with storeAck := t.storeAck + 1 }
      s.sendStore o bytes t.replyKey true true

/-! ## END (R203), YIELD (R34) -/

/-- The state after the thread whose turn it is ends. -/
def State.endCur (s : State) (ea : Dword) (counter : Option (Nat × Nat)) : State :=
  let n := s.cur.name
  ((s.beginEnd (.ctx s.focus.core s.focus.ctx) counter).modCur fun t => { t with ownEnd := true, wait := { a := ea } }).settle n

def execEndT (a : GReg) (named : Bool) (s : State) : Host.Outcome State Fault Refusal :=
  issue { ahead := false } [a] s fun s =>
    if named then s.atomicAccess (s.rg a) 4 true fun x => s.endCur (s.rg a) (some (x.pa, x.key)) else s.endCur 0 none

def execYieldT (s : State) : Host.Outcome State Fault Refusal :=
  issue {} [] s fun s => s.modCur fun t => { t.retire with yielding := true }

/-! ## Residence (R60 to R64, R204) -/

/-- Run an instruction that a burst thread may not issue (R299). -/
def State.notBurst (s : State) (f : State → State) : State := if s.cur.burst then s.raise 0x16 0 9 0 else f s

/-- Whether a thread owns an operand slot. -/
def State.ownsSlot (s : State) (n : Name) : Bool := s.tiles.any fun t => t.2.slots.any fun o => o.2.owner == some n

/-- A thread with the registers that ROAM discards at zero (R60). -/
def Thread.shed (t : Thread) : Thread :=
  { t with
    g := Vector.ofFn fun i => if i.val < 9 then t.g[i] else 0
    v := Vector.replicate 16 0, k := Vector.replicate 8 0, b := Vector.replicate 8 0
    prepared := Vector.replicate 8 false, targets := Vector.replicate 8 [], w := Vector.replicate 4 0 }

def execRoam (s : State) : Host.Outcome State Fault Refusal :=
  issue { roam := true, ahead := false } [] s fun s =>
    s.notBurst fun s =>
      let t := s.cur
      if 0 < t.depth ∨ s.ownsSlot t.name then s.raise 0x17 0 0 0
      else
        let here : StubRef := { ep := endpoint s.pkg s.focus.core, ctx := s.focus.ctx }
        ((s.dropWatches t.name).postOf t.name).modCur fun t =>
          Thread.retire { t.shed with roaming := true, stub := some here, xbatch := 0, batchNo := t.batchNo + 1 }

/-- A thread that anchors (R64): what the migration packet does not carry reads as zero. -/
def Thread.anchor (t : Thread) : Thread := { t.shed with roaming := false, admitted := false, stub := none }

def execAnchor (s : State) : Host.Outcome State Fault Refusal :=
  issue { ahead := false } [] s fun s =>
    let t := s.cur
    if !t.roaming then s.retire
    else
      let here := endpoint s.pkg s.focus.core
      let home := endpointPkg (nameEp t.name)
      let s := s.modCur fun t => t.anchor.retire
      if home = s.pkg then s.anchored t.name here s.focus.ctx t.stub
      else s.tell s.focus.core home t.name (.anchored here s.focus.ctx t.stub)

/-- The core of the channel that holds a Damask address (R83). -/
def channelCore (a : Nat) : Nat :=
  let q := fieldOf a 12 8 ^^^ fieldOf a 20 8 ^^^ fieldOf a 28 8
  640 + q

/-- GOHOME (R204): an anchored thread faults ROAMING before its operand is translated: DESIGN CHOICE (log 89). -/
def execGohome (a : GReg) (s : State) : Host.Outcome State Fault Refusal :=
  issue { ahead := false } [a] s fun s =>
    s.notBurst fun s =>
      if !s.cur.roaming then s.raise 0x17 0 0 0
      else
        let ea := s.rg a
        s.withAccess ea 1 true false fun x =>
          if !isDamask x.pa then s.raise 0x05 ea 0 0
          else
            let c := channelCore (gpaLocal x.pa)
            if gpaPkg x.pa = s.pkg ∧ c = s.focus.core then s.retire else s.depart (gpaPkg x.pa) c true

/-! ## LAUNCH (R41 to R44, R205) -/

/-- The first dword of a launch descriptor that breaks a limit (R41). -/
def launchBad (d : List Nat) : Option Nat :=
  let x := fun i => d.getD i 0
  if x 0 / 2 ^ 52 ≠ 0 ∨ x 0 % 4 ≠ 0 then some 0
  else if x 1 / 2 ^ 40 ≠ 0 ∨ fieldOf (x 1) 32 8 = 0 ∨ fieldOf (x 1) 31 1 ≠ 0 ∨ fieldOf (x 1) 24 7 = 0 ∨ 64 < fieldOf (x 1) 24 7 ∨
      fieldOf (x 1) 0 24 = 0 then some 1
  else if x 2 / 2 ^ 27 ≠ 0 ∨ fieldOf (x 2) 16 10 = 0 ∨ fieldOf (x 2) 10 6 ≠ 0 ∨
      (if fieldOf (x 2) 26 1 = 1 then 256 else 640) < fieldOf (x 2) 0 10 + fieldOf (x 2) 16 10 then some 2
  else if x 4 / 2 ^ 52 ≠ 0 then some 4
  else if x 5 / 2 ^ 52 ≠ 0 ∨ x 5 % 64 ≠ 0 then some 5
  else if x 6 / 8 ≠ 0 then some 6
  else if x 7 ≠ 0 then some 7
  else none

/-- The core index of the i-th core of a descriptor's range. -/
def launchCore (d2 i : Nat) : Nat := (if fieldOf d2 26 1 = 1 then 640 else 0) + fieldOf d2 0 10 + i

/-- Run an instruction on n dwords at a checked address that it reads as one load, within the turn where they are near (R28, R205, R291). -/
def State.withDwords (s : State) (ea : Dword) (x : Access) (n : Nat) (f : List Nat → State → State) : State :=
  match s.cur.handFor with
  | some vs => f vs s
  | none =>
    let s' := s.loadPieces ea ((List.range n).map fun i => ({ lane := i, pa := x.pa + 8 * i, size := 8, va := ea }, x.key)) .none false false true
    match s'.cur.handFor with
    | some vs => f vs s'
    | none => s'

/-- The state after LAUNCH has read a descriptor that passes R41 and R42: its threads are counted at once, and the launch goes on as the device's
own work (R42, R44). -/
def State.startLaunch (s : State) (d : List Nat) : State :=
  let t := s.cur
  let x := fun i => BitVec.ofNat 64 (d.getD i 0)
  let n := fieldOf (d.getD 1 0) 0 24 * fieldOf (d.getD 1 0) 24 7
  let id := s.nextId
  let l : Launch :=
    { id := id, name := t.name, who := t.identity, core := s.focus.core
      d0 := x 0, d1 := x 1, d2 := x 2, d3 := x 3, d4 := x 4, d5 := x 5, d6 := x 6 }
  let s := (s.liveUp (t.job.setWidth 32) n).retire
  let s := { s with launches := s.launches ++ [l] }
  s.notice (s.cycle + 1) .waveCreate { a := id }

def execLaunch (a : GReg) (s : State) : Host.Outcome State Fault Refusal :=
  issue { ahead := false } [a] s fun s =>
    let ea := s.rg a
    s.withAccess ea 64 true false fun x =>
      if isDevice x.pa then s.raise 0x05 ea 0 0
      else
        s.atOwner x.pa fun s => s.withDwords ea x 8 fun d s =>
          match launchBad d with
          | some i => s.raise 0x01 0 (BitVec.ofNat 64 i) 0
          | none =>
            let d2 := d.getD 2 0
            let waves := fieldOf (d.getD 1 0) 0 24
            let n := waves * fieldOf (d.getD 1 0) 24 7
            let eps := (List.range (fieldOf d2 16 10)).map fun i => endpoint s.pkg (launchCore d2 i)
            s.withCoreRight eps rightLaunch fun s =>
              match s.jobIndex (s.cur.job.setWidth 32) with
              | none => s.capacity 0 0
              | some i =>
                if (s.jobEntry i).cancelled then s.retire
                else if !(s.jobEntry i).allows n then s.capacity n 3
                else if fieldOf d2 16 10 * fieldOf (d.getD 1 0) 32 8 < waves then s.capacity waves 4
                else s.startLaunch d

/-! ## CANCEL (R48, R206) -/

/-- The other packages of the load-store domain that a core reaches. -/
def State.domainPeers (s : State) (core : Nat) : List Nat :=
  ((List.range 4096).map (domainOf s.pkg * 4096 + ·)).filter fun p => p != s.pkg && s.reachable core p

/-- The state after a thread has cancelled a job: on this package at once, on the others of the domain by their gateways. -/
def State.cancelFrom (s : State) (o : Origin) (job : Word) : State :=
  match s.jobIndex job with
  | none => s
  | some i =>
    if (s.jobEntry i).cancelled then s
    else
      let s := (s.domainPeers o.core).foldl (fun s p => s.send 234 p o (.cancelJob job)) s
      s.cancelJob job

/-- CANCEL (R48, R206): of another job, the right is tested first, whether or not the job has an entry: DESIGN CHOICE (log 107). -/
def execCancel (a : GReg) (s : State) : Host.Outcome State Fault Refusal :=
  issue { ahead := false } [a] s fun s =>
    let t := s.cur
    let job : Word := (s.rg a).setWidth 32
    let o := s.curOrigin
    let live := match s.jobIndex job with | some i => !(s.jobEntry i).cancelled | none => false
    let via := fun (s : State) =>
      if live then s.viaNets (s.domainPeers o.core).length 0 fun s => s.retire.cancelFrom o job else s.retire
    if job = t.job.setWidth 32 then via s
    else
      s.withTable fun s =>
        match s.rights t (fun mask _ => mask == 0) with
        | .error e => s.raise 0x07 0 3 (BitVec.ofNat 64 e)
        | .ok r => if r % 2 = 0 then s.raise 0x07 0 1 0 else via s

end Sys2Proof.Machine
end

