-- ==== Sys2Proof/Machine/Sched.lean ====
section
/-!
DEFINITION. The events of the rotation: the binder and task starts (R32, R52), quantum, YIELD and aging (R33, R34), the spill engine (R57, R59, R63,
R367), reservations (R293), wakes (R66, R92, R229), timers (R232), gathered stores (R140), instruction-cache fills (R71) and walks (R376, R379,
R380).
-/

namespace Sys2Proof.Machine

/-- Run an event that always leaves the machine going. -/
def event (s : State) (f : State → State) : Host.Outcome State Fault Refusal := .next (f s)

/-! ## Contexts of a core -/

/-- The state with the stub and the directory entry of a name naming where it now stands (R62, R348). -/
def State.moveStub (s : State) (n : Name) (ep ctx : Nat) : State :=
  { s with
    cores := Assoc.mapVals (fun _ c =>
      { c with ctxs := Assoc.mapVals (fun _ t =>
          match t.stubFor with
          | some (m, _, _) => if m = n then { t with stubFor := some (m, ep, ctx) } else t
          | none => t) c.ctxs }) s.cores
    dies := Assoc.mapVals (fun _ d => { d with names := d.names.map fun e => if e.1 = n then (n, ep, ctx) else e }) s.dies }

/-- The context that a thread takes on a core: that of its own stub, or the lowest free one. -/
def State.placeFor (s : State) (core : Nat) (t : Thread) : Option Nat :=
  match t.stub with
  | some u =>
    if u.ep = endpoint s.pkg core ∧ (s.thread core u.ctx).stubFor.any (fun x => x.1 == t.name) then some u.ctx
    else s.freeCtx core
  | none => s.freeCtx core

/-- Roaming threads resident on a core that arrived by migration (R63). -/
def State.roamers (s : State) (core : Nat) : Nat :=
  ((s.core core).ctxs.filter fun x => x.2.st != .free && x.2.stubFor.isNone && x.2.roaming && x.2.admitted).length

/-- Whether the admission cap holds a thread back (R63). -/
def State.capped (s : State) (core : Nat) (t : Thread) : Bool :=
  t.roaming && t.admitted && decide ((s.core core).admcap ≤ s.roamers core)

/-- The state with a thread resident and READY in a context (R57). -/
def State.settleIn (s : State) (core ctx : Nat) (t : Thread) : State :=
  (s.setThread core ctx { t.toReady s.cycle with spSleep := false, stubFor := none }).moveStub t.name (endpoint s.pkg core) ctx

/-! ## The spill engine (R57, R59, R367) -/

/-- The slot that holds the thread with a name. -/
def State.slotOf (s : State) (die : Nat) (n : Name) : Option (Nat × Spilled) := (s.die die).slots.find? fun x => x.2.thr.name == n

/-- Moves that a die's engine runs. -/
def State.moves' (s : State) (die : Nat) : Nat := ((s.die die).slots.filter fun x => x.2.moving).length

/-- The state with a slot marked moving or not. -/
def State.setMoving (s : State) (die slot : Nat) (b : Bool) : State :=
  match Assoc.look (s.die die).slots slot with
  | some x => s.setDie die { s.die die with slots := Assoc.insert (s.die die).slots slot { x with moving := b } }
  | none => s

/-- The state after the engine has started to re-admit the heads of a core's queue into its free contexts, up to the first that the admission cap holds
back (R63). -/
def State.startMoves (s : State) (core : Nat) : State :=
  if s.coreSaved core then s
  else
    let d := spillDie core
    let free := (s.core core).spillQueue.take (s.freeCount core)
    (free.takeWhile fun n => match s.slotOf d n with | some (_, x) => !s.capped core x.thr | none => false).foldl (fun s n =>
      match s.slotOf d n with
      | some (i, x) =>
        if x.moving ∨ 16 ≤ s.moves' d then s
        else (s.setMoving d i true).post 200 {} (.spillMove d i core false)
      | none => s) s

/-- The state after the head of a core's queue, in a slot, is re-admitted. -/
def State.readmit (s : State) (die slot core : Nat) (x : Spilled) : State :=
  match (if s.coreSaved core ∨ s.capped core x.thr then none else s.placeFor core x.thr) with
  | none => s.setMoving die slot false
  | some c =>
    let s := s.setDie die { s.die die with slots := Assoc.erase (s.die die).slots slot }
    let s := s.setCore core { s.core core with spillQueue := (s.core core).spillQueue.filter (· != x.thr.name) }
    s.settleIn core c x.thr

/-- Whether the head of a core's queue is on its way. -/
def State.headMoves (s : State) (core : Nat) : Bool :=
  match (s.core core).spillQueue.head?.bind (s.slotOf (spillDie core)) with | some (_, x) => x.moving | none => false

/-- SPILL_MOVE_DONE (R367): a thread whose turn has not come waits for the head of its queue, and starts afresh where that was not taken. -/
def execSpillMoveDone (s : State) : Host.Outcome State Fault Refusal :=
  event s fun s =>
    match s.msg? s.subject.a with
    | some { body := .spillMove die slot core out, id := id, .. } =>
      match Assoc.look (s.die die).slots slot with
      | some x =>
        if !x.moving then s.drop id
        else if out then (s.drop id).setMoving die slot false
        else if (s.core core).spillQueue.head? = some x.thr.name then (s.drop id).readmit die slot core x
        else if (s.core core).spillQueue.contains x.thr.name && s.headMoves core then s
        else (s.drop id).setMoving die slot false
      | none => s.drop id
    | _ => s

/-- The resident thread of a core that has slept longest, for at least 65,536 rotations; burst threads are never evicted, nor a thread that stands in
its own stub's context. -/
def State.longestSleeper (s : State) (core : Nat) : Option Nat :=
  let ok := (s.core core).ctxs.filter fun x =>
    x.2.st == .sleeping && !x.2.burst && decide (x.2.sleptAt + Config.agingRotations * 16 ≤ s.cycle) &&
      (match x.2.stub with | some u => !(u.ep == endpoint s.pkg core && u.ctx == x.1) | none => true)
  (ok.foldl (fun (b : Option (Nat × Nat)) x =>
    match b with
    | some (t, _) => if x.2.sleptAt < t then some (x.2.sleptAt, x.1) else b
    | none => some (x.2.sleptAt, x.1)) none).map (·.2)

/-- SPILL_EVICTION (R59, R294): the longest sleeper makes room for the head of the queue, or of the reservation queue. -/
def execSpillEviction (s : State) : Host.Outcome State Fault Refusal :=
  event s fun s =>
    let core := s.subject.a
    let d := spillDie core
    let wanted := !(s.core core).spillQueue.isEmpty || (s.gathering core).isSome
    if !wanted ∨ s.coreSaved core ∨ s.freeCount core ≠ 0 ∨ 16 ≤ s.moves' d then s
    else
      match s.longestSleeper core, s.freeSlot d with
      | some x, some i =>
        let t := s.thread core x
        let s := s.setThread core x Thread.idle
        let out : Spilled :=
          { core := core, thr := { t with st := .spilled, spSleep := true, ticket := none, pfxAt := Vector.replicate 3 none }, moving := true }
        let s := s.setDie d { s.die d with slots := Assoc.insert (s.die d).slots i out }
        s.post 200 {} (.spillMove d i core true)
      | _, _ => s

/-! ## Reservations (R293) -/

/-- CONC of a handler-read descriptor. -/
def HRead.conc (h : HRead) : Nat := (h.desc.getD 1 0).toNat % 128

/-- The state after a read is granted: it counts in its job's LIVE, its issuer goes on, and its stream starts (R291, R296). -/
def State.grant (s : State) (r : Nat) (h : HRead) : State :=
  let c := s.core h.core
  let s := s.setCore h.core { c with resQueue := c.resQueue.filter (· != r), granted := c.granted + 1 }
  let s := { s with reads := Assoc.insert s.reads r { h with state := .streaming } }
  let s := s.liveUp h.who.job h.conc
  let s :=
    match s.whereIs h.issuer with
    | some p => if (s.at p).wait.k = 10 then s.completeAt p id else s
    | none => s
  s.notice (s.cycle + 1) .burstRequest { a := r }

/-- The state after the head of a core's reservation queue has gathered the contexts that are free for it, once for each read that fuel allows. -/
def State.gather : Nat → State → Nat → State
  | 0, s, _ => s
  | n + 1, s, core =>
    match s.gathering core with
    | none => s
    | some r =>
      match Assoc.look s.reads r with
      | none => s
      | some h =>
        let free := (List.range (Config.contextsOf core)).filter fun x => (s.thread core x).isFree
        let free := if s.coreSaved core then [] else free.drop (s.core core).spillQueue.length
        let got := free.take (h.conc - h.contexts.length)
        let s := got.foldl (fun s x => s.setThread core x { reserved := true, read := some r }) s
        let h := { h with contexts := h.contexts ++ got }
        if h.contexts.length < h.conc then { s with reads := Assoc.insert s.reads r h }
        else State.gather n (s.grant r h) core

/-- RESERVATION_GRANT (R293). -/
def execReservationGrant (s : State) : Host.Outcome State Fault Refusal :=
  event s fun s => s.gather (s.core s.subject.a).resQueue.length s.subject.a

/-! ## The binder (R32) -/

/-- Whether a thread may be bound: READY, with its creator's earlier stores acknowledged (R146). -/
def State.bindable (s : State) (t : Thread) : Bool :=
  t.st == .ready && !t.reserved && t.after.all (fun e => !s.earlierOpen e.1 e.2)

/-- Whether a thread comes before another in the binder's order. -/
def bindsBefore (a b : Nat × Thread) : Bool :=
  decide (a.2.effPrio < b.2.effPrio) ||
    (a.2.effPrio == b.2.effPrio && (decide (a.2.readyTime < b.2.readyTime) || (a.2.readyTime == b.2.readyTime && decide (a.1 < b.1))))

/-- The context that the binder takes next. -/
def State.nextBound (s : State) (core : Nat) : Option Nat :=
  (((s.core core).ctxs.filter fun x => s.bindable x.2).foldl (fun (b : Option (Nat × Thread)) x =>
    match b with | some y => if bindsBefore x y then some x else b | none => some x) none).map (·.1)

/-- The state with a context bound at a position; a thread that came by another core's instruction has its L1 discarded (R150). -/
def State.bind (s : State) (core ctx pos : Nat) : State :=
  let t := s.thread core ctx
  let s := if t.stale then s.acquire core else s
  s.setThread core ctx
    { t with st := .bound, pos := some pos, turns := 0, stall := 0, yielding := false, effPrio := t.prio.toNat % 4, after := [], stale := false, lastTag := 0 }

/-- The positions of a core that are empty and not held. -/
def Core.emptyPositions (c : Core) : List Nat :=
  (List.range 16).filter fun p => !c.ctxs.any fun x => (x.2.st == .bound || x.2.st == .held || x.2.st == .faulted) && x.2.pos == some p

/-- The state after the binder has filled positions, in order. -/
def State.fill (core : Nat) : List Nat → State → State
  | [], s => s
  | p :: ps, s => match s.nextBound core with | some x => State.fill core ps (s.bind core x p) | none => s

/-- The state after the held threads of a core that were started are bound again at their positions, with their priority as PRIO gives it (R33, R35, R362). -/
def State.resumeHeld (s : State) (core : Nat) : State :=
  (s.core core).ctxs.foldl (fun s x =>
    if x.2.st = .held ∧ x.2.startAfter ∧ x.2.after.all (fun e => !s.earlierOpen e.1 e.2) then
      let s := if x.2.stale then s.acquire core else s
      s.setThread core x.1 { x.2 with st := .bound, prior := .free, startAfter := false, after := [], stale := false, turns := 0, effPrio := x.2.prio.toNat % 4 }
    else s) s

/-! ## Task starts (R52) -/

/-- Whether a deque entry may start now: its job has room (R47), and its creator's earlier stores are acknowledged (R146). -/
def State.taskReady (s : State) (core : Nat) (e : List Nat × Option (Name × Nat)) : Bool :=
  (match s.jobIndex (s.ident core (fieldOf (e.1.getD 0 0) 52 4)).job with
   | some i => (s.jobEntry i).allows 1 && !(s.jobEntry i).cancelled
   | none => false) &&
  (match e.2 with | some (n, id) => !s.earlierOpen n id | none => true)

/-- The index of the first entry of a deque that may start, from its new end or its old end. -/
def State.pickTask (s : State) (core : Nat) (newest : Bool) : Option Nat :=
  let es := s.dequeFull core
  let is := List.range es.length
  (if newest then is.reverse else is).find? fun i => s.taskReady core (es.getD i ([], none))

/-- The cores whose deques a core tries after its own, in order. -/
def stealOrder (core : Nat) : List Nat :=
  if core < 640 then
    let tile := core / 4 * 4
    let die := core / 160 * 160
    ((List.range 3).map fun i => tile + (core - tile + 1 + i) % 4) ++
    (((List.range 159).map fun i => die + (core - die + 1 + i) % 160).filter fun c => c / 4 != core / 4)
  else
    let die := 640 + (core - 640) / 32 * 32
    (List.range 31).map fun i => die + (core - die + 1 + i) % 32

/-- The deque and the entry that a core takes a task from. -/
def State.findTask (s : State) (core : Nat) : Option (Nat × Nat) :=
  match s.pickTask core true with
  | some i => some (core, i)
  | none => (stealOrder core).findSome? fun c => if (s.core c).dequeCount = 0 then none else (s.pickTask c false).map fun i => (c, i)

/-- The state after a core has started a task, where R52 allows one. -/
def State.startTask (s : State) (core : Nat) : State :=
  let c := s.core core
  match c.emptyPositions, s.freeCtx core with
  | p :: _, some x =>
    if (c.ctxs.any fun y => y.2.st == .ready) || !c.spillQueue.isEmpty || s.coreSaved core || (s.gathering core).isSome then s
    else
      match s.findTask core with
      | none => s
      | some (from', i) =>
        let es := s.dequeFull from'
        let e := es.getD i ([], none)
        let w := s.ident from' (fieldOf (e.1.getD 0 0) 52 4)
        let t := taskThread e.1 w
        let s := (s.dropIdent from' (fieldOf (e.1.getD 0 0) 52 4)).setDeque from' (es.eraseIdx i)
        let (n, s) := s.takeName core x
        let far := from' != core || fieldOf (e.1.getD 0 0) 56 1 == 1
        let t := ({ t with tid := n.setWidth 64, stale := far } : Thread)
        let s := s.setThread core x (t.toReady s.cycle)
        (s.liveUp w.job 1).bind core x p
  | _, _ => s

/-- ROTATION_BOUNDARY (R32). -/
def execRotationBoundary (s : State) : Host.Outcome State Fault Refusal :=
  event s fun s =>
    let core := s.subject.a
    if (s.core core).lost then s
    else
      let c := s.core core
      let s := s.setCore core
        { c with breakpoints := c.breakStores.foldl (fun bs x => Assoc.insert bs x.1 x.2) c.breakpoints, breakStores := [] }
      let s := s.startMoves core
      if s.coreSaved core then s
      else
        let s := s.resumeHeld core
        let s := State.fill core (s.core core).emptyPositions s
        s.startTask core

/-- QUANTUM_EXPIRY (R34): the bound thread at a position gives way to a ready thread of equal or higher effective priority; a YIELD without one acts as
NOP. -/
def execQuantumExpiry (s : State) : Host.Outcome State Fault Refusal :=
  event s fun s =>
    let core := s.subject.a
    match (s.core core).turn s.subject.b with
    | none => s
    | some x =>
      let t := s.thread core x
      let c := s.core core
      if t.turns < c.quantum ∧ !t.yielding then s
      else
        let waiter := c.ctxs.any fun y => s.bindable y.2 && decide (y.2.effPrio ≤ t.effPrio) && decide (y.2.readyTime < s.cycle)
        if waiter then s.setThread core x (t.unbound.toReady s.cycle)
        else s.setThread core x { t with turns := if c.quantum ≤ t.turns then 0 else t.turns, yielding := false }

/-- AGING_PROMOTION (R33). -/
def execAgingPromotion (s : State) : Host.Outcome State Fault Refusal :=
  event s fun s =>
    let t := s.thread s.subject.a s.subject.b
    if t.st = .ready ∧ 0 < t.effPrio ∧ t.agedAt + Config.agingRotations * 16 ≤ s.cycle then
      s.setThread s.subject.a s.subject.b { t with effPrio := t.effPrio - 1, agedAt := s.cycle }
    else s

/-! ## Wakes (R66, R92, R229) -/

/-- The state after a registration fires at its thread, if the arm it was made by still stands, wherever its page has moved: FIRED is set, and a thread in SLEEP
wakes (R231); a saved context's bit is set in its image (R371). -/
def State.fireAt (s : State) (r : Registration) : State :=
  if !s.watches.any (fun x => x.name == r.name && x.reg == r.reg && x.token == r.token) then s
  else
    match s.whereIs r.name with
    | none => s
    | some p =>
      let s := s.refresh p
      let t := s.at p
      let s := (s.setAt p (t.ww r.reg (t.w[r.reg] ||| BitVec.ofNat 64 (2 ^ 62)))).writeBack p
      if t.wait.act = .sleep then s.wakeAt p else s

/-- WATCH_FIRE (R92). -/
def execWatchFire (s : State) : Host.Outcome State Fault Refusal :=
  event s fun s =>
    match s.msg? s.subject.a with
    | some { body := .fire _ _ hits, id := id, .. } => hits.foldl (fun s r => s.fireAt r) (s.drop id)
    | _ => s

/-- SLEEP_TIMEOUT (R229). -/
def execSleepTimeout (s : State) : Host.Outcome State Fault Refusal :=
  event s fun s =>
    match s.whereIs s.subject.name with
    | none => s
    | some p =>
      let t := s.at p
      if t.wait.act = .sleep ∧ t.deadline ≠ 0 ∧ t.deadline ≤ s.cycle then s.wakeAt p else s

/-- Whether a store is still to be applied. -/
def State.storeOpen (s : State) (id : Nat) : Bool := match s.msg? id with | some { body := .store .., .. } => true | _ => false

/-- TIMER_RECORD (R232): the record follows the issuer's earlier stores (R146); its entry is free once it is applied. -/
def execTimerRecord (s : State) : Host.Outcome State Fault Refusal :=
  event s fun s =>
    let core := s.subject.a
    match Assoc.look (s.core core).timers s.subject.b with
    | none => s
    | some e =>
      let free := fun (s : State) =>
        (s.setCore core { s.core core with timers := Assoc.erase (s.core core).timers s.subject.b }).wakeWhere core fun t =>
          t.wait.act == .again .timerRoom
      let again := fun (s : State) => s.notice (s.cycle + 1) .timerRecord s.subject
      if s.cycle < e.target then s
      else if e.sent.isSome then (if e.sent.any s.storeOpen then again s else free s)
      else if s.earlierOpen e.name e.since then s.notice (s.cycle + 1) .timerRecord s.subject
      else
        let id := s.nextId
        let s := s.deviceWrite e.pa e.key (dwordBytes [e.target, s.cycle, e.name.toNat, 0]) { core := core, job := e.job, record := true }
        if !s.storeOpen id then free s
        else
          again (s.setCore core { s.core core with timers := Assoc.insert (s.core core).timers s.subject.b { e with sent := some id } })

/-- STORE_GATHER_POST (R140): a core's gathered data of a sector is posted. -/
def execStoreGatherPost (s : State) : Host.Outcome State Fault Refusal :=
  event s fun s =>
    s.postGathered fun m =>
      m.origin.core == s.subject.a && m.origin.pkg == s.pkg &&
        (match m.body with | .store ((a, _) :: _) _ _ _ _ => a / 64 == s.subject.b | _ => false)

/-! ## Instruction-cache fills (R71) and walks (R376, R379, R380) -/

/-- Whether a thread waits for an instruction fetch or a walk. -/
def Thread.awaitsFetch (t : Thread) : Bool := t.wait.act == .again .fetch || t.wait.act == .again .walk

/-- The state with an instruction-cache line filled, and its thread going on. -/
def State.fillLine (s : State) (core line : Nat) (bs : List Byte) (n : Name) : State :=
  let c := s.core core
  let s := s.setCore core { c with icache := c.holdLine line (BitVec.ofNat 2048 (leValue bs)) }
  match s.whereIs n with
  | some p => if (s.at p).awaitsFetch then s.wakeAt p else s
  | none => s

/-- The state after a fault found without a new issue, of the waiting thread of a name (R36). -/
def State.faultNamed (s : State) (n : Name) (code : BitVec 8) (w2 w4 w5 : Dword) : State :=
  match s.whereIs n with
  | some p => s.faultAt p { code := code, pc := (s.at p).pc, w2 := w2, w4 := w4, w5 := w5 }
  | none => s

/-- The further refusal of an atomic's access (R210), which leaves A and D as they stand (R379). -/
def State.refusedRed (s : State) (q : WalkReq) (x : Access) : Bool :=
  match q.red with | some count => (s.atomicFault x count).isSome | none => false

/-- Whether a request of a walk uses its leaf (R379): it passes the checks that are made on this package. -/
def State.uses (s : State) (e : BitVec 128) (q : WalkReq) : Bool :=
  match s.named q.name with
  | some t => match s.checkLeaf (t.job.setWidth 32) e q.va.toNat q.r q.w q.x with | .ok x => !s.refusedRed q x | _ => false
  | none => false

/-- The state with a TLB entry filled; the oldest of 2,048 gives way (R380). -/
def State.fillTlb (s : State) (core : Nat) (e : TlbEntry) : State :=
  let c := s.core core
  let others := c.tlb.filter fun x => !(x.root == e.root && x.va == e.va && x.bits == e.bits)
  s.setCore core { c with tlb := e :: others.take (Config.tlbEntries - 1) }

/-- The state after a walk has its result: an invalid leaf faults each access that waits (R209), a valid one has A, and D for a write, set where it is
used, fills the TLB and lets the accesses go on.  A table on a page that forwards to another package is read, and its leaf marked, there (R376, R393). -/
def State.finishWalk (s : State) (core : Nat) (w : Walk) : State :=
  let va := (w.reqs.head?.map (·.va.toNat)).getD 0
  let done := fun (s : State) => s.setCore core { s.core core with walks := (s.core core).walks.filter fun k => k.id != w.id }
  let wake := fun (s : State) => w.reqs.foldl (fun s q =>
    match s.whereIs q.name with | some p => if (s.at p).awaitsFetch then s.wakeAt p else s | none => s) s
  let later := fun (s : State) => s.notice (s.cycle + 1) .tlbWalkDone { a := core, b := w.id }
  let (lvl, T) := s.walkStart core w.root va
  let path := s.walkPath va (4 - lvl) lvl T
  match path.find? s.entryFar with
  | some a => later (s.farRead a)
  | none =>
  match s.walkFrom va (4 - lvl) lvl T with
  | none => w.reqs.foldl (fun s q => s.faultNamed q.name 0x04 q.va q.w4 0) (done (s.walked path))
  | some (e, a) =>
    let s := s.cacheTables core (s.tablesFrom w.root va (4 - lvl) lvl T)
    let home := s.forwarded a
    let used := w.reqs.filter fun q => s.uses e q
    let e' := if used.isEmpty then e else markLeaf e (used.any (·.w))
    let entry : TlbEntry := { root := w.root, va := va / 2 ^ kindBits (leafKind e) * 2 ^ kindBits (leafKind e), bits := kindBits (leafKind e), leaf := e' }
    if e' = e then wake ((done (s.walked path)).fillTlb core entry)
    else if (s.farPage (gpa s.pkg a)).isSome then later (s.farMark a (used.any (·.w)))
    else if s.locked a || !(s.registeredAt (gpa s.pkg home) 2).isEmpty then later (s.recallAt (gpa s.pkg home) 2 s.nextSeq)
    else wake (((done (s.walked path)).applyVal none home 2 0 (e'.toNat % 65536)).fillTlb core entry)

/-- TLB_WALK_DONE (R380): only the four oldest walks of a core run. -/
def execTlbWalkDone (s : State) : Host.Outcome State Fault Refusal :=
  event s fun s =>
    let core := s.subject.a
    let ws := (s.core core).walks
    match ws.findIdx? fun k => k.id == s.subject.b with
    | none => s
    | some i =>
      if Config.walkers ≤ i then s.notice (s.cycle + 60) .tlbWalkDone s.subject
      else match ws[i]? with | some w => s.finishWalk core w | none => s

end Sys2Proof.Machine
end

