-- ==== Sys2Proof/Machine/Device.lean ====
section
/-!
DEFINITION. Device registers (R85): what a load of each returns and what a store to each does (R382 to R384, R388, R398, R399, R402, R421, R429,
R430).
-/

namespace Sys2Proof.Machine

/-! ## Reading (R382, R398, R421, R429) -/

/-- Dword i of a job table entry (R46). -/
def JobEntry.dword (e : JobEntry) (i : Nat) : Nat :=
  match i with
  | 0 => e.job.toNat + at' 32 (bit e.valid) + at' 33 (bit e.cancelled)
  | 1 => e.live.toNat + at' 32 e.limit.toNat
  | 2 => e.counter.toNat
  | _ => e.flagsor.toNat + at' 16 e.ckey.toNat

/-- Dword i of a key slot as it is held; a load sees dwords 4 to 11 as zero (R384). -/
def KeySlot.dword (k : KeySlot) (i : Nat) : Nat :=
  if i = 0 then k.owner.toNat + at' 32 (bit k.anyJob) + at' 33 (bit k.valid)
  else if 4 ≤ i ∧ i < 8 then fieldOf k.key1.toNat (64 * (i - 4)) 64
  else if 8 ≤ i ∧ i < 12 then fieldOf k.key2.toNat (64 * (i - 8)) 64
  else 0

/-- A tile assignment register (R388). -/
def Tile.assignment (t : Tile) : Nat :=
  t.job.toNat + at' 32 (bit t.assigned) + at' 33 (bit t.openAll) + at' 34 (bit t.refused)

/-- Dword i of a collective entry (R309). -/
def Coll.dword (c : Coll) (i : Nat) : Nat :=
  match i with
  | 0 => c.collid.toNat + at' 32 (c.parent % 0x80000) + at' 63 (bit c.valid)
  | 1 => c.locals.toNat + at' 16 c.base.toNat + at' 32 c.children.toNat + at' 48 c.totalm1.toNat
  | 2 => c.report.toNat
  | 3 => c.epoch.toNat + at' 32 c.left.toNat + at' 48 c.joined.toNat
  | 4 => c.firstMiss.toNat + at' 16 c.missCount.toNat + at' 32 c.aepoch.toNat
  | 5 => c.rkey.toNat
  | _ => 0

/-- A port status register (R399). -/
def Port.status (p : Port) : Nat :=
  p.lanes.toNat + at' 5 p.vcmode.toNat + at' 7 (bit p.up) + at' 8 (bit p.rod) + at' 32 p.errors.toNat + at' 48 p.retries.toNat

/-- Dword i of FAILREC (R420): the anchor's record, or the always-on register's after a start that failed in step 1 (R419). -/
def Health.failrec (h : Health) (i : Nat) : Nat :=
  match i with
  | 0 => if h.mirrorOn then h.bootReasons.toNat else h.anchor.reasons.toNat
  | 1 => if h.mirrorOn then h.bootCount else h.anchor.count
  | 2 => h.anchor.slot
  | 3 => h.anchor.version.toNat
  | _ => 0

/-- Dword i of a core's register block (R429); a stored breakpoint that waits for its boundary reads as stored. -/
def Core.regDword (c : Core) (i : Nat) : Nat :=
  if i = 0 then c.quantum
  else if i = 1 then c.admcap
  else if 2 ≤ i ∧ i < 10 then
    let b := (i - 2) / 2
    let r := match (c.breakStores.reverse.find? fun x => x.1 == b) with | some x => x.2 | none => Assoc.getD c.breakpoints b {}
    if i % 2 = 0 then r.pc.toNat + at' 62 (bit r.allJobs) + at' 63 (bit r.en) else r.job.toNat
  else 0

/-- The core whose register block holds a device-register address, and the offset in the block (R429). -/
def blockCore (a : Nat) : Option (Nat × Nat) :=
  if 0xF001000000 ≤ a ∧ a < 0xF001280000 then some ((a - 0xF001000000) / 0x1000, a % 0x1000)
  else if 0xF002000000 ≤ a ∧ a < 0xF002100000 then some (640 + (a - 0xF002000000) / 0x1000, a % 0x1000)
  else none

/-- A dword of the health registers (R421), by its offset, as it is held.  STARTOK, RESETGO, QUOTE and MREXT hold what was last stored to them, all 64 bits of it:
DESIGN CHOICE (log 114). -/
def Health.dword (h : Health) (off : Nat) : Nat :=
  if off = 0 then h.startokReg.toNat
  else if off = 0x88 then h.resetgoReg.toNat
  else if off = 0x90 then h.quoteReg.toNat
  else if off = 0x98 then h.mrextReg.toNat else
  if off = 0x08 then h.leader % 0x80000 + at' 30 (bit h.settled) + at' 31 (bit h.isLeader) + at' 32 h.term.toNat
  else if 0x40 ≤ off ∧ off < 0x80 then h.failrec ((off - 0x40) / 8)
  else if off = 0x80 then h.rstline.toNat
  else if off = 0xA0 then h.sample.toNat
  else if off = 0xA8 then h.trbase.toNat
  else if off = 0xB0 then h.trsize.toNat
  else if off = 0xB8 then h.pulses.toNat
  else if off = 0xC0 then h.corrected.toNat
  else if off = 0xC8 then h.uncorrected.toNat
  else if off = 0xD0 then h.spared.toNat
  else if 0x200 ≤ off ∧ off < 0x400 then fieldOf ((h.mrs[(off - 0x200) / 64]?.getD 0).toNat) (8 * (off % 64)) 64
  else 0

/-- The dword that a device register holds, write-only fields included (R85); a reserved address holds zero. -/
def State.regHeld (s : State) (a : Nat) : Nat :=
  if 0xF000100000 ≤ a ∧ a < 0xF000120000 then (s.jobEntry ((a - 0xF000100000) / 32)).dword (a % 32 / 8)
  else if 0xF000200000 ≤ a ∧ a < 0xF000280000 then (s.key ((a - 0xF000200000) / 128)).dword (a % 128 / 8)
  else if 0xF000300000 ≤ a ∧ a < 0xF000300500 then (s.tile ((a - 0xF000300000) / 8)).assignment
  else if 0xF000400000 ≤ a ∧ a < 0xF000600000 then
    let g := (a - 0xF000400000) / 0x10000
    let off := a % 0x10000
    if off < 0x2000 then (Assoc.getD s.colls (g * 128 + off / 64) {}).dword (off % 64 / 8)
    else if off = 0x2000 then (s.port g).status
    else if 0x4000 ≤ off ∧ off < 0xC400 then (Assoc.getD s.routes a 0).toNat
    else 0
  else if 0xF000600000 ≤ a ∧ a < 0xF000600400 then s.health.dword (a - 0xF000600000)
  else if a = 0xF000700000 then s.pkg
  else
    match blockCore a with
    | some (c, off) => (s.core c).regDword (off / 8)
    | none => 0

/-- Whether a register is write-only: KEY1 and KEY2 (R384), and the registers of R421 that take stores only. -/
def writeOnly (a : Nat) : Bool :=
  (decide (0xF000200000 ≤ a) && decide (a < 0xF000280000) && decide (4 ≤ a % 128 / 8) && decide (a % 128 / 8 < 12)) ||
    a == 0xF000600000 || a == 0xF000600088 || a == 0xF000600090 || a == 0xF000600098

/-- The value that a load of 4 or 8 bytes of a device register returns (R85). -/
def State.regLoad (s : State) (a size : Nat) : Nat :=
  let d := a / 8 * 8
  let v := if writeOnly d then 0 else s.regHeld d
  fieldOf v (8 * (a % 8)) (8 * size)

/-! ## Stores -/

/-- The dword that a store of bytes to a register gives it: the other half keeps what the register holds (R85). -/
def State.merged (s : State) (bs : List (Nat × Byte)) : Nat :=
  match bs with
  | [] => 0
  | (a, _) :: _ =>
    let d := gpaLocal a / 8 * 8
    bs.foldl (fun v b => putField v (8 * (gpaLocal b.1 % 8)) 8 b.2.toNat) (s.regHeld d)

/-- A job table entry after a store to dword i (R383). -/
def State.storeJob (s : State) (j i v : Nat) : State :=
  let e := s.jobEntry j
  match i with
  | 0 =>
    let job := BitVec.ofNat 32 v
    let valid := fieldOf v 32 1 == 1
    let taken := s.jobs.any fun x => x.1 != j && x.2.valid && x.2.job == job
    if (e.valid ∧ e.job ≠ job) ∨ (valid ∧ taken) ∨ (e.valid ∧ !valid ∧ e.live ≠ 0) then s
    else if e.valid ∧ !valid then s.modJob j fun e => { job := job, live := e.live, ckey := e.ckey }
    else s.modJob j fun e => { e with job := job, valid := valid }
  | 1 => s.modJob j fun e => { e with limit := BitVec.ofNat 32 (v / 0x100000000) }
  | 2 => s.modJob j fun e => { e with counter := BitVec.ofNat 64 (v % 2 ^ 59) }
  | _ => s.modJob j fun e => { e with ckey := BitVec.ofNat 12 (v / 0x10000), flagsor := BitVec.ofNat 6 v }

/-- A key slot after a store to dword i (R384). -/
def KeySlot.store (k : KeySlot) (i v : Nat) : KeySlot :=
  if i = 0 then { k with owner := BitVec.ofNat 32 v, anyJob := fieldOf v 32 1 == 1, valid := fieldOf v 33 1 == 1 }
  else if k.valid then k
  else if 4 ≤ i ∧ i < 8 then { k with key1 := BitVec.ofNat 256 (putField k.key1.toNat (64 * (i - 4)) 64 v) }
  else if 8 ≤ i ∧ i < 12 then { k with key2 := BitVec.ofNat 256 (putField k.key2.toNat (64 * (i - 8)) 64 v) }
  else k

/-- The state after a tile's STATE changes: a release write by the device, which fires the watches on its line (R368). -/
def State.setTileState (s : State) (t : Nat) (x : TileState) : State :=
  (s.setTile t { s.tile t with state := x }).fireFor none [gpa s.pkg (tileBase t + 0x3FE000)]

/-- A tile assignment register after a store (R388). -/
def State.storeAssign (s : State) (t v : Nat) : State :=
  let x := s.tile t
  let job := BitVec.ofNat 32 v
  let assigned := fieldOf v 32 1 == 1
  let openAll := fieldOf v 33 1 == 1
  if x.state = .reset then
    let s := s.setTile t { x with job := job, assigned := assigned, openAll := openAll, refused := false }
    if assigned then s.notice (s.cycle + 60000) .tileAssignDone { a := t } else s
  else if job ≠ x.job ∨ assigned ≠ x.assigned then s.setTile t { x with refused := true }
  else s.setTile t { x with openAll := openAll, refused := false }

/-- A collective entry after a store to dword i (R309); a new registration gathers afresh. -/
def Coll.store (c : Coll) (i v : Nat) : Coll :=
  match i with
  | 0 =>
    let valid := fieldOf v 63 1 == 1
    let id := BitVec.ofNat 32 v
    let c' := { c with valid := valid, parent := fieldOf v 32 19, collid := id }
    if valid = c.valid ∧ id = c.collid then c'
    else { c' with members := [], voted := [], votedLeft := 0, heard := [], kids := [], votes := 0, orv := false, andv := true, kindAll := false
                   mixed := false, sent := false, abortSent := false }
  | 1 => { c with locals := BitVec.ofNat 16 v, base := BitVec.ofNat 16 (v / 2 ^ 16), children := BitVec.ofNat 16 (v / 2 ^ 32)
                  totalm1 := BitVec.ofNat 16 (v / 2 ^ 48) }
  | 2 => { c with report := BitVec.ofNat 64 (v % 2 ^ 59) }
  | 3 => { c with epoch := BitVec.ofNat 32 v, left := BitVec.ofNat 16 (v / 2 ^ 32), joined := BitVec.ofNat 16 (v / 2 ^ 48) }
  | 4 => { c with firstMiss := BitVec.ofNat 16 v, missCount := BitVec.ofNat 16 (v / 2 ^ 16), aepoch := BitVec.ofNat 32 (v / 2 ^ 32) }
  | 5 => { c with rkey := BitVec.ofNat 12 v }
  | _ => c

/-- A breakpoint after a store of one of its dwords (R429). -/
def Breakpoint.store (b : Breakpoint) (second : Bool) (v : Nat) : Breakpoint :=
  if second then { b with job := BitVec.ofNat 32 v }
  else { b with en := fieldOf v 63 1 == 1, allJobs := fieldOf v 62 1 == 1, pc := BitVec.ofNat 64 (v % 2 ^ 52 / 4 * 4) }

/-- A core's register block after a store (R429): QUANTUM 0 and an ADMCAP above the context count are dropped; a breakpoint waits for the boundary
(R430). -/
def State.storeBlock (s : State) (core off v : Nat) : State :=
  let c := s.core core
  let i := off / 8
  if i = 0 then (if v % 2 ^ 32 = 0 then s else s.setCore core { c with quantum := v % 2 ^ 32 })
  else if i = 1 then (if Config.contextsOf core < v % 256 then s else s.setCore core { c with admcap := v % 256 })
  else if i < 10 then
    let b := (i - 2) / 2
    let old := match (c.breakStores.reverse.find? fun x => x.1 == b) with | some x => x.2 | none => Assoc.getD c.breakpoints b {}
    s.setCore core { c with breakStores := c.breakStores ++ [(b, old.store (i % 2 == 1) v)] }
  else s

/-- Registers of the gateways and the plain health registers after a store (R398, R399, R402, R421, R428): read-only fields and reserved addresses keep
what they hold. -/
def State.storePlain (s : State) (a v : Nat) : State :=
  if 0xF000400000 ≤ a ∧ a < 0xF000600000 then
    let g := (a - 0xF000400000) / 0x10000
    let off := a % 0x10000
    if off < 0x2000 then
      let j := g * 128 + off / 64
      { s with colls := Assoc.insert s.colls j ((Assoc.getD s.colls j {}).store (off % 64 / 8) v) }
    else if off = 0x2000 then { s with ports := Assoc.insert s.ports g { Assoc.getD s.ports g {} with rod := fieldOf v 8 1 == 1 } }
    else if 0x4000 ≤ off ∧ off < 0xC400 then { s with routes := Assoc.insert s.routes a (BitVec.ofNat 32 v) }
    else s
  else if a = 0xF000600080 then { s with health := { s.health with rstline := BitVec.ofNat 64 (v % 2 ^ 40 / 64 * 64) } }
  else if a = 0xF0006000A8 then { s with health := { s.health with trbase := BitVec.ofNat 64 v } }
  else if a = 0xF0006000B0 then { s with health := { s.health with trsize := BitVec.ofNat 64 v } }
  else s

/-! ## The package number (R398) -/

/-- A global address of the package under its new number. -/
def rebase (old new a : Nat) : Nat := if gpaPkg a = old then gpa new (gpaLocal a) else a

/-- A message's addresses under the package's new number. -/
def Body.rebase (f : Nat → Nat) (b : Body) : Body :=
  match b with
  | .load ps k fl e => .load (ps.map fun p => { p with pa := f p.pa }) k fl e
  | .store bs k q po re => .store (bs.map fun x => (f x.1, x.2)) k q po re
  | .atomic op pa sz v c k r => .atomic op (f pa) sz v c k r
  | .reduce w pa k r => .reduce w (f pa) k r
  | .recall pa c => .recall (f pa) c
  | .await w pa k ar me => .await (w.moved fun a => gpaLocal (f (gpa (gpaPkg pa) a))) (f pa) k ar me
  | .bulk bs k => .bulk (bs.map fun x => (f x.1, x.2)) k
  | .icache c line k => .icache c (f (line * 256) / 256) k
  | .fire c line hits => .fire c (f (line * 256) / 256) (hits.map fun r => { r with line := f (r.line * 256) / 256 })
  | .arm r line m k n => .arm r (f (line * 256) / 256) m k n
  | .news n (.watch r home) => .news n (.watch { r with line := f (r.line * 256) / 256 } (gpaPkg (f (gpa home 0))))
  | .data v _ e => .data v [] e
  | .ack st ws _ e => .ack st (ws.map fun w => f (w * 4) / 4) [] e
  | .old v ws => .old v (ws.map fun w => f (w * 4) / 4)
  | .page (.switch t o n) p k => .page (.switch (f (t * 0x10000) / 0x10000) o n) p k
  | b => b

/-- The state with the package number written (R398): what the package holds under its old number stands under the new one. -/
def State.setPkg (s : State) (new : Nat) : State :=
  let old := s.pkg
  let f := rebase old new
  { s with
    pkg := new, pkgWritten := true
    flight := s.flight.map fun m =>
      { m with dst := if m.dst = old then new else m.dst
               origin := { m.origin with pkg := if m.origin.pkg = old then new else m.origin.pkg
                                         by' := m.origin.by'.map fun b => (if b.1 = old then new else b.1, b.2) }
               own := m.own.map fun o => (o.1.map fun x => (f x.1, x.2), o.2)
               body := m.body.rebase f, masked := m.masked.map f, told := m.told.map fun w => f (w * 4) / 4
               recalled := m.recalled.map fun w => f (w * 4) / 4 }
    moves := s.moves.map fun m => { m with target := m.target.map fun t => f (t * 0x10000) / 0x10000 }
    watches := s.watches.map fun r => { r with line := f (r.line * 256) / 256 }
    cores := Assoc.mapVals (fun _ c =>
      { c with
        l1 := [], l1Epoch := c.l1Epoch + 1, icache := []
        timers := Assoc.mapVals (fun _ t => { t with pa := f t.pa }) c.timers
        ctxs := Assoc.mapVals (fun _ t => { t with buffer := [], targets := Vector.ofFn fun (i : Fin 8) => t.targets[i].map (fun x => (f x.1, x.2)), bank := t.bank.map fun b =>
          { b with stores := b.stores.map fun h => { h with bytes := h.bytes.map fun x => (f x.1, x.2) } } }) c.ctxs }) s.cores }

end Sys2Proof.Machine
end

