-- ==== Sys2Proof/Machine/Fabric.lean ====
section
/-!
DEFINITION. The fabric: ports and links (R399, R405, R406), deduplication (R409), the checks a peer makes (R378), requests given up (R406) and the
windows of dropped writes (R373).
-/

namespace Sys2Proof.Machine

/-! ## Ports (R399, R405, R406) -/

/-- The state with a port changed. -/
def State.modPort (s : State) (p : Nat) (f : Port → Port) : State := { s with ports := Assoc.insert s.ports p (f (Assoc.getD s.ports p {})) }

/-- A port with lanes in service, in the largest mode whose reserves fit; at most one lane retires it (R405). -/
def Port.withLanes (p : Port) (n : Nat) : Port :=
  let mode := if 6 ≤ n then 0 else if 3 ≤ n then 1 else if n = 2 then 2 else 3
  { p with lanes := BitVec.ofNat 4 n, vcmode := BitVec.ofNat 2 mode, up := p.up && mode != 3 }

/-- A count of 16 bits that stops at 0xFFFF. -/
def countUp (x : BitVec 16) : BitVec 16 := if x = 0xFFFF then x else x + 1

/-- The state with a port that has retired out of every spray set of the package (R406). -/
def State.unspray (s : State) (p : Nat) : State :=
  if (s.port p).vcmode = 3 then { s with routes := Assoc.mapVals (fun _ r => r &&& ~~~(1#32 <<< p)) s.routes } else s

/-- Whether a port is there and has power: in minimal mode, port 0 alone (R419). -/
def State.portOn (s : State) (p : Nat) : Bool := decide (p < 32) && (s.health.power != .minimal || p == 0)

/-- LINK_UP (R399): a link has trained; `b` lanes are in service.  With at most one, it retires at once (R405). -/
def execLinkUp (s : State) : Host.Outcome State Fault Refusal :=
  event s fun s =>
    if s.portOn s.subject.a ∧ s.subject.b ≤ 8 then
      (s.modPort s.subject.a fun p => { p with up := true }.withLanes s.subject.b).unspray s.subject.a
    else s

/-- LANE_CHANGE (R405). -/
def execLaneChange (s : State) : Host.Outcome State Fault Refusal :=
  event s fun s =>
    if s.portOn s.subject.a ∧ s.subject.b ≤ 8 then (s.modPort s.subject.a fun p => p.withLanes s.subject.b).unspray s.subject.a else s

/-- LINK_RETIRE (R406): the port leaves every spray set, since only ports that are UP are chosen (R402). -/
def execLinkRetire (s : State) : Host.Outcome State Fault Refusal :=
  event s fun s =>
    if s.subject.a < 32 then (s.modPort s.subject.a fun p => p.withLanes (if p.lanes.toNat ≤ 1 then p.lanes.toNat else 0)).unspray s.subject.a else s

/-- LINK_LEVEL_RETRY (R399). -/
def execLinkLevelRetry (s : State) : Host.Outcome State Fault Refusal :=
  event s fun s => if s.subject.a < 32 then s.modPort s.subject.a fun p => { p with retries := countUp p.retries } else s

/-- Whether a message is what a port may drop: a frame that it has not delivered yet, or one of no kind that the package serves. -/
def State.droppable (s : State) (m : Msg) : Bool := s.atPort m || (match m.body with | .mgmt _ | .unknown .. => true | _ => false)

/-- INGRESS_DROP (R397): a frame at a port, which the subject names where it is in flight, is dropped and counted in ERRORS; a management frame reaches port 0
only. -/
def execIngressDrop (s : State) : Host.Outcome State Fault Refusal :=
  event s fun s =>
    let s := { s with flight := s.flight.filter fun m => !(m.id + 1 == s.subject.b && s.droppable m) }
    if s.subject.a < 32 then s.modPort s.subject.a fun p => { p with errors := countUp p.errors } else s

/-! ## Deduplication (R409) -/

/-- The window of a source endpoint at a gateway. -/
def State.window (s : State) (src gw : Nat) : Option Window := s.windows.find? fun w => w.source == src && w.gateway == gw

/-- The state with a window replaced. -/
def State.setWindow (s : State) (w : Window) : State :=
  { s with windows := w :: s.windows.filter fun x => !(x.source == w.source && x.gateway == w.gateway) }

/-- Windows of 48 KiB that the 8 MiB pool of a die holds (R409). -/
def windowRoom : Nat := 170

/-- Run a request that arrives at this package.  One from another package is deduplicated: a number below LUS is dropped, one that the window holds is
answered from it, another is applied; a new source that finds no space is told to retry. -/
def State.once (s : State) (m : Msg) (f : State → State) : State :=
  match m.dedup with
  | none => f s
  | some (seq, lus) =>
    if m.origin.pkg = s.pkg then f s
    else
      let src := endpoint m.origin.pkg m.origin.core
      let gw := m.body.gateway
      match s.window src gw with
      | none =>
        if windowRoom ≤ (s.windows.filter fun w => w.gateway / 8 == gw / 8).length then (s.reply 1 m (.nack 0 0 0 false)).drop m.id
        else f (s.setWindow { source := src, gateway := gw, lus := lus, entries := [], last := s.cycle })
      | some w =>
        let lus := if numberBelow w.lus lus then lus else w.lus
        let w := { w with lus := lus, last := s.cycle, entries := w.entries.filter fun e => !numberBelow e.1 lus }
        let s := s.setWindow w
        if numberBelow seq lus then s.drop m.id
        else
          match w.entries.find? fun e => e.1 == seq with
          | some e => (s.reply 1 m e.2).drop m.id
          | none => f s

/-- What the reply to a request of this package keeps of it, which is gone: what a refusal or a line of code answers, and the bytes of a store, which its thread reads
until the acknowledgement comes (R216). -/
def Msg.keeping (r m : Msg) : Msg :=
  match r.body, m.body with
  | .nack .., b => { r with about := some b }
  | .data .., .icache c l k => { r with about := some (.icache c l k) }
  | .ack .., .store bs k _ _ _ => { r with own := some (bs, k), recalled := m.recalled }
  | _, _ => r

/-- The state after a request is answered: its reply is saved in its window (R409), and the request is gone. -/
def State.answer (s : State) (delay : Nat) (m : Msg) (b : Body) : State :=
  let s := (s.reply delay m b).drop m.id
  let s := if m.origin.pkg = s.pkg then s.modMsg (s.nextId - 1) fun r => r.keeping m else s
  match m.dedup with
  | some (seq, _) =>
    if m.origin.pkg = s.pkg then s
    else
      match s.window (endpoint m.origin.pkg m.origin.core) m.body.gateway with
      | some w =>
        (s.setWindow { w with entries := w.entries ++ [(seq, b)] }).notice (s.cycle + Config.second / 1000) .dedupWindowIdle
          { a := w.source, b := w.gateway }
      | none => s
  | none => s

/-- DEDUP_WINDOW_IDLE (R409): a window whose LUS has passed every entry is freed once no request has come for 1 ms. -/
def execDedupWindowIdle (s : State) : Host.Outcome State Fault Refusal :=
  event s fun s =>
    match s.window s.subject.a s.subject.b with
    | some w =>
      if w.entries.all (fun e => numberBelow e.1 w.lus) && decide (w.last + Config.second / 1000 ≤ s.cycle) then
        { s with windows := s.windows.filter fun x => !(x.source == w.source && x.gateway == w.gateway) }
      else s
    | none => s

/-- DEDUP_RETRY_TIMER (R409): a request that was told to retry leaves again. -/
def execDedupRetryTimer (s : State) : Host.Outcome State Fault Refusal :=
  event s fun s => s.modMsg s.subject.a fun m => { m with sent := 0 }

/-! ## Checks at a peer (R378) -/

/-- The fault that this package's key slot, owner and tile checks give a request of another package. -/
def State.peerRefuses (s : State) (m : Msg) (pa key : Nat) : Option (BitVec 8) :=
  if m.origin.pkg = s.pkg ∨ m.origin.free then none
  else if !(s.key key).valid then some 0x04
  else if !s.ownerOk key m.origin.job then some 0x05
  else
    match region (gpaLocal pa) with
    | .tileScratch _ _ => if m.origin.record || s.tileOk (gpaLocal pa) m.origin.job then none else some 0x05
    | _ => none

/-! ## Requests that go on to a page's new home (R393) -/

/-- What a request says at the new home of its page, at the addresses that a map gives: it registers there anew, without the bytes above which a later write stands,
which are written already, and its words fill no L1. -/
def Msg.onward (m : Msg) (f : Nat → Nat) : Body :=
  match m.body with
  | .store bs k _ po _ => .store ((bs.filter fun b => !m.masked.contains b.1).map fun b => (f b.1, b.2)) k none po false
  | .load ps k _ _ => .load (ps.map fun p => { p with pa := f p.pa }) k false 0
  | .atomic op pa n v c k _ => .atomic op (f pa) n v c k false
  | .reduce w pa k _ => .reduce w (f pa) k false
  | .await w pa k _ _ => (Body.await w pa k false false).rebase f
  | .page (.clean line) _ k => let a := gpaLocal (f (gpa m.dst (line * 256))); .page (.clean (a / 256)) (a / 0x10000) k
  | b => b.rebase f

/-- The request that carries a request on. -/
def State.relayOf (s : State) (id : Nat) : Option Msg := s.flight.find? fun x => x.relay == some id

/-- The arms of a thread on a line that its write, registered under a number, precedes (R151). -/
def State.quietFor (s : State) (n : Name) (page no : Nat) : List Nat :=
  (s.watches.filter fun r => r.name == n && decide (r.line / 256 = page) && decide (no < r.armed)).map (·.token)

/-- The state after a request that reached a page which forwards to another package goes on to it (R393): the home sends a request of its own, and answers when that is
answered. -/
def State.passOn (s : State) (m : Msg) (pa : Nat) : State :=
  match s.farPage pa with
  | none => s
  | some x =>
    let f := fun a => if a / 0x10000 = pa / 0x10000 then x / 0x10000 * 0x10000 + a % 0x10000 else a
    match s.relayOf m.id with
    | some r =>
      match m.body with
      | .store _ _ _ true _ =>
        s.modMsg r.id fun y => match y.body with | .store bs k q _ re => { y with body := .store bs k q true re } | _ => y
      | _ => s
    | none =>
      match m.onward f with
      | .store [] _ _ _ _ => s.answer 1 m (.ack true m.unacked [] 0)
      | b =>
        let o : Origin :=
          { pkg := s.pkg, core := homeCore (gpaLocal pa), job := m.origin.job, free := m.origin.free, record := m.origin.record
            by' := some (m.origin.authorPkg, m.origin.author)
            quiet := match m.registered with | some no => s.quietFor m.origin.author (x / 0x10000) no | none => m.origin.quiet }
        let id := s.nextId
        (s.send 234 (gpaPkg x) o b).modMsg id fun y => { y with relay := some m.id }

/-- The header of a tagged block that a copy on another package reads leaves by the side band, and the data without it (R280, R412). -/
def State.headerAside (s : State) (m : Msg) (vals : List (Nat × Nat)) : State × List (Nat × Nat) :=
  match m.origin.block, m.origin.dev with
  | some index, some copy =>
    if m.origin.pkg = s.pkg then (s, vals)
    else
      let header := match vals.find? fun v => v.1 == 0 with | some v => v.2 % 65536 | none => 0
      let s := { s with nextId := s.nextId + 1 }.outward
        { id := s.nextId, due := s.cycle, origin := { pkg := s.pkg }, body := .sideband copy index (BitVec.ofNat 16 header), dst := m.origin.pkg }
        (m.body.target s.pkg) (endpoint m.origin.pkg m.origin.core) 3 false
      (s, vals.map fun v => if v.1 = 0 then (0, v.2 / 65536 * 65536) else v)
  | _, _ => (s, vals)

/-- A refusal's address in the page that a request went to, as an address of the page that it was sent to. -/
def Msg.wordBack (m : Msg) (w4 : Dword) : Dword :=
  match m.body.spans.head? with
  | some p => BitVec.ofNat 64 (gpaLocal p.1 / 0x10000 * 0x10000 + w4.toNat % 0x10000)
  | none => w4

/-- The state after the answer to a request that carries another on: that one has the same answer, with its own words, and fills no L1 (R393). -/
def State.relayed (s : State) (r : Msg) (b : Body) : State :=
  let s := s.drop r.id
  match r.relay.bind s.msg? with
  | none => s
  | some m =>
    match b with
    | .data vals _ _ => let (s, vals) := s.headerAside m vals; s.answer 1 m (.data vals [] 0)
    | .ack store _ _ _ => s.answer 1 m (.ack store m.unacked [] 0)
    | .old v _ => s.answer 1 m (.old v m.unacked)
    | .nack code w2 w4 posted => s.answer 1 m (.nack code w2 (if code = 0x12 ∨ code = 0x14 then w4 else m.wordBack w4) posted)
    | b => s.answer 1 m b

/-! ## Dropped writes (R373, R406) -/

/-- The state with a dropped write of a thread counted at its core: the first opens a window of 4,096 cycles. -/
def State.countDrop (s : State) (o : Origin) (code : BitVec 8) (first place : Nat) : State :=
  let c := s.core o.core
  if c.drops.any fun d => d.name == o.name && d.code == code then
    s.setCore o.core { c with drops := c.drops.map fun d => if d.name = o.name ∧ d.code = code then { d with count := d.count + 1 } else d }
  else
    let d : DropWindow :=
      { name := o.name, first := first, place := place, count := 1, faultrec := o.faultrec, troot := o.troot, job := o.job
        till := s.cycle + 4096, code := code }
    (s.setCore o.core { c with drops := c.drops ++ [d] }).notice (s.cycle + 4096) .resetDropWindow { a := o.core }

/-- RESET_DROP_WINDOW (R373): a window that ends writes its record; the sender is not stopped. -/
def execResetDropWindow (s : State) : Host.Outcome State Fault Refusal :=
  event s fun s =>
    let core := s.subject.a
    let c := s.core core
    let ended := c.drops.filter fun d => decide (d.till ≤ s.cycle)
    let s := s.setCore core { c with drops := c.drops.filter fun d => !decide (d.till ≤ s.cycle) }
    ended.foldl (fun s d =>
      s.record core d.faultrec d.troot d.job (d.code.toNat + nostopBit) 0 d.first d.name.toNat d.place d.count) s

/-! ## Requests given up (R406) -/

/-- The virtual address of the piece of a load that holds a physical address. -/
def pieceVa (ps : List Piece) (pa : Nat) : Dword :=
  match ps.find? fun p => decide (gpaLocal p.pa ≤ pa) && decide (pa < gpaLocal p.pa + p.size) with
  | some p => p.va
  | none => (ps.head?.map (·.va)).getD 0

/-- Whether a request is a posted write. -/
def Body.posts (b : Body) : Bool := match b with | .store .. => true | .reduce .. => true | _ => false

/-- The state after a posted write is refused or given up: its count falls, and the refusal is reported in a window. -/
def State.refusePosted (s : State) (m : Msg) (code : BitVec 8) (store : Bool) (first place : Nat) : State :=
  (((s.drop m.id).countDrop m.origin code first place).acknowledge m.origin.name store).ownDone m.origin

/-- The state after a peer refuses a posted write by its key slot, owner and tile tests (R378): its count falls, and the fault returns to the thread,
which stops at the PC of the instruction unless it has faulted already. -/
def State.refuseAtPeer (s : State) (m : Msg) (code : BitVec 8) (store : Bool) : State :=
  let o := m.origin
  let s := s.drop m.id
  let s := match s.whereIs o.name with
    | some p =>
      if (s.at p).st == TState.faulted || ((s.at p).ending.isSome && !(s.at p).ownEnd) then s
      else (s.setAt p { s.at p with ending := none, ownEnd := false }).faultAt p { code := code, pc := o.pc, w2 := o.ea, w4 := BitVec.ofNat 64 o.lane, w5 := 0 }
    | none => s
  (s.acknowledge o.name store).ownDone o

/-- Word 4 of the fault of a load that is refused: the lane for a peer's tests (R211, R378), what the refusal names for FABRIC and POISON. -/
def refusedWord (ps : List Piece) (code : BitVec 8) (w4 : Dword) : Dword :=
  if code = 0x12 ∨ code = 0x14 then w4
  else match ps.find? fun p => decide (gpaLocal p.pa ≤ w4.toNat) && decide (w4.toNat < gpaLocal p.pa + p.size) with
    | some p => BitVec.ofNat 64 p.lane
    | none => 0

/-- The state after the migration of a thread is refused (R58, R413): it faults where it stands, or ends there where its job was cancelled meanwhile (R48). -/
def State.migrateRefused (s : State) (t : Thread) (code : BitVec 8) (w4 w5 : Dword) : State :=
  let dead := match s.jobIndex (t.job.setWidth 32) with | some i => (s.jobEntry i).cancelled | none => false
  match s.whereIs t.name with
  | none => s
  | some p =>
    if (s.at p).ending.isSome then s
    else if dead then (s.beginEnd p none).settle t.name
    else s.faultNamed t.name code 0 w4 w5

/-- The state after threads of a core that waited for room in its network interface go on (R410). -/
def State.netFreed (s : State) (core : Nat) : State := s.wakeWhere core fun t => t.wait.act == .again .netRoom

/-- The state after a request that may carry an MMA's arrival has been applied: a stop that follows it is due, the first that arrives, unless its thread is FAULTED then
(R130). -/
def State.arrived (s : State) (id : Nat) : State :=
  let ours := fun (n : NanStop) => n.after == some id
  s.places.foldl (fun s p =>
    let t := s.at p
    match t.nanLater.find? ours with
    | none => s
    | some n =>
      s.setAt p { t with nanLater := t.nanLater.filter fun n => !ours n
                         nanStop := if t.st = .faulted then t.nanStop else t.nanStop.or (some { n with after := none }) }) s

/-- The state after a request is refused with a code; one that carries another on passes the refusal to it; a walker's entry is none; one of the device's own is told to the work that sent it;
a posted write that did not arrive is reported, a waiting thread faults (R36, R378,
R406, R413). -/
def State.refuse (s : State) (m : Msg) (code : BitVec 8) (w2 w4 : Dword) : State :=
  if m.relay.isSome then s.relayed m (.nack code w2 w4 m.body.posts)
  else if m.origin.walker then { s.drop m.id with farEntries := (m.origin.ea.toNat, 0) :: s.farEntries }.wakeCond .table
  else
  match m.body, m.origin.lastResort with
  | .store bs _ _ _ _, some core =>
    ((s.drop m.id).toLastResort core ((List.range 7).map fun i => leValue (((bs.map (·.2)).drop (8 * i)).take 8))).drainRecords core
  | _, _ =>
  match m.body with
  | .news .. | .wave (.leave _) _ | .wave .shrink _ | .heartbeat .. | .ticketCall .. => s.drop m.id
  | _ =>
  match m.origin.dev with
  | some i => { (s.drop m.id).arrived m.id with fetched := Assoc.insert s.fetched i (.failed code w4) }
  | none =>
  match m.body with
  | .store bs _ _ _ _ =>
    if code = 0x12 then s.refusePosted m code true ((bs.headD (0, 0)).1) w4.toNat else s.refuseAtPeer m code true
  | .reduce _ pa _ _ => if code = 0x12 then s.refusePosted m code false pa w4.toNat else s.refuseAtPeer m code false
  | .wave (.flags _) pa => s.refusePosted m code false pa w4.toNat
  | .load ps _ _ _ => (s.drop m.id).faultNamed m.origin.name code (pieceVa ps w4.toNat) (refusedWord ps code w4) 0
  | .atomic .. | .await .. =>
    let va := match s.named m.origin.name with | some t => t.wait.a | none => 0
    (s.drop m.id).faultNamed m.origin.name code va (refusedWord [] code w4) 0
  | .icache .. =>
    let pc := match s.named m.origin.name with | some t => t.pc | none => 0
    (s.drop m.id).faultNamed m.origin.name code pc (if code = 0x04 ∨ code = 0x05 then 0 else w4) 0
  | .page .. =>
    let va := match s.named m.origin.name with | some t => if w2 = 1 then t.wait.v else t.wait.a | none => 0
    (s.drop m.id).faultNamed m.origin.name code va (if code = 0x12 then w4 else 0) 0
  | .call .. => (s.drop m.id).countDrop m.origin code 0 w4.toNat
  | .migrate t _ _ => (s.drop m.id).migrateRefused t code w4 w2
  | .cancelJob _ => s.drop m.id
  | .recall .. => s.drop m.id
  | _ => (s.drop m.id).faultNamed m.origin.name code 0 w4 w2

/-- The state after a request is given up (R406): FABRIC, with its destination endpoint. -/
def State.giveUp (s : State) (m : Msg) : State := s.refuse m 0x12 0 (BitVec.ofNat 64 (m.body.target m.dst))

/-- TRANSPORT_TIMEOUT (R406): a request leaves again by another port; after eight further ones have failed, or with no port left, it is given
up, and leaves room in its core's network interface (R410). -/
def execTransportTimeout (s : State) : Host.Outcome State Fault Refusal :=
  event s fun s =>
    match s.msg? s.subject.a with
    | none => s
    | some m =>
      if m.dst = s.pkg ∨ m.sent = 0 then s
      else if 8 ≤ m.tries ∨ !s.reachable m.origin.core m.dst then (s.giveUp m).netFreed m.origin.core
      else s.modMsg m.id fun m => { m with tries := m.tries + 1, sent := 0 }

end Sys2Proof.Machine
end

