-- ==== Sys2Proof/Machine/Travel.lean ====
section
/-!
DEFINITION. Requests that move threads and work: MIGRATE (R61 to R63, R413), CALL (R54, R201), CONTROL (R48, R391), and tickets (R98, R243, R244,
R408).
-/

namespace Sys2Proof.Machine

/-! ## MIGRATE -/

/-- A thread as its migration packet carries it (R61); with it go the model's own notes on it. -/
def Thread.packet (t : Thread) : Thread :=
  { pc := t.pc
    g := Vector.ofFn fun i => if i.val < 9 then t.g[i] else 0
    tid := t.tid, wid := t.wid, job := t.job, prio := t.prio, flags := t.flags.setWidth 10 |>.setWidth 64
    auth := t.auth, troot := t.troot, faultrec := t.faultrec, replyAddr := t.replyAddr, replyKey := t.replyKey, stub := t.stub
    waveCore := t.waveCore, wavePkg := t.wavePkg, voted := t.voted, nanStop := t.nanStop, nanLater := t.nanLater
    roaming := true, admitted := true, stale := true }

/-- A thread that arrives from another package: its wave's block is there, here, or where it was; a stop of an MMA whose arrival it left behind is due (R130;
log 115). -/
def Thread.fromAfar (t : Thread) (pkg src : Nat) : Thread :=
  let p := t.packet
  let w := t.wavePkg.getD src
  { p with wavePkg := if w = pkg then none else some w, nanStop := p.nanStop.or p.nanLater.head?, nanLater := [] }

/-- The state after a thread leaves the context it stood in, which becomes its origin stub where it is the one (R62). -/
def State.leaveContext (s : State) (p : Place) (ep ctx : Nat) : State :=
  match p with
  | .ctx c x =>
    let t := s.thread c x
    let own := match t.stub with | some u => u.ep == endpoint s.pkg c && u.ctx == x | none => false
    s.setThread c x (if own then { stubFor := some (t.name, ep, ctx) } else Thread.idle)
  | .slot _ _ => s.vacate p

/-- The context that a roaming arrival takes on a core (R57, R63, R294): that of its own stub, or a free one that no waiting reservation wants; none where it waits in
the spill queue. -/
def State.arrivalPlace (s : State) (core : Nat) (t : Thread) : Option Nat :=
  if !(s.core core).spillQueue.isEmpty || s.coreSaved core || s.capped core t then none
  else match s.placeFor core t with
    | some x => if (s.gathering core).isSome && (s.thread core x).isFree then none else some x
    | none => none

/-- Why a roaming arrival at a core is refused (R58): 1 no valid job entry, 0 no room; none where it is taken. -/
def State.arrivalRefused (s : State) (core : Nat) (t : Thread) : Option Nat :=
  if (s.jobIndex (t.job.setWidth 32)).isNone then some 1
  else if (s.arrivalPlace core t).isSome || (s.freeSlot (spillDie core)).isSome then none else some 0

/-- The state with a roaming arrival resident, or at the tail of the core's spill queue (R63). -/
def State.arrive (s : State) (core : Nat) (t : Thread) : State :=
  match s.arrivalPlace core t with
  | some x => s.settleIn core x t
  | none =>
    let d := spillDie core
    match s.freeSlot d with
    | none => s
    | some i =>
      let t := { t with st := .spilled, readyTime := s.cycle }
      let s := s.setDie d { s.die d with slots := Assoc.insert (s.die d).slots i { core := core, thr := t } }
      (s.moveStub t.name (endpoint s.pkg core) 0).enqueue core t.name

/-- MIGRATE (R61): the packet reaches its destination core.  That of a thread whose job is cancelled ends it here, or finds it ended at its source on this package
(R48). -/
def execMigrate (s : State) : Host.Outcome State Fault Refusal :=
  event s fun s =>
    match s.msg? s.subject.a with
    | some m =>
      match m.body with
      | .migrate t core _ =>
        s.once m fun s =>
          let ep := endpoint s.pkg core
          if m.origin.pkg = s.pkg then
            match s.whereIs t.name with
            | none => s.drop m.id
            | some p =>
              if (s.at p).ending.isSome then s.drop m.id
              else if (s.core core).lost then s.giveUp m
              else
                let t := { t with flags := (s.at p).flags, nanStop := (s.at p).nanStop, nanLater := (s.at p).nanLater }
                match s.arrivalRefused core t.packet with
                | some why => s.refuse m 0x11 (BitVec.ofNat 64 why) (BitVec.ofNat 64 ep)
                | none => ((s.drop m.id).leaveContext p ep 0).arrive core t.packet
          else
            let cancelled := match s.jobIndex (t.job.setWidth 32) with | some i => (s.jobEntry i).cancelled | none => false
            let t := t.fromAfar s.pkg m.origin.pkg
            if cancelled then ((((s.answer 1 m (.ack true [] [] 0)).forget core t).flushFlags t).leaveAny core t)
            else if (s.core core).lost then s.answer 1 m (.nack 0x12 0 (BitVec.ofNat 64 ep) false)
            else
              match s.arrivalRefused core t with
              | some why => s.answer 1 m (.nack 0x11 (BitVec.ofNat 64 why) (BitVec.ofNat 64 ep) false)
              | none =>
                let s := ((s.answer 1 m (.ack true [] [] 0)).arrive core t).liveUp (t.job.setWidth 32) 1
                let s := { s with trail := s.trail.filter fun e => e.1 != t.name }
                match t.stub with
                | some u => s.tell core (endpointPkg u.ep) t.name (.moved ep 0)
                | none => s
      | _ => s
    | none => s

/-- The state after another package has taken a migrating thread (R413): its source context is free, or its stub names where it went, and what comes for it here goes
on there (R62). -/
def State.departed (s : State) (m : Msg) (t : Thread) (core : Nat) : State :=
  match s.whereIs t.name with
  | none => s
  | some p =>
    let u := s.at p
    let late := (u.flags &&& ~~~t.flags).setWidth 6
    let s := ((s.leaveContext p (endpoint m.dst core) 0).moveStub t.name (endpoint m.dst core) 0).liveDown (t.job.setWidth 32) 1
    let s := { s with trail := (t.name, m.dst) :: s.trail.filter fun e => e.1 != t.name }
    let s := if late = 0 then s else s.tell (s.coreAt p) m.dst t.name (.flags (t.job.setWidth 32) late)
    match u.nanStop.or u.nanLater.head? with
    | some n => if t.nanStop.isNone ∧ t.nanLater.isEmpty then s.tell (s.coreAt p) m.dst t.name (.nan { n with after := none }) else s
    | none => s

/-! ## CALL -/

/-- The state after a CALLAT is refused at its target (R201): a CAPACITY record with NOSTOP goes to the carried FAULTREC. -/
def State.refuseCall (s : State) (core : Nat) (caller : Name) (who : Identity) (cause : Nat) : State :=
  s.record core who.faultrec who.troot who.job (0x11 + nostopBit) 0 0 caller.toNat (endpoint s.pkg core) cause

/-- The state after a CALLAT entry reaches its target core (R54, R201). -/
def State.takeCall (s : State) (core : Nat) (caller : Name) (e : TaskEntry) (who : Identity) : State :=
  match s.jobIndex who.job with
  | none => s.refuseCall core caller who 1
  | some i =>
    if (s.jobEntry i).cancelled then s
    else
      match s.pushTask core e who none with
      | some s => s
      | none =>
        if !(s.jobEntry i).allows 1 then s.refuseCall core caller who 2
        else
          match s.create core { taskThread (e.dwords 0) who with stale := true } with
          | none => s.refuseCall core caller who 0
          | some (_, s) => s.liveUp who.job 1

/-- CALL (R201).  It waits for the caller's earlier stores (R146) and where the target's scratchpad is held (R370, R372); a RESET tile drops it
(R373), and a lost core gives FABRIC (R425). -/
def execCall (s : State) : Host.Outcome State Fault Refusal :=
  event s fun s =>
    match s.msg? s.subject.a with
    | some m =>
      match m.body with
      | .call core e who =>
        if m.origin.pkg = s.pkg ∧ s.earlierOpen m.origin.name m.id then s
        else if s.heldAtTile (dequeBase core) then s
        else
          s.once m fun s =>
            let ack : Body := .ack true [] [] 0
            let done := fun (s : State) => if m.origin.pkg = s.pkg then s.drop m.id else s.answer 1 m ack
            if (s.core core).lost then
              let ep := BitVec.ofNat 64 (endpoint s.pkg core)
              if m.origin.pkg = s.pkg then s.refuse m 0x12 0 ep else s.answer 1 m (.nack 0x12 0 ep true)
            else if s.tileStateAt (dequeBase core) = .reset then
              let t := (tileAt (dequeBase core)).getD 0
              let s := s.setTile t { s.tile t with dropped := (s.tile t).dropped + 1 }
              if m.origin.pkg = s.pkg then s.refuse m 0x12 0 (BitVec.ofNat 64 t)
              else s.answer 1 m (.nack 0x12 0 (BitVec.ofNat 64 t) true)
            else done ((s.countRedirect (dequeBase core)).takeCall core m.origin.name e who)
      | _ => s
    | none => s

/-! ## CONTROL -/

/-- CONTROL_CANCEL (R48). -/
def execControlCancel (s : State) : Host.Outcome State Fault Refusal :=
  event s fun s =>
    match s.msg? s.subject.a with
    | some m =>
      match m.body with
      | .cancelJob job => s.once m fun s => (s.cancelJob job).answer 1 m (.ack true [] [] 0)
      | _ => s
    | none => s

/-- The TLB entries of a core without those that an invalidation drops (R391). -/
def Core.invalidate (c : Core) (i : TlbInv) : Core :=
  { c with tlb := c.tlb.filter fun e =>
      !((e.leaf.getLsbD 11 || i.allRoots || e.root == i.root) && (i.allPages || e.va == i.va / 2 ^ e.bits * 2 ^ e.bits)) }

/-- The state without the entries that were read from other packages, and without the reads of more that are under way: a walk reads them again (R154, R376). -/
def State.forgetEntries (s : State) : State :=
  { s with farEntries := []
           flight := s.flight.filter fun m =>
             !(m.origin.walker && m.origin.pkg == s.pkg && (match m.body with | .load .. | .data .. => true | _ => false)) }.wakeCond .table

/-- The state after an invalidation on every core of the package, whose walk caches are empty then (R391). -/
def State.invalidateAll (s : State) (i : TlbInv) : State := { s.forgetEntries with cores := Assoc.mapVals (fun _ c => c.invalidate i) s.cores, walkCaches := [] }

/-- Whether a directory lock holds a write (R391, R392), as its home on another package has told, or as this package's directory has it; and whether a watch at its home
stands for a wait that was read there. -/
def State.lockHolds (s : State) (m : Msg) : Bool :=
  m.held ||
    (match m.body, m.registered with
     | .bulk ((a, _) :: _) _, _ => gpaPkg a == s.pkg && s.locked (gpaLocal a)
     | .store bs _ _ _ _, some no => bs.any fun b => gpaPkg b.1 == s.pkg && s.lockedFor (gpaLocal b.1) no
     | .atomic _ pa _ _ _ _ _, some no => gpaPkg pa == s.pkg && s.lockedFor (gpaLocal pa) no
     | .reduce _ pa _ _, some no => gpaPkg pa == s.pkg && s.lockedFor (gpaLocal pa) no
     | _, _ => false)

/-- Whether work of the device from before a number still holds a translation that it was issued with, where a test picks its core: the barrier of an engine
operation or a copy, whose writes no lock holds, and the line of a timer record (R154; log 116). -/
def State.workOpen (s : State) (id : Nat) (p : Nat → Bool) : Bool :=
  let free := fun (op : Nat) => !s.flight.any fun m => m.origin.dev == some op && m.origin.pkg == s.pkg && s.lockHolds m
  (s.tiles.any fun t =>
    (t.2.engine.any fun (op : EngineOp) => decide (op.id < id) && p op.core && free op.id) ||
    t.2.copies.any fun (c : Copy) => decide (c.id < id) && p c.core && free c.id) ||
  s.cores.any fun c => p c.1 && c.2.timers.any fun e => decide (e.2.since < id)

/-- Whether something that holds a translation from before a number is still to send its access, where a test picks its core (R154): a held store of a run-ahead,
which is performed or discarded at its verdict, or work of the device. -/
def State.heldOpen (s : State) (id : Nat) (p : Nat → Bool) : Bool :=
  (s.cores.any fun c => p c.1 && c.2.ctxs.any fun x => match x.2.bank with | some b => b.stores.any fun h => decide (h.since < id) | none => false) ||
    s.workOpen id p

/-- Whether a request that is older than a number is still to be performed, or its value to return, where a test picks its core (R154): a write that a directory lock
holds counts as applied. -/
def State.accessOpen (s : State) (id : Nat) (p : Nat → Bool) : Bool :=
  s.flight.any fun m => decide (m.req.getD m.id < id) && m.origin.pkg == s.pkg && m.relay.isNone && p m.origin.core &&
    (match m.body with
     | .load .. | .icache .. | .arm .. | .data .. | .old .. => true
     | .store .. | .atomic .. | .reduce .. | .bulk .. | .await .. => !s.lockHolds m
     | _ => false)

/-- Whether what an invalidation waits for on the cores that a test picks is still open (R154), and the pair of numbers for the next look: `ids.1` is the
request number when the entries were dropped; `ids.2` is the number below which requests are waited for, 0 while some may still leave. -/
def State.dropOpen (s : State) (ids : Nat × Nat) (p : Nat → Bool) : Bool × (Nat × Nat) :=
  if s.heldOpen ids.1 p then (true, (ids.1, 0))
  else
    let n := if ids.2 = 0 then s.nextId else ids.2
    (s.accessOpen n p, (ids.1, n))

/-! ### Pages (R392, R393) -/

/-- The state after the device writes a range of whole lines of Damask memory or a scratchpad: the cells' bytes, zero elsewhere, under a key slot. -/
def State.deviceFill (s : State) (a n key : Nat) (cells : List Host.Cell) : State :=
  let as := (addrs a n).map (gpa s.pkg)
  let s := s.mask s.nextSeq as
  let e : Sector := { tag := s.tag (s.effKey key), written := BitVec.allOnes 64 }
  let sectors := if region a = .damask then (List.range (n / 64)).foldl (fun k i => Assoc.insert k (a / 64 + i) e) s.sectors else s.sectors
  let s := (List.range (n / 64)).foldl (fun s i => s.sliceWrite key (addrs (a + 64 * i) 64)) s
  let s := { s with mem := Memory.paste s.mem a n cells, sectors := sectors
                    poison := s.poison.filter fun p => !(decide (a ≤ p) && decide (p < a + n))
                    slicePoison := s.slicePoison.filter fun p => !(decide (a ≤ p) && decide (p < a + n)) }
  (s.fireFor none as).retest (addrs a n)

/-- The bytes of a range under a key slot that are not zero, by their offset. -/
def State.cellsOf (s : State) (a n key : Nat) : List Host.Cell :=
  (List.range n).filterMap fun i => let b := s.rawByte (a + i) key; if b = 0 then none else some (i, b)

/-- The entry of a page in migration. -/
def State.pageMove (s : State) (page : Nat) : Option PageMove := s.moves.find? fun x => x.page == page

/-- The state with the entry of a page replaced. -/
def State.setMove (s : State) (x : PageMove) : State := { s with moves := x :: s.moves.filter fun y => y.page != x.page }

/-- Whether a message is a write or an atomic on a page. -/
def Msg.writesPage (m : Msg) (pkg page : Nat) : Bool :=
  let on := fun pa => gpaPkg pa == pkg && gpaLocal pa / 0x10000 == page
  match m.body with
  | .store ((a, _) :: _) _ _ _ _ => on a
  | .atomic _ pa _ _ _ _ _ => on pa
  | .reduce _ pa _ _ => on pa
  | _ => false

/-- A request put into a list in the order of registration, those that have not registered last. -/
def byRegistration (m : Msg) : List Msg → List Msg
  | [] => [m]
  | x :: xs =>
    match m.registered, x.registered with
    | some a, some b => if a < b then m :: x :: xs else x :: byRegistration m xs
    | some _, none => m :: x :: xs
    | none, _ => x :: byRegistration m xs

/-- The state with the writes that a page's lock held ahead of everything else, in the order in which they registered (R153, R393). -/
def State.releaseHeld (s : State) (page : Nat) : State :=
  let held := s.flight.filter fun m => m.dst == s.pkg && decide (m.due ≤ s.cycle) && m.writesPage s.pkg page
  let rest := s.flight.filter fun m => !(m.dst == s.pkg && decide (m.due ≤ s.cycle) && m.writesPage s.pkg page)
  { s with flight := held.foldl (fun l m => byRegistration m l) [] ++ rest }

/-- The state after the waits on words of a page have moved with it (R393): to their new place on this package, or to the home on another. -/
def State.moveWaits (s : State) (page target newKey : Nat) : State :=
  let on := fun (w : WaitAct) => match w.watched with | a :: _ => a / 0x10000 == page | [] => false
  let new := fun a => target * 0x10000 + a % 0x10000
  let here := gpaPkg (target * 0x10000) == s.pkg
  let moved := fun (w : WaitAct) =>
    match w with
    | .join a _ => .join (gpaLocal (new a)) newKey
    | w => w.moved fun a => gpaLocal (new a)
  let s := { s with flight := s.flight.map fun (m : Msg) =>
    match m.body with
    | .await w pa key true false =>
      if m.dst = s.pkg ∧ on w then
        (if here then { m with body := .await (moved w) (new pa) newKey true false } else { m with due := s.cycle, body := .await w pa key false false })
      else m
    | _ => m }
  s.places.foldl (fun s p =>
    let t := s.at p
    if !on t.wait.act then s
    else if here then s.setAt p { t with wait := { t.wait with act := moved t.wait.act } }
    else
      let pa := new ((t.wait.act.watched).headD 0)
      (s.setAt p { t with wait := { t.wait with act := .far } }).send 234 (gpaPkg pa) { s.originOf (s.coreAt p) t with ea := t.wait.a } (.await (moved t.wait.act) pa newKey false false)) s

/-- The state with the requests that have registered at a page taken to its new place on this package (R393). -/
def State.moveRequests (s : State) (page target : Nat) : State :=
  let moved := fun a => if a / 0x10000 = gpa s.pkg (page * 0x10000) / 0x10000 then target * 0x10000 + a % 0x10000 else a
  if gpaPkg (target * 0x10000) ≠ s.pkg then s
  else
    { s with flight := s.flight.map fun m =>
        if m.dst = s.pkg ∧ m.registered.isSome ∧ m.writesPage s.pkg page then
          { m with body := m.body.rebase moved, masked := m.masked.map moved, told := m.told.map fun w => moved (w * 4) / 4 }
        else m }

/-- The state with a watch that another package's home sends on: of a thread of this package, its line stands here now; of another, its fires go there (R393). -/
def State.watchMoved (s : State) (r : Registration) (home : Nat) : State :=
  if home ≠ s.pkg then (s.watchFor home r)
  else
    let ours := fun (x : Registration) => x.name == r.name && x.reg == r.reg && x.token == r.token
    if !s.watches.any ours then s
    else
      let s := { s with nextSeq := s.nextSeq + 1
                        watches := s.watches.map fun x => if ours x then { x with line := r.line, armed := s.nextSeq, away := none } else x }
      match s.coreOfName r.name with | some c => s.armLine c (gpaLocal (r.line * 256) / 256) | none => s

/-- The watches that still stand on a page, by its local number. -/
def State.watchesOn (s : State) (page : Nat) : List Registration :=
  s.watches.filter fun r => r.line / 256 == gpa s.pkg (page * 0x10000) / 0x10000

/-- The state with the watches of a page at the page's new place: on this package, each at its directory there; on another, told to it, and the requests that tell
it (R393). -/
def State.moveWatches (s : State) (page target : Nat) : State × List Nat :=
  let rs := s.watchesOn page
  let new := fun (r : Registration) => { r with line := target * 256 + r.line % 256 }
  let s' := { s with watches := s.watches.map fun (r : Registration) => if rs.contains r then new r else r }
  if gpaPkg (target * 0x10000) = s.pkg then
    (rs.foldl (fun s r => match s.coreOfName r.name with | some c => s.armLine c (gpaLocal ((new r).line * 256) / 256) | none => s) s', [])
  else
    rs.foldl (fun x r =>
      (x.1.tell (homeCore (page * 0x10000)) (gpaPkg (target * 0x10000)) r.name (.watch (new r) (r.away.getD s.pkg)), x.2 ++ [x.1.nextId]))
      ({ s' with watches := s'.watches.filter fun r => !(r.line / 256 == target && r.away.isSome) }, [])

/-- The state after a page has been copied and its watches have moved: it forwards, and what its lock held goes on in the order in which it registered (R393). -/
def State.switched (s : State) (m : Msg) (x : PageMove) (target newKey : Nat) : State :=
  let held := s.flight.filter fun r => r.dst == s.pkg && r.registered.isSome && r.writesPage s.pkg x.page
  let s := (s.moveWaits x.page target newKey).setMove { x with target := some target, burst := some m.id, waits := held.map (·.id) }
  let s := s.releaseHeld x.page
  if gpaPkg (target * 0x10000) = s.pkg then s.moveRequests x.page target
  else
    (held.foldl (fun l m => byRegistration m l) []).foldl (fun s r => s.passOn r ((r.body.spans.headD (0, 0)).1)) s

/-- Whether one of some requests is still in flight. -/
def State.anyOpen (s : State) (ids : List Nat) : Bool := ids.any fun i => (s.msg? i).isSome

/-- The state after a move sends the next of its steps to the package of its frame: the frame's reservation, then one burst of 4 KiB after another. -/
def State.moveStep (s : State) (m : Msg) (x : PageMove) (target oldKey newKey : Nat) : State :=
  let a := x.page * 0x10000
  let o : Origin := { pkg := s.pkg, core := homeCore a, dev := some s.nextId, job := m.origin.job }
  let k := x.moved - 1
  let body : Body :=
    if x.moved = 0 then .page .test (gpaLocal (target * 0x10000) / 0x10000) newKey
    else .bulk ((List.range 4096).map fun i => (target * 0x10000 + k * 4096 + i, s.rawByte (a + k * 4096 + i) oldKey)) newKey
  (s.setMove { x with moved := x.moved + 1, burst := some s.nextId }).send 234 (gpaPkg (target * 0x10000)) o body

/-- The state after the frame of a move on another package is free again, for requests of the page's homes; and the request that says so. -/
def State.releaseFrame (s : State) (m : Msg) (page target newKey : Nat) : State :=
  s.send 234 (gpaPkg (target * 0x10000)) { pkg := s.pkg, core := homeCore (page * 0x10000), job := m.origin.job }
    (.page .release (gpaLocal (target * 0x10000) / 0x10000) newKey)

/-- The state after a step of a page's move at its home: every write that registered before the lock is applied first; then the page is copied, at once
on this package, by one burst of 4 KiB after another to a frame of another, which is kept for it; then its watches move; then it forwards.  A refusal that concerns the new
frame has 1 in word 2. -/
def State.movePage (s : State) (m : Msg) (x : PageMove) (target oldKey newKey : Nat) : State :=
  let a := x.page * 0x10000
  let early := s.flight.any fun r => r.writesPage s.pkg x.page && (match r.registered with | some q => decide (q < x.since) | none => false)
  if early then s.postGathered fun r => r.writesPage s.pkg x.page
  else if gpaPkg (target * 0x10000) = s.pkg then
    ((s.deviceFill (gpaLocal (target * 0x10000)) 0x10000 newKey (s.cellsOf a 0x10000 oldKey)).moveWatches x.page target).1.switched m x target newKey
  else
    match x.burst.bind s.msg?, x.burst.bind (Assoc.look s.fetched) with
    | some _, _ => s
    | none, some (.failed code w4) =>
      let s := { s with fetched := Assoc.erase s.fetched (x.burst.getD 0) }.setMove { x with moved := 0, burst := none }
      (if x.moved = 1 then s else s.releaseFrame m x.page target newKey).answer 1 m (.nack code 1 w4 false)
    | none, _ =>
      let s := { s with fetched := Assoc.erase s.fetched (x.burst.getD 0) }
      if x.moved ≤ 16 then s.moveStep m x target oldKey newKey
      else if s.anyOpen x.waits then s
      else if !(s.watchesOn x.page).isEmpty then
        let (s, ids) := s.moveWatches x.page target
        s.setMove { x with waits := ids }
      else
        let id := s.nextId
        let s := (s.releaseFrame m x.page target newKey).switched m x target newKey
        match s.pageMove x.page with | some y => s.setMove { y with waits := id :: y.waits } | none => s

/-- The state after a step of a page migration, or a write-back, at a page's homes (R392, R393, R395). -/
def State.pageAt (s : State) (m : Msg) (op : PageOp) (page : Nat) : State :=
  let refused : Body := .nack 0x05 0 0 false
  match op with
  | .lock =>
    if (s.pageMove page).isSome then s.answer 1 m refused
    else (s.setMove { page := page, target := none, since := s.nextSeq }).answer 60 m (.value 0)
  | .test =>
    if (s.pageMove page).isSome then s.answer 1 m refused
    else (s.setMove { page := page, target := none, since := s.nextSeq, frame := true }).answer 1 m (.value 0)
  | .release => { s with moves := s.moves.filter fun y => !(y.page == page && y.frame) }.answer 1 m (.value 0)
  | .switch target oldKey newKey =>
    match s.pageMove page with
    | some x =>
      if x.frame then s.answer 1 m refused
      else if x.target.isSome then
        if x.burst ≠ some m.id then s.answer 1 m refused
        else if s.anyOpen x.waits then s
        else (s.setMove { x with burst := none, waits := [] }).answer (if gpaPkg (target * 0x10000) = s.pkg then 2000 else 1) m (.value 0)
      else if gpaPkg (target * 0x10000) = s.pkg ∧ (s.pageMove (gpaLocal (target * 0x10000) / 0x10000)).isSome then
        s.answer 1 m (.nack 0x05 1 0 false)
      else s.movePage m x target oldKey newKey
    | none => s.answer 1 m refused
  | .finish =>
    match s.pageMove page with
    | some x =>
      if x.target.isNone then s.answer 1 m refused
      else if x.burst.isSome then s
      else { s with moves := s.moves.filter fun y => y.page != page }.answer 60 m (.value 0)
    | none => s.answer 1 m refused
  | .clean line =>
    let pa := gpa s.pkg (line * 256)
    if (s.farPage pa).isSome then s.passOn m pa else (s.cleanLine (s.forwarded (line * 256) / 256)).answer 100 m (.value 0)

/-- CONTROL_TLBINV (R391): the entries are dropped on arrival, and the answer comes once no access that used them is open (R154).  The steps of a page
migration at another package's homes come the same way. -/
def execControlTlbinv (s : State) : Host.Outcome State Fault Refusal :=
  event s fun s =>
    match s.msg? s.subject.a with
    | some m =>
      match m.body with
      | .tlbinv i none =>
        s.once m fun s => (s.invalidateAll i).modMsg m.id fun m => { m with body := .tlbinv i (some (s.nextId, s.nextId)) }
      | .tlbinv i (some ids) =>
        match s.dropOpen ids fun _ => true with
        | (true, ids) => s.modMsg m.id fun m => { m with body := .tlbinv i (some ids) }
        | (false, _) => s.answer 1 m (.ack true [] [] 0)
      | .page op page key =>
        s.once m fun s =>
          match s.peerRefuses m (gpa s.pkg (page * 0x10000)) key with
          | some code => s.answer 1 m (.nack code 0 0 false)
          | none => s.pageAt m op page
      | _ => s
    | none => s

/-! ## Parts of tagged blocks (R412) -/

/-- The state with a copy of a tile changed. -/
def State.modCopy (s : State) (tile id : Nat) (f : Copy → Copy) : State :=
  let t := s.tile tile
  s.setTile tile { t with copies := t.copies.map fun (c : Copy) => if c.id = id then f c else c }

/-- A copy of a tile. -/
def State.copy? (s : State) (tile id : Nat) : Option Copy := (s.tile tile).copies.find? fun c => c.id == id

/-- A copy and its tile. -/
def State.findCopy (s : State) (id : Nat) : Option (Nat × Copy) :=
  s.tiles.findSome? fun t => (t.2.copies.find? fun c => c.id == id).map fun c => (t.1, c)

/-- The sector of a copy that a block index names: the first at or after those written (R280). -/
def Copy.sectorOf (c : Copy) (index : Nat) : Nat := c.done + (index + 65536 - c.done % 65536) % 65536

/-- The state after the time limit of a block's missing part begins to run, with the first of the two that arrives (R412). -/
def State.awaitPart (s : State) (tile : Nat) (c : Copy) (k : Nat) : State :=
  if c.timers.contains k then s
  else
    (s.modCopy tile c.id fun c => { c with timers := c.timers ++ [k] }).notice (s.cycle + Config.microseconds16) .sidebandTimeout
      { a := tile, b := c.id, word := BitVec.ofNat 32 k }

/-- The state after the payload of a tagged block arrives from another package, where its header comes by the side band (R412). -/
def State.partArrived (s : State) (m : Msg) : State :=
  match m.origin.block, m.origin.dev with
  | some i, some id =>
    if m.head.isNone then s
    else match s.findCopy id with | some (tile, c) => s.awaitPart tile c (c.sectorOf i) | none => s
  | _, _ => s

/-! ## Tickets (R98, R243, R244, R408) -/

/-- The state after a number of an endpoint is called: every context that is known to wait for it has its notice, and its 16 microseconds run. -/
def State.callNumber (s : State) (ep : Nat) (n : Word) : State :=
  let g := s.gate ep
  let g' : TicketGate :=
    { g with called := n, active := g.active ++ [(n, s.cycle, 0)], takers := g.takers.filter fun t => t.1 != n }
  let s := { s with tickets := Assoc.insert s.tickets ep g' }
  let s := (s.notice (s.cycle + Config.microseconds16) .ticketExpiry { a := ep, word := n }).post 30 {} (.ticketCall ep n ((endpointCore ep).getD 0))
  (g.takers.filter fun t => t.1 == n).foldl (fun s t =>
    s.send 30 t.2.1 { pkg := s.pkg, core := ((endpointCore ep).getD 0) } (.ticketCall ep n t.2.2)) s

/-- The state after an endpoint's gateway has called as many numbers as four unretired ones allow. -/
def State.callTickets : Nat → State → Nat → State
  | 0, s, _ => s
  | k + 1, s, ep =>
    let g := s.gate ep
    if g.active.length < 4 ∧ g.called ≠ g.next then State.callTickets k (s.callNumber ep (g.called + 1)) ep else s

/-- TICKET (R98): a number is issued in the order of arrival; a TKWAIT of another package asks for a number's call (R244, R408). -/
def execTicket (s : State) : Host.Outcome State Fault Refusal :=
  event s fun s =>
    match s.msg? s.subject.a with
    | some m =>
      match m.body with
      | .ticket ep =>
        s.once m fun s =>
          let g := s.gate ep
          let n := g.next + 1
          let s := { s with tickets := Assoc.insert s.tickets ep { g with next := n } }
          (s.answer 30 m (.value (n.setWidth 64))).callTickets 4 ep
      | .ticketWait ep n =>
        s.once m fun s =>
          let g := s.gate ep
          if g.hasCalled n then s.answer 30 m (.value (if g.isActive n then 2 else 1))
          else
            let taker := (n, m.origin.pkg, m.origin.core)
            { s with tickets := Assoc.insert s.tickets ep { g with takers := g.takers.filter (· != taker) ++ [taker] } }.answer 30 m (.value 0)
      | _ => s
    | none => s

/-- The state after a ticket is retired: the next number is called. -/
def State.retireTicket (s : State) (ep : Nat) (n : Word) : State :=
  let g := s.gate ep
  if g.isActive n then
    let s := { s with tickets := Assoc.insert s.tickets ep { g with active := g.active.filter fun a => a.1 != n } }
    s.callTickets 4 ep
  else s

/-- TICKET_EXPIRY (R98): a called ticket is retired 20,800 cycles after its call. -/
def execTicketExpiry (s : State) : Host.Outcome State Fault Refusal :=
  event s fun s => s.retireTicket s.subject.a s.subject.word

/-- TICKET_CALL_NOTICE (R408): every context that waits for the number, or for an earlier one, goes on, with its admission where it is unretired (R244). -/
def execTicketCallNotice (s : State) : Host.Outcome State Fault Refusal :=
  event s fun s =>
    match s.msg? s.subject.a with
    | some m =>
      match m.body with
      | .ticketCall ep n _ =>
      s.once m fun s =>
      let s := if m.origin.pkg = s.pkg ∨ m.head.isNone then s.drop m.id else s.answer 1 m (.value 0)
      let g := s.gate ep
      let far := endpointPkg ep != s.pkg
      let s := if far then s.hearCall ep n else s
      s.places.foldl (fun s p =>
        let t := s.at p
        let waits := t.wait.k == 8 && t.wait.act == .done 0 && t.wait.a.toNat == ep
        let called := if far then s.heardCalled ep (t.wait.v.setWidth 32) else g.hasCalled (t.wait.v.setWidth 32)
        if waits && called then
          s.completeAt p fun t => if far then { t with ticket := some (ep, t.wait.v.setWidth 32) } else t.admission g ep (t.wait.v.setWidth 32)
        else s) s
      | _ => s
    | none => s

/-- The state with bytes counted against the ticket that a request of a thread carries to an endpoint: at 64 KiB it is retired (R98, R244). -/
def State.ticketBytes (s : State) (o : Origin) (pa n : Nat) : State :=
  match o.ticket, ownerCore (gpaLocal pa) with
  | some (ep, k), some c =>
    let g := s.gate ep
    if ep = endpoint s.pkg c ∧ g.isActive k then
      let active := g.active.map fun a => if a.1 = k then (a.1, a.2.1, a.2.2 + n) else a
      let s := { s with tickets := Assoc.insert s.tickets ep { g with active := active } }
      if active.any fun a => a.1 == k && decide (65536 ≤ a.2.2) then s.retireTicket ep k else s
    else s
  | _, _ => s

end Sys2Proof.Machine
end

