-- ==== Sys2Proof/Machine/Home.lean ====
section
/-!
DEFINITION. Requests at their homes and replies at their cores: LOAD, STORE, ATOMIC, REDUCE, RECALL, WATCH_REGISTRATION (R86, R138 to R144, R227,
R371, R373, R392), stores to device registers (R85, R383, R384, R388, R429), and DATA, ACK, NACK (R31, R213, R406).
-/

namespace Sys2Proof.Machine

/-! ## LOAD -/

/-- Whether an earlier device-register access of the thread of a request has not been performed (R85). -/
def State.deviceBefore (s : State) (m : Msg) : Bool :=
  s.flight.any fun x => x.origin.same m.origin && decide (x.id < m.id) &&
    (match x.body with
     | .load ps _ _ _ => ps.any fun p => isDevice p.pa
     | .store bs _ _ _ _ => bs.any fun b => isDevice b.1
     | _ => false)

/-- The value of a piece at its home. -/
def State.homePiece (s : State) (key : Nat) (p : Piece) : Nat :=
  if isDevice p.pa then s.regLoad (gpaLocal p.pa) p.size else s.val (s.forwarded (gpaLocal p.pa)) p.size key

/-- A word of Damask memory as it stands at the home, for an L1. -/
def State.homeWord (s : State) (key w : Nat) : Nat × L1Word :=
  (w, { val := BitVec.ofNat 32 (s.val (s.forwarded (gpaLocal (w * 4))) 4 key), key := key, moment := s.nextId })

/-- The words of a Damask sector as they stand at the home, for an L1. -/
def State.sectorWords (s : State) (key a : Nat) : List (Nat × L1Word) :=
  (List.range 16).map fun i => s.homeWord key (a / 64 * 16 + i)

/-- The first poisoned byte of the pieces of a load, by its local address. -/
def State.poisonIn (s : State) (ps : List Piece) : Option Nat :=
  ps.findSome? fun p => if isDevice p.pa then none else (addrs (s.forwarded (gpaLocal p.pa)) p.size).find? fun a => s.poisoned a

/-- The state after a load is served at its home. -/
def State.serveLoad (s : State) (m : Msg) (ps : List Piece) (key : Nat) (fill : Bool) (epoch : Nat) : State :=
  match ps with
  | [] => s.drop m.id
  | p :: _ =>
    let a := gpaLocal p.pa
    let d := s.latency m.origin.core p.pa / 2
    match s.peerRefuses m p.pa key with
    | some code => s.answer d m (.nack code 0 (BitVec.ofNat 64 a) false)
    | none =>
      if s.tileStateAt a = .reset then s.answer d m (.nack 0x12 0 (BitVec.ofNat 64 ((tileAt a).getD 0)) false)
      else
        match s.poisonIn ps with
        | some x => s.answer d m (.nack 0x14 0 (BitVec.ofNat 64 x) false)
        | none =>
          let x := s.forwarded a
          let d := if isDamask p.pa ∧ !s.sliceHolds x key then d + Config.sliceMiss else d
          let vals := ps.map fun p => (p.lane, s.homePiece key p)
          let (s, vals) := s.headerAside m vals
          ((s.countRedirect a).sliceRead x key).answer d m (.data vals (if fill then s.sectorWords key p.pa else []) epoch)

/-- The state after a request of another package has been held for the first time, by a directory lock or by a watch on its words: its package is told (R391). -/
def State.noteHeld (s : State) (m : Msg) : State :=
  if m.origin.pkg = s.pkg ∨ m.held then s else (s.reply 1 m .heldNote).modMsg m.id fun m => { m with held := true }

/-- The state after a wait of another package's thread arrives at the home of its words: it is answered where its condition holds, and armed otherwise
(R200, R237). -/
def State.serveAwait (s : State) (m : Msg) (w : WaitAct) (pa key : Nat) : State :=
  let a := gpaLocal pa
  let d := s.latency m.origin.core pa / 2
  match s.peerRefuses m pa key with
  | some code => s.answer d m (.nack code 0 (BitVec.ofNat 64 a) false)
  | none =>
    if s.tileStateAt a = .reset then s.answer d m (.nack 0x12 0 (BitVec.ofNat 64 ((tileAt a).getD 0)) false)
    else
      match w.watched.find? fun x => s.poisoned (s.forwarded x) with
      | some x => s.answer d m (.nack 0x14 0 (BitVec.ofNat 64 x) false)
      | none =>
        let w := w.moved s.forwarded
        let s := s.countRedirect a
        if s.waitMet w then s.answer d m (.data [(0, 0)] [] 0)
        else (s.noteHeld m).modMsg m.id fun m => { m with due := 2 ^ 64, body := .await w pa key true false }

/-- Whether an atomic or a reduction that has registered, and that no later lock holds, is still to be applied to a piece's bytes (R144): a load of another package's
thread comes after it. -/
def State.behindUnits (s : State) (p : Piece) : Bool :=
  s.flight.any fun x => x.dst == s.pkg &&
    (match x.body, x.registered with
     | .store .., _ => false
     | _, some no => x.writesIn (s.homeAddr p.pa) p.size && !s.lockedFor (gpaLocal (s.homeAddr p.pa)) no
     | _, none => false)

/-- LOAD (R403): it waits at a tile that holds accesses, behind its thread's writes of the same words (R138) and behind the atomics and reductions on them that
registered first (R144), and behind its thread's earlier device-register accesses. -/
def execLoad (s : State) : Host.Outcome State Fault Refusal :=
  event s fun s =>
    match s.msg? s.subject.a with
    | some m =>
      match m.body with
      | .load ps key fill epoch =>
        if ps.any (fun p => s.heldAtTile (gpaLocal p.pa) || (!isDevice p.pa && (s.ownOpenAt m (s.homeAddr p.pa) p.size || s.behindUnits p))) then s
        else if (s.farPage (((ps.head?).map (·.pa)).getD 0)).isSome then s.passOn m ((((ps.head?).map (·.pa)).getD 0))
        else if ps.any (fun p => isDevice p.pa) && s.deviceBefore m then s
        else s.serveLoad m ps key fill epoch
      | .await w pa key _ met =>
        if met then s.answer (s.latency m.origin.core pa / 2) m (.data [(0, 0)] [] 0)
        else if s.heldAtTile (gpaLocal pa) || s.ownOpenAt m (s.homeAddr pa) 16 then s
        else if (s.farPage pa).isSome then s.passOn m pa
        else s.serveAwait m w pa key
      | _ => s
    | none => s

/-! ## STORE -/

/-- The words of Damask memory of a store that its core's L1 keeps (R70), as they stand at the home once it is applied; a recalled word is not kept (R144). -/
def State.storedWords (s : State) (m : Msg) (bs : List (Nat × Byte)) (key : Nat) : List (Nat × L1Word) :=
  (((bs.map (·.1 / 4)).eraseDups).filter fun w => isDamask (w * 4) && !m.told.contains w).map fun w => s.homeWord key w

/-- Whether a registered store waits at its home for requests that registered before it: atomics and reductions on its bytes, and stores to a word of which it
writes only a part (R134, R138). -/
def State.behindOthers (s : State) (bs : List (Nat × Byte)) (no : Nat) : Bool :=
  let part := fun w => !((addrs (w * 4) 4).all fun a => bs.any fun b => b.1 == a)
  s.flight.any fun x => x.dst == s.pkg && (match x.registered with | some q => decide (q < no) | none => false) &&
    (match x.body with
     | .store cs _ _ _ _ => bs.any fun b => !postsAtOnce b.1 && cs.any (fun c => c.1 / 4 == b.1 / 4) && part (b.1 / 4)
     | _ => bs.any fun b => x.writesIn b.1 1)

/-- The state after a store's data is applied at its home, over what registered later, and acknowledged. -/
def State.applyStore (s : State) (m : Msg) (bs : List (Nat × Byte)) (key seq : Nat) : State :=
  match bs with
  | [] => s.answer 1 m (.ack true [] [] 0)
  | (pa, _) :: _ =>
    let a := gpaLocal pa
    let d := s.latency m.origin.core pa / 2
    if s.tileStateAt a = .reset then
      let t := (tileAt a).getD 0
      (s.setTile t { s.tile t with dropped := (s.tile t).dropped + 1 }).answer d m (.nack 0x12 0 (BitVec.ofNat 64 t) true)
    else
      let epoch := if m.origin.pkg = s.pkg then (s.core m.origin.core).l1Epoch else m.epoch
      let fresh := bs.filter fun b => !m.masked.contains b.1
      let s := (s.countRedirect a).ticketBytes m.origin pa bs.length
      let s := s.applyBytes (some (m.origin.writer seq)) key (fresh.map fun b => (s.forwarded (gpaLocal b.1), b.2))
      (s.answer d m (.ack true ((bs.map (·.1 / 4)).eraseDups) (s.storedWords m bs key) epoch)).ownDone m.origin

/-- The state after a registered store is applied, once its data is posted, its home lets it, and nothing before it is to be applied first (R140, R370, R372,
R392). -/
def State.storeTurn (s : State) (m : Msg) (bs : List (Nat × Byte)) (key no : Nat) (posted : Bool) : State :=
  if bs.any fun b => s.lockedFor (gpaLocal b.1) no then s.noteHeld m
  else if !posted ∨ bs.any (fun b => s.heldAtTile (gpaLocal b.1)) ∨ s.behindOthers bs no then s
  else s.applyStore m bs key no

/-- STORE (R140): it registers on arrival and is applied once its data is posted and its home lets it (R141, R370, R372, R392). -/
def execStore (s : State) : Host.Outcome State Fault Refusal :=
  event s fun s =>
    match s.msg? s.subject.a with
    | some m =>
      match m.body with
      | .store bs key seq posted rel =>
        if rel ∧ s.earlierOpen m.origin.name m.id ∧ m.origin.pkg = s.pkg then s
        else if seq.isNone && s.ownBefore m then s
        else
          s.once m fun s =>
            if (s.farPage ((bs.headD (0, 0)).1)).isSome then s.passOn m ((bs.headD (0, 0)).1)
            else
            match seq with
            | none =>
              match s.peerRefuses m ((bs.headD (0, 0)).1) key with
              | some code => s.answer 1 m (.nack code 0 (BitVec.ofNat 64 (gpaLocal ((bs.headD (0, 0)).1))) true)
              | none =>
                let n := s.nextSeq
                let s := { s with nextSeq := n + 1 }
                let bs := bs.map fun b => (s.homeAddr b.1, b.2)
                (s.modMsg m.id fun m => { m with body := .store bs key (some n) posted rel }).storeTurn m bs key n posted
            | some n => s.storeTurn m bs key n posted
      | _ => s
    | none => s

/-! ## ATOMIC and REDUCE -/

/-- A list of requests in which one stands right behind the last of some others. -/
def behindLast (id : Nat) (others : List Nat) (l : List Msg) : List Msg :=
  let rest := l.filter fun m => m.id != id
  let after := (rest.reverse.takeWhile fun m => !others.contains m.id).reverse
  rest.take (rest.length - after.length) ++ l.filter (fun m => m.id == id) ++ after

/-- Run an operation of the atomic units that registered under a number, on a word at its home: it waits at a held tile or a locked page, and until what
registered before it on the word has been recalled and applied (R144); it then comes next (R134). -/
def State.homeTurn (s : State) (m : Msg) (no pa size : Nat) (f : Author → State → State) : State :=
  let first := s.aheadOf pa size no
  if s.lockedFor (gpaLocal pa) no then s.noteHeld m
  else if s.heldAtTile (gpaLocal pa) then s
  else if !first.isEmpty then
    let s := s.recallAt pa size no
    { s with flight := behindLast m.id (first.map (·.id)) s.flight }
  else f (m.origin.writer no) s

/-- Run an operation of the atomic units on a word at its home, where it registers on arrival (R140). -/
def State.atHome (s : State) (m : Msg) (pa size : Nat) (f : Author → State → State) : State :=
  match m.regd with
  | some no => s.homeTurn m no pa size f
  | none =>
    let no := s.nextSeq
    let s := { s with nextSeq := no + 1 }.modMsg m.id fun x => { x with regd := some no, body := x.body.rebase s.homeAddr }
    s.homeTurn m no (s.homeAddr pa) size f

/-- ATOMIC (R86): the old value returns. -/
def execAtomic (s : State) : Host.Outcome State Fault Refusal :=
  event s fun s =>
    match s.msg? s.subject.a with
    | some m =>
      match m.body with
      | .atomic op pa size v cmp key rel =>
        if rel ∧ s.earlierOpen m.origin.name m.id ∧ m.origin.pkg = s.pkg then s
        else if m.regd.isNone && s.ownBefore m then s
        else
          s.once m fun s =>
            if (s.farPage pa).isSome then s.passOn m pa else
            s.atHome m pa size fun w s =>
            let a := gpaLocal pa
            let d := s.latency m.origin.core pa / 2
            match s.peerRefuses m pa key with
            | some code => s.answer d m (.nack code 0 (BitVec.ofNat 64 a) false)
            | none =>
              if s.tileStateAt a = .reset then s.answer d m (.nack 0x12 0 (BitVec.ofNat 64 ((tileAt a).getD 0)) false)
              else
                match s.poisonIn [{ lane := 0, pa := pa, size := size }] with
                | some x => s.answer d m (.nack 0x14 0 (BitVec.ofNat 64 x) false)
                | none =>
                  let s := (s.countRedirect a).ticketBytes m.origin pa size
                  let (old, s) := s.amoAt (some w) op (s.forwarded a) size key v.toNat cmp.toNat
                  (s.answer d m (.old (BitVec.ofNat 64 old) (wordsOf pa size))).ownDone m.origin
      | _ => s
    | none => s

/-- EPOCH of a block. -/
def State.waveEpoch (s : State) (a : Nat) : Nat := fieldOf (s.wcb a 4) 32 32

/-- Dword 4 of a block after a vote of a kind and a predicate. -/
def voteDword (d : Nat) (all p : Bool) : Nat :=
  let started := fieldOf d 2 1 == 1
  let mixed := fieldOf d 6 1 == 1 || (started && (fieldOf d 5 1 == 1) != all)
  let d := putField d 5 1 (if started then fieldOf d 5 1 else bit all)
  let d := putField d 6 1 (bit mixed)
  let d := putField d 4 1 (bit (fieldOf d 4 1 == 1 || p))
  let d := putField d 3 1 (bit (fieldOf d 3 1 == 1 && p))
  putField d 2 1 1

/-- The state with a wave's DEADLINE no later than a vote's (R315). -/
def State.setDeadline (s : State) (a : Nat) (timeout : Nat) : State :=
  if timeout = 0 then s
  else
    let d := s.cycle + 1024 * timeout
    if s.wcb a 5 = 0 ∨ d < s.wcb a 5 then s.setWcb a 5 d else s

/-- What CSTATE reads of a wave's block (R325): EPOCH, LAST and MEMBER. -/
def State.collSeen (s : State) (a : Nat) : Nat :=
  at' 32 (s.waveEpoch a) + at' 30 (fieldOf (s.wcb a 4) 0 2) + at' 28 (fieldOf (s.wcb a 3) 48 1)

/-- The state after a member's CJOIN of an identifier at its wave's block, before it counts in VOTED; or the reason of its refusal (R314). -/
def State.joinAt (s : State) (w id : Nat) : Except Nat State :=
  let st := s.cstat w
  if 2 ≤ st ∨ (st = 1 ∧ fieldOf (s.wcb w 3) 0 32 ≠ id) then .error 2
  else .ok (if st = 0 then ((s.wcbField w 3 62 2 1).wcbField w 3 0 32 id).wcbField w 4 16 7 0 else s)

/-- The state after a member's CLEAVE at its wave's block, before it counts in VOTED; or the reason of its refusal (R316). -/
def State.leaveAt (s : State) (w : Nat) : Except Nat State :=
  let st := s.cstat w
  if st < 2 then .error 5
  else if st = 2 ∧ fieldOf (s.wcb w 4) 2 1 = 1 then .error 6
  else .ok (if st = 2 then (s.wcbField w 3 62 2 3).wcbField w 4 16 7 0 else s)

/-- The reason for which a CBR is refused by its wave's block, 0 for none (R315). -/
def State.voteBar (s : State) (w : Nat) : Nat :=
  let st := s.cstat w
  if st < 2 then 5 else if st = 3 then 6 else 0

/-- The state after one more member of a wave counts in VOTED. -/
def State.countVote (s : State) (w : Nat) : State := s.wcbField w 4 16 7 (s.voted w + 1)

/-- The state after a vote at its wave's block, before it counts in VOTED (R315). -/
def State.castAt (s : State) (w : Nat) (all p : Bool) (timeout : Nat) : State :=
  (s.setWcb w 4 (voteDword (s.wcb w 4) all p)).setDeadline w timeout

/-- The state after a member on another package counts in VOTED, and the wave's test is made. -/
def State.countAfar (s : State) (m : Msg) (w : Nat) : State :=
  { (s.countVote w) with farVoters := s.farVoters ++ [(w, m.origin.name, m.origin.pkg)] }.waveTest w

/-- The state after a member on another package has its effect on a wave control block here (R39, R197), whose tile drops it while RESET (R373).  Its collective
instructions act as those of a member here, with an answer: a vote's has what CSTATE reads, and in [3:0] 0, 1 for a missed epoch, or the reason of its refusal (log 77). -/
def State.waveAt (s : State) (m : Msg) (op : WaveOp Thread) (a : Nat) : State :=
  let ack : Body := .ack false [] [] 0
  let orFlags := fun (f : Nat) => s.setWcb a 0 (s.wcb a 0 ||| f)
  let reset : Body := .nack 0x12 0 (BitVec.ofNat 64 ((tileAt a).getD 0)) false
  let value := fun (n : Nat) => Body.value (BitVec.ofNat 64 n)
  if s.tileStateAt a = .reset then
    s.answer 117 m (match op with | .grow => .value 64 | .join _ => reset | .quit => reset | .cast .. => reset | .read => reset | _ => ack)
  else
    let s := s.countRedirect a
    match op with
    | .flags f => (orFlags f.toNat).answer 117 m ack
    | .leave t =>
      let ours := fun (v : Nat × Name × Nat) => v.1 == a && v.2.1 == t.name
      let s' := (orFlags (t.flags.toNat % 64)).leaveWave (coreOfBlock a) { t with voted := s.farVoters.any ours } a
      { s' with farVoters := s'.farVoters.filter fun v => !ours v }.answer 117 m ack
    | .grow => (if s.waveSize a = 64 then s else s.growWave a).answer 117 m (.value (s.growAnswer a))
    | .shrink =>
      let d := s.wcb a 0
      (s.setWcb a 0 (putField (putField d 24 7 (s.waveSize a - 1)) 16 7 (s.waveLive a - 1))).answer 117 m ack
    | .join id =>
      match s.joinAt a id.toNat with
      | .error r => s.answer 117 m (value r)
      | .ok s => (s.countAfar m a).answer 117 m (value 0)
    | .quit =>
      match s.leaveAt a with
      | .error r => s.answer 117 m (value r)
      | .ok s => (s.countAfar m a).answer 117 m (value 0)
    | .cast all p timeout epoch =>
      if s.voteBar a ≠ 0 then s.answer 117 m (value (s.voteBar a))
      else if epoch ≠ s.waveEpoch a % 65536 then s.answer 117 m (value (s.collSeen a + 1))
      else ((s.castAt a all p timeout).countAfar m a).answer 117 m (value (s.collSeen a))
    | .read => s.answer 117 m (value (s.collSeen a))

/-- REDUCE (R86): applied once, and acknowledged; the answer to an engine's expectation brings the phase that it finds (R262). -/
def execReduce (s : State) : Host.Outcome State Fault Refusal :=
  event s fun s =>
    match s.msg? s.subject.a with
    | some m =>
      match m.body with
      | .reduce what pa key rel =>
        if rel ∧ s.earlierOpen m.origin.name m.id ∧ m.origin.pkg = s.pkg then s
        else if m.regd.isNone && s.ownBefore m then s
        else
          s.once m fun s =>
            if (s.farPage pa).isSome then s.passOn m pa else
            s.atHome m pa what.size fun w s =>
            let a := gpaLocal pa
            let d := s.latency m.origin.core pa / 2
            match s.peerRefuses m pa key with
            | some code => s.answer d m (.nack code 0 (BitVec.ofNat 64 a) true)
            | none =>
              if s.tileStateAt a = .reset then
                let t := (tileAt a).getD 0
                (s.setTile t { s.tile t with dropped := (s.tile t).dropped + 1 }).answer d m (.nack 0x12 0 (BitVec.ofNat 64 t) true)
              else
                let s := (s.countRedirect a).ticketBytes m.origin pa what.size
                let phase := (s.tbar (s.forwarded a)).phase
                let reply : Body := match what, m.origin.dev with
                  | .expect _, some _ => .value (BitVec.ofNat 64 phase)
                  | _, _ => .ack false (wordsOf pa what.size) [] 0
                (((s.reduceAt (some w) what (s.forwarded a) key).answer d m reply).ownDone m.origin).arrived m.id
      | .wave op pa => if s.heldAtTile (gpaLocal pa) then s else s.once m fun s => s.waveAt m op (gpaLocal pa)
      | _ => s
    | none => s

/-- The state after the homes of a page's new place have recalled a word of requests that this package's homes sent on: the cores that sent them first have the recall
(R144, R393). -/
def State.recallOn (s : State) (core w : Nat) : State :=
  (s.flight.filter fun x => x.origin.core == core && x.origin.pkg == s.pkg && x.relay.isSome && x.unacked.contains w).foldl (fun s x =>
    match x.relay.bind s.msg? with
    | some m =>
      let w' := (m.body.spans.headD (0, 0)).1 / 0x10000 * 0x4000 + w % 0x4000
      s.send 117 m.origin.pkg { pkg := s.pkg, core := core } (.recall (w' * 4) m.origin.core)
    | none => s) s

/-- RECALL (R144): the owner posts its gathered data for the word at once, and the word is invalid in its L1 for every context; it is acknowledged (R403). -/
def execRecall (s : State) : Host.Outcome State Fault Refusal :=
  event s fun s =>
    match s.msg? s.subject.a with
    | some m =>
      match m.body with
      | .recall pa core =>
        let w := pa / 4
        let ours := fun (x : Msg) => x.origin.core == core && x.origin.pkg == s.pkg && x.relay.isNone && x.unacked.contains w
        let s := s.postGathered ours
        let s := { s with flight := s.flight.map fun x => if ours x then { x with recalled := w :: x.recalled } else x }
        let s := (s.dropWords core [w]).recallOn core w
        if m.origin.pkg = s.pkg then s.drop m.id else s.answer 1 m (.ack true [] [] 0)
      | _ => s
    | none => s

/-- The state after a line that another package fetches is read at its home (R71, R378). -/
def State.serveLine (s : State) (m : Msg) (line key : Nat) : State :=
  let a := gpaLocal (line * 256)
  let d := s.latency m.origin.core (line * 256) / 2
  match s.peerRefuses m (line * 256) key with
  | some code => s.answer d m (.nack code 0 (BitVec.ofNat 64 a) false)
  | none =>
    if s.tileStateAt a = .reset then s.answer d m (.nack 0x12 0 (BitVec.ofNat 64 ((tileAt a).getD 0)) false)
    else if (addrs a 256).any fun x => s.poisoned x then s.answer d m (.nack 0x14 0 (BitVec.ofNat 64 a) false)
    else
      let vals := (List.range 32).map fun i => (i, s.val (s.forwarded a + 8 * i) 8 key)
      ((addrs 0 4).foldl (fun s i => s.sliceRead (s.forwarded a + 64 * i) key) (s.countRedirect a)).answer d m (.data vals [] 0)

/-- ICACHE_FILL (R71). -/
def execIcacheFill (s : State) : Host.Outcome State Fault Refusal :=
  event s fun s =>
    match s.msg? s.subject.a with
    | some m =>
      match m.body with
      | .icache core line key =>
      let id := m.id
      let o := m.origin
      let a := gpaLocal (line * 256)
      if (s.farPage (line * 256)).isSome then s.passOn m (line * 256)
      else if s.heldAtTile a then s
      else if o.pkg ≠ s.pkg then s.serveLine m line key
      else
        let s := s.drop id
        let pc := match s.named o.name with | some t => t.pc | none => 0
        if s.tileStateAt a = .reset then s.faultNamed o.name 0x12 pc (BitVec.ofNat 64 ((tileAt a).getD 0)) 0
        else if (addrs a 256).any fun x => s.poisoned x then s.faultNamed o.name 0x14 pc (BitVec.ofNat 64 (a + pc.toNat % 256)) 0
        else
          ((addrs 0 4).foldl (fun s i => s.sliceRead (s.forwarded a + 64 * i) key) (s.countRedirect a)).fillLine core line (s.bytes (s.forwarded a) 256 key) o.name
      | _ => s
    | none => s

/-- The state after the sectors of a line that a mask names have been read in their slice (R81). -/
def State.readMasked (s : State) (a key : Nat) (mask : BitVec 4) : State :=
  ((List.range 4).filter fun i => mask.getLsbD i).foldl (fun s i => s.sliceRead (a / 256 * 256 + 64 * i) key) s

/-- The state after an arm reaches a line whose page forwards to another package: it goes on to the line's home, once the thread's earlier writes of the line are applied
there (R151, R393); one of a thread of this package has its number first. -/
def State.armOn (s : State) (m : Msg) (reg : WReg) (line : Nat) (mask : BitVec 4) (key : Nat) (token : Option Nat) (x : Nat) : State :=
  if s.flight.any fun y => y.origin.same m.origin && decide (y.id < m.id) && y.writesIn (line * 256) 256 then s
  else if token.isSome || (s.relayOf m.id).isSome then s.passOn m (line * 256)
  else
    let no := s.nextSeq
    let r : Registration := { name := m.origin.name, reg := reg, line := x / 256, mask := mask, armed := no, token := no }
    let s := { s.dropWords m.origin.core (maskedWords line mask) with nextSeq := no + 1, watches := s.watches ++ [r] }
    let m' : Msg := { m with body := .arm reg line mask key (some no) }
    (s.modMsg m.id fun _ => m').passOn m' (line * 256)

/-- WATCH_REGISTRATION (R227): the arm point, and the masked sectors of a Damask line as they stand at it.  An arm that another package's home has sent on carries its
number. -/
def execWatchRegistration (s : State) : Host.Outcome State Fault Refusal :=
  event s fun s =>
    match s.msg? s.subject.a with
    | some m =>
      match m.body with
      | .arm reg line mask key token =>
        match s.farPage (line * 256) with
        | some x => s.armOn m reg line mask key token x
        | none =>
        let a := s.forwarded (gpaLocal (line * 256))
        let pa := gpa s.pkg a
        let s :=
          match token with
          | some no =>
            s.watchMoved { name := m.origin.author, reg := reg, line := pa / 256, mask := mask, armed := s.nextSeq, token := no } m.origin.authorPkg
          | none => if (s.whereIs m.origin.name).isSome then s.register m.origin.name m.origin.core reg (pa / 256) mask else s
        let sectors := (List.range 4).filter fun i => mask.getLsbD i
        let fill := if isDamask pa then sectors.flatMap fun i => s.sectorWords key (line * 256 + 64 * i) else []
        (s.readMasked a key mask).answer (s.latency m.origin.core pa / 2) m (.data [] fill (s.core m.origin.core).l1Epoch)
      | _ => s
    | none => s

/-! ## Stores to device registers -/

/-- Run a store to a device register: it is performed once, in the order of its thread's device-register accesses (R85), and acknowledged. -/
def State.onRegister (s : State) (f : (addr value : Nat) → Msg → State → State) : State :=
  match s.msg? s.subject.a with
  | some m =>
    match m.body with
    | .store bs key _ posted rel =>
      if !posted ∨ s.deviceBefore m ∨ (rel ∧ s.earlierOpen m.origin.name m.id ∧ m.origin.pkg = s.pkg) then s
      else
        s.once m fun s =>
          let pa := (bs.headD (0, 0)).1
          match s.peerRefuses m pa key with
          | some code => s.answer 1 m (.nack code 0 (BitVec.ofNat 64 (gpaLocal pa)) true)
          | none => f (gpaLocal pa / 8 * 8) (s.merged bs) m s
    | _ => s
  | none => s

/-- The acknowledgement of a device-register store. -/
def State.regDone (s : State) (m : Msg) : State := s.answer 100 m (.ack true [] [] 0)

/-- JOB_ENTRY_WRITE (R383). -/
def execJobEntryWrite (s : State) : Host.Outcome State Fault Refusal :=
  event s fun s => s.onRegister fun a v m s => (s.storeJob ((a - 0xF000100000) / 32) (a % 32 / 8) v).regDone m

/-- KEY_SLOT_WRITE (R384): a store that clears VALID is acknowledged once the slices have written back. -/
def execKeySlotWrite (s : State) : Host.Outcome State Fault Refusal :=
  event s fun s => s.onRegister fun a v m s =>
    let i := (a - 0xF000200000) / 128
    let k := s.key i
    let k' := k.store (a % 128 / 8) v
    if k.valid ∧ !k'.valid then
      let s := { s with keys := Assoc.insert s.keys i { k' with clearing := some m.origin } }
      (s.modMsg m.id fun x => { x with due := 2 ^ 64 }).notice (s.cycle + 1000) .keySlotWritebackDone { a := i, b := m.id }
    else { s with keys := Assoc.insert s.keys i k' }.regDone m

/-- KEY_SLOT_WRITEBACK_DONE (R384). -/
def execKeySlotWritebackDone (s : State) : Host.Outcome State Fault Refusal :=
  event s fun s =>
    match s.msg? s.subject.b with
    | some m =>
      match m.body with
      | .store .. =>
        let s := { s with keys := Assoc.insert s.keys s.subject.a { s.key s.subject.a with clearing := none } }
        (s.dropTagged s.subject.a).regDone m
      | _ => s
    | none => s

/-- TILE_ASSIGN_WRITE (R388). -/
def execTileAssignWrite (s : State) : Host.Outcome State Fault Refusal :=
  event s fun s => s.onRegister fun a v m s => (s.storeAssign ((a - 0xF000300000) / 8) v).regDone m

/-- QUANTUM_WRITE (R429). -/
def execQuantumWrite (s : State) : Host.Outcome State Fault Refusal :=
  event s fun s => s.onRegister fun a v m s =>
    match blockCore a with | some (c, _) => (s.storeBlock c 0 v).regDone m | none => s.regDone m

/-- ADMCAP_WRITE (R429). -/
def execAdmcapWrite (s : State) : Host.Outcome State Fault Refusal :=
  event s fun s => s.onRegister fun a v m s =>
    match blockCore a with | some (c, _) => (s.storeBlock c 8 v).regDone m | none => s.regDone m

/-- BKPT_WRITE (R429, R430). -/
def execBkptWrite (s : State) : Host.Outcome State Fault Refusal :=
  event s fun s => s.onRegister fun a v m s =>
    match blockCore a with | some (c, off) => (s.storeBlock c off v).regDone m | none => s.regDone m

/-- PKG_WRITE (R398): the package number is written once. -/
def execPkgWrite (s : State) : Host.Outcome State Fault Refusal :=
  event s fun s => s.onRegister fun _ v m s => (if s.pkgWritten then s else s.setPkg (v % 2 ^ 19)).regDone
    { m with origin := { m.origin with pkg := if s.pkgWritten ∨ m.origin.pkg ≠ s.pkg then m.origin.pkg else v % 2 ^ 19 } }

/-- REGISTER_WRITE (R85): the registers without an effect of their own. -/
def execRegisterWrite (s : State) : Host.Outcome State Fault Refusal :=
  event s fun s => s.onRegister fun a v m s => (s.storePlain a v).regDone m

/-! ## DATA -/

/-- The state with words placed in a core's L1 as an ordinary copy, but for those with unacknowledged stores; fills of the same words that are still
on their way are dropped. -/
def State.fillL1 (s : State) (core : Nat) (fill : List (Nat × L1Word)) (epoch : Nat) : State :=
  if fill.isEmpty ∨ epoch ≠ (s.core core).l1Epoch then s
  else
    let ok := fill.filter fun w => !s.unackedAt core w.1
    let s := s.dropWords core (ok.map (·.1))
    s.setCore core (ok.foldl (Core.putWord (Config.l1Sectors core)) (s.core core))

/-- The state after a far gateway has told a TKWAIT how its number stands: it waits on, or goes on, with its admission where the number is called and
unretired (R244). -/
def State.ticketAnswer (s : State) (p : Place) (status : Nat) : State :=
  if status = 0 then s
  else
    let w := (s.at p).wait
    (s.hearCall w.a.toNat (w.v.setWidth 32)).completeAt p fun t =>
      if status = 2 then { t with ticket := some (t.wait.a.toNat, t.wait.v.setWidth 32) } else t

/-- Whether a reply from another package answers nothing that is still asked: a further reply to a request (R411). -/
def State.unasked (s : State) (m : Msg) : Bool := m.head.isSome && (m.req.bind s.msg?).isNone

/-- The state after values reach the thread at a place that waits for them (R31, R142). -/
def State.deliver (s : State) (p : Place) (vals : List (Nat × Nat)) : State :=
  let t := s.at p
  match t.wait.act with
  | .data left got dst acq =>
    let got := got ++ vals
    if 1 < left then s.setAt p { t with wait := { t.wait with act := .data (left - 1) got dst acq } }
    else
      let s := if acq then s.acquire (s.coreAt p) else s
      match dst with
      | .none => (s.setAt p (dst.put got (s.at p))).wakeAt p
      | _ => s.completeAt p (dst.put got)
  | .again .event => s.wakeAt p
  | .far => (s.acquire (s.coreAt p)).completeAt p id
  | .done d =>
    if t.wait.k = 8 then s.ticketAnswer p ((vals.head?.map (·.2)).getD 0)
    else s.completeAt p fun t => match vals with | (_, v) :: _ => t.wg d (BitVec.ofNat 64 v) | [] => t
  | _ => s

/-- Whether a wait on watched words is still held at its tile. -/
def State.waitHeld (s : State) (w : WaitAct) : Bool := match w.watched with | a :: _ => s.heldAtTile a | [] => false

/-- The state without a reply and the request that it answers. -/
def State.dropBoth (s : State) (m : Msg) : State :=
  let s := s.drop m.id
  match m.req.bind s.msg? with
  | some r => let s := s.drop r.id; if r.dst ≠ s.pkg then s.netFreed r.origin.core else s
  | none => s

/-- The state after an answer to a core's access of some words: the L1 holds them no more, nor does a thread read an older store of them, whose acknowledgement is under
way (R138). -/
def State.outdate (s : State) (core no : Nat) (ws : List Nat) : State :=
  let s := s.dropWords core ws
  { s with flight := s.flight.map fun m =>
      if m.origin.core = core ∧ m.origin.pkg = s.pkg ∧ m.own.isSome ∧ decide (m.req.getD m.id < no) then { m with recalled := ws ++ m.recalled } else m }

/-- The state with sticky bits of a thread that has ended in its job's entry (R109). -/
def State.jobFlags (s : State) (job : Word) (f : BitVec 6) : State :=
  match s.jobIndex job with
  | some i => s.modJob i fun e => { e with flagsor := e.flagsor ||| f }
  | none => s

/-- The state after an entry of a table has been read from another package (R376, R393). -/
def State.entryRead (s : State) (a : Nat) (vals : List (Nat × Nat)) : State :=
  let v := fun i => ((vals.find? fun p => p.1 == i).map (·.2)).getD 0
  { s with farEntries := (a, v 0 + v 1 * 2 ^ 64) :: s.farEntries.filter fun e => e.1 != a }.wakeCond .table

/-- The request that a reply answers, where it carries another on (R393). -/
def State.relayFor (s : State) (m : Msg) : Option Msg := (m.req.bind s.msg?).bind fun r => if r.relay.isSome then some r else none

/-- Whether a reply answers a request from before the wait of the thread at a place. -/
def State.late (s : State) (p : Place) (m : Msg) : Bool := decide (m.req.getD m.id < (s.at p).wait.first)

/-- The state after values for a thread arrive. -/
def State.dataFor (s : State) (m : Msg) (vals : List (Nat × Nat)) : State :=
  match s.whereIs m.origin.name with
  | some p => if s.late p m then s else (s.deliver p vals).settle m.origin.name
  | none => s

/-- DATA (R31). -/
def execData (s : State) : Host.Outcome State Fault Refusal :=
  event s fun s =>
    match s.msg? s.subject.a with
    | some m =>
      if s.unasked m then s.drop m.id else
      match s.relayFor m with
      | some r => (s.drop m.id).relayed r m.body
      | none =>
      let n := m.origin.name
      let req : Option Body := m.about.or ((m.req.bind s.msg?).map (·.body))
      match m.body with
      | .data vals fill epoch =>
        if m.origin.walker then (s.dropBoth m).entryRead m.origin.ea.toNat vals
        else
        let s := ((s.partArrived m).dropBoth m).fillL1 m.origin.core fill epoch
        match req with
        | some (.icache core line _) =>
          s.fillLine core line ((List.range 32).flatMap fun i => leBytes 8 (((vals.find? fun v => v.1 == i).map (·.2)).getD 0)) n
        | _ =>
          match m.origin.dev with
          | some i => { s with fetched := Assoc.insert s.fetched i (.data vals) }
          | none => s.dataFor m vals
      | .old v words => ((s.dropBoth m).outdate m.origin.core (m.req.getD m.id) words).dataFor m [(0, v.toNat)]
      | .value v =>
        match m.origin.dev, req with
        | some i, _ =>
          let s := s.dropBoth m
          if (s.findCopy i).isSome then s else { s with fetched := Assoc.insert s.fetched i (.data [(0, v.toNat)]) }
        | none, some (.news _ (.flags job f)) => (s.dropBoth m).jobFlags job f
        | none, _ =>
        match s.whereIs n with
        | none => s.dropBoth m
        | some p =>
          if s.late p m then s.dropBoth m
          else if s.waitHeld (s.at p).wait.act then s
          else if (s.at p).wait.act.watched.isEmpty then ((s.dropBoth m).deliver p [(0, v.toNat)]).settle n
          else ((s.dropBoth m).testWait p).settle n
      | _ => s
    | none => s

/-! ## ACK and NACK -/

/-- The state after a home has told that a lock holds a request, or a watch stands for it: so it is for the request that it carries on (R391, R393). -/
def State.toldHeld (s : State) (m r : Msg) : State :=
  let s := (s.drop m.id).modMsg r.id fun x => { x with held := true }
  match r.relay.bind s.msg? with
  | some o => (s.noteHeld o).modMsg o.id fun x => { x with held := true }
  | none => s

/-- ACK (R213): the count of its thread falls, and what waits for it goes on. -/
def execAck (s : State) : Host.Outcome State Fault Refusal :=
  event s fun s =>
    match s.msg? s.subject.a with
    | some m =>
      if s.unasked m then s.drop m.id else
      match m.body with
      | .heldNote => match m.req.bind s.msg? with | some r => s.toldHeld m r | none => s.drop m.id
      | .ack store words fill epoch =>
        match s.relayFor m with
        | some r => (s.drop m.id).relayed r m.body
        | none =>
        let req : Option Msg := m.req.bind s.msg?
        let body : Option Body := req.map (·.body)
        let core := m.origin.core
        let s := s.dropBoth m
        let s := (s.outdate core (m.req.getD m.id) words).fillL1 core fill epoch
        match m.origin.lastResort with
        | some c => s.recordWritten c
        | none =>
        if m.origin.walker then { s with farEntries := s.farEntries.filter fun e => e.1 != m.origin.ea.toNat }
        else
        match body with
        | some (.migrate t c _) => match req with | some r => s.departed r t c | none => s
        | some (.store ..) => s.acknowledge m.origin.name store
        | some (.reduce ..) => (s.acknowledge m.origin.name store).arrived (m.req.getD m.id)
        | some (.wave (.flags _) _) => s.acknowledge m.origin.name store
        | some _ => s
        | none => s.acknowledge m.origin.name store
      | _ => s
    | none => s

/-- NACK (R406, R409): a retry leaves again after 2 microseconds; another refuses its request. -/
def execNack (s : State) : Host.Outcome State Fault Refusal :=
  event s fun s =>
    match s.msg? s.subject.a with
    | some m =>
      match m.body with
      | .nack code w2 w4 _ =>
        match (m.req.bind s.msg?).or (m.about.map fun b => { m with body := b }) with
        | none => s.drop m.id
        | some r =>
          if code = 0 then (s.drop m.id).notice (s.cycle + 2600) .dedupRetryTimer { a := r.id }
          else if code = 0x12 ∧ r.dst ≠ s.pkg ∧ r.sent = 0 then ((s.drop m.id).giveUp r).netFreed r.origin.core
          else if (match s.named r.origin.name with | some t => t.runsAhead | none => false) && r.body.posts && code != 0x12 then s
          else ((s.drop m.id).refuse r code w2 w4).netFreed r.origin.core
      | _ => s
    | none => s

end Sys2Proof.Machine
end

