-- ==== Sys2Proof/Machine/Waves.lean ====
section
/-!
DEFINITION. The device's own work for waves and jobs: a launch creates its waves (R44), a wave ends (R40), a job completes (R47).
-/

namespace Sys2Proof.Machine

/-! ## WAVE_CREATE (R43, R44) -/

/-- WAVES and WSIZE of a launch. -/
def Launch.waves (l : Launch) : Nat := fieldOf l.d1.toNat 0 24
def Launch.size (l : Launch) : Nat := fieldOf l.d1.toNat 24 7

/-- The core of the launch's next wave. -/
def Launch.nextCore (l : Launch) : Nat := launchCore l.d2.toNat (l.next % fieldOf l.d2.toNat 16 10)

/-- The identity of the launch's threads (R43). -/
def Launch.made (l : Launch) : Identity :=
  { l.who with
    auth := if fieldOf l.d6.toNat 2 1 = 1 then 0 else l.who.auth
    faultrec := if l.d5 = 0 then l.who.faultrec else l.d5
    prio := max (fieldOf l.d6.toNat 0 2) l.who.prio }

/-- The state after a launch has stopped: the threads that it never creates come off LIVE (R42). -/
def State.endLaunch (s : State) (l : Launch) : State :=
  ({ s with launches := s.launches.filter fun x => x.id != l.id }).liveDown l.who.job ((l.waves - l.next) * l.size)

/-- The state after a launch has found the spill area too full for its next wave (R44). -/
def State.stopLaunch (s : State) (l : Launch) : State :=
  (s.record l.core l.made.faultrec l.who.troot l.who.job (0x11 + nostopBit) 0 0 l.name.toNat l.next (l.next * l.size)).endLaunch l

/-- The state after a launch has created its next wave in a block. -/
def State.makeWave (s : State) (l : Launch) (block : Nat) : State :=
  let core := l.nextCore
  let after := some (l.name, l.id)
  let mk := fun i =>
    { waveThread l.made l.d0 l.d3 core (blockIndex core block) l.next i l.size after with stale := core != l.core }
  let (_, _, s) := s.createWave core mk l.size 0 0
  let s := s.initBlock block l.size l.d4 l.who.troot l.who.job
  let l' : Launch := { l with next := l.next + 1 }
  if l'.next < l.waves then
    ({ s with launches := s.launches.map fun (x : Launch) => if x.id = l.id then l' else x }).notice (s.cycle + 1) .waveCreate { a := l.id }
  else { s with launches := s.launches.filter fun x => x.id != l.id }

/-- The state after a launch has come to a core that is lost (R425): FABRIC with its endpoint, in a record with NOSTOP, and the launch ends. -/
def State.lostLaunch (s : State) (l : Launch) : State :=
  (s.record l.core l.made.faultrec l.who.troot l.who.job (0x12 + nostopBit) 0 0 l.name.toNat (endpoint s.pkg l.nextCore) 0).endLaunch l

/-- WAVE_CREATE (R44): a wave without a block waits, and is tried again when one is freed. -/
def execWaveCreate (s : State) : Host.Outcome State Fault Refusal :=
  event s fun s =>
    match s.launches.find? fun l => l.id == s.subject.a with
    | none => s
    | some l =>
      let gone := match s.jobIndex l.who.job with | some i => (s.jobEntry i).cancelled | none => true
      if gone then s.endLaunch l
      else if (s.core l.nextCore).lost then s.lostLaunch l
      else
        match s.freeBlock l.nextCore with
        | none => s
        | some w => if s.roomFor l.nextCore l.size then s.makeWave l w else s.stopLaunch l

/-! ## WAVE_END (R40) -/

/-- The state after a wave's block is free: threads and launches that wait for a block try again. -/
def State.freeWave (s : State) (a : Nat) : State :=
  let s := { s with waves := s.waves.filter (· != a), waveEnds := s.waveEnds.filter fun e => e.wcb != a
                    farVoters := s.farVoters.filter fun v => v.1 != a }
  let s := s.wakeCond .block
  s.launches.foldl (fun s l => s.notice (s.cycle + 1) .waveCreate { a := l.id }) s

/-- The state after the increment of a wave's COUNTER is not made (R40): the record with the code of the failed check, then the block is free. -/
def State.counterFault (s : State) (e : WaveEnd) (counter : Nat) (code : BitVec 8) (w4 : Dword) : State :=
  (s.record e.core e.faultrec e.troot e.job (code.toNat + nostopBit) 0 counter e.name.toNat w4.toNat e.wcb).freeWave e.wcb

/-- The state after the increment of a wave's COUNTER leaves as a release reduction, or is refused. -/
def State.countWave (s : State) (e : WaveEnd) : State :=
  let counter := s.wcb e.wcb 1 % 2 ^ 52
  if counter = 0 then s.freeWave e.wcb
  else
    let root := BitVec.ofNat 64 (fieldOf (s.wcb e.wcb 2) 32 27 * 0x2000)
    let job := BitVec.ofNat 32 (s.wcb e.wcb 2)
    match s.checkWalk root job (BitVec.ofNat 64 counter) 8 true true with
    | (_, .fault code w4) => s.counterFault e counter code w4
    | (s', .walk) => s'.notice (s.cycle + 16) .waveEnd { a := e.wcb }
    | (s', .ok x) =>
      match s.atomicFault x false with
      | some (code, w4) => s.counterFault e counter code w4
      | none =>
        let s := { s' with waveEnds := s'.waveEnds.map fun (y : WaveEnd) => if y.wcb = e.wcb then { y with red := some s'.nextId } else y }
        (s.sendReduce { pkg := s.pkg, core := e.core, job := job } (.alu .add 8 1) x.pa x.key true).notice (s.cycle + 1) .waveEnd { a := e.wcb }

/-- WAVE_END (R40): every member's stores and reductions are acknowledged when its end is counted; the block is free once the reduction is. -/
def execWaveEnd (s : State) : Host.Outcome State Fault Refusal :=
  event s fun s =>
    match s.waveEnds.find? fun e => e.wcb == s.subject.a with
    | none => s
    | some e =>
      match e.red with
      | none => s.countWave e
      | some r => if (s.msg? r).isSome then s.notice (s.cycle + 1) .waveEnd { a := e.wcb } else s.freeWave e.wcb

/-! ## JOB_COMPLETION (R47) -/

/-- JOB_COMPLETION (R47): 1 is added to the counter, a global physical address, under CKEY, once the job's stores are acknowledged; a mailbox line, which takes
only additions of size w, drops it (R76, R97). -/
def execJobCompletion (s : State) : Host.Outcome State Fault Refusal :=
  event s fun s =>
    let job := s.subject.word
    match s.completions.find? fun c => c.job == job with
    | none => s
    | some c =>
    let opened := s.flight.any fun m => m.origin.pkg == s.pkg && m.origin.job == job &&
      (match m.body with | .store .. => true | .reduce .. => true | .ack .. => true | _ => false)
    if opened then s.notice (s.cycle + 1) .jobCompletion s.subject
    else
      let s := { s with completions := s.completions.filter fun x => x != c }
      if isMailbox (gpaLocal c.counter) then s
      else s.sendReduce { pkg := s.pkg, job := job, free := true } (.alu .add 8 1) c.counter c.key true

end Sys2Proof.Machine
end

