-- ==== Sys2Proof/Machine/ThreadState.lean ====
section
/-!
DEFINITION. Thread-state operations (R348 to R366): the context image, TSTOP, TSTART, TREAD, TWRITE and TSTATE, and the end of a stop.
-/

namespace Sys2Proof.Machine

/-! ## Writes of the image (R349, R354, R374) -/

/-- Whether a value of AUTH has its zero fields zero and COUNT at most 16 (R349). -/
def authOk (x : Dword) : Bool := x.extractLsb' 40 24 == 0 && x.extractLsb' 5 3 == 0 && decide (x.toNat % 32 ≤ 16)

/-- Whether a value of TROOT has its zero fields zero (R374). -/
def trootOk (x : Dword) : Bool := x.extractLsb' 40 24 == 0 && x.extractLsb' 0 13 == 0

/-- Whether a value is an instruction address: [1:0] and [63:52] are zero. -/
def pcOk (x : Dword) : Bool := x.extractLsb' 52 12 == 0 && x.extractLsb' 0 2 == 0

/-- Whether a value of PFXST has its zero fields zero (R161): a mode without RMO among them (R171). -/
def pfxstOk (x : Dword) : Bool := x.extractLsb' 40 24 == 0 && (x.getLsbD 25 || x.extractLsb' 26 2 == 0)

/-- A thread with DEPTH written: a level above DEPTH − 1 holds zeros (R160). -/
def Thread.withDepth (t : Thread) (n : Nat) : Thread :=
  { t with
    loopst := BitVec.ofNat 64 n
    loopb := Vector.ofFn fun (i : Fin 3) => if i.val < n then t.loopb[i] else 0
    loopc := Vector.ofFn fun (i : Fin 3) => if i.val < n then t.loopc[i] else 0 }

/-- Whether a value of LOOPBn passes its layout: an address of a word at an active level, zero above (R160). -/
def Thread.startOk (t : Thread) (n : Nat) (x : Dword) : Bool := if n < t.depth then pcOk x else x == 0

/-- Whether a value of LOOPCn passes its layout: LEN is 1 to 65,535 at an active level, and all is zero above (R160). -/
def Thread.countOk (t : Thread) (n : Nat) (x : Dword) : Bool :=
  if n < t.depth then x.extractLsb' 16 16 == 0 && x.extractLsb' 0 16 != 0 else x == 0

/-- A thread after a TWRITE of a special register (R354); none where it is refused.  JOB is written elsewhere. -/
def Thread.writeSpecialBy (t : Thread) (n : Nat) (x : Dword) : Option Thread :=
  match n with
  | 0x003 => if flagsOk x then some { t with flags := x } else none
  | 0x004 => if x.toNat < 2 ^ 52 ∧ x.toNat % 64 = 0 then some { t with faultrec := x } else none
  | 0x005 => if authOk x then some { t with auth := x } else none
  | 0x006 => if trootOk x then some { t with troot := x } else none
  | 0x007 => if x.toNat < 4 then some { t with prio := x } else none
  | 0x009 => if x.toNat < 2 then some { t with nanctl := x } else none
  | 0x00A => if pcOk x then some { t with cabort := x } else none
  | 0x00B => if x.toNat < 2 ^ 32 then some { t with ctimeout := x } else none
  | 0x016 => if pfxstOk x then some { t with pfxst := x, pfxAt := Vector.replicate 3 none, modBad := false, hintBad := false } else none
  | 0x017 => if x.toNat < 4 then some (t.withDepth x.toNat) else none
  | 0x018 => if t.startOk 0 x then some { t with loopb := t.loopb.set 0 x } else none
  | 0x019 => if t.countOk 0 x then some { t with loopc := t.loopc.set 0 x } else none
  | 0x01A => if t.startOk 1 x then some { t with loopb := t.loopb.set 1 x } else none
  | 0x01B => if t.countOk 1 x then some { t with loopc := t.loopc.set 1 x } else none
  | 0x01C => if t.startOk 2 x then some { t with loopb := t.loopb.set 2 x } else none
  | 0x01D => if t.countOk 2 x then some { t with loopc := t.loopc.set 2 x } else none
  | _ => none

/-- A thread after a TWRITE of an index that touches its registers alone; none where it is refused. -/
def Thread.writeImage (t : Thread) (i : Nat) (x : Dword) : Option Thread :=
  let t := t.looped
  if i < 0x20 then (if t.roaming ∧ 9 ≤ i then none else some (t.wg (Fin.ofNat 32 i) x))
  else if i < 0xA0 then
    if t.roaming then none
    else
      let j := (i - 0x20) / 8
      let v := BitVec.ofNat 512 (putField ((t.v[j]?.getD 0).toNat) (64 * ((i - 0x20) % 8)) 64 x.toNat)
      some { t with v := t.v.setIfInBounds j v }
  else if i < 0xA8 then (if t.roaming then none else some { t with k := t.k.setIfInBounds (i - 0xA0) x })
  else if i < 0xB0 then
    if pcOk x then
      some { t with b := t.b.setIfInBounds (i - 0xA8) x, prepared := t.prepared.setIfInBounds (i - 0xA8) false
                    targets := t.targets.setIfInBounds (i - 0xA8) [] }
    else none
  else if i = 0xB0 then (if pcOk x then some { t with pc := x, pcWritten := t.pcWritten || x != t.pc } else none)
  else if i = 0xB6 then (if x.toNat < 2 ^ 59 ∧ x.toNat % 8 = 0 then some { t with replyAddr := x } else none)
  else if i = 0xBE then (if x.toNat < 4096 then some { t with replyKey := x.toNat } else none)
  else if 0xC0 ≤ i then t.writeSpecialBy (i - 0xC0) x
  else none

/-- Whether a value of a watch register has its zero fields zero (R157). -/
def watchOk (x : Dword) : Bool := x.extractLsb' 56 6 == 0 && x.extractLsb' 0 8 == 0

/-- The state after a TWRITE of a watch register of the thread at a place: ARMED arms it where WATCH would (R227); none where it is refused. -/
def State.writeWatch (s : State) (p : Place) (r : WReg) (x : Dword) : Option State :=
  let t := s.at p
  if !watchOk x then none
  else if !armed x then some ((s.withdraw t.name r).setAt p (t.ww r x))
  else
    match s.checkWalk t.troot (t.job.setWidth 32) (BitVec.ofNat 64 (x.toNat % 2 ^ 52)) 1 true false with
    | (s, .ok a) =>
      if isDevice a.pa ∨ gpaPkg a.pa ≠ s.pkg then none
      else
        let s := (s.withdraw t.name r).setAt p (t.ww r x)
        some (s.register t.name (s.coreAt p) r (a.pa / 256) (x.extractLsb' 52 4))
    | _ => none

/-- The state after a TWRITE of JOB (R354): the job has a valid entry, and the thread's count moves to it; a burst thread is counted by its
reservation. -/
def State.writeJob (s : State) (p : Place) (x : Dword) : Option State :=
  let t := s.at p
  let job : Word := x.setWidth 32
  if 2 ^ 32 ≤ x.toNat ∨ (s.jobIndex job).isNone then none
  else
    let s := s.setAt p { t with job := x }
    some (if t.burst then s else (s.liveUp job 1).liveDown (t.job.setWidth 32) 1)

/-- The state after a TWRITE of an index of the thread at a place; none where it is refused. -/
def State.writeAt (s : State) (p : Place) (i : Nat) (x : Dword) : Option State :=
  if i = 0xB1 then (if x = 0 then some ((s.beginEnd p none).settle (s.at p).name) else none)
  else if 0xB2 ≤ i ∧ i < 0xB6 then s.writeWatch p (Fin.ofNat 4 (i - 0xB2)) x
  else if i = 0xC2 then s.writeJob p x
  else ((s.at p).writeImage i x).map fun t => s.setAt p t

/-! ## TSTATE (R366) -/

/-- The value of TSTATE for the thread at a place. -/
def State.summary (s : State) (p : Place) : Dword :=
  let t := s.at p
  let core := s.coreAt p
  let saved := decide (core < 640) && (s.tile (tileOf core)).state == .saved
  let prior := if t.st = .stopped ∨ t.st = .held then t.prior.code.toNat else 0
  BitVec.ofNat 64
    (t.st.code.toNat + at' 4 prior + at' 8 (bit t.spSleep) + at' 9 (bit t.roaming) + at' 10 (bit t.bank.isSome) + at' 11 (bit t.burst) +
     at' 12 (bit saved) + at' 16 (if t.st = .faulted then t.fcode.toNat else 0) +
     at' 24 (match p with | .ctx _ x => x | .slot _ _ => 0) + at' 32 (endpoint s.pkg core))

/-! ## Stopping and starting (R36, R360 to R362) -/

/-- The state after a stop reaches the thread at a place: its issue ends at once, the recorded addresses of its prefixes are dropped (R169), and a start that still waits for an earlier stop is undone
(R361).  A holding stop leaves the prepared b-registers and the stall turns of its position as they are: DESIGN CHOICE (log 87). -/
def State.stopThread (s : State) (p : Place) (hold : Bool) : State :=
  let t := { s.at p with startAfter := false, pfxAt := Vector.replicate 3 none }
  match t.st with
  | .stopped | .held | .faulted => s.setAt p { t with stopping := true }
  | .waiting =>
    if t.wait.beforeStop then s.setAt p { t with stopping := true }
    else s.setAt p { t with st := .stopped, prior := .waiting, stopping := true }
  | .bound =>
    if hold then s.setAt p { t with st := .held, prior := .bound, stopping := true, yielding := false }
    else s.setAt p { t.unbound with st := .stopped, prior := .bound, stopping := true }
  | .spilled =>
    let core := s.coreAt p
    let s := s.setAt p { t with st := .stopped, prior := .spilled, stopping := true }
    s.setCore core { s.core core with spillQueue := (s.core core).spillQueue.filter (· != t.name) }
  | st => s.setAt p { t with st := .stopped, prior := st, stopping := true }

/-- The state after a start reaches the thread at a place: `far` holds where another core's thread started it (R150), and what it does next comes after the
starter's earlier stores (R149). -/
def State.startThread (s : State) (p : Place) (far : Bool) (after : List (Name × Nat)) : State :=
  let t := s.at p
  let t := { t with stale := t.stale || far, after := t.after ++ after }
  if t.stopping then s.setAt p { t with startAfter := true }
  else
    match t.st with
    | .held => s.setAt p { t with startAfter := true }
    | .faulted => s.setAt p (t.resumeFault s.cycle)
    | .stopped =>
      match t.prior with
      | .waiting => s.setAt p { t with st := .waiting, prior := .free }
      | .sleeping => s.setAt p { t with st := .sleeping, prior := .free }
      | .spilled =>
        let s := s.setAt p { t with st := .spilled, prior := .free }
        if t.spSleep then s else s.enqueue (s.coreAt p) t.name
      | _ => s.setAt p { t.toReady s.cycle with prior := .free }
    | _ => s

/-- Whether a thread is stopped, so that its image may be read and written (R365). -/
def Thread.halted (t : Thread) : Bool := t.st == .stopped || t.st == .held || t.st == .faulted

/-- Whether a message is a TSTOP of a name that has been applied and waits for the stop to be complete. -/
def Msg.awaitsStop (m : Msg) (n : Name) : Bool :=
  match m.body with | .threadOp (.stop _) x => x == n && decide (2 ^ 64 ≤ m.due) | _ => false

/-- The core of a name, for the time that an answer takes. -/
def nameCore (n : Name) : Nat := (endpointCore (nameEp n)).getD 0

/-- STOP_COMPLETE (R360, R361): the TSTOPs of the name complete; a TSTART that came meanwhile takes effect. -/
def execStopComplete (s : State) : Host.Outcome State Fault Refusal :=
  event s fun s =>
    let n := s.subject.name
    let done := fun (s : State) =>
      (s.flight.filter fun m => m.awaitsStop n).foldl (fun s m => s.answer (s.latency m.origin.core (sysBase (nameCore n)) / 2) m (.value 0)) s
    match s.whereIs n with
    | none => done s
    | some p =>
      let t := s.at p
      if t.ending.isSome then s
      else if !t.stopping then done s
      else if !t.stopDone then s
      else
        let s := done (s.setAt p { t with stopping := false, startAfter := false })
        if t.startAfter then s.startThread p false [] else s

/-! ## Operations at their target (R348, R365) -/

/-- The answer to an operation: a value, or a fault of its issuer with words 4 and 5. -/
inductive OpAnswer where
  | value (v : Dword)
  | fault (code : BitVec 8) (w4 w5 : Dword)
  /-- The answer comes with STOP_COMPLETE. -/
  | later
deriving DecidableEq, Repr

/-- Apply an operation to the thread at a place (R365). -/
def State.operateAt (s : State) (op : ThreadOp) (p : Place) (far : Bool) (after : List (Name × Nat)) : OpAnswer × State :=
  let t := s.at p
  let busy : OpAnswer := .fault 0x07 2 (t.name.setWidth 64)
  match op with
  | .stop hold => (.later, (s.stopThread p hold).settle t.name)
  | .start => (.value 0, s.startThread p far after)
  | .read i =>
    if !t.halted then (busy, s)
    else (.value (t.imageWord s.cycle i.toNat), s)
  | .write i x =>
    if !t.halted then (busy, s)
    else match s.writeAt p i.toNat x with | some s => (.value 0, s) | none => (.fault 0x08 i 0, s)
  | .state => (.value (s.summary p), s)

/-- Apply an operation to the thread at a place: that of a saved context acts on its save image (R365). -/
def State.operate (s : State) (op : ThreadOp) (p : Place) (far : Bool) (after : List (Name × Nat)) : OpAnswer × State :=
  let (a, s) := (s.refresh p).operateAt op p far after
  (a, s.writeBack p)

/-- What the check of the address of a watch that TWRITE would arm answers (R227, R354); none for every other operation. -/
def State.armCheck (s : State) (op : ThreadOp) (p : Place) : Option (State × Checked) :=
  let t := s.at p
  match op with
  | .write i x =>
    if t.halted && decide (0xB2 ≤ i.toNat ∧ i.toNat < 0xB6) && watchOk x && armed x then
      some (s.checkWalk t.troot (t.job.setWidth 32) (BitVec.ofNat 64 (x.toNat % 2 ^ 52)) 1 true false)
    else none
  | _ => none

/-- Whether the thread at a place can take an operation now: it is not migrating, its slot is not moving (R367), the record of its fault is
written where it is to be started, and a walk for a watch that it arms waits for nothing (R376). -/
def State.opReady (s : State) (op : ThreadOp) (p : Place) : Bool :=
  let t := s.at p
  !(t.wait.k == 13 && t.wait.act == .done 0) &&
  (match p with | .slot d i => !(Assoc.getD (s.die d).slots i { core := 0, thr := {} }).moving | _ => true) &&
  !(op == .start && t.pending.isSome) &&
  (match s.armCheck op p with | some (_, .walk) => false | _ => true)

/-- The state while an operation waits at its target: a walk that it needs asks for what it lacks. -/
def State.opWaits (s : State) (op : ThreadOp) (p : Place) : State :=
  match s.armCheck op p with | some (s, .walk) => s | _ => s

/-- The thread of a name that an operation may act on: one that is ending has a stale name. -/
def State.target (s : State) (n : Name) : Option Place :=
  match s.whereIs n with | some p => if (s.at p).ending.isSome then none else some p | none => none

/-- The state with the thread of a name changed wherever it stands, in its save image too. -/
def State.modContext (s : State) (n : Name) (f : Thread → Thread) : State :=
  match s.whereIs n with
  | some p =>
    let s := s.refresh p
    (s.setAt p (f (s.at p))).writeBack p
  | none => s

/-- The package to which news of a thread that is not here goes: where it is known to have gone, or else its name's own, whose directory knows more
(R348). -/
def State.newsTo (s : State) (n : Name) : Option Nat :=
  (s.wentTo n).or (if endpointPkg (nameEp n) = s.pkg then none else some (endpointPkg (nameEp n)))

/-- The state after sticky bits of an operation reach its issuer, wherever it is: on another package, by news whose number is given, or where it has ended
in its job's entry (R109).  They stay in FLAGS where a verdict goes back to the state before the run-ahead, which no operation was issued in. -/
def State.lateFlags (s : State) (core : Nat) (n : Name) (job : Word) (f : BitVec 6) : State × Option Nat :=
  let put := fun (x : Dword) => x ||| f.setWidth 64
  if f = 0 then (s, none)
  else
    match s.whereIs n, s.newsTo n with
    | some _, _ =>
      (s.modContext n fun t =>
        { t with flags := put t.flags, bank := t.bank.map fun b => { b with ck := { b.ck with flags := put b.ck.flags } } }, none)
    | none, some pkg => (s.tell core pkg n (.flags job f), some s.nextId)
    | none, none => (s.jobFlags job f, none)

/-- A thread with the stop of R130 noted: behind its arrival where that is on its way, and otherwise at once, unless the thread has a stop already or is
FAULTED. -/
def Thread.withStop (t : Thread) (x : NanStop) : Thread :=
  if x.after.isSome then { t with nanLater := t.nanLater ++ [x] }
  else if t.nanStop.isSome ∨ t.st = .faulted then t
  else { t with nanStop := some x }

/-- The state with the stop of R130 noted at its thread, wherever it is: on another package by news whose number is given. -/
def State.lateStop (s : State) (core : Nat) (n : Name) (x : NanStop) : State × Option Nat :=
  match s.whereIs n, s.newsTo n with
  | some _, _ => (s.modNamed n fun t => t.withStop x, none)
  | none, some pkg => (s.tell core pkg n (.nan { x with after := none }), some s.nextId)
  | none, none => (s, none)

/-- The state after news of a thread arrives from another package (R62, R109, R130, R348). -/
def State.heard (s : State) (n : Name) (x : News) : State :=
  match x with
  | .moved ep ctx => s.moveStub n ep ctx
  | .ended => s.dropStub n
  | .anchored ep ctx stub => s.anchored n ep ctx stub
  | .freed u => s.freeStub n u
  | .flags job f => (s.lateFlags 0 n job f).1
  | .nan x => (s.lateStop 0 n x).1
  | .watch r home => s.watchMoved r home
  | .poison a => s.poisonAt 0 (gpa s.pkg a)
  | .coll x =>
    match s.whereIs n with
    | none => s
    | some p =>
      if !(s.at p).voted ∨ (s.at p).ending.isSome then s
      else
        match x with
        | .verdict f =>
          let core := s.coreAt p
          s.setCore core { s.core core with verdicts := (s.core core).verdicts ++ [(0, { f with far := some n })] }
        | .joined w => (((s.refresh p).setAt p { (s.refresh p).at p with voted := false, cmem := w }).completeAt p id).writeBack p
        | .left => (((s.refresh p).setAt p { (s.refresh p).at p with voted := false, cmem := 0 }).completeAt p id).writeBack p
        | .refused r =>
          let s := s.refresh p
          ((s.setAt p { s.at p with voted := false }).faultAt p
            { code := 0x10, pc := (s.at p).pc, w2 := 0, w4 := BitVec.ofNat 64 r, w5 := 0 }).writeBack p

/-- The state after a message for a thread that has gone on follows it to another package. -/
def State.goesOn (s : State) (m : Msg) (pkg : Nat) : State :=
  if m.origin.pkg = s.pkg then s.modMsg m.id fun m => { m with dst := pkg, sent := 0 }
  else (s.drop m.id).outward { m with dst := pkg, head := none, ports := [], delivered := false } (m.body.target s.pkg) (m.body.target pkg) 0 false

/-- Whether news follows its thread wherever it has gone: that of an operation which it issued, or of its wave's collective (R109, R130, R314 to R317). -/
def News.byThread : News → Bool
  | .flags _ _ => true
  | .nan _ => true
  | .coll _ => true
  | _ => false

/-- Whether a thread can take news: that of a collective waits for the answer to what the thread asked of its wave's block. -/
def State.newsReady (s : State) (n : Name) (x : News) : Bool :=
  match x, s.named n with
  | .coll _, some t => t.voted || t.wait.k != 12 || t.ending.isSome
  | _, _ => true

/-- THREADOP (R365): an operation arrives.  It goes on to another package where the thread stands there (R62, R348); news of a thread comes the same way. -/
def execThreadop (s : State) : Host.Outcome State Fault Refusal :=
  event s fun s =>
    match s.msg? s.subject.a with
    | some m =>
      match m.body with
      | .threadOp op n =>
        let d := (s.latency m.origin.core (sysBase ((endpointCore (nameEp n)).getD 0))) / 2
        match s.target n with
        | some p =>
          if !s.opReady op p then s.opWaits op p
          else
            s.once m fun s =>
              match s.operate op p true [(m.origin.name, m.id)] with
              | (.value v, s) => s.answer d m (.value v)
              | (.fault code w4 w5, s) => s.answer d m (.nack code w5 w4 false)
              | (.later, s) => (s.modMsg m.id fun m => { m with due := 2 ^ 64 }).settle n
        | none =>
          match s.wentTo n with
          | some pkg => s.once m fun s => s.goesOn m pkg
          | none =>
            s.once m fun s =>
              if endpointPkg (nameEp n) = s.pkg ∧ (s.core (nameCore n)).lost then s.answer d m (.nack 0x12 0 (BitVec.ofNat 64 (nameEp n)) false)
              else s.answer d m (.value 0)
      | .news n x =>
        if !s.newsReady n x then s else
        match x.byThread, s.whereIs n, s.wentTo n with
        | true, none, some pkg => s.once m fun s => s.goesOn m pkg
        | true, none, none => s.once m fun s => s.answer 1 m (.value 0)
        | _, _, _ => s.once m fun s => (s.heard n x).answer 1 m (.ack true [] [] 0)
      | _ => s
    | none => s

/-! ## The instructions (R364, R365) -/

/-- Issue a thread-state operation on the thread that a register names: its checks, then the operation, in its turn where the target stands on the
issuer's core, or by a round trip. -/
def threadStateOp (a : GReg) (regs : List GReg) (need : Nat) (index : State → Dword) (dst : GReg) (op : State → ThreadOp) (s : State) :
    Host.Outcome State Fault Refusal :=
  issue { ahead := false } regs s fun s =>
    let x := s.rg a
    let n : Name := x.setWidth 56
    let pkg := endpointPkg (nameEp n)
    let op := op s
    if x.toNat / 2 ^ 56 ≠ 0 then s.raise 0x07 0 4 x
    else if domainOf pkg ≠ domainOf s.pkg then s.raise 0x12 0 x 0
    else
      s.withTable fun s =>
      match s.rights s.cur (coversName s.cur.name n) with
      | .error e => s.raise 0x07 0 3 (BitVec.ofNat 64 e)
      | .ok r =>
        if r &&& need = 0 then s.raise 0x07 0 1 x
        else if 0x100 ≤ (index s).toNat then s.raise 0x08 0 (index s) 0
        else
          let stop := match op with | .stop _ => true | _ => false
          let here := match s.target n with
            | some p => if s.coreAt p = s.focus.core ∧ s.opReady op p ∧ !stop then some p else none
            | none => none
          match here with
          | some p =>
            match s.operate op p false [(s.cur.name, s.nextId)] with
            | (.value v, s) => s.result dst v
            | (.fault code w4 w5, s) => s.raise code 0 w4 w5
            | (.later, s) => s
          | none =>
            s.viaNet pkg 0 fun s =>
              let o := s.curOrigin
              let far := (endpointCore (nameEp n)).getD 0
              let s := s.wait { k := 14, a := x, act := if stop then .far else .done dst }
              s.send (if pkg ≠ s.pkg then 234 else if far = o.core then 1 else if spillDie far = spillDie o.core then 30 else 55) pkg o
                (.threadOp op n)

def execTstop (a : GReg) (s : State) : Host.Outcome State Fault Refusal :=
  threadStateOp a [a] rightStop (fun _ => 0) 0 (fun _ => .stop false) s
def execTstopH (a : GReg) (s : State) : Host.Outcome State Fault Refusal :=
  threadStateOp a [a] rightStop (fun _ => 0) 0 (fun _ => .stop true) s
def execTstart (a : GReg) (s : State) : Host.Outcome State Fault Refusal :=
  threadStateOp a [a] rightStart (fun _ => 0) 0 (fun _ => .start) s
def execTread (a b c : GReg) (s : State) : Host.Outcome State Fault Refusal :=
  threadStateOp a [a, b, c] rightRead (fun s => s.rg b) c (fun s => .read (s.rg b)) s
def execTwrite (a b c : GReg) (s : State) : Host.Outcome State Fault Refusal :=
  threadStateOp a [a, b, c] rightRewrite (fun s => s.rg b) 0 (fun s => .write (s.rg b) (s.rg c)) s
def execTstate (a c : GReg) (s : State) : Host.Outcome State Fault Refusal :=
  threadStateOp a [a, c] rightRead (fun _ => 0) c (fun _ => .state) s

end Sys2Proof.Machine
end

