-- ==== Sys2Proof/Machine/Translation.lean ====
section
/-!
DEFINITION. The translation instructions (R390 to R396): TLBINV, PGLOCK, PGSWITCH, CLWB and CLINV.
-/

namespace Sys2Proof.Machine

/-! ## TLBINV (R391) -/

/-- The invalidation that gb asks for. -/
def tlbInvOf (troot va gb : Dword) : TlbInv :=
  let root := gb.toNat / 0x2000 % 0x8000000 * 0x2000
  { root := if root = 0 then troot.toNat else root, allRoots := gb.getLsbD 4, allPages := gb.getLsbD 2, va := va.toNat % 2 ^ 52 }

/-- Whether gb is refused: a zero field, or SCOPE 3. -/
def tlbInvBad (gb : Dword) : Bool :=
  gb.extractLsb' 40 24 != 0 || gb.extractLsb' 5 8 != 0 || gb.getLsbD 3 || gb.extractLsb' 0 2 == 3

/-- The state after a thread whose turn it is leaves for a time, to go on with values in hand. -/
def State.pollWith (s : State) (after : Nat) (ea : Dword) (vs : List Nat) : State :=
  let o := s.curOrigin
  ((s.keep vs).stallFor 14 ea 0 .event).post after o (.value 0)

/-- The state after the entries of a scope are dropped; other packages of the domain are told. -/
def State.startTlbinv (s : State) (scope : Nat) (i : TlbInv) : State :=
  let o := s.curOrigin
  if scope = 0 then
    { s.forgetEntries.setCore o.core ((s.core o.core).invalidate i) with walkCaches := Assoc.erase s.walkCaches (walkCacheOf o.core) }
  else
    let s := s.invalidateAll i
    if scope = 1 then s else (s.domainPeers o.core).foldl (fun s p => s.send 234 p o (.tlbinv i none)) s

/-- Whether what an invalidation waits for is still open (R154), and the numbers for the next look. -/
def State.tlbinvOpen (s : State) (scope : Nat) (ids : Nat × Nat) : Bool × (Nat × Nat) :=
  let far := s.flight.any fun m => m.origin.name == s.cur.name && m.origin.pkg == s.pkg && (match m.body with | .tlbinv .. => true | _ => false)
  let (here, ids) := s.dropOpen ids fun c => scope != 0 || c == s.focus.core
  (here || far, ids)

def execTlbinv (a b : GReg) (s : State) : Host.Outcome State Fault Refusal :=
  issue { ahead := false } [a, b] s fun s =>
    let gb := s.rg b
    let scope := gb.toNat % 4
    if tlbInvBad gb then s.raise 0x01 0 gb 0
    else
      match s.cur.handFor with
      | some [id, id'] =>
        match s.tlbinvOpen scope (id, id') with
        | (true, ids) => s.pollWith 16 (s.rg a) [ids.1, ids.2]
        | (false, _) => s.retire
      | _ => s.released fun s =>
        let id := s.nextId
        (s.startTlbinv scope (tlbInvOf s.cur.troot (s.rg a) gb)).pollWith (if scope = 0 then 32 else 1000) (s.rg a) [id, id]

/-! ## PGLOCK and PGSWITCH (R392, R393) -/

/-- Whether a leaf may not be migrated: its page is not of 64 KiB, or its aperture is 2 or 3. -/
def leafFixed (e : BitVec 128) : Bool := leafKind e != 1 || leafAper e == 2 || leafAper e == 3

/-- The state after the thread whose turn it is has asked the homes of a page, and waits for their answer; its stores are acknowledged first.  WAITV holds the
address of the new frame, where there is one. -/
def State.askPage (s : State) (ea eb : Dword) (pa key : Nat) (op : PageOp) : State :=
  s.released fun s => s.viaNet (gpaPkg pa) ea fun s =>
    let o := s.curOrigin
    let s := s.wait { k := 14, a := ea, v := eb, act := .done 0 }
    s.send (if gpaPkg pa = s.pkg then 50 else 234) (gpaPkg pa) o (.page op (gpaLocal pa / 0x10000) key)

def execPglock (a : GReg) (s : State) : Host.Outcome State Fault Refusal :=
  issue { ahead := false } [a] s fun s =>
    let ea := s.rg a
    s.withAccess ea 1 false true fun x =>
      if leafFixed x.leaf ∨ (gpaPkg x.pa = s.pkg ∧ (s.pageMove (gpaLocal x.pa / 0x10000)).isSome) then s.raise 0x05 ea 0 0
      else s.askPage ea 0 x.pa x.key .lock

def execPgswitch (a b : GReg) (s : State) : Host.Outcome State Fault Refusal :=
  issue { ahead := false } [a, b] s fun s =>
    let ea := s.rg a
    s.withAccess ea 1 false true fun x =>
      let page := gpaLocal x.pa / 0x10000
      let here := gpaPkg x.pa == s.pkg
      let old := s.pageMove page
      if s.rg b = 0 then
        if here && !(old.any fun m => m.target.isSome) then s.raise 0x05 ea 0 0 else s.askPage ea 0 x.pa x.key .finish
      else if here && !(old.any fun m => m.target.isNone && !m.frame) then s.raise 0x05 ea 0 0
      else
        let eb := s.rg b
        s.withAccess eb 1 false true fun y =>
          if eb.toNat % 0x10000 ≠ 0 ∨ leafFixed y.leaf ∨ y.pa / 0x10000 = x.pa / 0x10000 ∨
              (gpaPkg y.pa = s.pkg ∧ (s.pageMove (gpaLocal y.pa / 0x10000)).isSome) then s.raise 0x05 eb 0 0
          else s.askPage ea eb x.pa x.key (.switch (y.pa / 0x10000) x.key y.key)

/-! ## CLWB and CLINV (R395, R396) -/

/-- The first address of the line that a register names. -/
def lineStart (x : Dword) : Dword := BitVec.ofNat 64 (x.toNat / 256 * 256)

def execClwb (a : GReg) (s : State) : Host.Outcome State Fault Refusal :=
  issue { ahead := false } [a] s fun s =>
    let ea := lineStart (s.rg a)
    s.withAccess ea 1 true false fun x =>
      if isDevice x.pa then s.raise 0x05 ea 0 0
      else if (ownerCore (gpaLocal x.pa)).isSome then s.retire
      else
        s.viaNet (gpaPkg x.pa) ea fun s =>
          let o := s.curOrigin
          let s := s.postGathered fun m => m.origin.core == o.core && m.origin.pkg == s.pkg && m.unacked.any fun w => w / 64 == x.pa / 256
          let s := s.wait { k := 14, a := ea, act := .done 0 }
          s.send (s.latency o.core x.pa / 2) (gpaPkg x.pa) o (.page (.clean (gpaLocal x.pa / 256)) (gpaLocal x.pa / 0x10000) x.key)

/-- A core without a line (R396): it leaves the instruction cache and the L1; words with unacknowledged stores are in flight, not listed. -/
def Core.dropLine (c : Core) (line : Nat) : Core :=
  { c with icache := c.icache.filter (fun x => x.1 != line), l1 := c.l1.filter fun q => q.1 / 4 != line }

/-- Whether the target buffer of a b-register holds a word of a line (R72, R396). -/
def Thread.bufferHolds (t : Thread) (line : Nat) (i : Fin 8) : Bool := t.targets[i].any fun x => x.1 / 256 == line

/-- A thread with no word of a line in its instruction buffer, whose b-registers that held one are unprepared (R187, R396). -/
def Thread.unprepare (t : Thread) (line : Nat) : Thread :=
  { t with
    buffer := t.buffer.filter fun x => x.1 / 256 != line
    prepared := Vector.ofFn fun (i : Fin 8) => t.prepared[i] && !t.bufferHolds line i
    targets := Vector.ofFn fun (i : Fin 8) => if t.bufferHolds line i then [] else t.targets[i] }

def execClinv (a : GReg) (s : State) : Host.Outcome State Fault Refusal :=
  issue { ahead := false } [a] s fun s =>
    let ea := lineStart (s.rg a)
    s.withAccess ea 1 true false fun x =>
      if isDevice x.pa then s.raise 0x05 ea 0 0
      else
        let core := s.focus.core
        let c := (s.core core).dropLine (x.pa / 256)
        let c := { c with ctxs := Assoc.mapVals (fun _ (t : Thread) => t.unprepare (x.pa / 256)) c.ctxs }
        (s.setCore core c).retire

end Sys2Proof.Machine
end

