-- ==== Sys2Proof/Machine/Vector.lean ====
section
/-!
DEFINITION. Vector instructions (R245 to R249) and mask instructions (R258): lanes, arithmetic, comparisons, moves and reductions.
-/

namespace Sys2Proof.Machine

/-! ## Element types (R166, R245) -/

/-- The size of an element type in bytes, and its lane count. -/
def vsize (t : VTy) : Nat := t.width / 8
def vlanes (t : VTy) : Nat := t.lanes

/-- The float format of an element type. -/
def vfloat (t : VTy) : Option FFmt :=
  match t with | .f64 => some fp64 | .f32 => some fp32 | .bf16 => some bf16 | .f16 => some fp16 | _ => none

/-- Whether an element type is a signed integer type. -/
def vsigned (t : VTy) : Bool := match t with | .i8 | .i16 | .i32 | .i64 => true | _ => false

/-- Whether an element type is an unsigned integer type. -/
def vunsigned (t : VTy) : Bool := match t with | .n8 | .n16 | .n32 | .n64 => true | _ => false

/-! ## Lanes -/

/-- A register with the active lanes computed, and the flags of those lanes. -/
def mapLanes (size : Nat) (active : Nat → Bool) (old : VWord) (f : Nat → Nat × Sticky) : VWord × Sticky :=
  (List.range (64 / size)).foldl (fun r i =>
    if active i then (putLane r.1 size i (f i).1, r.2.or (f i).2) else r) (old, {})

/-- The state after a word that its operation does not accept: ILLEGAL, with the word (R167). -/
def illegal (i : Instr) (s : State) : Host.Outcome State Fault Refusal := .next (s.raise 0x01 0 (((encode i).getD 0).setWidth 64) 0)

/-- A lane operation: the rounding mode and the lanes of va, vb and the old vd. -/
abbrev LaneOp := Rm → Nat → Nat → Nat → Nat × Sticky

/-- Issue a lane-wise operation on an accepted type. -/
def laneWise (i : Instr) (d a b : VReg) (k : KReg) (t : VTy) (op : Option LaneOp) (s : State) : Host.Outcome State Fault Refusal :=
  match op with
  | none => illegal i s
  | some f =>
    issue { rmo := (vfloat t).isSome, roam := true } [] s fun s =>
      let th := s.cur
      let n := vsize t
      let r := mapLanes n (th.active k) th.v[d] fun j => f th.issueRm (laneOf th.v[a] n j) (laneOf th.v[b] n j) (laneOf th.v[d] n j)
      s.modCur fun th => ((th.wv d r.1).orFlags r.2).retire

/-- An operation on two integers of a width, with no flag. -/
def intOp (t : VTy) (f : (e a b : Nat) → Int) : LaneOp := fun _ a b _ => (patOfInt (8 * vsize t) (f (8 * vsize t) a b), {})

/-- An operation of float types and of integer types. -/
def bothOp (t : VTy) (ff : FFmt → LaneOp) (fi : (e a b : Nat) → Int) : Option LaneOp :=
  match vfloat t with | some f => some (ff f) | none => some (intOp t fi)

/-- An operation of float types alone. -/
def floatOp (t : VTy) (ff : FFmt → LaneOp) : Option LaneOp := (vfloat t).map ff

/-- An operation of integer types alone. -/
def wordOp (t : VTy) (fi : (e a b : Nat) → Int) : Option LaneOp := match vfloat t with | some _ => none | none => some (intOp t fi)

/-- An operation of float types and of signed integer types. -/
def signedOp (t : VTy) (ff : FFmt → LaneOp) (fi : (e a b : Nat) → Int) : Option LaneOp :=
  if vunsigned t then none else bothOp t ff fi

/-- The value of a lane as its type reads it. -/
def laneInt (t : VTy) (e x : Nat) : Int := if vsigned t then signedField e x else x

/-- A pattern without its sign bit, and with it inverted. -/
def FFmt.clearSign (f : FFmt) (x : Nat) : Nat := x % 2 ^ (f.width - 1)
def FFmt.flipSign (f : FFmt) (x : Nat) : Nat := f.clearSign x + (if x / 2 ^ (f.width - 1) % 2 = 1 then 0 else 2 ^ (f.width - 1))

/-! ## Arithmetic (R246) -/

def execVadd (d a b : VReg) (k : KReg) (t : VTy) (s : State) : Host.Outcome State Fault Refusal :=
  laneWise (.vadd d a b k t) d a b k t (bothOp t (fun f rm a b _ => f.add rm a b) fun _ a b => a + b) s
def execVsub (d a b : VReg) (k : KReg) (t : VTy) (s : State) : Host.Outcome State Fault Refusal :=
  laneWise (.vsub d a b k t) d a b k t (bothOp t (fun f rm a b _ => f.sub rm a b) fun _ a b => (a : Int) - b) s
def execVmul (d a b : VReg) (k : KReg) (t : VTy) (s : State) : Host.Outcome State Fault Refusal :=
  laneWise (.vmul d a b k t) d a b k t (bothOp t (fun f rm a b _ => f.mul rm a b) fun _ a b => a * b) s
def execVfma (d a b : VReg) (k : KReg) (t : VTy) (s : State) : Host.Outcome State Fault Refusal :=
  laneWise (.vfma d a b k t) d a b k t (floatOp t fun f rm a b c => f.fma rm a b c) s
def execVfnma (d a b : VReg) (k : KReg) (t : VTy) (s : State) : Host.Outcome State Fault Refusal :=
  laneWise (.vfnma d a b k t) d a b k t (floatOp t fun f rm a b c => f.fnma rm a b c) s
def execVmin (d a b : VReg) (k : KReg) (t : VTy) (s : State) : Host.Outcome State Fault Refusal :=
  laneWise (.vmin d a b k t) d a b k t (bothOp t (fun f _ a b _ => f.minmax false a b) fun e a b => min (laneInt t e a) (laneInt t e b)) s
def execVmax (d a b : VReg) (k : KReg) (t : VTy) (s : State) : Host.Outcome State Fault Refusal :=
  laneWise (.vmax d a b k t) d a b k t (bothOp t (fun f _ a b _ => f.minmax true a b) fun e a b => max (laneInt t e a) (laneInt t e b)) s
def execVabs (d a : VReg) (k : KReg) (t : VTy) (s : State) : Host.Outcome State Fault Refusal :=
  laneWise (.vabs d a k t) d a a k t (signedOp t (fun f _ a _ _ => (f.clearSign a, {})) fun e a _ => (signedField e a).natAbs) s
def execVneg (d a : VReg) (k : KReg) (t : VTy) (s : State) : Host.Outcome State Fault Refusal :=
  laneWise (.vneg d a k t) d a a k t (signedOp t (fun f _ a _ _ => (f.flipSign a, {})) fun _ a _ => 0 - (a : Int)) s
def execVdiv (d a b : VReg) (k : KReg) (t : VTy) (s : State) : Host.Outcome State Fault Refusal :=
  laneWise (.vdiv d a b k t) d a b k t (floatOp t fun f rm a b _ => f.div rm a b) s
def execVsqrt (d a : VReg) (k : KReg) (t : VTy) (s : State) : Host.Outcome State Fault Refusal :=
  laneWise (.vsqrt d a k t) d a a k t (floatOp t fun f rm a _ _ => f.sqrt rm a) s
def execVand (d a b : VReg) (k : KReg) (t : VTy) (s : State) : Host.Outcome State Fault Refusal :=
  laneWise (.vand d a b k t) d a b k t (wordOp t fun _ a b => a &&& b) s
def execVor (d a b : VReg) (k : KReg) (t : VTy) (s : State) : Host.Outcome State Fault Refusal :=
  laneWise (.vor d a b k t) d a b k t (wordOp t fun _ a b => a ||| b) s
def execVxor (d a b : VReg) (k : KReg) (t : VTy) (s : State) : Host.Outcome State Fault Refusal :=
  laneWise (.vxor d a b k t) d a b k t (wordOp t fun _ a b => a ^^^ b) s
def execVnot (d a : VReg) (k : KReg) (t : VTy) (s : State) : Host.Outcome State Fault Refusal :=
  laneWise (.vnot d a k t) d a a k t (wordOp t fun e a _ => 2 ^ e - 1 - (a : Int)) s
def execVshl (d a b : VReg) (k : KReg) (t : VTy) (s : State) : Host.Outcome State Fault Refusal :=
  laneWise (.vshl d a b k t) d a b k t (wordOp t fun e a b => a * 2 ^ (b % e)) s
def execVshr (d a b : VReg) (k : KReg) (t : VTy) (s : State) : Host.Outcome State Fault Refusal :=
  laneWise (.vshr d a b k t) d a b k t (wordOp t fun e a b => a / 2 ^ (b % e)) s
def execVshra (d a b : VReg) (k : KReg) (t : VTy) (s : State) : Host.Outcome State Fault Refusal :=
  laneWise (.vshra d a b k t) d a b k t (wordOp t fun e a b => signedField e a / 2 ^ (b % e)) s

/-! ## Comparisons (R247) -/

/-- The comparisons. -/
inductive Cmp where
  | eq | ne | lt | le | gt | ge
deriving DecidableEq, Repr

/-- A comparison of integers. -/
def Cmp.ints (c : Cmp) (a b : Int) : Bool :=
  match c with | .eq => a == b | .ne => a != b | .lt => decide (a < b) | .le => decide (a ≤ b) | .gt => decide (b < a) | .ge => decide (b ≤ a)

/-- Whether two numbers are equal; −0 equals +0. -/
def FVal.same (a b : FVal) : Bool := !a.isNan && !b.isNan && !a.below false b && !b.below false a

/-- A comparison of float patterns, and its flags. -/
def Cmp.floats (c : Cmp) (f : FFmt) (a b : Nat) : Bool × Sticky :=
  let x := f.decode a
  let y := f.decode b
  let nan := x.isNan || y.isNan
  let sig := x.isSig || y.isSig
  match c with
  | .eq => (x.same y, { nv := sig })
  | .ne => (!x.same y, { nv := sig })
  | .lt => (x.below false y, { nv := nan })
  | .le => (x.below false y || x.same y, { nv := nan })
  | .gt => (y.below false x, { nv := nan })
  | .ge => (y.below false x || x.same y, { nv := nan })

/-- A comparison of lanes of a type. -/
def Cmp.lane (c : Cmp) (t : VTy) (a b : Nat) : Bool × Sticky :=
  match vfloat t with
  | some f => c.floats f a b
  | none => (c.ints (laneInt t (8 * vsize t) a) (laneInt t (8 * vsize t) b), {})

/-- A thread with a mask register written. -/
def Thread.wk (t : Thread) (r : KReg) (x : Dword) : Thread := { t with k := t.k.set r.val x r.isLt }

/-- Issue VCMP: bits of inactive lanes and bits above the lanes receive 0. -/
def vcmp (c : Cmp) (d : KReg) (a b : VReg) (k : KReg) (t : VTy) (s : State) : Host.Outcome State Fault Refusal :=
  issue { roam := true } [] s fun s =>
    let th := s.cur
    let n := vsize t
    let r := (List.range (vlanes t)).foldl (fun (r : Nat × Sticky) i =>
      if th.active k i then
        let x := c.lane t (laneOf th.v[a] n i) (laneOf th.v[b] n i)
        (r.1 + (if x.1 then 2 ^ i else 0), r.2.or x.2)
      else r) (0, {})
    s.modCur fun th => ((th.wk d (BitVec.ofNat 64 r.1)).orFlags r.2).retire

def execVcmpEq (d : KReg) (a b : VReg) (k : KReg) (t : VTy) (s : State) : Host.Outcome State Fault Refusal := vcmp .eq d a b k t s
def execVcmpNe (d : KReg) (a b : VReg) (k : KReg) (t : VTy) (s : State) : Host.Outcome State Fault Refusal := vcmp .ne d a b k t s
def execVcmpLt (d : KReg) (a b : VReg) (k : KReg) (t : VTy) (s : State) : Host.Outcome State Fault Refusal := vcmp .lt d a b k t s
def execVcmpLe (d : KReg) (a b : VReg) (k : KReg) (t : VTy) (s : State) : Host.Outcome State Fault Refusal := vcmp .le d a b k t s
def execVcmpGt (d : KReg) (a b : VReg) (k : KReg) (t : VTy) (s : State) : Host.Outcome State Fault Refusal := vcmp .gt d a b k t s
def execVcmpGe (d : KReg) (a b : VReg) (k : KReg) (t : VTy) (s : State) : Host.Outcome State Fault Refusal := vcmp .ge d a b k t s

/-! ## Moving lanes (R248) -/

/-- Issue an instruction that moves lanes, where a lane number it names exists. -/
def moveLanes (i : Instr) (ok : Bool) (regs : List GReg) (s : State) (body : State → State) : Host.Outcome State Fault Refusal :=
  if ok then issue { roam := true } regs s body else illegal i s

/-- A thread with the lanes of a register computed from their numbers. -/
def Thread.laneFill (t : Thread) (d : VReg) (size : Nat) (active : Nat → Bool) (f : Nat → Nat) : Thread :=
  t.wv d (mapLanes size active t.v[d] fun i => (f i, {})).1

def execVsel (d a b : VReg) (k : KReg) (t : VTy) (s : State) : Host.Outcome State Fault Refusal :=
  moveLanes (.vsel d a b k t) true [] s fun s => s.modCur fun th =>
    (th.laneFill d (vsize t) (fun _ => true) fun i => laneOf (if th.active k i then th.v[a] else th.v[b]) (vsize t) i).retire

def execVbcast (d : VReg) (g : GReg) (k : KReg) (t : VTy) (s : State) : Host.Outcome State Fault Refusal :=
  moveLanes (.vbcast d g k t) true [g] s fun s => s.modCur fun th =>
    (th.laneFill d (vsize t) (th.active k) fun _ => (th.rg g).toNat).retire

def execVins (d : VReg) (g : GReg) (l : BitVec 6) (t : VTy) (s : State) : Host.Outcome State Fault Refusal :=
  moveLanes (.vins d g l t) (decide (l.toNat < vlanes t)) [g] s fun s => s.modCur fun th =>
    (th.laneFill d (vsize t) (fun i => i == l.toNat) fun _ => (th.rg g).toNat).retire

def execVext (g : GReg) (a : VReg) (l : BitVec 6) (t : VTy) (s : State) : Host.Outcome State Fault Refusal :=
  moveLanes (.vext g a l t) (decide (l.toNat < vlanes t)) [g] s fun s =>
    s.result g (extend (vsize t) (vsigned t) (laneOf s.cur.v[a] (vsize t) l.toNat))

def execVperm (d a b : VReg) (k : KReg) (t : VTy) (s : State) : Host.Outcome State Fault Refusal :=
  moveLanes (.vperm d a b k t) true [] s fun s => s.modCur fun th =>
    (th.laneFill d (vsize t) (th.active k) fun i => laneOf th.v[a] (vsize t) (laneOf th.v[b] (vsize t) i % vlanes t)).retire

def execVslideUp (d a : VReg) (n : BitVec 6) (t : VTy) (s : State) : Host.Outcome State Fault Refusal :=
  moveLanes (.vslideUp d a n t) (decide (n.toNat < vlanes t)) [] s fun s => s.modCur fun th =>
    (th.laneFill d (vsize t) (fun _ => true) fun i => if n.toNat ≤ i then laneOf th.v[a] (vsize t) (i - n.toNat) else 0).retire

def execVslideDown (d a : VReg) (n : BitVec 6) (t : VTy) (s : State) : Host.Outcome State Fault Refusal :=
  moveLanes (.vslideDown d a n t) (decide (n.toNat < vlanes t)) [] s fun s => s.modCur fun th =>
    (th.laneFill d (vsize t) (fun _ => true) fun i =>
      if i + n.toNat < vlanes t then laneOf th.v[a] (vsize t) (i + n.toNat) else 0).retire

def execVmov (d a : VReg) (k : KReg) (s : State) : Host.Outcome State Fault Refusal :=
  moveLanes (.vmov d a k) true [] s fun s => s.modCur fun th => (th.laneFill d 8 (th.active k) fun i => laneOf th.v[a] 8 i).retire

/-! ## Reductions (R249) -/

/-- One level of the tree: each pair of nodes gives one, and an empty node passes the other on. -/
def treeLevel (op : Nat → Nat → Nat × Sticky) : List (Option Nat) → List (Option Nat) × Sticky
  | none :: y :: rest => let r := treeLevel op rest; (y :: r.1, r.2)
  | x :: none :: rest => let r := treeLevel op rest; (x :: r.1, r.2)
  | some a :: some b :: rest =>
    let r := treeLevel op rest
    (some (op a b).1 :: r.1, (op a b).2.or r.2)
  | l => (l, {})

/-- The tree, for a number of levels. -/
def treeFold (op : Nat → Nat → Nat × Sticky) : Nat → List (Option Nat) → Option Nat × Sticky
  | 0, l => (l.head?.getD none, {})
  | n + 1, l =>
    let r := treeLevel op l
    let q := treeFold op n r.1
    (q.1, r.2.or q.2)

/-- Issue a reduction with its node operation and its empty value. -/
def reduction (d a : VReg) (k : KReg) (t : VTy) (op : Rm → Nat → Nat → Nat × Sticky) (empty : Nat) (s : State) :
    Host.Outcome State Fault Refusal :=
  issue { rmo := (vfloat t).isSome, roam := true } [] s fun s =>
    let th := s.cur
    let leaves := (List.range (vlanes t)).map fun i => if th.active k i then some (laneOf th.v[a] (vsize t) i) else none
    let r := treeFold (op th.issueRm) (Nat.log2 (vlanes t)) leaves
    s.modCur fun th => ((th.wv d (putLane 0 (vsize t) 0 (r.1.getD empty))).orFlags r.2).retire

def execVrsum (d a : VReg) (k : KReg) (t : VTy) (s : State) : Host.Outcome State Fault Refusal :=
  match vfloat t with
  | some f => reduction d a k t (fun rm x y => f.add rm x y) 0 s
  | none => reduction d a k t (fun _ x y => ((x + y) % 2 ^ (8 * vsize t), {})) 0 s

/-- The extreme of two lanes of an integer type. -/
def extremeInt (big : Bool) (t : VTy) (x y : Nat) : Nat :=
  let e := 8 * vsize t
  if (if big then laneInt t e x < laneInt t e y else laneInt t e y < laneInt t e x) then y else x

def execVrmax (d a : VReg) (k : KReg) (t : VTy) (s : State) : Host.Outcome State Fault Refusal :=
  match vfloat t with
  | some f => reduction d a k t (fun _ x y => f.minmax true x y) (f.inf true) s
  | none => reduction d a k t (fun _ x y => (extremeInt true t x y, {})) (if vsigned t then 2 ^ (8 * vsize t - 1) else 0) s

def execVrmin (d a : VReg) (k : KReg) (t : VTy) (s : State) : Host.Outcome State Fault Refusal :=
  match vfloat t with
  | some f => reduction d a k t (fun _ x y => f.minmax false x y) (f.inf false) s
  | none =>
    reduction d a k t (fun _ x y => (extremeInt false t x y, {})) (if vsigned t then 2 ^ (8 * vsize t - 1) - 1 else 2 ^ (8 * vsize t) - 1) s

/-! ## Mask instructions (R258) -/

/-- Issue a K instruction: a roaming thread may name k0 alone (R245). -/
def maskOp (ks : List KReg) (gs : List GReg) (s : State) (body : Thread → Thread) : Host.Outcome State Fault Refusal :=
  issue { roam := ks.any fun k => k != 0 } gs s fun s => s.modCur fun t => (body t).retire

def execKand (d a b : KReg) (s : State) : Host.Outcome State Fault Refusal := maskOp [d, a, b] [] s fun t => t.wk d (t.k[a] &&& t.k[b])
def execKor (d a b : KReg) (s : State) : Host.Outcome State Fault Refusal := maskOp [d, a, b] [] s fun t => t.wk d (t.k[a] ||| t.k[b])
def execKxor (d a b : KReg) (s : State) : Host.Outcome State Fault Refusal := maskOp [d, a, b] [] s fun t => t.wk d (t.k[a] ^^^ t.k[b])
def execKnot (d a : KReg) (s : State) : Host.Outcome State Fault Refusal := maskOp [d, a] [] s fun t => t.wk d (~~~t.k[a])

/-- The number of one bits of a dword. -/
def ones (x : Dword) : Nat := (List.range 64).foldl (fun n i => n + (if x.getLsbD i then 1 else 0)) 0

def execKpop (d : GReg) (a : KReg) (s : State) : Host.Outcome State Fault Refusal := maskOp [a] [d] s fun t => t.wg d (BitVec.ofNat 64 (ones t.k[a]))
def execKset (d : KReg) (a : GReg) (s : State) : Host.Outcome State Fault Refusal := maskOp [d] [a] s fun t => t.wk d (t.rg a)
def execKget (d : GReg) (a : KReg) (s : State) : Host.Outcome State Fault Refusal := maskOp [a] [d] s fun t => t.wg d t.k[a]

end Sys2Proof.Machine
end

