-- ==== Sys2Proof/Machine/Convert.lean ====
section
/-!
DEFINITION. Conversions of vector lanes (R123 to R126, R250 to R252) and the logarithmic formats (R115 to R117).
-/

namespace Sys2Proof.Machine

/-! ## Logarithmic codes (R115 to R117) -/

/-- T (R116). -/
def lnsT (f : Nat) : Nat := [0x4000, 0x45CB, 0x4C1C, 0x52FF, 0x5A82, 0x62B4, 0x6BA2, 0x7560].getD f 0

/-- The value of a logarithmic code of 6 or 8 bits. -/
inductive LnsVal where
  | zero
  | nan
  /-- A sign and an exponent in eighths. -/
  | num (neg : Bool) (e : Int)
deriving DecidableEq, Repr

/-- The value of a code: 6 bits for LNS6, 8 bits for LNS8. -/
def lnsDecode (six : Bool) (x : Nat) : LnsVal :=
  let neg := if six then x / 32 % 2 == 1 else x / 128 % 2 == 1
  let c := if six then x % 32 else x % 128
  if c = 0 then (if neg then .nan else .zero)
  else .num neg (if six then 2 * ((c : Int) - 16) else (c : Int) - 64)

/-- The code of a sign and a code number. -/
def lnsCode (six neg : Bool) (c : Nat) : Nat := c + (if neg then (if six then 32 else 128) else 0)

/-- BF16 to a logarithmic code (R125): the nearest in the logarithmic domain. -/
def toLns (six : Bool) (x : Nat) : Nat × Sticky :=
  let p : Nat := if six then 8 else 16
  let top : Int := if six then 15 else 63
  match bf16.decode x with
  | .nan s => (lnsCode six true 0, { nv := s })
  | .inf n => (lnsCode six n (if six then 31 else 127), { sat := true, nx := true })
  | .fin n m e =>
    if m = 0 then (0, {})
    else
      let l : Int := Nat.log2 (m ^ p) + p * e
      let k := (l + 1) / 2
      if top < k then (lnsCode six n (if six then 31 else 127), { sat := true, nx := true })
      else if k < -top then (0, { uf := true, nx := true })
      else (lnsCode six n (k + top + 1).toNat, { nx := !(m ^ p == 2 ^ Nat.log2 (m ^ p) && l == 2 * k) })

/-- A logarithmic code to BF16 (R126). -/
def fromLns (six : Bool) (rm : Rm) (x : Nat) : Nat × Sticky :=
  match lnsDecode six x with
  | .zero => (0, {})
  | .nan => (bf16.nan, {})
  | .num n e => bf16.round rm n (lnsT (e % 8).toNat) (e / 8 - 14) false

/-! ## VCVT (R250, R251) -/

/-- A register after a conversion of c lanes from fields of ws bits to fields of wd bits: bits beyond them are zero, inactive lanes stay. -/
def convertLanes (c ws wd : Nat) (active : Nat → Bool) (old src : VWord) (f : Nat → Nat × Sticky) : VWord × Sticky :=
  let r := (List.range c).foldl (fun (r : Nat × Sticky) i =>
    if active i then
      let x := f (fieldOf src.toNat (ws * i) ws)
      (putField r.1 (wd * i) wd x.1, r.2.or x.2)
    else r) (old.toNat % 2 ^ (c * wd), {})
  (BitVec.ofNat 512 r.1, r.2)

/-- Issue VCVT. -/
def vcvt (d a : VReg) (k : KReg) (rmo : Bool) (c ws wd : Nat) (f : Rm → Nat → Nat × Sticky) (s : State) : Host.Outcome State Fault Refusal :=
  issue { rmo := rmo, roam := true } [] s fun s =>
    let th := s.cur
    let r := convertLanes c ws wd (th.active k) th.v[d] th.v[a] (f th.issueRm)
    s.modCur fun th => ((th.wv d r.1).orFlags r.2).retire

def execVcvtF64F32 (d a : VReg) (k : KReg) (s : State) : Host.Outcome State Fault Refusal := vcvt d a k true 8 64 32 (fp64.convert fp32) s
def execVcvtF32F64 (d a : VReg) (k : KReg) (s : State) : Host.Outcome State Fault Refusal := vcvt d a k true 8 32 64 (fp32.convert fp64) s
def execVcvtF32Bf16 (d a : VReg) (k : KReg) (s : State) : Host.Outcome State Fault Refusal := vcvt d a k true 16 32 16 (fp32.convert bf16) s
def execVcvtBf16F32 (d a : VReg) (k : KReg) (s : State) : Host.Outcome State Fault Refusal := vcvt d a k true 16 16 32 (bf16.convert fp32) s
def execVcvtF32F16 (d a : VReg) (k : KReg) (s : State) : Host.Outcome State Fault Refusal := vcvt d a k true 16 32 16 (fp32.convert fp16) s
def execVcvtF16F32 (d a : VReg) (k : KReg) (s : State) : Host.Outcome State Fault Refusal := vcvt d a k true 16 16 32 (fp16.convert fp32) s
def execVcvtF32I32 (d a : VReg) (k : KReg) (s : State) : Host.Outcome State Fault Refusal :=
  vcvt d a k true 16 32 32 (fun rm x => fp32.toInt rm 32 x) s
def execVcvtI32F32 (d a : VReg) (k : KReg) (s : State) : Host.Outcome State Fault Refusal :=
  vcvt d a k true 16 32 32 (fun rm x => fp32.ofInt rm (signedField 32 x)) s
def execVcvtF64I64 (d a : VReg) (k : KReg) (s : State) : Host.Outcome State Fault Refusal :=
  vcvt d a k true 8 64 64 (fun rm x => fp64.toInt rm 64 x) s
def execVcvtI64F64 (d a : VReg) (k : KReg) (s : State) : Host.Outcome State Fault Refusal :=
  vcvt d a k true 8 64 64 (fun rm x => fp64.ofInt rm (signedField 64 x)) s
def execVcvtBf16Lns8 (d a : VReg) (k : KReg) (s : State) : Host.Outcome State Fault Refusal := vcvt d a k false 32 16 8 (fun _ x => toLns false x) s
def execVcvtLns8Bf16 (d a : VReg) (k : KReg) (s : State) : Host.Outcome State Fault Refusal := vcvt d a k true 32 8 16 (fromLns false) s
def execVcvtBf16Lns6 (d a : VReg) (k : KReg) (s : State) : Host.Outcome State Fault Refusal := vcvt d a k false 32 16 6 (fun _ x => toLns true x) s
def execVcvtLns6Bf16 (d a : VReg) (k : KReg) (s : State) : Host.Outcome State Fault Refusal := vcvt d a k true 32 6 16 (fromLns true) s

end Sys2Proof.Machine
end

