-- ==== Sys2Proof/Machine/Tables.lean ====
section
/-!
DEFINITION. The table engine (R253 to R257): VTLOAD, the replacement of a table, and VTAB.
-/

namespace Sys2Proof.Machine

/-! ## VTLOAD (R255) -/

/-- The wait of VTLOAD while its replacement is due. -/
def vtloadWait (ea : Dword) : Wait := { k := 14, a := ea, act := .done 0 }

/-- VTLOAD (R253, R255): a thread of any job may run it, whoever is assigned the tile: DESIGN CHOICE (log 108).  Where a sector of the image lies in device registers, the
RIGHTS record has that sector's address in word 2 and its number in word 4: DESIGN CHOICE (log 109). -/
def execVtload (y : Fin 4) (g : GReg) (s : State) : Host.Outcome State Fault Refusal :=
  issue { roam := true, ahead := false, compute := encode (.vtload y g) } [g] s fun s =>
    let ea := s.rg g
    if ea.toNat % 64 ≠ 0 then s.raise 0x03 ea 0 0
    else
      match s.cur.handFor with
      | some _ =>
        let n := s.cur.name
        (s.wait (vtloadWait ea)).notice (s.cycle + 1) .vtloadReplace { name := n, a := y.val }
      | none =>
        match s.checkLanes 64 true false false ((List.range 65).map fun j => (j, ea + BitVec.ofNat 64 (64 * j))) with
        | .fault c va w4 => s.raise c va w4 0
        | .walk va w4 => s.walkFor va 64 true false false none w4
        | .ok xs =>
          match xs.find? fun x => isDevice x.1.pa with
          | some x => s.raise 0x05 x.1.va (BitVec.ofNat 64 x.1.lane) 0
          | none => s.released fun s =>
            s.loadPieces ea
              (xs.flatMap fun x => (List.range 8).map fun i =>
                ({ lane := 8 * x.1.lane + i, pa := x.1.pa + 8 * i, size := 8, va := x.1.va }, x.2)) .none false true false

/-- The byte offset of the first dword of a table image that breaks R254, if any. -/
def tableBad (ds : List Nat) : Option Nat :=
  (List.range 520).findSome? fun i =>
    let d := ds.getD i 0
    let bad :=
      if i = 0 then decide (2 ^ 40 ≤ d) || decide (d / 2 ^ 23 % 256 = 255)
      else if i < 8 then decide (d ≠ 0)
      else if i % 2 = 1 then decide (2 ^ 32 ≤ d)
      else false
    if bad then some (8 * i) else none

/-- The state with a table of a tile replaced whole. -/
def State.setTable (s : State) (tile y : Nat) (ds : List Nat) : State :=
  let x := s.tile tile
  let img : Assoc Dword := (List.range 520).foldl (fun l i =>
    let d := ds.getD i 0
    if d = 0 then l else Assoc.insert l i (BitVec.ofNat 64 d)) []
  s.setTile tile { x with tables := Assoc.insert x.tables y img }

/-- VTLOAD_REPLACE (R255): the image is checked, the table is replaced in one step, and VTLOAD completes. -/
def execVtloadReplace (s : State) : Host.Outcome State Fault Refusal :=
  event s fun s =>
    let n := s.subject.name
    match s.whereIs n with
    | none => s
    | some p =>
      match (s.at p).handFor with
      | some ds =>
        if (s.at p).ending.isSome then s
        else
          match tableBad ds with
          | some o => (s.faultNamed n 0x0A 0 (BitVec.ofNat 64 o) 0).settle n
          | none => ((s.setTable (tileOf (s.coreAt p)) s.subject.a ds).completeAt p id).settle n
      | none => s

/-! ## VTAB (R257) -/

/-- A dword of a table image. -/
def State.tableDword (s : State) (tile y i : Nat) : Nat := (Assoc.getD (Assoc.getD (s.tile tile).tables y []) i 0).toNat

/-- X0 and SHIFT of a table. -/
def tableX0 (d0 : Nat) : Nat := d0 % 2 ^ 32
def tableShift (d0 : Nat) : Int := signedField 8 (fieldOf d0 32 8)

/-- A value times a power of two, rounded to FP32 in RNE. -/
def scale32 (x : Nat) (n : Int) : Nat × Sticky :=
  match fp32.decode x with
  | .fin s m e => fp32.round .rne s m (e + n) false
  | _ => (x, {})

/-- The segment and t of a position u that is no NaN: below 0, from 256 on, or between. -/
def tableSegment (u : Nat) : Nat × Nat :=
  match fp32.decode u with
  | .inf n => if n then (0, 0) else (255, 0x3F800000)
  | .fin n m e =>
    if n ∧ m ≠ 0 then (0, 0)
    else
      let k := (roundAt .rtz false m e 0 false).1
      if 256 ≤ k then (255, 0x3F800000)
      else (k, (fp32.sub .rne u (fp32.ofInt .rne k).1).1)
  | .nan _ => (0, 0)

/-- The value of a table at an FP32 value that is no NaN, with the flags of its four roundings; `seg` gives C0, C1 and C2. -/
def tableEval (x0 : Nat) (shift : Int) (seg : Nat → Nat × Nat × Nat) (x : Nat) : Nat × Sticky :=
  let d := fp32.sub .rne x x0
  let u := scale32 d.1 shift
  let st := tableSegment u.1
  let c := seg st.1
  let p := fp32.fma .rne c.2.2 st.2 c.2.1
  let y := fp32.fma .rne p.1 st.2 c.1
  (y.1, ((d.2.or u.2).or p.2).or y.2)

/-- One lane of VTAB. -/
def vtabLane (f : FFmt) (rm : Rm) (x0 : Nat) (shift : Int) (seg : Nat → Nat × Nat × Nat) (a : Nat) : Nat × Sticky :=
  match f.decode a with
  | .nan s => (f.nan, { nv := s })
  | _ =>
    let y := tableEval x0 shift seg (f.convert fp32 .rne a).1
    let r := fp32.convert f rm y.1
    (r.1, y.2.or r.2)

/-- VTAB (R253, R254): a thread of any job may run it, whoever is assigned the tile: DESIGN CHOICE (log 108). -/
def execVtab (d a : VReg) (y : Fin 4) (k : KReg) (t : VTy) (s : State) : Host.Outcome State Fault Refusal :=
  let i : Instr := .vtab d a y k t
  match (if t = .f64 then none else vfloat t) with
  | none => illegal i s
  | some f =>
    issue { rmo := true, roam := true, compute := encode i } [] s fun s =>
      let th := s.cur
      let tile := tileOf s.focus.core
      let d0 := s.tableDword tile y.val 0
      let seg := fun g =>
        let lo := s.tableDword tile y.val (8 + 2 * g)
        (lo % 2 ^ 32, lo / 2 ^ 32, s.tableDword tile y.val (9 + 2 * g) % 2 ^ 32)
      let r := mapLanes (vsize t) (th.active k) th.v[d] fun j =>
        vtabLane f th.issueRm (tableX0 d0) (tableShift d0) seg (laneOf th.v[a] (vsize t) j)
      s.modCur fun th => ((th.wv d r.1).orFlags r.2).retire

end Sys2Proof.Machine
end

