-- ==== Sys2Proof/Machine/Matrix.lean ====
section
/-!
DEFINITION. Operand memory and accumulator memory (R78, R80, R264), tagged blocks (R110 to R114), and the arithmetic of the matrix engine: products and
block sums (R117, R118), the block-sum accumulator (R119 to R121), float accumulation (R122), and the conversions of ACCRD (R127).
-/

namespace Sys2Proof.Machine

/-! ## Operand memory (R78, R264) -/

/-- An operand slot of a tile. -/
def Tile.opSlot (t : Tile) (n : Nat) : OpSlot := Assoc.getD t.slots n {}

/-- The tile with an operand slot replaced. -/
def Tile.setOpSlot (t : Tile) (n : Nat) (o : OpSlot) : Tile := { t with slots := Assoc.insert t.slots n o }

/-- Free values that the contents of one claim take: eight dwords and a tag for each sector. -/
def slotValues : Nat := 4608

/-- The value of eight dwords, the first least significant. -/
def ofDwords (d : Nat → Nat) : Nat := (List.range 8).foldl (fun x i => x + d i * 2 ^ (64 * i)) 0

/-- A sector of a slot: undefined at a claim until it is written (R78). -/
def OpSlot.sector (o : OpSlot) (i : Nat) : Nat :=
  match Assoc.look o.sectors i with
  | some v => v.toNat
  | none => match o.undef with | some f => ofDwords fun j => (Config.freeValue (f + 9 * i + j)).toNat | none => 0

/-- The tag of a sector. -/
def OpSlot.tagOf (o : OpSlot) (i : Nat) : Nat :=
  match Assoc.look o.tags i with
  | some v => v.toNat
  | none => match o.undef with | some f => (Config.freeValue (f + 9 * i + 8)).toNat % 2 ^ 17 | none => 0

/-- The slot with a sector and its tag written; the write clears the sector's marks (R427). -/
def OpSlot.put (o : OpSlot) (i v tag : Nat) : OpSlot :=
  { o with sectors := Assoc.insert o.sectors i (BitVec.ofNat 512 v), tags := Assoc.insert o.tags i (BitVec.ofNat 17 tag)
           poison := o.poison.filter fun g => g / 8 != i }

/-- Whether a sector of a slot holds a poisoned granule (R427). -/
def OpSlot.poisoned (o : OpSlot) (i : Nat) : Bool := o.poison.any fun g => g / 8 == i

/-- The element of a size in bytes at an index of a row that starts at a sector. -/
def OpSlot.element (o : OpSlot) (first size k : Nat) : Nat := fieldOf (o.sector (first + k * size / 64)) (8 * (k * size % 64)) (8 * size)

/-! ## Tagged blocks (R110 to R114, R264) -/

/-- One byte into the CRC of R113. -/
def crcByte (crc b : Nat) : Nat :=
  (List.range 8).foldl (fun c _ => if c / 0x8000 % 2 = 1 then (c * 2 % 0x10000) ^^^ 0x1021 else c * 2 % 0x10000) (crc ^^^ (b * 256))

/-- The CRC of a list of bytes (R113). -/
def crc16 (bs : List Nat) : Nat := bs.foldl crcByte 0xFFFF

/-- Byte i of a sector. -/
def secByte (v i : Nat) : Nat := fieldOf v (8 * i) 8

/-- The fault that a block's checks give (R112). -/
def blockFault (v : Nat) : Option (BitVec 8) :=
  let check := fieldOf v 496 16
  let code := secByte v 0
  if check ≠ 0 ∧ check ≠ crc16 ((List.range 62).map (secByte v)) then some 0x0B
  else if code ≠ 0x00 ∧ code ≠ 0x16 ∧ code ≠ 0x18 ∧ code ≠ 0x28 ∧ code ≠ 0xFF then some 0x0A
  else if code ≠ 0x00 ∧ code ≠ 0xFF ∧ secByte v 1 = 0xFF then some 0x0A
  else none

/-- The slot with a tagged block written to a sector: its payload, and its header as the tag (R264). -/
def OpSlot.putBlock (o : OpSlot) (i v : Nat) : OpSlot := o.put i (fieldOf v 16 480) (0x10000 + secByte v 1 * 256 + secByte v 0)

/-- Whether the tag of a sector that an MMA of tagged blocks reads is refused (R271). -/
def tagRefused (e80 : Bool) (tag : Nat) : Bool :=
  let code := tag % 256
  tag / 0x10000 % 2 == 0 || !(code == 0x00 || code == 0xFF || (if e80 then code == 0x16 else code == 0x18 || code == 0x28))

/-- An element of a tagged block (R111, R115). -/
inductive TagEl where
  | nan
  | zero
  | lns (neg : Bool) (e : Int)
  | int (n : Int)
deriving DecidableEq, Repr

/-- Element j of a block, by its format code and payload. -/
def tagElement (code payload j : Nat) : TagEl :=
  let lns := fun (v : LnsVal) => match v with | .zero => TagEl.zero | .nan => .nan | .num n e => .lns n e
  if code = 0xFF then .nan
  else if code = 0x16 then lns (lnsDecode true (fieldOf payload (6 * j) 6))
  else if code = 0x18 then lns (lnsDecode false (fieldOf payload (8 * j) 8))
  else if code = 0x28 then .int (signedField 8 (fieldOf payload (8 * j) 8))
  else .zero

/-! ## Products and block sums (R117, R118) -/

/-- T[f] × 2^(i + 16) of an exponent in eighths. -/
def lnsPower (e : Int) : Nat := lnsT (e % 8).toNat * 2 ^ (e / 8 + 16).toNat

/-- A magnitude with a sign. -/
def signed (neg : Bool) (m : Nat) : Int := if neg then -(m : Int) else m

/-- The product P of two elements; none is a NaN (R117). -/
def tagProduct (a b : TagEl) : Option Int :=
  match a, b with
  | .nan, _ => none
  | _, .nan => none
  | .zero, _ => some 0
  | _, .zero => some 0
  | .lns x e, .lns y g => some (signed (x != y) (lnsPower (e + g)))
  | .lns x e, .int n => some (signed x (lnsPower e) * n)
  | .int n, .lns y g => some (signed y (lnsPower g) * n)
  | .int n, .int k => some (n * k * 2 ^ 30)

/-- The exact sum of products; none where one is a NaN (R118). -/
def sumProducts (ps : List (Option Int)) : Option Int :=
  ps.foldl (fun r p => match r, p with | some x, some y => some (x + y) | _, _ => none) (some 0)

/-- The block sum of a pair of blocks of n elements, as (B, xb); none is a NaN. -/
def blockSum (n tagA a tagB b : Nat) : Option (Int × Int) :=
  let s := sumProducts ((List.range n).map fun j => tagProduct (tagElement (tagA % 256) a j) (tagElement (tagB % 256) b j))
  s.map fun x => (x, (secByte tagA 1 : Int) + secByte tagB 1 - 256)

/-! ## The block-sum accumulator (R119, R120) -/

/-- The exponent that marks an entry as NaN. -/
def nanExp : Int := -32768

/-- What an addition to an entry left: the entry, and whether bits were discarded and whether it saturated. -/
structure PairSum where
  m : Int
  x : Int
  nx : Bool := false
  sat : Bool := false
deriving DecidableEq, Repr

/-- One turn of the renormalisation loop. -/
def PairSum.renorm (p : PairSum) : PairSum :=
  if p.m.natAbs < 2 ^ 62 then p
  else
    let r := rneShift p.m 1
    { p with m := r.1, x := p.x + 1, nx := p.nx || r.2 }

/-- An exponent beyond its range saturates. -/
def PairSum.clamp (p : PairSum) : PairSum :=
  if 32767 < p.x then { m := signed (decide (p.m < 0)) (2 ^ 62 - 1), x := 32767, nx := true, sat := true } else p

/-- The addition of R120 of (B, xb), or of a NaN, to an entry; the loop runs at most twice. -/
def addPair (m x : Int) (v : Option (Int × Int)) : PairSum :=
  if x = nanExp then { m := m, x := x }
  else
    match v with
    | none => { m := 0, x := nanExp }
    | some (b, xb) =>
      if b = 0 then { m := m, x := x }
      else
        let p : PairSum :=
          if m = 0 then { m := b, x := xb }
          else if xb ≤ x then
            let r := rneShift b (x - xb)
            { m := m + r.1, x := x, nx := r.2 }
          else
            let r := rneShift m (xb - x)
            { m := r.1 + b, x := xb, nx := r.2 }
        p.renorm.renorm.clamp

/-! ## Accumulator memory (R80) -/

/-- An accumulator slot of a tile. -/
def Tile.accSlot (t : Tile) (n : Nat) : AccSlot := Assoc.getD t.accs n {}

/-- A field of n bytes at a byte offset of a slot, within one dword. -/
def AccSlot.field (a : AccSlot) (off n : Nat) : Nat := fieldOf (Assoc.getD a.data (off / 8) 0).toNat (8 * (off % 8)) (8 * n)

/-- The slot with such a field written. -/
def AccSlot.put (a : AccSlot) (off n v : Nat) : AccSlot :=
  { a with data := Assoc.insert a.data (off / 8) (BitVec.ofNat 64 (putField (Assoc.getD a.data (off / 8) 0).toNat (8 * (off % 8)) (8 * n) v)) }

/-- The tile with an accumulator slot changed. -/
def Tile.modAcc (t : Tile) (n : Nat) (f : AccSlot → AccSlot) : Tile := { t with accs := Assoc.insert t.accs n (f (t.accSlot n)) }

/-- Whether bytes of an accumulator slot hold a poisoned granule (R427). -/
def Tile.accPoisoned (t : Tile) (slot off n : Nat) : Bool := (t.accSlot slot).poison.any fun g => decide (off / 8 ≤ g) && decide (g ≤ (off + n - 1) / 8)

/-- The pair of an entry: m in the even slot, x in the next (R80). -/
def Tile.pair (t : Tile) (slot e : Nat) : Int × Int :=
  (signedField 64 ((t.accSlot slot).field (8 * e) 8), signedField 16 ((t.accSlot (slot + 1)).field (2 * e) 2))

/-- The tile with the pair of an entry written. -/
def Tile.putPair (t : Tile) (slot e : Nat) (m x : Int) : Tile :=
  (t.modAcc slot fun a => a.put (8 * e) 8 (patOfInt 64 m)).modAcc (slot + 1) fun a => a.put (2 * e) 2 (patOfInt 16 x)

/-- The tile with saturations counted for a slot (R128). -/
def Tile.saturate (t : Tile) (slot n : Nat) : Tile :=
  t.modAcc slot fun a => { a with sat := BitVec.ofNat 32 (min 0xFFFFFFFF (a.sat.toNat + n)) }

/-- The tile with an accumulator slot zeroed (R273). -/
def Tile.zeroAcc (t : Tile) (slot : Nat) : Tile := t.modAcc slot fun _ => {}

/-- What an operation of the engine left: the tile, its flags, its saturations, and the first element that became NaN. -/
structure EngDone where
  tile : Tile
  flags : Sticky := {}
  sats : Nat := 0
  nan : Option (Nat × Nat) := none
deriving DecidableEq, Repr

/-- The addition of block sums or of a pair, in order, to an entry of the accumulator. -/
def EngDone.addAll (r : EngDone) (slot i j : Nat) (vs : List (Option (Int × Int))) : EngDone :=
  let e := 64 * i + j
  let (m, x) := r.tile.pair slot e
  let p := vs.foldl (fun (p : PairSum × Nat) v =>
    let q := addPair p.1.m p.1.x v
    ({ q with nx := p.1.nx || q.nx, sat := p.1.sat || q.sat }, p.2 + (if q.sat then 1 else 0))) (({ m := m, x := x } : PairSum), 0)
  { tile := r.tile.putPair slot e p.1.m p.1.x
    flags := r.flags.or { nx := p.1.nx, sat := p.1.sat }
    sats := r.sats + p.2
    nan := if r.nan.isNone ∧ x ≠ nanExp ∧ p.1.x = nanExp then some (i, j) else r.nan }

/-! ## MMA (R269 to R271) -/

/-- The shape of an MMA: M, N, K or b, sectors per row, s of R262, and the cycles of R270. -/
structure MmaShape where
  m : Nat
  n : Nat
  k : Nat
  q : Nat
  s : Nat
  cycles : Nat
deriving DecidableEq, Repr

/-- The shape of a format (R270). -/
def mmaShape (f : MmaFmt) (e80 : Bool) : MmaShape :=
  match f with
  | .fp64 => { m := 32, n := 32, k := 32, q := 4, s := 32, cycles := 32 }
  | .fp32 => { m := 32, n := 32, k := 64, q := 4, s := 32, cycles := 32 }
  | .bf16 => { m := 64, n := 64, k := 128, q := 4, s := 64, cycles := 32 }
  | .fp16 => { m := 64, n := 64, k := 128, q := 4, s := 64, cycles := 32 }
  | .tag => if e80 then { m := 64, n := 64, k := 8, q := 8, s := 64, cycles := 40 } else { m := 64, n := 64, k := 4, q := 4, s := 64, cycles := 30 }

/-- The input format of a float MMA; FP64 stands for the tagged format, which has none. -/
def mmaInput (f : MmaFmt) : FFmt := match f with | .fp64 => fp64 | .fp32 => fp32 | .bf16 => bf16 | .fp16 => fp16 | .tag => fp64

/-- The accumulator's float format (R80). -/
def mmaAcc (f : MmaFmt) : FFmt := match f with | .fp64 => fp64 | _ => fp32

/-- The operands of an MMA (R269). -/
structure MmaArgs where
  aSlot : Nat
  bSlot : Nat
  cSlot : Nat
  aOff : Nat
  bOff : Nat
  mv : Nat
  nv : Nat
  kv : Nat
  e80 : Bool
deriving DecidableEq, Repr

/-- The operands that ga and gc give, with 0 as the whole shape. -/
def mmaArgs (f : MmaFmt) (ga gc : Nat) : MmaArgs :=
  let e80 := fieldOf gc 59 1 == 1
  let sh := mmaShape f e80
  let or := fun (x d : Nat) => if x = 0 then d else x
  { aSlot := fieldOf ga 0 5, bSlot := fieldOf ga 8 5, cSlot := fieldOf ga 16 6
    aOff := fieldOf gc 0 9, bOff := fieldOf gc 16 9
    mv := or (fieldOf gc 32 7) sh.m, nv := or (fieldOf gc 40 7) sh.n, kv := or (fieldOf gc 48 10) sh.k, e80 := e80 }

/-- Whether ga breaks its limits, but for the slots' owners (R269). -/
def mmaBadA (f : MmaFmt) (ga : Nat) : Bool :=
  ga / 2 ^ 22 != 0 || fieldOf ga 13 3 != 0 || fieldOf ga 5 3 != 0 || (f == .tag && ga / 2 ^ 16 % 2 == 1)

/-- Whether gc breaks its limits (R269). -/
def mmaBadC (f : MmaFmt) (gc : Nat) : Bool :=
  let x := mmaArgs f 0 gc
  let sh := mmaShape f x.e80
  fieldOf gc 60 4 != 0 || fieldOf gc 58 1 != 0 || fieldOf gc 47 1 != 0 || fieldOf gc 39 1 != 0 || fieldOf gc 25 7 != 0 || fieldOf gc 9 7 != 0 ||
  (f != .tag && x.e80) || decide (sh.m < x.mv) || decide (sh.n < x.nv) || decide (sh.k < x.kv) ||
  decide (512 < x.aOff + x.mv * sh.q) || decide (512 < x.bOff + x.nv * sh.q)

/-- The first sector that an MMA of tagged blocks reads and whose tag is refused: FSECT of its fault (R271). -/
def mmaTagFault (x : MmaArgs) (q : Nat) (a b : OpSlot) : Option Nat :=
  let scan := fun (o : OpSlot) (off rows side : Nat) =>
    (List.range rows).findSome? fun r => (List.range x.kv).findSome? fun k =>
      let i := off + r * q + k
      if tagRefused x.e80 (o.tagOf i) then some (side * 2 ^ 23 + i) else none
  match scan a x.aOff x.mv 0 with
  | some e => some e
  | none => scan b x.bOff x.nv 1

/-- The first sector that an MMA reads and that holds a poisoned granule (R427), as FSECT of its fault. -/
def mmaPoison (f : MmaFmt) (x : MmaArgs) (a b : OpSlot) : Option Nat :=
  let q := (mmaShape f x.e80).q
  let n := if f = .tag then x.kv else (x.kv * (mmaInput f).bytes + 63) / 64
  let scan := fun (o : OpSlot) (off rows side : Nat) =>
    if o.poison.isEmpty then none
    else
      (List.range rows).findSome? fun r => (List.range n).findSome? fun k =>
        let i := off + r * q + k
        if o.poisoned i then some (side * 2 ^ 23 + i) else none
  match scan a x.aOff x.mv 0 with
  | some e => some e
  | none => scan b x.bOff x.nv 1

/-- Whether an entry of an accumulator of a KIND holds a poisoned granule (R427). -/
def Tile.entryPoisoned (t : Tile) (kind slot e : Nat) : Bool :=
  if kind = 3 then t.accPoisoned slot (8 * e) 8 || t.accPoisoned (slot + 1) (2 * e) 2
  else if kind = 0 then t.accPoisoned slot (8 * e) 8
  else t.accPoisoned slot (4 * e) 4

/-- The KIND of the accumulator of an MMA's format (R274). -/
def mmaKind (f : MmaFmt) : Nat := match f with | .fp64 => 0 | .fp32 => 1 | .tag => 3 | _ => 2

/-- Whether an MMA reads a poisoned granule of its accumulator (R427). -/
def mmaAccPoison (t : Tile) (f : MmaFmt) (x : MmaArgs) : Bool :=
  if (t.accSlot x.cSlot).poison.isEmpty ∧ (t.accSlot (x.cSlot + 1)).poison.isEmpty then false
  else
    let n := (mmaShape f x.e80).n
    (List.range x.mv).any fun i => (List.range x.nv).any fun j => t.entryPoisoned (mmaKind f) x.cSlot (n * i + j)

/-- The value of C + Σ A × B of one element (R122); a smaller problem adds +0 terms. -/
def mmaFloat (f : MmaFmt) (x : MmaArgs) (a b : OpSlot) (i j c : Nat) : Nat × Sticky :=
  let inp := mmaInput f
  let sh := mmaShape f false
  let g : Gather := ({} : Gather).term (some ((mmaAcc f).decode c))
  let g := (List.range x.kv).foldl (fun (g : Gather) k =>
    g.term (exactMul (inp.decode (a.element (x.aOff + i * sh.q) inp.bytes k)) (inp.decode (b.element (x.bOff + j * sh.q) inp.bytes k)))) g
  (mmaAcc f).gathered (if x.kv < sh.k then g.term (some (.fin false 0 0)) else g)

/-- One element of a float MMA. -/
def EngDone.mmaElement (r : EngDone) (f : MmaFmt) (x : MmaArgs) (a b : OpSlot) (i j : Nat) : EngDone :=
  let w := (mmaAcc f).bytes
  let off := w * ((mmaShape f false).n * i + j)
  let c := (r.tile.accSlot x.cSlot).field off w
  let (v, fl) := mmaFloat f x a b i j c
  { r with
    tile := r.tile.modAcc x.cSlot fun s => s.put off w v
    flags := r.flags.or fl
    nan := if r.nan.isNone ∧ !((mmaAcc f).decode c).isNan ∧ ((mmaAcc f).decode v).isNan then some (i, j) else r.nan }

/-- One element of an MMA of tagged blocks: block sums in ascending order (R121). -/
def EngDone.tagElement (r : EngDone) (x : MmaArgs) (q : Nat) (a b : OpSlot) (i j : Nat) : EngDone :=
  r.addAll x.cSlot i j ((List.range x.kv).map fun k =>
    let p := x.aOff + i * q + k
    let o := x.bOff + j * q + k
    blockSum (if x.e80 then 80 else 60) (a.tagOf p) (a.sector p) (b.tagOf o) (b.sector o))

/-- An MMA on its operands (R271). -/
def runMma (t : Tile) (f : MmaFmt) (x : MmaArgs) (a b : OpSlot) : EngDone :=
  let q := (mmaShape f x.e80).q
  (List.range x.mv).foldl (fun (r : EngDone) i => (List.range x.nv).foldl (fun (r : EngDone) j =>
    if f = .tag then r.tagElement x q a b i j else r.mmaElement f x a b i j) r) { tile := t }

/-! ## ACCRD (R127, R274) -/

/-- The size of an output element. -/
def accBytes (f : AccFmt) : Nat := match f with | .fp64 => 8 | .fp32 => 4 | .bf16 => 2 | .fp16 => 2 | .i32 => 4

/-- The float format of an output; none for i32. -/
def accFloat (f : AccFmt) : Option FFmt := match f with | .fp64 => some fp64 | .fp32 => some fp32 | .bf16 => some bf16 | .fp16 => some fp16 | .i32 => none

/-- The value of an accumulator entry by KIND. -/
def Tile.accValue (t : Tile) (kind slot e : Nat) : FVal :=
  match kind with
  | 0 => fp64.decode ((t.accSlot slot).field (8 * e) 8)
  | 3 =>
    let (m, x) := t.pair slot e
    if x = nanExp then .nan false else .fin (decide (m < 0)) m.natAbs (x - 28)
  | _ => fp32.decode ((t.accSlot slot).field (4 * e) 4)

/-- The conversion of a value to an output: its pattern, its flags, and whether it is a saturation (R127). -/
def accConvert (o : AccFmt) (v : FVal) : Nat × Sticky × Bool :=
  match accFloat o with
  | some f =>
    match v with
    | .nan _ => (f.nan, {}, false)
    | .inf n => (f.inf n, {}, false)
    | .fin n m e =>
      let (r, fl) := f.round .rne n m e false
      if fl.of then (f.largest n, { sat := true, nx := true }, true) else (r, fl, false)
  | none =>
    match v with
    | .nan _ => (0, { nv := true, sat := true }, true)
    | .inf n => (if n then 0x80000000 else 0x7FFFFFFF, { nv := true, sat := true }, true)
    | .fin n m e =>
      let (k, inexact) := roundAt .rne n m e 0 false
      if !n ∧ 0x7FFFFFFF < k then (0x7FFFFFFF, { sat := true, nx := true }, true)
      else if n ∧ 0x80000000 < k then (0x80000000, { sat := true, nx := true }, true)
      else (patOfInt 32 (signed n k), { nx := inexact }, false)

/-- Columns, and rows, of an accumulator by KIND. -/
def accCols (kind : Nat) : Nat := if kind < 2 then 32 else 64

/-- The converted elements of a row. -/
def Tile.accRow (t : Tile) (o : AccFmt) (kind slot r : Nat) : List (Nat × Sticky × Bool) :=
  (List.range (accCols kind)).map fun c => accConvert o (t.accValue kind slot (accCols kind * r + c))

/-- The flags and the saturations of the rows below a number. -/
def Tile.accTotals (t : Tile) (o : AccFmt) (kind slot rows : Nat) : Sticky × Nat :=
  ((List.range rows).flatMap (t.accRow o kind slot)).foldl (fun (p : Sticky × Nat) e => (p.1.or e.2.1, p.2 + (if e.2.2 then 1 else 0))) ({}, 0)

/-- The first row of an accumulator, of rows of a width, that holds a poisoned granule (R427). -/
def Tile.poisonedRow (t : Tile) (kind slot width rows : Nat) : Option Nat :=
  if (t.accSlot slot).poison.isEmpty ∧ (t.accSlot (slot + 1)).poison.isEmpty then none
  else (List.range rows).find? fun r => (List.range width).any fun c => t.entryPoisoned kind slot (width * r + c)

/-- PITCH in bytes: 0 stands for the columns times the element size. -/
def accPitch (o : AccFmt) (ga : Nat) : Nat :=
  let p := fieldOf ga 16 16
  if p = 0 then accCols (fieldOf ga 8 2) * accBytes o else p

/-- Whether ga breaks the limits of ACCRD (R274). -/
def accrdBad (o : AccFmt) (ga : Nat) : Bool :=
  let kind := fieldOf ga 8 2
  ga / 2 ^ 32 != 0 || fieldOf ga 6 2 != 0 || fieldOf ga 10 6 != 0 || (kind == 3 && ga % 2 == 1) || accPitch o ga % accBytes o != 0 ||
  decide (accPitch o ga < accCols kind * accBytes o)

/-! ## The pair image (R119, R276) -/

/-- The two dwords of an entry: m, then x sign-extended; a NaN entry has m = 0. -/
def pairDwords (m x : Int) : List Nat := [if x = nanExp then 0 else patOfInt 64 m, patOfInt 64 x]

/-- The 64 bytes of an image sector. -/
def Tile.pairSector (t : Tile) (slot i : Nat) : List Byte :=
  dwordBytes ((List.range 4).flatMap fun k => let (m, x) := t.pair slot (4 * i + k); pairDwords m x)

/-- The first image sector with an x dword that is no sign extension (R276). -/
def pairImageBad (d : Nat → Nat) : Option Nat :=
  (List.range 4096).findSome? fun e =>
    let x := d (2 * e + 1)
    if x / 2 ^ 15 = 0 ∨ x / 2 ^ 15 = 2 ^ 49 - 1 then none else some (e / 4)

/-- ACCADD of a whole image (R276). -/
def runAccadd (t : Tile) (slot : Nat) (d : Nat → Nat) : EngDone :=
  (List.range 4096).foldl (fun (r : EngDone) e =>
    let x := signedField 16 (d (2 * e + 1) % 65536)
    r.addAll slot (e / 64) (e % 64) [if x = nanExp then none else some (signedField 64 (d (2 * e)), x)]) { tile := t }

end Sys2Proof.Machine
end

