-- ==== Sys2Proof/Machine/Engine.lean ====
section
/-!
DEFINITION. The matrix engine of a tile (R259 to R276): operand slots, the engine queue, the operations and their completions; and what the engines and
the transfer unit share: memory read and written by the device (R146, R209), barrier updates (R95, R262) and flags that follow a thread (R109).
-/

namespace Sys2Proof.Machine

/-! ## Memory as an engine reaches it (R146, R209) -/

/-- Work of the device for a thread: its number, the issuer with its core, job and translation root. -/
structure Agent where
  id : Nat
  issuer : Name
  core : Nat
  job : Word
  troot : Dword
  /-- The issuer's FAULTREC and admission at issue (R244, R373), and the block of a tagged copy that it reads (R412). -/
  faultrec : Dword := 0
  ticket : Option (Nat × Word) := none
  block : Option Nat := none
deriving DecidableEq, Repr

/-- Who sends the requests of an agent. -/
def State.agentOrigin (s : State) (g : Agent) : Origin :=
  { pkg := s.pkg, core := g.core, dev := some g.id, job := g.job, faultrec := g.faultrec, troot := g.troot, ticket := g.ticket, block := g.block }

/-- Whether an agent has a request of its own in flight. -/
def State.agentBusy (s : State) (g : Agent) : Bool := s.flight.any fun m => m.origin.dev == some g.id && m.origin.pkg == s.pkg && !m.isNotice

/-- What came of an access of an agent: its bytes, a fault's code, or nothing yet. -/
inductive Got where
  | bytes (bs : List Byte)
  | fault (code : BitVec 8)
  | later
deriving DecidableEq, Repr

/-- The words from a virtual word number that a table holds, as bytes; none where one is missing. -/
def cached (c : Assoc Nat) (w n : Nat) : Option (List Byte) :=
  (List.range n).foldr (fun i r => match Assoc.look c (w + i), r with | some x, some bs => some (leBytes 4 x ++ bs) | _, _ => none) (some [])

/-- A read by an agent of n words of one sector, from an aligned virtual address; `cache` holds words of other packages, by virtual word number. -/
def State.agentRead (s : State) (g : Agent) (cache : Assoc Nat) (va n : Nat) : State × Assoc Nat × Got :=
  match s.checkWalk g.troot g.job (BitVec.ofNat 64 va) 4 true false with
  | (s, .fault code _) => (s, cache, .fault code)
  | (s, .walk) => (s, cache, .later)
  | (s, .ok x) =>
    let a := gpaLocal x.pa
    if isDevice x.pa then (s, cache, .fault 0x05)
    else if gpaPkg x.pa ≠ s.pkg ∨ (s.farPage x.pa).isSome then
      match cached cache (va / 4) n with
      | some bs => (s, cache, .bytes bs)
      | none =>
        match Assoc.look s.fetched g.id with
        | some (.data vals) =>
          let word := fun i => ((vals.find? fun p => p.1 == i).map (·.2)).getD 0
          ({ s with fetched := Assoc.erase s.fetched g.id }, (List.range n).foldl (fun c i => Assoc.insert c (va / 4 + i) (word i)) cache,
            .bytes ((List.range n).flatMap fun i => leBytes 4 (word i)))
        | some (.failed code _) => ({ s with fetched := Assoc.erase s.fetched g.id }, cache, .fault code)
        | none =>
          if s.agentBusy g then (s, cache, .later)
          else
            let ps := (List.range n).map fun i => ({ lane := i, pa := x.pa + 4 * i, size := 4, va := BitVec.ofNat 64 (va + 4 * i) } : Piece)
            (s.send (s.latency g.core x.pa / 2) (gpaPkg x.pa) (s.agentOrigin g) (.load ps x.key false 0), cache, .later)
    else if s.heldAtTile a then (s, cache, .later)
    else if s.tileStateAt a = .reset then (s, cache, .fault 0x12)
    else if (addrs (s.forwarded a) (4 * n)).any fun y => s.poisoned y then (s, cache, .fault 0x14)
    else ((s.countRedirect a).sliceRead (s.forwarded a) x.key, cache, .bytes (s.bytes (s.forwarded a) (4 * n) x.key))

/-- A range cut at the borders of sectors: address and length of each part. -/
def sectorParts (va n : Nat) : List (Nat × Nat) :=
  (List.range ((va % 64 + n + 63) / 64)).map fun i =>
    let lo := max va (va / 64 * 64 + 64 * i)
    (lo, min (va + n) (va / 64 * 64 + 64 * i + 64) - lo)

/-- A read by an agent of n bytes from a virtual address, whole words at a time, sector by sector in ascending order: the first that faults decides, whose code FCODE
then takes (R297, R302): DESIGN CHOICE (log 110). -/
def State.agentReadRun (s : State) (g : Agent) (cache : Assoc Nat) (va n : Nat) : State × Assoc Nat × Got :=
  if n = 0 then (s, cache, .bytes []) else
  let lo := va / 4 * 4
  let hi := (va + n + 3) / 4 * 4
  let (s, c, r) := (sectorParts lo (hi - lo)).foldl (fun (r : State × Assoc Nat × Got) p =>
    match r with
    | (s, c, .bytes bs) =>
      (match s.agentRead g c p.1 (p.2 / 4) with
       | (s, c, .bytes more) => (s, c, .bytes (bs ++ more))
       | o => o)
    | o => o) (s, cache, .bytes [])
  (s, c, match r with | .bytes bs => .bytes ((bs.drop (va - lo)).take n) | o => o)

/-- The check of a write by an agent to a part of one sector (R209, R279): a device register faults with RIGHTS, a RESET tile with FABRIC (R373); where
`scratch` holds, a place outside the scratchpads faults with RIGHTS (R281); 0 stands for a check that is to be made again. -/
def State.agentCheck (s : State) (g : Agent) (scratch : Bool) (va : Nat) : State × Except (BitVec 8) Access :=
  match s.checkWalk g.troot g.job (BitVec.ofNat 64 va) 1 false true with
  | (s, .fault code _) => (s, .error code)
  | (s, .walk) => (s, .error 0)
  | (s, .ok x) =>
    let a := gpaLocal x.pa
    if isDevice x.pa ∨ (scratch ∧ (ownerCore a).isNone) then (s, .error 0x05)
    else if gpaPkg x.pa = s.pkg ∧ s.tileStateAt a = .reset ∧ (ownerCore a).isSome then (s, .error 0x12)
    else (s, .ok x)

/-- The checks of a run of parts, in ascending order: their accesses, or the first fault. -/
def State.agentChecks (s : State) (g : Agent) (scratch : Bool) : List (Nat × Nat) → State × Except (BitVec 8) (List (Nat × Access))
  | [] => (s, .ok [])
  | p :: rest =>
    match s.agentCheck g scratch p.1 with
    | (s, .error c) => (s, .error c)
    | (s, .ok x) =>
      match State.agentChecks s g scratch rest with
      | (s, .ok xs) => (s, .ok ((p.2, x) :: xs))
      | o => o

/-- The state after an agent writes bytes at a checked place: at once on this package, as a BULK packet to another, or to the home of a page that a
directory lock holds (R392). -/
def State.agentPut (s : State) (g : Agent) (x : Access) (bs : List Byte) : State :=
  if gpaPkg x.pa ≠ s.pkg ∨ (s.farPage x.pa).isSome ∨ s.locked (gpaLocal x.pa) then
    s.send (s.latency g.core x.pa / 2) (gpaPkg x.pa) (s.agentOrigin g) (.bulk (atAddrs x.pa bs) x.key)
  else
    let a := gpaLocal x.pa
    ((s.countRedirect a).ticketBytes (s.agentOrigin g) x.pa bs.length).applyBytes none x.key (atAddrs (s.forwarded a) bs)

/-- A write by an agent of bytes from a virtual address: nothing is written where a check of a part fails, or where a place holds its writes. -/
def State.agentWrite (s : State) (g : Agent) (scratch : Bool) (va : Nat) (bs : List Byte) : State × Got :=
  match s.agentChecks g scratch (sectorParts va bs.length) with
  | (s, .error c) => (s, if c = 0 then .later else .fault c)
  | (s, .ok xs) =>
    if xs.any fun x => gpaPkg x.2.pa == s.pkg && s.heldAtTile (gpaLocal x.2.pa) then (s, .later)
    else
      let r := xs.foldl (fun (r : State × List Byte) x => (r.1.agentPut g x.2 (r.2.take x.1), r.2.drop x.1)) (s, bs)
      (r.1, .bytes [])

/-- BULK (R279, R403): written sectors of a copy or an engine operation of another package, applied at their home. -/
def execBulk (s : State) : Host.Outcome State Fault Refusal :=
  event s fun s =>
    match s.msg? s.subject.a with
    | some m =>
      match m.body with
      | .bulk bs key =>
        let pa := (bs.headD (0, 0)).1
        let a := gpaLocal pa
        if s.heldAtTile a then s
        else
          s.once m fun s =>
            if s.locked a then s.noteHeld m
            else if (s.farPage pa).isSome then s.passOn m pa
            else
            let d := s.latency m.origin.core pa / 2
            match s.peerRefuses m pa key with
            | some code => s.answer d m (.nack code 0 (BitVec.ofNat 64 a) true)
            | none =>
              if s.tileStateAt a = .reset then s.answer d m (.nack 0x12 0 (BitVec.ofNat 64 ((tileAt a).getD 0)) true)
              else (((s.countRedirect a).ticketBytes m.origin pa bs.length).applyBytes none key (bs.map fun b => (s.forwarded (gpaLocal b.1), b.2))).answer d m (.ack true [] [] 0)
      | _ => s
    | none => s

/-! ## Barriers and flags as an engine reaches them (R95, R109, R262) -/

/-- Whether an update of a barrier is applied at once: nothing holds it at its home, and no write that registered there is still to come. -/
def State.atOnce (s : State) (pa : Nat) : Bool :=
  gpaPkg pa == s.pkg && (s.farPage pa).isNone && !s.heldAtTile (gpaLocal pa) && !s.locked (gpaLocal pa) && (s.registeredAt pa 16).isEmpty

/-- The state after a barrier update of an agent: at once where the barrier takes it, as a reduction otherwise; a RESET tile drops and counts it (R373). -/
def State.agentUpdate (s : State) (g : Agent) (pa key : Nat) (what : RedWhat) : State :=
  let a := gpaLocal pa
  if s.atOnce pa then
    if s.tileStateAt a = .reset then
      let t := (tileAt a).getD 0
      (s.setTile t { s.tile t with dropped := (s.tile t).dropped + 1 }).countDrop { s.agentOrigin g with name := g.issuer } 0x12 pa t
    else (s.countRedirect a).reduceAt none what (s.forwarded a) key
  else s.send (s.latency g.core pa / 2) (gpaPkg pa) (s.agentOrigin g) (.reduce what pa key false)

/-- The state with the flags of an operation ORed into its issuer's FLAGS wherever its context is, or into its job's FLAGSOR once it has ended (R109); and the
number of the news that takes them to another package. -/
def State.flagsTo (s : State) (op : EngineOp) (f : Sticky) : State × Option Nat :=
  s.lateFlags op.core op.issuer op.job f.bits

/-! ## Issue on a tile (R259) -/

/-- The tile of the core whose turn it is. -/
def State.here (s : State) : Nat := tileOf s.focus.core

/-- Issue an instruction of majors 0x34 and 0x35: a thread whose job is not assigned the tile faults with SLOT (R259).  One that has values in hand has passed
that check. -/
def onTile (i : Instr) (regs : List GReg) (s : State) (body : State → State) : Host.Outcome State Fault Refusal :=
  issue { roam := true, ahead := false, compute := encode i } regs s fun s =>
    let t := s.tile s.here
    if s.cur.handFor.isSome ∨ (t.assigned ∧ t.job = s.cur.job.setWidth 32) then body s else s.raise 0x09 0 (BitVec.ofNat 64 s.here) 0

/-- The state after the instruction at PC faults with SLOT on a value. -/
def State.slotFault (s : State) (x : Dword) : State := s.raise 0x09 0 x 0

/-! ## Operand slots (R264 to R268) -/

/-- All ones. -/
def allOnes : Dword := 0xFFFFFFFFFFFFFFFF

/-- The lowest slot of a tile that no thread owns. -/
def Tile.freeOpSlot (t : Tile) : Option Nat := (List.range 32).find? fun i => (t.opSlot i).owner.isNone

/-- The state with an operand slot of the tile replaced. -/
def State.setOpSlot (s : State) (tile n : Nat) (o : OpSlot) : State := s.setTile tile ((s.tile tile).setOpSlot n o)

/-- The state after a claim by the thread whose turn it is, of a slot that no thread owns (R265). -/
def State.claim (s : State) (c : GReg) (n : Nat) : State :=
  let i := s.here
  let o := (s.tile i).opSlot n
  let job := s.cur.job.setWidth 32
  let name := s.cur.name
  match o.lastJob with
  | some j =>
    if j ≠ job then
      let s := s.setOpSlot i n { o with owner := some name, clearing := some name }
      (s.wait { k := 14, a := BitVec.ofNat 64 n, act := .done c }).notice (s.cycle + 32) .operandSlotCleared { a := i, b := n }
    else
      let s := s.setOpSlot i n { o with owner := some name, sectors := [], tags := [], undef := some s.fresh, claims := o.claims + 1 }
      { s with fresh := s.fresh + slotValues }.result c (BitVec.ofNat 64 n)
  | none =>
    let s := s.setOpSlot i n { o with owner := some name, lastJob := some job, sectors := [], tags := [], undef := some s.fresh, claims := o.claims + 1 }
    { s with fresh := s.fresh + slotValues }.result c (BitVec.ofNat 64 n)

def execOclaim (a c : GReg) (s : State) : Host.Outcome State Fault Refusal :=
  onTile (.oclaim a c) [a, c] s fun s =>
    let x := s.rg a
    if x ≠ allOnes ∧ 31 < x.toNat then s.slotFault x
    else
      match (if x = allOnes then (s.tile s.here).freeOpSlot else some x.toNat) with
      | none => s.result c allOnes
      | some n =>
        match ((s.tile s.here).opSlot n).owner with
        | some w => if w = s.cur.name then s.result c (BitVec.ofNat 64 n) else s.result c allOnes
        | none => s.claim c n

/-- OPERAND_SLOT_CLEARED (R78, R265): every sector and tag is zero, and the waiting claim completes. -/
def execOperandSlotCleared (s : State) : Host.Outcome State Fault Refusal :=
  event s fun s =>
    let i := s.subject.a
    let n := s.subject.b
    let o := (s.tile i).opSlot n
    match o.clearing with
    | none => s
    | some name =>
      match s.whereIs name with
      | none => s
      | some p =>
        let s := s.setOpSlot i n
          { o with sectors := [], tags := [], undef := none, clearing := none, claims := o.claims + 1, poison := [], lastJob := some ((s.at p).job.setWidth 32) }
        match (s.at p).wait.act with
        | .done c => s.completeAt p fun t => t.wg c (BitVec.ofNat 64 n)
        | _ => s

def execOrelease (a : GReg) (s : State) : Host.Outcome State Fault Refusal :=
  onTile (.orelease a) [a] s fun s =>
    let x := s.rg a
    let o := (s.tile s.here).opSlot x.toNat
    if 31 < x.toNat ∨ o.owner ≠ some s.cur.name then s.slotFault x
    else (s.setOpSlot s.here x.toNat { o with owner := none }).retire

/-- Whether a thread may name a slot in OPPUT or as the destination of a copy: its owner, or a burst thread of a read that the owner issued (R268). -/
def State.mayFill (s : State) (t : Thread) (o : OpSlot) : Bool :=
  match o.owner with
  | none => false
  | some w => o.clearing.isNone &&
      (w == t.name || (t.burst && (match t.read.bind (Assoc.look s.reads) with | some h => h.issuer == w | none => false)))

/-- Whether ga of OPPUT, or a slot designator of a copy, sets a zero bit (R267, R278). -/
def designatorBad (x : Nat) : Bool := x / 2 ^ 17 != 0 || fieldOf x 5 3 != 0

/-- Whether gb of OPPUT breaks its limits (R267). -/
def opputBad (off x : Nat) : Bool :=
  let n := fieldOf x 4 3 + 1
  fieldOf x 7 1 != 0 || x / 2 ^ 9 != 0 || decide (16 < fieldOf x 0 4 + n) || decide (512 < off + n)

def execOpput (a b : GReg) (s : State) : Host.Outcome State Fault Refusal :=
  onTile (.opput a b) [a, b] s fun s =>
    let ga := (s.rg a).toNat
    let gb := (s.rg b).toNat
    let t := s.cur
    let o := (s.tile s.here).opSlot (ga % 32)
    let off := fieldOf ga 8 9
    if designatorBad ga ∨ !s.mayFill t o then s.slotFault (s.rg a)
    else if opputBad off gb then s.slotFault (s.rg b)
    else
      let regs := (List.range (fieldOf gb 4 3 + 1)).map fun j => (j, (t.v[gb % 16 + j]?.getD 0).toNat)
      if fieldOf gb 8 1 = 1 then
        match regs.findSome? fun r => (blockFault r.2).map fun c => (r.1, c) with
        | some (j, c) => s.raise c 0 (BitVec.ofNat 64 j) (BitVec.ofNat 64 (off + j))
        | none => (s.setOpSlot s.here (ga % 32) (regs.foldl (fun o r => o.putBlock (off + r.1) r.2) o)).retire
      else (s.setOpSlot s.here (ga % 32) (regs.foldl (fun o r => o.put (off + r.1) r.2 0) o)).retire

/-! ## The engine queue (R260, R262) -/

/-- Places of the engine queue (R260). -/
def enginePlaces : Nat := 32

/-- The agent that an operation is. -/
def EngineOp.agent (op : EngineOp) : Agent := { id := op.id, issuer := op.issuer, core := op.core, job := op.job, troot := op.troot, faultrec := op.faultrec }

/-- The shape of an operation: s of R262. -/
def EngineOp.sectors (op : EngineOp) : Nat :=
  match op.kind with
  | .mma f => (mmaShape f (op.c.getLsbD 59)).s
  | .accrd _ => if fieldOf op.a.toNat 8 2 < 2 then 32 else 64
  | _ => 64

/-- The cycles for which an operation occupies the engine (R270, R272). -/
def EngineOp.cycles (op : EngineOp) : Nat :=
  match op.kind with
  | .mma f => (mmaShape f (op.c.getLsbD 59)).cycles
  | .acczero => 32
  | .accrd o =>
    let n := accCols (fieldOf op.a.toNat 8 2) * accCols (fieldOf op.a.toNat 8 2)
    max (n / 64) (n * accBytes o / 128)
  | .accsat _ => 0
  | _ => 512

/-- The event that completes an operation. -/
def EngineOp.event (op : EngineOp) : Instr :=
  match op.kind with
  | .mma _ => .mmaComplete
  | .acczero => .acczeroDone
  | .accrd _ => .accrdComplete
  | .accsat _ => .accsatComplete
  | .accget => .accgetComplete
  | .accadd => .accaddComplete

/-- Whether an operation names a barrier. -/
def EngineOp.reports (op : EngineOp) : Bool := match op.kind with | .acczero => false | .accsat _ => false | _ => true

/-- Whether an operation names an accumulator slot. -/
def EngineOp.names (op : EngineOp) (slot : Nat) : Bool :=
  match op.kind with
  | .mma f => let c := fieldOf op.a.toNat 16 6; c == slot || (f == .tag && c + 1 == slot)
  | .accrd _ => op.a.toNat % 64 == slot || (fieldOf op.a.toNat 8 2 == 3 && op.a.toNat % 64 + 1 == slot)
  | .acczero => op.a.toNat % 64 == slot
  | .accsat _ => false
  | _ => op.a.toNat % 64 == slot || op.a.toNat % 64 + 1 == slot

/-- Whether an operation of the queue before a given one names a slot. -/
def Tile.slotBusy (t : Tile) (slot : Nat) (before : Nat) : Bool := t.engine.any fun op => decide (op.id < before) && op.names slot

/-- The state with an operation of a tile's queue changed. -/
def State.modOp (s : State) (tile id : Nat) (f : EngineOp → EngineOp) : State :=
  let t := s.tile tile
  s.setTile tile { t with engine := t.engine.map fun (op : EngineOp) => if op.id = id then f op else op }

/-- An operation of a tile's queue. -/
def State.op? (s : State) (tile id : Nat) : Option EngineOp := (s.tile tile).engine.find? fun op => op.id == id

/-- The state after what can complete next has been made due: the oldest operation of the queue, and every ACCSAT whose slot no earlier one names. -/
def State.kick (s : State) (tile : Nat) : State :=
  let t := s.tile tile
  let s :=
    match t.engine with
    | [] => s
    | op :: _ =>
      if op.accepted && op.known && !op.started then
        (s.modOp tile op.id fun op => { op with started := true }).notice (s.cycle + max 1 op.cycles) op.event { a := tile, b := op.id }
      else s
  t.engine.foldl (fun s op =>
    match op.kind with
    | .accsat _ =>
      if op.accepted && !op.started && !t.slotBusy (op.a.toNat % 64) op.id then
        (s.modOp tile op.id fun op => { op with started := true }).notice (s.cycle + 1) .accsatComplete { a := tile, b := op.id }
      else s
    | _ => s) s

/-- The bytes of a region of an accumulator slot (R279). -/
def AccSlot.bytes (a : AccSlot) (off n : Nat) : List Byte := (addrs off n).map fun i => BitVec.ofNat 8 (a.field i 1)

/-- A copy of mode FROMACC with the bytes of its source, where it still lacks them and no earlier operation of the engine names the slot (R279). -/
def Tile.snapCopy (t : Tile) (c : Copy) : Copy :=
  let slot := c.b.toNat % 64
  if fieldOf c.d1.toNat 0 4 = 4 ∧ c.snap.isNone ∧ !t.slotBusy slot c.id then
    { c with snap := some ((t.accSlot slot).bytes (fieldOf c.b.toNat 8 15) (fieldOf c.d1.toNat 32 32 * fieldOf c.d1.toNat 16 16))
             marks := (t.accSlot slot).poison }
  else c

/-- The tile with every copy from an accumulator that has reached its place in acceptance order given its bytes. -/
def Tile.snapshot (t : Tile) : Tile := { t with copies := t.copies.map t.snapCopy }

/-- The state after an operation has left the queue: threads of the tile's cores that wait for a place go on, in
the order in which they issued, and the next operation does too. -/
def State.opDone (s : State) (tile id : Nat) : State :=
  let t := s.tile tile
  let s := s.setTile tile ({ t with engine := t.engine.filter fun (op : EngineOp) => op.id != id } : Tile).snapshot
  let s := (List.range 4).foldl (fun s c => s.wakeWhere (4 * tile + c) fun t => t.wait.act == .again .engineRoom) s
  s.kick tile

/-- What an operation keeps while it waits for a place: its operands, and its barrier with the key slot (R260). -/
def opInHand (a b c : Dword) (bar : Option (Nat × Nat)) : List Nat :=
  [a.toNat, b.toNat, c.toNat] ++ (match bar with | some x => [x.1, x.2] | none => [])

/-- The state after an operation of the thread whose turn it is takes a place, or leaves while the queue is full (R260): it has passed its checks, which are not made
again. -/
def State.enqueueOp (s : State) (kind : EngKind) (a b c : Dword) (w : Option (GReg × Bool)) (bar : Option (Nat × Nat)) : State :=
  let i := s.here
  let t := s.tile i
  if enginePlaces ≤ t.engine.length then (s.keep (opInHand a b c bar)).stallFor 14 0 0 .engineRoom
  else
    let th := s.cur
    let x := fun (sh : Nat) => (t.opSlot (fieldOf a.toNat sh 5)).claims
    let wait := match w with | some (_, y) => y | none => false
    let op : EngineOp :=
      { id := s.nextId, kind := kind, issuer := th.name, core := s.focus.core, job := th.job.setWidth 32, troot := th.troot
        faultrec := th.faultrec
        nanStop := th.nanctl.getLsbD 0, a := a, b := b, c := c, wait := wait
        bar := match bar with | some x => x.1 | none => 0
        barKey := match bar with | some x => x.2 | none => 0
        pc := th.pc, barVa := b, claimA := x 0, claimB := x 8 }
    let s := { s with nextId := s.nextId + 1 }
    let s := s.setTile i { t with engine := t.engine ++ [op] }
    let s := if bar.isSome then s.postOf th.name else s
    let s :=
      match w with
      | some (d, y) => s.wait { k := if y then 6 else 14, a := b, act := .done d }
      | none => s.retire
    s.notice (s.cycle + 1) .engineAccept { a := i, b := op.id }

/-- Run the checks of an operation of the queue; one that waited for a place with its checks passed takes it as it was checked (R260). -/
def State.opChecks (s : State) (kind : EngKind) (w : Option (GReg × Bool)) (f : State → State) : State :=
  let x := BitVec.ofNat 64
  match s.cur.handFor with
  | some [a, b, c] => s.enqueueOp kind (x a) (x b) (x c) w none
  | some [a, b, c, pa, key] => s.enqueueOp kind (x a) (x b) (x c) w (some (pa, key))
  | _ => f s

/-- The state after p0 of an operation is known: the issuer of a wait form waits for its barrier to leave that phase (R262). -/
def State.waitPhase (s : State) (op : EngineOp) (p0 : Nat) : State :=
  match (if op.wait then s.whereIs op.issuer else none) with
  | none => s
  | some p =>
    let t := s.at p
    if t.wait.act ≠ .done 0 ∨ t.wait.k ≠ 6 then s
    else
      let a := s.forwarded (gpaLocal op.bar)
      let act : WaitAct := .barrier a (BitVec.ofNat 4 p0)
      let far := gpaPkg op.bar != s.pkg || (s.farPage op.bar).isSome
      let s := s.setAt p { t with wait := { t.wait with v := BitVec.ofNat 64 p0, act := if far then .far else act, first := s.nextId } }
      let o := { s.originOf (s.coreAt p) t with pc := op.pc, ea := op.barVa }
      let late := s.latency op.core op.bar
      if far then s.send (late / 2) (gpaPkg op.bar) o (.await act op.bar op.barKey false false)
      else if s.heldAtTile a then s.post late o (.value 0)
      else s.retest (addrs a 16)

/-- The state with an operation's expectation made at its barrier and p0 noted; a waiting issuer then waits for the phase. -/
def State.expectAt (s : State) (tile : Nat) (op : EngineOp) : State :=
  let p0 := (s.tbar (s.forwarded (gpaLocal op.bar))).phase
  let s := s.agentUpdate op.agent op.bar op.barKey (.expect op.sectors)
  ((s.modOp tile op.id fun op => { op with accepted := true }).waitPhase op p0).kick tile

/-- The state after the expectation of an operation is refused: a waiting issuer faults, another is told as of a dropped write. -/
def State.expectRefused (s : State) (tile : Nat) (op : EngineOp) (code : BitVec 8) (w4 : Dword) : State :=
  let s := { s with fetched := Assoc.erase s.fetched op.id }
  let s := s.modOp tile op.id fun op => { op with known := true }
  let s :=
    if op.wait then s.faultNamed op.issuer code op.barVa w4 0
    else s.countDrop { s.agentOrigin op.agent with name := op.issuer } code op.bar w4.toNat
  s.kick tile

/-- The state while the expectation of an operation is on its way: its answer brings p0, the phase that the update finds (R262). -/
def State.learnPhase (s : State) (tile : Nat) (op : EngineOp) : State :=
  let again := fun (s : State) => s.notice (s.cycle + 16) .engineAccept { a := tile, b := op.id }
  if s.agentBusy op.agent then again s
  else
    match Assoc.look s.fetched op.id with
    | some (.failed code w4) => s.expectRefused tile op code w4
    | some (.data vals) =>
      let p0 := ((vals.head?.map (·.2)).getD 0) % 16
      let s := { s with fetched := Assoc.erase s.fetched op.id }
      ((s.modOp tile op.id fun op => { op with known := true }).waitPhase op p0).kick tile
    | none => (s.modOp tile op.id fun op => { op with known := true }).kick tile

/-- ENGINE_ACCEPT (R260, R262): a barrier takes the expectation of s sectors, after the issuer's earlier stores. -/
def execEngineAccept (s : State) : Host.Outcome State Fault Refusal :=
  event s fun s =>
    let tile := s.subject.a
    match s.op? tile s.subject.b with
    | none => s
    | some op =>
      let again := fun (s : State) => s.notice (s.cycle + 4) .engineAccept { a := tile, b := op.id }
      if op.accepted then (if op.known then s else s.learnPhase tile op)
      else if !op.reports then (s.modOp tile op.id fun op => { op with accepted := true }).kick tile
      else if s.earlierOpen op.issuer op.id then again s
      else if s.atOnce op.bar then s.expectAt tile op
      else
        let s := s.agentUpdate op.agent op.bar op.barKey (.expect op.sectors)
        again (s.modOp tile op.id fun op => { op with accepted := true, known := false })

/-! ## Instructions of the queue -/

def execMma (a b c : GReg) (w : Bool) (f : MmaFmt) (s : State) : Host.Outcome State Fault Refusal :=
  onTile (.mma a b c w f) [a, b, c] s fun s => s.opChecks (.mma f) (if w then some (0, true) else none) fun s =>
    let x := mmaArgs f (s.rg a).toNat (s.rg c).toNat
    let owns := fun n => ((s.tile s.here).opSlot n).owner == some s.cur.name && ((s.tile s.here).opSlot n).clearing.isNone
    if mmaBadA f (s.rg a).toNat ∨ !owns x.aSlot ∨ !owns x.bSlot then s.slotFault (s.rg a)
    else if mmaBadC f (s.rg c).toNat then s.slotFault (s.rg c)
    else
      s.barrierAccess (s.rg b) true fun y =>
        s.enqueueOp (.mma f) (s.rg a) (s.rg b) (s.rg c) (if w then some (0, true) else none) (some (y.pa, y.key))

def execAcczero (a : GReg) (s : State) : Host.Outcome State Fault Refusal :=
  onTile (.acczero a) [a] s fun s => s.opChecks .acczero none fun s =>
    if 63 < (s.rg a).toNat then s.slotFault (s.rg a) else s.enqueueOp .acczero (s.rg a) 0 0 none none

def execAccrd (a b c : GReg) (w : Bool) (f : AccFmt) (s : State) : Host.Outcome State Fault Refusal :=
  onTile (.accrd a b c w f) [a, b, c] s fun s => s.opChecks (.accrd f) (if w then some (0, true) else none) fun s =>
    if accrdBad f (s.rg a).toNat then s.slotFault (s.rg a)
    else if (s.rg c).toNat % accBytes f ≠ 0 then s.raise 0x03 (s.rg c) 0 0
    else
      s.barrierAccess (s.rg b) true fun y =>
        s.enqueueOp (.accrd f) (s.rg a) (s.rg b) (s.rg c) (if w then some (0, true) else none) (some (y.pa, y.key))

/-- The state after ACCSAT reads the count of a slot (R275): at once where the queue has a place and no operation of it names the slot. -/
def State.readSat (s : State) (x : Dword) (c : GReg) : State :=
  let t := s.tile s.here
  if enginePlaces ≤ t.engine.length ∨ t.slotBusy x.toNat s.nextId then s.enqueueOp (.accsat c) x 0 0 (some (c, false)) none
  else s.result c ((t.accSlot x.toNat).sat.setWidth 64)

def execAccsat (a c : GReg) (s : State) : Host.Outcome State Fault Refusal :=
  onTile (.accsat a c) [a, c] s fun s =>
    match s.cur.handFor with
    | some (x :: _) => s.readSat (BitVec.ofNat 64 x) c
    | _ => if 63 < (s.rg a).toNat then s.slotFault (s.rg a) else s.readSat (s.rg a) c

/-- Issue ACCGET or ACCADD (R276). -/
def pairOp (i : Instr) (kind : EngKind) (a b c : GReg) (s : State) : Host.Outcome State Fault Refusal :=
  onTile i [a, b, c] s fun s => s.opChecks kind none fun s =>
    if 63 < (s.rg a).toNat ∨ (s.rg a).toNat % 2 = 1 then s.slotFault (s.rg a)
    else if (s.rg c).toNat % 16 ≠ 0 then s.raise 0x03 (s.rg c) 0 0
    else s.barrierAccess (s.rg b) true fun y => s.enqueueOp kind (s.rg a) (s.rg b) (s.rg c) none (some (y.pa, y.key))

def execAccget (a b c : GReg) (s : State) : Host.Outcome State Fault Refusal := pairOp (.accget a b c) .accget a b c s
def execAccadd (a b c : GReg) (s : State) : Host.Outcome State Fault Refusal := pairOp (.accadd a b c) .accadd a b c s

/-! ## Completions (R262, R271, R273 to R276) -/

/-- The state while an operation waits for a place that holds its accesses, or for another package. -/
def State.opAgain (s : State) (tile : Nat) (op : EngineOp) : State := s.notice (s.cycle + 16) op.event { a := tile, b := op.id }

/-- The state after an operation arrives, SECTORS −s and one arrival in one update, and leaves the queue (R262); with the stop of R130 of an issuer on this
package, which is due once the arrival has been applied. -/
def State.opFinish (s : State) (tile : Nat) (op : EngineOp) (stop : Option NanStop) : State :=
  let id := s.nextId
  let s := s.agentUpdate op.agent op.bar op.barKey (.complete op.sectors)
  let late := (s.msg? id).any fun m => match m.body with | .reduce .. => true | _ => false
  let s :=
    match stop with
    | some x => if (s.whereIs op.issuer).isSome then (s.lateStop op.core op.issuer { x with after := if late then some id else none }).1 else s
    | none => s
  s.opDone tile op.id

/-- Run a completion on the operation that the subject names, once it is the oldest of its queue; one whose issuer on another package has been told of its flags
arrives once that package has answered (R109). -/
def State.completing (s : State) (f : Nat → EngineOp → State) : State :=
  let tile := s.subject.a
  match (s.tile tile).engine with
  | op :: _ =>
    if op.id = s.subject.b ∧ op.accepted ∧ op.known then
      match op.told with
      | some ids => if s.anyOpen ids then s.opAgain tile op else s.opFinish tile op none
      | none => f tile op
    else s
  | [] => s

/-- The state after an operation reports a fault and leaves the queue: no arrival follows (R95, R262). -/
def State.opFault (s : State) (tile : Nat) (op : EngineOp) (code sect : Nat) : State :=
  (s.agentUpdate op.agent op.bar op.barKey (.report code sect)).opDone tile op.id

/-- The state after an operation's flags are applied and it arrives (R109, R262), with the stop of R130 where it has one.  An issuer on another package is told of
both first, and the arrival follows the answers; its stop is then noted before the arrival: DESIGN CHOICE (log 115). -/
def State.opArriveWith (s : State) (tile : Nat) (op : EngineOp) (f : Sticky) (stop : Option NanStop) : State :=
  let (s, a) := s.flagsTo op f
  let (s, b) := if (s.whereIs op.issuer).isSome then (s, none) else
    match stop with | some x => s.lateStop op.core op.issuer x | none => (s, none)
  match a.toList ++ b.toList with
  | [] => s.opFinish tile op stop
  | ids => (s.modOp tile op.id fun op => { op with told := some ids }).opAgain tile op

/-- The state after an operation's flags are applied and it arrives. -/
def State.opArrive (s : State) (tile : Nat) (op : EngineOp) (f : Sticky) : State :=
  s.opArriveWith tile op f none

/-- An operand slot as an MMA of an earlier claim finds it: undefined where the slot was released under it (R79). -/
def State.operand (s : State) (tile n claim : Nat) (issuer : Name) : OpSlot :=
  let o := (s.tile tile).opSlot n
  if o.owner = some issuer ∧ o.claims = claim then o else { undef := some (s.fresh + slotValues * n) }

/-- The stop of R130 of an MMA that produced a NaN, its row and column given, with its accumulator slot. -/
def EngineOp.stopOf (op : EngineOp) (slot : Nat) (nan : Option (Nat × Nat)) : Option NanStop :=
  if op.nanStop then
    nan.map fun x => { pc := op.pc, va := op.barVa, w4 := BitVec.ofNat 64 slot, w5 := BitVec.ofNat 64 (x.1 * 65536 + x.2) }
  else none

/-- MMA_COMPLETE (R262, R271). -/
def execMmaComplete (s : State) : Host.Outcome State Fault Refusal :=
  event s fun s => s.completing fun tile op =>
    match op.kind with
    | .mma f =>
      let x := mmaArgs f op.a.toNat op.c.toNat
      let a := s.operand tile x.aSlot op.claimA op.issuer
      let b := s.operand tile x.bSlot op.claimB op.issuer
      let s := { s with fresh := s.fresh + slotValues * 32 }
      match (if f = .tag then mmaTagFault x (mmaShape f x.e80).q a b else none), mmaPoison f x a b with
      | some e, _ => s.opFault tile op 0x0A e
      | none, some e => s.opFault tile op 0x14 e
      | none, none =>
        if mmaAccPoison (s.tile tile) f x then s.opFault tile op 0x14 0 else
        let r := runMma (s.tile tile) f x a b
        let s := s.setTile tile (r.tile.saturate x.cSlot r.sats)
        s.opArriveWith tile op r.flags (op.stopOf x.cSlot r.nan)
    | _ => s

/-- ACCZERO_DONE (R273). -/
def execAcczeroDone (s : State) : Host.Outcome State Fault Refusal :=
  event s fun s => s.completing fun tile op =>
    match op.kind with
    | .acczero => (s.setTile tile ((s.tile tile).zeroAcc (op.a.toNat % 64))).opDone tile op.id
    | _ => s

/-- The state after an operation writes its next row or sector, one of `n`, in ascending order: `row` gives its address and bytes.  Those that go to
another package are acknowledged one at a time. -/
def State.writeRows (tile : Nat) (row : State → Nat → Nat × List Byte) (n : Nat) (finish : State → EngineOp → State)
    (fail : State → EngineOp → Nat → State) : Nat → State → EngineOp → State
  | 0, s, op => s.opAgain tile op
  | fuel + 1, s, op =>
    let save := fun (s : State) (op : EngineOp) => (s.modOp tile op.id fun _ => op)
    if s.agentBusy op.agent then (save s op).opAgain tile op
    else
      match (if op.written then Assoc.look s.fetched op.id else none) with
      | some (.failed code _) => fail (save { s with fetched := Assoc.erase s.fetched op.id } op) op code.toNat
      | _ =>
        let op := if op.written then { op with written := false, done := op.done + 1 } else op
        if n ≤ op.done then finish (save s op) op
        else
          let (va, bs) := row s op.done
          match s.agentWrite op.agent false va bs with
          | (s, .fault code) => fail (save s op) op code.toNat
          | (s, .later) => (save s op).opAgain tile op
          | (s, .bytes _) =>
            if s.agentBusy op.agent then (save s { op with written := true }).opAgain tile op
            else State.writeRows tile row n finish fail fuel s { op with done := op.done + 1 }

/-- ACCRD_COMPLETE (R274): rows are written in ascending order, and the flags and counts of the rows written are applied before the arrival or the
fault. -/
def execAccrdComplete (s : State) : Host.Outcome State Fault Refusal :=
  event s fun s => s.completing fun tile op =>
    match op.kind with
    | .accrd f =>
      let kind := fieldOf op.a.toNat 8 2
      let slot := op.a.toNat % 64
      let count := fun (s : State) (op : EngineOp) =>
        let (fl, n) := (s.tile tile).accTotals f kind slot op.done
        (s.setTile tile ((s.tile tile).saturate slot n), fl)
      let row := fun (s : State) r =>
        (op.c.toNat + r * accPitch f op.a.toNat, ((s.tile tile).accRow f kind slot r).flatMap fun e => leBytes (accBytes f) e.1)
      let finish := fun (s : State) (op : EngineOp) => let (s, fl) := count s op; s.opArrive tile op fl
      let fail := fun (s : State) (op : EngineOp) code => let (s, fl) := count s op; (s.flagsTo op fl).1.opFault tile op code op.done
      match (s.tile tile).poisonedRow kind slot (accCols kind) (accCols kind) with
      | some r => State.writeRows tile row r (fun s op => fail s op 0x14) fail 65 s op
      | none => State.writeRows tile row (accCols kind) finish fail 65 s op
    | _ => s

/-- ACCSAT_COMPLETE (R275): the count after every earlier operation that names the slot. -/
def execAccsatComplete (s : State) : Host.Outcome State Fault Refusal :=
  event s fun s =>
    let tile := s.subject.a
    match s.op? tile s.subject.b with
    | none => s
    | some op =>
      let n := op.a.toNat % 64
      if (s.tile tile).slotBusy n op.id then s
      else
        let v := ((s.tile tile).accSlot n).sat.setWidth 64
        let s :=
          match op.kind, s.whereIs op.issuer with
          | .accsat d, some p => if (s.at p).wait.act = WaitAct.done d then s.completeAt p fun t => t.wg d v else s
          | _, _ => s
        s.opDone tile op.id

/-- ACCGET_COMPLETE (R276). -/
def execAccgetComplete (s : State) : Host.Outcome State Fault Refusal :=
  event s fun s => s.completing fun tile op =>
    match op.kind with
    | .accget =>
      let row := fun (s : State) i => (op.c.toNat + 64 * i, (s.tile tile).pairSector (op.a.toNat % 64) i)
      let fail := fun (s : State) (op : EngineOp) (code : Nat) => s.opFault tile op code op.done
      match (s.tile tile).poisonedRow 3 (op.a.toNat % 64) 4 1024 with
      | some r => State.writeRows tile row r (fun s op => fail s op 0x14) fail 1025 s op
      | none => State.writeRows tile row 1024 (fun s op => s.opArrive tile op {}) fail 1025 s op
    | _ => s

/-- The image of ACCADD as an agent reads it, sector by sector: its bytes; a fault with the sector; or nothing yet. -/
def State.readImage (s : State) (g : Agent) (cache : Assoc Nat) (va : Nat) : Nat → State × Assoc Nat × Got × Nat
  | 0 => (s, cache, .bytes [], 0)
  | n + 1 =>
    match State.readImage s g cache va n with
    | (s, c, .bytes bs, _) =>
      (match s.agentReadRun g c (va + 64 * n) 64 with
       | (s, c, .bytes more) => (s, c, .bytes (bs ++ more), n)
       | (s, c, o) => (s, c, o, n))
    | o => o

/-- ACCADD_COMPLETE (R276): the whole image is read and checked before anything is added. -/
def execAccaddComplete (s : State) : Host.Outcome State Fault Refusal :=
  event s fun s => s.completing fun tile op =>
    match op.kind with
    | .accadd =>
      match s.readImage op.agent op.cache op.c.toNat 1024 with
      | (s, _, .fault code, i) => s.opFault tile op code.toNat i
      | (s, c, .later, _) => (s.modOp tile op.id fun op => { op with cache := c }).opAgain tile op
      | (s, _, .bytes bs, _) =>
        let d := fun i => leValue ((bs.drop (8 * i)).take 8)
        match pairImageBad d, (s.tile tile).poisonedRow 3 (op.a.toNat % 64) 4 1024 with
        | some i, _ => s.opFault tile op 0x0A i
        | none, some i => s.opFault tile op 0x14 i
        | none, none =>
          let slot := op.a.toNat % 64
          let r := runAccadd (s.tile tile) slot d
          (s.setTile tile (r.tile.saturate slot r.sats)).opArrive tile op r.flags
    | _ => s

/-! ## The NaN stop (R130) -/

/-- NAN_STOP (R130): at its next turn the issuer stops, its PC as it stands; the record names the MMA.  In run-ahead the thread waits for the verdict. -/
def execNanStop (s : State) : Host.Outcome State Fault Refusal :=
  event s fun s =>
    match s.cur.nanStop with
    | none => s
    | some n =>
      if s.cur.runsAhead then s.stallFor 12 0 0 .verdict
      else
        (s.modCur fun t => { t with nanStop := none }).raiseFault
          { code := 0x0D, pc := s.cur.pc, w2 := n.va, w4 := n.w4, w5 := n.w5, recordPc := some n.pc }

end Sys2Proof.Machine
end

