-- ==== Sys2Proof/Machine/Copies.lean ====
section
/-!
DEFINITION. The transfer unit of a tile (R277 to R286): copies, their deliveries and arrivals, the scale side band (R280, R412), and batches.
-/

namespace Sys2Proof.Machine

/-! ## Descriptors (R278) -/

/-- MODE, rows and bytes per row of dword 1. -/
def copyMode (d1 : Nat) : Nat := fieldOf d1 0 4
def copyRows (d1 : Nat) : Nat := fieldOf d1 16 16
def copyLen (d1 : Nat) : Nat := fieldOf d1 32 32
/-- Element size of a sparse copy in bytes. -/
def copyElem (d1 : Nat) : Nat := 2 ^ fieldOf d1 4 2

/-- Whether dword 1 breaks a limit. -/
def copyBad1 (sparse : Bool) (d1 : Nat) : Bool :=
  let mode := copyMode d1
  let len := copyLen d1
  !(if sparse then mode == 1 || mode == 2 else decide (mode ≤ 4)) ||
  len == 0 || len % 4 != 0 || ((sparse || mode == 2 || mode == 3) && len % 64 != 0) || (sparse && decide (4096 < len)) ||
  copyRows d1 == 0 || decide (2 ^ 32 < copyRows d1 * len) || fieldOf d1 8 8 != 0 || fieldOf d1 6 1 != 0 ||
  (!sparse && fieldOf d1 4 2 != 0) || (mode == 0 && copyRows d1 != 1)

/-- Whether dword 2 breaks a limit of its mode. -/
def copyBad2 (mode d2 : Nat) : Bool :=
  let sp := fieldOf d2 0 32
  let dp := fieldOf d2 32 32
  sp % 4 != 0 || dp % 4 != 0 || (mode == 0 && (sp != 0 || dp != 0)) || ((mode == 2 || mode == 3) && dp != 0) ||
  (mode == 3 && sp % 64 != 0) || (mode == 4 && sp != 0)

/-- The index of the first dword of a copy descriptor that breaks a limit (R278, R281). -/
def copyBad (sparse : Bool) (d : List Nat) : Option Nat :=
  let d0 := d.getD 0 0
  let d1 := d.getD 1 0
  let d3 := d.getD 3 0
  if d0 = 0 ∨ 2 ^ 52 ≤ d0 then some 0
  else if copyBad1 sparse d1 then some 1
  else if copyBad2 (copyMode d1) (d.getD 2 0) then some 2
  else if (if sparse then decide (2 ^ 52 ≤ d3) || d3 % copyElem d1 != 0 else d3 != 0) then some 3
  else none

/-- Whether a destination is a slot. -/
def toSlot (mode : Nat) : Bool := mode == 2 || mode == 3

/-- The address operand that is misaligned, if any, the destination first (R278). -/
def copyMisaligned (sparse : Bool) (mode : Nat) (ga gb : Dword) : Option Dword :=
  if !toSlot mode && ga.toNat % 4 != 0 then some ga
  else if mode = 4 then none
  else if gb.toNat % (if sparse then 8 else if mode = 3 then 64 else 4) ≠ 0 then some gb
  else none

/-- Whether an accumulator region breaks its limits (R278). -/
def accRegionBad (gb n : Nat) : Bool :=
  fieldOf gb 6 2 != 0 || gb / 2 ^ 23 != 0 || fieldOf gb 8 15 % 4 != 0 || decide (32768 < fieldOf gb 8 15 + n)

/-! ## Batches (R283 to R286) -/

/-- OPEN of XBATCH. -/
def Thread.openCopies (t : Thread) : Nat := fieldOf t.xbatch.toNat 8 8

/-- A thread with OPEN and CLOSED. -/
def Thread.withBatch (t : Thread) (opened closed : Nat) : Thread := { t with xbatch := BitVec.ofNat 64 (opened % 256 * 256 + closed % 16) }

/-- A thread with its open batch closed. -/
def Thread.closeBatch (t : Thread) : Thread := { t.withBatch 0 (t.closed + 1) with batchNo := t.batchNo + 1 }

/-- Whether a copy of a thread's batch is still to complete. -/
def State.batchOpen (s : State) (n : Name) (batch : Nat) : Bool :=
  s.tiles.any fun t => t.2.copies.any fun c => c.issuer == n && c.batch == batch

/-- The state with a thread's completed batches counted, oldest first (R284). -/
def State.countBatches (s : State) (n : Name) : Nat → State
  | 0 => s
  | k + 1 =>
    match s.named n with
    | some t =>
      if t.closed = 0 ∨ s.batchOpen n (t.batchNo - t.closed) then s
      else State.countBatches (s.modContext n fun t => t.withBatch t.openCopies (t.closed - 1)) n k
    | none => s

/-- Run what follows XCOMMIT's effect by the thread whose turn it is: with eight closed batches it leaves until one has completed (R285). -/
def State.commit (s : State) (f : State → State) : State :=
  let t := s.cur
  if t.openCopies = 0 then f s
  else if t.closed = 8 then s.stallFor 7 0 7 (.batches 7)
  else f ((s.modCur Thread.closeBatch).countBatches t.name 9)

def execXcommit (s : State) : Host.Outcome State Fault Refusal := onTile .xcommit [] s fun s => s.commit State.retire

def execXwait (n : BitVec 3) (s : State) : Host.Outcome State Fault Refusal :=
  onTile (.xwait n) [] s fun s => s.commit fun s =>
    if n.toNat < s.cur.closed then s.stallFor 7 0 (n.setWidth 64) (.batches n.toNat) else s.acquireRetire

/-! ## Issue (R278) -/

/-- Copies that a tile keeps in progress, and places of its copy queue (R279). -/
def copiesRunning : Nat := 16
def copyPlaces : Nat := 64

/-- The state after the thread whose turn it is has its copy accepted: it joins the open batch (R284). -/
def State.enqueueCopy (s : State) (sparse : Bool) (ga gb : Dword) (d : List Nat) (bar : Nat × Nat) : State :=
  let i := s.here
  let x := s.tile i
  if copiesRunning + copyPlaces ≤ x.copies.length then s.stallFor 14 0 0 .copyRoom
  else
    let t := s.cur
    let w := fun k => BitVec.ofNat 64 (d.getD k 0)
    let c : Copy :=
      { id := s.nextId, sparse := sparse, issuer := t.name, core := s.focus.core, job := t.job.setWidth 32, troot := t.troot
        faultrec := t.faultrec, ticket := t.ticket
        a := ga, b := gb, d0 := w 0, d1 := w 1, d2 := w 2, d3 := w 3, bar := bar.1, barKey := bar.2, batch := t.batchNo
        claim := (x.opSlot (ga.toNat % 32)).claims }
    let s := { s with nextId := s.nextId + 1 }
    let s := s.setTile i ({ x with copies := x.copies ++ [c] } : Tile).snapshot
    let s := s.postOf t.name
    let s := s.modCur fun t => (t.withBatch (t.openCopies + 1) t.closed).retire
    s.notice (s.cycle + 1) .copyAccept { a := i, b := c.id }

/-- The state after a copy of the thread whose turn it is has passed its issue checks (R278): it waits, with what they gave, until a batch and a place are free, and is
accepted then; its checks are not made again. -/
def State.acceptCopy (s : State) (sparse : Bool) (ga gb : Dword) (d : List Nat) (bar : Nat × Nat) : State :=
  let s := s.keep (d.take 4 ++ [bar.1, bar.2, ga.toNat, gb.toNat])
  if s.cur.openCopies = 255 then s.commit fun s => s.enqueueCopy sparse ga gb d bar else s.enqueueCopy sparse ga gb d bar

/-- The state after the issue checks of a copy, its descriptor read: in the order of R278. -/
def State.copyChecks (s : State) (sparse : Bool) (ga gb : Dword) (d : List Nat) : State :=
  match copyBad sparse d with
  | some k => s.raise 0x01 0 (BitVec.ofNat 64 k) 0
  | none =>
    let d1 := d.getD 1 0
    let mode := copyMode d1
    let n := copyRows d1 * copyLen d1
    s.barrierAccess (BitVec.ofNat 64 (d.getD 0 0)) true fun y =>
      match copyMisaligned sparse mode ga gb with
      | some e => s.raise 0x03 e 0 0
      | none =>
        if toSlot mode ∧ (designatorBad ga.toNat ∨ !s.mayFill s.cur ((s.tile s.here).opSlot (ga.toNat % 32)) ∨
            512 < fieldOf ga.toNat 8 9 + n / 64) then s.slotFault ga
        else if mode = 4 ∧ accRegionBad gb.toNat n then s.slotFault gb
        else s.acceptCopy sparse ga gb d (y.pa, y.key)

/-- Issue XCOPY or XCOPYSP: the check of the descriptor's address, its read, and the checks of R278; what is done stays done over a wait. -/
def copyOp (i : Instr) (sparse : Bool) (a b c : GReg) (s : State) : Host.Outcome State Fault Refusal :=
  onTile i [a, b, c] s fun s =>
    match s.cur.handFor with
    | some [d0, d1, d2, d3, pa, key, ga, gb] => s.acceptCopy sparse (BitVec.ofNat 64 ga) (BitVec.ofNat 64 gb) [d0, d1, d2, d3] (pa, key)
    | some d => s.copyChecks sparse (s.rg a) (s.rg b) d
    | none =>
      let ea := s.rg c
      s.withAccess ea 32 true false fun x =>
        if isDevice x.pa then s.raise 0x05 ea 0 0
        else s.withDwords ea x 4 fun d s => s.copyChecks sparse (s.rg a) (s.rg b) d

def execXcopy (a b c : GReg) (s : State) : Host.Outcome State Fault Refusal := copyOp (.xcopy a b c) false a b c s
def execXcopysp (a b c : GReg) (s : State) : Host.Outcome State Fault Refusal := copyOp (.xcopysp a b c) true a b c s

/-! ## Sectors (R279) -/

/-- The agent that a copy is. -/
def Copy.agent (c : Copy) : Agent :=
  { id := c.id, issuer := c.issuer, core := c.core, job := c.job, troot := c.troot
    faultrec := c.faultrec, ticket := c.ticket, block := if copyMode c.d1.toNat = 3 then some (c.done % 65536) else none }

/-- MODE of a copy. -/
def Copy.mode (c : Copy) : Nat := copyMode c.d1.toNat

/-- An address of 52 bits after a signed displacement. -/
def offsetBy (a : Nat) (d : Int) : Nat := (((a : Int) + d) % 2 ^ 64).toNat

/-- The destination address of a row. -/
def Copy.rowTo (c : Copy) (r : Nat) : Nat := offsetBy c.a.toNat (r * signedField 32 (fieldOf c.d2.toNat 32 32))

/-- The source address of a row. -/
def Copy.rowFrom (c : Copy) (r : Nat) : Nat := offsetBy c.b.toNat (r * signedField 32 (fieldOf c.d2.toNat 0 32))

/-- The destination parts of a row: address and length of each; in a slot, whole sectors. -/
def Copy.parts (c : Copy) (r : Nat) : List (Nat × Nat) :=
  sectorParts (if toSlot c.mode then 0 else c.rowTo r) (copyLen c.d1.toNat)

/-- How many destination sectors a row overlaps. -/
def Copy.rowSectors (c : Copy) (r : Nat) : Nat :=
  ((if toSlot c.mode then 0 else c.rowTo r % 64) + copyLen c.d1.toNat + 63) / 64

/-- The sector count. -/
def Copy.sectors (c : Copy) : Nat := (List.range (copyRows c.d1.toNat)).foldl (fun n r => n + c.rowSectors r) 0

/-- The row of a sector and the sector's number in it, from a row on. -/
def Copy.locate (c : Copy) : Nat → Nat → Nat → Nat × Nat
  | 0, r, k => (r, k)
  | n + 1, r, k => if k < c.rowSectors r then (r, k) else Copy.locate c n (r + 1) (k - c.rowSectors r)

/-! ## The bytes of a sector -/

/-- Elements of a dense row of a sparse copy, and bytes of a bitmap row (R281). -/
def Copy.elems (c : Copy) : Nat := copyLen c.d1.toNat / copyElem c.d1.toNat
def Copy.bitmapBytes (c : Copy) : Nat := 8 * ((c.elems + 63) / 64)

/-- Set bits of a bitmap below a number. -/
def bitsBelow (bm n : Nat) : Nat := (List.range n).foldl (fun k i => k + bm / 2 ^ i % 2) 0

/-- The bytes of a part of a dense row, from the row's bitmap and the packed values of its elements from `lo` on (R281). -/
def expandPart (size bm lo off len : Nat) (vals : List Byte) : List Byte :=
  (addrs off len).map fun i =>
    let j := i / size
    if bm / 2 ^ j % 2 = 1 then vals.getD (size * (bitsBelow bm j - bitsBelow bm lo) + i % size) 0 else 0

/-- The bytes of a part of a row of a sparse copy, and how many elements its row sets. -/
def State.sparsePart (s : State) (c : Copy) (r off len : Nat) : State × Assoc Nat × Got × Nat :=
  let size := copyElem c.d1.toNat
  match s.agentReadRun c.agent c.cache (c.b.toNat + r * c.bitmapBytes) c.bitmapBytes with
  | (s, k, .bytes bs) =>
    let bm := leValue bs % 2 ^ c.elems
    let lo := off / size
    let hi := (off + len + size - 1) / size
    let n := bitsBelow bm hi - bitsBelow bm lo
    (match s.agentReadRun c.agent k (c.d3.toNat + size * (c.packed + bitsBelow bm lo)) (size * n) with
     | (s, k, .bytes vs) => (s, k, .bytes (expandPart size bm lo off len vs), bitsBelow bm c.elems)
     | (s, k, o) => (s, k, o, 0))
  | (s, k, o) => (s, k, o, 0)

/-- The bytes of a part of a row, by the copy's mode; the last number counts the elements that the row sets. -/
def State.copyPart (s : State) (c : Copy) (r off len : Nat) : State × Assoc Nat × Got × Nat :=
  if c.sparse then s.sparsePart c r off len
  else if c.mode = 4 then
    match c.snap with
    | some bs =>
      let from' := fieldOf c.b.toNat 8 15 + r * copyLen c.d1.toNat + off
      if c.marks.any fun g => decide (from' / 8 ≤ g) && decide (g ≤ (from' + len - 1) / 8) then (s, c.cache, .fault 0x14, 0)
      else (s, c.cache, .bytes ((bs.drop (r * copyLen c.d1.toNat + off)).take len), 0)
    | none => (s, c.cache, .later, 0)
  else
    let (s, k, g) := s.agentReadRun c.agent c.cache (c.rowFrom r + off) len
    (s, k, g, 0)

/-! ## Progress -/

/-- The state with a copy's next delivery due. -/
def State.deliverNext (s : State) (tile id after : Nat) : State := s.notice (s.cycle + after) .copyDelivery { a := tile, b := id }

/-- Whether a copy is among those in progress: the oldest of the accepted ones (R279). -/
def Tile.inProgress (t : Tile) (id : Nat) : Bool := (t.copies.take copiesRunning).any fun c => c.id == id

/-- COPY_ACCEPT (R279): the copy's own expectation, after the issuer's earlier stores. -/
def execCopyAccept (s : State) : Host.Outcome State Fault Refusal :=
  event s fun s =>
    let tile := s.subject.a
    match s.copy? tile s.subject.b with
    | none => s
    | some c =>
      if c.accepted then s
      else if s.earlierOpen c.issuer c.id then s.notice (s.cycle + 4) .copyAccept { a := tile, b := c.id }
      else
        let s := if fieldOf c.d1.toNat 7 1 = 1 then s.agentUpdate c.agent c.bar c.barKey (.expect c.sectors) else s
        let s := s.modCopy tile c.id fun c => { c with accepted := true }
        if (s.tile tile).inProgress c.id then s.deliverNext tile c.id 1 else s

/-- The state after a copy reports a fault for a sector: it writes no further one and does not arrive (R95, R282). -/
def State.copyFault (s : State) (tile : Nat) (c : Copy) (code k : Nat) : State :=
  let s := s.agentUpdate c.agent c.bar c.barKey (.report code k)
  (s.modCopy tile c.id fun c => { c with arrived := true }).notice (s.cycle + 1) .copyArrival { a := tile, b := c.id }

/-- The state after a copy's sector is written: its delivery, and what comes next. -/
def State.copyDelivered (s : State) (tile : Nat) (c : Copy) (setInRow : Nat) (rowEnds : Bool) : State :=
  let s := s.agentUpdate c.agent c.bar c.barKey (.deliver 1)
  let s := s.modCopy tile c.id fun c =>
    { c with done := c.done + 1, cache := [], sending := none, timers := c.timers.filter (c.done < ·), packed := if rowEnds then c.packed + setInRow else c.packed }
  if c.done + 1 = c.sectors then s.notice (s.cycle + 1) .copyArrival { a := tile, b := c.id } else s.deliverNext tile c.id 1

/-- The sector of a slot that a copy writes: undefined values where the slot was claimed again under it (R79). -/
def State.fillSlot (s : State) (tile : Nat) (c : Copy) (f : OpSlot → OpSlot) (sector : Nat) : State :=
  let n := c.a.toNat % 32
  let o := (s.tile tile).opSlot n
  if o.claims = c.claim then s.setOpSlot tile n (f o)
  else
    let v := ofDwords fun j => (Config.freeValue (s.fresh + j)).toNat
    { s.setOpSlot tile n (o.put sector v ((Config.freeValue (s.fresh + 8)).toNat % 2 ^ 17)) with fresh := s.fresh + 9 }

/-- Whether the tagged block that a copy writes next has come from another package, so that its header comes by the side band (R412): a part of it has arrived through the
fabric. -/
def Copy.fromAfar (c : Copy) : Bool := c.mode == 3 && c.timers.contains c.done

/-- The state after a tagged block is rejoined and written to a slot, or its copy faults (R280). -/
def State.writeBlock (s : State) (tile : Nat) (c : Copy) (v : Nat) : State :=
  let sector := fieldOf c.a.toNat 8 9 + c.done
  match blockFault v with
  | some code => s.copyFault tile c code.toNat c.done
  | none => (s.fillSlot tile c (fun o => o.putBlock sector v) sector).copyDelivered tile c 0 false

/-- The state after the bytes of a copy's next sector are in hand. -/
def State.copySector (s : State) (tile : Nat) (c : Copy) (r off len setInRow : Nat) (bs : List Byte) : State :=
  let rowEnds := off + len == copyLen c.d1.toNat
  let again := fun (s : State) => s.deliverNext tile c.id 16
  if c.mode = 3 then
    if c.fromAfar then
      match Assoc.look c.headers (c.done % 65536) with
      | none => s
      | some h =>
        let v := leValue bs / 65536 * 65536 + h.toNat
        (s.modCopy tile c.id fun c => { c with headers := Assoc.erase c.headers (c.done % 65536) }).writeBlock tile c v
    else s.writeBlock tile c (leValue bs)
  else if c.mode = 2 then
    let sector := fieldOf c.a.toNat 8 9 + c.done
    (s.fillSlot tile c (fun o => o.put sector (leValue bs) 0) sector).copyDelivered tile c setInRow rowEnds
  else
    match s.agentWrite c.agent c.sparse (c.rowTo r + off) bs with
    | (s, .fault code) => s.copyFault tile c code.toNat c.done
    | (s, .later) => again s
    | (s, .bytes _) =>
      if s.agentBusy c.agent then again (s.modCopy tile c.id fun c => { c with sending := some setInRow })
      else s.copyDelivered tile c setInRow rowEnds

/-- COPY_DELIVERY (R279): the next sector is read and written, and a delivery update reports it; sectors go in ascending order. -/
def execCopyDelivery (s : State) : Host.Outcome State Fault Refusal :=
  event s fun s =>
    let tile := s.subject.a
    match s.copy? tile s.subject.b with
    | none => s
    | some c =>
      let again := fun (s : State) => s.deliverNext tile c.id 16
      if c.arrived || !c.accepted || decide (c.sectors ≤ c.done) || !(s.tile tile).inProgress c.id then s
      else if s.agentBusy c.agent then again s
      else
        let (r, k) := c.locate (copyRows c.d1.toNat) 0 c.done
        let (va, len) := (c.parts r).getD k (0, 0)
        let off := va - (if toSlot c.mode then 0 else c.rowTo r)
        match c.sending, Assoc.look s.fetched c.id with
        | some _, some (.failed code _) => ({ s with fetched := Assoc.erase s.fetched c.id }).copyFault tile c code.toNat c.done
        | some n, _ => s.copyDelivered tile c n (off + len == copyLen c.d1.toNat)
        | none, _ =>
          match s.copyPart c r off len with
          | (s, _, .fault code, _) => s.copyFault tile c code.toNat c.done
          | (s, cache, .later, _) => again (s.modCopy tile c.id fun c => { c with cache := cache })
          | (s, cache, .bytes bs, n) =>
            (s.modCopy tile c.id fun c => { c with cache := cache }).copySector tile c r off len n bs

/-! ## The side band (R280, R412) -/

/-- SIDEBAND (R412): the header of a block is paired with its payload by index; one of a block already written is ignored. -/
def execSideband (s : State) : Host.Outcome State Fault Refusal :=
  event s fun s =>
    match s.msg? s.subject.a with
    | some m =>
      match m.body with
      | .sideband copy index header =>
        let s := s.drop m.id
        match s.findCopy copy with
        | none => s
        | some (tile, c) =>
          if c.arrived ∨ c.mode ≠ 3 ∨ (index % 65536 ≠ c.done % 65536 ∧ numberBelow (index * 65536) (c.done * 65536)) then s
          else
            let k := c.sectorOf index
            let s := s.modCopy tile c.id fun c => { c with headers := Assoc.insert c.headers (index % 65536) header }
            (s.awaitPart tile c k).deliverNext tile c.id 1
      | _ => s
    | none => s

/-- SIDEBAND_TIMEOUT (R412): a part whose partner has not come is SCALEPAIR for its copy. -/
def execSidebandTimeout (s : State) : Host.Outcome State Fault Refusal :=
  event s fun s =>
    let tile := s.subject.a
    match s.copy? tile s.subject.b with
    | none => s
    | some c =>
      let k := s.subject.word.toNat
      if !c.arrived ∧ c.timers.contains k ∧ c.done ≤ k then s.copyFault tile c 0x0C k else s

/-! ## Completion (R279, R284) -/

/-- The state after a copy has completed: the next one of the queue starts, threads that wait for a place go on, and its batch is counted. -/
def State.copyDone (s : State) (tile : Nat) (c : Copy) : State :=
  let t := s.tile tile
  let s := s.setTile tile { t with copies := t.copies.filter fun (x : Copy) => x.id != c.id }
  let s :=
    match (s.tile tile).copies[copiesRunning - 1]? with
    | some n => if n.accepted then s.deliverNext tile n.id 1 else s
    | none => s
  let s := (List.range 4).foldl (fun s k => s.wakeWhere (4 * tile + k) fun t => t.wait.act == .again .copyRoom) s
  (s.countBatches c.issuer 9).settle c.issuer

/-- COPY_ARRIVAL (R279): the final arrival, after the last delivery; once it, or the fault, has been applied the copy has completed. -/
def execCopyArrival (s : State) : Host.Outcome State Fault Refusal :=
  event s fun s =>
    let tile := s.subject.a
    match s.copy? tile s.subject.b with
    | none => s
    | some c =>
      let again := fun (s : State) => s.notice (s.cycle + 16) .copyArrival { a := tile, b := c.id }
      if s.agentBusy c.agent then again s
      else if c.arrived then
        let s := { s with fetched := Assoc.erase s.fetched c.id }
        s.copyDone tile c
      else if c.sectors ≤ c.done then
        let s := s.agentUpdate c.agent c.bar c.barKey .arrive
        let s := s.modCopy tile c.id fun c => { c with arrived := true }
        if s.agentBusy c.agent then again s else s.copyDone tile c
      else s

end Sys2Proof.Machine
end

