-- ==== Sys2Proof/Machine/Bursts.lean ====
section
/-!
DEFINITION. Reads that become threads (R287 to R307): HREAD, HCANCEL, the request stream, burst threads and the completion record.
-/

namespace Sys2Proof.Machine

/-! ## The descriptor (R287 to R289) -/

/-- Rows, bytes per row and burst size of a descriptor. -/
def hreadRows (d : List Nat) : Nat := fieldOf (d.getD 1 0) 16 16
def hreadLen (d : List Nat) : Nat := fieldOf (d.getD 1 0) 32 32
def hreadSize (d : List Nat) : Nat := if fieldOf (d.getD 1 0) 12 1 = 1 then 256 else 64

/-- Bursts of a row, and of the read (R289). -/
def hreadPerRow (d : List Nat) : Nat := (hreadLen d + hreadSize d - 1) / hreadSize d
def hreadTotal (d : List Nat) : Nat := hreadRows d * hreadPerRow d

/-- The index of the first dword of a descriptor that breaks a limit (R287, R288). -/
def hreadBad (d : List Nat) : Option Nat :=
  let d1 := d.getD 1 0
  let conc := fieldOf d1 0 7
  if 2 ^ 52 ≤ d.getD 0 0 ∨ d.getD 0 0 % 64 ≠ 0 then some 0
  else if hreadLen d = 0 ∨ hreadLen d % 4 ≠ 0 ∨ hreadRows d = 0 ∨ fieldOf d1 13 3 ≠ 0 ∨ fieldOf d1 10 2 ≠ 0 ∨ fieldOf d1 7 1 ≠ 0 ∨
      conc = 0 ∨ 64 < conc ∨ 0xFFFFFFFE < hreadTotal d then some 1
  else if hreadRows d ≠ 1 ∧ d.getD 2 0 % 64 ≠ 0 then some 2
  else if 2 ^ 52 ≤ d.getD 3 0 ∨ d.getD 3 0 % 4 ≠ 0 then some 3
  else if 2 ^ 52 ≤ d.getD 5 0 ∨ d.getD 5 0 % 16 ≠ 0 then some 5
  else if d.getD 6 0 ≠ 0 then some 6
  else if d.getD 7 0 ≠ 0 then some 7
  else none

/-- The row of a burst, its offset in the row, and its length (R289). -/
def burstRow (d : List Nat) (q : Nat) : Nat := q / hreadPerRow d
def burstX (d : List Nat) (q : Nat) : Nat := q % hreadPerRow d * hreadSize d
def burstLen (d : List Nat) (q : Nat) : Nat := min (hreadSize d) (hreadLen d - burstX d q)

/-- The source address of a burst. -/
def burstSource (d : List Nat) (q : Nat) : Nat :=
  offsetBy (d.getD 0 0) (burstRow d q * signedField 64 (d.getD 2 0) + burstX d q)

/-! ## HREAD and HCANCEL (R291, R292) -/

/-- The identity of a read's burst threads (R298): the issuer's, with the weaker priority. -/
def Thread.burstIdentity (t : Thread) (d : List Nat) : Identity := { t.identity with prio := max (fieldOf (d.getD 1 0) 8 2) (t.prio.toNat % 4) }

/-- The state after the thread whose turn it is enters its core's reservation queue: it goes on where the read is granted in the turn. -/
def State.reserve (s : State) (ea : Dword) (d : List Nat) : State :=
  let core := s.focus.core
  let t := s.cur
  let r := s.nextId
  let h : HRead :=
    { core := core, issuer := t.name, who := t.burstIdentity d, addr := ea, desc := d.map fun x => BitVec.ofNat 64 x, since := r }
  let c := s.core core
  let s := { s with nextId := r + 1, reads := Assoc.insert s.reads r h }
  let s := s.setCore core { c with resQueue := c.resQueue ++ [r] }
  let s := (s.postOf t.name).gather (c.resQueue.length + 1) core
  match Assoc.look s.reads r with
  | some h' => if h'.state = .reserving then s.wait { k := 10, a := ea, act := .done 0 } else s.retire
  | none => s.retire

def execHread (a : GReg) (s : State) : Host.Outcome State Fault Refusal :=
  issue { roam := true, ahead := false } [a] s fun s =>
    let ea := s.rg a
    s.withAccess ea 64 true false fun x =>
      if (ownerCore (gpaLocal x.pa)).isNone then s.raise 0x16 0 8 0
      else s.notBurst fun s => s.withDwords ea x 8 fun d s =>
        let conc := fieldOf (d.getD 1 0) 0 7
        match hreadBad d with
        | some i => s.raise 0x16 0 (BitVec.ofNat 64 i) 0
        | none =>
          if 640 ≤ s.focus.core ∧ 48 < conc then s.raise 0x16 0 10 0
          else
            let cl := BitVec.ofNat 64 (d.getD 5 0)
            s.withAccess cl 16 false true (tile := false) fun y =>
              if isDevice y.pa ∨ s.actAper y.leaf = 1 then s.raise 0x05 cl 0 0
              else
                match s.jobIndex (s.cur.job.setWidth 32) with
                | some i => if (s.jobEntry i).allows conc then s.reserve ea d else s.raise 0x11 0 (BitVec.ofNat 64 conc) 0
                | none => s.raise 0x11 0 (BitVec.ofNat 64 conc) 0

/-- The issuer whose reads a thread may cancel: itself, or the issuer of its own read. -/
def State.cancels (s : State) (t : Thread) (h : HRead) : Bool :=
  h.issuer == t.name || (t.burst && (match t.read.bind (Assoc.look s.reads) with | some own => own.issuer == h.issuer | none => false))

def execHcancel (a : GReg) (s : State) : Host.Outcome State Fault Refusal :=
  issue { roam := true, ahead := false } [a] s fun s =>
    let t := s.cur
    let ea := s.rg a
    let s := s.reads.foldl (fun s p =>
      if p.2.state = .streaming ∧ p.2.addr = ea ∧ s.cancels t p.2 then
        ({ s with reads := Assoc.insert s.reads p.1 { p.2 with state := .draining, cancelled := true } }).notice (s.cycle + 1) .hreadComplete { a := p.1 }
      else s) s
    s.retire

/-! ## The request stream (R296, R297) -/

/-- The agent that reads a burst. -/
def HRead.agent (h : HRead) (id : Nat) : Agent := { id := id, issuer := h.issuer, core := h.core, job := h.who.job, troot := h.who.troot, faultrec := h.who.faultrec }

/-- The state with a read replaced. -/
def State.setRead (s : State) (r : Nat) (h : HRead) : State := { s with reads := Assoc.insert s.reads r h }

/-- Dwords of a read's descriptor. -/
def HRead.words (h : HRead) : List Nat := h.desc.map BitVec.toNat

/-- Whether a read requests nothing for now: it is saved, or its tile is leaving service (R305). -/
def State.readHeld (s : State) (h : HRead) : Bool := h.saved || s.coreSaved h.core

/-- BURST_REQUEST (R296): the next burst, while fewer than CONC are open; at most one a cycle per core. -/
def execBurstRequest (s : State) : Host.Outcome State Fault Refusal :=
  event s fun s =>
    let r := s.subject.a
    match Assoc.look s.reads r with
    | none => s
    | some h =>
      let again := fun (s : State) after => s.notice (s.cycle + after) .burstRequest { a := r }
      if h.state = .draining then s.notice (s.cycle + 1) .hreadComplete { a := r }
      else if h.state = .reserving ∨ s.readHeld h ∨ h.conc ≤ h.opened then s
      else if s.earlierOpen h.issuer h.since then again s 4
      else if s.reads.any fun p => p.2.core == h.core && p.2.lastAt == s.cycle then again s 1
      else
        let d := h.words
        let q := h.next
        let h' : HRead :=
          { h with next := q + 1, opened := h.opened + 1, lastAt := s.cycle, asked := h.asked ++ [{ seq := q, id := s.nextId }]
                   state := if q + 1 = hreadTotal d then .draining else .streaming }
        let s := { s with nextId := s.nextId + 1 }.setRead r h'
        let late := match (s.checkWalk h.who.troot h.who.job (BitVec.ofNat 64 (burstSource d q)) 4 true false).2 with
          | .ok x => s.latency h.core x.pa
          | _ => 1
        let s := s.notice (s.cycle + late) .burstArrival { a := r, b := q }
        if h'.opened < h'.conc ∧ h'.state = .streaming then again s 1 else s

/-- The state after an open burst of a read has closed without a thread: the window and the drain are tested. -/
def State.burstClosed (s : State) (r : Nat) (h : HRead) (q : Nat) : State :=
  (s.setRead r { h with opened := h.opened - 1, asked := h.asked.filter fun (b : OpenBurst) => b.seq != q }).notice (s.cycle + 1) .burstRequest { a := r }

/-- The registers v0 to v3 of a burst (R289). -/
def burstVectors (bs : List Byte) : List VWord := (List.range 4).map fun i => BitVec.ofNat 512 (leValue ((bs.drop (64 * i)).take 64))

/-- A burst thread as it is born (R298). -/
def HRead.thread (h : HRead) (r q : Nat) (bs : List Byte) (n : Name) : Thread :=
  let d := h.words
  let w := fun x => BitVec.ofNat 64 x
  let t := newThread h.who (w (d.getD 3 0)) (w (d.getD 4 0)) h.addr 0 0
  { t with
    tid := n.setWidth 64, burst := true, read := some r
    v := (List.range 4).foldl (fun v i => v.setIfInBounds i ((burstVectors bs).getD i 0)) t.v
    bx := w (burstX d q), by' := w (burstRow d q), bseq := w q, blen := w (burstLen d q) }

/-- The lowest reserved context of a read that holds no thread. -/
def State.reservedCtx (s : State) (r : Nat) (h : HRead) : Option Nat :=
  h.contexts.find? fun x => let t := s.thread h.core x; t.reserved && t.st == .free && t.read == some r

/-- BURST_ARRIVAL (R297, R298): a whole burst becomes a thread; a faulted one is counted; after a CANCEL of the job nothing is born. -/
def execBurstArrival (s : State) : Host.Outcome State Fault Refusal :=
  event s fun s =>
    let r := s.subject.a
    let q := s.subject.b
    match Assoc.look s.reads r with
    | none => s
    | some h =>
      match h.asked.find? fun b => b.seq == q with
      | none => s
      | some b =>
        let d := h.words
        match s.agentReadRun (h.agent b.id) b.cache (burstSource d q) (burstLen d q) with
        | (s, cache, .later) =>
          (s.setRead r { h with asked := h.asked.map fun (x : OpenBurst) => if x.seq = q then { x with cache := cache } else x }).notice
            (s.cycle + 8) .burstArrival { a := r, b := q }
        | (s, _, .fault code) =>
          let first := decide (q < h.first)
          s.burstClosed r
            { h with faulted := h.faulted + 1, first := if first then q else h.first, fcode := if first then code else h.fcode } q
        | (s, _, .bytes bs) =>
          let gone := match s.jobIndex h.who.job with | some i => (s.jobEntry i).cancelled | none => false
          if gone then s.burstClosed r h q
          else
            match s.reservedCtx r h with
            | none => s.burstClosed r h q
            | some x =>
              let s := s.setRead r { h with asked := h.asked.filter fun (b : OpenBurst) => b.seq != q }
              let (n, s) := s.takeName h.core x
              s.setThread h.core x ((h.thread r q bs n).toReady s.cycle)

/-! ## Completion (R300 to R303) -/

/-- The two dwords of the completion record (R302). -/
def HRead.record (h : HRead) : List Nat :=
  [h.next + at' 32 h.faulted,
   h.first + at' 32 h.fcode.toNat + at' 62 (bit (decide (h.next < hreadTotal h.words))) + at' 63 1]

/-- The state after a read's reservation is given back (R301). -/
def State.freeRead (s : State) (r : Nat) (h : HRead) : State :=
  let c := s.core h.core
  let s := s.setCore h.core
    { c with granted := c.granted - 1
             ctxs := Assoc.mapVals (fun _ (t : Thread) => if t.reserved && t.read == some r then Thread.idle else t) c.ctxs }
  ({ s with reads := Assoc.erase s.reads r }).liveDown h.who.job h.conc

/-- HREAD_COMPLETE (R301, R303): the reservation is given back once the record is written. -/
def execHreadComplete (s : State) : Host.Outcome State Fault Refusal :=
  event s fun s =>
    let r := s.subject.a
    match Assoc.look s.reads r with
    | none => s
    | some h =>
      let again := fun (s : State) after => s.notice (s.cycle + after) .hreadComplete { a := r }
      if h.state ≠ .draining ∨ h.opened ≠ 0 ∨ s.readHeld h then s
      else if h.closing.isSome then (if (h.closing.bind s.msg?).isSome then again s 1 else s.freeRead r h)
      else
        let va := h.words.getD 5 0
        let failed := fun (s : State) =>
          s.record h.core h.who.faultrec h.who.troot h.who.job (0x16 + nostopBit) 0 va h.issuer.toNat (h.record.getD 0 0) (h.record.getD 1 0)
        match s.checkWalk h.who.troot h.who.job (BitVec.ofNat 64 va) 16 false true (tile := false) with
        | (s, .walk) => again s 16
        | (s, .fault ..) => (failed s).freeRead r h
        | (s, .ok x) =>
          if isDevice x.pa ∨ s.actAper x.leaf = 1 then (failed s).freeRead r h
          else
            let id := s.nextId
            let s := s.deviceWrite x.pa x.key (dwordBytes h.record) { core := h.core, job := h.who.job, record := true }
            if (s.msg? id).isNone then s.freeRead r h else again (s.setRead r { h with closing := some id }) 1

end Sys2Proof.Machine
end

