-- ==== Sys2Proof/Machine/Control.lean ====
section
/-!
DEFINITION. Branches, target registers and hardware loops (R187 to R193), NOP (R207), and the steps of an issue that are no instruction: LOOP_BACK
(R191), ILLEGAL_WORD (R167), BREAKPOINT_MATCH (R430), NAN_STOP (R130).
-/

namespace Sys2Proof.Machine

/-- A condition on a register as a signed value (R189). -/
def Cond.holds (c : Cond) (x : Dword) : Bool :=
  match c with
  | .eqz => x == 0 | .nez => x != 0 | .ltz => x.slt 0 | .gez => !x.slt 0 | .gtz => (0 : Dword).slt x | .lez => !(0 : Dword).slt x

/-- Issue BC: an offset target, taken at one turn more (R187, R189). -/
def branchOn (c : Cond) (a : GReg) (i : BitVec 16) (s : State) : Host.Outcome State Fault Refusal :=
  issue { imm := true } [a] s fun s =>
    if Cond.holds c (s.rg a) then
      let x := s.offsetTarget (s.cur.imm16 i)
      s.withTarget x fun s => s.modCur fun t => t.jump x 1
    else s.retire

def execBcEqz (a : GReg) (i : BitVec 16) (s : State) : Host.Outcome State Fault Refusal := branchOn .eqz a i s
def execBcNez (a : GReg) (i : BitVec 16) (s : State) : Host.Outcome State Fault Refusal := branchOn .nez a i s
def execBcLtz (a : GReg) (i : BitVec 16) (s : State) : Host.Outcome State Fault Refusal := branchOn .ltz a i s
def execBcGez (a : GReg) (i : BitVec 16) (s : State) : Host.Outcome State Fault Refusal := branchOn .gez a i s
def execBcGtz (a : GReg) (i : BitVec 16) (s : State) : Host.Outcome State Fault Refusal := branchOn .gtz a i s
def execBcLez (a : GReg) (i : BitVec 16) (s : State) : Host.Outcome State Fault Refusal := branchOn .lez a i s

def execJl (d : GReg) (i : BitVec 21) (s : State) : Host.Outcome State Fault Refusal :=
  issue { imm := true } [d] s fun s =>
    let x := s.offsetTarget (s.cur.imm21 i)
    s.withTarget x fun s => s.modCur fun t => (t.wg d (t.pc + 4)).jump x 1

def execJr (a : GReg) (s : State) : Host.Outcome State Fault Refusal :=
  issue {} [a] s fun s =>
    let x := s.rg a
    s.withTarget x fun s => s.modCur fun t => t.jump x 1

def execJlr (d a : GReg) (s : State) : Host.Outcome State Fault Refusal :=
  issue {} [d, a] s fun s =>
    let x := s.rg a
    s.withTarget x fun s => s.modCur fun t => (t.wg d (t.pc + 4)).jump x 1

/-- Turns owed beyond the issue by a branch through a b-register: none where it is prepared (R187). -/
def Thread.bCost (t : Thread) (k : BReg) : Nat := if t.prepared[k] then 0 else 1

def execJb (k : BReg) (s : State) : Host.Outcome State Fault Refusal :=
  issue { roam := true } [] s fun s => s.modCur fun t => t.jump t.b[k] (t.bCost k)

def execJbl (d : GReg) (k : BReg) (s : State) : Host.Outcome State Fault Refusal :=
  issue { roam := true } [d] s fun s => s.modCur fun t => (t.wg d (t.pc + 4)).jump t.b[k] (t.bCost k)

def execBcb (c : Cond) (a : GReg) (k : BReg) (s : State) : Host.Outcome State Fault Refusal :=
  issue { roam := true } [a] s fun s =>
    if Cond.holds c (s.rg a) then s.modCur fun t => t.jump t.b[k] (t.bCost k) else s.retire

/-- The words that fill the target buffer of a b-register (R72, R187): up to four of the target's line, where the target's translation is in the TLB with X and
the line in the instruction cache; none otherwise. -/
def State.fills (s : State) (x : Dword) : List (Nat × Word) :=
  match s.check s.focus.core s.cur.troot (s.cur.job.setWidth 32) x 4 false false true with
  | .ok a =>
    if region (gpaLocal a.pa) = .device then []
    else
      match Assoc.look (s.core s.focus.core).icache (a.pa / 256) with
      | some l => (((List.range 4).map fun i => a.pa + 4 * i).filter fun y => y / 256 == a.pa / 256).map fun y => (y, lineWord l y)
      | none => []
  | _ => []

/-- Write a b-register and fill its buffer (R187): it is prepared where the buffer holds a word. -/
def State.prepare (s : State) (k : BReg) (x : Dword) : State :=
  let ws := s.fills x
  s.modCur fun t =>
    Thread.retire
      { t with b := t.b.set k.val x k.isLt, prepared := t.prepared.set k.val (!ws.isEmpty) k.isLt, targets := t.targets.set k.val ws k.isLt }

def execPrep (k : BReg) (i : BitVec 21) (s : State) : Host.Outcome State Fault Refusal :=
  issue { imm := true, roam := true } [] s fun s =>
    let x := s.offsetTarget (s.cur.imm21 i)
    s.withTarget x fun s => s.prepare k x

def execPrepr (a : GReg) (k : BReg) (s : State) : Host.Outcome State Fault Refusal :=
  issue { roam := true } [a] s fun s =>
    let x := s.rg a
    s.withTarget x fun s => s.prepare k x

/-- Set up a loop level with trip count c and a body of n words (R190). -/
def State.setLoop (s : State) (c n : Nat) : State :=
  let t := s.cur
  let e := t.pc.toNat + 4 * n
  if t.depth = 3 then s.raise 0x0F 0 0 0
  else if 0 < t.depth ∧ t.loopEnd (t.depth - 1) ≤ e then s.raise 0x0F 0 (BitVec.ofNat 64 e) 0
  else if c = 0 then s.modCur fun t => { t.consume with pc := BitVec.ofNat 64 (e + 4) }
  else
    s.modCur fun t =>
      let j := t.depth
      { t.consume with
        loopb := t.loopb.setIfInBounds j (t.pc + 4)
        loopc := t.loopc.setIfInBounds j (BitVec.ofNat 64 ((c - 1) * 0x100000000 + n))
        loopst := BitVec.ofNat 64 (j + 1)
        pc := t.pc + 4 }

def execLoop (a : GReg) (n : BitVec 16) (s : State) : Host.Outcome State Fault Refusal :=
  issue { roam := true } [a] s fun s =>
    if 0x100000000 ≤ (s.rg a).toNat then s.raise 0x0F 0 (s.rg a) 0 else s.setLoop (s.rg a).toNat n.toNat

def execLoopi (c : BitVec 10) (n : BitVec 16) (s : State) : Host.Outcome State Fault Refusal :=
  issue { roam := true } [] s fun s => s.setLoop c.toNat n.toNat

def execNop (s : State) : Host.Outcome State Fault Refusal := issue {} [] s State.retire

/-- LOOP_BACK (R191): the loop-back of an instruction that has completed as the last word of a body. -/
def execLoopBack (s : State) : Host.Outcome State Fault Refusal :=
  .next (if s.cur.retiring then s.modCur Thread.loopBack else s)

/-- ILLEGAL_WORD (R167), of the word that the thread issues: word 4 holds it. -/
def execIllegalWord (s : State) : Host.Outcome State Fault Refusal :=
  .next (if s.cur.st = .bound ∧ s.cur.word = some s.subject.word then s.raise 0x01 0 (s.subject.word.setWidth 64) 0 else s)

/-- BREAKPOINT_MATCH (R430): word 4 holds the breakpoint. -/
def execBreakpointMatch (s : State) : Host.Outcome State Fault Refusal :=
  .next (if s.cur.st = .bound then s.raise 0x0E 0 (BitVec.ofNat 64 s.subject.a) 0 else s)

end Sys2Proof.Machine
end

