-- ==== Sys2Proof/Machine/Collect.lean ====
section
/-!
DEFINITION. Branches that the machine takes together (R309 to R326): joining and leaving a collective, votes, the reduction tree, run-ahead with its
shadow banks, verdicts, timeouts and ABORT.
-/

namespace Sys2Proof.Machine

/-! ## Waves as collectives see them (R310, R311) -/

/-- Dword 4 of a wave control block after an epoch: EPOCH, ANDV 1, KIND as it stands, and LAST. -/
def epochDword (epoch kind last : Nat) : Nat := at' 32 epoch + at' 5 kind + at' 3 1 + last % 4

/-- The members of a wave, wherever they stand. -/
def State.membersOf (s : State) (a : Nat) : List Place :=
  s.places.filter fun p => let t := s.at p; t.st != .free && t.stubFor.isNone && t.wave == some a

/-- The state after a change at each member of a wave that has voted, or executed the pending CJOIN or CLEAVE; of one that is ending, only its vote is
over (R322). -/
def State.forVoters (s : State) (a : Nat) (f : State → Place → State) : State :=
  ((s.membersOf a).filter fun p => (s.at p).voted).foldl (fun s p =>
    if (s.at p).ending.isSome then s.setAt p { s.at p with voted := false } else f s p) s

/-- The state after a change at a place, in a saved context's image too. -/
def State.inImage (s : State) (p : Place) (f : State → State) : State := (f (s.refresh p)).writeBack p

/-- CMEM.EPOCH of a thread. -/
def Thread.cmemEpoch (t : Thread) : Nat := fieldOf t.cmem.toNat 48 16

/-- A thread with CMEM.EPOCH replaced. -/
def Thread.withEpoch (t : Thread) (e : Nat) : Thread := { t with cmem := BitVec.ofNat 64 (putField t.cmem.toNat 48 16 e) }

/-- The COLLECTIVE fault with a reason (R313). -/
def State.collFault (s : State) (reason : Nat) : State := s.raise 0x10 0 (BitVec.ofNat 64 reason) 0

/-- Run a collective instruction on the block of the thread's wave. -/
def State.withWave (s : State) (f : Nat → State) : State := match s.cur.wave with | some a => f a | none => s.collFault 1

/-- The state after the thread whose turn it is counts in VOTED of its wave. -/
def State.countVoter (s : State) (a : Nat) : State := (s.countVote a).modCur fun t => { t with voted := true }

/-- Run a collective instruction of a member whose wave's block lies on another package: that package is asked, and the instruction goes on with the answer
(R310, R315; log 77). -/
def State.askWave (s : State) (op : WaveOp Thread) (f : Nat → State → State) : State :=
  match s.cur.waveAfar, s.cur.handFor with
  | none, _ => s.collFault 1
  | some _, some (x :: _) => f x s
  | some (pkg, _), _ => s.viaNet pkg 0 fun s => (s.wait { k := 12, act := .data 1 [] .none false }).tellWave s.focus.core s.cur op

/-- The state after the block's package has answered a CJOIN or a CLEAVE: its refusal, or the wait for the wave. -/
def State.askedWave (x : Nat) (s : State) : State :=
  if x ≠ 0 then s.collFault x else (s.modCur fun t => { t with voted := true }).wait { k := 12, act := .done 0 }

/-! ## CJOIN, CLEAVE and CSTATE (R314, R316, R325) -/

def execCjoin (a : GReg) (s : State) : Host.Outcome State Fault Refusal :=
  issue { roam := true, ahead := false } [a] s fun s => s.notBurst fun s =>
    let id := (s.rg a).toNat
    if s.cur.wave.isNone ∧ s.cur.waveAfar.isNone then s.collFault 1
    else if 2 ^ 32 ≤ id ∨ id = 0 then s.collFault 3
    else if s.cur.waveAfar.isSome then s.askWave (.join (BitVec.ofNat 32 id)) State.askedWave
    else s.withWave fun w =>
    match s.joinAt w id with
    | .error r => s.collFault r
    | .ok s => ((s.countVoter w).wait { k := 12, act := .done 0 }).waveTest w

def execCleave (s : State) : Host.Outcome State Fault Refusal :=
  issue { roam := true, ahead := false } [] s fun s =>
    if s.cur.waveAfar.isSome then s.askWave .quit State.askedWave
    else s.withWave fun w =>
      match s.leaveAt w with
      | .error r => s.collFault r
      | .ok s => ((s.countVoter w).wait { k := 12, act := .done 0 }).waveTest w

def execCstate (d : GReg) (s : State) : Host.Outcome State Fault Refusal :=
  issue { roam := true } [d] s fun s =>
    let t := s.cur
    let own := at' 29 (bit t.bank.isSome) + at' 24 (t.abortReason.toNat % 16)
    match t.wave, t.waveAfar, t.bank with
    | some a, _, _ => s.result d (BitVec.ofNat 64 (s.collSeen a + own))
    | none, none, _ => s.result d (BitVec.ofNat 64 (at' 30 3))
    | none, some _, some b => s.result d (BitVec.ofNat 64 (b.seen.toNat + own))
    | none, some _, none => s.askWave .read fun x s => s.result d (BitVec.ofNat 64 (x + own))

/-! ## Run-ahead (R315, R318) -/

/-- Shadow banks of a core (R318). -/
def shadowBanks : Nat := 16

/-- Shadow banks of a core that threads hold. -/
def Core.banksHeld (c : Core) : Nat := (c.ctxs.filter fun x => x.2.bank.isSome).length

/-- The checkpoint of a thread at its CBR (R318). -/
def Thread.checkpoint (t : Thread) : Checkpoint :=
  { pc := t.pc, g := t.g, v := t.v, k := t.k, b := t.b, flags := t.flags, pfxst := t.pfxst, modBad := t.modBad
    hintBad := t.hintBad, pfxAt := t.pfxAt, loopst := t.loopst, loopb := t.loopb, loopc := t.loopc, sregs := [t.nanctl, t.cabort, t.ctimeout] }

/-- The thread with a checkpoint restored, without its bank. -/
def Thread.restore (t : Thread) (c : Checkpoint) : Thread :=
  { t with
    pc := c.pc, g := c.g, v := c.v, k := c.k, b := c.b, flags := c.flags, pfxst := c.pfxst, modBad := c.modBad
    hintBad := c.hintBad, pfxAt := c.pfxAt, loopst := c.loopst, loopb := c.loopb, loopc := c.loopc, nanctl := c.sregs.getD 0 0, cabort := c.sregs.getD 1 0, ctimeout := c.sregs.getD 2 0
    prepared := if t.b = c.b then t.prepared else Vector.replicate 8 false
    bank := none, retiring := false, inHand := none, yielding := false }

/-- The thread on a direction from its CBR: as a branch taken to a target, or not taken (R191, R192). -/
def Thread.direction (t : Thread) (taken : Bool) (target : Dword) (extra : Nat) : Thread :=
  if taken then t.jump target extra else { t.retire with stall := extra }

/-- The state after the thread at a place takes ABORT at its CBR: to CABORT as by a taken branch, or a COLLECTIVE fault (R321). -/
def State.abortAt (s : State) (p : Place) (reason extra : Nat) : State :=
  let t := { s.at p with abortReason := BitVec.ofNat 8 reason }
  if t.cabort = 0 then (s.setAt p t).faultAt p { code := 0x10, pc := t.pc, w2 := 0, w4 := 7, w5 := 0 }
  else (s.setAt p (t.jump t.cabort extra)).wakeAt p

/-- The state after a CBR of the thread whose turn it is has found that its wave's epoch is another than CMEM's: ABORT, with no checkpoint (R315). -/
def State.missed (s : State) (e : Nat) : State := (s.modCur fun t => t.withEpoch e).abortAt (.ctx s.focus.core s.focus.ctx) 3 0

/-- The state after a vote of the thread whose turn it is has counted (R315): it runs ahead on its predicate's direction in a shadow bank, or waits where none is
free. -/
def State.predict (s : State) (p : Bool) (k : BReg) (seen : Dword) : State :=
  if (s.core s.focus.core).banksHeld < shadowBanks then
    s.modCur fun t =>
      { (t.direction p t.b[k] (if p then t.bCost k else 0)) with
        bank := some { ck := t.checkpoint, target := t.b[k], predicted := p, stores := [], fault := none, committing := false, seen := seen } }
  else (s.modCur fun t => { t with cbrTarget := t.b[k] }).wait { k := 12, act := .done 0 }

/-- CBR of a kind (R315). -/
def cbr (all : Bool) (a : GReg) (k : BReg) (s : State) : Host.Outcome State Fault Refusal :=
  issue { roam := true, ahead := false } [a] s fun s =>
    let t := s.cur
    let p := s.rg a != 0
    let timeout := t.ctimeout.toNat % 0x100000000
    if t.waveAfar.isSome then
      s.askWave (.cast all p timeout t.cmemEpoch) fun x s =>
        match x % 16 with
        | 0 => (s.modCur fun t => { t with voted := true }).predict p k (BitVec.ofNat 64 x)
        | 1 => s.missed (x / 0x100000000 % 65536)
        | r => s.collFault r
    else s.withWave fun w =>
      if s.voteBar w ≠ 0 then s.collFault (s.voteBar w)
      else if t.cmemEpoch ≠ s.waveEpoch w % 65536 then s.missed (s.waveEpoch w % 65536)
      else (((s.castAt w all p timeout).countVoter w).waveTest w).predict p k 0

def execCbrAny (a : GReg) (k : BReg) (s : State) : Host.Outcome State Fault Refusal := cbr false a k s
def execCbrAll (a : GReg) (k : BReg) (s : State) : Host.Outcome State Fault Refusal := cbr true a k s

/-! ## At the home gateway (R309, R314, R316, R317) -/

/-- The entry of an identifier at its home gateway. -/
def State.collEntry (s : State) (id : Word) : Option (Nat × Coll) :=
  s.colls.find? fun c => c.1 / 128 == homeGateway id && c.2.valid && c.2.collid == id

/-- The state with a collective entry replaced. -/
def State.setColl (s : State) (j : Nat) (c : Coll) : State := { s with colls := Assoc.insert s.colls j c }

/-- The origin of what a gateway sends. -/
def State.fromGateway (s : State) (g : Nat) : Origin := { pkg := s.pkg, core := 160 * (g / 8) + g % 8 }

/-- CMEM of a member at its join (R311). -/
def memberWord (epoch index total entry : Nat) : Dword :=
  BitVec.ofNat 64 (at' 48 (epoch % 65536) + at' 32 (index % 65536) + at' 16 (total % 65536) + entry % 4096)

/-- The state after the members of a wave on other packages that count in VOTED have been told something; they count no more. -/
def State.tellVoters (s : State) (a : Nat) (x : CollNews) : State :=
  let s' := (s.farVoters.filter fun v => v.1 == a).foldl (fun s v => s.tell (coreOfBlock a) v.2.2 v.2.1 (.coll x)) s
  { s' with farVoters := s'.farVoters.filter fun v => v.1 != a }

/-- COLL_JOIN_REQUEST (R314). -/
def execCollJoinRequest (s : State) : Host.Outcome State Fault Refusal :=
  event s fun s =>
    match s.msg? s.subject.a with
    | some m =>
      match m.body with
      | .collJoin a id =>
        let s := s.drop m.id
        if s.cstat a ≠ 1 ∨ fieldOf (s.wcb a 3) 0 32 ≠ id.toNat ∨ s.voted a ≠ s.waveLive a then s
        else
          let refuse := fun (reason : Nat) =>
            let s := s.forVoters a fun s p =>
              s.inImage p fun s =>
                (s.setAt p { s.at p with voted := false }).faultAt p { code := 0x10, pc := (s.at p).pc, w2 := 0, w4 := BitVec.ofNat 64 reason, w5 := 0 }
            let s := s.tellVoters a (.refused reason)
            (s.wcbField a 3 62 2 0).wcbField a 4 16 7 0
          match s.collEntry id with
          | none => refuse 3
          | some (j, c) =>
            if c.locals.toNat ≤ c.joined.toNat then refuse 4
            else
              let index := (c.base + c.joined).toNat
              let s := s.setColl j { c with joined := c.joined + 1, members := c.members ++ [(a, index)] }
              let s := s.setWcb a 3 (id.toNat + at' 32 index + at' 48 1 + at' 62 2)
              let s := (s.setWcb a 4 (epochDword c.epoch.toNat 0 3)).setWcb a 5 0
              let s := s.tellVoters a (.joined (memberWord c.epoch.toNat index c.totalm1.toNat j))
              s.forVoters a fun s p =>
                s.inImage p fun s =>
                  (s.setAt p { s.at p with voted := false, cmem := memberWord c.epoch.toNat index c.totalm1.toNat j }).completeAt p fun t => t
      | _ => s
    | none => s

/-- Whether a package is complete for its epoch (R317). -/
def Coll.complete (c : Coll) : Bool :=
  c.voted.length + (c.left.toNat - c.votedLeft) == c.locals.toNat && c.heard.length == c.children.toNat

/-- The entry with votes gathered: COUNT of them, with their flags; kinds that differ make it mixed. -/
def Coll.merge (c : Coll) (f : Flit) : Coll :=
  if f.count = 0 then c
  else
    { c with
      mixed := c.mixed || f.mixed || (decide (0 < c.votes) && c.kindAll != f.kindAll)
      kindAll := if c.votes = 0 then f.kindAll else c.kindAll
      votes := c.votes + f.count, orv := c.orv || f.orv, andv := c.andv && f.andv }

/-- The summary of a package. -/
def Coll.summary (c : Coll) (pkg : Nat) : Flit :=
  { collid := c.collid, epoch := c.epoch, count := c.votes, kindAll := c.kindAll, orv := c.orv, andv := c.andv, mixed := c.mixed, sender := pkg }

/-- The entry at the start of an epoch. -/
def Coll.nextEpoch (c : Coll) : Coll :=
  { c with epoch := c.epoch + 1, voted := [], votedLeft := 0, heard := [], votes := 0, orv := false
           andv := true, kindAll := false, mixed := false, sent := false, abortSent := false }

/-- The state after a package that is complete has sent its summary (R317). -/
def State.sendSummary (s : State) (j : Nat) (c : Coll) : State :=
  (s.setColl j { c with sent := true }).send 100 c.parent (s.fromGateway (homeGateway c.collid)) (.summary (c.summary s.pkg))

/-- Members of an entry that had not contributed (R324). -/
def Coll.missing (c : Coll) : List Nat := (c.members.map (·.2)).filter fun i => !c.voted.contains i

/-- The child packages of an entry (R309, R317): those that it has heard of, and for the rest of CHILDREN packages that nothing names, free values: DESIGN CHOICE
(log 19). -/
def State.childrenOf (s : State) (c : Coll) : List Nat :=
  c.kids ++ ((Config.childrenOf s.pkg c.collid.toNat c.children.toNat).toList.filter fun p => !c.kids.contains p).take (c.children.toNat - c.kids.length)

/-- Whether a package may be a child of an entry: one that it has heard of, or the next of CHILDREN (R309, R407). -/
def Coll.mayHear (c : Coll) (pkg : Nat) : Bool := c.kids.contains pkg || decide (c.kids.length < c.children.toNat)

/-- The entry after a package has shown itself to be a child. -/
def Coll.hears (c : Coll) (pkg : Nat) : Coll := if c.kids.contains pkg then c else { c with kids := c.kids ++ [pkg] }

/-- The abort record (R324). -/
def State.abortRecord (s : State) (c : Coll) (reason : Nat) : State :=
  let lost := if reason = 2 then 0 else c.children.toNat - c.heard.length
  let first := if lost = 0 then s.pkg else ((s.childrenOf c).filter fun p => !c.heard.contains p).foldl min 0x7FFFF
  s.deviceWrite c.report.toNat c.rkey.toNat
    (dwordBytes [c.collid.toNat + at' 32 c.epoch.toNat, reason + at' 8 (lost % 0x1000000) + at' 32 first, s.cycle, 0])

/-- The state after a verdict is at a package's home gateway (R317, R324): EPOCH rises, and the verdict goes on to member cores and children. -/
def State.verdictAt (s : State) (j : Nat) (c : Coll) (result reason : Nat) : State :=
  let g := homeGateway c.collid
  let root := c.parent == s.pkg
  let s := if root && result == 2 then s.abortRecord c reason else s
  let miss := if reason = 2 then [] else c.missing
  let c' :=
    if result = 2 then
      { c.nextEpoch with
        aepoch := c.epoch, missCount := BitVec.ofNat 16 miss.length
        firstMiss := BitVec.ofNat 16 (miss.foldl min 0xFFFF) }
    else c.nextEpoch
  let f : Flit := { collid := c.collid, epoch := c.epoch, result := result, reason := reason, sender := s.pkg }
  let s := s.setColl j c'
  let s := c.members.foldl (fun s m =>
    s.post (gatewayDelay (coreOfBlock m.1) g) (s.fromGateway g) (.verdict { f with block := some m.1, member := m.2 })) s
  let s := (s.childrenOf c).foldl (fun s p => s.send 100 p (s.fromGateway g) (.verdict f)) s
  if c'.complete && !root then s.sendSummary j c' else s

/-- The state after an entry has gathered something: a complete package sends its summary, and a complete root forms the verdict where a part carries
a vote. -/
def State.collCheck (s : State) (j : Nat) (c : Coll) : State :=
  let s := s.setColl j c
  if !c.complete || c.sent then s
  else if c.parent ≠ s.pkg then s.sendSummary j c
  else if c.votes = 0 then s
  else if c.mixed then s.verdictAt j c 2 2
  else s.verdictAt j c (bit (if c.kindAll then c.andv else c.orv)) 0

/-- Run what a collective message asks of its entry, where the epoch is the entry's (R407). -/
def State.onEntry (s : State) (f : Flit) (g : Nat → Coll → State) : State :=
  match s.collEntry f.collid with
  | some (j, c) => if c.epoch = f.epoch then g j c else s
  | none => s

/-- VOTE (R317). -/
def execVote (s : State) : Host.Outcome State Fault Refusal :=
  event s fun s =>
    match s.msg? s.subject.a with
    | some m =>
      match m.body with
      | .vote f =>
        let s := s.drop m.id
        s.onEntry f fun j c =>
          if c.voted.contains f.member then s else s.collCheck j { (c.merge f) with voted := c.voted ++ [f.member] }
      | _ => s
    | none => s

/-- SUMMARY (R317, R407). -/
def execSummary (s : State) : Host.Outcome State Fault Refusal :=
  event s fun s =>
    match s.msg? s.subject.a with
    | some m =>
      match m.body with
      | .summary f =>
        let s := s.drop m.id
        s.onEntry f fun j c =>
          if c.heard.contains f.sender ∨ !c.mayHear f.sender then s
          else s.collCheck j { ((c.hears f.sender).merge f) with heard := c.heard ++ [f.sender] }
      | _ => s
    | none => s

/-- VERDICT (R317): at a gateway it is passed on; at a member's core it waits for the boundary. -/
def execVerdict (s : State) : Host.Outcome State Fault Refusal :=
  event s fun s =>
    match s.msg? s.subject.a with
    | some m =>
      match m.body with
      | .verdict f =>
        let s := s.drop m.id
        match f.block with
        | some a =>
          let core := coreOfBlock a
          s.setCore core { s.core core with verdicts := (s.core core).verdicts ++ [(a, f)] }
        | none => s.onEntry f fun j c => if c.parent = s.pkg ∨ f.sender ≠ c.parent then s else s.verdictAt j c f.result f.reason
      | _ => s
    | none => s

/-- COLL_LEAVE_REQUEST (R316). -/
def execCollLeaveRequest (s : State) : Host.Outcome State Fault Refusal :=
  event s fun s =>
    match s.msg? s.subject.a with
    | some m =>
      match m.body with
      | .collLeave a id =>
        let s := s.drop m.id
        let s :=
          if s.cstat a = 3 ∧ fieldOf (s.wcb a 3) 0 32 = id.toNat then
            let s' := (((s.setWcb a 3 0).setWcb a 4 (epochDword 0 0 3)).setWcb a 5 0).tellVoters a .left
            s'.forVoters a fun s p =>
              s.inImage p fun s => (s.setAt p { s.at p with voted := false, cmem := 0 }).completeAt p fun t => t
          else s
        match s.collEntry id with
        | none => s
        | some (j, c) =>
          match c.members.find? fun m => m.1 == a with
          | none => s
          | some (_, i) =>
            s.collCheck j
              { c with left := c.left + 1, members := c.members.filter fun m => m.1 != a
                       votedLeft := c.votedLeft + (if c.voted.contains i then 1 else 0) }
      | _ => s
    | none => s

/-! ## Timeouts (R323) -/

/-- DEADLINE_EXPIRY (R323). -/
def execDeadlineExpiry (s : State) : Host.Outcome State Fault Refusal :=
  event s fun s =>
    let a := s.subject.a
    if s.cstat a ≠ 2 ∨ s.wcb a 5 ≠ s.subject.b ∨ s.wcb a 5 = 0 then s
    else
      let id := BitVec.ofNat 32 (s.wcb a 3)
      s.post (gatewayDelay (coreOfBlock a) (homeGateway id)) { pkg := s.pkg, core := coreOfBlock a }
        (.abortReq { collid := id, epoch := BitVec.ofNat 32 (s.waveEpoch a), sender := s.pkg })

/-- ABORT_REQUEST (R323): up the tree, once an epoch; at the root it is the verdict, unless a complete vote came first. -/
def execAbortRequest (s : State) : Host.Outcome State Fault Refusal :=
  event s fun s =>
    match s.msg? s.subject.a with
    | some m =>
      match m.body with
      | .abortReq f =>
        let s := s.drop m.id
        s.onEntry f fun j c =>
          let c := if f.sender ≠ s.pkg ∧ c.mayHear f.sender then c.hears f.sender else c
          if c.parent = s.pkg then s.verdictAt j c 2 1
          else if c.abortSent then s
          else (s.setColl j { c with abortSent := true }).send 100 c.parent (s.fromGateway (homeGateway c.collid)) (.abortReq { f with sender := s.pkg })
      | _ => s
    | none => s

/-! ## Applying a verdict (R320, R321) -/

/-- The state after the thread at a place has no bank any more and goes on: its deferred fault is raised, now (R320), or it wakes. -/
def State.endRunAhead (s : State) (p : Place) (f : Option PendingFault) : State :=
  let s := s.setAt p { s.at p with bank := none }
  match f with
  | some f => s.faultAt p { f with raised := some s.cycle }
  | none => s.wakeAt p

/-- The state after the next held stores of a commit are posted, as many as fuel, the store count and the network interface allow (R321). -/
def State.postHeld (p : Place) : Nat → State → State
  | 0, s => s
  | n + 1, s =>
    let t := s.at p
    match t.bank with
    | none => s
    | some b =>
      match b.stores with
      | [] => s.endRunAhead p b.fault
      | h :: rest =>
        let pa := (h.bytes.headD (0, 0)).1
        let core := s.coreAt p
        if Config.storeCap ≤ t.storeAck ∨ (gpaPkg pa ≠ s.pkg ∧ s.niFull core 1) then s.postOf t.name
        else
          let s := s.setAt p { t with storeAck := t.storeAck + 1, bank := some { b with stores := rest } }
          let s := s.sendStore { (s.originOf core t).ticketed t with pc := h.pc, ea := h.ea, lane := h.lane } h.bytes h.key false false
          if rest.isEmpty then s.endRunAhead p b.fault else State.postHeld p n s

/-- HELD_STORE_COMMIT (R321): at most 16 held stores of a commit in a rotation. -/
def execHeldStoreCommit (s : State) : Host.Outcome State Fault Refusal :=
  event s fun s =>
    match s.whereIs s.subject.name with
    | none => s
    | some p =>
      match (s.at p).bank with
      | some b => if b.committing then (State.postHeld p 16 s).settle s.subject.name else s
      | none => s

/-- Further turns that a thread owes after a rollback or ABORT: one, while it holds its position. -/
def Thread.owes (t : Thread) : Nat := if t.st = .bound ∨ t.st = .held then 1 else 0

/-- The state after a verdict is applied to the thread at a place (R321). -/
def State.applyVerdict (s : State) (f : Flit) (p : Place) : State :=
  let t := s.at p
  let t := { (t.withEpoch (t.cmemEpoch + 1)) with voted := false }
  let x := t.owes
  if f.result = 2 then
    let back := match t.bank with | some b => t.restore b.ck | none => t
    (s.setAt p back).abortAt p f.reason x
  else
    match t.bank with
    | some b =>
      if b.predicted = (f.result == 1) then
        State.postHeld p 16 (s.setAt p { t with bank := some { b with committing := true } })
      else (s.setAt p ((t.restore b.ck).direction (f.result == 1) b.target x)).wakeAt p
    | none => (s.setAt p (t.direction (f.result == 1) t.cbrTarget x)).wakeAt p

/-- The state after a verdict that has come from another package is applied to its voter here (R321). -/
def State.verdictFar (s : State) (core : Nat) (n : Name) (f : Flit) : State :=
  let s := s.setCore core { s.core core with verdicts := (s.core core).verdicts.filter fun v => v.2 != f }
  match s.whereIs n with
  | none => s
  | some p =>
    if !(s.at p).voted then s
    else if (s.at p).ending.isSome then s.setAt p { s.at p with voted := false }
    else s.inImage p fun s => (s.applyVerdict f p).settle n

/-- VERDICT_APPLY (R321): every thread of the wave that voted, then the block.  A wave that is leaving takes the EPOCH and LAST of a verdict that reaches it, while its VOTED,
which counts the CLEAVEs (R310, R316), and its DEADLINE stay as they are: DESIGN CHOICE (log 59). -/
def execVerdictApply (s : State) : Host.Outcome State Fault Refusal :=
  event s fun s =>
    let core := s.subject.a
    let a := s.subject.b
    match (s.core core).verdicts.find? fun v => v.1 == a && v.2.far.getD 0 == s.subject.name with
    | none => s
    | some (_, f) =>
      if f.far.isSome then s.verdictFar core s.subject.name f else
      let s := s.setCore core { s.core core with verdicts := (s.core core).verdicts.filter fun v => !(v.1 == a && v.2.far.isNone && v.2.epoch == f.epoch) }
      if s.cstat a < 2 ∨ fieldOf (s.wcb a 3) 0 32 ≠ f.collid.toNat ∨ s.waveEpoch a ≠ f.epoch.toNat then s
      else
        let leaving := s.cstat a == 3
        let s := if leaving then s else
          (s.forVoters a fun s p => s.inImage p fun s => (s.applyVerdict f p).settle (s.at p).name).tellVoters a (.verdict f)
        let voted := if leaving then s.voted a else 0
        let kind := fieldOf (s.wcb a 4) 5 1
        let s := s.setWcb a 4 (epochDword (s.waveEpoch a + 1) kind f.result + at' 16 voted)
        if leaving then s else s.setWcb a 5 0

end Sys2Proof.Machine
end

