-- ==== Sys2Proof/Machine/Tiles.lean ====
section
/-!
DEFINITION. Tiles leaving and entering service: the context-save engine (R368 to R373) with TSAVE and TRESTORE, and the assignment of a tile (R388).
-/

namespace Sys2Proof.Machine

/-! ## TSAVE and TRESTORE (R370, R372) -/

/-- The 64 KiB pages of a save image (R369, R370). -/
def imagePageCount : Nat := 160

/-- Run the checks that TSAVE and TRESTORE share: the tile, the rights over its cores, and the place of the issuer. -/
def State.withTarget' (s : State) (x : Dword) (f : Nat → State) : State :=
  if 159 < x.toNat then s.slotFault x
  else
    let eps := (List.range 4).map fun c => endpoint s.pkg (4 * x.toNat + c)
    s.withCoreRight eps (rightStop + rightStart + rightRead + rightRewrite) fun s =>
      if s.focus.core < 640 ∧ s.here = x.toNat then s.raise 0x07 0 5 0 else f x.toNat

/-- The state after a tile in the wrong state refuses the instruction. -/
def State.tileStateFault (s : State) (t : Nat) : State := s.raise 0x09 0 (BitVec.ofNat 64 t) (BitVec.ofNat 64 (s.tile t).state.code)

/-- Check the pages of an image: their local physical addresses and key slots; a fault's code, address and word 4; or none where a walk waits. -/
def State.imageWalk (s : State) (va : Nat) : Nat → State × Option (Except (BitVec 8 × Dword × Dword) (List (Nat × Nat)))
  | 0 => (s, some (.ok []))
  | n + 1 =>
    match State.imageWalk s va n with
    | (s, some (.ok xs)) =>
      let ea := BitVec.ofNat 64 (va + 0x10000 * n)
      (match s.checkWalk s.cur.troot (s.cur.job.setWidth 32) ea 8 false true with
       | (s, .ok x) =>
         if isDamask x.pa ∧ gpaPkg x.pa = s.pkg then (s, some (.ok (xs ++ [(gpaLocal x.pa, x.key)]))) else (s, some (.error (0x05, ea, 0)))
       | (s, .fault code w4) => (s, some (.error (code, ea, w4)))
       | (s, .walk) => (s, none))
    | o => o

/-- Run what follows the checks of an image's address: its pages. -/
def State.withImagePages (s : State) (gb : Dword) (f : State → List (Nat × Nat) → State) : State :=
  if gb.toNat % 0x100000 ≠ 0 then s.raise 0x03 gb 0 0
  else
    match s.imageWalk gb.toNat imagePageCount with
    | (s, some (.error (code, ea, w4))) => s.raise code ea w4 0
    | (s, some (.ok xs)) => f s xs
    | (s, none) => (s.stallFor 14 gb 0 .event).post 16 s.curOrigin (.value 0)

/-- The state after the thread whose turn it is has left the rotation for the checks of an image, and goes on when they are made. -/
def State.afterChecks (s : State) (ea : Dword) : State :=
  let o := s.curOrigin
  (s.wait { k := 14, a := ea, act := .done 0 }).post 200 o (.value 0)

/-- The contexts of a tile's cores. -/
def State.tileContexts (s : State) (tile : Nat) : List (Nat × Nat) :=
  (List.range 4).flatMap fun c => (s.core (4 * tile + c)).ctxs.map fun x => (4 * tile + c, x.1)

/-- Whether a context holds a thread that runs or waits. -/
def Thread.runsHere (t : Thread) : Bool := t.st != .free && !t.halted && t.stubFor.isNone && t.ending.isNone

/-- The state after every running thread of a tile is stopped, as R360 does, the gathered data of every thread is posted (R140), and the
recorded addresses of its prefixes are dropped (R169); the save remembers which it stopped. -/
def State.stopTile (s : State) (tile : Nat) : State :=
  (s.tileContexts tile).foldl (fun s x =>
    let p := Place.ctx x.1 x.2
    let t := s.at p
    let s := if t.st = .free then s else
      let s := s.postOf t.name
      s.setAt p { s.at p with pfxAt := Vector.replicate 3 none }
    if t.runsHere ∧ !t.stopping then (s.setAt p { s.at p with bySave := true }).stopThread p false else s) s

def execTsave (a b : GReg) (s : State) : Host.Outcome State Fault Refusal :=
  issue { ahead := false } [a, b] s fun s =>
    s.withTarget' (s.rg a) fun t =>
      if (s.tile t).state ≠ .live then s.tileStateFault t
      else
        let gb := s.rg b
        s.withImagePages gb fun s xs =>
          let x := { s.tile t with
            image := (xs.headD (0, 0)).1, imagePages := xs.map (·.1), imageKeys := xs.map (·.2), drained := false }
          let s := (s.setTile t x).setTileState t .saving
          ((s.stopTile t).afterChecks gb).notice (s.cycle + 16) .saveDrained { a := t }

/-! ## The image (R369) -/

/-- MAGIC. -/
def saveMagic : Nat := 0x45564153

/-- A record of a handler read in the header (R305). -/
def HRead.saveRecord (h : HRead) : List Nat :=
  h.words ++ [(match h.state with | .reserving => 0 | .streaming => 1 | .draining => 2), h.next, h.opened, h.next, h.faulted,
    h.first + at' 32 h.fcode.toNat, bit (h.cancelled && decide (h.next < hreadTotal h.words)), 0]

/-- The handler reads of a tile's cores that hold contexts. -/
def State.tileReads (s : State) (tile : Nat) : List (Nat × HRead) :=
  s.reads.filter fun r => r.2.core / 4 == tile && decide (r.2.core < 640) && r.2.state != .reserving

/-- The header of an image, as chunks by offset. -/
def State.headerChunks (s : State) (tile : Nat) : List (Nat × List Byte) :=
  let t := s.tile tile
  [(0, dwordBytes [saveMagic, at' 8 s.pkg + tile, s.cycle, t.job.toNat]),
   (0x40, dwordBytes ((List.range 32).map fun i => match (t.opSlot i).owner with | some n => at' 63 1 + n.toNat | none => 0)),
   (0x140, (List.range 64).flatMap fun i => leBytes 4 (t.accSlot i).sat.toNat),
   (0x240, dwordBytes ((List.range 4).flatMap fun c => [(s.core (4 * tile + c)).quantum, (s.core (4 * tile + c)).admcap])),
   (0x400, dwordBytes (((s.tileReads tile).take 64).flatMap fun r => r.2.saveRecord))]

/-- The sectors of a slot that the image holds: all of an undefined slot's. -/
def OpSlot.listed (o : OpSlot) : List Nat := if o.undef.isSome then List.range 512 else Assoc.keys o.sectors

/-- Tags, tables, operand and accumulator memory of an image, as chunks by offset. -/
def Tile.chunks (t : Tile) : List (Nat × List Byte) :=
  (t.slots.flatMap fun o => o.2.listed.map fun j => (0x10000 + 4 * (512 * o.1 + j), leBytes 4 (o.2.tagOf j))) ++
  (t.tables.flatMap fun y => y.2.map fun d => (0x20000 + 0x1100 * y.1 + 8 * d.1, leBytes 8 d.2.toNat)) ++
  (t.slots.flatMap fun o => o.2.listed.map fun j => (0x100000 + 0x8000 * o.1 + 64 * j, leBytes 64 (o.2.sector j))) ++
  (t.accs.flatMap fun a => a.2.data.map fun d => (0x200000 + 0x8000 * a.1 + 8 * d.1, leBytes 8 d.2.toNat))

/-- The chunks of a whole image, but for the scratchpad. -/
def State.imageChunks (s : State) (tile : Nat) : List (Nat × List Byte) :=
  s.headerChunks tile ++ (s.tile tile).chunks ++
  ((List.range 4).flatMap fun c => (List.range 256).map fun x => (contextOffset (4 * tile + c) x, s.contextBytes (4 * tile + c) x))

/-- The cells of a page of an image. -/
def pageCells (chunks : List (Nat × List Byte)) (page : Nat) : List Host.Cell :=
  chunks.flatMap fun c => if c.1 / 0x10000 = page then (atAddrs (c.1 % 0x10000) c.2).filter fun b => b.2 != 0 else []

/-- The state with pages of a tile's image written. -/
def State.writePages (s : State) (tile : Nat) (pages : List Nat) (cells : Nat → List Host.Cell) : State :=
  pages.foldl (fun s i =>
    let p := (s.tile tile).imagePlace (0x10000 * i)
    s.deviceFill p.1 0x10000 p.2 (cells i)) s

/-! ## Saving (R370) -/

/-- Whether nothing of a tile is still on its way: every context stopped, the engines empty, and every requested burst settled. -/
def State.quietTile (s : State) (tile : Nat) : Bool :=
  ((s.tileContexts tile).all fun x =>
    let t := s.thread x.1 x.2
    t.st == .free || t.stubFor.isSome || (t.halted && t.stopDone && t.pending.isNone && t.ending.isNone)) &&
  (s.tile tile).engine.isEmpty && (s.tile tile).copies.isEmpty &&
  ((s.tileReads tile).all fun r => r.2.asked.isEmpty) &&
  !(s.flight.any fun m => match m.body with | .spillMove _ _ core _ => core / 4 == tile && decide (core < 640) | _ => false)

/-- The state with the handler reads of a tile saved, or in service again. -/
def State.saveReads (s : State) (tile : Nat) (saved : Bool) : State :=
  (s.tileReads tile).foldl (fun s r => s.setRead r.1 { r.2 with saved := saved }) s

/-- SAVE_DRAINED (R370): threads that arrived meanwhile are stopped too; once the tile is quiet the image is written, and the copy of the scratchpad
begins. -/
def execSaveDrained (s : State) : Host.Outcome State Fault Refusal :=
  event s fun s =>
    let t := s.subject.a
    if (s.tile t).state ≠ .saving ∨ (s.tile t).drained then s
    else
      let s := s.stopTile t
      if !s.quietTile t then s.notice (s.cycle + 16) .saveDrained { a := t }
      else
        let s := s.saveReads t true
        let chunks := s.imageChunks t
        let s := s.writePages t (List.range 96) (pageCells chunks)
        (s.setTile t { s.tile t with drained := true }).notice (s.cycle + 90000) .saveComplete { a := t }

/-- The offsets in an image of a tile's poisoned granules: operand memory, accumulator memory and scratchpad (R369, R427). -/
def State.markOffsets (s : State) (tile : Nat) : List Nat :=
  ((s.tile tile).slots.flatMap fun o => o.2.poison.map fun g => 0x100000 + 0x8000 * o.1 + 8 * g) ++
  ((s.tile tile).accs.flatMap fun a => a.2.poison.map fun g => 0x200000 + 0x8000 * a.1 + 8 * g) ++
  ((s.poison.filter fun p => tileAt p == some tile).map fun p => 0x600000 + (p - tileBase tile))

/-- The state with a tile's poison marks copied to its image (R427). -/
def State.poisonImage (s : State) (tile : Nat) : State :=
  { s with poison := s.poison ++ (s.markOffsets tile).map fun o => ((s.tile tile).imagePlace o).1 / 64 * 64 }

/-- The offsets of the poisoned granules of 8 bytes in a tile's image (R427). -/
def State.imageMarks (s : State) (tile : Nat) : List Nat :=
  (s.poison.flatMap fun p =>
    (List.range imagePageCount).flatMap fun i =>
      let page := (s.tile tile).imagePages.getD i 0
      if page ≤ p ∧ p < page + 0x10000 then (List.range 8).map fun k => 0x10000 * i + (p - page) + 8 * k else []) ++
  (s.slicePoison.flatMap fun p =>
    (List.range imagePageCount).filterMap fun i =>
      let page := (s.tile tile).imagePages.getD i 0
      if page ≤ p ∧ p < page + 0x10000 then some (0x10000 * i + (p - page)) else none)

/-- The granules of a slot, by its number, that marks of an image from an offset name (R427). -/
def slotMarks (marks : List Nat) (base slot : Nat) : List Nat :=
  (marks.filter fun o => decide (base + 0x8000 * slot ≤ o) && decide (o < base + 0x8000 * (slot + 1))).map fun o => (o - base - 0x8000 * slot) / 8

/-- The state with the poison marks of a tile's image copied back to its scratchpad (R427). -/
def State.poisonPad (s : State) (tile : Nat) (marks : List Nat) : State :=
  let own := s.poison.filter fun p => tileAt p != some tile
  { s with poison := own ++ (marks.filter fun o => decide (0x600000 ≤ o) && decide (o < 0x9FE000)).map fun o => tileBase tile + (o - 0x600000) }

/-- What a save notes beside a tile's image. -/
def State.imageNote (s : State) (t : Nat) : SavedImage :=
  { contexts := (s.tileContexts t).map fun x => (x, s.thread x.1 x.2)
    reads := (s.tileReads t).take 64
    deques := (List.range 4).map fun c => ((s.core (4 * t + c)).dequeTop, (s.core (4 * t + c)).dequeCount) }

/-- SAVE_COMPLETE (R370): the scratchpad is in the image, and what has changed meanwhile in the header and the contexts (a fire, a TWRITE) is too; STATE is SAVED, and
accesses go to the image from now on. -/
def execSaveComplete (s : State) : Host.Outcome State Fault Refusal :=
  event s fun s =>
    let t := s.subject.a
    if (s.tile t).state ≠ .saving ∨ !(s.tile t).drained then s
    else
      let old := s.mem
      let s := s.writePages t ((List.range 64).map (96 + ·)) fun i => Memory.slice old (tileBase t + 0x10000 * (i - 96)) 0x10000
      let s := s.writePages t (0 :: (List.range 32).map (64 + ·)) (pageCells (s.imageChunks t))
      let s := s.poisonImage t
      let s := { s with images := Assoc.insert s.images (s.tile t).image (s.imageNote t) }
      let s := (s.tileContexts t).foldl (fun s x => s.setThread x.1 x.2 { s.thread x.1 x.2 with ticket := none }) s
      let s := s.setTile t { s.tile t with savedAt := s.cycle, redirected := 0, drained := false }
      s.setTileState t .saved

/-! ## Zeroing (R372, R388) -/

/-- The state with a tile's scratchpad, slots, tags, accumulators, counts and tables zero, and nothing queued in its system area. -/
def State.zeroTile (s : State) (t : Nat) : State :=
  let s := s.setTile t { s.tile t with slots := [], accs := [], tables := [] }
  let inTile := fun a => tileAt a == some t
  let s :=
    { s with
      mem := Memory.clear s.mem (tileBase t) 0x3FE000
      poison := s.poison.filter fun p => !inTile p
      waves := s.waves.filter fun a => !inTile a
      waveEnds := s.waveEnds.filter fun e => !inTile e.wcb
      farVoters := s.farVoters.filter fun v => !inTile v.1 }
  (List.range 4).foldl (fun s c =>
    s.setCore (4 * t + c) { s.core (4 * t + c) with dequeTop := 0, dequeCount := 0, dequeAfter := [], verdicts := [] }) s

/-- TILE_ASSIGN_DONE (R388). -/
def execTileAssignDone (s : State) : Host.Outcome State Fault Refusal :=
  event s fun s =>
    let t := s.subject.a
    if (s.tile t).state = .reset ∧ (s.tile t).assigned then (s.zeroTile t).setTileState t .live else s

/-! ## Restoring and discarding (R372) -/

def execTrestore (a b : GReg) (s : State) : Host.Outcome State Fault Refusal :=
  issue { ahead := false } [a, b] s fun s =>
    let gb := s.rg b
    s.withTarget' (s.rg a) fun t =>
      let st := (s.tile t).state
      if gb = 0 then
        if st ≠ .saved then s.tileStateFault t
        else ((s.setTileState t .discarding).afterChecks gb).notice (s.cycle + 60000) .discardComplete { a := t }
      else if st ≠ .saved ∧ st ≠ .reset then s.tileStateFault t
      else
        s.withImagePages gb fun s xs =>
          if st = .saved ∧ (s.tile t).image ≠ (xs.headD (0, 0)).1 then s.tileStateFault t
          else
            let x := { s.tile t with
              image := (xs.headD (0, 0)).1, imagePages := xs.map (·.1), imageKeys := xs.map (·.2), drained := st == .reset
              starter := some (s.cur.name, s.nextId) }
            let s' := s.setTile t x
            let d1 := s'.imageDword t 8
            if s'.imageDword t 0 ≠ saveMagic ∨ d1 ≠ at' 8 s.pkg + t then s.raise 0x09 0 (s.rg a) (BitVec.ofNat 64 d1)
            else ((s'.setTileState t .restoring).afterChecks gb).notice (s.cycle + 90000) .restoreComplete { a := t }

/-- The state after a saved or spilled thread ends with its tile: as by CANCEL, but the block of a wave of the tile is discarded, and no counter is written for
it. -/
def State.endWithTile (s : State) (p : Place) : State :=
  let t := s.at p
  let core := s.coreAt p
  let s := (((s.releaseSlots t.name).dropWatches t.name).forget core t)
  let s := if (t.wave.bind tileAt) = some (tileOf core) then s else (s.flushFlags t).leaveAny core t
  let s := if t.burst then s else s.liveDown (t.job.setWidth 32) 1
  let s := match p with | .ctx c x => s.setThread c x Thread.idle | .slot .. => s.vacate p
  s.notice (s.cycle + 1) .stopComplete { name := t.name }

/-- DISCARD_COMPLETE (R372): every saved thread and every spilled thread of the cores has ended, everything is zero, and the tile is RESET. -/
def execDiscardComplete (s : State) : Host.Outcome State Fault Refusal :=
  event s fun s =>
    let t := s.subject.a
    if (s.tile t).state ≠ .discarding then s
    else
      let s := { s with images := Assoc.insert s.images (s.tile t).image (s.imageNote t) }
      let ours := s.places.filter fun p =>
        decide (s.coreAt p < 640) && tileOf (s.coreAt p) == t && (s.at p).st != .free && (s.at p).stubFor.isNone
      let s := ours.foldl (fun s p => s.endWithTile p) s
      let s := (s.tileReads t).foldl (fun s r => s.liveDown r.2.who.job r.2.conc) s
      let s := { s with reads := s.reads.filter fun r => !(r.2.core / 4 == t && decide (r.2.core < 640)) }
      let s := (List.range 4).foldl (fun s c =>
        let k := s.core (4 * t + c)
        s.setCore (4 * t + c)
          { k with spillQueue := [], granted := 0, resQueue := []
                   ctxs := Assoc.mapVals (fun _ (x : Thread) => if x.reserved then Thread.idle else x) k.ctxs }) s
      let s := s.zeroTile t
      (s.setTile t { s.tile t with assigned := false, engine := [], copies := [] }).setTileState t .reset

/-- The operand slots of an image. -/
def State.imageSlots (s : State) (tile : Nat) (marks : List Nat) : Assoc OpSlot :=
  (List.range 32).map fun i =>
    let d := s.imageDword tile (0x40 + 8 * i)
    let secs := (List.range 512).filterMap fun j =>
      let v := ofDwords fun k => s.imageDword tile (0x100000 + 0x8000 * i + 64 * j + 8 * k)
      if v = 0 then none else some (j, BitVec.ofNat 512 v)
    let tags := (List.range 512).filterMap fun j =>
      let v := fieldOf (s.imageDword tile (0x10000 + 4 * (512 * i + j) / 8 * 8)) (32 * (j % 2)) 17
      if v = 0 then none else some (j, BitVec.ofNat 17 v)
    let old := (s.tile tile).opSlot i
    let owner := if d / 2 ^ 63 = 1 then some (BitVec.ofNat 56 d) else none
    let o : OpSlot :=
      { old with
        owner := owner, sectors := secs, tags := tags, undef := none, clearing := none, poison := slotMarks marks 0x100000 i }
    (i, o)

/-- The accumulator slots of an image. -/
def State.imageAccs (s : State) (tile : Nat) (marks : List Nat) : Assoc AccSlot :=
  (List.range 64).map fun i =>
    (i, { data := (List.range 4096).filterMap fun j =>
            let v := s.imageDword tile (0x200000 + 0x8000 * i + 8 * j)
            if v = 0 then none else some (j, BitVec.ofNat 64 v)
          sat := BitVec.ofNat 32 (fieldOf (s.imageDword tile (0x140 + i / 2 * 8)) (32 * (i % 2)) 32)
          poison := slotMarks marks 0x200000 i })

/-- The tables of an image. -/
def State.imageTables (s : State) (tile : Nat) : Assoc (Assoc Dword) :=
  (List.range 4).map fun y =>
    (y, (List.range 520).filterMap fun j =>
      let v := s.imageDword tile (0x20000 + 0x1100 * y + 8 * j)
      if v = 0 then none else some (j, BitVec.ofNat 64 v))

/-- A wait of a saved context as a restore into a RESET tile finds it (R372): one on a place of this package, one that goes on by a test of its own, and that of an MMA or ACCRD for
a barrier (WAITK 6) stand; any other waits for an answer that went with the tile, and its instruction issues again: DESIGN CHOICE (log 101). -/
def Wait.kept (x : Wait) : WaitAct :=
  let w := x.act
  match w with
  | .barrier .. | .mailbox .. | .join .. | .sleep => w
  | .far => if x.k = 6 then .far else .none
  | .again .event | .again .table | .again .fetch | .again .walk => .none
  | .again _ => w
  | _ => .none

/-- The thread that a context of a tile held before a restore: of a tile that was RESET, by what the save noted. -/
def State.contextBefore (s : State) (core ctx : Nat) (fresh : Bool) : Thread :=
  if !fresh then s.thread core ctx
  else
    match (Assoc.getD s.images (s.tile (tileOf core)).image {}).contexts.find? fun x => x.1 == (core, ctx) with
    | some (_, t) => { t with wait := { t.wait with act := t.wait.kept }, ticket := none }
    | none => {}

/-- The state with the generation counter of a context as its image has it (R26, R354, R372): a free context's TID is the name that it gives next; a name of another context
says nothing of this one. -/
def State.restoreGen (s : State) (core ctx : Nat) (tid state : Dword) : State :=
  let n : Name := tid.setWidth 56
  if nameEp n ≠ endpoint s.pkg core ∨ nameCtx n ≠ ctx then s
  else
    let g : BitVec 17 := tid.setWidth 17
    let c := s.core core
    s.setCore core { c with gens := Assoc.insert c.gens ctx (if state.toNat % 16 = 0 then g else g + 1) }

/-- The state with a context taken from the image, its generation too.  In a tile that stayed SAVED, a context whose thread has ended meanwhile stays FREE; in a RESET tile
the thread counts in its job's LIVE again.  What a restored thread does next comes after the restoring thread's earlier stores, and after a discard of its core's L1 (R149,
R150). -/
def State.restoreContext (s : State) (core ctx : Nat) (fresh : Bool) : State :=
  let w := fun i => BitVec.ofNat 64 (s.imageDword (tileOf core) (contextOffset core ctx + 8 * i))
  let s := s.restoreGen core ctx (w 0xC0) (w 0xB1)
  let old := s.contextBefore core ctx fresh
  if !fresh ∧ (old.st = .free ∨ old.stubFor.isSome) then s
  else
    let t : Thread := { old.ofImage w with stale := true, after := (s.tile (tileOf core)).starter.toList }
    let gone := t.st == .free && !t.reserved && t.stubFor.isNone
    let s := if gone && (Assoc.look (s.core core).ctxs ctx).isNone then s else s.setThread core ctx t
    if !fresh ∨ t.st = .free ∨ t.burst then s else s.liveUp (t.job.setWidth 32) 1

/-- The handler-read records of a tile's image (R305, R369): each read with its number, by what the save noted beside the image.  Of a tile that stayed SAVED, the bursts
that are open, and a cancelling, are those of now: threads that ended while they were SAVED have left the count (R307). -/
def State.imageReads (s : State) (tile : Nat) (fresh : Bool) : List (Nat × HRead) :=
  let noted := (Assoc.getD s.images (s.tile tile).image {}).reads
  (List.range 64).filterMap fun i =>
    let w := fun j => s.imageDword tile (0x400 + 128 * i + 8 * j)
    match w 8 % 4, noted[i]? with
    | 0, _ => none
    | st, some (r, h) =>
      let now := if fresh then h else Assoc.getD s.reads r h
      let draining := decide (st ≠ 1) || (!fresh && now.state == .draining)
      some (r, { now with
        desc := (List.range 8).map fun j => BitVec.ofNat 64 (w j), state := if draining then .draining else .streaming
        next := w 9, opened := if fresh then w 10 else now.opened, faulted := w 12, first := w 13 % 0x100000000, fcode := BitVec.ofNat 8 (w 13 / 0x100000000)
        cancelled := w 14 % 2 == 1 || (!fresh && now.cancelled) })
    | _, none => none

/-- The state with the handler reads of a tile's image in service again: reserved contexts and burst threads are theirs (R305). -/
def State.resumeReads (s : State) (tile : Nat) (fresh : Bool) : State :=
  let reads := s.imageReads tile fresh
  let s := { s with reads := s.reads.filter fun r => !((s.tileReads tile).any fun x => x.1 == r.1) }
  reads.foldl (fun s r =>
    let h := r.2
    let s :=
      if fresh then
        let c := s.core h.core
        let s := s.setCore h.core
          { c with granted := c.granted + 1
                   ctxs := Assoc.mapVals (fun x (t : Thread) => if h.contexts.contains x ∧ (t.reserved ∨ t.burst) then { t with read := some r.1 } else t) c.ctxs }
        s.liveUp h.who.job h.conc
      else s
    (s.setRead r.1 { h with saved := false }).notice (s.cycle + 1) .burstRequest { a := r.1 }) s

/-- The state after a context that a save stopped takes the state that R36 gives at TSTART: its recorded wait is tested again. -/
def State.resumeSaved (s : State) (core ctx : Nat) : State :=
  let p := Place.ctx core ctx
  let t := s.at p
  if t.st = .free ∨ !t.bySave then s
  else
    let n := t.name
    let s := s.startThread p false []
    let t := { s.at p with bySave := false }
    let s := s.setAt p t
    let s := if s.waitMet t.wait.act then (s.acquire core).completeAt p id else s
    let s := if t.st = .sleeping ∧ t.deadline ≠ 0 then s.notice (max (s.cycle + 1) t.deadline) .sleepTimeout { name := n } else s
    let s := match t.wait.act with | .again _ => s.wakeAt p | _ => s
    let s := if t.wait.act = .sleep ∧ t.w.toList.any (fun w => armed w && fired w) then s.wakeAt p else s
    s.settle n

/-- The state after a thread restored into a RESET tile asks the barrier of another package anew for the phase that it waits for (R262, R372). -/
def State.reawait (s : State) (core ctx : Nat) : State :=
  let p := Place.ctx core ctx
  let t := s.at p
  if t.wait.act ≠ .far then s
  else
    match s.checkWalk t.troot (t.job.setWidth 32) t.wait.a 16 true true with
    | (s, .ok x) =>
      let o := { s.originOf core t with ea := t.wait.a }
      (s.setAt p { t with wait := { t.wait with first := s.nextId } }).send (s.latency core x.pa / 2) (gpaPkg x.pa) o
        (.await (.barrier (gpaLocal x.pa) (t.wait.v.setWidth 4)) x.pa x.key false false)
    | (s, .fault code w4) => s.faultNamed t.name code t.wait.a w4 0
    | (s, .walk) => s

/-- The contexts of a tile: four cores of 256. -/
def tilePlaces (t : Nat) : List (Nat × Nat) := (List.range 4).flatMap fun c => (List.range 256).map fun i => (4 * t + c, i)

/-- The state with what the system area of a tile restored from RESET says (R37, R50): its blocks with live members are in use, and the deques hold as many entries as their
identity sets count, at the positions that the save noted. -/
def State.restoreArea (s : State) (t : Nat) : State :=
  let blocks := ((List.range 256).map (wcbAddr (4 * t))).filter fun a => decide (0 < s.waveLive a)
  let tops := (Assoc.getD s.images (s.tile t).image {}).deques
  (List.range 4).foldl (fun s c =>
    let n := ((List.range 16).map (s.identRefs (4 * t + c))).sum
    s.setCore (4 * t + c) { s.core (4 * t + c) with dequeTop := (tops.getD c (0, 0)).1, dequeCount := n, dequeAfter := List.replicate n none })
    { s with waves := s.waves.filter (fun a => tileAt a != some t) ++ blocks }

/-- R371, R372: the tile read back from the pages of its image: slots, accumulators, tables, the cores' registers, the contexts and the scratchpad; the tile is
LIVE. -/
def State.restoreTile (s : State) (t : Nat) : State :=
  let x := s.tile t
  let fresh := x.drained
  let marks := s.imageMarks t
  let job := BitVec.ofNat 32 (s.imageDword t 24)
  let x := { x with slots := s.imageSlots t marks, accs := s.imageAccs t marks, tables := s.imageTables t, drained := false
                    job := if fresh then job else x.job, assigned := x.assigned || fresh }
  let s := s.setTile t x
  let s := (List.range 4).foldl (fun s c =>
    s.setCore (4 * t + c)
      { s.core (4 * t + c) with quantum := s.imageDword t (0x240 + 16 * c), admcap := s.imageDword t (0x248 + 16 * c) }) s
  let s := (tilePlaces t).foldl (fun s p => s.restoreContext p.1 p.2 fresh) s
  let pad := fun i => let p := x.imagePlace (0x600000 + 0x10000 * i); s.cellsOf p.1 0x10000 p.2
  let s := { s with mem := (List.range 64).foldl (fun m i =>
    Memory.paste m (tileBase t + 0x10000 * i) (if i = 63 then 0xE000 else 0x10000) ((pad i).filter fun c => decide (i < 63 ∨ c.1 < 0xE000))) s.mem }
  let s := if fresh then s.restoreArea t else s
  (s.poisonPad t marks).setTileState t .live

/-- R372: what was saved goes on: the reads of the tile, and the threads that the save stopped. -/
def State.resumeTile (s : State) (t : Nat) (fresh : Bool) : State :=
  let s := (tilePlaces t).foldl (fun s p => s.resumeSaved p.1 p.2) (s.resumeReads t fresh)
  if fresh then (tilePlaces t).foldl (fun s p => s.reawait p.1 p.2) s else s

/-- RESTORE_COMPLETE (R372). -/
def execRestoreComplete (s : State) : Host.Outcome State Fault Refusal :=
  event s fun s =>
    let t := s.subject.a
    if (s.tile t).state ≠ .restoring then s else (s.restoreTile t).resumeTile t (s.tile t).drained

end Sys2Proof.Machine
end

