-- ==== Sys2Proof/Machine/Boot.lean ====
section
/-!
DEFINITION. Starting and restarting the package: the boot ROM (R414 to R417), failed starts and minimal mode (R419, R420), the root supervisor's
confirmation, management frames (R423) and resets (R424).
-/

namespace Sys2Proof.Machine

/-! ## The boot flash (R415, R416) -/

/-- Bytes of the boot flash. -/
def Health.flashBytes (h : Health) (a n : Nat) : List Byte := (addrs a n).map fun x => Memory.read h.flash x

/-- The flash offset of an image slot. -/
def slotPlace (slot : Nat) : Nat := if slot = 0 then 0x100000 else 0x2000000

/-- Bytes of an image slot. -/
def imageSlotBytes : Nat := 0x1F00000

/-- A field of n bytes of the header in a slot. -/
def Health.header (h : Health) (slot off n : Nat) : Nat := leValue (h.flashBytes (slotPlace slot + off) n)

/-- SIZE, LOADADDR and ENTRY of the header in a slot. -/
def Health.bodySize (h : Health) (slot : Nat) : Nat := h.header slot 8 8
def Health.loadAddr (h : Health) (slot : Nat) : Nat := h.header slot 16 8
def Health.entry (h : Health) (slot : Nat) : Nat := h.header slot 24 8

/-- VERSION of the header in a slot. -/
def Health.imageVersion (h : Health) (slot : Nat) : Nat := h.header slot 4 4

/-- The body of the image in a slot. -/
def Health.body (h : Health) (slot : Nat) : List Byte := h.flashBytes (slotPlace slot + 384) (h.bodySize slot)

/-- Whether a header verifies (R416): MAGIC, the limits, the zero fields, the digest of SIGNKEY, and SIGNATURE. -/
def Health.verifies (h : Health) (slot : Nat) : Bool :=
  h.header slot 0 4 == 0x4D49515A &&
  decide (h.anchor.minVersion.toNat ≤ h.imageVersion slot) &&
  decide (1 ≤ h.bodySize slot) && decide (h.bodySize slot ≤ imageSlotBytes - 384) &&
  h.loadAddr slot % 0x10000 == 0 && decide (h.loadAddr slot + h.bodySize slot ≤ 0xC000000000) &&
  h.entry slot % 4 == 0 && decide (h.entry slot < h.bodySize slot) &&
  h.header slot 153 7 == 0 && h.header slot 217 39 == 0 && h.header slot 370 14 == 0 &&
  shake256 32 (h.flashBytes (slotPlace slot + 96) 57) == Config.fusedDigest &&
  edVerify (asciiBytes "ZQ-960 BOOT") (h.flashBytes (slotPlace slot + 96) 57) (h.flashBytes (slotPlace slot) 256)
    (h.flashBytes (slotPlace slot + 256) 114)

/-- Whether DIGEST holds for the body of a slot. -/
def Health.digestHolds (h : Health) (slot : Nat) : Bool := shake256 64 (h.body slot) == h.flashBytes (slotPlace slot + 32) 64

/-- The slots whose headers verify, in the order in which the ROM tries them: the higher VERSION first, slot A on equal versions. -/
def Health.candidates (h : Health) : List Nat :=
  match h.verifies 0, h.verifies 1 with
  | true, true => if h.imageVersion 0 < h.imageVersion 1 then [1, 0] else [0, 1]
  | true, false => [0]
  | false, true => [1]
  | false, false => []

/-! ## Measurement (R417) -/

/-- A list of bytes cut or filled with zeros to a length. -/
def padTo (n : Nat) (bs : List Byte) : List Byte := (bs ++ List.replicate n 0).take n

/-- The 64 bytes of a measurement register. -/
def Health.mrBytes (h : Health) (i : Nat) : List Byte := leBytes 64 (h.mrs[i]?.getD 0).toNat

/-- A measurement register extended by a digest. -/
def Health.extend (h : Health) (i : Nat) (digest : List Byte) : Health :=
  { h with mrs := h.mrs.setIfInBounds i (BitVec.ofNat 512 (leValue (shake256 64 (h.mrBytes i ++ digest)))) }

/-! ## What a start keeps (R414, R419, R424) -/

/-- The state in which a start begins: everything at its reset value but Damask memory, the key slots where they survive, the flash and its anchor, the
counts that survive, and failed parts; what the outside world still brings keeps its distance in time. -/
def State.afterReset (s : State) (keepKeys : Bool) : State :=
  let h := s.health
  let lost : Assoc Core := s.cores.filterMap fun (c : Nat × Core) => if c.2.lost then some (c.1, { lost := true }) else none
  let health : Health :=
    { flash := h.flash, anchor := h.anchor, flashOk := h.flashOk, mirrorOn := h.mirrorOn, bootCount := h.bootCount, bootReasons := h.bootReasons
      keyed := h.keyed, starts := h.starts, spares := h.spares, failed := h.failed }
  { State.reset with
    inputs := s.inputs.map fun x => (x.1 - s.cycle, x.2)
    nextId := s.nextId, fresh := s.fresh, egress := s.egress
    mem := Memory.clear s.mem 0xC000000000 0x10000000000, sectors := s.sectors
    poison := s.poison.filter fun p => decide (p < 0xC000000000), slicePoison := s.slicePoison
    keys := if keepKeys then Assoc.mapVals (fun _ (k : KeySlot) => { k with clearing := none }) s.keys else []
    cores := lost, health := health }

/-- The state with the next start due. -/
def State.startAgain (s : State) : State := s.notice (s.cycle + 1) .powerGood { a := 1 }

/-- Reasons with a new one in front (R420). -/
def pushReason (r : BitVec 24) (n : Nat) : BitVec 24 := BitVec.ofNat 24 (r.toNat * 256 + n)

/-- The count that the package acts on: the larger of the two (R419). -/
def Health.startCount (h : Health) : Nat := max h.anchor.count h.bootCount

/-- Minimal mode (R419): the ROM's maintenance program runs as the root supervisor, thread 0 of job entry 0 in context 0 of core 0.  The spec gives no word of it: it stands
SLEEPING and does nothing but what the management frames ask (log 79). -/
def State.minimalMode (s : State) : State :=
  let s := s.modJob 0 fun _ => { valid := true, live := 1 }
  let (n, s) := s.takeName 0 0
  let s := s.setThread 0 0 { st := .sleeping, tid := n.setWidth 64 }
  { s with health := { s.health with rootName := n, power := .minimal } }

/-- The state after a failed start whose reason is recorded: minimal mode from the third on, another start before (R419). -/
def State.afterFailure (s : State) : State :=
  let s := s.afterReset true
  if 3 ≤ s.health.startCount then s.minimalMode else s.startAgain

/-- The state after a start fails past step 1 (R419, R420). -/
def State.failStart (s : State) (reason : Nat) : State :=
  let h := s.health
  let health : Health := { h with anchor := { h.anchor with reasons := pushReason h.anchor.reasons reason }, mirrorOn := false }
  ({ s with health := health }).afterFailure

/-- The state after a start fails within step 1: the always-on register counts it (R419). -/
def State.failFlash (s : State) : State :=
  let h := s.health
  let health : Health := { h with bootCount := h.bootCount + 1, bootReasons := pushReason h.bootReasons 1, mirrorOn := true }
  ({ s with health := health }).afterFailure

/-! ## Steps 4 to 6 of a start (R414) -/

/-- A key of four free values. -/
def freshKey (n : Nat) : BitVec 256 :=
  BitVec.ofNat 256 ((List.range 4).foldl (fun x i => x + (Config.freeValue (n + i)).toNat * 2 ^ (64 * i)) 0)

/-- The state with key slot 0 loaded with fresh keys and ANYJOB. -/
def State.loadKeys (s : State) : State :=
  { s with
    keys := Assoc.insert s.keys 0 { anyJob := true, valid := true, key1 := freshKey s.fresh, key2 := freshKey (s.fresh + 4) }
    fresh := s.fresh + 8, health := { s.health with keyed := true } }

/-- The first byte of the tables that the ROM builds, in the top 64 KiB of Damask memory. -/
def bootTables : Nat := 0xBFFFFF0000

/-- A leaf of the identity map with R, W and X (R375). -/
def bootLeaf (kind aper pa : Nat) : Nat := 1 + kind * 2 + 0x38 + aper * 0x40 + pa

/-- The entries of the identity map: a table's number, the index of an entry, and its value. -/
def bootEntries : List (Nat × Nat × Nat) :=
  [(0, 0, 1 + (bootTables + 0x2000)), (1, 56, 1 + (bootTables + 0x4000)), (1, 58, 1 + (bootTables + 0x6000))] ++
  ((List.range 48).map fun i => (1, i, bootLeaf 3 0 (i * 0x400000000))) ++
  ((List.range 4).map fun i => (1, 60 + i, bootLeaf 3 3 (0xF000000000 + i * 0x400000000))) ++
  ((List.range 20).map fun i => (2, i, bootLeaf 2 2 (0xE000000000 + i * 0x2000000))) ++
  ((List.range 2).map fun i => (3, i, bootLeaf 2 2 (0xE800000000 + i * 0x2000000)))

/-- The state with the identity map and the authority table in memory, over tables of zeros: nothing that stood there before is an entry. -/
def State.bootMaps (s : State) : State :=
  let s := s.deviceFill bootTables 0x10000 0 []
  let s := bootEntries.foldl (fun s e => s.putVal (bootTables + 0x2000 * e.1 + 16 * e.2.1) 16 0 e.2.2) s
  s.putVal (bootTables + 0x8000) 16 0 (31 * 2 ^ 112)

/-- The AUTH register of the root supervisor: the table, and COUNT 1 (R158). -/
def bootAuth : Dword := BitVec.ofNat 64 (bootTables + 0x8000 + 1)

/-- The state with the root supervisor created (step 6). -/
def State.createRoot (s : State) (pc : Nat) : State :=
  let t : Thread := { pc := BitVec.ofNat 64 pc, troot := BitVec.ofNat 64 bootTables, auth := bootAuth }
  let s := s.modJob 0 fun _ => { valid := true, live := 1 }
  let (n, s) := s.takeName 0 0
  let s := s.setThread 0 0 ({ t with tid := n.setWidth 64 }.toReady s.cycle)
  { s with health := { s.health with rootName := n, power := .running } }

/-! ## Failed parts and their spares (R425) -/

/-- The place of a part's spares in the count of spares in use, and how many there are: a core (kind 0), a slice (1) or a channel (2). -/
def sparesOf (kind part : Nat) : Nat × Option Nat :=
  match kind with
  | 0 => if part < 640 then (part / 160, some 8) else (8 + (part - 640) / 32, some 2)
  | 1 => (4 + part / 64, none)
  | _ => (8 + part / 32, some 2)

/-- Whether a part is one that a spare can replace: a lost core, or a slice or a channel found failed. -/
def State.partFailed (s : State) (kind part : Nat) : Bool :=
  if kind = 0 then decide (part < Config.allCores) && (s.core part).lost else s.health.failed.contains (kind, part)

/-- The state with a spare in the number of a failed part: it is in service again, and SPARED counts it; with no spare left, the part stays out of service.  The
contexts of a replaced core are FREE.  A failed channel's memory is copied to the spare; its sectors that cannot be read are marked by UNCORRECTABLE_ERROR. -/
def State.replacePart (s : State) (kind part : Nat) : State :=
  let (k, most) := sparesOf kind part
  let used := Assoc.getD s.health.spares k 0
  if !s.partFailed kind part || (match most with | some n => decide (n ≤ used) | none => false) then s
  else
    let h := s.health
    let s := { s with health :=
      { h with spares := Assoc.insert h.spares k (used + 1), spared := h.spared + 1, failed := h.failed.filter fun x => x != (kind, part) } }
    let core := if kind = 0 then some part else if kind = 2 then some (640 + part) else none
    match core with
    | some c => if (s.core c).lost then s.setCore c { s.core c with lost := false } else s
    | none => s

/-- The state after the self-test of a start, which replaces what has failed. -/
def State.selfTest (s : State) : State :=
  let parts := (s.cores.filterMap fun (c : Nat × Core) => if c.2.lost then some (0, c.1) else none) ++ s.health.failed
  parts.foldl (fun s x => s.replacePart x.1 x.2) s

/-- Cycles of 10 s, of 10 ms and of 30 ms. -/
def tenSeconds : Nat := 10 * Config.second
def heartbeatCycles : Nat := 13000000
def leaderCycles : Nat := 39000000

/-- The state with what a started package does at times due: the limit on STARTOK, heartbeats, the first election, and scrubs. -/
def State.schedule (s : State) : State :=
  ((((s.notice (s.cycle + tenSeconds) .startokTimeout { a := s.health.starts }).notice (s.cycle + heartbeatCycles) .heartbeatTimer {}).notice
    (s.cycle + leaderCycles) .leaderTimeout {}).notice (s.cycle + Config.second) .scrub { b := 1 }).notice
      (s.cycle + 86400 * Config.second) .scrub { b := 2 }

/-- The state after the ROM starts the image in a slot: steps 3 to 6, the self-test before the last (R425). -/
def State.startImage (s : State) (slot : Nat) : State :=
  let h := s.health
  let anchor := { h.anchor with
    slot := slot, version := BitVec.ofNat 32 (h.imageVersion slot), minVersion := BitVec.ofNat 32 (h.imageVersion slot)
    mgmtKey := h.flashBytes (slotPlace slot + 160) 57 }
  let h := ({ h with anchor := anchor, startOk := false }).extend 0 Config.romDigest
  let h := h.extend 1 (shake256 64 (h.flashBytes (slotPlace slot) 256))
  let h := h.extend 2 (h.flashBytes (slotPlace slot + 32) 64)
  let s := { s with health := h }
  let s := if h.keyed then s else s.loadKeys
  let s := (s.putBytes 0 (atAddrs (h.loadAddr slot) (h.body slot))).unpoison (addrs (h.loadAddr slot) (h.body slot).length)
  (s.bootMaps.selfTest.createRoot (h.loadAddr slot + h.entry slot)).schedule

/-- The state with the slot and VERSION last tried (R420). -/
def State.tried (s : State) (slot : Nat) : State :=
  let h := s.health
  { s with health := { h with anchor := { h.anchor with slot := slot, version := BitVec.ofNat 32 (h.imageVersion slot) } } }

/-- The state after steps 2 to 6: the verified slots in order, the first whose DIGEST holds. -/
def State.startSlots (s : State) : List Nat → State
  | [] => s.failStart 3
  | slot :: rest => if s.health.digestHolds slot then s.startImage slot else State.startSlots (s.tried slot) rest

/-- The state after a start by R414. -/
def State.start (s : State) : State :=
  let s := { s with health := { s.health with starts := s.health.starts + 1 } }
  if !s.health.flashOk then s.failFlash
  else
    let h := s.health
    let s := { s with health := { h with anchor := { h.anchor with count := h.anchor.count + 1 } } }
    match s.health.candidates with
    | [] => s.failStart 2
    | slots => s.startSlots slots

/-- POWER_GOOD (R414): the package starts from nothing but its flash; the event also brings the starts that follow a failed start or a reset, which
begin in the state that those leave (`a` = 1). -/
def execPowerGood (s : State) : Host.Outcome State Fault Refusal :=
  event s fun s =>
    if s.subject.a = 1 then (if s.health.power = .off then s.start else s)
    else
      let s := s.afterReset false
      let health : Health := { s.health with bootCount := 0, bootReasons := 0, mirrorOn := false, keyed := false }
      ({ s with health := health }).start

/-! ## STARTOK (R419) -/

/-- STARTOK_WRITE: a store of 1 confirms the start and clears the anchor's start counter. -/
def execStartokWrite (s : State) : Host.Outcome State Fault Refusal :=
  event s fun s => s.onRegister fun _ v m s =>
    let s := { s with health := { s.health with startokReg := BitVec.ofNat 64 v } }
    let h := s.health
    (if v = 1 then { s with health := { h with startOk := true, anchor := { h.anchor with count := 0 } } } else s).regDone m

/-- STARTOK_TIMEOUT: the start fails with reason 4. -/
def execStartokTimeout (s : State) : Host.Outcome State Fault Refusal :=
  event s fun s =>
    if s.health.power = .running ∧ !s.health.startOk ∧ s.health.starts = s.subject.a then s.failStart 4 else s

/-! ## Management frames (R423) -/

/-- The bytes of a frame that its signature covers. -/
def MgmtFrame.signed (f : MgmtFrame) : List Byte := dwordBytes [f.target % 2 ^ 19 + at' 24 f.kind, f.counter] ++ f.data

/-- Whether a frame is accepted. -/
def State.accepts (s : State) (f : MgmtFrame) : Bool :=
  f.target == s.pkg && decide (s.health.anchor.counter < f.counter) && decide (f.data.length ≤ 1024) &&
  edVerify (asciiBytes "ZQ-960 MGMT") s.health.anchor.mgmtKey f.signed f.signature

/-- The management frame that the subject names, with its message. -/
def State.frame? (s : State) : Option (Msg × MgmtFrame) :=
  (s.msg? s.subject.a).bind fun m => match m.body with | .mgmt x => some (m, x) | _ => none

/-- Run what an accepted frame that the subject names does; another is dropped and counted.  An accepted one raises the anchor's COUNTER. -/
def State.onFrame (s : State) (f : MgmtFrame → State → State) : State :=
  match s.frame? with
  | some (m, x) =>
    let s := s.drop m.id
    if !s.accepts x then s.modPort 0 fun p => { p with errors := countUp p.errors }
    else
      let h := s.health
      f x { s with health := { h with anchor := { h.anchor with counter := x.counter } } }
  | none => s

/-- The state after the reset record is written at RSTLINE (R424). -/
def State.resetRecord (s : State) (f : MgmtFrame) : State :=
  let bs := dwordBytes [f.kind, f.counter, s.cycle, s.cycle + 2 * Config.second]
  let a := s.health.rstline.toNat
  if a = 0 then s.applyBytes none 0 (atAddrs (lastResort 0) bs) else s.deviceWrite (gpa s.pkg a) 0 bs

/-- MGMT_RESET (R419, R424): the reset record is written, the start counter is cleared, and the reset is due in 2 s; while one is due, a further reset frame that would be
accepted is dropped with its COUNTER not consumed, and one that would not is counted as any other (R423). -/
def execMgmtReset (s : State) : Host.Outcome State Fault Refusal :=
  event s fun s =>
    if s.health.resetAt.isSome && (match s.frame? with | some (_, x) => s.accepts x | none => false) then s.drop s.subject.a
    else
      s.onFrame fun f s =>
        let s := s.resetRecord f
        let h := s.health
        let till := s.cycle + 2 * Config.second
        ({ s with health := { h with resetAt := some till, anchor := { h.anchor with count := 0 } } }).notice till .resetDeadline { a := till }

/-- RESETGO_WRITE (R424): a requested reset proceeds at once. -/
def execResetgoWrite (s : State) : Host.Outcome State Fault Refusal :=
  event s fun s => s.onRegister fun _ v m s =>
    let s := ({ s with health := { s.health with resetgoReg := BitVec.ofNat 64 v } }).regDone m
    match s.health.resetAt with
    | some till => if v = 1 then s.notice (s.cycle + 1) .resetDeadline { a := till } else s
    | none => s

/-- RESET_DEADLINE (R424): slices write back, Damask memory and the key slots keep their contents, everything else takes its reset value, and a start
follows. -/
def execResetDeadline (s : State) : Host.Outcome State Fault Refusal :=
  event s fun s => if s.health.resetAt = some s.subject.a then (s.afterReset true).startAgain else s

/-- MGMT_READ_FAILREC (R423): the failure record goes out to board management. -/
def execMgmtReadFailrec (s : State) : Host.Outcome State Fault Refusal :=
  event s fun s => s.onFrame fun _ s =>
    let r : Msg :=
      { id := s.nextId, due := s.cycle, origin := { pkg := s.pkg }, dst := s.pkg
        body := .data ((List.range 8).map fun i => (i, s.health.failrec i)) [] 0 }
    { s with nextId := s.nextId + 1, egress := s.egress ++ [r] }

/-- MGMT_FLASH_WRITE (R423): in minimal mode, the frame's data are written to an image slot. -/
def execMgmtFlashWrite (s : State) : Host.Outcome State Fault Refusal :=
  event s fun s =>
    if s.health.power ≠ .minimal then (s.drop s.subject.a).modPort 0 fun p => { p with errors := countUp p.errors }
    else
      s.onFrame fun f s =>
        let place := fun (i : Nat) => 0x100000 + (Config.flashPlace f.data + i) % (2 * imageSlotBytes)
        let flash := (f.data.zipIdx).foldl (fun (m : List Host.Cell) b => Memory.write m (place b.2) b.1) s.health.flash
        { s with health := { s.health with flash := flash } }

end Sys2Proof.Machine
end

