-- ==== Sys2Proof/Machine/Health.lean ====
section
/-!
DEFINITION. Health and observation: fault records (R355 to R358), lost cores and spares (R425, R426), storage errors (R427), quotes and measurement
(R417, R418), the election (R422), sampling (R428) and temperature (R430).
-/

namespace Sys2Proof.Machine

/-! ## Fault records (R355, R356, R358) -/

/-- The state after the root supervisor's record has reached a last-resort line: before STARTOK, the start fails with reason 5 (R419). -/
def State.rootFailed (s : State) (n : Name) : State :=
  if n = s.health.rootName ∧ !s.health.startOk ∧ s.health.power = .running then s.failStart 5 else s

/-- Word 0 of the record of a thread's fault (R356). -/
def PendingFault.word0 (f : PendingFault) (t : Thread) : Nat :=
  f.code.toNat + at' 17 (bit f.deferred) + at' 19 (bit (t.pfxst != 0))

/-- FAULT_RECORD (R355): once the thread's stores and reductions are acknowledged and its held stores gone, its record is written.  The event also follows a record of
the root supervisor to a last-resort line (`b` = 1), and goes on with the records of a core whose first waited for a walk (`b` = 2). -/
def execFaultRecord (s : State) : Host.Outcome State Fault Refusal :=
  event s fun s =>
    if s.subject.b = 1 then s.rootFailed s.subject.name
    else if s.subject.b = 2 then s.drainRecords s.subject.a
    else
    match s.whereIs s.subject.name with
    | none => s
    | some p =>
      let t := s.at p
      match t.pending with
      | none => s
      | some f =>
        if t.storeAck ≠ 0 ∨ t.redpend ≠ 0 ∨ t.bank.isSome then s
        else
          let core := s.coreAt p
          let s := s.setAt p { t with pending := none }
          let s := s.record core t.faultrec t.troot (t.job.setWidth 32) (f.word0 t) (f.recordPc.getD f.pc).toNat f.w2.toNat t.name.toNat
            f.w4.toNat f.w5.toNat f.raised
          s.settle t.name

/-! ## Lost cores and spares (R425, R426) -/

/-- The state after the thread in a context of a lost core is gone: its record, its requests in flight, and its end as R357 states. -/
def State.loseThread (s : State) (core ctx : Nat) : State :=
  let t := s.thread core ctx
  let n := t.name
  let s := s.record core t.faultrec t.troot (t.job.setWidth 32) (0x13 + nostopBit) 0 0 n.toNat (endpoint s.pkg core) 0
  let s := { s with flight := s.flight.filter fun m => m.origin.name != n || m.origin.pkg != s.pkg }
  let s := ((s.releaseSlots n).dropWatches n).forget core t
  let s := s.leaveAny core { t with flags := 0 }
  let s := if t.burst then s else s.liveDown (t.job.setWidth 32) 1
  (s.setThread core ctx Thread.idle).notice (s.cycle + 1) .stopComplete { name := n }

/-- The state with the origin stubs of a lost core in the name directory, and the roaming threads without them. -/
def State.loseStub (s : State) (core ctx : Nat) : State :=
  match (s.thread core ctx).stubFor with
  | none => s
  | some (n, ep, x) =>
    let s := (s.setThread core ctx Thread.idle).modNamed n fun t => { t with stub := none }
    if endpointPkg (nameEp n) = s.pkg then s.anchored n ep x none else s.tell core (endpointPkg (nameEp n)) n (.anchored ep x none)

/-- The state without the handler reads of a lost core: their reservations are given back. -/
def State.loseReads (s : State) (core : Nat) : State :=
  (s.reads.filter fun r => r.2.core == core).foldl (fun s r =>
    let s := { s with reads := Assoc.erase s.reads r.1 }
    if r.2.state = .reserving then s else s.liveDown r.2.who.job r.2.conc) s

/-- The state with the migrations on their way to a lost core given up (R413). -/
def State.loseArrivals (s : State) (core : Nat) : State :=
  (s.flight.filter fun m => m.dst == s.pkg && m.origin.pkg == s.pkg && (match m.body with | .migrate _ c _ => c == core | _ => false)).foldl
    (fun s m => s.giveUp m) s

/-- The generation counters of a core with those of some contexts raised by one (R426). -/
def Core.raiseGens (c : Core) (ctxs : List Nat) : Assoc (BitVec 17) :=
  ctxs.foldl (fun g x => Assoc.insert g x (Assoc.getD g x 0 + 1)) c.gens

/-- CORE_LOST (R425, R426): the core that the subject names is lost (`b` = 0), or a slice (1) or a channel (2) is found failed; a spare follows within 1 ms where one
is left. -/
def execCoreLost (s : State) : Host.Outcome State Fault Refusal :=
  event s fun s =>
    let core := s.subject.a
    let kind := s.subject.b
    if kind = 1 ∨ kind = 2 then
      let h := s.health
      if 256 ≤ core ∨ s.partFailed kind core then s
      else ({ s with health := { h with failed := h.failed ++ [(kind, core)] } }).notice (s.cycle + 1000000) .spareReplace { a := core, b := kind }
    else if kind ≠ 0 ∨ Config.allCores ≤ core ∨ (s.core core).lost then s
    else
      let ctxs := Assoc.keys (s.core core).ctxs
      let s := s.loseArrivals core
      let s := ctxs.foldl (fun s x => s.loseStub core x) s
      let live := ctxs.filter fun x => (s.thread core x).st != .free
      let s := (live.foldl (fun s x => s.loseThread core x) s).loseReads core
      let c := s.core core
      let kept : Core :=
        { gens := c.raiseGens live, namePtr := c.namePtr, quantum := c.quantum, admcap := c.admcap, breakpoints := c.breakpoints, breakStores := c.breakStores
          dequeTop := c.dequeTop, dequeCount := c.dequeCount, dequeAfter := c.dequeAfter, spillQueue := c.spillQueue, records := c.records
          lastResorts := c.lastResorts, l1Epoch := c.l1Epoch + 1, verdicts := c.verdicts, lost := true }
      (s.setCore core kept).notice (s.cycle + 1000000) .spareReplace { a := core }

/-- SPARE_REPLACE (R425): a spare takes the number of the failed part that the subject names, by its kind `b`; with none left, the part stays out of
service.  The sectors of a failed channel that cannot be read are marked by UNCORRECTABLE_ERROR. -/
def execSpareReplace (s : State) : Host.Outcome State Fault Refusal :=
  event s fun s =>
    s.replacePart s.subject.b s.subject.a

/-! ## Storage errors (R427) -/

/-- The state after an error in a context: the thread faults with POISON; held stores of a run-ahead are discarded. -/
def State.contextError (s : State) (core ctx : Nat) (index : Word) : State :=
  let t := s.thread core ctx
  if t.st = .free ∨ t.stubFor.isSome ∨ t.ending.isSome then s
  else
    let keep := match t.bank with | some b => b.committing | none => false
    let s := if keep then s else s.setThread core ctx { t with bank := none }
    s.faultAt (.ctx core ctx) { code := 0x14, pc := t.pc, w2 := 0, w4 := index.setWidth 64, w5 := 1 }

/-- The state after an error in a word of a core's L1: a clean word is fetched again, one with an unacknowledged store is poisoned at its home, here or on a peer. -/
def State.l1Error (s : State) (core w : Nat) : State :=
  let dirty := s.unackedAt core w
  let s := s.dropWords core [w]
  if dirty then s.poisonAt core (w * 4) else s

/-- UNCORRECTABLE_ERROR: the subject's `b` gives the kind of storage.  0 a context (256 × core + context in `a`, the state index in `word`); 1 an L1 or
instruction cache word (its global word number in `a`, the core in `word`); 2 memory (a local physical address in `a`); 3 operand memory (32 × tile +
slot in `a`, the granule in `word`); 4 accumulator memory (64 × tile + slot); 5 a slice or a scratchpad (a local physical address in `a`, of a granule of 8 bytes). -/
def execUncorrectableError (s : State) : Host.Outcome State Fault Refusal :=
  event s fun s =>
    let a := s.subject.a
    let w := s.subject.word
    let h := s.health
    let s := { s with health := { h with uncorrected := h.uncorrected + 1 } }
    match s.subject.b with
    | 0 => s.contextError (a / 256) (a % 256) w
    | 1 =>
      let s := s.l1Error w.toNat a
      let c := s.core w.toNat
      s.setCore w.toNat { c with icache := c.icache.filter fun x => x.1 != a / 64 }
    | 2 => s.markPoison a
    | 3 =>
      let t := s.tile (a / 32)
      let o := t.opSlot (a % 32)
      s.setTile (a / 32) (t.setOpSlot (a % 32) { o with poison := o.poison ++ [w.toNat % 4096] })
    | 5 => s.markHome a
    | 4 => s.setTile (a / 64) ((s.tile (a / 64)).modAcc (a % 64) fun x => { x with poison := x.poison ++ [w.toNat % 4096] })
    | _ => s

/-- SCRUB (R427): slices every second (`b` = 1), Damask memory every 24 hours (`b` = 2).  The errors that they and other reads correct, `a` of them, come from outside. -/
def execScrub (s : State) : Host.Outcome State Fault Refusal :=
  event s fun s =>
    let h := s.health
    let on := s.subject
    let s := { s with health := { h with corrected := h.corrected + BitVec.ofNat 64 on.a } }
    match on.b with
    | 1 => s.notice (s.cycle + Config.second) .scrub { b := 1 }
    | 2 => s.notice (s.cycle + 86400 * Config.second) .scrub { b := 2 }
    | _ => s

/-! ## Quotes and measurement (R417, R418) -/

/-- QUOTE_WRITE (R418): the nonce is read, and the quote follows in 2 ms; a store before the first quote is written is dropped.  A quote may run past the top of Damask
memory, where nothing takes its bytes: DESIGN CHOICE (log 113). -/
def execQuoteWrite (s : State) : Host.Outcome State Fault Refusal :=
  event s fun s => s.onRegister fun _ v m s =>
    let s := s.regDone m
    if s.health.quote.isSome ∨ v % 64 ≠ 0 ∨ 0xC000000000 ≤ v then s
    else
      let h := s.health
      ({ s with health := { h with quote := some v, quoteReg := BitVec.ofNat 64 v, nonce := s.bytes (v + 0x40) 64 0 } }).notice (s.cycle + 2 * heartbeatCycles / 10) .quoteDone { a := v }

/-- Every measurement register's bytes. -/
def Health.allMrs (h : Health) : List Byte := (List.range 8).flatMap h.mrBytes

/-- The 832 bytes of a quote. -/
def State.quoteBytes (s : State) : List Byte :=
  let h := s.health
  let seed := Config.identitySeed (h.allMrs.take 192)
  let body :=
    padTo 64 (dwordBytes [0x45544F51, s.pkg, h.anchor.count, s.cycle]) ++ padTo 64 h.nonce ++ h.allMrs ++
    padTo 64 (edPublic seed)
  body ++ padTo 128 (edSign seed (asciiBytes "ZQ-960 QUOTE") body)

/-- QUOTE_DONE (R418): the quote is one release write. -/
def execQuoteDone (s : State) : Host.Outcome State Fault Refusal :=
  event s fun s =>
    match s.health.quote with
    | some a =>
      if a ≠ s.subject.a then s
      else
        let bs := s.quoteBytes.take (0xC000000000 - a)
        ({ s with health := { s.health with quote := none } }).deviceWrite (gpa s.pkg a) 0 bs
    | none => s

/-- MREXT_WRITE (R417, R421): an index of 0 to 2 is dropped.  Bits [63:40] and [5:3], in no field, are ignored: DESIGN CHOICE (log 23). -/
def execMrextWrite (s : State) : Host.Outcome State Fault Refusal :=
  event s fun s => s.onRegister fun _ v m s =>
    let s := s.regDone m
    let a := v % 2 ^ 40 / 64 * 64
    if v % 8 < 3 ∨ 0xC000000000 ≤ a then s
    else { s with health := { s.health.extend (v % 8) (s.bytes a 64 0) with mrextReg := BitVec.ofNat 64 v } }

/-! ## The election (R422) -/

/-- HEARTBEAT_TIMER: every 10 ms, to every package of the domain that can be reached.  One that follows no leader names itself, and a bit of its own tells a leader's
heartbeat: DESIGN CHOICE (log 112). -/
def execHeartbeatTimer (s : State) : Host.Outcome State Fault Refusal :=
  event s fun s =>
    if s.health.power ≠ .running then s
    else
      let h := s.health
      let base := domainOf s.pkg * 4096
      let s := (List.range 4096).foldl (fun s i =>
        let dst := base + i
        if dst ≠ s.pkg ∧ s.reachable 0 dst then
          s.postOut dst { pkg := s.pkg } (.heartbeat s.pkg h.term.toNat (if h.settled then h.leader else s.pkg) h.isLeader)
        else s) s
      s.notice (s.cycle + heartbeatCycles) .heartbeatTimer {}

/-- Whether one leader wins over another: the higher term, then the lower package number. -/
def leaderWins (term pkg term' pkg' : Nat) : Bool := decide (term' < term) || (term == term' && decide (pkg < pkg'))

/-- HEARTBEAT: what a package hears of another. -/
def execHeartbeat (s : State) : Host.Outcome State Fault Refusal :=
  event s fun s =>
    match s.msg? s.subject.a with
    | some m =>
      match m.body with
      | .heartbeat pkg term _ isLeader =>
        s.once m fun s =>
        let s := s.answer 1 m (.ack true [] [] 0)
        if s.health.power ≠ .running ∨ domainOf pkg ≠ domainOf s.pkg then s
        else
          let h := s.health
          let h : Health := { h with maxTerm := BitVec.ofNat 32 (max h.maxTerm.toNat term), heardLower := if pkg < s.pkg then some s.cycle else h.heardLower }
          let follow := isLeader &&
            (if h.settled then h.leader == pkg && !h.isLeader || leaderWins term pkg h.term.toNat h.leader else true)
          let h : Health :=
            if follow then { h with isLeader := false, settled := true, leader := pkg, term := BitVec.ofNat 32 term, heardLeader := s.cycle } else h
          ({ s with health := h }).notice (s.cycle + leaderCycles) .leaderTimeout {}
      | _ => s
    | none => s

/-- LEADER_TIMEOUT: 30 ms without a leader; the package stands, unless it has heard a lower number in that time. -/
def execLeaderTimeout (s : State) : Host.Outcome State Fault Refusal :=
  event s fun s =>
    let h := s.health
    if h.power ≠ .running ∨ h.isLeader ∨ s.cycle < h.heardLeader + leaderCycles then s
    else
      let lower := match h.heardLower with | some c => decide (s.cycle < c + leaderCycles) | none => false
      if lower then { s with health := { h with settled := false } }
      else
        { s with health :=
          { h with isLeader := true, settled := true, leader := s.pkg, term := h.maxTerm + 1, maxTerm := h.maxTerm + 1 } }

/-! ## Sampling (R428) -/

/-- SAMPLE_WRITE: the pulse is armed; a cycle that has passed fires at the next one. -/
def execSampleWrite (s : State) : Host.Outcome State Fault Refusal :=
  event s fun s => s.onRegister fun _ v m s =>
    let s := s.regDone m
    let h := s.health
    ({ s with health := { h with sample := BitVec.ofNat 64 v, sampleArmed := true } }).notice (max (s.cycle + 1) v) .samplePulse { a := v }

/-- The thread at a position of a core, with its context. -/
def Core.atPosition (c : Core) (p : Nat) : Option (Nat × Thread) := c.ctxs.find? fun x => x.2.pos == some p

/-- POS of a position. -/
def Core.posDword (c : Core) (p : Nat) : Nat :=
  match c.atPosition p with
  | some (x, t) => at' 56 x + at' 52 (if t.st = .bound then 2 else 8) + t.looped.pc.toNat % 2 ^ 52 / 4 * 4
  | none => 0

/-- The TAG of a position. -/
def Core.tagByte (c : Core) (p : Nat) : Nat :=
  match c.atPosition p with
  | some (_, t) => if t.phint then (t.hintPayload.extractLsb' 1 8).toNat else t.lastTag.toNat
  | none => 0

/-- The 24 dwords of a core's snapshot record. -/
def State.snapshotRecord (s : State) (core n : Nat) : List Nat :=
  let c := s.core core
  let tags := fun lo => (List.range 8).foldl (fun x i => x + at' (8 * i) (c.tagByte (lo + i))) 0
  [s.health.sample.toNat, n % 2 ^ 32 + at' 32 (endpoint s.pkg core)] ++ (List.range 16).map c.posDword ++ [tags 0, tags 8, 0, 0, 0, 0]

/-- SAMPLE_PULSE: every core writes its record; PULSES rises. -/
def execSamplePulse (s : State) : Host.Outcome State Fault Refusal :=
  event s fun s =>
    let h := s.health
    if !h.sampleArmed ∨ h.sample.toNat ≠ s.subject.a then s
    else
      let n := h.pulses.toNat
      let base := h.trbase.toNat
      let size := h.trsize.toNat
      let recs := (List.range Config.allCores).map fun i => (base + 192 * ((896 * n + i) % size), dwordBytes (s.snapshotRecord i n))
      let s := { s with health := { h with sampleArmed := false, pulses := h.pulses + 1 } }
      if base = 0 ∨ size = 0 then s
      else recs.foldl (fun s r => if r.1 + 192 ≤ 0xC000000000 then s.deviceWrite (gpa s.pkg r.1) 0 r.2 else s) s

/-! ## Temperature (R430) -/

/-- OVERTEMP_ALERT: board management is told of the die. -/
def execOvertempAlert (s : State) : Host.Outcome State Fault Refusal :=
  event s fun s =>
    let h := s.health
    if 12 ≤ s.subject.a ∨ h.alerts.contains s.subject.a then s else { s with health := { h with alerts := h.alerts ++ [s.subject.a] } }

/-- OVERTEMP_SHUTDOWN: reason 6 is recorded and the dies are powered off. -/
def execOvertempShutdown (s : State) : Host.Outcome State Fault Refusal :=
  event s fun s =>
    let h := s.health
    { s with health := { h with anchor := { h.anchor with reasons := pushReason h.anchor.reasons 6 }, mirrorOn := false, power := .shutdown } }

end Sys2Proof.Machine
end

