-- ==== Sys2Proof/Machine/Scalar.lean ====
section
/-!
DEFINITION. The integer instructions: IALU (R183), immediates (R184), shifts by immediate (R185) and constants (R186), by the arithmetic of R99.
-/

namespace Sys2Proof.Machine

/-! ## Arithmetic (R99) -/

/-- Signed quotient: all ones by zero; the dividend for the most negative value by −1. -/
def quot {n : Nat} (a b : BitVec n) : BitVec n := if b = 0 then -1 else a.sdiv b
/-- Unsigned quotient: all ones by zero. -/
def quotU {n : Nat} (a b : BitVec n) : BitVec n := if b = 0 then -1 else a / b
/-- Signed remainder, with the sign of the dividend: the dividend by zero. -/
def remS {n : Nat} (a b : BitVec n) : BitVec n := if b = 0 then a else a.srem b
/-- Unsigned remainder: the dividend by zero. -/
def remU {n : Nat} (a b : BitVec n) : BitVec n := if b = 0 then a else a % b
/-- High half of the signed product. -/
def mulHi {n : Nat} (a b : BitVec n) : BitVec n := BitVec.ofInt n (a.toInt * b.toInt / 2 ^ n)
/-- High half of the unsigned product. -/
def mulHiU {n : Nat} (a b : BitVec n) : BitVec n := BitVec.ofNat n (a.toNat * b.toNat / 2 ^ n)

/-- The shift amount of an operand: its low bits for the width (R99). -/
def shiftAmount {n : Nat} (b : BitVec n) : Nat := b.toNat % n

/-- Leading zero bits among the low n bits. -/
def leadingZeros (x : Dword) : Nat → Nat
  | 0 => 0
  | n + 1 => if x.getLsbD n then 0 else 1 + leadingZeros x n

/-- Trailing zero bits from bit k up, among n bits. -/
def trailingZeros (x : Dword) : Nat → Nat → Nat
  | 0, _ => 0
  | n + 1, k => if x.getLsbD k then 0 else 1 + trailingZeros x n (k + 1)

/-- Number of one bits. -/
def oneBits (x : Dword) : Nat := ((List.range 64).filter fun i => x.getLsbD i).length

/-- The bytes in reverse order. -/
def byteSwap (x : Dword) : Dword :=
  x.extractLsb' 0 8 ++ x.extractLsb' 8 8 ++ x.extractLsb' 16 8 ++ x.extractLsb' 24 8 ++
  x.extractLsb' 32 8 ++ x.extractLsb' 40 8 ++ x.extractLsb' 48 8 ++ x.extractLsb' 56 8

/-- 1 or 0. -/
def flag01 (c : Bool) : Dword := if c then 1 else 0

/-- An operation in its 64-bit form, or in its .w form: on bits [31:0] of the operands, the 32-bit result sign-extended (R99, R183). -/
def sized (w : Bool) (f : {n : Nat} → BitVec n → BitVec n → BitVec n) (a b : Dword) : Dword :=
  if w then (f (a.setWidth 32) (b.setWidth 32)).signExtend 64 else f a b

/-- Issue a two-source integer operation that writes gd. -/
def alu (d a b : GReg) (s : State) (f : Dword → Dword → Dword) : Host.Outcome State Fault Refusal :=
  issue {} [d, a, b] s fun s => s.result d (f (s.rg a) (s.rg b))

/-- Issue a one-source integer operation that writes gd. -/
def alu1 (d a : GReg) (s : State) (f : Dword → Dword) : Host.Outcome State Fault Refusal :=
  issue {} [d, a] s fun s => s.result d (f (s.rg a))

/-- Issue an integer operation with an immediate that PFX.IMM may widen (R184). -/
def aluImm (d a : GReg) (i : BitVec 16) (s : State) (f : Dword → Dword → Dword) : Host.Outcome State Fault Refusal :=
  issue { imm := true } [d, a] s fun s => s.result d (f (s.rg a) (s.cur.imm16 i))

/-! ## IALU (R183) -/

def execAdd (d a b : GReg) (w : Bool) (s : State) : Host.Outcome State Fault Refusal := alu d a b s (sized w fun x y => x + y)
def execSub (d a b : GReg) (w : Bool) (s : State) : Host.Outcome State Fault Refusal := alu d a b s (sized w fun x y => x - y)
def execAndg (d a b : GReg) (s : State) : Host.Outcome State Fault Refusal := alu d a b s fun x y => x &&& y
def execOrg (d a b : GReg) (s : State) : Host.Outcome State Fault Refusal := alu d a b s fun x y => x ||| y
def execXorg (d a b : GReg) (s : State) : Host.Outcome State Fault Refusal := alu d a b s fun x y => x ^^^ y
def execAndn (d a b : GReg) (s : State) : Host.Outcome State Fault Refusal := alu d a b s fun x y => x &&& ~~~y
def execOrn (d a b : GReg) (s : State) : Host.Outcome State Fault Refusal := alu d a b s fun x y => x ||| ~~~y
def execSll (d a b : GReg) (w : Bool) (s : State) : Host.Outcome State Fault Refusal :=
  alu d a b s (sized w fun x y => x <<< shiftAmount y)
def execSrl (d a b : GReg) (w : Bool) (s : State) : Host.Outcome State Fault Refusal :=
  alu d a b s (sized w fun x y => x >>> shiftAmount y)
def execSra (d a b : GReg) (w : Bool) (s : State) : Host.Outcome State Fault Refusal :=
  alu d a b s (sized w fun x y => x.sshiftRight (shiftAmount y))
def execRol (d a b : GReg) (w : Bool) (s : State) : Host.Outcome State Fault Refusal :=
  alu d a b s (sized w fun x y => x.rotateLeft (shiftAmount y))
def execMul (d a b : GReg) (w : Bool) (s : State) : Host.Outcome State Fault Refusal := alu d a b s (sized w fun x y => x * y)
def execMulh (d a b : GReg) (w : Bool) (s : State) : Host.Outcome State Fault Refusal := alu d a b s (sized w mulHi)
def execMulhu (d a b : GReg) (w : Bool) (s : State) : Host.Outcome State Fault Refusal := alu d a b s (sized w mulHiU)
def execDiv (d a b : GReg) (w : Bool) (s : State) : Host.Outcome State Fault Refusal := alu d a b s (sized w quot)
def execDivu (d a b : GReg) (w : Bool) (s : State) : Host.Outcome State Fault Refusal := alu d a b s (sized w quotU)
def execRem (d a b : GReg) (w : Bool) (s : State) : Host.Outcome State Fault Refusal := alu d a b s (sized w remS)
def execRemu (d a b : GReg) (w : Bool) (s : State) : Host.Outcome State Fault Refusal := alu d a b s (sized w remU)
def execMin (d a b : GReg) (s : State) : Host.Outcome State Fault Refusal := alu d a b s fun x y => if y.slt x then y else x
def execMax (d a b : GReg) (s : State) : Host.Outcome State Fault Refusal := alu d a b s fun x y => if x.slt y then y else x
def execMinu (d a b : GReg) (s : State) : Host.Outcome State Fault Refusal := alu d a b s fun x y => if y.ult x then y else x
def execMaxu (d a b : GReg) (s : State) : Host.Outcome State Fault Refusal := alu d a b s fun x y => if x.ult y then y else x
def execSlt (d a b : GReg) (s : State) : Host.Outcome State Fault Refusal := alu d a b s fun x y => flag01 (x.slt y)
def execSltu (d a b : GReg) (s : State) : Host.Outcome State Fault Refusal := alu d a b s fun x y => flag01 (x.ult y)
def execSeq (d a b : GReg) (s : State) : Host.Outcome State Fault Refusal := alu d a b s fun x y => flag01 (x == y)
def execSne (d a b : GReg) (s : State) : Host.Outcome State Fault Refusal := alu d a b s fun x y => flag01 (x != y)
def execCmovz (d a b : GReg) (s : State) : Host.Outcome State Fault Refusal :=
  alu d a b s fun x y => if y = 0 then x else s.rg d
def execCmovnz (d a b : GReg) (s : State) : Host.Outcome State Fault Refusal :=
  alu d a b s fun x y => if y = 0 then s.rg d else x
def execClz (d a : GReg) (s : State) : Host.Outcome State Fault Refusal := alu1 d a s fun x => BitVec.ofNat 64 (leadingZeros x 64)
def execCtz (d a : GReg) (s : State) : Host.Outcome State Fault Refusal := alu1 d a s fun x => BitVec.ofNat 64 (trailingZeros x 64 0)
def execPopc (d a : GReg) (s : State) : Host.Outcome State Fault Refusal := alu1 d a s fun x => BitVec.ofNat 64 (oneBits x)
def execBswap (d a : GReg) (s : State) : Host.Outcome State Fault Refusal := alu1 d a s byteSwap
def execLea (d a b : GReg) (sh : BitVec 3) (s : State) : Host.Outcome State Fault Refusal :=
  alu d a b s fun x y => x + (y <<< sh.toNat)

/-! ## Immediates (R184) -/

def execAddi (d a : GReg) (i : BitVec 16) (s : State) : Host.Outcome State Fault Refusal := aluImm d a i s fun x y => x + y
def execAndi (d a : GReg) (i : BitVec 16) (s : State) : Host.Outcome State Fault Refusal := aluImm d a i s fun x y => x &&& y
def execOri (d a : GReg) (i : BitVec 16) (s : State) : Host.Outcome State Fault Refusal := aluImm d a i s fun x y => x ||| y
def execXori (d a : GReg) (i : BitVec 16) (s : State) : Host.Outcome State Fault Refusal := aluImm d a i s fun x y => x ^^^ y
def execSlti (d a : GReg) (i : BitVec 16) (s : State) : Host.Outcome State Fault Refusal := aluImm d a i s fun x y => flag01 (x.slt y)

/-! ## Shifts by immediate (R185) -/

/-- The shift of a width by an immediate amount. -/
def execSlli (d a : GReg) (w : Bool) (n : BitVec 6) (s : State) : Host.Outcome State Fault Refusal :=
  alu1 d a s fun x => sized w (fun x y => x <<< shiftAmount y) x (n.setWidth 64)
def execSrli (d a : GReg) (w : Bool) (n : BitVec 6) (s : State) : Host.Outcome State Fault Refusal :=
  alu1 d a s fun x => sized w (fun x y => x >>> shiftAmount y) x (n.setWidth 64)
def execSrai (d a : GReg) (w : Bool) (n : BitVec 6) (s : State) : Host.Outcome State Fault Refusal :=
  alu1 d a s fun x => sized w (fun x y => x.sshiftRight (shiftAmount y)) x (n.setWidth 64)
def execRoli (d a : GReg) (w : Bool) (n : BitVec 6) (s : State) : Host.Outcome State Fault Refusal :=
  alu1 d a s fun x => sized w (fun x y => x.rotateLeft (shiftAmount y)) x (n.setWidth 64)

/-! ## Constants (R186) -/

def execMovi (d : GReg) (i : BitVec 21) (s : State) : Host.Outcome State Fault Refusal :=
  issue { imm := true } [d] s fun s => s.result d (s.cur.imm21 i)
def execMovhi (d : GReg) (i : BitVec 21) (s : State) : Host.Outcome State Fault Refusal :=
  issue {} [d] s fun s => s.result d (i ++ (s.rg d).extractLsb' 0 43)
def execAddpc (d : GReg) (i : BitVec 21) (s : State) : Host.Outcome State Fault Refusal :=
  issue { imm := true } [d] s fun s => s.result d (s.cur.pc + 4 * s.cur.imm21 i)

end Sys2Proof.Machine
end

