-- ==== Sys2Proof/Machine/Dispatch.lean ====
section
/-! DEFINITION. The dispatch: one arm for every row of the opcode table, each a call of that row's meaning. -/

namespace Sys2Proof.Machine

def exec (i : Instr) (s : State) : Host.Outcome State Fault Refusal :=
  match i with
  | .add d a b w => Sys2Proof.Machine.execAdd d a b w s
  | .sub d a b w => Sys2Proof.Machine.execSub d a b w s
  | .andg d a b => Sys2Proof.Machine.execAndg d a b s
  | .org d a b => Sys2Proof.Machine.execOrg d a b s
  | .xorg d a b => Sys2Proof.Machine.execXorg d a b s
  | .andn d a b => Sys2Proof.Machine.execAndn d a b s
  | .orn d a b => Sys2Proof.Machine.execOrn d a b s
  | .sll d a b w => Sys2Proof.Machine.execSll d a b w s
  | .srl d a b w => Sys2Proof.Machine.execSrl d a b w s
  | .sra d a b w => Sys2Proof.Machine.execSra d a b w s
  | .rol d a b w => Sys2Proof.Machine.execRol d a b w s
  | .mul d a b w => Sys2Proof.Machine.execMul d a b w s
  | .mulh d a b w => Sys2Proof.Machine.execMulh d a b w s
  | .mulhu d a b w => Sys2Proof.Machine.execMulhu d a b w s
  | .div d a b w => Sys2Proof.Machine.execDiv d a b w s
  | .divu d a b w => Sys2Proof.Machine.execDivu d a b w s
  | .rem d a b w => Sys2Proof.Machine.execRem d a b w s
  | .remu d a b w => Sys2Proof.Machine.execRemu d a b w s
  | .min d a b => Sys2Proof.Machine.execMin d a b s
  | .max d a b => Sys2Proof.Machine.execMax d a b s
  | .minu d a b => Sys2Proof.Machine.execMinu d a b s
  | .maxu d a b => Sys2Proof.Machine.execMaxu d a b s
  | .slt d a b => Sys2Proof.Machine.execSlt d a b s
  | .sltu d a b => Sys2Proof.Machine.execSltu d a b s
  | .seq d a b => Sys2Proof.Machine.execSeq d a b s
  | .sne d a b => Sys2Proof.Machine.execSne d a b s
  | .cmovz d a b => Sys2Proof.Machine.execCmovz d a b s
  | .cmovnz d a b => Sys2Proof.Machine.execCmovnz d a b s
  | .clz d a => Sys2Proof.Machine.execClz d a s
  | .ctz d a => Sys2Proof.Machine.execCtz d a s
  | .popc d a => Sys2Proof.Machine.execPopc d a s
  | .bswap d a => Sys2Proof.Machine.execBswap d a s
  | .lea d a b sh => Sys2Proof.Machine.execLea d a b sh s
  | .addi d a imm => Sys2Proof.Machine.execAddi d a imm s
  | .andi d a imm => Sys2Proof.Machine.execAndi d a imm s
  | .ori d a imm => Sys2Proof.Machine.execOri d a imm s
  | .xori d a imm => Sys2Proof.Machine.execXori d a imm s
  | .slti d a imm => Sys2Proof.Machine.execSlti d a imm s
  | .slli d a w n => Sys2Proof.Machine.execSlli d a w n s
  | .srli d a w n => Sys2Proof.Machine.execSrli d a w n s
  | .srai d a w n => Sys2Proof.Machine.execSrai d a w n s
  | .roli d a w n => Sys2Proof.Machine.execRoli d a w n s
  | .movi d imm => Sys2Proof.Machine.execMovi d imm s
  | .movhi d imm => Sys2Proof.Machine.execMovhi d imm s
  | .addpc d imm => Sys2Proof.Machine.execAddpc d imm s
  | .bcEqz a imm => Sys2Proof.Machine.execBcEqz a imm s
  | .bcNez a imm => Sys2Proof.Machine.execBcNez a imm s
  | .bcLtz a imm => Sys2Proof.Machine.execBcLtz a imm s
  | .bcGez a imm => Sys2Proof.Machine.execBcGez a imm s
  | .bcGtz a imm => Sys2Proof.Machine.execBcGtz a imm s
  | .bcLez a imm => Sys2Proof.Machine.execBcLez a imm s
  | .jl d imm => Sys2Proof.Machine.execJl d imm s
  | .prep k imm => Sys2Proof.Machine.execPrep k imm s
  | .jr a => Sys2Proof.Machine.execJr a s
  | .jlr d a => Sys2Proof.Machine.execJlr d a s
  | .jb k => Sys2Proof.Machine.execJb k s
  | .jbl d k => Sys2Proof.Machine.execJbl d k s
  | .bcb c a k => Sys2Proof.Machine.execBcb c a k s
  | .prepr a k => Sys2Proof.Machine.execPrepr a k s
  | .loop a n => Sys2Proof.Machine.execLoop a n s
  | .loopi c n => Sys2Proof.Machine.execLoopi c n s
  | .spawn d k => Sys2Proof.Machine.execSpawn d k s
  | .spawnn d a k => Sys2Proof.Machine.execSpawnn d a k s
  | .fork k => Sys2Proof.Machine.execFork k s
  | .join a => Sys2Proof.Machine.execJoin a s
  | .callat d a k => Sys2Proof.Machine.execCallat d a k s
  | .reply a b => Sys2Proof.Machine.execReply a b s
  | .endT a e => Sys2Proof.Machine.execEndT a e s
  | .gohome a => Sys2Proof.Machine.execGohome a s
  | .launch a => Sys2Proof.Machine.execLaunch a s
  | .cancel a => Sys2Proof.Machine.execCancel a s
  | .srd d n => Sys2Proof.Machine.execSrd d n s
  | .swr a n => Sys2Proof.Machine.execSwr a n s
  | .srset a n => Sys2Proof.Machine.execSrset a n s
  | .srclr a n => Sys2Proof.Machine.execSrclr a n s
  | .ldB d a o => Sys2Proof.Machine.execLdB d a o s
  | .ldBn d a o => Sys2Proof.Machine.execLdBn d a o s
  | .ldH d a o => Sys2Proof.Machine.execLdH d a o s
  | .ldHn d a o => Sys2Proof.Machine.execLdHn d a o s
  | .ldW d a o => Sys2Proof.Machine.execLdW d a o s
  | .ldWn d a o => Sys2Proof.Machine.execLdWn d a o s
  | .ldD d a o => Sys2Proof.Machine.execLdD d a o s
  | .stB d a o => Sys2Proof.Machine.execStB d a o s
  | .stH d a o => Sys2Proof.Machine.execStH d a o s
  | .stW d a o => Sys2Proof.Machine.execStW d a o s
  | .stD d a o => Sys2Proof.Machine.execStD d a o s
  | .ldxB d a b sh => Sys2Proof.Machine.execLdxB d a b sh s
  | .ldxBn d a b sh => Sys2Proof.Machine.execLdxBn d a b sh s
  | .ldxH d a b sh => Sys2Proof.Machine.execLdxH d a b sh s
  | .ldxHn d a b sh => Sys2Proof.Machine.execLdxHn d a b sh s
  | .ldxW d a b sh => Sys2Proof.Machine.execLdxW d a b sh s
  | .ldxWn d a b sh => Sys2Proof.Machine.execLdxWn d a b sh s
  | .ldxD d a b sh => Sys2Proof.Machine.execLdxD d a b sh s
  | .stxB d a b sh => Sys2Proof.Machine.execStxB d a b sh s
  | .stxH d a b sh => Sys2Proof.Machine.execStxH d a b sh s
  | .stxW d a b sh => Sys2Proof.Machine.execStxW d a b sh s
  | .stxD d a b sh => Sys2Proof.Machine.execStxD d a b sh s
  | .ldAcqW d a b sh => Sys2Proof.Machine.execLdAcqW d a b sh s
  | .ldAcqWn d a b sh => Sys2Proof.Machine.execLdAcqWn d a b sh s
  | .ldAcqD d a b sh => Sys2Proof.Machine.execLdAcqD d a b sh s
  | .stRelW d a b sh => Sys2Proof.Machine.execStRelW d a b sh s
  | .stRelD d a b sh => Sys2Proof.Machine.execStRelD d a b sh s
  | .vld v a b k => Sys2Proof.Machine.execVld v a b k s
  | .vst v a b k => Sys2Proof.Machine.execVst v a b k s
  | .vlds v a b e k => Sys2Proof.Machine.execVlds v a b e k s
  | .vsts v a b e k => Sys2Proof.Machine.execVsts v a b e k s
  | .vgather v a x e k => Sys2Proof.Machine.execVgather v a x e k s
  | .vscatter v a x e k => Sys2Proof.Machine.execVscatter v a x e k s
  | .vbcld v a b e => Sys2Proof.Machine.execVbcld v a b e s
  | .amoAdd d a b o sh => Sys2Proof.Machine.execAmoAdd d a b o sh s
  | .amoAnd d a b o sh => Sys2Proof.Machine.execAmoAnd d a b o sh s
  | .amoOr d a b o sh => Sys2Proof.Machine.execAmoOr d a b o sh s
  | .amoXor d a b o sh => Sys2Proof.Machine.execAmoXor d a b o sh s
  | .amoMin d a b o sh => Sys2Proof.Machine.execAmoMin d a b o sh s
  | .amoMax d a b o sh => Sys2Proof.Machine.execAmoMax d a b o sh s
  | .amoMinu d a b o sh => Sys2Proof.Machine.execAmoMinu d a b o sh s
  | .amoMaxu d a b o sh => Sys2Proof.Machine.execAmoMaxu d a b o sh s
  | .amoSwap d a b o sh => Sys2Proof.Machine.execAmoSwap d a b o sh s
  | .amoCas d a b o sh => Sys2Proof.Machine.execAmoCas d a b o sh s
  | .amoFadd d a b o sh => Sys2Proof.Machine.execAmoFadd d a b o sh s
  | .amoFmin d a b o sh => Sys2Proof.Machine.execAmoFmin d a b o sh s
  | .amoFmax d a b o sh => Sys2Proof.Machine.execAmoFmax d a b o sh s
  | .redAdd a b o sh => Sys2Proof.Machine.execRedAdd a b o sh s
  | .redAnd a b o sh => Sys2Proof.Machine.execRedAnd a b o sh s
  | .redOr a b o sh => Sys2Proof.Machine.execRedOr a b o sh s
  | .redXor a b o sh => Sys2Proof.Machine.execRedXor a b o sh s
  | .redMin a b o sh => Sys2Proof.Machine.execRedMin a b o sh s
  | .redMax a b o sh => Sys2Proof.Machine.execRedMax a b o sh s
  | .redMinu a b o sh => Sys2Proof.Machine.execRedMinu a b o sh s
  | .redMaxu a b o sh => Sys2Proof.Machine.execRedMaxu a b o sh s
  | .redFadd a b o sh => Sys2Proof.Machine.execRedFadd a b o sh s
  | .redFmin a b o sh => Sys2Proof.Machine.execRedFmin a b o sh s
  | .redFmax a b o sh => Sys2Proof.Machine.execRedFmax a b o sh s
  | .watch w a m => Sys2Proof.Machine.execWatch w a m s
  | .unwatch w => Sys2Proof.Machine.execUnwatch w s
  | .sleep a => Sys2Proof.Machine.execSleep a s
  | .wfired d => Sys2Proof.Machine.execWfired d s
  | .tmarm a b => Sys2Proof.Machine.execTmarm a b s
  | .tbinit a b => Sys2Proof.Machine.execTbinit a b s
  | .tbexpect a b => Sys2Proof.Machine.execTbexpect a b s
  | .tbarrive a => Sys2Proof.Machine.execTbarrive a s
  | .tbwait a p => Sys2Proof.Machine.execTbwait a p s
  | .mbadd a b => Sys2Proof.Machine.execMbadd a b s
  | .mbrd a c => Sys2Proof.Machine.execMbrd a c s
  | .mbwait a b => Sys2Proof.Machine.execMbwait a b s
  | .tktake a c => Sys2Proof.Machine.execTktake a c s
  | .tkwait a b => Sys2Proof.Machine.execTkwait a b s
  | .vadd d a b k t => Sys2Proof.Machine.execVadd d a b k t s
  | .vsub d a b k t => Sys2Proof.Machine.execVsub d a b k t s
  | .vmul d a b k t => Sys2Proof.Machine.execVmul d a b k t s
  | .vfma d a b k t => Sys2Proof.Machine.execVfma d a b k t s
  | .vfnma d a b k t => Sys2Proof.Machine.execVfnma d a b k t s
  | .vmin d a b k t => Sys2Proof.Machine.execVmin d a b k t s
  | .vmax d a b k t => Sys2Proof.Machine.execVmax d a b k t s
  | .vabs d a k t => Sys2Proof.Machine.execVabs d a k t s
  | .vneg d a k t => Sys2Proof.Machine.execVneg d a k t s
  | .vdiv d a b k t => Sys2Proof.Machine.execVdiv d a b k t s
  | .vsqrt d a k t => Sys2Proof.Machine.execVsqrt d a k t s
  | .vand d a b k t => Sys2Proof.Machine.execVand d a b k t s
  | .vor d a b k t => Sys2Proof.Machine.execVor d a b k t s
  | .vxor d a b k t => Sys2Proof.Machine.execVxor d a b k t s
  | .vnot d a k t => Sys2Proof.Machine.execVnot d a k t s
  | .vshl d a b k t => Sys2Proof.Machine.execVshl d a b k t s
  | .vshr d a b k t => Sys2Proof.Machine.execVshr d a b k t s
  | .vshra d a b k t => Sys2Proof.Machine.execVshra d a b k t s
  | .vcmpEq d a b k t => Sys2Proof.Machine.execVcmpEq d a b k t s
  | .vcmpNe d a b k t => Sys2Proof.Machine.execVcmpNe d a b k t s
  | .vcmpLt d a b k t => Sys2Proof.Machine.execVcmpLt d a b k t s
  | .vcmpLe d a b k t => Sys2Proof.Machine.execVcmpLe d a b k t s
  | .vcmpGt d a b k t => Sys2Proof.Machine.execVcmpGt d a b k t s
  | .vcmpGe d a b k t => Sys2Proof.Machine.execVcmpGe d a b k t s
  | .vsel d a b k t => Sys2Proof.Machine.execVsel d a b k t s
  | .vbcast d g k t => Sys2Proof.Machine.execVbcast d g k t s
  | .vins d g l t => Sys2Proof.Machine.execVins d g l t s
  | .vext g a l t => Sys2Proof.Machine.execVext g a l t s
  | .vperm d a b k t => Sys2Proof.Machine.execVperm d a b k t s
  | .vslideUp d a n t => Sys2Proof.Machine.execVslideUp d a n t s
  | .vslideDown d a n t => Sys2Proof.Machine.execVslideDown d a n t s
  | .vmov d a k => Sys2Proof.Machine.execVmov d a k s
  | .vrsum d a k t => Sys2Proof.Machine.execVrsum d a k t s
  | .vrmax d a k t => Sys2Proof.Machine.execVrmax d a k t s
  | .vrmin d a k t => Sys2Proof.Machine.execVrmin d a k t s
  | .vcvtF64F32 d a k => Sys2Proof.Machine.execVcvtF64F32 d a k s
  | .vcvtF32F64 d a k => Sys2Proof.Machine.execVcvtF32F64 d a k s
  | .vcvtF32Bf16 d a k => Sys2Proof.Machine.execVcvtF32Bf16 d a k s
  | .vcvtBf16F32 d a k => Sys2Proof.Machine.execVcvtBf16F32 d a k s
  | .vcvtF32F16 d a k => Sys2Proof.Machine.execVcvtF32F16 d a k s
  | .vcvtF16F32 d a k => Sys2Proof.Machine.execVcvtF16F32 d a k s
  | .vcvtF32I32 d a k => Sys2Proof.Machine.execVcvtF32I32 d a k s
  | .vcvtI32F32 d a k => Sys2Proof.Machine.execVcvtI32F32 d a k s
  | .vcvtF64I64 d a k => Sys2Proof.Machine.execVcvtF64I64 d a k s
  | .vcvtI64F64 d a k => Sys2Proof.Machine.execVcvtI64F64 d a k s
  | .vcvtBf16Lns8 d a k => Sys2Proof.Machine.execVcvtBf16Lns8 d a k s
  | .vcvtLns8Bf16 d a k => Sys2Proof.Machine.execVcvtLns8Bf16 d a k s
  | .vcvtBf16Lns6 d a k => Sys2Proof.Machine.execVcvtBf16Lns6 d a k s
  | .vcvtLns6Bf16 d a k => Sys2Proof.Machine.execVcvtLns6Bf16 d a k s
  | .vtload y g => Sys2Proof.Machine.execVtload y g s
  | .vtab d a y k t => Sys2Proof.Machine.execVtab d a y k t s
  | .kand d a b => Sys2Proof.Machine.execKand d a b s
  | .kor d a b => Sys2Proof.Machine.execKor d a b s
  | .kxor d a b => Sys2Proof.Machine.execKxor d a b s
  | .knot d a => Sys2Proof.Machine.execKnot d a s
  | .kpop d a => Sys2Proof.Machine.execKpop d a s
  | .kset d a => Sys2Proof.Machine.execKset d a s
  | .kget d a => Sys2Proof.Machine.execKget d a s
  | .oclaim a c => Sys2Proof.Machine.execOclaim a c s
  | .orelease a => Sys2Proof.Machine.execOrelease a s
  | .opput a b => Sys2Proof.Machine.execOpput a b s
  | .mma a b c w f => Sys2Proof.Machine.execMma a b c w f s
  | .acczero a => Sys2Proof.Machine.execAcczero a s
  | .accrd a b c w f => Sys2Proof.Machine.execAccrd a b c w f s
  | .accsat a c => Sys2Proof.Machine.execAccsat a c s
  | .accget a b c => Sys2Proof.Machine.execAccget a b c s
  | .accadd a b c => Sys2Proof.Machine.execAccadd a b c s
  | .xcopy a b c => Sys2Proof.Machine.execXcopy a b c s
  | .xcopysp a b c => Sys2Proof.Machine.execXcopysp a b c s
  | .xwait n => Sys2Proof.Machine.execXwait n s
  | .hread a => Sys2Proof.Machine.execHread a s
  | .hcancel a => Sys2Proof.Machine.execHcancel a s
  | .cjoin a => Sys2Proof.Machine.execCjoin a s
  | .cbrAny a k => Sys2Proof.Machine.execCbrAny a k s
  | .cbrAll a k => Sys2Proof.Machine.execCbrAll a k s
  | .cstate d => Sys2Proof.Machine.execCstate d s
  | .tstop a => Sys2Proof.Machine.execTstop a s
  | .tstopH a => Sys2Proof.Machine.execTstopH a s
  | .tstart a => Sys2Proof.Machine.execTstart a s
  | .tread a b c => Sys2Proof.Machine.execTread a b c s
  | .twrite a b c => Sys2Proof.Machine.execTwrite a b c s
  | .tstate a c => Sys2Proof.Machine.execTstate a c s
  | .tsave a b => Sys2Proof.Machine.execTsave a b s
  | .trestore a b => Sys2Proof.Machine.execTrestore a b s
  | .tlbinv a b => Sys2Proof.Machine.execTlbinv a b s
  | .pglock a => Sys2Proof.Machine.execPglock a s
  | .pgswitch a b => Sys2Proof.Machine.execPgswitch a b s
  | .clwb a => Sys2Proof.Machine.execClwb a s
  | .clinv a => Sys2Proof.Machine.execClinv a s
  | .pfxImm p => Sys2Proof.Machine.execPfxImm p s
  | .pfxMod p => Sys2Proof.Machine.execPfxMod p s
  | .pfxHint p => Sys2Proof.Machine.execPfxHint p s
  | .yieldT => Sys2Proof.Machine.execYieldT s
  | .roam => Sys2Proof.Machine.execRoam s
  | .anchor => Sys2Proof.Machine.execAnchor s
  | .flushf => Sys2Proof.Machine.execFlushf s
  | .nop => Sys2Proof.Machine.execNop s
  | .fenceAcq => Sys2Proof.Machine.execFenceAcq s
  | .fenceRel => Sys2Proof.Machine.execFenceRel s
  | .fenceFull => Sys2Proof.Machine.execFenceFull s
  | .rwait => Sys2Proof.Machine.execRwait s
  | .xcommit => Sys2Proof.Machine.execXcommit s
  | .cleave => Sys2Proof.Machine.execCleave s
  | .loopBack => Sys2Proof.Machine.execLoopBack s
  | .illegalWord => Sys2Proof.Machine.execIllegalWord s
  | .breakpointMatch => Sys2Proof.Machine.execBreakpointMatch s
  | .rotationBoundary => Sys2Proof.Machine.execRotationBoundary s
  | .quantumExpiry => Sys2Proof.Machine.execQuantumExpiry s
  | .agingPromotion => Sys2Proof.Machine.execAgingPromotion s
  | .spillEviction => Sys2Proof.Machine.execSpillEviction s
  | .spillMoveDone => Sys2Proof.Machine.execSpillMoveDone s
  | .watchFire => Sys2Proof.Machine.execWatchFire s
  | .sleepTimeout => Sys2Proof.Machine.execSleepTimeout s
  | .timerRecord => Sys2Proof.Machine.execTimerRecord s
  | .storeGatherPost => Sys2Proof.Machine.execStoreGatherPost s
  | .icacheFill => Sys2Proof.Machine.execIcacheFill s
  | .tlbWalkDone => Sys2Proof.Machine.execTlbWalkDone s
  | .load => Sys2Proof.Machine.execLoad s
  | .store => Sys2Proof.Machine.execStore s
  | .atomic => Sys2Proof.Machine.execAtomic s
  | .reduce => Sys2Proof.Machine.execReduce s
  | .recall => Sys2Proof.Machine.execRecall s
  | .migrate => Sys2Proof.Machine.execMigrate s
  | .call => Sys2Proof.Machine.execCall s
  | .threadop => Sys2Proof.Machine.execThreadop s
  | .controlCancel => Sys2Proof.Machine.execControlCancel s
  | .controlTlbinv => Sys2Proof.Machine.execControlTlbinv s
  | .ticket => Sys2Proof.Machine.execTicket s
  | .ticketCallNotice => Sys2Proof.Machine.execTicketCallNotice s
  | .ticketExpiry => Sys2Proof.Machine.execTicketExpiry s
  | .bulk => Sys2Proof.Machine.execBulk s
  | .sideband => Sys2Proof.Machine.execSideband s
  | .sidebandTimeout => Sys2Proof.Machine.execSidebandTimeout s
  | .data => Sys2Proof.Machine.execData s
  | .ack => Sys2Proof.Machine.execAck s
  | .nack => Sys2Proof.Machine.execNack s
  | .transportTimeout => Sys2Proof.Machine.execTransportTimeout s
  | .dedupRetryTimer => Sys2Proof.Machine.execDedupRetryTimer s
  | .dedupWindowIdle => Sys2Proof.Machine.execDedupWindowIdle s
  | .linkUp => Sys2Proof.Machine.execLinkUp s
  | .laneChange => Sys2Proof.Machine.execLaneChange s
  | .linkRetire => Sys2Proof.Machine.execLinkRetire s
  | .vote => Sys2Proof.Machine.execVote s
  | .summary => Sys2Proof.Machine.execSummary s
  | .verdict => Sys2Proof.Machine.execVerdict s
  | .abortRequest => Sys2Proof.Machine.execAbortRequest s
  | .collJoinRequest => Sys2Proof.Machine.execCollJoinRequest s
  | .collLeaveRequest => Sys2Proof.Machine.execCollLeaveRequest s
  | .deadlineExpiry => Sys2Proof.Machine.execDeadlineExpiry s
  | .verdictApply => Sys2Proof.Machine.execVerdictApply s
  | .heldStoreCommit => Sys2Proof.Machine.execHeldStoreCommit s
  | .waveCreate => Sys2Proof.Machine.execWaveCreate s
  | .waveEnd => Sys2Proof.Machine.execWaveEnd s
  | .jobCompletion => Sys2Proof.Machine.execJobCompletion s
  | .engineAccept => Sys2Proof.Machine.execEngineAccept s
  | .mmaComplete => Sys2Proof.Machine.execMmaComplete s
  | .nanStop => Sys2Proof.Machine.execNanStop s
  | .acczeroDone => Sys2Proof.Machine.execAcczeroDone s
  | .accrdComplete => Sys2Proof.Machine.execAccrdComplete s
  | .accsatComplete => Sys2Proof.Machine.execAccsatComplete s
  | .accgetComplete => Sys2Proof.Machine.execAccgetComplete s
  | .accaddComplete => Sys2Proof.Machine.execAccaddComplete s
  | .copyAccept => Sys2Proof.Machine.execCopyAccept s
  | .copyDelivery => Sys2Proof.Machine.execCopyDelivery s
  | .copyArrival => Sys2Proof.Machine.execCopyArrival s
  | .vtloadReplace => Sys2Proof.Machine.execVtloadReplace s
  | .reservationGrant => Sys2Proof.Machine.execReservationGrant s
  | .burstRequest => Sys2Proof.Machine.execBurstRequest s
  | .burstArrival => Sys2Proof.Machine.execBurstArrival s
  | .hreadComplete => Sys2Proof.Machine.execHreadComplete s
  | .stopComplete => Sys2Proof.Machine.execStopComplete s
  | .faultRecord => Sys2Proof.Machine.execFaultRecord s
  | .coreLost => Sys2Proof.Machine.execCoreLost s
  | .spareReplace => Sys2Proof.Machine.execSpareReplace s
  | .uncorrectableError => Sys2Proof.Machine.execUncorrectableError s
  | .scrub => Sys2Proof.Machine.execScrub s
  | .saveDrained => Sys2Proof.Machine.execSaveDrained s
  | .saveComplete => Sys2Proof.Machine.execSaveComplete s
  | .restoreComplete => Sys2Proof.Machine.execRestoreComplete s
  | .discardComplete => Sys2Proof.Machine.execDiscardComplete s
  | .resetDropWindow => Sys2Proof.Machine.execResetDropWindow s
  | .tileAssignDone => Sys2Proof.Machine.execTileAssignDone s
  | .keySlotWrite => Sys2Proof.Machine.execKeySlotWrite s
  | .jobEntryWrite => Sys2Proof.Machine.execJobEntryWrite s
  | .tileAssignWrite => Sys2Proof.Machine.execTileAssignWrite s
  | .quantumWrite => Sys2Proof.Machine.execQuantumWrite s
  | .admcapWrite => Sys2Proof.Machine.execAdmcapWrite s
  | .bkptWrite => Sys2Proof.Machine.execBkptWrite s
  | .pkgWrite => Sys2Proof.Machine.execPkgWrite s
  | .startokWrite => Sys2Proof.Machine.execStartokWrite s
  | .resetgoWrite => Sys2Proof.Machine.execResetgoWrite s
  | .quoteWrite => Sys2Proof.Machine.execQuoteWrite s
  | .quoteDone => Sys2Proof.Machine.execQuoteDone s
  | .mrextWrite => Sys2Proof.Machine.execMrextWrite s
  | .sampleWrite => Sys2Proof.Machine.execSampleWrite s
  | .samplePulse => Sys2Proof.Machine.execSamplePulse s
  | .registerWrite => Sys2Proof.Machine.execRegisterWrite s
  | .powerGood => Sys2Proof.Machine.execPowerGood s
  | .startokTimeout => Sys2Proof.Machine.execStartokTimeout s
  | .mgmtReset => Sys2Proof.Machine.execMgmtReset s
  | .mgmtReadFailrec => Sys2Proof.Machine.execMgmtReadFailrec s
  | .mgmtFlashWrite => Sys2Proof.Machine.execMgmtFlashWrite s
  | .resetDeadline => Sys2Proof.Machine.execResetDeadline s
  | .heartbeat => Sys2Proof.Machine.execHeartbeat s
  | .heartbeatTimer => Sys2Proof.Machine.execHeartbeatTimer s
  | .leaderTimeout => Sys2Proof.Machine.execLeaderTimeout s
  | .overtempAlert => Sys2Proof.Machine.execOvertempAlert s
  | .overtempShutdown => Sys2Proof.Machine.execOvertempShutdown s
  | .watchRegistration => Sys2Proof.Machine.execWatchRegistration s
  | .operandSlotCleared => Sys2Proof.Machine.execOperandSlotCleared s
  | .keySlotWritebackDone => Sys2Proof.Machine.execKeySlotWritebackDone s
  | .ingressDrop => Sys2Proof.Machine.execIngressDrop s
  | .linkLevelRetry => Sys2Proof.Machine.execLinkLevelRetry s

end Sys2Proof.Machine
end

