-- ==== Sys2Proof/Machine/Step.lean ====
section
/-!
DEFINITION. One step of the package: an event that the outside world or an order brings, or the next move inside the cycle: the boundary, one
core's turn, an arrival that falls due, or the clock.
-/

namespace Sys2Proof.Machine

/-- Run an event; a word is no event and is passed over. -/
def runEvent (i : Instr) (s : State) : Host.Outcome State Fault Refusal :=
  if i.isEvent then exec i s else .next s

/-- Run an event that the outside world, or another order of arrivals, brings; one that is not enabled changes nothing (R1). -/
def runInput (i : Instr) (on : Subject) (s : State) : Host.Outcome State Fault Refusal :=
  if s.enabled i on then exec i { s with subject := on } else .next s

/-- Whether a stop of R130 is due: its MMA has arrived. -/
def State.stopDue (s : State) (t : Thread) : Bool :=
  match t.nanStop with
  | some n => match n.after with | some r => (s.msg? r).isNone | none => true
  | none => false

/-- The issue of the thread that has the focus (R27, R71, R167, R187, R191, R430); one whose held stores are still being posted issues nothing
(R321). -/
def issueWord (s : State) : Host.Outcome State Fault Refusal :=
  let t := s.cur
  if t.commits then .next s
  else if 0 < t.stall then .next (s.modCur fun t => { t with stall := t.stall - 1 })
  else if s.stopDue t then exec .nanStop { s with subject := { name := t.name } }
  else
    match s.breakpoint s.focus.core t with
    | some n => exec .breakpointMatch { s with subject := { a := n } }
    | none =>
      match s.fetch s.focus.core t with
      | .word w =>
        let s := s.issues w
        match decode w with
        | .ok i => exec i s
        | .reject _ => exec .illegalWord { s with subject := { word := w } }
      | .fault code w4 => .next (s.raise code t.pc w4 0)
      | .walk => .next (s.startWalk t.pc 4 false false true)
      | .miss line key => .next (s.fetchMiss line key)

/-- The next core's turn in the issue phase: a loop-back that is due comes first (R191). -/
def issueStep (s : State) : Host.Outcome State Fault Refusal :=
  match s.nextTurn with
  | none => .next { s with phase := .deliver }
  | some (core, ctx) =>
    if (s.thread core ctx).retiring then exec .loopBack { s with focus := { core := core, ctx := ctx } }
    else issueWord (s.takeTurn core ctx)

/-- The move inside the cycle where no event waits. -/
def phaseStep (s : State) : Host.Outcome State Fault Refusal :=
  match s.phase with
  | .boundary => .next { s with agenda := s.boundaryEvents, phase := .issue, cursor := 0 }
  | .issue => issueStep s
  | .deliver => let s := s.arrivals; .next { s.emit.dropNotices with agenda := s.dueEvents, phase := .tick }
  | .tick => .next { s with cycle := s.cycle + 1, phase := .boundary }

/-- Take the events in hand one at a time, then the move inside the cycle. -/
def agendaStep (s : State) : Host.Outcome State Fault Refusal :=
  match s.agenda with
  | (i, on) :: rest => runEvent i { s with agenda := rest, subject := on }
  | [] => phaseStep s

/-- The step in which an instruction that left the rotation goes on, its condition holding (R31). -/
def resumeStep (s : State) (core ctx : Nat) : Host.Outcome State Fault Refusal :=
  let t := s.thread core ctx
  if t.wait.act ≠ .resume then .next s
  else
    match t.word.map decode with
    | some (.ok i) =>
      match exec i (s.resumed core ctx) with
      | .next s' => .next (s'.afterResume core ctx t)
      | o => o
    | _ => .next (s.wakeThread (.ctx core ctx))

/-- One step.  A package that has powered itself off takes none but power-good (R430). -/
def step (s : State) : Host.Outcome State Fault Refusal :=
  if s.health.power = .shutdown then
    match s.inputs with
    | (_, .powerGood, on) :: rest => exec .powerGood { s with inputs := rest, subject := on }
    | _ => .fault .poweredOff
  else
    match s.resumes with
    | (_, core, ctx) :: rest => resumeStep { s with resumes := rest } core ctx
    | [] =>
      match s.inputs with
      | (c, i, on) :: rest => if c ≤ s.cycle then runInput i on { s with inputs := rest } else agendaStep s
      | [] => agendaStep s

/-- A word, as the opcode table numbers its bits, placed where the next step fetches. -/
def State.withFetchWord (s : State) (_nbits w : Nat) : State := s.placeWord (BitVec.ofNat 32 w)

end Sys2Proof.Machine
end

