-- ==== Sys2Proof/Safety.lean ====
section
/-!
DEFINITION. What counts as a safe run, and the conditions under which an instruction has its own effect: the machine never stops while it is powered,
its memory keeps its canonical form, and an instruction issues where no fault of R168 comes first.
-/

namespace Sys2Proof

/-- A step answers a next state. -/
def Continues (s : Machine.State) : Prop := ∃ t, Machine.step s = .next t

/-- Memory is in canonical form. -/
def MemoryCanonical (s : Machine.State) : Prop := Machine.Memory.wf s.mem = true

namespace Machine

/-- An instruction of the thread whose turn it is has its own effect: it may run on this core, its pending prefixes are accepted (R169 to R172), a
roaming thread may issue it with the registers it names (R60), and run-ahead does not hold it back (R319). -/
def State.admits (s : State) (a : Attrs) (regs : List GReg) : Bool :=
  !(a.compute.isSome && decide (640 ≤ s.focus.core)) &&
  !(a.refusesImm s.cur || a.refusesMod s.cur || s.cur.refusesHint) &&
  !(s.cur.roaming && (a.roam || regs.any fun r => decide (9 ≤ r.val))) &&
  !(s.cur.runsAhead && !a.ahead)

/-- An access at a physical address does not move the thread: it is anchored, or the address lies in no other core's scratchpad (R61). -/
def State.stays (s : State) (pa : Nat) : Bool :=
  !s.cur.roaming ||
  (match ownerCore (gpaLocal pa) with
   | some c => decide (gpaPkg pa = s.pkg) && decide (c = s.focus.core)
   | none => true)

/-- A request to a package may leave the core: the package is this one, or the network interface has room (R410). -/
def State.netAdmits (s : State) (pkg : Nat) : Bool := decide (pkg = s.pkg) || !s.niFull s.focus.core 1

/-- A matrix, copy or slot instruction has its own effect: it is admitted, and the thread's job is assigned the tile of its core (R259). -/
def State.tileAdmits (s : State) (i : Instr) (regs : List GReg) : Bool :=
  s.admits { roam := true, ahead := false, compute := encode i } regs &&
  (s.tile s.here).assigned && decide ((s.tile s.here).job = s.cur.job.setWidth 32)

/-- The magnitude k is the integer that m · 2^e, with a sign, rounds to in a rounding mode (R101). -/
def RoundsTo (rm : Rm) (neg : Bool) (m : Nat) (e : Int) (k : Nat) : Prop :=
  if 0 ≤ e then k = m * 2 ^ e.toNat
  else
    let d := 2 ^ (-e).toNat
    let down := k * d ≤ m ∧ m < (k + 1) * d
    let up := m ≤ k * d ∧ k * d < m + d
    match rm with
    | .rtz => down
    | .rup => if neg then down else up
    | .rdn => if neg then up else down
    | .rne => 2 * m ≤ 2 * (k * d) + d ∧ 2 * (k * d) ≤ 2 * m + d ∧ (2 * m = 2 * (k * d) + d ∨ 2 * (k * d) = 2 * m + d → k % 2 = 0)

end Machine

end Sys2Proof
end

