-- ==== Sys2Proof/Certificates/Slice0/Obligations.lean ====
section
/-!
DEFINITION. The statements for the provers.  Each is named by what it says; its docstring cites the rules of spec/ that it rests on.
-/

open Sys2Proof Sys2Proof.Machine

/-! ## Words: integers, constants, branches, loops, special registers -/

/-- R183, R99: The two-source integer operations write the value that the table of R183 gives into gd and complete. The `.w` forms compute on the low 32
bits of both sources and sign-extend. Division by zero gives all ones and leaves the dividend as remainder; otherwise the quotient truncates toward
zero. -/
def Obligations.IntegerResults : Prop :=
  (∀ (s : State) (d a b : GReg), s.admits {} [d, a, b] = true →
  ∀ e ∈ ([(fun d a b => .add d a b false, fun x y => x + y),
      (fun d a b => .add d a b true, fun x y => (x.setWidth 32 + y.setWidth 32).signExtend 64),
      (fun d a b => .sub d a b false, fun x y => x - y),
      (fun d a b => .sub d a b true, fun x y => (x.setWidth 32 - y.setWidth 32).signExtend 64),
      (.andg, fun x y => x &&& y), (.org, fun x y => x ||| y), (.xorg, fun x y => x ^^^ y),
      (.andn, fun x y => x &&& ~~~y), (.orn, fun x y => x ||| ~~~y),
      (fun d a b => .sll d a b false, fun x y => x <<< (y.toNat % 64)),
      (fun d a b => .sll d a b true, fun x y => (x.setWidth 32 <<< ((y.setWidth 32).toNat % 32)).signExtend 64),
      (fun d a b => .srl d a b false, fun x y => x >>> (y.toNat % 64)),
      (fun d a b => .srl d a b true, fun x y => (x.setWidth 32 >>> ((y.setWidth 32).toNat % 32)).signExtend 64),
      (fun d a b => .sra d a b false, fun x y => x.sshiftRight (y.toNat % 64)),
      (fun d a b => .sra d a b true, fun x y => ((x.setWidth 32).sshiftRight ((y.setWidth 32).toNat % 32)).signExtend 64),
      (fun d a b => .rol d a b false, fun x y => x.rotateLeft (y.toNat % 64)),
      (fun d a b => .rol d a b true, fun x y => ((x.setWidth 32).rotateLeft ((y.setWidth 32).toNat % 32)).signExtend 64),
      (fun d a b => .mul d a b false, fun x y => x * y),
      (fun d a b => .mul d a b true, fun x y => (x.setWidth 32 * y.setWidth 32).signExtend 64),
      (fun d a b => .mulh d a b false, fun x y => BitVec.ofInt 64 (x.toInt * y.toInt / 2 ^ 64)),
      (fun d a b => .mulh d a b true, fun x y =>
        (BitVec.ofInt 32 ((x.setWidth 32).toInt * (y.setWidth 32).toInt / 2 ^ 32)).signExtend 64),
      (fun d a b => .mulhu d a b false, fun x y => BitVec.ofNat 64 (x.toNat * y.toNat / 2 ^ 64)),
      (fun d a b => .mulhu d a b true, fun x y =>
        (BitVec.ofNat 32 ((x.setWidth 32).toNat * (y.setWidth 32).toNat / 2 ^ 32)).signExtend 64),
      (.min, fun x y => if y.slt x then y else x), (.max, fun x y => if x.slt y then y else x),
      (.minu, fun x y => if y.ult x then y else x), (.maxu, fun x y => if x.ult y then y else x),
      (.slt, fun x y => if x.slt y then 1 else 0), (.sltu, fun x y => if x.ult y then 1 else 0),
      (.seq, fun x y => if x == y then 1 else 0), (.sne, fun x y => if x != y then 1 else 0)] :
      List ((GReg → GReg → GReg → Instr) × (Dword → Dword → Dword))),
    exec (e.1 d a b) s = .next (s.result d (e.2 (s.rg a) (s.rg b)))) ∧
  (∀ (s : State) (d a b : GReg), s.admits {} [d, a, b] = true →
    exec (.div d a b false) s = .next (s.result d (if s.rg b = 0 then -1 else (s.rg a).sdiv (s.rg b))) ∧
    exec (.divu d a b false) s = .next (s.result d (if s.rg b = 0 then -1 else s.rg a / s.rg b)) ∧
    exec (.rem d a b false) s = .next (s.result d (if s.rg b = 0 then s.rg a else (s.rg a).srem (s.rg b))) ∧
    exec (.remu d a b false) s = .next (s.result d (if s.rg b = 0 then s.rg a else s.rg a % s.rg b)) ∧
    (let x := (s.rg a).setWidth 32
     let y := (s.rg b).setWidth 32
     exec (.div d a b true) s = .next (s.result d ((if y = 0 then -1 else x.sdiv y).signExtend 64)) ∧
     exec (.divu d a b true) s = .next (s.result d ((if y = 0 then -1 else x / y).signExtend 64)) ∧
     exec (.rem d a b true) s = .next (s.result d ((if y = 0 then x else x.srem y).signExtend 64)) ∧
     exec (.remu d a b true) s = .next (s.result d ((if y = 0 then x else x % y).signExtend 64))))

/-- R183: Conditional moves leave gd where the condition fails; LEA adds a scaled source; the one-source operations count and swap. The counts of R183 are
what their names say: CLZ finds the highest one bit, CTZ the lowest, and each is 64 for zero; BSWAP moves byte j to byte 7 − j. -/
def Obligations.MoveAndCountResults : Prop :=
  ((∀ (s : State) (d a b : GReg), s.admits {} [d, a, b] = true →
    exec (.cmovz d a b) s = .next (s.result d (if s.rg b = 0 then s.rg a else s.rg d)) ∧
    exec (.cmovnz d a b) s = .next (s.result d (if s.rg b = 0 then s.rg d else s.rg a)) ∧
    ∀ sh : BitVec 3, exec (.lea d a b sh) s = .next (s.result d (s.rg a + s.rg b <<< sh.toNat))) ∧
  (∀ (s : State) (d a : GReg), s.admits {} [d, a] = true →
    exec (.clz d a) s = .next (s.result d (BitVec.ofNat 64 (leadingZeros (s.rg a) 64))) ∧
    exec (.ctz d a) s = .next (s.result d (BitVec.ofNat 64 (trailingZeros (s.rg a) 64 0))) ∧
    exec (.popc d a) s = .next (s.result d (BitVec.ofNat 64 (oneBits (s.rg a)))) ∧
    exec (.bswap d a) s = .next (s.result d (byteSwap (s.rg a))))) ∧
  ((∀ x : Dword, (leadingZeros x 64 = 64 ∧ x = 0) ∨
    (leadingZeros x 64 < 64 ∧ x.getLsbD (63 - leadingZeros x 64) = true ∧ ∀ i, 63 - leadingZeros x 64 < i → x.getLsbD i = false)) ∧
  (∀ x : Dword, (trailingZeros x 64 0 = 64 ∧ x = 0) ∨
    (trailingZeros x 64 0 < 64 ∧ x.getLsbD (trailingZeros x 64 0) = true ∧ ∀ i < trailingZeros x 64 0, x.getLsbD i = false)) ∧
  (∀ (x : Dword) (j : Nat), j < 8 → (byteSwap x).extractLsb' (8 * j) 8 = x.extractLsb' (8 * (7 - j)) 8))

/-- R184, R185, R186, R170: The immediate forms. A pending PFX.IMM widens the 16-bit and the 21-bit immediates (R170); the shift amounts are those of the
word. -/
def Obligations.ImmediateResults : Prop :=
  (∀ (s : State) (d a : GReg) (i : BitVec 16), s.admits { imm := true } [d, a] = true →
    exec (.addi d a i) s = .next (s.result d (s.rg a + s.cur.imm16 i)) ∧
    exec (.andi d a i) s = .next (s.result d (s.rg a &&& s.cur.imm16 i)) ∧
    exec (.ori d a i) s = .next (s.result d (s.rg a ||| s.cur.imm16 i)) ∧
    exec (.xori d a i) s = .next (s.result d (s.rg a ^^^ s.cur.imm16 i)) ∧
    exec (.slti d a i) s = .next (s.result d (if (s.rg a).slt (s.cur.imm16 i) then 1 else 0))) ∧
  (∀ (s : State) (d a : GReg) (n : BitVec 6), s.admits {} [d, a] = true →
    exec (.slli d a false n) s = .next (s.result d (s.rg a <<< n.toNat)) ∧
    exec (.srli d a false n) s = .next (s.result d (s.rg a >>> n.toNat)) ∧
    exec (.srai d a false n) s = .next (s.result d ((s.rg a).sshiftRight n.toNat)) ∧
    exec (.roli d a false n) s = .next (s.result d ((s.rg a).rotateLeft n.toNat)) ∧
    (n.toNat < 32 →
      exec (.slli d a true n) s = .next (s.result d (((s.rg a).setWidth 32 <<< n.toNat).signExtend 64)) ∧
      exec (.srli d a true n) s = .next (s.result d (((s.rg a).setWidth 32 >>> n.toNat).signExtend 64)) ∧
      exec (.srai d a true n) s = .next (s.result d ((((s.rg a).setWidth 32).sshiftRight n.toNat).signExtend 64)) ∧
      exec (.roli d a true n) s = .next (s.result d ((((s.rg a).setWidth 32).rotateLeft n.toNat).signExtend 64)))) ∧
  (∀ (s : State) (d : GReg) (i : BitVec 21),
    (s.admits { imm := true } [d] = true →
      exec (.movi d i) s = .next (s.result d (s.cur.imm21 i)) ∧
      exec (.addpc d i) s = .next (s.result d (s.cur.pc + 4 * s.cur.imm21 i))) ∧
    (s.admits {} [d] = true → exec (.movhi d i) s = .next (s.result d (i ++ (s.rg d).extractLsb' 0 43))))

/-- R25, R169, R191, R183: What completing with a result in gd does. The thread's gd holds the value unless gd is g0, every other general register stands;
the prefixes are consumed; the PC moves to the next word, or stays for the loop-back at the end of a body; the v, k, b and w registers, the flags and
the special registers stand; no other thread and nothing outside the thread's core changes, so every byte of memory reads as before. G0 reads as zero
and a write of g0 is dropped. -/
def Obligations.ResultFrame : Prop :=
  (∀ (s : State) (d : GReg) (x : Dword),
    let t := s.result d x
    (∀ r : GReg, t.rg r = if r = d ∧ d ≠ 0 then x else s.rg r) ∧
    t.cur.pfxst = 0 ∧
    (t.cur.pc = if s.cur.atLoopEnd then s.cur.pc else s.cur.pc + 4) ∧
    (t.cur.retiring = (s.cur.atLoopEnd || s.cur.retiring)) ∧
    t.cur.v = s.cur.v ∧ t.cur.k = s.cur.k ∧ t.cur.b = s.cur.b ∧ t.cur.w = s.cur.w ∧
    t.cur.st = s.cur.st ∧ t.cur.tid = s.cur.tid ∧ t.cur.wid = s.cur.wid ∧ t.cur.job = s.cur.job ∧ t.cur.flags = s.cur.flags ∧
    t.cur.faultrec = s.cur.faultrec ∧ t.cur.auth = s.cur.auth ∧ t.cur.troot = s.cur.troot ∧ t.cur.prio = s.cur.prio ∧
    t.cur.nanctl = s.cur.nanctl ∧ t.cur.cabort = s.cur.cabort ∧ t.cur.ctimeout = s.cur.ctimeout ∧ t.cur.cmem = s.cur.cmem ∧
    t.cur.xbatch = s.cur.xbatch ∧ t.cur.redpend = s.cur.redpend ∧ t.cur.storeAck = s.cur.storeAck ∧
    t.cur.loopst = s.cur.loopst ∧ t.cur.loopb = s.cur.loopb ∧ t.cur.loopc = s.cur.loopc ∧
    (∀ core ctx, (core, ctx) ≠ (s.focus.core, s.focus.ctx) → t.thread core ctx = s.thread core ctx) ∧
    (∀ a k, t.byte a k = s.byte a k) ∧
    t.mem = s.mem ∧ t.flight = s.flight ∧ t.tiles = s.tiles ∧ t.dies = s.dies ∧ t.keys = s.keys ∧ t.jobs = s.jobs) ∧
  (∀ (t : Thread) (r d : GReg) (x : Dword), t.rg 0 = 0 ∧ (t.wg 0 x).rg r = t.rg r ∧ (d ≠ 0 → (t.wg d x).rg d = x) ∧ (r ≠ d → (t.wg d x).rg r = t.rg r))

/-- R187, R188, R189: A branch whose condition holds goes to its target and owes one turn more, one whose condition fails completes; JL, JLR and JBL leave
the address of the next word in gd. A target that is not aligned faults with ALIGN, and one at or above 2^52 with XLATE, the target in word 2,
wherever the word comes from a register or an offset; a branch whose condition fails asks nothing of its target. -/
def Obligations.BranchResults : Prop :=
  let legal := fun x : Dword => x.toNat % 4 = 0 ∧ x.toNat < 0x10000000000000
  let bad := fun (s : State) (x : Dword) (o : Host.Outcome State Fault Refusal) =>
    (x.toNat % 4 ≠ 0 → o = .next (s.raise 0x03 x 0 0)) ∧ (x.toNat % 4 = 0 → 0x10000000000000 ≤ x.toNat → o = .next (s.raise 0x04 x 0 0))
  (∀ (s : State) (a : GReg) (i : BitVec 16), s.admits { imm := true } [a] = true →
    ∀ e ∈ ([(.bcEqz, fun x => x == 0), (.bcNez, fun x => x != 0), (.bcLtz, fun x => x.slt 0), (.bcGez, fun x => !x.slt 0),
        (.bcGtz, fun x => (0 : Dword).slt x), (.bcLez, fun x => !(0 : Dword).slt x)] : List ((GReg → BitVec 16 → Instr) × (Dword → Bool))),
      (e.2 (s.rg a) = false → exec (e.1 a i) s = .next s.retire) ∧
      (e.2 (s.rg a) = true → legal (s.offsetTarget (s.cur.imm16 i)) →
        exec (e.1 a i) s = .next (s.modCur fun t => t.jump (s.offsetTarget (s.cur.imm16 i)) 1)) ∧
      (e.2 (s.rg a) = true → bad s (s.offsetTarget (s.cur.imm16 i)) (exec (e.1 a i) s))) ∧
  (∀ (s : State) (d : GReg) (i : BitVec 21), s.admits { imm := true } [d] = true → legal (s.offsetTarget (s.cur.imm21 i)) →
    exec (.jl d i) s = .next (s.modCur fun t => (t.wg d (t.pc + 4)).jump (s.offsetTarget (s.cur.imm21 i)) 1)) ∧
  (∀ (s : State) (d a : GReg), legal (s.rg a) →
    (s.admits {} [a] = true → exec (.jr a) s = .next (s.modCur fun t => t.jump (s.rg a) 1)) ∧
    (s.admits {} [d, a] = true → exec (.jlr d a) s = .next (s.modCur fun t => (t.wg d (t.pc + 4)).jump (s.rg a) 1))) ∧
  (∀ (s : State) (c : Cond) (d a : GReg) (k : BReg),
    (s.admits { roam := true } [] = true → exec (.jb k) s = .next (s.modCur fun t => t.jump t.b[k] (t.bCost k))) ∧
    (s.admits { roam := true } [d] = true → exec (.jbl d k) s = .next (s.modCur fun t => (t.wg d (t.pc + 4)).jump t.b[k] (t.bCost k))) ∧
    (s.admits { roam := true } [a] = true → exec (.bcb c a k) s =
      .next (if Cond.holds c (s.rg a) then s.modCur fun t => t.jump t.b[k] (t.bCost k) else s.retire))) ∧
  (∀ (s : State) (a : GReg) (k : BReg) (i : BitVec 21),
    (s.admits { imm := true, roam := true } [] = true → legal (s.offsetTarget (s.cur.imm21 i)) →
      exec (.prep k i) s = .next (s.prepare k (s.offsetTarget (s.cur.imm21 i)))) ∧
    (s.admits { roam := true } [a] = true → legal (s.rg a) → exec (.prepr a k) s = .next (s.prepare k (s.rg a)))) ∧
  (∀ (s : State) (d a : GReg) (k : BReg) (i : BitVec 21),
    (s.admits { imm := true } [d] = true → bad s (s.offsetTarget (s.cur.imm21 i)) (exec (.jl d i) s)) ∧
    (s.admits { imm := true, roam := true } [] = true → bad s (s.offsetTarget (s.cur.imm21 i)) (exec (.prep k i) s)) ∧
    (s.admits {} [a] = true → bad s (s.rg a) (exec (.jr a) s)) ∧ (s.admits {} [d, a] = true → bad s (s.rg a) (exec (.jlr d a) s)) ∧
    (s.admits { roam := true } [a] = true → bad s (s.rg a) (exec (.prepr a k) s)))

/-- R190, R191, R207, R34, R167, R430: LOOP and LOOPI open a level whose body is the next n words, or pass over it for a count of zero; a count of 2^32 or
more, a fourth level, and a body that does not end before the level around it fault with LOOP, each with its value in word 4; LOOP_BACK goes to the
start of the body while iterations remain and leaves the level after the last; NOP and YIELD complete; an illegal word of the thread whose turn it is
and a breakpoint fault at the PC. -/
def Obligations.LoopResults : Prop :=
  (∀ (s : State) (c n : Nat), s.cur.depth < 3 → (s.cur.depth = 0 ∨ s.cur.pc.toNat + 4 * n < s.cur.loopEnd (s.cur.depth - 1)) →
    s.setLoop c n =
      if c = 0 then s.modCur fun t => { t.consume with pc := BitVec.ofNat 64 (t.pc.toNat + 4 * n + 4) }
      else s.modCur fun t =>
        { t.consume with
          loopb := t.loopb.setIfInBounds t.depth (t.pc + 4)
          loopc := t.loopc.setIfInBounds t.depth (BitVec.ofNat 64 ((c - 1) * 0x100000000 + n))
          loopst := BitVec.ofNat 64 (t.depth + 1)
          pc := t.pc + 4 }) ∧
  (∀ (s : State) (c n : Nat),
    (s.cur.depth = 3 → s.setLoop c n = s.raise 0x0F 0 0 0) ∧
    (s.cur.depth ≠ 3 → 0 < s.cur.depth → s.cur.loopEnd (s.cur.depth - 1) ≤ s.cur.pc.toNat + 4 * n →
      s.setLoop c n = s.raise 0x0F 0 (BitVec.ofNat 64 (s.cur.pc.toNat + 4 * n)) 0)) ∧
  (∀ (s : State) (a : GReg) (n : BitVec 16), s.admits { roam := true } [a] = true →
    ((s.rg a).toNat < 0x100000000 → exec (.loop a n) s = .next (s.setLoop (s.rg a).toNat n.toNat)) ∧
    (0x100000000 ≤ (s.rg a).toNat → exec (.loop a n) s = .next (s.raise 0x0F 0 (s.rg a) 0))) ∧
  (∀ (s : State) (c : BitVec 10) (n : BitVec 16), s.admits { roam := true } [] = true →
    exec (.loopi c n) s = .next (s.setLoop c.toNat n.toNat)) ∧
  (∀ s : State, s.cur.retiring = true →
    exec .loopBack s = .next (s.modCur fun t =>
      if 0 < t.remain (t.depth - 1) then
        { t with loopc := t.loopc.setIfInBounds (t.depth - 1) ((t.loopc[t.depth - 1]?.getD 0) - 0x100000000)
                 pc := BitVec.ofNat 64 (t.loopStart (t.depth - 1)), retiring := false }
      else { t.popLoop with pc := t.pc + 4, retiring := false })) ∧
  (∀ s : State, s.admits {} [] = true →
    exec .nop s = .next s.retire ∧ exec .yieldT s = .next (s.modCur fun t => { t.retire with yielding := true })) ∧
  (∀ s : State, s.cur.st = .bound →
    (s.cur.word = some s.subject.word → exec .illegalWord s = .next (s.raise 0x01 0 (s.subject.word.setWidth 64) 0)) ∧
    exec .breakpointMatch s = .next (s.raise 0x0E 0 (BitVec.ofNat 64 s.subject.a) 0))

/-- R169, R173: A prefix stays pending with its payload and its address until the next word that is no prefix; a second one of its kind, or one that ends
a loop body, faults with PREFIX. A prefix pending when its own kind comes again, or when the last word of a loop body is reached, gives PREFIX, and
the fault state has no prefix pending. The model's own part of this statement is in the log: log 84, log 85, log 86. -/
def Obligations.PrefixResults : Prop :=
  (∀ (s : State) (p : BitVec 24), s.cur.atLoopEnd = false →
    (s.cur.pimm = false → exec (.pfxImm p) s = .next (s.setCur { s.cur with
      pfxst := (s.cur.pfxst &&& ~~~0xFFFFFF#64) ||| BitVec.ofNat 64 (p.toNat % 2 ^ 24 + 2 ^ 37), pfxAt := s.cur.pfxAt.setIfInBounds 0 (some s.cur.pc)
      pc := s.cur.pc + 4 })) ∧
    (s.cur.pmod = false → exec (.pfxMod p) s = .next (s.setCur { s.cur with
      pfxst := (s.cur.pfxst &&& ~~~0xF000000#64) ||| BitVec.ofNat 64 (p.toNat % 2 ^ 4 * 2 ^ 24 + 2 ^ 38), pfxAt := s.cur.pfxAt.setIfInBounds 1 (some s.cur.pc)
      modBad := s.cur.modBad || p.toNat / 16 != 0, pc := s.cur.pc + 4 })) ∧
    (s.cur.phint = false → exec (.pfxHint p) s = .next (s.setCur { s.cur with
      pfxst := (s.cur.pfxst &&& ~~~0x1FF0000000#64) ||| BitVec.ofNat 64 (p.toNat % 2 ^ 9 * 2 ^ 28 + 2 ^ 39), pfxAt := s.cur.pfxAt.setIfInBounds 2 (some s.cur.pc)
      hintBad := s.cur.hintBad || p.toNat / 512 != 0, pc := s.cur.pc + 4 }))) ∧
  (∀ (s : State) (p : BitVec 24), s.cur.bank = none →
    (s.cur.pimm = true ∨ s.cur.atLoopEnd = true →
      ∃ t, exec (.pfxImm p) s = .next t ∧ t.cur.st = .faulted ∧ t.cur.fcode = 0x02 ∧ t.cur.pfxst = 0 ∧ t.cur.pc = s.cur.pc) ∧
    (s.cur.pmod = true ∨ s.cur.atLoopEnd = true →
      ∃ t, exec (.pfxMod p) s = .next t ∧ t.cur.st = .faulted ∧ t.cur.fcode = 0x02 ∧ t.cur.pfxst = 0 ∧ t.cur.pc = s.cur.pc) ∧
    (s.cur.phint = true ∨ s.cur.atLoopEnd = true →
      ∃ t, exec (.pfxHint p) s = .next t ∧ t.cur.st = .faulted ∧ t.cur.fcode = 0x02 ∧ t.cur.pfxst = 0 ∧ t.cur.pc = s.cur.pc))

/-- R158, R159, R207: SRD returns the register a number names and faults with SPECIAL for a reserved number; SWR, SRSET and SRCLR write the whole value,
the value with bits set, and the value with bits cleared, where R158 accepts it, and fault with SPECIAL where it does not; FLUSHF hands the sticky
bits on and completes: to the thread's wave or job here, or as a reduction to the package of its wave. Which own writes of special registers are
accepted: FLAGS with no reserved bit, a priority that is not raised, one bit of NANCTL, an aligned CABORT of 52 bits, a CTIMEOUT of 32 bits; no other
number is written, and an accepted write changes that register alone. The model's own part of this statement is in the log: log 77. -/
def Obligations.SpecialRegisterResults : Prop :=
  ((∀ (s : State) (d : GReg) (n : BitVec 10), s.admits {} [d] = true →
    (∀ x, s.cur.special s.cycle n.toNat = some x → exec (.srd d n) s = .next (s.result d x)) ∧
    (s.cur.special s.cycle n.toNat = none → exec (.srd d n) s = .next (s.raise 0x08 0 (n.setWidth 64) 0)) ∧
    (∀ e ∈ ([(0x000, s.cur.tid), (0x001, s.cur.wid), (0x002, s.cur.job), (0x003, s.cur.flags), (0x004, s.cur.faultrec), (0x005, s.cur.auth),
        (0x006, s.cur.troot), (0x007, s.cur.prio), (0x008, BitVec.ofNat 64 s.cycle), (0x009, s.cur.nanctl), (0x00A, s.cur.cabort),
        (0x00B, s.cur.ctimeout), (0x00C, s.cur.cmem), (0x010, s.cur.bx), (0x011, s.cur.by'), (0x012, s.cur.bseq), (0x013, s.cur.blen),
        (0x014, BitVec.ofNat 64 s.cur.redpend), (0x015, s.cur.xbatch), (0x016, s.cur.pfxst), (0x017, s.cur.loopst),
        (0x018, s.cur.loopb[0]), (0x019, s.cur.loopc[0]), (0x01A, s.cur.loopb[1]), (0x01B, s.cur.loopc[1]),
        (0x01C, s.cur.loopb[2]), (0x01D, s.cur.loopc[2])] : List (BitVec 10 × Dword)),
      exec (.srd d e.1) s = .next (s.result d e.2))) ∧
  (∀ (s : State) (a : GReg) (n : BitVec 10) (x : Dword), s.admits { ahead := !waitsAhead n } [a] = true → s.cur.special s.cycle n.toNat = some x →
    (∀ t, s.cur.writeOwn n.toNat (s.rg a) = some t → exec (.swr a n) s = .next (s.setCur t.retire)) ∧
    (s.cur.writeOwn n.toNat (s.rg a) = none → exec (.swr a n) s = .next (s.raise 0x08 0 (n.setWidth 64) 0)) ∧
    (∀ t, s.cur.writeOwn n.toNat (x &&& ~~~s.rg a) = some t → exec (.srclr a n) s = .next (s.setCur t.retire)) ∧
    (s.cur.writeOwn n.toNat (x &&& ~~~s.rg a) = none → exec (.srclr a n) s = .next (s.raise 0x08 0 (n.setWidth 64) 0)) ∧
    (¬(a = 0 ∧ n = 0x003) →
      (∀ t, s.cur.writeOwn n.toNat (x ||| s.rg a) = some t → exec (.srset a n) s = .next (s.setCur t.retire)) ∧
      (s.cur.writeOwn n.toNat (x ||| s.rg a) = none → exec (.srset a n) s = .next (s.raise 0x08 0 (n.setWidth 64) 0)))) ∧
  (∀ (s : State) (a : GReg),
    ∀ e ∈ ([(0x003, fun t => t.flags, fun _ x => x &&& 0xFFFFFFFFFFFFFCC0 = 0, fun t x => { t with flags := x }),
        (0x007, fun t => t.prio, fun t x => x.toNat < 4 ∧ t.prio.toNat ≤ x.toNat, fun t x => { t with prio := x, effPrio := x.toNat }),
        (0x009, fun t => t.nanctl, fun _ x => x.toNat < 2, fun t x => { t with nanctl := x }),
        (0x00A, fun t => t.cabort, fun _ x => x.toNat < 2 ^ 52 ∧ x.toNat % 4 = 0, fun t x => { t with cabort := x }),
        (0x00B, fun t => t.ctimeout, fun _ x => x.toNat < 2 ^ 32, fun t x => { t with ctimeout := x })] :
        List (BitVec 10 × (Thread → Dword) × (Thread → Dword → Prop) × (Thread → Dword → Thread))),
      s.admits { ahead := !waitsAhead e.1 } [a] = true →
      let x := s.rg a
      let old := e.2.1 s.cur
      (e.2.2.1 s.cur x → exec (.swr a e.1) s = .next (s.setCur (e.2.2.2 s.cur x).retire)) ∧
      (e.2.2.1 s.cur (old &&& ~~~x) → exec (.srclr a e.1) s = .next (s.setCur (e.2.2.2 s.cur (old &&& ~~~x)).retire)) ∧
      (e.2.2.1 s.cur (old ||| x) → ¬(a = 0 ∧ e.1 = 0x003) → exec (.srset a e.1) s = .next (s.setCur (e.2.2.2 s.cur (old ||| x)).retire))) ∧
  (∀ s : State, s.admits { ahead := false } [] = true →
    exec (.srset 0 0x003) s = exec .flushf s ∧
    (s.cur.wavePkg = none → exec .flushf s = .next (s.flushFlags s.cur).retire) ∧
    (∀ p a, s.cur.waveAfar = some (p, a) → s.cur.redpend < 16 → s.netAdmits p = true →
      exec .flushf s = .next ((s.modCur fun t => Thread.retire { t with redpend := t.redpend + 1 }).tellWave s.focus.core s.cur
        (.flags (s.cur.flags.setWidth 6)))))) ∧
  (∀ (t : Thread) (n : Nat) (x : Dword),
    (∀ u, t.writeOwn n x = some u →
      (n = 0x003 ∧ u = { t with flags := x }) ∨
      (n = 0x007 ∧ u = { t with prio := x, effPrio := x.toNat } ∧ x.toNat < 4 ∧ t.prio.toNat ≤ x.toNat) ∨
      (n = 0x009 ∧ u = { t with nanctl := x } ∧ x.toNat < 2) ∨
      (n = 0x00A ∧ u = { t with cabort := x } ∧ x.toNat < 2 ^ 52 ∧ x.toNat % 4 = 0) ∨
      (n = 0x00B ∧ u = { t with ctimeout := x } ∧ x.toNat < 2 ^ 32)) ∧
    (t.writeOwn n x = none → n ≠ 0x003 ∨ flagsOk x = false))

/-! ## Words: memory -/

/-- R209, R214, R215, R31, R70, R211, R319: A scalar load that passes its checks and stays on its core reads one element: sign-extended or zero-extended
into gd, from what the thread finds near within the turn, or by a request to the home while the thread waits. LD.ACQ discards the L1 before it reads.
A load whose elements are all near completes within the turn, with its value in the destination; one that lacks an element, or may not complete at
once, waits and sends its requests; in run-ahead such a load waits for the verdict and sends nothing (R319). The model's own part of this statement is
in the log: log 4, log 18, log 94. -/
def Obligations.LoadResults : Prop :=
  ((∀ e ∈ ([(.ldB, 1, true), (.ldBn, 1, false), (.ldH, 2, true), (.ldHn, 2, false), (.ldW, 4, true), (.ldWn, 4, false), (.ldD, 8, false)] :
      List ((GReg → GReg → BitVec 13 → Instr) × Nat × Bool)),
    ∀ (s : State) (d a : GReg) (o : BitVec 13) (x : Access), s.admits { imm := true, nol1 := true } [d, a] = true →
      s.checkCur (s.eaOffset a o) e.2.1 true false = .ok x → (isDevice x.pa = true → 4 ≤ e.2.1) → s.stays x.pa = true →
      exec (e.1 d a o) s = .next (s.loadPieces (s.eaOffset a o) [({ lane := 0, pa := x.pa, size := e.2.1, va := s.eaOffset a o }, x.key)]
        (.gpr d e.2.1 e.2.2) false s.cur.nol1 true)) ∧
  (∀ e ∈ ([(.ldxB, 1, true, false), (.ldxBn, 1, false, false), (.ldxH, 2, true, false), (.ldxHn, 2, false, false), (.ldxW, 4, true, false),
        (.ldxWn, 4, false, false), (.ldxD, 8, false, false), (.ldAcqW, 4, true, true), (.ldAcqWn, 4, false, true), (.ldAcqD, 8, false, true)] :
      List ((GReg → GReg → GReg → BitVec 3 → Instr) × Nat × Bool × Bool)),
    ∀ (s : State) (d a b : GReg) (sh : BitVec 3) (x : Access), s.admits { nol1 := true, ahead := !e.2.2.2 } [d, a, b] = true →
      s.checkCur (s.eaIndex a b sh) e.2.1 true false = .ok x → (isDevice x.pa = true → 4 ≤ e.2.1) → s.stays x.pa = true →
      exec (e.1 d a b sh) s = .next (s.loadPieces (s.eaIndex a b sh) [({ lane := 0, pa := x.pa, size := e.2.1, va := s.eaIndex a b sh }, x.key)]
        (.gpr d e.2.1 e.2.2.1) e.2.2.2 s.cur.nol1 true))) ∧
  (∀ (s : State) (ea : Dword) (ps : List (Piece × Nat)) (d : GReg) (size : Nat) (signed nol1 : Bool),
    (∀ p k v, ps = [(p, k)] → p.lane = 0 → s.loadNear s.focus.core s.cur p k = some v →
      s.loadPieces ea ps (.gpr d size signed) false nol1 true =
        (s.touchL1 s.focus.core ps).modCur fun t => (t.wg d (extend size signed v)).retire) ∧
    (∀ p k, ps = [(p, k)] → s.loadNear s.focus.core s.cur p k = none → s.cur.runsAhead = false →
      let u := if (s.ownStores s.cur.name p.pa p.size s.nextId).isEmpty then s else s.postOf s.cur.name
      s.loadPieces ea ps (.gpr d size signed) false nol1 true =
        (u.wait { k := if gpaPkg p.pa != s.pkg then 2 else 1, a := ea, act := .data 1 [] (.gpr d size signed) false }).sendLoads
          { u.curOrigin with free := false } [([p], k)] (!nol1)) ∧
    (∀ p ∈ ps, s.loadNear s.focus.core s.cur p.1 p.2 = none → s.cur.runsAhead = true →
      s.loadPieces ea ps (.gpr d size signed) false nol1 true = s.stallFor 12 0 0 .verdict))

/-- R209, R211: An address that fails its check faults with the code of the check, the address in word 2 and what the check names in word 4, and nothing
of the load or store happens: ALIGN for a misaligned address inside the address space, XLATE for one outside it or with no translation root. The first
lane that fails decides the fault of a vector access: its code, its address, and in word 4 its index, but for an address outside the map and a peer
outside the domain, where word 4 holds what the check names; no lane is performed. The model's own part of this statement is in the log: log 82, log
90. -/
def Obligations.AccessFaults : Prop :=
  ((∀ e ∈ ([(.ldB, 1), (.ldBn, 1), (.ldH, 2), (.ldHn, 2), (.ldW, 4), (.ldWn, 4), (.ldD, 8)] : List ((GReg → GReg → BitVec 13 → Instr) × Nat)),
    ∀ (s : State) (d a : GReg) (o : BitVec 13) (c : BitVec 8) (w4 : Dword), s.admits { imm := true, nol1 := true } [d, a] = true →
      s.checkCur (s.eaOffset a o) e.2 true false = .fault c w4 → exec (e.1 d a o) s = .next (s.raise c (s.eaOffset a o) w4 0)) ∧
  (∀ e ∈ ([(.stB, 1), (.stH, 2), (.stW, 4), (.stD, 8)] : List ((GReg → GReg → BitVec 13 → Instr) × Nat)),
    ∀ (s : State) (d a : GReg) (o : BitVec 13) (c : BitVec 8) (w4 : Dword), s.admits { imm := true } [d, a] = true →
      s.checkCur (s.eaOffset a o) e.2 false true = .fault c w4 → exec (e.1 d a o) s = .next (s.raise c (s.eaOffset a o) w4 0)) ∧
  (∀ (s : State) (ea : Dword) (size : Nat) (r w : Bool),
    (2 ^ 52 ≤ ea.toNat → s.checkCur ea size r w = .fault 0x04 0) ∧
    (ea.toNat < 2 ^ 52 → ea.toNat % size ≠ 0 → s.checkCur ea size r w = .fault 0x03 0) ∧
    (ea.toNat < 2 ^ 52 → ea.toNat % size = 0 → s.cur.troot = 0 → s.checkCur ea size r w = .fault 0x04 0))) ∧
  (∀ (s : State) (size : Nat) (r w : Bool) (l : List (Nat × Dword)) (i : Nat) (ea : Dword) (rest : List (Nat × Dword)) (c : BitVec 8) (w4 : Dword)
    (f : List (Piece × Nat) → State),
    (∀ p ∈ l, ∃ x, s.checkCur p.2 size r w = .ok x ∧ isDevice x.pa = false) → s.checkCur ea size r w = .fault c w4 →
    s.withLanes size r w (l ++ (i, ea) :: rest) f = s.raise c ea (if c = 0x12 ∨ w4 ≠ 0 then w4 else BitVec.ofNat 64 i) 0)

/-- R140, R213, R214, R215: A scalar store that passes its checks and has room in the store-acknowledge count is performed: the count rises by one, the
thread goes on, and one request leaves with the low bytes of the source at the physical address. ST.REL waits until the count and the reductions are
zero, and is then posted at once. The model's own part of this statement is in the log: log 4. -/
def Obligations.StoreResults : Prop :=
  (∀ e ∈ ([(.stB, 1), (.stH, 2), (.stW, 4), (.stD, 8)] : List ((GReg → GReg → BitVec 13 → Instr) × Nat)),
    ∀ (s : State) (d a : GReg) (o : BitVec 13) (x : Access), s.admits { imm := true } [d, a] = true →
      s.checkCur (s.eaOffset a o) e.2 false true = .ok x → (isDevice x.pa = true → 4 ≤ e.2) → s.stays x.pa = true →
      s.cur.bank = none → s.cur.storeAck < 64 → s.netAdmits (gpaPkg x.pa) = true →
      exec (e.1 d a o) s = .next ((s.modCur fun t => Thread.retire { t with storeAck := t.storeAck + 1 }).sendStore
        { s.curOrigin.ticketed s.cur with ea := s.eaOffset a o } (storeBytes x.pa e.2 (s.rg d)) x.key false false)) ∧
  (∀ e ∈ ([(.stxB, 1), (.stxH, 2), (.stxW, 4), (.stxD, 8)] : List ((GReg → GReg → GReg → BitVec 3 → Instr) × Nat)),
    ∀ (s : State) (d a b : GReg) (sh : BitVec 3) (x : Access), s.admits {} [d, a, b] = true →
      s.checkCur (s.eaIndex a b sh) e.2 false true = .ok x → (isDevice x.pa = true → 4 ≤ e.2) → s.stays x.pa = true →
      s.cur.bank = none → s.cur.storeAck < 64 → s.netAdmits (gpaPkg x.pa) = true →
      exec (e.1 d a b sh) s = .next ((s.modCur fun t => Thread.retire { t with storeAck := t.storeAck + 1 }).sendStore
        { s.curOrigin.ticketed s.cur with ea := s.eaIndex a b sh } (storeBytes x.pa e.2 (s.rg d)) x.key false false)) ∧
  (∀ e ∈ ([(.stRelW, 4), (.stRelD, 8)] : List ((GReg → GReg → GReg → BitVec 3 → Instr) × Nat)),
    ∀ (s : State) (d a b : GReg) (sh : BitVec 3) (x : Access), s.admits { ahead := false } [d, a, b] = true →
      s.checkCur (s.eaIndex a b sh) e.2 false true = .ok x → (isDevice x.pa = true → 4 ≤ e.2) → s.stays x.pa = true →
      s.cur.bank = none →
      (s.cur.storeAck = 0 → s.cur.redpend = 0 → s.netAdmits (gpaPkg x.pa) = true →
        exec (e.1 d a b sh) s = .next ((s.modCur fun t => Thread.retire { t with storeAck := t.storeAck + 1 }).sendStore
          { s.curOrigin.ticketed s.cur with ea := s.eaIndex a b sh } (storeBytes x.pa e.2 (s.rg d)) x.key true false)) ∧
      (s.cur.storeAck ≠ 0 ∨ s.cur.redpend ≠ 0 →
        exec (e.1 d a b sh) s = .next ((s.postOf s.cur.name).stallFor 4 0 0 .released)))

/-- R140, R141: What a store request is, and its frame: one message joins those in flight: it holds the bytes, their key slot and their issuer, and is due
after the way to the home; the stored words leave the issuing core's L1, and a fill on its way there; no byte of memory changes before the home
applies the store, nor any register of any thread. The model's own part of this statement is in the log: log 4, log 111. -/
def Obligations.StoreRequestFrame : Prop :=
  ∀ (s : State) (o : Origin) (a : Nat) (b : Byte) (bs : List (Nat × Byte)) (key : Nat) (now rel : Bool), gpaPkg a = s.pkg →
    let t := s.sendStore o ((a, b) :: bs) key now rel
    (∃ before l, t.flight = before ++ ({ id := s.nextId, due := s.cycle + s.latency o.core a / 2, origin := o, dst := s.pkg
                                         body := .store ((a, b) :: bs) key none (now || postsAtOnce a) rel
                                         epoch := (s.core o.core).l1Epoch } :: l) ∧ l.length ≤ 1 ∧
      before.map (·.id) = s.flight.map (·.id) ∧ ∀ m ∈ s.flight, m ∈ before ∨ (∃ v f e, m.body = .data v f e) ∨ ∃ n us f e, m.body = .ack n us f e) ∧
    (∀ w ∈ ((a, b) :: bs).map (·.1 / 4), (t.core o.core).l1Word w = none) ∧
    (∀ x k, t.byte x k = s.byte x k) ∧ t.mem = s.mem ∧ (∀ core ctx, t.thread core ctx = s.thread core ctx)

/-- R217, R218: A vector access reaches the lanes that its mask makes active, at the addresses its form gives; with no active lane it completes in its
turn and makes no access; a load reads its checked lanes, and a store puts one request for each sector it writes. The model's own part of this
statement is in the log: log 4, log 82, log 94. -/
def Obligations.VectorMemoryResults : Prop :=
  (∀ (s : State) (v x : VReg) (a b : GReg) (k : KReg) (e : ESize),
    ∀ f ∈ ([(.vld v a b k, [a, b], s.unitLanes a b k, 8, false), (.vlds v a b e k, [a, b], s.strideLanes a b (esize e) k, esize e, true),
        (.vgather v a x e k, [a], s.indexLanes a x (esize e) k, esize e, true)] :
        List (Instr × List GReg × List (Nat × Dword) × Nat × Bool)),
      s.admits { nol1 := true, roam := true } f.2.1 = true →
      (f.2.2.1 = [] → exec f.1 s = .next s.retire) ∧
      (∀ xs, f.2.2.1 ≠ [] → s.checkLanes f.2.2.2.1 true false true f.2.2.1 = .ok xs →
        exec f.1 s = .next (s.loadPieces ((f.2.2.1.headD (0, 0)).2) xs (.lanes v f.2.2.2.1) false s.cur.nol1 (!f.2.2.2.2 || fewSectors xs)))) ∧
  (∀ (s : State) (v x : VReg) (a b : GReg) (k : KReg) (e : ESize),
    ∀ f ∈ ([(.vst v a b k, [a, b], s.unitLanes a b k, 8), (.vsts v a b e k, [a, b], s.strideLanes a b (esize e) k, esize e),
        (.vscatter v a x e k, [a], s.indexLanes a x (esize e) k, esize e)] : List (Instr × List GReg × List (Nat × Dword) × Nat)),
      s.admits { roam := true } f.2.1 = true →
      (f.2.2.1 = [] → exec f.1 s = .next s.retire) ∧
      (∀ xs, f.2.2.1 ≠ [] → s.checkLanes f.2.2.2 false true true f.2.2.1 = .ok xs →
        let ps := xs.map fun x => (x, laneOf s.cur.v[v] f.2.2.2 x.1.lane)
        exec f.1 s = .next (s.storeReqs ((f.2.2.1.headD (0, 0)).2) (vectorReqs ps)
          (ps.map fun p => { bytes := atAddrs p.1.1.pa (leBytes f.2.2.2 p.2), key := p.1.2, ea := p.1.1.va, lane := p.1.1.lane }) false))) ∧
  (∀ (s : State) (v : VReg) (a b : GReg) (e : ESize) (xs : List (Piece × Nat)), s.admits { nol1 := true, roam := true } [a, b] = true →
    s.checkLanes (esize e) true false true [(0, s.rg a + s.rg b)] = .ok xs →
    exec (.vbcld v a b e) s = .next (s.loadPieces (s.rg a + s.rg b) xs (.splat v (esize e)) false s.cur.nol1 true))

/-- R220, R221, R222, R61, R143, R141, R223, R225, R142: An atomic that passes its checks waits for the old value while its request goes to the home of
the word; the comparand and the operand are the low bytes of gd and gb. A reduction that passes its checks goes on at once: REDPEND rises by one and
one request leaves, and the release form first has the thread's gathered stores posted; with 16 pending it waits. FENCE.ACQ discards the L1 and
completes; FENCE.REL and FENCE.FULL complete with nothing unacknowledged, and wait otherwise; RWAIT posts the thread's gathered stores, and completes
with no reduction pending, or waits. The model's own part of this statement is in the log: log 4, log 18. -/
def Obligations.AtomicResults : Prop :=
  (∀ e ∈ ([(.amoAdd, .add), (.amoAnd, .and), (.amoOr, .or), (.amoXor, .xor), (.amoMin, .min), (.amoMax, .max), (.amoMinu, .minu), (.amoMaxu, .maxu),
      (.amoSwap, .swap), (.amoCas, .cas), (.amoFadd, .fadd), (.amoFmin, .fmin), (.amoFmax, .fmax)] :
      List ((GReg → GReg → GReg → Order → Bool → Instr) × AluOp)),
    ∀ (s : State) (d a b : GReg) (o : Order) (sz : Bool) (x : Access), s.admits { ahead := false } [d, a, b] = true →
      s.checkCur (s.rg a) (if sz then 8 else 4) true true = .ok x → s.atomicFault x (e.2 == .add && !sz) = none → s.stays x.pa = true →
      s.netAdmits (gpaPkg x.pa) = true →
      let acq := decide (o = .acq ∨ o = .ar)
      let rel := decide (o = .rel ∨ o = .ar)
      let u := if acq then s.acquire s.focus.core else s
      let u := if rel then u.postOf s.cur.name else u
      let v := (u.wait { k := 3, a := s.rg a, act := .data 1 [] (.gpr d (if sz then 8 else 4) true) acq }).dropWords s.focus.core
        (wordsOf x.pa (if sz then 8 else 4))
      exec (e.1 d a b o sz) s = .next
        (v.send ((if v.ownScratch s.focus.core x.pa then 20 else v.latency s.focus.core x.pa) / 2) (gpaPkg x.pa) (u.curOrigin.ticketed s.cur)
          (.atomic e.2 x.pa (if sz then 8 else 4) (low (if sz then 8 else 4) (s.rg b)) (low (if sz then 8 else 4) (s.rg d)) x.key rel))) ∧
  (∀ e ∈ ([(.redAdd, .add), (.redAnd, .and), (.redOr, .or), (.redXor, .xor), (.redMin, .min), (.redMax, .max), (.redMinu, .minu), (.redMaxu, .maxu),
      (.redFadd, .fadd), (.redFmin, .fmin), (.redFmax, .fmax)] : List ((GReg → GReg → Bool → Bool → Instr) × AluOp)),
    ∀ (s : State) (a b : GReg) (rel sz : Bool) (x : Access), s.admits { ahead := false } [a, b] = true →
      s.checkCur (s.rg a) (if sz then 8 else 4) true true = .ok x → s.atomicFault x (e.2 == .add && !sz) = none →
      (s.cur.redpend < 16 → s.netAdmits (gpaPkg x.pa) = true →
        exec (e.1 a b rel sz) s = .next (((if rel then s.postOf s.cur.name else s).modCur fun t => Thread.retire { t with redpend := t.redpend + 1 }).sendReduce
          { s.curOrigin.ticketed s.cur with ea := s.rg a } (.alu e.2 (if sz then 8 else 4) (low (if sz then 8 else 4) (s.rg b))) x.pa x.key rel)) ∧
      (16 ≤ s.cur.redpend → exec (e.1 a b rel sz) s = .next (s.stallFor 5 0 0 .redRoom))) ∧
  (∀ s : State, s.admits { ahead := false } [] = true →
    exec .fenceAcq s = .next (s.acquire s.focus.core).retire ∧
    (s.cur.storeAck = 0 → s.cur.redpend = 0 →
      exec .fenceRel s = .next s.retire ∧ exec .fenceFull s = .next (s.acquire s.focus.core).retire) ∧
    (s.cur.storeAck ≠ 0 ∨ s.cur.redpend ≠ 0 →
      exec .fenceRel s = .next ((s.postOf s.cur.name).stallFor 4 0 0 .released) ∧
      exec .fenceFull s = .next ((s.postOf s.cur.name).stallFor 4 0 0 .released)) ∧
    (s.cur.redpend = 0 → exec .rwait s = .next (s.postOf s.cur.name).retire) ∧
    (s.cur.redpend ≠ 0 → exec .rwait s = .next ((s.postOf s.cur.name).stallFor 5 0 0 .redZero)))

/-! ## Words: vectors, masks, conversions, the table engine -/

/-- R166, R245, R246, R99: What a lane-wise result is. An active lane holds the low bits of its value; an inactive lane stands; the flags are those of the
active lanes. The integer forms of the lane arithmetic: each active lane of vd receives the low bits of the exact result of its type's values, and no
flag is set. -/
def Obligations.VectorIntegerResults : Prop :=
  (∀ (size : Nat) (active : Nat → Bool) (old : VWord) (f : Nat → Nat × Sticky), size ∈ [1, 2, 4, 8] →
    (∀ i < 64 / size, laneOf (mapLanes size active old f).1 size i =
      if active i then (f i).1 % 2 ^ (8 * size) else laneOf old size i) ∧
    (mapLanes size active old f).2 = ((List.range (64 / size)).filter active).foldl (fun x i => x.or (f i).2) {}) ∧
  (∀ (s : State) (d a b : VReg) (k : KReg) (t : VTy), vfloat t = none → s.admits { roam := true } [] = true →
    let e := 8 * vsize t
    let val := fun x : Nat => if vsigned t then signedField e x else (x : Int)
    ∀ p ∈ ([(.vadd d a b k t, b, fun (x y : Nat) => (x : Int) + y), (.vsub d a b k t, b, fun (x y : Nat) => (x : Int) - y), (.vmul d a b k t, b, fun (x y : Nat) => (x : Int) * y),
        (.vmin d a b k t, b, fun (x y : Nat) => (min (val x) (val y))), (.vmax d a b k t, b, fun (x y : Nat) => (max (val x) (val y))),
        (.vand d a b k t, b, fun (x y : Nat) => ((x &&& y : Nat) : Int)), (.vor d a b k t, b, fun (x y : Nat) => ((x ||| y : Nat) : Int)), (.vxor d a b k t, b, fun (x y : Nat) => ((x ^^^ y : Nat) : Int)),
        (.vnot d a k t, a, fun (x _ : Nat) => 2 ^ e - 1 - (x : Int)), (.vshl d a b k t, b, fun (x y : Nat) => (x : Int) * 2 ^ (y % e)),
        (.vshr d a b k t, b, fun (x y : Nat) => ((x / 2 ^ (y % e) : Nat) : Int)), (.vshra d a b k t, b, fun (x y : Nat) => signedField e x / 2 ^ (y % e))] ++
        (if vsigned t then [(.vabs d a k t, a, fun (x _ : Nat) => ((signedField e x).natAbs : Int)), (.vneg d a k t, a, fun (x _ : Nat) => -(x : Int))] else []) :
        List (Instr × VReg × (Nat → Nat → Int))),
      exec p.1 s = .next (s.modCur fun th => Thread.retire (th.wv d (mapLanes (vsize t) (th.active k) th.v[d] fun j =>
        ((p.2.2 (laneOf th.v[a] (vsize t) j) (laneOf th.v[p.2.1] (vsize t) j) % 2 ^ e).toNat, {})).1)))

/-- R246, R101, R103, R107, R108: The float forms of the lane arithmetic, in the rounding mode at issue: the lanes are computed, and the sticky flags of
the active lanes are ORed into FLAGS. Rounding a value that the format holds gives its own pattern and no flag, in every mode. -/
def Obligations.VectorFloatResults : Prop :=
  (∀ (s : State) (d a b : VReg) (k : KReg) (t : VTy) (f : FFmt), vfloat t = some f → s.admits { rmo := true, roam := true } [] = true →
    let rm := s.cur.issueRm
    ∀ p ∈ ([(.vadd d a b k t, b, fun x y _ => f.add rm x y), (.vsub d a b k t, b, fun x y _ => f.sub rm x y), (.vmul d a b k t, b, fun x y _ => f.mul rm x y),
        (.vfma d a b k t, b, fun x y z => f.fma rm x y z), (.vfnma d a b k t, b, fun x y z => f.fnma rm x y z),
        (.vmin d a b k t, b, fun x y _ => f.minmax false x y), (.vmax d a b k t, b, fun x y _ => f.minmax true x y),
        (.vabs d a k t, a, fun x _ _ => (x % 2 ^ (f.width - 1), {})), (.vneg d a k t, a, fun x _ _ => (f.flipSign x, {})),
        (.vdiv d a b k t, b, fun x y _ => f.div rm x y), (.vsqrt d a k t, a, fun x _ _ => f.sqrt rm x)] :
        List (Instr × VReg × (Nat → Nat → Nat → Nat × Sticky))),
      exec p.1 s = .next (let th := s.cur
        let r := mapLanes (vsize t) (th.active k) th.v[d] fun j =>
          p.2.2 (laneOf th.v[a] (vsize t) j) (laneOf th.v[p.2.1] (vsize t) j) (laneOf th.v[d] (vsize t) j)
        s.modCur fun th => Thread.retire ((th.wv d r.1).orFlags r.2))) ∧
  (∀ (f : FFmt) (rm : Rm) (x : Nat) (neg : Bool) (m : Nat) (e : Int), f ∈ [fp16, bf16, fp32, fp64] → x < 2 ^ f.width →
    f.decode x = .fin neg m e → f.round rm neg m e false = (x, {}))

/-- R104: VMIN, VMAX, AMO and RED FMIN and FMAX are the minimumNumber and the maximumNumber of IEEE 754-2019: a NaN gives way to a number, two NaNs give
the canonical NaN, −0 is less than +0, and a signalling operand sets NV where flags are kept. -/
def Obligations.MinimumAndMaximum : Prop :=
  (∀ (f : FFmt) (big : Bool) (x y : Nat), f ∈ [fp16, bf16, fp32, fp64] → x < 2 ^ f.width → y < 2 ^ f.width →
    let nan := fun z => (f.decode z).isNan
    let order := fun (z : Nat) => if z < 2 ^ (f.width - 1) then (z : Int) else 2 ^ (f.width - 1) - 1 - (z : Int)
    (f.minmax big x y).2 = { nv := (f.decode x).isSig || (f.decode y).isSig } ∧
    (f.minmax big x y).1 =
      if nan x && nan y then f.nan
      else if nan x then y
      else if nan y then x
      else if (if big then order x < order y else order y < order x) then y else x) ∧
  (∀ (s : State) (d a b : VReg) (k : KReg) (t : VTy) (f : FFmt), vfloat t = some f → s.admits { rmo := true, roam := true } [] = true →
    ∀ p ∈ ([(.vmin d a b k t, false), (.vmax d a b k t, true)] : List (Instr × Bool)),
      exec p.1 s = .next (let th := s.cur
        let r := mapLanes (vsize t) (th.active k) th.v[d] fun j => f.minmax p.2 (laneOf th.v[a] (vsize t) j) (laneOf th.v[b] (vsize t) j)
        s.modCur fun th => Thread.retire ((th.wv d r.1).orFlags r.2))) ∧
  (∀ old v cmp : Nat, AluOp.fmin.apply 4 old v cmp = some (fp32.minmax false old v).1 ∧ AluOp.fmin.apply 8 old v cmp = some (fp64.minmax false old v).1 ∧
    AluOp.fmax.apply 4 old v cmp = some (fp32.minmax true old v).1 ∧ AluOp.fmax.apply 8 old v cmp = some (fp64.minmax true old v).1)

/-- R246, R248, R167, R259: A type that an operation does not accept, and a lane number that does not exist, give ILLEGAL with the word in record word 4.
These are terms that WellFormed refuses and that no word decodes to. On a tile that is not assigned to the thread's job, every matrix, copy and slot
instruction faults with SLOT and the tile's number. -/
def Obligations.RefusedWords : Prop :=
  (∀ (s : State) (d a b : VReg) (g : GReg) (l : BitVec 6) (k : KReg) (t : VTy),
    (∀ i ∈ (if (vfloat t).isNone then [.vfma d a b k t, .vfnma d a b k t, .vdiv d a b k t, .vsqrt d a k t]
        else [.vand d a b k t, .vor d a b k t, .vxor d a b k t, .vnot d a k t, .vshl d a b k t, .vshr d a b k t, .vshra d a b k t] : List Instr),
      exec i s = .next (s.raise 0x01 0 (((encode i).getD 0).setWidth 64) 0)) ∧
    (vunsigned t = true → ∀ i ∈ ([.vabs d a k t, .vneg d a k t] : List Instr),
      exec i s = .next (s.raise 0x01 0 (((encode i).getD 0).setWidth 64) 0)) ∧
    (vlanes t ≤ l.toNat → ∀ i ∈ ([.vins d g l t, .vext g a l t, .vslideUp d a l t, .vslideDown d a l t] : List Instr),
      exec i s = .next (s.raise 0x01 0 (((encode i).getD 0).setWidth 64) 0)) ∧
    (∀ y : Fin 4, t = .f64 ∨ vfloat t = none → exec (.vtab d a y k t) s = .next (s.raise 0x01 0 (((encode (.vtab d a y k t)).getD 0).setWidth 64) 0))) ∧
  (∀ (s : State) (a b c : GReg) (w : Bool) (mf : MmaFmt) (af : AccFmt) (n : BitVec 3),
    ∀ i ∈ ([(.oclaim a c, [a, c]), (.orelease a, [a]), (.opput a b, [a, b]), (.mma a b c w mf, [a, b, c]), (.acczero a, [a]),
        (.accrd a b c w af, [a, b, c]), (.accsat a c, [a, c]), (.accget a b c, [a, b, c]), (.accadd a b c, [a, b, c]),
        (.xcopy a b c, [a, b, c]), (.xcopysp a b c, [a, b, c]), (.xcommit, []), (.xwait n, [])] : List (Instr × List GReg)),
      s.admits { roam := true, ahead := false, compute := encode i.1 } i.2 = true →
      s.cur.handFor = none → ((s.tile s.here).assigned = false ∨ (s.tile s.here).job ≠ s.cur.job.setWidth 32) →
      exec i.1 s = .next (s.raise 0x09 0 (BitVec.ofNat 64 s.here) 0))

/-- R247, R249: A comparison writes a bit for each lane into kd: the outcome for an active lane, zero for every other bit. Of integers it is the order of
the type; an ordered comparison of floats with a NaN fails and sets NV, and EQ and NE set NV for a signalling NaN alone. The reductions fold the
active lanes by a binary tree over the lanes in order, an inactive lane taking no part; lane 0 of vd receives the result and its other lanes zero;
with no active lane the result is the empty value of the operation. -/
def Obligations.CompareAndReduceResults : Prop :=
  ((∀ (s : State) (d : KReg) (a b : VReg) (k : KReg) (t : VTy), s.admits { roam := true } [] = true →
    ∀ p ∈ ([(.vcmpEq, .eq), (.vcmpNe, .ne), (.vcmpLt, .lt), (.vcmpLe, .le), (.vcmpGt, .gt), (.vcmpGe, .ge)] :
        List ((KReg → VReg → VReg → KReg → VTy → Instr) × Cmp)),
      let r := fun j => p.2.lane t (laneOf s.cur.v[a] (vsize t) j) (laneOf s.cur.v[b] (vsize t) j)
      ∃ (x : Dword) (fl : Sticky), exec (p.1 d a b k t) s = .next (s.modCur fun th => Thread.retire ((th.wk d x).orFlags fl)) ∧
        (∀ j, x.getLsbD j = (decide (j < vlanes t) && s.cur.active k j && (r j).1)) ∧
        fl = ((List.range (vlanes t)).filter (s.cur.active k)).foldl (fun q j => q.or (r j).2) {}) ∧
  (∀ (t : VTy) (x y : Nat), vfloat t = none →
    let val := fun x : Nat => if vsigned t then signedField (8 * vsize t) x else (x : Int)
    Cmp.lane .eq t x y = (decide (val x = val y), {}) ∧ Cmp.lane .ne t x y = (decide (val x ≠ val y), {}) ∧
    Cmp.lane .lt t x y = (decide (val x < val y), {}) ∧ Cmp.lane .le t x y = (decide (val x ≤ val y), {}) ∧
    Cmp.lane .gt t x y = (decide (val x > val y), {}) ∧ Cmp.lane .ge t x y = (decide (val x ≥ val y), {})) ∧
  (∀ (t : VTy) (f : FFmt) (x y : Nat), vfloat t = some f → (f.decode x).isNan = true ∨ (f.decode y).isNan = true →
    let sig := (f.decode x).isSig || (f.decode y).isSig
    Cmp.lane .eq t x y = (false, { nv := sig }) ∧ Cmp.lane .ne t x y = (true, { nv := sig }) ∧
    ∀ c ∈ [Cmp.lt, .le, .gt, .ge], Cmp.lane c t x y = (false, { nv := true }))) ∧
  ((∀ (s : State) (d a : VReg) (k : KReg) (t : VTy) (op : Nat → Nat → Nat × Sticky) (empty : Nat) (i : Instr),
    s.admits { rmo := (vfloat t).isSome, roam := true } [] = true →
    (i, op, empty) ∈ (match vfloat t with
      | some f => [(.vrsum d a k t, fun x y => f.add s.cur.issueRm x y, 0), (.vrmax d a k t, fun x y => f.minmax true x y, f.inf true),
          (.vrmin d a k t, fun x y => f.minmax false x y, f.inf false)]
      | none =>
        let e := 8 * vsize t
        let val := fun x : Nat => if vsigned t then signedField e x else (x : Int)
        [(.vrsum d a k t, fun x y => ((x + y) % 2 ^ e, {}), 0),
          (.vrmax d a k t, fun x y => (if val x < val y then y else x, {}), if vsigned t then 2 ^ (e - 1) else 0),
          (.vrmin d a k t, fun x y => (if val y < val x then y else x, {}), if vsigned t then 2 ^ (e - 1) - 1 else 2 ^ e - 1)] :
      List (Instr × (Nat → Nat → Nat × Sticky) × Nat)) →
    let r := treeFold op (Nat.log2 (vlanes t))
      ((List.range (vlanes t)).map fun j => if s.cur.active k j then some (laneOf s.cur.v[a] (vsize t) j) else none)
    exec i s = .next (s.modCur fun th => Thread.retire ((th.wv d (putLane 0 (vsize t) 0 (r.1.getD empty))).orFlags r.2))) ∧
  (∀ (op : Nat → Nat → Nat × Sticky) (n : Nat) (l r : List (Option Nat)), l.length = 2 ^ n → r.length = 2 ^ n →
    (treeFold op (n + 1) (l ++ r)).1 =
      match (treeFold op n l).1, (treeFold op n r).1 with
      | none, y => y
      | x, none => x
      | some x, some y => some (op x y).1))

/-- R248, R258, R245: The moves of lanes. VSEL takes va where the mask is one and vb elsewhere; VBCAST and VINS take the low bits of a general register;
VEXT extends a lane into gd; VPERM takes the lane of va that vb names, modulo the lanes; the slides shift by lanes and fill with zero; VMOV copies
dwords. The mask instructions compute on 64 bits; KPOP counts the one bits. -/
def Obligations.LaneMoveResults : Prop :=
  (∀ (s : State) (d a b : VReg) (k : KReg) (t : VTy) (g : GReg) (l : BitVec 6),
    let n := vsize t
    let x := fun (v : VReg) j => laneOf s.cur.v[v] n j
    let put := fun (size : Nat) (active : Nat → Bool) (f : Nat → Nat) =>
      s.modCur fun th => Thread.retire (th.wv d (mapLanes size active th.v[d] fun j => (f j, {})).1)
    (s.admits { roam := true } [] = true →
      exec (.vsel d a b k t) s = .next (put n (fun _ => true) fun j => if s.cur.active k j then x a j else x b j) ∧
      exec (.vperm d a b k t) s = .next (put n (s.cur.active k) fun j => x a (x b j % vlanes t)) ∧
      exec (.vmov d a k) s = .next (put 8 (s.cur.active k) fun j => laneOf s.cur.v[a] 8 j)) ∧
    (s.admits { roam := true } [] = true → l.toNat < vlanes t →
      exec (.vslideUp d a l t) s = .next (put n (fun _ => true) fun j => if l.toNat ≤ j then x a (j - l.toNat) else 0) ∧
      exec (.vslideDown d a l t) s = .next (put n (fun _ => true) fun j => if j + l.toNat < vlanes t then x a (j + l.toNat) else 0)) ∧
    (s.admits { roam := true } [g] = true →
      exec (.vbcast d g k t) s = .next (put n (s.cur.active k) fun _ => (s.rg g).toNat) ∧
      (l.toNat < vlanes t →
        exec (.vins d g l t) s = .next (put n (fun j => j == l.toNat) fun _ => (s.rg g).toNat) ∧
        exec (.vext g a l t) s = .next (s.result g (extend n (vsigned t) (x a l.toNat)))))) ∧
  (∀ (s : State) (d a b : KReg) (g : GReg),
    (s.admits { roam := [d, a, b].any fun k => k != 0 } [] = true →
      exec (.kand d a b) s = .next (s.modCur fun t => Thread.retire (t.wk d (t.k[a] &&& t.k[b]))) ∧
      exec (.kor d a b) s = .next (s.modCur fun t => Thread.retire (t.wk d (t.k[a] ||| t.k[b]))) ∧
      exec (.kxor d a b) s = .next (s.modCur fun t => Thread.retire (t.wk d (t.k[a] ^^^ t.k[b])))) ∧
    (s.admits { roam := [d, a].any fun k => k != 0 } [] = true → exec (.knot d a) s = .next (s.modCur fun t => Thread.retire (t.wk d (~~~t.k[a])))) ∧
    (s.admits { roam := a != 0 } [g] = true →
      exec (.kget g a) s = .next (s.result g s.cur.k[a]) ∧
      exec (.kpop g a) s = .next (s.result g (BitVec.ofNat 64 ((List.range 64).filter fun j => s.cur.k[a].getLsbD j).length))) ∧
    (s.admits { roam := d != 0 } [g] = true → exec (.kset d g) s = .next (s.modCur fun t => Thread.retire (t.wk d (s.rg g)))))

/-- R250, R251: VCVT computes the lanes of the shorter side of its two formats, in the rounding mode at issue where it rounds, and ORs the flags. -/
def Obligations.ConversionResults : Prop :=
  ∀ (s : State) (d a : VReg) (k : KReg),
    ∀ p ∈ ([(.vcvtF64F32, true, 8, 64, 32, fp64.convert fp32), (.vcvtF32F64, true, 8, 32, 64, fp32.convert fp64),
        (.vcvtF32Bf16, true, 16, 32, 16, fp32.convert bf16), (.vcvtBf16F32, true, 16, 16, 32, bf16.convert fp32),
        (.vcvtF32F16, true, 16, 32, 16, fp32.convert fp16), (.vcvtF16F32, true, 16, 16, 32, fp16.convert fp32),
        (.vcvtF32I32, true, 16, 32, 32, fun rm x => fp32.toInt rm 32 x), (.vcvtI32F32, true, 16, 32, 32, fun rm x => fp32.ofInt rm (signedField 32 x)),
        (.vcvtF64I64, true, 8, 64, 64, fun rm x => fp64.toInt rm 64 x), (.vcvtI64F64, true, 8, 64, 64, fun rm x => fp64.ofInt rm (signedField 64 x)),
        (.vcvtBf16Lns8, false, 32, 16, 8, fun _ x => toLns false x), (.vcvtLns8Bf16, true, 32, 8, 16, fromLns false),
        (.vcvtBf16Lns6, false, 32, 16, 6, fun _ x => toLns true x), (.vcvtLns6Bf16, true, 32, 6, 16, fromLns true)] :
        List ((VReg → VReg → KReg → Instr) × Bool × Nat × Nat × Nat × (Rm → Nat → Nat × Sticky))),
      s.admits { rmo := p.2.1, roam := true } [] = true →
      let r := convertLanes p.2.2.1 p.2.2.2.1 p.2.2.2.2.1 (s.cur.active k) s.cur.v[d] s.cur.v[a] (p.2.2.2.2.2 s.cur.issueRm)
      exec (p.1 d a k) s = .next (s.modCur fun th => Thread.retire ((th.wv d r.1).orFlags r.2))

/-- R124: VCVT from FP32 to i32 and from FP64 to i64 rounds each active lane's value to an integer in the rounding mode: an inexact result sets NX, one
beyond the range of the type, infinities among them, gives the limit of its sign with NV and SAT, and a NaN gives 0 with NV. -/
def Obligations.VcvtToIntegerResults : Prop :=
  (∀ (s : State) (d a : VReg) (k : KReg), s.admits { rmo := true, roam := true } [] = true →
    ∀ p ∈ ([(.vcvtF32I32 d a k, 16, 4, fp32), (.vcvtF64I64 d a k, 8, 8, fp64)] : List (Instr × Nat × Nat × FFmt)),
      ∃ u : Thread, exec p.1 s = .next (s.setCur u.retire) ∧
        (∀ i < p.2.1, laneOf u.v[d] p.2.2.1 i =
          if s.cur.active k i then (p.2.2.2.toInt s.cur.issueRm p.2.2.2.width (laneOf s.cur.v[a] p.2.2.1 i)).1 else laneOf s.cur.v[d] p.2.2.1 i) ∧
        u = { s.cur with v := u.v, flags := (s.cur.orFlags (((List.range p.2.1).filter (s.cur.active k)).foldl
          (fun x i => x.or (p.2.2.2.toInt s.cur.issueRm p.2.2.2.width (laneOf s.cur.v[a] p.2.2.1 i)).2) {})).flags }) ∧
  (∀ (f : FFmt) (rm : Rm) (x : Nat), f ∈ [fp32, fp64] →
    let n := f.width
    ((f.decode x).isNan = true → f.toInt rm n x = (0, { nv := true })) ∧
    (f.decode x = .inf false → f.toInt rm n x = (2 ^ (n - 1) - 1, { nv := true, sat := true })) ∧
    (f.decode x = .inf true → f.toInt rm n x = (2 ^ (n - 1), { nv := true, sat := true })) ∧
    (∀ neg m e, f.decode x = .fin neg m e → ∃ k, RoundsTo rm neg m e k ∧
      f.toInt rm n x =
        if neg then (if 2 ^ (n - 1) < k then (2 ^ (n - 1), { nv := true, sat := true })
          else ((2 ^ n - k) % 2 ^ n, { nx := decide (e < 0 ∧ k * 2 ^ (-e).toNat ≠ m) }))
        else (if 2 ^ (n - 1) ≤ k then (2 ^ (n - 1) - 1, { nv := true, sat := true })
          else (k, { nx := decide (e < 0 ∧ k * 2 ^ (-e).toNat ≠ m) }))))

/-- R253, R254, R255, R256, R257: VTAB evaluates the tile's table in each active lane; VTLOAD at a line reads the 4,160 bytes of its image, and
VTLOAD_REPLACE puts a checked image into the table in one step and completes; an image that breaks R254 faults with the byte offset of its first bad
dword. The model's own part of this statement is in the log: log 4, log 80, log 108, log 109. -/
def Obligations.TableResults : Prop :=
  (∀ (s : State) (d a : VReg) (y : Fin 4) (k : KReg) (t : VTy) (f : FFmt), t ≠ .f64 → vfloat t = some f →
    s.admits { rmo := true, roam := true, compute := encode (.vtab d a y k t) } [] = true →
    let w := fun i => s.tableDword (tileOf s.focus.core) y.val i
    let r := mapLanes (vsize t) (s.cur.active k) s.cur.v[d] fun j =>
      vtabLane f s.cur.issueRm (w 0 % 2 ^ 32) (signedField 8 (fieldOf (w 0) 32 8))
        (fun g => (w (8 + 2 * g) % 2 ^ 32, w (8 + 2 * g) / 2 ^ 32, w (9 + 2 * g) % 2 ^ 32)) (laneOf s.cur.v[a] (vsize t) j)
    exec (.vtab d a y k t) s = .next (s.modCur fun th => Thread.retire ((th.wv d r.1).orFlags r.2))) ∧
  (∀ (s : State) (y : Fin 4) (g : GReg) (xs : List (Piece × Nat)),
    s.admits { roam := true, ahead := false, compute := encode (.vtload y g) } [g] = true → (s.rg g).toNat % 64 = 0 →
    (∀ v, s.cur.handFor = some v → exec (.vtload y g) s = .next
      ((s.wait { k := 14, a := s.rg g, act := .done 0 }).notice (s.cycle + 1) .vtloadReplace { name := s.cur.name, a := y.val })) ∧
    (s.cur.handFor = none → s.checkLanes 64 true false false ((List.range 65).map fun j => (j, s.rg g + BitVec.ofNat 64 (64 * j))) = .ok xs →
      (∀ x ∈ xs, isDevice x.1.pa = false) → s.cur.storeAck = 0 → s.cur.redpend = 0 →
      exec (.vtload y g) s = .next (s.loadPieces (s.rg g) (xs.flatMap fun x => (List.range 8).map fun i =>
        ({ lane := 8 * x.1.lane + i, pa := x.1.pa + 8 * i, size := 8, va := x.1.va }, x.2)) .none false true false))) ∧
  (∀ (s : State) (p : Place) (ds : List Nat), s.whereIs s.subject.name = some p → (s.at p).handFor = some ds → (s.at p).ending = none →
    (tableBad ds = none → exec .vtloadReplace s =
      .next (((s.setTable (tileOf (s.coreAt p)) s.subject.a ds).completeAt p id).settle s.subject.name)) ∧
    (∀ o, tableBad ds = some o → exec .vtloadReplace s =
      .next ((s.faultNamed s.subject.name 0x0A 0 (BitVec.ofNat 64 o) 0).settle s.subject.name)))

/-! ## Words: waiting -/

/-- R226, R227, R228, R229, R231, R232: WATCH arms wN on a line of this package, in its own scratchpad within the turn and elsewhere by a request to the
home; UNWATCH disarms it. WFIRED in a roaming thread reads the FIRED and ARMED bits of the four watch registers into gd and clears the FIRED bits as
in another: nothing else of the thread changes. SLEEP completes at once where an armed watch has fired, or where nothing could wake it; otherwise the
thread leaves the rotation past it until a watch fires or its deadline comes. TMARM takes the lowest free timer of its core and goes on, and waits
where all 64 are armed. The model's own part of this statement is in the log: log 4, log 11, log 18, log 41, log 96. -/
def Obligations.WatchResults : Prop :=
  ((∀ (s : State) (w : WReg) (a : GReg) (m : BitVec 4) (x : Access), s.admits { roam := true, ahead := false } [a] = true →
    let ea := BitVec.ofNat 64 ((s.rg a).toNat / 256 * 256)
    s.checkCur ea 1 true false = .ok x → isDevice x.pa = false → gpaPkg x.pa = s.pkg →
    let u := (s.withdraw s.cur.name w).modCur fun t => t.ww w (watchWord m ea)
    exec (.watch w a m) s = .next
      (if s.ownScratch s.focus.core x.pa then (u.register s.cur.name s.focus.core w (x.pa / 256) m).retire
       else (u.wait { k := 14, a := ea, act := .done 0 }).post (s.latency s.focus.core x.pa / 2) u.curOrigin (.arm w (x.pa / 256) m x.key none))) ∧
  (∀ (s : State) (w : WReg), s.admits { roam := true, ahead := false } [] = true →
    exec (.unwatch w) s = .next ((s.withdraw s.cur.name w).modCur fun t =>
      Thread.retire { t with w := t.w.set w.val (t.w[w] &&& 0x3FFFFFFFFFFFFFFF) w.isLt })) ∧
  (∀ (s : State) (d : GReg), s.admits { ahead := false } [d] = true → s.cur.roaming = true →
    ∃ u : Thread, exec (.wfired d) s = .next (s.setCur u.retire) ∧
      (∀ r : GReg, r ≠ d ∨ d = 0 → u.rg r = s.cur.rg r) ∧
      (d ≠ 0 → (∀ j : Fin 4, (u.rg d).getLsbD j.val = s.cur.w[j].getLsbD 62 ∧ (u.rg d).getLsbD (4 + j.val) = s.cur.w[j].getLsbD 63) ∧
        ∀ j, 8 ≤ j → (u.rg d).getLsbD j = false) ∧
      (∀ j : Fin 4, u.w[j].getLsbD 62 = false ∧ ∀ n, n ≠ 62 → u.w[j].getLsbD n = s.cur.w[j].getLsbD n) ∧
      u = { s.cur with g := u.g, w := u.w })) ∧
  ((∀ (s : State) (a : GReg), s.admits { roam := true, ahead := false } [a] = true →
    let n := (s.rg a).toNat
    let fd := s.cur.w.toList.any fun w => w.getLsbD 63 && w.getLsbD 62
    let ar := s.cur.w.toList.any fun w => w.getLsbD 63
    (fd = true ∨ (ar = false ∧ n = 0) → exec (.sleep a) s = .next s.retire) ∧
    (fd = false → ar = true → n = 0 → exec (.sleep a) s = .next (s.modCur fun t =>
      { t.retire.leave .sleeping { k := 9, act := .sleep, first := s.nextId } with deadline := 0, sleptAt := s.cycle })) ∧
    (fd = false → n ≠ 0 → exec (.sleep a) s = .next ((s.modCur fun t =>
      { t.retire.leave .sleeping { k := 9, act := .sleep, first := s.nextId } with deadline := s.cycle + n, sleptAt := s.cycle }).notice
        (s.cycle + n) .sleepTimeout { name := s.cur.name }))) ∧
  (∀ (s : State) (a b : GReg) (x : Access), s.admits { ahead := false } [a, b] = true → s.checkCur (s.rg a) 32 false true (tile := false) = .ok x →
    isDevice x.pa = false → gpaPkg x.pa = s.pkg →
    let c := s.focus.core
    (∀ i < 64, Assoc.look (s.core c).timers i = none → (∀ j < i, Assoc.look (s.core c).timers j ≠ none) →
      let e : Timer := { target := (s.rg b).toNat, pa := x.pa, key := x.key, name := s.cur.name, job := s.cur.job.setWidth 32, since := s.nextId }
      exec (.tmarm a b) s = .next (((s.setCore c { s.core c with timers := Assoc.insert (s.core c).timers i e }).notice
        (max (s.cycle + 1) (s.rg b).toNat) .timerRecord { a := c, b := i }).retire)) ∧
    ((∀ i < 64, Assoc.look (s.core c).timers i ≠ none) → exec (.tmarm a b) s = .next (s.stallFor 14 (s.rg a) 0 .timerRoom))))

/-- R230: WFIRED gd reads the FIRED and ARMED bits of the four watch registers into gd and clears the FIRED bits, in one turn; with g0 it clears the bits
and returns nothing; every watch stays armed. -/
def Obligations.WfiredReadsAndClears : Prop :=
  ∀ (s : State) (d : GReg), s.admits { ahead := false } [d] = true → s.cur.roaming = false →
    ∃ u : Thread, exec (.wfired d) s = .next (s.setCur u.retire) ∧
      (∀ r : GReg, r ≠ d ∨ d = 0 → u.rg r = s.cur.rg r) ∧
      (d ≠ 0 → (∀ j : Fin 4, (u.rg d).getLsbD j.val = s.cur.w[j].getLsbD 62 ∧ (u.rg d).getLsbD (4 + j.val) = s.cur.w[j].getLsbD 63) ∧
        ∀ j, 8 ≤ j → (u.rg d).getLsbD j = false) ∧
      (∀ j : Fin 4, u.w[j].getLsbD 62 = false ∧ ∀ n, n ≠ 62 → u.w[j].getLsbD n = s.cur.w[j].getLsbD n) ∧
      u = { s.cur with g := u.g, w := u.w }

/-- R233, R234, R235, R236, R237: The barrier instructions act on 16 aligned bytes of scratchpad outside the mailbox lines and fault with BARRIER
elsewhere; TBINIT stores a barrier with its count, TBEXPECT and TBARRIVE are reductions, and TBWAIT completes with an acquire where the phase differs
or FAULT is set, and otherwise leaves the rotation, to be answered by the home where the barrier is on another package. The model's own part of this
statement is in the log: log 4, log 18, log 34, log 42. -/
def Obligations.BarrierResults : Prop :=
  (∀ (s : State) (a b : GReg) (x : Access), (ownerCore (gpaLocal x.pa)).isSome = true → isMailbox (gpaLocal x.pa) = false →
    s.checkCur (s.rg a) 16 true true = .ok x →
    (s.admits { ahead := false } [a, b] = true →
      (1 ≤ (s.rg b).toNat → (s.rg b).toNat ≤ 0x7FFFFF → s.stays x.pa = true → s.cur.bank = none → s.cur.storeAck < 64 →
        s.netAdmits (gpaPkg x.pa) = true →
        exec (.tbinit a b) s = .next ((s.modCur fun t => Thread.retire { t with storeAck := t.storeAck + 1 }).sendStore { s.curOrigin.ticketed s.cur with ea := s.rg a }
          (atAddrs x.pa (leBytes 16 (TBar.init (s.rg b).toNat).toNat)) x.key true false)) ∧
      ((s.rg b).toNat ≤ 0x7FFFFFFF → s.cur.redpend < 16 → s.netAdmits (gpaPkg x.pa) = true →
        exec (.tbexpect a b) s = .next ((s.modCur fun t => Thread.retire { t with redpend := t.redpend + 1 }).sendReduce
          { s.curOrigin.ticketed s.cur with ea := s.rg a } (.expect (s.rg b).toNat) x.pa x.key false)) ∧
      (0x7FFFFF < (s.rg b).toNat ∨ (s.rg b).toNat = 0 → exec (.tbinit a b) s = .next (s.raise 0x15 0 (s.rg b) 0)) ∧
      (0x7FFFFFFF < (s.rg b).toNat → exec (.tbexpect a b) s = .next (s.raise 0x15 0 (s.rg b) 0))) ∧
    (s.admits { ahead := false } [a] = true → s.cur.redpend < 16 → s.netAdmits (gpaPkg x.pa) = true →
      exec (.tbarrive a) s = .next (((s.postOf s.cur.name).modCur fun t => Thread.retire { t with redpend := t.redpend + 1 }).sendReduce
        { s.curOrigin.ticketed s.cur with ea := s.rg a } .arrive x.pa x.key true))) ∧
  (∀ (s : State) (a : GReg) (p : BitVec 4) (x : Access), s.admits { ahead := false } [a] = true → s.checkCur (s.rg a) 16 true false = .ok x →
    (ownerCore (gpaLocal x.pa)).isSome = true → isMailbox (gpaLocal x.pa) = false → s.stays x.pa = true → gpaPkg x.pa = s.pkg →
    s.tileStateAt (gpaLocal x.pa) ≠ .reset → (∀ y ∈ addrs (gpaLocal x.pa) 16, s.poisoned y = false) →
    let u := s.countRedirect (gpaLocal x.pa)
    u.ownAhead u.cur.name (.barrier (gpaLocal x.pa) p) = false →
    let b := TBar.ofNat (u.val (gpaLocal x.pa) 16 0)
    let left := (u.postOf u.cur.name).modCur fun t =>
      { t.leave .waiting { k := 8, a := s.rg a, v := p.setWidth 64, act := .barrier (gpaLocal x.pa) p, first := u.nextId } with sleptAt := u.cycle }
    (b.fault = true ∨ b.phase ≠ p.toNat → u.ownScratch u.focus.core x.pa = true → u.heldAtTile (gpaLocal x.pa) = false →
      exec (.tbwait a p) s = .next (u.acquire u.focus.core).retire) ∧
    (b.fault = true ∨ b.phase ≠ p.toNat → u.ownScratch u.focus.core x.pa = false →
      exec (.tbwait a p) s = .next (left.post (u.latency u.focus.core x.pa) u.curOrigin (.value 0))) ∧
    (b.fault = false → b.phase = p.toNat → u.heldAtTile (gpaLocal x.pa) = false → exec (.tbwait a p) s = .next left)) ∧
  (∀ (s : State) (a : GReg) (p : BitVec 4) (x : Access), s.admits { ahead := false } [a] = true → s.checkCur (s.rg a) 16 true false = .ok x →
    (ownerCore (gpaLocal x.pa)).isSome = true → isMailbox (gpaLocal x.pa) = false → s.stays x.pa = true → gpaPkg x.pa ≠ s.pkg →
    let u := s.postOf s.cur.name
    exec (.tbwait a p) s = .next ((u.modCur fun t =>
      { t.leave .waiting { k := 8, a := s.rg a, v := p.setWidth 64, act := .far, first := u.nextId } with sleptAt := u.cycle }).send
        (u.latency u.focus.core x.pa / 2) (gpaPkg x.pa) { u.curOrigin with ea := s.rg a }
        (.await (.barrier (gpaLocal x.pa) p) x.pa x.key false false))) ∧
  (∀ (s : State) (a b : GReg) (p : BitVec 4) (x : Access), (ownerCore (gpaLocal x.pa)).isNone = true ∨ isMailbox (gpaLocal x.pa) = true →
    (s.checkCur (s.rg a) 16 true true = .ok x →
      (s.admits { ahead := false } [a, b] = true →
        exec (.tbinit a b) s = .next (s.raise 0x15 0 (BitVec.ofNat 64 (gpaLocal x.pa)) 0) ∧
        exec (.tbexpect a b) s = .next (s.raise 0x15 0 (BitVec.ofNat 64 (gpaLocal x.pa)) 0)) ∧
      (s.admits { ahead := false } [a] = true → exec (.tbarrive a) s = .next (s.raise 0x15 0 (BitVec.ofNat 64 (gpaLocal x.pa)) 0))) ∧
    (s.checkCur (s.rg a) 16 true false = .ok x → s.admits { ahead := false } [a] = true →
      exec (.tbwait a p) s = .next (s.raise 0x15 0 (BitVec.ofNat 64 (gpaLocal x.pa)) 0)))

/-- R96, R97, R239, R240, R241, R242, R243, R244: A mailbox register names an endpoint's counter: MBADD reduces to it, MBRD reads it, MBWAIT completes
with an acquire where it has reached its target and otherwise leaves the rotation. TKTAKE asks the ticket gate for the next number, and TKWAIT
completes where its number is called and otherwise waits, having told the gate where it is on another package; a number that this package has heard
called of a gate of another completes at once. A mailbox counter has reached a target where the counter less the target, modulo 2^32, is below 2^31.
The model's own part of this statement is in the log: log 4, log 42, log 91. -/
def Obligations.MailboxTicketResults : Prop :=
  ((∀ (s : State) (a b d : GReg) (c p : Nat), s.endpointFor (s.rg a) 37 = some (c, p) →
    (s.admits { ahead := false } [a, b] = true → s.cur.redpend < 16 → s.netAdmits (gpaPkg (counterAt p c (s.rg a))) = true →
      exec (.mbadd a b) s = .next (((s.postOf s.cur.name).modCur fun t => Thread.retire { t with redpend := t.redpend + 1 }).sendReduce
        { s.curOrigin.ticketed s.cur with free := true } (.alu .add 4 (low 4 (s.rg b))) (counterAt p c (s.rg a)) 0 true)) ∧
    (s.admits { ahead := false } [d, a] = true →
      exec (.mbrd a d) s = .next (s.loadPieces (s.rg a) [({ lane := 0, pa := counterAt p c (s.rg a), size := 4 }, 0)] (.gpr d 4 false) false true
        (c == s.focus.core && p == s.pkg) true)) ∧
    (s.admits { ahead := false } [a, b] = true → p = s.pkg → s.tileStateAt (gpaLocal (counterAt p c (s.rg a))) ≠ .reset →
      (∀ y ∈ addrs (gpaLocal (counterAt p c (s.rg a))) 4, s.poisoned y = false) →
      let la := gpaLocal (counterAt p c (s.rg a))
      let u := s.countRedirect la
      u.ownAhead u.cur.name (.mailbox la ((s.rg b).setWidth 32)) = false → u.heldAtTile la = false →
      let v := u.val la 4 0
      (mailboxMet v ((s.rg b).setWidth 32).toNat = true → u.ownScratch u.focus.core (counterAt p c (s.rg a)) = true →
        exec (.mbwait a b) s = .next (u.acquire u.focus.core).retire) ∧
      (mailboxMet v ((s.rg b).setWidth 32).toNat = false →
        exec (.mbwait a b) s = .next ((u.postOf u.cur.name).modCur fun t =>
          { t.leave .waiting { k := 8, a := s.rg a, v := ((s.rg b).setWidth 32).setWidth 64
                               act := .mailbox la ((s.rg b).setWidth 32), first := u.nextId } with sleptAt := u.cycle })))) ∧
  (∀ (s : State) (a b d : GReg) (c p : Nat), s.endpointFor (s.rg a) 31 = some (c, p) →
    (s.admits { ahead := false } [d, a] = true → s.netAdmits p = true →
      exec (.tktake a d) s = .next ((s.wait { k := 14, a := s.rg a, act := .data 1 [] (.gpr d 8 false) false }).send 30 p s.curOrigin
        (.ticket (s.rg a).toNat))) ∧
    (s.admits { ahead := false } [a, b] = true →
      let n := (s.rg b).setWidth 32
      (p = s.pkg → (s.gate (s.rg a).toNat).hasCalled n = true →
        exec (.tkwait a b) s = .next (s.modCur fun t => (t.admission (s.gate (s.rg a).toNat) (s.rg a).toNat n).retire)) ∧
      (p = s.pkg → (s.gate (s.rg a).toNat).hasCalled n = false →
        exec (.tkwait a b) s = .next (s.wait { k := 8, a := s.rg a, v := n.setWidth 64, act := .done 0 })) ∧
      (p ≠ s.pkg → s.heardCalled (s.rg a).toNat n = true →
        exec (.tkwait a b) s = .next (s.modCur fun t => Thread.retire { t with ticket := some ((s.rg a).toNat, n) })) ∧
      (p ≠ s.pkg → s.heardCalled (s.rg a).toNat n = false → s.netAdmits p = true →
        exec (.tkwait a b) s = .next ((s.wait { k := 8, a := s.rg a, v := n.setWidth 64, act := .done 0 }).send 30 p s.curOrigin
          (.ticketWait (s.rg a).toNat n))))) ∧
  (∀ (s : State) (a b d : GReg), s.endpointFor (s.rg a) 37 = none →
    (s.admits { ahead := false } [a, b] = true →
      exec (.mbadd a b) s = .next (s.raise 0x12 0 (s.rg a) 0) ∧ exec (.mbwait a b) s = .next (s.raise 0x12 0 (s.rg a) 0)) ∧
    (s.admits { ahead := false } [d, a] = true → exec (.mbrd a d) s = .next (s.raise 0x12 0 (s.rg a) 0))) ∧
  (∀ (s : State) (a b d : GReg), s.endpointFor (s.rg a) 31 = none →
    (s.admits { ahead := false } [a, b] = true → exec (.tkwait a b) s = .next (s.raise 0x12 0 (s.rg a) 0)) ∧
    (s.admits { ahead := false } [d, a] = true → exec (.tktake a d) s = .next (s.raise 0x12 0 (s.rg a) 0)))) ∧
  (∀ v t : Nat, v < 2 ^ 32 → t < 2 ^ 32 → mailboxMet v t = decide ((v + 2 ^ 32 - t) % 2 ^ 32 < 2 ^ 31))

/-! ## Words: threads -/

/-- R46, R47, R48, R50, R51, R194, R195, R196, R197, R198, R199, R200: SPAWN creates one thread at the b-register's target, counted in its job, or returns
zero where the wave holds 64 or the job is cancelled; a member of a wave on another package first asks that package to count the new one; SPAWNN
creates a wave; a full job or spill area gives CAPACITY. FORK puts a task on its core's deque; where it cannot, it runs as a new thread without a
wave; in a cancelled job it does nothing. JOIN completes with an acquire where its counter is zero, and otherwise sleeps, where the thread's own
stores under way count as done; a counter on another package is watched there. The model's own part of this statement is in the log: log 11, log 18,
log 35, log 42, log 77, log 88, log 106. -/
def Obligations.SpawnResults : Prop :=
  ((∀ (s : State) (d : GReg) (k : BReg), s.admits { roam := true, ahead := false } [d] = true → s.cur.waveAfar = none →
    (∀ a, s.cur.wave = some a → s.waveSize a = 64 → exec (.spawn d k) s = .next (s.result d 0)) ∧
    ((∀ a, s.cur.wave = some a → s.waveSize a ≠ 64) →
      (s.jobIndex (s.cur.job.setWidth 32) = none → exec (.spawn d k) s = .next (s.raise 0x11 0 0 0)) ∧
      (∀ i, s.jobIndex (s.cur.job.setWidth 32) = some i →
        ((s.jobEntry i).cancelled = true → exec (.spawn d k) s = .next (s.result d 0)) ∧
        ((s.jobEntry i).cancelled = false → (s.jobEntry i).allows 1 = false → exec (.spawn d k) s = .next (s.raise 0x11 0 0 0)) ∧
        ((s.jobEntry i).cancelled = false → (s.jobEntry i).allows 1 = true → s.create s.focus.core (s.spawned s.cur.b[k]) = none →
          exec (.spawn d k) s = .next (s.raise 0x11 0 (BitVec.ofNat 64 (spillDie s.focus.core)) 0)) ∧
        (∀ n u, (s.jobEntry i).cancelled = false → (s.jobEntry i).allows 1 = true → s.create s.focus.core (s.spawned s.cur.b[k]) = some (n, u) →
          let v := u.liveUp (s.cur.job.setWidth 32) 1
          exec (.spawn d k) s = .next ((match s.cur.wave with | some a => v.growWave a | none => v).result d (n.setWidth 64)))))) ∧
  (∀ (s : State) (d : GReg) (k : BReg) (p a : Nat), s.admits { roam := true, ahead := false } [d] = true → s.cur.waveAfar = some (p, a) →
    (s.cur.handFor = none → s.netAdmits p = true →
      exec (.spawn d k) s = .next ((s.wait { k := 14, act := .data 1 [] .none false }).tellWave s.focus.core s.cur .grow)) ∧
    (∀ x xs, s.cur.handFor = some (x :: xs) → x % 128 = 64 → exec (.spawn d k) s = .next (s.result d 0))) ∧
  (∀ (s : State) (d a : GReg) (k : BReg), s.admits { roam := true, ahead := false } [d, a] = true →
    let n := (s.rg a).toNat
    (n = 0 → exec (.spawnn d a k) s = .next (s.result d 0)) ∧
    (64 < n → exec (.spawnn d a k) s = .next (s.raise 0x11 0 (BitVec.ofNat 64 n) 0)) ∧
    (∀ i w, 0 < n → n ≤ 64 → s.jobIndex (s.cur.job.setWidth 32) = some i → (s.jobEntry i).cancelled = false → (s.jobEntry i).allows n = true →
      s.freeBlock s.focus.core = some w →
      let r := s.createWave s.focus.core
        (fun j => waveThread s.cur.identity s.cur.b[k] (s.cur.rg 1) s.focus.core (blockIndex s.focus.core w) 0 j n s.forkEdge) n 0 0
      r.1 = n → exec (.spawnn d a k) s = .next (((r.2.2.initBlock w n 0 s.cur.troot (s.cur.job.setWidth 32)).liveUp (s.cur.job.setWidth 32) n).result
        d (r.2.1.setWidth 64))))) ∧
  ((∀ (s : State) (k : BReg) (i : Nat), s.admits { roam := true, ahead := false } [] = true → s.jobIndex (s.cur.job.setWidth 32) = some i →
    ((s.jobEntry i).cancelled = true → exec (.fork k) s = .next s.retire) ∧
    ((s.jobEntry i).cancelled = false →
      let e := s.cur.taskEntry false s.cur.b[k] (s.cur.rg 2)
      (∀ u, s.pushTask s.focus.core e s.cur.identity s.forkEdge = some u → exec (.fork k) s = .next u.retire) ∧
      (∀ n u, s.pushTask s.focus.core e s.cur.identity s.forkEdge = none → (s.jobEntry i).allows 1 = true →
        s.create s.focus.core { newThread s.cur.identity s.cur.b[k] (s.cur.rg 1) 0 0 1 with after := s.forkEdge.toList } = some (n, u) →
        exec (.fork k) s = .next (u.liveUp (s.cur.job.setWidth 32) 1).retire))) ∧
  (∀ (s : State) (a : GReg) (x : Access), s.admits { ahead := false } [a] = true → s.checkCur (s.rg a) 4 true false = .ok x →
    isDevice x.pa = false →
    let pa := (s.farPage x.pa).getD (s.homeAddr x.pa)
    let la := gpaLocal pa
    let slept := fun (u : State) (act : WaitAct) => (u.postOf u.cur.name).modCur fun t =>
      { t.leave .sleeping { k := 9, a := s.rg a, act := act, first := (u.postOf u.cur.name).nextId } with sleptAt := u.cycle }
    (gpaPkg pa = s.pkg → s.tileStateAt la ≠ .reset → (∀ y ∈ addrs la 4, s.poisoned y = false) →
      let u := s.countRedirect la
      u.heldAtTile la = false →
      (u.watchedValue (.join la x.key) la 4 x.key = some 0 → exec (.join a) s = .next (u.acquire u.focus.core).retire) ∧
      (u.watchedValue (.join la x.key) la 4 x.key ≠ some 0 → exec (.join a) s = .next (slept u (.join la x.key))) ∧
      (u.ownAhead u.cur.name (.join la x.key) = false → u.watchedValue (.join la x.key) la 4 x.key = some (u.val la 4 x.key))) ∧
    (gpaPkg pa ≠ s.pkg →
      (s.ownValue s.cur.name pa 4 x.key = some 0 → exec (.join a) s = .next (s.acquire s.focus.core).retire) ∧
      (s.ownValue s.cur.name pa 4 x.key ≠ some 0 →
        exec (.join a) s = .next ((slept s .far).send (s.latency s.focus.core pa / 2) (gpaPkg pa) { (s.postOf s.cur.name).curOrigin with ea := s.rg a }
          (.await (.join la x.key) pa x.key false false))))))

/-- R54, R201, R202: CALLAT sends a call with the physical address of its reply slot to an endpoint that the thread may launch on, and goes on; REPLY
writes the reply of a called thread, once the name of the slot agrees. The model's own part of this statement is in the log: log 4. -/
def Obligations.CallResults : Prop :=
  (∀ (s : State) (d a : GReg) (k : BReg) (c p r : Nat) (x : Access), s.admits { roam := true, ahead := false } [d, a] = true →
    s.endpointFor (s.rg a) 31 = some (c, p) → s.checkCur (s.rg d) 8 false true = .ok x →
    (∀ y ∈ s.cur.tableEntries, s.entryFar y = false ∧ ∀ e ∈ s.farEntries, e.1 ≠ y) → s.rights s.cur (coversCore (s.rg a).toNat) = .ok r → r &&& 16 = 16 →
    (∀ i, s.jobIndex (s.cur.job.setWidth 32) = some i → (s.jobEntry i).cancelled = false) → s.netAdmits p = true →
    exec (.callat d a k) s = .next (s.retire.send (if p = s.pkg then 60 else 234) p s.curOrigin
      (.call c (s.cur.taskEntry true s.cur.b[k] (BitVec.ofNat 64 x.pa)) { s.cur.identity with key := x.key }))) ∧
  (∀ (s : State) (d a : GReg) (k : BReg), s.admits { roam := true, ahead := false } [d, a] = true → s.endpointFor (s.rg a) 31 = none →
    exec (.callat d a k) s = .next (s.raise 0x12 0 (s.rg a) 0)) ∧
  (∀ (s : State) (a b : GReg), s.admits { ahead := false } [a, b] = true →
    (s.cur.replyAddr = 0 ∨ s.rg a ≠ s.cur.replyAddr → exec (.reply a b) s = .next (s.raise 0x05 (s.rg a) 0 0)) ∧
    (s.cur.replyAddr ≠ 0 → s.rg a = s.cur.replyAddr → s.cur.storeAck < 64 → s.netAdmits (gpaPkg (s.rg a).toNat) = true →
      exec (.reply a b) s = .next (((s.postOf s.cur.name).modCur fun t => Thread.retire { t with storeAck := t.storeAck + 1 }).sendStore
        { s.curOrigin with free := true } (storeBytes (s.rg a).toNat 8 (s.rg b)) s.cur.replyKey true true)))

/-- R203, R204, R60, R61, R62, R63, R64: END begins the end of its thread, with the join counter where one is named; ROAM sheds the registers that do not
travel and marks the context as the origin stub; ANCHOR ends roaming; GOHOME completes on the channel core of its address and leaves for it otherwise,
and faults with RIGHTS outside Damask memory. The model's own part of this statement is in the log: log 4, log 33, log 43, log 89, log 100. -/
def Obligations.EndRoamResults : Prop :=
  (∀ (s : State) (a : GReg), s.admits { ahead := false } [a] = true →
    exec (.endT a false) s = .next (s.endCur 0 none) ∧
    (∀ x, s.checkCur (s.rg a) 4 true true = .ok x → s.atomicFault x true = none →
      exec (.endT a true) s = .next (s.endCur (s.rg a) (some (x.pa, x.key))))) ∧
  (∀ s : State, s.admits { roam := true, ahead := false } [] = true → s.cur.burst = false →
    (s.cur.depth = 0 → s.ownsSlot s.cur.name = false →
      exec .roam s = .next (((s.dropWatches s.cur.name).postOf s.cur.name).modCur fun t =>
        Thread.retire { t.shed with roaming := true, stub := some { ep := endpoint s.pkg s.focus.core, ctx := s.focus.ctx }
                                    xbatch := 0, batchNo := t.batchNo + 1 })) ∧
    (0 < s.cur.depth ∨ s.ownsSlot s.cur.name = true → exec .roam s = .next (s.raise 0x17 0 0 0))) ∧
  (∀ s : State, s.admits { ahead := false } [] = true →
    (s.cur.roaming = false → exec .anchor s = .next s.retire) ∧
    (s.cur.roaming = true →
      let here := endpoint s.pkg s.focus.core
      let u := s.modCur fun t => Thread.retire { t.shed with roaming := false, admitted := false, stub := none }
      (endpointPkg (nameEp s.cur.name) = s.pkg → exec .anchor s = .next (u.anchored s.cur.name here s.focus.ctx s.cur.stub)) ∧
      (endpointPkg (nameEp s.cur.name) ≠ s.pkg →
        exec .anchor s = .next (u.tell s.focus.core (endpointPkg (nameEp s.cur.name)) s.cur.name (.anchored here s.focus.ctx s.cur.stub))))) ∧
  (∀ (s : State) (a : GReg) (x : Access), s.admits { ahead := false } [a] = true → s.cur.burst = false →
    (s.cur.roaming = false → exec (.gohome a) s = .next (s.raise 0x17 0 0 0)) ∧
    (s.cur.roaming = true → s.checkCur (s.rg a) 1 true false = .ok x → isDamask x.pa = false → exec (.gohome a) s = .next (s.raise 0x05 (s.rg a) 0 0)) ∧
    (s.cur.roaming = true → s.checkCur (s.rg a) 1 true false = .ok x → isDamask x.pa = true →
      (gpaPkg x.pa = s.pkg → channelCore (gpaLocal x.pa) = s.focus.core → exec (.gohome a) s = .next s.retire) ∧
      (¬(gpaPkg x.pa = s.pkg ∧ channelCore (gpaLocal x.pa) = s.focus.core) → s.cur.storeAck = 0 → s.cur.redpend = 0 →
        s.netAdmits (gpaPkg x.pa) = true →
        exec (.gohome a) s = .next ((s.setCur (s.cur.leave .waiting { k := 13, act := .done 0, first := s.nextId })).send
          (if gpaPkg x.pa = s.pkg then 100 else 234) (gpaPkg x.pa) s.curOrigin
          (.migrate { s.cur.retire with yielding := false } (channelCore (gpaLocal x.pa)) s.focus.core)))))

/-- R42, R43, R44, R205, R48, R206: LAUNCH checks its descriptor, its right over every core of the range and the room, and then counts its threads at once
and leaves the creation of its waves to the device; R48, R206: CANCEL of the own job, or with the right to stop every thread, cancels it on every
package of the domain. The model's own part of this statement is in the log: log 4, log 18, log 81, log 107. -/
def Obligations.LaunchCancelResults : Prop :=
  (∀ (s : State) (a : GReg) (x : Access) (ds : List Nat) (i : Nat), s.admits { ahead := false } [a] = true →
    s.checkCur (s.rg a) 64 true false = .ok x → isDevice x.pa = false → s.stays x.pa = true → s.cur.handFor = some ds →
    (∀ n, launchBad ds = some n → exec (.launch a) s = .next (s.raise 0x01 0 (BitVec.ofNat 64 n) 0)) ∧
    (launchBad ds = none →
      let d1 := ds.getD 1 0
      let d2 := ds.getD 2 0
      let n := fieldOf d1 0 24 * fieldOf d1 24 7
      (∀ y ∈ s.cur.tableEntries, s.entryFar y = false ∧ ∀ e ∈ s.farEntries, e.1 ≠ y) →
      (∀ j < fieldOf d2 16 10, ∃ r, s.rights s.cur (coversCore (endpoint s.pkg (launchCore d2 j))) = .ok r ∧ r &&& 16 = 16) →
      s.jobIndex (s.cur.job.setWidth 32) = some i →
      ((s.jobEntry i).cancelled = true → exec (.launch a) s = .next s.retire) ∧
      ((s.jobEntry i).cancelled = false → (s.jobEntry i).allows n = false →
        exec (.launch a) s = .next (s.raise 0x11 0 (BitVec.ofNat 64 n) 3)) ∧
      ((s.jobEntry i).cancelled = false → (s.jobEntry i).allows n = true → fieldOf d2 16 10 * fieldOf d1 32 8 < fieldOf d1 0 24 →
        exec (.launch a) s = .next (s.raise 0x11 0 (BitVec.ofNat 64 (fieldOf d1 0 24)) 4)) ∧
      ((s.jobEntry i).cancelled = false → (s.jobEntry i).allows n = true → fieldOf d1 0 24 ≤ fieldOf d2 16 10 * fieldOf d1 32 8 →
        exec (.launch a) s = .next (s.startLaunch ds)))) ∧
  (∀ (s : State) (a : GReg), s.admits { ahead := false } [a] = true →
    (s.domainPeers s.focus.core = [] ∨ s.niFull s.focus.core (s.domainPeers s.focus.core).length = false) →
    (∀ y ∈ s.cur.tableEntries, s.entryFar y = false ∧ ∀ e ∈ s.farEntries, e.1 ≠ y) →
    let job : Word := (s.rg a).setWidth 32
    (job = s.cur.job.setWidth 32 → exec (.cancel a) s = .next (s.retire.cancelFrom s.curOrigin job)) ∧
    (job ≠ s.cur.job.setWidth 32 →
      (∀ r, s.rights s.cur (fun mask _ => mask == 0) = .ok r → r % 2 = 1 → exec (.cancel a) s = .next (s.retire.cancelFrom s.curOrigin job)) ∧
      (∀ r, s.rights s.cur (fun mask _ => mask == 0) = .ok r → r % 2 = 0 → exec (.cancel a) s = .next (s.raise 0x07 0 1 0)))) ∧
  (∀ (s : State) (a : GReg), s.admits { ahead := false } [a] = true → (s.rg a).setWidth 32 = s.cur.job.setWidth 32 →
    (∀ i, s.jobIndex (s.cur.job.setWidth 32) = some i → (s.jobEntry i).cancelled = true) → exec (.cancel a) s = .next s.retire)

/-- R348, R349, R350, R351, R364, R365: An operation on another thread names it by its whole name, needs its right over that name, and acts within the
turn on a thread of the issuer's own core; elsewhere it travels while the issuer waits. The model's own part of this statement is in the log: log 4. -/
def Obligations.ThreadOpResults : Prop :=
  ∀ (s : State) (a b c : GReg),
    ∀ e ∈ ([(.tstop a, [a], 1, 0, 0, .stop false), (.tstopH a, [a], 1, 0, 0, .stop true), (.tstart a, [a], 2, 0, 0, .start),
        (.tread a b c, [a, b, c], 4, s.rg b, c, .read (s.rg b)), (.twrite a b c, [a, b, c], 8, s.rg b, 0, .write (s.rg b) (s.rg c)),
        (.tstate a c, [a, c], 4, 0, c, .state)] : List (Instr × List GReg × Nat × Dword × GReg × ThreadOp)),
      s.admits { ahead := false } e.2.1 = true →
      let x := s.rg a
      let n : Name := x.setWidth 56
      let pkg := endpointPkg (nameEp n)
      (∀ y ∈ s.cur.tableEntries, s.entryFar y = false ∧ ∀ f ∈ s.farEntries, f.1 ≠ y) →
      (2 ^ 56 ≤ x.toNat → exec e.1 s = .next (s.raise 0x07 0 4 x)) ∧
      (x.toNat < 2 ^ 56 → domainOf pkg ≠ domainOf s.pkg → exec e.1 s = .next (s.raise 0x12 0 x 0)) ∧
      (∀ r, x.toNat < 2 ^ 56 → domainOf pkg = domainOf s.pkg → s.rights s.cur (coversName s.cur.name n) = .error r →
        exec e.1 s = .next (s.raise 0x07 0 3 (BitVec.ofNat 64 r))) ∧
      (∀ r, x.toNat < 2 ^ 56 → domainOf pkg = domainOf s.pkg → s.rights s.cur (coversName s.cur.name n) = .ok r →
        (r &&& e.2.2.1 = 0 → exec e.1 s = .next (s.raise 0x07 0 1 x)) ∧
        (r &&& e.2.2.1 ≠ 0 → 0x100 ≤ e.2.2.2.1.toNat → exec e.1 s = .next (s.raise 0x08 0 e.2.2.2.1 0)) ∧
        (r &&& e.2.2.1 ≠ 0 → e.2.2.2.1.toNat < 0x100 →
          (∀ p v u, s.target n = some p → s.coreAt p = s.focus.core → s.opReady e.2.2.2.2.2 p = true →
            s.operate e.2.2.2.2.2 p false [(s.cur.name, s.nextId)] = (.value v, u) → (∀ h, e.2.2.2.2.2 ≠ .stop h) → exec e.1 s = .next (u.result e.2.2.2.2.1 v)) ∧
          (∀ p c4 w4 w5 u, s.target n = some p → s.coreAt p = s.focus.core → s.opReady e.2.2.2.2.2 p = true →
            s.operate e.2.2.2.2.2 p false [(s.cur.name, s.nextId)] = (.fault c4 w4 w5, u) → (∀ h, e.2.2.2.2.2 ≠ .stop h) → exec e.1 s = .next (u.raise c4 0 w4 w5)) ∧
          (((∀ p, s.target n = some p → s.coreAt p ≠ s.focus.core ∨ s.opReady e.2.2.2.2.2 p = false) ∨ ∃ h, e.2.2.2.2.2 = .stop h) → s.netAdmits pkg = true →
            ∃ d, exec e.1 s = .next ((s.wait { k := 14, a := x, act := match e.2.2.2.2.2 with | .stop _ => .far | _ => .done e.2.2.2.2.1 }).send
              d pkg s.curOrigin (.threadOp e.2.2.2.2.2 n)))))

/-- R353, R354, R365, R366, R360, R361, R362, R369, R371, R372: TREAD and TWRITE act on a stopped or faulted thread only: another one refuses them as
busy, an index that R354 does not let be written gives SPECIAL, and TSTATE reads any thread. An index of the image written and read again gives the
value written: the general registers of an anchored thread, the mask registers, and the FLAGS, FAULTREC, AUTH, TROOT, PRIO, NANCTL, CABORT and
CTIMEOUT registers where their values are legal. Starting a faulted thread resumes it at its PC, READY and without its fault; starting a stopped one
gives it back the state it was stopped in; a start before the stop is complete waits for it. A thread written to the image of its tile and read back
there into a free context has the registers that R354 lists, its PC, its state, its waiting registers and its special registers. PRIOR, QSUM and the
other fields that the machine keeps beside the image are not in it (log 52, log 101), and the clause says nothing of them. The model's own part of
this statement is in the log: log 45, log 46, log 47, log 48, log 52, log 72, log 92, log 101. -/
def Obligations.ThreadImage : Prop :=
  (∀ (s : State) (p : Place) (i x : Dword) (far : Bool) (after : List (Name × Nat)),
    (((s.at p).halted = false → s.operateAt (.read i) p far after = (.fault 0x07 2 ((s.at p).name.setWidth 64), s) ∧
      s.operateAt (.write i x) p far after = (.fault 0x07 2 ((s.at p).name.setWidth 64), s))) ∧
    ((s.at p).halted = true → s.operateAt (.read i) p far after = (.value ((s.at p).imageWord s.cycle i.toNat), s)) ∧
    ((s.at p).halted = true → (∀ u, s.writeAt p i.toNat x = some u → s.operateAt (.write i x) p far after = (.value 0, u)) ∧
      (s.writeAt p i.toNat x = none → s.operateAt (.write i x) p far after = (.fault 0x08 i 0, s))) ∧
    s.operateAt .state p far after = (.value (s.summary p), s)) ∧
  (∀ (t u : Thread) (cycle i : Nat) (x : Dword), t.roaming = false → t.retiring = false → t.writeImage i x = some u →
    (i < 0x20 → u.imageWord cycle i = if i = 0 then 0 else x) ∧
    (0xA0 ≤ i → i < 0xB0 → u.imageWord cycle i = x) ∧
    (i = 0xB0 → u.imageWord cycle i = x) ∧
    (i ∈ [0xC3, 0xC4, 0xC5, 0xC6, 0xC7, 0xC9, 0xCA, 0xCB, 0xD6, 0xD7, 0xD8, 0xD9, 0xDA, 0xDB, 0xDC, 0xDD] → u.imageWord cycle i = x)) ∧
  (∀ (s : State) (core ctx : Nat) (far : Bool) (after : List (Name × Nat)),
    let p := Place.ctx core ctx
    let t := s.at p
    let u := (s.startThread p far after).thread core ctx
    (t.stopping = true → u.st = t.st ∧ u.startAfter = true) ∧
    (t.stopping = false →
      (t.st = .faulted → u.st = .ready ∧ u.fcode = 0 ∧ u.pc = t.pc ∧ u.g = t.g ∧ (u.skipBreak = (decide (t.fcode = 0x0E) && !t.pcWritten))) ∧
      (t.st = .stopped → t.prior ≠ .spilled →
        u.st = (if t.prior = .waiting then .waiting else if t.prior = .sleeping then .sleeping else .ready) ∧ u.pc = t.pc ∧ u.g = t.g) ∧
      (t.st = .held → u.st = .held ∧ u.startAfter = true))) ∧
  (∀ (t old : Thread) (cycle : Nat), old.st = .free → t.st ≠ .free → t.retiring = false → t.roaming = false →
    let u := old.ofImage (t.imageWord cycle)
    (∀ r : GReg, u.rg r = t.rg r) ∧ u.v = t.v ∧ u.k = t.k ∧ u.b = t.b ∧ u.w = t.w ∧ u.pc = t.pc ∧ u.st = t.st ∧
    u.flags = t.flags ∧ u.faultrec = t.faultrec ∧ u.auth = t.auth ∧ u.troot = t.troot ∧ u.prio = t.prio ∧ u.nanctl = t.nanctl ∧
    u.tid = t.tid ∧ u.wid = t.wid ∧ u.job = t.job ∧ u.cmem = t.cmem ∧ u.loopb = t.loopb ∧ u.loopc = t.loopc ∧ u.wait.a = t.wait.a ∧ u.wait.v = t.wait.v)

/-! ## Words: translation, tiles, engines, copies, collectives -/

/-- R390, R391, R392, R393, R395, R396: TLBINV drops the entries of its scope from the own core, from every core of the package, or from the package and
its peers, after the thread's stores are acknowledged, and completes when no access that used them is open; a bad operand gives ILLEGAL. PGLOCK and
PGSWITCH ask the homes of a page of 64 KiB of Damask memory to lock it, to switch it to another one, or to let it go, and wait for the answer, once
the thread's stores are acknowledged; a page that may not move, or whose move is in another phase, gives RIGHTS. CLWB sends a line of Damask memory
home and waits, and completes at once for a scratchpad; CLINV completes in its turn: the line leaves the core's instruction cache and L1, every
instruction buffer of the core drops its words, and a b-register of any context of the core whose buffer held a word of it becomes unprepared, its
buffer empty; nothing else changes but the thread's PC and prefixes, as for any word that completes; a device register gives RIGHTS. The model's own
part of this statement is in the log: log 4, log 51, log 78, log 116. -/
def Obligations.TranslationResults : Prop :=
  (∀ (s : State) (a b : GReg), s.admits { ahead := false } [a, b] = true →
    let gb := s.rg b
    let scope := gb.toNat % 4
    (tlbInvBad gb = true → exec (.tlbinv a b) s = .next (s.raise 0x01 0 gb 0)) ∧
    (tlbInvBad gb = false →
      (s.cur.handFor = none → s.cur.storeAck = 0 → s.cur.redpend = 0 →
        exec (.tlbinv a b) s = .next ((s.startTlbinv scope (tlbInvOf s.cur.troot (s.rg a) gb)).pollWith (if scope = 0 then 32 else 1000) (s.rg a)
          [s.nextId, s.nextId])) ∧
      (∀ i j q, s.cur.handFor = some [i, j] → s.tlbinvOpen scope (i, j) = (false, q) → exec (.tlbinv a b) s = .next s.retire) ∧
      (∀ i j q, s.cur.handFor = some [i, j] → s.tlbinvOpen scope (i, j) = (true, q) →
        exec (.tlbinv a b) s = .next (s.pollWith 16 (s.rg a) [q.1, q.2])))) ∧
  ((∀ (s : State) (a : GReg) (x : Access), s.admits { ahead := false } [a] = true → s.checkCur (s.rg a) 1 false true = .ok x →
    let moving := decide (gpaPkg x.pa = s.pkg) && (s.pageMove (gpaLocal x.pa / 0x10000)).isSome
    (leafFixed x.leaf = true ∨ moving = true → exec (.pglock a) s = .next (s.raise 0x05 (s.rg a) 0 0)) ∧
    (leafFixed x.leaf = false → moving = false → s.cur.storeAck = 0 → s.cur.redpend = 0 → s.netAdmits (gpaPkg x.pa) = true →
      exec (.pglock a) s = .next ((s.wait { k := 14, a := s.rg a, act := .done 0 }).send (if gpaPkg x.pa = s.pkg then 50 else 234) (gpaPkg x.pa) s.curOrigin
        (.page .lock (gpaLocal x.pa / 0x10000) x.key))) ∧
    (leafFixed x.leaf = false → moving = false → s.cur.storeAck ≠ 0 ∨ s.cur.redpend ≠ 0 →
      exec (.pglock a) s = .next ((s.postOf s.cur.name).stallFor 4 0 0 .released))) ∧
  (∀ (s : State) (a b : GReg) (x : Access), s.admits { ahead := false } [a, b] = true → s.checkCur (s.rg a) 1 false true = .ok x →
    let old := s.pageMove (gpaLocal x.pa / 0x10000)
    let asks := fun (eb : Dword) (op : PageOp) => (s.wait { k := 14, a := s.rg a, v := eb, act := .done 0 }).send
      (if gpaPkg x.pa = s.pkg then 50 else 234) (gpaPkg x.pa) s.curOrigin (.page op (gpaLocal x.pa / 0x10000) x.key)
    (s.rg b = 0 →
      (gpaPkg x.pa ≠ s.pkg ∨ (∃ m, old = some m ∧ m.target.isSome = true) → s.cur.storeAck = 0 → s.cur.redpend = 0 → s.netAdmits (gpaPkg x.pa) = true →
        exec (.pgswitch a b) s = .next (asks 0 .finish)) ∧
      (gpaPkg x.pa = s.pkg → (∀ m, old = some m → m.target = none) → exec (.pgswitch a b) s = .next (s.raise 0x05 (s.rg a) 0 0))) ∧
    (s.rg b ≠ 0 →
      (gpaPkg x.pa = s.pkg → (∀ m, old = some m → m.target.isSome = true ∨ m.frame = true) →
        exec (.pgswitch a b) s = .next (s.raise 0x05 (s.rg a) 0 0)) ∧
      ∀ y, gpaPkg x.pa ≠ s.pkg ∨ (∃ m, old = some m ∧ m.target = none ∧ m.frame = false) → s.checkCur (s.rg b) 1 false true = .ok y →
        let refused := (s.rg b).toNat % 0x10000 ≠ 0 ∨ leafFixed y.leaf = true ∨ y.pa / 0x10000 = x.pa / 0x10000 ∨
          (gpaPkg y.pa = s.pkg ∧ (s.pageMove (gpaLocal y.pa / 0x10000)).isSome = true)
        (refused → exec (.pgswitch a b) s = .next (s.raise 0x05 (s.rg b) 0 0)) ∧
        (¬refused → s.cur.storeAck = 0 → s.cur.redpend = 0 → s.netAdmits (gpaPkg x.pa) = true →
          exec (.pgswitch a b) s = .next (asks (s.rg b) (.switch (y.pa / 0x10000) x.key y.key)))))) ∧
  (∀ (s : State) (a : GReg) (x : Access), s.admits { ahead := false } [a] = true →
    let ea := BitVec.ofNat 64 ((s.rg a).toNat / 256 * 256)
    s.checkCur ea 1 true false = .ok x →
    (isDevice x.pa = true → exec (.clwb a) s = .next (s.raise 0x05 ea 0 0) ∧ exec (.clinv a) s = .next (s.raise 0x05 ea 0 0)) ∧
    (isDevice x.pa = false → (ownerCore (gpaLocal x.pa)).isSome = true → exec (.clwb a) s = .next s.retire) ∧
    (isDevice x.pa = false → ownerCore (gpaLocal x.pa) = none → s.netAdmits (gpaPkg x.pa) = true →
      ∃ u, exec (.clwb a) s = .next ((u.wait { k := 14, a := ea, act := .done 0 }).send (s.latency s.focus.core x.pa / 2) (gpaPkg x.pa) s.curOrigin
        (.page (.clean (gpaLocal x.pa / 256)) (gpaLocal x.pa / 0x10000) x.key)) ∧
        u = s.postGathered fun m => m.origin.core == s.focus.core && m.origin.pkg == s.pkg && m.unacked.any fun w => w / 64 == x.pa / 256) ∧
    (isDevice x.pa = false → ∃ u, exec (.clinv a) s = .next u ∧
      let c := s.focus.core
      (u.core c).icache = (s.core c).icache.filter (fun l => l.1 != x.pa / 256) ∧
      (u.core c).l1 = (s.core c).l1.filter (fun q => q.1 / 4 != x.pa / 256) ∧
      u.cur.pfxst = 0 ∧ u.cur.pc = (if s.cur.atLoopEnd then s.cur.pc else s.cur.pc + 4) ∧
      (∀ ctx, ∃ t : Thread, u.thread c ctx = (if ctx = s.focus.ctx then t.retire else t) ∧
        (∀ i : Fin 8, (t.prepared[i] = true ↔ (s.thread c ctx).prepared[i] = true ∧ ∀ y ∈ (s.thread c ctx).targets[i], y.1 / 256 ≠ x.pa / 256) ∧
          t.targets[i] = if (s.thread c ctx).targets[i].any (fun y => y.1 / 256 == x.pa / 256) then [] else (s.thread c ctx).targets[i]) ∧
        t.buffer = (s.thread c ctx).buffer.filter (fun y => y.1 / 256 != x.pa / 256) ∧
        t = { s.thread c ctx with buffer := t.buffer, prepared := t.prepared, targets := t.targets }) ∧
      (∀ i, i ≠ c → u.core i = s.core i) ∧ u.mem = s.mem ∧ u.flight = s.flight ∧ ∀ x k, u.byte x k = s.byte x k))

/-- R370, R372, R373: TSAVE stops the threads of a live tile of another core and begins its save; TRESTORE of an image begins the restore of a saved tile
from its own image, or of a reset one from any, where the image names this tile, and is refused otherwise; TRESTORE of zero begins the discard of a
saved tile; both fault with SLOT in another state of the tile, and with AUTHORITY on the own tile. The model's own part of this statement is in the
log: log 4, log 49. -/
def Obligations.TileSaveResults : Prop :=
  ∀ (s : State) (a b : GReg), s.admits { ahead := false } [a, b] = true →
    (159 < (s.rg a).toNat → exec (.tsave a b) s = .next (s.raise 0x09 0 (s.rg a) 0) ∧ exec (.trestore a b) s = .next (s.raise 0x09 0 (s.rg a) 0)) ∧
    ((s.rg a).toNat ≤ 159 → (∀ y ∈ s.cur.tableEntries, s.entryFar y = false ∧ ∀ e ∈ s.farEntries, e.1 ≠ y) →
      (∀ j < 4, ∃ r, s.rights s.cur (coversCore (endpoint s.pkg (4 * (s.rg a).toNat + j))) = .ok r ∧ r &&& 15 = 15) →
      let n := (s.rg a).toNat
      let refuse := s.raise 0x09 0 (BitVec.ofNat 64 n) (BitVec.ofNat 64 (s.tile n).state.code)
      (s.focus.core < 640 → s.here = n → exec (.tsave a b) s = .next (s.raise 0x07 0 5 0) ∧ exec (.trestore a b) s = .next (s.raise 0x07 0 5 0)) ∧
      (¬(s.focus.core < 640 ∧ s.here = n) →
        ((s.tile n).state ≠ .live → exec (.tsave a b) s = .next refuse) ∧
        ((s.tile n).state = .live → ∀ u xs, (s.rg b).toNat % 0x100000 = 0 → s.imageWalk (s.rg b).toNat 160 = (u, some (.ok xs)) →
          let v := (u.setTile n { u.tile n with
            image := (xs.headD (0, 0)).1, imagePages := xs.map (·.1), imageKeys := xs.map (·.2)
            drained := false }).setTileState n .saving
          exec (.tsave a b) s = .next (((v.stopTile n).afterChecks (s.rg b)).notice (v.cycle + 16) .saveDrained { a := n })) ∧
        (s.rg b = 0 → (s.tile n).state ≠ .saved → exec (.trestore a b) s = .next refuse) ∧
        (s.rg b = 0 → (s.tile n).state = .saved → exec (.trestore a b) s =
          .next (((s.setTileState n .discarding).afterChecks 0).notice (s.cycle + 60000) .discardComplete { a := n })) ∧
        (s.rg b ≠ 0 → (s.tile n).state ≠ .saved → (s.tile n).state ≠ .reset → exec (.trestore a b) s = .next refuse) ∧
        (∀ u xs, s.rg b ≠ 0 → (s.rg b).toNat % 0x100000 = 0 → (s.tile n).state = .saved ∨ (s.tile n).state = .reset →
          s.imageWalk (s.rg b).toNat 160 = (u, some (.ok xs)) →
          let own := (u.tile n).image = (xs.headD (0, 0)).1
          let v := u.setTile n { u.tile n with
            image := (xs.headD (0, 0)).1, imagePages := xs.map (·.1), imageKeys := xs.map (·.2), drained := (s.tile n).state == .reset
            starter := some (u.cur.name, u.nextId) }
          ((s.tile n).state = .saved → ¬own →
            exec (.trestore a b) s = .next (u.raise 0x09 0 (BitVec.ofNat 64 n) (BitVec.ofNat 64 (u.tile n).state.code))) ∧
          ((s.tile n).state = .reset ∨ own →
            (v.imageDword n 0 = saveMagic ∧ v.imageDword n 8 = u.pkg * 2 ^ 8 + n →
              exec (.trestore a b) s =
                .next (((v.setTileState n .restoring).afterChecks (s.rg b)).notice (u.cycle + 90000) .restoreComplete { a := n })) ∧
            (v.imageDword n 0 ≠ saveMagic ∨ v.imageDword n 8 ≠ u.pkg * 2 ^ 8 + n →
              exec (.trestore a b) s = .next (u.raise 0x09 0 (u.rg a) (BitVec.ofNat 64 (v.imageDword n 8))))))))

/-- R259, R265, R266, R267, R268, R275: OCLAIM gives the slot named, or the lowest free one, or all ones where there is none; ORELEASE gives it up; OPPUT
puts up to eight vector registers into sectors of a slot; ACCSAT reads the saturation count of a slot that no queued operation names. The model's own
part of this statement is in the log: log 11. -/
def Obligations.SlotResults : Prop :=
  (∀ (s : State) (a c : GReg), s.tileAdmits (.oclaim a c) [a, c] = true →
    let x := s.rg a
    let t := s.tile s.here
    (x ≠ allOnes → 31 < x.toNat → exec (.oclaim a c) s = .next (s.raise 0x09 0 x 0)) ∧
    (x = allOnes → t.freeOpSlot = none → exec (.oclaim a c) s = .next (s.result c allOnes)) ∧
    (∀ n, (x = allOnes ∧ t.freeOpSlot = some n) ∨ (x ≠ allOnes ∧ x.toNat ≤ 31 ∧ n = x.toNat) →
      ((t.opSlot n).owner = some s.cur.name → exec (.oclaim a c) s = .next (s.result c (BitVec.ofNat 64 n))) ∧
      (∀ w, (t.opSlot n).owner = some w → w ≠ s.cur.name → exec (.oclaim a c) s = .next (s.result c allOnes)) ∧
      ((t.opSlot n).owner = none → exec (.oclaim a c) s = .next (s.claim c n)))) ∧
  (∀ (s : State) (c : GReg) (n : Nat), ((s.tile s.here).opSlot n).lastJob = none ∨
      ((s.tile s.here).opSlot n).lastJob = some (s.cur.job.setWidth 32) →
    (((s.claim c n).tile s.here).opSlot n).owner = some s.cur.name ∧ (s.claim c n).cur.rg c = if c = 0 then 0 else BitVec.ofNat 64 n) ∧
  (∀ (s : State) (a : GReg), s.tileAdmits (.orelease a) [a] = true →
    let o := (s.tile s.here).opSlot (s.rg a).toNat
    ((s.rg a).toNat ≤ 31 → o.owner = some s.cur.name →
      exec (.orelease a) s = .next (s.setOpSlot s.here (s.rg a).toNat { o with owner := none }).retire) ∧
    (31 < (s.rg a).toNat ∨ o.owner ≠ some s.cur.name → exec (.orelease a) s = .next (s.raise 0x09 0 (s.rg a) 0))) ∧
  (∀ (s : State) (a b : GReg), s.tileAdmits (.opput a b) [a, b] = true →
    let ga := (s.rg a).toNat
    let gb := (s.rg b).toNat
    let o := (s.tile s.here).opSlot (ga % 32)
    let off := fieldOf ga 8 9
    let regs := (List.range (fieldOf gb 4 3 + 1)).map fun j => (j, (s.cur.v[gb % 16 + j]?.getD 0).toNat)
    (designatorBad ga = true ∨ s.mayFill s.cur o = false → exec (.opput a b) s = .next (s.raise 0x09 0 (s.rg a) 0)) ∧
    (designatorBad ga = false → s.mayFill s.cur o = true →
      (opputBad off gb = true → exec (.opput a b) s = .next (s.raise 0x09 0 (s.rg b) 0)) ∧
      (opputBad off gb = false → fieldOf gb 8 1 = 0 →
        exec (.opput a b) s = .next (s.setOpSlot s.here (ga % 32) (regs.foldl (fun o r => o.put (off + r.1) r.2 0) o)).retire) ∧
      (opputBad off gb = false → fieldOf gb 8 1 = 1 → (∀ r ∈ regs, blockFault r.2 = none) →
        exec (.opput a b) s = .next (s.setOpSlot s.here (ga % 32) (regs.foldl (fun o r => o.putBlock (off + r.1) r.2) o)).retire))) ∧
  (∀ (s : State) (a c : GReg), s.tileAdmits (.accsat a c) [a, c] = true → s.cur.handFor = none →
    (63 < (s.rg a).toNat → exec (.accsat a c) s = .next (s.raise 0x09 0 (s.rg a) 0)) ∧
    ((s.rg a).toNat ≤ 63 → (s.tile s.here).engine.length < 32 → (s.tile s.here).slotBusy (s.rg a).toNat s.nextId = false →
      exec (.accsat a c) s = .next (s.result c (((s.tile s.here).accSlot (s.rg a).toNat).sat.setWidth 64))))

/-- R260, R261, R262, R269, R270, R271, R272, R273, R274, R276: MMA, ACCZERO, ACCRD, ACCGET and ACCADD check their operands and join the engine queue of
their tile; the thread goes on, or waits in a wait form; with 32 operations queued it waits for room with its checked operands in hand, and joins the
queue with them, its checks made, when it issues again. The model's own part of this statement is in the log: log 18. -/
def Obligations.EngineIssueResults : Prop :=
  (∀ (s : State) (a b c : GReg) (w : Bool) (f : MmaFmt) (y : Access), s.tileAdmits (.mma a b c w f) [a, b, c] = true → s.cur.handFor = none →
    let x := mmaArgs f (s.rg a).toNat (s.rg c).toNat
    let mine := fun n => ((s.tile s.here).opSlot n).owner = some s.cur.name ∧ ((s.tile s.here).opSlot n).clearing = none
    (mmaBadA f (s.rg a).toNat = true ∨ ¬mine x.aSlot ∨ ¬mine x.bSlot → exec (.mma a b c w f) s = .next (s.raise 0x09 0 (s.rg a) 0)) ∧
    (mmaBadA f (s.rg a).toNat = false → mine x.aSlot → mine x.bSlot →
      (mmaBadC f (s.rg c).toNat = true → exec (.mma a b c w f) s = .next (s.raise 0x09 0 (s.rg c) 0)) ∧
      (mmaBadC f (s.rg c).toNat = false → s.checkCur (s.rg b) 16 true true = .ok y → (ownerCore (gpaLocal y.pa)).isSome = true →
        isMailbox (gpaLocal y.pa) = false →
        exec (.mma a b c w f) s = .next (s.enqueueOp (.mma f) (s.rg a) (s.rg b) (s.rg c) (if w then some (0, true) else none) (some (y.pa, y.key)))))) ∧
  (∀ (s : State) (a : GReg), s.tileAdmits (.acczero a) [a] = true → s.cur.handFor = none →
    exec (.acczero a) s = .next (if 63 < (s.rg a).toNat then s.raise 0x09 0 (s.rg a) 0 else s.enqueueOp .acczero (s.rg a) 0 0 none none)) ∧
  (∀ (s : State) (a b c : GReg) (w : Bool) (f : AccFmt) (y : Access), s.tileAdmits (.accrd a b c w f) [a, b, c] = true → s.cur.handFor = none →
    accrdBad f (s.rg a).toNat = false → (s.rg c).toNat % accBytes f = 0 → s.checkCur (s.rg b) 16 true true = .ok y →
    (ownerCore (gpaLocal y.pa)).isSome = true → isMailbox (gpaLocal y.pa) = false →
    exec (.accrd a b c w f) s = .next (s.enqueueOp (.accrd f) (s.rg a) (s.rg b) (s.rg c) (if w then some (0, true) else none) (some (y.pa, y.key)))) ∧
  (∀ (s : State) (a b c : GReg) (y : Access), (s.rg a).toNat ≤ 63 → (s.rg a).toNat % 2 = 0 → (s.rg c).toNat % 16 = 0 →
    s.checkCur (s.rg b) 16 true true = .ok y → (ownerCore (gpaLocal y.pa)).isSome = true → isMailbox (gpaLocal y.pa) = false → s.cur.handFor = none →
    (s.tileAdmits (.accget a b c) [a, b, c] = true →
      exec (.accget a b c) s = .next (s.enqueueOp .accget (s.rg a) (s.rg b) (s.rg c) none (some (y.pa, y.key)))) ∧
    (s.tileAdmits (.accadd a b c) [a, b, c] = true →
      exec (.accadd a b c) s = .next (s.enqueueOp .accadd (s.rg a) (s.rg b) (s.rg c) none (some (y.pa, y.key))))) ∧
  (∀ (s : State) (a b c : GReg) (w : Bool) (f : MmaFmt) (g : AccFmt) (x y z pa key : Nat),
    let v := fun (n : Nat) => BitVec.ofNat 64 n
    let on := if w then some ((0 : GReg), true) else none
    (s.cur.handFor = some [x, y, z, pa, key] →
      ∀ e ∈ ([(.mma a b c w f, .mma f, on), (.accrd a b c w g, .accrd g, on), (.accget a b c, .accget, none), (.accadd a b c, .accadd, none)] :
          List (Instr × EngKind × Option (GReg × Bool))),
        s.admits { roam := true, ahead := false, compute := encode e.1 } [a, b, c] = true →
        exec e.1 s = .next (s.enqueueOp e.2.1 (v x) (v y) (v z) e.2.2 (some (pa, key)))) ∧
    (s.cur.handFor = some [x, y, z] → s.admits { roam := true, ahead := false, compute := encode (.acczero a) } [a] = true →
      exec (.acczero a) s = .next (s.enqueueOp .acczero (v x) (v y) (v z) none none)) ∧
    (s.cur.handFor = some [x, y, z] → s.admits { roam := true, ahead := false, compute := encode (.accsat a c) } [a, c] = true →
      exec (.accsat a c) s = .next (s.readSat (v x) c))) ∧
  (∀ (s : State) (kind : EngKind) (a b c : Dword) (w : Option (GReg × Bool)) (bar : Option (Nat × Nat)),
    (32 ≤ (s.tile s.here).engine.length → s.enqueueOp kind a b c w bar = (s.modCur fun t => { t with inHand := some (t.pc, opInHand a b c bar) }).stallFor 14 0 0 .engineRoom) ∧
    ((s.tile s.here).engine.length < 32 → ∃ op : EngineOp,
      ((s.enqueueOp kind a b c w bar).tile s.here).engine = (s.tile s.here).engine ++ [op] ∧ op.kind = kind ∧ op.issuer = s.cur.name ∧
      op.a = a ∧ op.b = b ∧ op.c = c ∧ op.bar = (bar.map (·.1)).getD 0 ∧
      (w = none → (s.enqueueOp kind a b c w bar).cur.st = s.cur.st) ∧ (∀ d y, w = some (d, y) → (s.enqueueOp kind a b c w bar).cur.st = .waiting)))

/-- R277, R278, R283, R284, R285, R287, R288, R291, R293, R299: XCOPY and XCOPYSP read a descriptor, check it in R278's order and join their thread's open
batch, or wait for room and join it with what was checked; XCOMMIT closes the batch, and XWAIT completes with an acquire where few enough batches are
closed. HREAD checks its descriptor and its completion line, and enters the core's reservation queue; HCANCEL ends the streaming reads with its
address that the thread may cancel, and goes on. The model's own part of this statement is in the log: log 18, log 57, log 58. -/
def Obligations.CopyReadResults : Prop :=
  ((∀ (s : State) (a b c : GReg) (ds : List Nat), s.cur.handFor = some ds → ds.length = 4 →
    ∀ e ∈ ([(.xcopy a b c, false), (.xcopysp a b c, true)] : List (Instr × Bool)), s.tileAdmits e.1 [a, b, c] = true →
    let mode := copyMode (ds.getD 1 0)
    let n := copyRows (ds.getD 1 0) * copyLen (ds.getD 1 0)
    (∀ k, copyBad e.2 ds = some k → exec e.1 s = .next (s.raise 0x01 0 (BitVec.ofNat 64 k) 0)) ∧
    (∀ y, copyBad e.2 ds = none → s.checkCur (BitVec.ofNat 64 (ds.getD 0 0)) 16 true true = .ok y → (ownerCore (gpaLocal y.pa)).isSome = true →
      isMailbox (gpaLocal y.pa) = false →
      (∀ m, copyMisaligned e.2 mode (s.rg a) (s.rg b) = some m → exec e.1 s = .next (s.raise 0x03 m 0 0)) ∧
      (copyMisaligned e.2 mode (s.rg a) (s.rg b) = none → (toSlot mode = false ∨ (designatorBad (s.rg a).toNat = false ∧
          s.mayFill s.cur ((s.tile s.here).opSlot ((s.rg a).toNat % 32)) = true ∧ fieldOf (s.rg a).toNat 8 9 + n / 64 ≤ 512)) →
        (mode ≠ 4 ∨ accRegionBad (s.rg b).toNat n = false) → s.cur.openCopies ≠ 255 →
        exec e.1 s = .next ((s.modCur fun t => { t with inHand := some (t.pc, ds ++ [y.pa, y.key, (s.rg a).toNat, (s.rg b).toNat]) }).enqueueCopy e.2 (s.rg a) (s.rg b) ds
          (y.pa, y.key))))) ∧
  (∀ (s : State) (a b c : GReg) (d0 d1 d2 d3 pa key ga gb : Nat), s.cur.handFor = some [d0, d1, d2, d3, pa, key, ga, gb] → s.cur.openCopies ≠ 255 →
    ∀ e ∈ ([(.xcopy a b c, false), (.xcopysp a b c, true)] : List (Instr × Bool)),
    s.admits { roam := true, ahead := false, compute := encode e.1 } [a, b, c] = true →
    exec e.1 s = .next ((s.modCur fun t => { t with inHand := some (t.pc, [d0, d1, d2, d3, pa, key, ga % 2 ^ 64, gb % 2 ^ 64]) }).enqueueCopy e.2
      (BitVec.ofNat 64 ga) (BitVec.ofNat 64 gb) [d0, d1, d2, d3] (pa, key))) ∧
  (∀ s : State, s.tileAdmits .xcommit [] = true →
    (s.cur.openCopies = 0 → exec .xcommit s = .next s.retire) ∧
    (s.cur.openCopies ≠ 0 → s.cur.closed = 8 → exec .xcommit s = .next (s.stallFor 7 0 7 (.batches 7))) ∧
    (s.cur.openCopies ≠ 0 → s.cur.closed ≠ 8 → exec .xcommit s = .next ((s.modCur Thread.closeBatch).countBatches s.cur.name 9).retire)) ∧
  (∀ (s : State) (n : BitVec 3), s.tileAdmits (.xwait n) [] = true → s.cur.openCopies = 0 →
    (s.cur.closed ≤ n.toNat → exec (.xwait n) s = .next (s.acquire s.focus.core).retire) ∧
    (n.toNat < s.cur.closed → exec (.xwait n) s = .next (s.stallFor 7 0 (n.setWidth 64) (.batches n.toNat))))) ∧
  ((∀ (s : State) (a : GReg) (x : Access) (ds : List Nat), s.admits { roam := true, ahead := false } [a] = true →
    s.checkCur (s.rg a) 64 true false = .ok x → (ownerCore (gpaLocal x.pa)).isSome = true → s.cur.burst = false → s.cur.handFor = some ds →
    let conc := fieldOf (ds.getD 1 0) 0 7
    let cl := BitVec.ofNat 64 (ds.getD 5 0)
    (∀ i, hreadBad ds = some i → exec (.hread a) s = .next (s.raise 0x16 0 (BitVec.ofNat 64 i) 0)) ∧
    (hreadBad ds = none → 640 ≤ s.focus.core → 48 < conc → exec (.hread a) s = .next (s.raise 0x16 0 10 0)) ∧
    (∀ y, hreadBad ds = none → (s.focus.core < 640 ∨ conc ≤ 48) → s.checkCur cl 16 false true (tile := false) = .ok y →
      isDevice y.pa = false → s.actAper y.leaf ≠ 1 →
      (∀ i, s.jobIndex (s.cur.job.setWidth 32) = some i → (s.jobEntry i).allows conc = true → exec (.hread a) s = .next (s.reserve (s.rg a) ds)) ∧
      (s.jobIndex (s.cur.job.setWidth 32) = none → exec (.hread a) s = .next (s.raise 0x11 0 (BitVec.ofNat 64 conc) 0)) ∧
      (∀ i, s.jobIndex (s.cur.job.setWidth 32) = some i → (s.jobEntry i).allows conc = false →
        exec (.hread a) s = .next (s.raise 0x11 0 (BitVec.ofNat 64 conc) 0)))) ∧
  (∀ (s : State) (a : GReg) (x : Access), s.admits { roam := true, ahead := false } [a] = true → s.checkCur (s.rg a) 64 true false = .ok x →
    ((ownerCore (gpaLocal x.pa)).isNone = true → exec (.hread a) s = .next (s.raise 0x16 0 8 0)) ∧
    ((ownerCore (gpaLocal x.pa)).isSome = true → s.cur.burst = true → exec (.hread a) s = .next (s.raise 0x16 0 9 0))) ∧
  (∀ (s : State) (a : GReg), s.admits { roam := true, ahead := false } [a] = true →
    exec (.hcancel a) s = .next (s.reads.foldl (fun u p =>
      if p.2.state = .streaming ∧ p.2.addr = s.rg a ∧ u.cancels s.cur p.2 = true then
        ({ u with reads := Assoc.insert u.reads p.1 { p.2 with state := .draining, cancelled := true } }).notice (u.cycle + 1) .hreadComplete { a := p.1 }
      else u) s).retire))

/-- R309, R310, R313, R314, R315, R316, R325: CJOIN, CBR and CLEAVE fault with COLLECTIVE and their reason where their wave's state does not allow them,
and otherwise count the thread among the wave's voters; CSTATE reads the wave's collective state. A member whose wave's block lies on another package
asks that package, and goes on with its answer. The model's own part of this statement is in the log: log 4, log 77. -/
def Obligations.CollectiveResults : Prop :=
  (∀ (s : State) (a d : GReg) (k : BReg), s.cur.wave = none → s.cur.waveAfar = none →
    (s.admits { roam := true, ahead := false } [a] = true → s.cur.burst = false → exec (.cjoin a) s = .next (s.raise 0x10 0 1 0)) ∧
    (s.admits { roam := true, ahead := false } [a] = true →
      exec (.cbrAny a k) s = .next (s.raise 0x10 0 1 0) ∧ exec (.cbrAll a k) s = .next (s.raise 0x10 0 1 0)) ∧
    (s.admits { roam := true, ahead := false } [] = true → exec .cleave s = .next (s.raise 0x10 0 1 0)) ∧
    (s.admits { roam := true } [d] = true → exec (.cstate d) s = .next (s.result d 0xC0000000))) ∧
  (∀ (s : State) (a d : GReg) (k : BReg) (w : Nat), s.cur.wave = some w →
    let id := (s.rg a).toNat
    (s.admits { roam := true, ahead := false } [a] = true → s.cur.burst = false →
      (id = 0 ∨ 2 ^ 32 ≤ id → exec (.cjoin a) s = .next (s.raise 0x10 0 3 0)) ∧
      (0 < id → id < 2 ^ 32 → 2 ≤ s.cstat w ∨ (s.cstat w = 1 ∧ fieldOf (s.wcb w 3) 0 32 ≠ id) → exec (.cjoin a) s = .next (s.raise 0x10 0 2 0)) ∧
      (0 < id → id < 2 ^ 32 → s.cstat w = 1 → fieldOf (s.wcb w 3) 0 32 = id →
        exec (.cjoin a) s = .next (((s.countVoter w).wait { k := 12, act := .done 0 }).waveTest w)) ∧
      (0 < id → id < 2 ^ 32 → s.cstat w = 0 →
        exec (.cjoin a) s = .next ((((((s.wcbField w 3 62 2 1).wcbField w 3 0 32 id).wcbField w 4 16 7 0).countVoter w).wait
          { k := 12, act := .done 0 }).waveTest w))) ∧
    (s.admits { roam := true, ahead := false } [] = true →
      (s.cstat w < 2 → exec .cleave s = .next (s.raise 0x10 0 5 0)) ∧
      (s.cstat w = 2 → fieldOf (s.wcb w 4) 2 1 = 1 → exec .cleave s = .next (s.raise 0x10 0 6 0)) ∧
      (s.cstat w = 2 → fieldOf (s.wcb w 4) 2 1 = 0 →
        exec .cleave s = .next (((((s.wcbField w 3 62 2 3).wcbField w 4 16 7 0).countVoter w).wait { k := 12, act := .done 0 }).waveTest w))) ∧
    (s.admits { roam := true, ahead := false } [a] = true →
      ∀ e ∈ ([(.cbrAny a k, false), (.cbrAll a k, true)] : List (Instr × Bool)),
      (s.cstat w < 2 → exec e.1 s = .next (s.raise 0x10 0 5 0)) ∧ (s.cstat w = 3 → exec e.1 s = .next (s.raise 0x10 0 6 0)) ∧
      (s.cstat w = 2 → s.cur.cmemEpoch = s.waveEpoch w % 65536 →
        let p := s.rg a != 0
        let u := ((((s.setWcb w 4 (voteDword (s.wcb w 4) e.2 p)).countVoter w).setDeadline w (s.cur.ctimeout.toNat % 0x100000000)).waveTest w)
        exec e.1 s = .next (if (s.core s.focus.core).banksHeld < 16 then
            u.modCur fun t => { (t.direction p t.b[k] (if p then t.bCost k else 0)) with
              bank := some { ck := t.checkpoint, target := t.b[k], predicted := p, stores := [], fault := none, committing := false, seen := 0 } }
          else (u.modCur fun t => { t with cbrTarget := t.b[k] }).wait { k := 12, act := .done 0 })) ∧
      (s.cstat w = 2 → s.cur.cmemEpoch ≠ s.waveEpoch w % 65536 →
        exec e.1 s = .next ((s.modCur fun t => t.withEpoch (s.waveEpoch w % 65536)).abortAt (.ctx s.focus.core s.focus.ctx) 3 0))) ∧
    (s.admits { roam := true } [d] = true → exec (.cstate d) s = .next (s.result d (BitVec.ofNat 64 (s.waveEpoch w * 2 ^ 32 +
      fieldOf (s.wcb w 4) 0 2 * 2 ^ 30 + (if s.cur.bank.isSome then 2 ^ 29 else 0) + fieldOf (s.wcb w 3) 48 1 * 2 ^ 28 +
      s.cur.abortReason.toNat % 16 * 2 ^ 24))))) ∧
  (∀ (s : State) (a d : GReg) (k : BReg) (p w : Nat), s.cur.waveAfar = some (p, w) → s.cur.wave = none →
    let id := (s.rg a).toNat
    let asked := fun (op : WaveOp Thread) => (s.wait { k := 12, act := .data 1 [] .none false }).tellWave s.focus.core s.cur op
    (s.cur.handFor = none → s.netAdmits p = true →
      (s.admits { roam := true, ahead := false } [a] = true → s.cur.burst = false → 0 < id → id < 2 ^ 32 →
        exec (.cjoin a) s = .next (asked (.join (BitVec.ofNat 32 id)))) ∧
      (s.admits { roam := true, ahead := false } [] = true → exec .cleave s = .next (asked .quit)) ∧
      (s.admits { roam := true, ahead := false } [a] = true →
        ∀ e ∈ ([(.cbrAny a k, false), (.cbrAll a k, true)] : List (Instr × Bool)),
        exec e.1 s = .next (asked (.cast e.2 (s.rg a != 0) (s.cur.ctimeout.toNat % 0x100000000) s.cur.cmemEpoch))) ∧
      (s.admits { roam := true } [d] = true → s.cur.bank = none → exec (.cstate d) s = .next (asked .read))) ∧
    (∀ x xs, s.cur.handFor = some (x :: xs) →
      let told := if x ≠ 0 then s.raise 0x10 0 (BitVec.ofNat 64 x) 0 else (s.modCur fun t => { t with voted := true }).wait { k := 12, act := .done 0 }
      (s.admits { roam := true, ahead := false } [a] = true → s.cur.burst = false → 0 < id → id < 2 ^ 32 → exec (.cjoin a) s = .next told) ∧
      (s.admits { roam := true, ahead := false } [] = true → exec .cleave s = .next told) ∧
      (s.admits { roam := true, ahead := false } [a] = true →
        ∀ e ∈ ([.cbrAny a k, .cbrAll a k] : List Instr),
        (1 < x % 16 → exec e s = .next (s.raise 0x10 0 (BitVec.ofNat 64 (x % 16)) 0)) ∧
        (x % 16 = 0 → exec e s = .next ((s.modCur fun t => { t with voted := true }).predict (s.rg a != 0) k (BitVec.ofNat 64 x)))) ∧
      (s.admits { roam := true } [d] = true → s.cur.bank = none →
        exec (.cstate d) s = .next (s.result d (BitVec.ofNat 64 (x + s.cur.abortReason.toNat % 16 * 2 ^ 24))))))

/-! ## Events -/

/-- R32, R33, R34, R57, R59, R367: At its boundary a core that is in service applies its breakpoint writes, starts its spill moves, resumes its held
threads, fills its empty positions from the ready threads and may start a task; a thread whose quantum has expired, or that has yielded, gives way to
a ready one of equal or higher priority and keeps its place without one; a ready thread of a lower priority rises by one after its wait. What filling
the positions of a core does: each position takes the ready thread that comes first by effective priority, ready time and context number, and a
position stays empty where no thread may be bound. The spill engine: an eviction moves the longest sleeper of a full core into the lowest free slot
and sets its move going; the end of a move out leaves the thread in its slot, and the end of a move in re-admits the head of the core's queue. The
model's own part of this statement is in the log: log 2, log 11, log 36, log 81. -/
def Obligations.RotationEvents : Prop :=
  ((∀ s : State, (s.core s.subject.a).lost = false → s.coreSaved s.subject.a = false →
    let core := s.subject.a
    let c := s.core core
    let u := s.setCore core { c with breakpoints := c.breakStores.foldl (fun bs x => Assoc.insert bs x.1 x.2) c.breakpoints, breakStores := [] }
    let v := u.startMoves core
    v.coreSaved core = false →
    let w := v.resumeHeld core
    exec .rotationBoundary s = .next ((State.fill core (w.core core).emptyPositions w).startTask core)) ∧
  (∀ (s : State) (x : Nat), (s.core s.subject.a).turn s.subject.b = some x →
    let c := s.core s.subject.a
    let t := s.thread s.subject.a x
    let waiter := c.ctxs.any fun y => s.bindable y.2 && decide (y.2.effPrio ≤ t.effPrio) && decide (y.2.readyTime < s.cycle)
    (c.quantum ≤ t.turns ∨ t.yielding = true →
      (waiter = true → ∃ u, exec .quantumExpiry s = .next u ∧ (u.thread s.subject.a x).st = .ready ∧ (u.thread s.subject.a x).pos = none ∧
        (u.thread s.subject.a x).g = t.g ∧ (u.thread s.subject.a x).pc = t.pc) ∧
      (waiter = false → ∃ u, exec .quantumExpiry s = .next u ∧ (u.thread s.subject.a x).st = t.st ∧ (u.thread s.subject.a x).pos = t.pos ∧
        (u.thread s.subject.a x).yielding = false)) ∧
    (t.turns < c.quantum → t.yielding = false → exec .quantumExpiry s = .next s)) ∧
  (∀ s : State, (s.thread s.subject.a s.subject.b).st = .ready → 0 < (s.thread s.subject.a s.subject.b).effPrio →
    (s.thread s.subject.a s.subject.b).agedAt + Config.agingRotations * 16 ≤ s.cycle →
    exec .agingPromotion s = .next (s.setThread s.subject.a s.subject.b
      { s.thread s.subject.a s.subject.b with effPrio := (s.thread s.subject.a s.subject.b).effPrio - 1, agedAt := s.cycle }))) ∧
  (∀ (s : State) (core x : Nat), s.nextBound core = some x →
    (∃ t, (x, t) ∈ (s.core core).ctxs ∧ s.bindable t = true ∧
      ∀ y ∈ (s.core core).ctxs, s.bindable y.2 = true → bindsBefore y (x, t) = false ∨ y = (x, t)) ∧
    (∀ p ps, State.fill core (p :: ps) s = State.fill core ps (s.bind core x p)) ∧
    ((s.bind core x 0).thread core x).st = .bound) ∧
  ((∀ (s : State) (x i : Nat), ((s.core s.subject.a).spillQueue ≠ [] ∨ (s.gathering s.subject.a).isSome = true) → s.coreSaved s.subject.a = false →
    s.freeCount s.subject.a = 0 → s.moves' (spillDie s.subject.a) < 16 → s.longestSleeper s.subject.a = some x →
    s.freeSlot (spillDie s.subject.a) = some i →
    let core := s.subject.a
    let d := spillDie core
    let u := s.setThread core x Thread.idle
    let th : Thread := { s.thread core x with st := .spilled, spSleep := true, ticket := none, pfxAt := Vector.replicate 3 none }
    let e : Spilled := { core := core, thr := th, moving := true }
    exec .spillEviction s = .next ((u.setDie d { u.die d with slots := Assoc.insert (u.die d).slots i e }).post 200 {} (.spillMove d i core true))) ∧
  (∀ (s : State) (m : Msg) (die slot core : Nat) (out : Bool) (e : Spilled), s.msg? s.subject.a = some m → m.body = .spillMove die slot core out →
    Assoc.look (s.die die).slots slot = some e → e.moving = true →
    (out = true → exec .spillMoveDone s = .next ((s.drop m.id).setMoving die slot false)) ∧
    (out = false → (s.core core).spillQueue.head? = some e.thr.name → exec .spillMoveDone s = .next ((s.drop m.id).readmit die slot core e))) ∧
  (∀ s : State, exec .reservationGrant s = .next (s.gather (s.core s.subject.a).resQueue.length s.subject.a)))

/-- R36, R66, R92, R229, R231, R232, R140, R71, R380: A watched write fires its registrations; a sleep whose deadline has come wakes; a timer that is due
writes its record of four dwords, once its thread's earlier stores are acknowledged, and is free; gathered stores are posted; a fetched line fills the
instruction cache and its thread goes on; a walk that has a walker finishes. A wake makes a waiting or sleeping thread ready and leaves the registers,
and a stopped one stays stopped and is to resume as ready. The model's own part of this statement is in the log: log 2, log 12, log 102. -/
def Obligations.WakeEvents : Prop :=
  ((∀ (s : State) (m : Msg) (x y : Nat) (hits : List Registration), s.msg? s.subject.a = some m → m.body = .fire x y hits →
    exec .watchFire s = .next (hits.foldl (fun s r => s.fireAt r) (s.drop m.id))) ∧
  (∀ (s : State) (p : Place), s.whereIs s.subject.name = some p → (s.at p).wait.act = .sleep → (s.at p).deadline ≠ 0 → (s.at p).deadline ≤ s.cycle →
    exec .sleepTimeout s = .next (s.wakeAt p)) ∧
  (∀ (s : State) (e : Timer), Assoc.look (s.core s.subject.a).timers s.subject.b = some e → e.target ≤ s.cycle →
    (e.sent = none → s.earlierOpen e.name e.since = true → exec .timerRecord s = .next (s.notice (s.cycle + 1) .timerRecord s.subject)) ∧
    let free := fun (u : State) => (u.setCore s.subject.a { u.core s.subject.a with
      timers := Assoc.erase (u.core s.subject.a).timers s.subject.b }).wakeWhere s.subject.a fun t => t.wait.act == .again .timerRoom
    (e.sent = none → s.earlierOpen e.name e.since = false →
      let u := s.deviceWrite e.pa e.key (dwordBytes [e.target, s.cycle, e.name.toNat, 0]) { core := s.subject.a, job := e.job, record := true }
      u.storeOpen s.nextId = false → exec .timerRecord s = .next (free u)) ∧
    (∀ i, e.sent = some i → (s.storeOpen i = false → exec .timerRecord s = .next (free s)) ∧
      (s.storeOpen i = true → exec .timerRecord s = .next (s.notice (s.cycle + 1) .timerRecord s.subject)))) ∧
  (∀ s : State, exec .storeGatherPost s = .next (s.postGathered fun m => m.origin.core == s.subject.a && m.origin.pkg == s.pkg &&
    (match m.body with | .store ((a, _) :: _) _ _ _ _ => a / 64 == s.subject.b | _ => false))) ∧
  (∀ (s : State) (m : Msg) (core line key : Nat), s.msg? s.subject.a = some m → m.body = .icache core line key →
    s.farPage (line * 256) = none → s.heldAtTile (gpaLocal (line * 256)) = false → m.origin.pkg = s.pkg →
    let u := s.drop m.id
    let a := gpaLocal (line * 256)
    u.tileStateAt a ≠ .reset → (∀ x ∈ addrs a 256, u.poisoned x = false) →
    let v := (addrs 0 4).foldl (fun v i => v.sliceRead (u.forwarded a + 64 * i) key) (u.countRedirect a)
    exec .icacheFill s = .next (v.fillLine core line (u.bytes (u.forwarded a) 256 key) m.origin.name)) ∧
  (∀ (s : State) (i : Nat) (w : Walk), (s.core s.subject.a).walks.findIdx? (fun k => k.id == s.subject.b) = some i → i < Config.walkers →
    (s.core s.subject.a).walks[i]? = some w → exec .tlbWalkDone s = .next (s.finishWalk s.subject.a w))) ∧
  (∀ (t : Thread) (cycle : Nat),
    (t.wake cycle).g = t.g ∧ (t.wake cycle).v = t.v ∧ (t.wake cycle).pc = t.pc ∧ (t.wake cycle).flags = t.flags ∧
    (t.st = .waiting ∨ t.st = .sleeping → t.stopping = false → (t.wake cycle).st = .ready ∧ (t.wake cycle).readyTime = cycle) ∧
    (t.st = .stopped → t.prior = .waiting ∨ t.prior = .sleeping → (t.wake cycle).st = .stopped ∧ (t.wake cycle).prior = .ready) ∧
    (t.st = .bound ∨ t.st = .ready ∨ t.st = .faulted → t.wake cycle = t))

/-- R133, R140, R143, R144, R378, R386, R389, R409: Requests at their home. A load answers the values of its elements; a store registers on arrival and is
applied when its data has come and nothing before it is to be applied first, and its bytes are acknowledged; an atomic registers, has what is before
it on its word recalled, answers the old value of the word and writes the new one; a reduction is applied and acknowledged; each once. A request with
a number that its window holds already is answered from the window and does nothing again, whatever it asks. The model's own part of this statement is
in the log: log 4, log 93, log 94, log 95. -/
def Obligations.HomeEvents : Prop :=
  ((∀ (s : State) (m : Msg) (ps : List Piece) (key : Nat) (fill : Bool) (epoch : Nat), s.msg? s.subject.a = some m → m.body = .load ps key fill epoch →
    (∀ p ∈ ps, s.heldAtTile (gpaLocal p.pa) = false ∧ (isDevice p.pa = true ∨ s.ownOpenAt m (s.homeAddr p.pa) p.size = false ∧ s.behindUnits p = false)) →
    s.farPage (((ps.head?).map (·.pa)).getD 0) = none → ((∀ p ∈ ps, isDevice p.pa = false) ∨ s.deviceBefore m = false) →
    exec .load s = .next (s.serveLoad m ps key fill epoch)) ∧
  (∀ (s : State) (m : Msg) (p : Piece) (ps : List Piece) (key : Nat) (fill : Bool) (epoch : Nat), s.peerRefuses m p.pa key = none →
    s.tileStateAt (gpaLocal p.pa) ≠ .reset → s.poisonIn (p :: ps) = none → m.origin.block = none →
    let x := s.forwarded (gpaLocal p.pa)
    let d := s.latency m.origin.core p.pa / 2
    s.serveLoad m (p :: ps) key fill epoch = ((s.countRedirect (gpaLocal p.pa)).sliceRead x key).answer
      (if isDamask p.pa ∧ !s.sliceHolds x key then d + Config.sliceMiss else d) m
      (.data ((p :: ps).map fun q => (q.lane, s.homePiece key q)) (if fill then s.sectorWords key p.pa else []) epoch)) ∧
  (∀ (s : State) (m : Msg) (bs : List (Nat × Byte)) (key : Nat) (q : Option Nat) (posted rel : Bool), s.msg? s.subject.a = some m →
    m.body = .store bs key q posted rel → (rel = false ∨ s.earlierOpen m.origin.name m.id = false ∨ m.origin.pkg ≠ s.pkg) →
    s.farPage ((bs.headD (0, 0)).1) = none → m.dedup = none →
    (∀ n, q = some n → exec .store s = .next (s.storeTurn m bs key n posted)) ∧
    (q = none → s.ownBefore m = false → s.peerRefuses m ((bs.headD (0, 0)).1) key = none →
      let u : State := { s with nextSeq := s.nextSeq + 1 }
      let cs := bs.map fun b => (u.homeAddr b.1, b.2)
      exec .store s = .next ((u.modMsg m.id fun m => { m with body := .store cs key (some s.nextSeq) posted rel }).storeTurn m cs key s.nextSeq posted)) ∧
    (∀ c, q = none → s.ownBefore m = false → s.peerRefuses m ((bs.headD (0, 0)).1) key = some c →
      exec .store s = .next (s.answer 1 m (.nack c 0 (BitVec.ofNat 64 (gpaLocal ((bs.headD (0, 0)).1))) true)))) ∧
  (∀ (s : State) (m : Msg) (bs : List (Nat × Byte)) (key n : Nat) (posted : Bool),
    let locked := ∃ b ∈ bs, s.lockedFor (gpaLocal b.1) n = true
    let stays := posted = false ∨ (∃ b ∈ bs, s.heldAtTile (gpaLocal b.1) = true) ∨ s.behindOthers bs n = true
    (locked → s.storeTurn m bs key n posted = s.noteHeld m) ∧ (¬locked → stays → s.storeTurn m bs key n posted = s) ∧
    (¬locked → ¬stays → s.storeTurn m bs key n posted = s.applyStore m bs key n)) ∧
  (∀ (s u : State) (m : Msg) (op : AluOp) (pa pa' size no : Nat) (v cmp : Dword) (key : Nat) (rel : Bool), s.msg? s.subject.a = some m →
    m.body = .atomic op pa size v cmp key rel → (rel = false ∨ s.earlierOpen m.origin.name m.id = false ∨ m.origin.pkg ≠ s.pkg) →
    s.farPage pa = none → m.dedup = none →
    (m.regd = some no ∧ u = s ∧ pa' = pa ∨ m.regd = none ∧ s.ownBefore m = false ∧ no = s.nextSeq ∧ pa' = ({ s with nextSeq := s.nextSeq + 1 } : State).homeAddr pa ∧
      u = ({ s with nextSeq := s.nextSeq + 1 } : State).modMsg m.id fun x => { x with regd := some no, body := x.body.rebase s.homeAddr }) →
    u.heldAtTile (gpaLocal pa') = false → u.lockedFor (gpaLocal pa') no = false → u.aheadOf pa' size no = [] → u.peerRefuses m pa key = none →
    u.tileStateAt (gpaLocal pa) ≠ .reset → u.poisonIn [{ lane := 0, pa := pa, size := size }] = none →
    let w := (u.countRedirect (gpaLocal pa)).ticketBytes m.origin pa size
    let r := w.amoAt (some (m.origin.writer no)) op (w.forwarded (gpaLocal pa)) size key v.toNat cmp.toNat
    exec .atomic s = .next ((r.2.answer (u.latency m.origin.core pa / 2) m (.old (BitVec.ofNat 64 r.1) (wordsOf pa size))).ownDone m.origin)) ∧
  (∀ (s u : State) (m : Msg) (what : RedWhat) (pa pa' no key : Nat) (rel : Bool), s.msg? s.subject.a = some m →
    m.body = .reduce what pa key rel → (rel = false ∨ s.earlierOpen m.origin.name m.id = false ∨ m.origin.pkg ≠ s.pkg) →
    s.farPage pa = none → m.dedup = none → m.origin.dev = none →
    (m.regd = some no ∧ u = s ∧ pa' = pa ∨ m.regd = none ∧ s.ownBefore m = false ∧ no = s.nextSeq ∧ pa' = ({ s with nextSeq := s.nextSeq + 1 } : State).homeAddr pa ∧
      u = ({ s with nextSeq := s.nextSeq + 1 } : State).modMsg m.id fun x => { x with regd := some no, body := x.body.rebase s.homeAddr }) →
    u.heldAtTile (gpaLocal pa') = false → u.lockedFor (gpaLocal pa') no = false → u.aheadOf pa' what.size no = [] → u.peerRefuses m pa key = none →
    u.tileStateAt (gpaLocal pa) ≠ .reset →
    let w := (u.countRedirect (gpaLocal pa)).ticketBytes m.origin pa what.size
    exec .reduce s = .next ((((w.reduceAt (some (m.origin.writer no)) what (w.forwarded (gpaLocal pa)) key).answer
      (u.latency m.origin.core pa / 2) m (.ack false (wordsOf pa what.size) [] 0)).ownDone m.origin).arrived m.id)) ∧
  (∀ (s : State) (m : Msg) (no pa size : Nat) (f : Author → State → State), s.heldAtTile (gpaLocal pa) = false → s.lockedFor (gpaLocal pa) no = false →
    s.aheadOf pa size no ≠ [] → s.homeTurn m no pa size f =
      { s.recallAt pa size no with flight := behindLast m.id ((s.aheadOf pa size no).map (·.id)) (s.recallAt pa size no).flight })) ∧
  (∀ (s : State) (m : Msg) (f g : State → State) (seq lus : Nat) (w : Window), m.dedup = some (seq, lus) → m.origin.pkg ≠ s.pkg →
    s.window (endpoint m.origin.pkg m.origin.core) m.body.gateway = some w → (∃ e ∈ w.entries, e.1 = seq) →
    s.once m f = s.once m g ∧ (s.once m f).mem = s.mem ∧ ∀ core ctx, (s.once m f).thread core ctx = s.thread core ctx)

/-- R144, R227, R31, R140, R143, R406: A recall has the gathered data of its word posted and the word leave the L1 and the thread's own stores; a watch
request arms its registration; an answer reaches its requester: data fills the L1 and goes to the waiting thread, an acknowledgement counts, and a
refusal faults the thread or is counted. The model's own part of this statement is in the log: log 12, log 38, log 39, log 95. -/
def Obligations.AnswerEvents : Prop :=
  (∀ (s : State) (m : Msg) (pa core : Nat), s.msg? s.subject.a = some m → m.body = .recall pa core →
    let ours := fun (x : Msg) => x.origin.core == core && x.origin.pkg == s.pkg && x.relay.isNone && x.unacked.contains (pa / 4)
    let u := s.postGathered ours
    let v := (({ u with flight := u.flight.map fun x => if ours x then { x with recalled := pa / 4 :: x.recalled } else x } : State).dropWords
      core [pa / 4]).recallOn core (pa / 4)
    (m.origin.pkg = v.pkg → exec .recall s = .next (v.drop m.id)) ∧
    (m.origin.pkg ≠ v.pkg → exec .recall s = .next (v.answer 1 m (.ack true [] [] 0)))) ∧
  (∀ (s : State) (m : Msg) (reg : WReg) (line : Nat) (mask : BitVec 4) (key : Nat), s.msg? s.subject.a = some m → m.body = .arm reg line mask key none →
    s.farPage (line * 256) = none → (s.whereIs m.origin.name).isSome = true →
    let pa := gpa s.pkg (s.forwarded (gpaLocal (line * 256)))
    let u := s.register m.origin.name m.origin.core reg (pa / 256) mask
    let fill := if isDamask pa then ((List.range 4).filter fun i => mask.getLsbD i).flatMap fun i => u.sectorWords key (line * 256 + 64 * i) else []
    exec .watchRegistration s = .next ((u.readMasked (s.forwarded (gpaLocal (line * 256))) key mask).answer (u.latency m.origin.core pa / 2) m (.data [] fill (u.core m.origin.core).l1Epoch))) ∧
  (∀ (s : State) (m : Msg) (p : Place) (vals : List (Nat × Nat)) (fill : List (Nat × L1Word)) (epoch : Nat), s.msg? s.subject.a = some m →
    m.body = .data vals fill epoch → s.unasked m = false →
    s.relayFor m = none → m.origin.walker = false →
    (∀ c l k, m.about.or ((m.req.bind s.msg?).map (·.body)) ≠ some (.icache c l k)) → m.origin.dev = none →
    let u := ((s.partArrived m).dropBoth m).fillL1 m.origin.core fill epoch
    u.whereIs m.origin.name = some p →
    (u.late p m = false → exec .data s = .next ((u.deliver p vals).settle m.origin.name)) ∧ (u.late p m = true → exec .data s = .next u)) ∧
  (∀ (s : State) (m : Msg) (p : Place) (v : Dword) (ws : List Nat), s.msg? s.subject.a = some m → m.body = .old v ws → s.unasked m = false → s.relayFor m = none →
    let u := (s.dropBoth m).outdate m.origin.core (m.req.getD m.id) ws
    u.whereIs m.origin.name = some p → u.late p m = false →
    exec .data s = .next ((u.deliver p [(0, v.toNat)]).settle m.origin.name)) ∧
  (∀ (s : State) (m r : Msg) (store : Bool) (ws : List Nat) (fill : List (Nat × L1Word)) (epoch : Nat), s.msg? s.subject.a = some m →
    m.body = .ack store ws fill epoch → m.req.bind s.msg? = some r → r.relay = none → m.origin.lastResort = none → m.origin.walker = false →
    let u := (((s.dropBoth m).outdate m.origin.core (m.req.getD m.id) ws).fillL1 m.origin.core fill epoch).acknowledge m.origin.name store
    ((∃ bs key q posted rel, r.body = .store bs key q posted rel) → exec .ack s = .next u) ∧
    ((∃ w pa key rel, r.body = .reduce w pa key rel) → exec .ack s = .next (u.arrived (m.req.getD m.id)))) ∧
  (∀ (s : State) (m : Msg), s.msg? s.subject.a = some m → m.head.isSome = true → m.req.bind s.msg? = none →
    exec .data s = .next (s.drop m.id) ∧ exec .ack s = .next (s.drop m.id)) ∧
  (∀ (s : State) (m r : Msg) (code : BitVec 8) (w2 w4 : Dword) (post : Bool), s.msg? s.subject.a = some m → m.body = .nack code w2 w4 post →
    (m.req.bind s.msg?).or (m.about.map fun b => { m with body := b }) = some r →
    (code = 0 → exec .nack s = .next ((s.drop m.id).notice (s.cycle + 2600) .dedupRetryTimer { a := r.id })) ∧
    (code ≠ 0 → ¬(code = 0x12 ∧ r.dst ≠ s.pkg ∧ r.sent = 0) → (∀ t, s.named r.origin.name = some t → t.runsAhead = false) →
      exec .nack s = .next (((s.drop m.id).refuse r code w2 w4).netFreed r.origin.core)))

/-- R85, R373, R384, R388, R398, R421, R422, R423, R426, R428, R429, R430: A store of a device register has its register's own effect and is acknowledged;
a store that takes VALID from a key slot is acknowledged when the slices have written back and dropped the slot's sectors. The model's own part of
this statement is in the log: log 22, log 23, log 114. -/
def Obligations.RegisterEvents : Prop :=
  (∀ (s : State) (f : Nat → Nat → Msg → State → State) (m : Msg) (bs : List (Nat × Byte)) (key : Nat) (q : Option Nat) (rel : Bool),
    s.msg? s.subject.a = some m → m.body = .store bs key q true rel → s.deviceBefore m = false →
    (rel = false ∨ s.earlierOpen m.origin.name m.id = false ∨ m.origin.pkg ≠ s.pkg) → m.dedup = none →
    s.peerRefuses m ((bs.headD (0, 0)).1) key = none →
    s.onRegister f = f (gpaLocal ((bs.headD (0, 0)).1) / 8 * 8) (s.merged bs) m s) ∧
  (∀ s : State,
    exec .jobEntryWrite s = .next (s.onRegister fun a v m s => (s.storeJob ((a - 0xF000100000) / 32) (a % 32 / 8) v).regDone m) ∧
    exec .tileAssignWrite s = .next (s.onRegister fun a v m s => (s.storeAssign ((a - 0xF000300000) / 8) v).regDone m) ∧
    exec .registerWrite s = .next (s.onRegister fun a v m s => (s.storePlain a v).regDone m) ∧
    exec .quantumWrite s = .next (s.onRegister fun a v m s => match blockCore a with | some (c, _) => (s.storeBlock c 0 v).regDone m | none => s.regDone m) ∧
    exec .admcapWrite s = .next (s.onRegister fun a v m s => match blockCore a with | some (c, _) => (s.storeBlock c 8 v).regDone m | none => s.regDone m) ∧
    exec .bkptWrite s = .next (s.onRegister fun a v m s => match blockCore a with | some (c, o) => (s.storeBlock c o v).regDone m | none => s.regDone m) ∧
    exec .pkgWrite s = .next (s.onRegister fun _ v m s => if s.pkgWritten then s.regDone m else
      (s.setPkg (v % 2 ^ 19)).regDone (if m.origin.pkg = s.pkg then { m with origin := { m.origin with pkg := v % 2 ^ 19 } } else m)) ∧
    exec .keySlotWrite s = .next (s.onRegister fun a v m s =>
      let i := (a - 0xF000200000) / 128
      let k := (s.key i).store (a % 128 / 8) v
      if (s.key i).valid = true ∧ k.valid = false then
        (({ s with keys := Assoc.insert s.keys i { k with clearing := some m.origin } } : State).modMsg m.id fun x => { x with due := 2 ^ 64 }).notice
          (s.cycle + 1000) .keySlotWritebackDone { a := i, b := m.id }
      else ({ s with keys := Assoc.insert s.keys i k } : State).regDone m) ∧
    exec .startokWrite s = .next (s.onRegister fun _ v m s =>
      let h := { s.health with startokReg := BitVec.ofNat 64 v }
      ({ s with health := if v = 1 then { h with startOk := true, anchor := { h.anchor with count := 0 } } else h } : State).regDone m) ∧
    exec .resetgoWrite s = .next (s.onRegister fun _ v m s =>
      let u := ({ s with health := { s.health with resetgoReg := BitVec.ofNat 64 v } } : State).regDone m
      match u.health.resetAt with
      | some till => if v = 1 then u.notice (u.cycle + 1) .resetDeadline { a := till } else u
      | none => u) ∧
    exec .quoteWrite s = .next (s.onRegister fun _ v m s =>
      let u := s.regDone m
      if u.health.quote.isSome ∨ v % 64 ≠ 0 ∨ 0xC000000000 ≤ v then u
      else ({ u with health := { u.health with quote := some v, quoteReg := BitVec.ofNat 64 v, nonce := u.bytes (v + 0x40) 64 0 } } : State).notice
        (u.cycle + 2 * heartbeatCycles / 10) .quoteDone { a := v }) ∧
    exec .mrextWrite s = .next (s.onRegister fun _ v m s =>
      let u := s.regDone m
      if v % 8 < 3 ∨ 0xC000000000 ≤ v % 2 ^ 40 / 64 * 64 then u
      else { u with health := { u.health.extend (v % 8) (u.bytes (v % 2 ^ 40 / 64 * 64) 64 0) with mrextReg := BitVec.ofNat 64 v } }) ∧
    exec .sampleWrite s = .next (s.onRegister fun _ v m s =>
      let u := s.regDone m
      ({ u with health := { u.health with sample := BitVec.ofNat 64 v, sampleArmed := true } } : State).notice (max (u.cycle + 1) v) .samplePulse { a := v })) ∧
  (∀ (s : State) (m : Msg) (bs : List (Nat × Byte)) (key : Nat) (q : Option Nat) (posted rel : Bool), s.msg? s.subject.b = some m →
    m.body = .store bs key q posted rel →
    exec .keySlotWritebackDone s =
      .next ((({ s with keys := Assoc.insert s.keys s.subject.a { s.key s.subject.a with clearing := none } } : State).dropTagged s.subject.a).regDone m))

/-- R399, R402, R404, R405, R406, R409, R410, R424: The events of the ports and of the transport. A port comes up or changes its lanes, is retired, and
counts retries and errors; an idle deduplication entry is freed after 1 ms; a port with fewer than two lanes leaves the spray sets; a frame that does
not arrive is counted, and no other message is lost; a request whose time has run out is sent again, and is given up when eight retransmissions have
failed; the drops of a window that has ended are recorded. The model's own part of this statement is in the log: log 38, log 73, log 76, log 97, log
98. -/
def Obligations.FabricEvents : Prop :=
  ∀ s : State,
    (∀ i n, s.subject.a = i → s.subject.b = n → i < 32 → s.health.power ≠ .minimal ∨ i = 0 → n ≤ 8 →
      exec .linkUp s = .next ((s.modPort i fun p => ({ p with up := true } : Port).withLanes n).unspray i) ∧
      exec .laneChange s = .next ((s.modPort i fun p => p.withLanes n).unspray i) ∧
      (3 ≤ n → (s.modPort i fun p => p.withLanes n).unspray i = s.modPort i fun p => p.withLanes n)) ∧
    (s.health.power = .minimal → s.subject.a ≠ 0 → exec .linkUp s = .next s ∧ exec .laneChange s = .next s) ∧
    (s.subject.a < 32 →
      exec .linkRetire s = .next
        ((s.modPort s.subject.a fun p => p.withLanes (if p.lanes.toNat ≤ 1 then p.lanes.toNat else 0)).unspray s.subject.a) ∧
      exec .linkLevelRetry s = .next (s.modPort s.subject.a fun p => { p with retries := countUp p.retries }) ∧
      (s.subject.b = 0 → exec .ingressDrop s = .next (s.modPort s.subject.a fun p => { p with errors := countUp p.errors })) ∧
      (s.subject.b ≠ 0 → exec .ingressDrop s =
        .next (({ s with flight := s.flight.filter fun m => !(m.id + 1 == s.subject.b && s.droppable m) } : State).modPort s.subject.a fun p =>
          { p with errors := countUp p.errors }))) ∧
    (∀ m, (∀ f, m.body ≠ .mgmt f) → (∀ src port, m.body ≠ .unknown src port) → m.dst ≠ s.pkg ∨ m.delivered = true ∨ m.head = none → s.droppable m = false) ∧
    (∀ i r, Assoc.look (s.unspray i).routes r = (Assoc.look s.routes r).map fun x =>
      if (s.port i).vcmode = 3 then x &&& ~~~(1#32 <<< i) else x) ∧
    (∀ w, s.window s.subject.a s.subject.b = some w → (∀ e ∈ w.entries, numberBelow e.1 w.lus = true) →
      w.last + Config.second / 1000 ≤ s.cycle →
      exec .dedupWindowIdle s =
        .next { s with windows := s.windows.filter fun (x : Window) => !(x.source == w.source && x.gateway == w.gateway) }) ∧
    exec .dedupRetryTimer s = .next (s.modMsg s.subject.a fun m => { m with sent := 0 }) ∧
    (∀ d, (s.core s.subject.a).drops = [d] → d.till ≤ s.cycle →
      exec .resetDropWindow s = .next ((s.setCore s.subject.a { s.core s.subject.a with drops := [] }).record s.subject.a d.faultrec d.troot d.job
        (d.code.toNat + nostopBit) 0 d.first d.name.toNat d.place d.count)) ∧
    (∀ m, s.msg? s.subject.a = some m → m.dst ≠ s.pkg → m.sent ≠ 0 →
      (m.tries < 8 → s.reachable m.origin.core m.dst = true →
        exec .transportTimeout s = .next (s.modMsg m.id fun m => { m with tries := m.tries + 1, sent := 0 })) ∧
      (8 ≤ m.tries ∨ s.reachable m.origin.core m.dst = false →
        exec .transportTimeout s = .next ((s.refuse m 0x12 0 (BitVec.ofNat 64 (m.body.target m.dst))).netFreed m.origin.core)))

/-- R61, R63, R54, R48, R391, R393, R243, R244, R355, R358, R360, R365: What arrives for a thread, an endpoint or a package, once its message is taken: a
migrating thread takes a context or is refused; a call becomes a thread or a task of its core, and one to a lost core is refused with FABRIC, as an
operation on its threads is; a job is cancelled, translations are dropped, a page moves a phase; a ticket is given and called; an operation acts on
its thread and answers. The events of tickets and threads that carry no message: a ticket whose time is over is retired; the stop of a thread
completes when its requests are, and answers those who wait for it; a fault is recorded when the stores of its thread are acknowledged; the root
supervisor's record at a last-resort line before STARTOK fails the start. The model's own part of this statement is in the log: log 4, log 37, log 42,
log 46, log 87, log 100. -/
def Obligations.TravelEvents : Prop :=
  (∀ (s : State) (m : Msg), s.msg? s.subject.a = some m → m.dedup = none →
    (∀ t core c0 p, m.body = .migrate t core c0 → m.origin.pkg = s.pkg → s.whereIs t.name = some p → (s.at p).ending = none → (s.core core).lost = false →
      let u := ({ t with flags := (s.at p).flags, nanStop := (s.at p).nanStop, nanLater := (s.at p).nanLater } : Thread).packet
      (s.arrivalRefused core u = none →
        exec .migrate s = .next (((s.drop m.id).leaveContext p (endpoint s.pkg core) 0).arrive core u)) ∧
      (∀ why, s.arrivalRefused core u = some why →
        exec .migrate s = .next (s.refuse m 0x11 (BitVec.ofNat 64 why) (BitVec.ofNat 64 (endpoint s.pkg core))))) ∧
    (∀ t core c0, m.body = .migrate t core c0 → m.origin.pkg ≠ s.pkg → (s.core core).lost = false →
      (∀ i, s.jobIndex (t.job.setWidth 32) = some i → (s.jobEntry i).cancelled = false) →
      let u := t.fromAfar s.pkg m.origin.pkg
      (s.arrivalRefused core u = none → u.stub = none →
        let v := ((s.answer 1 m (.ack true [] [] 0)).arrive core u).liveUp (u.job.setWidth 32) 1
        exec .migrate s = .next { v with trail := v.trail.filter fun (e : Name × Nat) => e.1 != u.name }) ∧
      (∀ why, s.arrivalRefused core u = some why →
        exec .migrate s = .next (s.answer 1 m (.nack 0x11 (BitVec.ofNat 64 why) (BitVec.ofNat 64 (endpoint s.pkg core)) false)))) ∧
    (∀ core e who, m.body = .call core e who → (m.origin.pkg ≠ s.pkg ∨ s.earlierOpen m.origin.name m.id = false) →
      s.heldAtTile (dequeBase core) = false → (s.core core).lost = true →
      let ep := BitVec.ofNat 64 (endpoint s.pkg core)
      (m.origin.pkg = s.pkg → exec .call s = .next (s.refuse m 0x12 0 ep)) ∧
      (m.origin.pkg ≠ s.pkg → exec .call s = .next (s.answer 1 m (.nack 0x12 0 ep true)))) ∧
    (∀ core e who, m.body = .call core e who → (m.origin.pkg ≠ s.pkg ∨ s.earlierOpen m.origin.name m.id = false) →
      s.heldAtTile (dequeBase core) = false → (s.core core).lost = false → s.tileStateAt (dequeBase core) ≠ .reset →
      let u := (s.countRedirect (dequeBase core)).takeCall core m.origin.name e who
      (m.origin.pkg = s.pkg → u.pkg = s.pkg → exec .call s = .next (u.drop m.id)) ∧
      (m.origin.pkg ≠ s.pkg → u.pkg = s.pkg → exec .call s = .next (u.answer 1 m (.ack true [] [] 0)))) ∧
    (∀ job, m.body = .cancelJob job → exec .controlCancel s = .next ((s.cancelJob job).answer 1 m (.ack true [] [] 0))) ∧
    (∀ i, m.body = .tlbinv i none →
      exec .controlTlbinv s = .next ((s.invalidateAll i).modMsg m.id fun m => { m with body := .tlbinv i (some (s.nextId, s.nextId)) })) ∧
    (∀ i ids, m.body = .tlbinv i (some ids) →
      ((s.dropOpen ids fun _ => true).1 = true → exec .controlTlbinv s =
        .next (s.modMsg m.id fun m => { m with body := .tlbinv i (some (s.dropOpen ids fun _ => true).2) })) ∧
      ((s.dropOpen ids fun _ => true).1 = false → exec .controlTlbinv s = .next (s.answer 1 m (.ack true [] [] 0)))) ∧
    (∀ op page key, m.body = .page op page key →
      (s.peerRefuses m (gpa s.pkg (page * 0x10000)) key = none → exec .controlTlbinv s = .next (s.pageAt m op page)) ∧
      (∀ code, s.peerRefuses m (gpa s.pkg (page * 0x10000)) key = some code →
        exec .controlTlbinv s = .next (s.answer 1 m (.nack code 0 0 false)))) ∧
    (∀ ep, m.body = .ticket ep →
      let n := (s.gate ep).next + 1
      exec .ticket s = .next ((({ s with tickets := Assoc.insert s.tickets ep { s.gate ep with next := n } } : State).answer 30 m
        (.value (n.setWidth 64))).callTickets 4 ep)) ∧
    (∀ ep n, m.body = .ticketWait ep n →
      let g := s.gate ep
      let taker := (n, m.origin.pkg, m.origin.core)
      (g.hasCalled n = true → exec .ticket s = .next (s.answer 30 m (.value (if g.isActive n then 2 else 1)))) ∧
      (g.hasCalled n = false → exec .ticket s = .next
        (({ s with tickets := Assoc.insert s.tickets ep { g with takers := g.takers.filter (· != taker) ++ [taker] } } : State).answer 30 m (.value 0)))) ∧
    (∀ ep n c, m.body = .ticketCall ep n c →
      let taken := if m.origin.pkg = s.pkg ∨ m.head.isNone = true then s.drop m.id else s.answer 1 m (.value 0)
      let u := if endpointPkg ep ≠ taken.pkg then taken.hearCall ep n else taken
      ((∀ p ∈ u.places, (u.at p).wait.k ≠ 8) → exec .ticketCallNotice s = .next u) ∧
      (∀ p, u.places = [p] → (u.at p).wait.k = 8 → (u.at p).wait.act = .done 0 → (u.at p).wait.a.toNat = ep →
        (endpointPkg ep ≠ taken.pkg → u.heardCalled ep ((u.at p).wait.v.setWidth 32) = true →
          exec .ticketCallNotice s = .next (u.completeAt p fun t => { t with ticket := some (ep, t.wait.v.setWidth 32) })) ∧
        (endpointPkg ep = taken.pkg → (taken.gate ep).hasCalled ((u.at p).wait.v.setWidth 32) = true →
          exec .ticketCallNotice s = .next (u.completeAt p fun t => t.admission (taken.gate ep) ep (t.wait.v.setWidth 32))))) ∧
    (∀ op n p, m.body = .threadOp op n → s.target n = some p → s.opReady op p = true →
      let d := (s.latency m.origin.core (sysBase ((endpointCore (nameEp n)).getD 0))) / 2
      (∀ v u, s.operate op p true [(m.origin.name, m.id)] = (.value v, u) → exec .threadop s = .next (u.answer d m (.value v))) ∧
      (∀ code w4 w5 u, s.operate op p true [(m.origin.name, m.id)] = (.fault code w4 w5, u) → exec .threadop s = .next (u.answer d m (.nack code w5 w4 false))) ∧
      (∀ u, s.operate op p true [(m.origin.name, m.id)] = (.later, u) → exec .threadop s = .next ((u.modMsg m.id fun m => { m with due := 2 ^ 64 }).settle n))) ∧
    (∀ op n pkg, m.body = .threadOp op n → s.target n = none → s.wentTo n = some pkg → m.origin.pkg = s.pkg →
      exec .threadop s = .next (s.modMsg m.id fun m => { m with dst := pkg, sent := 0 })) ∧
    (∀ n x, m.body = .news n x → s.newsReady n x = true →
      (x.byThread = false ∨ (s.whereIs n).isSome = true → exec .threadop s = .next ((s.heard n x).answer 1 m (.ack true [] [] 0))) ∧
      (∀ pkg, x.byThread = true → s.whereIs n = none → s.wentTo n = some pkg → exec .threadop s = .next (s.goesOn m pkg)) ∧
      (x.byThread = true → s.whereIs n = none → s.wentTo n = none → exec .threadop s = .next (s.answer 1 m (.value 0)))) ∧
    (∀ op n, m.body = .threadOp op n → s.target n = none → s.wentTo n = none →
      let d := (s.latency m.origin.core (sysBase ((endpointCore (nameEp n)).getD 0))) / 2
      (endpointPkg (nameEp n) ≠ s.pkg ∨ (s.core (nameCore n)).lost = false → exec .threadop s = .next (s.answer d m (.value 0))) ∧
      (endpointPkg (nameEp n) = s.pkg → (s.core (nameCore n)).lost = true →
        exec .threadop s = .next (s.answer d m (.nack 0x12 0 (BitVec.ofNat 64 (nameEp n)) false))))) ∧
  (∀ s : State,
    exec .ticketExpiry s = .next (s.retireTicket s.subject.a s.subject.word) ∧
    (∀ p, s.whereIs s.subject.name = some p → (s.at p).ending = none → (s.at p).stopping = true → (s.at p).stopDone = true →
      (s.at p).startAfter = false →
      exec .stopComplete s = .next
        (let u := s.setAt p { s.at p with stopping := false, startAfter := false }
         (u.flight.filter fun m => m.awaitsStop s.subject.name).foldl
           (fun v m => v.answer (v.latency m.origin.core (sysBase (nameCore s.subject.name)) / 2) m (.value 0)) u)) ∧
    (s.subject.b = 1 →
      (s.subject.name = s.health.rootName → s.health.startOk = false → s.health.power = .running → exec .faultRecord s = .next (s.failStart 5)) ∧
      (s.subject.name ≠ s.health.rootName ∨ s.health.startOk = true ∨ s.health.power ≠ .running → exec .faultRecord s = .next s)) ∧
    (s.subject.b = 2 → exec .faultRecord s = .next (s.drainRecords s.subject.a)) ∧
    (∀ p f, s.subject.b ≠ 1 → s.subject.b ≠ 2 → s.whereIs s.subject.name = some p → (s.at p).pending = some f → (s.at p).storeAck = 0 → (s.at p).redpend = 0 → (s.at p).bank = none →
      let t := s.at p
      let core := s.coreAt p
      let u := (s.setAt p { t with pending := none }).record core t.faultrec t.troot (t.job.setWidth 32) (f.word0 t) (f.recordPc.getD f.pc).toNat
        f.w2.toNat t.name.toNat f.w4.toNat f.w5.toNat f.raised
      exec .faultRecord s = .next (u.settle t.name)))

/-- R416, R417, R418, R419, R420, R423, R424, R425, R426, R427, R428, R430: The events of a package's health. Power starts it; a START that does not come
in time fails the start; heartbeats, their absence and their terms make the leader; every thread of a lost core is lost, and a spare takes its place,
as one does of a failed slice or channel; errors are counted, and each kind of storage treats what it cannot read in its own way; a pulse freezes the
counters into the trace; an alert is held; and too much heat ends the run. A management frame whose key, kind, target and counter are right is taken
once: a reset frame writes its record and sets the deadline two seconds on; the fail record is answered; flash is written in minimal mode alone; a
refused frame counts as an error of its port; a reset frame that would be accepted while a reset waits is dropped, and its counter is not consumed. At
the deadline the package resets and starts again. The model's own part of this statement is in the log: log 9, log 20, log 21, log 24, log 25, log 26,
log 27, log 66, log 70, log 71, log 79, log 104, log 112, log 113, log 117. -/
def Obligations.HealthEvents : Prop :=
  (∀ s : State,
    (s.subject.a = 1 → s.health.power = .off → exec .powerGood s = .next s.start) ∧
    (s.subject.a = 1 → s.health.power ≠ .off → exec .powerGood s = .next s) ∧
    (s.subject.a ≠ 1 → exec .powerGood s = .next
      (let u := s.afterReset false
       ({ u with health := { u.health with bootCount := 0, bootReasons := 0, mirrorOn := false, keyed := false } } : State).start)) ∧
    (s.health.power = .running → s.health.startOk = false → s.health.starts = s.subject.a → exec .startokTimeout s = .next (s.failStart 4)) ∧
    (s.health.startOk = true → exec .startokTimeout s = .next s) ∧
    (∀ core, s.subject.a = core → s.subject.b = 0 → core < Config.allCores → (s.core core).lost = false →
      let ctxs := Assoc.keys (s.core core).ctxs
      let u := ctxs.foldl (fun (u : State) x => u.loseStub core x) (s.loseArrivals core)
      let live := ctxs.filter fun x => (u.thread core x).st != .free
      let w := (live.foldl (fun (v : State) x => v.loseThread core x) u).loseReads core
      let c := w.core core
      exec .coreLost s = .next ((w.setCore core
        { gens := live.foldl (fun g x => Assoc.insert g x (Assoc.getD g x 0 + 1)) c.gens
          namePtr := c.namePtr, quantum := c.quantum, admcap := c.admcap, breakpoints := c.breakpoints, breakStores := c.breakStores
          dequeTop := c.dequeTop, dequeCount := c.dequeCount, dequeAfter := c.dequeAfter, spillQueue := c.spillQueue, records := c.records
          lastResorts := c.lastResorts, l1Epoch := c.l1Epoch + 1, verdicts := c.verdicts, lost := true }).notice
        (w.cycle + 1000000) .spareReplace { a := core })) ∧
    (∀ core, s.subject.a = core → s.subject.b = 0 → Config.allCores ≤ core ∨ (s.core core).lost = true → exec .coreLost s = .next s) ∧
    (∀ kind part, s.subject.a = part → s.subject.b = kind → kind = 1 ∨ kind = 2 →
      (part < 256 → (kind, part) ∉ s.health.failed → exec .coreLost s =
        .next (({ s with health := { s.health with failed := s.health.failed ++ [(kind, part)] } } : State).notice (s.cycle + 1000000) .spareReplace
          { a := part, b := kind })) ∧
      (256 ≤ part ∨ (kind, part) ∈ s.health.failed → exec .coreLost s = .next s)) ∧
    (∀ kind part k most, s.subject.a = part → s.subject.b = kind → sparesOf kind part = (k, most) →
      kind = 0 ∧ part < Config.allCores ∧ (s.core part).lost = true ∨ kind ≠ 0 ∧ (kind, part) ∈ s.health.failed →
      (∀ n, most = some n → n ≤ Assoc.getD s.health.spares k 0 → exec .spareReplace s = .next s) ∧
      ((∀ n, most = some n → Assoc.getD s.health.spares k 0 < n) →
        let u : State := { s with health :=
          { s.health with spares := Assoc.insert s.health.spares k (Assoc.getD s.health.spares k 0 + 1), spared := s.health.spared + 1
                          failed := s.health.failed.filter fun x => x != (kind, part) } }
        (kind = 0 → exec .spareReplace s = .next (u.setCore part { s.core part with lost := false })) ∧
        (kind = 1 → exec .spareReplace s = .next u) ∧
        (kind = 2 → (s.core (640 + part)).lost = true →
          exec .spareReplace s = .next (u.setCore (640 + part) { s.core (640 + part) with lost := false })) ∧
        (kind = 2 → (s.core (640 + part)).lost = false → exec .spareReplace s = .next u))) ∧
    (let u : State := { s with health := { s.health with uncorrected := s.health.uncorrected + 1 } }
     (s.subject.b = 0 → exec .uncorrectableError s = .next (u.contextError (s.subject.a / 256) (s.subject.a % 256) s.subject.word)) ∧
     (s.subject.b = 1 → exec .uncorrectableError s = .next
        (let v := u.l1Error s.subject.word.toNat s.subject.a
         let c := v.core s.subject.word.toNat
         v.setCore s.subject.word.toNat { c with icache := c.icache.filter fun x => x.1 != s.subject.a / 64 })) ∧
     (s.subject.b = 2 → exec .uncorrectableError s = .next (u.markPoison s.subject.a)) ∧
     (s.subject.b = 3 → exec .uncorrectableError s = .next
        (let t := u.tile (s.subject.a / 32)
         let o := t.opSlot (s.subject.a % 32)
         u.setTile (s.subject.a / 32) (t.setOpSlot (s.subject.a % 32) { o with poison := o.poison ++ [s.subject.word.toNat % 4096] }))) ∧
     (s.subject.b = 4 → exec .uncorrectableError s = .next (u.setTile (s.subject.a / 64) ((u.tile (s.subject.a / 64)).modAcc (s.subject.a % 64) fun x =>
        { x with poison := x.poison ++ [s.subject.word.toNat % 4096] }))) ∧
     (s.subject.b = 5 → exec .uncorrectableError s = .next (u.markHome s.subject.a)) ∧
     (5 < s.subject.b → exec .uncorrectableError s = .next u)) ∧
    (let u : State := { s with health := { s.health with corrected := s.health.corrected + BitVec.ofNat 64 s.subject.a } }
     (s.subject.b = 1 → exec .scrub s = .next (u.notice (s.cycle + Config.second) .scrub { b := 1 })) ∧
     (s.subject.b = 2 → exec .scrub s = .next (u.notice (s.cycle + 86400 * Config.second) .scrub { b := 2 })) ∧
     (s.subject.b ≠ 1 → s.subject.b ≠ 2 → exec .scrub s = .next u)) ∧
    (s.health.quote = some s.subject.a →
      exec .quoteDone s = .next (({ s with health := { s.health with quote := none } } : State).deviceWrite (gpa s.pkg s.subject.a) 0
        (s.quoteBytes.take (0xC000000000 - s.subject.a)))) ∧
    (s.health.quote ≠ some s.subject.a → exec .quoteDone s = .next s) ∧
    (s.health.power = .running → exec .heartbeatTimer s = .next
      (((List.range 4096).foldl (fun (u : State) i =>
        if domainOf s.pkg * 4096 + i ≠ u.pkg ∧ u.reachable 0 (domainOf s.pkg * 4096 + i) = true then
          u.postOut (domainOf s.pkg * 4096 + i) { pkg := u.pkg }
            (.heartbeat u.pkg s.health.term.toNat (if s.health.settled then s.health.leader else u.pkg) s.health.isLeader)
        else u) s).notice
        (((List.range 4096).foldl (fun (u : State) i =>
          if domainOf s.pkg * 4096 + i ≠ u.pkg ∧ u.reachable 0 (domainOf s.pkg * 4096 + i) = true then
            u.postOut (domainOf s.pkg * 4096 + i) { pkg := u.pkg }
              (.heartbeat u.pkg s.health.term.toNat (if s.health.settled then s.health.leader else u.pkg) s.health.isLeader)
          else u) s).cycle + heartbeatCycles) .heartbeatTimer {})) ∧
    (s.health.power ≠ .running → exec .heartbeatTimer s = .next s) ∧
    (∀ m pkg term lead isLeader, s.msg? s.subject.a = some m → m.body = .heartbeat pkg term lead isLeader → m.dedup = none →
      let u := s.answer 1 m (.ack true [] [] 0)
      (u.health.power ≠ .running ∨ domainOf pkg ≠ domainOf u.pkg → exec .heartbeat s = .next u) ∧
      (u.health.power = .running → domainOf pkg = domainOf u.pkg →
        let h : Health := { u.health with maxTerm := BitVec.ofNat 32 (max u.health.maxTerm.toNat term)
                                          heardLower := if pkg < u.pkg then some u.cycle else u.health.heardLower }
        (isLeader = true → (h.settled = true → (h.leader = pkg ∧ h.isLeader = false) ∨ leaderWins term pkg h.term.toNat h.leader = true) →
          exec .heartbeat s = .next (({ u with health := { h with isLeader := false, settled := true, leader := pkg
                                                                  term := BitVec.ofNat 32 term, heardLeader := u.cycle } } : State).notice
            (u.cycle + leaderCycles) .leaderTimeout {})) ∧
        (isLeader = false ∨ h.settled = true ∧ (h.leader ≠ pkg ∨ h.isLeader = true) ∧ leaderWins term pkg h.term.toNat h.leader = false →
          exec .heartbeat s = .next (({ u with health := h } : State).notice (u.cycle + leaderCycles) .leaderTimeout {})))) ∧
    (s.health.power = .running → s.health.isLeader = false → s.health.heardLeader + leaderCycles ≤ s.cycle →
      ((∀ c, s.health.heardLower = some c → c + leaderCycles ≤ s.cycle) →
        exec .leaderTimeout s = .next { s with health :=
          { s.health with isLeader := true, settled := true, leader := s.pkg, term := s.health.maxTerm + 1, maxTerm := s.health.maxTerm + 1 } }) ∧
      (∀ c, s.health.heardLower = some c → s.cycle < c + leaderCycles →
        exec .leaderTimeout s = .next { s with health := { s.health with settled := false } })) ∧
    (s.health.power ≠ .running ∨ s.health.isLeader = true ∨ s.cycle < s.health.heardLeader + leaderCycles → exec .leaderTimeout s = .next s) ∧
    (s.health.sampleArmed = true → s.health.sample.toNat = s.subject.a →
      let u : State := { s with health := { s.health with sampleArmed := false, pulses := s.health.pulses + 1 } }
      (s.health.trbase = 0 ∨ s.health.trsize = 0 → exec .samplePulse s = .next u) ∧
      (s.health.trbase ≠ 0 → s.health.trsize ≠ 0 → exec .samplePulse s = .next
        (((List.range Config.allCores).map fun i =>
          (s.health.trbase.toNat + 192 * ((896 * s.health.pulses.toNat + i) % s.health.trsize.toNat),
            dwordBytes (s.snapshotRecord i s.health.pulses.toNat))).foldl
          (fun (v : State) r => if r.1 + 192 ≤ 0xC000000000 then v.deviceWrite (gpa v.pkg r.1) 0 r.2 else v) u))) ∧
    (s.health.sampleArmed = false ∨ s.health.sample.toNat ≠ s.subject.a → exec .samplePulse s = .next s) ∧
    (s.subject.a < 12 → s.subject.a ∉ s.health.alerts →
      exec .overtempAlert s = .next { s with health := { s.health with alerts := s.health.alerts ++ [s.subject.a] } }) ∧
    (12 ≤ s.subject.a ∨ s.subject.a ∈ s.health.alerts → exec .overtempAlert s = .next s) ∧
    exec .overtempShutdown s = .next { s with health :=
      { s.health with anchor := { s.health.anchor with reasons := pushReason s.health.anchor.reasons 6 }, mirrorOn := false, power := .shutdown } }) ∧
  (∀ s : State,
    (∀ m f, s.msg? s.subject.a = some m → m.body = .mgmt f →
      let taken : State := { s.drop m.id with health :=
        { (s.drop m.id).health with anchor := { (s.drop m.id).health.anchor with counter := f.counter } } }
      let refused := (s.drop m.id).modPort 0 fun p => { p with errors := countUp p.errors }
      (s.health.resetAt = none → (s.drop m.id).accepts f = true → exec .mgmtReset s = .next
        (let u := taken.resetRecord f
         ({ u with health := { u.health with resetAt := some (u.cycle + 2 * Config.second)
                                             anchor := { u.health.anchor with count := 0 } } } : State).notice
           (u.cycle + 2 * Config.second) .resetDeadline { a := u.cycle + 2 * Config.second })) ∧
      (s.health.resetAt = none → (s.drop m.id).accepts f = false → exec .mgmtReset s = .next refused) ∧
      (s.health.resetAt ≠ none → (s.drop m.id).accepts f = true → exec .mgmtReset s = .next (s.drop s.subject.a)) ∧
      (s.health.resetAt ≠ none → (s.drop m.id).accepts f = false → exec .mgmtReset s = .next refused) ∧
      ((s.drop m.id).accepts f = true → exec .mgmtReadFailrec s = .next
        { taken with
          nextId := taken.nextId + 1
          egress := taken.egress ++ [{ id := taken.nextId, due := taken.cycle, origin := { pkg := taken.pkg }, dst := taken.pkg
                                       body := .data ((List.range 8).map fun i => (i, taken.health.failrec i)) [] 0 }] }) ∧
      ((s.drop m.id).accepts f = false → exec .mgmtReadFailrec s = .next refused) ∧
      (s.health.power = .minimal → (s.drop m.id).accepts f = true → exec .mgmtFlashWrite s = .next
        { taken with health := { taken.health with flash := (f.data.zipIdx).foldl (fun (c : List Host.Cell) b =>
          Memory.write c (0x100000 + (Config.flashPlace f.data + b.2) % (2 * imageSlotBytes)) b.1) taken.health.flash } }) ∧
      (s.health.power = .minimal → (s.drop m.id).accepts f = false → exec .mgmtFlashWrite s = .next refused)) ∧
    (s.health.power ≠ .minimal →
      exec .mgmtFlashWrite s = .next ((s.drop s.subject.a).modPort 0 fun p => { p with errors := countUp p.errors })) ∧
    (s.health.resetAt = some s.subject.a → exec .resetDeadline s = .next (s.afterReset true).startAgain) ∧
    (s.health.resetAt ≠ some s.subject.a → exec .resetDeadline s = .next s))

/-- R40, R44, R47, R203, R370, R371, R372, R373, R388: The events of waves, jobs and tiles. The next wave of a launch is created where its core has a
block and room, and the rest of the launch ends where its job is cancelled, where it has no room and where its core is lost; the last END of a wave
counts it; the end of a job adds one to its counter; a drained tile is written to its image, its thread and pad pages again when the save ends; a
restored one is read from it, and an assigned or discarded one is zeroed. What the model notes beside an image is log 101. The model's own part of
this statement is in the log: log 4, log 60, log 61, log 101. -/
def Obligations.TileWaveEvents : Prop :=
  ∀ s : State,
    (∀ l i, (s.launches.find? fun l => l.id == s.subject.a) = some l → s.jobIndex l.who.job = some i →
      ((s.jobEntry i).cancelled = true → exec .waveCreate s = .next (s.endLaunch l)) ∧
      ((s.jobEntry i).cancelled = false → (s.core l.nextCore).lost = true → exec .waveCreate s = .next (s.lostLaunch l)) ∧
      ((s.jobEntry i).cancelled = false → (s.core l.nextCore).lost = false → ∀ w, s.freeBlock l.nextCore = some w →
        exec .waveCreate s = .next (if s.roomFor l.nextCore l.size then s.makeWave l w else s.stopLaunch l))) ∧
    (∀ e, (s.waveEnds.find? fun e => e.wcb == s.subject.a) = some e →
      (e.red = none → exec .waveEnd s = .next (s.countWave e)) ∧
      (∀ r, e.red = some r → s.msg? r = none → exec .waveEnd s = .next (s.freeWave e.wcb))) ∧
    (∀ c, (s.completions.find? fun c => c.job == s.subject.word) = some c → (∀ m ∈ s.flight, m.origin.job ≠ s.subject.word) →
      let u : State := { s with completions := s.completions.filter fun x => x != c }
      (isMailbox (gpaLocal c.counter) = false → exec .jobCompletion s =
        .next (u.sendReduce { pkg := s.pkg, job := s.subject.word, free := true } (.alu .add 8 1) c.counter c.key true)) ∧
      (isMailbox (gpaLocal c.counter) = true → exec .jobCompletion s = .next u)) ∧
    (∀ t, s.subject.a = t → (s.tile t).state = .saving → (s.tile t).drained = false → (s.stopTile t).quietTile t = true →
      let u := (s.stopTile t).saveReads t true
      let v := u.writePages t (List.range 96) (pageCells (u.imageChunks t))
      exec .saveDrained s = .next ((v.setTile t { v.tile t with drained := true }).notice (v.cycle + 90000) .saveComplete { a := t })) ∧
    (∀ t, s.subject.a = t → (s.tile t).state = .saving → (s.tile t).drained = true →
      let pad := s.writePages t ((List.range 64).map (96 + ·)) fun i => Memory.slice s.mem (tileBase t + 0x10000 * (i - 96)) 0x10000
      let u := (pad.writePages t (0 :: (List.range 32).map (64 + ·)) (pageCells (pad.imageChunks t))).poisonImage t
      let v := (u.tileContexts t).foldl (fun (v : State) x => v.setThread x.1 x.2 { v.thread x.1 x.2 with ticket := none })
        { u with images := Assoc.insert u.images (u.tile t).image (u.imageNote t) }
      exec .saveComplete s = .next ((v.setTile t { v.tile t with savedAt := v.cycle, redirected := 0, drained := false }).setTileState t .saved)) ∧
    (∀ t, s.subject.a = t → (s.tile t).state = .restoring →
      exec .restoreComplete s = .next ((s.restoreTile t).resumeTile t (s.tile t).drained)) ∧
    (∀ t, s.subject.a = t → (s.tile t).state = .reset → (s.tile t).assigned = true →
      exec .tileAssignDone s = .next ((s.zeroTile t).setTileState t .live)) ∧
    (∀ t, s.subject.a = t → (s.tile t).state = .discarding →
      let noted : State := { s with images := Assoc.insert s.images (s.tile t).image (s.imageNote t) }
      let ours := noted.places.filter fun p =>
        decide (noted.coreAt p < 640) && tileOf (noted.coreAt p) == t && (noted.at p).st != .free && (noted.at p).stubFor.isNone
      let u := ours.foldl (fun (u : State) p => u.endWithTile p) noted
      let v := (u.tileReads t).foldl (fun (v : State) r => v.liveDown r.2.who.job r.2.conc) u
      let w := (List.range 4).foldl (fun (w : State) c => w.setCore (4 * t + c)
        { w.core (4 * t + c) with spillQueue := [], granted := 0, resQueue := []
                                  ctxs := Assoc.mapVals (fun _ (x : Thread) => if x.reserved then Thread.idle else x) (w.core (4 * t + c)).ctxs })
        { v with reads := v.reads.filter fun r => !(r.2.core / 4 == t && decide (r.2.core < 640)) }
      exec .discardComplete s = .next (((w.zeroTile t).setTile t { (w.zeroTile t).tile t with
        assigned := false, engine := [], copies := [] }).setTileState t .reset))

/-- R310, R311, R312, R315, R316, R317, R318, R319, R320, R321, R322, R323: The events of collectives. A join request makes its wave a member or refuses
it; a vote and a summary are taken once, in their epoch, a summary from a child that the entry knows or may still learn (log 19); a verdict reaches
its waves and is applied to each voter, one on another package by a message (log 77), while a leaving wave keeps its votes (log 59); a leave request
takes the wave out; a deadline and an abort request carry the abort to the root. The model's own part of this statement is in the log: log 4, log 19,
log 59, log 77. -/
def Obligations.CollectiveEvents : Prop :=
  ∀ s : State,
    (∀ m, s.msg? s.subject.a = some m →
      let u := s.drop m.id
      (∀ a id j c, m.body = .collJoin a id → u.cstat a = 1 → fieldOf (u.wcb a 3) 0 32 = id.toNat → u.voted a = u.waveLive a →
        u.collEntry id = some (j, c) → c.joined.toNat < c.locals.toNat →
        let index := (c.base + c.joined).toNat
        let v := (((((u.setColl j { c with joined := c.joined + 1, members := c.members ++ [(a, index)] }).setWcb a 3
          (id.toNat + at' 32 index + at' 48 1 + at' 62 2)).setWcb a 4 (epochDword c.epoch.toNat 0 3)).setWcb a 5 0).tellVoters a
            (.joined (memberWord c.epoch.toNat index c.totalm1.toNat j)))
        exec .collJoinRequest s = .next (v.forVoters a fun s p => s.inImage p fun s =>
          (s.setAt p { s.at p with voted := false, cmem := memberWord c.epoch.toNat index c.totalm1.toNat j }).completeAt p fun t => t)) ∧
      (∀ a id why, m.body = .collJoin a id → u.cstat a = 1 → fieldOf (u.wcb a 3) 0 32 = id.toNat → u.voted a = u.waveLive a →
        (u.collEntry id = none ∧ why = 3) ∨ (∃ j c, u.collEntry id = some (j, c) ∧ c.locals.toNat ≤ c.joined.toNat ∧ why = 4) →
        exec .collJoinRequest s = .next ((((u.forVoters a fun s p => s.inImage p fun s =>
          (s.setAt p { s.at p with voted := false }).faultAt p { code := 0x10, pc := (s.at p).pc, w2 := 0, w4 := BitVec.ofNat 64 why, w5 := 0 }).tellVoters
            a (.refused why)).wcbField a 3 62 2 0).wcbField a 4 16 7 0)) ∧
      (∀ f j c, m.body = .vote f → u.collEntry f.collid = some (j, c) → c.epoch = f.epoch →
        (f.member ∉ c.voted → exec .vote s = .next (u.collCheck j { c.merge f with voted := c.voted ++ [f.member] })) ∧
        (f.member ∈ c.voted → exec .vote s = .next u)) ∧
      (∀ f j c, m.body = .summary f → u.collEntry f.collid = some (j, c) → c.epoch = f.epoch → 
        exec .summary s = .next (if f.sender ∉ c.heard ∧ (f.sender ∈ c.kids ∨ c.kids.length < c.children.toNat) then
            u.collCheck j { (c.hears f.sender).merge f with heard := c.heard ++ [f.sender] }
          else u)) ∧
      (∀ f a, m.body = .verdict f → f.block = some a →
        exec .verdict s = .next (u.setCore (coreOfBlock a) { u.core (coreOfBlock a) with verdicts := (u.core (coreOfBlock a)).verdicts ++ [(a, f)] })) ∧
      (∀ f j c, m.body = .verdict f → f.block = none → u.collEntry f.collid = some (j, c) → c.epoch = f.epoch → c.parent ≠ u.pkg → f.sender = c.parent →
        exec .verdict s = .next (u.verdictAt j c f.result f.reason)) ∧
      (∀ a id j c i, m.body = .collLeave a id →
        let w := if u.cstat a = 3 ∧ fieldOf (u.wcb a 3) 0 32 = id.toNat then
            ((((u.setWcb a 3 0).setWcb a 4 (epochDword 0 0 3)).setWcb a 5 0).tellVoters a .left).forVoters a fun s p =>
              s.inImage p fun s => (s.setAt p { s.at p with voted := false, cmem := 0 }).completeAt p fun t => t
          else u
        w.collEntry id = some (j, c) → (c.members.find? fun m => m.1 == a) = some (a, i) →
        exec .collLeaveRequest s = .next (w.collCheck j
          { c with left := c.left + 1, members := c.members.filter fun m => m.1 != a, votedLeft := c.votedLeft + (if c.voted.contains i then 1 else 0) })) ∧
      (∀ f j c, m.body = .abortReq f → u.collEntry f.collid = some (j, c) → c.epoch = f.epoch →
        let c' := if f.sender ≠ u.pkg ∧ c.mayHear f.sender then c.hears f.sender else c
        (c.parent = u.pkg → exec .abortRequest s = .next (u.verdictAt j c' 2 1)) ∧
        (c.parent ≠ u.pkg → c.abortSent = true → exec .abortRequest s = .next u) ∧
        (c.parent ≠ u.pkg → c.abortSent = false → exec .abortRequest s = .next ((u.setColl j { c' with abortSent := true }).send 100 c.parent
          (u.fromGateway (homeGateway c.collid)) (.abortReq { f with sender := u.pkg }))))) ∧
    (s.cstat s.subject.a = 2 → s.wcb s.subject.a 5 = s.subject.b → s.subject.b ≠ 0 →
      let id := BitVec.ofNat 32 (s.wcb s.subject.a 3)
      exec .deadlineExpiry s = .next (s.post (gatewayDelay (coreOfBlock s.subject.a) (homeGateway id)) { pkg := s.pkg, core := coreOfBlock s.subject.a }
        (.abortReq { collid := id, epoch := BitVec.ofNat 32 (s.waveEpoch s.subject.a), sender := s.pkg }))) ∧
    (∀ p b, s.whereIs s.subject.name = some p → (s.at p).bank = some b → b.committing = true →
      exec .heldStoreCommit s = .next ((State.postHeld p 16 s).settle s.subject.name)) ∧
    (∀ f n, f.far = some n → s.subject.name = n → (s.core s.subject.a).verdicts = [(s.subject.b, f)] →
      exec .verdictApply s = .next (s.verdictFar s.subject.a n f)) ∧
    (∀ f, (s.core s.subject.a).verdicts = [(s.subject.b, f)] → f.far = none → s.subject.name = 0 →
      let a := s.subject.b
      let u := s.setCore s.subject.a { s.core s.subject.a with verdicts := [] }
      fieldOf (u.wcb a 3) 0 32 = f.collid.toNat → u.waveEpoch a = f.epoch.toNat →
      let v := (u.forVoters a fun s p => s.inImage p fun s => (s.applyVerdict f p).settle (s.at p).name).tellVoters a (.verdict f)
      (u.cstat a = 2 → exec .verdictApply s =
        .next ((v.setWcb a 4 (epochDword (v.waveEpoch a + 1) (fieldOf (v.wcb a 4) 5 1) f.result)).setWcb a 5 0)) ∧
      (u.cstat a = 3 → exec .verdictApply s =
        .next (u.setWcb a 4 (epochDword (u.waveEpoch a + 1) (fieldOf (u.wcb a 4) 5 1) f.result + at' 16 (u.voted a)))))

/-- R261, R262, R268, R269, R270, R271, R273, R274, R275, R276, R130: The events of the matrix engine. A cleared operand slot goes to its claimant; an
operation is accepted, and completes only at the head of its queue: an MMA puts its sums into its accumulators and reports, ACCZERO clears a slot,
ACCRD and ACCGET write rows, ACCADD adds an image, ACCSAT answers a count; a NaN that stops its thread faults it. An operation whose issuer is on
another package arrives when the news of its flags and of its stop have been acknowledged (log 115). The model's own part of this statement is in the
log: log 15, log 16, log 17, log 55, log 56, log 63, log 115. -/
def Obligations.EngineEvents : Prop :=
  (∀ (s : State) (name : Name) (p : Place) (c : GReg) (o : OpSlot), ((s.tile s.subject.a).opSlot s.subject.b) = o → o.clearing = some name →
    s.whereIs name = some p → (s.at p).wait.act = .done c →
    let u := s.setOpSlot s.subject.a s.subject.b
      { o with sectors := [], tags := [], undef := none, clearing := none, claims := o.claims + 1, poison := [], lastJob := some ((s.at p).job.setWidth 32) }
    (u.at p).wait.act = .done c →
    exec .operandSlotCleared s = .next (u.completeAt p fun t => t.wg c (BitVec.ofNat 64 s.subject.b))) ∧
  (∀ (s : State) (op : EngineOp), s.op? s.subject.a s.subject.b = some op → op.accepted = false →
    (op.reports = false → exec .engineAccept s = .next ((s.modOp s.subject.a op.id fun op => { op with accepted := true }).kick s.subject.a)) ∧
    (op.reports = true → s.earlierOpen op.issuer op.id = false →
      (s.atOnce op.bar = true → exec .engineAccept s = .next (s.expectAt s.subject.a op)) ∧
      (s.atOnce op.bar = false →
        let u := (s.agentUpdate op.agent op.bar op.barKey (.expect op.sectors)).modOp s.subject.a op.id fun op => { op with accepted := true, known := false }
        exec .engineAccept s = .next (u.notice (u.cycle + 4) .engineAccept { a := s.subject.a, b := op.id })))) ∧
  (∀ (s : State) (op : EngineOp) (rest : List EngineOp) (tile : Nat), s.subject.a = tile → (s.tile tile).engine = op :: rest → op.id = s.subject.b →
    op.accepted = true → op.known = true →
    (∀ ids, op.told = some ids → ∀ i ∈ ([.mmaComplete, .acczeroDone, .accrdComplete, .accgetComplete, .accaddComplete] : List Instr),
      exec i s = .next (if s.anyOpen ids then s.opAgain tile op else s.opFinish tile op none)) ∧
    (op.told = none → ∀ f, op.kind = .mma f →
      let x := mmaArgs f op.a.toNat op.c.toNat
      let a := s.operand tile x.aSlot op.claimA op.issuer
      let b := s.operand tile x.bSlot op.claimB op.issuer
      let u : State := { s with fresh := s.fresh + slotValues * 32 }
      (f ≠ .tag ∨ mmaTagFault x (mmaShape f x.e80).q a b = none) → mmaPoison f x a b = none → mmaAccPoison (s.tile tile) f x = false →
      let r := runMma (s.tile tile) f x a b
      exec .mmaComplete s = .next ((u.setTile tile (r.tile.saturate x.cSlot r.sats)).opArriveWith tile op r.flags (op.stopOf x.cSlot r.nan))) ∧
    (op.told = none → op.kind = .acczero → exec .acczeroDone s = .next ((s.setTile tile ((s.tile tile).zeroAcc (op.a.toNat % 64))).opDone tile op.id)) ∧
    (op.told = none → ∀ f, op.kind = .accrd f → (s.tile tile).poisonedRow (fieldOf op.a.toNat 8 2) (op.a.toNat % 64) (accCols (fieldOf op.a.toNat 8 2))
        (accCols (fieldOf op.a.toNat 8 2)) = none →
      let kind := fieldOf op.a.toNat 8 2
      let slot := op.a.toNat % 64
      let total := fun (s : State) (op : EngineOp) => (s.tile tile).accTotals f kind slot op.done
      let count := fun (s : State) (op : EngineOp) => s.setTile tile ((s.tile tile).saturate slot (total s op).2)
      exec .accrdComplete s = .next (State.writeRows tile
        (fun s r => (op.c.toNat + r * accPitch f op.a.toNat, ((s.tile tile).accRow f kind slot r).flatMap fun e => leBytes (accBytes f) e.1))
        (accCols kind) (fun s op => (count s op).opArrive tile op (total s op).1)
        (fun s op code => (((count s op).flagsTo op (total s op).1).1).opFault tile op code op.done) 65 s op)) ∧
    (op.told = none → op.kind = .accget → (s.tile tile).poisonedRow 3 (op.a.toNat % 64) 4 1024 = none →
      exec .accgetComplete s = .next (State.writeRows tile
        (fun s i => (op.c.toNat + 64 * i, (s.tile tile).pairSector (op.a.toNat % 64) i)) 1024 (fun s op => s.opArrive tile op {})
        (fun s op code => s.opFault tile op code op.done) 1025 s op)) ∧
    (op.told = none → ∀ u c bs n, op.kind = .accadd → s.readImage op.agent op.cache op.c.toNat 1024 = (u, c, .bytes bs, n) →
      let d := fun i => leValue ((bs.drop (8 * i)).take 8)
      pairImageBad d = none → (u.tile tile).poisonedRow 3 (op.a.toNat % 64) 4 1024 = none →
      let r := runAccadd (u.tile tile) (op.a.toNat % 64) d
      exec .accaddComplete s = .next ((u.setTile tile (r.tile.saturate (op.a.toNat % 64) r.sats)).opArrive tile op r.flags))) ∧
  (∀ (s : State) (op : EngineOp) (p : Place) (d : GReg), s.op? s.subject.a s.subject.b = some op → op.kind = .accsat d → s.whereIs op.issuer = some p →
    (s.tile s.subject.a).slotBusy (op.a.toNat % 64) op.id = false → (s.at p).wait.act = .done d →
    exec .accsatComplete s = .next ((s.completeAt p fun t => t.wg d (((s.tile s.subject.a).accSlot (op.a.toNat % 64)).sat.setWidth 64)).opDone
      s.subject.a op.id)) ∧
  (∀ (s : State) (n : NanStop), s.cur.nanStop = some n →
    (s.cur.runsAhead = false → exec .nanStop s = .next ((s.modCur fun t => { t with nanStop := none }).raiseFault
      { code := 0x0D, pc := s.cur.pc, w2 := n.va, w4 := n.w4, w5 := n.w5, recordPc := some n.pc })) ∧
    (s.cur.runsAhead = true → exec .nanStop s = .next (s.stallFor 12 0 0 .verdict)))

/-- R133, R279, R280, R282, R284, R296, R297, R299, R300, R301, R303, R412: Bulk writes, copies and reads that become threads. A bulk packet is applied
and acknowledged, held at a locked page and passed on from one that forwards; an accepted copy delivers its sectors in turn, arrives when the last is
delivered, and faults where a side band does not come; a burst is asked for, becomes a thread in its reserved context, and the read completes when its
last thread has ended. The model's own part of this statement is in the log: log 4, log 15, log 62, log 110. -/
def Obligations.CopyReadEvents : Prop :=
  (∀ (s : State) (m : Msg) (bs : List (Nat × Byte)) (key : Nat), s.msg? s.subject.a = some m → m.body = .bulk bs key → m.dedup = none →
    let pa := (bs.headD (0, 0)).1
    let a := gpaLocal pa
    s.heldAtTile a = false →
    (s.locked a = true → exec .bulk s = .next (s.noteHeld m)) ∧
    (∀ x, s.locked a = false → s.farPage pa = some x → exec .bulk s = .next (s.passOn m pa)) ∧
    (s.locked a = false → s.farPage pa = none → s.peerRefuses m pa key = none → s.tileStateAt a ≠ .reset →
      exec .bulk s = .next ((((s.countRedirect a).ticketBytes m.origin pa bs.length).applyBytes none key (bs.map fun b => (s.forwarded (gpaLocal b.1), b.2))).answer
        (s.latency m.origin.core pa / 2) m (.ack true [] [] 0))) ∧
    (∀ code, s.locked a = false → s.farPage pa = none → s.peerRefuses m pa key = some code →
      exec .bulk s = .next (s.answer (s.latency m.origin.core pa / 2) m (.nack code 0 (BitVec.ofNat 64 a) true)))) ∧
  (∀ (s : State) (c : Copy), s.copy? s.subject.a s.subject.b = some c →
    let tile := s.subject.a
    (c.accepted = false → s.earlierOpen c.issuer c.id = false →
      let u := (if fieldOf c.d1.toNat 7 1 = 1 then s.agentUpdate c.agent c.bar c.barKey (.expect c.sectors) else s).modCopy tile c.id
        fun c => { c with accepted := true }
      exec .copyAccept s = .next (if (u.tile tile).inProgress c.id then u.deliverNext tile c.id 1 else u)) ∧
    (∀ r k va len u cache bs n, c.arrived = false → c.accepted = true → c.done < c.sectors → (s.tile tile).inProgress c.id = true →
      s.agentBusy c.agent = false → c.sending = none → c.locate (copyRows c.d1.toNat) 0 c.done = (r, k) → (c.parts r).getD k (0, 0) = (va, len) →
      let off := va - (if toSlot c.mode then 0 else c.rowTo r)
      s.copyPart c r off len = (u, cache, .bytes bs, n) →
      exec .copyDelivery s = .next ((u.modCopy tile c.id fun c => { c with cache := cache }).copySector tile c r off len n bs)) ∧
    (∀ r k va len n, c.arrived = false → c.accepted = true → c.done < c.sectors → (s.tile tile).inProgress c.id = true →
      s.agentBusy c.agent = false → c.sending = some n → Assoc.look s.fetched c.id = none →
      c.locate (copyRows c.d1.toNat) 0 c.done = (r, k) → (c.parts r).getD k (0, 0) = (va, len) →
      let off := va - (if toSlot c.mode then 0 else c.rowTo r)
      exec .copyDelivery s = .next (s.copyDelivered tile c n (off + len == copyLen c.d1.toNat))) ∧
    (c.arrived = false → s.subject.word.toNat ∈ c.timers → c.done ≤ s.subject.word.toNat →
      exec .sidebandTimeout s = .next (s.copyFault tile c 0x0C s.subject.word.toNat)) ∧
    (s.agentBusy c.agent = false → c.arrived = true →
      exec .copyArrival s = .next (({ s with fetched := Assoc.erase s.fetched c.id } : State).copyDone tile c)) ∧
    (s.agentBusy c.agent = false → c.arrived = false → c.sectors ≤ c.done →
      let u := (s.agentUpdate c.agent c.bar c.barKey .arrive).modCopy tile c.id fun c => { c with arrived := true }
      u.agentBusy c.agent = false → exec .copyArrival s = .next (u.copyDone tile c))) ∧
  (∀ (s : State) (m : Msg) (copy index header tile : Nat) (c : Copy), s.msg? s.subject.a = some m → m.body = .sideband copy index header →
    (s.drop m.id).findCopy copy = some (tile, c) → c.arrived = false → c.mode = 3 →
    (index % 65536 = c.done % 65536 ∨ numberBelow (index * 65536) (c.done * 65536) = false) →
    exec .sideband s = .next ((((s.drop m.id).modCopy tile c.id fun c => { c with headers := Assoc.insert c.headers (index % 65536) header }).awaitPart
      tile c (c.sectorOf index)).deliverNext tile c.id 1)) ∧
  (∀ (s : State) (h : HRead), Assoc.look s.reads s.subject.a = some h →
    let r := s.subject.a
    (h.state = .streaming → s.readHeld h = false → h.opened < h.conc → s.earlierOpen h.issuer h.since = false →
      (∀ p ∈ s.reads, p.2.core = h.core → p.2.lastAt ≠ s.cycle) →
      let h' : HRead := { h with next := h.next + 1, opened := h.opened + 1, lastAt := s.cycle, asked := h.asked ++ [{ seq := h.next, id := s.nextId }]
                                 state := if h.next + 1 = hreadTotal h.words then .draining else .streaming }
      let u := ({ s with nextId := s.nextId + 1 } : State).setRead r h'
      let late := match (u.checkWalk h.who.troot h.who.job (BitVec.ofNat 64 (burstSource h.words h.next)) 4 true false).2 with
        | .ok x => u.latency h.core x.pa
        | _ => 1
      let v := u.notice (u.cycle + late) .burstArrival { a := r, b := h.next }
      exec .burstRequest s = .next (if h'.opened < h'.conc ∧ h'.state = .streaming then v.notice (v.cycle + 1) .burstRequest { a := r } else v)) ∧
    (∀ b u cache bs x i, (h.asked.find? fun b => b.seq == s.subject.b) = some b →
      s.agentReadRun (h.agent b.id) b.cache (burstSource h.words s.subject.b) (burstLen h.words s.subject.b) = (u, cache, .bytes bs) →
      u.jobIndex h.who.job = some i → (u.jobEntry i).cancelled = false → u.reservedCtx r h = some x →
      let v := u.setRead r { h with asked := h.asked.filter fun (b : OpenBurst) => b.seq != s.subject.b }
      exec .burstArrival s = .next ((v.takeName h.core x).2.setThread h.core x
        ((h.thread r s.subject.b bs (v.takeName h.core x).1).toReady (v.takeName h.core x).2.cycle))) ∧
    (∀ u x, h.state = .draining → h.opened = 0 → s.readHeld h = false → h.closing = none →
      s.checkWalk h.who.troot h.who.job (BitVec.ofNat 64 (h.words.getD 5 0)) 16 false true (tile := false) = (u, .ok x) → isDevice x.pa = false →
      u.actAper x.leaf ≠ 1 →
      let v := u.deviceWrite x.pa x.key (dwordBytes h.record) { core := h.core, job := h.who.job, record := true }
      (v.msg? u.nextId = none → exec .hreadComplete s = .next (v.freeRead r h)) ∧
      (∀ m, v.msg? u.nextId = some m → exec .hreadComplete s =
        .next ((v.setRead r { h with closing := some u.nextId }).notice ((v.setRead r { h with closing := some u.nextId }).cycle + 1) .hreadComplete { a := r }))) ∧
    (∀ id, h.state = .draining → h.opened = 0 → s.readHeld h = false → h.closing = some id →
      exec .hreadComplete s = .next (if (s.msg? id).isSome then s.notice (s.cycle + 1) .hreadComplete { a := r } else s.freeRead r h)))

/-! ## Encodings -/

/-- R155, R162, R163, R164, R165, R166, R167: The decoder reads the encoder's word of every well-formed instruction as that instruction, with every
operand at every value that its field admits. -/
def Obligations.DecodeOfEncode : Prop := ∀ (i : Instr) (x : Word), i.wellFormed = true → encode i = some x → decode x = .ok i

/-- R155, R163, R164, R165, R166, R167: No two words mean one instruction, and no word that leaves a must-be-zero bit set or breaks a limit decodes: what
decodes is the word of the well-formed instruction it decodes to. -/
def Obligations.EncodeOfDecode : Prop := ∀ (x : Word) (i : Instr), decode x = .ok i → i.wellFormed = true ∧ encode i = some x

/-- R165, R183, R184: Words written out from the encoding tables decode to the instructions that they stand for. -/
def Obligations.WordsDecode : Prop :=
  decode 0b000001_00011_00001_00010_0000_0_000000 = .ok (.add 3 1 2 false) ∧
  decode 0b000001_00011_00001_00010_0000_1_000001 = .ok (.sub 3 1 2 true) ∧
  decode 0b000010_00111_00100_1111111111111111 = .ok (.addi 7 4 0xFFFF)

/-! ## The machine -/

/-- R25, R34, R46, R63, R373, R384, R388, R414: The package right after reset. Nothing runs and no context holds a thread; every tile is in RESET; no byte
of device memory has been written, and every other byte reads zero, which is the model's own choice (log 7); the registers stand at the values that
the spec states, QUANTUM at 4,096 and ADMCAP at 48 among them. The model's own part of this statement is in the log: log 5, log 6, log 7, log 98, log
99. -/
def Obligations.ResetState : Prop :=
  State.reset.health.power = .off ∧ State.reset.cycle = 0 ∧ State.reset.flight = [] ∧ State.reset.mem = [] ∧ MemoryCanonical State.reset ∧
  (∀ core ctx, (State.reset.thread core ctx).st = .free) ∧
  (∀ core, (State.reset.core core).quantum = 4096 ∧ (State.reset.core core).admcap = 48 ∧ (State.reset.core core).breakpoints = []) ∧
  (∀ t, (State.reset.tile t).state = .reset ∧ (State.reset.tile t).assigned = false) ∧
  (∀ j, (State.reset.jobEntry j).valid = false) ∧ (∀ k, (State.reset.key k).valid = false) ∧
  State.reset.sectors = [] ∧ State.reset.poison = [] ∧ State.reset.slicePoison = [] ∧ State.reset.health.failed = [] ∧
  (∀ a k, region a ≠ .damask ∨ isReserved a = true → isSaveBlock a = false → State.reset.byte a k = 0)

/-- The model's own invariant (R11; log 7): every step keeps memory in its one canonical form, addresses rising and no zero byte listed, from every state
that has it. -/
def Obligations.StepKeepsMemory : Prop := ∀ s t : State, MemoryCanonical s → step s = .next t → MemoryCanonical t

/-- R18, R27, R71, R162, R167, R191: A package that has not powered itself off answers every step with a next state: no word and no event stops the model.
In the issue phase, with no event in hand, the next core's turn goes to the thread at its position; where nothing holds the thread and the bytes at
its PC are a word that decodes, the step is the execution of that instruction, and where they do not decode it is ILLEGAL. The word that
`withFetchWord` places after reset is the one that the next step runs. The model's own part of this statement is in the log: log 1, log 2. -/
def Obligations.StepAnswers : Prop :=
  (∀ s : State, s.health.power ≠ .shutdown → Continues s) ∧
  ((∀ (s : State) (core ctx : Nat) (w : Word), s.health.power ≠ .shutdown → s.resumes = [] → (∀ x ∈ s.inputs, s.cycle < x.1) → s.agenda = [] → s.phase = .issue →
    s.nextTurn = some (core, ctx) → (s.thread core ctx).retiring = false →
    let u := s.takeTurn core ctx
    u.cur.commits = false → u.cur.stall = 0 → u.stopDue u.cur = false → u.breakpoint core u.cur = none → u.fetch core u.cur = .word w →
    (∀ i, decode w = .ok i → step s = exec i (u.issues w)) ∧
    (∀ r, decode w = .reject r → step s = exec .illegalWord { u.issues w with subject := { word := w } })) ∧
  (∀ (w : Word) (i : Instr), decode w = .ok i →
    step (State.reset.withFetchWord 32 w.toNat) = exec i (((State.reset.withFetchWord 32 w.toNat).takeTurn 0 0).issues w)))

/-- R18, R168, R355, R77, R356, R358: What raising a fault does when its thread has no shadow bank. The thread is FAULTED at its PC with no position, its
registers, flags and masks stand, a record is due, no byte of memory changes and no other thread does. A record whose thread has no FAULTREC goes to
the last-resort line of its core, with LASTRESORT set, the cycle, and a count one above the one that the line held; a record that finds an earlier one
of its core on its way waits behind it (log 31). The model's own part of this statement is in the log: log 31, log 105. -/
def Obligations.TakingAFault : Prop :=
  (∀ (s : State) (code : BitVec 8) (w2 w4 w5 : Dword), s.cur.bank = none → s.cur.st = .bound →
    let t := s.raise code w2 w4 w5
    t.cur.st = .faulted ∧ t.cur.fcode = code ∧ t.cur.pc = s.cur.pc ∧ t.cur.pos = none ∧
    t.cur.pending = some { code := code, pc := s.cur.pc, w2 := w2, w4 := w4, w5 := w5 } ∧
    t.cur.g = s.cur.g ∧ t.cur.v = s.cur.v ∧ t.cur.k = s.cur.k ∧ t.cur.b = s.cur.b ∧ t.cur.w = s.cur.w ∧ t.cur.flags = s.cur.flags ∧
    t.cur.tid = s.cur.tid ∧ t.cur.faultrec = s.cur.faultrec ∧ t.cur.auth = s.cur.auth ∧ t.cur.troot = s.cur.troot ∧ t.cur.pfxst = s.cur.pfxst ∧
    t.cur.storeAck = s.cur.storeAck ∧ t.cur.redpend = s.cur.redpend ∧
    (∃ m : Msg, t.flight = s.flight ++ [m] ∧ m.body = .notice .faultRecord { name := s.cur.name } ∧ m.due = s.cycle + 1) ∧
    t.mem = s.mem ∧ (∀ a k, t.byte a k = s.byte a k) ∧
    (∀ core ctx, (core, ctx) ≠ (s.focus.core, s.focus.ctx) → t.thread core ctx = s.thread core ctx)) ∧
  (∀ (s : State) (core : Nat) (troot : Dword) (job : Word) (w0 w1 w2 w3 w4 w5 : Nat), MemoryCanonical s → core < 896 →
    let t := s.record core 0 troot job w0 w1 w2 w3 w4 w5
    ((s.core core).recordQueue ≠ [] ∨ s.recordOut core = true → t = s.setCore core { s.core core with recordQueue := (s.core core).recordQueue ++
      [{ faultrec := 0, troot := troot, job := job, words := [w0, w1, w2, w3, w4, w5, s.cycle] }] }) ∧
    ((s.core core).recordQueue = [] → s.recordOut core = false → (t.core core).lastResorts = (s.core core).lastResorts + 1 ∧
    ∀ e ∈ [(0, w0 + 0x10000), (1, w1), (2, w2), (3, w3), (4, w4), (5, w5), (6, s.cycle), (7, s.val (lastResort core + 56) 8 0 + 1)],
      t.val (lastResort core + 8 * e.1) 8 0 = e.2 % 2 ^ 64))

/-- R11, R76, R368, R385, R386: A byte of local memory reads back as it was written under the same key slot, where the region is one that keeps writes;
every byte whose place lies in another sector is unchanged, and so is every other byte of a sector that was last written under the writer's key. The
model's own part of this statement is in the log: log 7, log 10. -/
def Obligations.MemoryReadAfterWrite : Prop :=
  ∀ (s : State) (a k x j : Nat) (b : Byte), MemoryCanonical s →
    let t := s.putByte a k b
    (isReserved a = false → isSaveBlock a = false → isMailbox a = false → t.byte a k = b) ∧
    (isReserved a = true ∨ isSaveBlock a = true ∨ isMailbox a = true → t = s) ∧
    ((s.place x j).1 / 64 ≠ (s.place a k).1 / 64 → t.byte x j = s.byte x j) ∧
    ((s.place x j).1 ≠ (s.place a k).1 → (∀ e, Assoc.look s.sectors ((s.place a k).1 / 64) = some e → e.tag = s.tag (s.effKey (s.place a k).2)) →
      (region (s.place a k).1 = .damask → Assoc.look s.sectors ((s.place a k).1 / 64) ≠ none) → t.byte x j = s.byte x j)

/-- R18, R22, R142: The frames of the effects that the other statements name. Changing the thread in focus changes no other thread and nothing else;
completing changes its pending prefixes and its PC alone, or marks the end of a loop body; waiting and leaving for a while keep its registers; sending
a request changes no thread and no byte; an acquire discards the L1 of one core alone; and the events listed last store nothing. The model's own part
of this statement is in the log: log 4. -/
def Obligations.EffectFrames : Prop :=
  (∀ (s : State) (f : Thread → Thread),
    let t := s.modCur f
    t.cur = f s.cur ∧ (∀ core ctx, (core, ctx) ≠ (s.focus.core, s.focus.ctx) → t.thread core ctx = s.thread core ctx) ∧
    (∀ a k, t.byte a k = s.byte a k) ∧ t.flight = s.flight ∧ t.tiles = s.tiles ∧ t.dies = s.dies ∧ t.keys = s.keys ∧ t.jobs = s.jobs ∧
    t.watches = s.watches ∧ t.health = s.health ∧ t.cycle = s.cycle) ∧
  (∀ t : Thread, t.retire = { t with
    pfxst := t.retire.pfxst, pfxAt := t.retire.pfxAt, modBad := t.retire.modBad, hintBad := t.retire.hintBad
    lastTag := t.retire.lastTag, yielding := t.retire.yielding, inHand := none
    pc := if t.atLoopEnd then t.pc else t.pc + 4, retiring := t.atLoopEnd || t.retiring }) ∧
  (∀ (s : State) (w : Wait),
    let t := (s.wait w).cur
    t.st = .waiting ∧ t.wait = { w with since := s.cycle, first := s.nextId } ∧ t.pos = none ∧ t.pc = s.cur.pc ∧ t.g = s.cur.g ∧ t.v = s.cur.v ∧ t.k = s.cur.k ∧ t.b = s.cur.b ∧ t.w = s.cur.w ∧
    t.flags = s.cur.flags ∧ t.pfxst = s.cur.pfxst ∧ t.loopst = s.cur.loopst) ∧
  (∀ (s : State) (delay dst : Nat) (o : Origin) (b : Body),
    let t := s.send delay dst o b
    (∀ core ctx, t.thread core ctx = s.thread core ctx) ∧ (∀ a k, t.byte a k = s.byte a k) ∧ t.mem = s.mem ∧ t.tiles = s.tiles ∧ t.keys = s.keys ∧
    ∃ l, t.flight = s.flight ++ l ∧ l ≠ []) ∧
  (∀ (s : State) (core : Nat),
    let t := s.acquire core
    (∀ c ctx, t.thread c ctx = s.thread c ctx) ∧ (∀ a k, t.byte a k = s.byte a k) ∧ (t.core core).l1 = [] ∧ (∀ c, c ≠ core → t.core c = s.core c) ∧
    t.flight = s.flight) ∧
  (∀ s t : State, ∀ i ∈ ([.linkUp, .laneChange, .linkRetire, .linkLevelRetry, .ingressDrop, .dedupWindowIdle, .dedupRetryTimer, .quantumExpiry, .agingPromotion,
      .loopBack, .storeGatherPost, .heartbeatTimer, .heartbeat, .leaderTimeout, .scrub, .overtempAlert, .overtempShutdown, .mgmtReadFailrec] : List Instr),
    exec i s = .next t → ∀ a k, t.byte a k = s.byte a k)
end

