-- ==== Sys2Proof/Laws/State.lean ====
section
/-!
SUPPORT. What each update of the state, and of a thread, leaves alone: one lemma per field per update, so that no proof unfolds a record update.
-/

namespace Sys2Proof.Machine

variable (s : State) (t : Thread)

/-! ## Updates of the state -/

@[simp] theorem setCore_cycle (i : Nat) (c : Core) : (s.setCore i c).cycle = s.cycle := rfl
@[simp] theorem setCore_phase (i : Nat) (c : Core) : (s.setCore i c).phase = s.phase := rfl
@[simp] theorem setCore_cursor (i : Nat) (c : Core) : (s.setCore i c).cursor = s.cursor := rfl
@[simp] theorem setCore_focus (i : Nat) (c : Core) : (s.setCore i c).focus = s.focus := rfl
@[simp] theorem setCore_subject (i : Nat) (c : Core) : (s.setCore i c).subject = s.subject := rfl
@[simp] theorem setCore_inputs (i : Nat) (c : Core) : (s.setCore i c).inputs = s.inputs := rfl
@[simp] theorem setCore_agenda (i : Nat) (c : Core) : (s.setCore i c).agenda = s.agenda := rfl
@[simp] theorem setCore_nextId (i : Nat) (c : Core) : (s.setCore i c).nextId = s.nextId := rfl
@[simp] theorem setCore_nextSeq (i : Nat) (c : Core) : (s.setCore i c).nextSeq = s.nextSeq := rfl
@[simp] theorem setCore_fresh (i : Nat) (c : Core) : (s.setCore i c).fresh = s.fresh := rfl
@[simp] theorem setCore_flight (i : Nat) (c : Core) : (s.setCore i c).flight = s.flight := rfl
@[simp] theorem setCore_egress (i : Nat) (c : Core) : (s.setCore i c).egress = s.egress := rfl
@[simp] theorem setCore_numbers (i : Nat) (c : Core) : (s.setCore i c).numbers = s.numbers := rfl
@[simp] theorem setCore_pkg (i : Nat) (c : Core) : (s.setCore i c).pkg = s.pkg := rfl
@[simp] theorem setCore_pkgWritten (i : Nat) (c : Core) : (s.setCore i c).pkgWritten = s.pkgWritten := rfl
@[simp] theorem setCore_tiles (i : Nat) (c : Core) : (s.setCore i c).tiles = s.tiles := rfl
@[simp] theorem setCore_dies (i : Nat) (c : Core) : (s.setCore i c).dies = s.dies := rfl
@[simp] theorem setCore_mem (i : Nat) (c : Core) : (s.setCore i c).mem = s.mem := rfl
@[simp] theorem setCore_poison (i : Nat) (c : Core) : (s.setCore i c).poison = s.poison := rfl
@[simp] theorem setCore_moves (i : Nat) (c : Core) : (s.setCore i c).moves = s.moves := rfl
@[simp] theorem setCore_watches (i : Nat) (c : Core) : (s.setCore i c).watches = s.watches := rfl
@[simp] theorem setCore_jobs (i : Nat) (c : Core) : (s.setCore i c).jobs = s.jobs := rfl
@[simp] theorem setCore_keys (i : Nat) (c : Core) : (s.setCore i c).keys = s.keys := rfl
@[simp] theorem setCore_colls (i : Nat) (c : Core) : (s.setCore i c).colls = s.colls := rfl
@[simp] theorem setCore_ports (i : Nat) (c : Core) : (s.setCore i c).ports = s.ports := rfl
@[simp] theorem setCore_routes (i : Nat) (c : Core) : (s.setCore i c).routes = s.routes := rfl
@[simp] theorem setCore_tickets (i : Nat) (c : Core) : (s.setCore i c).tickets = s.tickets := rfl
@[simp] theorem setCore_windows (i : Nat) (c : Core) : (s.setCore i c).windows = s.windows := rfl
@[simp] theorem setCore_launches (i : Nat) (c : Core) : (s.setCore i c).launches = s.launches := rfl
@[simp] theorem setCore_reads (i : Nat) (c : Core) : (s.setCore i c).reads = s.reads := rfl
@[simp] theorem setCore_waves (i : Nat) (c : Core) : (s.setCore i c).waves = s.waves := rfl
@[simp] theorem setCore_waveEnds (i : Nat) (c : Core) : (s.setCore i c).waveEnds = s.waveEnds := rfl
@[simp] theorem setCore_fetched (i : Nat) (c : Core) : (s.setCore i c).fetched = s.fetched := rfl
@[simp] theorem setCore_health (i : Nat) (c : Core) : (s.setCore i c).health = s.health := rfl
@[simp] theorem setCore_resumes (i : Nat) (c : Core) : (s.setCore i c).resumes = s.resumes := rfl
@[simp] theorem setCore_images (i : Nat) (c : Core) : (s.setCore i c).images = s.images := rfl
@[simp] theorem setCore_sending (i : Nat) (c : Core) : (s.setCore i c).sending = s.sending := rfl
@[simp] theorem setCore_receiving (i : Nat) (c : Core) : (s.setCore i c).receiving = s.receiving := rfl
@[simp] theorem setCore_pinned (i : Nat) (c : Core) : (s.setCore i c).pinned = s.pinned := rfl
@[simp] theorem setCore_sectors (i : Nat) (c : Core) : (s.setCore i c).sectors = s.sectors := rfl
@[simp] theorem setCore_slices (i : Nat) (c : Core) : (s.setCore i c).slices = s.slices := rfl
@[simp] theorem setCore_dirs (i : Nat) (c : Core) : (s.setCore i c).dirs = s.dirs := rfl
@[simp] theorem setCore_walkCaches (i : Nat) (c : Core) : (s.setCore i c).walkCaches = s.walkCaches := rfl
@[simp] theorem setCore_completions (i : Nat) (c : Core) : (s.setCore i c).completions = s.completions := rfl
@[simp] theorem setCore_trail (i : Nat) (c : Core) : (s.setCore i c).trail = s.trail := rfl
@[simp] theorem setCore_heardCalls (i : Nat) (c : Core) : (s.setCore i c).heardCalls = s.heardCalls := rfl
@[simp] theorem setCore_farEntries (i : Nat) (c : Core) : (s.setCore i c).farEntries = s.farEntries := rfl
@[simp] theorem setCore_slicePoison (i : Nat) (c : Core) : (s.setCore i c).slicePoison = s.slicePoison := rfl
@[simp] theorem setCore_farVoters (i : Nat) (c : Core) : (s.setCore i c).farVoters = s.farVoters := rfl

@[simp] theorem setTile_cycle (i : Nat) (x : Tile) : (s.setTile i x).cycle = s.cycle := rfl
@[simp] theorem setTile_phase (i : Nat) (x : Tile) : (s.setTile i x).phase = s.phase := rfl
@[simp] theorem setTile_cursor (i : Nat) (x : Tile) : (s.setTile i x).cursor = s.cursor := rfl
@[simp] theorem setTile_focus (i : Nat) (x : Tile) : (s.setTile i x).focus = s.focus := rfl
@[simp] theorem setTile_subject (i : Nat) (x : Tile) : (s.setTile i x).subject = s.subject := rfl
@[simp] theorem setTile_inputs (i : Nat) (x : Tile) : (s.setTile i x).inputs = s.inputs := rfl
@[simp] theorem setTile_agenda (i : Nat) (x : Tile) : (s.setTile i x).agenda = s.agenda := rfl
@[simp] theorem setTile_nextId (i : Nat) (x : Tile) : (s.setTile i x).nextId = s.nextId := rfl
@[simp] theorem setTile_nextSeq (i : Nat) (x : Tile) : (s.setTile i x).nextSeq = s.nextSeq := rfl
@[simp] theorem setTile_fresh (i : Nat) (x : Tile) : (s.setTile i x).fresh = s.fresh := rfl
@[simp] theorem setTile_flight (i : Nat) (x : Tile) : (s.setTile i x).flight = s.flight := rfl
@[simp] theorem setTile_egress (i : Nat) (x : Tile) : (s.setTile i x).egress = s.egress := rfl
@[simp] theorem setTile_numbers (i : Nat) (x : Tile) : (s.setTile i x).numbers = s.numbers := rfl
@[simp] theorem setTile_pkg (i : Nat) (x : Tile) : (s.setTile i x).pkg = s.pkg := rfl
@[simp] theorem setTile_pkgWritten (i : Nat) (x : Tile) : (s.setTile i x).pkgWritten = s.pkgWritten := rfl
@[simp] theorem setTile_cores (i : Nat) (x : Tile) : (s.setTile i x).cores = s.cores := rfl
@[simp] theorem setTile_dies (i : Nat) (x : Tile) : (s.setTile i x).dies = s.dies := rfl
@[simp] theorem setTile_mem (i : Nat) (x : Tile) : (s.setTile i x).mem = s.mem := rfl
@[simp] theorem setTile_poison (i : Nat) (x : Tile) : (s.setTile i x).poison = s.poison := rfl
@[simp] theorem setTile_moves (i : Nat) (x : Tile) : (s.setTile i x).moves = s.moves := rfl
@[simp] theorem setTile_watches (i : Nat) (x : Tile) : (s.setTile i x).watches = s.watches := rfl
@[simp] theorem setTile_jobs (i : Nat) (x : Tile) : (s.setTile i x).jobs = s.jobs := rfl
@[simp] theorem setTile_keys (i : Nat) (x : Tile) : (s.setTile i x).keys = s.keys := rfl
@[simp] theorem setTile_colls (i : Nat) (x : Tile) : (s.setTile i x).colls = s.colls := rfl
@[simp] theorem setTile_ports (i : Nat) (x : Tile) : (s.setTile i x).ports = s.ports := rfl
@[simp] theorem setTile_routes (i : Nat) (x : Tile) : (s.setTile i x).routes = s.routes := rfl
@[simp] theorem setTile_tickets (i : Nat) (x : Tile) : (s.setTile i x).tickets = s.tickets := rfl
@[simp] theorem setTile_windows (i : Nat) (x : Tile) : (s.setTile i x).windows = s.windows := rfl
@[simp] theorem setTile_launches (i : Nat) (x : Tile) : (s.setTile i x).launches = s.launches := rfl
@[simp] theorem setTile_reads (i : Nat) (x : Tile) : (s.setTile i x).reads = s.reads := rfl
@[simp] theorem setTile_waves (i : Nat) (x : Tile) : (s.setTile i x).waves = s.waves := rfl
@[simp] theorem setTile_waveEnds (i : Nat) (x : Tile) : (s.setTile i x).waveEnds = s.waveEnds := rfl
@[simp] theorem setTile_fetched (i : Nat) (x : Tile) : (s.setTile i x).fetched = s.fetched := rfl
@[simp] theorem setTile_health (i : Nat) (x : Tile) : (s.setTile i x).health = s.health := rfl
@[simp] theorem setTile_resumes (i : Nat) (x : Tile) : (s.setTile i x).resumes = s.resumes := rfl
@[simp] theorem setTile_images (i : Nat) (x : Tile) : (s.setTile i x).images = s.images := rfl
@[simp] theorem setTile_sending (i : Nat) (x : Tile) : (s.setTile i x).sending = s.sending := rfl
@[simp] theorem setTile_receiving (i : Nat) (x : Tile) : (s.setTile i x).receiving = s.receiving := rfl
@[simp] theorem setTile_pinned (i : Nat) (x : Tile) : (s.setTile i x).pinned = s.pinned := rfl
@[simp] theorem setTile_sectors (i : Nat) (x : Tile) : (s.setTile i x).sectors = s.sectors := rfl
@[simp] theorem setTile_slices (i : Nat) (x : Tile) : (s.setTile i x).slices = s.slices := rfl
@[simp] theorem setTile_dirs (i : Nat) (x : Tile) : (s.setTile i x).dirs = s.dirs := rfl
@[simp] theorem setTile_walkCaches (i : Nat) (x : Tile) : (s.setTile i x).walkCaches = s.walkCaches := rfl
@[simp] theorem setTile_completions (i : Nat) (x : Tile) : (s.setTile i x).completions = s.completions := rfl
@[simp] theorem setTile_trail (i : Nat) (x : Tile) : (s.setTile i x).trail = s.trail := rfl
@[simp] theorem setTile_heardCalls (i : Nat) (x : Tile) : (s.setTile i x).heardCalls = s.heardCalls := rfl
@[simp] theorem setTile_farEntries (i : Nat) (x : Tile) : (s.setTile i x).farEntries = s.farEntries := rfl
@[simp] theorem setTile_slicePoison (i : Nat) (x : Tile) : (s.setTile i x).slicePoison = s.slicePoison := rfl
@[simp] theorem setTile_farVoters (i : Nat) (x : Tile) : (s.setTile i x).farVoters = s.farVoters := rfl

@[simp] theorem setDie_cycle (i : Nat) (x : Die) : (s.setDie i x).cycle = s.cycle := rfl
@[simp] theorem setDie_phase (i : Nat) (x : Die) : (s.setDie i x).phase = s.phase := rfl
@[simp] theorem setDie_cursor (i : Nat) (x : Die) : (s.setDie i x).cursor = s.cursor := rfl
@[simp] theorem setDie_focus (i : Nat) (x : Die) : (s.setDie i x).focus = s.focus := rfl
@[simp] theorem setDie_subject (i : Nat) (x : Die) : (s.setDie i x).subject = s.subject := rfl
@[simp] theorem setDie_inputs (i : Nat) (x : Die) : (s.setDie i x).inputs = s.inputs := rfl
@[simp] theorem setDie_agenda (i : Nat) (x : Die) : (s.setDie i x).agenda = s.agenda := rfl
@[simp] theorem setDie_nextId (i : Nat) (x : Die) : (s.setDie i x).nextId = s.nextId := rfl
@[simp] theorem setDie_nextSeq (i : Nat) (x : Die) : (s.setDie i x).nextSeq = s.nextSeq := rfl
@[simp] theorem setDie_fresh (i : Nat) (x : Die) : (s.setDie i x).fresh = s.fresh := rfl
@[simp] theorem setDie_flight (i : Nat) (x : Die) : (s.setDie i x).flight = s.flight := rfl
@[simp] theorem setDie_egress (i : Nat) (x : Die) : (s.setDie i x).egress = s.egress := rfl
@[simp] theorem setDie_numbers (i : Nat) (x : Die) : (s.setDie i x).numbers = s.numbers := rfl
@[simp] theorem setDie_pkg (i : Nat) (x : Die) : (s.setDie i x).pkg = s.pkg := rfl
@[simp] theorem setDie_pkgWritten (i : Nat) (x : Die) : (s.setDie i x).pkgWritten = s.pkgWritten := rfl
@[simp] theorem setDie_cores (i : Nat) (x : Die) : (s.setDie i x).cores = s.cores := rfl
@[simp] theorem setDie_tiles (i : Nat) (x : Die) : (s.setDie i x).tiles = s.tiles := rfl
@[simp] theorem setDie_mem (i : Nat) (x : Die) : (s.setDie i x).mem = s.mem := rfl
@[simp] theorem setDie_poison (i : Nat) (x : Die) : (s.setDie i x).poison = s.poison := rfl
@[simp] theorem setDie_moves (i : Nat) (x : Die) : (s.setDie i x).moves = s.moves := rfl
@[simp] theorem setDie_watches (i : Nat) (x : Die) : (s.setDie i x).watches = s.watches := rfl
@[simp] theorem setDie_jobs (i : Nat) (x : Die) : (s.setDie i x).jobs = s.jobs := rfl
@[simp] theorem setDie_keys (i : Nat) (x : Die) : (s.setDie i x).keys = s.keys := rfl
@[simp] theorem setDie_colls (i : Nat) (x : Die) : (s.setDie i x).colls = s.colls := rfl
@[simp] theorem setDie_ports (i : Nat) (x : Die) : (s.setDie i x).ports = s.ports := rfl
@[simp] theorem setDie_routes (i : Nat) (x : Die) : (s.setDie i x).routes = s.routes := rfl
@[simp] theorem setDie_tickets (i : Nat) (x : Die) : (s.setDie i x).tickets = s.tickets := rfl
@[simp] theorem setDie_windows (i : Nat) (x : Die) : (s.setDie i x).windows = s.windows := rfl
@[simp] theorem setDie_launches (i : Nat) (x : Die) : (s.setDie i x).launches = s.launches := rfl
@[simp] theorem setDie_reads (i : Nat) (x : Die) : (s.setDie i x).reads = s.reads := rfl
@[simp] theorem setDie_waves (i : Nat) (x : Die) : (s.setDie i x).waves = s.waves := rfl
@[simp] theorem setDie_waveEnds (i : Nat) (x : Die) : (s.setDie i x).waveEnds = s.waveEnds := rfl
@[simp] theorem setDie_fetched (i : Nat) (x : Die) : (s.setDie i x).fetched = s.fetched := rfl
@[simp] theorem setDie_health (i : Nat) (x : Die) : (s.setDie i x).health = s.health := rfl
@[simp] theorem setDie_resumes (i : Nat) (x : Die) : (s.setDie i x).resumes = s.resumes := rfl
@[simp] theorem setDie_images (i : Nat) (x : Die) : (s.setDie i x).images = s.images := rfl
@[simp] theorem setDie_sending (i : Nat) (x : Die) : (s.setDie i x).sending = s.sending := rfl
@[simp] theorem setDie_receiving (i : Nat) (x : Die) : (s.setDie i x).receiving = s.receiving := rfl
@[simp] theorem setDie_pinned (i : Nat) (x : Die) : (s.setDie i x).pinned = s.pinned := rfl
@[simp] theorem setDie_sectors (i : Nat) (x : Die) : (s.setDie i x).sectors = s.sectors := rfl
@[simp] theorem setDie_slices (i : Nat) (x : Die) : (s.setDie i x).slices = s.slices := rfl
@[simp] theorem setDie_dirs (i : Nat) (x : Die) : (s.setDie i x).dirs = s.dirs := rfl
@[simp] theorem setDie_walkCaches (i : Nat) (x : Die) : (s.setDie i x).walkCaches = s.walkCaches := rfl
@[simp] theorem setDie_completions (i : Nat) (x : Die) : (s.setDie i x).completions = s.completions := rfl
@[simp] theorem setDie_trail (i : Nat) (x : Die) : (s.setDie i x).trail = s.trail := rfl
@[simp] theorem setDie_heardCalls (i : Nat) (x : Die) : (s.setDie i x).heardCalls = s.heardCalls := rfl
@[simp] theorem setDie_farEntries (i : Nat) (x : Die) : (s.setDie i x).farEntries = s.farEntries := rfl
@[simp] theorem setDie_slicePoison (i : Nat) (x : Die) : (s.setDie i x).slicePoison = s.slicePoison := rfl
@[simp] theorem setDie_farVoters (i : Nat) (x : Die) : (s.setDie i x).farVoters = s.farVoters := rfl

@[simp] theorem setThread_cycle (i j : Nat) (t : Thread) : (s.setThread i j t).cycle = s.cycle := rfl
@[simp] theorem setThread_phase (i j : Nat) (t : Thread) : (s.setThread i j t).phase = s.phase := rfl
@[simp] theorem setThread_cursor (i j : Nat) (t : Thread) : (s.setThread i j t).cursor = s.cursor := rfl
@[simp] theorem setThread_focus (i j : Nat) (t : Thread) : (s.setThread i j t).focus = s.focus := rfl
@[simp] theorem setThread_subject (i j : Nat) (t : Thread) : (s.setThread i j t).subject = s.subject := rfl
@[simp] theorem setThread_inputs (i j : Nat) (t : Thread) : (s.setThread i j t).inputs = s.inputs := rfl
@[simp] theorem setThread_agenda (i j : Nat) (t : Thread) : (s.setThread i j t).agenda = s.agenda := rfl
@[simp] theorem setThread_nextId (i j : Nat) (t : Thread) : (s.setThread i j t).nextId = s.nextId := rfl
@[simp] theorem setThread_nextSeq (i j : Nat) (t : Thread) : (s.setThread i j t).nextSeq = s.nextSeq := rfl
@[simp] theorem setThread_fresh (i j : Nat) (t : Thread) : (s.setThread i j t).fresh = s.fresh := rfl
@[simp] theorem setThread_flight (i j : Nat) (t : Thread) : (s.setThread i j t).flight = s.flight := rfl
@[simp] theorem setThread_egress (i j : Nat) (t : Thread) : (s.setThread i j t).egress = s.egress := rfl
@[simp] theorem setThread_numbers (i j : Nat) (t : Thread) : (s.setThread i j t).numbers = s.numbers := rfl
@[simp] theorem setThread_pkg (i j : Nat) (t : Thread) : (s.setThread i j t).pkg = s.pkg := rfl
@[simp] theorem setThread_pkgWritten (i j : Nat) (t : Thread) : (s.setThread i j t).pkgWritten = s.pkgWritten := rfl
@[simp] theorem setThread_tiles (i j : Nat) (t : Thread) : (s.setThread i j t).tiles = s.tiles := rfl
@[simp] theorem setThread_dies (i j : Nat) (t : Thread) : (s.setThread i j t).dies = s.dies := rfl
@[simp] theorem setThread_mem (i j : Nat) (t : Thread) : (s.setThread i j t).mem = s.mem := rfl
@[simp] theorem setThread_poison (i j : Nat) (t : Thread) : (s.setThread i j t).poison = s.poison := rfl
@[simp] theorem setThread_moves (i j : Nat) (t : Thread) : (s.setThread i j t).moves = s.moves := rfl
@[simp] theorem setThread_watches (i j : Nat) (t : Thread) : (s.setThread i j t).watches = s.watches := rfl
@[simp] theorem setThread_jobs (i j : Nat) (t : Thread) : (s.setThread i j t).jobs = s.jobs := rfl
@[simp] theorem setThread_keys (i j : Nat) (t : Thread) : (s.setThread i j t).keys = s.keys := rfl
@[simp] theorem setThread_colls (i j : Nat) (t : Thread) : (s.setThread i j t).colls = s.colls := rfl
@[simp] theorem setThread_ports (i j : Nat) (t : Thread) : (s.setThread i j t).ports = s.ports := rfl
@[simp] theorem setThread_routes (i j : Nat) (t : Thread) : (s.setThread i j t).routes = s.routes := rfl
@[simp] theorem setThread_tickets (i j : Nat) (t : Thread) : (s.setThread i j t).tickets = s.tickets := rfl
@[simp] theorem setThread_windows (i j : Nat) (t : Thread) : (s.setThread i j t).windows = s.windows := rfl
@[simp] theorem setThread_launches (i j : Nat) (t : Thread) : (s.setThread i j t).launches = s.launches := rfl
@[simp] theorem setThread_reads (i j : Nat) (t : Thread) : (s.setThread i j t).reads = s.reads := rfl
@[simp] theorem setThread_waves (i j : Nat) (t : Thread) : (s.setThread i j t).waves = s.waves := rfl
@[simp] theorem setThread_waveEnds (i j : Nat) (t : Thread) : (s.setThread i j t).waveEnds = s.waveEnds := rfl
@[simp] theorem setThread_fetched (i j : Nat) (t : Thread) : (s.setThread i j t).fetched = s.fetched := rfl
@[simp] theorem setThread_health (i j : Nat) (t : Thread) : (s.setThread i j t).health = s.health := rfl
@[simp] theorem setThread_resumes (i j : Nat) (t : Thread) : (s.setThread i j t).resumes = s.resumes := rfl
@[simp] theorem setThread_images (i j : Nat) (t : Thread) : (s.setThread i j t).images = s.images := rfl
@[simp] theorem setThread_sending (i j : Nat) (t : Thread) : (s.setThread i j t).sending = s.sending := rfl
@[simp] theorem setThread_receiving (i j : Nat) (t : Thread) : (s.setThread i j t).receiving = s.receiving := rfl
@[simp] theorem setThread_pinned (i j : Nat) (t : Thread) : (s.setThread i j t).pinned = s.pinned := rfl
@[simp] theorem setThread_sectors (i j : Nat) (t : Thread) : (s.setThread i j t).sectors = s.sectors := rfl
@[simp] theorem setThread_slices (i j : Nat) (t : Thread) : (s.setThread i j t).slices = s.slices := rfl
@[simp] theorem setThread_dirs (i j : Nat) (t : Thread) : (s.setThread i j t).dirs = s.dirs := rfl
@[simp] theorem setThread_walkCaches (i j : Nat) (t : Thread) : (s.setThread i j t).walkCaches = s.walkCaches := rfl
@[simp] theorem setThread_completions (i j : Nat) (t : Thread) : (s.setThread i j t).completions = s.completions := rfl
@[simp] theorem setThread_trail (i j : Nat) (t : Thread) : (s.setThread i j t).trail = s.trail := rfl
@[simp] theorem setThread_heardCalls (i j : Nat) (t : Thread) : (s.setThread i j t).heardCalls = s.heardCalls := rfl
@[simp] theorem setThread_farEntries (i j : Nat) (t : Thread) : (s.setThread i j t).farEntries = s.farEntries := rfl
@[simp] theorem setThread_slicePoison (i j : Nat) (t : Thread) : (s.setThread i j t).slicePoison = s.slicePoison := rfl
@[simp] theorem setThread_farVoters (i j : Nat) (t : Thread) : (s.setThread i j t).farVoters = s.farVoters := rfl

@[simp] theorem setCur_cycle (t : Thread) : (s.setCur t).cycle = s.cycle := rfl
@[simp] theorem setCur_phase (t : Thread) : (s.setCur t).phase = s.phase := rfl
@[simp] theorem setCur_cursor (t : Thread) : (s.setCur t).cursor = s.cursor := rfl
@[simp] theorem setCur_focus (t : Thread) : (s.setCur t).focus = s.focus := rfl
@[simp] theorem setCur_subject (t : Thread) : (s.setCur t).subject = s.subject := rfl
@[simp] theorem setCur_inputs (t : Thread) : (s.setCur t).inputs = s.inputs := rfl
@[simp] theorem setCur_agenda (t : Thread) : (s.setCur t).agenda = s.agenda := rfl
@[simp] theorem setCur_nextId (t : Thread) : (s.setCur t).nextId = s.nextId := rfl
@[simp] theorem setCur_nextSeq (t : Thread) : (s.setCur t).nextSeq = s.nextSeq := rfl
@[simp] theorem setCur_fresh (t : Thread) : (s.setCur t).fresh = s.fresh := rfl
@[simp] theorem setCur_flight (t : Thread) : (s.setCur t).flight = s.flight := rfl
@[simp] theorem setCur_egress (t : Thread) : (s.setCur t).egress = s.egress := rfl
@[simp] theorem setCur_numbers (t : Thread) : (s.setCur t).numbers = s.numbers := rfl
@[simp] theorem setCur_pkg (t : Thread) : (s.setCur t).pkg = s.pkg := rfl
@[simp] theorem setCur_pkgWritten (t : Thread) : (s.setCur t).pkgWritten = s.pkgWritten := rfl
@[simp] theorem setCur_tiles (t : Thread) : (s.setCur t).tiles = s.tiles := rfl
@[simp] theorem setCur_dies (t : Thread) : (s.setCur t).dies = s.dies := rfl
@[simp] theorem setCur_mem (t : Thread) : (s.setCur t).mem = s.mem := rfl
@[simp] theorem setCur_poison (t : Thread) : (s.setCur t).poison = s.poison := rfl
@[simp] theorem setCur_moves (t : Thread) : (s.setCur t).moves = s.moves := rfl
@[simp] theorem setCur_watches (t : Thread) : (s.setCur t).watches = s.watches := rfl
@[simp] theorem setCur_jobs (t : Thread) : (s.setCur t).jobs = s.jobs := rfl
@[simp] theorem setCur_keys (t : Thread) : (s.setCur t).keys = s.keys := rfl
@[simp] theorem setCur_colls (t : Thread) : (s.setCur t).colls = s.colls := rfl
@[simp] theorem setCur_ports (t : Thread) : (s.setCur t).ports = s.ports := rfl
@[simp] theorem setCur_routes (t : Thread) : (s.setCur t).routes = s.routes := rfl
@[simp] theorem setCur_tickets (t : Thread) : (s.setCur t).tickets = s.tickets := rfl
@[simp] theorem setCur_windows (t : Thread) : (s.setCur t).windows = s.windows := rfl
@[simp] theorem setCur_launches (t : Thread) : (s.setCur t).launches = s.launches := rfl
@[simp] theorem setCur_reads (t : Thread) : (s.setCur t).reads = s.reads := rfl
@[simp] theorem setCur_waves (t : Thread) : (s.setCur t).waves = s.waves := rfl
@[simp] theorem setCur_waveEnds (t : Thread) : (s.setCur t).waveEnds = s.waveEnds := rfl
@[simp] theorem setCur_fetched (t : Thread) : (s.setCur t).fetched = s.fetched := rfl
@[simp] theorem setCur_health (t : Thread) : (s.setCur t).health = s.health := rfl
@[simp] theorem setCur_resumes (t : Thread) : (s.setCur t).resumes = s.resumes := rfl
@[simp] theorem setCur_images (t : Thread) : (s.setCur t).images = s.images := rfl
@[simp] theorem setCur_sending (t : Thread) : (s.setCur t).sending = s.sending := rfl
@[simp] theorem setCur_receiving (t : Thread) : (s.setCur t).receiving = s.receiving := rfl
@[simp] theorem setCur_pinned (t : Thread) : (s.setCur t).pinned = s.pinned := rfl
@[simp] theorem setCur_sectors (t : Thread) : (s.setCur t).sectors = s.sectors := rfl
@[simp] theorem setCur_slices (t : Thread) : (s.setCur t).slices = s.slices := rfl
@[simp] theorem setCur_dirs (t : Thread) : (s.setCur t).dirs = s.dirs := rfl
@[simp] theorem setCur_walkCaches (t : Thread) : (s.setCur t).walkCaches = s.walkCaches := rfl
@[simp] theorem setCur_completions (t : Thread) : (s.setCur t).completions = s.completions := rfl
@[simp] theorem setCur_trail (t : Thread) : (s.setCur t).trail = s.trail := rfl
@[simp] theorem setCur_heardCalls (t : Thread) : (s.setCur t).heardCalls = s.heardCalls := rfl
@[simp] theorem setCur_farEntries (t : Thread) : (s.setCur t).farEntries = s.farEntries := rfl
@[simp] theorem setCur_slicePoison (t : Thread) : (s.setCur t).slicePoison = s.slicePoison := rfl
@[simp] theorem setCur_farVoters (t : Thread) : (s.setCur t).farVoters = s.farVoters := rfl

@[simp] theorem modCur_cycle (f : Thread → Thread) : (s.modCur f).cycle = s.cycle := rfl
@[simp] theorem modCur_phase (f : Thread → Thread) : (s.modCur f).phase = s.phase := rfl
@[simp] theorem modCur_cursor (f : Thread → Thread) : (s.modCur f).cursor = s.cursor := rfl
@[simp] theorem modCur_focus (f : Thread → Thread) : (s.modCur f).focus = s.focus := rfl
@[simp] theorem modCur_subject (f : Thread → Thread) : (s.modCur f).subject = s.subject := rfl
@[simp] theorem modCur_inputs (f : Thread → Thread) : (s.modCur f).inputs = s.inputs := rfl
@[simp] theorem modCur_agenda (f : Thread → Thread) : (s.modCur f).agenda = s.agenda := rfl
@[simp] theorem modCur_nextId (f : Thread → Thread) : (s.modCur f).nextId = s.nextId := rfl
@[simp] theorem modCur_nextSeq (f : Thread → Thread) : (s.modCur f).nextSeq = s.nextSeq := rfl
@[simp] theorem modCur_fresh (f : Thread → Thread) : (s.modCur f).fresh = s.fresh := rfl
@[simp] theorem modCur_flight (f : Thread → Thread) : (s.modCur f).flight = s.flight := rfl
@[simp] theorem modCur_egress (f : Thread → Thread) : (s.modCur f).egress = s.egress := rfl
@[simp] theorem modCur_numbers (f : Thread → Thread) : (s.modCur f).numbers = s.numbers := rfl
@[simp] theorem modCur_pkg (f : Thread → Thread) : (s.modCur f).pkg = s.pkg := rfl
@[simp] theorem modCur_pkgWritten (f : Thread → Thread) : (s.modCur f).pkgWritten = s.pkgWritten := rfl
@[simp] theorem modCur_tiles (f : Thread → Thread) : (s.modCur f).tiles = s.tiles := rfl
@[simp] theorem modCur_dies (f : Thread → Thread) : (s.modCur f).dies = s.dies := rfl
@[simp] theorem modCur_mem (f : Thread → Thread) : (s.modCur f).mem = s.mem := rfl
@[simp] theorem modCur_poison (f : Thread → Thread) : (s.modCur f).poison = s.poison := rfl
@[simp] theorem modCur_moves (f : Thread → Thread) : (s.modCur f).moves = s.moves := rfl
@[simp] theorem modCur_watches (f : Thread → Thread) : (s.modCur f).watches = s.watches := rfl
@[simp] theorem modCur_jobs (f : Thread → Thread) : (s.modCur f).jobs = s.jobs := rfl
@[simp] theorem modCur_keys (f : Thread → Thread) : (s.modCur f).keys = s.keys := rfl
@[simp] theorem modCur_colls (f : Thread → Thread) : (s.modCur f).colls = s.colls := rfl
@[simp] theorem modCur_ports (f : Thread → Thread) : (s.modCur f).ports = s.ports := rfl
@[simp] theorem modCur_routes (f : Thread → Thread) : (s.modCur f).routes = s.routes := rfl
@[simp] theorem modCur_tickets (f : Thread → Thread) : (s.modCur f).tickets = s.tickets := rfl
@[simp] theorem modCur_windows (f : Thread → Thread) : (s.modCur f).windows = s.windows := rfl
@[simp] theorem modCur_launches (f : Thread → Thread) : (s.modCur f).launches = s.launches := rfl
@[simp] theorem modCur_reads (f : Thread → Thread) : (s.modCur f).reads = s.reads := rfl
@[simp] theorem modCur_waves (f : Thread → Thread) : (s.modCur f).waves = s.waves := rfl
@[simp] theorem modCur_waveEnds (f : Thread → Thread) : (s.modCur f).waveEnds = s.waveEnds := rfl
@[simp] theorem modCur_fetched (f : Thread → Thread) : (s.modCur f).fetched = s.fetched := rfl
@[simp] theorem modCur_health (f : Thread → Thread) : (s.modCur f).health = s.health := rfl
@[simp] theorem modCur_resumes (f : Thread → Thread) : (s.modCur f).resumes = s.resumes := rfl
@[simp] theorem modCur_images (f : Thread → Thread) : (s.modCur f).images = s.images := rfl
@[simp] theorem modCur_sending (f : Thread → Thread) : (s.modCur f).sending = s.sending := rfl
@[simp] theorem modCur_receiving (f : Thread → Thread) : (s.modCur f).receiving = s.receiving := rfl
@[simp] theorem modCur_pinned (f : Thread → Thread) : (s.modCur f).pinned = s.pinned := rfl
@[simp] theorem modCur_sectors (f : Thread → Thread) : (s.modCur f).sectors = s.sectors := rfl
@[simp] theorem modCur_slices (f : Thread → Thread) : (s.modCur f).slices = s.slices := rfl
@[simp] theorem modCur_dirs (f : Thread → Thread) : (s.modCur f).dirs = s.dirs := rfl
@[simp] theorem modCur_walkCaches (f : Thread → Thread) : (s.modCur f).walkCaches = s.walkCaches := rfl
@[simp] theorem modCur_completions (f : Thread → Thread) : (s.modCur f).completions = s.completions := rfl
@[simp] theorem modCur_trail (f : Thread → Thread) : (s.modCur f).trail = s.trail := rfl
@[simp] theorem modCur_heardCalls (f : Thread → Thread) : (s.modCur f).heardCalls = s.heardCalls := rfl
@[simp] theorem modCur_farEntries (f : Thread → Thread) : (s.modCur f).farEntries = s.farEntries := rfl
@[simp] theorem modCur_slicePoison (f : Thread → Thread) : (s.modCur f).slicePoison = s.slicePoison := rfl
@[simp] theorem modCur_farVoters (f : Thread → Thread) : (s.modCur f).farVoters = s.farVoters := rfl

@[simp] theorem wait_cycle (w : Wait) : (s.wait w).cycle = s.cycle := rfl
@[simp] theorem wait_phase (w : Wait) : (s.wait w).phase = s.phase := rfl
@[simp] theorem wait_cursor (w : Wait) : (s.wait w).cursor = s.cursor := rfl
@[simp] theorem wait_focus (w : Wait) : (s.wait w).focus = s.focus := rfl
@[simp] theorem wait_subject (w : Wait) : (s.wait w).subject = s.subject := rfl
@[simp] theorem wait_inputs (w : Wait) : (s.wait w).inputs = s.inputs := rfl
@[simp] theorem wait_agenda (w : Wait) : (s.wait w).agenda = s.agenda := rfl
@[simp] theorem wait_nextId (w : Wait) : (s.wait w).nextId = s.nextId := rfl
@[simp] theorem wait_nextSeq (w : Wait) : (s.wait w).nextSeq = s.nextSeq := rfl
@[simp] theorem wait_fresh (w : Wait) : (s.wait w).fresh = s.fresh := rfl
@[simp] theorem wait_flight (w : Wait) : (s.wait w).flight = s.flight := rfl
@[simp] theorem wait_egress (w : Wait) : (s.wait w).egress = s.egress := rfl
@[simp] theorem wait_numbers (w : Wait) : (s.wait w).numbers = s.numbers := rfl
@[simp] theorem wait_pkg (w : Wait) : (s.wait w).pkg = s.pkg := rfl
@[simp] theorem wait_pkgWritten (w : Wait) : (s.wait w).pkgWritten = s.pkgWritten := rfl
@[simp] theorem wait_tiles (w : Wait) : (s.wait w).tiles = s.tiles := rfl
@[simp] theorem wait_dies (w : Wait) : (s.wait w).dies = s.dies := rfl
@[simp] theorem wait_mem (w : Wait) : (s.wait w).mem = s.mem := rfl
@[simp] theorem wait_poison (w : Wait) : (s.wait w).poison = s.poison := rfl
@[simp] theorem wait_moves (w : Wait) : (s.wait w).moves = s.moves := rfl
@[simp] theorem wait_watches (w : Wait) : (s.wait w).watches = s.watches := rfl
@[simp] theorem wait_jobs (w : Wait) : (s.wait w).jobs = s.jobs := rfl
@[simp] theorem wait_keys (w : Wait) : (s.wait w).keys = s.keys := rfl
@[simp] theorem wait_colls (w : Wait) : (s.wait w).colls = s.colls := rfl
@[simp] theorem wait_ports (w : Wait) : (s.wait w).ports = s.ports := rfl
@[simp] theorem wait_routes (w : Wait) : (s.wait w).routes = s.routes := rfl
@[simp] theorem wait_tickets (w : Wait) : (s.wait w).tickets = s.tickets := rfl
@[simp] theorem wait_windows (w : Wait) : (s.wait w).windows = s.windows := rfl
@[simp] theorem wait_launches (w : Wait) : (s.wait w).launches = s.launches := rfl
@[simp] theorem wait_reads (w : Wait) : (s.wait w).reads = s.reads := rfl
@[simp] theorem wait_waves (w : Wait) : (s.wait w).waves = s.waves := rfl
@[simp] theorem wait_waveEnds (w : Wait) : (s.wait w).waveEnds = s.waveEnds := rfl
@[simp] theorem wait_fetched (w : Wait) : (s.wait w).fetched = s.fetched := rfl
@[simp] theorem wait_health (w : Wait) : (s.wait w).health = s.health := rfl
@[simp] theorem wait_resumes (w : Wait) : (s.wait w).resumes = s.resumes := rfl
@[simp] theorem wait_images (w : Wait) : (s.wait w).images = s.images := rfl
@[simp] theorem wait_sending (w : Wait) : (s.wait w).sending = s.sending := rfl
@[simp] theorem wait_receiving (w : Wait) : (s.wait w).receiving = s.receiving := rfl
@[simp] theorem wait_pinned (w : Wait) : (s.wait w).pinned = s.pinned := rfl
@[simp] theorem wait_sectors (w : Wait) : (s.wait w).sectors = s.sectors := rfl
@[simp] theorem wait_slices (w : Wait) : (s.wait w).slices = s.slices := rfl
@[simp] theorem wait_dirs (w : Wait) : (s.wait w).dirs = s.dirs := rfl
@[simp] theorem wait_walkCaches (w : Wait) : (s.wait w).walkCaches = s.walkCaches := rfl
@[simp] theorem wait_completions (w : Wait) : (s.wait w).completions = s.completions := rfl
@[simp] theorem wait_trail (w : Wait) : (s.wait w).trail = s.trail := rfl
@[simp] theorem wait_heardCalls (w : Wait) : (s.wait w).heardCalls = s.heardCalls := rfl
@[simp] theorem wait_farEntries (w : Wait) : (s.wait w).farEntries = s.farEntries := rfl
@[simp] theorem wait_slicePoison (w : Wait) : (s.wait w).slicePoison = s.slicePoison := rfl
@[simp] theorem wait_farVoters (w : Wait) : (s.wait w).farVoters = s.farVoters := rfl

@[simp] theorem retire_cycle : (s.retire).cycle = s.cycle := rfl
@[simp] theorem retire_phase : (s.retire).phase = s.phase := rfl
@[simp] theorem retire_cursor : (s.retire).cursor = s.cursor := rfl
@[simp] theorem retire_focus : (s.retire).focus = s.focus := rfl
@[simp] theorem retire_subject : (s.retire).subject = s.subject := rfl
@[simp] theorem retire_inputs : (s.retire).inputs = s.inputs := rfl
@[simp] theorem retire_agenda : (s.retire).agenda = s.agenda := rfl
@[simp] theorem retire_nextId : (s.retire).nextId = s.nextId := rfl
@[simp] theorem retire_nextSeq : (s.retire).nextSeq = s.nextSeq := rfl
@[simp] theorem retire_fresh : (s.retire).fresh = s.fresh := rfl
@[simp] theorem retire_flight : (s.retire).flight = s.flight := rfl
@[simp] theorem retire_egress : (s.retire).egress = s.egress := rfl
@[simp] theorem retire_numbers : (s.retire).numbers = s.numbers := rfl
@[simp] theorem retire_pkg : (s.retire).pkg = s.pkg := rfl
@[simp] theorem retire_pkgWritten : (s.retire).pkgWritten = s.pkgWritten := rfl
@[simp] theorem retire_tiles : (s.retire).tiles = s.tiles := rfl
@[simp] theorem retire_dies : (s.retire).dies = s.dies := rfl
@[simp] theorem retire_mem : (s.retire).mem = s.mem := rfl
@[simp] theorem retire_poison : (s.retire).poison = s.poison := rfl
@[simp] theorem retire_moves : (s.retire).moves = s.moves := rfl
@[simp] theorem retire_watches : (s.retire).watches = s.watches := rfl
@[simp] theorem retire_jobs : (s.retire).jobs = s.jobs := rfl
@[simp] theorem retire_keys : (s.retire).keys = s.keys := rfl
@[simp] theorem retire_colls : (s.retire).colls = s.colls := rfl
@[simp] theorem retire_ports : (s.retire).ports = s.ports := rfl
@[simp] theorem retire_routes : (s.retire).routes = s.routes := rfl
@[simp] theorem retire_tickets : (s.retire).tickets = s.tickets := rfl
@[simp] theorem retire_windows : (s.retire).windows = s.windows := rfl
@[simp] theorem retire_launches : (s.retire).launches = s.launches := rfl
@[simp] theorem retire_reads : (s.retire).reads = s.reads := rfl
@[simp] theorem retire_waves : (s.retire).waves = s.waves := rfl
@[simp] theorem retire_waveEnds : (s.retire).waveEnds = s.waveEnds := rfl
@[simp] theorem retire_fetched : (s.retire).fetched = s.fetched := rfl
@[simp] theorem retire_health : (s.retire).health = s.health := rfl
@[simp] theorem retire_resumes : (s.retire).resumes = s.resumes := rfl
@[simp] theorem retire_images : (s.retire).images = s.images := rfl
@[simp] theorem retire_sending : (s.retire).sending = s.sending := rfl
@[simp] theorem retire_receiving : (s.retire).receiving = s.receiving := rfl
@[simp] theorem retire_pinned : (s.retire).pinned = s.pinned := rfl
@[simp] theorem retire_sectors : (s.retire).sectors = s.sectors := rfl
@[simp] theorem retire_slices : (s.retire).slices = s.slices := rfl
@[simp] theorem retire_dirs : (s.retire).dirs = s.dirs := rfl
@[simp] theorem retire_walkCaches : (s.retire).walkCaches = s.walkCaches := rfl
@[simp] theorem retire_completions : (s.retire).completions = s.completions := rfl
@[simp] theorem retire_trail : (s.retire).trail = s.trail := rfl
@[simp] theorem retire_heardCalls : (s.retire).heardCalls = s.heardCalls := rfl
@[simp] theorem retire_farEntries : (s.retire).farEntries = s.farEntries := rfl
@[simp] theorem retire_slicePoison : (s.retire).slicePoison = s.slicePoison := rfl
@[simp] theorem retire_farVoters : (s.retire).farVoters = s.farVoters := rfl

@[simp] theorem result_cycle (d : GReg) (x : Dword) : (s.result d x).cycle = s.cycle := rfl
@[simp] theorem result_phase (d : GReg) (x : Dword) : (s.result d x).phase = s.phase := rfl
@[simp] theorem result_cursor (d : GReg) (x : Dword) : (s.result d x).cursor = s.cursor := rfl
@[simp] theorem result_focus (d : GReg) (x : Dword) : (s.result d x).focus = s.focus := rfl
@[simp] theorem result_subject (d : GReg) (x : Dword) : (s.result d x).subject = s.subject := rfl
@[simp] theorem result_inputs (d : GReg) (x : Dword) : (s.result d x).inputs = s.inputs := rfl
@[simp] theorem result_agenda (d : GReg) (x : Dword) : (s.result d x).agenda = s.agenda := rfl
@[simp] theorem result_nextId (d : GReg) (x : Dword) : (s.result d x).nextId = s.nextId := rfl
@[simp] theorem result_nextSeq (d : GReg) (x : Dword) : (s.result d x).nextSeq = s.nextSeq := rfl
@[simp] theorem result_fresh (d : GReg) (x : Dword) : (s.result d x).fresh = s.fresh := rfl
@[simp] theorem result_flight (d : GReg) (x : Dword) : (s.result d x).flight = s.flight := rfl
@[simp] theorem result_egress (d : GReg) (x : Dword) : (s.result d x).egress = s.egress := rfl
@[simp] theorem result_numbers (d : GReg) (x : Dword) : (s.result d x).numbers = s.numbers := rfl
@[simp] theorem result_pkg (d : GReg) (x : Dword) : (s.result d x).pkg = s.pkg := rfl
@[simp] theorem result_pkgWritten (d : GReg) (x : Dword) : (s.result d x).pkgWritten = s.pkgWritten := rfl
@[simp] theorem result_tiles (d : GReg) (x : Dword) : (s.result d x).tiles = s.tiles := rfl
@[simp] theorem result_dies (d : GReg) (x : Dword) : (s.result d x).dies = s.dies := rfl
@[simp] theorem result_mem (d : GReg) (x : Dword) : (s.result d x).mem = s.mem := rfl
@[simp] theorem result_poison (d : GReg) (x : Dword) : (s.result d x).poison = s.poison := rfl
@[simp] theorem result_moves (d : GReg) (x : Dword) : (s.result d x).moves = s.moves := rfl
@[simp] theorem result_watches (d : GReg) (x : Dword) : (s.result d x).watches = s.watches := rfl
@[simp] theorem result_jobs (d : GReg) (x : Dword) : (s.result d x).jobs = s.jobs := rfl
@[simp] theorem result_keys (d : GReg) (x : Dword) : (s.result d x).keys = s.keys := rfl
@[simp] theorem result_colls (d : GReg) (x : Dword) : (s.result d x).colls = s.colls := rfl
@[simp] theorem result_ports (d : GReg) (x : Dword) : (s.result d x).ports = s.ports := rfl
@[simp] theorem result_routes (d : GReg) (x : Dword) : (s.result d x).routes = s.routes := rfl
@[simp] theorem result_tickets (d : GReg) (x : Dword) : (s.result d x).tickets = s.tickets := rfl
@[simp] theorem result_windows (d : GReg) (x : Dword) : (s.result d x).windows = s.windows := rfl
@[simp] theorem result_launches (d : GReg) (x : Dword) : (s.result d x).launches = s.launches := rfl
@[simp] theorem result_reads (d : GReg) (x : Dword) : (s.result d x).reads = s.reads := rfl
@[simp] theorem result_waves (d : GReg) (x : Dword) : (s.result d x).waves = s.waves := rfl
@[simp] theorem result_waveEnds (d : GReg) (x : Dword) : (s.result d x).waveEnds = s.waveEnds := rfl
@[simp] theorem result_fetched (d : GReg) (x : Dword) : (s.result d x).fetched = s.fetched := rfl
@[simp] theorem result_health (d : GReg) (x : Dword) : (s.result d x).health = s.health := rfl
@[simp] theorem result_resumes (d : GReg) (x : Dword) : (s.result d x).resumes = s.resumes := rfl
@[simp] theorem result_images (d : GReg) (x : Dword) : (s.result d x).images = s.images := rfl
@[simp] theorem result_sending (d : GReg) (x : Dword) : (s.result d x).sending = s.sending := rfl
@[simp] theorem result_receiving (d : GReg) (x : Dword) : (s.result d x).receiving = s.receiving := rfl
@[simp] theorem result_pinned (d : GReg) (x : Dword) : (s.result d x).pinned = s.pinned := rfl
@[simp] theorem result_sectors (d : GReg) (x : Dword) : (s.result d x).sectors = s.sectors := rfl
@[simp] theorem result_slices (d : GReg) (x : Dword) : (s.result d x).slices = s.slices := rfl
@[simp] theorem result_dirs (d : GReg) (x : Dword) : (s.result d x).dirs = s.dirs := rfl
@[simp] theorem result_walkCaches (d : GReg) (x : Dword) : (s.result d x).walkCaches = s.walkCaches := rfl
@[simp] theorem result_completions (d : GReg) (x : Dword) : (s.result d x).completions = s.completions := rfl
@[simp] theorem result_trail (d : GReg) (x : Dword) : (s.result d x).trail = s.trail := rfl
@[simp] theorem result_heardCalls (d : GReg) (x : Dword) : (s.result d x).heardCalls = s.heardCalls := rfl
@[simp] theorem result_farEntries (d : GReg) (x : Dword) : (s.result d x).farEntries = s.farEntries := rfl
@[simp] theorem result_slicePoison (d : GReg) (x : Dword) : (s.result d x).slicePoison = s.slicePoison := rfl
@[simp] theorem result_farVoters (d : GReg) (x : Dword) : (s.result d x).farVoters = s.farVoters := rfl

@[simp] theorem stallFor_cycle (k : Nat) (a v : Dword) (c : WaitCond) : (s.stallFor k a v c).cycle = s.cycle := rfl
@[simp] theorem stallFor_phase (k : Nat) (a v : Dword) (c : WaitCond) : (s.stallFor k a v c).phase = s.phase := rfl
@[simp] theorem stallFor_cursor (k : Nat) (a v : Dword) (c : WaitCond) : (s.stallFor k a v c).cursor = s.cursor := rfl
@[simp] theorem stallFor_focus (k : Nat) (a v : Dword) (c : WaitCond) : (s.stallFor k a v c).focus = s.focus := rfl
@[simp] theorem stallFor_subject (k : Nat) (a v : Dword) (c : WaitCond) : (s.stallFor k a v c).subject = s.subject := rfl
@[simp] theorem stallFor_inputs (k : Nat) (a v : Dword) (c : WaitCond) : (s.stallFor k a v c).inputs = s.inputs := rfl
@[simp] theorem stallFor_agenda (k : Nat) (a v : Dword) (c : WaitCond) : (s.stallFor k a v c).agenda = s.agenda := rfl
@[simp] theorem stallFor_nextId (k : Nat) (a v : Dword) (c : WaitCond) : (s.stallFor k a v c).nextId = s.nextId := rfl
@[simp] theorem stallFor_nextSeq (k : Nat) (a v : Dword) (c : WaitCond) : (s.stallFor k a v c).nextSeq = s.nextSeq := rfl
@[simp] theorem stallFor_fresh (k : Nat) (a v : Dword) (c : WaitCond) : (s.stallFor k a v c).fresh = s.fresh := rfl
@[simp] theorem stallFor_flight (k : Nat) (a v : Dword) (c : WaitCond) : (s.stallFor k a v c).flight = s.flight := rfl
@[simp] theorem stallFor_egress (k : Nat) (a v : Dword) (c : WaitCond) : (s.stallFor k a v c).egress = s.egress := rfl
@[simp] theorem stallFor_numbers (k : Nat) (a v : Dword) (c : WaitCond) : (s.stallFor k a v c).numbers = s.numbers := rfl
@[simp] theorem stallFor_pkg (k : Nat) (a v : Dword) (c : WaitCond) : (s.stallFor k a v c).pkg = s.pkg := rfl
@[simp] theorem stallFor_pkgWritten (k : Nat) (a v : Dword) (c : WaitCond) : (s.stallFor k a v c).pkgWritten = s.pkgWritten := rfl
@[simp] theorem stallFor_tiles (k : Nat) (a v : Dword) (c : WaitCond) : (s.stallFor k a v c).tiles = s.tiles := rfl
@[simp] theorem stallFor_dies (k : Nat) (a v : Dword) (c : WaitCond) : (s.stallFor k a v c).dies = s.dies := rfl
@[simp] theorem stallFor_mem (k : Nat) (a v : Dword) (c : WaitCond) : (s.stallFor k a v c).mem = s.mem := rfl
@[simp] theorem stallFor_poison (k : Nat) (a v : Dword) (c : WaitCond) : (s.stallFor k a v c).poison = s.poison := rfl
@[simp] theorem stallFor_moves (k : Nat) (a v : Dword) (c : WaitCond) : (s.stallFor k a v c).moves = s.moves := rfl
@[simp] theorem stallFor_watches (k : Nat) (a v : Dword) (c : WaitCond) : (s.stallFor k a v c).watches = s.watches := rfl
@[simp] theorem stallFor_jobs (k : Nat) (a v : Dword) (c : WaitCond) : (s.stallFor k a v c).jobs = s.jobs := rfl
@[simp] theorem stallFor_keys (k : Nat) (a v : Dword) (c : WaitCond) : (s.stallFor k a v c).keys = s.keys := rfl
@[simp] theorem stallFor_colls (k : Nat) (a v : Dword) (c : WaitCond) : (s.stallFor k a v c).colls = s.colls := rfl
@[simp] theorem stallFor_ports (k : Nat) (a v : Dword) (c : WaitCond) : (s.stallFor k a v c).ports = s.ports := rfl
@[simp] theorem stallFor_routes (k : Nat) (a v : Dword) (c : WaitCond) : (s.stallFor k a v c).routes = s.routes := rfl
@[simp] theorem stallFor_tickets (k : Nat) (a v : Dword) (c : WaitCond) : (s.stallFor k a v c).tickets = s.tickets := rfl
@[simp] theorem stallFor_windows (k : Nat) (a v : Dword) (c : WaitCond) : (s.stallFor k a v c).windows = s.windows := rfl
@[simp] theorem stallFor_launches (k : Nat) (a v : Dword) (c : WaitCond) : (s.stallFor k a v c).launches = s.launches := rfl
@[simp] theorem stallFor_reads (k : Nat) (a v : Dword) (c : WaitCond) : (s.stallFor k a v c).reads = s.reads := rfl
@[simp] theorem stallFor_waves (k : Nat) (a v : Dword) (c : WaitCond) : (s.stallFor k a v c).waves = s.waves := rfl
@[simp] theorem stallFor_waveEnds (k : Nat) (a v : Dword) (c : WaitCond) : (s.stallFor k a v c).waveEnds = s.waveEnds := rfl
@[simp] theorem stallFor_fetched (k : Nat) (a v : Dword) (c : WaitCond) : (s.stallFor k a v c).fetched = s.fetched := rfl
@[simp] theorem stallFor_health (k : Nat) (a v : Dword) (c : WaitCond) : (s.stallFor k a v c).health = s.health := rfl
@[simp] theorem stallFor_resumes (k : Nat) (a v : Dword) (c : WaitCond) : (s.stallFor k a v c).resumes = s.resumes := rfl
@[simp] theorem stallFor_images (k : Nat) (a v : Dword) (c : WaitCond) : (s.stallFor k a v c).images = s.images := rfl
@[simp] theorem stallFor_sending (k : Nat) (a v : Dword) (c : WaitCond) : (s.stallFor k a v c).sending = s.sending := rfl
@[simp] theorem stallFor_receiving (k : Nat) (a v : Dword) (c : WaitCond) : (s.stallFor k a v c).receiving = s.receiving := rfl
@[simp] theorem stallFor_pinned (k : Nat) (a v : Dword) (c : WaitCond) : (s.stallFor k a v c).pinned = s.pinned := rfl
@[simp] theorem stallFor_sectors (k : Nat) (a v : Dword) (c : WaitCond) : (s.stallFor k a v c).sectors = s.sectors := rfl
@[simp] theorem stallFor_slices (k : Nat) (a v : Dword) (c : WaitCond) : (s.stallFor k a v c).slices = s.slices := rfl
@[simp] theorem stallFor_dirs (k : Nat) (a v : Dword) (c : WaitCond) : (s.stallFor k a v c).dirs = s.dirs := rfl
@[simp] theorem stallFor_walkCaches (k : Nat) (a v : Dword) (c : WaitCond) : (s.stallFor k a v c).walkCaches = s.walkCaches := rfl
@[simp] theorem stallFor_completions (k : Nat) (a v : Dword) (c : WaitCond) : (s.stallFor k a v c).completions = s.completions := rfl
@[simp] theorem stallFor_trail (k : Nat) (a v : Dword) (c : WaitCond) : (s.stallFor k a v c).trail = s.trail := rfl
@[simp] theorem stallFor_heardCalls (k : Nat) (a v : Dword) (c : WaitCond) : (s.stallFor k a v c).heardCalls = s.heardCalls := rfl
@[simp] theorem stallFor_farEntries (k : Nat) (a v : Dword) (c : WaitCond) : (s.stallFor k a v c).farEntries = s.farEntries := rfl
@[simp] theorem stallFor_slicePoison (k : Nat) (a v : Dword) (c : WaitCond) : (s.stallFor k a v c).slicePoison = s.slicePoison := rfl
@[simp] theorem stallFor_farVoters (k : Nat) (a v : Dword) (c : WaitCond) : (s.stallFor k a v c).farVoters = s.farVoters := rfl

@[simp] theorem post_cycle (n : Nat) (o : Origin) (b : Body) : (s.post n o b).cycle = s.cycle := rfl
@[simp] theorem post_phase (n : Nat) (o : Origin) (b : Body) : (s.post n o b).phase = s.phase := rfl
@[simp] theorem post_cursor (n : Nat) (o : Origin) (b : Body) : (s.post n o b).cursor = s.cursor := rfl
@[simp] theorem post_focus (n : Nat) (o : Origin) (b : Body) : (s.post n o b).focus = s.focus := rfl
@[simp] theorem post_subject (n : Nat) (o : Origin) (b : Body) : (s.post n o b).subject = s.subject := rfl
@[simp] theorem post_inputs (n : Nat) (o : Origin) (b : Body) : (s.post n o b).inputs = s.inputs := rfl
@[simp] theorem post_agenda (n : Nat) (o : Origin) (b : Body) : (s.post n o b).agenda = s.agenda := rfl
@[simp] theorem post_nextSeq (n : Nat) (o : Origin) (b : Body) : (s.post n o b).nextSeq = s.nextSeq := rfl
@[simp] theorem post_fresh (n : Nat) (o : Origin) (b : Body) : (s.post n o b).fresh = s.fresh := rfl
@[simp] theorem post_egress (n : Nat) (o : Origin) (b : Body) : (s.post n o b).egress = s.egress := rfl
@[simp] theorem post_numbers (n : Nat) (o : Origin) (b : Body) : (s.post n o b).numbers = s.numbers := rfl
@[simp] theorem post_pkg (n : Nat) (o : Origin) (b : Body) : (s.post n o b).pkg = s.pkg := rfl
@[simp] theorem post_pkgWritten (n : Nat) (o : Origin) (b : Body) : (s.post n o b).pkgWritten = s.pkgWritten := rfl
@[simp] theorem post_cores (n : Nat) (o : Origin) (b : Body) : (s.post n o b).cores = s.cores := rfl
@[simp] theorem post_tiles (n : Nat) (o : Origin) (b : Body) : (s.post n o b).tiles = s.tiles := rfl
@[simp] theorem post_dies (n : Nat) (o : Origin) (b : Body) : (s.post n o b).dies = s.dies := rfl
@[simp] theorem post_mem (n : Nat) (o : Origin) (b : Body) : (s.post n o b).mem = s.mem := rfl
@[simp] theorem post_poison (n : Nat) (o : Origin) (b : Body) : (s.post n o b).poison = s.poison := rfl
@[simp] theorem post_moves (n : Nat) (o : Origin) (b : Body) : (s.post n o b).moves = s.moves := rfl
@[simp] theorem post_watches (n : Nat) (o : Origin) (b : Body) : (s.post n o b).watches = s.watches := rfl
@[simp] theorem post_jobs (n : Nat) (o : Origin) (b : Body) : (s.post n o b).jobs = s.jobs := rfl
@[simp] theorem post_keys (n : Nat) (o : Origin) (b : Body) : (s.post n o b).keys = s.keys := rfl
@[simp] theorem post_colls (n : Nat) (o : Origin) (b : Body) : (s.post n o b).colls = s.colls := rfl
@[simp] theorem post_ports (n : Nat) (o : Origin) (b : Body) : (s.post n o b).ports = s.ports := rfl
@[simp] theorem post_routes (n : Nat) (o : Origin) (b : Body) : (s.post n o b).routes = s.routes := rfl
@[simp] theorem post_tickets (n : Nat) (o : Origin) (b : Body) : (s.post n o b).tickets = s.tickets := rfl
@[simp] theorem post_windows (n : Nat) (o : Origin) (b : Body) : (s.post n o b).windows = s.windows := rfl
@[simp] theorem post_launches (n : Nat) (o : Origin) (b : Body) : (s.post n o b).launches = s.launches := rfl
@[simp] theorem post_reads (n : Nat) (o : Origin) (b : Body) : (s.post n o b).reads = s.reads := rfl
@[simp] theorem post_waves (n : Nat) (o : Origin) (b : Body) : (s.post n o b).waves = s.waves := rfl
@[simp] theorem post_waveEnds (n : Nat) (o : Origin) (b : Body) : (s.post n o b).waveEnds = s.waveEnds := rfl
@[simp] theorem post_fetched (n : Nat) (o : Origin) (b : Body) : (s.post n o b).fetched = s.fetched := rfl
@[simp] theorem post_health (n : Nat) (o : Origin) (b : Body) : (s.post n o b).health = s.health := rfl
@[simp] theorem post_resumes (n : Nat) (o : Origin) (b : Body) : (s.post n o b).resumes = s.resumes := rfl
@[simp] theorem post_images (n : Nat) (o : Origin) (b : Body) : (s.post n o b).images = s.images := rfl
@[simp] theorem post_sending (n : Nat) (o : Origin) (b : Body) : (s.post n o b).sending = s.sending := rfl
@[simp] theorem post_receiving (n : Nat) (o : Origin) (b : Body) : (s.post n o b).receiving = s.receiving := rfl
@[simp] theorem post_pinned (n : Nat) (o : Origin) (b : Body) : (s.post n o b).pinned = s.pinned := rfl
@[simp] theorem post_sectors (n : Nat) (o : Origin) (b : Body) : (s.post n o b).sectors = s.sectors := rfl
@[simp] theorem post_slices (n : Nat) (o : Origin) (b : Body) : (s.post n o b).slices = s.slices := rfl
@[simp] theorem post_dirs (n : Nat) (o : Origin) (b : Body) : (s.post n o b).dirs = s.dirs := rfl
@[simp] theorem post_walkCaches (n : Nat) (o : Origin) (b : Body) : (s.post n o b).walkCaches = s.walkCaches := rfl
@[simp] theorem post_completions (n : Nat) (o : Origin) (b : Body) : (s.post n o b).completions = s.completions := rfl
@[simp] theorem post_trail (n : Nat) (o : Origin) (b : Body) : (s.post n o b).trail = s.trail := rfl
@[simp] theorem post_heardCalls (n : Nat) (o : Origin) (b : Body) : (s.post n o b).heardCalls = s.heardCalls := rfl
@[simp] theorem post_farEntries (n : Nat) (o : Origin) (b : Body) : (s.post n o b).farEntries = s.farEntries := rfl
@[simp] theorem post_slicePoison (n : Nat) (o : Origin) (b : Body) : (s.post n o b).slicePoison = s.slicePoison := rfl
@[simp] theorem post_farVoters (n : Nat) (o : Origin) (b : Body) : (s.post n o b).farVoters = s.farVoters := rfl

@[simp] theorem postOut_cycle (n : Nat) (o : Origin) (b : Body) : (s.postOut n o b).cycle = s.cycle := rfl
@[simp] theorem postOut_phase (n : Nat) (o : Origin) (b : Body) : (s.postOut n o b).phase = s.phase := rfl
@[simp] theorem postOut_cursor (n : Nat) (o : Origin) (b : Body) : (s.postOut n o b).cursor = s.cursor := rfl
@[simp] theorem postOut_focus (n : Nat) (o : Origin) (b : Body) : (s.postOut n o b).focus = s.focus := rfl
@[simp] theorem postOut_subject (n : Nat) (o : Origin) (b : Body) : (s.postOut n o b).subject = s.subject := rfl
@[simp] theorem postOut_inputs (n : Nat) (o : Origin) (b : Body) : (s.postOut n o b).inputs = s.inputs := rfl
@[simp] theorem postOut_agenda (n : Nat) (o : Origin) (b : Body) : (s.postOut n o b).agenda = s.agenda := rfl
@[simp] theorem postOut_nextSeq (n : Nat) (o : Origin) (b : Body) : (s.postOut n o b).nextSeq = s.nextSeq := rfl
@[simp] theorem postOut_fresh (n : Nat) (o : Origin) (b : Body) : (s.postOut n o b).fresh = s.fresh := rfl
@[simp] theorem postOut_egress (n : Nat) (o : Origin) (b : Body) : (s.postOut n o b).egress = s.egress := rfl
@[simp] theorem postOut_numbers (n : Nat) (o : Origin) (b : Body) : (s.postOut n o b).numbers = s.numbers := rfl
@[simp] theorem postOut_pkg (n : Nat) (o : Origin) (b : Body) : (s.postOut n o b).pkg = s.pkg := rfl
@[simp] theorem postOut_pkgWritten (n : Nat) (o : Origin) (b : Body) : (s.postOut n o b).pkgWritten = s.pkgWritten := rfl
@[simp] theorem postOut_cores (n : Nat) (o : Origin) (b : Body) : (s.postOut n o b).cores = s.cores := rfl
@[simp] theorem postOut_tiles (n : Nat) (o : Origin) (b : Body) : (s.postOut n o b).tiles = s.tiles := rfl
@[simp] theorem postOut_dies (n : Nat) (o : Origin) (b : Body) : (s.postOut n o b).dies = s.dies := rfl
@[simp] theorem postOut_mem (n : Nat) (o : Origin) (b : Body) : (s.postOut n o b).mem = s.mem := rfl
@[simp] theorem postOut_poison (n : Nat) (o : Origin) (b : Body) : (s.postOut n o b).poison = s.poison := rfl
@[simp] theorem postOut_moves (n : Nat) (o : Origin) (b : Body) : (s.postOut n o b).moves = s.moves := rfl
@[simp] theorem postOut_watches (n : Nat) (o : Origin) (b : Body) : (s.postOut n o b).watches = s.watches := rfl
@[simp] theorem postOut_jobs (n : Nat) (o : Origin) (b : Body) : (s.postOut n o b).jobs = s.jobs := rfl
@[simp] theorem postOut_keys (n : Nat) (o : Origin) (b : Body) : (s.postOut n o b).keys = s.keys := rfl
@[simp] theorem postOut_colls (n : Nat) (o : Origin) (b : Body) : (s.postOut n o b).colls = s.colls := rfl
@[simp] theorem postOut_ports (n : Nat) (o : Origin) (b : Body) : (s.postOut n o b).ports = s.ports := rfl
@[simp] theorem postOut_routes (n : Nat) (o : Origin) (b : Body) : (s.postOut n o b).routes = s.routes := rfl
@[simp] theorem postOut_tickets (n : Nat) (o : Origin) (b : Body) : (s.postOut n o b).tickets = s.tickets := rfl
@[simp] theorem postOut_windows (n : Nat) (o : Origin) (b : Body) : (s.postOut n o b).windows = s.windows := rfl
@[simp] theorem postOut_launches (n : Nat) (o : Origin) (b : Body) : (s.postOut n o b).launches = s.launches := rfl
@[simp] theorem postOut_reads (n : Nat) (o : Origin) (b : Body) : (s.postOut n o b).reads = s.reads := rfl
@[simp] theorem postOut_waves (n : Nat) (o : Origin) (b : Body) : (s.postOut n o b).waves = s.waves := rfl
@[simp] theorem postOut_waveEnds (n : Nat) (o : Origin) (b : Body) : (s.postOut n o b).waveEnds = s.waveEnds := rfl
@[simp] theorem postOut_fetched (n : Nat) (o : Origin) (b : Body) : (s.postOut n o b).fetched = s.fetched := rfl
@[simp] theorem postOut_health (n : Nat) (o : Origin) (b : Body) : (s.postOut n o b).health = s.health := rfl
@[simp] theorem postOut_resumes (n : Nat) (o : Origin) (b : Body) : (s.postOut n o b).resumes = s.resumes := rfl
@[simp] theorem postOut_images (n : Nat) (o : Origin) (b : Body) : (s.postOut n o b).images = s.images := rfl
@[simp] theorem postOut_sending (n : Nat) (o : Origin) (b : Body) : (s.postOut n o b).sending = s.sending := rfl
@[simp] theorem postOut_receiving (n : Nat) (o : Origin) (b : Body) : (s.postOut n o b).receiving = s.receiving := rfl
@[simp] theorem postOut_pinned (n : Nat) (o : Origin) (b : Body) : (s.postOut n o b).pinned = s.pinned := rfl
@[simp] theorem postOut_sectors (n : Nat) (o : Origin) (b : Body) : (s.postOut n o b).sectors = s.sectors := rfl
@[simp] theorem postOut_slices (n : Nat) (o : Origin) (b : Body) : (s.postOut n o b).slices = s.slices := rfl
@[simp] theorem postOut_dirs (n : Nat) (o : Origin) (b : Body) : (s.postOut n o b).dirs = s.dirs := rfl
@[simp] theorem postOut_walkCaches (n : Nat) (o : Origin) (b : Body) : (s.postOut n o b).walkCaches = s.walkCaches := rfl
@[simp] theorem postOut_completions (n : Nat) (o : Origin) (b : Body) : (s.postOut n o b).completions = s.completions := rfl
@[simp] theorem postOut_trail (n : Nat) (o : Origin) (b : Body) : (s.postOut n o b).trail = s.trail := rfl
@[simp] theorem postOut_heardCalls (n : Nat) (o : Origin) (b : Body) : (s.postOut n o b).heardCalls = s.heardCalls := rfl
@[simp] theorem postOut_farEntries (n : Nat) (o : Origin) (b : Body) : (s.postOut n o b).farEntries = s.farEntries := rfl
@[simp] theorem postOut_slicePoison (n : Nat) (o : Origin) (b : Body) : (s.postOut n o b).slicePoison = s.slicePoison := rfl
@[simp] theorem postOut_farVoters (n : Nat) (o : Origin) (b : Body) : (s.postOut n o b).farVoters = s.farVoters := rfl

@[simp] theorem notice_cycle (n : Nat) (i : Instr) (on : Subject) : (s.notice n i on).cycle = s.cycle := rfl
@[simp] theorem notice_phase (n : Nat) (i : Instr) (on : Subject) : (s.notice n i on).phase = s.phase := rfl
@[simp] theorem notice_cursor (n : Nat) (i : Instr) (on : Subject) : (s.notice n i on).cursor = s.cursor := rfl
@[simp] theorem notice_focus (n : Nat) (i : Instr) (on : Subject) : (s.notice n i on).focus = s.focus := rfl
@[simp] theorem notice_subject (n : Nat) (i : Instr) (on : Subject) : (s.notice n i on).subject = s.subject := rfl
@[simp] theorem notice_inputs (n : Nat) (i : Instr) (on : Subject) : (s.notice n i on).inputs = s.inputs := rfl
@[simp] theorem notice_agenda (n : Nat) (i : Instr) (on : Subject) : (s.notice n i on).agenda = s.agenda := rfl
@[simp] theorem notice_nextSeq (n : Nat) (i : Instr) (on : Subject) : (s.notice n i on).nextSeq = s.nextSeq := rfl
@[simp] theorem notice_fresh (n : Nat) (i : Instr) (on : Subject) : (s.notice n i on).fresh = s.fresh := rfl
@[simp] theorem notice_egress (n : Nat) (i : Instr) (on : Subject) : (s.notice n i on).egress = s.egress := rfl
@[simp] theorem notice_numbers (n : Nat) (i : Instr) (on : Subject) : (s.notice n i on).numbers = s.numbers := rfl
@[simp] theorem notice_pkg (n : Nat) (i : Instr) (on : Subject) : (s.notice n i on).pkg = s.pkg := rfl
@[simp] theorem notice_pkgWritten (n : Nat) (i : Instr) (on : Subject) : (s.notice n i on).pkgWritten = s.pkgWritten := rfl
@[simp] theorem notice_cores (n : Nat) (i : Instr) (on : Subject) : (s.notice n i on).cores = s.cores := rfl
@[simp] theorem notice_tiles (n : Nat) (i : Instr) (on : Subject) : (s.notice n i on).tiles = s.tiles := rfl
@[simp] theorem notice_dies (n : Nat) (i : Instr) (on : Subject) : (s.notice n i on).dies = s.dies := rfl
@[simp] theorem notice_mem (n : Nat) (i : Instr) (on : Subject) : (s.notice n i on).mem = s.mem := rfl
@[simp] theorem notice_poison (n : Nat) (i : Instr) (on : Subject) : (s.notice n i on).poison = s.poison := rfl
@[simp] theorem notice_moves (n : Nat) (i : Instr) (on : Subject) : (s.notice n i on).moves = s.moves := rfl
@[simp] theorem notice_watches (n : Nat) (i : Instr) (on : Subject) : (s.notice n i on).watches = s.watches := rfl
@[simp] theorem notice_jobs (n : Nat) (i : Instr) (on : Subject) : (s.notice n i on).jobs = s.jobs := rfl
@[simp] theorem notice_keys (n : Nat) (i : Instr) (on : Subject) : (s.notice n i on).keys = s.keys := rfl
@[simp] theorem notice_colls (n : Nat) (i : Instr) (on : Subject) : (s.notice n i on).colls = s.colls := rfl
@[simp] theorem notice_ports (n : Nat) (i : Instr) (on : Subject) : (s.notice n i on).ports = s.ports := rfl
@[simp] theorem notice_routes (n : Nat) (i : Instr) (on : Subject) : (s.notice n i on).routes = s.routes := rfl
@[simp] theorem notice_tickets (n : Nat) (i : Instr) (on : Subject) : (s.notice n i on).tickets = s.tickets := rfl
@[simp] theorem notice_windows (n : Nat) (i : Instr) (on : Subject) : (s.notice n i on).windows = s.windows := rfl
@[simp] theorem notice_launches (n : Nat) (i : Instr) (on : Subject) : (s.notice n i on).launches = s.launches := rfl
@[simp] theorem notice_reads (n : Nat) (i : Instr) (on : Subject) : (s.notice n i on).reads = s.reads := rfl
@[simp] theorem notice_waves (n : Nat) (i : Instr) (on : Subject) : (s.notice n i on).waves = s.waves := rfl
@[simp] theorem notice_waveEnds (n : Nat) (i : Instr) (on : Subject) : (s.notice n i on).waveEnds = s.waveEnds := rfl
@[simp] theorem notice_fetched (n : Nat) (i : Instr) (on : Subject) : (s.notice n i on).fetched = s.fetched := rfl
@[simp] theorem notice_health (n : Nat) (i : Instr) (on : Subject) : (s.notice n i on).health = s.health := rfl
@[simp] theorem notice_resumes (n : Nat) (i : Instr) (on : Subject) : (s.notice n i on).resumes = s.resumes := rfl
@[simp] theorem notice_images (n : Nat) (i : Instr) (on : Subject) : (s.notice n i on).images = s.images := rfl
@[simp] theorem notice_sending (n : Nat) (i : Instr) (on : Subject) : (s.notice n i on).sending = s.sending := rfl
@[simp] theorem notice_receiving (n : Nat) (i : Instr) (on : Subject) : (s.notice n i on).receiving = s.receiving := rfl
@[simp] theorem notice_pinned (n : Nat) (i : Instr) (on : Subject) : (s.notice n i on).pinned = s.pinned := rfl
@[simp] theorem notice_sectors (n : Nat) (i : Instr) (on : Subject) : (s.notice n i on).sectors = s.sectors := rfl
@[simp] theorem notice_slices (n : Nat) (i : Instr) (on : Subject) : (s.notice n i on).slices = s.slices := rfl
@[simp] theorem notice_dirs (n : Nat) (i : Instr) (on : Subject) : (s.notice n i on).dirs = s.dirs := rfl
@[simp] theorem notice_walkCaches (n : Nat) (i : Instr) (on : Subject) : (s.notice n i on).walkCaches = s.walkCaches := rfl
@[simp] theorem notice_completions (n : Nat) (i : Instr) (on : Subject) : (s.notice n i on).completions = s.completions := rfl
@[simp] theorem notice_trail (n : Nat) (i : Instr) (on : Subject) : (s.notice n i on).trail = s.trail := rfl
@[simp] theorem notice_heardCalls (n : Nat) (i : Instr) (on : Subject) : (s.notice n i on).heardCalls = s.heardCalls := rfl
@[simp] theorem notice_farEntries (n : Nat) (i : Instr) (on : Subject) : (s.notice n i on).farEntries = s.farEntries := rfl
@[simp] theorem notice_slicePoison (n : Nat) (i : Instr) (on : Subject) : (s.notice n i on).slicePoison = s.slicePoison := rfl
@[simp] theorem notice_farVoters (n : Nat) (i : Instr) (on : Subject) : (s.notice n i on).farVoters = s.farVoters := rfl

@[simp] theorem drop_cycle (n : Nat) : (s.drop n).cycle = s.cycle := rfl
@[simp] theorem drop_phase (n : Nat) : (s.drop n).phase = s.phase := rfl
@[simp] theorem drop_cursor (n : Nat) : (s.drop n).cursor = s.cursor := rfl
@[simp] theorem drop_focus (n : Nat) : (s.drop n).focus = s.focus := rfl
@[simp] theorem drop_subject (n : Nat) : (s.drop n).subject = s.subject := rfl
@[simp] theorem drop_inputs (n : Nat) : (s.drop n).inputs = s.inputs := rfl
@[simp] theorem drop_agenda (n : Nat) : (s.drop n).agenda = s.agenda := rfl
@[simp] theorem drop_nextId (n : Nat) : (s.drop n).nextId = s.nextId := rfl
@[simp] theorem drop_nextSeq (n : Nat) : (s.drop n).nextSeq = s.nextSeq := rfl
@[simp] theorem drop_fresh (n : Nat) : (s.drop n).fresh = s.fresh := rfl
@[simp] theorem drop_egress (n : Nat) : (s.drop n).egress = s.egress := rfl
@[simp] theorem drop_numbers (n : Nat) : (s.drop n).numbers = s.numbers := rfl
@[simp] theorem drop_pkg (n : Nat) : (s.drop n).pkg = s.pkg := rfl
@[simp] theorem drop_pkgWritten (n : Nat) : (s.drop n).pkgWritten = s.pkgWritten := rfl
@[simp] theorem drop_cores (n : Nat) : (s.drop n).cores = s.cores := rfl
@[simp] theorem drop_tiles (n : Nat) : (s.drop n).tiles = s.tiles := rfl
@[simp] theorem drop_dies (n : Nat) : (s.drop n).dies = s.dies := rfl
@[simp] theorem drop_mem (n : Nat) : (s.drop n).mem = s.mem := rfl
@[simp] theorem drop_poison (n : Nat) : (s.drop n).poison = s.poison := rfl
@[simp] theorem drop_moves (n : Nat) : (s.drop n).moves = s.moves := rfl
@[simp] theorem drop_watches (n : Nat) : (s.drop n).watches = s.watches := rfl
@[simp] theorem drop_jobs (n : Nat) : (s.drop n).jobs = s.jobs := rfl
@[simp] theorem drop_keys (n : Nat) : (s.drop n).keys = s.keys := rfl
@[simp] theorem drop_colls (n : Nat) : (s.drop n).colls = s.colls := rfl
@[simp] theorem drop_ports (n : Nat) : (s.drop n).ports = s.ports := rfl
@[simp] theorem drop_routes (n : Nat) : (s.drop n).routes = s.routes := rfl
@[simp] theorem drop_tickets (n : Nat) : (s.drop n).tickets = s.tickets := rfl
@[simp] theorem drop_windows (n : Nat) : (s.drop n).windows = s.windows := rfl
@[simp] theorem drop_launches (n : Nat) : (s.drop n).launches = s.launches := rfl
@[simp] theorem drop_reads (n : Nat) : (s.drop n).reads = s.reads := rfl
@[simp] theorem drop_waves (n : Nat) : (s.drop n).waves = s.waves := rfl
@[simp] theorem drop_waveEnds (n : Nat) : (s.drop n).waveEnds = s.waveEnds := rfl
@[simp] theorem drop_fetched (n : Nat) : (s.drop n).fetched = s.fetched := rfl
@[simp] theorem drop_health (n : Nat) : (s.drop n).health = s.health := rfl
@[simp] theorem drop_resumes (n : Nat) : (s.drop n).resumes = s.resumes := rfl
@[simp] theorem drop_images (n : Nat) : (s.drop n).images = s.images := rfl
@[simp] theorem drop_sending (n : Nat) : (s.drop n).sending = s.sending := rfl
@[simp] theorem drop_receiving (n : Nat) : (s.drop n).receiving = s.receiving := rfl
@[simp] theorem drop_pinned (n : Nat) : (s.drop n).pinned = s.pinned := rfl
@[simp] theorem drop_sectors (n : Nat) : (s.drop n).sectors = s.sectors := rfl
@[simp] theorem drop_slices (n : Nat) : (s.drop n).slices = s.slices := rfl
@[simp] theorem drop_dirs (n : Nat) : (s.drop n).dirs = s.dirs := rfl
@[simp] theorem drop_walkCaches (n : Nat) : (s.drop n).walkCaches = s.walkCaches := rfl
@[simp] theorem drop_completions (n : Nat) : (s.drop n).completions = s.completions := rfl
@[simp] theorem drop_trail (n : Nat) : (s.drop n).trail = s.trail := rfl
@[simp] theorem drop_heardCalls (n : Nat) : (s.drop n).heardCalls = s.heardCalls := rfl
@[simp] theorem drop_farEntries (n : Nat) : (s.drop n).farEntries = s.farEntries := rfl
@[simp] theorem drop_slicePoison (n : Nat) : (s.drop n).slicePoison = s.slicePoison := rfl
@[simp] theorem drop_farVoters (n : Nat) : (s.drop n).farVoters = s.farVoters := rfl

@[simp] theorem modMsg_cycle (n : Nat) (f : Msg → Msg) : (s.modMsg n f).cycle = s.cycle := rfl
@[simp] theorem modMsg_phase (n : Nat) (f : Msg → Msg) : (s.modMsg n f).phase = s.phase := rfl
@[simp] theorem modMsg_cursor (n : Nat) (f : Msg → Msg) : (s.modMsg n f).cursor = s.cursor := rfl
@[simp] theorem modMsg_focus (n : Nat) (f : Msg → Msg) : (s.modMsg n f).focus = s.focus := rfl
@[simp] theorem modMsg_subject (n : Nat) (f : Msg → Msg) : (s.modMsg n f).subject = s.subject := rfl
@[simp] theorem modMsg_inputs (n : Nat) (f : Msg → Msg) : (s.modMsg n f).inputs = s.inputs := rfl
@[simp] theorem modMsg_agenda (n : Nat) (f : Msg → Msg) : (s.modMsg n f).agenda = s.agenda := rfl
@[simp] theorem modMsg_nextId (n : Nat) (f : Msg → Msg) : (s.modMsg n f).nextId = s.nextId := rfl
@[simp] theorem modMsg_nextSeq (n : Nat) (f : Msg → Msg) : (s.modMsg n f).nextSeq = s.nextSeq := rfl
@[simp] theorem modMsg_fresh (n : Nat) (f : Msg → Msg) : (s.modMsg n f).fresh = s.fresh := rfl
@[simp] theorem modMsg_egress (n : Nat) (f : Msg → Msg) : (s.modMsg n f).egress = s.egress := rfl
@[simp] theorem modMsg_numbers (n : Nat) (f : Msg → Msg) : (s.modMsg n f).numbers = s.numbers := rfl
@[simp] theorem modMsg_pkg (n : Nat) (f : Msg → Msg) : (s.modMsg n f).pkg = s.pkg := rfl
@[simp] theorem modMsg_pkgWritten (n : Nat) (f : Msg → Msg) : (s.modMsg n f).pkgWritten = s.pkgWritten := rfl
@[simp] theorem modMsg_cores (n : Nat) (f : Msg → Msg) : (s.modMsg n f).cores = s.cores := rfl
@[simp] theorem modMsg_tiles (n : Nat) (f : Msg → Msg) : (s.modMsg n f).tiles = s.tiles := rfl
@[simp] theorem modMsg_dies (n : Nat) (f : Msg → Msg) : (s.modMsg n f).dies = s.dies := rfl
@[simp] theorem modMsg_mem (n : Nat) (f : Msg → Msg) : (s.modMsg n f).mem = s.mem := rfl
@[simp] theorem modMsg_poison (n : Nat) (f : Msg → Msg) : (s.modMsg n f).poison = s.poison := rfl
@[simp] theorem modMsg_moves (n : Nat) (f : Msg → Msg) : (s.modMsg n f).moves = s.moves := rfl
@[simp] theorem modMsg_watches (n : Nat) (f : Msg → Msg) : (s.modMsg n f).watches = s.watches := rfl
@[simp] theorem modMsg_jobs (n : Nat) (f : Msg → Msg) : (s.modMsg n f).jobs = s.jobs := rfl
@[simp] theorem modMsg_keys (n : Nat) (f : Msg → Msg) : (s.modMsg n f).keys = s.keys := rfl
@[simp] theorem modMsg_colls (n : Nat) (f : Msg → Msg) : (s.modMsg n f).colls = s.colls := rfl
@[simp] theorem modMsg_ports (n : Nat) (f : Msg → Msg) : (s.modMsg n f).ports = s.ports := rfl
@[simp] theorem modMsg_routes (n : Nat) (f : Msg → Msg) : (s.modMsg n f).routes = s.routes := rfl
@[simp] theorem modMsg_tickets (n : Nat) (f : Msg → Msg) : (s.modMsg n f).tickets = s.tickets := rfl
@[simp] theorem modMsg_windows (n : Nat) (f : Msg → Msg) : (s.modMsg n f).windows = s.windows := rfl
@[simp] theorem modMsg_launches (n : Nat) (f : Msg → Msg) : (s.modMsg n f).launches = s.launches := rfl
@[simp] theorem modMsg_reads (n : Nat) (f : Msg → Msg) : (s.modMsg n f).reads = s.reads := rfl
@[simp] theorem modMsg_waves (n : Nat) (f : Msg → Msg) : (s.modMsg n f).waves = s.waves := rfl
@[simp] theorem modMsg_waveEnds (n : Nat) (f : Msg → Msg) : (s.modMsg n f).waveEnds = s.waveEnds := rfl
@[simp] theorem modMsg_fetched (n : Nat) (f : Msg → Msg) : (s.modMsg n f).fetched = s.fetched := rfl
@[simp] theorem modMsg_health (n : Nat) (f : Msg → Msg) : (s.modMsg n f).health = s.health := rfl
@[simp] theorem modMsg_resumes (n : Nat) (f : Msg → Msg) : (s.modMsg n f).resumes = s.resumes := rfl
@[simp] theorem modMsg_images (n : Nat) (f : Msg → Msg) : (s.modMsg n f).images = s.images := rfl
@[simp] theorem modMsg_sending (n : Nat) (f : Msg → Msg) : (s.modMsg n f).sending = s.sending := rfl
@[simp] theorem modMsg_receiving (n : Nat) (f : Msg → Msg) : (s.modMsg n f).receiving = s.receiving := rfl
@[simp] theorem modMsg_pinned (n : Nat) (f : Msg → Msg) : (s.modMsg n f).pinned = s.pinned := rfl
@[simp] theorem modMsg_sectors (n : Nat) (f : Msg → Msg) : (s.modMsg n f).sectors = s.sectors := rfl
@[simp] theorem modMsg_slices (n : Nat) (f : Msg → Msg) : (s.modMsg n f).slices = s.slices := rfl
@[simp] theorem modMsg_dirs (n : Nat) (f : Msg → Msg) : (s.modMsg n f).dirs = s.dirs := rfl
@[simp] theorem modMsg_walkCaches (n : Nat) (f : Msg → Msg) : (s.modMsg n f).walkCaches = s.walkCaches := rfl
@[simp] theorem modMsg_completions (n : Nat) (f : Msg → Msg) : (s.modMsg n f).completions = s.completions := rfl
@[simp] theorem modMsg_trail (n : Nat) (f : Msg → Msg) : (s.modMsg n f).trail = s.trail := rfl
@[simp] theorem modMsg_heardCalls (n : Nat) (f : Msg → Msg) : (s.modMsg n f).heardCalls = s.heardCalls := rfl
@[simp] theorem modMsg_farEntries (n : Nat) (f : Msg → Msg) : (s.modMsg n f).farEntries = s.farEntries := rfl
@[simp] theorem modMsg_slicePoison (n : Nat) (f : Msg → Msg) : (s.modMsg n f).slicePoison = s.slicePoison := rfl
@[simp] theorem modMsg_farVoters (n : Nat) (f : Msg → Msg) : (s.modMsg n f).farVoters = s.farVoters := rfl

/-! ## Updates of a thread -/

@[simp] theorem wg_st (r : GReg) (x : Dword) : (t.wg r x).st = t.st := by unfold Thread.wg; split <;> rfl
@[simp] theorem wg_prior (r : GReg) (x : Dword) : (t.wg r x).prior = t.prior := by unfold Thread.wg; split <;> rfl
@[simp] theorem wg_fcode (r : GReg) (x : Dword) : (t.wg r x).fcode = t.fcode := by unfold Thread.wg; split <;> rfl
@[simp] theorem wg_pc (r : GReg) (x : Dword) : (t.wg r x).pc = t.pc := by unfold Thread.wg; split <;> rfl
@[simp] theorem wg_v (r : GReg) (x : Dword) : (t.wg r x).v = t.v := by unfold Thread.wg; split <;> rfl
@[simp] theorem wg_k (r : GReg) (x : Dword) : (t.wg r x).k = t.k := by unfold Thread.wg; split <;> rfl
@[simp] theorem wg_b (r : GReg) (x : Dword) : (t.wg r x).b = t.b := by unfold Thread.wg; split <;> rfl
@[simp] theorem wg_prepared (r : GReg) (x : Dword) : (t.wg r x).prepared = t.prepared := by unfold Thread.wg; split <;> rfl
@[simp] theorem wg_w (r : GReg) (x : Dword) : (t.wg r x).w = t.w := by unfold Thread.wg; split <;> rfl
@[simp] theorem wg_tid (r : GReg) (x : Dword) : (t.wg r x).tid = t.tid := by unfold Thread.wg; split <;> rfl
@[simp] theorem wg_wid (r : GReg) (x : Dword) : (t.wg r x).wid = t.wid := by unfold Thread.wg; split <;> rfl
@[simp] theorem wg_job (r : GReg) (x : Dword) : (t.wg r x).job = t.job := by unfold Thread.wg; split <;> rfl
@[simp] theorem wg_flags (r : GReg) (x : Dword) : (t.wg r x).flags = t.flags := by unfold Thread.wg; split <;> rfl
@[simp] theorem wg_faultrec (r : GReg) (x : Dword) : (t.wg r x).faultrec = t.faultrec := by unfold Thread.wg; split <;> rfl
@[simp] theorem wg_auth (r : GReg) (x : Dword) : (t.wg r x).auth = t.auth := by unfold Thread.wg; split <;> rfl
@[simp] theorem wg_troot (r : GReg) (x : Dword) : (t.wg r x).troot = t.troot := by unfold Thread.wg; split <;> rfl
@[simp] theorem wg_prio (r : GReg) (x : Dword) : (t.wg r x).prio = t.prio := by unfold Thread.wg; split <;> rfl
@[simp] theorem wg_nanctl (r : GReg) (x : Dword) : (t.wg r x).nanctl = t.nanctl := by unfold Thread.wg; split <;> rfl
@[simp] theorem wg_cabort (r : GReg) (x : Dword) : (t.wg r x).cabort = t.cabort := by unfold Thread.wg; split <;> rfl
@[simp] theorem wg_ctimeout (r : GReg) (x : Dword) : (t.wg r x).ctimeout = t.ctimeout := by unfold Thread.wg; split <;> rfl
@[simp] theorem wg_cmem (r : GReg) (x : Dword) : (t.wg r x).cmem = t.cmem := by unfold Thread.wg; split <;> rfl
@[simp] theorem wg_bx (r : GReg) (x : Dword) : (t.wg r x).bx = t.bx := by unfold Thread.wg; split <;> rfl
@[simp] theorem wg_by' (r : GReg) (x : Dword) : (t.wg r x).by' = t.by' := by unfold Thread.wg; split <;> rfl
@[simp] theorem wg_bseq (r : GReg) (x : Dword) : (t.wg r x).bseq = t.bseq := by unfold Thread.wg; split <;> rfl
@[simp] theorem wg_blen (r : GReg) (x : Dword) : (t.wg r x).blen = t.blen := by unfold Thread.wg; split <;> rfl
@[simp] theorem wg_xbatch (r : GReg) (x : Dword) : (t.wg r x).xbatch = t.xbatch := by unfold Thread.wg; split <;> rfl
@[simp] theorem wg_batchNo (r : GReg) (x : Dword) : (t.wg r x).batchNo = t.batchNo := by unfold Thread.wg; split <;> rfl
@[simp] theorem wg_pfxst (r : GReg) (x : Dword) : (t.wg r x).pfxst = t.pfxst := by unfold Thread.wg; split <;> rfl
@[simp] theorem wg_modBad (r : GReg) (x : Dword) : (t.wg r x).modBad = t.modBad := by unfold Thread.wg; split <;> rfl
@[simp] theorem wg_hintBad (r : GReg) (x : Dword) : (t.wg r x).hintBad = t.hintBad := by unfold Thread.wg; split <;> rfl
@[simp] theorem wg_pfxAt (r : GReg) (x : Dword) : (t.wg r x).pfxAt = t.pfxAt := by unfold Thread.wg; split <;> rfl
@[simp] theorem wg_loopst (r : GReg) (x : Dword) : (t.wg r x).loopst = t.loopst := by unfold Thread.wg; split <;> rfl
@[simp] theorem wg_loopb (r : GReg) (x : Dword) : (t.wg r x).loopb = t.loopb := by unfold Thread.wg; split <;> rfl
@[simp] theorem wg_loopc (r : GReg) (x : Dword) : (t.wg r x).loopc = t.loopc := by unfold Thread.wg; split <;> rfl
@[simp] theorem wg_retiring (r : GReg) (x : Dword) : (t.wg r x).retiring = t.retiring := by unfold Thread.wg; split <;> rfl
@[simp] theorem wg_redpend (r : GReg) (x : Dword) : (t.wg r x).redpend = t.redpend := by unfold Thread.wg; split <;> rfl
@[simp] theorem wg_storeAck (r : GReg) (x : Dword) : (t.wg r x).storeAck = t.storeAck := by unfold Thread.wg; split <;> rfl
@[simp] theorem wg_pos (r : GReg) (x : Dword) : (t.wg r x).pos = t.pos := by unfold Thread.wg; split <;> rfl
@[simp] theorem wg_roaming (r : GReg) (x : Dword) : (t.wg r x).roaming = t.roaming := by unfold Thread.wg; split <;> rfl
@[simp] theorem wg_burst (r : GReg) (x : Dword) : (t.wg r x).burst = t.burst := by unfold Thread.wg; split <;> rfl
@[simp] theorem wg_read (r : GReg) (x : Dword) : (t.wg r x).read = t.read := by unfold Thread.wg; split <;> rfl
@[simp] theorem wg_reserved (r : GReg) (x : Dword) : (t.wg r x).reserved = t.reserved := by unfold Thread.wg; split <;> rfl
@[simp] theorem wg_admitted (r : GReg) (x : Dword) : (t.wg r x).admitted = t.admitted := by unfold Thread.wg; split <;> rfl
@[simp] theorem wg_readyTime (r : GReg) (x : Dword) : (t.wg r x).readyTime = t.readyTime := by unfold Thread.wg; split <;> rfl
@[simp] theorem wg_effPrio (r : GReg) (x : Dword) : (t.wg r x).effPrio = t.effPrio := by unfold Thread.wg; split <;> rfl
@[simp] theorem wg_agedAt (r : GReg) (x : Dword) : (t.wg r x).agedAt = t.agedAt := by unfold Thread.wg; split <;> rfl
@[simp] theorem wg_turns (r : GReg) (x : Dword) : (t.wg r x).turns = t.turns := by unfold Thread.wg; split <;> rfl
@[simp] theorem wg_stall (r : GReg) (x : Dword) : (t.wg r x).stall = t.stall := by unfold Thread.wg; split <;> rfl
@[simp] theorem wg_yielding (r : GReg) (x : Dword) : (t.wg r x).yielding = t.yielding := by unfold Thread.wg; split <;> rfl
@[simp] theorem wg_wait (r : GReg) (x : Dword) : (t.wg r x).wait = t.wait := by unfold Thread.wg; split <;> rfl
@[simp] theorem wg_deadline (r : GReg) (x : Dword) : (t.wg r x).deadline = t.deadline := by unfold Thread.wg; split <;> rfl
@[simp] theorem wg_sleptAt (r : GReg) (x : Dword) : (t.wg r x).sleptAt = t.sleptAt := by unfold Thread.wg; split <;> rfl
@[simp] theorem wg_stub (r : GReg) (x : Dword) : (t.wg r x).stub = t.stub := by unfold Thread.wg; split <;> rfl
@[simp] theorem wg_stubFor (r : GReg) (x : Dword) : (t.wg r x).stubFor = t.stubFor := by unfold Thread.wg; split <;> rfl
@[simp] theorem wg_replyAddr (r : GReg) (x : Dword) : (t.wg r x).replyAddr = t.replyAddr := by unfold Thread.wg; split <;> rfl
@[simp] theorem wg_replyKey (r : GReg) (x : Dword) : (t.wg r x).replyKey = t.replyKey := by unfold Thread.wg; split <;> rfl
@[simp] theorem wg_pending (r : GReg) (x : Dword) : (t.wg r x).pending = t.pending := by unfold Thread.wg; split <;> rfl
@[simp] theorem wg_nanStop (r : GReg) (x : Dword) : (t.wg r x).nanStop = t.nanStop := by unfold Thread.wg; split <;> rfl
@[simp] theorem wg_skipBreak (r : GReg) (x : Dword) : (t.wg r x).skipBreak = t.skipBreak := by unfold Thread.wg; split <;> rfl
@[simp] theorem wg_lastTag (r : GReg) (x : Dword) : (t.wg r x).lastTag = t.lastTag := by unfold Thread.wg; split <;> rfl
@[simp] theorem wg_ticket (r : GReg) (x : Dword) : (t.wg r x).ticket = t.ticket := by unfold Thread.wg; split <;> rfl
@[simp] theorem wg_abortReason (r : GReg) (x : Dword) : (t.wg r x).abortReason = t.abortReason := by unfold Thread.wg; split <;> rfl
@[simp] theorem wg_waveCore (r : GReg) (x : Dword) : (t.wg r x).waveCore = t.waveCore := by unfold Thread.wg; split <;> rfl
@[simp] theorem wg_voted (r : GReg) (x : Dword) : (t.wg r x).voted = t.voted := by unfold Thread.wg; split <;> rfl
@[simp] theorem wg_after (r : GReg) (x : Dword) : (t.wg r x).after = t.after := by unfold Thread.wg; split <;> rfl
@[simp] theorem wg_stale (r : GReg) (x : Dword) : (t.wg r x).stale = t.stale := by unfold Thread.wg; split <;> rfl
@[simp] theorem wg_inHand (r : GReg) (x : Dword) : (t.wg r x).inHand = t.inHand := by unfold Thread.wg; split <;> rfl
@[simp] theorem wg_bank (r : GReg) (x : Dword) : (t.wg r x).bank = t.bank := by unfold Thread.wg; split <;> rfl
@[simp] theorem wg_cbrTarget (r : GReg) (x : Dword) : (t.wg r x).cbrTarget = t.cbrTarget := by unfold Thread.wg; split <;> rfl
@[simp] theorem wg_spSleep (r : GReg) (x : Dword) : (t.wg r x).spSleep = t.spSleep := by unfold Thread.wg; split <;> rfl
@[simp] theorem wg_ending (r : GReg) (x : Dword) : (t.wg r x).ending = t.ending := by unfold Thread.wg; split <;> rfl
@[simp] theorem wg_ownEnd (r : GReg) (x : Dword) : (t.wg r x).ownEnd = t.ownEnd := by unfold Thread.wg; split <;> rfl
@[simp] theorem wg_stopping (r : GReg) (x : Dword) : (t.wg r x).stopping = t.stopping := by unfold Thread.wg; split <;> rfl
@[simp] theorem wg_startAfter (r : GReg) (x : Dword) : (t.wg r x).startAfter = t.startAfter := by unfold Thread.wg; split <;> rfl
@[simp] theorem wg_bySave (r : GReg) (x : Dword) : (t.wg r x).bySave = t.bySave := by unfold Thread.wg; split <;> rfl
@[simp] theorem wg_word (r : GReg) (x : Dword) : (t.wg r x).word = t.word := by unfold Thread.wg; split <;> rfl
@[simp] theorem wg_buffer (r : GReg) (x : Dword) : (t.wg r x).buffer = t.buffer := by unfold Thread.wg; split <;> rfl
@[simp] theorem wg_wavePkg (r : GReg) (x : Dword) : (t.wg r x).wavePkg = t.wavePkg := by unfold Thread.wg; split <;> rfl
@[simp] theorem wg_targets (r : GReg) (x : Dword) : (t.wg r x).targets = t.targets := by unfold Thread.wg; split <;> rfl
@[simp] theorem wg_nanLater (r : GReg) (x : Dword) : (t.wg r x).nanLater = t.nanLater := by unfold Thread.wg; split <;> rfl
@[simp] theorem wg_pcWritten (r : GReg) (x : Dword) : (t.wg r x).pcWritten = t.pcWritten := by unfold Thread.wg; split <;> rfl

@[simp] theorem wv_st (r : VReg) (x : VWord) : (t.wv r x).st = t.st := rfl
@[simp] theorem wv_prior (r : VReg) (x : VWord) : (t.wv r x).prior = t.prior := rfl
@[simp] theorem wv_fcode (r : VReg) (x : VWord) : (t.wv r x).fcode = t.fcode := rfl
@[simp] theorem wv_pc (r : VReg) (x : VWord) : (t.wv r x).pc = t.pc := rfl
@[simp] theorem wv_g (r : VReg) (x : VWord) : (t.wv r x).g = t.g := rfl
@[simp] theorem wv_k (r : VReg) (x : VWord) : (t.wv r x).k = t.k := rfl
@[simp] theorem wv_b (r : VReg) (x : VWord) : (t.wv r x).b = t.b := rfl
@[simp] theorem wv_prepared (r : VReg) (x : VWord) : (t.wv r x).prepared = t.prepared := rfl
@[simp] theorem wv_w (r : VReg) (x : VWord) : (t.wv r x).w = t.w := rfl
@[simp] theorem wv_tid (r : VReg) (x : VWord) : (t.wv r x).tid = t.tid := rfl
@[simp] theorem wv_wid (r : VReg) (x : VWord) : (t.wv r x).wid = t.wid := rfl
@[simp] theorem wv_job (r : VReg) (x : VWord) : (t.wv r x).job = t.job := rfl
@[simp] theorem wv_flags (r : VReg) (x : VWord) : (t.wv r x).flags = t.flags := rfl
@[simp] theorem wv_faultrec (r : VReg) (x : VWord) : (t.wv r x).faultrec = t.faultrec := rfl
@[simp] theorem wv_auth (r : VReg) (x : VWord) : (t.wv r x).auth = t.auth := rfl
@[simp] theorem wv_troot (r : VReg) (x : VWord) : (t.wv r x).troot = t.troot := rfl
@[simp] theorem wv_prio (r : VReg) (x : VWord) : (t.wv r x).prio = t.prio := rfl
@[simp] theorem wv_nanctl (r : VReg) (x : VWord) : (t.wv r x).nanctl = t.nanctl := rfl
@[simp] theorem wv_cabort (r : VReg) (x : VWord) : (t.wv r x).cabort = t.cabort := rfl
@[simp] theorem wv_ctimeout (r : VReg) (x : VWord) : (t.wv r x).ctimeout = t.ctimeout := rfl
@[simp] theorem wv_cmem (r : VReg) (x : VWord) : (t.wv r x).cmem = t.cmem := rfl
@[simp] theorem wv_bx (r : VReg) (x : VWord) : (t.wv r x).bx = t.bx := rfl
@[simp] theorem wv_by' (r : VReg) (x : VWord) : (t.wv r x).by' = t.by' := rfl
@[simp] theorem wv_bseq (r : VReg) (x : VWord) : (t.wv r x).bseq = t.bseq := rfl
@[simp] theorem wv_blen (r : VReg) (x : VWord) : (t.wv r x).blen = t.blen := rfl
@[simp] theorem wv_xbatch (r : VReg) (x : VWord) : (t.wv r x).xbatch = t.xbatch := rfl
@[simp] theorem wv_batchNo (r : VReg) (x : VWord) : (t.wv r x).batchNo = t.batchNo := rfl
@[simp] theorem wv_pfxst (r : VReg) (x : VWord) : (t.wv r x).pfxst = t.pfxst := rfl
@[simp] theorem wv_modBad (r : VReg) (x : VWord) : (t.wv r x).modBad = t.modBad := rfl
@[simp] theorem wv_hintBad (r : VReg) (x : VWord) : (t.wv r x).hintBad = t.hintBad := rfl
@[simp] theorem wv_pfxAt (r : VReg) (x : VWord) : (t.wv r x).pfxAt = t.pfxAt := rfl
@[simp] theorem wv_loopst (r : VReg) (x : VWord) : (t.wv r x).loopst = t.loopst := rfl
@[simp] theorem wv_loopb (r : VReg) (x : VWord) : (t.wv r x).loopb = t.loopb := rfl
@[simp] theorem wv_loopc (r : VReg) (x : VWord) : (t.wv r x).loopc = t.loopc := rfl
@[simp] theorem wv_retiring (r : VReg) (x : VWord) : (t.wv r x).retiring = t.retiring := rfl
@[simp] theorem wv_redpend (r : VReg) (x : VWord) : (t.wv r x).redpend = t.redpend := rfl
@[simp] theorem wv_storeAck (r : VReg) (x : VWord) : (t.wv r x).storeAck = t.storeAck := rfl
@[simp] theorem wv_pos (r : VReg) (x : VWord) : (t.wv r x).pos = t.pos := rfl
@[simp] theorem wv_roaming (r : VReg) (x : VWord) : (t.wv r x).roaming = t.roaming := rfl
@[simp] theorem wv_burst (r : VReg) (x : VWord) : (t.wv r x).burst = t.burst := rfl
@[simp] theorem wv_read (r : VReg) (x : VWord) : (t.wv r x).read = t.read := rfl
@[simp] theorem wv_reserved (r : VReg) (x : VWord) : (t.wv r x).reserved = t.reserved := rfl
@[simp] theorem wv_admitted (r : VReg) (x : VWord) : (t.wv r x).admitted = t.admitted := rfl
@[simp] theorem wv_readyTime (r : VReg) (x : VWord) : (t.wv r x).readyTime = t.readyTime := rfl
@[simp] theorem wv_effPrio (r : VReg) (x : VWord) : (t.wv r x).effPrio = t.effPrio := rfl
@[simp] theorem wv_agedAt (r : VReg) (x : VWord) : (t.wv r x).agedAt = t.agedAt := rfl
@[simp] theorem wv_turns (r : VReg) (x : VWord) : (t.wv r x).turns = t.turns := rfl
@[simp] theorem wv_stall (r : VReg) (x : VWord) : (t.wv r x).stall = t.stall := rfl
@[simp] theorem wv_yielding (r : VReg) (x : VWord) : (t.wv r x).yielding = t.yielding := rfl
@[simp] theorem wv_wait (r : VReg) (x : VWord) : (t.wv r x).wait = t.wait := rfl
@[simp] theorem wv_deadline (r : VReg) (x : VWord) : (t.wv r x).deadline = t.deadline := rfl
@[simp] theorem wv_sleptAt (r : VReg) (x : VWord) : (t.wv r x).sleptAt = t.sleptAt := rfl
@[simp] theorem wv_stub (r : VReg) (x : VWord) : (t.wv r x).stub = t.stub := rfl
@[simp] theorem wv_stubFor (r : VReg) (x : VWord) : (t.wv r x).stubFor = t.stubFor := rfl
@[simp] theorem wv_replyAddr (r : VReg) (x : VWord) : (t.wv r x).replyAddr = t.replyAddr := rfl
@[simp] theorem wv_replyKey (r : VReg) (x : VWord) : (t.wv r x).replyKey = t.replyKey := rfl
@[simp] theorem wv_pending (r : VReg) (x : VWord) : (t.wv r x).pending = t.pending := rfl
@[simp] theorem wv_nanStop (r : VReg) (x : VWord) : (t.wv r x).nanStop = t.nanStop := rfl
@[simp] theorem wv_skipBreak (r : VReg) (x : VWord) : (t.wv r x).skipBreak = t.skipBreak := rfl
@[simp] theorem wv_lastTag (r : VReg) (x : VWord) : (t.wv r x).lastTag = t.lastTag := rfl
@[simp] theorem wv_ticket (r : VReg) (x : VWord) : (t.wv r x).ticket = t.ticket := rfl
@[simp] theorem wv_abortReason (r : VReg) (x : VWord) : (t.wv r x).abortReason = t.abortReason := rfl
@[simp] theorem wv_waveCore (r : VReg) (x : VWord) : (t.wv r x).waveCore = t.waveCore := rfl
@[simp] theorem wv_voted (r : VReg) (x : VWord) : (t.wv r x).voted = t.voted := rfl
@[simp] theorem wv_after (r : VReg) (x : VWord) : (t.wv r x).after = t.after := rfl
@[simp] theorem wv_stale (r : VReg) (x : VWord) : (t.wv r x).stale = t.stale := rfl
@[simp] theorem wv_inHand (r : VReg) (x : VWord) : (t.wv r x).inHand = t.inHand := rfl
@[simp] theorem wv_bank (r : VReg) (x : VWord) : (t.wv r x).bank = t.bank := rfl
@[simp] theorem wv_cbrTarget (r : VReg) (x : VWord) : (t.wv r x).cbrTarget = t.cbrTarget := rfl
@[simp] theorem wv_spSleep (r : VReg) (x : VWord) : (t.wv r x).spSleep = t.spSleep := rfl
@[simp] theorem wv_ending (r : VReg) (x : VWord) : (t.wv r x).ending = t.ending := rfl
@[simp] theorem wv_ownEnd (r : VReg) (x : VWord) : (t.wv r x).ownEnd = t.ownEnd := rfl
@[simp] theorem wv_stopping (r : VReg) (x : VWord) : (t.wv r x).stopping = t.stopping := rfl
@[simp] theorem wv_startAfter (r : VReg) (x : VWord) : (t.wv r x).startAfter = t.startAfter := rfl
@[simp] theorem wv_bySave (r : VReg) (x : VWord) : (t.wv r x).bySave = t.bySave := rfl
@[simp] theorem wv_word (r : VReg) (x : VWord) : (t.wv r x).word = t.word := rfl
@[simp] theorem wv_buffer (r : VReg) (x : VWord) : (t.wv r x).buffer = t.buffer := rfl
@[simp] theorem wv_wavePkg (r : VReg) (x : VWord) : (t.wv r x).wavePkg = t.wavePkg := rfl
@[simp] theorem wv_targets (r : VReg) (x : VWord) : (t.wv r x).targets = t.targets := rfl
@[simp] theorem wv_nanLater (r : VReg) (x : VWord) : (t.wv r x).nanLater = t.nanLater := rfl
@[simp] theorem wv_pcWritten (r : VReg) (x : VWord) : (t.wv r x).pcWritten = t.pcWritten := rfl

@[simp] theorem wk_st (r : KReg) (x : Dword) : (t.wk r x).st = t.st := rfl
@[simp] theorem wk_prior (r : KReg) (x : Dword) : (t.wk r x).prior = t.prior := rfl
@[simp] theorem wk_fcode (r : KReg) (x : Dword) : (t.wk r x).fcode = t.fcode := rfl
@[simp] theorem wk_pc (r : KReg) (x : Dword) : (t.wk r x).pc = t.pc := rfl
@[simp] theorem wk_g (r : KReg) (x : Dword) : (t.wk r x).g = t.g := rfl
@[simp] theorem wk_v (r : KReg) (x : Dword) : (t.wk r x).v = t.v := rfl
@[simp] theorem wk_b (r : KReg) (x : Dword) : (t.wk r x).b = t.b := rfl
@[simp] theorem wk_prepared (r : KReg) (x : Dword) : (t.wk r x).prepared = t.prepared := rfl
@[simp] theorem wk_w (r : KReg) (x : Dword) : (t.wk r x).w = t.w := rfl
@[simp] theorem wk_tid (r : KReg) (x : Dword) : (t.wk r x).tid = t.tid := rfl
@[simp] theorem wk_wid (r : KReg) (x : Dword) : (t.wk r x).wid = t.wid := rfl
@[simp] theorem wk_job (r : KReg) (x : Dword) : (t.wk r x).job = t.job := rfl
@[simp] theorem wk_flags (r : KReg) (x : Dword) : (t.wk r x).flags = t.flags := rfl
@[simp] theorem wk_faultrec (r : KReg) (x : Dword) : (t.wk r x).faultrec = t.faultrec := rfl
@[simp] theorem wk_auth (r : KReg) (x : Dword) : (t.wk r x).auth = t.auth := rfl
@[simp] theorem wk_troot (r : KReg) (x : Dword) : (t.wk r x).troot = t.troot := rfl
@[simp] theorem wk_prio (r : KReg) (x : Dword) : (t.wk r x).prio = t.prio := rfl
@[simp] theorem wk_nanctl (r : KReg) (x : Dword) : (t.wk r x).nanctl = t.nanctl := rfl
@[simp] theorem wk_cabort (r : KReg) (x : Dword) : (t.wk r x).cabort = t.cabort := rfl
@[simp] theorem wk_ctimeout (r : KReg) (x : Dword) : (t.wk r x).ctimeout = t.ctimeout := rfl
@[simp] theorem wk_cmem (r : KReg) (x : Dword) : (t.wk r x).cmem = t.cmem := rfl
@[simp] theorem wk_bx (r : KReg) (x : Dword) : (t.wk r x).bx = t.bx := rfl
@[simp] theorem wk_by' (r : KReg) (x : Dword) : (t.wk r x).by' = t.by' := rfl
@[simp] theorem wk_bseq (r : KReg) (x : Dword) : (t.wk r x).bseq = t.bseq := rfl
@[simp] theorem wk_blen (r : KReg) (x : Dword) : (t.wk r x).blen = t.blen := rfl
@[simp] theorem wk_xbatch (r : KReg) (x : Dword) : (t.wk r x).xbatch = t.xbatch := rfl
@[simp] theorem wk_batchNo (r : KReg) (x : Dword) : (t.wk r x).batchNo = t.batchNo := rfl
@[simp] theorem wk_pfxst (r : KReg) (x : Dword) : (t.wk r x).pfxst = t.pfxst := rfl
@[simp] theorem wk_modBad (r : KReg) (x : Dword) : (t.wk r x).modBad = t.modBad := rfl
@[simp] theorem wk_hintBad (r : KReg) (x : Dword) : (t.wk r x).hintBad = t.hintBad := rfl
@[simp] theorem wk_pfxAt (r : KReg) (x : Dword) : (t.wk r x).pfxAt = t.pfxAt := rfl
@[simp] theorem wk_loopst (r : KReg) (x : Dword) : (t.wk r x).loopst = t.loopst := rfl
@[simp] theorem wk_loopb (r : KReg) (x : Dword) : (t.wk r x).loopb = t.loopb := rfl
@[simp] theorem wk_loopc (r : KReg) (x : Dword) : (t.wk r x).loopc = t.loopc := rfl
@[simp] theorem wk_retiring (r : KReg) (x : Dword) : (t.wk r x).retiring = t.retiring := rfl
@[simp] theorem wk_redpend (r : KReg) (x : Dword) : (t.wk r x).redpend = t.redpend := rfl
@[simp] theorem wk_storeAck (r : KReg) (x : Dword) : (t.wk r x).storeAck = t.storeAck := rfl
@[simp] theorem wk_pos (r : KReg) (x : Dword) : (t.wk r x).pos = t.pos := rfl
@[simp] theorem wk_roaming (r : KReg) (x : Dword) : (t.wk r x).roaming = t.roaming := rfl
@[simp] theorem wk_burst (r : KReg) (x : Dword) : (t.wk r x).burst = t.burst := rfl
@[simp] theorem wk_read (r : KReg) (x : Dword) : (t.wk r x).read = t.read := rfl
@[simp] theorem wk_reserved (r : KReg) (x : Dword) : (t.wk r x).reserved = t.reserved := rfl
@[simp] theorem wk_admitted (r : KReg) (x : Dword) : (t.wk r x).admitted = t.admitted := rfl
@[simp] theorem wk_readyTime (r : KReg) (x : Dword) : (t.wk r x).readyTime = t.readyTime := rfl
@[simp] theorem wk_effPrio (r : KReg) (x : Dword) : (t.wk r x).effPrio = t.effPrio := rfl
@[simp] theorem wk_agedAt (r : KReg) (x : Dword) : (t.wk r x).agedAt = t.agedAt := rfl
@[simp] theorem wk_turns (r : KReg) (x : Dword) : (t.wk r x).turns = t.turns := rfl
@[simp] theorem wk_stall (r : KReg) (x : Dword) : (t.wk r x).stall = t.stall := rfl
@[simp] theorem wk_yielding (r : KReg) (x : Dword) : (t.wk r x).yielding = t.yielding := rfl
@[simp] theorem wk_wait (r : KReg) (x : Dword) : (t.wk r x).wait = t.wait := rfl
@[simp] theorem wk_deadline (r : KReg) (x : Dword) : (t.wk r x).deadline = t.deadline := rfl
@[simp] theorem wk_sleptAt (r : KReg) (x : Dword) : (t.wk r x).sleptAt = t.sleptAt := rfl
@[simp] theorem wk_stub (r : KReg) (x : Dword) : (t.wk r x).stub = t.stub := rfl
@[simp] theorem wk_stubFor (r : KReg) (x : Dword) : (t.wk r x).stubFor = t.stubFor := rfl
@[simp] theorem wk_replyAddr (r : KReg) (x : Dword) : (t.wk r x).replyAddr = t.replyAddr := rfl
@[simp] theorem wk_replyKey (r : KReg) (x : Dword) : (t.wk r x).replyKey = t.replyKey := rfl
@[simp] theorem wk_pending (r : KReg) (x : Dword) : (t.wk r x).pending = t.pending := rfl
@[simp] theorem wk_nanStop (r : KReg) (x : Dword) : (t.wk r x).nanStop = t.nanStop := rfl
@[simp] theorem wk_skipBreak (r : KReg) (x : Dword) : (t.wk r x).skipBreak = t.skipBreak := rfl
@[simp] theorem wk_lastTag (r : KReg) (x : Dword) : (t.wk r x).lastTag = t.lastTag := rfl
@[simp] theorem wk_ticket (r : KReg) (x : Dword) : (t.wk r x).ticket = t.ticket := rfl
@[simp] theorem wk_abortReason (r : KReg) (x : Dword) : (t.wk r x).abortReason = t.abortReason := rfl
@[simp] theorem wk_waveCore (r : KReg) (x : Dword) : (t.wk r x).waveCore = t.waveCore := rfl
@[simp] theorem wk_voted (r : KReg) (x : Dword) : (t.wk r x).voted = t.voted := rfl
@[simp] theorem wk_after (r : KReg) (x : Dword) : (t.wk r x).after = t.after := rfl
@[simp] theorem wk_stale (r : KReg) (x : Dword) : (t.wk r x).stale = t.stale := rfl
@[simp] theorem wk_inHand (r : KReg) (x : Dword) : (t.wk r x).inHand = t.inHand := rfl
@[simp] theorem wk_bank (r : KReg) (x : Dword) : (t.wk r x).bank = t.bank := rfl
@[simp] theorem wk_cbrTarget (r : KReg) (x : Dword) : (t.wk r x).cbrTarget = t.cbrTarget := rfl
@[simp] theorem wk_spSleep (r : KReg) (x : Dword) : (t.wk r x).spSleep = t.spSleep := rfl
@[simp] theorem wk_ending (r : KReg) (x : Dword) : (t.wk r x).ending = t.ending := rfl
@[simp] theorem wk_ownEnd (r : KReg) (x : Dword) : (t.wk r x).ownEnd = t.ownEnd := rfl
@[simp] theorem wk_stopping (r : KReg) (x : Dword) : (t.wk r x).stopping = t.stopping := rfl
@[simp] theorem wk_startAfter (r : KReg) (x : Dword) : (t.wk r x).startAfter = t.startAfter := rfl
@[simp] theorem wk_bySave (r : KReg) (x : Dword) : (t.wk r x).bySave = t.bySave := rfl
@[simp] theorem wk_word (r : KReg) (x : Dword) : (t.wk r x).word = t.word := rfl
@[simp] theorem wk_buffer (r : KReg) (x : Dword) : (t.wk r x).buffer = t.buffer := rfl
@[simp] theorem wk_wavePkg (r : KReg) (x : Dword) : (t.wk r x).wavePkg = t.wavePkg := rfl
@[simp] theorem wk_targets (r : KReg) (x : Dword) : (t.wk r x).targets = t.targets := rfl
@[simp] theorem wk_nanLater (r : KReg) (x : Dword) : (t.wk r x).nanLater = t.nanLater := rfl
@[simp] theorem wk_pcWritten (r : KReg) (x : Dword) : (t.wk r x).pcWritten = t.pcWritten := rfl

@[simp] theorem ww_st (r : WReg) (x : Dword) : (t.ww r x).st = t.st := rfl
@[simp] theorem ww_prior (r : WReg) (x : Dword) : (t.ww r x).prior = t.prior := rfl
@[simp] theorem ww_fcode (r : WReg) (x : Dword) : (t.ww r x).fcode = t.fcode := rfl
@[simp] theorem ww_pc (r : WReg) (x : Dword) : (t.ww r x).pc = t.pc := rfl
@[simp] theorem ww_g (r : WReg) (x : Dword) : (t.ww r x).g = t.g := rfl
@[simp] theorem ww_v (r : WReg) (x : Dword) : (t.ww r x).v = t.v := rfl
@[simp] theorem ww_k (r : WReg) (x : Dword) : (t.ww r x).k = t.k := rfl
@[simp] theorem ww_b (r : WReg) (x : Dword) : (t.ww r x).b = t.b := rfl
@[simp] theorem ww_prepared (r : WReg) (x : Dword) : (t.ww r x).prepared = t.prepared := rfl
@[simp] theorem ww_tid (r : WReg) (x : Dword) : (t.ww r x).tid = t.tid := rfl
@[simp] theorem ww_wid (r : WReg) (x : Dword) : (t.ww r x).wid = t.wid := rfl
@[simp] theorem ww_job (r : WReg) (x : Dword) : (t.ww r x).job = t.job := rfl
@[simp] theorem ww_flags (r : WReg) (x : Dword) : (t.ww r x).flags = t.flags := rfl
@[simp] theorem ww_faultrec (r : WReg) (x : Dword) : (t.ww r x).faultrec = t.faultrec := rfl
@[simp] theorem ww_auth (r : WReg) (x : Dword) : (t.ww r x).auth = t.auth := rfl
@[simp] theorem ww_troot (r : WReg) (x : Dword) : (t.ww r x).troot = t.troot := rfl
@[simp] theorem ww_prio (r : WReg) (x : Dword) : (t.ww r x).prio = t.prio := rfl
@[simp] theorem ww_nanctl (r : WReg) (x : Dword) : (t.ww r x).nanctl = t.nanctl := rfl
@[simp] theorem ww_cabort (r : WReg) (x : Dword) : (t.ww r x).cabort = t.cabort := rfl
@[simp] theorem ww_ctimeout (r : WReg) (x : Dword) : (t.ww r x).ctimeout = t.ctimeout := rfl
@[simp] theorem ww_cmem (r : WReg) (x : Dword) : (t.ww r x).cmem = t.cmem := rfl
@[simp] theorem ww_bx (r : WReg) (x : Dword) : (t.ww r x).bx = t.bx := rfl
@[simp] theorem ww_by' (r : WReg) (x : Dword) : (t.ww r x).by' = t.by' := rfl
@[simp] theorem ww_bseq (r : WReg) (x : Dword) : (t.ww r x).bseq = t.bseq := rfl
@[simp] theorem ww_blen (r : WReg) (x : Dword) : (t.ww r x).blen = t.blen := rfl
@[simp] theorem ww_xbatch (r : WReg) (x : Dword) : (t.ww r x).xbatch = t.xbatch := rfl
@[simp] theorem ww_batchNo (r : WReg) (x : Dword) : (t.ww r x).batchNo = t.batchNo := rfl
@[simp] theorem ww_pfxst (r : WReg) (x : Dword) : (t.ww r x).pfxst = t.pfxst := rfl
@[simp] theorem ww_modBad (r : WReg) (x : Dword) : (t.ww r x).modBad = t.modBad := rfl
@[simp] theorem ww_hintBad (r : WReg) (x : Dword) : (t.ww r x).hintBad = t.hintBad := rfl
@[simp] theorem ww_pfxAt (r : WReg) (x : Dword) : (t.ww r x).pfxAt = t.pfxAt := rfl
@[simp] theorem ww_loopst (r : WReg) (x : Dword) : (t.ww r x).loopst = t.loopst := rfl
@[simp] theorem ww_loopb (r : WReg) (x : Dword) : (t.ww r x).loopb = t.loopb := rfl
@[simp] theorem ww_loopc (r : WReg) (x : Dword) : (t.ww r x).loopc = t.loopc := rfl
@[simp] theorem ww_retiring (r : WReg) (x : Dword) : (t.ww r x).retiring = t.retiring := rfl
@[simp] theorem ww_redpend (r : WReg) (x : Dword) : (t.ww r x).redpend = t.redpend := rfl
@[simp] theorem ww_storeAck (r : WReg) (x : Dword) : (t.ww r x).storeAck = t.storeAck := rfl
@[simp] theorem ww_pos (r : WReg) (x : Dword) : (t.ww r x).pos = t.pos := rfl
@[simp] theorem ww_roaming (r : WReg) (x : Dword) : (t.ww r x).roaming = t.roaming := rfl
@[simp] theorem ww_burst (r : WReg) (x : Dword) : (t.ww r x).burst = t.burst := rfl
@[simp] theorem ww_read (r : WReg) (x : Dword) : (t.ww r x).read = t.read := rfl
@[simp] theorem ww_reserved (r : WReg) (x : Dword) : (t.ww r x).reserved = t.reserved := rfl
@[simp] theorem ww_admitted (r : WReg) (x : Dword) : (t.ww r x).admitted = t.admitted := rfl
@[simp] theorem ww_readyTime (r : WReg) (x : Dword) : (t.ww r x).readyTime = t.readyTime := rfl
@[simp] theorem ww_effPrio (r : WReg) (x : Dword) : (t.ww r x).effPrio = t.effPrio := rfl
@[simp] theorem ww_agedAt (r : WReg) (x : Dword) : (t.ww r x).agedAt = t.agedAt := rfl
@[simp] theorem ww_turns (r : WReg) (x : Dword) : (t.ww r x).turns = t.turns := rfl
@[simp] theorem ww_stall (r : WReg) (x : Dword) : (t.ww r x).stall = t.stall := rfl
@[simp] theorem ww_yielding (r : WReg) (x : Dword) : (t.ww r x).yielding = t.yielding := rfl
@[simp] theorem ww_wait (r : WReg) (x : Dword) : (t.ww r x).wait = t.wait := rfl
@[simp] theorem ww_deadline (r : WReg) (x : Dword) : (t.ww r x).deadline = t.deadline := rfl
@[simp] theorem ww_sleptAt (r : WReg) (x : Dword) : (t.ww r x).sleptAt = t.sleptAt := rfl
@[simp] theorem ww_stub (r : WReg) (x : Dword) : (t.ww r x).stub = t.stub := rfl
@[simp] theorem ww_stubFor (r : WReg) (x : Dword) : (t.ww r x).stubFor = t.stubFor := rfl
@[simp] theorem ww_replyAddr (r : WReg) (x : Dword) : (t.ww r x).replyAddr = t.replyAddr := rfl
@[simp] theorem ww_replyKey (r : WReg) (x : Dword) : (t.ww r x).replyKey = t.replyKey := rfl
@[simp] theorem ww_pending (r : WReg) (x : Dword) : (t.ww r x).pending = t.pending := rfl
@[simp] theorem ww_nanStop (r : WReg) (x : Dword) : (t.ww r x).nanStop = t.nanStop := rfl
@[simp] theorem ww_skipBreak (r : WReg) (x : Dword) : (t.ww r x).skipBreak = t.skipBreak := rfl
@[simp] theorem ww_lastTag (r : WReg) (x : Dword) : (t.ww r x).lastTag = t.lastTag := rfl
@[simp] theorem ww_ticket (r : WReg) (x : Dword) : (t.ww r x).ticket = t.ticket := rfl
@[simp] theorem ww_abortReason (r : WReg) (x : Dword) : (t.ww r x).abortReason = t.abortReason := rfl
@[simp] theorem ww_waveCore (r : WReg) (x : Dword) : (t.ww r x).waveCore = t.waveCore := rfl
@[simp] theorem ww_voted (r : WReg) (x : Dword) : (t.ww r x).voted = t.voted := rfl
@[simp] theorem ww_after (r : WReg) (x : Dword) : (t.ww r x).after = t.after := rfl
@[simp] theorem ww_stale (r : WReg) (x : Dword) : (t.ww r x).stale = t.stale := rfl
@[simp] theorem ww_inHand (r : WReg) (x : Dword) : (t.ww r x).inHand = t.inHand := rfl
@[simp] theorem ww_bank (r : WReg) (x : Dword) : (t.ww r x).bank = t.bank := rfl
@[simp] theorem ww_cbrTarget (r : WReg) (x : Dword) : (t.ww r x).cbrTarget = t.cbrTarget := rfl
@[simp] theorem ww_spSleep (r : WReg) (x : Dword) : (t.ww r x).spSleep = t.spSleep := rfl
@[simp] theorem ww_ending (r : WReg) (x : Dword) : (t.ww r x).ending = t.ending := rfl
@[simp] theorem ww_ownEnd (r : WReg) (x : Dword) : (t.ww r x).ownEnd = t.ownEnd := rfl
@[simp] theorem ww_stopping (r : WReg) (x : Dword) : (t.ww r x).stopping = t.stopping := rfl
@[simp] theorem ww_startAfter (r : WReg) (x : Dword) : (t.ww r x).startAfter = t.startAfter := rfl
@[simp] theorem ww_bySave (r : WReg) (x : Dword) : (t.ww r x).bySave = t.bySave := rfl
@[simp] theorem ww_word (r : WReg) (x : Dword) : (t.ww r x).word = t.word := rfl
@[simp] theorem ww_buffer (r : WReg) (x : Dword) : (t.ww r x).buffer = t.buffer := rfl
@[simp] theorem ww_wavePkg (r : WReg) (x : Dword) : (t.ww r x).wavePkg = t.wavePkg := rfl
@[simp] theorem ww_targets (r : WReg) (x : Dword) : (t.ww r x).targets = t.targets := rfl
@[simp] theorem ww_nanLater (r : WReg) (x : Dword) : (t.ww r x).nanLater = t.nanLater := rfl
@[simp] theorem ww_pcWritten (r : WReg) (x : Dword) : (t.ww r x).pcWritten = t.pcWritten := rfl

@[simp] theorem orFlags_st (f : Sticky) : (t.orFlags f).st = t.st := rfl
@[simp] theorem orFlags_prior (f : Sticky) : (t.orFlags f).prior = t.prior := rfl
@[simp] theorem orFlags_fcode (f : Sticky) : (t.orFlags f).fcode = t.fcode := rfl
@[simp] theorem orFlags_pc (f : Sticky) : (t.orFlags f).pc = t.pc := rfl
@[simp] theorem orFlags_g (f : Sticky) : (t.orFlags f).g = t.g := rfl
@[simp] theorem orFlags_v (f : Sticky) : (t.orFlags f).v = t.v := rfl
@[simp] theorem orFlags_k (f : Sticky) : (t.orFlags f).k = t.k := rfl
@[simp] theorem orFlags_b (f : Sticky) : (t.orFlags f).b = t.b := rfl
@[simp] theorem orFlags_prepared (f : Sticky) : (t.orFlags f).prepared = t.prepared := rfl
@[simp] theorem orFlags_w (f : Sticky) : (t.orFlags f).w = t.w := rfl
@[simp] theorem orFlags_tid (f : Sticky) : (t.orFlags f).tid = t.tid := rfl
@[simp] theorem orFlags_wid (f : Sticky) : (t.orFlags f).wid = t.wid := rfl
@[simp] theorem orFlags_job (f : Sticky) : (t.orFlags f).job = t.job := rfl
@[simp] theorem orFlags_faultrec (f : Sticky) : (t.orFlags f).faultrec = t.faultrec := rfl
@[simp] theorem orFlags_auth (f : Sticky) : (t.orFlags f).auth = t.auth := rfl
@[simp] theorem orFlags_troot (f : Sticky) : (t.orFlags f).troot = t.troot := rfl
@[simp] theorem orFlags_prio (f : Sticky) : (t.orFlags f).prio = t.prio := rfl
@[simp] theorem orFlags_nanctl (f : Sticky) : (t.orFlags f).nanctl = t.nanctl := rfl
@[simp] theorem orFlags_cabort (f : Sticky) : (t.orFlags f).cabort = t.cabort := rfl
@[simp] theorem orFlags_ctimeout (f : Sticky) : (t.orFlags f).ctimeout = t.ctimeout := rfl
@[simp] theorem orFlags_cmem (f : Sticky) : (t.orFlags f).cmem = t.cmem := rfl
@[simp] theorem orFlags_bx (f : Sticky) : (t.orFlags f).bx = t.bx := rfl
@[simp] theorem orFlags_by' (f : Sticky) : (t.orFlags f).by' = t.by' := rfl
@[simp] theorem orFlags_bseq (f : Sticky) : (t.orFlags f).bseq = t.bseq := rfl
@[simp] theorem orFlags_blen (f : Sticky) : (t.orFlags f).blen = t.blen := rfl
@[simp] theorem orFlags_xbatch (f : Sticky) : (t.orFlags f).xbatch = t.xbatch := rfl
@[simp] theorem orFlags_batchNo (f : Sticky) : (t.orFlags f).batchNo = t.batchNo := rfl
@[simp] theorem orFlags_pfxst (f : Sticky) : (t.orFlags f).pfxst = t.pfxst := rfl
@[simp] theorem orFlags_modBad (f : Sticky) : (t.orFlags f).modBad = t.modBad := rfl
@[simp] theorem orFlags_hintBad (f : Sticky) : (t.orFlags f).hintBad = t.hintBad := rfl
@[simp] theorem orFlags_pfxAt (f : Sticky) : (t.orFlags f).pfxAt = t.pfxAt := rfl
@[simp] theorem orFlags_loopst (f : Sticky) : (t.orFlags f).loopst = t.loopst := rfl
@[simp] theorem orFlags_loopb (f : Sticky) : (t.orFlags f).loopb = t.loopb := rfl
@[simp] theorem orFlags_loopc (f : Sticky) : (t.orFlags f).loopc = t.loopc := rfl
@[simp] theorem orFlags_retiring (f : Sticky) : (t.orFlags f).retiring = t.retiring := rfl
@[simp] theorem orFlags_redpend (f : Sticky) : (t.orFlags f).redpend = t.redpend := rfl
@[simp] theorem orFlags_storeAck (f : Sticky) : (t.orFlags f).storeAck = t.storeAck := rfl
@[simp] theorem orFlags_pos (f : Sticky) : (t.orFlags f).pos = t.pos := rfl
@[simp] theorem orFlags_roaming (f : Sticky) : (t.orFlags f).roaming = t.roaming := rfl
@[simp] theorem orFlags_burst (f : Sticky) : (t.orFlags f).burst = t.burst := rfl
@[simp] theorem orFlags_read (f : Sticky) : (t.orFlags f).read = t.read := rfl
@[simp] theorem orFlags_reserved (f : Sticky) : (t.orFlags f).reserved = t.reserved := rfl
@[simp] theorem orFlags_admitted (f : Sticky) : (t.orFlags f).admitted = t.admitted := rfl
@[simp] theorem orFlags_readyTime (f : Sticky) : (t.orFlags f).readyTime = t.readyTime := rfl
@[simp] theorem orFlags_effPrio (f : Sticky) : (t.orFlags f).effPrio = t.effPrio := rfl
@[simp] theorem orFlags_agedAt (f : Sticky) : (t.orFlags f).agedAt = t.agedAt := rfl
@[simp] theorem orFlags_turns (f : Sticky) : (t.orFlags f).turns = t.turns := rfl
@[simp] theorem orFlags_stall (f : Sticky) : (t.orFlags f).stall = t.stall := rfl
@[simp] theorem orFlags_yielding (f : Sticky) : (t.orFlags f).yielding = t.yielding := rfl
@[simp] theorem orFlags_wait (f : Sticky) : (t.orFlags f).wait = t.wait := rfl
@[simp] theorem orFlags_deadline (f : Sticky) : (t.orFlags f).deadline = t.deadline := rfl
@[simp] theorem orFlags_sleptAt (f : Sticky) : (t.orFlags f).sleptAt = t.sleptAt := rfl
@[simp] theorem orFlags_stub (f : Sticky) : (t.orFlags f).stub = t.stub := rfl
@[simp] theorem orFlags_stubFor (f : Sticky) : (t.orFlags f).stubFor = t.stubFor := rfl
@[simp] theorem orFlags_replyAddr (f : Sticky) : (t.orFlags f).replyAddr = t.replyAddr := rfl
@[simp] theorem orFlags_replyKey (f : Sticky) : (t.orFlags f).replyKey = t.replyKey := rfl
@[simp] theorem orFlags_pending (f : Sticky) : (t.orFlags f).pending = t.pending := rfl
@[simp] theorem orFlags_nanStop (f : Sticky) : (t.orFlags f).nanStop = t.nanStop := rfl
@[simp] theorem orFlags_skipBreak (f : Sticky) : (t.orFlags f).skipBreak = t.skipBreak := rfl
@[simp] theorem orFlags_lastTag (f : Sticky) : (t.orFlags f).lastTag = t.lastTag := rfl
@[simp] theorem orFlags_ticket (f : Sticky) : (t.orFlags f).ticket = t.ticket := rfl
@[simp] theorem orFlags_abortReason (f : Sticky) : (t.orFlags f).abortReason = t.abortReason := rfl
@[simp] theorem orFlags_waveCore (f : Sticky) : (t.orFlags f).waveCore = t.waveCore := rfl
@[simp] theorem orFlags_voted (f : Sticky) : (t.orFlags f).voted = t.voted := rfl
@[simp] theorem orFlags_after (f : Sticky) : (t.orFlags f).after = t.after := rfl
@[simp] theorem orFlags_stale (f : Sticky) : (t.orFlags f).stale = t.stale := rfl
@[simp] theorem orFlags_inHand (f : Sticky) : (t.orFlags f).inHand = t.inHand := rfl
@[simp] theorem orFlags_bank (f : Sticky) : (t.orFlags f).bank = t.bank := rfl
@[simp] theorem orFlags_cbrTarget (f : Sticky) : (t.orFlags f).cbrTarget = t.cbrTarget := rfl
@[simp] theorem orFlags_spSleep (f : Sticky) : (t.orFlags f).spSleep = t.spSleep := rfl
@[simp] theorem orFlags_ending (f : Sticky) : (t.orFlags f).ending = t.ending := rfl
@[simp] theorem orFlags_ownEnd (f : Sticky) : (t.orFlags f).ownEnd = t.ownEnd := rfl
@[simp] theorem orFlags_stopping (f : Sticky) : (t.orFlags f).stopping = t.stopping := rfl
@[simp] theorem orFlags_startAfter (f : Sticky) : (t.orFlags f).startAfter = t.startAfter := rfl
@[simp] theorem orFlags_bySave (f : Sticky) : (t.orFlags f).bySave = t.bySave := rfl
@[simp] theorem orFlags_word (f : Sticky) : (t.orFlags f).word = t.word := rfl
@[simp] theorem orFlags_buffer (f : Sticky) : (t.orFlags f).buffer = t.buffer := rfl
@[simp] theorem orFlags_wavePkg (f : Sticky) : (t.orFlags f).wavePkg = t.wavePkg := rfl
@[simp] theorem orFlags_targets (f : Sticky) : (t.orFlags f).targets = t.targets := rfl
@[simp] theorem orFlags_nanLater (f : Sticky) : (t.orFlags f).nanLater = t.nanLater := rfl
@[simp] theorem orFlags_pcWritten (f : Sticky) : (t.orFlags f).pcWritten = t.pcWritten := rfl

@[simp] theorem consume_st : (t.consume).st = t.st := rfl
@[simp] theorem consume_prior : (t.consume).prior = t.prior := rfl
@[simp] theorem consume_fcode : (t.consume).fcode = t.fcode := rfl
@[simp] theorem consume_pc : (t.consume).pc = t.pc := rfl
@[simp] theorem consume_g : (t.consume).g = t.g := rfl
@[simp] theorem consume_v : (t.consume).v = t.v := rfl
@[simp] theorem consume_k : (t.consume).k = t.k := rfl
@[simp] theorem consume_b : (t.consume).b = t.b := rfl
@[simp] theorem consume_prepared : (t.consume).prepared = t.prepared := rfl
@[simp] theorem consume_w : (t.consume).w = t.w := rfl
@[simp] theorem consume_tid : (t.consume).tid = t.tid := rfl
@[simp] theorem consume_wid : (t.consume).wid = t.wid := rfl
@[simp] theorem consume_job : (t.consume).job = t.job := rfl
@[simp] theorem consume_flags : (t.consume).flags = t.flags := rfl
@[simp] theorem consume_faultrec : (t.consume).faultrec = t.faultrec := rfl
@[simp] theorem consume_auth : (t.consume).auth = t.auth := rfl
@[simp] theorem consume_troot : (t.consume).troot = t.troot := rfl
@[simp] theorem consume_prio : (t.consume).prio = t.prio := rfl
@[simp] theorem consume_nanctl : (t.consume).nanctl = t.nanctl := rfl
@[simp] theorem consume_cabort : (t.consume).cabort = t.cabort := rfl
@[simp] theorem consume_ctimeout : (t.consume).ctimeout = t.ctimeout := rfl
@[simp] theorem consume_cmem : (t.consume).cmem = t.cmem := rfl
@[simp] theorem consume_bx : (t.consume).bx = t.bx := rfl
@[simp] theorem consume_by' : (t.consume).by' = t.by' := rfl
@[simp] theorem consume_bseq : (t.consume).bseq = t.bseq := rfl
@[simp] theorem consume_blen : (t.consume).blen = t.blen := rfl
@[simp] theorem consume_xbatch : (t.consume).xbatch = t.xbatch := rfl
@[simp] theorem consume_batchNo : (t.consume).batchNo = t.batchNo := rfl
@[simp] theorem consume_loopst : (t.consume).loopst = t.loopst := rfl
@[simp] theorem consume_loopb : (t.consume).loopb = t.loopb := rfl
@[simp] theorem consume_loopc : (t.consume).loopc = t.loopc := rfl
@[simp] theorem consume_retiring : (t.consume).retiring = t.retiring := rfl
@[simp] theorem consume_redpend : (t.consume).redpend = t.redpend := rfl
@[simp] theorem consume_storeAck : (t.consume).storeAck = t.storeAck := rfl
@[simp] theorem consume_pos : (t.consume).pos = t.pos := rfl
@[simp] theorem consume_roaming : (t.consume).roaming = t.roaming := rfl
@[simp] theorem consume_burst : (t.consume).burst = t.burst := rfl
@[simp] theorem consume_read : (t.consume).read = t.read := rfl
@[simp] theorem consume_reserved : (t.consume).reserved = t.reserved := rfl
@[simp] theorem consume_admitted : (t.consume).admitted = t.admitted := rfl
@[simp] theorem consume_readyTime : (t.consume).readyTime = t.readyTime := rfl
@[simp] theorem consume_effPrio : (t.consume).effPrio = t.effPrio := rfl
@[simp] theorem consume_agedAt : (t.consume).agedAt = t.agedAt := rfl
@[simp] theorem consume_turns : (t.consume).turns = t.turns := rfl
@[simp] theorem consume_stall : (t.consume).stall = t.stall := rfl
@[simp] theorem consume_wait : (t.consume).wait = t.wait := rfl
@[simp] theorem consume_deadline : (t.consume).deadline = t.deadline := rfl
@[simp] theorem consume_sleptAt : (t.consume).sleptAt = t.sleptAt := rfl
@[simp] theorem consume_stub : (t.consume).stub = t.stub := rfl
@[simp] theorem consume_stubFor : (t.consume).stubFor = t.stubFor := rfl
@[simp] theorem consume_replyAddr : (t.consume).replyAddr = t.replyAddr := rfl
@[simp] theorem consume_replyKey : (t.consume).replyKey = t.replyKey := rfl
@[simp] theorem consume_pending : (t.consume).pending = t.pending := rfl
@[simp] theorem consume_nanStop : (t.consume).nanStop = t.nanStop := rfl
@[simp] theorem consume_skipBreak : (t.consume).skipBreak = t.skipBreak := rfl
@[simp] theorem consume_ticket : (t.consume).ticket = t.ticket := rfl
@[simp] theorem consume_abortReason : (t.consume).abortReason = t.abortReason := rfl
@[simp] theorem consume_waveCore : (t.consume).waveCore = t.waveCore := rfl
@[simp] theorem consume_voted : (t.consume).voted = t.voted := rfl
@[simp] theorem consume_after : (t.consume).after = t.after := rfl
@[simp] theorem consume_stale : (t.consume).stale = t.stale := rfl
@[simp] theorem consume_bank : (t.consume).bank = t.bank := rfl
@[simp] theorem consume_cbrTarget : (t.consume).cbrTarget = t.cbrTarget := rfl
@[simp] theorem consume_spSleep : (t.consume).spSleep = t.spSleep := rfl
@[simp] theorem consume_ending : (t.consume).ending = t.ending := rfl
@[simp] theorem consume_ownEnd : (t.consume).ownEnd = t.ownEnd := rfl
@[simp] theorem consume_stopping : (t.consume).stopping = t.stopping := rfl
@[simp] theorem consume_startAfter : (t.consume).startAfter = t.startAfter := rfl
@[simp] theorem consume_bySave : (t.consume).bySave = t.bySave := rfl
@[simp] theorem consume_word : (t.consume).word = t.word := rfl
@[simp] theorem consume_buffer : (t.consume).buffer = t.buffer := rfl
@[simp] theorem consume_wavePkg : (t.consume).wavePkg = t.wavePkg := rfl
@[simp] theorem consume_targets : (t.consume).targets = t.targets := rfl
@[simp] theorem consume_nanLater : (t.consume).nanLater = t.nanLater := rfl
@[simp] theorem consume_pcWritten : (t.consume).pcWritten = t.pcWritten := rfl

@[simp] theorem retire_st : (t.retire).st = t.st := by unfold Thread.retire; dsimp only; split <;> rfl
@[simp] theorem retire_prior : (t.retire).prior = t.prior := by unfold Thread.retire; dsimp only; split <;> rfl
@[simp] theorem retire_fcode : (t.retire).fcode = t.fcode := by unfold Thread.retire; dsimp only; split <;> rfl
@[simp] theorem retire_g : (t.retire).g = t.g := by unfold Thread.retire; dsimp only; split <;> rfl
@[simp] theorem retire_v : (t.retire).v = t.v := by unfold Thread.retire; dsimp only; split <;> rfl
@[simp] theorem retire_k : (t.retire).k = t.k := by unfold Thread.retire; dsimp only; split <;> rfl
@[simp] theorem retire_b : (t.retire).b = t.b := by unfold Thread.retire; dsimp only; split <;> rfl
@[simp] theorem retire_prepared : (t.retire).prepared = t.prepared := by unfold Thread.retire; dsimp only; split <;> rfl
@[simp] theorem retire_w : (t.retire).w = t.w := by unfold Thread.retire; dsimp only; split <;> rfl
@[simp] theorem retire_tid : (t.retire).tid = t.tid := by unfold Thread.retire; dsimp only; split <;> rfl
@[simp] theorem retire_wid : (t.retire).wid = t.wid := by unfold Thread.retire; dsimp only; split <;> rfl
@[simp] theorem retire_job : (t.retire).job = t.job := by unfold Thread.retire; dsimp only; split <;> rfl
@[simp] theorem retire_flags : (t.retire).flags = t.flags := by unfold Thread.retire; dsimp only; split <;> rfl
@[simp] theorem retire_faultrec : (t.retire).faultrec = t.faultrec := by unfold Thread.retire; dsimp only; split <;> rfl
@[simp] theorem retire_auth : (t.retire).auth = t.auth := by unfold Thread.retire; dsimp only; split <;> rfl
@[simp] theorem retire_troot : (t.retire).troot = t.troot := by unfold Thread.retire; dsimp only; split <;> rfl
@[simp] theorem retire_prio : (t.retire).prio = t.prio := by unfold Thread.retire; dsimp only; split <;> rfl
@[simp] theorem retire_nanctl : (t.retire).nanctl = t.nanctl := by unfold Thread.retire; dsimp only; split <;> rfl
@[simp] theorem retire_cabort : (t.retire).cabort = t.cabort := by unfold Thread.retire; dsimp only; split <;> rfl
@[simp] theorem retire_ctimeout : (t.retire).ctimeout = t.ctimeout := by unfold Thread.retire; dsimp only; split <;> rfl
@[simp] theorem retire_cmem : (t.retire).cmem = t.cmem := by unfold Thread.retire; dsimp only; split <;> rfl
@[simp] theorem retire_bx : (t.retire).bx = t.bx := by unfold Thread.retire; dsimp only; split <;> rfl
@[simp] theorem retire_by' : (t.retire).by' = t.by' := by unfold Thread.retire; dsimp only; split <;> rfl
@[simp] theorem retire_bseq : (t.retire).bseq = t.bseq := by unfold Thread.retire; dsimp only; split <;> rfl
@[simp] theorem retire_blen : (t.retire).blen = t.blen := by unfold Thread.retire; dsimp only; split <;> rfl
@[simp] theorem retire_xbatch : (t.retire).xbatch = t.xbatch := by unfold Thread.retire; dsimp only; split <;> rfl
@[simp] theorem retire_batchNo : (t.retire).batchNo = t.batchNo := by unfold Thread.retire; dsimp only; split <;> rfl
@[simp] theorem retire_loopst : (t.retire).loopst = t.loopst := by unfold Thread.retire; dsimp only; split <;> rfl
@[simp] theorem retire_loopb : (t.retire).loopb = t.loopb := by unfold Thread.retire; dsimp only; split <;> rfl
@[simp] theorem retire_loopc : (t.retire).loopc = t.loopc := by unfold Thread.retire; dsimp only; split <;> rfl
@[simp] theorem retire_redpend : (t.retire).redpend = t.redpend := by unfold Thread.retire; dsimp only; split <;> rfl
@[simp] theorem retire_storeAck : (t.retire).storeAck = t.storeAck := by unfold Thread.retire; dsimp only; split <;> rfl
@[simp] theorem retire_pos : (t.retire).pos = t.pos := by unfold Thread.retire; dsimp only; split <;> rfl
@[simp] theorem retire_roaming : (t.retire).roaming = t.roaming := by unfold Thread.retire; dsimp only; split <;> rfl
@[simp] theorem retire_burst : (t.retire).burst = t.burst := by unfold Thread.retire; dsimp only; split <;> rfl
@[simp] theorem retire_read : (t.retire).read = t.read := by unfold Thread.retire; dsimp only; split <;> rfl
@[simp] theorem retire_reserved : (t.retire).reserved = t.reserved := by unfold Thread.retire; dsimp only; split <;> rfl
@[simp] theorem retire_admitted : (t.retire).admitted = t.admitted := by unfold Thread.retire; dsimp only; split <;> rfl
@[simp] theorem retire_readyTime : (t.retire).readyTime = t.readyTime := by unfold Thread.retire; dsimp only; split <;> rfl
@[simp] theorem retire_effPrio : (t.retire).effPrio = t.effPrio := by unfold Thread.retire; dsimp only; split <;> rfl
@[simp] theorem retire_agedAt : (t.retire).agedAt = t.agedAt := by unfold Thread.retire; dsimp only; split <;> rfl
@[simp] theorem retire_turns : (t.retire).turns = t.turns := by unfold Thread.retire; dsimp only; split <;> rfl
@[simp] theorem retire_stall : (t.retire).stall = t.stall := by unfold Thread.retire; dsimp only; split <;> rfl
@[simp] theorem retire_wait : (t.retire).wait = t.wait := by unfold Thread.retire; dsimp only; split <;> rfl
@[simp] theorem retire_deadline : (t.retire).deadline = t.deadline := by unfold Thread.retire; dsimp only; split <;> rfl
@[simp] theorem retire_sleptAt : (t.retire).sleptAt = t.sleptAt := by unfold Thread.retire; dsimp only; split <;> rfl
@[simp] theorem retire_stub : (t.retire).stub = t.stub := by unfold Thread.retire; dsimp only; split <;> rfl
@[simp] theorem retire_stubFor : (t.retire).stubFor = t.stubFor := by unfold Thread.retire; dsimp only; split <;> rfl
@[simp] theorem retire_replyAddr : (t.retire).replyAddr = t.replyAddr := by unfold Thread.retire; dsimp only; split <;> rfl
@[simp] theorem retire_replyKey : (t.retire).replyKey = t.replyKey := by unfold Thread.retire; dsimp only; split <;> rfl
@[simp] theorem retire_pending : (t.retire).pending = t.pending := by unfold Thread.retire; dsimp only; split <;> rfl
@[simp] theorem retire_nanStop : (t.retire).nanStop = t.nanStop := by unfold Thread.retire; dsimp only; split <;> rfl
@[simp] theorem retire_skipBreak : (t.retire).skipBreak = t.skipBreak := by unfold Thread.retire; dsimp only; split <;> rfl
@[simp] theorem retire_ticket : (t.retire).ticket = t.ticket := by unfold Thread.retire; dsimp only; split <;> rfl
@[simp] theorem retire_abortReason : (t.retire).abortReason = t.abortReason := by unfold Thread.retire; dsimp only; split <;> rfl
@[simp] theorem retire_waveCore : (t.retire).waveCore = t.waveCore := by unfold Thread.retire; dsimp only; split <;> rfl
@[simp] theorem retire_voted : (t.retire).voted = t.voted := by unfold Thread.retire; dsimp only; split <;> rfl
@[simp] theorem retire_after : (t.retire).after = t.after := by unfold Thread.retire; dsimp only; split <;> rfl
@[simp] theorem retire_stale : (t.retire).stale = t.stale := by unfold Thread.retire; dsimp only; split <;> rfl
@[simp] theorem retire_bank : (t.retire).bank = t.bank := by unfold Thread.retire; dsimp only; split <;> rfl
@[simp] theorem retire_cbrTarget : (t.retire).cbrTarget = t.cbrTarget := by unfold Thread.retire; dsimp only; split <;> rfl
@[simp] theorem retire_spSleep : (t.retire).spSleep = t.spSleep := by unfold Thread.retire; dsimp only; split <;> rfl
@[simp] theorem retire_ending : (t.retire).ending = t.ending := by unfold Thread.retire; dsimp only; split <;> rfl
@[simp] theorem retire_ownEnd : (t.retire).ownEnd = t.ownEnd := by unfold Thread.retire; dsimp only; split <;> rfl
@[simp] theorem retire_stopping : (t.retire).stopping = t.stopping := by unfold Thread.retire; dsimp only; split <;> rfl
@[simp] theorem retire_startAfter : (t.retire).startAfter = t.startAfter := by unfold Thread.retire; dsimp only; split <;> rfl
@[simp] theorem retire_bySave : (t.retire).bySave = t.bySave := by unfold Thread.retire; dsimp only; split <;> rfl
@[simp] theorem retire_word : (t.retire).word = t.word := by unfold Thread.retire; dsimp only; split <;> rfl
@[simp] theorem retire_buffer : (t.retire).buffer = t.buffer := by unfold Thread.retire; dsimp only; split <;> rfl
@[simp] theorem retire_wavePkg : (t.retire).wavePkg = t.wavePkg := by unfold Thread.retire; dsimp only; split <;> rfl
@[simp] theorem retire_targets : (t.retire).targets = t.targets := by unfold Thread.retire; dsimp only; split <;> rfl
@[simp] theorem retire_nanLater : (t.retire).nanLater = t.nanLater := by unfold Thread.retire; dsimp only; split <;> rfl
@[simp] theorem retire_pcWritten : (t.retire).pcWritten = t.pcWritten := by unfold Thread.retire; dsimp only; split <;> rfl

@[simp] theorem unbound_st : (t.unbound).st = t.st := rfl
@[simp] theorem unbound_prior : (t.unbound).prior = t.prior := rfl
@[simp] theorem unbound_fcode : (t.unbound).fcode = t.fcode := rfl
@[simp] theorem unbound_pc : (t.unbound).pc = t.pc := rfl
@[simp] theorem unbound_g : (t.unbound).g = t.g := rfl
@[simp] theorem unbound_v : (t.unbound).v = t.v := rfl
@[simp] theorem unbound_k : (t.unbound).k = t.k := rfl
@[simp] theorem unbound_b : (t.unbound).b = t.b := rfl
@[simp] theorem unbound_w : (t.unbound).w = t.w := rfl
@[simp] theorem unbound_tid : (t.unbound).tid = t.tid := rfl
@[simp] theorem unbound_wid : (t.unbound).wid = t.wid := rfl
@[simp] theorem unbound_job : (t.unbound).job = t.job := rfl
@[simp] theorem unbound_flags : (t.unbound).flags = t.flags := rfl
@[simp] theorem unbound_faultrec : (t.unbound).faultrec = t.faultrec := rfl
@[simp] theorem unbound_auth : (t.unbound).auth = t.auth := rfl
@[simp] theorem unbound_troot : (t.unbound).troot = t.troot := rfl
@[simp] theorem unbound_prio : (t.unbound).prio = t.prio := rfl
@[simp] theorem unbound_nanctl : (t.unbound).nanctl = t.nanctl := rfl
@[simp] theorem unbound_cabort : (t.unbound).cabort = t.cabort := rfl
@[simp] theorem unbound_ctimeout : (t.unbound).ctimeout = t.ctimeout := rfl
@[simp] theorem unbound_cmem : (t.unbound).cmem = t.cmem := rfl
@[simp] theorem unbound_bx : (t.unbound).bx = t.bx := rfl
@[simp] theorem unbound_by' : (t.unbound).by' = t.by' := rfl
@[simp] theorem unbound_bseq : (t.unbound).bseq = t.bseq := rfl
@[simp] theorem unbound_blen : (t.unbound).blen = t.blen := rfl
@[simp] theorem unbound_xbatch : (t.unbound).xbatch = t.xbatch := rfl
@[simp] theorem unbound_batchNo : (t.unbound).batchNo = t.batchNo := rfl
@[simp] theorem unbound_pfxst : (t.unbound).pfxst = t.pfxst := rfl
@[simp] theorem unbound_modBad : (t.unbound).modBad = t.modBad := rfl
@[simp] theorem unbound_hintBad : (t.unbound).hintBad = t.hintBad := rfl
@[simp] theorem unbound_pfxAt : (t.unbound).pfxAt = t.pfxAt := rfl
@[simp] theorem unbound_loopst : (t.unbound).loopst = t.loopst := rfl
@[simp] theorem unbound_loopb : (t.unbound).loopb = t.loopb := rfl
@[simp] theorem unbound_loopc : (t.unbound).loopc = t.loopc := rfl
@[simp] theorem unbound_retiring : (t.unbound).retiring = t.retiring := rfl
@[simp] theorem unbound_redpend : (t.unbound).redpend = t.redpend := rfl
@[simp] theorem unbound_storeAck : (t.unbound).storeAck = t.storeAck := rfl
@[simp] theorem unbound_roaming : (t.unbound).roaming = t.roaming := rfl
@[simp] theorem unbound_burst : (t.unbound).burst = t.burst := rfl
@[simp] theorem unbound_read : (t.unbound).read = t.read := rfl
@[simp] theorem unbound_reserved : (t.unbound).reserved = t.reserved := rfl
@[simp] theorem unbound_admitted : (t.unbound).admitted = t.admitted := rfl
@[simp] theorem unbound_readyTime : (t.unbound).readyTime = t.readyTime := rfl
@[simp] theorem unbound_effPrio : (t.unbound).effPrio = t.effPrio := rfl
@[simp] theorem unbound_agedAt : (t.unbound).agedAt = t.agedAt := rfl
@[simp] theorem unbound_wait : (t.unbound).wait = t.wait := rfl
@[simp] theorem unbound_deadline : (t.unbound).deadline = t.deadline := rfl
@[simp] theorem unbound_sleptAt : (t.unbound).sleptAt = t.sleptAt := rfl
@[simp] theorem unbound_stub : (t.unbound).stub = t.stub := rfl
@[simp] theorem unbound_stubFor : (t.unbound).stubFor = t.stubFor := rfl
@[simp] theorem unbound_replyAddr : (t.unbound).replyAddr = t.replyAddr := rfl
@[simp] theorem unbound_replyKey : (t.unbound).replyKey = t.replyKey := rfl
@[simp] theorem unbound_pending : (t.unbound).pending = t.pending := rfl
@[simp] theorem unbound_nanStop : (t.unbound).nanStop = t.nanStop := rfl
@[simp] theorem unbound_skipBreak : (t.unbound).skipBreak = t.skipBreak := rfl
@[simp] theorem unbound_lastTag : (t.unbound).lastTag = t.lastTag := rfl
@[simp] theorem unbound_ticket : (t.unbound).ticket = t.ticket := rfl
@[simp] theorem unbound_abortReason : (t.unbound).abortReason = t.abortReason := rfl
@[simp] theorem unbound_waveCore : (t.unbound).waveCore = t.waveCore := rfl
@[simp] theorem unbound_voted : (t.unbound).voted = t.voted := rfl
@[simp] theorem unbound_after : (t.unbound).after = t.after := rfl
@[simp] theorem unbound_stale : (t.unbound).stale = t.stale := rfl
@[simp] theorem unbound_inHand : (t.unbound).inHand = t.inHand := rfl
@[simp] theorem unbound_bank : (t.unbound).bank = t.bank := rfl
@[simp] theorem unbound_cbrTarget : (t.unbound).cbrTarget = t.cbrTarget := rfl
@[simp] theorem unbound_spSleep : (t.unbound).spSleep = t.spSleep := rfl
@[simp] theorem unbound_ending : (t.unbound).ending = t.ending := rfl
@[simp] theorem unbound_ownEnd : (t.unbound).ownEnd = t.ownEnd := rfl
@[simp] theorem unbound_stopping : (t.unbound).stopping = t.stopping := rfl
@[simp] theorem unbound_startAfter : (t.unbound).startAfter = t.startAfter := rfl
@[simp] theorem unbound_bySave : (t.unbound).bySave = t.bySave := rfl
@[simp] theorem unbound_word : (t.unbound).word = t.word := rfl
@[simp] theorem unbound_wavePkg : (t.unbound).wavePkg = t.wavePkg := rfl
@[simp] theorem unbound_nanLater : (t.unbound).nanLater = t.nanLater := rfl
@[simp] theorem unbound_pcWritten : (t.unbound).pcWritten = t.pcWritten := rfl

@[simp] theorem leave_prior (st : TState) (w : Wait) : (t.leave st w).prior = t.prior := rfl
@[simp] theorem leave_fcode (st : TState) (w : Wait) : (t.leave st w).fcode = t.fcode := rfl
@[simp] theorem leave_pc (st : TState) (w : Wait) : (t.leave st w).pc = t.pc := rfl
@[simp] theorem leave_g (st : TState) (w : Wait) : (t.leave st w).g = t.g := rfl
@[simp] theorem leave_v (st : TState) (w : Wait) : (t.leave st w).v = t.v := rfl
@[simp] theorem leave_k (st : TState) (w : Wait) : (t.leave st w).k = t.k := rfl
@[simp] theorem leave_b (st : TState) (w : Wait) : (t.leave st w).b = t.b := rfl
@[simp] theorem leave_w (st : TState) (w : Wait) : (t.leave st w).w = t.w := rfl
@[simp] theorem leave_tid (st : TState) (w : Wait) : (t.leave st w).tid = t.tid := rfl
@[simp] theorem leave_wid (st : TState) (w : Wait) : (t.leave st w).wid = t.wid := rfl
@[simp] theorem leave_job (st : TState) (w : Wait) : (t.leave st w).job = t.job := rfl
@[simp] theorem leave_flags (st : TState) (w : Wait) : (t.leave st w).flags = t.flags := rfl
@[simp] theorem leave_faultrec (st : TState) (w : Wait) : (t.leave st w).faultrec = t.faultrec := rfl
@[simp] theorem leave_auth (st : TState) (w : Wait) : (t.leave st w).auth = t.auth := rfl
@[simp] theorem leave_troot (st : TState) (w : Wait) : (t.leave st w).troot = t.troot := rfl
@[simp] theorem leave_prio (st : TState) (w : Wait) : (t.leave st w).prio = t.prio := rfl
@[simp] theorem leave_nanctl (st : TState) (w : Wait) : (t.leave st w).nanctl = t.nanctl := rfl
@[simp] theorem leave_cabort (st : TState) (w : Wait) : (t.leave st w).cabort = t.cabort := rfl
@[simp] theorem leave_ctimeout (st : TState) (w : Wait) : (t.leave st w).ctimeout = t.ctimeout := rfl
@[simp] theorem leave_cmem (st : TState) (w : Wait) : (t.leave st w).cmem = t.cmem := rfl
@[simp] theorem leave_bx (st : TState) (w : Wait) : (t.leave st w).bx = t.bx := rfl
@[simp] theorem leave_by' (st : TState) (w : Wait) : (t.leave st w).by' = t.by' := rfl
@[simp] theorem leave_bseq (st : TState) (w : Wait) : (t.leave st w).bseq = t.bseq := rfl
@[simp] theorem leave_blen (st : TState) (w : Wait) : (t.leave st w).blen = t.blen := rfl
@[simp] theorem leave_xbatch (st : TState) (w : Wait) : (t.leave st w).xbatch = t.xbatch := rfl
@[simp] theorem leave_batchNo (st : TState) (w : Wait) : (t.leave st w).batchNo = t.batchNo := rfl
@[simp] theorem leave_pfxst (st : TState) (w : Wait) : (t.leave st w).pfxst = t.pfxst := rfl
@[simp] theorem leave_modBad (st : TState) (w : Wait) : (t.leave st w).modBad = t.modBad := rfl
@[simp] theorem leave_hintBad (st : TState) (w : Wait) : (t.leave st w).hintBad = t.hintBad := rfl
@[simp] theorem leave_pfxAt (st : TState) (w : Wait) : (t.leave st w).pfxAt = t.pfxAt := rfl
@[simp] theorem leave_loopst (st : TState) (w : Wait) : (t.leave st w).loopst = t.loopst := rfl
@[simp] theorem leave_loopb (st : TState) (w : Wait) : (t.leave st w).loopb = t.loopb := rfl
@[simp] theorem leave_loopc (st : TState) (w : Wait) : (t.leave st w).loopc = t.loopc := rfl
@[simp] theorem leave_retiring (st : TState) (w : Wait) : (t.leave st w).retiring = t.retiring := rfl
@[simp] theorem leave_redpend (st : TState) (w : Wait) : (t.leave st w).redpend = t.redpend := rfl
@[simp] theorem leave_storeAck (st : TState) (w : Wait) : (t.leave st w).storeAck = t.storeAck := rfl
@[simp] theorem leave_roaming (st : TState) (w : Wait) : (t.leave st w).roaming = t.roaming := rfl
@[simp] theorem leave_burst (st : TState) (w : Wait) : (t.leave st w).burst = t.burst := rfl
@[simp] theorem leave_read (st : TState) (w : Wait) : (t.leave st w).read = t.read := rfl
@[simp] theorem leave_reserved (st : TState) (w : Wait) : (t.leave st w).reserved = t.reserved := rfl
@[simp] theorem leave_admitted (st : TState) (w : Wait) : (t.leave st w).admitted = t.admitted := rfl
@[simp] theorem leave_readyTime (st : TState) (w : Wait) : (t.leave st w).readyTime = t.readyTime := rfl
@[simp] theorem leave_effPrio (st : TState) (w : Wait) : (t.leave st w).effPrio = t.effPrio := rfl
@[simp] theorem leave_agedAt (st : TState) (w : Wait) : (t.leave st w).agedAt = t.agedAt := rfl
@[simp] theorem leave_deadline (st : TState) (w : Wait) : (t.leave st w).deadline = t.deadline := rfl
@[simp] theorem leave_sleptAt (st : TState) (w : Wait) : (t.leave st w).sleptAt = t.sleptAt := rfl
@[simp] theorem leave_stub (st : TState) (w : Wait) : (t.leave st w).stub = t.stub := rfl
@[simp] theorem leave_stubFor (st : TState) (w : Wait) : (t.leave st w).stubFor = t.stubFor := rfl
@[simp] theorem leave_replyAddr (st : TState) (w : Wait) : (t.leave st w).replyAddr = t.replyAddr := rfl
@[simp] theorem leave_replyKey (st : TState) (w : Wait) : (t.leave st w).replyKey = t.replyKey := rfl
@[simp] theorem leave_pending (st : TState) (w : Wait) : (t.leave st w).pending = t.pending := rfl
@[simp] theorem leave_nanStop (st : TState) (w : Wait) : (t.leave st w).nanStop = t.nanStop := rfl
@[simp] theorem leave_skipBreak (st : TState) (w : Wait) : (t.leave st w).skipBreak = t.skipBreak := rfl
@[simp] theorem leave_lastTag (st : TState) (w : Wait) : (t.leave st w).lastTag = t.lastTag := rfl
@[simp] theorem leave_ticket (st : TState) (w : Wait) : (t.leave st w).ticket = t.ticket := rfl
@[simp] theorem leave_abortReason (st : TState) (w : Wait) : (t.leave st w).abortReason = t.abortReason := rfl
@[simp] theorem leave_waveCore (st : TState) (w : Wait) : (t.leave st w).waveCore = t.waveCore := rfl
@[simp] theorem leave_voted (st : TState) (w : Wait) : (t.leave st w).voted = t.voted := rfl
@[simp] theorem leave_after (st : TState) (w : Wait) : (t.leave st w).after = t.after := rfl
@[simp] theorem leave_stale (st : TState) (w : Wait) : (t.leave st w).stale = t.stale := rfl
@[simp] theorem leave_inHand (st : TState) (w : Wait) : (t.leave st w).inHand = t.inHand := rfl
@[simp] theorem leave_bank (st : TState) (w : Wait) : (t.leave st w).bank = t.bank := rfl
@[simp] theorem leave_cbrTarget (st : TState) (w : Wait) : (t.leave st w).cbrTarget = t.cbrTarget := rfl
@[simp] theorem leave_spSleep (st : TState) (w : Wait) : (t.leave st w).spSleep = t.spSleep := rfl
@[simp] theorem leave_ending (st : TState) (w : Wait) : (t.leave st w).ending = t.ending := rfl
@[simp] theorem leave_ownEnd (st : TState) (w : Wait) : (t.leave st w).ownEnd = t.ownEnd := rfl
@[simp] theorem leave_stopping (st : TState) (w : Wait) : (t.leave st w).stopping = t.stopping := rfl
@[simp] theorem leave_startAfter (st : TState) (w : Wait) : (t.leave st w).startAfter = t.startAfter := rfl
@[simp] theorem leave_bySave (st : TState) (w : Wait) : (t.leave st w).bySave = t.bySave := rfl
@[simp] theorem leave_word (st : TState) (w : Wait) : (t.leave st w).word = t.word := rfl
@[simp] theorem leave_wavePkg (st : TState) (w : Wait) : (t.leave st w).wavePkg = t.wavePkg := rfl
@[simp] theorem leave_nanLater (st : TState) (w : Wait) : (t.leave st w).nanLater = t.nanLater := rfl
@[simp] theorem leave_pcWritten (st : TState) (w : Wait) : (t.leave st w).pcWritten = t.pcWritten := rfl

end Sys2Proof.Machine
end

