-- ==== Sys2Proof/Laws/Tables.lean ====
section
/-!
SUPPORT. The sparse tables, and through them the cores, threads, tiles and dies: reading after an update gives what was put there, and every other
entry stands.
-/

namespace Sys2Proof.Machine

/-! ## Tables -/

@[simp] theorem look_insert_same {α : Type} (l : Assoc α) (k : Nat) (x : α) : Assoc.look (Assoc.insert l k x) k = some x := by
  induction l with
  | nil => simp [Assoc.insert, Assoc.look]
  | cons p l ih =>
    obtain ⟨j, y⟩ := p
    unfold Assoc.insert
    split
    · simp [Assoc.look]
    · split
      · simp [Assoc.look]
      · rename_i h1 h2
        simp [Assoc.look, ih, Ne.symm h2]

theorem look_insert_other {α : Type} (l : Assoc α) {k j : Nat} (x : α) (h : j ≠ k) : Assoc.look (Assoc.insert l k x) j = Assoc.look l j := by
  induction l with
  | nil => simp [Assoc.insert, Assoc.look, Ne.symm h]
  | cons p l ih =>
    obtain ⟨i, y⟩ := p
    unfold Assoc.insert
    split
    · simp [Assoc.look, Ne.symm h]
    · split
      · rename_i h1 h2
        subst h2
        simp [Assoc.look, Ne.symm h]
      · simp [Assoc.look, ih]

@[simp] theorem getD_insert_same {α : Type} (l : Assoc α) (k : Nat) (x d : α) : Assoc.getD (Assoc.insert l k x) k d = x := by
  simp [Assoc.getD]

theorem getD_insert_other {α : Type} (l : Assoc α) {k j : Nat} (x d : α) (h : j ≠ k) :
    Assoc.getD (Assoc.insert l k x) j d = Assoc.getD l j d := by
  simp [Assoc.getD, look_insert_other l x h]

/-! ## Cores and threads -/

variable (s : State)

@[simp] theorem core_setCore_same (i : Nat) (c : Core) : (s.setCore i c).core i = c := getD_insert_same _ _ _ _

theorem core_setCore_other {i j : Nat} (c : Core) (h : j ≠ i) : (s.setCore i c).core j = s.core j := getD_insert_other _ _ _ h

theorem tile_setTile_other {i j : Nat} (x : Tile) (h : j ≠ i) : (s.setTile i x).tile j = s.tile j := getD_insert_other _ _ _ h

@[simp] theorem tile_setTile_same (i : Nat) (x : Tile) : (s.setTile i x).tile i = x := getD_insert_same _ _ _ _

@[simp] theorem die_setDie_same (i : Nat) (x : Die) : (s.setDie i x).die i = x := getD_insert_same _ _ _ _

theorem die_setDie_other {i j : Nat} (x : Die) (h : j ≠ i) : (s.setDie i x).die j = s.die j := getD_insert_other _ _ _ h

@[simp] theorem thread_setThread_same (i j : Nat) (t : Thread) : (s.setThread i j t).thread i j = t := by
  simp [State.thread, State.setThread]

theorem thread_setThread_other {i j i' j' : Nat} (t : Thread) (h : (i', j') ≠ (i, j)) : (s.setThread i j t).thread i' j' = s.thread i' j' := by
  unfold State.thread State.setThread
  by_cases hi : i' = i
  · subst hi
    have hj : j' ≠ j := fun e => h (by rw [e])
    rw [core_setCore_same]
    exact getD_insert_other _ _ _ hj
  · rw [core_setCore_other s _ hi]

@[simp] theorem cur_setCur (t : Thread) : (s.setCur t).cur = t := thread_setThread_same _ _ _ _

@[simp] theorem cur_modCur (f : Thread → Thread) : (s.modCur f).cur = f s.cur := cur_setCur _ _

theorem thread_modCur_other (f : Thread → Thread) {i j : Nat} (h : (i, j) ≠ (s.focus.core, s.focus.ctx)) :
    (s.modCur f).thread i j = s.thread i j := thread_setThread_other _ _ h

@[simp] theorem cur_retire : s.retire.cur = s.cur.retire := cur_modCur _ _
@[simp] theorem cur_result (d : GReg) (x : Dword) : (s.result d x).cur = (s.cur.wg d x).retire := cur_modCur _ _
@[simp] theorem cur_wait (w : Wait) : (s.wait w).cur = s.cur.leave .waiting { w with since := s.cycle, first := s.nextId } := cur_modCur _ _

/-! ## What a core or thread update leaves alone: the bytes of memory -/

/-- A byte depends on the memory, the tags of its sectors, the key slots, the tiles, and the pages that move. -/
theorem byte_congr {s t : State} (h1 : t.mem = s.mem) (h2 : t.sectors = s.sectors) (h3 : t.keys = s.keys) (h4 : t.tiles = s.tiles)
    (h5 : t.moves = s.moves) (h6 : t.pkg = s.pkg) (a k : Nat) : t.byte a k = s.byte a k := by
  cases s; cases t
  dsimp only at h1 h2 h3 h4 h5 h6
  subst h1 h2 h3 h4 h5 h6
  rfl

@[simp] theorem byte_setCore (i : Nat) (c : Core) (a k : Nat) : (s.setCore i c).byte a k = s.byte a k := byte_congr rfl rfl rfl rfl rfl rfl a k
@[simp] theorem byte_modCur (f : Thread → Thread) (a k : Nat) : (s.modCur f).byte a k = s.byte a k := byte_congr rfl rfl rfl rfl rfl rfl a k
@[simp] theorem byte_result (d : GReg) (x : Dword) (a k : Nat) : (s.result d x).byte a k = s.byte a k := byte_congr rfl rfl rfl rfl rfl rfl a k

/-! ## Registers of a thread -/

/-- Reading a register after a write of one. -/
theorem rg_wg (t : Thread) (d r : GReg) (x : Dword) : (t.wg d x).rg r = if r = d ∧ d ≠ 0 then x else t.rg r := by
  unfold Thread.rg Thread.wg
  by_cases hr : r = 0
  · subst hr
    by_cases hd : d = 0
    · simp [hd]
    · have : ¬ (0 : GReg) = d := fun e => hd e.symm
      simp [hd, this]
  · by_cases hd : d = 0
    · simp [hd]
    · by_cases e : r = d
      · subst e; simp [hr]
      · have e' : ¬ d.val = r.val := fun h => e (Fin.ext h.symm)
        simp [hr, hd, e, e']

/-- g0 reads as zero (R25). -/
@[simp] theorem rg_zero (t : Thread) : t.rg 0 = 0 := rfl

/-- A write of g0 is ignored (R25). -/
@[simp] theorem wg_zero (t : Thread) (x : Dword) : t.wg 0 x = t := rfl

/-- Completing leaves the general registers. -/
@[simp] theorem rg_retire (t : Thread) (r : GReg) : t.retire.rg r = t.rg r := by
  simp [Thread.rg]

@[simp] theorem retire_pfxst (t : Thread) : t.retire.pfxst = 0 := by
  unfold Thread.retire; dsimp only; split <;> rfl

@[simp] theorem atLoopEnd_wg (t : Thread) (d : GReg) (x : Dword) : (t.wg d x).atLoopEnd = t.atLoopEnd := by
  unfold Thread.wg; split <;> rfl

theorem retire_pc (t : Thread) : t.retire.pc = if t.atLoopEnd then t.pc else t.pc + 4 := by
  unfold Thread.retire; dsimp only
  have : t.consume.atLoopEnd = t.atLoopEnd := rfl
  rw [this]; cases t.atLoopEnd <;> rfl

theorem retire_retiring (t : Thread) : t.retire.retiring = (t.atLoopEnd || t.retiring) := by
  unfold Thread.retire; dsimp only
  have : t.consume.atLoopEnd = t.atLoopEnd := rfl
  rw [this]; cases t.atLoopEnd <;> simp [Thread.consume]

end Sys2Proof.Machine
end

