-- ==== Sys2Proof/Laws/Issue.lean ====
section
/-!
SUPPORT. Issuing an instruction (R168): where an instruction is admitted it has its own effect, and otherwise it takes the first fault of R168's
order or waits for the verdict of run-ahead.
-/

namespace Sys2Proof.Machine

/-- An admitted instruction has its own effect. -/
theorem issueWith_admits {s : State} {a : Attrs} {regs : List GReg} (h : s.admits a regs = true) (f : State → State) :
    s.issueWith a regs f = f s := by
  simp only [State.admits, Bool.and_eq_true, Bool.not_eq_true'] at h
  obtain ⟨⟨⟨h1, h2⟩, h3⟩, h4⟩ := h
  unfold State.issueWith
  rw [if_neg, if_neg, if_neg, if_neg]
  · simpa using h1
  · rw [h4]; decide
  · rw [h3]; decide
  · rw [h2]; decide

/-- The outcome of an admitted instruction. -/
theorem issue_admits {s : State} {a : Attrs} {regs : List GReg} (h : s.admits a regs = true) (f : State → State) :
    issue a regs s f = .next (f s) := congrArg Host.Outcome.next (issueWith_admits h f)

/-- Issuing always answers a next state. -/
theorem issue_next (a : Attrs) (regs : List GReg) (s : State) (f : State → State) : issue a regs s f = .next (s.issueWith a regs f) := rfl

/-! ## Checked accesses -/

theorem atOwner_stays {s : State} {pa : Nat} (h : s.stays pa = true) (f : State → State) : s.atOwner pa f = f s := by
  unfold State.stays at h
  unfold State.atOwner
  by_cases hr : s.cur.roaming = true
  · rw [if_pos hr]
    cases hc : ownerCore (gpaLocal pa) with
    | none => rfl
    | some c =>
      simp only [hr, hc, Bool.not_true, Bool.false_or, Bool.and_eq_true, decide_eq_true_eq] at h
      exact if_pos h
  · rw [if_neg hr]

theorem viaNets_zero (s : State) (ea : Dword) (f : State → State) : s.viaNets 0 ea f = f s := if_neg fun h => h.1 rfl

theorem viaNet_admits {s : State} {p : Nat} (h : s.netAdmits p = true) (ea : Dword) (f : State → State) : s.viaNet p ea f = f s := by
  simp only [State.netAdmits, Bool.or_eq_true, decide_eq_true_eq, Bool.not_eq_true'] at h
  unfold State.viaNet
  by_cases hp : p = s.pkg
  · rw [if_pos hp]; exact viaNets_zero s ea f
  · rw [if_neg hp]; exact if_neg fun b => by rcases h with h | h; exact hp h; rw [h] at b; exact absurd b.2 (by decide)

theorem withAccess_ok {s : State} {ea : Dword} {n : Nat} {r w : Bool} {x : Access} (h : s.checkCur ea n r w = .ok x) (f : Access → State) : s.withAccess ea n r w f = f x := by
  unfold State.withAccess; rw [h]

theorem withAccess_fault {s : State} {ea : Dword} {n : Nat} {r w : Bool} {c : BitVec 8} {w4 : Dword} (h : s.checkCur ea n r w = .fault c w4) (f : Access → State) : s.withAccess ea n r w f = s.raise c ea w4 0 := by
  unfold State.withAccess; rw [h]

theorem loadScalar_ok {s : State} {ea : Dword} {n : Nat} {x : Access} (h2 : s.checkCur ea n true false = .ok x) (h3 : isDevice x.pa = true → 4 ≤ n) (h4 : s.stays x.pa = true) (dst : Dest) (acq nol1 : Bool) :
    s.loadScalar ea n dst acq nol1 = s.loadPieces ea [({ lane := 0, pa := x.pa, size := n, va := ea }, x.key)] dst acq nol1 true := by
  unfold State.loadScalar
  rw [withAccess_ok h2, if_neg (by rintro ⟨a, b⟩; have := h3 a; omega), atOwner_stays h4]

theorem storeReqs_one {s : State} {r : StoreReq} (hb : s.cur.bank = none) (ha : s.cur.storeAck < 64) (hn : s.netAdmits (gpaPkg ((r.bytes.headD (0, 0)).1)) = true) (hl : r.lane = 0) (ea : Dword) (held : List StoreReq) (now : Bool) :
    s.storeReqs ea [r] held now = ((s.modCur fun t => Thread.retire { t with storeAck := t.storeAck + 1 }).sendStore { s.curOrigin.ticketed s.cur with ea := r.ea } r.bytes r.key now false) := by
  unfold State.storeReqs
  dsimp only
  rw [hb]; dsimp only
  rw [if_neg (by simp [Config.storeCap]; omega)]
  have hv : (List.filter (fun r : StoreReq => gpaPkg ((r.bytes.headD (0, 0)).1) != s.pkg) [r]).length =
      if gpaPkg ((r.bytes.headD (0, 0)).1) = s.pkg then 0 else 1 := by
    simp only [List.filter_cons, List.filter_nil]
    generalize gpaPkg ((r.bytes.headD (0, 0)).1) = q
    by_cases hp : q = s.pkg <;> simp [hp]
  rw [hv]
  refine (viaNet_admits hn ea _).trans ?_
  simp only [List.foldl, List.length_singleton]
  rw [hl]; rfl

theorem storeBytes_head (pa n : Nat) (x : Dword) (h : n ∈ [1,2,4,8]) : ((storeBytes pa n x).headD (0,0)).1 = pa := by
  simp only [List.mem_cons, List.not_mem_nil, or_false] at h
  rcases h with rfl|rfl|rfl|rfl <;> simp [storeBytes, atAddrs, addrs, leBytes, List.range_succ]


/-- Equal next states are equal outcomes. -/
theorem next_eq {s t : State} (h : s = t) : (Host.Outcome.next s : Host.Outcome State Fault Refusal) = .next t := congrArg _ h

end Sys2Proof.Machine
end

