-- ==== Sys2Proof/Laws/Memory.lean ====
section
/-!
SUPPORT. Memory: a cell reads back as written and no other cell changes; every operation that the model changes memory by keeps the canonical form, and
so do the byte, value and sector writes built on them.
-/

namespace Sys2Proof.Machine

/-! ## Cells -/

theorem Memory.wfAbove_mono {lo hi : Nat} {m : List Host.Cell} (h : lo ≤ hi) (hm : Memory.wfAbove hi m = true) : Memory.wfAbove lo m = true := by
  cases m with
  | nil => rfl
  | cons c m =>
    simp only [Memory.wfAbove, Bool.and_eq_true, decide_eq_true_eq] at hm ⊢
    exact ⟨⟨by omega, hm.1.2⟩, hm.2⟩

theorem Memory.write_wfAbove (m : List Host.Cell) (lo a : Nat) (b : Byte) (h : lo ≤ a) (hm : Memory.wfAbove lo m = true) :
    Memory.wfAbove lo (Memory.write m a b) = true := by
  induction m generalizing lo with
  | nil =>
    unfold Memory.write
    by_cases hb : b = 0
    · rw [if_pos hb]; rfl
    · rw [if_neg hb]
      simp only [Memory.wfAbove, Bool.and_eq_true, decide_eq_true_eq, and_true]
      exact ⟨h, bne_iff_ne.mpr hb⟩
  | cons c m ih =>
    obtain ⟨k, c⟩ := c
    simp only [Memory.wfAbove, Bool.and_eq_true, decide_eq_true_eq] at hm
    unfold Memory.write
    by_cases h1 : a < k
    · rw [if_pos h1]
      by_cases hb : b = 0
      · rw [if_pos hb]
        simp only [Memory.wfAbove, Bool.and_eq_true, decide_eq_true_eq]
        exact hm
      · rw [if_neg hb]
        simp only [Memory.wfAbove, Bool.and_eq_true, decide_eq_true_eq]
        exact ⟨⟨h, bne_iff_ne.mpr hb⟩, ⟨by omega, hm.1.2⟩, hm.2⟩
    · rw [if_neg h1]
      by_cases h2 : a = k
      · rw [if_pos h2]
        subst h2
        by_cases hb : b = 0
        · rw [if_pos hb]
          exact Memory.wfAbove_mono (by omega) hm.2
        · rw [if_neg hb]
          simp only [Memory.wfAbove, Bool.and_eq_true, decide_eq_true_eq]
          exact ⟨⟨h, bne_iff_ne.mpr hb⟩, hm.2⟩
      · rw [if_neg h2]
        simp only [Memory.wfAbove, Bool.and_eq_true, decide_eq_true_eq]
        exact ⟨hm.1, ih (k + 1) (by omega) hm.2⟩

/-- A write keeps the canonical form. -/
theorem Memory.write_wf (m : List Host.Cell) (a : Nat) (b : Byte) (hm : Memory.wf m = true) : Memory.wf (Memory.write m a b) = true :=
  Memory.write_wfAbove m 0 a b (Nat.zero_le a) hm

theorem Memory.read_below (m : List Host.Cell) (lo a : Nat) (h : a < lo) (hm : Memory.wfAbove lo m = true) : Memory.read m a = 0 := by
  induction m generalizing lo with
  | nil => rfl
  | cons c m ih =>
    simp only [Memory.wfAbove, Bool.and_eq_true, decide_eq_true_eq] at hm
    unfold Memory.read
    rw [if_neg (by omega)]
    exact ih (c.1 + 1) (by omega) hm.2

theorem Memory.read_cons_self (m : List Host.Cell) (a : Nat) (b : Byte) : Memory.read ((a, b) :: m) a = b := if_pos rfl

theorem Memory.read_cons_ne (m : List Host.Cell) (k a : Nat) (b : Byte) (h : k ≠ a) : Memory.read ((k, b) :: m) a = Memory.read m a := if_neg h

/-- A cell of memory in canonical form reads back as it was written. -/
theorem Memory.read_write_same (m : List Host.Cell) (a : Nat) (b : Byte) (hm : Memory.wf m = true) : Memory.read (Memory.write m a b) a = b := by
  suffices H : ∀ lo, Memory.wfAbove lo m = true → Memory.read (Memory.write m a b) a = b from H 0 hm
  clear hm
  induction m with
  | nil =>
    intro lo _
    unfold Memory.write
    by_cases hb : b = 0
    · rw [if_pos hb, hb]; rfl
    · rw [if_neg hb]; exact Memory.read_cons_self _ _ _
  | cons c m ih =>
    intro lo hm
    obtain ⟨k, c⟩ := c
    simp only [Memory.wfAbove, Bool.and_eq_true, decide_eq_true_eq] at hm
    unfold Memory.write
    by_cases h1 : a < k
    · rw [if_pos h1]
      by_cases hb : b = 0
      · rw [if_pos hb, hb, Memory.read_cons_ne _ _ _ _ (by omega)]
        exact Memory.read_below m (k + 1) a (by omega) hm.2
      · rw [if_neg hb, Memory.read_cons_self]
    · rw [if_neg h1]
      by_cases h2 : a = k
      · rw [if_pos h2]
        by_cases hb : b = 0
        · rw [if_pos hb, hb]
          exact Memory.read_below m (k + 1) a (by omega) hm.2
        · rw [if_neg hb, Memory.read_cons_self]
      · rw [if_neg h2, Memory.read_cons_ne _ _ _ _ fun e => h2 e.symm]
        exact ih (k + 1) hm.2

/-- A write leaves every other cell alone. -/
theorem Memory.read_write_other (m : List Host.Cell) (a x : Nat) (b : Byte) (h : x ≠ a) : Memory.read (Memory.write m a b) x = Memory.read m x := by
  have hx : a ≠ x := fun e => h e.symm
  induction m with
  | nil =>
    unfold Memory.write
    by_cases hb : b = 0
    · rw [if_pos hb]
    · rw [if_neg hb, Memory.read_cons_ne _ _ _ _ hx]
  | cons c m ih =>
    obtain ⟨k, c⟩ := c
    unfold Memory.write
    by_cases h1 : a < k
    · rw [if_pos h1]
      by_cases hb : b = 0
      · rw [if_pos hb]
      · rw [if_neg hb, Memory.read_cons_ne _ _ _ _ hx]
    · rw [if_neg h1]
      by_cases h2 : a = k
      · rw [if_pos h2, Memory.read_cons_ne m k x c (h2 ▸ hx)]
        by_cases hb : b = 0
        · rw [if_pos hb]
        · rw [if_neg hb, Memory.read_cons_ne _ _ _ _ hx]
      · rw [if_neg h2]
        by_cases hk : k = x
        · subst hk; rw [Memory.read_cons_self, Memory.read_cons_self]
        · rw [Memory.read_cons_ne _ _ _ _ hk, Memory.read_cons_ne _ _ _ _ hk, ih]

theorem Memory.filter_wfAbove (m : List Host.Cell) (lo : Nat) (p : Host.Cell → Bool) (hm : Memory.wfAbove lo m = true) :
    Memory.wfAbove lo (m.filter p) = true := by
  induction m generalizing lo with
  | nil => rfl
  | cons c m ih =>
    simp only [Memory.wfAbove, Bool.and_eq_true, decide_eq_true_eq] at hm
    by_cases h : p c = true
    · rw [List.filter_cons_of_pos h]
      simp only [Memory.wfAbove, Bool.and_eq_true, decide_eq_true_eq]
      exact ⟨hm.1, ih _ hm.2⟩
    · rw [List.filter_cons_of_neg h]
      exact Memory.wfAbove_mono (by omega) (ih _ hm.2)

/-- Clearing a range keeps the canonical form. -/
theorem Memory.clear_wf (m : List Host.Cell) (lo n : Nat) (hm : Memory.wf m = true) : Memory.wf (Memory.clear m lo n) = true :=
  Memory.filter_wfAbove m 0 _ hm

/-- A fold of writes keeps the canonical form. -/
theorem Memory.foldl_write_wf {α : Type} (l : List α) (m : List Host.Cell) (a : α → Nat) (b : α → Byte) (hm : Memory.wf m = true) :
    Memory.wf (l.foldl (fun m x => Memory.write m (a x) (b x)) m) = true := by
  induction l generalizing m with
  | nil => exact hm
  | cons x l ih => exact ih _ (Memory.write_wf m (a x) (b x) hm)

/-- A fold of writes leaves the cells that it does not name alone. -/
theorem Memory.read_foldl_write_other {α : Type} (l : List α) (m : List Host.Cell) (a : α → Nat) (b : α → Byte) (x : Nat) (h : ∀ y ∈ l, x ≠ a y) :
    Memory.read (l.foldl (fun m x => Memory.write m (a x) (b x)) m) x = Memory.read m x := by
  induction l generalizing m with
  | nil => rfl
  | cons y l ih =>
    rw [List.foldl_cons, ih _ fun z hz => h z (List.mem_cons_of_mem _ hz)]
    exact Memory.read_write_other m (a y) x (b y) (h y List.mem_cons_self)

/-- Pasting a range keeps the canonical form. -/
theorem Memory.paste_wf (m : List Host.Cell) (lo n : Nat) (src : List Host.Cell) (hm : Memory.wf m = true) :
    Memory.wf (Memory.paste m lo n src) = true :=
  Memory.foldl_write_wf src _ (fun c => lo + c.1) (·.2) (Memory.clear_wf m lo n hm)

/-! ## Bytes of the package -/

/-- What the tag of a written sector changes: the sectors and the count of fillings alone. -/
theorem State.retag_eq (s : State) (a k : Nat) : s.retag a k = { s with sectors := (s.retag a k).sectors, fresh := (s.retag a k).fresh } := by
  unfold State.retag
  cases region a <;> rfl

@[simp] theorem State.retag_mem (s : State) (a k : Nat) : (s.retag a k).mem = s.mem := by rw [State.retag_eq]

theorem State.retag_wf (s : State) (a k : Nat) (h : Memory.wf s.mem = true) : Memory.wf (s.retag a k).mem = true := by
  rw [State.retag_mem]; exact h

/-- What one byte written at its place changes: memory, the sectors and the count of fillings alone. -/
theorem State.putRaw_eq (s : State) (a k : Nat) (b : Byte) :
    s.putRaw a k b = { s with mem := (s.putRaw a k b).mem, sectors := (s.putRaw a k b).sectors, fresh := (s.putRaw a k b).fresh } := by
  unfold State.putRaw
  rw [State.retag_eq]

theorem State.putRaw_wf (s : State) (a k : Nat) (b : Byte) (h : Memory.wf s.mem = true) : Memory.wf (s.putRaw a k b).mem = true :=
  Memory.write_wf _ _ _ (State.retag_wf s a _ h)

/-- What a byte write changes: memory, the sectors and the count of fillings alone. -/
theorem State.putByte_eq (s : State) (a k : Nat) (b : Byte) :
    s.putByte a k b = { s with mem := (s.putByte a k b).mem, sectors := (s.putByte a k b).sectors, fresh := (s.putByte a k b).fresh } := by
  unfold State.putByte
  by_cases h : (isReserved a || isSaveBlock a || isMailbox a) = true
  · rw [if_pos h]
  · rw [if_neg h]
    exact State.putRaw_eq _ _ _ _

theorem State.putByte_wf (s : State) (a k : Nat) (b : Byte) (h : Memory.wf s.mem = true) : Memory.wf (s.putByte a k b).mem = true := by
  unfold State.putByte
  by_cases hr : (isReserved a || isSaveBlock a || isMailbox a) = true
  · rw [if_pos hr]; exact h
  · rw [if_neg hr]; exact State.putRaw_wf _ _ _ _ h

/-- What a write of bytes changes: memory, the sectors and the count of fillings alone. -/
theorem State.putBytes_eq (s : State) (k : Nat) (bs : List (Nat × Byte)) :
    s.putBytes k bs = { s with mem := (s.putBytes k bs).mem, sectors := (s.putBytes k bs).sectors, fresh := (s.putBytes k bs).fresh } := by
  unfold State.putBytes
  induction bs generalizing s with
  | nil => rfl
  | cons b bs ih =>
    rw [List.foldl_cons, ih (s.putByte b.1 k b.2), State.putByte_eq]

theorem State.putBytes_wf (s : State) (k : Nat) (bs : List (Nat × Byte)) (h : Memory.wf s.mem = true) : Memory.wf (s.putBytes k bs).mem = true := by
  unfold State.putBytes
  induction bs generalizing s with
  | nil => exact h
  | cons b bs ih => exact ih _ (State.putByte_wf s b.1 k b.2 h)

theorem State.putVal_wf (s : State) (a n k v : Nat) (h : Memory.wf s.mem = true) : Memory.wf (s.putVal a n k v).mem = true :=
  State.putBytes_wf s k _ h

theorem State.putMailbox_wf (s : State) (a v : Nat) (h : Memory.wf s.mem = true) : Memory.wf (s.putMailbox a v).mem = true := by
  unfold State.putMailbox
  dsimp only
  generalize atAddrs (s.place a 0).1 (leBytes 4 v) = l
  generalize (s.place a 0).2 = k
  induction l generalizing s with
  | nil => exact h
  | cons b l ih => exact ih _ (State.putRaw_wf s b.1 k b.2 h)

/-! ## Reading after writing -/

@[simp] theorem Sector.write_tag (e : Option Sector) (tag fill i : Nat) : (Sector.write e tag fill i).tag = tag := by
  unfold Sector.write
  cases e with
  | none => rfl
  | some e => dsimp only; split <;> simp_all

theorem Sector.write_same (e : Option Sector) (tag fill : Nat) {i : Nat} (h : i < 64) : (Sector.write e tag fill i).written.getLsbD i = true := by
  unfold Sector.write
  cases e with
  | none => simp [h]
  | some e => dsimp only; split <;> simp [h]

/-- A byte reads back at its place under the key slot that it was written under. -/
theorem State.rawByte_putRaw_same (s : State) (a k : Nat) (b : Byte) (h : Memory.wf s.mem = true) : (s.putRaw a k b).rawByte a k = b := by
  have hk : (s.putRaw a k b).tag ((s.putRaw a k b).effKey k) = s.tag (s.effKey k) := by rw [State.putRaw_eq]; rfl
  have hm : Memory.read (s.putRaw a k b).mem a = b := Memory.read_write_same _ a b (State.retag_wf s a _ h)
  unfold State.rawByte
  cases hr : region a <;> try exact hm
  have hl : Assoc.look (s.putRaw a k b).sectors (a / 64) = some (Sector.write (Assoc.look s.sectors (a / 64)) (s.tag (s.effKey k)) (s.fresh + 1) (a % 64)) := by
    show Assoc.look (s.retag a _).sectors (a / 64) = _
    unfold State.retag
    simp only [hr]
    exact look_insert_same _ _ _
  simp only [hl, hk, Sector.write_tag, Sector.write_same _ _ _ (Nat.mod_lt a (by decide : 0 < 64)), hm, ne_eq, not_true, if_false, if_true]

/-- A byte in another sector stands. -/
theorem State.rawByte_putRaw_far (s : State) (a k x j : Nat) (b : Byte) (h : x / 64 ≠ a / 64) : (s.putRaw a k b).rawByte x j = s.rawByte x j := by
  have hk : (s.putRaw a k b).tag ((s.putRaw a k b).effKey j) = s.tag (s.effKey j) := by rw [State.putRaw_eq]; rfl
  have hxa : x ≠ a := fun e => h (by rw [e])
  have hm : Memory.read (s.putRaw a k b).mem x = Memory.read s.mem x := by
    show Memory.read (Memory.write (s.retag a _).mem a b) x = _
    rw [Memory.read_write_other _ _ _ _ hxa, State.retag_mem]
  have hl : Assoc.look (s.putRaw a k b).sectors (x / 64) = Assoc.look s.sectors (x / 64) := by
    show Assoc.look (s.retag a _).sectors (x / 64) = _
    unfold State.retag
    cases region a <;> first | rfl | exact look_insert_other _ _ h
  unfold State.rawByte
  rw [hm, hl, hk]

/-- Where bytes are held does not change with what they hold. -/
theorem State.place_putByte (s : State) (a k x j : Nat) (b : Byte) : (s.putByte a k b).place x j = s.place x j := by
  rw [State.putByte_eq]; rfl

end Sys2Proof.Machine
end

