-- ==== Sys2Proof/Laws/PerInstr.lean ====
section
/-!
SUPPORT. The encoding of every instruction, one lemma for each constructor: the decoder reads the encoder's word of a well-formed instruction as
that instruction.
-/

namespace Sys2Proof

/-! ## Fields of a concatenation -/

/-- A field that lies in the high part of a concatenation. -/
theorem fld_high (v w : Nat) {a : BitVec v} {b : BitVec w} {s n : Nat} {r : BitVec n} (h : w.ble s = true) (k : a.extractLsb' (s - w) n = r) :
    (a ++ b).extractLsb' s n = r := (BitVec.extractLsb'_append_eq_of_le (Nat.le_of_ble_eq_true h)).trans k

/-- A field that lies in the low part of a concatenation. -/
theorem fld_low (v w : Nat) {a : BitVec v} {b : BitVec w} {s n : Nat} {r : BitVec n} (h : (s + n).ble w = true) (k : b.extractLsb' s n = r) :
    (a ++ b).extractLsb' s n = r := (BitVec.extractLsb'_append_eq_of_add_le (Nat.le_of_ble_eq_true h)).trans k

/-- A field that is the whole. -/
theorem fld_whole {w : Nat} (a : BitVec w) : a.extractLsb' 0 w = a := by simp

theorem ofBool_isOne (w : Bool) : (BitVec.ofBool w == 1) = w := by cases w <;> rfl
theorem VTy.ofCode_code (t : VTy) : VTy.ofCode t.code = some t := by cases t <;> rfl
theorem ESize.ofCode_code (e : ESize) : ESize.ofCode e.code = e := by cases e <;> rfl
theorem Order.ofCode_code (o : Order) : Order.ofCode o.code = o := by cases o <;> rfl
theorem Cond.ofCode_code (c : Cond) : Cond.ofCode c.code = some c := by cases c <;> rfl
theorem MmaFmt.ofCode_code (f : MmaFmt) : MmaFmt.ofCode f.code = some f := by cases f <;> rfl
theorem AccFmt.ofCode_code (f : AccFmt) : AccFmt.ofCode f.code = some f := by cases f <;> rfl

theorem accept_wellFormed {i : Instr} (h : i.wellFormed = true) : accept i = .ok i := if_pos h

/-- The decoder reads the encoder's word of this instruction as this instruction, where it is well formed. -/
def Laws.Encoding.Statement (i : Instr) : Prop := ∀ x, i.wellFormed = true → encode i = some x → decode x = .ok i

theorem Laws.Encoding.add (d : GReg) (a : GReg) (b : GReg) (w : Bool) : Laws.Encoding.Statement (.add d a b w) := by
  intro x wf h
  have hx : x = (1 : BitVec 6) ++ BitVec.ofFin (w := 5) d ++ BitVec.ofFin (w := 5) a ++ BitVec.ofFin (w := 5) b ++ (0 : BitVec 4) ++ BitVec.ofBool w ++ (0 : BitVec 6) := (Option.some.inj h).symm
  have f26_6 : fld x 26 6 = (1 : BitVec 6) := hx ▸ fld_high 26 6 rfl <| fld_high 25 1 rfl <| fld_high 21 4 rfl <| fld_high 16 5 rfl <| fld_high 11 5 rfl <| fld_high 6 5 rfl <| rfl
  have f0_6 : fld x 0 6 = (0 : BitVec 6) := hx ▸ fld_low 26 6 rfl <| rfl
  have f7_4 : fld x 7 4 = (0 : BitVec 4) := hx ▸ fld_high 26 6 rfl <| fld_high 25 1 rfl <| fld_low 21 4 rfl <| rfl
  have f21_5 : fld x 21 5 = (BitVec.ofFin (w := 5) d) := hx ▸ fld_high 26 6 rfl <| fld_high 25 1 rfl <| fld_high 21 4 rfl <| fld_high 16 5 rfl <| fld_high 11 5 rfl <| fld_low 6 5 rfl <| fld_whole _
  have f16_5 : fld x 16 5 = (BitVec.ofFin (w := 5) a) := hx ▸ fld_high 26 6 rfl <| fld_high 25 1 rfl <| fld_high 21 4 rfl <| fld_high 16 5 rfl <| fld_low 11 5 rfl <| fld_whole _
  have f11_5 : fld x 11 5 = (BitVec.ofFin (w := 5) b) := hx ▸ fld_high 26 6 rfl <| fld_high 25 1 rfl <| fld_high 21 4 rfl <| fld_low 16 5 rfl <| fld_whole _
  have f6_1 : fld x 6 1 = (BitVec.ofBool w) := hx ▸ fld_high 26 6 rfl <| fld_low 25 1 rfl <| fld_whole _
  rw [decode, f26_6]
  show decodeMajor01 x = _
  rw [decodeMajor01, f0_6]
  show mbz (fld x 7 4 == 0) (accept (.add (fld x 21 5).toFin (fld x 16 5).toFin (fld x 11 5).toFin (fld x 6 1 == 1))) = _
  rw [f7_4, f21_5, f16_5, f11_5, f6_1, ofBool_isOne w]
  exact accept_wellFormed wf
theorem Laws.Encoding.sub (d : GReg) (a : GReg) (b : GReg) (w : Bool) : Laws.Encoding.Statement (.sub d a b w) := by
  intro x wf h
  have hx : x = (1 : BitVec 6) ++ BitVec.ofFin (w := 5) d ++ BitVec.ofFin (w := 5) a ++ BitVec.ofFin (w := 5) b ++ (0 : BitVec 4) ++ BitVec.ofBool w ++ (1 : BitVec 6) := (Option.some.inj h).symm
  have f26_6 : fld x 26 6 = (1 : BitVec 6) := hx ▸ fld_high 26 6 rfl <| fld_high 25 1 rfl <| fld_high 21 4 rfl <| fld_high 16 5 rfl <| fld_high 11 5 rfl <| fld_high 6 5 rfl <| rfl
  have f0_6 : fld x 0 6 = (1 : BitVec 6) := hx ▸ fld_low 26 6 rfl <| rfl
  have f7_4 : fld x 7 4 = (0 : BitVec 4) := hx ▸ fld_high 26 6 rfl <| fld_high 25 1 rfl <| fld_low 21 4 rfl <| rfl
  have f21_5 : fld x 21 5 = (BitVec.ofFin (w := 5) d) := hx ▸ fld_high 26 6 rfl <| fld_high 25 1 rfl <| fld_high 21 4 rfl <| fld_high 16 5 rfl <| fld_high 11 5 rfl <| fld_low 6 5 rfl <| fld_whole _
  have f16_5 : fld x 16 5 = (BitVec.ofFin (w := 5) a) := hx ▸ fld_high 26 6 rfl <| fld_high 25 1 rfl <| fld_high 21 4 rfl <| fld_high 16 5 rfl <| fld_low 11 5 rfl <| fld_whole _
  have f11_5 : fld x 11 5 = (BitVec.ofFin (w := 5) b) := hx ▸ fld_high 26 6 rfl <| fld_high 25 1 rfl <| fld_high 21 4 rfl <| fld_low 16 5 rfl <| fld_whole _
  have f6_1 : fld x 6 1 = (BitVec.ofBool w) := hx ▸ fld_high 26 6 rfl <| fld_low 25 1 rfl <| fld_whole _
  rw [decode, f26_6]
  show decodeMajor01 x = _
  rw [decodeMajor01, f0_6]
  show mbz (fld x 7 4 == 0) (accept (.sub (fld x 21 5).toFin (fld x 16 5).toFin (fld x 11 5).toFin (fld x 6 1 == 1))) = _
  rw [f7_4, f21_5, f16_5, f11_5, f6_1, ofBool_isOne w]
  exact accept_wellFormed wf
theorem Laws.Encoding.andg (d : GReg) (a : GReg) (b : GReg) : Laws.Encoding.Statement (.andg d a b) := by
  intro x wf h
  have hx : x = (1 : BitVec 6) ++ BitVec.ofFin (w := 5) d ++ BitVec.ofFin (w := 5) a ++ BitVec.ofFin (w := 5) b ++ (2 : BitVec 11) := (Option.some.inj h).symm
  have f26_6 : fld x 26 6 = (1 : BitVec 6) := hx ▸ fld_high 21 11 rfl <| fld_high 16 5 rfl <| fld_high 11 5 rfl <| fld_high 6 5 rfl <| rfl
  have f0_6 : fld x 0 6 = (2 : BitVec 6) := hx ▸ fld_low 21 11 rfl <| rfl
  have f6_5 : fld x 6 5 = (0 : BitVec 5) := hx ▸ fld_low 21 11 rfl <| rfl
  have f21_5 : fld x 21 5 = (BitVec.ofFin (w := 5) d) := hx ▸ fld_high 21 11 rfl <| fld_high 16 5 rfl <| fld_high 11 5 rfl <| fld_low 6 5 rfl <| fld_whole _
  have f16_5 : fld x 16 5 = (BitVec.ofFin (w := 5) a) := hx ▸ fld_high 21 11 rfl <| fld_high 16 5 rfl <| fld_low 11 5 rfl <| fld_whole _
  have f11_5 : fld x 11 5 = (BitVec.ofFin (w := 5) b) := hx ▸ fld_high 21 11 rfl <| fld_low 16 5 rfl <| fld_whole _
  rw [decode, f26_6]
  show decodeMajor01 x = _
  rw [decodeMajor01, f0_6]
  show mbz (fld x 6 5 == 0) (accept (.andg (fld x 21 5).toFin (fld x 16 5).toFin (fld x 11 5).toFin)) = _
  rw [f6_5, f21_5, f16_5, f11_5]
  exact accept_wellFormed wf
theorem Laws.Encoding.org (d : GReg) (a : GReg) (b : GReg) : Laws.Encoding.Statement (.org d a b) := by
  intro x wf h
  have hx : x = (1 : BitVec 6) ++ BitVec.ofFin (w := 5) d ++ BitVec.ofFin (w := 5) a ++ BitVec.ofFin (w := 5) b ++ (3 : BitVec 11) := (Option.some.inj h).symm
  have f26_6 : fld x 26 6 = (1 : BitVec 6) := hx ▸ fld_high 21 11 rfl <| fld_high 16 5 rfl <| fld_high 11 5 rfl <| fld_high 6 5 rfl <| rfl
  have f0_6 : fld x 0 6 = (3 : BitVec 6) := hx ▸ fld_low 21 11 rfl <| rfl
  have f6_5 : fld x 6 5 = (0 : BitVec 5) := hx ▸ fld_low 21 11 rfl <| rfl
  have f21_5 : fld x 21 5 = (BitVec.ofFin (w := 5) d) := hx ▸ fld_high 21 11 rfl <| fld_high 16 5 rfl <| fld_high 11 5 rfl <| fld_low 6 5 rfl <| fld_whole _
  have f16_5 : fld x 16 5 = (BitVec.ofFin (w := 5) a) := hx ▸ fld_high 21 11 rfl <| fld_high 16 5 rfl <| fld_low 11 5 rfl <| fld_whole _
  have f11_5 : fld x 11 5 = (BitVec.ofFin (w := 5) b) := hx ▸ fld_high 21 11 rfl <| fld_low 16 5 rfl <| fld_whole _
  rw [decode, f26_6]
  show decodeMajor01 x = _
  rw [decodeMajor01, f0_6]
  show mbz (fld x 6 5 == 0) (accept (.org (fld x 21 5).toFin (fld x 16 5).toFin (fld x 11 5).toFin)) = _
  rw [f6_5, f21_5, f16_5, f11_5]
  exact accept_wellFormed wf
theorem Laws.Encoding.xorg (d : GReg) (a : GReg) (b : GReg) : Laws.Encoding.Statement (.xorg d a b) := by
  intro x wf h
  have hx : x = (1 : BitVec 6) ++ BitVec.ofFin (w := 5) d ++ BitVec.ofFin (w := 5) a ++ BitVec.ofFin (w := 5) b ++ (4 : BitVec 11) := (Option.some.inj h).symm
  have f26_6 : fld x 26 6 = (1 : BitVec 6) := hx ▸ fld_high 21 11 rfl <| fld_high 16 5 rfl <| fld_high 11 5 rfl <| fld_high 6 5 rfl <| rfl
  have f0_6 : fld x 0 6 = (4 : BitVec 6) := hx ▸ fld_low 21 11 rfl <| rfl
  have f6_5 : fld x 6 5 = (0 : BitVec 5) := hx ▸ fld_low 21 11 rfl <| rfl
  have f21_5 : fld x 21 5 = (BitVec.ofFin (w := 5) d) := hx ▸ fld_high 21 11 rfl <| fld_high 16 5 rfl <| fld_high 11 5 rfl <| fld_low 6 5 rfl <| fld_whole _
  have f16_5 : fld x 16 5 = (BitVec.ofFin (w := 5) a) := hx ▸ fld_high 21 11 rfl <| fld_high 16 5 rfl <| fld_low 11 5 rfl <| fld_whole _
  have f11_5 : fld x 11 5 = (BitVec.ofFin (w := 5) b) := hx ▸ fld_high 21 11 rfl <| fld_low 16 5 rfl <| fld_whole _
  rw [decode, f26_6]
  show decodeMajor01 x = _
  rw [decodeMajor01, f0_6]
  show mbz (fld x 6 5 == 0) (accept (.xorg (fld x 21 5).toFin (fld x 16 5).toFin (fld x 11 5).toFin)) = _
  rw [f6_5, f21_5, f16_5, f11_5]
  exact accept_wellFormed wf
theorem Laws.Encoding.andn (d : GReg) (a : GReg) (b : GReg) : Laws.Encoding.Statement (.andn d a b) := by
  intro x wf h
  have hx : x = (1 : BitVec 6) ++ BitVec.ofFin (w := 5) d ++ BitVec.ofFin (w := 5) a ++ BitVec.ofFin (w := 5) b ++ (5 : BitVec 11) := (Option.some.inj h).symm
  have f26_6 : fld x 26 6 = (1 : BitVec 6) := hx ▸ fld_high 21 11 rfl <| fld_high 16 5 rfl <| fld_high 11 5 rfl <| fld_high 6 5 rfl <| rfl
  have f0_6 : fld x 0 6 = (5 : BitVec 6) := hx ▸ fld_low 21 11 rfl <| rfl
  have f6_5 : fld x 6 5 = (0 : BitVec 5) := hx ▸ fld_low 21 11 rfl <| rfl
  have f21_5 : fld x 21 5 = (BitVec.ofFin (w := 5) d) := hx ▸ fld_high 21 11 rfl <| fld_high 16 5 rfl <| fld_high 11 5 rfl <| fld_low 6 5 rfl <| fld_whole _
  have f16_5 : fld x 16 5 = (BitVec.ofFin (w := 5) a) := hx ▸ fld_high 21 11 rfl <| fld_high 16 5 rfl <| fld_low 11 5 rfl <| fld_whole _
  have f11_5 : fld x 11 5 = (BitVec.ofFin (w := 5) b) := hx ▸ fld_high 21 11 rfl <| fld_low 16 5 rfl <| fld_whole _
  rw [decode, f26_6]
  show decodeMajor01 x = _
  rw [decodeMajor01, f0_6]
  show mbz (fld x 6 5 == 0) (accept (.andn (fld x 21 5).toFin (fld x 16 5).toFin (fld x 11 5).toFin)) = _
  rw [f6_5, f21_5, f16_5, f11_5]
  exact accept_wellFormed wf
theorem Laws.Encoding.orn (d : GReg) (a : GReg) (b : GReg) : Laws.Encoding.Statement (.orn d a b) := by
  intro x wf h
  have hx : x = (1 : BitVec 6) ++ BitVec.ofFin (w := 5) d ++ BitVec.ofFin (w := 5) a ++ BitVec.ofFin (w := 5) b ++ (6 : BitVec 11) := (Option.some.inj h).symm
  have f26_6 : fld x 26 6 = (1 : BitVec 6) := hx ▸ fld_high 21 11 rfl <| fld_high 16 5 rfl <| fld_high 11 5 rfl <| fld_high 6 5 rfl <| rfl
  have f0_6 : fld x 0 6 = (6 : BitVec 6) := hx ▸ fld_low 21 11 rfl <| rfl
  have f6_5 : fld x 6 5 = (0 : BitVec 5) := hx ▸ fld_low 21 11 rfl <| rfl
  have f21_5 : fld x 21 5 = (BitVec.ofFin (w := 5) d) := hx ▸ fld_high 21 11 rfl <| fld_high 16 5 rfl <| fld_high 11 5 rfl <| fld_low 6 5 rfl <| fld_whole _
  have f16_5 : fld x 16 5 = (BitVec.ofFin (w := 5) a) := hx ▸ fld_high 21 11 rfl <| fld_high 16 5 rfl <| fld_low 11 5 rfl <| fld_whole _
  have f11_5 : fld x 11 5 = (BitVec.ofFin (w := 5) b) := hx ▸ fld_high 21 11 rfl <| fld_low 16 5 rfl <| fld_whole _
  rw [decode, f26_6]
  show decodeMajor01 x = _
  rw [decodeMajor01, f0_6]
  show mbz (fld x 6 5 == 0) (accept (.orn (fld x 21 5).toFin (fld x 16 5).toFin (fld x 11 5).toFin)) = _
  rw [f6_5, f21_5, f16_5, f11_5]
  exact accept_wellFormed wf
theorem Laws.Encoding.sll (d : GReg) (a : GReg) (b : GReg) (w : Bool) : Laws.Encoding.Statement (.sll d a b w) := by
  intro x wf h
  have hx : x = (1 : BitVec 6) ++ BitVec.ofFin (w := 5) d ++ BitVec.ofFin (w := 5) a ++ BitVec.ofFin (w := 5) b ++ (0 : BitVec 4) ++ BitVec.ofBool w ++ (7 : BitVec 6) := (Option.some.inj h).symm
  have f26_6 : fld x 26 6 = (1 : BitVec 6) := hx ▸ fld_high 26 6 rfl <| fld_high 25 1 rfl <| fld_high 21 4 rfl <| fld_high 16 5 rfl <| fld_high 11 5 rfl <| fld_high 6 5 rfl <| rfl
  have f0_6 : fld x 0 6 = (7 : BitVec 6) := hx ▸ fld_low 26 6 rfl <| rfl
  have f7_4 : fld x 7 4 = (0 : BitVec 4) := hx ▸ fld_high 26 6 rfl <| fld_high 25 1 rfl <| fld_low 21 4 rfl <| rfl
  have f21_5 : fld x 21 5 = (BitVec.ofFin (w := 5) d) := hx ▸ fld_high 26 6 rfl <| fld_high 25 1 rfl <| fld_high 21 4 rfl <| fld_high 16 5 rfl <| fld_high 11 5 rfl <| fld_low 6 5 rfl <| fld_whole _
  have f16_5 : fld x 16 5 = (BitVec.ofFin (w := 5) a) := hx ▸ fld_high 26 6 rfl <| fld_high 25 1 rfl <| fld_high 21 4 rfl <| fld_high 16 5 rfl <| fld_low 11 5 rfl <| fld_whole _
  have f11_5 : fld x 11 5 = (BitVec.ofFin (w := 5) b) := hx ▸ fld_high 26 6 rfl <| fld_high 25 1 rfl <| fld_high 21 4 rfl <| fld_low 16 5 rfl <| fld_whole _
  have f6_1 : fld x 6 1 = (BitVec.ofBool w) := hx ▸ fld_high 26 6 rfl <| fld_low 25 1 rfl <| fld_whole _
  rw [decode, f26_6]
  show decodeMajor01 x = _
  rw [decodeMajor01, f0_6]
  show mbz (fld x 7 4 == 0) (accept (.sll (fld x 21 5).toFin (fld x 16 5).toFin (fld x 11 5).toFin (fld x 6 1 == 1))) = _
  rw [f7_4, f21_5, f16_5, f11_5, f6_1, ofBool_isOne w]
  exact accept_wellFormed wf
theorem Laws.Encoding.srl (d : GReg) (a : GReg) (b : GReg) (w : Bool) : Laws.Encoding.Statement (.srl d a b w) := by
  intro x wf h
  have hx : x = (1 : BitVec 6) ++ BitVec.ofFin (w := 5) d ++ BitVec.ofFin (w := 5) a ++ BitVec.ofFin (w := 5) b ++ (0 : BitVec 4) ++ BitVec.ofBool w ++ (8 : BitVec 6) := (Option.some.inj h).symm
  have f26_6 : fld x 26 6 = (1 : BitVec 6) := hx ▸ fld_high 26 6 rfl <| fld_high 25 1 rfl <| fld_high 21 4 rfl <| fld_high 16 5 rfl <| fld_high 11 5 rfl <| fld_high 6 5 rfl <| rfl
  have f0_6 : fld x 0 6 = (8 : BitVec 6) := hx ▸ fld_low 26 6 rfl <| rfl
  have f7_4 : fld x 7 4 = (0 : BitVec 4) := hx ▸ fld_high 26 6 rfl <| fld_high 25 1 rfl <| fld_low 21 4 rfl <| rfl
  have f21_5 : fld x 21 5 = (BitVec.ofFin (w := 5) d) := hx ▸ fld_high 26 6 rfl <| fld_high 25 1 rfl <| fld_high 21 4 rfl <| fld_high 16 5 rfl <| fld_high 11 5 rfl <| fld_low 6 5 rfl <| fld_whole _
  have f16_5 : fld x 16 5 = (BitVec.ofFin (w := 5) a) := hx ▸ fld_high 26 6 rfl <| fld_high 25 1 rfl <| fld_high 21 4 rfl <| fld_high 16 5 rfl <| fld_low 11 5 rfl <| fld_whole _
  have f11_5 : fld x 11 5 = (BitVec.ofFin (w := 5) b) := hx ▸ fld_high 26 6 rfl <| fld_high 25 1 rfl <| fld_high 21 4 rfl <| fld_low 16 5 rfl <| fld_whole _
  have f6_1 : fld x 6 1 = (BitVec.ofBool w) := hx ▸ fld_high 26 6 rfl <| fld_low 25 1 rfl <| fld_whole _
  rw [decode, f26_6]
  show decodeMajor01 x = _
  rw [decodeMajor01, f0_6]
  show mbz (fld x 7 4 == 0) (accept (.srl (fld x 21 5).toFin (fld x 16 5).toFin (fld x 11 5).toFin (fld x 6 1 == 1))) = _
  rw [f7_4, f21_5, f16_5, f11_5, f6_1, ofBool_isOne w]
  exact accept_wellFormed wf
theorem Laws.Encoding.sra (d : GReg) (a : GReg) (b : GReg) (w : Bool) : Laws.Encoding.Statement (.sra d a b w) := by
  intro x wf h
  have hx : x = (1 : BitVec 6) ++ BitVec.ofFin (w := 5) d ++ BitVec.ofFin (w := 5) a ++ BitVec.ofFin (w := 5) b ++ (0 : BitVec 4) ++ BitVec.ofBool w ++ (9 : BitVec 6) := (Option.some.inj h).symm
  have f26_6 : fld x 26 6 = (1 : BitVec 6) := hx ▸ fld_high 26 6 rfl <| fld_high 25 1 rfl <| fld_high 21 4 rfl <| fld_high 16 5 rfl <| fld_high 11 5 rfl <| fld_high 6 5 rfl <| rfl
  have f0_6 : fld x 0 6 = (9 : BitVec 6) := hx ▸ fld_low 26 6 rfl <| rfl
  have f7_4 : fld x 7 4 = (0 : BitVec 4) := hx ▸ fld_high 26 6 rfl <| fld_high 25 1 rfl <| fld_low 21 4 rfl <| rfl
  have f21_5 : fld x 21 5 = (BitVec.ofFin (w := 5) d) := hx ▸ fld_high 26 6 rfl <| fld_high 25 1 rfl <| fld_high 21 4 rfl <| fld_high 16 5 rfl <| fld_high 11 5 rfl <| fld_low 6 5 rfl <| fld_whole _
  have f16_5 : fld x 16 5 = (BitVec.ofFin (w := 5) a) := hx ▸ fld_high 26 6 rfl <| fld_high 25 1 rfl <| fld_high 21 4 rfl <| fld_high 16 5 rfl <| fld_low 11 5 rfl <| fld_whole _
  have f11_5 : fld x 11 5 = (BitVec.ofFin (w := 5) b) := hx ▸ fld_high 26 6 rfl <| fld_high 25 1 rfl <| fld_high 21 4 rfl <| fld_low 16 5 rfl <| fld_whole _
  have f6_1 : fld x 6 1 = (BitVec.ofBool w) := hx ▸ fld_high 26 6 rfl <| fld_low 25 1 rfl <| fld_whole _
  rw [decode, f26_6]
  show decodeMajor01 x = _
  rw [decodeMajor01, f0_6]
  show mbz (fld x 7 4 == 0) (accept (.sra (fld x 21 5).toFin (fld x 16 5).toFin (fld x 11 5).toFin (fld x 6 1 == 1))) = _
  rw [f7_4, f21_5, f16_5, f11_5, f6_1, ofBool_isOne w]
  exact accept_wellFormed wf
theorem Laws.Encoding.rol (d : GReg) (a : GReg) (b : GReg) (w : Bool) : Laws.Encoding.Statement (.rol d a b w) := by
  intro x wf h
  have hx : x = (1 : BitVec 6) ++ BitVec.ofFin (w := 5) d ++ BitVec.ofFin (w := 5) a ++ BitVec.ofFin (w := 5) b ++ (0 : BitVec 4) ++ BitVec.ofBool w ++ (10 : BitVec 6) := (Option.some.inj h).symm
  have f26_6 : fld x 26 6 = (1 : BitVec 6) := hx ▸ fld_high 26 6 rfl <| fld_high 25 1 rfl <| fld_high 21 4 rfl <| fld_high 16 5 rfl <| fld_high 11 5 rfl <| fld_high 6 5 rfl <| rfl
  have f0_6 : fld x 0 6 = (10 : BitVec 6) := hx ▸ fld_low 26 6 rfl <| rfl
  have f7_4 : fld x 7 4 = (0 : BitVec 4) := hx ▸ fld_high 26 6 rfl <| fld_high 25 1 rfl <| fld_low 21 4 rfl <| rfl
  have f21_5 : fld x 21 5 = (BitVec.ofFin (w := 5) d) := hx ▸ fld_high 26 6 rfl <| fld_high 25 1 rfl <| fld_high 21 4 rfl <| fld_high 16 5 rfl <| fld_high 11 5 rfl <| fld_low 6 5 rfl <| fld_whole _
  have f16_5 : fld x 16 5 = (BitVec.ofFin (w := 5) a) := hx ▸ fld_high 26 6 rfl <| fld_high 25 1 rfl <| fld_high 21 4 rfl <| fld_high 16 5 rfl <| fld_low 11 5 rfl <| fld_whole _
  have f11_5 : fld x 11 5 = (BitVec.ofFin (w := 5) b) := hx ▸ fld_high 26 6 rfl <| fld_high 25 1 rfl <| fld_high 21 4 rfl <| fld_low 16 5 rfl <| fld_whole _
  have f6_1 : fld x 6 1 = (BitVec.ofBool w) := hx ▸ fld_high 26 6 rfl <| fld_low 25 1 rfl <| fld_whole _
  rw [decode, f26_6]
  show decodeMajor01 x = _
  rw [decodeMajor01, f0_6]
  show mbz (fld x 7 4 == 0) (accept (.rol (fld x 21 5).toFin (fld x 16 5).toFin (fld x 11 5).toFin (fld x 6 1 == 1))) = _
  rw [f7_4, f21_5, f16_5, f11_5, f6_1, ofBool_isOne w]
  exact accept_wellFormed wf
theorem Laws.Encoding.mul (d : GReg) (a : GReg) (b : GReg) (w : Bool) : Laws.Encoding.Statement (.mul d a b w) := by
  intro x wf h
  have hx : x = (1 : BitVec 6) ++ BitVec.ofFin (w := 5) d ++ BitVec.ofFin (w := 5) a ++ BitVec.ofFin (w := 5) b ++ (0 : BitVec 4) ++ BitVec.ofBool w ++ (11 : BitVec 6) := (Option.some.inj h).symm
  have f26_6 : fld x 26 6 = (1 : BitVec 6) := hx ▸ fld_high 26 6 rfl <| fld_high 25 1 rfl <| fld_high 21 4 rfl <| fld_high 16 5 rfl <| fld_high 11 5 rfl <| fld_high 6 5 rfl <| rfl
  have f0_6 : fld x 0 6 = (11 : BitVec 6) := hx ▸ fld_low 26 6 rfl <| rfl
  have f7_4 : fld x 7 4 = (0 : BitVec 4) := hx ▸ fld_high 26 6 rfl <| fld_high 25 1 rfl <| fld_low 21 4 rfl <| rfl
  have f21_5 : fld x 21 5 = (BitVec.ofFin (w := 5) d) := hx ▸ fld_high 26 6 rfl <| fld_high 25 1 rfl <| fld_high 21 4 rfl <| fld_high 16 5 rfl <| fld_high 11 5 rfl <| fld_low 6 5 rfl <| fld_whole _
  have f16_5 : fld x 16 5 = (BitVec.ofFin (w := 5) a) := hx ▸ fld_high 26 6 rfl <| fld_high 25 1 rfl <| fld_high 21 4 rfl <| fld_high 16 5 rfl <| fld_low 11 5 rfl <| fld_whole _
  have f11_5 : fld x 11 5 = (BitVec.ofFin (w := 5) b) := hx ▸ fld_high 26 6 rfl <| fld_high 25 1 rfl <| fld_high 21 4 rfl <| fld_low 16 5 rfl <| fld_whole _
  have f6_1 : fld x 6 1 = (BitVec.ofBool w) := hx ▸ fld_high 26 6 rfl <| fld_low 25 1 rfl <| fld_whole _
  rw [decode, f26_6]
  show decodeMajor01 x = _
  rw [decodeMajor01, f0_6]
  show mbz (fld x 7 4 == 0) (accept (.mul (fld x 21 5).toFin (fld x 16 5).toFin (fld x 11 5).toFin (fld x 6 1 == 1))) = _
  rw [f7_4, f21_5, f16_5, f11_5, f6_1, ofBool_isOne w]
  exact accept_wellFormed wf
theorem Laws.Encoding.mulh (d : GReg) (a : GReg) (b : GReg) (w : Bool) : Laws.Encoding.Statement (.mulh d a b w) := by
  intro x wf h
  have hx : x = (1 : BitVec 6) ++ BitVec.ofFin (w := 5) d ++ BitVec.ofFin (w := 5) a ++ BitVec.ofFin (w := 5) b ++ (0 : BitVec 4) ++ BitVec.ofBool w ++ (12 : BitVec 6) := (Option.some.inj h).symm
  have f26_6 : fld x 26 6 = (1 : BitVec 6) := hx ▸ fld_high 26 6 rfl <| fld_high 25 1 rfl <| fld_high 21 4 rfl <| fld_high 16 5 rfl <| fld_high 11 5 rfl <| fld_high 6 5 rfl <| rfl
  have f0_6 : fld x 0 6 = (12 : BitVec 6) := hx ▸ fld_low 26 6 rfl <| rfl
  have f7_4 : fld x 7 4 = (0 : BitVec 4) := hx ▸ fld_high 26 6 rfl <| fld_high 25 1 rfl <| fld_low 21 4 rfl <| rfl
  have f21_5 : fld x 21 5 = (BitVec.ofFin (w := 5) d) := hx ▸ fld_high 26 6 rfl <| fld_high 25 1 rfl <| fld_high 21 4 rfl <| fld_high 16 5 rfl <| fld_high 11 5 rfl <| fld_low 6 5 rfl <| fld_whole _
  have f16_5 : fld x 16 5 = (BitVec.ofFin (w := 5) a) := hx ▸ fld_high 26 6 rfl <| fld_high 25 1 rfl <| fld_high 21 4 rfl <| fld_high 16 5 rfl <| fld_low 11 5 rfl <| fld_whole _
  have f11_5 : fld x 11 5 = (BitVec.ofFin (w := 5) b) := hx ▸ fld_high 26 6 rfl <| fld_high 25 1 rfl <| fld_high 21 4 rfl <| fld_low 16 5 rfl <| fld_whole _
  have f6_1 : fld x 6 1 = (BitVec.ofBool w) := hx ▸ fld_high 26 6 rfl <| fld_low 25 1 rfl <| fld_whole _
  rw [decode, f26_6]
  show decodeMajor01 x = _
  rw [decodeMajor01, f0_6]
  show mbz (fld x 7 4 == 0) (accept (.mulh (fld x 21 5).toFin (fld x 16 5).toFin (fld x 11 5).toFin (fld x 6 1 == 1))) = _
  rw [f7_4, f21_5, f16_5, f11_5, f6_1, ofBool_isOne w]
  exact accept_wellFormed wf
theorem Laws.Encoding.mulhu (d : GReg) (a : GReg) (b : GReg) (w : Bool) : Laws.Encoding.Statement (.mulhu d a b w) := by
  intro x wf h
  have hx : x = (1 : BitVec 6) ++ BitVec.ofFin (w := 5) d ++ BitVec.ofFin (w := 5) a ++ BitVec.ofFin (w := 5) b ++ (0 : BitVec 4) ++ BitVec.ofBool w ++ (13 : BitVec 6) := (Option.some.inj h).symm
  have f26_6 : fld x 26 6 = (1 : BitVec 6) := hx ▸ fld_high 26 6 rfl <| fld_high 25 1 rfl <| fld_high 21 4 rfl <| fld_high 16 5 rfl <| fld_high 11 5 rfl <| fld_high 6 5 rfl <| rfl
  have f0_6 : fld x 0 6 = (13 : BitVec 6) := hx ▸ fld_low 26 6 rfl <| rfl
  have f7_4 : fld x 7 4 = (0 : BitVec 4) := hx ▸ fld_high 26 6 rfl <| fld_high 25 1 rfl <| fld_low 21 4 rfl <| rfl
  have f21_5 : fld x 21 5 = (BitVec.ofFin (w := 5) d) := hx ▸ fld_high 26 6 rfl <| fld_high 25 1 rfl <| fld_high 21 4 rfl <| fld_high 16 5 rfl <| fld_high 11 5 rfl <| fld_low 6 5 rfl <| fld_whole _
  have f16_5 : fld x 16 5 = (BitVec.ofFin (w := 5) a) := hx ▸ fld_high 26 6 rfl <| fld_high 25 1 rfl <| fld_high 21 4 rfl <| fld_high 16 5 rfl <| fld_low 11 5 rfl <| fld_whole _
  have f11_5 : fld x 11 5 = (BitVec.ofFin (w := 5) b) := hx ▸ fld_high 26 6 rfl <| fld_high 25 1 rfl <| fld_high 21 4 rfl <| fld_low 16 5 rfl <| fld_whole _
  have f6_1 : fld x 6 1 = (BitVec.ofBool w) := hx ▸ fld_high 26 6 rfl <| fld_low 25 1 rfl <| fld_whole _
  rw [decode, f26_6]
  show decodeMajor01 x = _
  rw [decodeMajor01, f0_6]
  show mbz (fld x 7 4 == 0) (accept (.mulhu (fld x 21 5).toFin (fld x 16 5).toFin (fld x 11 5).toFin (fld x 6 1 == 1))) = _
  rw [f7_4, f21_5, f16_5, f11_5, f6_1, ofBool_isOne w]
  exact accept_wellFormed wf
theorem Laws.Encoding.div (d : GReg) (a : GReg) (b : GReg) (w : Bool) : Laws.Encoding.Statement (.div d a b w) := by
  intro x wf h
  have hx : x = (1 : BitVec 6) ++ BitVec.ofFin (w := 5) d ++ BitVec.ofFin (w := 5) a ++ BitVec.ofFin (w := 5) b ++ (0 : BitVec 4) ++ BitVec.ofBool w ++ (14 : BitVec 6) := (Option.some.inj h).symm
  have f26_6 : fld x 26 6 = (1 : BitVec 6) := hx ▸ fld_high 26 6 rfl <| fld_high 25 1 rfl <| fld_high 21 4 rfl <| fld_high 16 5 rfl <| fld_high 11 5 rfl <| fld_high 6 5 rfl <| rfl
  have f0_6 : fld x 0 6 = (14 : BitVec 6) := hx ▸ fld_low 26 6 rfl <| rfl
  have f7_4 : fld x 7 4 = (0 : BitVec 4) := hx ▸ fld_high 26 6 rfl <| fld_high 25 1 rfl <| fld_low 21 4 rfl <| rfl
  have f21_5 : fld x 21 5 = (BitVec.ofFin (w := 5) d) := hx ▸ fld_high 26 6 rfl <| fld_high 25 1 rfl <| fld_high 21 4 rfl <| fld_high 16 5 rfl <| fld_high 11 5 rfl <| fld_low 6 5 rfl <| fld_whole _
  have f16_5 : fld x 16 5 = (BitVec.ofFin (w := 5) a) := hx ▸ fld_high 26 6 rfl <| fld_high 25 1 rfl <| fld_high 21 4 rfl <| fld_high 16 5 rfl <| fld_low 11 5 rfl <| fld_whole _
  have f11_5 : fld x 11 5 = (BitVec.ofFin (w := 5) b) := hx ▸ fld_high 26 6 rfl <| fld_high 25 1 rfl <| fld_high 21 4 rfl <| fld_low 16 5 rfl <| fld_whole _
  have f6_1 : fld x 6 1 = (BitVec.ofBool w) := hx ▸ fld_high 26 6 rfl <| fld_low 25 1 rfl <| fld_whole _
  rw [decode, f26_6]
  show decodeMajor01 x = _
  rw [decodeMajor01, f0_6]
  show mbz (fld x 7 4 == 0) (accept (.div (fld x 21 5).toFin (fld x 16 5).toFin (fld x 11 5).toFin (fld x 6 1 == 1))) = _
  rw [f7_4, f21_5, f16_5, f11_5, f6_1, ofBool_isOne w]
  exact accept_wellFormed wf
theorem Laws.Encoding.divu (d : GReg) (a : GReg) (b : GReg) (w : Bool) : Laws.Encoding.Statement (.divu d a b w) := by
  intro x wf h
  have hx : x = (1 : BitVec 6) ++ BitVec.ofFin (w := 5) d ++ BitVec.ofFin (w := 5) a ++ BitVec.ofFin (w := 5) b ++ (0 : BitVec 4) ++ BitVec.ofBool w ++ (15 : BitVec 6) := (Option.some.inj h).symm
  have f26_6 : fld x 26 6 = (1 : BitVec 6) := hx ▸ fld_high 26 6 rfl <| fld_high 25 1 rfl <| fld_high 21 4 rfl <| fld_high 16 5 rfl <| fld_high 11 5 rfl <| fld_high 6 5 rfl <| rfl
  have f0_6 : fld x 0 6 = (15 : BitVec 6) := hx ▸ fld_low 26 6 rfl <| rfl
  have f7_4 : fld x 7 4 = (0 : BitVec 4) := hx ▸ fld_high 26 6 rfl <| fld_high 25 1 rfl <| fld_low 21 4 rfl <| rfl
  have f21_5 : fld x 21 5 = (BitVec.ofFin (w := 5) d) := hx ▸ fld_high 26 6 rfl <| fld_high 25 1 rfl <| fld_high 21 4 rfl <| fld_high 16 5 rfl <| fld_high 11 5 rfl <| fld_low 6 5 rfl <| fld_whole _
  have f16_5 : fld x 16 5 = (BitVec.ofFin (w := 5) a) := hx ▸ fld_high 26 6 rfl <| fld_high 25 1 rfl <| fld_high 21 4 rfl <| fld_high 16 5 rfl <| fld_low 11 5 rfl <| fld_whole _
  have f11_5 : fld x 11 5 = (BitVec.ofFin (w := 5) b) := hx ▸ fld_high 26 6 rfl <| fld_high 25 1 rfl <| fld_high 21 4 rfl <| fld_low 16 5 rfl <| fld_whole _
  have f6_1 : fld x 6 1 = (BitVec.ofBool w) := hx ▸ fld_high 26 6 rfl <| fld_low 25 1 rfl <| fld_whole _
  rw [decode, f26_6]
  show decodeMajor01 x = _
  rw [decodeMajor01, f0_6]
  show mbz (fld x 7 4 == 0) (accept (.divu (fld x 21 5).toFin (fld x 16 5).toFin (fld x 11 5).toFin (fld x 6 1 == 1))) = _
  rw [f7_4, f21_5, f16_5, f11_5, f6_1, ofBool_isOne w]
  exact accept_wellFormed wf
theorem Laws.Encoding.rem (d : GReg) (a : GReg) (b : GReg) (w : Bool) : Laws.Encoding.Statement (.rem d a b w) := by
  intro x wf h
  have hx : x = (1 : BitVec 6) ++ BitVec.ofFin (w := 5) d ++ BitVec.ofFin (w := 5) a ++ BitVec.ofFin (w := 5) b ++ (0 : BitVec 4) ++ BitVec.ofBool w ++ (16 : BitVec 6) := (Option.some.inj h).symm
  have f26_6 : fld x 26 6 = (1 : BitVec 6) := hx ▸ fld_high 26 6 rfl <| fld_high 25 1 rfl <| fld_high 21 4 rfl <| fld_high 16 5 rfl <| fld_high 11 5 rfl <| fld_high 6 5 rfl <| rfl
  have f0_6 : fld x 0 6 = (16 : BitVec 6) := hx ▸ fld_low 26 6 rfl <| rfl
  have f7_4 : fld x 7 4 = (0 : BitVec 4) := hx ▸ fld_high 26 6 rfl <| fld_high 25 1 rfl <| fld_low 21 4 rfl <| rfl
  have f21_5 : fld x 21 5 = (BitVec.ofFin (w := 5) d) := hx ▸ fld_high 26 6 rfl <| fld_high 25 1 rfl <| fld_high 21 4 rfl <| fld_high 16 5 rfl <| fld_high 11 5 rfl <| fld_low 6 5 rfl <| fld_whole _
  have f16_5 : fld x 16 5 = (BitVec.ofFin (w := 5) a) := hx ▸ fld_high 26 6 rfl <| fld_high 25 1 rfl <| fld_high 21 4 rfl <| fld_high 16 5 rfl <| fld_low 11 5 rfl <| fld_whole _
  have f11_5 : fld x 11 5 = (BitVec.ofFin (w := 5) b) := hx ▸ fld_high 26 6 rfl <| fld_high 25 1 rfl <| fld_high 21 4 rfl <| fld_low 16 5 rfl <| fld_whole _
  have f6_1 : fld x 6 1 = (BitVec.ofBool w) := hx ▸ fld_high 26 6 rfl <| fld_low 25 1 rfl <| fld_whole _
  rw [decode, f26_6]
  show decodeMajor01 x = _
  rw [decodeMajor01, f0_6]
  show mbz (fld x 7 4 == 0) (accept (.rem (fld x 21 5).toFin (fld x 16 5).toFin (fld x 11 5).toFin (fld x 6 1 == 1))) = _
  rw [f7_4, f21_5, f16_5, f11_5, f6_1, ofBool_isOne w]
  exact accept_wellFormed wf
theorem Laws.Encoding.remu (d : GReg) (a : GReg) (b : GReg) (w : Bool) : Laws.Encoding.Statement (.remu d a b w) := by
  intro x wf h
  have hx : x = (1 : BitVec 6) ++ BitVec.ofFin (w := 5) d ++ BitVec.ofFin (w := 5) a ++ BitVec.ofFin (w := 5) b ++ (0 : BitVec 4) ++ BitVec.ofBool w ++ (17 : BitVec 6) := (Option.some.inj h).symm
  have f26_6 : fld x 26 6 = (1 : BitVec 6) := hx ▸ fld_high 26 6 rfl <| fld_high 25 1 rfl <| fld_high 21 4 rfl <| fld_high 16 5 rfl <| fld_high 11 5 rfl <| fld_high 6 5 rfl <| rfl
  have f0_6 : fld x 0 6 = (17 : BitVec 6) := hx ▸ fld_low 26 6 rfl <| rfl
  have f7_4 : fld x 7 4 = (0 : BitVec 4) := hx ▸ fld_high 26 6 rfl <| fld_high 25 1 rfl <| fld_low 21 4 rfl <| rfl
  have f21_5 : fld x 21 5 = (BitVec.ofFin (w := 5) d) := hx ▸ fld_high 26 6 rfl <| fld_high 25 1 rfl <| fld_high 21 4 rfl <| fld_high 16 5 rfl <| fld_high 11 5 rfl <| fld_low 6 5 rfl <| fld_whole _
  have f16_5 : fld x 16 5 = (BitVec.ofFin (w := 5) a) := hx ▸ fld_high 26 6 rfl <| fld_high 25 1 rfl <| fld_high 21 4 rfl <| fld_high 16 5 rfl <| fld_low 11 5 rfl <| fld_whole _
  have f11_5 : fld x 11 5 = (BitVec.ofFin (w := 5) b) := hx ▸ fld_high 26 6 rfl <| fld_high 25 1 rfl <| fld_high 21 4 rfl <| fld_low 16 5 rfl <| fld_whole _
  have f6_1 : fld x 6 1 = (BitVec.ofBool w) := hx ▸ fld_high 26 6 rfl <| fld_low 25 1 rfl <| fld_whole _
  rw [decode, f26_6]
  show decodeMajor01 x = _
  rw [decodeMajor01, f0_6]
  show mbz (fld x 7 4 == 0) (accept (.remu (fld x 21 5).toFin (fld x 16 5).toFin (fld x 11 5).toFin (fld x 6 1 == 1))) = _
  rw [f7_4, f21_5, f16_5, f11_5, f6_1, ofBool_isOne w]
  exact accept_wellFormed wf
theorem Laws.Encoding.min (d : GReg) (a : GReg) (b : GReg) : Laws.Encoding.Statement (.min d a b) := by
  intro x wf h
  have hx : x = (1 : BitVec 6) ++ BitVec.ofFin (w := 5) d ++ BitVec.ofFin (w := 5) a ++ BitVec.ofFin (w := 5) b ++ (18 : BitVec 11) := (Option.some.inj h).symm
  have f26_6 : fld x 26 6 = (1 : BitVec 6) := hx ▸ fld_high 21 11 rfl <| fld_high 16 5 rfl <| fld_high 11 5 rfl <| fld_high 6 5 rfl <| rfl
  have f0_6 : fld x 0 6 = (18 : BitVec 6) := hx ▸ fld_low 21 11 rfl <| rfl
  have f6_5 : fld x 6 5 = (0 : BitVec 5) := hx ▸ fld_low 21 11 rfl <| rfl
  have f21_5 : fld x 21 5 = (BitVec.ofFin (w := 5) d) := hx ▸ fld_high 21 11 rfl <| fld_high 16 5 rfl <| fld_high 11 5 rfl <| fld_low 6 5 rfl <| fld_whole _
  have f16_5 : fld x 16 5 = (BitVec.ofFin (w := 5) a) := hx ▸ fld_high 21 11 rfl <| fld_high 16 5 rfl <| fld_low 11 5 rfl <| fld_whole _
  have f11_5 : fld x 11 5 = (BitVec.ofFin (w := 5) b) := hx ▸ fld_high 21 11 rfl <| fld_low 16 5 rfl <| fld_whole _
  rw [decode, f26_6]
  show decodeMajor01 x = _
  rw [decodeMajor01, f0_6]
  show mbz (fld x 6 5 == 0) (accept (.min (fld x 21 5).toFin (fld x 16 5).toFin (fld x 11 5).toFin)) = _
  rw [f6_5, f21_5, f16_5, f11_5]
  exact accept_wellFormed wf
theorem Laws.Encoding.max (d : GReg) (a : GReg) (b : GReg) : Laws.Encoding.Statement (.max d a b) := by
  intro x wf h
  have hx : x = (1 : BitVec 6) ++ BitVec.ofFin (w := 5) d ++ BitVec.ofFin (w := 5) a ++ BitVec.ofFin (w := 5) b ++ (19 : BitVec 11) := (Option.some.inj h).symm
  have f26_6 : fld x 26 6 = (1 : BitVec 6) := hx ▸ fld_high 21 11 rfl <| fld_high 16 5 rfl <| fld_high 11 5 rfl <| fld_high 6 5 rfl <| rfl
  have f0_6 : fld x 0 6 = (19 : BitVec 6) := hx ▸ fld_low 21 11 rfl <| rfl
  have f6_5 : fld x 6 5 = (0 : BitVec 5) := hx ▸ fld_low 21 11 rfl <| rfl
  have f21_5 : fld x 21 5 = (BitVec.ofFin (w := 5) d) := hx ▸ fld_high 21 11 rfl <| fld_high 16 5 rfl <| fld_high 11 5 rfl <| fld_low 6 5 rfl <| fld_whole _
  have f16_5 : fld x 16 5 = (BitVec.ofFin (w := 5) a) := hx ▸ fld_high 21 11 rfl <| fld_high 16 5 rfl <| fld_low 11 5 rfl <| fld_whole _
  have f11_5 : fld x 11 5 = (BitVec.ofFin (w := 5) b) := hx ▸ fld_high 21 11 rfl <| fld_low 16 5 rfl <| fld_whole _
  rw [decode, f26_6]
  show decodeMajor01 x = _
  rw [decodeMajor01, f0_6]
  show mbz (fld x 6 5 == 0) (accept (.max (fld x 21 5).toFin (fld x 16 5).toFin (fld x 11 5).toFin)) = _
  rw [f6_5, f21_5, f16_5, f11_5]
  exact accept_wellFormed wf
theorem Laws.Encoding.minu (d : GReg) (a : GReg) (b : GReg) : Laws.Encoding.Statement (.minu d a b) := by
  intro x wf h
  have hx : x = (1 : BitVec 6) ++ BitVec.ofFin (w := 5) d ++ BitVec.ofFin (w := 5) a ++ BitVec.ofFin (w := 5) b ++ (20 : BitVec 11) := (Option.some.inj h).symm
  have f26_6 : fld x 26 6 = (1 : BitVec 6) := hx ▸ fld_high 21 11 rfl <| fld_high 16 5 rfl <| fld_high 11 5 rfl <| fld_high 6 5 rfl <| rfl
  have f0_6 : fld x 0 6 = (20 : BitVec 6) := hx ▸ fld_low 21 11 rfl <| rfl
  have f6_5 : fld x 6 5 = (0 : BitVec 5) := hx ▸ fld_low 21 11 rfl <| rfl
  have f21_5 : fld x 21 5 = (BitVec.ofFin (w := 5) d) := hx ▸ fld_high 21 11 rfl <| fld_high 16 5 rfl <| fld_high 11 5 rfl <| fld_low 6 5 rfl <| fld_whole _
  have f16_5 : fld x 16 5 = (BitVec.ofFin (w := 5) a) := hx ▸ fld_high 21 11 rfl <| fld_high 16 5 rfl <| fld_low 11 5 rfl <| fld_whole _
  have f11_5 : fld x 11 5 = (BitVec.ofFin (w := 5) b) := hx ▸ fld_high 21 11 rfl <| fld_low 16 5 rfl <| fld_whole _
  rw [decode, f26_6]
  show decodeMajor01 x = _
  rw [decodeMajor01, f0_6]
  show mbz (fld x 6 5 == 0) (accept (.minu (fld x 21 5).toFin (fld x 16 5).toFin (fld x 11 5).toFin)) = _
  rw [f6_5, f21_5, f16_5, f11_5]
  exact accept_wellFormed wf
theorem Laws.Encoding.maxu (d : GReg) (a : GReg) (b : GReg) : Laws.Encoding.Statement (.maxu d a b) := by
  intro x wf h
  have hx : x = (1 : BitVec 6) ++ BitVec.ofFin (w := 5) d ++ BitVec.ofFin (w := 5) a ++ BitVec.ofFin (w := 5) b ++ (21 : BitVec 11) := (Option.some.inj h).symm
  have f26_6 : fld x 26 6 = (1 : BitVec 6) := hx ▸ fld_high 21 11 rfl <| fld_high 16 5 rfl <| fld_high 11 5 rfl <| fld_high 6 5 rfl <| rfl
  have f0_6 : fld x 0 6 = (21 : BitVec 6) := hx ▸ fld_low 21 11 rfl <| rfl
  have f6_5 : fld x 6 5 = (0 : BitVec 5) := hx ▸ fld_low 21 11 rfl <| rfl
  have f21_5 : fld x 21 5 = (BitVec.ofFin (w := 5) d) := hx ▸ fld_high 21 11 rfl <| fld_high 16 5 rfl <| fld_high 11 5 rfl <| fld_low 6 5 rfl <| fld_whole _
  have f16_5 : fld x 16 5 = (BitVec.ofFin (w := 5) a) := hx ▸ fld_high 21 11 rfl <| fld_high 16 5 rfl <| fld_low 11 5 rfl <| fld_whole _
  have f11_5 : fld x 11 5 = (BitVec.ofFin (w := 5) b) := hx ▸ fld_high 21 11 rfl <| fld_low 16 5 rfl <| fld_whole _
  rw [decode, f26_6]
  show decodeMajor01 x = _
  rw [decodeMajor01, f0_6]
  show mbz (fld x 6 5 == 0) (accept (.maxu (fld x 21 5).toFin (fld x 16 5).toFin (fld x 11 5).toFin)) = _
  rw [f6_5, f21_5, f16_5, f11_5]
  exact accept_wellFormed wf
theorem Laws.Encoding.slt (d : GReg) (a : GReg) (b : GReg) : Laws.Encoding.Statement (.slt d a b) := by
  intro x wf h
  have hx : x = (1 : BitVec 6) ++ BitVec.ofFin (w := 5) d ++ BitVec.ofFin (w := 5) a ++ BitVec.ofFin (w := 5) b ++ (22 : BitVec 11) := (Option.some.inj h).symm
  have f26_6 : fld x 26 6 = (1 : BitVec 6) := hx ▸ fld_high 21 11 rfl <| fld_high 16 5 rfl <| fld_high 11 5 rfl <| fld_high 6 5 rfl <| rfl
  have f0_6 : fld x 0 6 = (22 : BitVec 6) := hx ▸ fld_low 21 11 rfl <| rfl
  have f6_5 : fld x 6 5 = (0 : BitVec 5) := hx ▸ fld_low 21 11 rfl <| rfl
  have f21_5 : fld x 21 5 = (BitVec.ofFin (w := 5) d) := hx ▸ fld_high 21 11 rfl <| fld_high 16 5 rfl <| fld_high 11 5 rfl <| fld_low 6 5 rfl <| fld_whole _
  have f16_5 : fld x 16 5 = (BitVec.ofFin (w := 5) a) := hx ▸ fld_high 21 11 rfl <| fld_high 16 5 rfl <| fld_low 11 5 rfl <| fld_whole _
  have f11_5 : fld x 11 5 = (BitVec.ofFin (w := 5) b) := hx ▸ fld_high 21 11 rfl <| fld_low 16 5 rfl <| fld_whole _
  rw [decode, f26_6]
  show decodeMajor01 x = _
  rw [decodeMajor01, f0_6]
  show mbz (fld x 6 5 == 0) (accept (.slt (fld x 21 5).toFin (fld x 16 5).toFin (fld x 11 5).toFin)) = _
  rw [f6_5, f21_5, f16_5, f11_5]
  exact accept_wellFormed wf
theorem Laws.Encoding.sltu (d : GReg) (a : GReg) (b : GReg) : Laws.Encoding.Statement (.sltu d a b) := by
  intro x wf h
  have hx : x = (1 : BitVec 6) ++ BitVec.ofFin (w := 5) d ++ BitVec.ofFin (w := 5) a ++ BitVec.ofFin (w := 5) b ++ (23 : BitVec 11) := (Option.some.inj h).symm
  have f26_6 : fld x 26 6 = (1 : BitVec 6) := hx ▸ fld_high 21 11 rfl <| fld_high 16 5 rfl <| fld_high 11 5 rfl <| fld_high 6 5 rfl <| rfl
  have f0_6 : fld x 0 6 = (23 : BitVec 6) := hx ▸ fld_low 21 11 rfl <| rfl
  have f6_5 : fld x 6 5 = (0 : BitVec 5) := hx ▸ fld_low 21 11 rfl <| rfl
  have f21_5 : fld x 21 5 = (BitVec.ofFin (w := 5) d) := hx ▸ fld_high 21 11 rfl <| fld_high 16 5 rfl <| fld_high 11 5 rfl <| fld_low 6 5 rfl <| fld_whole _
  have f16_5 : fld x 16 5 = (BitVec.ofFin (w := 5) a) := hx ▸ fld_high 21 11 rfl <| fld_high 16 5 rfl <| fld_low 11 5 rfl <| fld_whole _
  have f11_5 : fld x 11 5 = (BitVec.ofFin (w := 5) b) := hx ▸ fld_high 21 11 rfl <| fld_low 16 5 rfl <| fld_whole _
  rw [decode, f26_6]
  show decodeMajor01 x = _
  rw [decodeMajor01, f0_6]
  show mbz (fld x 6 5 == 0) (accept (.sltu (fld x 21 5).toFin (fld x 16 5).toFin (fld x 11 5).toFin)) = _
  rw [f6_5, f21_5, f16_5, f11_5]
  exact accept_wellFormed wf
theorem Laws.Encoding.seq (d : GReg) (a : GReg) (b : GReg) : Laws.Encoding.Statement (.seq d a b) := by
  intro x wf h
  have hx : x = (1 : BitVec 6) ++ BitVec.ofFin (w := 5) d ++ BitVec.ofFin (w := 5) a ++ BitVec.ofFin (w := 5) b ++ (24 : BitVec 11) := (Option.some.inj h).symm
  have f26_6 : fld x 26 6 = (1 : BitVec 6) := hx ▸ fld_high 21 11 rfl <| fld_high 16 5 rfl <| fld_high 11 5 rfl <| fld_high 6 5 rfl <| rfl
  have f0_6 : fld x 0 6 = (24 : BitVec 6) := hx ▸ fld_low 21 11 rfl <| rfl
  have f6_5 : fld x 6 5 = (0 : BitVec 5) := hx ▸ fld_low 21 11 rfl <| rfl
  have f21_5 : fld x 21 5 = (BitVec.ofFin (w := 5) d) := hx ▸ fld_high 21 11 rfl <| fld_high 16 5 rfl <| fld_high 11 5 rfl <| fld_low 6 5 rfl <| fld_whole _
  have f16_5 : fld x 16 5 = (BitVec.ofFin (w := 5) a) := hx ▸ fld_high 21 11 rfl <| fld_high 16 5 rfl <| fld_low 11 5 rfl <| fld_whole _
  have f11_5 : fld x 11 5 = (BitVec.ofFin (w := 5) b) := hx ▸ fld_high 21 11 rfl <| fld_low 16 5 rfl <| fld_whole _
  rw [decode, f26_6]
  show decodeMajor01 x = _
  rw [decodeMajor01, f0_6]
  show mbz (fld x 6 5 == 0) (accept (.seq (fld x 21 5).toFin (fld x 16 5).toFin (fld x 11 5).toFin)) = _
  rw [f6_5, f21_5, f16_5, f11_5]
  exact accept_wellFormed wf
theorem Laws.Encoding.sne (d : GReg) (a : GReg) (b : GReg) : Laws.Encoding.Statement (.sne d a b) := by
  intro x wf h
  have hx : x = (1 : BitVec 6) ++ BitVec.ofFin (w := 5) d ++ BitVec.ofFin (w := 5) a ++ BitVec.ofFin (w := 5) b ++ (25 : BitVec 11) := (Option.some.inj h).symm
  have f26_6 : fld x 26 6 = (1 : BitVec 6) := hx ▸ fld_high 21 11 rfl <| fld_high 16 5 rfl <| fld_high 11 5 rfl <| fld_high 6 5 rfl <| rfl
  have f0_6 : fld x 0 6 = (25 : BitVec 6) := hx ▸ fld_low 21 11 rfl <| rfl
  have f6_5 : fld x 6 5 = (0 : BitVec 5) := hx ▸ fld_low 21 11 rfl <| rfl
  have f21_5 : fld x 21 5 = (BitVec.ofFin (w := 5) d) := hx ▸ fld_high 21 11 rfl <| fld_high 16 5 rfl <| fld_high 11 5 rfl <| fld_low 6 5 rfl <| fld_whole _
  have f16_5 : fld x 16 5 = (BitVec.ofFin (w := 5) a) := hx ▸ fld_high 21 11 rfl <| fld_high 16 5 rfl <| fld_low 11 5 rfl <| fld_whole _
  have f11_5 : fld x 11 5 = (BitVec.ofFin (w := 5) b) := hx ▸ fld_high 21 11 rfl <| fld_low 16 5 rfl <| fld_whole _
  rw [decode, f26_6]
  show decodeMajor01 x = _
  rw [decodeMajor01, f0_6]
  show mbz (fld x 6 5 == 0) (accept (.sne (fld x 21 5).toFin (fld x 16 5).toFin (fld x 11 5).toFin)) = _
  rw [f6_5, f21_5, f16_5, f11_5]
  exact accept_wellFormed wf
theorem Laws.Encoding.cmovz (d : GReg) (a : GReg) (b : GReg) : Laws.Encoding.Statement (.cmovz d a b) := by
  intro x wf h
  have hx : x = (1 : BitVec 6) ++ BitVec.ofFin (w := 5) d ++ BitVec.ofFin (w := 5) a ++ BitVec.ofFin (w := 5) b ++ (26 : BitVec 11) := (Option.some.inj h).symm
  have f26_6 : fld x 26 6 = (1 : BitVec 6) := hx ▸ fld_high 21 11 rfl <| fld_high 16 5 rfl <| fld_high 11 5 rfl <| fld_high 6 5 rfl <| rfl
  have f0_6 : fld x 0 6 = (26 : BitVec 6) := hx ▸ fld_low 21 11 rfl <| rfl
  have f6_5 : fld x 6 5 = (0 : BitVec 5) := hx ▸ fld_low 21 11 rfl <| rfl
  have f21_5 : fld x 21 5 = (BitVec.ofFin (w := 5) d) := hx ▸ fld_high 21 11 rfl <| fld_high 16 5 rfl <| fld_high 11 5 rfl <| fld_low 6 5 rfl <| fld_whole _
  have f16_5 : fld x 16 5 = (BitVec.ofFin (w := 5) a) := hx ▸ fld_high 21 11 rfl <| fld_high 16 5 rfl <| fld_low 11 5 rfl <| fld_whole _
  have f11_5 : fld x 11 5 = (BitVec.ofFin (w := 5) b) := hx ▸ fld_high 21 11 rfl <| fld_low 16 5 rfl <| fld_whole _
  rw [decode, f26_6]
  show decodeMajor01 x = _
  rw [decodeMajor01, f0_6]
  show mbz (fld x 6 5 == 0) (accept (.cmovz (fld x 21 5).toFin (fld x 16 5).toFin (fld x 11 5).toFin)) = _
  rw [f6_5, f21_5, f16_5, f11_5]
  exact accept_wellFormed wf
theorem Laws.Encoding.cmovnz (d : GReg) (a : GReg) (b : GReg) : Laws.Encoding.Statement (.cmovnz d a b) := by
  intro x wf h
  have hx : x = (1 : BitVec 6) ++ BitVec.ofFin (w := 5) d ++ BitVec.ofFin (w := 5) a ++ BitVec.ofFin (w := 5) b ++ (27 : BitVec 11) := (Option.some.inj h).symm
  have f26_6 : fld x 26 6 = (1 : BitVec 6) := hx ▸ fld_high 21 11 rfl <| fld_high 16 5 rfl <| fld_high 11 5 rfl <| fld_high 6 5 rfl <| rfl
  have f0_6 : fld x 0 6 = (27 : BitVec 6) := hx ▸ fld_low 21 11 rfl <| rfl
  have f6_5 : fld x 6 5 = (0 : BitVec 5) := hx ▸ fld_low 21 11 rfl <| rfl
  have f21_5 : fld x 21 5 = (BitVec.ofFin (w := 5) d) := hx ▸ fld_high 21 11 rfl <| fld_high 16 5 rfl <| fld_high 11 5 rfl <| fld_low 6 5 rfl <| fld_whole _
  have f16_5 : fld x 16 5 = (BitVec.ofFin (w := 5) a) := hx ▸ fld_high 21 11 rfl <| fld_high 16 5 rfl <| fld_low 11 5 rfl <| fld_whole _
  have f11_5 : fld x 11 5 = (BitVec.ofFin (w := 5) b) := hx ▸ fld_high 21 11 rfl <| fld_low 16 5 rfl <| fld_whole _
  rw [decode, f26_6]
  show decodeMajor01 x = _
  rw [decodeMajor01, f0_6]
  show mbz (fld x 6 5 == 0) (accept (.cmovnz (fld x 21 5).toFin (fld x 16 5).toFin (fld x 11 5).toFin)) = _
  rw [f6_5, f21_5, f16_5, f11_5]
  exact accept_wellFormed wf
theorem Laws.Encoding.clz (d : GReg) (a : GReg) : Laws.Encoding.Statement (.clz d a) := by
  intro x wf h
  have hx : x = (1 : BitVec 6) ++ BitVec.ofFin (w := 5) d ++ BitVec.ofFin (w := 5) a ++ (28 : BitVec 16) := (Option.some.inj h).symm
  have f26_6 : fld x 26 6 = (1 : BitVec 6) := hx ▸ fld_high 16 16 rfl <| fld_high 11 5 rfl <| fld_high 6 5 rfl <| rfl
  have f0_6 : fld x 0 6 = (28 : BitVec 6) := hx ▸ fld_low 16 16 rfl <| rfl
  have f6_10 : fld x 6 10 = (0 : BitVec 10) := hx ▸ fld_low 16 16 rfl <| rfl
  have f21_5 : fld x 21 5 = (BitVec.ofFin (w := 5) d) := hx ▸ fld_high 16 16 rfl <| fld_high 11 5 rfl <| fld_low 6 5 rfl <| fld_whole _
  have f16_5 : fld x 16 5 = (BitVec.ofFin (w := 5) a) := hx ▸ fld_high 16 16 rfl <| fld_low 11 5 rfl <| fld_whole _
  rw [decode, f26_6]
  show decodeMajor01 x = _
  rw [decodeMajor01, f0_6]
  show mbz (fld x 6 10 == 0) (accept (.clz (fld x 21 5).toFin (fld x 16 5).toFin)) = _
  rw [f6_10, f21_5, f16_5]
  exact accept_wellFormed wf
theorem Laws.Encoding.ctz (d : GReg) (a : GReg) : Laws.Encoding.Statement (.ctz d a) := by
  intro x wf h
  have hx : x = (1 : BitVec 6) ++ BitVec.ofFin (w := 5) d ++ BitVec.ofFin (w := 5) a ++ (29 : BitVec 16) := (Option.some.inj h).symm
  have f26_6 : fld x 26 6 = (1 : BitVec 6) := hx ▸ fld_high 16 16 rfl <| fld_high 11 5 rfl <| fld_high 6 5 rfl <| rfl
  have f0_6 : fld x 0 6 = (29 : BitVec 6) := hx ▸ fld_low 16 16 rfl <| rfl
  have f6_10 : fld x 6 10 = (0 : BitVec 10) := hx ▸ fld_low 16 16 rfl <| rfl
  have f21_5 : fld x 21 5 = (BitVec.ofFin (w := 5) d) := hx ▸ fld_high 16 16 rfl <| fld_high 11 5 rfl <| fld_low 6 5 rfl <| fld_whole _
  have f16_5 : fld x 16 5 = (BitVec.ofFin (w := 5) a) := hx ▸ fld_high 16 16 rfl <| fld_low 11 5 rfl <| fld_whole _
  rw [decode, f26_6]
  show decodeMajor01 x = _
  rw [decodeMajor01, f0_6]
  show mbz (fld x 6 10 == 0) (accept (.ctz (fld x 21 5).toFin (fld x 16 5).toFin)) = _
  rw [f6_10, f21_5, f16_5]
  exact accept_wellFormed wf
theorem Laws.Encoding.popc (d : GReg) (a : GReg) : Laws.Encoding.Statement (.popc d a) := by
  intro x wf h
  have hx : x = (1 : BitVec 6) ++ BitVec.ofFin (w := 5) d ++ BitVec.ofFin (w := 5) a ++ (30 : BitVec 16) := (Option.some.inj h).symm
  have f26_6 : fld x 26 6 = (1 : BitVec 6) := hx ▸ fld_high 16 16 rfl <| fld_high 11 5 rfl <| fld_high 6 5 rfl <| rfl
  have f0_6 : fld x 0 6 = (30 : BitVec 6) := hx ▸ fld_low 16 16 rfl <| rfl
  have f6_10 : fld x 6 10 = (0 : BitVec 10) := hx ▸ fld_low 16 16 rfl <| rfl
  have f21_5 : fld x 21 5 = (BitVec.ofFin (w := 5) d) := hx ▸ fld_high 16 16 rfl <| fld_high 11 5 rfl <| fld_low 6 5 rfl <| fld_whole _
  have f16_5 : fld x 16 5 = (BitVec.ofFin (w := 5) a) := hx ▸ fld_high 16 16 rfl <| fld_low 11 5 rfl <| fld_whole _
  rw [decode, f26_6]
  show decodeMajor01 x = _
  rw [decodeMajor01, f0_6]
  show mbz (fld x 6 10 == 0) (accept (.popc (fld x 21 5).toFin (fld x 16 5).toFin)) = _
  rw [f6_10, f21_5, f16_5]
  exact accept_wellFormed wf
theorem Laws.Encoding.bswap (d : GReg) (a : GReg) : Laws.Encoding.Statement (.bswap d a) := by
  intro x wf h
  have hx : x = (1 : BitVec 6) ++ BitVec.ofFin (w := 5) d ++ BitVec.ofFin (w := 5) a ++ (31 : BitVec 16) := (Option.some.inj h).symm
  have f26_6 : fld x 26 6 = (1 : BitVec 6) := hx ▸ fld_high 16 16 rfl <| fld_high 11 5 rfl <| fld_high 6 5 rfl <| rfl
  have f0_6 : fld x 0 6 = (31 : BitVec 6) := hx ▸ fld_low 16 16 rfl <| rfl
  have f6_10 : fld x 6 10 = (0 : BitVec 10) := hx ▸ fld_low 16 16 rfl <| rfl
  have f21_5 : fld x 21 5 = (BitVec.ofFin (w := 5) d) := hx ▸ fld_high 16 16 rfl <| fld_high 11 5 rfl <| fld_low 6 5 rfl <| fld_whole _
  have f16_5 : fld x 16 5 = (BitVec.ofFin (w := 5) a) := hx ▸ fld_high 16 16 rfl <| fld_low 11 5 rfl <| fld_whole _
  rw [decode, f26_6]
  show decodeMajor01 x = _
  rw [decodeMajor01, f0_6]
  show mbz (fld x 6 10 == 0) (accept (.bswap (fld x 21 5).toFin (fld x 16 5).toFin)) = _
  rw [f6_10, f21_5, f16_5]
  exact accept_wellFormed wf
theorem Laws.Encoding.lea (d : GReg) (a : GReg) (b : GReg) (s : BitVec 3) : Laws.Encoding.Statement (.lea d a b s) := by
  intro x wf h
  have hx : x = (1 : BitVec 6) ++ BitVec.ofFin (w := 5) d ++ BitVec.ofFin (w := 5) a ++ BitVec.ofFin (w := 5) b ++ (0 : BitVec 1) ++ s ++ (32 : BitVec 7) := (Option.some.inj h).symm
  have f26_6 : fld x 26 6 = (1 : BitVec 6) := hx ▸ fld_high 25 7 rfl <| fld_high 22 3 rfl <| fld_high 21 1 rfl <| fld_high 16 5 rfl <| fld_high 11 5 rfl <| fld_high 6 5 rfl <| rfl
  have f0_6 : fld x 0 6 = (32 : BitVec 6) := hx ▸ fld_low 25 7 rfl <| rfl
  have f10_1 : fld x 10 1 = (0 : BitVec 1) := hx ▸ fld_high 25 7 rfl <| fld_high 22 3 rfl <| fld_low 21 1 rfl <| rfl
  have f6_1 : fld x 6 1 = (0 : BitVec 1) := hx ▸ fld_low 25 7 rfl <| rfl
  have f21_5 : fld x 21 5 = (BitVec.ofFin (w := 5) d) := hx ▸ fld_high 25 7 rfl <| fld_high 22 3 rfl <| fld_high 21 1 rfl <| fld_high 16 5 rfl <| fld_high 11 5 rfl <| fld_low 6 5 rfl <| fld_whole _
  have f16_5 : fld x 16 5 = (BitVec.ofFin (w := 5) a) := hx ▸ fld_high 25 7 rfl <| fld_high 22 3 rfl <| fld_high 21 1 rfl <| fld_high 16 5 rfl <| fld_low 11 5 rfl <| fld_whole _
  have f11_5 : fld x 11 5 = (BitVec.ofFin (w := 5) b) := hx ▸ fld_high 25 7 rfl <| fld_high 22 3 rfl <| fld_high 21 1 rfl <| fld_low 16 5 rfl <| fld_whole _
  have f7_3 : fld x 7 3 = s := hx ▸ fld_high 25 7 rfl <| fld_low 22 3 rfl <| fld_whole _
  rw [decode, f26_6]
  show decodeMajor01 x = _
  rw [decodeMajor01, f0_6]
  show mbz (fld x 10 1 == 0 && fld x 6 1 == 0) (accept (.lea (fld x 21 5).toFin (fld x 16 5).toFin (fld x 11 5).toFin (fld x 7 3))) = _
  rw [f10_1, f6_1, f21_5, f16_5, f11_5, f7_3]
  exact accept_wellFormed wf
theorem Laws.Encoding.addi (d : GReg) (a : GReg) (i : BitVec 16) : Laws.Encoding.Statement (.addi d a i) := by
  intro x wf h
  have hx : x = (2 : BitVec 6) ++ BitVec.ofFin (w := 5) d ++ BitVec.ofFin (w := 5) a ++ i := (Option.some.inj h).symm
  have f26_6 : fld x 26 6 = (2 : BitVec 6) := hx ▸ fld_high 16 16 rfl <| fld_high 11 5 rfl <| fld_high 6 5 rfl <| rfl
  have f21_5 : fld x 21 5 = (BitVec.ofFin (w := 5) d) := hx ▸ fld_high 16 16 rfl <| fld_high 11 5 rfl <| fld_low 6 5 rfl <| fld_whole _
  have f16_5 : fld x 16 5 = (BitVec.ofFin (w := 5) a) := hx ▸ fld_high 16 16 rfl <| fld_low 11 5 rfl <| fld_whole _
  have f0_16 : fld x 0 16 = i := hx ▸ fld_low 16 16 rfl <| fld_whole _
  rw [decode, f26_6]
  show decodeMajor02 x = _
  rw [decodeMajor02]
  show accept (.addi (fld x 21 5).toFin (fld x 16 5).toFin (fld x 0 16)) = _
  rw [f21_5, f16_5, f0_16]
  exact accept_wellFormed wf
theorem Laws.Encoding.andi (d : GReg) (a : GReg) (i : BitVec 16) : Laws.Encoding.Statement (.andi d a i) := by
  intro x wf h
  have hx : x = (3 : BitVec 6) ++ BitVec.ofFin (w := 5) d ++ BitVec.ofFin (w := 5) a ++ i := (Option.some.inj h).symm
  have f26_6 : fld x 26 6 = (3 : BitVec 6) := hx ▸ fld_high 16 16 rfl <| fld_high 11 5 rfl <| fld_high 6 5 rfl <| rfl
  have f21_5 : fld x 21 5 = (BitVec.ofFin (w := 5) d) := hx ▸ fld_high 16 16 rfl <| fld_high 11 5 rfl <| fld_low 6 5 rfl <| fld_whole _
  have f16_5 : fld x 16 5 = (BitVec.ofFin (w := 5) a) := hx ▸ fld_high 16 16 rfl <| fld_low 11 5 rfl <| fld_whole _
  have f0_16 : fld x 0 16 = i := hx ▸ fld_low 16 16 rfl <| fld_whole _
  rw [decode, f26_6]
  show decodeMajor03 x = _
  rw [decodeMajor03]
  show accept (.andi (fld x 21 5).toFin (fld x 16 5).toFin (fld x 0 16)) = _
  rw [f21_5, f16_5, f0_16]
  exact accept_wellFormed wf
theorem Laws.Encoding.ori (d : GReg) (a : GReg) (i : BitVec 16) : Laws.Encoding.Statement (.ori d a i) := by
  intro x wf h
  have hx : x = (4 : BitVec 6) ++ BitVec.ofFin (w := 5) d ++ BitVec.ofFin (w := 5) a ++ i := (Option.some.inj h).symm
  have f26_6 : fld x 26 6 = (4 : BitVec 6) := hx ▸ fld_high 16 16 rfl <| fld_high 11 5 rfl <| fld_high 6 5 rfl <| rfl
  have f21_5 : fld x 21 5 = (BitVec.ofFin (w := 5) d) := hx ▸ fld_high 16 16 rfl <| fld_high 11 5 rfl <| fld_low 6 5 rfl <| fld_whole _
  have f16_5 : fld x 16 5 = (BitVec.ofFin (w := 5) a) := hx ▸ fld_high 16 16 rfl <| fld_low 11 5 rfl <| fld_whole _
  have f0_16 : fld x 0 16 = i := hx ▸ fld_low 16 16 rfl <| fld_whole _
  rw [decode, f26_6]
  show decodeMajor04 x = _
  rw [decodeMajor04]
  show accept (.ori (fld x 21 5).toFin (fld x 16 5).toFin (fld x 0 16)) = _
  rw [f21_5, f16_5, f0_16]
  exact accept_wellFormed wf
theorem Laws.Encoding.xori (d : GReg) (a : GReg) (i : BitVec 16) : Laws.Encoding.Statement (.xori d a i) := by
  intro x wf h
  have hx : x = (5 : BitVec 6) ++ BitVec.ofFin (w := 5) d ++ BitVec.ofFin (w := 5) a ++ i := (Option.some.inj h).symm
  have f26_6 : fld x 26 6 = (5 : BitVec 6) := hx ▸ fld_high 16 16 rfl <| fld_high 11 5 rfl <| fld_high 6 5 rfl <| rfl
  have f21_5 : fld x 21 5 = (BitVec.ofFin (w := 5) d) := hx ▸ fld_high 16 16 rfl <| fld_high 11 5 rfl <| fld_low 6 5 rfl <| fld_whole _
  have f16_5 : fld x 16 5 = (BitVec.ofFin (w := 5) a) := hx ▸ fld_high 16 16 rfl <| fld_low 11 5 rfl <| fld_whole _
  have f0_16 : fld x 0 16 = i := hx ▸ fld_low 16 16 rfl <| fld_whole _
  rw [decode, f26_6]
  show decodeMajor05 x = _
  rw [decodeMajor05]
  show accept (.xori (fld x 21 5).toFin (fld x 16 5).toFin (fld x 0 16)) = _
  rw [f21_5, f16_5, f0_16]
  exact accept_wellFormed wf
theorem Laws.Encoding.slti (d : GReg) (a : GReg) (i : BitVec 16) : Laws.Encoding.Statement (.slti d a i) := by
  intro x wf h
  have hx : x = (6 : BitVec 6) ++ BitVec.ofFin (w := 5) d ++ BitVec.ofFin (w := 5) a ++ i := (Option.some.inj h).symm
  have f26_6 : fld x 26 6 = (6 : BitVec 6) := hx ▸ fld_high 16 16 rfl <| fld_high 11 5 rfl <| fld_high 6 5 rfl <| rfl
  have f21_5 : fld x 21 5 = (BitVec.ofFin (w := 5) d) := hx ▸ fld_high 16 16 rfl <| fld_high 11 5 rfl <| fld_low 6 5 rfl <| fld_whole _
  have f16_5 : fld x 16 5 = (BitVec.ofFin (w := 5) a) := hx ▸ fld_high 16 16 rfl <| fld_low 11 5 rfl <| fld_whole _
  have f0_16 : fld x 0 16 = i := hx ▸ fld_low 16 16 rfl <| fld_whole _
  rw [decode, f26_6]
  show decodeMajor06 x = _
  rw [decodeMajor06]
  show accept (.slti (fld x 21 5).toFin (fld x 16 5).toFin (fld x 0 16)) = _
  rw [f21_5, f16_5, f0_16]
  exact accept_wellFormed wf
theorem Laws.Encoding.slli (d : GReg) (a : GReg) (w : Bool) (n : BitVec 6) : Laws.Encoding.Statement (.slli d a w n) := by
  intro x wf h
  have hx : x = (7 : BitVec 6) ++ BitVec.ofFin (w := 5) d ++ BitVec.ofFin (w := 5) a ++ (0 : BitVec 9) ++ BitVec.ofBool w ++ n := (Option.some.inj h).symm
  have f26_6 : fld x 26 6 = (7 : BitVec 6) := hx ▸ fld_high 26 6 rfl <| fld_high 25 1 rfl <| fld_high 16 9 rfl <| fld_high 11 5 rfl <| fld_high 6 5 rfl <| rfl
  have f7_2 : fld x 7 2 = (0 : BitVec 2) := hx ▸ fld_high 26 6 rfl <| fld_high 25 1 rfl <| fld_low 16 9 rfl <| rfl
  have f9_7 : fld x 9 7 = (0 : BitVec 7) := hx ▸ fld_high 26 6 rfl <| fld_high 25 1 rfl <| fld_low 16 9 rfl <| rfl
  have f21_5 : fld x 21 5 = (BitVec.ofFin (w := 5) d) := hx ▸ fld_high 26 6 rfl <| fld_high 25 1 rfl <| fld_high 16 9 rfl <| fld_high 11 5 rfl <| fld_low 6 5 rfl <| fld_whole _
  have f16_5 : fld x 16 5 = (BitVec.ofFin (w := 5) a) := hx ▸ fld_high 26 6 rfl <| fld_high 25 1 rfl <| fld_high 16 9 rfl <| fld_low 11 5 rfl <| fld_whole _
  have f6_1 : fld x 6 1 = (BitVec.ofBool w) := hx ▸ fld_high 26 6 rfl <| fld_low 25 1 rfl <| fld_whole _
  have f0_6 : fld x 0 6 = n := hx ▸ fld_low 26 6 rfl <| fld_whole _
  rw [decode, f26_6]
  show decodeMajor07 x = _
  rw [decodeMajor07, f7_2]
  show mbz (fld x 9 7 == 0) (accept (.slli (fld x 21 5).toFin (fld x 16 5).toFin (fld x 6 1 == 1) (fld x 0 6))) = _
  rw [f9_7, f21_5, f16_5, f6_1, f0_6, ofBool_isOne w]
  exact accept_wellFormed wf
theorem Laws.Encoding.srli (d : GReg) (a : GReg) (w : Bool) (n : BitVec 6) : Laws.Encoding.Statement (.srli d a w n) := by
  intro x wf h
  have hx : x = (7 : BitVec 6) ++ BitVec.ofFin (w := 5) d ++ BitVec.ofFin (w := 5) a ++ (1 : BitVec 9) ++ BitVec.ofBool w ++ n := (Option.some.inj h).symm
  have f26_6 : fld x 26 6 = (7 : BitVec 6) := hx ▸ fld_high 26 6 rfl <| fld_high 25 1 rfl <| fld_high 16 9 rfl <| fld_high 11 5 rfl <| fld_high 6 5 rfl <| rfl
  have f7_2 : fld x 7 2 = (1 : BitVec 2) := hx ▸ fld_high 26 6 rfl <| fld_high 25 1 rfl <| fld_low 16 9 rfl <| rfl
  have f9_7 : fld x 9 7 = (0 : BitVec 7) := hx ▸ fld_high 26 6 rfl <| fld_high 25 1 rfl <| fld_low 16 9 rfl <| rfl
  have f21_5 : fld x 21 5 = (BitVec.ofFin (w := 5) d) := hx ▸ fld_high 26 6 rfl <| fld_high 25 1 rfl <| fld_high 16 9 rfl <| fld_high 11 5 rfl <| fld_low 6 5 rfl <| fld_whole _
  have f16_5 : fld x 16 5 = (BitVec.ofFin (w := 5) a) := hx ▸ fld_high 26 6 rfl <| fld_high 25 1 rfl <| fld_high 16 9 rfl <| fld_low 11 5 rfl <| fld_whole _
  have f6_1 : fld x 6 1 = (BitVec.ofBool w) := hx ▸ fld_high 26 6 rfl <| fld_low 25 1 rfl <| fld_whole _
  have f0_6 : fld x 0 6 = n := hx ▸ fld_low 26 6 rfl <| fld_whole _
  rw [decode, f26_6]
  show decodeMajor07 x = _
  rw [decodeMajor07, f7_2]
  show mbz (fld x 9 7 == 0) (accept (.srli (fld x 21 5).toFin (fld x 16 5).toFin (fld x 6 1 == 1) (fld x 0 6))) = _
  rw [f9_7, f21_5, f16_5, f6_1, f0_6, ofBool_isOne w]
  exact accept_wellFormed wf
theorem Laws.Encoding.srai (d : GReg) (a : GReg) (w : Bool) (n : BitVec 6) : Laws.Encoding.Statement (.srai d a w n) := by
  intro x wf h
  have hx : x = (7 : BitVec 6) ++ BitVec.ofFin (w := 5) d ++ BitVec.ofFin (w := 5) a ++ (2 : BitVec 9) ++ BitVec.ofBool w ++ n := (Option.some.inj h).symm
  have f26_6 : fld x 26 6 = (7 : BitVec 6) := hx ▸ fld_high 26 6 rfl <| fld_high 25 1 rfl <| fld_high 16 9 rfl <| fld_high 11 5 rfl <| fld_high 6 5 rfl <| rfl
  have f7_2 : fld x 7 2 = (2 : BitVec 2) := hx ▸ fld_high 26 6 rfl <| fld_high 25 1 rfl <| fld_low 16 9 rfl <| rfl
  have f9_7 : fld x 9 7 = (0 : BitVec 7) := hx ▸ fld_high 26 6 rfl <| fld_high 25 1 rfl <| fld_low 16 9 rfl <| rfl
  have f21_5 : fld x 21 5 = (BitVec.ofFin (w := 5) d) := hx ▸ fld_high 26 6 rfl <| fld_high 25 1 rfl <| fld_high 16 9 rfl <| fld_high 11 5 rfl <| fld_low 6 5 rfl <| fld_whole _
  have f16_5 : fld x 16 5 = (BitVec.ofFin (w := 5) a) := hx ▸ fld_high 26 6 rfl <| fld_high 25 1 rfl <| fld_high 16 9 rfl <| fld_low 11 5 rfl <| fld_whole _
  have f6_1 : fld x 6 1 = (BitVec.ofBool w) := hx ▸ fld_high 26 6 rfl <| fld_low 25 1 rfl <| fld_whole _
  have f0_6 : fld x 0 6 = n := hx ▸ fld_low 26 6 rfl <| fld_whole _
  rw [decode, f26_6]
  show decodeMajor07 x = _
  rw [decodeMajor07, f7_2]
  show mbz (fld x 9 7 == 0) (accept (.srai (fld x 21 5).toFin (fld x 16 5).toFin (fld x 6 1 == 1) (fld x 0 6))) = _
  rw [f9_7, f21_5, f16_5, f6_1, f0_6, ofBool_isOne w]
  exact accept_wellFormed wf
theorem Laws.Encoding.roli (d : GReg) (a : GReg) (w : Bool) (n : BitVec 6) : Laws.Encoding.Statement (.roli d a w n) := by
  intro x wf h
  have hx : x = (7 : BitVec 6) ++ BitVec.ofFin (w := 5) d ++ BitVec.ofFin (w := 5) a ++ (3 : BitVec 9) ++ BitVec.ofBool w ++ n := (Option.some.inj h).symm
  have f26_6 : fld x 26 6 = (7 : BitVec 6) := hx ▸ fld_high 26 6 rfl <| fld_high 25 1 rfl <| fld_high 16 9 rfl <| fld_high 11 5 rfl <| fld_high 6 5 rfl <| rfl
  have f7_2 : fld x 7 2 = (3 : BitVec 2) := hx ▸ fld_high 26 6 rfl <| fld_high 25 1 rfl <| fld_low 16 9 rfl <| rfl
  have f9_7 : fld x 9 7 = (0 : BitVec 7) := hx ▸ fld_high 26 6 rfl <| fld_high 25 1 rfl <| fld_low 16 9 rfl <| rfl
  have f21_5 : fld x 21 5 = (BitVec.ofFin (w := 5) d) := hx ▸ fld_high 26 6 rfl <| fld_high 25 1 rfl <| fld_high 16 9 rfl <| fld_high 11 5 rfl <| fld_low 6 5 rfl <| fld_whole _
  have f16_5 : fld x 16 5 = (BitVec.ofFin (w := 5) a) := hx ▸ fld_high 26 6 rfl <| fld_high 25 1 rfl <| fld_high 16 9 rfl <| fld_low 11 5 rfl <| fld_whole _
  have f6_1 : fld x 6 1 = (BitVec.ofBool w) := hx ▸ fld_high 26 6 rfl <| fld_low 25 1 rfl <| fld_whole _
  have f0_6 : fld x 0 6 = n := hx ▸ fld_low 26 6 rfl <| fld_whole _
  rw [decode, f26_6]
  show decodeMajor07 x = _
  rw [decodeMajor07, f7_2]
  show mbz (fld x 9 7 == 0) (accept (.roli (fld x 21 5).toFin (fld x 16 5).toFin (fld x 6 1 == 1) (fld x 0 6))) = _
  rw [f9_7, f21_5, f16_5, f6_1, f0_6, ofBool_isOne w]
  exact accept_wellFormed wf
theorem Laws.Encoding.movi (d : GReg) (i : BitVec 21) : Laws.Encoding.Statement (.movi d i) := by
  intro x wf h
  have hx : x = (8 : BitVec 6) ++ BitVec.ofFin (w := 5) d ++ i := (Option.some.inj h).symm
  have f26_6 : fld x 26 6 = (8 : BitVec 6) := hx ▸ fld_high 11 21 rfl <| fld_high 6 5 rfl <| rfl
  have f21_5 : fld x 21 5 = (BitVec.ofFin (w := 5) d) := hx ▸ fld_high 11 21 rfl <| fld_low 6 5 rfl <| fld_whole _
  have f0_21 : fld x 0 21 = i := hx ▸ fld_low 11 21 rfl <| fld_whole _
  rw [decode, f26_6]
  show decodeMajor08 x = _
  rw [decodeMajor08]
  show accept (.movi (fld x 21 5).toFin (fld x 0 21)) = _
  rw [f21_5, f0_21]
  exact accept_wellFormed wf
theorem Laws.Encoding.movhi (d : GReg) (i : BitVec 21) : Laws.Encoding.Statement (.movhi d i) := by
  intro x wf h
  have hx : x = (9 : BitVec 6) ++ BitVec.ofFin (w := 5) d ++ i := (Option.some.inj h).symm
  have f26_6 : fld x 26 6 = (9 : BitVec 6) := hx ▸ fld_high 11 21 rfl <| fld_high 6 5 rfl <| rfl
  have f21_5 : fld x 21 5 = (BitVec.ofFin (w := 5) d) := hx ▸ fld_high 11 21 rfl <| fld_low 6 5 rfl <| fld_whole _
  have f0_21 : fld x 0 21 = i := hx ▸ fld_low 11 21 rfl <| fld_whole _
  rw [decode, f26_6]
  show decodeMajor09 x = _
  rw [decodeMajor09]
  show accept (.movhi (fld x 21 5).toFin (fld x 0 21)) = _
  rw [f21_5, f0_21]
  exact accept_wellFormed wf
theorem Laws.Encoding.addpc (d : GReg) (i : BitVec 21) : Laws.Encoding.Statement (.addpc d i) := by
  intro x wf h
  have hx : x = (10 : BitVec 6) ++ BitVec.ofFin (w := 5) d ++ i := (Option.some.inj h).symm
  have f26_6 : fld x 26 6 = (10 : BitVec 6) := hx ▸ fld_high 11 21 rfl <| fld_high 6 5 rfl <| rfl
  have f21_5 : fld x 21 5 = (BitVec.ofFin (w := 5) d) := hx ▸ fld_high 11 21 rfl <| fld_low 6 5 rfl <| fld_whole _
  have f0_21 : fld x 0 21 = i := hx ▸ fld_low 11 21 rfl <| fld_whole _
  rw [decode, f26_6]
  show decodeMajor0A x = _
  rw [decodeMajor0A]
  show accept (.addpc (fld x 21 5).toFin (fld x 0 21)) = _
  rw [f21_5, f0_21]
  exact accept_wellFormed wf
theorem Laws.Encoding.bcEqz (a : GReg) (i : BitVec 16) : Laws.Encoding.Statement (.bcEqz a i) := by
  intro x wf h
  have hx : x = (16 : BitVec 6) ++ (0 : BitVec 5) ++ BitVec.ofFin (w := 5) a ++ i := (Option.some.inj h).symm
  have f26_6 : fld x 26 6 = (16 : BitVec 6) := hx ▸ fld_high 16 16 rfl <| fld_high 11 5 rfl <| fld_high 6 5 rfl <| rfl
  have f21_5 : fld x 21 5 = (0 : BitVec 5) := hx ▸ fld_high 16 16 rfl <| fld_high 11 5 rfl <| fld_low 6 5 rfl <| rfl
  have f16_5 : fld x 16 5 = (BitVec.ofFin (w := 5) a) := hx ▸ fld_high 16 16 rfl <| fld_low 11 5 rfl <| fld_whole _
  have f0_16 : fld x 0 16 = i := hx ▸ fld_low 16 16 rfl <| fld_whole _
  rw [decode, f26_6]
  show decodeMajor10 x = _
  rw [decodeMajor10, f21_5]
  show accept (.bcEqz (fld x 16 5).toFin (fld x 0 16)) = _
  rw [f16_5, f0_16]
  exact accept_wellFormed wf
theorem Laws.Encoding.bcNez (a : GReg) (i : BitVec 16) : Laws.Encoding.Statement (.bcNez a i) := by
  intro x wf h
  have hx : x = (16 : BitVec 6) ++ (1 : BitVec 5) ++ BitVec.ofFin (w := 5) a ++ i := (Option.some.inj h).symm
  have f26_6 : fld x 26 6 = (16 : BitVec 6) := hx ▸ fld_high 16 16 rfl <| fld_high 11 5 rfl <| fld_high 6 5 rfl <| rfl
  have f21_5 : fld x 21 5 = (1 : BitVec 5) := hx ▸ fld_high 16 16 rfl <| fld_high 11 5 rfl <| fld_low 6 5 rfl <| rfl
  have f16_5 : fld x 16 5 = (BitVec.ofFin (w := 5) a) := hx ▸ fld_high 16 16 rfl <| fld_low 11 5 rfl <| fld_whole _
  have f0_16 : fld x 0 16 = i := hx ▸ fld_low 16 16 rfl <| fld_whole _
  rw [decode, f26_6]
  show decodeMajor10 x = _
  rw [decodeMajor10, f21_5]
  show accept (.bcNez (fld x 16 5).toFin (fld x 0 16)) = _
  rw [f16_5, f0_16]
  exact accept_wellFormed wf
theorem Laws.Encoding.bcLtz (a : GReg) (i : BitVec 16) : Laws.Encoding.Statement (.bcLtz a i) := by
  intro x wf h
  have hx : x = (16 : BitVec 6) ++ (2 : BitVec 5) ++ BitVec.ofFin (w := 5) a ++ i := (Option.some.inj h).symm
  have f26_6 : fld x 26 6 = (16 : BitVec 6) := hx ▸ fld_high 16 16 rfl <| fld_high 11 5 rfl <| fld_high 6 5 rfl <| rfl
  have f21_5 : fld x 21 5 = (2 : BitVec 5) := hx ▸ fld_high 16 16 rfl <| fld_high 11 5 rfl <| fld_low 6 5 rfl <| rfl
  have f16_5 : fld x 16 5 = (BitVec.ofFin (w := 5) a) := hx ▸ fld_high 16 16 rfl <| fld_low 11 5 rfl <| fld_whole _
  have f0_16 : fld x 0 16 = i := hx ▸ fld_low 16 16 rfl <| fld_whole _
  rw [decode, f26_6]
  show decodeMajor10 x = _
  rw [decodeMajor10, f21_5]
  show accept (.bcLtz (fld x 16 5).toFin (fld x 0 16)) = _
  rw [f16_5, f0_16]
  exact accept_wellFormed wf
theorem Laws.Encoding.bcGez (a : GReg) (i : BitVec 16) : Laws.Encoding.Statement (.bcGez a i) := by
  intro x wf h
  have hx : x = (16 : BitVec 6) ++ (3 : BitVec 5) ++ BitVec.ofFin (w := 5) a ++ i := (Option.some.inj h).symm
  have f26_6 : fld x 26 6 = (16 : BitVec 6) := hx ▸ fld_high 16 16 rfl <| fld_high 11 5 rfl <| fld_high 6 5 rfl <| rfl
  have f21_5 : fld x 21 5 = (3 : BitVec 5) := hx ▸ fld_high 16 16 rfl <| fld_high 11 5 rfl <| fld_low 6 5 rfl <| rfl
  have f16_5 : fld x 16 5 = (BitVec.ofFin (w := 5) a) := hx ▸ fld_high 16 16 rfl <| fld_low 11 5 rfl <| fld_whole _
  have f0_16 : fld x 0 16 = i := hx ▸ fld_low 16 16 rfl <| fld_whole _
  rw [decode, f26_6]
  show decodeMajor10 x = _
  rw [decodeMajor10, f21_5]
  show accept (.bcGez (fld x 16 5).toFin (fld x 0 16)) = _
  rw [f16_5, f0_16]
  exact accept_wellFormed wf
theorem Laws.Encoding.bcGtz (a : GReg) (i : BitVec 16) : Laws.Encoding.Statement (.bcGtz a i) := by
  intro x wf h
  have hx : x = (16 : BitVec 6) ++ (4 : BitVec 5) ++ BitVec.ofFin (w := 5) a ++ i := (Option.some.inj h).symm
  have f26_6 : fld x 26 6 = (16 : BitVec 6) := hx ▸ fld_high 16 16 rfl <| fld_high 11 5 rfl <| fld_high 6 5 rfl <| rfl
  have f21_5 : fld x 21 5 = (4 : BitVec 5) := hx ▸ fld_high 16 16 rfl <| fld_high 11 5 rfl <| fld_low 6 5 rfl <| rfl
  have f16_5 : fld x 16 5 = (BitVec.ofFin (w := 5) a) := hx ▸ fld_high 16 16 rfl <| fld_low 11 5 rfl <| fld_whole _
  have f0_16 : fld x 0 16 = i := hx ▸ fld_low 16 16 rfl <| fld_whole _
  rw [decode, f26_6]
  show decodeMajor10 x = _
  rw [decodeMajor10, f21_5]
  show accept (.bcGtz (fld x 16 5).toFin (fld x 0 16)) = _
  rw [f16_5, f0_16]
  exact accept_wellFormed wf
theorem Laws.Encoding.bcLez (a : GReg) (i : BitVec 16) : Laws.Encoding.Statement (.bcLez a i) := by
  intro x wf h
  have hx : x = (16 : BitVec 6) ++ (5 : BitVec 5) ++ BitVec.ofFin (w := 5) a ++ i := (Option.some.inj h).symm
  have f26_6 : fld x 26 6 = (16 : BitVec 6) := hx ▸ fld_high 16 16 rfl <| fld_high 11 5 rfl <| fld_high 6 5 rfl <| rfl
  have f21_5 : fld x 21 5 = (5 : BitVec 5) := hx ▸ fld_high 16 16 rfl <| fld_high 11 5 rfl <| fld_low 6 5 rfl <| rfl
  have f16_5 : fld x 16 5 = (BitVec.ofFin (w := 5) a) := hx ▸ fld_high 16 16 rfl <| fld_low 11 5 rfl <| fld_whole _
  have f0_16 : fld x 0 16 = i := hx ▸ fld_low 16 16 rfl <| fld_whole _
  rw [decode, f26_6]
  show decodeMajor10 x = _
  rw [decodeMajor10, f21_5]
  show accept (.bcLez (fld x 16 5).toFin (fld x 0 16)) = _
  rw [f16_5, f0_16]
  exact accept_wellFormed wf
theorem Laws.Encoding.jl (d : GReg) (i : BitVec 21) : Laws.Encoding.Statement (.jl d i) := by
  intro x wf h
  have hx : x = (17 : BitVec 6) ++ BitVec.ofFin (w := 5) d ++ i := (Option.some.inj h).symm
  have f26_6 : fld x 26 6 = (17 : BitVec 6) := hx ▸ fld_high 11 21 rfl <| fld_high 6 5 rfl <| rfl
  have f21_5 : fld x 21 5 = (BitVec.ofFin (w := 5) d) := hx ▸ fld_high 11 21 rfl <| fld_low 6 5 rfl <| fld_whole _
  have f0_21 : fld x 0 21 = i := hx ▸ fld_low 11 21 rfl <| fld_whole _
  rw [decode, f26_6]
  show decodeMajor11 x = _
  rw [decodeMajor11]
  show accept (.jl (fld x 21 5).toFin (fld x 0 21)) = _
  rw [f21_5, f0_21]
  exact accept_wellFormed wf
theorem Laws.Encoding.prep (k : BReg) (i : BitVec 21) : Laws.Encoding.Statement (.prep k i) := by
  intro x wf h
  have hx : x = (18 : BitVec 6) ++ (0 : BitVec 2) ++ BitVec.ofFin (w := 3) k ++ i := (Option.some.inj h).symm
  have f26_6 : fld x 26 6 = (18 : BitVec 6) := hx ▸ fld_high 11 21 rfl <| fld_high 8 3 rfl <| fld_high 6 2 rfl <| rfl
  have f24_2 : fld x 24 2 = (0 : BitVec 2) := hx ▸ fld_high 11 21 rfl <| fld_high 8 3 rfl <| fld_low 6 2 rfl <| rfl
  have f21_3 : fld x 21 3 = (BitVec.ofFin (w := 3) k) := hx ▸ fld_high 11 21 rfl <| fld_low 8 3 rfl <| fld_whole _
  have f0_21 : fld x 0 21 = i := hx ▸ fld_low 11 21 rfl <| fld_whole _
  rw [decode, f26_6]
  show decodeMajor12 x = _
  rw [decodeMajor12]
  show mbz (fld x 24 2 == 0) (accept (.prep (fld x 21 3).toFin (fld x 0 21))) = _
  rw [f24_2, f21_3, f0_21]
  exact accept_wellFormed wf
theorem Laws.Encoding.jr (a : GReg) : Laws.Encoding.Statement (.jr a) := by
  intro x wf h
  have hx : x = (19 : BitVec 6) ++ (0 : BitVec 5) ++ BitVec.ofFin (w := 5) a ++ (0 : BitVec 16) := (Option.some.inj h).symm
  have f26_6 : fld x 26 6 = (19 : BitVec 6) := hx ▸ fld_high 16 16 rfl <| fld_high 11 5 rfl <| fld_high 6 5 rfl <| rfl
  have f0_3 : fld x 0 3 = (0 : BitVec 3) := hx ▸ fld_low 16 16 rfl <| rfl
  have f21_5 : fld x 21 5 = (0 : BitVec 5) := hx ▸ fld_high 16 16 rfl <| fld_high 11 5 rfl <| fld_low 6 5 rfl <| rfl
  have f3_13 : fld x 3 13 = (0 : BitVec 13) := hx ▸ fld_low 16 16 rfl <| rfl
  have f16_5 : fld x 16 5 = (BitVec.ofFin (w := 5) a) := hx ▸ fld_high 16 16 rfl <| fld_low 11 5 rfl <| fld_whole _
  rw [decode, f26_6]
  show decodeMajor13 x = _
  rw [decodeMajor13, f0_3]
  show mbz (fld x 21 5 == 0 && fld x 3 13 == 0) (accept (.jr (fld x 16 5).toFin)) = _
  rw [f21_5, f3_13, f16_5]
  exact accept_wellFormed wf
theorem Laws.Encoding.jlr (d : GReg) (a : GReg) : Laws.Encoding.Statement (.jlr d a) := by
  intro x wf h
  have hx : x = (19 : BitVec 6) ++ BitVec.ofFin (w := 5) d ++ BitVec.ofFin (w := 5) a ++ (1 : BitVec 16) := (Option.some.inj h).symm
  have f26_6 : fld x 26 6 = (19 : BitVec 6) := hx ▸ fld_high 16 16 rfl <| fld_high 11 5 rfl <| fld_high 6 5 rfl <| rfl
  have f0_3 : fld x 0 3 = (1 : BitVec 3) := hx ▸ fld_low 16 16 rfl <| rfl
  have f3_13 : fld x 3 13 = (0 : BitVec 13) := hx ▸ fld_low 16 16 rfl <| rfl
  have f21_5 : fld x 21 5 = (BitVec.ofFin (w := 5) d) := hx ▸ fld_high 16 16 rfl <| fld_high 11 5 rfl <| fld_low 6 5 rfl <| fld_whole _
  have f16_5 : fld x 16 5 = (BitVec.ofFin (w := 5) a) := hx ▸ fld_high 16 16 rfl <| fld_low 11 5 rfl <| fld_whole _
  rw [decode, f26_6]
  show decodeMajor13 x = _
  rw [decodeMajor13, f0_3]
  show mbz (fld x 3 13 == 0) (accept (.jlr (fld x 21 5).toFin (fld x 16 5).toFin)) = _
  rw [f3_13, f21_5, f16_5]
  exact accept_wellFormed wf
theorem Laws.Encoding.jb (k : BReg) : Laws.Encoding.Statement (.jb k) := by
  intro x wf h
  have hx : x = (19 : BitVec 6) ++ (0 : BitVec 12) ++ BitVec.ofFin (w := 3) k ++ (2 : BitVec 11) := (Option.some.inj h).symm
  have f26_6 : fld x 26 6 = (19 : BitVec 6) := hx ▸ fld_high 21 11 rfl <| fld_high 18 3 rfl <| fld_high 6 12 rfl <| rfl
  have f0_3 : fld x 0 3 = (2 : BitVec 3) := hx ▸ fld_low 21 11 rfl <| rfl
  have f14_12 : fld x 14 12 = (0 : BitVec 12) := hx ▸ fld_high 21 11 rfl <| fld_high 18 3 rfl <| fld_low 6 12 rfl <| rfl
  have f3_8 : fld x 3 8 = (0 : BitVec 8) := hx ▸ fld_low 21 11 rfl <| rfl
  have f11_3 : fld x 11 3 = (BitVec.ofFin (w := 3) k) := hx ▸ fld_high 21 11 rfl <| fld_low 18 3 rfl <| fld_whole _
  rw [decode, f26_6]
  show decodeMajor13 x = _
  rw [decodeMajor13, f0_3]
  show mbz (fld x 14 12 == 0 && fld x 3 8 == 0) (accept (.jb (fld x 11 3).toFin)) = _
  rw [f14_12, f3_8, f11_3]
  exact accept_wellFormed wf
theorem Laws.Encoding.jbl (d : GReg) (k : BReg) : Laws.Encoding.Statement (.jbl d k) := by
  intro x wf h
  have hx : x = (19 : BitVec 6) ++ BitVec.ofFin (w := 5) d ++ (0 : BitVec 7) ++ BitVec.ofFin (w := 3) k ++ (3 : BitVec 11) := (Option.some.inj h).symm
  have f26_6 : fld x 26 6 = (19 : BitVec 6) := hx ▸ fld_high 21 11 rfl <| fld_high 18 3 rfl <| fld_high 11 7 rfl <| fld_high 6 5 rfl <| rfl
  have f0_3 : fld x 0 3 = (3 : BitVec 3) := hx ▸ fld_low 21 11 rfl <| rfl
  have f14_7 : fld x 14 7 = (0 : BitVec 7) := hx ▸ fld_high 21 11 rfl <| fld_high 18 3 rfl <| fld_low 11 7 rfl <| rfl
  have f3_8 : fld x 3 8 = (0 : BitVec 8) := hx ▸ fld_low 21 11 rfl <| rfl
  have f21_5 : fld x 21 5 = (BitVec.ofFin (w := 5) d) := hx ▸ fld_high 21 11 rfl <| fld_high 18 3 rfl <| fld_high 11 7 rfl <| fld_low 6 5 rfl <| fld_whole _
  have f11_3 : fld x 11 3 = (BitVec.ofFin (w := 3) k) := hx ▸ fld_high 21 11 rfl <| fld_low 18 3 rfl <| fld_whole _
  rw [decode, f26_6]
  show decodeMajor13 x = _
  rw [decodeMajor13, f0_3]
  show mbz (fld x 14 7 == 0 && fld x 3 8 == 0) (accept (.jbl (fld x 21 5).toFin (fld x 11 3).toFin)) = _
  rw [f14_7, f3_8, f21_5, f11_3]
  exact accept_wellFormed wf
theorem Laws.Encoding.bcb (c : Cond) (a : GReg) (k : BReg) : Laws.Encoding.Statement (.bcb c a k) := by
  intro x wf h
  have hx : x = (19 : BitVec 6) ++ c.code ++ BitVec.ofFin (w := 5) a ++ (0 : BitVec 2) ++ BitVec.ofFin (w := 3) k ++ (4 : BitVec 11) := (Option.some.inj h).symm
  have f26_6 : fld x 26 6 = (19 : BitVec 6) := hx ▸ fld_high 21 11 rfl <| fld_high 18 3 rfl <| fld_high 16 2 rfl <| fld_high 11 5 rfl <| fld_high 6 5 rfl <| rfl
  have f0_3 : fld x 0 3 = (4 : BitVec 3) := hx ▸ fld_low 21 11 rfl <| rfl
  have f14_2 : fld x 14 2 = (0 : BitVec 2) := hx ▸ fld_high 21 11 rfl <| fld_high 18 3 rfl <| fld_low 16 2 rfl <| rfl
  have f3_8 : fld x 3 8 = (0 : BitVec 8) := hx ▸ fld_low 21 11 rfl <| rfl
  have f21_5 : fld x 21 5 = c.code := hx ▸ fld_high 21 11 rfl <| fld_high 18 3 rfl <| fld_high 16 2 rfl <| fld_high 11 5 rfl <| fld_low 6 5 rfl <| fld_whole _
  have f16_5 : fld x 16 5 = (BitVec.ofFin (w := 5) a) := hx ▸ fld_high 21 11 rfl <| fld_high 18 3 rfl <| fld_high 16 2 rfl <| fld_low 11 5 rfl <| fld_whole _
  have f11_3 : fld x 11 3 = (BitVec.ofFin (w := 3) k) := hx ▸ fld_high 21 11 rfl <| fld_low 18 3 rfl <| fld_whole _
  rw [decode, f26_6]
  show decodeMajor13 x = _
  rw [decodeMajor13, f0_3]
  show mbz (fld x 14 2 == 0 && fld x 3 8 == 0) (ofOption (Cond.ofCode (fld x 21 5)) fun c => .bcb c (fld x 16 5).toFin (fld x 11 3).toFin) = _
  rw [f14_2, f3_8, f21_5, f16_5, f11_3, Cond.ofCode_code c]
  exact accept_wellFormed wf
theorem Laws.Encoding.prepr (a : GReg) (k : BReg) : Laws.Encoding.Statement (.prepr a k) := by
  intro x wf h
  have hx : x = (19 : BitVec 6) ++ (0 : BitVec 5) ++ BitVec.ofFin (w := 5) a ++ (0 : BitVec 2) ++ BitVec.ofFin (w := 3) k ++ (5 : BitVec 11) := (Option.some.inj h).symm
  have f26_6 : fld x 26 6 = (19 : BitVec 6) := hx ▸ fld_high 21 11 rfl <| fld_high 18 3 rfl <| fld_high 16 2 rfl <| fld_high 11 5 rfl <| fld_high 6 5 rfl <| rfl
  have f0_3 : fld x 0 3 = (5 : BitVec 3) := hx ▸ fld_low 21 11 rfl <| rfl
  have f21_5 : fld x 21 5 = (0 : BitVec 5) := hx ▸ fld_high 21 11 rfl <| fld_high 18 3 rfl <| fld_high 16 2 rfl <| fld_high 11 5 rfl <| fld_low 6 5 rfl <| rfl
  have f14_2 : fld x 14 2 = (0 : BitVec 2) := hx ▸ fld_high 21 11 rfl <| fld_high 18 3 rfl <| fld_low 16 2 rfl <| rfl
  have f3_8 : fld x 3 8 = (0 : BitVec 8) := hx ▸ fld_low 21 11 rfl <| rfl
  have f16_5 : fld x 16 5 = (BitVec.ofFin (w := 5) a) := hx ▸ fld_high 21 11 rfl <| fld_high 18 3 rfl <| fld_high 16 2 rfl <| fld_low 11 5 rfl <| fld_whole _
  have f11_3 : fld x 11 3 = (BitVec.ofFin (w := 3) k) := hx ▸ fld_high 21 11 rfl <| fld_low 18 3 rfl <| fld_whole _
  rw [decode, f26_6]
  show decodeMajor13 x = _
  rw [decodeMajor13, f0_3]
  show mbz (fld x 21 5 == 0 && fld x 14 2 == 0 && fld x 3 8 == 0) (accept (.prepr (fld x 16 5).toFin (fld x 11 3).toFin)) = _
  rw [f21_5, f14_2, f3_8, f16_5, f11_3]
  exact accept_wellFormed wf
theorem Laws.Encoding.loop (a : GReg) (n : BitVec 16) : Laws.Encoding.Statement (.loop a n) := by
  intro x wf h
  have hx : x = (20 : BitVec 6) ++ (0 : BitVec 5) ++ BitVec.ofFin (w := 5) a ++ n := (Option.some.inj h).symm
  have f26_6 : fld x 26 6 = (20 : BitVec 6) := hx ▸ fld_high 16 16 rfl <| fld_high 11 5 rfl <| fld_high 6 5 rfl <| rfl
  have f21_5 : fld x 21 5 = (0 : BitVec 5) := hx ▸ fld_high 16 16 rfl <| fld_high 11 5 rfl <| fld_low 6 5 rfl <| rfl
  have f16_5 : fld x 16 5 = (BitVec.ofFin (w := 5) a) := hx ▸ fld_high 16 16 rfl <| fld_low 11 5 rfl <| fld_whole _
  have f0_16 : fld x 0 16 = n := hx ▸ fld_low 16 16 rfl <| fld_whole _
  rw [decode, f26_6]
  show decodeMajor14 x = _
  rw [decodeMajor14]
  show mbz (fld x 21 5 == 0) (accept (.loop (fld x 16 5).toFin (fld x 0 16))) = _
  rw [f21_5, f16_5, f0_16]
  exact accept_wellFormed wf
theorem Laws.Encoding.loopi (c : BitVec 10) (n : BitVec 16) : Laws.Encoding.Statement (.loopi c n) := by
  intro x wf h
  have hx : x = (21 : BitVec 6) ++ c ++ n := (Option.some.inj h).symm
  have f26_6 : fld x 26 6 = (21 : BitVec 6) := hx ▸ fld_high 16 16 rfl <| fld_high 6 10 rfl <| rfl
  have f16_10 : fld x 16 10 = c := hx ▸ fld_high 16 16 rfl <| fld_low 6 10 rfl <| fld_whole _
  have f0_16 : fld x 0 16 = n := hx ▸ fld_low 16 16 rfl <| fld_whole _
  rw [decode, f26_6]
  show decodeMajor15 x = _
  rw [decodeMajor15]
  show accept (.loopi (fld x 16 10) (fld x 0 16)) = _
  rw [f16_10, f0_16]
  exact accept_wellFormed wf
theorem Laws.Encoding.spawn (d : GReg) (k : BReg) : Laws.Encoding.Statement (.spawn d k) := by
  intro x wf h
  have hx : x = (22 : BitVec 6) ++ BitVec.ofFin (w := 5) d ++ (0 : BitVec 7) ++ BitVec.ofFin (w := 3) k ++ (0 : BitVec 11) := (Option.some.inj h).symm
  have f26_6 : fld x 26 6 = (22 : BitVec 6) := hx ▸ fld_high 21 11 rfl <| fld_high 18 3 rfl <| fld_high 11 7 rfl <| fld_high 6 5 rfl <| rfl
  have f0_4 : fld x 0 4 = (0 : BitVec 4) := hx ▸ fld_low 21 11 rfl <| rfl
  have f14_7 : fld x 14 7 = (0 : BitVec 7) := hx ▸ fld_high 21 11 rfl <| fld_high 18 3 rfl <| fld_low 11 7 rfl <| rfl
  have f4_7 : fld x 4 7 = (0 : BitVec 7) := hx ▸ fld_low 21 11 rfl <| rfl
  have f21_5 : fld x 21 5 = (BitVec.ofFin (w := 5) d) := hx ▸ fld_high 21 11 rfl <| fld_high 18 3 rfl <| fld_high 11 7 rfl <| fld_low 6 5 rfl <| fld_whole _
  have f11_3 : fld x 11 3 = (BitVec.ofFin (w := 3) k) := hx ▸ fld_high 21 11 rfl <| fld_low 18 3 rfl <| fld_whole _
  rw [decode, f26_6]
  show decodeMajor16 x = _
  rw [decodeMajor16, f0_4]
  show mbz (fld x 14 7 == 0 && fld x 4 7 == 0) (accept (.spawn (fld x 21 5).toFin (fld x 11 3).toFin)) = _
  rw [f14_7, f4_7, f21_5, f11_3]
  exact accept_wellFormed wf
theorem Laws.Encoding.spawnn (d : GReg) (a : GReg) (k : BReg) : Laws.Encoding.Statement (.spawnn d a k) := by
  intro x wf h
  have hx : x = (22 : BitVec 6) ++ BitVec.ofFin (w := 5) d ++ BitVec.ofFin (w := 5) a ++ (0 : BitVec 2) ++ BitVec.ofFin (w := 3) k ++ (1 : BitVec 11) := (Option.some.inj h).symm
  have f26_6 : fld x 26 6 = (22 : BitVec 6) := hx ▸ fld_high 21 11 rfl <| fld_high 18 3 rfl <| fld_high 16 2 rfl <| fld_high 11 5 rfl <| fld_high 6 5 rfl <| rfl
  have f0_4 : fld x 0 4 = (1 : BitVec 4) := hx ▸ fld_low 21 11 rfl <| rfl
  have f14_2 : fld x 14 2 = (0 : BitVec 2) := hx ▸ fld_high 21 11 rfl <| fld_high 18 3 rfl <| fld_low 16 2 rfl <| rfl
  have f4_7 : fld x 4 7 = (0 : BitVec 7) := hx ▸ fld_low 21 11 rfl <| rfl
  have f21_5 : fld x 21 5 = (BitVec.ofFin (w := 5) d) := hx ▸ fld_high 21 11 rfl <| fld_high 18 3 rfl <| fld_high 16 2 rfl <| fld_high 11 5 rfl <| fld_low 6 5 rfl <| fld_whole _
  have f16_5 : fld x 16 5 = (BitVec.ofFin (w := 5) a) := hx ▸ fld_high 21 11 rfl <| fld_high 18 3 rfl <| fld_high 16 2 rfl <| fld_low 11 5 rfl <| fld_whole _
  have f11_3 : fld x 11 3 = (BitVec.ofFin (w := 3) k) := hx ▸ fld_high 21 11 rfl <| fld_low 18 3 rfl <| fld_whole _
  rw [decode, f26_6]
  show decodeMajor16 x = _
  rw [decodeMajor16, f0_4]
  show mbz (fld x 14 2 == 0 && fld x 4 7 == 0) (accept (.spawnn (fld x 21 5).toFin (fld x 16 5).toFin (fld x 11 3).toFin)) = _
  rw [f14_2, f4_7, f21_5, f16_5, f11_3]
  exact accept_wellFormed wf
theorem Laws.Encoding.fork (k : BReg) : Laws.Encoding.Statement (.fork k) := by
  intro x wf h
  have hx : x = (22 : BitVec 6) ++ (0 : BitVec 12) ++ BitVec.ofFin (w := 3) k ++ (2 : BitVec 11) := (Option.some.inj h).symm
  have f26_6 : fld x 26 6 = (22 : BitVec 6) := hx ▸ fld_high 21 11 rfl <| fld_high 18 3 rfl <| fld_high 6 12 rfl <| rfl
  have f0_4 : fld x 0 4 = (2 : BitVec 4) := hx ▸ fld_low 21 11 rfl <| rfl
  have f14_12 : fld x 14 12 = (0 : BitVec 12) := hx ▸ fld_high 21 11 rfl <| fld_high 18 3 rfl <| fld_low 6 12 rfl <| rfl
  have f4_7 : fld x 4 7 = (0 : BitVec 7) := hx ▸ fld_low 21 11 rfl <| rfl
  have f11_3 : fld x 11 3 = (BitVec.ofFin (w := 3) k) := hx ▸ fld_high 21 11 rfl <| fld_low 18 3 rfl <| fld_whole _
  rw [decode, f26_6]
  show decodeMajor16 x = _
  rw [decodeMajor16, f0_4]
  show mbz (fld x 14 12 == 0 && fld x 4 7 == 0) (accept (.fork (fld x 11 3).toFin)) = _
  rw [f14_12, f4_7, f11_3]
  exact accept_wellFormed wf
theorem Laws.Encoding.join (a : GReg) : Laws.Encoding.Statement (.join a) := by
  intro x wf h
  have hx : x = (22 : BitVec 6) ++ (0 : BitVec 5) ++ BitVec.ofFin (w := 5) a ++ (3 : BitVec 16) := (Option.some.inj h).symm
  have f26_6 : fld x 26 6 = (22 : BitVec 6) := hx ▸ fld_high 16 16 rfl <| fld_high 11 5 rfl <| fld_high 6 5 rfl <| rfl
  have f0_4 : fld x 0 4 = (3 : BitVec 4) := hx ▸ fld_low 16 16 rfl <| rfl
  have f21_5 : fld x 21 5 = (0 : BitVec 5) := hx ▸ fld_high 16 16 rfl <| fld_high 11 5 rfl <| fld_low 6 5 rfl <| rfl
  have f4_12 : fld x 4 12 = (0 : BitVec 12) := hx ▸ fld_low 16 16 rfl <| rfl
  have f16_5 : fld x 16 5 = (BitVec.ofFin (w := 5) a) := hx ▸ fld_high 16 16 rfl <| fld_low 11 5 rfl <| fld_whole _
  rw [decode, f26_6]
  show decodeMajor16 x = _
  rw [decodeMajor16, f0_4]
  show mbz (fld x 21 5 == 0 && fld x 4 12 == 0) (accept (.join (fld x 16 5).toFin)) = _
  rw [f21_5, f4_12, f16_5]
  exact accept_wellFormed wf
theorem Laws.Encoding.callat (d : GReg) (a : GReg) (k : BReg) : Laws.Encoding.Statement (.callat d a k) := by
  intro x wf h
  have hx : x = (22 : BitVec 6) ++ BitVec.ofFin (w := 5) d ++ BitVec.ofFin (w := 5) a ++ (0 : BitVec 2) ++ BitVec.ofFin (w := 3) k ++ (4 : BitVec 11) := (Option.some.inj h).symm
  have f26_6 : fld x 26 6 = (22 : BitVec 6) := hx ▸ fld_high 21 11 rfl <| fld_high 18 3 rfl <| fld_high 16 2 rfl <| fld_high 11 5 rfl <| fld_high 6 5 rfl <| rfl
  have f0_4 : fld x 0 4 = (4 : BitVec 4) := hx ▸ fld_low 21 11 rfl <| rfl
  have f14_2 : fld x 14 2 = (0 : BitVec 2) := hx ▸ fld_high 21 11 rfl <| fld_high 18 3 rfl <| fld_low 16 2 rfl <| rfl
  have f4_7 : fld x 4 7 = (0 : BitVec 7) := hx ▸ fld_low 21 11 rfl <| rfl
  have f21_5 : fld x 21 5 = (BitVec.ofFin (w := 5) d) := hx ▸ fld_high 21 11 rfl <| fld_high 18 3 rfl <| fld_high 16 2 rfl <| fld_high 11 5 rfl <| fld_low 6 5 rfl <| fld_whole _
  have f16_5 : fld x 16 5 = (BitVec.ofFin (w := 5) a) := hx ▸ fld_high 21 11 rfl <| fld_high 18 3 rfl <| fld_high 16 2 rfl <| fld_low 11 5 rfl <| fld_whole _
  have f11_3 : fld x 11 3 = (BitVec.ofFin (w := 3) k) := hx ▸ fld_high 21 11 rfl <| fld_low 18 3 rfl <| fld_whole _
  rw [decode, f26_6]
  show decodeMajor16 x = _
  rw [decodeMajor16, f0_4]
  show mbz (fld x 14 2 == 0 && fld x 4 7 == 0) (accept (.callat (fld x 21 5).toFin (fld x 16 5).toFin (fld x 11 3).toFin)) = _
  rw [f14_2, f4_7, f21_5, f16_5, f11_3]
  exact accept_wellFormed wf
theorem Laws.Encoding.reply (a : GReg) (b : GReg) : Laws.Encoding.Statement (.reply a b) := by
  intro x wf h
  have hx : x = (22 : BitVec 6) ++ (0 : BitVec 5) ++ BitVec.ofFin (w := 5) a ++ BitVec.ofFin (w := 5) b ++ (5 : BitVec 11) := (Option.some.inj h).symm
  have f26_6 : fld x 26 6 = (22 : BitVec 6) := hx ▸ fld_high 21 11 rfl <| fld_high 16 5 rfl <| fld_high 11 5 rfl <| fld_high 6 5 rfl <| rfl
  have f0_4 : fld x 0 4 = (5 : BitVec 4) := hx ▸ fld_low 21 11 rfl <| rfl
  have f21_5 : fld x 21 5 = (0 : BitVec 5) := hx ▸ fld_high 21 11 rfl <| fld_high 16 5 rfl <| fld_high 11 5 rfl <| fld_low 6 5 rfl <| rfl
  have f4_7 : fld x 4 7 = (0 : BitVec 7) := hx ▸ fld_low 21 11 rfl <| rfl
  have f16_5 : fld x 16 5 = (BitVec.ofFin (w := 5) a) := hx ▸ fld_high 21 11 rfl <| fld_high 16 5 rfl <| fld_low 11 5 rfl <| fld_whole _
  have f11_5 : fld x 11 5 = (BitVec.ofFin (w := 5) b) := hx ▸ fld_high 21 11 rfl <| fld_low 16 5 rfl <| fld_whole _
  rw [decode, f26_6]
  show decodeMajor16 x = _
  rw [decodeMajor16, f0_4]
  show mbz (fld x 21 5 == 0 && fld x 4 7 == 0) (accept (.reply (fld x 16 5).toFin (fld x 11 5).toFin)) = _
  rw [f21_5, f4_7, f16_5, f11_5]
  exact accept_wellFormed wf
theorem Laws.Encoding.endT (a : GReg) (e : Bool) : Laws.Encoding.Statement (.endT a e) := by
  intro x wf h
  have hx : x = (22 : BitVec 6) ++ (0 : BitVec 5) ++ BitVec.ofFin (w := 5) a ++ (0 : BitVec 11) ++ BitVec.ofBool e ++ (6 : BitVec 4) := (Option.some.inj h).symm
  have f26_6 : fld x 26 6 = (22 : BitVec 6) := hx ▸ fld_high 28 4 rfl <| fld_high 27 1 rfl <| fld_high 16 11 rfl <| fld_high 11 5 rfl <| fld_high 6 5 rfl <| rfl
  have f0_4 : fld x 0 4 = (6 : BitVec 4) := hx ▸ fld_low 28 4 rfl <| rfl
  have f21_5 : fld x 21 5 = (0 : BitVec 5) := hx ▸ fld_high 28 4 rfl <| fld_high 27 1 rfl <| fld_high 16 11 rfl <| fld_high 11 5 rfl <| fld_low 6 5 rfl <| rfl
  have f5_11 : fld x 5 11 = (0 : BitVec 11) := hx ▸ fld_high 28 4 rfl <| fld_high 27 1 rfl <| fld_low 16 11 rfl <| rfl
  have f16_5 : fld x 16 5 = (BitVec.ofFin (w := 5) a) := hx ▸ fld_high 28 4 rfl <| fld_high 27 1 rfl <| fld_high 16 11 rfl <| fld_low 11 5 rfl <| fld_whole _
  have f4_1 : fld x 4 1 = (BitVec.ofBool e) := hx ▸ fld_high 28 4 rfl <| fld_low 27 1 rfl <| fld_whole _
  rw [decode, f26_6]
  show decodeMajor16 x = _
  rw [decodeMajor16, f0_4]
  show mbz (fld x 21 5 == 0 && fld x 5 11 == 0) (accept (.endT (fld x 16 5).toFin (fld x 4 1 == 1))) = _
  rw [f21_5, f5_11, f16_5, f4_1, ofBool_isOne e]
  exact accept_wellFormed wf
theorem Laws.Encoding.gohome (a : GReg) : Laws.Encoding.Statement (.gohome a) := by
  intro x wf h
  have hx : x = (22 : BitVec 6) ++ (0 : BitVec 5) ++ BitVec.ofFin (w := 5) a ++ (10 : BitVec 16) := (Option.some.inj h).symm
  have f26_6 : fld x 26 6 = (22 : BitVec 6) := hx ▸ fld_high 16 16 rfl <| fld_high 11 5 rfl <| fld_high 6 5 rfl <| rfl
  have f0_4 : fld x 0 4 = (10 : BitVec 4) := hx ▸ fld_low 16 16 rfl <| rfl
  have f21_5 : fld x 21 5 = (0 : BitVec 5) := hx ▸ fld_high 16 16 rfl <| fld_high 11 5 rfl <| fld_low 6 5 rfl <| rfl
  have f4_12 : fld x 4 12 = (0 : BitVec 12) := hx ▸ fld_low 16 16 rfl <| rfl
  have f16_5 : fld x 16 5 = (BitVec.ofFin (w := 5) a) := hx ▸ fld_high 16 16 rfl <| fld_low 11 5 rfl <| fld_whole _
  rw [decode, f26_6]
  show decodeMajor16 x = _
  rw [decodeMajor16, f0_4]
  show mbz (fld x 21 5 == 0 && fld x 4 12 == 0) (accept (.gohome (fld x 16 5).toFin)) = _
  rw [f21_5, f4_12, f16_5]
  exact accept_wellFormed wf
theorem Laws.Encoding.launch (a : GReg) : Laws.Encoding.Statement (.launch a) := by
  intro x wf h
  have hx : x = (22 : BitVec 6) ++ (0 : BitVec 5) ++ BitVec.ofFin (w := 5) a ++ (11 : BitVec 16) := (Option.some.inj h).symm
  have f26_6 : fld x 26 6 = (22 : BitVec 6) := hx ▸ fld_high 16 16 rfl <| fld_high 11 5 rfl <| fld_high 6 5 rfl <| rfl
  have f0_4 : fld x 0 4 = (11 : BitVec 4) := hx ▸ fld_low 16 16 rfl <| rfl
  have f21_5 : fld x 21 5 = (0 : BitVec 5) := hx ▸ fld_high 16 16 rfl <| fld_high 11 5 rfl <| fld_low 6 5 rfl <| rfl
  have f4_12 : fld x 4 12 = (0 : BitVec 12) := hx ▸ fld_low 16 16 rfl <| rfl
  have f16_5 : fld x 16 5 = (BitVec.ofFin (w := 5) a) := hx ▸ fld_high 16 16 rfl <| fld_low 11 5 rfl <| fld_whole _
  rw [decode, f26_6]
  show decodeMajor16 x = _
  rw [decodeMajor16, f0_4]
  show mbz (fld x 21 5 == 0 && fld x 4 12 == 0) (accept (.launch (fld x 16 5).toFin)) = _
  rw [f21_5, f4_12, f16_5]
  exact accept_wellFormed wf
theorem Laws.Encoding.cancel (a : GReg) : Laws.Encoding.Statement (.cancel a) := by
  intro x wf h
  have hx : x = (22 : BitVec 6) ++ (0 : BitVec 5) ++ BitVec.ofFin (w := 5) a ++ (12 : BitVec 16) := (Option.some.inj h).symm
  have f26_6 : fld x 26 6 = (22 : BitVec 6) := hx ▸ fld_high 16 16 rfl <| fld_high 11 5 rfl <| fld_high 6 5 rfl <| rfl
  have f0_4 : fld x 0 4 = (12 : BitVec 4) := hx ▸ fld_low 16 16 rfl <| rfl
  have f21_5 : fld x 21 5 = (0 : BitVec 5) := hx ▸ fld_high 16 16 rfl <| fld_high 11 5 rfl <| fld_low 6 5 rfl <| rfl
  have f4_12 : fld x 4 12 = (0 : BitVec 12) := hx ▸ fld_low 16 16 rfl <| rfl
  have f16_5 : fld x 16 5 = (BitVec.ofFin (w := 5) a) := hx ▸ fld_high 16 16 rfl <| fld_low 11 5 rfl <| fld_whole _
  rw [decode, f26_6]
  show decodeMajor16 x = _
  rw [decodeMajor16, f0_4]
  show mbz (fld x 21 5 == 0 && fld x 4 12 == 0) (accept (.cancel (fld x 16 5).toFin)) = _
  rw [f21_5, f4_12, f16_5]
  exact accept_wellFormed wf
theorem Laws.Encoding.srd (d : GReg) (n : BitVec 10) : Laws.Encoding.Statement (.srd d n) := by
  intro x wf h
  have hx : x = (23 : BitVec 6) ++ BitVec.ofFin (w := 5) d ++ (0 : BitVec 11) ++ n := (Option.some.inj h).symm
  have f26_6 : fld x 26 6 = (23 : BitVec 6) := hx ▸ fld_high 22 10 rfl <| fld_high 11 11 rfl <| fld_high 6 5 rfl <| rfl
  have f13_3 : fld x 13 3 = (0 : BitVec 3) := hx ▸ fld_high 22 10 rfl <| fld_low 11 11 rfl <| rfl
  have f16_5 : fld x 16 5 = (0 : BitVec 5) := hx ▸ fld_high 22 10 rfl <| fld_low 11 11 rfl <| rfl
  have f10_3 : fld x 10 3 = (0 : BitVec 3) := hx ▸ fld_high 22 10 rfl <| fld_low 11 11 rfl <| rfl
  have f21_5 : fld x 21 5 = (BitVec.ofFin (w := 5) d) := hx ▸ fld_high 22 10 rfl <| fld_high 11 11 rfl <| fld_low 6 5 rfl <| fld_whole _
  have f0_10 : fld x 0 10 = n := hx ▸ fld_low 22 10 rfl <| fld_whole _
  rw [decode, f26_6]
  show decodeMajor17 x = _
  rw [decodeMajor17, f13_3]
  show mbz (fld x 16 5 == 0 && fld x 10 3 == 0) (accept (.srd (fld x 21 5).toFin (fld x 0 10))) = _
  rw [f16_5, f10_3, f21_5, f0_10]
  exact accept_wellFormed wf
theorem Laws.Encoding.swr (a : GReg) (n : BitVec 10) : Laws.Encoding.Statement (.swr a n) := by
  intro x wf h
  have hx : x = (23 : BitVec 6) ++ (0 : BitVec 5) ++ BitVec.ofFin (w := 5) a ++ (8 : BitVec 6) ++ n := (Option.some.inj h).symm
  have f26_6 : fld x 26 6 = (23 : BitVec 6) := hx ▸ fld_high 22 10 rfl <| fld_high 16 6 rfl <| fld_high 11 5 rfl <| fld_high 6 5 rfl <| rfl
  have f13_3 : fld x 13 3 = (1 : BitVec 3) := hx ▸ fld_high 22 10 rfl <| fld_low 16 6 rfl <| rfl
  have f21_5 : fld x 21 5 = (0 : BitVec 5) := hx ▸ fld_high 22 10 rfl <| fld_high 16 6 rfl <| fld_high 11 5 rfl <| fld_low 6 5 rfl <| rfl
  have f10_3 : fld x 10 3 = (0 : BitVec 3) := hx ▸ fld_high 22 10 rfl <| fld_low 16 6 rfl <| rfl
  have f16_5 : fld x 16 5 = (BitVec.ofFin (w := 5) a) := hx ▸ fld_high 22 10 rfl <| fld_high 16 6 rfl <| fld_low 11 5 rfl <| fld_whole _
  have f0_10 : fld x 0 10 = n := hx ▸ fld_low 22 10 rfl <| fld_whole _
  rw [decode, f26_6]
  show decodeMajor17 x = _
  rw [decodeMajor17, f13_3]
  show mbz (fld x 21 5 == 0 && fld x 10 3 == 0) (accept (.swr (fld x 16 5).toFin (fld x 0 10))) = _
  rw [f21_5, f10_3, f16_5, f0_10]
  exact accept_wellFormed wf
theorem Laws.Encoding.srset (a : GReg) (n : BitVec 10) : Laws.Encoding.Statement (.srset a n) := by
  intro x wf h
  have hx : x = (23 : BitVec 6) ++ (0 : BitVec 5) ++ BitVec.ofFin (w := 5) a ++ (16 : BitVec 6) ++ n := (Option.some.inj h).symm
  have f26_6 : fld x 26 6 = (23 : BitVec 6) := hx ▸ fld_high 22 10 rfl <| fld_high 16 6 rfl <| fld_high 11 5 rfl <| fld_high 6 5 rfl <| rfl
  have f13_3 : fld x 13 3 = (2 : BitVec 3) := hx ▸ fld_high 22 10 rfl <| fld_low 16 6 rfl <| rfl
  have f21_5 : fld x 21 5 = (0 : BitVec 5) := hx ▸ fld_high 22 10 rfl <| fld_high 16 6 rfl <| fld_high 11 5 rfl <| fld_low 6 5 rfl <| rfl
  have f10_3 : fld x 10 3 = (0 : BitVec 3) := hx ▸ fld_high 22 10 rfl <| fld_low 16 6 rfl <| rfl
  have f16_5 : fld x 16 5 = (BitVec.ofFin (w := 5) a) := hx ▸ fld_high 22 10 rfl <| fld_high 16 6 rfl <| fld_low 11 5 rfl <| fld_whole _
  have f0_10 : fld x 0 10 = n := hx ▸ fld_low 22 10 rfl <| fld_whole _
  rw [decode, f26_6]
  show decodeMajor17 x = _
  rw [decodeMajor17, f13_3]
  have hne : (x == 0x5C004003) = false := by
    cases hb : (x == 0x5C004003) with
    | false => rfl
    | true =>
      rw [eq_of_beq hb] at f16_5 f0_10
      obtain rfl : a = 0 := (congrArg BitVec.toFin f16_5).symm
      obtain rfl : n = 3 := f0_10.symm
      exact absurd wf (by decide)
  show (if x == 0x5C004003 then _ else _) = _
  rw [hne]
  show mbz (fld x 21 5 == 0 && fld x 10 3 == 0) (accept (.srset (fld x 16 5).toFin (fld x 0 10))) = _
  rw [f21_5, f10_3, f16_5, f0_10]
  exact accept_wellFormed wf
theorem Laws.Encoding.srclr (a : GReg) (n : BitVec 10) : Laws.Encoding.Statement (.srclr a n) := by
  intro x wf h
  have hx : x = (23 : BitVec 6) ++ (0 : BitVec 5) ++ BitVec.ofFin (w := 5) a ++ (24 : BitVec 6) ++ n := (Option.some.inj h).symm
  have f26_6 : fld x 26 6 = (23 : BitVec 6) := hx ▸ fld_high 22 10 rfl <| fld_high 16 6 rfl <| fld_high 11 5 rfl <| fld_high 6 5 rfl <| rfl
  have f13_3 : fld x 13 3 = (3 : BitVec 3) := hx ▸ fld_high 22 10 rfl <| fld_low 16 6 rfl <| rfl
  have f21_5 : fld x 21 5 = (0 : BitVec 5) := hx ▸ fld_high 22 10 rfl <| fld_high 16 6 rfl <| fld_high 11 5 rfl <| fld_low 6 5 rfl <| rfl
  have f10_3 : fld x 10 3 = (0 : BitVec 3) := hx ▸ fld_high 22 10 rfl <| fld_low 16 6 rfl <| rfl
  have f16_5 : fld x 16 5 = (BitVec.ofFin (w := 5) a) := hx ▸ fld_high 22 10 rfl <| fld_high 16 6 rfl <| fld_low 11 5 rfl <| fld_whole _
  have f0_10 : fld x 0 10 = n := hx ▸ fld_low 22 10 rfl <| fld_whole _
  rw [decode, f26_6]
  show decodeMajor17 x = _
  rw [decodeMajor17, f13_3]
  show mbz (fld x 21 5 == 0 && fld x 10 3 == 0) (accept (.srclr (fld x 16 5).toFin (fld x 0 10))) = _
  rw [f21_5, f10_3, f16_5, f0_10]
  exact accept_wellFormed wf
theorem Laws.Encoding.ldB (d : GReg) (a : GReg) (o : BitVec 13) : Laws.Encoding.Statement (.ldB d a o) := by
  intro x wf h
  have hx : x = (24 : BitVec 6) ++ BitVec.ofFin (w := 5) d ++ BitVec.ofFin (w := 5) a ++ (0 : BitVec 3) ++ o := (Option.some.inj h).symm
  have f26_6 : fld x 26 6 = (24 : BitVec 6) := hx ▸ fld_high 19 13 rfl <| fld_high 16 3 rfl <| fld_high 11 5 rfl <| fld_high 6 5 rfl <| rfl
  have f13_3 : fld x 13 3 = (0 : BitVec 3) := hx ▸ fld_high 19 13 rfl <| fld_low 16 3 rfl <| rfl
  have f21_5 : fld x 21 5 = (BitVec.ofFin (w := 5) d) := hx ▸ fld_high 19 13 rfl <| fld_high 16 3 rfl <| fld_high 11 5 rfl <| fld_low 6 5 rfl <| fld_whole _
  have f16_5 : fld x 16 5 = (BitVec.ofFin (w := 5) a) := hx ▸ fld_high 19 13 rfl <| fld_high 16 3 rfl <| fld_low 11 5 rfl <| fld_whole _
  have f0_13 : fld x 0 13 = o := hx ▸ fld_low 19 13 rfl <| fld_whole _
  rw [decode, f26_6]
  show decodeMajor18 x = _
  rw [decodeMajor18, f13_3]
  show accept (.ldB (fld x 21 5).toFin (fld x 16 5).toFin (fld x 0 13)) = _
  rw [f21_5, f16_5, f0_13]
  exact accept_wellFormed wf
theorem Laws.Encoding.ldBn (d : GReg) (a : GReg) (o : BitVec 13) : Laws.Encoding.Statement (.ldBn d a o) := by
  intro x wf h
  have hx : x = (24 : BitVec 6) ++ BitVec.ofFin (w := 5) d ++ BitVec.ofFin (w := 5) a ++ (1 : BitVec 3) ++ o := (Option.some.inj h).symm
  have f26_6 : fld x 26 6 = (24 : BitVec 6) := hx ▸ fld_high 19 13 rfl <| fld_high 16 3 rfl <| fld_high 11 5 rfl <| fld_high 6 5 rfl <| rfl
  have f13_3 : fld x 13 3 = (1 : BitVec 3) := hx ▸ fld_high 19 13 rfl <| fld_low 16 3 rfl <| rfl
  have f21_5 : fld x 21 5 = (BitVec.ofFin (w := 5) d) := hx ▸ fld_high 19 13 rfl <| fld_high 16 3 rfl <| fld_high 11 5 rfl <| fld_low 6 5 rfl <| fld_whole _
  have f16_5 : fld x 16 5 = (BitVec.ofFin (w := 5) a) := hx ▸ fld_high 19 13 rfl <| fld_high 16 3 rfl <| fld_low 11 5 rfl <| fld_whole _
  have f0_13 : fld x 0 13 = o := hx ▸ fld_low 19 13 rfl <| fld_whole _
  rw [decode, f26_6]
  show decodeMajor18 x = _
  rw [decodeMajor18, f13_3]
  show accept (.ldBn (fld x 21 5).toFin (fld x 16 5).toFin (fld x 0 13)) = _
  rw [f21_5, f16_5, f0_13]
  exact accept_wellFormed wf
theorem Laws.Encoding.ldH (d : GReg) (a : GReg) (o : BitVec 13) : Laws.Encoding.Statement (.ldH d a o) := by
  intro x wf h
  have hx : x = (24 : BitVec 6) ++ BitVec.ofFin (w := 5) d ++ BitVec.ofFin (w := 5) a ++ (2 : BitVec 3) ++ o := (Option.some.inj h).symm
  have f26_6 : fld x 26 6 = (24 : BitVec 6) := hx ▸ fld_high 19 13 rfl <| fld_high 16 3 rfl <| fld_high 11 5 rfl <| fld_high 6 5 rfl <| rfl
  have f13_3 : fld x 13 3 = (2 : BitVec 3) := hx ▸ fld_high 19 13 rfl <| fld_low 16 3 rfl <| rfl
  have f21_5 : fld x 21 5 = (BitVec.ofFin (w := 5) d) := hx ▸ fld_high 19 13 rfl <| fld_high 16 3 rfl <| fld_high 11 5 rfl <| fld_low 6 5 rfl <| fld_whole _
  have f16_5 : fld x 16 5 = (BitVec.ofFin (w := 5) a) := hx ▸ fld_high 19 13 rfl <| fld_high 16 3 rfl <| fld_low 11 5 rfl <| fld_whole _
  have f0_13 : fld x 0 13 = o := hx ▸ fld_low 19 13 rfl <| fld_whole _
  rw [decode, f26_6]
  show decodeMajor18 x = _
  rw [decodeMajor18, f13_3]
  show accept (.ldH (fld x 21 5).toFin (fld x 16 5).toFin (fld x 0 13)) = _
  rw [f21_5, f16_5, f0_13]
  exact accept_wellFormed wf
theorem Laws.Encoding.ldHn (d : GReg) (a : GReg) (o : BitVec 13) : Laws.Encoding.Statement (.ldHn d a o) := by
  intro x wf h
  have hx : x = (24 : BitVec 6) ++ BitVec.ofFin (w := 5) d ++ BitVec.ofFin (w := 5) a ++ (3 : BitVec 3) ++ o := (Option.some.inj h).symm
  have f26_6 : fld x 26 6 = (24 : BitVec 6) := hx ▸ fld_high 19 13 rfl <| fld_high 16 3 rfl <| fld_high 11 5 rfl <| fld_high 6 5 rfl <| rfl
  have f13_3 : fld x 13 3 = (3 : BitVec 3) := hx ▸ fld_high 19 13 rfl <| fld_low 16 3 rfl <| rfl
  have f21_5 : fld x 21 5 = (BitVec.ofFin (w := 5) d) := hx ▸ fld_high 19 13 rfl <| fld_high 16 3 rfl <| fld_high 11 5 rfl <| fld_low 6 5 rfl <| fld_whole _
  have f16_5 : fld x 16 5 = (BitVec.ofFin (w := 5) a) := hx ▸ fld_high 19 13 rfl <| fld_high 16 3 rfl <| fld_low 11 5 rfl <| fld_whole _
  have f0_13 : fld x 0 13 = o := hx ▸ fld_low 19 13 rfl <| fld_whole _
  rw [decode, f26_6]
  show decodeMajor18 x = _
  rw [decodeMajor18, f13_3]
  show accept (.ldHn (fld x 21 5).toFin (fld x 16 5).toFin (fld x 0 13)) = _
  rw [f21_5, f16_5, f0_13]
  exact accept_wellFormed wf
theorem Laws.Encoding.ldW (d : GReg) (a : GReg) (o : BitVec 13) : Laws.Encoding.Statement (.ldW d a o) := by
  intro x wf h
  have hx : x = (24 : BitVec 6) ++ BitVec.ofFin (w := 5) d ++ BitVec.ofFin (w := 5) a ++ (4 : BitVec 3) ++ o := (Option.some.inj h).symm
  have f26_6 : fld x 26 6 = (24 : BitVec 6) := hx ▸ fld_high 19 13 rfl <| fld_high 16 3 rfl <| fld_high 11 5 rfl <| fld_high 6 5 rfl <| rfl
  have f13_3 : fld x 13 3 = (4 : BitVec 3) := hx ▸ fld_high 19 13 rfl <| fld_low 16 3 rfl <| rfl
  have f21_5 : fld x 21 5 = (BitVec.ofFin (w := 5) d) := hx ▸ fld_high 19 13 rfl <| fld_high 16 3 rfl <| fld_high 11 5 rfl <| fld_low 6 5 rfl <| fld_whole _
  have f16_5 : fld x 16 5 = (BitVec.ofFin (w := 5) a) := hx ▸ fld_high 19 13 rfl <| fld_high 16 3 rfl <| fld_low 11 5 rfl <| fld_whole _
  have f0_13 : fld x 0 13 = o := hx ▸ fld_low 19 13 rfl <| fld_whole _
  rw [decode, f26_6]
  show decodeMajor18 x = _
  rw [decodeMajor18, f13_3]
  show accept (.ldW (fld x 21 5).toFin (fld x 16 5).toFin (fld x 0 13)) = _
  rw [f21_5, f16_5, f0_13]
  exact accept_wellFormed wf
theorem Laws.Encoding.ldWn (d : GReg) (a : GReg) (o : BitVec 13) : Laws.Encoding.Statement (.ldWn d a o) := by
  intro x wf h
  have hx : x = (24 : BitVec 6) ++ BitVec.ofFin (w := 5) d ++ BitVec.ofFin (w := 5) a ++ (5 : BitVec 3) ++ o := (Option.some.inj h).symm
  have f26_6 : fld x 26 6 = (24 : BitVec 6) := hx ▸ fld_high 19 13 rfl <| fld_high 16 3 rfl <| fld_high 11 5 rfl <| fld_high 6 5 rfl <| rfl
  have f13_3 : fld x 13 3 = (5 : BitVec 3) := hx ▸ fld_high 19 13 rfl <| fld_low 16 3 rfl <| rfl
  have f21_5 : fld x 21 5 = (BitVec.ofFin (w := 5) d) := hx ▸ fld_high 19 13 rfl <| fld_high 16 3 rfl <| fld_high 11 5 rfl <| fld_low 6 5 rfl <| fld_whole _
  have f16_5 : fld x 16 5 = (BitVec.ofFin (w := 5) a) := hx ▸ fld_high 19 13 rfl <| fld_high 16 3 rfl <| fld_low 11 5 rfl <| fld_whole _
  have f0_13 : fld x 0 13 = o := hx ▸ fld_low 19 13 rfl <| fld_whole _
  rw [decode, f26_6]
  show decodeMajor18 x = _
  rw [decodeMajor18, f13_3]
  show accept (.ldWn (fld x 21 5).toFin (fld x 16 5).toFin (fld x 0 13)) = _
  rw [f21_5, f16_5, f0_13]
  exact accept_wellFormed wf
theorem Laws.Encoding.ldD (d : GReg) (a : GReg) (o : BitVec 13) : Laws.Encoding.Statement (.ldD d a o) := by
  intro x wf h
  have hx : x = (24 : BitVec 6) ++ BitVec.ofFin (w := 5) d ++ BitVec.ofFin (w := 5) a ++ (6 : BitVec 3) ++ o := (Option.some.inj h).symm
  have f26_6 : fld x 26 6 = (24 : BitVec 6) := hx ▸ fld_high 19 13 rfl <| fld_high 16 3 rfl <| fld_high 11 5 rfl <| fld_high 6 5 rfl <| rfl
  have f13_3 : fld x 13 3 = (6 : BitVec 3) := hx ▸ fld_high 19 13 rfl <| fld_low 16 3 rfl <| rfl
  have f21_5 : fld x 21 5 = (BitVec.ofFin (w := 5) d) := hx ▸ fld_high 19 13 rfl <| fld_high 16 3 rfl <| fld_high 11 5 rfl <| fld_low 6 5 rfl <| fld_whole _
  have f16_5 : fld x 16 5 = (BitVec.ofFin (w := 5) a) := hx ▸ fld_high 19 13 rfl <| fld_high 16 3 rfl <| fld_low 11 5 rfl <| fld_whole _
  have f0_13 : fld x 0 13 = o := hx ▸ fld_low 19 13 rfl <| fld_whole _
  rw [decode, f26_6]
  show decodeMajor18 x = _
  rw [decodeMajor18, f13_3]
  show accept (.ldD (fld x 21 5).toFin (fld x 16 5).toFin (fld x 0 13)) = _
  rw [f21_5, f16_5, f0_13]
  exact accept_wellFormed wf
theorem Laws.Encoding.stB (d : GReg) (a : GReg) (o : BitVec 13) : Laws.Encoding.Statement (.stB d a o) := by
  intro x wf h
  have hx : x = (25 : BitVec 6) ++ BitVec.ofFin (w := 5) d ++ BitVec.ofFin (w := 5) a ++ (0 : BitVec 3) ++ o := (Option.some.inj h).symm
  have f26_6 : fld x 26 6 = (25 : BitVec 6) := hx ▸ fld_high 19 13 rfl <| fld_high 16 3 rfl <| fld_high 11 5 rfl <| fld_high 6 5 rfl <| rfl
  have f13_3 : fld x 13 3 = (0 : BitVec 3) := hx ▸ fld_high 19 13 rfl <| fld_low 16 3 rfl <| rfl
  have f21_5 : fld x 21 5 = (BitVec.ofFin (w := 5) d) := hx ▸ fld_high 19 13 rfl <| fld_high 16 3 rfl <| fld_high 11 5 rfl <| fld_low 6 5 rfl <| fld_whole _
  have f16_5 : fld x 16 5 = (BitVec.ofFin (w := 5) a) := hx ▸ fld_high 19 13 rfl <| fld_high 16 3 rfl <| fld_low 11 5 rfl <| fld_whole _
  have f0_13 : fld x 0 13 = o := hx ▸ fld_low 19 13 rfl <| fld_whole _
  rw [decode, f26_6]
  show decodeMajor19 x = _
  rw [decodeMajor19, f13_3]
  show accept (.stB (fld x 21 5).toFin (fld x 16 5).toFin (fld x 0 13)) = _
  rw [f21_5, f16_5, f0_13]
  exact accept_wellFormed wf
theorem Laws.Encoding.stH (d : GReg) (a : GReg) (o : BitVec 13) : Laws.Encoding.Statement (.stH d a o) := by
  intro x wf h
  have hx : x = (25 : BitVec 6) ++ BitVec.ofFin (w := 5) d ++ BitVec.ofFin (w := 5) a ++ (1 : BitVec 3) ++ o := (Option.some.inj h).symm
  have f26_6 : fld x 26 6 = (25 : BitVec 6) := hx ▸ fld_high 19 13 rfl <| fld_high 16 3 rfl <| fld_high 11 5 rfl <| fld_high 6 5 rfl <| rfl
  have f13_3 : fld x 13 3 = (1 : BitVec 3) := hx ▸ fld_high 19 13 rfl <| fld_low 16 3 rfl <| rfl
  have f21_5 : fld x 21 5 = (BitVec.ofFin (w := 5) d) := hx ▸ fld_high 19 13 rfl <| fld_high 16 3 rfl <| fld_high 11 5 rfl <| fld_low 6 5 rfl <| fld_whole _
  have f16_5 : fld x 16 5 = (BitVec.ofFin (w := 5) a) := hx ▸ fld_high 19 13 rfl <| fld_high 16 3 rfl <| fld_low 11 5 rfl <| fld_whole _
  have f0_13 : fld x 0 13 = o := hx ▸ fld_low 19 13 rfl <| fld_whole _
  rw [decode, f26_6]
  show decodeMajor19 x = _
  rw [decodeMajor19, f13_3]
  show accept (.stH (fld x 21 5).toFin (fld x 16 5).toFin (fld x 0 13)) = _
  rw [f21_5, f16_5, f0_13]
  exact accept_wellFormed wf
theorem Laws.Encoding.stW (d : GReg) (a : GReg) (o : BitVec 13) : Laws.Encoding.Statement (.stW d a o) := by
  intro x wf h
  have hx : x = (25 : BitVec 6) ++ BitVec.ofFin (w := 5) d ++ BitVec.ofFin (w := 5) a ++ (2 : BitVec 3) ++ o := (Option.some.inj h).symm
  have f26_6 : fld x 26 6 = (25 : BitVec 6) := hx ▸ fld_high 19 13 rfl <| fld_high 16 3 rfl <| fld_high 11 5 rfl <| fld_high 6 5 rfl <| rfl
  have f13_3 : fld x 13 3 = (2 : BitVec 3) := hx ▸ fld_high 19 13 rfl <| fld_low 16 3 rfl <| rfl
  have f21_5 : fld x 21 5 = (BitVec.ofFin (w := 5) d) := hx ▸ fld_high 19 13 rfl <| fld_high 16 3 rfl <| fld_high 11 5 rfl <| fld_low 6 5 rfl <| fld_whole _
  have f16_5 : fld x 16 5 = (BitVec.ofFin (w := 5) a) := hx ▸ fld_high 19 13 rfl <| fld_high 16 3 rfl <| fld_low 11 5 rfl <| fld_whole _
  have f0_13 : fld x 0 13 = o := hx ▸ fld_low 19 13 rfl <| fld_whole _
  rw [decode, f26_6]
  show decodeMajor19 x = _
  rw [decodeMajor19, f13_3]
  show accept (.stW (fld x 21 5).toFin (fld x 16 5).toFin (fld x 0 13)) = _
  rw [f21_5, f16_5, f0_13]
  exact accept_wellFormed wf
theorem Laws.Encoding.stD (d : GReg) (a : GReg) (o : BitVec 13) : Laws.Encoding.Statement (.stD d a o) := by
  intro x wf h
  have hx : x = (25 : BitVec 6) ++ BitVec.ofFin (w := 5) d ++ BitVec.ofFin (w := 5) a ++ (3 : BitVec 3) ++ o := (Option.some.inj h).symm
  have f26_6 : fld x 26 6 = (25 : BitVec 6) := hx ▸ fld_high 19 13 rfl <| fld_high 16 3 rfl <| fld_high 11 5 rfl <| fld_high 6 5 rfl <| rfl
  have f13_3 : fld x 13 3 = (3 : BitVec 3) := hx ▸ fld_high 19 13 rfl <| fld_low 16 3 rfl <| rfl
  have f21_5 : fld x 21 5 = (BitVec.ofFin (w := 5) d) := hx ▸ fld_high 19 13 rfl <| fld_high 16 3 rfl <| fld_high 11 5 rfl <| fld_low 6 5 rfl <| fld_whole _
  have f16_5 : fld x 16 5 = (BitVec.ofFin (w := 5) a) := hx ▸ fld_high 19 13 rfl <| fld_high 16 3 rfl <| fld_low 11 5 rfl <| fld_whole _
  have f0_13 : fld x 0 13 = o := hx ▸ fld_low 19 13 rfl <| fld_whole _
  rw [decode, f26_6]
  show decodeMajor19 x = _
  rw [decodeMajor19, f13_3]
  show accept (.stD (fld x 21 5).toFin (fld x 16 5).toFin (fld x 0 13)) = _
  rw [f21_5, f16_5, f0_13]
  exact accept_wellFormed wf
theorem Laws.Encoding.ldxB (d : GReg) (a : GReg) (b : GReg) (s : BitVec 3) : Laws.Encoding.Statement (.ldxB d a b s) := by
  intro x wf h
  have hx : x = (26 : BitVec 6) ++ BitVec.ofFin (w := 5) d ++ BitVec.ofFin (w := 5) a ++ BitVec.ofFin (w := 5) b ++ (0 : BitVec 4) ++ s ++ (0 : BitVec 4) := (Option.some.inj h).symm
  have f26_6 : fld x 26 6 = (26 : BitVec 6) := hx ▸ fld_high 28 4 rfl <| fld_high 25 3 rfl <| fld_high 21 4 rfl <| fld_high 16 5 rfl <| fld_high 11 5 rfl <| fld_high 6 5 rfl <| rfl
  have f0_4 : fld x 0 4 = (0 : BitVec 4) := hx ▸ fld_low 28 4 rfl <| rfl
  have f7_4 : fld x 7 4 = (0 : BitVec 4) := hx ▸ fld_high 28 4 rfl <| fld_high 25 3 rfl <| fld_low 21 4 rfl <| rfl
  have f21_5 : fld x 21 5 = (BitVec.ofFin (w := 5) d) := hx ▸ fld_high 28 4 rfl <| fld_high 25 3 rfl <| fld_high 21 4 rfl <| fld_high 16 5 rfl <| fld_high 11 5 rfl <| fld_low 6 5 rfl <| fld_whole _
  have f16_5 : fld x 16 5 = (BitVec.ofFin (w := 5) a) := hx ▸ fld_high 28 4 rfl <| fld_high 25 3 rfl <| fld_high 21 4 rfl <| fld_high 16 5 rfl <| fld_low 11 5 rfl <| fld_whole _
  have f11_5 : fld x 11 5 = (BitVec.ofFin (w := 5) b) := hx ▸ fld_high 28 4 rfl <| fld_high 25 3 rfl <| fld_high 21 4 rfl <| fld_low 16 5 rfl <| fld_whole _
  have f4_3 : fld x 4 3 = s := hx ▸ fld_high 28 4 rfl <| fld_low 25 3 rfl <| fld_whole _
  rw [decode, f26_6]
  show decodeMajor1A x = _
  rw [decodeMajor1A, f0_4]
  show mbz (fld x 7 4 == 0) (accept (.ldxB (fld x 21 5).toFin (fld x 16 5).toFin (fld x 11 5).toFin (fld x 4 3))) = _
  rw [f7_4, f21_5, f16_5, f11_5, f4_3]
  exact accept_wellFormed wf
theorem Laws.Encoding.ldxBn (d : GReg) (a : GReg) (b : GReg) (s : BitVec 3) : Laws.Encoding.Statement (.ldxBn d a b s) := by
  intro x wf h
  have hx : x = (26 : BitVec 6) ++ BitVec.ofFin (w := 5) d ++ BitVec.ofFin (w := 5) a ++ BitVec.ofFin (w := 5) b ++ (0 : BitVec 4) ++ s ++ (1 : BitVec 4) := (Option.some.inj h).symm
  have f26_6 : fld x 26 6 = (26 : BitVec 6) := hx ▸ fld_high 28 4 rfl <| fld_high 25 3 rfl <| fld_high 21 4 rfl <| fld_high 16 5 rfl <| fld_high 11 5 rfl <| fld_high 6 5 rfl <| rfl
  have f0_4 : fld x 0 4 = (1 : BitVec 4) := hx ▸ fld_low 28 4 rfl <| rfl
  have f7_4 : fld x 7 4 = (0 : BitVec 4) := hx ▸ fld_high 28 4 rfl <| fld_high 25 3 rfl <| fld_low 21 4 rfl <| rfl
  have f21_5 : fld x 21 5 = (BitVec.ofFin (w := 5) d) := hx ▸ fld_high 28 4 rfl <| fld_high 25 3 rfl <| fld_high 21 4 rfl <| fld_high 16 5 rfl <| fld_high 11 5 rfl <| fld_low 6 5 rfl <| fld_whole _
  have f16_5 : fld x 16 5 = (BitVec.ofFin (w := 5) a) := hx ▸ fld_high 28 4 rfl <| fld_high 25 3 rfl <| fld_high 21 4 rfl <| fld_high 16 5 rfl <| fld_low 11 5 rfl <| fld_whole _
  have f11_5 : fld x 11 5 = (BitVec.ofFin (w := 5) b) := hx ▸ fld_high 28 4 rfl <| fld_high 25 3 rfl <| fld_high 21 4 rfl <| fld_low 16 5 rfl <| fld_whole _
  have f4_3 : fld x 4 3 = s := hx ▸ fld_high 28 4 rfl <| fld_low 25 3 rfl <| fld_whole _
  rw [decode, f26_6]
  show decodeMajor1A x = _
  rw [decodeMajor1A, f0_4]
  show mbz (fld x 7 4 == 0) (accept (.ldxBn (fld x 21 5).toFin (fld x 16 5).toFin (fld x 11 5).toFin (fld x 4 3))) = _
  rw [f7_4, f21_5, f16_5, f11_5, f4_3]
  exact accept_wellFormed wf
theorem Laws.Encoding.ldxH (d : GReg) (a : GReg) (b : GReg) (s : BitVec 3) : Laws.Encoding.Statement (.ldxH d a b s) := by
  intro x wf h
  have hx : x = (26 : BitVec 6) ++ BitVec.ofFin (w := 5) d ++ BitVec.ofFin (w := 5) a ++ BitVec.ofFin (w := 5) b ++ (0 : BitVec 4) ++ s ++ (2 : BitVec 4) := (Option.some.inj h).symm
  have f26_6 : fld x 26 6 = (26 : BitVec 6) := hx ▸ fld_high 28 4 rfl <| fld_high 25 3 rfl <| fld_high 21 4 rfl <| fld_high 16 5 rfl <| fld_high 11 5 rfl <| fld_high 6 5 rfl <| rfl
  have f0_4 : fld x 0 4 = (2 : BitVec 4) := hx ▸ fld_low 28 4 rfl <| rfl
  have f7_4 : fld x 7 4 = (0 : BitVec 4) := hx ▸ fld_high 28 4 rfl <| fld_high 25 3 rfl <| fld_low 21 4 rfl <| rfl
  have f21_5 : fld x 21 5 = (BitVec.ofFin (w := 5) d) := hx ▸ fld_high 28 4 rfl <| fld_high 25 3 rfl <| fld_high 21 4 rfl <| fld_high 16 5 rfl <| fld_high 11 5 rfl <| fld_low 6 5 rfl <| fld_whole _
  have f16_5 : fld x 16 5 = (BitVec.ofFin (w := 5) a) := hx ▸ fld_high 28 4 rfl <| fld_high 25 3 rfl <| fld_high 21 4 rfl <| fld_high 16 5 rfl <| fld_low 11 5 rfl <| fld_whole _
  have f11_5 : fld x 11 5 = (BitVec.ofFin (w := 5) b) := hx ▸ fld_high 28 4 rfl <| fld_high 25 3 rfl <| fld_high 21 4 rfl <| fld_low 16 5 rfl <| fld_whole _
  have f4_3 : fld x 4 3 = s := hx ▸ fld_high 28 4 rfl <| fld_low 25 3 rfl <| fld_whole _
  rw [decode, f26_6]
  show decodeMajor1A x = _
  rw [decodeMajor1A, f0_4]
  show mbz (fld x 7 4 == 0) (accept (.ldxH (fld x 21 5).toFin (fld x 16 5).toFin (fld x 11 5).toFin (fld x 4 3))) = _
  rw [f7_4, f21_5, f16_5, f11_5, f4_3]
  exact accept_wellFormed wf
theorem Laws.Encoding.ldxHn (d : GReg) (a : GReg) (b : GReg) (s : BitVec 3) : Laws.Encoding.Statement (.ldxHn d a b s) := by
  intro x wf h
  have hx : x = (26 : BitVec 6) ++ BitVec.ofFin (w := 5) d ++ BitVec.ofFin (w := 5) a ++ BitVec.ofFin (w := 5) b ++ (0 : BitVec 4) ++ s ++ (3 : BitVec 4) := (Option.some.inj h).symm
  have f26_6 : fld x 26 6 = (26 : BitVec 6) := hx ▸ fld_high 28 4 rfl <| fld_high 25 3 rfl <| fld_high 21 4 rfl <| fld_high 16 5 rfl <| fld_high 11 5 rfl <| fld_high 6 5 rfl <| rfl
  have f0_4 : fld x 0 4 = (3 : BitVec 4) := hx ▸ fld_low 28 4 rfl <| rfl
  have f7_4 : fld x 7 4 = (0 : BitVec 4) := hx ▸ fld_high 28 4 rfl <| fld_high 25 3 rfl <| fld_low 21 4 rfl <| rfl
  have f21_5 : fld x 21 5 = (BitVec.ofFin (w := 5) d) := hx ▸ fld_high 28 4 rfl <| fld_high 25 3 rfl <| fld_high 21 4 rfl <| fld_high 16 5 rfl <| fld_high 11 5 rfl <| fld_low 6 5 rfl <| fld_whole _
  have f16_5 : fld x 16 5 = (BitVec.ofFin (w := 5) a) := hx ▸ fld_high 28 4 rfl <| fld_high 25 3 rfl <| fld_high 21 4 rfl <| fld_high 16 5 rfl <| fld_low 11 5 rfl <| fld_whole _
  have f11_5 : fld x 11 5 = (BitVec.ofFin (w := 5) b) := hx ▸ fld_high 28 4 rfl <| fld_high 25 3 rfl <| fld_high 21 4 rfl <| fld_low 16 5 rfl <| fld_whole _
  have f4_3 : fld x 4 3 = s := hx ▸ fld_high 28 4 rfl <| fld_low 25 3 rfl <| fld_whole _
  rw [decode, f26_6]
  show decodeMajor1A x = _
  rw [decodeMajor1A, f0_4]
  show mbz (fld x 7 4 == 0) (accept (.ldxHn (fld x 21 5).toFin (fld x 16 5).toFin (fld x 11 5).toFin (fld x 4 3))) = _
  rw [f7_4, f21_5, f16_5, f11_5, f4_3]
  exact accept_wellFormed wf
theorem Laws.Encoding.ldxW (d : GReg) (a : GReg) (b : GReg) (s : BitVec 3) : Laws.Encoding.Statement (.ldxW d a b s) := by
  intro x wf h
  have hx : x = (26 : BitVec 6) ++ BitVec.ofFin (w := 5) d ++ BitVec.ofFin (w := 5) a ++ BitVec.ofFin (w := 5) b ++ (0 : BitVec 4) ++ s ++ (4 : BitVec 4) := (Option.some.inj h).symm
  have f26_6 : fld x 26 6 = (26 : BitVec 6) := hx ▸ fld_high 28 4 rfl <| fld_high 25 3 rfl <| fld_high 21 4 rfl <| fld_high 16 5 rfl <| fld_high 11 5 rfl <| fld_high 6 5 rfl <| rfl
  have f0_4 : fld x 0 4 = (4 : BitVec 4) := hx ▸ fld_low 28 4 rfl <| rfl
  have f7_4 : fld x 7 4 = (0 : BitVec 4) := hx ▸ fld_high 28 4 rfl <| fld_high 25 3 rfl <| fld_low 21 4 rfl <| rfl
  have f21_5 : fld x 21 5 = (BitVec.ofFin (w := 5) d) := hx ▸ fld_high 28 4 rfl <| fld_high 25 3 rfl <| fld_high 21 4 rfl <| fld_high 16 5 rfl <| fld_high 11 5 rfl <| fld_low 6 5 rfl <| fld_whole _
  have f16_5 : fld x 16 5 = (BitVec.ofFin (w := 5) a) := hx ▸ fld_high 28 4 rfl <| fld_high 25 3 rfl <| fld_high 21 4 rfl <| fld_high 16 5 rfl <| fld_low 11 5 rfl <| fld_whole _
  have f11_5 : fld x 11 5 = (BitVec.ofFin (w := 5) b) := hx ▸ fld_high 28 4 rfl <| fld_high 25 3 rfl <| fld_high 21 4 rfl <| fld_low 16 5 rfl <| fld_whole _
  have f4_3 : fld x 4 3 = s := hx ▸ fld_high 28 4 rfl <| fld_low 25 3 rfl <| fld_whole _
  rw [decode, f26_6]
  show decodeMajor1A x = _
  rw [decodeMajor1A, f0_4]
  show mbz (fld x 7 4 == 0) (accept (.ldxW (fld x 21 5).toFin (fld x 16 5).toFin (fld x 11 5).toFin (fld x 4 3))) = _
  rw [f7_4, f21_5, f16_5, f11_5, f4_3]
  exact accept_wellFormed wf
theorem Laws.Encoding.ldxWn (d : GReg) (a : GReg) (b : GReg) (s : BitVec 3) : Laws.Encoding.Statement (.ldxWn d a b s) := by
  intro x wf h
  have hx : x = (26 : BitVec 6) ++ BitVec.ofFin (w := 5) d ++ BitVec.ofFin (w := 5) a ++ BitVec.ofFin (w := 5) b ++ (0 : BitVec 4) ++ s ++ (5 : BitVec 4) := (Option.some.inj h).symm
  have f26_6 : fld x 26 6 = (26 : BitVec 6) := hx ▸ fld_high 28 4 rfl <| fld_high 25 3 rfl <| fld_high 21 4 rfl <| fld_high 16 5 rfl <| fld_high 11 5 rfl <| fld_high 6 5 rfl <| rfl
  have f0_4 : fld x 0 4 = (5 : BitVec 4) := hx ▸ fld_low 28 4 rfl <| rfl
  have f7_4 : fld x 7 4 = (0 : BitVec 4) := hx ▸ fld_high 28 4 rfl <| fld_high 25 3 rfl <| fld_low 21 4 rfl <| rfl
  have f21_5 : fld x 21 5 = (BitVec.ofFin (w := 5) d) := hx ▸ fld_high 28 4 rfl <| fld_high 25 3 rfl <| fld_high 21 4 rfl <| fld_high 16 5 rfl <| fld_high 11 5 rfl <| fld_low 6 5 rfl <| fld_whole _
  have f16_5 : fld x 16 5 = (BitVec.ofFin (w := 5) a) := hx ▸ fld_high 28 4 rfl <| fld_high 25 3 rfl <| fld_high 21 4 rfl <| fld_high 16 5 rfl <| fld_low 11 5 rfl <| fld_whole _
  have f11_5 : fld x 11 5 = (BitVec.ofFin (w := 5) b) := hx ▸ fld_high 28 4 rfl <| fld_high 25 3 rfl <| fld_high 21 4 rfl <| fld_low 16 5 rfl <| fld_whole _
  have f4_3 : fld x 4 3 = s := hx ▸ fld_high 28 4 rfl <| fld_low 25 3 rfl <| fld_whole _
  rw [decode, f26_6]
  show decodeMajor1A x = _
  rw [decodeMajor1A, f0_4]
  show mbz (fld x 7 4 == 0) (accept (.ldxWn (fld x 21 5).toFin (fld x 16 5).toFin (fld x 11 5).toFin (fld x 4 3))) = _
  rw [f7_4, f21_5, f16_5, f11_5, f4_3]
  exact accept_wellFormed wf
theorem Laws.Encoding.ldxD (d : GReg) (a : GReg) (b : GReg) (s : BitVec 3) : Laws.Encoding.Statement (.ldxD d a b s) := by
  intro x wf h
  have hx : x = (26 : BitVec 6) ++ BitVec.ofFin (w := 5) d ++ BitVec.ofFin (w := 5) a ++ BitVec.ofFin (w := 5) b ++ (0 : BitVec 4) ++ s ++ (6 : BitVec 4) := (Option.some.inj h).symm
  have f26_6 : fld x 26 6 = (26 : BitVec 6) := hx ▸ fld_high 28 4 rfl <| fld_high 25 3 rfl <| fld_high 21 4 rfl <| fld_high 16 5 rfl <| fld_high 11 5 rfl <| fld_high 6 5 rfl <| rfl
  have f0_4 : fld x 0 4 = (6 : BitVec 4) := hx ▸ fld_low 28 4 rfl <| rfl
  have f7_4 : fld x 7 4 = (0 : BitVec 4) := hx ▸ fld_high 28 4 rfl <| fld_high 25 3 rfl <| fld_low 21 4 rfl <| rfl
  have f21_5 : fld x 21 5 = (BitVec.ofFin (w := 5) d) := hx ▸ fld_high 28 4 rfl <| fld_high 25 3 rfl <| fld_high 21 4 rfl <| fld_high 16 5 rfl <| fld_high 11 5 rfl <| fld_low 6 5 rfl <| fld_whole _
  have f16_5 : fld x 16 5 = (BitVec.ofFin (w := 5) a) := hx ▸ fld_high 28 4 rfl <| fld_high 25 3 rfl <| fld_high 21 4 rfl <| fld_high 16 5 rfl <| fld_low 11 5 rfl <| fld_whole _
  have f11_5 : fld x 11 5 = (BitVec.ofFin (w := 5) b) := hx ▸ fld_high 28 4 rfl <| fld_high 25 3 rfl <| fld_high 21 4 rfl <| fld_low 16 5 rfl <| fld_whole _
  have f4_3 : fld x 4 3 = s := hx ▸ fld_high 28 4 rfl <| fld_low 25 3 rfl <| fld_whole _
  rw [decode, f26_6]
  show decodeMajor1A x = _
  rw [decodeMajor1A, f0_4]
  show mbz (fld x 7 4 == 0) (accept (.ldxD (fld x 21 5).toFin (fld x 16 5).toFin (fld x 11 5).toFin (fld x 4 3))) = _
  rw [f7_4, f21_5, f16_5, f11_5, f4_3]
  exact accept_wellFormed wf
theorem Laws.Encoding.stxB (d : GReg) (a : GReg) (b : GReg) (s : BitVec 3) : Laws.Encoding.Statement (.stxB d a b s) := by
  intro x wf h
  have hx : x = (26 : BitVec 6) ++ BitVec.ofFin (w := 5) d ++ BitVec.ofFin (w := 5) a ++ BitVec.ofFin (w := 5) b ++ (0 : BitVec 4) ++ s ++ (7 : BitVec 4) := (Option.some.inj h).symm
  have f26_6 : fld x 26 6 = (26 : BitVec 6) := hx ▸ fld_high 28 4 rfl <| fld_high 25 3 rfl <| fld_high 21 4 rfl <| fld_high 16 5 rfl <| fld_high 11 5 rfl <| fld_high 6 5 rfl <| rfl
  have f0_4 : fld x 0 4 = (7 : BitVec 4) := hx ▸ fld_low 28 4 rfl <| rfl
  have f7_4 : fld x 7 4 = (0 : BitVec 4) := hx ▸ fld_high 28 4 rfl <| fld_high 25 3 rfl <| fld_low 21 4 rfl <| rfl
  have f21_5 : fld x 21 5 = (BitVec.ofFin (w := 5) d) := hx ▸ fld_high 28 4 rfl <| fld_high 25 3 rfl <| fld_high 21 4 rfl <| fld_high 16 5 rfl <| fld_high 11 5 rfl <| fld_low 6 5 rfl <| fld_whole _
  have f16_5 : fld x 16 5 = (BitVec.ofFin (w := 5) a) := hx ▸ fld_high 28 4 rfl <| fld_high 25 3 rfl <| fld_high 21 4 rfl <| fld_high 16 5 rfl <| fld_low 11 5 rfl <| fld_whole _
  have f11_5 : fld x 11 5 = (BitVec.ofFin (w := 5) b) := hx ▸ fld_high 28 4 rfl <| fld_high 25 3 rfl <| fld_high 21 4 rfl <| fld_low 16 5 rfl <| fld_whole _
  have f4_3 : fld x 4 3 = s := hx ▸ fld_high 28 4 rfl <| fld_low 25 3 rfl <| fld_whole _
  rw [decode, f26_6]
  show decodeMajor1A x = _
  rw [decodeMajor1A, f0_4]
  show mbz (fld x 7 4 == 0) (accept (.stxB (fld x 21 5).toFin (fld x 16 5).toFin (fld x 11 5).toFin (fld x 4 3))) = _
  rw [f7_4, f21_5, f16_5, f11_5, f4_3]
  exact accept_wellFormed wf
theorem Laws.Encoding.stxH (d : GReg) (a : GReg) (b : GReg) (s : BitVec 3) : Laws.Encoding.Statement (.stxH d a b s) := by
  intro x wf h
  have hx : x = (26 : BitVec 6) ++ BitVec.ofFin (w := 5) d ++ BitVec.ofFin (w := 5) a ++ BitVec.ofFin (w := 5) b ++ (0 : BitVec 4) ++ s ++ (8 : BitVec 4) := (Option.some.inj h).symm
  have f26_6 : fld x 26 6 = (26 : BitVec 6) := hx ▸ fld_high 28 4 rfl <| fld_high 25 3 rfl <| fld_high 21 4 rfl <| fld_high 16 5 rfl <| fld_high 11 5 rfl <| fld_high 6 5 rfl <| rfl
  have f0_4 : fld x 0 4 = (8 : BitVec 4) := hx ▸ fld_low 28 4 rfl <| rfl
  have f7_4 : fld x 7 4 = (0 : BitVec 4) := hx ▸ fld_high 28 4 rfl <| fld_high 25 3 rfl <| fld_low 21 4 rfl <| rfl
  have f21_5 : fld x 21 5 = (BitVec.ofFin (w := 5) d) := hx ▸ fld_high 28 4 rfl <| fld_high 25 3 rfl <| fld_high 21 4 rfl <| fld_high 16 5 rfl <| fld_high 11 5 rfl <| fld_low 6 5 rfl <| fld_whole _
  have f16_5 : fld x 16 5 = (BitVec.ofFin (w := 5) a) := hx ▸ fld_high 28 4 rfl <| fld_high 25 3 rfl <| fld_high 21 4 rfl <| fld_high 16 5 rfl <| fld_low 11 5 rfl <| fld_whole _
  have f11_5 : fld x 11 5 = (BitVec.ofFin (w := 5) b) := hx ▸ fld_high 28 4 rfl <| fld_high 25 3 rfl <| fld_high 21 4 rfl <| fld_low 16 5 rfl <| fld_whole _
  have f4_3 : fld x 4 3 = s := hx ▸ fld_high 28 4 rfl <| fld_low 25 3 rfl <| fld_whole _
  rw [decode, f26_6]
  show decodeMajor1A x = _
  rw [decodeMajor1A, f0_4]
  show mbz (fld x 7 4 == 0) (accept (.stxH (fld x 21 5).toFin (fld x 16 5).toFin (fld x 11 5).toFin (fld x 4 3))) = _
  rw [f7_4, f21_5, f16_5, f11_5, f4_3]
  exact accept_wellFormed wf
theorem Laws.Encoding.stxW (d : GReg) (a : GReg) (b : GReg) (s : BitVec 3) : Laws.Encoding.Statement (.stxW d a b s) := by
  intro x wf h
  have hx : x = (26 : BitVec 6) ++ BitVec.ofFin (w := 5) d ++ BitVec.ofFin (w := 5) a ++ BitVec.ofFin (w := 5) b ++ (0 : BitVec 4) ++ s ++ (9 : BitVec 4) := (Option.some.inj h).symm
  have f26_6 : fld x 26 6 = (26 : BitVec 6) := hx ▸ fld_high 28 4 rfl <| fld_high 25 3 rfl <| fld_high 21 4 rfl <| fld_high 16 5 rfl <| fld_high 11 5 rfl <| fld_high 6 5 rfl <| rfl
  have f0_4 : fld x 0 4 = (9 : BitVec 4) := hx ▸ fld_low 28 4 rfl <| rfl
  have f7_4 : fld x 7 4 = (0 : BitVec 4) := hx ▸ fld_high 28 4 rfl <| fld_high 25 3 rfl <| fld_low 21 4 rfl <| rfl
  have f21_5 : fld x 21 5 = (BitVec.ofFin (w := 5) d) := hx ▸ fld_high 28 4 rfl <| fld_high 25 3 rfl <| fld_high 21 4 rfl <| fld_high 16 5 rfl <| fld_high 11 5 rfl <| fld_low 6 5 rfl <| fld_whole _
  have f16_5 : fld x 16 5 = (BitVec.ofFin (w := 5) a) := hx ▸ fld_high 28 4 rfl <| fld_high 25 3 rfl <| fld_high 21 4 rfl <| fld_high 16 5 rfl <| fld_low 11 5 rfl <| fld_whole _
  have f11_5 : fld x 11 5 = (BitVec.ofFin (w := 5) b) := hx ▸ fld_high 28 4 rfl <| fld_high 25 3 rfl <| fld_high 21 4 rfl <| fld_low 16 5 rfl <| fld_whole _
  have f4_3 : fld x 4 3 = s := hx ▸ fld_high 28 4 rfl <| fld_low 25 3 rfl <| fld_whole _
  rw [decode, f26_6]
  show decodeMajor1A x = _
  rw [decodeMajor1A, f0_4]
  show mbz (fld x 7 4 == 0) (accept (.stxW (fld x 21 5).toFin (fld x 16 5).toFin (fld x 11 5).toFin (fld x 4 3))) = _
  rw [f7_4, f21_5, f16_5, f11_5, f4_3]
  exact accept_wellFormed wf
theorem Laws.Encoding.stxD (d : GReg) (a : GReg) (b : GReg) (s : BitVec 3) : Laws.Encoding.Statement (.stxD d a b s) := by
  intro x wf h
  have hx : x = (26 : BitVec 6) ++ BitVec.ofFin (w := 5) d ++ BitVec.ofFin (w := 5) a ++ BitVec.ofFin (w := 5) b ++ (0 : BitVec 4) ++ s ++ (10 : BitVec 4) := (Option.some.inj h).symm
  have f26_6 : fld x 26 6 = (26 : BitVec 6) := hx ▸ fld_high 28 4 rfl <| fld_high 25 3 rfl <| fld_high 21 4 rfl <| fld_high 16 5 rfl <| fld_high 11 5 rfl <| fld_high 6 5 rfl <| rfl
  have f0_4 : fld x 0 4 = (10 : BitVec 4) := hx ▸ fld_low 28 4 rfl <| rfl
  have f7_4 : fld x 7 4 = (0 : BitVec 4) := hx ▸ fld_high 28 4 rfl <| fld_high 25 3 rfl <| fld_low 21 4 rfl <| rfl
  have f21_5 : fld x 21 5 = (BitVec.ofFin (w := 5) d) := hx ▸ fld_high 28 4 rfl <| fld_high 25 3 rfl <| fld_high 21 4 rfl <| fld_high 16 5 rfl <| fld_high 11 5 rfl <| fld_low 6 5 rfl <| fld_whole _
  have f16_5 : fld x 16 5 = (BitVec.ofFin (w := 5) a) := hx ▸ fld_high 28 4 rfl <| fld_high 25 3 rfl <| fld_high 21 4 rfl <| fld_high 16 5 rfl <| fld_low 11 5 rfl <| fld_whole _
  have f11_5 : fld x 11 5 = (BitVec.ofFin (w := 5) b) := hx ▸ fld_high 28 4 rfl <| fld_high 25 3 rfl <| fld_high 21 4 rfl <| fld_low 16 5 rfl <| fld_whole _
  have f4_3 : fld x 4 3 = s := hx ▸ fld_high 28 4 rfl <| fld_low 25 3 rfl <| fld_whole _
  rw [decode, f26_6]
  show decodeMajor1A x = _
  rw [decodeMajor1A, f0_4]
  show mbz (fld x 7 4 == 0) (accept (.stxD (fld x 21 5).toFin (fld x 16 5).toFin (fld x 11 5).toFin (fld x 4 3))) = _
  rw [f7_4, f21_5, f16_5, f11_5, f4_3]
  exact accept_wellFormed wf
theorem Laws.Encoding.ldAcqW (d : GReg) (a : GReg) (b : GReg) (s : BitVec 3) : Laws.Encoding.Statement (.ldAcqW d a b s) := by
  intro x wf h
  have hx : x = (26 : BitVec 6) ++ BitVec.ofFin (w := 5) d ++ BitVec.ofFin (w := 5) a ++ BitVec.ofFin (w := 5) b ++ (0 : BitVec 4) ++ s ++ (11 : BitVec 4) := (Option.some.inj h).symm
  have f26_6 : fld x 26 6 = (26 : BitVec 6) := hx ▸ fld_high 28 4 rfl <| fld_high 25 3 rfl <| fld_high 21 4 rfl <| fld_high 16 5 rfl <| fld_high 11 5 rfl <| fld_high 6 5 rfl <| rfl
  have f0_4 : fld x 0 4 = (11 : BitVec 4) := hx ▸ fld_low 28 4 rfl <| rfl
  have f7_4 : fld x 7 4 = (0 : BitVec 4) := hx ▸ fld_high 28 4 rfl <| fld_high 25 3 rfl <| fld_low 21 4 rfl <| rfl
  have f21_5 : fld x 21 5 = (BitVec.ofFin (w := 5) d) := hx ▸ fld_high 28 4 rfl <| fld_high 25 3 rfl <| fld_high 21 4 rfl <| fld_high 16 5 rfl <| fld_high 11 5 rfl <| fld_low 6 5 rfl <| fld_whole _
  have f16_5 : fld x 16 5 = (BitVec.ofFin (w := 5) a) := hx ▸ fld_high 28 4 rfl <| fld_high 25 3 rfl <| fld_high 21 4 rfl <| fld_high 16 5 rfl <| fld_low 11 5 rfl <| fld_whole _
  have f11_5 : fld x 11 5 = (BitVec.ofFin (w := 5) b) := hx ▸ fld_high 28 4 rfl <| fld_high 25 3 rfl <| fld_high 21 4 rfl <| fld_low 16 5 rfl <| fld_whole _
  have f4_3 : fld x 4 3 = s := hx ▸ fld_high 28 4 rfl <| fld_low 25 3 rfl <| fld_whole _
  rw [decode, f26_6]
  show decodeMajor1A x = _
  rw [decodeMajor1A, f0_4]
  show mbz (fld x 7 4 == 0) (accept (.ldAcqW (fld x 21 5).toFin (fld x 16 5).toFin (fld x 11 5).toFin (fld x 4 3))) = _
  rw [f7_4, f21_5, f16_5, f11_5, f4_3]
  exact accept_wellFormed wf
theorem Laws.Encoding.ldAcqWn (d : GReg) (a : GReg) (b : GReg) (s : BitVec 3) : Laws.Encoding.Statement (.ldAcqWn d a b s) := by
  intro x wf h
  have hx : x = (26 : BitVec 6) ++ BitVec.ofFin (w := 5) d ++ BitVec.ofFin (w := 5) a ++ BitVec.ofFin (w := 5) b ++ (0 : BitVec 4) ++ s ++ (12 : BitVec 4) := (Option.some.inj h).symm
  have f26_6 : fld x 26 6 = (26 : BitVec 6) := hx ▸ fld_high 28 4 rfl <| fld_high 25 3 rfl <| fld_high 21 4 rfl <| fld_high 16 5 rfl <| fld_high 11 5 rfl <| fld_high 6 5 rfl <| rfl
  have f0_4 : fld x 0 4 = (12 : BitVec 4) := hx ▸ fld_low 28 4 rfl <| rfl
  have f7_4 : fld x 7 4 = (0 : BitVec 4) := hx ▸ fld_high 28 4 rfl <| fld_high 25 3 rfl <| fld_low 21 4 rfl <| rfl
  have f21_5 : fld x 21 5 = (BitVec.ofFin (w := 5) d) := hx ▸ fld_high 28 4 rfl <| fld_high 25 3 rfl <| fld_high 21 4 rfl <| fld_high 16 5 rfl <| fld_high 11 5 rfl <| fld_low 6 5 rfl <| fld_whole _
  have f16_5 : fld x 16 5 = (BitVec.ofFin (w := 5) a) := hx ▸ fld_high 28 4 rfl <| fld_high 25 3 rfl <| fld_high 21 4 rfl <| fld_high 16 5 rfl <| fld_low 11 5 rfl <| fld_whole _
  have f11_5 : fld x 11 5 = (BitVec.ofFin (w := 5) b) := hx ▸ fld_high 28 4 rfl <| fld_high 25 3 rfl <| fld_high 21 4 rfl <| fld_low 16 5 rfl <| fld_whole _
  have f4_3 : fld x 4 3 = s := hx ▸ fld_high 28 4 rfl <| fld_low 25 3 rfl <| fld_whole _
  rw [decode, f26_6]
  show decodeMajor1A x = _
  rw [decodeMajor1A, f0_4]
  show mbz (fld x 7 4 == 0) (accept (.ldAcqWn (fld x 21 5).toFin (fld x 16 5).toFin (fld x 11 5).toFin (fld x 4 3))) = _
  rw [f7_4, f21_5, f16_5, f11_5, f4_3]
  exact accept_wellFormed wf
theorem Laws.Encoding.ldAcqD (d : GReg) (a : GReg) (b : GReg) (s : BitVec 3) : Laws.Encoding.Statement (.ldAcqD d a b s) := by
  intro x wf h
  have hx : x = (26 : BitVec 6) ++ BitVec.ofFin (w := 5) d ++ BitVec.ofFin (w := 5) a ++ BitVec.ofFin (w := 5) b ++ (0 : BitVec 4) ++ s ++ (13 : BitVec 4) := (Option.some.inj h).symm
  have f26_6 : fld x 26 6 = (26 : BitVec 6) := hx ▸ fld_high 28 4 rfl <| fld_high 25 3 rfl <| fld_high 21 4 rfl <| fld_high 16 5 rfl <| fld_high 11 5 rfl <| fld_high 6 5 rfl <| rfl
  have f0_4 : fld x 0 4 = (13 : BitVec 4) := hx ▸ fld_low 28 4 rfl <| rfl
  have f7_4 : fld x 7 4 = (0 : BitVec 4) := hx ▸ fld_high 28 4 rfl <| fld_high 25 3 rfl <| fld_low 21 4 rfl <| rfl
  have f21_5 : fld x 21 5 = (BitVec.ofFin (w := 5) d) := hx ▸ fld_high 28 4 rfl <| fld_high 25 3 rfl <| fld_high 21 4 rfl <| fld_high 16 5 rfl <| fld_high 11 5 rfl <| fld_low 6 5 rfl <| fld_whole _
  have f16_5 : fld x 16 5 = (BitVec.ofFin (w := 5) a) := hx ▸ fld_high 28 4 rfl <| fld_high 25 3 rfl <| fld_high 21 4 rfl <| fld_high 16 5 rfl <| fld_low 11 5 rfl <| fld_whole _
  have f11_5 : fld x 11 5 = (BitVec.ofFin (w := 5) b) := hx ▸ fld_high 28 4 rfl <| fld_high 25 3 rfl <| fld_high 21 4 rfl <| fld_low 16 5 rfl <| fld_whole _
  have f4_3 : fld x 4 3 = s := hx ▸ fld_high 28 4 rfl <| fld_low 25 3 rfl <| fld_whole _
  rw [decode, f26_6]
  show decodeMajor1A x = _
  rw [decodeMajor1A, f0_4]
  show mbz (fld x 7 4 == 0) (accept (.ldAcqD (fld x 21 5).toFin (fld x 16 5).toFin (fld x 11 5).toFin (fld x 4 3))) = _
  rw [f7_4, f21_5, f16_5, f11_5, f4_3]
  exact accept_wellFormed wf
theorem Laws.Encoding.stRelW (d : GReg) (a : GReg) (b : GReg) (s : BitVec 3) : Laws.Encoding.Statement (.stRelW d a b s) := by
  intro x wf h
  have hx : x = (26 : BitVec 6) ++ BitVec.ofFin (w := 5) d ++ BitVec.ofFin (w := 5) a ++ BitVec.ofFin (w := 5) b ++ (0 : BitVec 4) ++ s ++ (14 : BitVec 4) := (Option.some.inj h).symm
  have f26_6 : fld x 26 6 = (26 : BitVec 6) := hx ▸ fld_high 28 4 rfl <| fld_high 25 3 rfl <| fld_high 21 4 rfl <| fld_high 16 5 rfl <| fld_high 11 5 rfl <| fld_high 6 5 rfl <| rfl
  have f0_4 : fld x 0 4 = (14 : BitVec 4) := hx ▸ fld_low 28 4 rfl <| rfl
  have f7_4 : fld x 7 4 = (0 : BitVec 4) := hx ▸ fld_high 28 4 rfl <| fld_high 25 3 rfl <| fld_low 21 4 rfl <| rfl
  have f21_5 : fld x 21 5 = (BitVec.ofFin (w := 5) d) := hx ▸ fld_high 28 4 rfl <| fld_high 25 3 rfl <| fld_high 21 4 rfl <| fld_high 16 5 rfl <| fld_high 11 5 rfl <| fld_low 6 5 rfl <| fld_whole _
  have f16_5 : fld x 16 5 = (BitVec.ofFin (w := 5) a) := hx ▸ fld_high 28 4 rfl <| fld_high 25 3 rfl <| fld_high 21 4 rfl <| fld_high 16 5 rfl <| fld_low 11 5 rfl <| fld_whole _
  have f11_5 : fld x 11 5 = (BitVec.ofFin (w := 5) b) := hx ▸ fld_high 28 4 rfl <| fld_high 25 3 rfl <| fld_high 21 4 rfl <| fld_low 16 5 rfl <| fld_whole _
  have f4_3 : fld x 4 3 = s := hx ▸ fld_high 28 4 rfl <| fld_low 25 3 rfl <| fld_whole _
  rw [decode, f26_6]
  show decodeMajor1A x = _
  rw [decodeMajor1A, f0_4]
  show mbz (fld x 7 4 == 0) (accept (.stRelW (fld x 21 5).toFin (fld x 16 5).toFin (fld x 11 5).toFin (fld x 4 3))) = _
  rw [f7_4, f21_5, f16_5, f11_5, f4_3]
  exact accept_wellFormed wf
theorem Laws.Encoding.stRelD (d : GReg) (a : GReg) (b : GReg) (s : BitVec 3) : Laws.Encoding.Statement (.stRelD d a b s) := by
  intro x wf h
  have hx : x = (26 : BitVec 6) ++ BitVec.ofFin (w := 5) d ++ BitVec.ofFin (w := 5) a ++ BitVec.ofFin (w := 5) b ++ (0 : BitVec 4) ++ s ++ (15 : BitVec 4) := (Option.some.inj h).symm
  have f26_6 : fld x 26 6 = (26 : BitVec 6) := hx ▸ fld_high 28 4 rfl <| fld_high 25 3 rfl <| fld_high 21 4 rfl <| fld_high 16 5 rfl <| fld_high 11 5 rfl <| fld_high 6 5 rfl <| rfl
  have f0_4 : fld x 0 4 = (15 : BitVec 4) := hx ▸ fld_low 28 4 rfl <| rfl
  have f7_4 : fld x 7 4 = (0 : BitVec 4) := hx ▸ fld_high 28 4 rfl <| fld_high 25 3 rfl <| fld_low 21 4 rfl <| rfl
  have f21_5 : fld x 21 5 = (BitVec.ofFin (w := 5) d) := hx ▸ fld_high 28 4 rfl <| fld_high 25 3 rfl <| fld_high 21 4 rfl <| fld_high 16 5 rfl <| fld_high 11 5 rfl <| fld_low 6 5 rfl <| fld_whole _
  have f16_5 : fld x 16 5 = (BitVec.ofFin (w := 5) a) := hx ▸ fld_high 28 4 rfl <| fld_high 25 3 rfl <| fld_high 21 4 rfl <| fld_high 16 5 rfl <| fld_low 11 5 rfl <| fld_whole _
  have f11_5 : fld x 11 5 = (BitVec.ofFin (w := 5) b) := hx ▸ fld_high 28 4 rfl <| fld_high 25 3 rfl <| fld_high 21 4 rfl <| fld_low 16 5 rfl <| fld_whole _
  have f4_3 : fld x 4 3 = s := hx ▸ fld_high 28 4 rfl <| fld_low 25 3 rfl <| fld_whole _
  rw [decode, f26_6]
  show decodeMajor1A x = _
  rw [decodeMajor1A, f0_4]
  show mbz (fld x 7 4 == 0) (accept (.stRelD (fld x 21 5).toFin (fld x 16 5).toFin (fld x 11 5).toFin (fld x 4 3))) = _
  rw [f7_4, f21_5, f16_5, f11_5, f4_3]
  exact accept_wellFormed wf
theorem Laws.Encoding.vld (v : VReg) (a : GReg) (b : GReg) (k : KReg) : Laws.Encoding.Statement (.vld v a b k) := by
  intro x wf h
  have hx : x = (27 : BitVec 6) ++ (0 : BitVec 1) ++ BitVec.ofFin (w := 4) v ++ BitVec.ofFin (w := 5) a ++ BitVec.ofFin (w := 5) b ++ (0 : BitVec 5) ++ BitVec.ofFin (w := 3) k ++ (0 : BitVec 3) := (Option.some.inj h).symm
  have f26_6 : fld x 26 6 = (27 : BitVec 6) := hx ▸ fld_high 29 3 rfl <| fld_high 26 3 rfl <| fld_high 21 5 rfl <| fld_high 16 5 rfl <| fld_high 11 5 rfl <| fld_high 7 4 rfl <| fld_high 6 1 rfl <| rfl
  have f0_3 : fld x 0 3 = (0 : BitVec 3) := hx ▸ fld_low 29 3 rfl <| rfl
  have f25_1 : fld x 25 1 = (0 : BitVec 1) := hx ▸ fld_high 29 3 rfl <| fld_high 26 3 rfl <| fld_high 21 5 rfl <| fld_high 16 5 rfl <| fld_high 11 5 rfl <| fld_high 7 4 rfl <| fld_low 6 1 rfl <| rfl
  have f6_5 : fld x 6 5 = (0 : BitVec 5) := hx ▸ fld_high 29 3 rfl <| fld_high 26 3 rfl <| fld_low 21 5 rfl <| rfl
  have f21_4 : fld x 21 4 = (BitVec.ofFin (w := 4) v) := hx ▸ fld_high 29 3 rfl <| fld_high 26 3 rfl <| fld_high 21 5 rfl <| fld_high 16 5 rfl <| fld_high 11 5 rfl <| fld_low 7 4 rfl <| fld_whole _
  have f16_5 : fld x 16 5 = (BitVec.ofFin (w := 5) a) := hx ▸ fld_high 29 3 rfl <| fld_high 26 3 rfl <| fld_high 21 5 rfl <| fld_high 16 5 rfl <| fld_low 11 5 rfl <| fld_whole _
  have f11_5 : fld x 11 5 = (BitVec.ofFin (w := 5) b) := hx ▸ fld_high 29 3 rfl <| fld_high 26 3 rfl <| fld_high 21 5 rfl <| fld_low 16 5 rfl <| fld_whole _
  have f3_3 : fld x 3 3 = (BitVec.ofFin (w := 3) k) := hx ▸ fld_high 29 3 rfl <| fld_low 26 3 rfl <| fld_whole _
  rw [decode, f26_6]
  show decodeMajor1B x = _
  rw [decodeMajor1B, f0_3]
  show mbz (fld x 25 1 == 0 && fld x 6 5 == 0) (accept (.vld (fld x 21 4).toFin (fld x 16 5).toFin (fld x 11 5).toFin (fld x 3 3).toFin)) = _
  rw [f25_1, f6_5, f21_4, f16_5, f11_5, f3_3]
  exact accept_wellFormed wf
theorem Laws.Encoding.vst (v : VReg) (a : GReg) (b : GReg) (k : KReg) : Laws.Encoding.Statement (.vst v a b k) := by
  intro x wf h
  have hx : x = (27 : BitVec 6) ++ (0 : BitVec 1) ++ BitVec.ofFin (w := 4) v ++ BitVec.ofFin (w := 5) a ++ BitVec.ofFin (w := 5) b ++ (0 : BitVec 5) ++ BitVec.ofFin (w := 3) k ++ (1 : BitVec 3) := (Option.some.inj h).symm
  have f26_6 : fld x 26 6 = (27 : BitVec 6) := hx ▸ fld_high 29 3 rfl <| fld_high 26 3 rfl <| fld_high 21 5 rfl <| fld_high 16 5 rfl <| fld_high 11 5 rfl <| fld_high 7 4 rfl <| fld_high 6 1 rfl <| rfl
  have f0_3 : fld x 0 3 = (1 : BitVec 3) := hx ▸ fld_low 29 3 rfl <| rfl
  have f25_1 : fld x 25 1 = (0 : BitVec 1) := hx ▸ fld_high 29 3 rfl <| fld_high 26 3 rfl <| fld_high 21 5 rfl <| fld_high 16 5 rfl <| fld_high 11 5 rfl <| fld_high 7 4 rfl <| fld_low 6 1 rfl <| rfl
  have f6_5 : fld x 6 5 = (0 : BitVec 5) := hx ▸ fld_high 29 3 rfl <| fld_high 26 3 rfl <| fld_low 21 5 rfl <| rfl
  have f21_4 : fld x 21 4 = (BitVec.ofFin (w := 4) v) := hx ▸ fld_high 29 3 rfl <| fld_high 26 3 rfl <| fld_high 21 5 rfl <| fld_high 16 5 rfl <| fld_high 11 5 rfl <| fld_low 7 4 rfl <| fld_whole _
  have f16_5 : fld x 16 5 = (BitVec.ofFin (w := 5) a) := hx ▸ fld_high 29 3 rfl <| fld_high 26 3 rfl <| fld_high 21 5 rfl <| fld_high 16 5 rfl <| fld_low 11 5 rfl <| fld_whole _
  have f11_5 : fld x 11 5 = (BitVec.ofFin (w := 5) b) := hx ▸ fld_high 29 3 rfl <| fld_high 26 3 rfl <| fld_high 21 5 rfl <| fld_low 16 5 rfl <| fld_whole _
  have f3_3 : fld x 3 3 = (BitVec.ofFin (w := 3) k) := hx ▸ fld_high 29 3 rfl <| fld_low 26 3 rfl <| fld_whole _
  rw [decode, f26_6]
  show decodeMajor1B x = _
  rw [decodeMajor1B, f0_3]
  show mbz (fld x 25 1 == 0 && fld x 6 5 == 0) (accept (.vst (fld x 21 4).toFin (fld x 16 5).toFin (fld x 11 5).toFin (fld x 3 3).toFin)) = _
  rw [f25_1, f6_5, f21_4, f16_5, f11_5, f3_3]
  exact accept_wellFormed wf
theorem Laws.Encoding.vlds (v : VReg) (a : GReg) (b : GReg) (e : ESize) (k : KReg) : Laws.Encoding.Statement (.vlds v a b e k) := by
  intro x wf h
  have hx : x = (27 : BitVec 6) ++ (0 : BitVec 1) ++ BitVec.ofFin (w := 4) v ++ BitVec.ofFin (w := 5) a ++ BitVec.ofFin (w := 5) b ++ (0 : BitVec 3) ++ e.code ++ BitVec.ofFin (w := 3) k ++ (2 : BitVec 3) := (Option.some.inj h).symm
  have f26_6 : fld x 26 6 = (27 : BitVec 6) := hx ▸ fld_high 29 3 rfl <| fld_high 26 3 rfl <| fld_high 24 2 rfl <| fld_high 21 3 rfl <| fld_high 16 5 rfl <| fld_high 11 5 rfl <| fld_high 7 4 rfl <| fld_high 6 1 rfl <| rfl
  have f0_3 : fld x 0 3 = (2 : BitVec 3) := hx ▸ fld_low 29 3 rfl <| rfl
  have f25_1 : fld x 25 1 = (0 : BitVec 1) := hx ▸ fld_high 29 3 rfl <| fld_high 26 3 rfl <| fld_high 24 2 rfl <| fld_high 21 3 rfl <| fld_high 16 5 rfl <| fld_high 11 5 rfl <| fld_high 7 4 rfl <| fld_low 6 1 rfl <| rfl
  have f8_3 : fld x 8 3 = (0 : BitVec 3) := hx ▸ fld_high 29 3 rfl <| fld_high 26 3 rfl <| fld_high 24 2 rfl <| fld_low 21 3 rfl <| rfl
  have f21_4 : fld x 21 4 = (BitVec.ofFin (w := 4) v) := hx ▸ fld_high 29 3 rfl <| fld_high 26 3 rfl <| fld_high 24 2 rfl <| fld_high 21 3 rfl <| fld_high 16 5 rfl <| fld_high 11 5 rfl <| fld_low 7 4 rfl <| fld_whole _
  have f16_5 : fld x 16 5 = (BitVec.ofFin (w := 5) a) := hx ▸ fld_high 29 3 rfl <| fld_high 26 3 rfl <| fld_high 24 2 rfl <| fld_high 21 3 rfl <| fld_high 16 5 rfl <| fld_low 11 5 rfl <| fld_whole _
  have f11_5 : fld x 11 5 = (BitVec.ofFin (w := 5) b) := hx ▸ fld_high 29 3 rfl <| fld_high 26 3 rfl <| fld_high 24 2 rfl <| fld_high 21 3 rfl <| fld_low 16 5 rfl <| fld_whole _
  have f6_2 : fld x 6 2 = e.code := hx ▸ fld_high 29 3 rfl <| fld_high 26 3 rfl <| fld_low 24 2 rfl <| fld_whole _
  have f3_3 : fld x 3 3 = (BitVec.ofFin (w := 3) k) := hx ▸ fld_high 29 3 rfl <| fld_low 26 3 rfl <| fld_whole _
  rw [decode, f26_6]
  show decodeMajor1B x = _
  rw [decodeMajor1B, f0_3]
  show mbz (fld x 25 1 == 0 && fld x 8 3 == 0) (accept (.vlds (fld x 21 4).toFin (fld x 16 5).toFin (fld x 11 5).toFin (ESize.ofCode (fld x 6 2)) (fld x 3 3).toFin)) = _
  rw [f25_1, f8_3, f21_4, f16_5, f11_5, f6_2, f3_3, ESize.ofCode_code e]
  exact accept_wellFormed wf
theorem Laws.Encoding.vsts (v : VReg) (a : GReg) (b : GReg) (e : ESize) (k : KReg) : Laws.Encoding.Statement (.vsts v a b e k) := by
  intro x wf h
  have hx : x = (27 : BitVec 6) ++ (0 : BitVec 1) ++ BitVec.ofFin (w := 4) v ++ BitVec.ofFin (w := 5) a ++ BitVec.ofFin (w := 5) b ++ (0 : BitVec 3) ++ e.code ++ BitVec.ofFin (w := 3) k ++ (3 : BitVec 3) := (Option.some.inj h).symm
  have f26_6 : fld x 26 6 = (27 : BitVec 6) := hx ▸ fld_high 29 3 rfl <| fld_high 26 3 rfl <| fld_high 24 2 rfl <| fld_high 21 3 rfl <| fld_high 16 5 rfl <| fld_high 11 5 rfl <| fld_high 7 4 rfl <| fld_high 6 1 rfl <| rfl
  have f0_3 : fld x 0 3 = (3 : BitVec 3) := hx ▸ fld_low 29 3 rfl <| rfl
  have f25_1 : fld x 25 1 = (0 : BitVec 1) := hx ▸ fld_high 29 3 rfl <| fld_high 26 3 rfl <| fld_high 24 2 rfl <| fld_high 21 3 rfl <| fld_high 16 5 rfl <| fld_high 11 5 rfl <| fld_high 7 4 rfl <| fld_low 6 1 rfl <| rfl
  have f8_3 : fld x 8 3 = (0 : BitVec 3) := hx ▸ fld_high 29 3 rfl <| fld_high 26 3 rfl <| fld_high 24 2 rfl <| fld_low 21 3 rfl <| rfl
  have f21_4 : fld x 21 4 = (BitVec.ofFin (w := 4) v) := hx ▸ fld_high 29 3 rfl <| fld_high 26 3 rfl <| fld_high 24 2 rfl <| fld_high 21 3 rfl <| fld_high 16 5 rfl <| fld_high 11 5 rfl <| fld_low 7 4 rfl <| fld_whole _
  have f16_5 : fld x 16 5 = (BitVec.ofFin (w := 5) a) := hx ▸ fld_high 29 3 rfl <| fld_high 26 3 rfl <| fld_high 24 2 rfl <| fld_high 21 3 rfl <| fld_high 16 5 rfl <| fld_low 11 5 rfl <| fld_whole _
  have f11_5 : fld x 11 5 = (BitVec.ofFin (w := 5) b) := hx ▸ fld_high 29 3 rfl <| fld_high 26 3 rfl <| fld_high 24 2 rfl <| fld_high 21 3 rfl <| fld_low 16 5 rfl <| fld_whole _
  have f6_2 : fld x 6 2 = e.code := hx ▸ fld_high 29 3 rfl <| fld_high 26 3 rfl <| fld_low 24 2 rfl <| fld_whole _
  have f3_3 : fld x 3 3 = (BitVec.ofFin (w := 3) k) := hx ▸ fld_high 29 3 rfl <| fld_low 26 3 rfl <| fld_whole _
  rw [decode, f26_6]
  show decodeMajor1B x = _
  rw [decodeMajor1B, f0_3]
  show mbz (fld x 25 1 == 0 && fld x 8 3 == 0) (accept (.vsts (fld x 21 4).toFin (fld x 16 5).toFin (fld x 11 5).toFin (ESize.ofCode (fld x 6 2)) (fld x 3 3).toFin)) = _
  rw [f25_1, f8_3, f21_4, f16_5, f11_5, f6_2, f3_3, ESize.ofCode_code e]
  exact accept_wellFormed wf
theorem Laws.Encoding.vgather (v : VReg) (a : GReg) (x' : VReg) (e : ESize) (k : KReg) : Laws.Encoding.Statement (.vgather v a x' e k) := by
  intro x wf h
  have hx : x = (27 : BitVec 6) ++ (0 : BitVec 1) ++ BitVec.ofFin (w := 4) v ++ BitVec.ofFin (w := 5) a ++ (0 : BitVec 1) ++ BitVec.ofFin (w := 4) x' ++ (0 : BitVec 3) ++ e.code ++ BitVec.ofFin (w := 3) k ++ (4 : BitVec 3) := (Option.some.inj h).symm
  have f26_6 : fld x 26 6 = (27 : BitVec 6) := hx ▸ fld_high 29 3 rfl <| fld_high 26 3 rfl <| fld_high 24 2 rfl <| fld_high 21 3 rfl <| fld_high 17 4 rfl <| fld_high 16 1 rfl <| fld_high 11 5 rfl <| fld_high 7 4 rfl <| fld_high 6 1 rfl <| rfl
  have f0_3 : fld x 0 3 = (4 : BitVec 3) := hx ▸ fld_low 29 3 rfl <| rfl
  have f25_1 : fld x 25 1 = (0 : BitVec 1) := hx ▸ fld_high 29 3 rfl <| fld_high 26 3 rfl <| fld_high 24 2 rfl <| fld_high 21 3 rfl <| fld_high 17 4 rfl <| fld_high 16 1 rfl <| fld_high 11 5 rfl <| fld_high 7 4 rfl <| fld_low 6 1 rfl <| rfl
  have f15_1 : fld x 15 1 = (0 : BitVec 1) := hx ▸ fld_high 29 3 rfl <| fld_high 26 3 rfl <| fld_high 24 2 rfl <| fld_high 21 3 rfl <| fld_high 17 4 rfl <| fld_low 16 1 rfl <| rfl
  have f8_3 : fld x 8 3 = (0 : BitVec 3) := hx ▸ fld_high 29 3 rfl <| fld_high 26 3 rfl <| fld_high 24 2 rfl <| fld_low 21 3 rfl <| rfl
  have f21_4 : fld x 21 4 = (BitVec.ofFin (w := 4) v) := hx ▸ fld_high 29 3 rfl <| fld_high 26 3 rfl <| fld_high 24 2 rfl <| fld_high 21 3 rfl <| fld_high 17 4 rfl <| fld_high 16 1 rfl <| fld_high 11 5 rfl <| fld_low 7 4 rfl <| fld_whole _
  have f16_5 : fld x 16 5 = (BitVec.ofFin (w := 5) a) := hx ▸ fld_high 29 3 rfl <| fld_high 26 3 rfl <| fld_high 24 2 rfl <| fld_high 21 3 rfl <| fld_high 17 4 rfl <| fld_high 16 1 rfl <| fld_low 11 5 rfl <| fld_whole _
  have f11_4 : fld x 11 4 = (BitVec.ofFin (w := 4) x') := hx ▸ fld_high 29 3 rfl <| fld_high 26 3 rfl <| fld_high 24 2 rfl <| fld_high 21 3 rfl <| fld_low 17 4 rfl <| fld_whole _
  have f6_2 : fld x 6 2 = e.code := hx ▸ fld_high 29 3 rfl <| fld_high 26 3 rfl <| fld_low 24 2 rfl <| fld_whole _
  have f3_3 : fld x 3 3 = (BitVec.ofFin (w := 3) k) := hx ▸ fld_high 29 3 rfl <| fld_low 26 3 rfl <| fld_whole _
  rw [decode, f26_6]
  show decodeMajor1B x = _
  rw [decodeMajor1B, f0_3]
  show mbz (fld x 25 1 == 0 && fld x 15 1 == 0 && fld x 8 3 == 0) (accept (.vgather (fld x 21 4).toFin (fld x 16 5).toFin (fld x 11 4).toFin (ESize.ofCode (fld x 6 2)) (fld x 3 3).toFin)) = _
  rw [f25_1, f15_1, f8_3, f21_4, f16_5, f11_4, f6_2, f3_3, ESize.ofCode_code e]
  exact accept_wellFormed wf
theorem Laws.Encoding.vscatter (v : VReg) (a : GReg) (x' : VReg) (e : ESize) (k : KReg) : Laws.Encoding.Statement (.vscatter v a x' e k) := by
  intro x wf h
  have hx : x = (27 : BitVec 6) ++ (0 : BitVec 1) ++ BitVec.ofFin (w := 4) v ++ BitVec.ofFin (w := 5) a ++ (0 : BitVec 1) ++ BitVec.ofFin (w := 4) x' ++ (0 : BitVec 3) ++ e.code ++ BitVec.ofFin (w := 3) k ++ (5 : BitVec 3) := (Option.some.inj h).symm
  have f26_6 : fld x 26 6 = (27 : BitVec 6) := hx ▸ fld_high 29 3 rfl <| fld_high 26 3 rfl <| fld_high 24 2 rfl <| fld_high 21 3 rfl <| fld_high 17 4 rfl <| fld_high 16 1 rfl <| fld_high 11 5 rfl <| fld_high 7 4 rfl <| fld_high 6 1 rfl <| rfl
  have f0_3 : fld x 0 3 = (5 : BitVec 3) := hx ▸ fld_low 29 3 rfl <| rfl
  have f25_1 : fld x 25 1 = (0 : BitVec 1) := hx ▸ fld_high 29 3 rfl <| fld_high 26 3 rfl <| fld_high 24 2 rfl <| fld_high 21 3 rfl <| fld_high 17 4 rfl <| fld_high 16 1 rfl <| fld_high 11 5 rfl <| fld_high 7 4 rfl <| fld_low 6 1 rfl <| rfl
  have f15_1 : fld x 15 1 = (0 : BitVec 1) := hx ▸ fld_high 29 3 rfl <| fld_high 26 3 rfl <| fld_high 24 2 rfl <| fld_high 21 3 rfl <| fld_high 17 4 rfl <| fld_low 16 1 rfl <| rfl
  have f8_3 : fld x 8 3 = (0 : BitVec 3) := hx ▸ fld_high 29 3 rfl <| fld_high 26 3 rfl <| fld_high 24 2 rfl <| fld_low 21 3 rfl <| rfl
  have f21_4 : fld x 21 4 = (BitVec.ofFin (w := 4) v) := hx ▸ fld_high 29 3 rfl <| fld_high 26 3 rfl <| fld_high 24 2 rfl <| fld_high 21 3 rfl <| fld_high 17 4 rfl <| fld_high 16 1 rfl <| fld_high 11 5 rfl <| fld_low 7 4 rfl <| fld_whole _
  have f16_5 : fld x 16 5 = (BitVec.ofFin (w := 5) a) := hx ▸ fld_high 29 3 rfl <| fld_high 26 3 rfl <| fld_high 24 2 rfl <| fld_high 21 3 rfl <| fld_high 17 4 rfl <| fld_high 16 1 rfl <| fld_low 11 5 rfl <| fld_whole _
  have f11_4 : fld x 11 4 = (BitVec.ofFin (w := 4) x') := hx ▸ fld_high 29 3 rfl <| fld_high 26 3 rfl <| fld_high 24 2 rfl <| fld_high 21 3 rfl <| fld_low 17 4 rfl <| fld_whole _
  have f6_2 : fld x 6 2 = e.code := hx ▸ fld_high 29 3 rfl <| fld_high 26 3 rfl <| fld_low 24 2 rfl <| fld_whole _
  have f3_3 : fld x 3 3 = (BitVec.ofFin (w := 3) k) := hx ▸ fld_high 29 3 rfl <| fld_low 26 3 rfl <| fld_whole _
  rw [decode, f26_6]
  show decodeMajor1B x = _
  rw [decodeMajor1B, f0_3]
  show mbz (fld x 25 1 == 0 && fld x 15 1 == 0 && fld x 8 3 == 0) (accept (.vscatter (fld x 21 4).toFin (fld x 16 5).toFin (fld x 11 4).toFin (ESize.ofCode (fld x 6 2)) (fld x 3 3).toFin)) = _
  rw [f25_1, f15_1, f8_3, f21_4, f16_5, f11_4, f6_2, f3_3, ESize.ofCode_code e]
  exact accept_wellFormed wf
theorem Laws.Encoding.vbcld (v : VReg) (a : GReg) (b : GReg) (e : ESize) : Laws.Encoding.Statement (.vbcld v a b e) := by
  intro x wf h
  have hx : x = (27 : BitVec 6) ++ (0 : BitVec 1) ++ BitVec.ofFin (w := 4) v ++ BitVec.ofFin (w := 5) a ++ BitVec.ofFin (w := 5) b ++ (0 : BitVec 3) ++ e.code ++ (6 : BitVec 6) := (Option.some.inj h).symm
  have f26_6 : fld x 26 6 = (27 : BitVec 6) := hx ▸ fld_high 26 6 rfl <| fld_high 24 2 rfl <| fld_high 21 3 rfl <| fld_high 16 5 rfl <| fld_high 11 5 rfl <| fld_high 7 4 rfl <| fld_high 6 1 rfl <| rfl
  have f0_3 : fld x 0 3 = (6 : BitVec 3) := hx ▸ fld_low 26 6 rfl <| rfl
  have f25_1 : fld x 25 1 = (0 : BitVec 1) := hx ▸ fld_high 26 6 rfl <| fld_high 24 2 rfl <| fld_high 21 3 rfl <| fld_high 16 5 rfl <| fld_high 11 5 rfl <| fld_high 7 4 rfl <| fld_low 6 1 rfl <| rfl
  have f8_3 : fld x 8 3 = (0 : BitVec 3) := hx ▸ fld_high 26 6 rfl <| fld_high 24 2 rfl <| fld_low 21 3 rfl <| rfl
  have f3_3 : fld x 3 3 = (0 : BitVec 3) := hx ▸ fld_low 26 6 rfl <| rfl
  have f21_4 : fld x 21 4 = (BitVec.ofFin (w := 4) v) := hx ▸ fld_high 26 6 rfl <| fld_high 24 2 rfl <| fld_high 21 3 rfl <| fld_high 16 5 rfl <| fld_high 11 5 rfl <| fld_low 7 4 rfl <| fld_whole _
  have f16_5 : fld x 16 5 = (BitVec.ofFin (w := 5) a) := hx ▸ fld_high 26 6 rfl <| fld_high 24 2 rfl <| fld_high 21 3 rfl <| fld_high 16 5 rfl <| fld_low 11 5 rfl <| fld_whole _
  have f11_5 : fld x 11 5 = (BitVec.ofFin (w := 5) b) := hx ▸ fld_high 26 6 rfl <| fld_high 24 2 rfl <| fld_high 21 3 rfl <| fld_low 16 5 rfl <| fld_whole _
  have f6_2 : fld x 6 2 = e.code := hx ▸ fld_high 26 6 rfl <| fld_low 24 2 rfl <| fld_whole _
  rw [decode, f26_6]
  show decodeMajor1B x = _
  rw [decodeMajor1B, f0_3]
  show mbz (fld x 25 1 == 0 && fld x 8 3 == 0 && fld x 3 3 == 0) (accept (.vbcld (fld x 21 4).toFin (fld x 16 5).toFin (fld x 11 5).toFin (ESize.ofCode (fld x 6 2)))) = _
  rw [f25_1, f8_3, f3_3, f21_4, f16_5, f11_5, f6_2, ESize.ofCode_code e]
  exact accept_wellFormed wf
theorem Laws.Encoding.amoAdd (d : GReg) (a : GReg) (b : GReg) (o : Order) (s : Bool) : Laws.Encoding.Statement (.amoAdd d a b o s) := by
  intro x wf h
  have hx : x = (32 : BitVec 6) ++ BitVec.ofFin (w := 5) d ++ BitVec.ofFin (w := 5) a ++ BitVec.ofFin (w := 5) b ++ (0 : BitVec 4) ++ o.code ++ BitVec.ofBool s ++ (0 : BitVec 4) := (Option.some.inj h).symm
  have f26_6 : fld x 26 6 = (32 : BitVec 6) := hx ▸ fld_high 28 4 rfl <| fld_high 27 1 rfl <| fld_high 25 2 rfl <| fld_high 21 4 rfl <| fld_high 16 5 rfl <| fld_high 11 5 rfl <| fld_high 6 5 rfl <| rfl
  have f0_4 : fld x 0 4 = (0 : BitVec 4) := hx ▸ fld_low 28 4 rfl <| rfl
  have f7_4 : fld x 7 4 = (0 : BitVec 4) := hx ▸ fld_high 28 4 rfl <| fld_high 27 1 rfl <| fld_high 25 2 rfl <| fld_low 21 4 rfl <| rfl
  have f21_5 : fld x 21 5 = (BitVec.ofFin (w := 5) d) := hx ▸ fld_high 28 4 rfl <| fld_high 27 1 rfl <| fld_high 25 2 rfl <| fld_high 21 4 rfl <| fld_high 16 5 rfl <| fld_high 11 5 rfl <| fld_low 6 5 rfl <| fld_whole _
  have f16_5 : fld x 16 5 = (BitVec.ofFin (w := 5) a) := hx ▸ fld_high 28 4 rfl <| fld_high 27 1 rfl <| fld_high 25 2 rfl <| fld_high 21 4 rfl <| fld_high 16 5 rfl <| fld_low 11 5 rfl <| fld_whole _
  have f11_5 : fld x 11 5 = (BitVec.ofFin (w := 5) b) := hx ▸ fld_high 28 4 rfl <| fld_high 27 1 rfl <| fld_high 25 2 rfl <| fld_high 21 4 rfl <| fld_low 16 5 rfl <| fld_whole _
  have f5_2 : fld x 5 2 = o.code := hx ▸ fld_high 28 4 rfl <| fld_high 27 1 rfl <| fld_low 25 2 rfl <| fld_whole _
  have f4_1 : fld x 4 1 = (BitVec.ofBool s) := hx ▸ fld_high 28 4 rfl <| fld_low 27 1 rfl <| fld_whole _
  rw [decode, f26_6]
  show decodeMajor20 x = _
  rw [decodeMajor20, f0_4]
  show mbz (fld x 7 4 == 0) (accept (.amoAdd (fld x 21 5).toFin (fld x 16 5).toFin (fld x 11 5).toFin (Order.ofCode (fld x 5 2)) (fld x 4 1 == 1))) = _
  rw [f7_4, f21_5, f16_5, f11_5, f5_2, f4_1, Order.ofCode_code o, ofBool_isOne s]
  exact accept_wellFormed wf
theorem Laws.Encoding.amoAnd (d : GReg) (a : GReg) (b : GReg) (o : Order) (s : Bool) : Laws.Encoding.Statement (.amoAnd d a b o s) := by
  intro x wf h
  have hx : x = (32 : BitVec 6) ++ BitVec.ofFin (w := 5) d ++ BitVec.ofFin (w := 5) a ++ BitVec.ofFin (w := 5) b ++ (0 : BitVec 4) ++ o.code ++ BitVec.ofBool s ++ (1 : BitVec 4) := (Option.some.inj h).symm
  have f26_6 : fld x 26 6 = (32 : BitVec 6) := hx ▸ fld_high 28 4 rfl <| fld_high 27 1 rfl <| fld_high 25 2 rfl <| fld_high 21 4 rfl <| fld_high 16 5 rfl <| fld_high 11 5 rfl <| fld_high 6 5 rfl <| rfl
  have f0_4 : fld x 0 4 = (1 : BitVec 4) := hx ▸ fld_low 28 4 rfl <| rfl
  have f7_4 : fld x 7 4 = (0 : BitVec 4) := hx ▸ fld_high 28 4 rfl <| fld_high 27 1 rfl <| fld_high 25 2 rfl <| fld_low 21 4 rfl <| rfl
  have f21_5 : fld x 21 5 = (BitVec.ofFin (w := 5) d) := hx ▸ fld_high 28 4 rfl <| fld_high 27 1 rfl <| fld_high 25 2 rfl <| fld_high 21 4 rfl <| fld_high 16 5 rfl <| fld_high 11 5 rfl <| fld_low 6 5 rfl <| fld_whole _
  have f16_5 : fld x 16 5 = (BitVec.ofFin (w := 5) a) := hx ▸ fld_high 28 4 rfl <| fld_high 27 1 rfl <| fld_high 25 2 rfl <| fld_high 21 4 rfl <| fld_high 16 5 rfl <| fld_low 11 5 rfl <| fld_whole _
  have f11_5 : fld x 11 5 = (BitVec.ofFin (w := 5) b) := hx ▸ fld_high 28 4 rfl <| fld_high 27 1 rfl <| fld_high 25 2 rfl <| fld_high 21 4 rfl <| fld_low 16 5 rfl <| fld_whole _
  have f5_2 : fld x 5 2 = o.code := hx ▸ fld_high 28 4 rfl <| fld_high 27 1 rfl <| fld_low 25 2 rfl <| fld_whole _
  have f4_1 : fld x 4 1 = (BitVec.ofBool s) := hx ▸ fld_high 28 4 rfl <| fld_low 27 1 rfl <| fld_whole _
  rw [decode, f26_6]
  show decodeMajor20 x = _
  rw [decodeMajor20, f0_4]
  show mbz (fld x 7 4 == 0) (accept (.amoAnd (fld x 21 5).toFin (fld x 16 5).toFin (fld x 11 5).toFin (Order.ofCode (fld x 5 2)) (fld x 4 1 == 1))) = _
  rw [f7_4, f21_5, f16_5, f11_5, f5_2, f4_1, Order.ofCode_code o, ofBool_isOne s]
  exact accept_wellFormed wf
theorem Laws.Encoding.amoOr (d : GReg) (a : GReg) (b : GReg) (o : Order) (s : Bool) : Laws.Encoding.Statement (.amoOr d a b o s) := by
  intro x wf h
  have hx : x = (32 : BitVec 6) ++ BitVec.ofFin (w := 5) d ++ BitVec.ofFin (w := 5) a ++ BitVec.ofFin (w := 5) b ++ (0 : BitVec 4) ++ o.code ++ BitVec.ofBool s ++ (2 : BitVec 4) := (Option.some.inj h).symm
  have f26_6 : fld x 26 6 = (32 : BitVec 6) := hx ▸ fld_high 28 4 rfl <| fld_high 27 1 rfl <| fld_high 25 2 rfl <| fld_high 21 4 rfl <| fld_high 16 5 rfl <| fld_high 11 5 rfl <| fld_high 6 5 rfl <| rfl
  have f0_4 : fld x 0 4 = (2 : BitVec 4) := hx ▸ fld_low 28 4 rfl <| rfl
  have f7_4 : fld x 7 4 = (0 : BitVec 4) := hx ▸ fld_high 28 4 rfl <| fld_high 27 1 rfl <| fld_high 25 2 rfl <| fld_low 21 4 rfl <| rfl
  have f21_5 : fld x 21 5 = (BitVec.ofFin (w := 5) d) := hx ▸ fld_high 28 4 rfl <| fld_high 27 1 rfl <| fld_high 25 2 rfl <| fld_high 21 4 rfl <| fld_high 16 5 rfl <| fld_high 11 5 rfl <| fld_low 6 5 rfl <| fld_whole _
  have f16_5 : fld x 16 5 = (BitVec.ofFin (w := 5) a) := hx ▸ fld_high 28 4 rfl <| fld_high 27 1 rfl <| fld_high 25 2 rfl <| fld_high 21 4 rfl <| fld_high 16 5 rfl <| fld_low 11 5 rfl <| fld_whole _
  have f11_5 : fld x 11 5 = (BitVec.ofFin (w := 5) b) := hx ▸ fld_high 28 4 rfl <| fld_high 27 1 rfl <| fld_high 25 2 rfl <| fld_high 21 4 rfl <| fld_low 16 5 rfl <| fld_whole _
  have f5_2 : fld x 5 2 = o.code := hx ▸ fld_high 28 4 rfl <| fld_high 27 1 rfl <| fld_low 25 2 rfl <| fld_whole _
  have f4_1 : fld x 4 1 = (BitVec.ofBool s) := hx ▸ fld_high 28 4 rfl <| fld_low 27 1 rfl <| fld_whole _
  rw [decode, f26_6]
  show decodeMajor20 x = _
  rw [decodeMajor20, f0_4]
  show mbz (fld x 7 4 == 0) (accept (.amoOr (fld x 21 5).toFin (fld x 16 5).toFin (fld x 11 5).toFin (Order.ofCode (fld x 5 2)) (fld x 4 1 == 1))) = _
  rw [f7_4, f21_5, f16_5, f11_5, f5_2, f4_1, Order.ofCode_code o, ofBool_isOne s]
  exact accept_wellFormed wf
theorem Laws.Encoding.amoXor (d : GReg) (a : GReg) (b : GReg) (o : Order) (s : Bool) : Laws.Encoding.Statement (.amoXor d a b o s) := by
  intro x wf h
  have hx : x = (32 : BitVec 6) ++ BitVec.ofFin (w := 5) d ++ BitVec.ofFin (w := 5) a ++ BitVec.ofFin (w := 5) b ++ (0 : BitVec 4) ++ o.code ++ BitVec.ofBool s ++ (3 : BitVec 4) := (Option.some.inj h).symm
  have f26_6 : fld x 26 6 = (32 : BitVec 6) := hx ▸ fld_high 28 4 rfl <| fld_high 27 1 rfl <| fld_high 25 2 rfl <| fld_high 21 4 rfl <| fld_high 16 5 rfl <| fld_high 11 5 rfl <| fld_high 6 5 rfl <| rfl
  have f0_4 : fld x 0 4 = (3 : BitVec 4) := hx ▸ fld_low 28 4 rfl <| rfl
  have f7_4 : fld x 7 4 = (0 : BitVec 4) := hx ▸ fld_high 28 4 rfl <| fld_high 27 1 rfl <| fld_high 25 2 rfl <| fld_low 21 4 rfl <| rfl
  have f21_5 : fld x 21 5 = (BitVec.ofFin (w := 5) d) := hx ▸ fld_high 28 4 rfl <| fld_high 27 1 rfl <| fld_high 25 2 rfl <| fld_high 21 4 rfl <| fld_high 16 5 rfl <| fld_high 11 5 rfl <| fld_low 6 5 rfl <| fld_whole _
  have f16_5 : fld x 16 5 = (BitVec.ofFin (w := 5) a) := hx ▸ fld_high 28 4 rfl <| fld_high 27 1 rfl <| fld_high 25 2 rfl <| fld_high 21 4 rfl <| fld_high 16 5 rfl <| fld_low 11 5 rfl <| fld_whole _
  have f11_5 : fld x 11 5 = (BitVec.ofFin (w := 5) b) := hx ▸ fld_high 28 4 rfl <| fld_high 27 1 rfl <| fld_high 25 2 rfl <| fld_high 21 4 rfl <| fld_low 16 5 rfl <| fld_whole _
  have f5_2 : fld x 5 2 = o.code := hx ▸ fld_high 28 4 rfl <| fld_high 27 1 rfl <| fld_low 25 2 rfl <| fld_whole _
  have f4_1 : fld x 4 1 = (BitVec.ofBool s) := hx ▸ fld_high 28 4 rfl <| fld_low 27 1 rfl <| fld_whole _
  rw [decode, f26_6]
  show decodeMajor20 x = _
  rw [decodeMajor20, f0_4]
  show mbz (fld x 7 4 == 0) (accept (.amoXor (fld x 21 5).toFin (fld x 16 5).toFin (fld x 11 5).toFin (Order.ofCode (fld x 5 2)) (fld x 4 1 == 1))) = _
  rw [f7_4, f21_5, f16_5, f11_5, f5_2, f4_1, Order.ofCode_code o, ofBool_isOne s]
  exact accept_wellFormed wf
theorem Laws.Encoding.amoMin (d : GReg) (a : GReg) (b : GReg) (o : Order) (s : Bool) : Laws.Encoding.Statement (.amoMin d a b o s) := by
  intro x wf h
  have hx : x = (32 : BitVec 6) ++ BitVec.ofFin (w := 5) d ++ BitVec.ofFin (w := 5) a ++ BitVec.ofFin (w := 5) b ++ (0 : BitVec 4) ++ o.code ++ BitVec.ofBool s ++ (4 : BitVec 4) := (Option.some.inj h).symm
  have f26_6 : fld x 26 6 = (32 : BitVec 6) := hx ▸ fld_high 28 4 rfl <| fld_high 27 1 rfl <| fld_high 25 2 rfl <| fld_high 21 4 rfl <| fld_high 16 5 rfl <| fld_high 11 5 rfl <| fld_high 6 5 rfl <| rfl
  have f0_4 : fld x 0 4 = (4 : BitVec 4) := hx ▸ fld_low 28 4 rfl <| rfl
  have f7_4 : fld x 7 4 = (0 : BitVec 4) := hx ▸ fld_high 28 4 rfl <| fld_high 27 1 rfl <| fld_high 25 2 rfl <| fld_low 21 4 rfl <| rfl
  have f21_5 : fld x 21 5 = (BitVec.ofFin (w := 5) d) := hx ▸ fld_high 28 4 rfl <| fld_high 27 1 rfl <| fld_high 25 2 rfl <| fld_high 21 4 rfl <| fld_high 16 5 rfl <| fld_high 11 5 rfl <| fld_low 6 5 rfl <| fld_whole _
  have f16_5 : fld x 16 5 = (BitVec.ofFin (w := 5) a) := hx ▸ fld_high 28 4 rfl <| fld_high 27 1 rfl <| fld_high 25 2 rfl <| fld_high 21 4 rfl <| fld_high 16 5 rfl <| fld_low 11 5 rfl <| fld_whole _
  have f11_5 : fld x 11 5 = (BitVec.ofFin (w := 5) b) := hx ▸ fld_high 28 4 rfl <| fld_high 27 1 rfl <| fld_high 25 2 rfl <| fld_high 21 4 rfl <| fld_low 16 5 rfl <| fld_whole _
  have f5_2 : fld x 5 2 = o.code := hx ▸ fld_high 28 4 rfl <| fld_high 27 1 rfl <| fld_low 25 2 rfl <| fld_whole _
  have f4_1 : fld x 4 1 = (BitVec.ofBool s) := hx ▸ fld_high 28 4 rfl <| fld_low 27 1 rfl <| fld_whole _
  rw [decode, f26_6]
  show decodeMajor20 x = _
  rw [decodeMajor20, f0_4]
  show mbz (fld x 7 4 == 0) (accept (.amoMin (fld x 21 5).toFin (fld x 16 5).toFin (fld x 11 5).toFin (Order.ofCode (fld x 5 2)) (fld x 4 1 == 1))) = _
  rw [f7_4, f21_5, f16_5, f11_5, f5_2, f4_1, Order.ofCode_code o, ofBool_isOne s]
  exact accept_wellFormed wf
theorem Laws.Encoding.amoMax (d : GReg) (a : GReg) (b : GReg) (o : Order) (s : Bool) : Laws.Encoding.Statement (.amoMax d a b o s) := by
  intro x wf h
  have hx : x = (32 : BitVec 6) ++ BitVec.ofFin (w := 5) d ++ BitVec.ofFin (w := 5) a ++ BitVec.ofFin (w := 5) b ++ (0 : BitVec 4) ++ o.code ++ BitVec.ofBool s ++ (5 : BitVec 4) := (Option.some.inj h).symm
  have f26_6 : fld x 26 6 = (32 : BitVec 6) := hx ▸ fld_high 28 4 rfl <| fld_high 27 1 rfl <| fld_high 25 2 rfl <| fld_high 21 4 rfl <| fld_high 16 5 rfl <| fld_high 11 5 rfl <| fld_high 6 5 rfl <| rfl
  have f0_4 : fld x 0 4 = (5 : BitVec 4) := hx ▸ fld_low 28 4 rfl <| rfl
  have f7_4 : fld x 7 4 = (0 : BitVec 4) := hx ▸ fld_high 28 4 rfl <| fld_high 27 1 rfl <| fld_high 25 2 rfl <| fld_low 21 4 rfl <| rfl
  have f21_5 : fld x 21 5 = (BitVec.ofFin (w := 5) d) := hx ▸ fld_high 28 4 rfl <| fld_high 27 1 rfl <| fld_high 25 2 rfl <| fld_high 21 4 rfl <| fld_high 16 5 rfl <| fld_high 11 5 rfl <| fld_low 6 5 rfl <| fld_whole _
  have f16_5 : fld x 16 5 = (BitVec.ofFin (w := 5) a) := hx ▸ fld_high 28 4 rfl <| fld_high 27 1 rfl <| fld_high 25 2 rfl <| fld_high 21 4 rfl <| fld_high 16 5 rfl <| fld_low 11 5 rfl <| fld_whole _
  have f11_5 : fld x 11 5 = (BitVec.ofFin (w := 5) b) := hx ▸ fld_high 28 4 rfl <| fld_high 27 1 rfl <| fld_high 25 2 rfl <| fld_high 21 4 rfl <| fld_low 16 5 rfl <| fld_whole _
  have f5_2 : fld x 5 2 = o.code := hx ▸ fld_high 28 4 rfl <| fld_high 27 1 rfl <| fld_low 25 2 rfl <| fld_whole _
  have f4_1 : fld x 4 1 = (BitVec.ofBool s) := hx ▸ fld_high 28 4 rfl <| fld_low 27 1 rfl <| fld_whole _
  rw [decode, f26_6]
  show decodeMajor20 x = _
  rw [decodeMajor20, f0_4]
  show mbz (fld x 7 4 == 0) (accept (.amoMax (fld x 21 5).toFin (fld x 16 5).toFin (fld x 11 5).toFin (Order.ofCode (fld x 5 2)) (fld x 4 1 == 1))) = _
  rw [f7_4, f21_5, f16_5, f11_5, f5_2, f4_1, Order.ofCode_code o, ofBool_isOne s]
  exact accept_wellFormed wf
theorem Laws.Encoding.amoMinu (d : GReg) (a : GReg) (b : GReg) (o : Order) (s : Bool) : Laws.Encoding.Statement (.amoMinu d a b o s) := by
  intro x wf h
  have hx : x = (32 : BitVec 6) ++ BitVec.ofFin (w := 5) d ++ BitVec.ofFin (w := 5) a ++ BitVec.ofFin (w := 5) b ++ (0 : BitVec 4) ++ o.code ++ BitVec.ofBool s ++ (6 : BitVec 4) := (Option.some.inj h).symm
  have f26_6 : fld x 26 6 = (32 : BitVec 6) := hx ▸ fld_high 28 4 rfl <| fld_high 27 1 rfl <| fld_high 25 2 rfl <| fld_high 21 4 rfl <| fld_high 16 5 rfl <| fld_high 11 5 rfl <| fld_high 6 5 rfl <| rfl
  have f0_4 : fld x 0 4 = (6 : BitVec 4) := hx ▸ fld_low 28 4 rfl <| rfl
  have f7_4 : fld x 7 4 = (0 : BitVec 4) := hx ▸ fld_high 28 4 rfl <| fld_high 27 1 rfl <| fld_high 25 2 rfl <| fld_low 21 4 rfl <| rfl
  have f21_5 : fld x 21 5 = (BitVec.ofFin (w := 5) d) := hx ▸ fld_high 28 4 rfl <| fld_high 27 1 rfl <| fld_high 25 2 rfl <| fld_high 21 4 rfl <| fld_high 16 5 rfl <| fld_high 11 5 rfl <| fld_low 6 5 rfl <| fld_whole _
  have f16_5 : fld x 16 5 = (BitVec.ofFin (w := 5) a) := hx ▸ fld_high 28 4 rfl <| fld_high 27 1 rfl <| fld_high 25 2 rfl <| fld_high 21 4 rfl <| fld_high 16 5 rfl <| fld_low 11 5 rfl <| fld_whole _
  have f11_5 : fld x 11 5 = (BitVec.ofFin (w := 5) b) := hx ▸ fld_high 28 4 rfl <| fld_high 27 1 rfl <| fld_high 25 2 rfl <| fld_high 21 4 rfl <| fld_low 16 5 rfl <| fld_whole _
  have f5_2 : fld x 5 2 = o.code := hx ▸ fld_high 28 4 rfl <| fld_high 27 1 rfl <| fld_low 25 2 rfl <| fld_whole _
  have f4_1 : fld x 4 1 = (BitVec.ofBool s) := hx ▸ fld_high 28 4 rfl <| fld_low 27 1 rfl <| fld_whole _
  rw [decode, f26_6]
  show decodeMajor20 x = _
  rw [decodeMajor20, f0_4]
  show mbz (fld x 7 4 == 0) (accept (.amoMinu (fld x 21 5).toFin (fld x 16 5).toFin (fld x 11 5).toFin (Order.ofCode (fld x 5 2)) (fld x 4 1 == 1))) = _
  rw [f7_4, f21_5, f16_5, f11_5, f5_2, f4_1, Order.ofCode_code o, ofBool_isOne s]
  exact accept_wellFormed wf
theorem Laws.Encoding.amoMaxu (d : GReg) (a : GReg) (b : GReg) (o : Order) (s : Bool) : Laws.Encoding.Statement (.amoMaxu d a b o s) := by
  intro x wf h
  have hx : x = (32 : BitVec 6) ++ BitVec.ofFin (w := 5) d ++ BitVec.ofFin (w := 5) a ++ BitVec.ofFin (w := 5) b ++ (0 : BitVec 4) ++ o.code ++ BitVec.ofBool s ++ (7 : BitVec 4) := (Option.some.inj h).symm
  have f26_6 : fld x 26 6 = (32 : BitVec 6) := hx ▸ fld_high 28 4 rfl <| fld_high 27 1 rfl <| fld_high 25 2 rfl <| fld_high 21 4 rfl <| fld_high 16 5 rfl <| fld_high 11 5 rfl <| fld_high 6 5 rfl <| rfl
  have f0_4 : fld x 0 4 = (7 : BitVec 4) := hx ▸ fld_low 28 4 rfl <| rfl
  have f7_4 : fld x 7 4 = (0 : BitVec 4) := hx ▸ fld_high 28 4 rfl <| fld_high 27 1 rfl <| fld_high 25 2 rfl <| fld_low 21 4 rfl <| rfl
  have f21_5 : fld x 21 5 = (BitVec.ofFin (w := 5) d) := hx ▸ fld_high 28 4 rfl <| fld_high 27 1 rfl <| fld_high 25 2 rfl <| fld_high 21 4 rfl <| fld_high 16 5 rfl <| fld_high 11 5 rfl <| fld_low 6 5 rfl <| fld_whole _
  have f16_5 : fld x 16 5 = (BitVec.ofFin (w := 5) a) := hx ▸ fld_high 28 4 rfl <| fld_high 27 1 rfl <| fld_high 25 2 rfl <| fld_high 21 4 rfl <| fld_high 16 5 rfl <| fld_low 11 5 rfl <| fld_whole _
  have f11_5 : fld x 11 5 = (BitVec.ofFin (w := 5) b) := hx ▸ fld_high 28 4 rfl <| fld_high 27 1 rfl <| fld_high 25 2 rfl <| fld_high 21 4 rfl <| fld_low 16 5 rfl <| fld_whole _
  have f5_2 : fld x 5 2 = o.code := hx ▸ fld_high 28 4 rfl <| fld_high 27 1 rfl <| fld_low 25 2 rfl <| fld_whole _
  have f4_1 : fld x 4 1 = (BitVec.ofBool s) := hx ▸ fld_high 28 4 rfl <| fld_low 27 1 rfl <| fld_whole _
  rw [decode, f26_6]
  show decodeMajor20 x = _
  rw [decodeMajor20, f0_4]
  show mbz (fld x 7 4 == 0) (accept (.amoMaxu (fld x 21 5).toFin (fld x 16 5).toFin (fld x 11 5).toFin (Order.ofCode (fld x 5 2)) (fld x 4 1 == 1))) = _
  rw [f7_4, f21_5, f16_5, f11_5, f5_2, f4_1, Order.ofCode_code o, ofBool_isOne s]
  exact accept_wellFormed wf
theorem Laws.Encoding.amoSwap (d : GReg) (a : GReg) (b : GReg) (o : Order) (s : Bool) : Laws.Encoding.Statement (.amoSwap d a b o s) := by
  intro x wf h
  have hx : x = (32 : BitVec 6) ++ BitVec.ofFin (w := 5) d ++ BitVec.ofFin (w := 5) a ++ BitVec.ofFin (w := 5) b ++ (0 : BitVec 4) ++ o.code ++ BitVec.ofBool s ++ (8 : BitVec 4) := (Option.some.inj h).symm
  have f26_6 : fld x 26 6 = (32 : BitVec 6) := hx ▸ fld_high 28 4 rfl <| fld_high 27 1 rfl <| fld_high 25 2 rfl <| fld_high 21 4 rfl <| fld_high 16 5 rfl <| fld_high 11 5 rfl <| fld_high 6 5 rfl <| rfl
  have f0_4 : fld x 0 4 = (8 : BitVec 4) := hx ▸ fld_low 28 4 rfl <| rfl
  have f7_4 : fld x 7 4 = (0 : BitVec 4) := hx ▸ fld_high 28 4 rfl <| fld_high 27 1 rfl <| fld_high 25 2 rfl <| fld_low 21 4 rfl <| rfl
  have f21_5 : fld x 21 5 = (BitVec.ofFin (w := 5) d) := hx ▸ fld_high 28 4 rfl <| fld_high 27 1 rfl <| fld_high 25 2 rfl <| fld_high 21 4 rfl <| fld_high 16 5 rfl <| fld_high 11 5 rfl <| fld_low 6 5 rfl <| fld_whole _
  have f16_5 : fld x 16 5 = (BitVec.ofFin (w := 5) a) := hx ▸ fld_high 28 4 rfl <| fld_high 27 1 rfl <| fld_high 25 2 rfl <| fld_high 21 4 rfl <| fld_high 16 5 rfl <| fld_low 11 5 rfl <| fld_whole _
  have f11_5 : fld x 11 5 = (BitVec.ofFin (w := 5) b) := hx ▸ fld_high 28 4 rfl <| fld_high 27 1 rfl <| fld_high 25 2 rfl <| fld_high 21 4 rfl <| fld_low 16 5 rfl <| fld_whole _
  have f5_2 : fld x 5 2 = o.code := hx ▸ fld_high 28 4 rfl <| fld_high 27 1 rfl <| fld_low 25 2 rfl <| fld_whole _
  have f4_1 : fld x 4 1 = (BitVec.ofBool s) := hx ▸ fld_high 28 4 rfl <| fld_low 27 1 rfl <| fld_whole _
  rw [decode, f26_6]
  show decodeMajor20 x = _
  rw [decodeMajor20, f0_4]
  show mbz (fld x 7 4 == 0) (accept (.amoSwap (fld x 21 5).toFin (fld x 16 5).toFin (fld x 11 5).toFin (Order.ofCode (fld x 5 2)) (fld x 4 1 == 1))) = _
  rw [f7_4, f21_5, f16_5, f11_5, f5_2, f4_1, Order.ofCode_code o, ofBool_isOne s]
  exact accept_wellFormed wf
theorem Laws.Encoding.amoCas (d : GReg) (a : GReg) (b : GReg) (o : Order) (s : Bool) : Laws.Encoding.Statement (.amoCas d a b o s) := by
  intro x wf h
  have hx : x = (32 : BitVec 6) ++ BitVec.ofFin (w := 5) d ++ BitVec.ofFin (w := 5) a ++ BitVec.ofFin (w := 5) b ++ (0 : BitVec 4) ++ o.code ++ BitVec.ofBool s ++ (9 : BitVec 4) := (Option.some.inj h).symm
  have f26_6 : fld x 26 6 = (32 : BitVec 6) := hx ▸ fld_high 28 4 rfl <| fld_high 27 1 rfl <| fld_high 25 2 rfl <| fld_high 21 4 rfl <| fld_high 16 5 rfl <| fld_high 11 5 rfl <| fld_high 6 5 rfl <| rfl
  have f0_4 : fld x 0 4 = (9 : BitVec 4) := hx ▸ fld_low 28 4 rfl <| rfl
  have f7_4 : fld x 7 4 = (0 : BitVec 4) := hx ▸ fld_high 28 4 rfl <| fld_high 27 1 rfl <| fld_high 25 2 rfl <| fld_low 21 4 rfl <| rfl
  have f21_5 : fld x 21 5 = (BitVec.ofFin (w := 5) d) := hx ▸ fld_high 28 4 rfl <| fld_high 27 1 rfl <| fld_high 25 2 rfl <| fld_high 21 4 rfl <| fld_high 16 5 rfl <| fld_high 11 5 rfl <| fld_low 6 5 rfl <| fld_whole _
  have f16_5 : fld x 16 5 = (BitVec.ofFin (w := 5) a) := hx ▸ fld_high 28 4 rfl <| fld_high 27 1 rfl <| fld_high 25 2 rfl <| fld_high 21 4 rfl <| fld_high 16 5 rfl <| fld_low 11 5 rfl <| fld_whole _
  have f11_5 : fld x 11 5 = (BitVec.ofFin (w := 5) b) := hx ▸ fld_high 28 4 rfl <| fld_high 27 1 rfl <| fld_high 25 2 rfl <| fld_high 21 4 rfl <| fld_low 16 5 rfl <| fld_whole _
  have f5_2 : fld x 5 2 = o.code := hx ▸ fld_high 28 4 rfl <| fld_high 27 1 rfl <| fld_low 25 2 rfl <| fld_whole _
  have f4_1 : fld x 4 1 = (BitVec.ofBool s) := hx ▸ fld_high 28 4 rfl <| fld_low 27 1 rfl <| fld_whole _
  rw [decode, f26_6]
  show decodeMajor20 x = _
  rw [decodeMajor20, f0_4]
  show mbz (fld x 7 4 == 0) (accept (.amoCas (fld x 21 5).toFin (fld x 16 5).toFin (fld x 11 5).toFin (Order.ofCode (fld x 5 2)) (fld x 4 1 == 1))) = _
  rw [f7_4, f21_5, f16_5, f11_5, f5_2, f4_1, Order.ofCode_code o, ofBool_isOne s]
  exact accept_wellFormed wf
theorem Laws.Encoding.amoFadd (d : GReg) (a : GReg) (b : GReg) (o : Order) (s : Bool) : Laws.Encoding.Statement (.amoFadd d a b o s) := by
  intro x wf h
  have hx : x = (32 : BitVec 6) ++ BitVec.ofFin (w := 5) d ++ BitVec.ofFin (w := 5) a ++ BitVec.ofFin (w := 5) b ++ (0 : BitVec 4) ++ o.code ++ BitVec.ofBool s ++ (10 : BitVec 4) := (Option.some.inj h).symm
  have f26_6 : fld x 26 6 = (32 : BitVec 6) := hx ▸ fld_high 28 4 rfl <| fld_high 27 1 rfl <| fld_high 25 2 rfl <| fld_high 21 4 rfl <| fld_high 16 5 rfl <| fld_high 11 5 rfl <| fld_high 6 5 rfl <| rfl
  have f0_4 : fld x 0 4 = (10 : BitVec 4) := hx ▸ fld_low 28 4 rfl <| rfl
  have f7_4 : fld x 7 4 = (0 : BitVec 4) := hx ▸ fld_high 28 4 rfl <| fld_high 27 1 rfl <| fld_high 25 2 rfl <| fld_low 21 4 rfl <| rfl
  have f21_5 : fld x 21 5 = (BitVec.ofFin (w := 5) d) := hx ▸ fld_high 28 4 rfl <| fld_high 27 1 rfl <| fld_high 25 2 rfl <| fld_high 21 4 rfl <| fld_high 16 5 rfl <| fld_high 11 5 rfl <| fld_low 6 5 rfl <| fld_whole _
  have f16_5 : fld x 16 5 = (BitVec.ofFin (w := 5) a) := hx ▸ fld_high 28 4 rfl <| fld_high 27 1 rfl <| fld_high 25 2 rfl <| fld_high 21 4 rfl <| fld_high 16 5 rfl <| fld_low 11 5 rfl <| fld_whole _
  have f11_5 : fld x 11 5 = (BitVec.ofFin (w := 5) b) := hx ▸ fld_high 28 4 rfl <| fld_high 27 1 rfl <| fld_high 25 2 rfl <| fld_high 21 4 rfl <| fld_low 16 5 rfl <| fld_whole _
  have f5_2 : fld x 5 2 = o.code := hx ▸ fld_high 28 4 rfl <| fld_high 27 1 rfl <| fld_low 25 2 rfl <| fld_whole _
  have f4_1 : fld x 4 1 = (BitVec.ofBool s) := hx ▸ fld_high 28 4 rfl <| fld_low 27 1 rfl <| fld_whole _
  rw [decode, f26_6]
  show decodeMajor20 x = _
  rw [decodeMajor20, f0_4]
  show mbz (fld x 7 4 == 0) (accept (.amoFadd (fld x 21 5).toFin (fld x 16 5).toFin (fld x 11 5).toFin (Order.ofCode (fld x 5 2)) (fld x 4 1 == 1))) = _
  rw [f7_4, f21_5, f16_5, f11_5, f5_2, f4_1, Order.ofCode_code o, ofBool_isOne s]
  exact accept_wellFormed wf
theorem Laws.Encoding.amoFmin (d : GReg) (a : GReg) (b : GReg) (o : Order) (s : Bool) : Laws.Encoding.Statement (.amoFmin d a b o s) := by
  intro x wf h
  have hx : x = (32 : BitVec 6) ++ BitVec.ofFin (w := 5) d ++ BitVec.ofFin (w := 5) a ++ BitVec.ofFin (w := 5) b ++ (0 : BitVec 4) ++ o.code ++ BitVec.ofBool s ++ (11 : BitVec 4) := (Option.some.inj h).symm
  have f26_6 : fld x 26 6 = (32 : BitVec 6) := hx ▸ fld_high 28 4 rfl <| fld_high 27 1 rfl <| fld_high 25 2 rfl <| fld_high 21 4 rfl <| fld_high 16 5 rfl <| fld_high 11 5 rfl <| fld_high 6 5 rfl <| rfl
  have f0_4 : fld x 0 4 = (11 : BitVec 4) := hx ▸ fld_low 28 4 rfl <| rfl
  have f7_4 : fld x 7 4 = (0 : BitVec 4) := hx ▸ fld_high 28 4 rfl <| fld_high 27 1 rfl <| fld_high 25 2 rfl <| fld_low 21 4 rfl <| rfl
  have f21_5 : fld x 21 5 = (BitVec.ofFin (w := 5) d) := hx ▸ fld_high 28 4 rfl <| fld_high 27 1 rfl <| fld_high 25 2 rfl <| fld_high 21 4 rfl <| fld_high 16 5 rfl <| fld_high 11 5 rfl <| fld_low 6 5 rfl <| fld_whole _
  have f16_5 : fld x 16 5 = (BitVec.ofFin (w := 5) a) := hx ▸ fld_high 28 4 rfl <| fld_high 27 1 rfl <| fld_high 25 2 rfl <| fld_high 21 4 rfl <| fld_high 16 5 rfl <| fld_low 11 5 rfl <| fld_whole _
  have f11_5 : fld x 11 5 = (BitVec.ofFin (w := 5) b) := hx ▸ fld_high 28 4 rfl <| fld_high 27 1 rfl <| fld_high 25 2 rfl <| fld_high 21 4 rfl <| fld_low 16 5 rfl <| fld_whole _
  have f5_2 : fld x 5 2 = o.code := hx ▸ fld_high 28 4 rfl <| fld_high 27 1 rfl <| fld_low 25 2 rfl <| fld_whole _
  have f4_1 : fld x 4 1 = (BitVec.ofBool s) := hx ▸ fld_high 28 4 rfl <| fld_low 27 1 rfl <| fld_whole _
  rw [decode, f26_6]
  show decodeMajor20 x = _
  rw [decodeMajor20, f0_4]
  show mbz (fld x 7 4 == 0) (accept (.amoFmin (fld x 21 5).toFin (fld x 16 5).toFin (fld x 11 5).toFin (Order.ofCode (fld x 5 2)) (fld x 4 1 == 1))) = _
  rw [f7_4, f21_5, f16_5, f11_5, f5_2, f4_1, Order.ofCode_code o, ofBool_isOne s]
  exact accept_wellFormed wf
theorem Laws.Encoding.amoFmax (d : GReg) (a : GReg) (b : GReg) (o : Order) (s : Bool) : Laws.Encoding.Statement (.amoFmax d a b o s) := by
  intro x wf h
  have hx : x = (32 : BitVec 6) ++ BitVec.ofFin (w := 5) d ++ BitVec.ofFin (w := 5) a ++ BitVec.ofFin (w := 5) b ++ (0 : BitVec 4) ++ o.code ++ BitVec.ofBool s ++ (12 : BitVec 4) := (Option.some.inj h).symm
  have f26_6 : fld x 26 6 = (32 : BitVec 6) := hx ▸ fld_high 28 4 rfl <| fld_high 27 1 rfl <| fld_high 25 2 rfl <| fld_high 21 4 rfl <| fld_high 16 5 rfl <| fld_high 11 5 rfl <| fld_high 6 5 rfl <| rfl
  have f0_4 : fld x 0 4 = (12 : BitVec 4) := hx ▸ fld_low 28 4 rfl <| rfl
  have f7_4 : fld x 7 4 = (0 : BitVec 4) := hx ▸ fld_high 28 4 rfl <| fld_high 27 1 rfl <| fld_high 25 2 rfl <| fld_low 21 4 rfl <| rfl
  have f21_5 : fld x 21 5 = (BitVec.ofFin (w := 5) d) := hx ▸ fld_high 28 4 rfl <| fld_high 27 1 rfl <| fld_high 25 2 rfl <| fld_high 21 4 rfl <| fld_high 16 5 rfl <| fld_high 11 5 rfl <| fld_low 6 5 rfl <| fld_whole _
  have f16_5 : fld x 16 5 = (BitVec.ofFin (w := 5) a) := hx ▸ fld_high 28 4 rfl <| fld_high 27 1 rfl <| fld_high 25 2 rfl <| fld_high 21 4 rfl <| fld_high 16 5 rfl <| fld_low 11 5 rfl <| fld_whole _
  have f11_5 : fld x 11 5 = (BitVec.ofFin (w := 5) b) := hx ▸ fld_high 28 4 rfl <| fld_high 27 1 rfl <| fld_high 25 2 rfl <| fld_high 21 4 rfl <| fld_low 16 5 rfl <| fld_whole _
  have f5_2 : fld x 5 2 = o.code := hx ▸ fld_high 28 4 rfl <| fld_high 27 1 rfl <| fld_low 25 2 rfl <| fld_whole _
  have f4_1 : fld x 4 1 = (BitVec.ofBool s) := hx ▸ fld_high 28 4 rfl <| fld_low 27 1 rfl <| fld_whole _
  rw [decode, f26_6]
  show decodeMajor20 x = _
  rw [decodeMajor20, f0_4]
  show mbz (fld x 7 4 == 0) (accept (.amoFmax (fld x 21 5).toFin (fld x 16 5).toFin (fld x 11 5).toFin (Order.ofCode (fld x 5 2)) (fld x 4 1 == 1))) = _
  rw [f7_4, f21_5, f16_5, f11_5, f5_2, f4_1, Order.ofCode_code o, ofBool_isOne s]
  exact accept_wellFormed wf
theorem Laws.Encoding.redAdd (a : GReg) (b : GReg) (o : Bool) (s : Bool) : Laws.Encoding.Statement (.redAdd a b o s) := by
  intro x wf h
  have hx : x = (33 : BitVec 6) ++ (0 : BitVec 5) ++ BitVec.ofFin (w := 5) a ++ BitVec.ofFin (w := 5) b ++ (0 : BitVec 4) ++ BitVec.ofBool o ++ (0 : BitVec 1) ++ BitVec.ofBool s ++ (0 : BitVec 4) := (Option.some.inj h).symm
  have f26_6 : fld x 26 6 = (33 : BitVec 6) := hx ▸ fld_high 28 4 rfl <| fld_high 27 1 rfl <| fld_high 26 1 rfl <| fld_high 25 1 rfl <| fld_high 21 4 rfl <| fld_high 16 5 rfl <| fld_high 11 5 rfl <| fld_high 6 5 rfl <| rfl
  have f0_4 : fld x 0 4 = (0 : BitVec 4) := hx ▸ fld_low 28 4 rfl <| rfl
  have f21_5 : fld x 21 5 = (0 : BitVec 5) := hx ▸ fld_high 28 4 rfl <| fld_high 27 1 rfl <| fld_high 26 1 rfl <| fld_high 25 1 rfl <| fld_high 21 4 rfl <| fld_high 16 5 rfl <| fld_high 11 5 rfl <| fld_low 6 5 rfl <| rfl
  have f7_4 : fld x 7 4 = (0 : BitVec 4) := hx ▸ fld_high 28 4 rfl <| fld_high 27 1 rfl <| fld_high 26 1 rfl <| fld_high 25 1 rfl <| fld_low 21 4 rfl <| rfl
  have f5_1 : fld x 5 1 = (0 : BitVec 1) := hx ▸ fld_high 28 4 rfl <| fld_high 27 1 rfl <| fld_low 26 1 rfl <| rfl
  have f16_5 : fld x 16 5 = (BitVec.ofFin (w := 5) a) := hx ▸ fld_high 28 4 rfl <| fld_high 27 1 rfl <| fld_high 26 1 rfl <| fld_high 25 1 rfl <| fld_high 21 4 rfl <| fld_high 16 5 rfl <| fld_low 11 5 rfl <| fld_whole _
  have f11_5 : fld x 11 5 = (BitVec.ofFin (w := 5) b) := hx ▸ fld_high 28 4 rfl <| fld_high 27 1 rfl <| fld_high 26 1 rfl <| fld_high 25 1 rfl <| fld_high 21 4 rfl <| fld_low 16 5 rfl <| fld_whole _
  have f6_1 : fld x 6 1 = (BitVec.ofBool o) := hx ▸ fld_high 28 4 rfl <| fld_high 27 1 rfl <| fld_high 26 1 rfl <| fld_low 25 1 rfl <| fld_whole _
  have f4_1 : fld x 4 1 = (BitVec.ofBool s) := hx ▸ fld_high 28 4 rfl <| fld_low 27 1 rfl <| fld_whole _
  rw [decode, f26_6]
  show decodeMajor21 x = _
  rw [decodeMajor21, f0_4]
  show mbz (fld x 21 5 == 0 && fld x 7 4 == 0 && fld x 5 1 == 0) (accept (.redAdd (fld x 16 5).toFin (fld x 11 5).toFin (fld x 6 1 == 1) (fld x 4 1 == 1))) = _
  rw [f21_5, f7_4, f5_1, f16_5, f11_5, f6_1, f4_1, ofBool_isOne o, ofBool_isOne s]
  exact accept_wellFormed wf
theorem Laws.Encoding.redAnd (a : GReg) (b : GReg) (o : Bool) (s : Bool) : Laws.Encoding.Statement (.redAnd a b o s) := by
  intro x wf h
  have hx : x = (33 : BitVec 6) ++ (0 : BitVec 5) ++ BitVec.ofFin (w := 5) a ++ BitVec.ofFin (w := 5) b ++ (0 : BitVec 4) ++ BitVec.ofBool o ++ (0 : BitVec 1) ++ BitVec.ofBool s ++ (1 : BitVec 4) := (Option.some.inj h).symm
  have f26_6 : fld x 26 6 = (33 : BitVec 6) := hx ▸ fld_high 28 4 rfl <| fld_high 27 1 rfl <| fld_high 26 1 rfl <| fld_high 25 1 rfl <| fld_high 21 4 rfl <| fld_high 16 5 rfl <| fld_high 11 5 rfl <| fld_high 6 5 rfl <| rfl
  have f0_4 : fld x 0 4 = (1 : BitVec 4) := hx ▸ fld_low 28 4 rfl <| rfl
  have f21_5 : fld x 21 5 = (0 : BitVec 5) := hx ▸ fld_high 28 4 rfl <| fld_high 27 1 rfl <| fld_high 26 1 rfl <| fld_high 25 1 rfl <| fld_high 21 4 rfl <| fld_high 16 5 rfl <| fld_high 11 5 rfl <| fld_low 6 5 rfl <| rfl
  have f7_4 : fld x 7 4 = (0 : BitVec 4) := hx ▸ fld_high 28 4 rfl <| fld_high 27 1 rfl <| fld_high 26 1 rfl <| fld_high 25 1 rfl <| fld_low 21 4 rfl <| rfl
  have f5_1 : fld x 5 1 = (0 : BitVec 1) := hx ▸ fld_high 28 4 rfl <| fld_high 27 1 rfl <| fld_low 26 1 rfl <| rfl
  have f16_5 : fld x 16 5 = (BitVec.ofFin (w := 5) a) := hx ▸ fld_high 28 4 rfl <| fld_high 27 1 rfl <| fld_high 26 1 rfl <| fld_high 25 1 rfl <| fld_high 21 4 rfl <| fld_high 16 5 rfl <| fld_low 11 5 rfl <| fld_whole _
  have f11_5 : fld x 11 5 = (BitVec.ofFin (w := 5) b) := hx ▸ fld_high 28 4 rfl <| fld_high 27 1 rfl <| fld_high 26 1 rfl <| fld_high 25 1 rfl <| fld_high 21 4 rfl <| fld_low 16 5 rfl <| fld_whole _
  have f6_1 : fld x 6 1 = (BitVec.ofBool o) := hx ▸ fld_high 28 4 rfl <| fld_high 27 1 rfl <| fld_high 26 1 rfl <| fld_low 25 1 rfl <| fld_whole _
  have f4_1 : fld x 4 1 = (BitVec.ofBool s) := hx ▸ fld_high 28 4 rfl <| fld_low 27 1 rfl <| fld_whole _
  rw [decode, f26_6]
  show decodeMajor21 x = _
  rw [decodeMajor21, f0_4]
  show mbz (fld x 21 5 == 0 && fld x 7 4 == 0 && fld x 5 1 == 0) (accept (.redAnd (fld x 16 5).toFin (fld x 11 5).toFin (fld x 6 1 == 1) (fld x 4 1 == 1))) = _
  rw [f21_5, f7_4, f5_1, f16_5, f11_5, f6_1, f4_1, ofBool_isOne o, ofBool_isOne s]
  exact accept_wellFormed wf
theorem Laws.Encoding.redOr (a : GReg) (b : GReg) (o : Bool) (s : Bool) : Laws.Encoding.Statement (.redOr a b o s) := by
  intro x wf h
  have hx : x = (33 : BitVec 6) ++ (0 : BitVec 5) ++ BitVec.ofFin (w := 5) a ++ BitVec.ofFin (w := 5) b ++ (0 : BitVec 4) ++ BitVec.ofBool o ++ (0 : BitVec 1) ++ BitVec.ofBool s ++ (2 : BitVec 4) := (Option.some.inj h).symm
  have f26_6 : fld x 26 6 = (33 : BitVec 6) := hx ▸ fld_high 28 4 rfl <| fld_high 27 1 rfl <| fld_high 26 1 rfl <| fld_high 25 1 rfl <| fld_high 21 4 rfl <| fld_high 16 5 rfl <| fld_high 11 5 rfl <| fld_high 6 5 rfl <| rfl
  have f0_4 : fld x 0 4 = (2 : BitVec 4) := hx ▸ fld_low 28 4 rfl <| rfl
  have f21_5 : fld x 21 5 = (0 : BitVec 5) := hx ▸ fld_high 28 4 rfl <| fld_high 27 1 rfl <| fld_high 26 1 rfl <| fld_high 25 1 rfl <| fld_high 21 4 rfl <| fld_high 16 5 rfl <| fld_high 11 5 rfl <| fld_low 6 5 rfl <| rfl
  have f7_4 : fld x 7 4 = (0 : BitVec 4) := hx ▸ fld_high 28 4 rfl <| fld_high 27 1 rfl <| fld_high 26 1 rfl <| fld_high 25 1 rfl <| fld_low 21 4 rfl <| rfl
  have f5_1 : fld x 5 1 = (0 : BitVec 1) := hx ▸ fld_high 28 4 rfl <| fld_high 27 1 rfl <| fld_low 26 1 rfl <| rfl
  have f16_5 : fld x 16 5 = (BitVec.ofFin (w := 5) a) := hx ▸ fld_high 28 4 rfl <| fld_high 27 1 rfl <| fld_high 26 1 rfl <| fld_high 25 1 rfl <| fld_high 21 4 rfl <| fld_high 16 5 rfl <| fld_low 11 5 rfl <| fld_whole _
  have f11_5 : fld x 11 5 = (BitVec.ofFin (w := 5) b) := hx ▸ fld_high 28 4 rfl <| fld_high 27 1 rfl <| fld_high 26 1 rfl <| fld_high 25 1 rfl <| fld_high 21 4 rfl <| fld_low 16 5 rfl <| fld_whole _
  have f6_1 : fld x 6 1 = (BitVec.ofBool o) := hx ▸ fld_high 28 4 rfl <| fld_high 27 1 rfl <| fld_high 26 1 rfl <| fld_low 25 1 rfl <| fld_whole _
  have f4_1 : fld x 4 1 = (BitVec.ofBool s) := hx ▸ fld_high 28 4 rfl <| fld_low 27 1 rfl <| fld_whole _
  rw [decode, f26_6]
  show decodeMajor21 x = _
  rw [decodeMajor21, f0_4]
  show mbz (fld x 21 5 == 0 && fld x 7 4 == 0 && fld x 5 1 == 0) (accept (.redOr (fld x 16 5).toFin (fld x 11 5).toFin (fld x 6 1 == 1) (fld x 4 1 == 1))) = _
  rw [f21_5, f7_4, f5_1, f16_5, f11_5, f6_1, f4_1, ofBool_isOne o, ofBool_isOne s]
  exact accept_wellFormed wf
theorem Laws.Encoding.redXor (a : GReg) (b : GReg) (o : Bool) (s : Bool) : Laws.Encoding.Statement (.redXor a b o s) := by
  intro x wf h
  have hx : x = (33 : BitVec 6) ++ (0 : BitVec 5) ++ BitVec.ofFin (w := 5) a ++ BitVec.ofFin (w := 5) b ++ (0 : BitVec 4) ++ BitVec.ofBool o ++ (0 : BitVec 1) ++ BitVec.ofBool s ++ (3 : BitVec 4) := (Option.some.inj h).symm
  have f26_6 : fld x 26 6 = (33 : BitVec 6) := hx ▸ fld_high 28 4 rfl <| fld_high 27 1 rfl <| fld_high 26 1 rfl <| fld_high 25 1 rfl <| fld_high 21 4 rfl <| fld_high 16 5 rfl <| fld_high 11 5 rfl <| fld_high 6 5 rfl <| rfl
  have f0_4 : fld x 0 4 = (3 : BitVec 4) := hx ▸ fld_low 28 4 rfl <| rfl
  have f21_5 : fld x 21 5 = (0 : BitVec 5) := hx ▸ fld_high 28 4 rfl <| fld_high 27 1 rfl <| fld_high 26 1 rfl <| fld_high 25 1 rfl <| fld_high 21 4 rfl <| fld_high 16 5 rfl <| fld_high 11 5 rfl <| fld_low 6 5 rfl <| rfl
  have f7_4 : fld x 7 4 = (0 : BitVec 4) := hx ▸ fld_high 28 4 rfl <| fld_high 27 1 rfl <| fld_high 26 1 rfl <| fld_high 25 1 rfl <| fld_low 21 4 rfl <| rfl
  have f5_1 : fld x 5 1 = (0 : BitVec 1) := hx ▸ fld_high 28 4 rfl <| fld_high 27 1 rfl <| fld_low 26 1 rfl <| rfl
  have f16_5 : fld x 16 5 = (BitVec.ofFin (w := 5) a) := hx ▸ fld_high 28 4 rfl <| fld_high 27 1 rfl <| fld_high 26 1 rfl <| fld_high 25 1 rfl <| fld_high 21 4 rfl <| fld_high 16 5 rfl <| fld_low 11 5 rfl <| fld_whole _
  have f11_5 : fld x 11 5 = (BitVec.ofFin (w := 5) b) := hx ▸ fld_high 28 4 rfl <| fld_high 27 1 rfl <| fld_high 26 1 rfl <| fld_high 25 1 rfl <| fld_high 21 4 rfl <| fld_low 16 5 rfl <| fld_whole _
  have f6_1 : fld x 6 1 = (BitVec.ofBool o) := hx ▸ fld_high 28 4 rfl <| fld_high 27 1 rfl <| fld_high 26 1 rfl <| fld_low 25 1 rfl <| fld_whole _
  have f4_1 : fld x 4 1 = (BitVec.ofBool s) := hx ▸ fld_high 28 4 rfl <| fld_low 27 1 rfl <| fld_whole _
  rw [decode, f26_6]
  show decodeMajor21 x = _
  rw [decodeMajor21, f0_4]
  show mbz (fld x 21 5 == 0 && fld x 7 4 == 0 && fld x 5 1 == 0) (accept (.redXor (fld x 16 5).toFin (fld x 11 5).toFin (fld x 6 1 == 1) (fld x 4 1 == 1))) = _
  rw [f21_5, f7_4, f5_1, f16_5, f11_5, f6_1, f4_1, ofBool_isOne o, ofBool_isOne s]
  exact accept_wellFormed wf
theorem Laws.Encoding.redMin (a : GReg) (b : GReg) (o : Bool) (s : Bool) : Laws.Encoding.Statement (.redMin a b o s) := by
  intro x wf h
  have hx : x = (33 : BitVec 6) ++ (0 : BitVec 5) ++ BitVec.ofFin (w := 5) a ++ BitVec.ofFin (w := 5) b ++ (0 : BitVec 4) ++ BitVec.ofBool o ++ (0 : BitVec 1) ++ BitVec.ofBool s ++ (4 : BitVec 4) := (Option.some.inj h).symm
  have f26_6 : fld x 26 6 = (33 : BitVec 6) := hx ▸ fld_high 28 4 rfl <| fld_high 27 1 rfl <| fld_high 26 1 rfl <| fld_high 25 1 rfl <| fld_high 21 4 rfl <| fld_high 16 5 rfl <| fld_high 11 5 rfl <| fld_high 6 5 rfl <| rfl
  have f0_4 : fld x 0 4 = (4 : BitVec 4) := hx ▸ fld_low 28 4 rfl <| rfl
  have f21_5 : fld x 21 5 = (0 : BitVec 5) := hx ▸ fld_high 28 4 rfl <| fld_high 27 1 rfl <| fld_high 26 1 rfl <| fld_high 25 1 rfl <| fld_high 21 4 rfl <| fld_high 16 5 rfl <| fld_high 11 5 rfl <| fld_low 6 5 rfl <| rfl
  have f7_4 : fld x 7 4 = (0 : BitVec 4) := hx ▸ fld_high 28 4 rfl <| fld_high 27 1 rfl <| fld_high 26 1 rfl <| fld_high 25 1 rfl <| fld_low 21 4 rfl <| rfl
  have f5_1 : fld x 5 1 = (0 : BitVec 1) := hx ▸ fld_high 28 4 rfl <| fld_high 27 1 rfl <| fld_low 26 1 rfl <| rfl
  have f16_5 : fld x 16 5 = (BitVec.ofFin (w := 5) a) := hx ▸ fld_high 28 4 rfl <| fld_high 27 1 rfl <| fld_high 26 1 rfl <| fld_high 25 1 rfl <| fld_high 21 4 rfl <| fld_high 16 5 rfl <| fld_low 11 5 rfl <| fld_whole _
  have f11_5 : fld x 11 5 = (BitVec.ofFin (w := 5) b) := hx ▸ fld_high 28 4 rfl <| fld_high 27 1 rfl <| fld_high 26 1 rfl <| fld_high 25 1 rfl <| fld_high 21 4 rfl <| fld_low 16 5 rfl <| fld_whole _
  have f6_1 : fld x 6 1 = (BitVec.ofBool o) := hx ▸ fld_high 28 4 rfl <| fld_high 27 1 rfl <| fld_high 26 1 rfl <| fld_low 25 1 rfl <| fld_whole _
  have f4_1 : fld x 4 1 = (BitVec.ofBool s) := hx ▸ fld_high 28 4 rfl <| fld_low 27 1 rfl <| fld_whole _
  rw [decode, f26_6]
  show decodeMajor21 x = _
  rw [decodeMajor21, f0_4]
  show mbz (fld x 21 5 == 0 && fld x 7 4 == 0 && fld x 5 1 == 0) (accept (.redMin (fld x 16 5).toFin (fld x 11 5).toFin (fld x 6 1 == 1) (fld x 4 1 == 1))) = _
  rw [f21_5, f7_4, f5_1, f16_5, f11_5, f6_1, f4_1, ofBool_isOne o, ofBool_isOne s]
  exact accept_wellFormed wf
theorem Laws.Encoding.redMax (a : GReg) (b : GReg) (o : Bool) (s : Bool) : Laws.Encoding.Statement (.redMax a b o s) := by
  intro x wf h
  have hx : x = (33 : BitVec 6) ++ (0 : BitVec 5) ++ BitVec.ofFin (w := 5) a ++ BitVec.ofFin (w := 5) b ++ (0 : BitVec 4) ++ BitVec.ofBool o ++ (0 : BitVec 1) ++ BitVec.ofBool s ++ (5 : BitVec 4) := (Option.some.inj h).symm
  have f26_6 : fld x 26 6 = (33 : BitVec 6) := hx ▸ fld_high 28 4 rfl <| fld_high 27 1 rfl <| fld_high 26 1 rfl <| fld_high 25 1 rfl <| fld_high 21 4 rfl <| fld_high 16 5 rfl <| fld_high 11 5 rfl <| fld_high 6 5 rfl <| rfl
  have f0_4 : fld x 0 4 = (5 : BitVec 4) := hx ▸ fld_low 28 4 rfl <| rfl
  have f21_5 : fld x 21 5 = (0 : BitVec 5) := hx ▸ fld_high 28 4 rfl <| fld_high 27 1 rfl <| fld_high 26 1 rfl <| fld_high 25 1 rfl <| fld_high 21 4 rfl <| fld_high 16 5 rfl <| fld_high 11 5 rfl <| fld_low 6 5 rfl <| rfl
  have f7_4 : fld x 7 4 = (0 : BitVec 4) := hx ▸ fld_high 28 4 rfl <| fld_high 27 1 rfl <| fld_high 26 1 rfl <| fld_high 25 1 rfl <| fld_low 21 4 rfl <| rfl
  have f5_1 : fld x 5 1 = (0 : BitVec 1) := hx ▸ fld_high 28 4 rfl <| fld_high 27 1 rfl <| fld_low 26 1 rfl <| rfl
  have f16_5 : fld x 16 5 = (BitVec.ofFin (w := 5) a) := hx ▸ fld_high 28 4 rfl <| fld_high 27 1 rfl <| fld_high 26 1 rfl <| fld_high 25 1 rfl <| fld_high 21 4 rfl <| fld_high 16 5 rfl <| fld_low 11 5 rfl <| fld_whole _
  have f11_5 : fld x 11 5 = (BitVec.ofFin (w := 5) b) := hx ▸ fld_high 28 4 rfl <| fld_high 27 1 rfl <| fld_high 26 1 rfl <| fld_high 25 1 rfl <| fld_high 21 4 rfl <| fld_low 16 5 rfl <| fld_whole _
  have f6_1 : fld x 6 1 = (BitVec.ofBool o) := hx ▸ fld_high 28 4 rfl <| fld_high 27 1 rfl <| fld_high 26 1 rfl <| fld_low 25 1 rfl <| fld_whole _
  have f4_1 : fld x 4 1 = (BitVec.ofBool s) := hx ▸ fld_high 28 4 rfl <| fld_low 27 1 rfl <| fld_whole _
  rw [decode, f26_6]
  show decodeMajor21 x = _
  rw [decodeMajor21, f0_4]
  show mbz (fld x 21 5 == 0 && fld x 7 4 == 0 && fld x 5 1 == 0) (accept (.redMax (fld x 16 5).toFin (fld x 11 5).toFin (fld x 6 1 == 1) (fld x 4 1 == 1))) = _
  rw [f21_5, f7_4, f5_1, f16_5, f11_5, f6_1, f4_1, ofBool_isOne o, ofBool_isOne s]
  exact accept_wellFormed wf
theorem Laws.Encoding.redMinu (a : GReg) (b : GReg) (o : Bool) (s : Bool) : Laws.Encoding.Statement (.redMinu a b o s) := by
  intro x wf h
  have hx : x = (33 : BitVec 6) ++ (0 : BitVec 5) ++ BitVec.ofFin (w := 5) a ++ BitVec.ofFin (w := 5) b ++ (0 : BitVec 4) ++ BitVec.ofBool o ++ (0 : BitVec 1) ++ BitVec.ofBool s ++ (6 : BitVec 4) := (Option.some.inj h).symm
  have f26_6 : fld x 26 6 = (33 : BitVec 6) := hx ▸ fld_high 28 4 rfl <| fld_high 27 1 rfl <| fld_high 26 1 rfl <| fld_high 25 1 rfl <| fld_high 21 4 rfl <| fld_high 16 5 rfl <| fld_high 11 5 rfl <| fld_high 6 5 rfl <| rfl
  have f0_4 : fld x 0 4 = (6 : BitVec 4) := hx ▸ fld_low 28 4 rfl <| rfl
  have f21_5 : fld x 21 5 = (0 : BitVec 5) := hx ▸ fld_high 28 4 rfl <| fld_high 27 1 rfl <| fld_high 26 1 rfl <| fld_high 25 1 rfl <| fld_high 21 4 rfl <| fld_high 16 5 rfl <| fld_high 11 5 rfl <| fld_low 6 5 rfl <| rfl
  have f7_4 : fld x 7 4 = (0 : BitVec 4) := hx ▸ fld_high 28 4 rfl <| fld_high 27 1 rfl <| fld_high 26 1 rfl <| fld_high 25 1 rfl <| fld_low 21 4 rfl <| rfl
  have f5_1 : fld x 5 1 = (0 : BitVec 1) := hx ▸ fld_high 28 4 rfl <| fld_high 27 1 rfl <| fld_low 26 1 rfl <| rfl
  have f16_5 : fld x 16 5 = (BitVec.ofFin (w := 5) a) := hx ▸ fld_high 28 4 rfl <| fld_high 27 1 rfl <| fld_high 26 1 rfl <| fld_high 25 1 rfl <| fld_high 21 4 rfl <| fld_high 16 5 rfl <| fld_low 11 5 rfl <| fld_whole _
  have f11_5 : fld x 11 5 = (BitVec.ofFin (w := 5) b) := hx ▸ fld_high 28 4 rfl <| fld_high 27 1 rfl <| fld_high 26 1 rfl <| fld_high 25 1 rfl <| fld_high 21 4 rfl <| fld_low 16 5 rfl <| fld_whole _
  have f6_1 : fld x 6 1 = (BitVec.ofBool o) := hx ▸ fld_high 28 4 rfl <| fld_high 27 1 rfl <| fld_high 26 1 rfl <| fld_low 25 1 rfl <| fld_whole _
  have f4_1 : fld x 4 1 = (BitVec.ofBool s) := hx ▸ fld_high 28 4 rfl <| fld_low 27 1 rfl <| fld_whole _
  rw [decode, f26_6]
  show decodeMajor21 x = _
  rw [decodeMajor21, f0_4]
  show mbz (fld x 21 5 == 0 && fld x 7 4 == 0 && fld x 5 1 == 0) (accept (.redMinu (fld x 16 5).toFin (fld x 11 5).toFin (fld x 6 1 == 1) (fld x 4 1 == 1))) = _
  rw [f21_5, f7_4, f5_1, f16_5, f11_5, f6_1, f4_1, ofBool_isOne o, ofBool_isOne s]
  exact accept_wellFormed wf
theorem Laws.Encoding.redMaxu (a : GReg) (b : GReg) (o : Bool) (s : Bool) : Laws.Encoding.Statement (.redMaxu a b o s) := by
  intro x wf h
  have hx : x = (33 : BitVec 6) ++ (0 : BitVec 5) ++ BitVec.ofFin (w := 5) a ++ BitVec.ofFin (w := 5) b ++ (0 : BitVec 4) ++ BitVec.ofBool o ++ (0 : BitVec 1) ++ BitVec.ofBool s ++ (7 : BitVec 4) := (Option.some.inj h).symm
  have f26_6 : fld x 26 6 = (33 : BitVec 6) := hx ▸ fld_high 28 4 rfl <| fld_high 27 1 rfl <| fld_high 26 1 rfl <| fld_high 25 1 rfl <| fld_high 21 4 rfl <| fld_high 16 5 rfl <| fld_high 11 5 rfl <| fld_high 6 5 rfl <| rfl
  have f0_4 : fld x 0 4 = (7 : BitVec 4) := hx ▸ fld_low 28 4 rfl <| rfl
  have f21_5 : fld x 21 5 = (0 : BitVec 5) := hx ▸ fld_high 28 4 rfl <| fld_high 27 1 rfl <| fld_high 26 1 rfl <| fld_high 25 1 rfl <| fld_high 21 4 rfl <| fld_high 16 5 rfl <| fld_high 11 5 rfl <| fld_low 6 5 rfl <| rfl
  have f7_4 : fld x 7 4 = (0 : BitVec 4) := hx ▸ fld_high 28 4 rfl <| fld_high 27 1 rfl <| fld_high 26 1 rfl <| fld_high 25 1 rfl <| fld_low 21 4 rfl <| rfl
  have f5_1 : fld x 5 1 = (0 : BitVec 1) := hx ▸ fld_high 28 4 rfl <| fld_high 27 1 rfl <| fld_low 26 1 rfl <| rfl
  have f16_5 : fld x 16 5 = (BitVec.ofFin (w := 5) a) := hx ▸ fld_high 28 4 rfl <| fld_high 27 1 rfl <| fld_high 26 1 rfl <| fld_high 25 1 rfl <| fld_high 21 4 rfl <| fld_high 16 5 rfl <| fld_low 11 5 rfl <| fld_whole _
  have f11_5 : fld x 11 5 = (BitVec.ofFin (w := 5) b) := hx ▸ fld_high 28 4 rfl <| fld_high 27 1 rfl <| fld_high 26 1 rfl <| fld_high 25 1 rfl <| fld_high 21 4 rfl <| fld_low 16 5 rfl <| fld_whole _
  have f6_1 : fld x 6 1 = (BitVec.ofBool o) := hx ▸ fld_high 28 4 rfl <| fld_high 27 1 rfl <| fld_high 26 1 rfl <| fld_low 25 1 rfl <| fld_whole _
  have f4_1 : fld x 4 1 = (BitVec.ofBool s) := hx ▸ fld_high 28 4 rfl <| fld_low 27 1 rfl <| fld_whole _
  rw [decode, f26_6]
  show decodeMajor21 x = _
  rw [decodeMajor21, f0_4]
  show mbz (fld x 21 5 == 0 && fld x 7 4 == 0 && fld x 5 1 == 0) (accept (.redMaxu (fld x 16 5).toFin (fld x 11 5).toFin (fld x 6 1 == 1) (fld x 4 1 == 1))) = _
  rw [f21_5, f7_4, f5_1, f16_5, f11_5, f6_1, f4_1, ofBool_isOne o, ofBool_isOne s]
  exact accept_wellFormed wf
theorem Laws.Encoding.redFadd (a : GReg) (b : GReg) (o : Bool) (s : Bool) : Laws.Encoding.Statement (.redFadd a b o s) := by
  intro x wf h
  have hx : x = (33 : BitVec 6) ++ (0 : BitVec 5) ++ BitVec.ofFin (w := 5) a ++ BitVec.ofFin (w := 5) b ++ (0 : BitVec 4) ++ BitVec.ofBool o ++ (0 : BitVec 1) ++ BitVec.ofBool s ++ (8 : BitVec 4) := (Option.some.inj h).symm
  have f26_6 : fld x 26 6 = (33 : BitVec 6) := hx ▸ fld_high 28 4 rfl <| fld_high 27 1 rfl <| fld_high 26 1 rfl <| fld_high 25 1 rfl <| fld_high 21 4 rfl <| fld_high 16 5 rfl <| fld_high 11 5 rfl <| fld_high 6 5 rfl <| rfl
  have f0_4 : fld x 0 4 = (8 : BitVec 4) := hx ▸ fld_low 28 4 rfl <| rfl
  have f21_5 : fld x 21 5 = (0 : BitVec 5) := hx ▸ fld_high 28 4 rfl <| fld_high 27 1 rfl <| fld_high 26 1 rfl <| fld_high 25 1 rfl <| fld_high 21 4 rfl <| fld_high 16 5 rfl <| fld_high 11 5 rfl <| fld_low 6 5 rfl <| rfl
  have f7_4 : fld x 7 4 = (0 : BitVec 4) := hx ▸ fld_high 28 4 rfl <| fld_high 27 1 rfl <| fld_high 26 1 rfl <| fld_high 25 1 rfl <| fld_low 21 4 rfl <| rfl
  have f5_1 : fld x 5 1 = (0 : BitVec 1) := hx ▸ fld_high 28 4 rfl <| fld_high 27 1 rfl <| fld_low 26 1 rfl <| rfl
  have f16_5 : fld x 16 5 = (BitVec.ofFin (w := 5) a) := hx ▸ fld_high 28 4 rfl <| fld_high 27 1 rfl <| fld_high 26 1 rfl <| fld_high 25 1 rfl <| fld_high 21 4 rfl <| fld_high 16 5 rfl <| fld_low 11 5 rfl <| fld_whole _
  have f11_5 : fld x 11 5 = (BitVec.ofFin (w := 5) b) := hx ▸ fld_high 28 4 rfl <| fld_high 27 1 rfl <| fld_high 26 1 rfl <| fld_high 25 1 rfl <| fld_high 21 4 rfl <| fld_low 16 5 rfl <| fld_whole _
  have f6_1 : fld x 6 1 = (BitVec.ofBool o) := hx ▸ fld_high 28 4 rfl <| fld_high 27 1 rfl <| fld_high 26 1 rfl <| fld_low 25 1 rfl <| fld_whole _
  have f4_1 : fld x 4 1 = (BitVec.ofBool s) := hx ▸ fld_high 28 4 rfl <| fld_low 27 1 rfl <| fld_whole _
  rw [decode, f26_6]
  show decodeMajor21 x = _
  rw [decodeMajor21, f0_4]
  show mbz (fld x 21 5 == 0 && fld x 7 4 == 0 && fld x 5 1 == 0) (accept (.redFadd (fld x 16 5).toFin (fld x 11 5).toFin (fld x 6 1 == 1) (fld x 4 1 == 1))) = _
  rw [f21_5, f7_4, f5_1, f16_5, f11_5, f6_1, f4_1, ofBool_isOne o, ofBool_isOne s]
  exact accept_wellFormed wf
theorem Laws.Encoding.redFmin (a : GReg) (b : GReg) (o : Bool) (s : Bool) : Laws.Encoding.Statement (.redFmin a b o s) := by
  intro x wf h
  have hx : x = (33 : BitVec 6) ++ (0 : BitVec 5) ++ BitVec.ofFin (w := 5) a ++ BitVec.ofFin (w := 5) b ++ (0 : BitVec 4) ++ BitVec.ofBool o ++ (0 : BitVec 1) ++ BitVec.ofBool s ++ (9 : BitVec 4) := (Option.some.inj h).symm
  have f26_6 : fld x 26 6 = (33 : BitVec 6) := hx ▸ fld_high 28 4 rfl <| fld_high 27 1 rfl <| fld_high 26 1 rfl <| fld_high 25 1 rfl <| fld_high 21 4 rfl <| fld_high 16 5 rfl <| fld_high 11 5 rfl <| fld_high 6 5 rfl <| rfl
  have f0_4 : fld x 0 4 = (9 : BitVec 4) := hx ▸ fld_low 28 4 rfl <| rfl
  have f21_5 : fld x 21 5 = (0 : BitVec 5) := hx ▸ fld_high 28 4 rfl <| fld_high 27 1 rfl <| fld_high 26 1 rfl <| fld_high 25 1 rfl <| fld_high 21 4 rfl <| fld_high 16 5 rfl <| fld_high 11 5 rfl <| fld_low 6 5 rfl <| rfl
  have f7_4 : fld x 7 4 = (0 : BitVec 4) := hx ▸ fld_high 28 4 rfl <| fld_high 27 1 rfl <| fld_high 26 1 rfl <| fld_high 25 1 rfl <| fld_low 21 4 rfl <| rfl
  have f5_1 : fld x 5 1 = (0 : BitVec 1) := hx ▸ fld_high 28 4 rfl <| fld_high 27 1 rfl <| fld_low 26 1 rfl <| rfl
  have f16_5 : fld x 16 5 = (BitVec.ofFin (w := 5) a) := hx ▸ fld_high 28 4 rfl <| fld_high 27 1 rfl <| fld_high 26 1 rfl <| fld_high 25 1 rfl <| fld_high 21 4 rfl <| fld_high 16 5 rfl <| fld_low 11 5 rfl <| fld_whole _
  have f11_5 : fld x 11 5 = (BitVec.ofFin (w := 5) b) := hx ▸ fld_high 28 4 rfl <| fld_high 27 1 rfl <| fld_high 26 1 rfl <| fld_high 25 1 rfl <| fld_high 21 4 rfl <| fld_low 16 5 rfl <| fld_whole _
  have f6_1 : fld x 6 1 = (BitVec.ofBool o) := hx ▸ fld_high 28 4 rfl <| fld_high 27 1 rfl <| fld_high 26 1 rfl <| fld_low 25 1 rfl <| fld_whole _
  have f4_1 : fld x 4 1 = (BitVec.ofBool s) := hx ▸ fld_high 28 4 rfl <| fld_low 27 1 rfl <| fld_whole _
  rw [decode, f26_6]
  show decodeMajor21 x = _
  rw [decodeMajor21, f0_4]
  show mbz (fld x 21 5 == 0 && fld x 7 4 == 0 && fld x 5 1 == 0) (accept (.redFmin (fld x 16 5).toFin (fld x 11 5).toFin (fld x 6 1 == 1) (fld x 4 1 == 1))) = _
  rw [f21_5, f7_4, f5_1, f16_5, f11_5, f6_1, f4_1, ofBool_isOne o, ofBool_isOne s]
  exact accept_wellFormed wf
theorem Laws.Encoding.redFmax (a : GReg) (b : GReg) (o : Bool) (s : Bool) : Laws.Encoding.Statement (.redFmax a b o s) := by
  intro x wf h
  have hx : x = (33 : BitVec 6) ++ (0 : BitVec 5) ++ BitVec.ofFin (w := 5) a ++ BitVec.ofFin (w := 5) b ++ (0 : BitVec 4) ++ BitVec.ofBool o ++ (0 : BitVec 1) ++ BitVec.ofBool s ++ (10 : BitVec 4) := (Option.some.inj h).symm
  have f26_6 : fld x 26 6 = (33 : BitVec 6) := hx ▸ fld_high 28 4 rfl <| fld_high 27 1 rfl <| fld_high 26 1 rfl <| fld_high 25 1 rfl <| fld_high 21 4 rfl <| fld_high 16 5 rfl <| fld_high 11 5 rfl <| fld_high 6 5 rfl <| rfl
  have f0_4 : fld x 0 4 = (10 : BitVec 4) := hx ▸ fld_low 28 4 rfl <| rfl
  have f21_5 : fld x 21 5 = (0 : BitVec 5) := hx ▸ fld_high 28 4 rfl <| fld_high 27 1 rfl <| fld_high 26 1 rfl <| fld_high 25 1 rfl <| fld_high 21 4 rfl <| fld_high 16 5 rfl <| fld_high 11 5 rfl <| fld_low 6 5 rfl <| rfl
  have f7_4 : fld x 7 4 = (0 : BitVec 4) := hx ▸ fld_high 28 4 rfl <| fld_high 27 1 rfl <| fld_high 26 1 rfl <| fld_high 25 1 rfl <| fld_low 21 4 rfl <| rfl
  have f5_1 : fld x 5 1 = (0 : BitVec 1) := hx ▸ fld_high 28 4 rfl <| fld_high 27 1 rfl <| fld_low 26 1 rfl <| rfl
  have f16_5 : fld x 16 5 = (BitVec.ofFin (w := 5) a) := hx ▸ fld_high 28 4 rfl <| fld_high 27 1 rfl <| fld_high 26 1 rfl <| fld_high 25 1 rfl <| fld_high 21 4 rfl <| fld_high 16 5 rfl <| fld_low 11 5 rfl <| fld_whole _
  have f11_5 : fld x 11 5 = (BitVec.ofFin (w := 5) b) := hx ▸ fld_high 28 4 rfl <| fld_high 27 1 rfl <| fld_high 26 1 rfl <| fld_high 25 1 rfl <| fld_high 21 4 rfl <| fld_low 16 5 rfl <| fld_whole _
  have f6_1 : fld x 6 1 = (BitVec.ofBool o) := hx ▸ fld_high 28 4 rfl <| fld_high 27 1 rfl <| fld_high 26 1 rfl <| fld_low 25 1 rfl <| fld_whole _
  have f4_1 : fld x 4 1 = (BitVec.ofBool s) := hx ▸ fld_high 28 4 rfl <| fld_low 27 1 rfl <| fld_whole _
  rw [decode, f26_6]
  show decodeMajor21 x = _
  rw [decodeMajor21, f0_4]
  show mbz (fld x 21 5 == 0 && fld x 7 4 == 0 && fld x 5 1 == 0) (accept (.redFmax (fld x 16 5).toFin (fld x 11 5).toFin (fld x 6 1 == 1) (fld x 4 1 == 1))) = _
  rw [f21_5, f7_4, f5_1, f16_5, f11_5, f6_1, f4_1, ofBool_isOne o, ofBool_isOne s]
  exact accept_wellFormed wf
theorem Laws.Encoding.watch (w : WReg) (a : GReg) (m : BitVec 4) : Laws.Encoding.Statement (.watch w a m) := by
  intro x wf h
  have hx : x = (36 : BitVec 6) ++ (0 : BitVec 3) ++ BitVec.ofFin (w := 2) w ++ BitVec.ofFin (w := 5) a ++ (0 : BitVec 9) ++ m ++ (0 : BitVec 3) := (Option.some.inj h).symm
  have f26_6 : fld x 26 6 = (36 : BitVec 6) := hx ▸ fld_high 29 3 rfl <| fld_high 25 4 rfl <| fld_high 16 9 rfl <| fld_high 11 5 rfl <| fld_high 9 2 rfl <| fld_high 6 3 rfl <| rfl
  have f0_3 : fld x 0 3 = (0 : BitVec 3) := hx ▸ fld_low 29 3 rfl <| rfl
  have f23_3 : fld x 23 3 = (0 : BitVec 3) := hx ▸ fld_high 29 3 rfl <| fld_high 25 4 rfl <| fld_high 16 9 rfl <| fld_high 11 5 rfl <| fld_high 9 2 rfl <| fld_low 6 3 rfl <| rfl
  have f7_9 : fld x 7 9 = (0 : BitVec 9) := hx ▸ fld_high 29 3 rfl <| fld_high 25 4 rfl <| fld_low 16 9 rfl <| rfl
  have f21_2 : fld x 21 2 = (BitVec.ofFin (w := 2) w) := hx ▸ fld_high 29 3 rfl <| fld_high 25 4 rfl <| fld_high 16 9 rfl <| fld_high 11 5 rfl <| fld_low 9 2 rfl <| fld_whole _
  have f16_5 : fld x 16 5 = (BitVec.ofFin (w := 5) a) := hx ▸ fld_high 29 3 rfl <| fld_high 25 4 rfl <| fld_high 16 9 rfl <| fld_low 11 5 rfl <| fld_whole _
  have f3_4 : fld x 3 4 = m := hx ▸ fld_high 29 3 rfl <| fld_low 25 4 rfl <| fld_whole _
  rw [decode, f26_6]
  show decodeMajor24 x = _
  rw [decodeMajor24, f0_3]
  show mbz (fld x 23 3 == 0 && fld x 7 9 == 0) (accept (.watch (fld x 21 2).toFin (fld x 16 5).toFin (fld x 3 4))) = _
  rw [f23_3, f7_9, f21_2, f16_5, f3_4]
  exact accept_wellFormed wf
theorem Laws.Encoding.unwatch (w : WReg) : Laws.Encoding.Statement (.unwatch w) := by
  intro x wf h
  have hx : x = (36 : BitVec 6) ++ (0 : BitVec 3) ++ BitVec.ofFin (w := 2) w ++ (1 : BitVec 21) := (Option.some.inj h).symm
  have f26_6 : fld x 26 6 = (36 : BitVec 6) := hx ▸ fld_high 11 21 rfl <| fld_high 9 2 rfl <| fld_high 6 3 rfl <| rfl
  have f0_3 : fld x 0 3 = (1 : BitVec 3) := hx ▸ fld_low 11 21 rfl <| rfl
  have f23_3 : fld x 23 3 = (0 : BitVec 3) := hx ▸ fld_high 11 21 rfl <| fld_high 9 2 rfl <| fld_low 6 3 rfl <| rfl
  have f3_18 : fld x 3 18 = (0 : BitVec 18) := hx ▸ fld_low 11 21 rfl <| rfl
  have f21_2 : fld x 21 2 = (BitVec.ofFin (w := 2) w) := hx ▸ fld_high 11 21 rfl <| fld_low 9 2 rfl <| fld_whole _
  rw [decode, f26_6]
  show decodeMajor24 x = _
  rw [decodeMajor24, f0_3]
  show mbz (fld x 23 3 == 0 && fld x 3 18 == 0) (accept (.unwatch (fld x 21 2).toFin)) = _
  rw [f23_3, f3_18, f21_2]
  exact accept_wellFormed wf
theorem Laws.Encoding.sleep (a : GReg) : Laws.Encoding.Statement (.sleep a) := by
  intro x wf h
  have hx : x = (36 : BitVec 6) ++ (0 : BitVec 5) ++ BitVec.ofFin (w := 5) a ++ (2 : BitVec 16) := (Option.some.inj h).symm
  have f26_6 : fld x 26 6 = (36 : BitVec 6) := hx ▸ fld_high 16 16 rfl <| fld_high 11 5 rfl <| fld_high 6 5 rfl <| rfl
  have f0_3 : fld x 0 3 = (2 : BitVec 3) := hx ▸ fld_low 16 16 rfl <| rfl
  have f21_5 : fld x 21 5 = (0 : BitVec 5) := hx ▸ fld_high 16 16 rfl <| fld_high 11 5 rfl <| fld_low 6 5 rfl <| rfl
  have f3_13 : fld x 3 13 = (0 : BitVec 13) := hx ▸ fld_low 16 16 rfl <| rfl
  have f16_5 : fld x 16 5 = (BitVec.ofFin (w := 5) a) := hx ▸ fld_high 16 16 rfl <| fld_low 11 5 rfl <| fld_whole _
  rw [decode, f26_6]
  show decodeMajor24 x = _
  rw [decodeMajor24, f0_3]
  show mbz (fld x 21 5 == 0 && fld x 3 13 == 0) (accept (.sleep (fld x 16 5).toFin)) = _
  rw [f21_5, f3_13, f16_5]
  exact accept_wellFormed wf
theorem Laws.Encoding.wfired (d : GReg) : Laws.Encoding.Statement (.wfired d) := by
  intro x wf h
  have hx : x = (36 : BitVec 6) ++ BitVec.ofFin (w := 5) d ++ (3 : BitVec 21) := (Option.some.inj h).symm
  have f26_6 : fld x 26 6 = (36 : BitVec 6) := hx ▸ fld_high 11 21 rfl <| fld_high 6 5 rfl <| rfl
  have f0_3 : fld x 0 3 = (3 : BitVec 3) := hx ▸ fld_low 11 21 rfl <| rfl
  have f3_18 : fld x 3 18 = (0 : BitVec 18) := hx ▸ fld_low 11 21 rfl <| rfl
  have f21_5 : fld x 21 5 = (BitVec.ofFin (w := 5) d) := hx ▸ fld_high 11 21 rfl <| fld_low 6 5 rfl <| fld_whole _
  rw [decode, f26_6]
  show decodeMajor24 x = _
  rw [decodeMajor24, f0_3]
  show mbz (fld x 3 18 == 0) (accept (.wfired (fld x 21 5).toFin)) = _
  rw [f3_18, f21_5]
  exact accept_wellFormed wf
theorem Laws.Encoding.tmarm (a : GReg) (b : GReg) : Laws.Encoding.Statement (.tmarm a b) := by
  intro x wf h
  have hx : x = (36 : BitVec 6) ++ (0 : BitVec 5) ++ BitVec.ofFin (w := 5) a ++ BitVec.ofFin (w := 5) b ++ (4 : BitVec 11) := (Option.some.inj h).symm
  have f26_6 : fld x 26 6 = (36 : BitVec 6) := hx ▸ fld_high 21 11 rfl <| fld_high 16 5 rfl <| fld_high 11 5 rfl <| fld_high 6 5 rfl <| rfl
  have f0_3 : fld x 0 3 = (4 : BitVec 3) := hx ▸ fld_low 21 11 rfl <| rfl
  have f21_5 : fld x 21 5 = (0 : BitVec 5) := hx ▸ fld_high 21 11 rfl <| fld_high 16 5 rfl <| fld_high 11 5 rfl <| fld_low 6 5 rfl <| rfl
  have f3_8 : fld x 3 8 = (0 : BitVec 8) := hx ▸ fld_low 21 11 rfl <| rfl
  have f16_5 : fld x 16 5 = (BitVec.ofFin (w := 5) a) := hx ▸ fld_high 21 11 rfl <| fld_high 16 5 rfl <| fld_low 11 5 rfl <| fld_whole _
  have f11_5 : fld x 11 5 = (BitVec.ofFin (w := 5) b) := hx ▸ fld_high 21 11 rfl <| fld_low 16 5 rfl <| fld_whole _
  rw [decode, f26_6]
  show decodeMajor24 x = _
  rw [decodeMajor24, f0_3]
  show mbz (fld x 21 5 == 0 && fld x 3 8 == 0) (accept (.tmarm (fld x 16 5).toFin (fld x 11 5).toFin)) = _
  rw [f21_5, f3_8, f16_5, f11_5]
  exact accept_wellFormed wf
theorem Laws.Encoding.tbinit (a : GReg) (b : GReg) : Laws.Encoding.Statement (.tbinit a b) := by
  intro x wf h
  have hx : x = (37 : BitVec 6) ++ BitVec.ofFin (w := 5) a ++ BitVec.ofFin (w := 5) b ++ (0 : BitVec 16) := (Option.some.inj h).symm
  have f26_6 : fld x 26 6 = (37 : BitVec 6) := hx ▸ fld_high 16 16 rfl <| fld_high 11 5 rfl <| fld_high 6 5 rfl <| rfl
  have f0_2 : fld x 0 2 = (0 : BitVec 2) := hx ▸ fld_low 16 16 rfl <| rfl
  have f2_14 : fld x 2 14 = (0 : BitVec 14) := hx ▸ fld_low 16 16 rfl <| rfl
  have f21_5 : fld x 21 5 = (BitVec.ofFin (w := 5) a) := hx ▸ fld_high 16 16 rfl <| fld_high 11 5 rfl <| fld_low 6 5 rfl <| fld_whole _
  have f16_5 : fld x 16 5 = (BitVec.ofFin (w := 5) b) := hx ▸ fld_high 16 16 rfl <| fld_low 11 5 rfl <| fld_whole _
  rw [decode, f26_6]
  show decodeMajor25 x = _
  rw [decodeMajor25, f0_2]
  show mbz (fld x 2 14 == 0) (accept (.tbinit (fld x 21 5).toFin (fld x 16 5).toFin)) = _
  rw [f2_14, f21_5, f16_5]
  exact accept_wellFormed wf
theorem Laws.Encoding.tbexpect (a : GReg) (b : GReg) : Laws.Encoding.Statement (.tbexpect a b) := by
  intro x wf h
  have hx : x = (37 : BitVec 6) ++ BitVec.ofFin (w := 5) a ++ BitVec.ofFin (w := 5) b ++ (1 : BitVec 16) := (Option.some.inj h).symm
  have f26_6 : fld x 26 6 = (37 : BitVec 6) := hx ▸ fld_high 16 16 rfl <| fld_high 11 5 rfl <| fld_high 6 5 rfl <| rfl
  have f0_2 : fld x 0 2 = (1 : BitVec 2) := hx ▸ fld_low 16 16 rfl <| rfl
  have f2_14 : fld x 2 14 = (0 : BitVec 14) := hx ▸ fld_low 16 16 rfl <| rfl
  have f21_5 : fld x 21 5 = (BitVec.ofFin (w := 5) a) := hx ▸ fld_high 16 16 rfl <| fld_high 11 5 rfl <| fld_low 6 5 rfl <| fld_whole _
  have f16_5 : fld x 16 5 = (BitVec.ofFin (w := 5) b) := hx ▸ fld_high 16 16 rfl <| fld_low 11 5 rfl <| fld_whole _
  rw [decode, f26_6]
  show decodeMajor25 x = _
  rw [decodeMajor25, f0_2]
  show mbz (fld x 2 14 == 0) (accept (.tbexpect (fld x 21 5).toFin (fld x 16 5).toFin)) = _
  rw [f2_14, f21_5, f16_5]
  exact accept_wellFormed wf
theorem Laws.Encoding.tbarrive (a : GReg) : Laws.Encoding.Statement (.tbarrive a) := by
  intro x wf h
  have hx : x = (37 : BitVec 6) ++ BitVec.ofFin (w := 5) a ++ (2 : BitVec 21) := (Option.some.inj h).symm
  have f26_6 : fld x 26 6 = (37 : BitVec 6) := hx ▸ fld_high 11 21 rfl <| fld_high 6 5 rfl <| rfl
  have f0_2 : fld x 0 2 = (2 : BitVec 2) := hx ▸ fld_low 11 21 rfl <| rfl
  have f2_19 : fld x 2 19 = (0 : BitVec 19) := hx ▸ fld_low 11 21 rfl <| rfl
  have f21_5 : fld x 21 5 = (BitVec.ofFin (w := 5) a) := hx ▸ fld_high 11 21 rfl <| fld_low 6 5 rfl <| fld_whole _
  rw [decode, f26_6]
  show decodeMajor25 x = _
  rw [decodeMajor25, f0_2]
  show mbz (fld x 2 19 == 0) (accept (.tbarrive (fld x 21 5).toFin)) = _
  rw [f2_19, f21_5]
  exact accept_wellFormed wf
theorem Laws.Encoding.tbwait (a : GReg) (p : BitVec 4) : Laws.Encoding.Statement (.tbwait a p) := by
  intro x wf h
  have hx : x = (37 : BitVec 6) ++ BitVec.ofFin (w := 5) a ++ (0 : BitVec 15) ++ p ++ (3 : BitVec 2) := (Option.some.inj h).symm
  have f26_6 : fld x 26 6 = (37 : BitVec 6) := hx ▸ fld_high 30 2 rfl <| fld_high 26 4 rfl <| fld_high 11 15 rfl <| fld_high 6 5 rfl <| rfl
  have f0_2 : fld x 0 2 = (3 : BitVec 2) := hx ▸ fld_low 30 2 rfl <| rfl
  have f6_15 : fld x 6 15 = (0 : BitVec 15) := hx ▸ fld_high 30 2 rfl <| fld_high 26 4 rfl <| fld_low 11 15 rfl <| rfl
  have f21_5 : fld x 21 5 = (BitVec.ofFin (w := 5) a) := hx ▸ fld_high 30 2 rfl <| fld_high 26 4 rfl <| fld_high 11 15 rfl <| fld_low 6 5 rfl <| fld_whole _
  have f2_4 : fld x 2 4 = p := hx ▸ fld_high 30 2 rfl <| fld_low 26 4 rfl <| fld_whole _
  rw [decode, f26_6]
  show decodeMajor25 x = _
  rw [decodeMajor25, f0_2]
  show mbz (fld x 6 15 == 0) (accept (.tbwait (fld x 21 5).toFin (fld x 2 4))) = _
  rw [f6_15, f21_5, f2_4]
  exact accept_wellFormed wf
theorem Laws.Encoding.mbadd (a : GReg) (b : GReg) : Laws.Encoding.Statement (.mbadd a b) := by
  intro x wf h
  have hx : x = (38 : BitVec 6) ++ BitVec.ofFin (w := 5) a ++ BitVec.ofFin (w := 5) b ++ (0 : BitVec 16) := (Option.some.inj h).symm
  have f26_6 : fld x 26 6 = (38 : BitVec 6) := hx ▸ fld_high 16 16 rfl <| fld_high 11 5 rfl <| fld_high 6 5 rfl <| rfl
  have f0_3 : fld x 0 3 = (0 : BitVec 3) := hx ▸ fld_low 16 16 rfl <| rfl
  have f3_13 : fld x 3 13 = (0 : BitVec 13) := hx ▸ fld_low 16 16 rfl <| rfl
  have f21_5 : fld x 21 5 = (BitVec.ofFin (w := 5) a) := hx ▸ fld_high 16 16 rfl <| fld_high 11 5 rfl <| fld_low 6 5 rfl <| fld_whole _
  have f16_5 : fld x 16 5 = (BitVec.ofFin (w := 5) b) := hx ▸ fld_high 16 16 rfl <| fld_low 11 5 rfl <| fld_whole _
  rw [decode, f26_6]
  show decodeMajor26 x = _
  rw [decodeMajor26, f0_3]
  show mbz (fld x 3 13 == 0) (accept (.mbadd (fld x 21 5).toFin (fld x 16 5).toFin)) = _
  rw [f3_13, f21_5, f16_5]
  exact accept_wellFormed wf
theorem Laws.Encoding.mbrd (a : GReg) (c : GReg) : Laws.Encoding.Statement (.mbrd a c) := by
  intro x wf h
  have hx : x = (38 : BitVec 6) ++ BitVec.ofFin (w := 5) a ++ (0 : BitVec 5) ++ BitVec.ofFin (w := 5) c ++ (1 : BitVec 11) := (Option.some.inj h).symm
  have f26_6 : fld x 26 6 = (38 : BitVec 6) := hx ▸ fld_high 21 11 rfl <| fld_high 16 5 rfl <| fld_high 11 5 rfl <| fld_high 6 5 rfl <| rfl
  have f0_3 : fld x 0 3 = (1 : BitVec 3) := hx ▸ fld_low 21 11 rfl <| rfl
  have f16_5 : fld x 16 5 = (0 : BitVec 5) := hx ▸ fld_high 21 11 rfl <| fld_high 16 5 rfl <| fld_low 11 5 rfl <| rfl
  have f3_8 : fld x 3 8 = (0 : BitVec 8) := hx ▸ fld_low 21 11 rfl <| rfl
  have f21_5 : fld x 21 5 = (BitVec.ofFin (w := 5) a) := hx ▸ fld_high 21 11 rfl <| fld_high 16 5 rfl <| fld_high 11 5 rfl <| fld_low 6 5 rfl <| fld_whole _
  have f11_5 : fld x 11 5 = (BitVec.ofFin (w := 5) c) := hx ▸ fld_high 21 11 rfl <| fld_low 16 5 rfl <| fld_whole _
  rw [decode, f26_6]
  show decodeMajor26 x = _
  rw [decodeMajor26, f0_3]
  show mbz (fld x 16 5 == 0 && fld x 3 8 == 0) (accept (.mbrd (fld x 21 5).toFin (fld x 11 5).toFin)) = _
  rw [f16_5, f3_8, f21_5, f11_5]
  exact accept_wellFormed wf
theorem Laws.Encoding.mbwait (a : GReg) (b : GReg) : Laws.Encoding.Statement (.mbwait a b) := by
  intro x wf h
  have hx : x = (38 : BitVec 6) ++ BitVec.ofFin (w := 5) a ++ BitVec.ofFin (w := 5) b ++ (2 : BitVec 16) := (Option.some.inj h).symm
  have f26_6 : fld x 26 6 = (38 : BitVec 6) := hx ▸ fld_high 16 16 rfl <| fld_high 11 5 rfl <| fld_high 6 5 rfl <| rfl
  have f0_3 : fld x 0 3 = (2 : BitVec 3) := hx ▸ fld_low 16 16 rfl <| rfl
  have f3_13 : fld x 3 13 = (0 : BitVec 13) := hx ▸ fld_low 16 16 rfl <| rfl
  have f21_5 : fld x 21 5 = (BitVec.ofFin (w := 5) a) := hx ▸ fld_high 16 16 rfl <| fld_high 11 5 rfl <| fld_low 6 5 rfl <| fld_whole _
  have f16_5 : fld x 16 5 = (BitVec.ofFin (w := 5) b) := hx ▸ fld_high 16 16 rfl <| fld_low 11 5 rfl <| fld_whole _
  rw [decode, f26_6]
  show decodeMajor26 x = _
  rw [decodeMajor26, f0_3]
  show mbz (fld x 3 13 == 0) (accept (.mbwait (fld x 21 5).toFin (fld x 16 5).toFin)) = _
  rw [f3_13, f21_5, f16_5]
  exact accept_wellFormed wf
theorem Laws.Encoding.tktake (a : GReg) (c : GReg) : Laws.Encoding.Statement (.tktake a c) := by
  intro x wf h
  have hx : x = (38 : BitVec 6) ++ BitVec.ofFin (w := 5) a ++ (0 : BitVec 5) ++ BitVec.ofFin (w := 5) c ++ (3 : BitVec 11) := (Option.some.inj h).symm
  have f26_6 : fld x 26 6 = (38 : BitVec 6) := hx ▸ fld_high 21 11 rfl <| fld_high 16 5 rfl <| fld_high 11 5 rfl <| fld_high 6 5 rfl <| rfl
  have f0_3 : fld x 0 3 = (3 : BitVec 3) := hx ▸ fld_low 21 11 rfl <| rfl
  have f16_5 : fld x 16 5 = (0 : BitVec 5) := hx ▸ fld_high 21 11 rfl <| fld_high 16 5 rfl <| fld_low 11 5 rfl <| rfl
  have f3_8 : fld x 3 8 = (0 : BitVec 8) := hx ▸ fld_low 21 11 rfl <| rfl
  have f21_5 : fld x 21 5 = (BitVec.ofFin (w := 5) a) := hx ▸ fld_high 21 11 rfl <| fld_high 16 5 rfl <| fld_high 11 5 rfl <| fld_low 6 5 rfl <| fld_whole _
  have f11_5 : fld x 11 5 = (BitVec.ofFin (w := 5) c) := hx ▸ fld_high 21 11 rfl <| fld_low 16 5 rfl <| fld_whole _
  rw [decode, f26_6]
  show decodeMajor26 x = _
  rw [decodeMajor26, f0_3]
  show mbz (fld x 16 5 == 0 && fld x 3 8 == 0) (accept (.tktake (fld x 21 5).toFin (fld x 11 5).toFin)) = _
  rw [f16_5, f3_8, f21_5, f11_5]
  exact accept_wellFormed wf
theorem Laws.Encoding.tkwait (a : GReg) (b : GReg) : Laws.Encoding.Statement (.tkwait a b) := by
  intro x wf h
  have hx : x = (38 : BitVec 6) ++ BitVec.ofFin (w := 5) a ++ BitVec.ofFin (w := 5) b ++ (4 : BitVec 16) := (Option.some.inj h).symm
  have f26_6 : fld x 26 6 = (38 : BitVec 6) := hx ▸ fld_high 16 16 rfl <| fld_high 11 5 rfl <| fld_high 6 5 rfl <| rfl
  have f0_3 : fld x 0 3 = (4 : BitVec 3) := hx ▸ fld_low 16 16 rfl <| rfl
  have f3_13 : fld x 3 13 = (0 : BitVec 13) := hx ▸ fld_low 16 16 rfl <| rfl
  have f21_5 : fld x 21 5 = (BitVec.ofFin (w := 5) a) := hx ▸ fld_high 16 16 rfl <| fld_high 11 5 rfl <| fld_low 6 5 rfl <| fld_whole _
  have f16_5 : fld x 16 5 = (BitVec.ofFin (w := 5) b) := hx ▸ fld_high 16 16 rfl <| fld_low 11 5 rfl <| fld_whole _
  rw [decode, f26_6]
  show decodeMajor26 x = _
  rw [decodeMajor26, f0_3]
  show mbz (fld x 3 13 == 0) (accept (.tkwait (fld x 21 5).toFin (fld x 16 5).toFin)) = _
  rw [f3_13, f21_5, f16_5]
  exact accept_wellFormed wf
theorem Laws.Encoding.vadd (d : VReg) (a : VReg) (b : VReg) (k : KReg) (t : VTy) : Laws.Encoding.Statement (.vadd d a b k t) := by
  intro x wf h
  have hx : x = (40 : BitVec 6) ++ BitVec.ofFin (w := 4) d ++ BitVec.ofFin (w := 4) a ++ BitVec.ofFin (w := 4) b ++ BitVec.ofFin (w := 3) k ++ (0 : BitVec 2) ++ t.code ++ (0 : BitVec 5) := (Option.some.inj h).symm
  have f26_6 : fld x 26 6 = (40 : BitVec 6) := hx ▸ fld_high 27 5 rfl <| fld_high 23 4 rfl <| fld_high 21 2 rfl <| fld_high 18 3 rfl <| fld_high 14 4 rfl <| fld_high 10 4 rfl <| fld_high 6 4 rfl <| rfl
  have f0_5 : fld x 0 5 = (0 : BitVec 5) := hx ▸ fld_low 27 5 rfl <| rfl
  have f9_2 : fld x 9 2 = (0 : BitVec 2) := hx ▸ fld_high 27 5 rfl <| fld_high 23 4 rfl <| fld_low 21 2 rfl <| rfl
  have f5_4 : fld x 5 4 = t.code := hx ▸ fld_high 27 5 rfl <| fld_low 23 4 rfl <| fld_whole _
  have f22_4 : fld x 22 4 = (BitVec.ofFin (w := 4) d) := hx ▸ fld_high 27 5 rfl <| fld_high 23 4 rfl <| fld_high 21 2 rfl <| fld_high 18 3 rfl <| fld_high 14 4 rfl <| fld_high 10 4 rfl <| fld_low 6 4 rfl <| fld_whole _
  have f18_4 : fld x 18 4 = (BitVec.ofFin (w := 4) a) := hx ▸ fld_high 27 5 rfl <| fld_high 23 4 rfl <| fld_high 21 2 rfl <| fld_high 18 3 rfl <| fld_high 14 4 rfl <| fld_low 10 4 rfl <| fld_whole _
  have f14_4 : fld x 14 4 = (BitVec.ofFin (w := 4) b) := hx ▸ fld_high 27 5 rfl <| fld_high 23 4 rfl <| fld_high 21 2 rfl <| fld_high 18 3 rfl <| fld_low 14 4 rfl <| fld_whole _
  have f11_3 : fld x 11 3 = (BitVec.ofFin (w := 3) k) := hx ▸ fld_high 27 5 rfl <| fld_high 23 4 rfl <| fld_high 21 2 rfl <| fld_low 18 3 rfl <| fld_whole _
  rw [decode, f26_6]
  show decodeMajor28 x = _
  rw [decodeMajor28, f0_5]
  show mbz (fld x 9 2 == 0) (ofOption (VTy.ofCode (fld x 5 4)) fun t => .vadd (fld x 22 4).toFin (fld x 18 4).toFin (fld x 14 4).toFin (fld x 11 3).toFin t) = _
  rw [f9_2, f5_4, f22_4, f18_4, f14_4, f11_3, VTy.ofCode_code t]
  exact accept_wellFormed wf
theorem Laws.Encoding.vsub (d : VReg) (a : VReg) (b : VReg) (k : KReg) (t : VTy) : Laws.Encoding.Statement (.vsub d a b k t) := by
  intro x wf h
  have hx : x = (40 : BitVec 6) ++ BitVec.ofFin (w := 4) d ++ BitVec.ofFin (w := 4) a ++ BitVec.ofFin (w := 4) b ++ BitVec.ofFin (w := 3) k ++ (0 : BitVec 2) ++ t.code ++ (1 : BitVec 5) := (Option.some.inj h).symm
  have f26_6 : fld x 26 6 = (40 : BitVec 6) := hx ▸ fld_high 27 5 rfl <| fld_high 23 4 rfl <| fld_high 21 2 rfl <| fld_high 18 3 rfl <| fld_high 14 4 rfl <| fld_high 10 4 rfl <| fld_high 6 4 rfl <| rfl
  have f0_5 : fld x 0 5 = (1 : BitVec 5) := hx ▸ fld_low 27 5 rfl <| rfl
  have f9_2 : fld x 9 2 = (0 : BitVec 2) := hx ▸ fld_high 27 5 rfl <| fld_high 23 4 rfl <| fld_low 21 2 rfl <| rfl
  have f5_4 : fld x 5 4 = t.code := hx ▸ fld_high 27 5 rfl <| fld_low 23 4 rfl <| fld_whole _
  have f22_4 : fld x 22 4 = (BitVec.ofFin (w := 4) d) := hx ▸ fld_high 27 5 rfl <| fld_high 23 4 rfl <| fld_high 21 2 rfl <| fld_high 18 3 rfl <| fld_high 14 4 rfl <| fld_high 10 4 rfl <| fld_low 6 4 rfl <| fld_whole _
  have f18_4 : fld x 18 4 = (BitVec.ofFin (w := 4) a) := hx ▸ fld_high 27 5 rfl <| fld_high 23 4 rfl <| fld_high 21 2 rfl <| fld_high 18 3 rfl <| fld_high 14 4 rfl <| fld_low 10 4 rfl <| fld_whole _
  have f14_4 : fld x 14 4 = (BitVec.ofFin (w := 4) b) := hx ▸ fld_high 27 5 rfl <| fld_high 23 4 rfl <| fld_high 21 2 rfl <| fld_high 18 3 rfl <| fld_low 14 4 rfl <| fld_whole _
  have f11_3 : fld x 11 3 = (BitVec.ofFin (w := 3) k) := hx ▸ fld_high 27 5 rfl <| fld_high 23 4 rfl <| fld_high 21 2 rfl <| fld_low 18 3 rfl <| fld_whole _
  rw [decode, f26_6]
  show decodeMajor28 x = _
  rw [decodeMajor28, f0_5]
  show mbz (fld x 9 2 == 0) (ofOption (VTy.ofCode (fld x 5 4)) fun t => .vsub (fld x 22 4).toFin (fld x 18 4).toFin (fld x 14 4).toFin (fld x 11 3).toFin t) = _
  rw [f9_2, f5_4, f22_4, f18_4, f14_4, f11_3, VTy.ofCode_code t]
  exact accept_wellFormed wf
theorem Laws.Encoding.vmul (d : VReg) (a : VReg) (b : VReg) (k : KReg) (t : VTy) : Laws.Encoding.Statement (.vmul d a b k t) := by
  intro x wf h
  have hx : x = (40 : BitVec 6) ++ BitVec.ofFin (w := 4) d ++ BitVec.ofFin (w := 4) a ++ BitVec.ofFin (w := 4) b ++ BitVec.ofFin (w := 3) k ++ (0 : BitVec 2) ++ t.code ++ (2 : BitVec 5) := (Option.some.inj h).symm
  have f26_6 : fld x 26 6 = (40 : BitVec 6) := hx ▸ fld_high 27 5 rfl <| fld_high 23 4 rfl <| fld_high 21 2 rfl <| fld_high 18 3 rfl <| fld_high 14 4 rfl <| fld_high 10 4 rfl <| fld_high 6 4 rfl <| rfl
  have f0_5 : fld x 0 5 = (2 : BitVec 5) := hx ▸ fld_low 27 5 rfl <| rfl
  have f9_2 : fld x 9 2 = (0 : BitVec 2) := hx ▸ fld_high 27 5 rfl <| fld_high 23 4 rfl <| fld_low 21 2 rfl <| rfl
  have f5_4 : fld x 5 4 = t.code := hx ▸ fld_high 27 5 rfl <| fld_low 23 4 rfl <| fld_whole _
  have f22_4 : fld x 22 4 = (BitVec.ofFin (w := 4) d) := hx ▸ fld_high 27 5 rfl <| fld_high 23 4 rfl <| fld_high 21 2 rfl <| fld_high 18 3 rfl <| fld_high 14 4 rfl <| fld_high 10 4 rfl <| fld_low 6 4 rfl <| fld_whole _
  have f18_4 : fld x 18 4 = (BitVec.ofFin (w := 4) a) := hx ▸ fld_high 27 5 rfl <| fld_high 23 4 rfl <| fld_high 21 2 rfl <| fld_high 18 3 rfl <| fld_high 14 4 rfl <| fld_low 10 4 rfl <| fld_whole _
  have f14_4 : fld x 14 4 = (BitVec.ofFin (w := 4) b) := hx ▸ fld_high 27 5 rfl <| fld_high 23 4 rfl <| fld_high 21 2 rfl <| fld_high 18 3 rfl <| fld_low 14 4 rfl <| fld_whole _
  have f11_3 : fld x 11 3 = (BitVec.ofFin (w := 3) k) := hx ▸ fld_high 27 5 rfl <| fld_high 23 4 rfl <| fld_high 21 2 rfl <| fld_low 18 3 rfl <| fld_whole _
  rw [decode, f26_6]
  show decodeMajor28 x = _
  rw [decodeMajor28, f0_5]
  show mbz (fld x 9 2 == 0) (ofOption (VTy.ofCode (fld x 5 4)) fun t => .vmul (fld x 22 4).toFin (fld x 18 4).toFin (fld x 14 4).toFin (fld x 11 3).toFin t) = _
  rw [f9_2, f5_4, f22_4, f18_4, f14_4, f11_3, VTy.ofCode_code t]
  exact accept_wellFormed wf
theorem Laws.Encoding.vfma (d : VReg) (a : VReg) (b : VReg) (k : KReg) (t : VTy) : Laws.Encoding.Statement (.vfma d a b k t) := by
  intro x wf h
  have hx : x = (40 : BitVec 6) ++ BitVec.ofFin (w := 4) d ++ BitVec.ofFin (w := 4) a ++ BitVec.ofFin (w := 4) b ++ BitVec.ofFin (w := 3) k ++ (0 : BitVec 2) ++ t.code ++ (3 : BitVec 5) := (Option.some.inj h).symm
  have f26_6 : fld x 26 6 = (40 : BitVec 6) := hx ▸ fld_high 27 5 rfl <| fld_high 23 4 rfl <| fld_high 21 2 rfl <| fld_high 18 3 rfl <| fld_high 14 4 rfl <| fld_high 10 4 rfl <| fld_high 6 4 rfl <| rfl
  have f0_5 : fld x 0 5 = (3 : BitVec 5) := hx ▸ fld_low 27 5 rfl <| rfl
  have f9_2 : fld x 9 2 = (0 : BitVec 2) := hx ▸ fld_high 27 5 rfl <| fld_high 23 4 rfl <| fld_low 21 2 rfl <| rfl
  have f5_4 : fld x 5 4 = t.code := hx ▸ fld_high 27 5 rfl <| fld_low 23 4 rfl <| fld_whole _
  have f22_4 : fld x 22 4 = (BitVec.ofFin (w := 4) d) := hx ▸ fld_high 27 5 rfl <| fld_high 23 4 rfl <| fld_high 21 2 rfl <| fld_high 18 3 rfl <| fld_high 14 4 rfl <| fld_high 10 4 rfl <| fld_low 6 4 rfl <| fld_whole _
  have f18_4 : fld x 18 4 = (BitVec.ofFin (w := 4) a) := hx ▸ fld_high 27 5 rfl <| fld_high 23 4 rfl <| fld_high 21 2 rfl <| fld_high 18 3 rfl <| fld_high 14 4 rfl <| fld_low 10 4 rfl <| fld_whole _
  have f14_4 : fld x 14 4 = (BitVec.ofFin (w := 4) b) := hx ▸ fld_high 27 5 rfl <| fld_high 23 4 rfl <| fld_high 21 2 rfl <| fld_high 18 3 rfl <| fld_low 14 4 rfl <| fld_whole _
  have f11_3 : fld x 11 3 = (BitVec.ofFin (w := 3) k) := hx ▸ fld_high 27 5 rfl <| fld_high 23 4 rfl <| fld_high 21 2 rfl <| fld_low 18 3 rfl <| fld_whole _
  rw [decode, f26_6]
  show decodeMajor28 x = _
  rw [decodeMajor28, f0_5]
  show mbz (fld x 9 2 == 0) (ofOption (VTy.ofCode (fld x 5 4)) fun t => .vfma (fld x 22 4).toFin (fld x 18 4).toFin (fld x 14 4).toFin (fld x 11 3).toFin t) = _
  rw [f9_2, f5_4, f22_4, f18_4, f14_4, f11_3, VTy.ofCode_code t]
  exact accept_wellFormed wf
theorem Laws.Encoding.vfnma (d : VReg) (a : VReg) (b : VReg) (k : KReg) (t : VTy) : Laws.Encoding.Statement (.vfnma d a b k t) := by
  intro x wf h
  have hx : x = (40 : BitVec 6) ++ BitVec.ofFin (w := 4) d ++ BitVec.ofFin (w := 4) a ++ BitVec.ofFin (w := 4) b ++ BitVec.ofFin (w := 3) k ++ (0 : BitVec 2) ++ t.code ++ (4 : BitVec 5) := (Option.some.inj h).symm
  have f26_6 : fld x 26 6 = (40 : BitVec 6) := hx ▸ fld_high 27 5 rfl <| fld_high 23 4 rfl <| fld_high 21 2 rfl <| fld_high 18 3 rfl <| fld_high 14 4 rfl <| fld_high 10 4 rfl <| fld_high 6 4 rfl <| rfl
  have f0_5 : fld x 0 5 = (4 : BitVec 5) := hx ▸ fld_low 27 5 rfl <| rfl
  have f9_2 : fld x 9 2 = (0 : BitVec 2) := hx ▸ fld_high 27 5 rfl <| fld_high 23 4 rfl <| fld_low 21 2 rfl <| rfl
  have f5_4 : fld x 5 4 = t.code := hx ▸ fld_high 27 5 rfl <| fld_low 23 4 rfl <| fld_whole _
  have f22_4 : fld x 22 4 = (BitVec.ofFin (w := 4) d) := hx ▸ fld_high 27 5 rfl <| fld_high 23 4 rfl <| fld_high 21 2 rfl <| fld_high 18 3 rfl <| fld_high 14 4 rfl <| fld_high 10 4 rfl <| fld_low 6 4 rfl <| fld_whole _
  have f18_4 : fld x 18 4 = (BitVec.ofFin (w := 4) a) := hx ▸ fld_high 27 5 rfl <| fld_high 23 4 rfl <| fld_high 21 2 rfl <| fld_high 18 3 rfl <| fld_high 14 4 rfl <| fld_low 10 4 rfl <| fld_whole _
  have f14_4 : fld x 14 4 = (BitVec.ofFin (w := 4) b) := hx ▸ fld_high 27 5 rfl <| fld_high 23 4 rfl <| fld_high 21 2 rfl <| fld_high 18 3 rfl <| fld_low 14 4 rfl <| fld_whole _
  have f11_3 : fld x 11 3 = (BitVec.ofFin (w := 3) k) := hx ▸ fld_high 27 5 rfl <| fld_high 23 4 rfl <| fld_high 21 2 rfl <| fld_low 18 3 rfl <| fld_whole _
  rw [decode, f26_6]
  show decodeMajor28 x = _
  rw [decodeMajor28, f0_5]
  show mbz (fld x 9 2 == 0) (ofOption (VTy.ofCode (fld x 5 4)) fun t => .vfnma (fld x 22 4).toFin (fld x 18 4).toFin (fld x 14 4).toFin (fld x 11 3).toFin t) = _
  rw [f9_2, f5_4, f22_4, f18_4, f14_4, f11_3, VTy.ofCode_code t]
  exact accept_wellFormed wf
theorem Laws.Encoding.vmin (d : VReg) (a : VReg) (b : VReg) (k : KReg) (t : VTy) : Laws.Encoding.Statement (.vmin d a b k t) := by
  intro x wf h
  have hx : x = (40 : BitVec 6) ++ BitVec.ofFin (w := 4) d ++ BitVec.ofFin (w := 4) a ++ BitVec.ofFin (w := 4) b ++ BitVec.ofFin (w := 3) k ++ (0 : BitVec 2) ++ t.code ++ (5 : BitVec 5) := (Option.some.inj h).symm
  have f26_6 : fld x 26 6 = (40 : BitVec 6) := hx ▸ fld_high 27 5 rfl <| fld_high 23 4 rfl <| fld_high 21 2 rfl <| fld_high 18 3 rfl <| fld_high 14 4 rfl <| fld_high 10 4 rfl <| fld_high 6 4 rfl <| rfl
  have f0_5 : fld x 0 5 = (5 : BitVec 5) := hx ▸ fld_low 27 5 rfl <| rfl
  have f9_2 : fld x 9 2 = (0 : BitVec 2) := hx ▸ fld_high 27 5 rfl <| fld_high 23 4 rfl <| fld_low 21 2 rfl <| rfl
  have f5_4 : fld x 5 4 = t.code := hx ▸ fld_high 27 5 rfl <| fld_low 23 4 rfl <| fld_whole _
  have f22_4 : fld x 22 4 = (BitVec.ofFin (w := 4) d) := hx ▸ fld_high 27 5 rfl <| fld_high 23 4 rfl <| fld_high 21 2 rfl <| fld_high 18 3 rfl <| fld_high 14 4 rfl <| fld_high 10 4 rfl <| fld_low 6 4 rfl <| fld_whole _
  have f18_4 : fld x 18 4 = (BitVec.ofFin (w := 4) a) := hx ▸ fld_high 27 5 rfl <| fld_high 23 4 rfl <| fld_high 21 2 rfl <| fld_high 18 3 rfl <| fld_high 14 4 rfl <| fld_low 10 4 rfl <| fld_whole _
  have f14_4 : fld x 14 4 = (BitVec.ofFin (w := 4) b) := hx ▸ fld_high 27 5 rfl <| fld_high 23 4 rfl <| fld_high 21 2 rfl <| fld_high 18 3 rfl <| fld_low 14 4 rfl <| fld_whole _
  have f11_3 : fld x 11 3 = (BitVec.ofFin (w := 3) k) := hx ▸ fld_high 27 5 rfl <| fld_high 23 4 rfl <| fld_high 21 2 rfl <| fld_low 18 3 rfl <| fld_whole _
  rw [decode, f26_6]
  show decodeMajor28 x = _
  rw [decodeMajor28, f0_5]
  show mbz (fld x 9 2 == 0) (ofOption (VTy.ofCode (fld x 5 4)) fun t => .vmin (fld x 22 4).toFin (fld x 18 4).toFin (fld x 14 4).toFin (fld x 11 3).toFin t) = _
  rw [f9_2, f5_4, f22_4, f18_4, f14_4, f11_3, VTy.ofCode_code t]
  exact accept_wellFormed wf
theorem Laws.Encoding.vmax (d : VReg) (a : VReg) (b : VReg) (k : KReg) (t : VTy) : Laws.Encoding.Statement (.vmax d a b k t) := by
  intro x wf h
  have hx : x = (40 : BitVec 6) ++ BitVec.ofFin (w := 4) d ++ BitVec.ofFin (w := 4) a ++ BitVec.ofFin (w := 4) b ++ BitVec.ofFin (w := 3) k ++ (0 : BitVec 2) ++ t.code ++ (6 : BitVec 5) := (Option.some.inj h).symm
  have f26_6 : fld x 26 6 = (40 : BitVec 6) := hx ▸ fld_high 27 5 rfl <| fld_high 23 4 rfl <| fld_high 21 2 rfl <| fld_high 18 3 rfl <| fld_high 14 4 rfl <| fld_high 10 4 rfl <| fld_high 6 4 rfl <| rfl
  have f0_5 : fld x 0 5 = (6 : BitVec 5) := hx ▸ fld_low 27 5 rfl <| rfl
  have f9_2 : fld x 9 2 = (0 : BitVec 2) := hx ▸ fld_high 27 5 rfl <| fld_high 23 4 rfl <| fld_low 21 2 rfl <| rfl
  have f5_4 : fld x 5 4 = t.code := hx ▸ fld_high 27 5 rfl <| fld_low 23 4 rfl <| fld_whole _
  have f22_4 : fld x 22 4 = (BitVec.ofFin (w := 4) d) := hx ▸ fld_high 27 5 rfl <| fld_high 23 4 rfl <| fld_high 21 2 rfl <| fld_high 18 3 rfl <| fld_high 14 4 rfl <| fld_high 10 4 rfl <| fld_low 6 4 rfl <| fld_whole _
  have f18_4 : fld x 18 4 = (BitVec.ofFin (w := 4) a) := hx ▸ fld_high 27 5 rfl <| fld_high 23 4 rfl <| fld_high 21 2 rfl <| fld_high 18 3 rfl <| fld_high 14 4 rfl <| fld_low 10 4 rfl <| fld_whole _
  have f14_4 : fld x 14 4 = (BitVec.ofFin (w := 4) b) := hx ▸ fld_high 27 5 rfl <| fld_high 23 4 rfl <| fld_high 21 2 rfl <| fld_high 18 3 rfl <| fld_low 14 4 rfl <| fld_whole _
  have f11_3 : fld x 11 3 = (BitVec.ofFin (w := 3) k) := hx ▸ fld_high 27 5 rfl <| fld_high 23 4 rfl <| fld_high 21 2 rfl <| fld_low 18 3 rfl <| fld_whole _
  rw [decode, f26_6]
  show decodeMajor28 x = _
  rw [decodeMajor28, f0_5]
  show mbz (fld x 9 2 == 0) (ofOption (VTy.ofCode (fld x 5 4)) fun t => .vmax (fld x 22 4).toFin (fld x 18 4).toFin (fld x 14 4).toFin (fld x 11 3).toFin t) = _
  rw [f9_2, f5_4, f22_4, f18_4, f14_4, f11_3, VTy.ofCode_code t]
  exact accept_wellFormed wf
theorem Laws.Encoding.vabs (d : VReg) (a : VReg) (k : KReg) (t : VTy) : Laws.Encoding.Statement (.vabs d a k t) := by
  intro x wf h
  have hx : x = (40 : BitVec 6) ++ BitVec.ofFin (w := 4) d ++ BitVec.ofFin (w := 4) a ++ (0 : BitVec 4) ++ BitVec.ofFin (w := 3) k ++ (0 : BitVec 2) ++ t.code ++ (7 : BitVec 5) := (Option.some.inj h).symm
  have f26_6 : fld x 26 6 = (40 : BitVec 6) := hx ▸ fld_high 27 5 rfl <| fld_high 23 4 rfl <| fld_high 21 2 rfl <| fld_high 18 3 rfl <| fld_high 14 4 rfl <| fld_high 10 4 rfl <| fld_high 6 4 rfl <| rfl
  have f0_5 : fld x 0 5 = (7 : BitVec 5) := hx ▸ fld_low 27 5 rfl <| rfl
  have f14_4 : fld x 14 4 = (0 : BitVec 4) := hx ▸ fld_high 27 5 rfl <| fld_high 23 4 rfl <| fld_high 21 2 rfl <| fld_high 18 3 rfl <| fld_low 14 4 rfl <| rfl
  have f9_2 : fld x 9 2 = (0 : BitVec 2) := hx ▸ fld_high 27 5 rfl <| fld_high 23 4 rfl <| fld_low 21 2 rfl <| rfl
  have f5_4 : fld x 5 4 = t.code := hx ▸ fld_high 27 5 rfl <| fld_low 23 4 rfl <| fld_whole _
  have f22_4 : fld x 22 4 = (BitVec.ofFin (w := 4) d) := hx ▸ fld_high 27 5 rfl <| fld_high 23 4 rfl <| fld_high 21 2 rfl <| fld_high 18 3 rfl <| fld_high 14 4 rfl <| fld_high 10 4 rfl <| fld_low 6 4 rfl <| fld_whole _
  have f18_4 : fld x 18 4 = (BitVec.ofFin (w := 4) a) := hx ▸ fld_high 27 5 rfl <| fld_high 23 4 rfl <| fld_high 21 2 rfl <| fld_high 18 3 rfl <| fld_high 14 4 rfl <| fld_low 10 4 rfl <| fld_whole _
  have f11_3 : fld x 11 3 = (BitVec.ofFin (w := 3) k) := hx ▸ fld_high 27 5 rfl <| fld_high 23 4 rfl <| fld_high 21 2 rfl <| fld_low 18 3 rfl <| fld_whole _
  rw [decode, f26_6]
  show decodeMajor28 x = _
  rw [decodeMajor28, f0_5]
  show mbz (fld x 14 4 == 0 && fld x 9 2 == 0) (ofOption (VTy.ofCode (fld x 5 4)) fun t => .vabs (fld x 22 4).toFin (fld x 18 4).toFin (fld x 11 3).toFin t) = _
  rw [f14_4, f9_2, f5_4, f22_4, f18_4, f11_3, VTy.ofCode_code t]
  exact accept_wellFormed wf
theorem Laws.Encoding.vneg (d : VReg) (a : VReg) (k : KReg) (t : VTy) : Laws.Encoding.Statement (.vneg d a k t) := by
  intro x wf h
  have hx : x = (40 : BitVec 6) ++ BitVec.ofFin (w := 4) d ++ BitVec.ofFin (w := 4) a ++ (0 : BitVec 4) ++ BitVec.ofFin (w := 3) k ++ (0 : BitVec 2) ++ t.code ++ (8 : BitVec 5) := (Option.some.inj h).symm
  have f26_6 : fld x 26 6 = (40 : BitVec 6) := hx ▸ fld_high 27 5 rfl <| fld_high 23 4 rfl <| fld_high 21 2 rfl <| fld_high 18 3 rfl <| fld_high 14 4 rfl <| fld_high 10 4 rfl <| fld_high 6 4 rfl <| rfl
  have f0_5 : fld x 0 5 = (8 : BitVec 5) := hx ▸ fld_low 27 5 rfl <| rfl
  have f14_4 : fld x 14 4 = (0 : BitVec 4) := hx ▸ fld_high 27 5 rfl <| fld_high 23 4 rfl <| fld_high 21 2 rfl <| fld_high 18 3 rfl <| fld_low 14 4 rfl <| rfl
  have f9_2 : fld x 9 2 = (0 : BitVec 2) := hx ▸ fld_high 27 5 rfl <| fld_high 23 4 rfl <| fld_low 21 2 rfl <| rfl
  have f5_4 : fld x 5 4 = t.code := hx ▸ fld_high 27 5 rfl <| fld_low 23 4 rfl <| fld_whole _
  have f22_4 : fld x 22 4 = (BitVec.ofFin (w := 4) d) := hx ▸ fld_high 27 5 rfl <| fld_high 23 4 rfl <| fld_high 21 2 rfl <| fld_high 18 3 rfl <| fld_high 14 4 rfl <| fld_high 10 4 rfl <| fld_low 6 4 rfl <| fld_whole _
  have f18_4 : fld x 18 4 = (BitVec.ofFin (w := 4) a) := hx ▸ fld_high 27 5 rfl <| fld_high 23 4 rfl <| fld_high 21 2 rfl <| fld_high 18 3 rfl <| fld_high 14 4 rfl <| fld_low 10 4 rfl <| fld_whole _
  have f11_3 : fld x 11 3 = (BitVec.ofFin (w := 3) k) := hx ▸ fld_high 27 5 rfl <| fld_high 23 4 rfl <| fld_high 21 2 rfl <| fld_low 18 3 rfl <| fld_whole _
  rw [decode, f26_6]
  show decodeMajor28 x = _
  rw [decodeMajor28, f0_5]
  show mbz (fld x 14 4 == 0 && fld x 9 2 == 0) (ofOption (VTy.ofCode (fld x 5 4)) fun t => .vneg (fld x 22 4).toFin (fld x 18 4).toFin (fld x 11 3).toFin t) = _
  rw [f14_4, f9_2, f5_4, f22_4, f18_4, f11_3, VTy.ofCode_code t]
  exact accept_wellFormed wf
theorem Laws.Encoding.vdiv (d : VReg) (a : VReg) (b : VReg) (k : KReg) (t : VTy) : Laws.Encoding.Statement (.vdiv d a b k t) := by
  intro x wf h
  have hx : x = (40 : BitVec 6) ++ BitVec.ofFin (w := 4) d ++ BitVec.ofFin (w := 4) a ++ BitVec.ofFin (w := 4) b ++ BitVec.ofFin (w := 3) k ++ (0 : BitVec 2) ++ t.code ++ (9 : BitVec 5) := (Option.some.inj h).symm
  have f26_6 : fld x 26 6 = (40 : BitVec 6) := hx ▸ fld_high 27 5 rfl <| fld_high 23 4 rfl <| fld_high 21 2 rfl <| fld_high 18 3 rfl <| fld_high 14 4 rfl <| fld_high 10 4 rfl <| fld_high 6 4 rfl <| rfl
  have f0_5 : fld x 0 5 = (9 : BitVec 5) := hx ▸ fld_low 27 5 rfl <| rfl
  have f9_2 : fld x 9 2 = (0 : BitVec 2) := hx ▸ fld_high 27 5 rfl <| fld_high 23 4 rfl <| fld_low 21 2 rfl <| rfl
  have f5_4 : fld x 5 4 = t.code := hx ▸ fld_high 27 5 rfl <| fld_low 23 4 rfl <| fld_whole _
  have f22_4 : fld x 22 4 = (BitVec.ofFin (w := 4) d) := hx ▸ fld_high 27 5 rfl <| fld_high 23 4 rfl <| fld_high 21 2 rfl <| fld_high 18 3 rfl <| fld_high 14 4 rfl <| fld_high 10 4 rfl <| fld_low 6 4 rfl <| fld_whole _
  have f18_4 : fld x 18 4 = (BitVec.ofFin (w := 4) a) := hx ▸ fld_high 27 5 rfl <| fld_high 23 4 rfl <| fld_high 21 2 rfl <| fld_high 18 3 rfl <| fld_high 14 4 rfl <| fld_low 10 4 rfl <| fld_whole _
  have f14_4 : fld x 14 4 = (BitVec.ofFin (w := 4) b) := hx ▸ fld_high 27 5 rfl <| fld_high 23 4 rfl <| fld_high 21 2 rfl <| fld_high 18 3 rfl <| fld_low 14 4 rfl <| fld_whole _
  have f11_3 : fld x 11 3 = (BitVec.ofFin (w := 3) k) := hx ▸ fld_high 27 5 rfl <| fld_high 23 4 rfl <| fld_high 21 2 rfl <| fld_low 18 3 rfl <| fld_whole _
  rw [decode, f26_6]
  show decodeMajor28 x = _
  rw [decodeMajor28, f0_5]
  show mbz (fld x 9 2 == 0) (ofOption (VTy.ofCode (fld x 5 4)) fun t => .vdiv (fld x 22 4).toFin (fld x 18 4).toFin (fld x 14 4).toFin (fld x 11 3).toFin t) = _
  rw [f9_2, f5_4, f22_4, f18_4, f14_4, f11_3, VTy.ofCode_code t]
  exact accept_wellFormed wf
theorem Laws.Encoding.vsqrt (d : VReg) (a : VReg) (k : KReg) (t : VTy) : Laws.Encoding.Statement (.vsqrt d a k t) := by
  intro x wf h
  have hx : x = (40 : BitVec 6) ++ BitVec.ofFin (w := 4) d ++ BitVec.ofFin (w := 4) a ++ (0 : BitVec 4) ++ BitVec.ofFin (w := 3) k ++ (0 : BitVec 2) ++ t.code ++ (10 : BitVec 5) := (Option.some.inj h).symm
  have f26_6 : fld x 26 6 = (40 : BitVec 6) := hx ▸ fld_high 27 5 rfl <| fld_high 23 4 rfl <| fld_high 21 2 rfl <| fld_high 18 3 rfl <| fld_high 14 4 rfl <| fld_high 10 4 rfl <| fld_high 6 4 rfl <| rfl
  have f0_5 : fld x 0 5 = (10 : BitVec 5) := hx ▸ fld_low 27 5 rfl <| rfl
  have f14_4 : fld x 14 4 = (0 : BitVec 4) := hx ▸ fld_high 27 5 rfl <| fld_high 23 4 rfl <| fld_high 21 2 rfl <| fld_high 18 3 rfl <| fld_low 14 4 rfl <| rfl
  have f9_2 : fld x 9 2 = (0 : BitVec 2) := hx ▸ fld_high 27 5 rfl <| fld_high 23 4 rfl <| fld_low 21 2 rfl <| rfl
  have f5_4 : fld x 5 4 = t.code := hx ▸ fld_high 27 5 rfl <| fld_low 23 4 rfl <| fld_whole _
  have f22_4 : fld x 22 4 = (BitVec.ofFin (w := 4) d) := hx ▸ fld_high 27 5 rfl <| fld_high 23 4 rfl <| fld_high 21 2 rfl <| fld_high 18 3 rfl <| fld_high 14 4 rfl <| fld_high 10 4 rfl <| fld_low 6 4 rfl <| fld_whole _
  have f18_4 : fld x 18 4 = (BitVec.ofFin (w := 4) a) := hx ▸ fld_high 27 5 rfl <| fld_high 23 4 rfl <| fld_high 21 2 rfl <| fld_high 18 3 rfl <| fld_high 14 4 rfl <| fld_low 10 4 rfl <| fld_whole _
  have f11_3 : fld x 11 3 = (BitVec.ofFin (w := 3) k) := hx ▸ fld_high 27 5 rfl <| fld_high 23 4 rfl <| fld_high 21 2 rfl <| fld_low 18 3 rfl <| fld_whole _
  rw [decode, f26_6]
  show decodeMajor28 x = _
  rw [decodeMajor28, f0_5]
  show mbz (fld x 14 4 == 0 && fld x 9 2 == 0) (ofOption (VTy.ofCode (fld x 5 4)) fun t => .vsqrt (fld x 22 4).toFin (fld x 18 4).toFin (fld x 11 3).toFin t) = _
  rw [f14_4, f9_2, f5_4, f22_4, f18_4, f11_3, VTy.ofCode_code t]
  exact accept_wellFormed wf
theorem Laws.Encoding.vand (d : VReg) (a : VReg) (b : VReg) (k : KReg) (t : VTy) : Laws.Encoding.Statement (.vand d a b k t) := by
  intro x wf h
  have hx : x = (40 : BitVec 6) ++ BitVec.ofFin (w := 4) d ++ BitVec.ofFin (w := 4) a ++ BitVec.ofFin (w := 4) b ++ BitVec.ofFin (w := 3) k ++ (0 : BitVec 2) ++ t.code ++ (11 : BitVec 5) := (Option.some.inj h).symm
  have f26_6 : fld x 26 6 = (40 : BitVec 6) := hx ▸ fld_high 27 5 rfl <| fld_high 23 4 rfl <| fld_high 21 2 rfl <| fld_high 18 3 rfl <| fld_high 14 4 rfl <| fld_high 10 4 rfl <| fld_high 6 4 rfl <| rfl
  have f0_5 : fld x 0 5 = (11 : BitVec 5) := hx ▸ fld_low 27 5 rfl <| rfl
  have f9_2 : fld x 9 2 = (0 : BitVec 2) := hx ▸ fld_high 27 5 rfl <| fld_high 23 4 rfl <| fld_low 21 2 rfl <| rfl
  have f5_4 : fld x 5 4 = t.code := hx ▸ fld_high 27 5 rfl <| fld_low 23 4 rfl <| fld_whole _
  have f22_4 : fld x 22 4 = (BitVec.ofFin (w := 4) d) := hx ▸ fld_high 27 5 rfl <| fld_high 23 4 rfl <| fld_high 21 2 rfl <| fld_high 18 3 rfl <| fld_high 14 4 rfl <| fld_high 10 4 rfl <| fld_low 6 4 rfl <| fld_whole _
  have f18_4 : fld x 18 4 = (BitVec.ofFin (w := 4) a) := hx ▸ fld_high 27 5 rfl <| fld_high 23 4 rfl <| fld_high 21 2 rfl <| fld_high 18 3 rfl <| fld_high 14 4 rfl <| fld_low 10 4 rfl <| fld_whole _
  have f14_4 : fld x 14 4 = (BitVec.ofFin (w := 4) b) := hx ▸ fld_high 27 5 rfl <| fld_high 23 4 rfl <| fld_high 21 2 rfl <| fld_high 18 3 rfl <| fld_low 14 4 rfl <| fld_whole _
  have f11_3 : fld x 11 3 = (BitVec.ofFin (w := 3) k) := hx ▸ fld_high 27 5 rfl <| fld_high 23 4 rfl <| fld_high 21 2 rfl <| fld_low 18 3 rfl <| fld_whole _
  rw [decode, f26_6]
  show decodeMajor28 x = _
  rw [decodeMajor28, f0_5]
  show mbz (fld x 9 2 == 0) (ofOption (VTy.ofCode (fld x 5 4)) fun t => .vand (fld x 22 4).toFin (fld x 18 4).toFin (fld x 14 4).toFin (fld x 11 3).toFin t) = _
  rw [f9_2, f5_4, f22_4, f18_4, f14_4, f11_3, VTy.ofCode_code t]
  exact accept_wellFormed wf
theorem Laws.Encoding.vor (d : VReg) (a : VReg) (b : VReg) (k : KReg) (t : VTy) : Laws.Encoding.Statement (.vor d a b k t) := by
  intro x wf h
  have hx : x = (40 : BitVec 6) ++ BitVec.ofFin (w := 4) d ++ BitVec.ofFin (w := 4) a ++ BitVec.ofFin (w := 4) b ++ BitVec.ofFin (w := 3) k ++ (0 : BitVec 2) ++ t.code ++ (12 : BitVec 5) := (Option.some.inj h).symm
  have f26_6 : fld x 26 6 = (40 : BitVec 6) := hx ▸ fld_high 27 5 rfl <| fld_high 23 4 rfl <| fld_high 21 2 rfl <| fld_high 18 3 rfl <| fld_high 14 4 rfl <| fld_high 10 4 rfl <| fld_high 6 4 rfl <| rfl
  have f0_5 : fld x 0 5 = (12 : BitVec 5) := hx ▸ fld_low 27 5 rfl <| rfl
  have f9_2 : fld x 9 2 = (0 : BitVec 2) := hx ▸ fld_high 27 5 rfl <| fld_high 23 4 rfl <| fld_low 21 2 rfl <| rfl
  have f5_4 : fld x 5 4 = t.code := hx ▸ fld_high 27 5 rfl <| fld_low 23 4 rfl <| fld_whole _
  have f22_4 : fld x 22 4 = (BitVec.ofFin (w := 4) d) := hx ▸ fld_high 27 5 rfl <| fld_high 23 4 rfl <| fld_high 21 2 rfl <| fld_high 18 3 rfl <| fld_high 14 4 rfl <| fld_high 10 4 rfl <| fld_low 6 4 rfl <| fld_whole _
  have f18_4 : fld x 18 4 = (BitVec.ofFin (w := 4) a) := hx ▸ fld_high 27 5 rfl <| fld_high 23 4 rfl <| fld_high 21 2 rfl <| fld_high 18 3 rfl <| fld_high 14 4 rfl <| fld_low 10 4 rfl <| fld_whole _
  have f14_4 : fld x 14 4 = (BitVec.ofFin (w := 4) b) := hx ▸ fld_high 27 5 rfl <| fld_high 23 4 rfl <| fld_high 21 2 rfl <| fld_high 18 3 rfl <| fld_low 14 4 rfl <| fld_whole _
  have f11_3 : fld x 11 3 = (BitVec.ofFin (w := 3) k) := hx ▸ fld_high 27 5 rfl <| fld_high 23 4 rfl <| fld_high 21 2 rfl <| fld_low 18 3 rfl <| fld_whole _
  rw [decode, f26_6]
  show decodeMajor28 x = _
  rw [decodeMajor28, f0_5]
  show mbz (fld x 9 2 == 0) (ofOption (VTy.ofCode (fld x 5 4)) fun t => .vor (fld x 22 4).toFin (fld x 18 4).toFin (fld x 14 4).toFin (fld x 11 3).toFin t) = _
  rw [f9_2, f5_4, f22_4, f18_4, f14_4, f11_3, VTy.ofCode_code t]
  exact accept_wellFormed wf
theorem Laws.Encoding.vxor (d : VReg) (a : VReg) (b : VReg) (k : KReg) (t : VTy) : Laws.Encoding.Statement (.vxor d a b k t) := by
  intro x wf h
  have hx : x = (40 : BitVec 6) ++ BitVec.ofFin (w := 4) d ++ BitVec.ofFin (w := 4) a ++ BitVec.ofFin (w := 4) b ++ BitVec.ofFin (w := 3) k ++ (0 : BitVec 2) ++ t.code ++ (13 : BitVec 5) := (Option.some.inj h).symm
  have f26_6 : fld x 26 6 = (40 : BitVec 6) := hx ▸ fld_high 27 5 rfl <| fld_high 23 4 rfl <| fld_high 21 2 rfl <| fld_high 18 3 rfl <| fld_high 14 4 rfl <| fld_high 10 4 rfl <| fld_high 6 4 rfl <| rfl
  have f0_5 : fld x 0 5 = (13 : BitVec 5) := hx ▸ fld_low 27 5 rfl <| rfl
  have f9_2 : fld x 9 2 = (0 : BitVec 2) := hx ▸ fld_high 27 5 rfl <| fld_high 23 4 rfl <| fld_low 21 2 rfl <| rfl
  have f5_4 : fld x 5 4 = t.code := hx ▸ fld_high 27 5 rfl <| fld_low 23 4 rfl <| fld_whole _
  have f22_4 : fld x 22 4 = (BitVec.ofFin (w := 4) d) := hx ▸ fld_high 27 5 rfl <| fld_high 23 4 rfl <| fld_high 21 2 rfl <| fld_high 18 3 rfl <| fld_high 14 4 rfl <| fld_high 10 4 rfl <| fld_low 6 4 rfl <| fld_whole _
  have f18_4 : fld x 18 4 = (BitVec.ofFin (w := 4) a) := hx ▸ fld_high 27 5 rfl <| fld_high 23 4 rfl <| fld_high 21 2 rfl <| fld_high 18 3 rfl <| fld_high 14 4 rfl <| fld_low 10 4 rfl <| fld_whole _
  have f14_4 : fld x 14 4 = (BitVec.ofFin (w := 4) b) := hx ▸ fld_high 27 5 rfl <| fld_high 23 4 rfl <| fld_high 21 2 rfl <| fld_high 18 3 rfl <| fld_low 14 4 rfl <| fld_whole _
  have f11_3 : fld x 11 3 = (BitVec.ofFin (w := 3) k) := hx ▸ fld_high 27 5 rfl <| fld_high 23 4 rfl <| fld_high 21 2 rfl <| fld_low 18 3 rfl <| fld_whole _
  rw [decode, f26_6]
  show decodeMajor28 x = _
  rw [decodeMajor28, f0_5]
  show mbz (fld x 9 2 == 0) (ofOption (VTy.ofCode (fld x 5 4)) fun t => .vxor (fld x 22 4).toFin (fld x 18 4).toFin (fld x 14 4).toFin (fld x 11 3).toFin t) = _
  rw [f9_2, f5_4, f22_4, f18_4, f14_4, f11_3, VTy.ofCode_code t]
  exact accept_wellFormed wf
theorem Laws.Encoding.vnot (d : VReg) (a : VReg) (k : KReg) (t : VTy) : Laws.Encoding.Statement (.vnot d a k t) := by
  intro x wf h
  have hx : x = (40 : BitVec 6) ++ BitVec.ofFin (w := 4) d ++ BitVec.ofFin (w := 4) a ++ (0 : BitVec 4) ++ BitVec.ofFin (w := 3) k ++ (0 : BitVec 2) ++ t.code ++ (14 : BitVec 5) := (Option.some.inj h).symm
  have f26_6 : fld x 26 6 = (40 : BitVec 6) := hx ▸ fld_high 27 5 rfl <| fld_high 23 4 rfl <| fld_high 21 2 rfl <| fld_high 18 3 rfl <| fld_high 14 4 rfl <| fld_high 10 4 rfl <| fld_high 6 4 rfl <| rfl
  have f0_5 : fld x 0 5 = (14 : BitVec 5) := hx ▸ fld_low 27 5 rfl <| rfl
  have f14_4 : fld x 14 4 = (0 : BitVec 4) := hx ▸ fld_high 27 5 rfl <| fld_high 23 4 rfl <| fld_high 21 2 rfl <| fld_high 18 3 rfl <| fld_low 14 4 rfl <| rfl
  have f9_2 : fld x 9 2 = (0 : BitVec 2) := hx ▸ fld_high 27 5 rfl <| fld_high 23 4 rfl <| fld_low 21 2 rfl <| rfl
  have f5_4 : fld x 5 4 = t.code := hx ▸ fld_high 27 5 rfl <| fld_low 23 4 rfl <| fld_whole _
  have f22_4 : fld x 22 4 = (BitVec.ofFin (w := 4) d) := hx ▸ fld_high 27 5 rfl <| fld_high 23 4 rfl <| fld_high 21 2 rfl <| fld_high 18 3 rfl <| fld_high 14 4 rfl <| fld_high 10 4 rfl <| fld_low 6 4 rfl <| fld_whole _
  have f18_4 : fld x 18 4 = (BitVec.ofFin (w := 4) a) := hx ▸ fld_high 27 5 rfl <| fld_high 23 4 rfl <| fld_high 21 2 rfl <| fld_high 18 3 rfl <| fld_high 14 4 rfl <| fld_low 10 4 rfl <| fld_whole _
  have f11_3 : fld x 11 3 = (BitVec.ofFin (w := 3) k) := hx ▸ fld_high 27 5 rfl <| fld_high 23 4 rfl <| fld_high 21 2 rfl <| fld_low 18 3 rfl <| fld_whole _
  rw [decode, f26_6]
  show decodeMajor28 x = _
  rw [decodeMajor28, f0_5]
  show mbz (fld x 14 4 == 0 && fld x 9 2 == 0) (ofOption (VTy.ofCode (fld x 5 4)) fun t => .vnot (fld x 22 4).toFin (fld x 18 4).toFin (fld x 11 3).toFin t) = _
  rw [f14_4, f9_2, f5_4, f22_4, f18_4, f11_3, VTy.ofCode_code t]
  exact accept_wellFormed wf
theorem Laws.Encoding.vshl (d : VReg) (a : VReg) (b : VReg) (k : KReg) (t : VTy) : Laws.Encoding.Statement (.vshl d a b k t) := by
  intro x wf h
  have hx : x = (40 : BitVec 6) ++ BitVec.ofFin (w := 4) d ++ BitVec.ofFin (w := 4) a ++ BitVec.ofFin (w := 4) b ++ BitVec.ofFin (w := 3) k ++ (0 : BitVec 2) ++ t.code ++ (15 : BitVec 5) := (Option.some.inj h).symm
  have f26_6 : fld x 26 6 = (40 : BitVec 6) := hx ▸ fld_high 27 5 rfl <| fld_high 23 4 rfl <| fld_high 21 2 rfl <| fld_high 18 3 rfl <| fld_high 14 4 rfl <| fld_high 10 4 rfl <| fld_high 6 4 rfl <| rfl
  have f0_5 : fld x 0 5 = (15 : BitVec 5) := hx ▸ fld_low 27 5 rfl <| rfl
  have f9_2 : fld x 9 2 = (0 : BitVec 2) := hx ▸ fld_high 27 5 rfl <| fld_high 23 4 rfl <| fld_low 21 2 rfl <| rfl
  have f5_4 : fld x 5 4 = t.code := hx ▸ fld_high 27 5 rfl <| fld_low 23 4 rfl <| fld_whole _
  have f22_4 : fld x 22 4 = (BitVec.ofFin (w := 4) d) := hx ▸ fld_high 27 5 rfl <| fld_high 23 4 rfl <| fld_high 21 2 rfl <| fld_high 18 3 rfl <| fld_high 14 4 rfl <| fld_high 10 4 rfl <| fld_low 6 4 rfl <| fld_whole _
  have f18_4 : fld x 18 4 = (BitVec.ofFin (w := 4) a) := hx ▸ fld_high 27 5 rfl <| fld_high 23 4 rfl <| fld_high 21 2 rfl <| fld_high 18 3 rfl <| fld_high 14 4 rfl <| fld_low 10 4 rfl <| fld_whole _
  have f14_4 : fld x 14 4 = (BitVec.ofFin (w := 4) b) := hx ▸ fld_high 27 5 rfl <| fld_high 23 4 rfl <| fld_high 21 2 rfl <| fld_high 18 3 rfl <| fld_low 14 4 rfl <| fld_whole _
  have f11_3 : fld x 11 3 = (BitVec.ofFin (w := 3) k) := hx ▸ fld_high 27 5 rfl <| fld_high 23 4 rfl <| fld_high 21 2 rfl <| fld_low 18 3 rfl <| fld_whole _
  rw [decode, f26_6]
  show decodeMajor28 x = _
  rw [decodeMajor28, f0_5]
  show mbz (fld x 9 2 == 0) (ofOption (VTy.ofCode (fld x 5 4)) fun t => .vshl (fld x 22 4).toFin (fld x 18 4).toFin (fld x 14 4).toFin (fld x 11 3).toFin t) = _
  rw [f9_2, f5_4, f22_4, f18_4, f14_4, f11_3, VTy.ofCode_code t]
  exact accept_wellFormed wf
theorem Laws.Encoding.vshr (d : VReg) (a : VReg) (b : VReg) (k : KReg) (t : VTy) : Laws.Encoding.Statement (.vshr d a b k t) := by
  intro x wf h
  have hx : x = (40 : BitVec 6) ++ BitVec.ofFin (w := 4) d ++ BitVec.ofFin (w := 4) a ++ BitVec.ofFin (w := 4) b ++ BitVec.ofFin (w := 3) k ++ (0 : BitVec 2) ++ t.code ++ (16 : BitVec 5) := (Option.some.inj h).symm
  have f26_6 : fld x 26 6 = (40 : BitVec 6) := hx ▸ fld_high 27 5 rfl <| fld_high 23 4 rfl <| fld_high 21 2 rfl <| fld_high 18 3 rfl <| fld_high 14 4 rfl <| fld_high 10 4 rfl <| fld_high 6 4 rfl <| rfl
  have f0_5 : fld x 0 5 = (16 : BitVec 5) := hx ▸ fld_low 27 5 rfl <| rfl
  have f9_2 : fld x 9 2 = (0 : BitVec 2) := hx ▸ fld_high 27 5 rfl <| fld_high 23 4 rfl <| fld_low 21 2 rfl <| rfl
  have f5_4 : fld x 5 4 = t.code := hx ▸ fld_high 27 5 rfl <| fld_low 23 4 rfl <| fld_whole _
  have f22_4 : fld x 22 4 = (BitVec.ofFin (w := 4) d) := hx ▸ fld_high 27 5 rfl <| fld_high 23 4 rfl <| fld_high 21 2 rfl <| fld_high 18 3 rfl <| fld_high 14 4 rfl <| fld_high 10 4 rfl <| fld_low 6 4 rfl <| fld_whole _
  have f18_4 : fld x 18 4 = (BitVec.ofFin (w := 4) a) := hx ▸ fld_high 27 5 rfl <| fld_high 23 4 rfl <| fld_high 21 2 rfl <| fld_high 18 3 rfl <| fld_high 14 4 rfl <| fld_low 10 4 rfl <| fld_whole _
  have f14_4 : fld x 14 4 = (BitVec.ofFin (w := 4) b) := hx ▸ fld_high 27 5 rfl <| fld_high 23 4 rfl <| fld_high 21 2 rfl <| fld_high 18 3 rfl <| fld_low 14 4 rfl <| fld_whole _
  have f11_3 : fld x 11 3 = (BitVec.ofFin (w := 3) k) := hx ▸ fld_high 27 5 rfl <| fld_high 23 4 rfl <| fld_high 21 2 rfl <| fld_low 18 3 rfl <| fld_whole _
  rw [decode, f26_6]
  show decodeMajor28 x = _
  rw [decodeMajor28, f0_5]
  show mbz (fld x 9 2 == 0) (ofOption (VTy.ofCode (fld x 5 4)) fun t => .vshr (fld x 22 4).toFin (fld x 18 4).toFin (fld x 14 4).toFin (fld x 11 3).toFin t) = _
  rw [f9_2, f5_4, f22_4, f18_4, f14_4, f11_3, VTy.ofCode_code t]
  exact accept_wellFormed wf
theorem Laws.Encoding.vshra (d : VReg) (a : VReg) (b : VReg) (k : KReg) (t : VTy) : Laws.Encoding.Statement (.vshra d a b k t) := by
  intro x wf h
  have hx : x = (40 : BitVec 6) ++ BitVec.ofFin (w := 4) d ++ BitVec.ofFin (w := 4) a ++ BitVec.ofFin (w := 4) b ++ BitVec.ofFin (w := 3) k ++ (0 : BitVec 2) ++ t.code ++ (17 : BitVec 5) := (Option.some.inj h).symm
  have f26_6 : fld x 26 6 = (40 : BitVec 6) := hx ▸ fld_high 27 5 rfl <| fld_high 23 4 rfl <| fld_high 21 2 rfl <| fld_high 18 3 rfl <| fld_high 14 4 rfl <| fld_high 10 4 rfl <| fld_high 6 4 rfl <| rfl
  have f0_5 : fld x 0 5 = (17 : BitVec 5) := hx ▸ fld_low 27 5 rfl <| rfl
  have f9_2 : fld x 9 2 = (0 : BitVec 2) := hx ▸ fld_high 27 5 rfl <| fld_high 23 4 rfl <| fld_low 21 2 rfl <| rfl
  have f5_4 : fld x 5 4 = t.code := hx ▸ fld_high 27 5 rfl <| fld_low 23 4 rfl <| fld_whole _
  have f22_4 : fld x 22 4 = (BitVec.ofFin (w := 4) d) := hx ▸ fld_high 27 5 rfl <| fld_high 23 4 rfl <| fld_high 21 2 rfl <| fld_high 18 3 rfl <| fld_high 14 4 rfl <| fld_high 10 4 rfl <| fld_low 6 4 rfl <| fld_whole _
  have f18_4 : fld x 18 4 = (BitVec.ofFin (w := 4) a) := hx ▸ fld_high 27 5 rfl <| fld_high 23 4 rfl <| fld_high 21 2 rfl <| fld_high 18 3 rfl <| fld_high 14 4 rfl <| fld_low 10 4 rfl <| fld_whole _
  have f14_4 : fld x 14 4 = (BitVec.ofFin (w := 4) b) := hx ▸ fld_high 27 5 rfl <| fld_high 23 4 rfl <| fld_high 21 2 rfl <| fld_high 18 3 rfl <| fld_low 14 4 rfl <| fld_whole _
  have f11_3 : fld x 11 3 = (BitVec.ofFin (w := 3) k) := hx ▸ fld_high 27 5 rfl <| fld_high 23 4 rfl <| fld_high 21 2 rfl <| fld_low 18 3 rfl <| fld_whole _
  rw [decode, f26_6]
  show decodeMajor28 x = _
  rw [decodeMajor28, f0_5]
  show mbz (fld x 9 2 == 0) (ofOption (VTy.ofCode (fld x 5 4)) fun t => .vshra (fld x 22 4).toFin (fld x 18 4).toFin (fld x 14 4).toFin (fld x 11 3).toFin t) = _
  rw [f9_2, f5_4, f22_4, f18_4, f14_4, f11_3, VTy.ofCode_code t]
  exact accept_wellFormed wf
theorem Laws.Encoding.vcmpEq (d : KReg) (a : VReg) (b : VReg) (k : KReg) (t : VTy) : Laws.Encoding.Statement (.vcmpEq d a b k t) := by
  intro x wf h
  have hx : x = (41 : BitVec 6) ++ (0 : BitVec 1) ++ BitVec.ofFin (w := 3) d ++ BitVec.ofFin (w := 4) a ++ BitVec.ofFin (w := 4) b ++ BitVec.ofFin (w := 3) k ++ (0 : BitVec 4) ++ t.code ++ (0 : BitVec 3) := (Option.some.inj h).symm
  have f26_6 : fld x 26 6 = (41 : BitVec 6) := hx ▸ fld_high 29 3 rfl <| fld_high 25 4 rfl <| fld_high 21 4 rfl <| fld_high 18 3 rfl <| fld_high 14 4 rfl <| fld_high 10 4 rfl <| fld_high 7 3 rfl <| fld_high 6 1 rfl <| rfl
  have f0_3 : fld x 0 3 = (0 : BitVec 3) := hx ▸ fld_low 29 3 rfl <| rfl
  have f25_1 : fld x 25 1 = (0 : BitVec 1) := hx ▸ fld_high 29 3 rfl <| fld_high 25 4 rfl <| fld_high 21 4 rfl <| fld_high 18 3 rfl <| fld_high 14 4 rfl <| fld_high 10 4 rfl <| fld_high 7 3 rfl <| fld_low 6 1 rfl <| rfl
  have f7_4 : fld x 7 4 = (0 : BitVec 4) := hx ▸ fld_high 29 3 rfl <| fld_high 25 4 rfl <| fld_low 21 4 rfl <| rfl
  have f3_4 : fld x 3 4 = t.code := hx ▸ fld_high 29 3 rfl <| fld_low 25 4 rfl <| fld_whole _
  have f22_3 : fld x 22 3 = (BitVec.ofFin (w := 3) d) := hx ▸ fld_high 29 3 rfl <| fld_high 25 4 rfl <| fld_high 21 4 rfl <| fld_high 18 3 rfl <| fld_high 14 4 rfl <| fld_high 10 4 rfl <| fld_low 7 3 rfl <| fld_whole _
  have f18_4 : fld x 18 4 = (BitVec.ofFin (w := 4) a) := hx ▸ fld_high 29 3 rfl <| fld_high 25 4 rfl <| fld_high 21 4 rfl <| fld_high 18 3 rfl <| fld_high 14 4 rfl <| fld_low 10 4 rfl <| fld_whole _
  have f14_4 : fld x 14 4 = (BitVec.ofFin (w := 4) b) := hx ▸ fld_high 29 3 rfl <| fld_high 25 4 rfl <| fld_high 21 4 rfl <| fld_high 18 3 rfl <| fld_low 14 4 rfl <| fld_whole _
  have f11_3 : fld x 11 3 = (BitVec.ofFin (w := 3) k) := hx ▸ fld_high 29 3 rfl <| fld_high 25 4 rfl <| fld_high 21 4 rfl <| fld_low 18 3 rfl <| fld_whole _
  rw [decode, f26_6]
  show decodeMajor29 x = _
  rw [decodeMajor29, f0_3]
  show mbz (fld x 25 1 == 0 && fld x 7 4 == 0) (ofOption (VTy.ofCode (fld x 3 4)) fun t => .vcmpEq (fld x 22 3).toFin (fld x 18 4).toFin (fld x 14 4).toFin (fld x 11 3).toFin t) = _
  rw [f25_1, f7_4, f3_4, f22_3, f18_4, f14_4, f11_3, VTy.ofCode_code t]
  exact accept_wellFormed wf
theorem Laws.Encoding.vcmpNe (d : KReg) (a : VReg) (b : VReg) (k : KReg) (t : VTy) : Laws.Encoding.Statement (.vcmpNe d a b k t) := by
  intro x wf h
  have hx : x = (41 : BitVec 6) ++ (0 : BitVec 1) ++ BitVec.ofFin (w := 3) d ++ BitVec.ofFin (w := 4) a ++ BitVec.ofFin (w := 4) b ++ BitVec.ofFin (w := 3) k ++ (0 : BitVec 4) ++ t.code ++ (1 : BitVec 3) := (Option.some.inj h).symm
  have f26_6 : fld x 26 6 = (41 : BitVec 6) := hx ▸ fld_high 29 3 rfl <| fld_high 25 4 rfl <| fld_high 21 4 rfl <| fld_high 18 3 rfl <| fld_high 14 4 rfl <| fld_high 10 4 rfl <| fld_high 7 3 rfl <| fld_high 6 1 rfl <| rfl
  have f0_3 : fld x 0 3 = (1 : BitVec 3) := hx ▸ fld_low 29 3 rfl <| rfl
  have f25_1 : fld x 25 1 = (0 : BitVec 1) := hx ▸ fld_high 29 3 rfl <| fld_high 25 4 rfl <| fld_high 21 4 rfl <| fld_high 18 3 rfl <| fld_high 14 4 rfl <| fld_high 10 4 rfl <| fld_high 7 3 rfl <| fld_low 6 1 rfl <| rfl
  have f7_4 : fld x 7 4 = (0 : BitVec 4) := hx ▸ fld_high 29 3 rfl <| fld_high 25 4 rfl <| fld_low 21 4 rfl <| rfl
  have f3_4 : fld x 3 4 = t.code := hx ▸ fld_high 29 3 rfl <| fld_low 25 4 rfl <| fld_whole _
  have f22_3 : fld x 22 3 = (BitVec.ofFin (w := 3) d) := hx ▸ fld_high 29 3 rfl <| fld_high 25 4 rfl <| fld_high 21 4 rfl <| fld_high 18 3 rfl <| fld_high 14 4 rfl <| fld_high 10 4 rfl <| fld_low 7 3 rfl <| fld_whole _
  have f18_4 : fld x 18 4 = (BitVec.ofFin (w := 4) a) := hx ▸ fld_high 29 3 rfl <| fld_high 25 4 rfl <| fld_high 21 4 rfl <| fld_high 18 3 rfl <| fld_high 14 4 rfl <| fld_low 10 4 rfl <| fld_whole _
  have f14_4 : fld x 14 4 = (BitVec.ofFin (w := 4) b) := hx ▸ fld_high 29 3 rfl <| fld_high 25 4 rfl <| fld_high 21 4 rfl <| fld_high 18 3 rfl <| fld_low 14 4 rfl <| fld_whole _
  have f11_3 : fld x 11 3 = (BitVec.ofFin (w := 3) k) := hx ▸ fld_high 29 3 rfl <| fld_high 25 4 rfl <| fld_high 21 4 rfl <| fld_low 18 3 rfl <| fld_whole _
  rw [decode, f26_6]
  show decodeMajor29 x = _
  rw [decodeMajor29, f0_3]
  show mbz (fld x 25 1 == 0 && fld x 7 4 == 0) (ofOption (VTy.ofCode (fld x 3 4)) fun t => .vcmpNe (fld x 22 3).toFin (fld x 18 4).toFin (fld x 14 4).toFin (fld x 11 3).toFin t) = _
  rw [f25_1, f7_4, f3_4, f22_3, f18_4, f14_4, f11_3, VTy.ofCode_code t]
  exact accept_wellFormed wf
theorem Laws.Encoding.vcmpLt (d : KReg) (a : VReg) (b : VReg) (k : KReg) (t : VTy) : Laws.Encoding.Statement (.vcmpLt d a b k t) := by
  intro x wf h
  have hx : x = (41 : BitVec 6) ++ (0 : BitVec 1) ++ BitVec.ofFin (w := 3) d ++ BitVec.ofFin (w := 4) a ++ BitVec.ofFin (w := 4) b ++ BitVec.ofFin (w := 3) k ++ (0 : BitVec 4) ++ t.code ++ (2 : BitVec 3) := (Option.some.inj h).symm
  have f26_6 : fld x 26 6 = (41 : BitVec 6) := hx ▸ fld_high 29 3 rfl <| fld_high 25 4 rfl <| fld_high 21 4 rfl <| fld_high 18 3 rfl <| fld_high 14 4 rfl <| fld_high 10 4 rfl <| fld_high 7 3 rfl <| fld_high 6 1 rfl <| rfl
  have f0_3 : fld x 0 3 = (2 : BitVec 3) := hx ▸ fld_low 29 3 rfl <| rfl
  have f25_1 : fld x 25 1 = (0 : BitVec 1) := hx ▸ fld_high 29 3 rfl <| fld_high 25 4 rfl <| fld_high 21 4 rfl <| fld_high 18 3 rfl <| fld_high 14 4 rfl <| fld_high 10 4 rfl <| fld_high 7 3 rfl <| fld_low 6 1 rfl <| rfl
  have f7_4 : fld x 7 4 = (0 : BitVec 4) := hx ▸ fld_high 29 3 rfl <| fld_high 25 4 rfl <| fld_low 21 4 rfl <| rfl
  have f3_4 : fld x 3 4 = t.code := hx ▸ fld_high 29 3 rfl <| fld_low 25 4 rfl <| fld_whole _
  have f22_3 : fld x 22 3 = (BitVec.ofFin (w := 3) d) := hx ▸ fld_high 29 3 rfl <| fld_high 25 4 rfl <| fld_high 21 4 rfl <| fld_high 18 3 rfl <| fld_high 14 4 rfl <| fld_high 10 4 rfl <| fld_low 7 3 rfl <| fld_whole _
  have f18_4 : fld x 18 4 = (BitVec.ofFin (w := 4) a) := hx ▸ fld_high 29 3 rfl <| fld_high 25 4 rfl <| fld_high 21 4 rfl <| fld_high 18 3 rfl <| fld_high 14 4 rfl <| fld_low 10 4 rfl <| fld_whole _
  have f14_4 : fld x 14 4 = (BitVec.ofFin (w := 4) b) := hx ▸ fld_high 29 3 rfl <| fld_high 25 4 rfl <| fld_high 21 4 rfl <| fld_high 18 3 rfl <| fld_low 14 4 rfl <| fld_whole _
  have f11_3 : fld x 11 3 = (BitVec.ofFin (w := 3) k) := hx ▸ fld_high 29 3 rfl <| fld_high 25 4 rfl <| fld_high 21 4 rfl <| fld_low 18 3 rfl <| fld_whole _
  rw [decode, f26_6]
  show decodeMajor29 x = _
  rw [decodeMajor29, f0_3]
  show mbz (fld x 25 1 == 0 && fld x 7 4 == 0) (ofOption (VTy.ofCode (fld x 3 4)) fun t => .vcmpLt (fld x 22 3).toFin (fld x 18 4).toFin (fld x 14 4).toFin (fld x 11 3).toFin t) = _
  rw [f25_1, f7_4, f3_4, f22_3, f18_4, f14_4, f11_3, VTy.ofCode_code t]
  exact accept_wellFormed wf
theorem Laws.Encoding.vcmpLe (d : KReg) (a : VReg) (b : VReg) (k : KReg) (t : VTy) : Laws.Encoding.Statement (.vcmpLe d a b k t) := by
  intro x wf h
  have hx : x = (41 : BitVec 6) ++ (0 : BitVec 1) ++ BitVec.ofFin (w := 3) d ++ BitVec.ofFin (w := 4) a ++ BitVec.ofFin (w := 4) b ++ BitVec.ofFin (w := 3) k ++ (0 : BitVec 4) ++ t.code ++ (3 : BitVec 3) := (Option.some.inj h).symm
  have f26_6 : fld x 26 6 = (41 : BitVec 6) := hx ▸ fld_high 29 3 rfl <| fld_high 25 4 rfl <| fld_high 21 4 rfl <| fld_high 18 3 rfl <| fld_high 14 4 rfl <| fld_high 10 4 rfl <| fld_high 7 3 rfl <| fld_high 6 1 rfl <| rfl
  have f0_3 : fld x 0 3 = (3 : BitVec 3) := hx ▸ fld_low 29 3 rfl <| rfl
  have f25_1 : fld x 25 1 = (0 : BitVec 1) := hx ▸ fld_high 29 3 rfl <| fld_high 25 4 rfl <| fld_high 21 4 rfl <| fld_high 18 3 rfl <| fld_high 14 4 rfl <| fld_high 10 4 rfl <| fld_high 7 3 rfl <| fld_low 6 1 rfl <| rfl
  have f7_4 : fld x 7 4 = (0 : BitVec 4) := hx ▸ fld_high 29 3 rfl <| fld_high 25 4 rfl <| fld_low 21 4 rfl <| rfl
  have f3_4 : fld x 3 4 = t.code := hx ▸ fld_high 29 3 rfl <| fld_low 25 4 rfl <| fld_whole _
  have f22_3 : fld x 22 3 = (BitVec.ofFin (w := 3) d) := hx ▸ fld_high 29 3 rfl <| fld_high 25 4 rfl <| fld_high 21 4 rfl <| fld_high 18 3 rfl <| fld_high 14 4 rfl <| fld_high 10 4 rfl <| fld_low 7 3 rfl <| fld_whole _
  have f18_4 : fld x 18 4 = (BitVec.ofFin (w := 4) a) := hx ▸ fld_high 29 3 rfl <| fld_high 25 4 rfl <| fld_high 21 4 rfl <| fld_high 18 3 rfl <| fld_high 14 4 rfl <| fld_low 10 4 rfl <| fld_whole _
  have f14_4 : fld x 14 4 = (BitVec.ofFin (w := 4) b) := hx ▸ fld_high 29 3 rfl <| fld_high 25 4 rfl <| fld_high 21 4 rfl <| fld_high 18 3 rfl <| fld_low 14 4 rfl <| fld_whole _
  have f11_3 : fld x 11 3 = (BitVec.ofFin (w := 3) k) := hx ▸ fld_high 29 3 rfl <| fld_high 25 4 rfl <| fld_high 21 4 rfl <| fld_low 18 3 rfl <| fld_whole _
  rw [decode, f26_6]
  show decodeMajor29 x = _
  rw [decodeMajor29, f0_3]
  show mbz (fld x 25 1 == 0 && fld x 7 4 == 0) (ofOption (VTy.ofCode (fld x 3 4)) fun t => .vcmpLe (fld x 22 3).toFin (fld x 18 4).toFin (fld x 14 4).toFin (fld x 11 3).toFin t) = _
  rw [f25_1, f7_4, f3_4, f22_3, f18_4, f14_4, f11_3, VTy.ofCode_code t]
  exact accept_wellFormed wf
theorem Laws.Encoding.vcmpGt (d : KReg) (a : VReg) (b : VReg) (k : KReg) (t : VTy) : Laws.Encoding.Statement (.vcmpGt d a b k t) := by
  intro x wf h
  have hx : x = (41 : BitVec 6) ++ (0 : BitVec 1) ++ BitVec.ofFin (w := 3) d ++ BitVec.ofFin (w := 4) a ++ BitVec.ofFin (w := 4) b ++ BitVec.ofFin (w := 3) k ++ (0 : BitVec 4) ++ t.code ++ (4 : BitVec 3) := (Option.some.inj h).symm
  have f26_6 : fld x 26 6 = (41 : BitVec 6) := hx ▸ fld_high 29 3 rfl <| fld_high 25 4 rfl <| fld_high 21 4 rfl <| fld_high 18 3 rfl <| fld_high 14 4 rfl <| fld_high 10 4 rfl <| fld_high 7 3 rfl <| fld_high 6 1 rfl <| rfl
  have f0_3 : fld x 0 3 = (4 : BitVec 3) := hx ▸ fld_low 29 3 rfl <| rfl
  have f25_1 : fld x 25 1 = (0 : BitVec 1) := hx ▸ fld_high 29 3 rfl <| fld_high 25 4 rfl <| fld_high 21 4 rfl <| fld_high 18 3 rfl <| fld_high 14 4 rfl <| fld_high 10 4 rfl <| fld_high 7 3 rfl <| fld_low 6 1 rfl <| rfl
  have f7_4 : fld x 7 4 = (0 : BitVec 4) := hx ▸ fld_high 29 3 rfl <| fld_high 25 4 rfl <| fld_low 21 4 rfl <| rfl
  have f3_4 : fld x 3 4 = t.code := hx ▸ fld_high 29 3 rfl <| fld_low 25 4 rfl <| fld_whole _
  have f22_3 : fld x 22 3 = (BitVec.ofFin (w := 3) d) := hx ▸ fld_high 29 3 rfl <| fld_high 25 4 rfl <| fld_high 21 4 rfl <| fld_high 18 3 rfl <| fld_high 14 4 rfl <| fld_high 10 4 rfl <| fld_low 7 3 rfl <| fld_whole _
  have f18_4 : fld x 18 4 = (BitVec.ofFin (w := 4) a) := hx ▸ fld_high 29 3 rfl <| fld_high 25 4 rfl <| fld_high 21 4 rfl <| fld_high 18 3 rfl <| fld_high 14 4 rfl <| fld_low 10 4 rfl <| fld_whole _
  have f14_4 : fld x 14 4 = (BitVec.ofFin (w := 4) b) := hx ▸ fld_high 29 3 rfl <| fld_high 25 4 rfl <| fld_high 21 4 rfl <| fld_high 18 3 rfl <| fld_low 14 4 rfl <| fld_whole _
  have f11_3 : fld x 11 3 = (BitVec.ofFin (w := 3) k) := hx ▸ fld_high 29 3 rfl <| fld_high 25 4 rfl <| fld_high 21 4 rfl <| fld_low 18 3 rfl <| fld_whole _
  rw [decode, f26_6]
  show decodeMajor29 x = _
  rw [decodeMajor29, f0_3]
  show mbz (fld x 25 1 == 0 && fld x 7 4 == 0) (ofOption (VTy.ofCode (fld x 3 4)) fun t => .vcmpGt (fld x 22 3).toFin (fld x 18 4).toFin (fld x 14 4).toFin (fld x 11 3).toFin t) = _
  rw [f25_1, f7_4, f3_4, f22_3, f18_4, f14_4, f11_3, VTy.ofCode_code t]
  exact accept_wellFormed wf
theorem Laws.Encoding.vcmpGe (d : KReg) (a : VReg) (b : VReg) (k : KReg) (t : VTy) : Laws.Encoding.Statement (.vcmpGe d a b k t) := by
  intro x wf h
  have hx : x = (41 : BitVec 6) ++ (0 : BitVec 1) ++ BitVec.ofFin (w := 3) d ++ BitVec.ofFin (w := 4) a ++ BitVec.ofFin (w := 4) b ++ BitVec.ofFin (w := 3) k ++ (0 : BitVec 4) ++ t.code ++ (5 : BitVec 3) := (Option.some.inj h).symm
  have f26_6 : fld x 26 6 = (41 : BitVec 6) := hx ▸ fld_high 29 3 rfl <| fld_high 25 4 rfl <| fld_high 21 4 rfl <| fld_high 18 3 rfl <| fld_high 14 4 rfl <| fld_high 10 4 rfl <| fld_high 7 3 rfl <| fld_high 6 1 rfl <| rfl
  have f0_3 : fld x 0 3 = (5 : BitVec 3) := hx ▸ fld_low 29 3 rfl <| rfl
  have f25_1 : fld x 25 1 = (0 : BitVec 1) := hx ▸ fld_high 29 3 rfl <| fld_high 25 4 rfl <| fld_high 21 4 rfl <| fld_high 18 3 rfl <| fld_high 14 4 rfl <| fld_high 10 4 rfl <| fld_high 7 3 rfl <| fld_low 6 1 rfl <| rfl
  have f7_4 : fld x 7 4 = (0 : BitVec 4) := hx ▸ fld_high 29 3 rfl <| fld_high 25 4 rfl <| fld_low 21 4 rfl <| rfl
  have f3_4 : fld x 3 4 = t.code := hx ▸ fld_high 29 3 rfl <| fld_low 25 4 rfl <| fld_whole _
  have f22_3 : fld x 22 3 = (BitVec.ofFin (w := 3) d) := hx ▸ fld_high 29 3 rfl <| fld_high 25 4 rfl <| fld_high 21 4 rfl <| fld_high 18 3 rfl <| fld_high 14 4 rfl <| fld_high 10 4 rfl <| fld_low 7 3 rfl <| fld_whole _
  have f18_4 : fld x 18 4 = (BitVec.ofFin (w := 4) a) := hx ▸ fld_high 29 3 rfl <| fld_high 25 4 rfl <| fld_high 21 4 rfl <| fld_high 18 3 rfl <| fld_high 14 4 rfl <| fld_low 10 4 rfl <| fld_whole _
  have f14_4 : fld x 14 4 = (BitVec.ofFin (w := 4) b) := hx ▸ fld_high 29 3 rfl <| fld_high 25 4 rfl <| fld_high 21 4 rfl <| fld_high 18 3 rfl <| fld_low 14 4 rfl <| fld_whole _
  have f11_3 : fld x 11 3 = (BitVec.ofFin (w := 3) k) := hx ▸ fld_high 29 3 rfl <| fld_high 25 4 rfl <| fld_high 21 4 rfl <| fld_low 18 3 rfl <| fld_whole _
  rw [decode, f26_6]
  show decodeMajor29 x = _
  rw [decodeMajor29, f0_3]
  show mbz (fld x 25 1 == 0 && fld x 7 4 == 0) (ofOption (VTy.ofCode (fld x 3 4)) fun t => .vcmpGe (fld x 22 3).toFin (fld x 18 4).toFin (fld x 14 4).toFin (fld x 11 3).toFin t) = _
  rw [f25_1, f7_4, f3_4, f22_3, f18_4, f14_4, f11_3, VTy.ofCode_code t]
  exact accept_wellFormed wf
theorem Laws.Encoding.vsel (d : VReg) (a : VReg) (b : VReg) (k : KReg) (t : VTy) : Laws.Encoding.Statement (.vsel d a b k t) := by
  intro x wf h
  have hx : x = (42 : BitVec 6) ++ BitVec.ofFin (w := 4) d ++ BitVec.ofFin (w := 4) a ++ BitVec.ofFin (w := 4) b ++ BitVec.ofFin (w := 3) k ++ (0 : BitVec 4) ++ t.code ++ (0 : BitVec 3) := (Option.some.inj h).symm
  have f26_6 : fld x 26 6 = (42 : BitVec 6) := hx ▸ fld_high 29 3 rfl <| fld_high 25 4 rfl <| fld_high 21 4 rfl <| fld_high 18 3 rfl <| fld_high 14 4 rfl <| fld_high 10 4 rfl <| fld_high 6 4 rfl <| rfl
  have f0_3 : fld x 0 3 = (0 : BitVec 3) := hx ▸ fld_low 29 3 rfl <| rfl
  have f7_4 : fld x 7 4 = (0 : BitVec 4) := hx ▸ fld_high 29 3 rfl <| fld_high 25 4 rfl <| fld_low 21 4 rfl <| rfl
  have f3_4 : fld x 3 4 = t.code := hx ▸ fld_high 29 3 rfl <| fld_low 25 4 rfl <| fld_whole _
  have f22_4 : fld x 22 4 = (BitVec.ofFin (w := 4) d) := hx ▸ fld_high 29 3 rfl <| fld_high 25 4 rfl <| fld_high 21 4 rfl <| fld_high 18 3 rfl <| fld_high 14 4 rfl <| fld_high 10 4 rfl <| fld_low 6 4 rfl <| fld_whole _
  have f18_4 : fld x 18 4 = (BitVec.ofFin (w := 4) a) := hx ▸ fld_high 29 3 rfl <| fld_high 25 4 rfl <| fld_high 21 4 rfl <| fld_high 18 3 rfl <| fld_high 14 4 rfl <| fld_low 10 4 rfl <| fld_whole _
  have f14_4 : fld x 14 4 = (BitVec.ofFin (w := 4) b) := hx ▸ fld_high 29 3 rfl <| fld_high 25 4 rfl <| fld_high 21 4 rfl <| fld_high 18 3 rfl <| fld_low 14 4 rfl <| fld_whole _
  have f11_3 : fld x 11 3 = (BitVec.ofFin (w := 3) k) := hx ▸ fld_high 29 3 rfl <| fld_high 25 4 rfl <| fld_high 21 4 rfl <| fld_low 18 3 rfl <| fld_whole _
  rw [decode, f26_6]
  show decodeMajor2A x = _
  rw [decodeMajor2A, f0_3]
  show mbz (fld x 7 4 == 0) (ofOption (VTy.ofCode (fld x 3 4)) fun t => .vsel (fld x 22 4).toFin (fld x 18 4).toFin (fld x 14 4).toFin (fld x 11 3).toFin t) = _
  rw [f7_4, f3_4, f22_4, f18_4, f14_4, f11_3, VTy.ofCode_code t]
  exact accept_wellFormed wf
theorem Laws.Encoding.vbcast (d : VReg) (g : GReg) (k : KReg) (t : VTy) : Laws.Encoding.Statement (.vbcast d g k t) := by
  intro x wf h
  have hx : x = (42 : BitVec 6) ++ BitVec.ofFin (w := 4) d ++ BitVec.ofFin (w := 5) g ++ (0 : BitVec 3) ++ BitVec.ofFin (w := 3) k ++ (0 : BitVec 4) ++ t.code ++ (1 : BitVec 3) := (Option.some.inj h).symm
  have f26_6 : fld x 26 6 = (42 : BitVec 6) := hx ▸ fld_high 29 3 rfl <| fld_high 25 4 rfl <| fld_high 21 4 rfl <| fld_high 18 3 rfl <| fld_high 15 3 rfl <| fld_high 10 5 rfl <| fld_high 6 4 rfl <| rfl
  have f0_3 : fld x 0 3 = (1 : BitVec 3) := hx ▸ fld_low 29 3 rfl <| rfl
  have f14_3 : fld x 14 3 = (0 : BitVec 3) := hx ▸ fld_high 29 3 rfl <| fld_high 25 4 rfl <| fld_high 21 4 rfl <| fld_high 18 3 rfl <| fld_low 15 3 rfl <| rfl
  have f7_4 : fld x 7 4 = (0 : BitVec 4) := hx ▸ fld_high 29 3 rfl <| fld_high 25 4 rfl <| fld_low 21 4 rfl <| rfl
  have f3_4 : fld x 3 4 = t.code := hx ▸ fld_high 29 3 rfl <| fld_low 25 4 rfl <| fld_whole _
  have f22_4 : fld x 22 4 = (BitVec.ofFin (w := 4) d) := hx ▸ fld_high 29 3 rfl <| fld_high 25 4 rfl <| fld_high 21 4 rfl <| fld_high 18 3 rfl <| fld_high 15 3 rfl <| fld_high 10 5 rfl <| fld_low 6 4 rfl <| fld_whole _
  have f17_5 : fld x 17 5 = (BitVec.ofFin (w := 5) g) := hx ▸ fld_high 29 3 rfl <| fld_high 25 4 rfl <| fld_high 21 4 rfl <| fld_high 18 3 rfl <| fld_high 15 3 rfl <| fld_low 10 5 rfl <| fld_whole _
  have f11_3 : fld x 11 3 = (BitVec.ofFin (w := 3) k) := hx ▸ fld_high 29 3 rfl <| fld_high 25 4 rfl <| fld_high 21 4 rfl <| fld_low 18 3 rfl <| fld_whole _
  rw [decode, f26_6]
  show decodeMajor2A x = _
  rw [decodeMajor2A, f0_3]
  show mbz (fld x 14 3 == 0 && fld x 7 4 == 0) (ofOption (VTy.ofCode (fld x 3 4)) fun t => .vbcast (fld x 22 4).toFin (fld x 17 5).toFin (fld x 11 3).toFin t) = _
  rw [f14_3, f7_4, f3_4, f22_4, f17_5, f11_3, VTy.ofCode_code t]
  exact accept_wellFormed wf
theorem Laws.Encoding.vins (d : VReg) (g : GReg) (l : BitVec 6) (t : VTy) : Laws.Encoding.Statement (.vins d g l t) := by
  intro x wf h
  have hx : x = (42 : BitVec 6) ++ BitVec.ofFin (w := 4) d ++ BitVec.ofFin (w := 5) g ++ l ++ (0 : BitVec 4) ++ t.code ++ (2 : BitVec 3) := (Option.some.inj h).symm
  have f26_6 : fld x 26 6 = (42 : BitVec 6) := hx ▸ fld_high 29 3 rfl <| fld_high 25 4 rfl <| fld_high 21 4 rfl <| fld_high 15 6 rfl <| fld_high 10 5 rfl <| fld_high 6 4 rfl <| rfl
  have f0_3 : fld x 0 3 = (2 : BitVec 3) := hx ▸ fld_low 29 3 rfl <| rfl
  have f7_4 : fld x 7 4 = (0 : BitVec 4) := hx ▸ fld_high 29 3 rfl <| fld_high 25 4 rfl <| fld_low 21 4 rfl <| rfl
  have f3_4 : fld x 3 4 = t.code := hx ▸ fld_high 29 3 rfl <| fld_low 25 4 rfl <| fld_whole _
  have f22_4 : fld x 22 4 = (BitVec.ofFin (w := 4) d) := hx ▸ fld_high 29 3 rfl <| fld_high 25 4 rfl <| fld_high 21 4 rfl <| fld_high 15 6 rfl <| fld_high 10 5 rfl <| fld_low 6 4 rfl <| fld_whole _
  have f17_5 : fld x 17 5 = (BitVec.ofFin (w := 5) g) := hx ▸ fld_high 29 3 rfl <| fld_high 25 4 rfl <| fld_high 21 4 rfl <| fld_high 15 6 rfl <| fld_low 10 5 rfl <| fld_whole _
  have f11_6 : fld x 11 6 = l := hx ▸ fld_high 29 3 rfl <| fld_high 25 4 rfl <| fld_high 21 4 rfl <| fld_low 15 6 rfl <| fld_whole _
  rw [decode, f26_6]
  show decodeMajor2A x = _
  rw [decodeMajor2A, f0_3]
  show mbz (fld x 7 4 == 0) (ofOption (VTy.ofCode (fld x 3 4)) fun t => .vins (fld x 22 4).toFin (fld x 17 5).toFin (fld x 11 6) t) = _
  rw [f7_4, f3_4, f22_4, f17_5, f11_6, VTy.ofCode_code t]
  exact accept_wellFormed wf
theorem Laws.Encoding.vext (g : GReg) (a : VReg) (l : BitVec 6) (t : VTy) : Laws.Encoding.Statement (.vext g a l t) := by
  intro x wf h
  have hx : x = (42 : BitVec 6) ++ BitVec.ofFin (w := 5) g ++ BitVec.ofFin (w := 4) a ++ l ++ (0 : BitVec 4) ++ t.code ++ (3 : BitVec 3) := (Option.some.inj h).symm
  have f26_6 : fld x 26 6 = (42 : BitVec 6) := hx ▸ fld_high 29 3 rfl <| fld_high 25 4 rfl <| fld_high 21 4 rfl <| fld_high 15 6 rfl <| fld_high 11 4 rfl <| fld_high 6 5 rfl <| rfl
  have f0_3 : fld x 0 3 = (3 : BitVec 3) := hx ▸ fld_low 29 3 rfl <| rfl
  have f7_4 : fld x 7 4 = (0 : BitVec 4) := hx ▸ fld_high 29 3 rfl <| fld_high 25 4 rfl <| fld_low 21 4 rfl <| rfl
  have f3_4 : fld x 3 4 = t.code := hx ▸ fld_high 29 3 rfl <| fld_low 25 4 rfl <| fld_whole _
  have f21_5 : fld x 21 5 = (BitVec.ofFin (w := 5) g) := hx ▸ fld_high 29 3 rfl <| fld_high 25 4 rfl <| fld_high 21 4 rfl <| fld_high 15 6 rfl <| fld_high 11 4 rfl <| fld_low 6 5 rfl <| fld_whole _
  have f17_4 : fld x 17 4 = (BitVec.ofFin (w := 4) a) := hx ▸ fld_high 29 3 rfl <| fld_high 25 4 rfl <| fld_high 21 4 rfl <| fld_high 15 6 rfl <| fld_low 11 4 rfl <| fld_whole _
  have f11_6 : fld x 11 6 = l := hx ▸ fld_high 29 3 rfl <| fld_high 25 4 rfl <| fld_high 21 4 rfl <| fld_low 15 6 rfl <| fld_whole _
  rw [decode, f26_6]
  show decodeMajor2A x = _
  rw [decodeMajor2A, f0_3]
  show mbz (fld x 7 4 == 0) (ofOption (VTy.ofCode (fld x 3 4)) fun t => .vext (fld x 21 5).toFin (fld x 17 4).toFin (fld x 11 6) t) = _
  rw [f7_4, f3_4, f21_5, f17_4, f11_6, VTy.ofCode_code t]
  exact accept_wellFormed wf
theorem Laws.Encoding.vperm (d : VReg) (a : VReg) (b : VReg) (k : KReg) (t : VTy) : Laws.Encoding.Statement (.vperm d a b k t) := by
  intro x wf h
  have hx : x = (42 : BitVec 6) ++ BitVec.ofFin (w := 4) d ++ BitVec.ofFin (w := 4) a ++ BitVec.ofFin (w := 4) b ++ BitVec.ofFin (w := 3) k ++ (0 : BitVec 4) ++ t.code ++ (4 : BitVec 3) := (Option.some.inj h).symm
  have f26_6 : fld x 26 6 = (42 : BitVec 6) := hx ▸ fld_high 29 3 rfl <| fld_high 25 4 rfl <| fld_high 21 4 rfl <| fld_high 18 3 rfl <| fld_high 14 4 rfl <| fld_high 10 4 rfl <| fld_high 6 4 rfl <| rfl
  have f0_3 : fld x 0 3 = (4 : BitVec 3) := hx ▸ fld_low 29 3 rfl <| rfl
  have f7_4 : fld x 7 4 = (0 : BitVec 4) := hx ▸ fld_high 29 3 rfl <| fld_high 25 4 rfl <| fld_low 21 4 rfl <| rfl
  have f3_4 : fld x 3 4 = t.code := hx ▸ fld_high 29 3 rfl <| fld_low 25 4 rfl <| fld_whole _
  have f22_4 : fld x 22 4 = (BitVec.ofFin (w := 4) d) := hx ▸ fld_high 29 3 rfl <| fld_high 25 4 rfl <| fld_high 21 4 rfl <| fld_high 18 3 rfl <| fld_high 14 4 rfl <| fld_high 10 4 rfl <| fld_low 6 4 rfl <| fld_whole _
  have f18_4 : fld x 18 4 = (BitVec.ofFin (w := 4) a) := hx ▸ fld_high 29 3 rfl <| fld_high 25 4 rfl <| fld_high 21 4 rfl <| fld_high 18 3 rfl <| fld_high 14 4 rfl <| fld_low 10 4 rfl <| fld_whole _
  have f14_4 : fld x 14 4 = (BitVec.ofFin (w := 4) b) := hx ▸ fld_high 29 3 rfl <| fld_high 25 4 rfl <| fld_high 21 4 rfl <| fld_high 18 3 rfl <| fld_low 14 4 rfl <| fld_whole _
  have f11_3 : fld x 11 3 = (BitVec.ofFin (w := 3) k) := hx ▸ fld_high 29 3 rfl <| fld_high 25 4 rfl <| fld_high 21 4 rfl <| fld_low 18 3 rfl <| fld_whole _
  rw [decode, f26_6]
  show decodeMajor2A x = _
  rw [decodeMajor2A, f0_3]
  show mbz (fld x 7 4 == 0) (ofOption (VTy.ofCode (fld x 3 4)) fun t => .vperm (fld x 22 4).toFin (fld x 18 4).toFin (fld x 14 4).toFin (fld x 11 3).toFin t) = _
  rw [f7_4, f3_4, f22_4, f18_4, f14_4, f11_3, VTy.ofCode_code t]
  exact accept_wellFormed wf
theorem Laws.Encoding.vslideUp (d : VReg) (a : VReg) (n : BitVec 6) (t : VTy) : Laws.Encoding.Statement (.vslideUp d a n t) := by
  intro x wf h
  have hx : x = (42 : BitVec 6) ++ BitVec.ofFin (w := 4) d ++ BitVec.ofFin (w := 4) a ++ n ++ (0 : BitVec 5) ++ t.code ++ (5 : BitVec 3) := (Option.some.inj h).symm
  have f26_6 : fld x 26 6 = (42 : BitVec 6) := hx ▸ fld_high 29 3 rfl <| fld_high 25 4 rfl <| fld_high 20 5 rfl <| fld_high 14 6 rfl <| fld_high 10 4 rfl <| fld_high 6 4 rfl <| rfl
  have f0_3 : fld x 0 3 = (5 : BitVec 3) := hx ▸ fld_low 29 3 rfl <| rfl
  have f11_1 : fld x 11 1 = (0 : BitVec 1) := hx ▸ fld_high 29 3 rfl <| fld_high 25 4 rfl <| fld_low 20 5 rfl <| rfl
  have f7_4 : fld x 7 4 = (0 : BitVec 4) := hx ▸ fld_high 29 3 rfl <| fld_high 25 4 rfl <| fld_low 20 5 rfl <| rfl
  have f3_4 : fld x 3 4 = t.code := hx ▸ fld_high 29 3 rfl <| fld_low 25 4 rfl <| fld_whole _
  have f22_4 : fld x 22 4 = (BitVec.ofFin (w := 4) d) := hx ▸ fld_high 29 3 rfl <| fld_high 25 4 rfl <| fld_high 20 5 rfl <| fld_high 14 6 rfl <| fld_high 10 4 rfl <| fld_low 6 4 rfl <| fld_whole _
  have f18_4 : fld x 18 4 = (BitVec.ofFin (w := 4) a) := hx ▸ fld_high 29 3 rfl <| fld_high 25 4 rfl <| fld_high 20 5 rfl <| fld_high 14 6 rfl <| fld_low 10 4 rfl <| fld_whole _
  have f12_6 : fld x 12 6 = n := hx ▸ fld_high 29 3 rfl <| fld_high 25 4 rfl <| fld_high 20 5 rfl <| fld_low 14 6 rfl <| fld_whole _
  rw [decode, f26_6]
  show decodeMajor2A x = _
  rw [decodeMajor2A, f0_3]
  rw [f11_1]
  show mbz (fld x 7 4 == 0) (ofOption (VTy.ofCode (fld x 3 4)) fun t => .vslideUp (fld x 22 4).toFin (fld x 18 4).toFin (fld x 12 6) t) = _
  rw [f7_4, f3_4, f22_4, f18_4, f12_6, VTy.ofCode_code t]
  exact accept_wellFormed wf
theorem Laws.Encoding.vslideDown (d : VReg) (a : VReg) (n : BitVec 6) (t : VTy) : Laws.Encoding.Statement (.vslideDown d a n t) := by
  intro x wf h
  have hx : x = (42 : BitVec 6) ++ BitVec.ofFin (w := 4) d ++ BitVec.ofFin (w := 4) a ++ n ++ (16 : BitVec 5) ++ t.code ++ (5 : BitVec 3) := (Option.some.inj h).symm
  have f26_6 : fld x 26 6 = (42 : BitVec 6) := hx ▸ fld_high 29 3 rfl <| fld_high 25 4 rfl <| fld_high 20 5 rfl <| fld_high 14 6 rfl <| fld_high 10 4 rfl <| fld_high 6 4 rfl <| rfl
  have f0_3 : fld x 0 3 = (5 : BitVec 3) := hx ▸ fld_low 29 3 rfl <| rfl
  have f11_1 : fld x 11 1 = (1 : BitVec 1) := hx ▸ fld_high 29 3 rfl <| fld_high 25 4 rfl <| fld_low 20 5 rfl <| rfl
  have f7_4 : fld x 7 4 = (0 : BitVec 4) := hx ▸ fld_high 29 3 rfl <| fld_high 25 4 rfl <| fld_low 20 5 rfl <| rfl
  have f3_4 : fld x 3 4 = t.code := hx ▸ fld_high 29 3 rfl <| fld_low 25 4 rfl <| fld_whole _
  have f22_4 : fld x 22 4 = (BitVec.ofFin (w := 4) d) := hx ▸ fld_high 29 3 rfl <| fld_high 25 4 rfl <| fld_high 20 5 rfl <| fld_high 14 6 rfl <| fld_high 10 4 rfl <| fld_low 6 4 rfl <| fld_whole _
  have f18_4 : fld x 18 4 = (BitVec.ofFin (w := 4) a) := hx ▸ fld_high 29 3 rfl <| fld_high 25 4 rfl <| fld_high 20 5 rfl <| fld_high 14 6 rfl <| fld_low 10 4 rfl <| fld_whole _
  have f12_6 : fld x 12 6 = n := hx ▸ fld_high 29 3 rfl <| fld_high 25 4 rfl <| fld_high 20 5 rfl <| fld_low 14 6 rfl <| fld_whole _
  rw [decode, f26_6]
  show decodeMajor2A x = _
  rw [decodeMajor2A, f0_3]
  rw [f11_1]
  show mbz (fld x 7 4 == 0) (ofOption (VTy.ofCode (fld x 3 4)) fun t => .vslideDown (fld x 22 4).toFin (fld x 18 4).toFin (fld x 12 6) t) = _
  rw [f7_4, f3_4, f22_4, f18_4, f12_6, VTy.ofCode_code t]
  exact accept_wellFormed wf
theorem Laws.Encoding.vmov (d : VReg) (a : VReg) (k : KReg) : Laws.Encoding.Statement (.vmov d a k) := by
  intro x wf h
  have hx : x = (42 : BitVec 6) ++ BitVec.ofFin (w := 4) d ++ BitVec.ofFin (w := 4) a ++ (0 : BitVec 4) ++ BitVec.ofFin (w := 3) k ++ (6 : BitVec 11) := (Option.some.inj h).symm
  have f26_6 : fld x 26 6 = (42 : BitVec 6) := hx ▸ fld_high 21 11 rfl <| fld_high 18 3 rfl <| fld_high 14 4 rfl <| fld_high 10 4 rfl <| fld_high 6 4 rfl <| rfl
  have f0_3 : fld x 0 3 = (6 : BitVec 3) := hx ▸ fld_low 21 11 rfl <| rfl
  have f14_4 : fld x 14 4 = (0 : BitVec 4) := hx ▸ fld_high 21 11 rfl <| fld_high 18 3 rfl <| fld_low 14 4 rfl <| rfl
  have f3_8 : fld x 3 8 = (0 : BitVec 8) := hx ▸ fld_low 21 11 rfl <| rfl
  have f22_4 : fld x 22 4 = (BitVec.ofFin (w := 4) d) := hx ▸ fld_high 21 11 rfl <| fld_high 18 3 rfl <| fld_high 14 4 rfl <| fld_high 10 4 rfl <| fld_low 6 4 rfl <| fld_whole _
  have f18_4 : fld x 18 4 = (BitVec.ofFin (w := 4) a) := hx ▸ fld_high 21 11 rfl <| fld_high 18 3 rfl <| fld_high 14 4 rfl <| fld_low 10 4 rfl <| fld_whole _
  have f11_3 : fld x 11 3 = (BitVec.ofFin (w := 3) k) := hx ▸ fld_high 21 11 rfl <| fld_low 18 3 rfl <| fld_whole _
  rw [decode, f26_6]
  show decodeMajor2A x = _
  rw [decodeMajor2A, f0_3]
  show mbz (fld x 14 4 == 0 && fld x 3 8 == 0) (accept (.vmov (fld x 22 4).toFin (fld x 18 4).toFin (fld x 11 3).toFin)) = _
  rw [f14_4, f3_8, f22_4, f18_4, f11_3]
  exact accept_wellFormed wf
theorem Laws.Encoding.vrsum (d : VReg) (a : VReg) (k : KReg) (t : VTy) : Laws.Encoding.Statement (.vrsum d a k t) := by
  intro x wf h
  have hx : x = (43 : BitVec 6) ++ BitVec.ofFin (w := 4) d ++ BitVec.ofFin (w := 4) a ++ (0 : BitVec 4) ++ BitVec.ofFin (w := 3) k ++ (0 : BitVec 5) ++ t.code ++ (0 : BitVec 2) := (Option.some.inj h).symm
  have f26_6 : fld x 26 6 = (43 : BitVec 6) := hx ▸ fld_high 30 2 rfl <| fld_high 26 4 rfl <| fld_high 21 5 rfl <| fld_high 18 3 rfl <| fld_high 14 4 rfl <| fld_high 10 4 rfl <| fld_high 6 4 rfl <| rfl
  have f0_2 : fld x 0 2 = (0 : BitVec 2) := hx ▸ fld_low 30 2 rfl <| rfl
  have f14_4 : fld x 14 4 = (0 : BitVec 4) := hx ▸ fld_high 30 2 rfl <| fld_high 26 4 rfl <| fld_high 21 5 rfl <| fld_high 18 3 rfl <| fld_low 14 4 rfl <| rfl
  have f6_5 : fld x 6 5 = (0 : BitVec 5) := hx ▸ fld_high 30 2 rfl <| fld_high 26 4 rfl <| fld_low 21 5 rfl <| rfl
  have f2_4 : fld x 2 4 = t.code := hx ▸ fld_high 30 2 rfl <| fld_low 26 4 rfl <| fld_whole _
  have f22_4 : fld x 22 4 = (BitVec.ofFin (w := 4) d) := hx ▸ fld_high 30 2 rfl <| fld_high 26 4 rfl <| fld_high 21 5 rfl <| fld_high 18 3 rfl <| fld_high 14 4 rfl <| fld_high 10 4 rfl <| fld_low 6 4 rfl <| fld_whole _
  have f18_4 : fld x 18 4 = (BitVec.ofFin (w := 4) a) := hx ▸ fld_high 30 2 rfl <| fld_high 26 4 rfl <| fld_high 21 5 rfl <| fld_high 18 3 rfl <| fld_high 14 4 rfl <| fld_low 10 4 rfl <| fld_whole _
  have f11_3 : fld x 11 3 = (BitVec.ofFin (w := 3) k) := hx ▸ fld_high 30 2 rfl <| fld_high 26 4 rfl <| fld_high 21 5 rfl <| fld_low 18 3 rfl <| fld_whole _
  rw [decode, f26_6]
  show decodeMajor2B x = _
  rw [decodeMajor2B, f0_2]
  show mbz (fld x 14 4 == 0 && fld x 6 5 == 0) (ofOption (VTy.ofCode (fld x 2 4)) fun t => .vrsum (fld x 22 4).toFin (fld x 18 4).toFin (fld x 11 3).toFin t) = _
  rw [f14_4, f6_5, f2_4, f22_4, f18_4, f11_3, VTy.ofCode_code t]
  exact accept_wellFormed wf
theorem Laws.Encoding.vrmax (d : VReg) (a : VReg) (k : KReg) (t : VTy) : Laws.Encoding.Statement (.vrmax d a k t) := by
  intro x wf h
  have hx : x = (43 : BitVec 6) ++ BitVec.ofFin (w := 4) d ++ BitVec.ofFin (w := 4) a ++ (0 : BitVec 4) ++ BitVec.ofFin (w := 3) k ++ (0 : BitVec 5) ++ t.code ++ (1 : BitVec 2) := (Option.some.inj h).symm
  have f26_6 : fld x 26 6 = (43 : BitVec 6) := hx ▸ fld_high 30 2 rfl <| fld_high 26 4 rfl <| fld_high 21 5 rfl <| fld_high 18 3 rfl <| fld_high 14 4 rfl <| fld_high 10 4 rfl <| fld_high 6 4 rfl <| rfl
  have f0_2 : fld x 0 2 = (1 : BitVec 2) := hx ▸ fld_low 30 2 rfl <| rfl
  have f14_4 : fld x 14 4 = (0 : BitVec 4) := hx ▸ fld_high 30 2 rfl <| fld_high 26 4 rfl <| fld_high 21 5 rfl <| fld_high 18 3 rfl <| fld_low 14 4 rfl <| rfl
  have f6_5 : fld x 6 5 = (0 : BitVec 5) := hx ▸ fld_high 30 2 rfl <| fld_high 26 4 rfl <| fld_low 21 5 rfl <| rfl
  have f2_4 : fld x 2 4 = t.code := hx ▸ fld_high 30 2 rfl <| fld_low 26 4 rfl <| fld_whole _
  have f22_4 : fld x 22 4 = (BitVec.ofFin (w := 4) d) := hx ▸ fld_high 30 2 rfl <| fld_high 26 4 rfl <| fld_high 21 5 rfl <| fld_high 18 3 rfl <| fld_high 14 4 rfl <| fld_high 10 4 rfl <| fld_low 6 4 rfl <| fld_whole _
  have f18_4 : fld x 18 4 = (BitVec.ofFin (w := 4) a) := hx ▸ fld_high 30 2 rfl <| fld_high 26 4 rfl <| fld_high 21 5 rfl <| fld_high 18 3 rfl <| fld_high 14 4 rfl <| fld_low 10 4 rfl <| fld_whole _
  have f11_3 : fld x 11 3 = (BitVec.ofFin (w := 3) k) := hx ▸ fld_high 30 2 rfl <| fld_high 26 4 rfl <| fld_high 21 5 rfl <| fld_low 18 3 rfl <| fld_whole _
  rw [decode, f26_6]
  show decodeMajor2B x = _
  rw [decodeMajor2B, f0_2]
  show mbz (fld x 14 4 == 0 && fld x 6 5 == 0) (ofOption (VTy.ofCode (fld x 2 4)) fun t => .vrmax (fld x 22 4).toFin (fld x 18 4).toFin (fld x 11 3).toFin t) = _
  rw [f14_4, f6_5, f2_4, f22_4, f18_4, f11_3, VTy.ofCode_code t]
  exact accept_wellFormed wf
theorem Laws.Encoding.vrmin (d : VReg) (a : VReg) (k : KReg) (t : VTy) : Laws.Encoding.Statement (.vrmin d a k t) := by
  intro x wf h
  have hx : x = (43 : BitVec 6) ++ BitVec.ofFin (w := 4) d ++ BitVec.ofFin (w := 4) a ++ (0 : BitVec 4) ++ BitVec.ofFin (w := 3) k ++ (0 : BitVec 5) ++ t.code ++ (2 : BitVec 2) := (Option.some.inj h).symm
  have f26_6 : fld x 26 6 = (43 : BitVec 6) := hx ▸ fld_high 30 2 rfl <| fld_high 26 4 rfl <| fld_high 21 5 rfl <| fld_high 18 3 rfl <| fld_high 14 4 rfl <| fld_high 10 4 rfl <| fld_high 6 4 rfl <| rfl
  have f0_2 : fld x 0 2 = (2 : BitVec 2) := hx ▸ fld_low 30 2 rfl <| rfl
  have f14_4 : fld x 14 4 = (0 : BitVec 4) := hx ▸ fld_high 30 2 rfl <| fld_high 26 4 rfl <| fld_high 21 5 rfl <| fld_high 18 3 rfl <| fld_low 14 4 rfl <| rfl
  have f6_5 : fld x 6 5 = (0 : BitVec 5) := hx ▸ fld_high 30 2 rfl <| fld_high 26 4 rfl <| fld_low 21 5 rfl <| rfl
  have f2_4 : fld x 2 4 = t.code := hx ▸ fld_high 30 2 rfl <| fld_low 26 4 rfl <| fld_whole _
  have f22_4 : fld x 22 4 = (BitVec.ofFin (w := 4) d) := hx ▸ fld_high 30 2 rfl <| fld_high 26 4 rfl <| fld_high 21 5 rfl <| fld_high 18 3 rfl <| fld_high 14 4 rfl <| fld_high 10 4 rfl <| fld_low 6 4 rfl <| fld_whole _
  have f18_4 : fld x 18 4 = (BitVec.ofFin (w := 4) a) := hx ▸ fld_high 30 2 rfl <| fld_high 26 4 rfl <| fld_high 21 5 rfl <| fld_high 18 3 rfl <| fld_high 14 4 rfl <| fld_low 10 4 rfl <| fld_whole _
  have f11_3 : fld x 11 3 = (BitVec.ofFin (w := 3) k) := hx ▸ fld_high 30 2 rfl <| fld_high 26 4 rfl <| fld_high 21 5 rfl <| fld_low 18 3 rfl <| fld_whole _
  rw [decode, f26_6]
  show decodeMajor2B x = _
  rw [decodeMajor2B, f0_2]
  show mbz (fld x 14 4 == 0 && fld x 6 5 == 0) (ofOption (VTy.ofCode (fld x 2 4)) fun t => .vrmin (fld x 22 4).toFin (fld x 18 4).toFin (fld x 11 3).toFin t) = _
  rw [f14_4, f6_5, f2_4, f22_4, f18_4, f11_3, VTy.ofCode_code t]
  exact accept_wellFormed wf
theorem Laws.Encoding.vcvtF64F32 (d : VReg) (a : VReg) (k : KReg) : Laws.Encoding.Statement (.vcvtF64F32 d a k) := by
  intro x wf h
  have hx : x = (44 : BitVec 6) ++ BitVec.ofFin (w := 4) d ++ BitVec.ofFin (w := 4) a ++ (0 : BitVec 4) ++ BitVec.ofFin (w := 3) k ++ (0 : BitVec 11) := (Option.some.inj h).symm
  have f26_6 : fld x 26 6 = (44 : BitVec 6) := hx ▸ fld_high 21 11 rfl <| fld_high 18 3 rfl <| fld_high 14 4 rfl <| fld_high 10 4 rfl <| fld_high 6 4 rfl <| rfl
  have f0_4 : fld x 0 4 = (0 : BitVec 4) := hx ▸ fld_low 21 11 rfl <| rfl
  have f14_4 : fld x 14 4 = (0 : BitVec 4) := hx ▸ fld_high 21 11 rfl <| fld_high 18 3 rfl <| fld_low 14 4 rfl <| rfl
  have f4_7 : fld x 4 7 = (0 : BitVec 7) := hx ▸ fld_low 21 11 rfl <| rfl
  have f22_4 : fld x 22 4 = (BitVec.ofFin (w := 4) d) := hx ▸ fld_high 21 11 rfl <| fld_high 18 3 rfl <| fld_high 14 4 rfl <| fld_high 10 4 rfl <| fld_low 6 4 rfl <| fld_whole _
  have f18_4 : fld x 18 4 = (BitVec.ofFin (w := 4) a) := hx ▸ fld_high 21 11 rfl <| fld_high 18 3 rfl <| fld_high 14 4 rfl <| fld_low 10 4 rfl <| fld_whole _
  have f11_3 : fld x 11 3 = (BitVec.ofFin (w := 3) k) := hx ▸ fld_high 21 11 rfl <| fld_low 18 3 rfl <| fld_whole _
  rw [decode, f26_6]
  show decodeMajor2C x = _
  rw [decodeMajor2C, f0_4]
  show mbz (fld x 14 4 == 0 && fld x 4 7 == 0) (accept (.vcvtF64F32 (fld x 22 4).toFin (fld x 18 4).toFin (fld x 11 3).toFin)) = _
  rw [f14_4, f4_7, f22_4, f18_4, f11_3]
  exact accept_wellFormed wf
theorem Laws.Encoding.vcvtF32F64 (d : VReg) (a : VReg) (k : KReg) : Laws.Encoding.Statement (.vcvtF32F64 d a k) := by
  intro x wf h
  have hx : x = (44 : BitVec 6) ++ BitVec.ofFin (w := 4) d ++ BitVec.ofFin (w := 4) a ++ (0 : BitVec 4) ++ BitVec.ofFin (w := 3) k ++ (1 : BitVec 11) := (Option.some.inj h).symm
  have f26_6 : fld x 26 6 = (44 : BitVec 6) := hx ▸ fld_high 21 11 rfl <| fld_high 18 3 rfl <| fld_high 14 4 rfl <| fld_high 10 4 rfl <| fld_high 6 4 rfl <| rfl
  have f0_4 : fld x 0 4 = (1 : BitVec 4) := hx ▸ fld_low 21 11 rfl <| rfl
  have f14_4 : fld x 14 4 = (0 : BitVec 4) := hx ▸ fld_high 21 11 rfl <| fld_high 18 3 rfl <| fld_low 14 4 rfl <| rfl
  have f4_7 : fld x 4 7 = (0 : BitVec 7) := hx ▸ fld_low 21 11 rfl <| rfl
  have f22_4 : fld x 22 4 = (BitVec.ofFin (w := 4) d) := hx ▸ fld_high 21 11 rfl <| fld_high 18 3 rfl <| fld_high 14 4 rfl <| fld_high 10 4 rfl <| fld_low 6 4 rfl <| fld_whole _
  have f18_4 : fld x 18 4 = (BitVec.ofFin (w := 4) a) := hx ▸ fld_high 21 11 rfl <| fld_high 18 3 rfl <| fld_high 14 4 rfl <| fld_low 10 4 rfl <| fld_whole _
  have f11_3 : fld x 11 3 = (BitVec.ofFin (w := 3) k) := hx ▸ fld_high 21 11 rfl <| fld_low 18 3 rfl <| fld_whole _
  rw [decode, f26_6]
  show decodeMajor2C x = _
  rw [decodeMajor2C, f0_4]
  show mbz (fld x 14 4 == 0 && fld x 4 7 == 0) (accept (.vcvtF32F64 (fld x 22 4).toFin (fld x 18 4).toFin (fld x 11 3).toFin)) = _
  rw [f14_4, f4_7, f22_4, f18_4, f11_3]
  exact accept_wellFormed wf
theorem Laws.Encoding.vcvtF32Bf16 (d : VReg) (a : VReg) (k : KReg) : Laws.Encoding.Statement (.vcvtF32Bf16 d a k) := by
  intro x wf h
  have hx : x = (44 : BitVec 6) ++ BitVec.ofFin (w := 4) d ++ BitVec.ofFin (w := 4) a ++ (0 : BitVec 4) ++ BitVec.ofFin (w := 3) k ++ (2 : BitVec 11) := (Option.some.inj h).symm
  have f26_6 : fld x 26 6 = (44 : BitVec 6) := hx ▸ fld_high 21 11 rfl <| fld_high 18 3 rfl <| fld_high 14 4 rfl <| fld_high 10 4 rfl <| fld_high 6 4 rfl <| rfl
  have f0_4 : fld x 0 4 = (2 : BitVec 4) := hx ▸ fld_low 21 11 rfl <| rfl
  have f14_4 : fld x 14 4 = (0 : BitVec 4) := hx ▸ fld_high 21 11 rfl <| fld_high 18 3 rfl <| fld_low 14 4 rfl <| rfl
  have f4_7 : fld x 4 7 = (0 : BitVec 7) := hx ▸ fld_low 21 11 rfl <| rfl
  have f22_4 : fld x 22 4 = (BitVec.ofFin (w := 4) d) := hx ▸ fld_high 21 11 rfl <| fld_high 18 3 rfl <| fld_high 14 4 rfl <| fld_high 10 4 rfl <| fld_low 6 4 rfl <| fld_whole _
  have f18_4 : fld x 18 4 = (BitVec.ofFin (w := 4) a) := hx ▸ fld_high 21 11 rfl <| fld_high 18 3 rfl <| fld_high 14 4 rfl <| fld_low 10 4 rfl <| fld_whole _
  have f11_3 : fld x 11 3 = (BitVec.ofFin (w := 3) k) := hx ▸ fld_high 21 11 rfl <| fld_low 18 3 rfl <| fld_whole _
  rw [decode, f26_6]
  show decodeMajor2C x = _
  rw [decodeMajor2C, f0_4]
  show mbz (fld x 14 4 == 0 && fld x 4 7 == 0) (accept (.vcvtF32Bf16 (fld x 22 4).toFin (fld x 18 4).toFin (fld x 11 3).toFin)) = _
  rw [f14_4, f4_7, f22_4, f18_4, f11_3]
  exact accept_wellFormed wf
theorem Laws.Encoding.vcvtBf16F32 (d : VReg) (a : VReg) (k : KReg) : Laws.Encoding.Statement (.vcvtBf16F32 d a k) := by
  intro x wf h
  have hx : x = (44 : BitVec 6) ++ BitVec.ofFin (w := 4) d ++ BitVec.ofFin (w := 4) a ++ (0 : BitVec 4) ++ BitVec.ofFin (w := 3) k ++ (3 : BitVec 11) := (Option.some.inj h).symm
  have f26_6 : fld x 26 6 = (44 : BitVec 6) := hx ▸ fld_high 21 11 rfl <| fld_high 18 3 rfl <| fld_high 14 4 rfl <| fld_high 10 4 rfl <| fld_high 6 4 rfl <| rfl
  have f0_4 : fld x 0 4 = (3 : BitVec 4) := hx ▸ fld_low 21 11 rfl <| rfl
  have f14_4 : fld x 14 4 = (0 : BitVec 4) := hx ▸ fld_high 21 11 rfl <| fld_high 18 3 rfl <| fld_low 14 4 rfl <| rfl
  have f4_7 : fld x 4 7 = (0 : BitVec 7) := hx ▸ fld_low 21 11 rfl <| rfl
  have f22_4 : fld x 22 4 = (BitVec.ofFin (w := 4) d) := hx ▸ fld_high 21 11 rfl <| fld_high 18 3 rfl <| fld_high 14 4 rfl <| fld_high 10 4 rfl <| fld_low 6 4 rfl <| fld_whole _
  have f18_4 : fld x 18 4 = (BitVec.ofFin (w := 4) a) := hx ▸ fld_high 21 11 rfl <| fld_high 18 3 rfl <| fld_high 14 4 rfl <| fld_low 10 4 rfl <| fld_whole _
  have f11_3 : fld x 11 3 = (BitVec.ofFin (w := 3) k) := hx ▸ fld_high 21 11 rfl <| fld_low 18 3 rfl <| fld_whole _
  rw [decode, f26_6]
  show decodeMajor2C x = _
  rw [decodeMajor2C, f0_4]
  show mbz (fld x 14 4 == 0 && fld x 4 7 == 0) (accept (.vcvtBf16F32 (fld x 22 4).toFin (fld x 18 4).toFin (fld x 11 3).toFin)) = _
  rw [f14_4, f4_7, f22_4, f18_4, f11_3]
  exact accept_wellFormed wf
theorem Laws.Encoding.vcvtF32F16 (d : VReg) (a : VReg) (k : KReg) : Laws.Encoding.Statement (.vcvtF32F16 d a k) := by
  intro x wf h
  have hx : x = (44 : BitVec 6) ++ BitVec.ofFin (w := 4) d ++ BitVec.ofFin (w := 4) a ++ (0 : BitVec 4) ++ BitVec.ofFin (w := 3) k ++ (4 : BitVec 11) := (Option.some.inj h).symm
  have f26_6 : fld x 26 6 = (44 : BitVec 6) := hx ▸ fld_high 21 11 rfl <| fld_high 18 3 rfl <| fld_high 14 4 rfl <| fld_high 10 4 rfl <| fld_high 6 4 rfl <| rfl
  have f0_4 : fld x 0 4 = (4 : BitVec 4) := hx ▸ fld_low 21 11 rfl <| rfl
  have f14_4 : fld x 14 4 = (0 : BitVec 4) := hx ▸ fld_high 21 11 rfl <| fld_high 18 3 rfl <| fld_low 14 4 rfl <| rfl
  have f4_7 : fld x 4 7 = (0 : BitVec 7) := hx ▸ fld_low 21 11 rfl <| rfl
  have f22_4 : fld x 22 4 = (BitVec.ofFin (w := 4) d) := hx ▸ fld_high 21 11 rfl <| fld_high 18 3 rfl <| fld_high 14 4 rfl <| fld_high 10 4 rfl <| fld_low 6 4 rfl <| fld_whole _
  have f18_4 : fld x 18 4 = (BitVec.ofFin (w := 4) a) := hx ▸ fld_high 21 11 rfl <| fld_high 18 3 rfl <| fld_high 14 4 rfl <| fld_low 10 4 rfl <| fld_whole _
  have f11_3 : fld x 11 3 = (BitVec.ofFin (w := 3) k) := hx ▸ fld_high 21 11 rfl <| fld_low 18 3 rfl <| fld_whole _
  rw [decode, f26_6]
  show decodeMajor2C x = _
  rw [decodeMajor2C, f0_4]
  show mbz (fld x 14 4 == 0 && fld x 4 7 == 0) (accept (.vcvtF32F16 (fld x 22 4).toFin (fld x 18 4).toFin (fld x 11 3).toFin)) = _
  rw [f14_4, f4_7, f22_4, f18_4, f11_3]
  exact accept_wellFormed wf
theorem Laws.Encoding.vcvtF16F32 (d : VReg) (a : VReg) (k : KReg) : Laws.Encoding.Statement (.vcvtF16F32 d a k) := by
  intro x wf h
  have hx : x = (44 : BitVec 6) ++ BitVec.ofFin (w := 4) d ++ BitVec.ofFin (w := 4) a ++ (0 : BitVec 4) ++ BitVec.ofFin (w := 3) k ++ (5 : BitVec 11) := (Option.some.inj h).symm
  have f26_6 : fld x 26 6 = (44 : BitVec 6) := hx ▸ fld_high 21 11 rfl <| fld_high 18 3 rfl <| fld_high 14 4 rfl <| fld_high 10 4 rfl <| fld_high 6 4 rfl <| rfl
  have f0_4 : fld x 0 4 = (5 : BitVec 4) := hx ▸ fld_low 21 11 rfl <| rfl
  have f14_4 : fld x 14 4 = (0 : BitVec 4) := hx ▸ fld_high 21 11 rfl <| fld_high 18 3 rfl <| fld_low 14 4 rfl <| rfl
  have f4_7 : fld x 4 7 = (0 : BitVec 7) := hx ▸ fld_low 21 11 rfl <| rfl
  have f22_4 : fld x 22 4 = (BitVec.ofFin (w := 4) d) := hx ▸ fld_high 21 11 rfl <| fld_high 18 3 rfl <| fld_high 14 4 rfl <| fld_high 10 4 rfl <| fld_low 6 4 rfl <| fld_whole _
  have f18_4 : fld x 18 4 = (BitVec.ofFin (w := 4) a) := hx ▸ fld_high 21 11 rfl <| fld_high 18 3 rfl <| fld_high 14 4 rfl <| fld_low 10 4 rfl <| fld_whole _
  have f11_3 : fld x 11 3 = (BitVec.ofFin (w := 3) k) := hx ▸ fld_high 21 11 rfl <| fld_low 18 3 rfl <| fld_whole _
  rw [decode, f26_6]
  show decodeMajor2C x = _
  rw [decodeMajor2C, f0_4]
  show mbz (fld x 14 4 == 0 && fld x 4 7 == 0) (accept (.vcvtF16F32 (fld x 22 4).toFin (fld x 18 4).toFin (fld x 11 3).toFin)) = _
  rw [f14_4, f4_7, f22_4, f18_4, f11_3]
  exact accept_wellFormed wf
theorem Laws.Encoding.vcvtF32I32 (d : VReg) (a : VReg) (k : KReg) : Laws.Encoding.Statement (.vcvtF32I32 d a k) := by
  intro x wf h
  have hx : x = (44 : BitVec 6) ++ BitVec.ofFin (w := 4) d ++ BitVec.ofFin (w := 4) a ++ (0 : BitVec 4) ++ BitVec.ofFin (w := 3) k ++ (6 : BitVec 11) := (Option.some.inj h).symm
  have f26_6 : fld x 26 6 = (44 : BitVec 6) := hx ▸ fld_high 21 11 rfl <| fld_high 18 3 rfl <| fld_high 14 4 rfl <| fld_high 10 4 rfl <| fld_high 6 4 rfl <| rfl
  have f0_4 : fld x 0 4 = (6 : BitVec 4) := hx ▸ fld_low 21 11 rfl <| rfl
  have f14_4 : fld x 14 4 = (0 : BitVec 4) := hx ▸ fld_high 21 11 rfl <| fld_high 18 3 rfl <| fld_low 14 4 rfl <| rfl
  have f4_7 : fld x 4 7 = (0 : BitVec 7) := hx ▸ fld_low 21 11 rfl <| rfl
  have f22_4 : fld x 22 4 = (BitVec.ofFin (w := 4) d) := hx ▸ fld_high 21 11 rfl <| fld_high 18 3 rfl <| fld_high 14 4 rfl <| fld_high 10 4 rfl <| fld_low 6 4 rfl <| fld_whole _
  have f18_4 : fld x 18 4 = (BitVec.ofFin (w := 4) a) := hx ▸ fld_high 21 11 rfl <| fld_high 18 3 rfl <| fld_high 14 4 rfl <| fld_low 10 4 rfl <| fld_whole _
  have f11_3 : fld x 11 3 = (BitVec.ofFin (w := 3) k) := hx ▸ fld_high 21 11 rfl <| fld_low 18 3 rfl <| fld_whole _
  rw [decode, f26_6]
  show decodeMajor2C x = _
  rw [decodeMajor2C, f0_4]
  show mbz (fld x 14 4 == 0 && fld x 4 7 == 0) (accept (.vcvtF32I32 (fld x 22 4).toFin (fld x 18 4).toFin (fld x 11 3).toFin)) = _
  rw [f14_4, f4_7, f22_4, f18_4, f11_3]
  exact accept_wellFormed wf
theorem Laws.Encoding.vcvtI32F32 (d : VReg) (a : VReg) (k : KReg) : Laws.Encoding.Statement (.vcvtI32F32 d a k) := by
  intro x wf h
  have hx : x = (44 : BitVec 6) ++ BitVec.ofFin (w := 4) d ++ BitVec.ofFin (w := 4) a ++ (0 : BitVec 4) ++ BitVec.ofFin (w := 3) k ++ (7 : BitVec 11) := (Option.some.inj h).symm
  have f26_6 : fld x 26 6 = (44 : BitVec 6) := hx ▸ fld_high 21 11 rfl <| fld_high 18 3 rfl <| fld_high 14 4 rfl <| fld_high 10 4 rfl <| fld_high 6 4 rfl <| rfl
  have f0_4 : fld x 0 4 = (7 : BitVec 4) := hx ▸ fld_low 21 11 rfl <| rfl
  have f14_4 : fld x 14 4 = (0 : BitVec 4) := hx ▸ fld_high 21 11 rfl <| fld_high 18 3 rfl <| fld_low 14 4 rfl <| rfl
  have f4_7 : fld x 4 7 = (0 : BitVec 7) := hx ▸ fld_low 21 11 rfl <| rfl
  have f22_4 : fld x 22 4 = (BitVec.ofFin (w := 4) d) := hx ▸ fld_high 21 11 rfl <| fld_high 18 3 rfl <| fld_high 14 4 rfl <| fld_high 10 4 rfl <| fld_low 6 4 rfl <| fld_whole _
  have f18_4 : fld x 18 4 = (BitVec.ofFin (w := 4) a) := hx ▸ fld_high 21 11 rfl <| fld_high 18 3 rfl <| fld_high 14 4 rfl <| fld_low 10 4 rfl <| fld_whole _
  have f11_3 : fld x 11 3 = (BitVec.ofFin (w := 3) k) := hx ▸ fld_high 21 11 rfl <| fld_low 18 3 rfl <| fld_whole _
  rw [decode, f26_6]
  show decodeMajor2C x = _
  rw [decodeMajor2C, f0_4]
  show mbz (fld x 14 4 == 0 && fld x 4 7 == 0) (accept (.vcvtI32F32 (fld x 22 4).toFin (fld x 18 4).toFin (fld x 11 3).toFin)) = _
  rw [f14_4, f4_7, f22_4, f18_4, f11_3]
  exact accept_wellFormed wf
theorem Laws.Encoding.vcvtF64I64 (d : VReg) (a : VReg) (k : KReg) : Laws.Encoding.Statement (.vcvtF64I64 d a k) := by
  intro x wf h
  have hx : x = (44 : BitVec 6) ++ BitVec.ofFin (w := 4) d ++ BitVec.ofFin (w := 4) a ++ (0 : BitVec 4) ++ BitVec.ofFin (w := 3) k ++ (8 : BitVec 11) := (Option.some.inj h).symm
  have f26_6 : fld x 26 6 = (44 : BitVec 6) := hx ▸ fld_high 21 11 rfl <| fld_high 18 3 rfl <| fld_high 14 4 rfl <| fld_high 10 4 rfl <| fld_high 6 4 rfl <| rfl
  have f0_4 : fld x 0 4 = (8 : BitVec 4) := hx ▸ fld_low 21 11 rfl <| rfl
  have f14_4 : fld x 14 4 = (0 : BitVec 4) := hx ▸ fld_high 21 11 rfl <| fld_high 18 3 rfl <| fld_low 14 4 rfl <| rfl
  have f4_7 : fld x 4 7 = (0 : BitVec 7) := hx ▸ fld_low 21 11 rfl <| rfl
  have f22_4 : fld x 22 4 = (BitVec.ofFin (w := 4) d) := hx ▸ fld_high 21 11 rfl <| fld_high 18 3 rfl <| fld_high 14 4 rfl <| fld_high 10 4 rfl <| fld_low 6 4 rfl <| fld_whole _
  have f18_4 : fld x 18 4 = (BitVec.ofFin (w := 4) a) := hx ▸ fld_high 21 11 rfl <| fld_high 18 3 rfl <| fld_high 14 4 rfl <| fld_low 10 4 rfl <| fld_whole _
  have f11_3 : fld x 11 3 = (BitVec.ofFin (w := 3) k) := hx ▸ fld_high 21 11 rfl <| fld_low 18 3 rfl <| fld_whole _
  rw [decode, f26_6]
  show decodeMajor2C x = _
  rw [decodeMajor2C, f0_4]
  show mbz (fld x 14 4 == 0 && fld x 4 7 == 0) (accept (.vcvtF64I64 (fld x 22 4).toFin (fld x 18 4).toFin (fld x 11 3).toFin)) = _
  rw [f14_4, f4_7, f22_4, f18_4, f11_3]
  exact accept_wellFormed wf
theorem Laws.Encoding.vcvtI64F64 (d : VReg) (a : VReg) (k : KReg) : Laws.Encoding.Statement (.vcvtI64F64 d a k) := by
  intro x wf h
  have hx : x = (44 : BitVec 6) ++ BitVec.ofFin (w := 4) d ++ BitVec.ofFin (w := 4) a ++ (0 : BitVec 4) ++ BitVec.ofFin (w := 3) k ++ (9 : BitVec 11) := (Option.some.inj h).symm
  have f26_6 : fld x 26 6 = (44 : BitVec 6) := hx ▸ fld_high 21 11 rfl <| fld_high 18 3 rfl <| fld_high 14 4 rfl <| fld_high 10 4 rfl <| fld_high 6 4 rfl <| rfl
  have f0_4 : fld x 0 4 = (9 : BitVec 4) := hx ▸ fld_low 21 11 rfl <| rfl
  have f14_4 : fld x 14 4 = (0 : BitVec 4) := hx ▸ fld_high 21 11 rfl <| fld_high 18 3 rfl <| fld_low 14 4 rfl <| rfl
  have f4_7 : fld x 4 7 = (0 : BitVec 7) := hx ▸ fld_low 21 11 rfl <| rfl
  have f22_4 : fld x 22 4 = (BitVec.ofFin (w := 4) d) := hx ▸ fld_high 21 11 rfl <| fld_high 18 3 rfl <| fld_high 14 4 rfl <| fld_high 10 4 rfl <| fld_low 6 4 rfl <| fld_whole _
  have f18_4 : fld x 18 4 = (BitVec.ofFin (w := 4) a) := hx ▸ fld_high 21 11 rfl <| fld_high 18 3 rfl <| fld_high 14 4 rfl <| fld_low 10 4 rfl <| fld_whole _
  have f11_3 : fld x 11 3 = (BitVec.ofFin (w := 3) k) := hx ▸ fld_high 21 11 rfl <| fld_low 18 3 rfl <| fld_whole _
  rw [decode, f26_6]
  show decodeMajor2C x = _
  rw [decodeMajor2C, f0_4]
  show mbz (fld x 14 4 == 0 && fld x 4 7 == 0) (accept (.vcvtI64F64 (fld x 22 4).toFin (fld x 18 4).toFin (fld x 11 3).toFin)) = _
  rw [f14_4, f4_7, f22_4, f18_4, f11_3]
  exact accept_wellFormed wf
theorem Laws.Encoding.vcvtBf16Lns8 (d : VReg) (a : VReg) (k : KReg) : Laws.Encoding.Statement (.vcvtBf16Lns8 d a k) := by
  intro x wf h
  have hx : x = (44 : BitVec 6) ++ BitVec.ofFin (w := 4) d ++ BitVec.ofFin (w := 4) a ++ (0 : BitVec 4) ++ BitVec.ofFin (w := 3) k ++ (10 : BitVec 11) := (Option.some.inj h).symm
  have f26_6 : fld x 26 6 = (44 : BitVec 6) := hx ▸ fld_high 21 11 rfl <| fld_high 18 3 rfl <| fld_high 14 4 rfl <| fld_high 10 4 rfl <| fld_high 6 4 rfl <| rfl
  have f0_4 : fld x 0 4 = (10 : BitVec 4) := hx ▸ fld_low 21 11 rfl <| rfl
  have f14_4 : fld x 14 4 = (0 : BitVec 4) := hx ▸ fld_high 21 11 rfl <| fld_high 18 3 rfl <| fld_low 14 4 rfl <| rfl
  have f4_7 : fld x 4 7 = (0 : BitVec 7) := hx ▸ fld_low 21 11 rfl <| rfl
  have f22_4 : fld x 22 4 = (BitVec.ofFin (w := 4) d) := hx ▸ fld_high 21 11 rfl <| fld_high 18 3 rfl <| fld_high 14 4 rfl <| fld_high 10 4 rfl <| fld_low 6 4 rfl <| fld_whole _
  have f18_4 : fld x 18 4 = (BitVec.ofFin (w := 4) a) := hx ▸ fld_high 21 11 rfl <| fld_high 18 3 rfl <| fld_high 14 4 rfl <| fld_low 10 4 rfl <| fld_whole _
  have f11_3 : fld x 11 3 = (BitVec.ofFin (w := 3) k) := hx ▸ fld_high 21 11 rfl <| fld_low 18 3 rfl <| fld_whole _
  rw [decode, f26_6]
  show decodeMajor2C x = _
  rw [decodeMajor2C, f0_4]
  show mbz (fld x 14 4 == 0 && fld x 4 7 == 0) (accept (.vcvtBf16Lns8 (fld x 22 4).toFin (fld x 18 4).toFin (fld x 11 3).toFin)) = _
  rw [f14_4, f4_7, f22_4, f18_4, f11_3]
  exact accept_wellFormed wf
theorem Laws.Encoding.vcvtLns8Bf16 (d : VReg) (a : VReg) (k : KReg) : Laws.Encoding.Statement (.vcvtLns8Bf16 d a k) := by
  intro x wf h
  have hx : x = (44 : BitVec 6) ++ BitVec.ofFin (w := 4) d ++ BitVec.ofFin (w := 4) a ++ (0 : BitVec 4) ++ BitVec.ofFin (w := 3) k ++ (11 : BitVec 11) := (Option.some.inj h).symm
  have f26_6 : fld x 26 6 = (44 : BitVec 6) := hx ▸ fld_high 21 11 rfl <| fld_high 18 3 rfl <| fld_high 14 4 rfl <| fld_high 10 4 rfl <| fld_high 6 4 rfl <| rfl
  have f0_4 : fld x 0 4 = (11 : BitVec 4) := hx ▸ fld_low 21 11 rfl <| rfl
  have f14_4 : fld x 14 4 = (0 : BitVec 4) := hx ▸ fld_high 21 11 rfl <| fld_high 18 3 rfl <| fld_low 14 4 rfl <| rfl
  have f4_7 : fld x 4 7 = (0 : BitVec 7) := hx ▸ fld_low 21 11 rfl <| rfl
  have f22_4 : fld x 22 4 = (BitVec.ofFin (w := 4) d) := hx ▸ fld_high 21 11 rfl <| fld_high 18 3 rfl <| fld_high 14 4 rfl <| fld_high 10 4 rfl <| fld_low 6 4 rfl <| fld_whole _
  have f18_4 : fld x 18 4 = (BitVec.ofFin (w := 4) a) := hx ▸ fld_high 21 11 rfl <| fld_high 18 3 rfl <| fld_high 14 4 rfl <| fld_low 10 4 rfl <| fld_whole _
  have f11_3 : fld x 11 3 = (BitVec.ofFin (w := 3) k) := hx ▸ fld_high 21 11 rfl <| fld_low 18 3 rfl <| fld_whole _
  rw [decode, f26_6]
  show decodeMajor2C x = _
  rw [decodeMajor2C, f0_4]
  show mbz (fld x 14 4 == 0 && fld x 4 7 == 0) (accept (.vcvtLns8Bf16 (fld x 22 4).toFin (fld x 18 4).toFin (fld x 11 3).toFin)) = _
  rw [f14_4, f4_7, f22_4, f18_4, f11_3]
  exact accept_wellFormed wf
theorem Laws.Encoding.vcvtBf16Lns6 (d : VReg) (a : VReg) (k : KReg) : Laws.Encoding.Statement (.vcvtBf16Lns6 d a k) := by
  intro x wf h
  have hx : x = (44 : BitVec 6) ++ BitVec.ofFin (w := 4) d ++ BitVec.ofFin (w := 4) a ++ (0 : BitVec 4) ++ BitVec.ofFin (w := 3) k ++ (12 : BitVec 11) := (Option.some.inj h).symm
  have f26_6 : fld x 26 6 = (44 : BitVec 6) := hx ▸ fld_high 21 11 rfl <| fld_high 18 3 rfl <| fld_high 14 4 rfl <| fld_high 10 4 rfl <| fld_high 6 4 rfl <| rfl
  have f0_4 : fld x 0 4 = (12 : BitVec 4) := hx ▸ fld_low 21 11 rfl <| rfl
  have f14_4 : fld x 14 4 = (0 : BitVec 4) := hx ▸ fld_high 21 11 rfl <| fld_high 18 3 rfl <| fld_low 14 4 rfl <| rfl
  have f4_7 : fld x 4 7 = (0 : BitVec 7) := hx ▸ fld_low 21 11 rfl <| rfl
  have f22_4 : fld x 22 4 = (BitVec.ofFin (w := 4) d) := hx ▸ fld_high 21 11 rfl <| fld_high 18 3 rfl <| fld_high 14 4 rfl <| fld_high 10 4 rfl <| fld_low 6 4 rfl <| fld_whole _
  have f18_4 : fld x 18 4 = (BitVec.ofFin (w := 4) a) := hx ▸ fld_high 21 11 rfl <| fld_high 18 3 rfl <| fld_high 14 4 rfl <| fld_low 10 4 rfl <| fld_whole _
  have f11_3 : fld x 11 3 = (BitVec.ofFin (w := 3) k) := hx ▸ fld_high 21 11 rfl <| fld_low 18 3 rfl <| fld_whole _
  rw [decode, f26_6]
  show decodeMajor2C x = _
  rw [decodeMajor2C, f0_4]
  show mbz (fld x 14 4 == 0 && fld x 4 7 == 0) (accept (.vcvtBf16Lns6 (fld x 22 4).toFin (fld x 18 4).toFin (fld x 11 3).toFin)) = _
  rw [f14_4, f4_7, f22_4, f18_4, f11_3]
  exact accept_wellFormed wf
theorem Laws.Encoding.vcvtLns6Bf16 (d : VReg) (a : VReg) (k : KReg) : Laws.Encoding.Statement (.vcvtLns6Bf16 d a k) := by
  intro x wf h
  have hx : x = (44 : BitVec 6) ++ BitVec.ofFin (w := 4) d ++ BitVec.ofFin (w := 4) a ++ (0 : BitVec 4) ++ BitVec.ofFin (w := 3) k ++ (13 : BitVec 11) := (Option.some.inj h).symm
  have f26_6 : fld x 26 6 = (44 : BitVec 6) := hx ▸ fld_high 21 11 rfl <| fld_high 18 3 rfl <| fld_high 14 4 rfl <| fld_high 10 4 rfl <| fld_high 6 4 rfl <| rfl
  have f0_4 : fld x 0 4 = (13 : BitVec 4) := hx ▸ fld_low 21 11 rfl <| rfl
  have f14_4 : fld x 14 4 = (0 : BitVec 4) := hx ▸ fld_high 21 11 rfl <| fld_high 18 3 rfl <| fld_low 14 4 rfl <| rfl
  have f4_7 : fld x 4 7 = (0 : BitVec 7) := hx ▸ fld_low 21 11 rfl <| rfl
  have f22_4 : fld x 22 4 = (BitVec.ofFin (w := 4) d) := hx ▸ fld_high 21 11 rfl <| fld_high 18 3 rfl <| fld_high 14 4 rfl <| fld_high 10 4 rfl <| fld_low 6 4 rfl <| fld_whole _
  have f18_4 : fld x 18 4 = (BitVec.ofFin (w := 4) a) := hx ▸ fld_high 21 11 rfl <| fld_high 18 3 rfl <| fld_high 14 4 rfl <| fld_low 10 4 rfl <| fld_whole _
  have f11_3 : fld x 11 3 = (BitVec.ofFin (w := 3) k) := hx ▸ fld_high 21 11 rfl <| fld_low 18 3 rfl <| fld_whole _
  rw [decode, f26_6]
  show decodeMajor2C x = _
  rw [decodeMajor2C, f0_4]
  show mbz (fld x 14 4 == 0 && fld x 4 7 == 0) (accept (.vcvtLns6Bf16 (fld x 22 4).toFin (fld x 18 4).toFin (fld x 11 3).toFin)) = _
  rw [f14_4, f4_7, f22_4, f18_4, f11_3]
  exact accept_wellFormed wf
theorem Laws.Encoding.vtload (y : Fin 4) (g : GReg) : Laws.Encoding.Statement (.vtload y g) := by
  intro x wf h
  have hx : x = (45 : BitVec 6) ++ (0 : BitVec 2) ++ BitVec.ofFin (w := 2) y ++ BitVec.ofFin (w := 5) g ++ (0 : BitVec 17) := (Option.some.inj h).symm
  have f26_6 : fld x 26 6 = (45 : BitVec 6) := hx ▸ fld_high 15 17 rfl <| fld_high 10 5 rfl <| fld_high 8 2 rfl <| fld_high 6 2 rfl <| rfl
  have f0_1 : fld x 0 1 = (0 : BitVec 1) := hx ▸ fld_low 15 17 rfl <| rfl
  have f24_2 : fld x 24 2 = (0 : BitVec 2) := hx ▸ fld_high 15 17 rfl <| fld_high 10 5 rfl <| fld_high 8 2 rfl <| fld_low 6 2 rfl <| rfl
  have f1_16 : fld x 1 16 = (0 : BitVec 16) := hx ▸ fld_low 15 17 rfl <| rfl
  have f22_2 : fld x 22 2 = (BitVec.ofFin (w := 2) y) := hx ▸ fld_high 15 17 rfl <| fld_high 10 5 rfl <| fld_low 8 2 rfl <| fld_whole _
  have f17_5 : fld x 17 5 = (BitVec.ofFin (w := 5) g) := hx ▸ fld_high 15 17 rfl <| fld_low 10 5 rfl <| fld_whole _
  rw [decode, f26_6]
  show decodeMajor2D x = _
  rw [decodeMajor2D, f0_1]
  show mbz (fld x 24 2 == 0 && fld x 1 16 == 0) (accept (.vtload (fld x 22 2).toFin (fld x 17 5).toFin)) = _
  rw [f24_2, f1_16, f22_2, f17_5]
  exact accept_wellFormed wf
theorem Laws.Encoding.vtab (d : VReg) (a : VReg) (y : Fin 4) (k : KReg) (t : VTy) : Laws.Encoding.Statement (.vtab d a y k t) := by
  intro x wf h
  have hx : x = (45 : BitVec 6) ++ BitVec.ofFin (w := 4) d ++ BitVec.ofFin (w := 4) a ++ BitVec.ofFin (w := 2) y ++ (0 : BitVec 2) ++ BitVec.ofFin (w := 3) k ++ (0 : BitVec 6) ++ t.code ++ (1 : BitVec 1) := (Option.some.inj h).symm
  have f26_6 : fld x 26 6 = (45 : BitVec 6) := hx ▸ fld_high 31 1 rfl <| fld_high 27 4 rfl <| fld_high 21 6 rfl <| fld_high 18 3 rfl <| fld_high 16 2 rfl <| fld_high 14 2 rfl <| fld_high 10 4 rfl <| fld_high 6 4 rfl <| rfl
  have f0_1 : fld x 0 1 = (1 : BitVec 1) := hx ▸ fld_low 31 1 rfl <| rfl
  have f14_2 : fld x 14 2 = (0 : BitVec 2) := hx ▸ fld_high 31 1 rfl <| fld_high 27 4 rfl <| fld_high 21 6 rfl <| fld_high 18 3 rfl <| fld_low 16 2 rfl <| rfl
  have f5_6 : fld x 5 6 = (0 : BitVec 6) := hx ▸ fld_high 31 1 rfl <| fld_high 27 4 rfl <| fld_low 21 6 rfl <| rfl
  have f1_4 : fld x 1 4 = t.code := hx ▸ fld_high 31 1 rfl <| fld_low 27 4 rfl <| fld_whole _
  have f22_4 : fld x 22 4 = (BitVec.ofFin (w := 4) d) := hx ▸ fld_high 31 1 rfl <| fld_high 27 4 rfl <| fld_high 21 6 rfl <| fld_high 18 3 rfl <| fld_high 16 2 rfl <| fld_high 14 2 rfl <| fld_high 10 4 rfl <| fld_low 6 4 rfl <| fld_whole _
  have f18_4 : fld x 18 4 = (BitVec.ofFin (w := 4) a) := hx ▸ fld_high 31 1 rfl <| fld_high 27 4 rfl <| fld_high 21 6 rfl <| fld_high 18 3 rfl <| fld_high 16 2 rfl <| fld_high 14 2 rfl <| fld_low 10 4 rfl <| fld_whole _
  have f16_2 : fld x 16 2 = (BitVec.ofFin (w := 2) y) := hx ▸ fld_high 31 1 rfl <| fld_high 27 4 rfl <| fld_high 21 6 rfl <| fld_high 18 3 rfl <| fld_high 16 2 rfl <| fld_low 14 2 rfl <| fld_whole _
  have f11_3 : fld x 11 3 = (BitVec.ofFin (w := 3) k) := hx ▸ fld_high 31 1 rfl <| fld_high 27 4 rfl <| fld_high 21 6 rfl <| fld_low 18 3 rfl <| fld_whole _
  rw [decode, f26_6]
  show decodeMajor2D x = _
  rw [decodeMajor2D, f0_1]
  show mbz (fld x 14 2 == 0 && fld x 5 6 == 0) (ofOption (VTy.ofCode (fld x 1 4)) fun t => .vtab (fld x 22 4).toFin (fld x 18 4).toFin (fld x 16 2).toFin (fld x 11 3).toFin t) = _
  rw [f14_2, f5_6, f1_4, f22_4, f18_4, f16_2, f11_3, VTy.ofCode_code t]
  exact accept_wellFormed wf
theorem Laws.Encoding.kand (d : KReg) (a : KReg) (b : KReg) : Laws.Encoding.Statement (.kand d a b) := by
  intro x wf h
  have hx : x = (46 : BitVec 6) ++ (0 : BitVec 2) ++ BitVec.ofFin (w := 3) d ++ (0 : BitVec 2) ++ BitVec.ofFin (w := 3) a ++ (0 : BitVec 2) ++ BitVec.ofFin (w := 3) b ++ (0 : BitVec 11) := (Option.some.inj h).symm
  have f26_6 : fld x 26 6 = (46 : BitVec 6) := hx ▸ fld_high 21 11 rfl <| fld_high 18 3 rfl <| fld_high 16 2 rfl <| fld_high 13 3 rfl <| fld_high 11 2 rfl <| fld_high 8 3 rfl <| fld_high 6 2 rfl <| rfl
  have f0_3 : fld x 0 3 = (0 : BitVec 3) := hx ▸ fld_low 21 11 rfl <| rfl
  have f24_2 : fld x 24 2 = (0 : BitVec 2) := hx ▸ fld_high 21 11 rfl <| fld_high 18 3 rfl <| fld_high 16 2 rfl <| fld_high 13 3 rfl <| fld_high 11 2 rfl <| fld_high 8 3 rfl <| fld_low 6 2 rfl <| rfl
  have f19_2 : fld x 19 2 = (0 : BitVec 2) := hx ▸ fld_high 21 11 rfl <| fld_high 18 3 rfl <| fld_high 16 2 rfl <| fld_high 13 3 rfl <| fld_low 11 2 rfl <| rfl
  have f14_2 : fld x 14 2 = (0 : BitVec 2) := hx ▸ fld_high 21 11 rfl <| fld_high 18 3 rfl <| fld_low 16 2 rfl <| rfl
  have f3_8 : fld x 3 8 = (0 : BitVec 8) := hx ▸ fld_low 21 11 rfl <| rfl
  have f21_3 : fld x 21 3 = (BitVec.ofFin (w := 3) d) := hx ▸ fld_high 21 11 rfl <| fld_high 18 3 rfl <| fld_high 16 2 rfl <| fld_high 13 3 rfl <| fld_high 11 2 rfl <| fld_low 8 3 rfl <| fld_whole _
  have f16_3 : fld x 16 3 = (BitVec.ofFin (w := 3) a) := hx ▸ fld_high 21 11 rfl <| fld_high 18 3 rfl <| fld_high 16 2 rfl <| fld_low 13 3 rfl <| fld_whole _
  have f11_3 : fld x 11 3 = (BitVec.ofFin (w := 3) b) := hx ▸ fld_high 21 11 rfl <| fld_low 18 3 rfl <| fld_whole _
  rw [decode, f26_6]
  show decodeMajor2E x = _
  rw [decodeMajor2E, f0_3]
  show mbz (fld x 24 2 == 0 && fld x 19 2 == 0 && fld x 14 2 == 0 && fld x 3 8 == 0) (accept (.kand (fld x 21 3).toFin (fld x 16 3).toFin (fld x 11 3).toFin)) = _
  rw [f24_2, f19_2, f14_2, f3_8, f21_3, f16_3, f11_3]
  exact accept_wellFormed wf
theorem Laws.Encoding.kor (d : KReg) (a : KReg) (b : KReg) : Laws.Encoding.Statement (.kor d a b) := by
  intro x wf h
  have hx : x = (46 : BitVec 6) ++ (0 : BitVec 2) ++ BitVec.ofFin (w := 3) d ++ (0 : BitVec 2) ++ BitVec.ofFin (w := 3) a ++ (0 : BitVec 2) ++ BitVec.ofFin (w := 3) b ++ (1 : BitVec 11) := (Option.some.inj h).symm
  have f26_6 : fld x 26 6 = (46 : BitVec 6) := hx ▸ fld_high 21 11 rfl <| fld_high 18 3 rfl <| fld_high 16 2 rfl <| fld_high 13 3 rfl <| fld_high 11 2 rfl <| fld_high 8 3 rfl <| fld_high 6 2 rfl <| rfl
  have f0_3 : fld x 0 3 = (1 : BitVec 3) := hx ▸ fld_low 21 11 rfl <| rfl
  have f24_2 : fld x 24 2 = (0 : BitVec 2) := hx ▸ fld_high 21 11 rfl <| fld_high 18 3 rfl <| fld_high 16 2 rfl <| fld_high 13 3 rfl <| fld_high 11 2 rfl <| fld_high 8 3 rfl <| fld_low 6 2 rfl <| rfl
  have f19_2 : fld x 19 2 = (0 : BitVec 2) := hx ▸ fld_high 21 11 rfl <| fld_high 18 3 rfl <| fld_high 16 2 rfl <| fld_high 13 3 rfl <| fld_low 11 2 rfl <| rfl
  have f14_2 : fld x 14 2 = (0 : BitVec 2) := hx ▸ fld_high 21 11 rfl <| fld_high 18 3 rfl <| fld_low 16 2 rfl <| rfl
  have f3_8 : fld x 3 8 = (0 : BitVec 8) := hx ▸ fld_low 21 11 rfl <| rfl
  have f21_3 : fld x 21 3 = (BitVec.ofFin (w := 3) d) := hx ▸ fld_high 21 11 rfl <| fld_high 18 3 rfl <| fld_high 16 2 rfl <| fld_high 13 3 rfl <| fld_high 11 2 rfl <| fld_low 8 3 rfl <| fld_whole _
  have f16_3 : fld x 16 3 = (BitVec.ofFin (w := 3) a) := hx ▸ fld_high 21 11 rfl <| fld_high 18 3 rfl <| fld_high 16 2 rfl <| fld_low 13 3 rfl <| fld_whole _
  have f11_3 : fld x 11 3 = (BitVec.ofFin (w := 3) b) := hx ▸ fld_high 21 11 rfl <| fld_low 18 3 rfl <| fld_whole _
  rw [decode, f26_6]
  show decodeMajor2E x = _
  rw [decodeMajor2E, f0_3]
  show mbz (fld x 24 2 == 0 && fld x 19 2 == 0 && fld x 14 2 == 0 && fld x 3 8 == 0) (accept (.kor (fld x 21 3).toFin (fld x 16 3).toFin (fld x 11 3).toFin)) = _
  rw [f24_2, f19_2, f14_2, f3_8, f21_3, f16_3, f11_3]
  exact accept_wellFormed wf
theorem Laws.Encoding.kxor (d : KReg) (a : KReg) (b : KReg) : Laws.Encoding.Statement (.kxor d a b) := by
  intro x wf h
  have hx : x = (46 : BitVec 6) ++ (0 : BitVec 2) ++ BitVec.ofFin (w := 3) d ++ (0 : BitVec 2) ++ BitVec.ofFin (w := 3) a ++ (0 : BitVec 2) ++ BitVec.ofFin (w := 3) b ++ (2 : BitVec 11) := (Option.some.inj h).symm
  have f26_6 : fld x 26 6 = (46 : BitVec 6) := hx ▸ fld_high 21 11 rfl <| fld_high 18 3 rfl <| fld_high 16 2 rfl <| fld_high 13 3 rfl <| fld_high 11 2 rfl <| fld_high 8 3 rfl <| fld_high 6 2 rfl <| rfl
  have f0_3 : fld x 0 3 = (2 : BitVec 3) := hx ▸ fld_low 21 11 rfl <| rfl
  have f24_2 : fld x 24 2 = (0 : BitVec 2) := hx ▸ fld_high 21 11 rfl <| fld_high 18 3 rfl <| fld_high 16 2 rfl <| fld_high 13 3 rfl <| fld_high 11 2 rfl <| fld_high 8 3 rfl <| fld_low 6 2 rfl <| rfl
  have f19_2 : fld x 19 2 = (0 : BitVec 2) := hx ▸ fld_high 21 11 rfl <| fld_high 18 3 rfl <| fld_high 16 2 rfl <| fld_high 13 3 rfl <| fld_low 11 2 rfl <| rfl
  have f14_2 : fld x 14 2 = (0 : BitVec 2) := hx ▸ fld_high 21 11 rfl <| fld_high 18 3 rfl <| fld_low 16 2 rfl <| rfl
  have f3_8 : fld x 3 8 = (0 : BitVec 8) := hx ▸ fld_low 21 11 rfl <| rfl
  have f21_3 : fld x 21 3 = (BitVec.ofFin (w := 3) d) := hx ▸ fld_high 21 11 rfl <| fld_high 18 3 rfl <| fld_high 16 2 rfl <| fld_high 13 3 rfl <| fld_high 11 2 rfl <| fld_low 8 3 rfl <| fld_whole _
  have f16_3 : fld x 16 3 = (BitVec.ofFin (w := 3) a) := hx ▸ fld_high 21 11 rfl <| fld_high 18 3 rfl <| fld_high 16 2 rfl <| fld_low 13 3 rfl <| fld_whole _
  have f11_3 : fld x 11 3 = (BitVec.ofFin (w := 3) b) := hx ▸ fld_high 21 11 rfl <| fld_low 18 3 rfl <| fld_whole _
  rw [decode, f26_6]
  show decodeMajor2E x = _
  rw [decodeMajor2E, f0_3]
  show mbz (fld x 24 2 == 0 && fld x 19 2 == 0 && fld x 14 2 == 0 && fld x 3 8 == 0) (accept (.kxor (fld x 21 3).toFin (fld x 16 3).toFin (fld x 11 3).toFin)) = _
  rw [f24_2, f19_2, f14_2, f3_8, f21_3, f16_3, f11_3]
  exact accept_wellFormed wf
theorem Laws.Encoding.knot (d : KReg) (a : KReg) : Laws.Encoding.Statement (.knot d a) := by
  intro x wf h
  have hx : x = (46 : BitVec 6) ++ (0 : BitVec 2) ++ BitVec.ofFin (w := 3) d ++ (0 : BitVec 2) ++ BitVec.ofFin (w := 3) a ++ (3 : BitVec 16) := (Option.some.inj h).symm
  have f26_6 : fld x 26 6 = (46 : BitVec 6) := hx ▸ fld_high 16 16 rfl <| fld_high 13 3 rfl <| fld_high 11 2 rfl <| fld_high 8 3 rfl <| fld_high 6 2 rfl <| rfl
  have f0_3 : fld x 0 3 = (3 : BitVec 3) := hx ▸ fld_low 16 16 rfl <| rfl
  have f24_2 : fld x 24 2 = (0 : BitVec 2) := hx ▸ fld_high 16 16 rfl <| fld_high 13 3 rfl <| fld_high 11 2 rfl <| fld_high 8 3 rfl <| fld_low 6 2 rfl <| rfl
  have f19_2 : fld x 19 2 = (0 : BitVec 2) := hx ▸ fld_high 16 16 rfl <| fld_high 13 3 rfl <| fld_low 11 2 rfl <| rfl
  have f3_13 : fld x 3 13 = (0 : BitVec 13) := hx ▸ fld_low 16 16 rfl <| rfl
  have f21_3 : fld x 21 3 = (BitVec.ofFin (w := 3) d) := hx ▸ fld_high 16 16 rfl <| fld_high 13 3 rfl <| fld_high 11 2 rfl <| fld_low 8 3 rfl <| fld_whole _
  have f16_3 : fld x 16 3 = (BitVec.ofFin (w := 3) a) := hx ▸ fld_high 16 16 rfl <| fld_low 13 3 rfl <| fld_whole _
  rw [decode, f26_6]
  show decodeMajor2E x = _
  rw [decodeMajor2E, f0_3]
  show mbz (fld x 24 2 == 0 && fld x 19 2 == 0 && fld x 3 13 == 0) (accept (.knot (fld x 21 3).toFin (fld x 16 3).toFin)) = _
  rw [f24_2, f19_2, f3_13, f21_3, f16_3]
  exact accept_wellFormed wf
theorem Laws.Encoding.kpop (d : GReg) (a : KReg) : Laws.Encoding.Statement (.kpop d a) := by
  intro x wf h
  have hx : x = (46 : BitVec 6) ++ BitVec.ofFin (w := 5) d ++ (0 : BitVec 2) ++ BitVec.ofFin (w := 3) a ++ (4 : BitVec 16) := (Option.some.inj h).symm
  have f26_6 : fld x 26 6 = (46 : BitVec 6) := hx ▸ fld_high 16 16 rfl <| fld_high 13 3 rfl <| fld_high 11 2 rfl <| fld_high 6 5 rfl <| rfl
  have f0_3 : fld x 0 3 = (4 : BitVec 3) := hx ▸ fld_low 16 16 rfl <| rfl
  have f19_2 : fld x 19 2 = (0 : BitVec 2) := hx ▸ fld_high 16 16 rfl <| fld_high 13 3 rfl <| fld_low 11 2 rfl <| rfl
  have f3_13 : fld x 3 13 = (0 : BitVec 13) := hx ▸ fld_low 16 16 rfl <| rfl
  have f21_5 : fld x 21 5 = (BitVec.ofFin (w := 5) d) := hx ▸ fld_high 16 16 rfl <| fld_high 13 3 rfl <| fld_high 11 2 rfl <| fld_low 6 5 rfl <| fld_whole _
  have f16_3 : fld x 16 3 = (BitVec.ofFin (w := 3) a) := hx ▸ fld_high 16 16 rfl <| fld_low 13 3 rfl <| fld_whole _
  rw [decode, f26_6]
  show decodeMajor2E x = _
  rw [decodeMajor2E, f0_3]
  show mbz (fld x 19 2 == 0 && fld x 3 13 == 0) (accept (.kpop (fld x 21 5).toFin (fld x 16 3).toFin)) = _
  rw [f19_2, f3_13, f21_5, f16_3]
  exact accept_wellFormed wf
theorem Laws.Encoding.kset (d : KReg) (a : GReg) : Laws.Encoding.Statement (.kset d a) := by
  intro x wf h
  have hx : x = (46 : BitVec 6) ++ (0 : BitVec 2) ++ BitVec.ofFin (w := 3) d ++ BitVec.ofFin (w := 5) a ++ (5 : BitVec 16) := (Option.some.inj h).symm
  have f26_6 : fld x 26 6 = (46 : BitVec 6) := hx ▸ fld_high 16 16 rfl <| fld_high 11 5 rfl <| fld_high 8 3 rfl <| fld_high 6 2 rfl <| rfl
  have f0_3 : fld x 0 3 = (5 : BitVec 3) := hx ▸ fld_low 16 16 rfl <| rfl
  have f24_2 : fld x 24 2 = (0 : BitVec 2) := hx ▸ fld_high 16 16 rfl <| fld_high 11 5 rfl <| fld_high 8 3 rfl <| fld_low 6 2 rfl <| rfl
  have f3_13 : fld x 3 13 = (0 : BitVec 13) := hx ▸ fld_low 16 16 rfl <| rfl
  have f21_3 : fld x 21 3 = (BitVec.ofFin (w := 3) d) := hx ▸ fld_high 16 16 rfl <| fld_high 11 5 rfl <| fld_low 8 3 rfl <| fld_whole _
  have f16_5 : fld x 16 5 = (BitVec.ofFin (w := 5) a) := hx ▸ fld_high 16 16 rfl <| fld_low 11 5 rfl <| fld_whole _
  rw [decode, f26_6]
  show decodeMajor2E x = _
  rw [decodeMajor2E, f0_3]
  show mbz (fld x 24 2 == 0 && fld x 3 13 == 0) (accept (.kset (fld x 21 3).toFin (fld x 16 5).toFin)) = _
  rw [f24_2, f3_13, f21_3, f16_5]
  exact accept_wellFormed wf
theorem Laws.Encoding.kget (d : GReg) (a : KReg) : Laws.Encoding.Statement (.kget d a) := by
  intro x wf h
  have hx : x = (46 : BitVec 6) ++ BitVec.ofFin (w := 5) d ++ (0 : BitVec 2) ++ BitVec.ofFin (w := 3) a ++ (6 : BitVec 16) := (Option.some.inj h).symm
  have f26_6 : fld x 26 6 = (46 : BitVec 6) := hx ▸ fld_high 16 16 rfl <| fld_high 13 3 rfl <| fld_high 11 2 rfl <| fld_high 6 5 rfl <| rfl
  have f0_3 : fld x 0 3 = (6 : BitVec 3) := hx ▸ fld_low 16 16 rfl <| rfl
  have f19_2 : fld x 19 2 = (0 : BitVec 2) := hx ▸ fld_high 16 16 rfl <| fld_high 13 3 rfl <| fld_low 11 2 rfl <| rfl
  have f3_13 : fld x 3 13 = (0 : BitVec 13) := hx ▸ fld_low 16 16 rfl <| rfl
  have f21_5 : fld x 21 5 = (BitVec.ofFin (w := 5) d) := hx ▸ fld_high 16 16 rfl <| fld_high 13 3 rfl <| fld_high 11 2 rfl <| fld_low 6 5 rfl <| fld_whole _
  have f16_3 : fld x 16 3 = (BitVec.ofFin (w := 3) a) := hx ▸ fld_high 16 16 rfl <| fld_low 13 3 rfl <| fld_whole _
  rw [decode, f26_6]
  show decodeMajor2E x = _
  rw [decodeMajor2E, f0_3]
  show mbz (fld x 19 2 == 0 && fld x 3 13 == 0) (accept (.kget (fld x 21 5).toFin (fld x 16 3).toFin)) = _
  rw [f19_2, f3_13, f21_5, f16_3]
  exact accept_wellFormed wf
theorem Laws.Encoding.oclaim (a : GReg) (c : GReg) : Laws.Encoding.Statement (.oclaim a c) := by
  intro x wf h
  have hx : x = (52 : BitVec 6) ++ BitVec.ofFin (w := 5) a ++ (0 : BitVec 5) ++ BitVec.ofFin (w := 5) c ++ (0 : BitVec 11) := (Option.some.inj h).symm
  have f26_6 : fld x 26 6 = (52 : BitVec 6) := hx ▸ fld_high 21 11 rfl <| fld_high 16 5 rfl <| fld_high 11 5 rfl <| fld_high 6 5 rfl <| rfl
  have f0_4 : fld x 0 4 = (0 : BitVec 4) := hx ▸ fld_low 21 11 rfl <| rfl
  have f16_5 : fld x 16 5 = (0 : BitVec 5) := hx ▸ fld_high 21 11 rfl <| fld_high 16 5 rfl <| fld_low 11 5 rfl <| rfl
  have f4_7 : fld x 4 7 = (0 : BitVec 7) := hx ▸ fld_low 21 11 rfl <| rfl
  have f21_5 : fld x 21 5 = (BitVec.ofFin (w := 5) a) := hx ▸ fld_high 21 11 rfl <| fld_high 16 5 rfl <| fld_high 11 5 rfl <| fld_low 6 5 rfl <| fld_whole _
  have f11_5 : fld x 11 5 = (BitVec.ofFin (w := 5) c) := hx ▸ fld_high 21 11 rfl <| fld_low 16 5 rfl <| fld_whole _
  rw [decode, f26_6]
  show decodeMajor34 x = _
  rw [decodeMajor34, f0_4]
  show mbz (fld x 16 5 == 0 && fld x 4 7 == 0) (accept (.oclaim (fld x 21 5).toFin (fld x 11 5).toFin)) = _
  rw [f16_5, f4_7, f21_5, f11_5]
  exact accept_wellFormed wf
theorem Laws.Encoding.orelease (a : GReg) : Laws.Encoding.Statement (.orelease a) := by
  intro x wf h
  have hx : x = (52 : BitVec 6) ++ BitVec.ofFin (w := 5) a ++ (1 : BitVec 21) := (Option.some.inj h).symm
  have f26_6 : fld x 26 6 = (52 : BitVec 6) := hx ▸ fld_high 11 21 rfl <| fld_high 6 5 rfl <| rfl
  have f0_4 : fld x 0 4 = (1 : BitVec 4) := hx ▸ fld_low 11 21 rfl <| rfl
  have f4_17 : fld x 4 17 = (0 : BitVec 17) := hx ▸ fld_low 11 21 rfl <| rfl
  have f21_5 : fld x 21 5 = (BitVec.ofFin (w := 5) a) := hx ▸ fld_high 11 21 rfl <| fld_low 6 5 rfl <| fld_whole _
  rw [decode, f26_6]
  show decodeMajor34 x = _
  rw [decodeMajor34, f0_4]
  show mbz (fld x 4 17 == 0) (accept (.orelease (fld x 21 5).toFin)) = _
  rw [f4_17, f21_5]
  exact accept_wellFormed wf
theorem Laws.Encoding.opput (a : GReg) (b : GReg) : Laws.Encoding.Statement (.opput a b) := by
  intro x wf h
  have hx : x = (52 : BitVec 6) ++ BitVec.ofFin (w := 5) a ++ BitVec.ofFin (w := 5) b ++ (2 : BitVec 16) := (Option.some.inj h).symm
  have f26_6 : fld x 26 6 = (52 : BitVec 6) := hx ▸ fld_high 16 16 rfl <| fld_high 11 5 rfl <| fld_high 6 5 rfl <| rfl
  have f0_4 : fld x 0 4 = (2 : BitVec 4) := hx ▸ fld_low 16 16 rfl <| rfl
  have f4_12 : fld x 4 12 = (0 : BitVec 12) := hx ▸ fld_low 16 16 rfl <| rfl
  have f21_5 : fld x 21 5 = (BitVec.ofFin (w := 5) a) := hx ▸ fld_high 16 16 rfl <| fld_high 11 5 rfl <| fld_low 6 5 rfl <| fld_whole _
  have f16_5 : fld x 16 5 = (BitVec.ofFin (w := 5) b) := hx ▸ fld_high 16 16 rfl <| fld_low 11 5 rfl <| fld_whole _
  rw [decode, f26_6]
  show decodeMajor34 x = _
  rw [decodeMajor34, f0_4]
  show mbz (fld x 4 12 == 0) (accept (.opput (fld x 21 5).toFin (fld x 16 5).toFin)) = _
  rw [f4_12, f21_5, f16_5]
  exact accept_wellFormed wf
theorem Laws.Encoding.mma (a : GReg) (b : GReg) (c : GReg) (w : Bool) (f : MmaFmt) : Laws.Encoding.Statement (.mma a b c w f) := by
  intro x wf h
  have hx : x = (52 : BitVec 6) ++ BitVec.ofFin (w := 5) a ++ BitVec.ofFin (w := 5) b ++ BitVec.ofFin (w := 5) c ++ (0 : BitVec 2) ++ BitVec.ofBool w ++ f.code ++ (3 : BitVec 4) := (Option.some.inj h).symm
  have f26_6 : fld x 26 6 = (52 : BitVec 6) := hx ▸ fld_high 28 4 rfl <| fld_high 24 4 rfl <| fld_high 23 1 rfl <| fld_high 21 2 rfl <| fld_high 16 5 rfl <| fld_high 11 5 rfl <| fld_high 6 5 rfl <| rfl
  have f0_4 : fld x 0 4 = (3 : BitVec 4) := hx ▸ fld_low 28 4 rfl <| rfl
  have f9_2 : fld x 9 2 = (0 : BitVec 2) := hx ▸ fld_high 28 4 rfl <| fld_high 24 4 rfl <| fld_high 23 1 rfl <| fld_low 21 2 rfl <| rfl
  have f4_4 : fld x 4 4 = f.code := hx ▸ fld_high 28 4 rfl <| fld_low 24 4 rfl <| fld_whole _
  have f21_5 : fld x 21 5 = (BitVec.ofFin (w := 5) a) := hx ▸ fld_high 28 4 rfl <| fld_high 24 4 rfl <| fld_high 23 1 rfl <| fld_high 21 2 rfl <| fld_high 16 5 rfl <| fld_high 11 5 rfl <| fld_low 6 5 rfl <| fld_whole _
  have f16_5 : fld x 16 5 = (BitVec.ofFin (w := 5) b) := hx ▸ fld_high 28 4 rfl <| fld_high 24 4 rfl <| fld_high 23 1 rfl <| fld_high 21 2 rfl <| fld_high 16 5 rfl <| fld_low 11 5 rfl <| fld_whole _
  have f11_5 : fld x 11 5 = (BitVec.ofFin (w := 5) c) := hx ▸ fld_high 28 4 rfl <| fld_high 24 4 rfl <| fld_high 23 1 rfl <| fld_high 21 2 rfl <| fld_low 16 5 rfl <| fld_whole _
  have f8_1 : fld x 8 1 = (BitVec.ofBool w) := hx ▸ fld_high 28 4 rfl <| fld_high 24 4 rfl <| fld_low 23 1 rfl <| fld_whole _
  rw [decode, f26_6]
  show decodeMajor34 x = _
  rw [decodeMajor34, f0_4]
  show mbz (fld x 9 2 == 0) (ofOption (MmaFmt.ofCode (fld x 4 4)) fun f => .mma (fld x 21 5).toFin (fld x 16 5).toFin (fld x 11 5).toFin (fld x 8 1 == 1) f) = _
  rw [f9_2, f4_4, f21_5, f16_5, f11_5, f8_1, ofBool_isOne w, MmaFmt.ofCode_code f]
  exact accept_wellFormed wf
theorem Laws.Encoding.acczero (a : GReg) : Laws.Encoding.Statement (.acczero a) := by
  intro x wf h
  have hx : x = (52 : BitVec 6) ++ BitVec.ofFin (w := 5) a ++ (4 : BitVec 21) := (Option.some.inj h).symm
  have f26_6 : fld x 26 6 = (52 : BitVec 6) := hx ▸ fld_high 11 21 rfl <| fld_high 6 5 rfl <| rfl
  have f0_4 : fld x 0 4 = (4 : BitVec 4) := hx ▸ fld_low 11 21 rfl <| rfl
  have f4_17 : fld x 4 17 = (0 : BitVec 17) := hx ▸ fld_low 11 21 rfl <| rfl
  have f21_5 : fld x 21 5 = (BitVec.ofFin (w := 5) a) := hx ▸ fld_high 11 21 rfl <| fld_low 6 5 rfl <| fld_whole _
  rw [decode, f26_6]
  show decodeMajor34 x = _
  rw [decodeMajor34, f0_4]
  show mbz (fld x 4 17 == 0) (accept (.acczero (fld x 21 5).toFin)) = _
  rw [f4_17, f21_5]
  exact accept_wellFormed wf
theorem Laws.Encoding.accrd (a : GReg) (b : GReg) (c : GReg) (w : Bool) (f : AccFmt) : Laws.Encoding.Statement (.accrd a b c w f) := by
  intro x wf h
  have hx : x = (52 : BitVec 6) ++ BitVec.ofFin (w := 5) a ++ BitVec.ofFin (w := 5) b ++ BitVec.ofFin (w := 5) c ++ (0 : BitVec 2) ++ BitVec.ofBool w ++ f.code ++ (5 : BitVec 4) := (Option.some.inj h).symm
  have f26_6 : fld x 26 6 = (52 : BitVec 6) := hx ▸ fld_high 28 4 rfl <| fld_high 24 4 rfl <| fld_high 23 1 rfl <| fld_high 21 2 rfl <| fld_high 16 5 rfl <| fld_high 11 5 rfl <| fld_high 6 5 rfl <| rfl
  have f0_4 : fld x 0 4 = (5 : BitVec 4) := hx ▸ fld_low 28 4 rfl <| rfl
  have f9_2 : fld x 9 2 = (0 : BitVec 2) := hx ▸ fld_high 28 4 rfl <| fld_high 24 4 rfl <| fld_high 23 1 rfl <| fld_low 21 2 rfl <| rfl
  have f4_4 : fld x 4 4 = f.code := hx ▸ fld_high 28 4 rfl <| fld_low 24 4 rfl <| fld_whole _
  have f21_5 : fld x 21 5 = (BitVec.ofFin (w := 5) a) := hx ▸ fld_high 28 4 rfl <| fld_high 24 4 rfl <| fld_high 23 1 rfl <| fld_high 21 2 rfl <| fld_high 16 5 rfl <| fld_high 11 5 rfl <| fld_low 6 5 rfl <| fld_whole _
  have f16_5 : fld x 16 5 = (BitVec.ofFin (w := 5) b) := hx ▸ fld_high 28 4 rfl <| fld_high 24 4 rfl <| fld_high 23 1 rfl <| fld_high 21 2 rfl <| fld_high 16 5 rfl <| fld_low 11 5 rfl <| fld_whole _
  have f11_5 : fld x 11 5 = (BitVec.ofFin (w := 5) c) := hx ▸ fld_high 28 4 rfl <| fld_high 24 4 rfl <| fld_high 23 1 rfl <| fld_high 21 2 rfl <| fld_low 16 5 rfl <| fld_whole _
  have f8_1 : fld x 8 1 = (BitVec.ofBool w) := hx ▸ fld_high 28 4 rfl <| fld_high 24 4 rfl <| fld_low 23 1 rfl <| fld_whole _
  rw [decode, f26_6]
  show decodeMajor34 x = _
  rw [decodeMajor34, f0_4]
  show mbz (fld x 9 2 == 0) (ofOption (AccFmt.ofCode (fld x 4 4)) fun f => .accrd (fld x 21 5).toFin (fld x 16 5).toFin (fld x 11 5).toFin (fld x 8 1 == 1) f) = _
  rw [f9_2, f4_4, f21_5, f16_5, f11_5, f8_1, ofBool_isOne w, AccFmt.ofCode_code f]
  exact accept_wellFormed wf
theorem Laws.Encoding.accsat (a : GReg) (c : GReg) : Laws.Encoding.Statement (.accsat a c) := by
  intro x wf h
  have hx : x = (52 : BitVec 6) ++ BitVec.ofFin (w := 5) a ++ (0 : BitVec 5) ++ BitVec.ofFin (w := 5) c ++ (6 : BitVec 11) := (Option.some.inj h).symm
  have f26_6 : fld x 26 6 = (52 : BitVec 6) := hx ▸ fld_high 21 11 rfl <| fld_high 16 5 rfl <| fld_high 11 5 rfl <| fld_high 6 5 rfl <| rfl
  have f0_4 : fld x 0 4 = (6 : BitVec 4) := hx ▸ fld_low 21 11 rfl <| rfl
  have f16_5 : fld x 16 5 = (0 : BitVec 5) := hx ▸ fld_high 21 11 rfl <| fld_high 16 5 rfl <| fld_low 11 5 rfl <| rfl
  have f4_7 : fld x 4 7 = (0 : BitVec 7) := hx ▸ fld_low 21 11 rfl <| rfl
  have f21_5 : fld x 21 5 = (BitVec.ofFin (w := 5) a) := hx ▸ fld_high 21 11 rfl <| fld_high 16 5 rfl <| fld_high 11 5 rfl <| fld_low 6 5 rfl <| fld_whole _
  have f11_5 : fld x 11 5 = (BitVec.ofFin (w := 5) c) := hx ▸ fld_high 21 11 rfl <| fld_low 16 5 rfl <| fld_whole _
  rw [decode, f26_6]
  show decodeMajor34 x = _
  rw [decodeMajor34, f0_4]
  show mbz (fld x 16 5 == 0 && fld x 4 7 == 0) (accept (.accsat (fld x 21 5).toFin (fld x 11 5).toFin)) = _
  rw [f16_5, f4_7, f21_5, f11_5]
  exact accept_wellFormed wf
theorem Laws.Encoding.accget (a : GReg) (b : GReg) (c : GReg) : Laws.Encoding.Statement (.accget a b c) := by
  intro x wf h
  have hx : x = (52 : BitVec 6) ++ BitVec.ofFin (w := 5) a ++ BitVec.ofFin (w := 5) b ++ BitVec.ofFin (w := 5) c ++ (7 : BitVec 11) := (Option.some.inj h).symm
  have f26_6 : fld x 26 6 = (52 : BitVec 6) := hx ▸ fld_high 21 11 rfl <| fld_high 16 5 rfl <| fld_high 11 5 rfl <| fld_high 6 5 rfl <| rfl
  have f0_4 : fld x 0 4 = (7 : BitVec 4) := hx ▸ fld_low 21 11 rfl <| rfl
  have f4_7 : fld x 4 7 = (0 : BitVec 7) := hx ▸ fld_low 21 11 rfl <| rfl
  have f21_5 : fld x 21 5 = (BitVec.ofFin (w := 5) a) := hx ▸ fld_high 21 11 rfl <| fld_high 16 5 rfl <| fld_high 11 5 rfl <| fld_low 6 5 rfl <| fld_whole _
  have f16_5 : fld x 16 5 = (BitVec.ofFin (w := 5) b) := hx ▸ fld_high 21 11 rfl <| fld_high 16 5 rfl <| fld_low 11 5 rfl <| fld_whole _
  have f11_5 : fld x 11 5 = (BitVec.ofFin (w := 5) c) := hx ▸ fld_high 21 11 rfl <| fld_low 16 5 rfl <| fld_whole _
  rw [decode, f26_6]
  show decodeMajor34 x = _
  rw [decodeMajor34, f0_4]
  show mbz (fld x 4 7 == 0) (accept (.accget (fld x 21 5).toFin (fld x 16 5).toFin (fld x 11 5).toFin)) = _
  rw [f4_7, f21_5, f16_5, f11_5]
  exact accept_wellFormed wf
theorem Laws.Encoding.accadd (a : GReg) (b : GReg) (c : GReg) : Laws.Encoding.Statement (.accadd a b c) := by
  intro x wf h
  have hx : x = (52 : BitVec 6) ++ BitVec.ofFin (w := 5) a ++ BitVec.ofFin (w := 5) b ++ BitVec.ofFin (w := 5) c ++ (8 : BitVec 11) := (Option.some.inj h).symm
  have f26_6 : fld x 26 6 = (52 : BitVec 6) := hx ▸ fld_high 21 11 rfl <| fld_high 16 5 rfl <| fld_high 11 5 rfl <| fld_high 6 5 rfl <| rfl
  have f0_4 : fld x 0 4 = (8 : BitVec 4) := hx ▸ fld_low 21 11 rfl <| rfl
  have f4_7 : fld x 4 7 = (0 : BitVec 7) := hx ▸ fld_low 21 11 rfl <| rfl
  have f21_5 : fld x 21 5 = (BitVec.ofFin (w := 5) a) := hx ▸ fld_high 21 11 rfl <| fld_high 16 5 rfl <| fld_high 11 5 rfl <| fld_low 6 5 rfl <| fld_whole _
  have f16_5 : fld x 16 5 = (BitVec.ofFin (w := 5) b) := hx ▸ fld_high 21 11 rfl <| fld_high 16 5 rfl <| fld_low 11 5 rfl <| fld_whole _
  have f11_5 : fld x 11 5 = (BitVec.ofFin (w := 5) c) := hx ▸ fld_high 21 11 rfl <| fld_low 16 5 rfl <| fld_whole _
  rw [decode, f26_6]
  show decodeMajor34 x = _
  rw [decodeMajor34, f0_4]
  show mbz (fld x 4 7 == 0) (accept (.accadd (fld x 21 5).toFin (fld x 16 5).toFin (fld x 11 5).toFin)) = _
  rw [f4_7, f21_5, f16_5, f11_5]
  exact accept_wellFormed wf
theorem Laws.Encoding.xcopy (a : GReg) (b : GReg) (c : GReg) : Laws.Encoding.Statement (.xcopy a b c) := by
  intro x wf h
  have hx : x = (53 : BitVec 6) ++ BitVec.ofFin (w := 5) a ++ BitVec.ofFin (w := 5) b ++ BitVec.ofFin (w := 5) c ++ (0 : BitVec 11) := (Option.some.inj h).symm
  have f26_6 : fld x 26 6 = (53 : BitVec 6) := hx ▸ fld_high 21 11 rfl <| fld_high 16 5 rfl <| fld_high 11 5 rfl <| fld_high 6 5 rfl <| rfl
  have f0_2 : fld x 0 2 = (0 : BitVec 2) := hx ▸ fld_low 21 11 rfl <| rfl
  have f2_9 : fld x 2 9 = (0 : BitVec 9) := hx ▸ fld_low 21 11 rfl <| rfl
  have f21_5 : fld x 21 5 = (BitVec.ofFin (w := 5) a) := hx ▸ fld_high 21 11 rfl <| fld_high 16 5 rfl <| fld_high 11 5 rfl <| fld_low 6 5 rfl <| fld_whole _
  have f16_5 : fld x 16 5 = (BitVec.ofFin (w := 5) b) := hx ▸ fld_high 21 11 rfl <| fld_high 16 5 rfl <| fld_low 11 5 rfl <| fld_whole _
  have f11_5 : fld x 11 5 = (BitVec.ofFin (w := 5) c) := hx ▸ fld_high 21 11 rfl <| fld_low 16 5 rfl <| fld_whole _
  rw [decode, f26_6]
  show decodeMajor35 x = _
  rw [decodeMajor35, f0_2]
  show mbz (fld x 2 9 == 0) (accept (.xcopy (fld x 21 5).toFin (fld x 16 5).toFin (fld x 11 5).toFin)) = _
  rw [f2_9, f21_5, f16_5, f11_5]
  exact accept_wellFormed wf
theorem Laws.Encoding.xcopysp (a : GReg) (b : GReg) (c : GReg) : Laws.Encoding.Statement (.xcopysp a b c) := by
  intro x wf h
  have hx : x = (53 : BitVec 6) ++ BitVec.ofFin (w := 5) a ++ BitVec.ofFin (w := 5) b ++ BitVec.ofFin (w := 5) c ++ (1 : BitVec 11) := (Option.some.inj h).symm
  have f26_6 : fld x 26 6 = (53 : BitVec 6) := hx ▸ fld_high 21 11 rfl <| fld_high 16 5 rfl <| fld_high 11 5 rfl <| fld_high 6 5 rfl <| rfl
  have f0_2 : fld x 0 2 = (1 : BitVec 2) := hx ▸ fld_low 21 11 rfl <| rfl
  have f2_9 : fld x 2 9 = (0 : BitVec 9) := hx ▸ fld_low 21 11 rfl <| rfl
  have f21_5 : fld x 21 5 = (BitVec.ofFin (w := 5) a) := hx ▸ fld_high 21 11 rfl <| fld_high 16 5 rfl <| fld_high 11 5 rfl <| fld_low 6 5 rfl <| fld_whole _
  have f16_5 : fld x 16 5 = (BitVec.ofFin (w := 5) b) := hx ▸ fld_high 21 11 rfl <| fld_high 16 5 rfl <| fld_low 11 5 rfl <| fld_whole _
  have f11_5 : fld x 11 5 = (BitVec.ofFin (w := 5) c) := hx ▸ fld_high 21 11 rfl <| fld_low 16 5 rfl <| fld_whole _
  rw [decode, f26_6]
  show decodeMajor35 x = _
  rw [decodeMajor35, f0_2]
  show mbz (fld x 2 9 == 0) (accept (.xcopysp (fld x 21 5).toFin (fld x 16 5).toFin (fld x 11 5).toFin)) = _
  rw [f2_9, f21_5, f16_5, f11_5]
  exact accept_wellFormed wf
theorem Laws.Encoding.xwait (n : BitVec 3) : Laws.Encoding.Statement (.xwait n) := by
  intro x wf h
  have hx : x = (53 : BitVec 6) ++ (0 : BitVec 21) ++ n ++ (3 : BitVec 2) := (Option.some.inj h).symm
  have f26_6 : fld x 26 6 = (53 : BitVec 6) := hx ▸ fld_high 30 2 rfl <| fld_high 27 3 rfl <| fld_high 6 21 rfl <| rfl
  have f0_2 : fld x 0 2 = (3 : BitVec 2) := hx ▸ fld_low 30 2 rfl <| rfl
  have f5_21 : fld x 5 21 = (0 : BitVec 21) := hx ▸ fld_high 30 2 rfl <| fld_high 27 3 rfl <| fld_low 6 21 rfl <| rfl
  have f2_3 : fld x 2 3 = n := hx ▸ fld_high 30 2 rfl <| fld_low 27 3 rfl <| fld_whole _
  rw [decode, f26_6]
  show decodeMajor35 x = _
  rw [decodeMajor35, f0_2]
  show mbz (fld x 5 21 == 0) (accept (.xwait (fld x 2 3))) = _
  rw [f5_21, f2_3]
  exact accept_wellFormed wf
theorem Laws.Encoding.hread (a : GReg) : Laws.Encoding.Statement (.hread a) := by
  intro x wf h
  have hx : x = (54 : BitVec 6) ++ BitVec.ofFin (w := 5) a ++ (0 : BitVec 21) := (Option.some.inj h).symm
  have f26_6 : fld x 26 6 = (54 : BitVec 6) := hx ▸ fld_high 11 21 rfl <| fld_high 6 5 rfl <| rfl
  have f0_1 : fld x 0 1 = (0 : BitVec 1) := hx ▸ fld_low 11 21 rfl <| rfl
  have f1_20 : fld x 1 20 = (0 : BitVec 20) := hx ▸ fld_low 11 21 rfl <| rfl
  have f21_5 : fld x 21 5 = (BitVec.ofFin (w := 5) a) := hx ▸ fld_high 11 21 rfl <| fld_low 6 5 rfl <| fld_whole _
  rw [decode, f26_6]
  show decodeMajor36 x = _
  rw [decodeMajor36, f0_1]
  show mbz (fld x 1 20 == 0) (accept (.hread (fld x 21 5).toFin)) = _
  rw [f1_20, f21_5]
  exact accept_wellFormed wf
theorem Laws.Encoding.hcancel (a : GReg) : Laws.Encoding.Statement (.hcancel a) := by
  intro x wf h
  have hx : x = (54 : BitVec 6) ++ BitVec.ofFin (w := 5) a ++ (1 : BitVec 21) := (Option.some.inj h).symm
  have f26_6 : fld x 26 6 = (54 : BitVec 6) := hx ▸ fld_high 11 21 rfl <| fld_high 6 5 rfl <| rfl
  have f0_1 : fld x 0 1 = (1 : BitVec 1) := hx ▸ fld_low 11 21 rfl <| rfl
  have f1_20 : fld x 1 20 = (0 : BitVec 20) := hx ▸ fld_low 11 21 rfl <| rfl
  have f21_5 : fld x 21 5 = (BitVec.ofFin (w := 5) a) := hx ▸ fld_high 11 21 rfl <| fld_low 6 5 rfl <| fld_whole _
  rw [decode, f26_6]
  show decodeMajor36 x = _
  rw [decodeMajor36, f0_1]
  show mbz (fld x 1 20 == 0) (accept (.hcancel (fld x 21 5).toFin)) = _
  rw [f1_20, f21_5]
  exact accept_wellFormed wf
theorem Laws.Encoding.cjoin (a : GReg) : Laws.Encoding.Statement (.cjoin a) := by
  intro x wf h
  have hx : x = (55 : BitVec 6) ++ (0 : BitVec 5) ++ BitVec.ofFin (w := 5) a ++ (0 : BitVec 16) := (Option.some.inj h).symm
  have f26_6 : fld x 26 6 = (55 : BitVec 6) := hx ▸ fld_high 16 16 rfl <| fld_high 11 5 rfl <| fld_high 6 5 rfl <| rfl
  have f0_3 : fld x 0 3 = (0 : BitVec 3) := hx ▸ fld_low 16 16 rfl <| rfl
  have f21_5 : fld x 21 5 = (0 : BitVec 5) := hx ▸ fld_high 16 16 rfl <| fld_high 11 5 rfl <| fld_low 6 5 rfl <| rfl
  have f3_13 : fld x 3 13 = (0 : BitVec 13) := hx ▸ fld_low 16 16 rfl <| rfl
  have f16_5 : fld x 16 5 = (BitVec.ofFin (w := 5) a) := hx ▸ fld_high 16 16 rfl <| fld_low 11 5 rfl <| fld_whole _
  rw [decode, f26_6]
  show decodeMajor37 x = _
  rw [decodeMajor37, f0_3]
  show mbz (fld x 21 5 == 0 && fld x 3 13 == 0) (accept (.cjoin (fld x 16 5).toFin)) = _
  rw [f21_5, f3_13, f16_5]
  exact accept_wellFormed wf
theorem Laws.Encoding.cbrAny (a : GReg) (k : BReg) : Laws.Encoding.Statement (.cbrAny a k) := by
  intro x wf h
  have hx : x = (55 : BitVec 6) ++ (0 : BitVec 5) ++ BitVec.ofFin (w := 5) a ++ (0 : BitVec 2) ++ BitVec.ofFin (w := 3) k ++ (2 : BitVec 11) := (Option.some.inj h).symm
  have f26_6 : fld x 26 6 = (55 : BitVec 6) := hx ▸ fld_high 21 11 rfl <| fld_high 18 3 rfl <| fld_high 16 2 rfl <| fld_high 11 5 rfl <| fld_high 6 5 rfl <| rfl
  have f0_3 : fld x 0 3 = (2 : BitVec 3) := hx ▸ fld_low 21 11 rfl <| rfl
  have f21_5 : fld x 21 5 = (0 : BitVec 5) := hx ▸ fld_high 21 11 rfl <| fld_high 18 3 rfl <| fld_high 16 2 rfl <| fld_high 11 5 rfl <| fld_low 6 5 rfl <| rfl
  have f14_2 : fld x 14 2 = (0 : BitVec 2) := hx ▸ fld_high 21 11 rfl <| fld_high 18 3 rfl <| fld_low 16 2 rfl <| rfl
  have f3_8 : fld x 3 8 = (0 : BitVec 8) := hx ▸ fld_low 21 11 rfl <| rfl
  have f16_5 : fld x 16 5 = (BitVec.ofFin (w := 5) a) := hx ▸ fld_high 21 11 rfl <| fld_high 18 3 rfl <| fld_high 16 2 rfl <| fld_low 11 5 rfl <| fld_whole _
  have f11_3 : fld x 11 3 = (BitVec.ofFin (w := 3) k) := hx ▸ fld_high 21 11 rfl <| fld_low 18 3 rfl <| fld_whole _
  rw [decode, f26_6]
  show decodeMajor37 x = _
  rw [decodeMajor37, f0_3]
  show mbz (fld x 21 5 == 0 && fld x 14 2 == 0 && fld x 3 8 == 0) (accept (.cbrAny (fld x 16 5).toFin (fld x 11 3).toFin)) = _
  rw [f21_5, f14_2, f3_8, f16_5, f11_3]
  exact accept_wellFormed wf
theorem Laws.Encoding.cbrAll (a : GReg) (k : BReg) : Laws.Encoding.Statement (.cbrAll a k) := by
  intro x wf h
  have hx : x = (55 : BitVec 6) ++ (0 : BitVec 5) ++ BitVec.ofFin (w := 5) a ++ (0 : BitVec 2) ++ BitVec.ofFin (w := 3) k ++ (3 : BitVec 11) := (Option.some.inj h).symm
  have f26_6 : fld x 26 6 = (55 : BitVec 6) := hx ▸ fld_high 21 11 rfl <| fld_high 18 3 rfl <| fld_high 16 2 rfl <| fld_high 11 5 rfl <| fld_high 6 5 rfl <| rfl
  have f0_3 : fld x 0 3 = (3 : BitVec 3) := hx ▸ fld_low 21 11 rfl <| rfl
  have f21_5 : fld x 21 5 = (0 : BitVec 5) := hx ▸ fld_high 21 11 rfl <| fld_high 18 3 rfl <| fld_high 16 2 rfl <| fld_high 11 5 rfl <| fld_low 6 5 rfl <| rfl
  have f14_2 : fld x 14 2 = (0 : BitVec 2) := hx ▸ fld_high 21 11 rfl <| fld_high 18 3 rfl <| fld_low 16 2 rfl <| rfl
  have f3_8 : fld x 3 8 = (0 : BitVec 8) := hx ▸ fld_low 21 11 rfl <| rfl
  have f16_5 : fld x 16 5 = (BitVec.ofFin (w := 5) a) := hx ▸ fld_high 21 11 rfl <| fld_high 18 3 rfl <| fld_high 16 2 rfl <| fld_low 11 5 rfl <| fld_whole _
  have f11_3 : fld x 11 3 = (BitVec.ofFin (w := 3) k) := hx ▸ fld_high 21 11 rfl <| fld_low 18 3 rfl <| fld_whole _
  rw [decode, f26_6]
  show decodeMajor37 x = _
  rw [decodeMajor37, f0_3]
  show mbz (fld x 21 5 == 0 && fld x 14 2 == 0 && fld x 3 8 == 0) (accept (.cbrAll (fld x 16 5).toFin (fld x 11 3).toFin)) = _
  rw [f21_5, f14_2, f3_8, f16_5, f11_3]
  exact accept_wellFormed wf
theorem Laws.Encoding.cstate (d : GReg) : Laws.Encoding.Statement (.cstate d) := by
  intro x wf h
  have hx : x = (55 : BitVec 6) ++ BitVec.ofFin (w := 5) d ++ (4 : BitVec 21) := (Option.some.inj h).symm
  have f26_6 : fld x 26 6 = (55 : BitVec 6) := hx ▸ fld_high 11 21 rfl <| fld_high 6 5 rfl <| rfl
  have f0_3 : fld x 0 3 = (4 : BitVec 3) := hx ▸ fld_low 11 21 rfl <| rfl
  have f3_18 : fld x 3 18 = (0 : BitVec 18) := hx ▸ fld_low 11 21 rfl <| rfl
  have f21_5 : fld x 21 5 = (BitVec.ofFin (w := 5) d) := hx ▸ fld_high 11 21 rfl <| fld_low 6 5 rfl <| fld_whole _
  rw [decode, f26_6]
  show decodeMajor37 x = _
  rw [decodeMajor37, f0_3]
  show mbz (fld x 3 18 == 0) (accept (.cstate (fld x 21 5).toFin)) = _
  rw [f3_18, f21_5]
  exact accept_wellFormed wf
theorem Laws.Encoding.tstop (a : GReg) : Laws.Encoding.Statement (.tstop a) := by
  intro x wf h
  have hx : x = (60 : BitVec 6) ++ BitVec.ofFin (w := 5) a ++ (0 : BitVec 21) := (Option.some.inj h).symm
  have f26_6 : fld x 26 6 = (60 : BitVec 6) := hx ▸ fld_high 11 21 rfl <| fld_high 6 5 rfl <| rfl
  have f0_3 : fld x 0 3 = (0 : BitVec 3) := hx ▸ fld_low 11 21 rfl <| rfl
  have f3_1 : fld x 3 1 = (0 : BitVec 1) := hx ▸ fld_low 11 21 rfl <| rfl
  have f4_17 : fld x 4 17 = (0 : BitVec 17) := hx ▸ fld_low 11 21 rfl <| rfl
  have f21_5 : fld x 21 5 = (BitVec.ofFin (w := 5) a) := hx ▸ fld_high 11 21 rfl <| fld_low 6 5 rfl <| fld_whole _
  rw [decode, f26_6]
  show decodeMajor3C x = _
  rw [decodeMajor3C, f0_3]
  rw [f3_1]
  show mbz (fld x 4 17 == 0) (accept (.tstop (fld x 21 5).toFin)) = _
  rw [f4_17, f21_5]
  exact accept_wellFormed wf
theorem Laws.Encoding.tstopH (a : GReg) : Laws.Encoding.Statement (.tstopH a) := by
  intro x wf h
  have hx : x = (60 : BitVec 6) ++ BitVec.ofFin (w := 5) a ++ (8 : BitVec 21) := (Option.some.inj h).symm
  have f26_6 : fld x 26 6 = (60 : BitVec 6) := hx ▸ fld_high 11 21 rfl <| fld_high 6 5 rfl <| rfl
  have f0_3 : fld x 0 3 = (0 : BitVec 3) := hx ▸ fld_low 11 21 rfl <| rfl
  have f3_1 : fld x 3 1 = (1 : BitVec 1) := hx ▸ fld_low 11 21 rfl <| rfl
  have f4_17 : fld x 4 17 = (0 : BitVec 17) := hx ▸ fld_low 11 21 rfl <| rfl
  have f21_5 : fld x 21 5 = (BitVec.ofFin (w := 5) a) := hx ▸ fld_high 11 21 rfl <| fld_low 6 5 rfl <| fld_whole _
  rw [decode, f26_6]
  show decodeMajor3C x = _
  rw [decodeMajor3C, f0_3]
  rw [f3_1]
  show mbz (fld x 4 17 == 0) (accept (.tstopH (fld x 21 5).toFin)) = _
  rw [f4_17, f21_5]
  exact accept_wellFormed wf
theorem Laws.Encoding.tstart (a : GReg) : Laws.Encoding.Statement (.tstart a) := by
  intro x wf h
  have hx : x = (60 : BitVec 6) ++ BitVec.ofFin (w := 5) a ++ (1 : BitVec 21) := (Option.some.inj h).symm
  have f26_6 : fld x 26 6 = (60 : BitVec 6) := hx ▸ fld_high 11 21 rfl <| fld_high 6 5 rfl <| rfl
  have f0_3 : fld x 0 3 = (1 : BitVec 3) := hx ▸ fld_low 11 21 rfl <| rfl
  have f3_18 : fld x 3 18 = (0 : BitVec 18) := hx ▸ fld_low 11 21 rfl <| rfl
  have f21_5 : fld x 21 5 = (BitVec.ofFin (w := 5) a) := hx ▸ fld_high 11 21 rfl <| fld_low 6 5 rfl <| fld_whole _
  rw [decode, f26_6]
  show decodeMajor3C x = _
  rw [decodeMajor3C, f0_3]
  show mbz (fld x 3 18 == 0) (accept (.tstart (fld x 21 5).toFin)) = _
  rw [f3_18, f21_5]
  exact accept_wellFormed wf
theorem Laws.Encoding.tread (a : GReg) (b : GReg) (c : GReg) : Laws.Encoding.Statement (.tread a b c) := by
  intro x wf h
  have hx : x = (60 : BitVec 6) ++ BitVec.ofFin (w := 5) a ++ BitVec.ofFin (w := 5) b ++ BitVec.ofFin (w := 5) c ++ (2 : BitVec 11) := (Option.some.inj h).symm
  have f26_6 : fld x 26 6 = (60 : BitVec 6) := hx ▸ fld_high 21 11 rfl <| fld_high 16 5 rfl <| fld_high 11 5 rfl <| fld_high 6 5 rfl <| rfl
  have f0_3 : fld x 0 3 = (2 : BitVec 3) := hx ▸ fld_low 21 11 rfl <| rfl
  have f3_8 : fld x 3 8 = (0 : BitVec 8) := hx ▸ fld_low 21 11 rfl <| rfl
  have f21_5 : fld x 21 5 = (BitVec.ofFin (w := 5) a) := hx ▸ fld_high 21 11 rfl <| fld_high 16 5 rfl <| fld_high 11 5 rfl <| fld_low 6 5 rfl <| fld_whole _
  have f16_5 : fld x 16 5 = (BitVec.ofFin (w := 5) b) := hx ▸ fld_high 21 11 rfl <| fld_high 16 5 rfl <| fld_low 11 5 rfl <| fld_whole _
  have f11_5 : fld x 11 5 = (BitVec.ofFin (w := 5) c) := hx ▸ fld_high 21 11 rfl <| fld_low 16 5 rfl <| fld_whole _
  rw [decode, f26_6]
  show decodeMajor3C x = _
  rw [decodeMajor3C, f0_3]
  show mbz (fld x 3 8 == 0) (accept (.tread (fld x 21 5).toFin (fld x 16 5).toFin (fld x 11 5).toFin)) = _
  rw [f3_8, f21_5, f16_5, f11_5]
  exact accept_wellFormed wf
theorem Laws.Encoding.twrite (a : GReg) (b : GReg) (c : GReg) : Laws.Encoding.Statement (.twrite a b c) := by
  intro x wf h
  have hx : x = (60 : BitVec 6) ++ BitVec.ofFin (w := 5) a ++ BitVec.ofFin (w := 5) b ++ BitVec.ofFin (w := 5) c ++ (3 : BitVec 11) := (Option.some.inj h).symm
  have f26_6 : fld x 26 6 = (60 : BitVec 6) := hx ▸ fld_high 21 11 rfl <| fld_high 16 5 rfl <| fld_high 11 5 rfl <| fld_high 6 5 rfl <| rfl
  have f0_3 : fld x 0 3 = (3 : BitVec 3) := hx ▸ fld_low 21 11 rfl <| rfl
  have f3_8 : fld x 3 8 = (0 : BitVec 8) := hx ▸ fld_low 21 11 rfl <| rfl
  have f21_5 : fld x 21 5 = (BitVec.ofFin (w := 5) a) := hx ▸ fld_high 21 11 rfl <| fld_high 16 5 rfl <| fld_high 11 5 rfl <| fld_low 6 5 rfl <| fld_whole _
  have f16_5 : fld x 16 5 = (BitVec.ofFin (w := 5) b) := hx ▸ fld_high 21 11 rfl <| fld_high 16 5 rfl <| fld_low 11 5 rfl <| fld_whole _
  have f11_5 : fld x 11 5 = (BitVec.ofFin (w := 5) c) := hx ▸ fld_high 21 11 rfl <| fld_low 16 5 rfl <| fld_whole _
  rw [decode, f26_6]
  show decodeMajor3C x = _
  rw [decodeMajor3C, f0_3]
  show mbz (fld x 3 8 == 0) (accept (.twrite (fld x 21 5).toFin (fld x 16 5).toFin (fld x 11 5).toFin)) = _
  rw [f3_8, f21_5, f16_5, f11_5]
  exact accept_wellFormed wf
theorem Laws.Encoding.tstate (a : GReg) (c : GReg) : Laws.Encoding.Statement (.tstate a c) := by
  intro x wf h
  have hx : x = (60 : BitVec 6) ++ BitVec.ofFin (w := 5) a ++ (0 : BitVec 5) ++ BitVec.ofFin (w := 5) c ++ (4 : BitVec 11) := (Option.some.inj h).symm
  have f26_6 : fld x 26 6 = (60 : BitVec 6) := hx ▸ fld_high 21 11 rfl <| fld_high 16 5 rfl <| fld_high 11 5 rfl <| fld_high 6 5 rfl <| rfl
  have f0_3 : fld x 0 3 = (4 : BitVec 3) := hx ▸ fld_low 21 11 rfl <| rfl
  have f16_5 : fld x 16 5 = (0 : BitVec 5) := hx ▸ fld_high 21 11 rfl <| fld_high 16 5 rfl <| fld_low 11 5 rfl <| rfl
  have f3_8 : fld x 3 8 = (0 : BitVec 8) := hx ▸ fld_low 21 11 rfl <| rfl
  have f21_5 : fld x 21 5 = (BitVec.ofFin (w := 5) a) := hx ▸ fld_high 21 11 rfl <| fld_high 16 5 rfl <| fld_high 11 5 rfl <| fld_low 6 5 rfl <| fld_whole _
  have f11_5 : fld x 11 5 = (BitVec.ofFin (w := 5) c) := hx ▸ fld_high 21 11 rfl <| fld_low 16 5 rfl <| fld_whole _
  rw [decode, f26_6]
  show decodeMajor3C x = _
  rw [decodeMajor3C, f0_3]
  show mbz (fld x 16 5 == 0 && fld x 3 8 == 0) (accept (.tstate (fld x 21 5).toFin (fld x 11 5).toFin)) = _
  rw [f16_5, f3_8, f21_5, f11_5]
  exact accept_wellFormed wf
theorem Laws.Encoding.tsave (a : GReg) (b : GReg) : Laws.Encoding.Statement (.tsave a b) := by
  intro x wf h
  have hx : x = (60 : BitVec 6) ++ BitVec.ofFin (w := 5) a ++ BitVec.ofFin (w := 5) b ++ (5 : BitVec 16) := (Option.some.inj h).symm
  have f26_6 : fld x 26 6 = (60 : BitVec 6) := hx ▸ fld_high 16 16 rfl <| fld_high 11 5 rfl <| fld_high 6 5 rfl <| rfl
  have f0_3 : fld x 0 3 = (5 : BitVec 3) := hx ▸ fld_low 16 16 rfl <| rfl
  have f3_13 : fld x 3 13 = (0 : BitVec 13) := hx ▸ fld_low 16 16 rfl <| rfl
  have f21_5 : fld x 21 5 = (BitVec.ofFin (w := 5) a) := hx ▸ fld_high 16 16 rfl <| fld_high 11 5 rfl <| fld_low 6 5 rfl <| fld_whole _
  have f16_5 : fld x 16 5 = (BitVec.ofFin (w := 5) b) := hx ▸ fld_high 16 16 rfl <| fld_low 11 5 rfl <| fld_whole _
  rw [decode, f26_6]
  show decodeMajor3C x = _
  rw [decodeMajor3C, f0_3]
  show mbz (fld x 3 13 == 0) (accept (.tsave (fld x 21 5).toFin (fld x 16 5).toFin)) = _
  rw [f3_13, f21_5, f16_5]
  exact accept_wellFormed wf
theorem Laws.Encoding.trestore (a : GReg) (b : GReg) : Laws.Encoding.Statement (.trestore a b) := by
  intro x wf h
  have hx : x = (60 : BitVec 6) ++ BitVec.ofFin (w := 5) a ++ BitVec.ofFin (w := 5) b ++ (6 : BitVec 16) := (Option.some.inj h).symm
  have f26_6 : fld x 26 6 = (60 : BitVec 6) := hx ▸ fld_high 16 16 rfl <| fld_high 11 5 rfl <| fld_high 6 5 rfl <| rfl
  have f0_3 : fld x 0 3 = (6 : BitVec 3) := hx ▸ fld_low 16 16 rfl <| rfl
  have f3_13 : fld x 3 13 = (0 : BitVec 13) := hx ▸ fld_low 16 16 rfl <| rfl
  have f21_5 : fld x 21 5 = (BitVec.ofFin (w := 5) a) := hx ▸ fld_high 16 16 rfl <| fld_high 11 5 rfl <| fld_low 6 5 rfl <| fld_whole _
  have f16_5 : fld x 16 5 = (BitVec.ofFin (w := 5) b) := hx ▸ fld_high 16 16 rfl <| fld_low 11 5 rfl <| fld_whole _
  rw [decode, f26_6]
  show decodeMajor3C x = _
  rw [decodeMajor3C, f0_3]
  show mbz (fld x 3 13 == 0) (accept (.trestore (fld x 21 5).toFin (fld x 16 5).toFin)) = _
  rw [f3_13, f21_5, f16_5]
  exact accept_wellFormed wf
theorem Laws.Encoding.tlbinv (a : GReg) (b : GReg) : Laws.Encoding.Statement (.tlbinv a b) := by
  intro x wf h
  have hx : x = (61 : BitVec 6) ++ BitVec.ofFin (w := 5) a ++ BitVec.ofFin (w := 5) b ++ (0 : BitVec 16) := (Option.some.inj h).symm
  have f26_6 : fld x 26 6 = (61 : BitVec 6) := hx ▸ fld_high 16 16 rfl <| fld_high 11 5 rfl <| fld_high 6 5 rfl <| rfl
  have f0_3 : fld x 0 3 = (0 : BitVec 3) := hx ▸ fld_low 16 16 rfl <| rfl
  have f3_13 : fld x 3 13 = (0 : BitVec 13) := hx ▸ fld_low 16 16 rfl <| rfl
  have f21_5 : fld x 21 5 = (BitVec.ofFin (w := 5) a) := hx ▸ fld_high 16 16 rfl <| fld_high 11 5 rfl <| fld_low 6 5 rfl <| fld_whole _
  have f16_5 : fld x 16 5 = (BitVec.ofFin (w := 5) b) := hx ▸ fld_high 16 16 rfl <| fld_low 11 5 rfl <| fld_whole _
  rw [decode, f26_6]
  show decodeMajor3D x = _
  rw [decodeMajor3D, f0_3]
  show mbz (fld x 3 13 == 0) (accept (.tlbinv (fld x 21 5).toFin (fld x 16 5).toFin)) = _
  rw [f3_13, f21_5, f16_5]
  exact accept_wellFormed wf
theorem Laws.Encoding.pglock (a : GReg) : Laws.Encoding.Statement (.pglock a) := by
  intro x wf h
  have hx : x = (61 : BitVec 6) ++ BitVec.ofFin (w := 5) a ++ (1 : BitVec 21) := (Option.some.inj h).symm
  have f26_6 : fld x 26 6 = (61 : BitVec 6) := hx ▸ fld_high 11 21 rfl <| fld_high 6 5 rfl <| rfl
  have f0_3 : fld x 0 3 = (1 : BitVec 3) := hx ▸ fld_low 11 21 rfl <| rfl
  have f3_18 : fld x 3 18 = (0 : BitVec 18) := hx ▸ fld_low 11 21 rfl <| rfl
  have f21_5 : fld x 21 5 = (BitVec.ofFin (w := 5) a) := hx ▸ fld_high 11 21 rfl <| fld_low 6 5 rfl <| fld_whole _
  rw [decode, f26_6]
  show decodeMajor3D x = _
  rw [decodeMajor3D, f0_3]
  show mbz (fld x 3 18 == 0) (accept (.pglock (fld x 21 5).toFin)) = _
  rw [f3_18, f21_5]
  exact accept_wellFormed wf
theorem Laws.Encoding.pgswitch (a : GReg) (b : GReg) : Laws.Encoding.Statement (.pgswitch a b) := by
  intro x wf h
  have hx : x = (61 : BitVec 6) ++ BitVec.ofFin (w := 5) a ++ BitVec.ofFin (w := 5) b ++ (2 : BitVec 16) := (Option.some.inj h).symm
  have f26_6 : fld x 26 6 = (61 : BitVec 6) := hx ▸ fld_high 16 16 rfl <| fld_high 11 5 rfl <| fld_high 6 5 rfl <| rfl
  have f0_3 : fld x 0 3 = (2 : BitVec 3) := hx ▸ fld_low 16 16 rfl <| rfl
  have f3_13 : fld x 3 13 = (0 : BitVec 13) := hx ▸ fld_low 16 16 rfl <| rfl
  have f21_5 : fld x 21 5 = (BitVec.ofFin (w := 5) a) := hx ▸ fld_high 16 16 rfl <| fld_high 11 5 rfl <| fld_low 6 5 rfl <| fld_whole _
  have f16_5 : fld x 16 5 = (BitVec.ofFin (w := 5) b) := hx ▸ fld_high 16 16 rfl <| fld_low 11 5 rfl <| fld_whole _
  rw [decode, f26_6]
  show decodeMajor3D x = _
  rw [decodeMajor3D, f0_3]
  show mbz (fld x 3 13 == 0) (accept (.pgswitch (fld x 21 5).toFin (fld x 16 5).toFin)) = _
  rw [f3_13, f21_5, f16_5]
  exact accept_wellFormed wf
theorem Laws.Encoding.clwb (a : GReg) : Laws.Encoding.Statement (.clwb a) := by
  intro x wf h
  have hx : x = (61 : BitVec 6) ++ BitVec.ofFin (w := 5) a ++ (3 : BitVec 21) := (Option.some.inj h).symm
  have f26_6 : fld x 26 6 = (61 : BitVec 6) := hx ▸ fld_high 11 21 rfl <| fld_high 6 5 rfl <| rfl
  have f0_3 : fld x 0 3 = (3 : BitVec 3) := hx ▸ fld_low 11 21 rfl <| rfl
  have f3_18 : fld x 3 18 = (0 : BitVec 18) := hx ▸ fld_low 11 21 rfl <| rfl
  have f21_5 : fld x 21 5 = (BitVec.ofFin (w := 5) a) := hx ▸ fld_high 11 21 rfl <| fld_low 6 5 rfl <| fld_whole _
  rw [decode, f26_6]
  show decodeMajor3D x = _
  rw [decodeMajor3D, f0_3]
  show mbz (fld x 3 18 == 0) (accept (.clwb (fld x 21 5).toFin)) = _
  rw [f3_18, f21_5]
  exact accept_wellFormed wf
theorem Laws.Encoding.clinv (a : GReg) : Laws.Encoding.Statement (.clinv a) := by
  intro x wf h
  have hx : x = (61 : BitVec 6) ++ BitVec.ofFin (w := 5) a ++ (4 : BitVec 21) := (Option.some.inj h).symm
  have f26_6 : fld x 26 6 = (61 : BitVec 6) := hx ▸ fld_high 11 21 rfl <| fld_high 6 5 rfl <| rfl
  have f0_3 : fld x 0 3 = (4 : BitVec 3) := hx ▸ fld_low 11 21 rfl <| rfl
  have f3_18 : fld x 3 18 = (0 : BitVec 18) := hx ▸ fld_low 11 21 rfl <| rfl
  have f21_5 : fld x 21 5 = (BitVec.ofFin (w := 5) a) := hx ▸ fld_high 11 21 rfl <| fld_low 6 5 rfl <| fld_whole _
  rw [decode, f26_6]
  show decodeMajor3D x = _
  rw [decodeMajor3D, f0_3]
  show mbz (fld x 3 18 == 0) (accept (.clinv (fld x 21 5).toFin)) = _
  rw [f3_18, f21_5]
  exact accept_wellFormed wf
theorem Laws.Encoding.pfxImm (p : BitVec 24) : Laws.Encoding.Statement (.pfxImm p) := by
  intro x wf h
  have hx : x = (63 : BitVec 6) ++ (0 : BitVec 2) ++ p := (Option.some.inj h).symm
  have f26_6 : fld x 26 6 = (63 : BitVec 6) := hx ▸ fld_high 8 24 rfl <| fld_high 6 2 rfl <| rfl
  have f24_2 : fld x 24 2 = (0 : BitVec 2) := hx ▸ fld_high 8 24 rfl <| fld_low 6 2 rfl <| rfl
  have f0_24 : fld x 0 24 = p := hx ▸ fld_low 8 24 rfl <| fld_whole _
  rw [decode, f26_6]
  show decodeMajor3F x = _
  rw [decodeMajor3F, f24_2]
  show accept (.pfxImm (fld x 0 24)) = _
  rw [f0_24]
  exact accept_wellFormed wf
theorem Laws.Encoding.pfxMod (p : BitVec 24) : Laws.Encoding.Statement (.pfxMod p) := by
  intro x wf h
  have hx : x = (63 : BitVec 6) ++ (1 : BitVec 2) ++ p := (Option.some.inj h).symm
  have f26_6 : fld x 26 6 = (63 : BitVec 6) := hx ▸ fld_high 8 24 rfl <| fld_high 6 2 rfl <| rfl
  have f24_2 : fld x 24 2 = (1 : BitVec 2) := hx ▸ fld_high 8 24 rfl <| fld_low 6 2 rfl <| rfl
  have f0_24 : fld x 0 24 = p := hx ▸ fld_low 8 24 rfl <| fld_whole _
  rw [decode, f26_6]
  show decodeMajor3F x = _
  rw [decodeMajor3F, f24_2]
  show accept (.pfxMod (fld x 0 24)) = _
  rw [f0_24]
  exact accept_wellFormed wf
theorem Laws.Encoding.pfxHint (p : BitVec 24) : Laws.Encoding.Statement (.pfxHint p) := by
  intro x wf h
  have hx : x = (63 : BitVec 6) ++ (2 : BitVec 2) ++ p := (Option.some.inj h).symm
  have f26_6 : fld x 26 6 = (63 : BitVec 6) := hx ▸ fld_high 8 24 rfl <| fld_high 6 2 rfl <| rfl
  have f24_2 : fld x 24 2 = (2 : BitVec 2) := hx ▸ fld_high 8 24 rfl <| fld_low 6 2 rfl <| rfl
  have f0_24 : fld x 0 24 = p := hx ▸ fld_low 8 24 rfl <| fld_whole _
  rw [decode, f26_6]
  show decodeMajor3F x = _
  rw [decodeMajor3F, f24_2]
  show accept (.pfxHint (fld x 0 24)) = _
  rw [f0_24]
  exact accept_wellFormed wf
theorem Laws.Encoding.yieldT : Laws.Encoding.Statement .yieldT := by
  intro x wf h
  have hx : x = (22 : BitVec 6) ++ (7 : BitVec 26) := (Option.some.inj h).symm
  have f26_6 : fld x 26 6 = (22 : BitVec 6) := hx ▸ fld_high 6 26 rfl <| rfl
  have f0_4 : fld x 0 4 = (7 : BitVec 4) := hx ▸ fld_low 6 26 rfl <| rfl
  have f4_22 : fld x 4 22 = (0 : BitVec 22) := hx ▸ fld_low 6 26 rfl <| rfl
  rw [decode, f26_6]
  show decodeMajor16 x = _
  rw [decodeMajor16, f0_4]
  show mbz (fld x 4 22 == 0) (accept (.yieldT)) = _
  rw [f4_22]
  exact accept_wellFormed wf
theorem Laws.Encoding.roam : Laws.Encoding.Statement .roam := by
  intro x wf h
  have hx : x = (22 : BitVec 6) ++ (8 : BitVec 26) := (Option.some.inj h).symm
  have f26_6 : fld x 26 6 = (22 : BitVec 6) := hx ▸ fld_high 6 26 rfl <| rfl
  have f0_4 : fld x 0 4 = (8 : BitVec 4) := hx ▸ fld_low 6 26 rfl <| rfl
  have f4_22 : fld x 4 22 = (0 : BitVec 22) := hx ▸ fld_low 6 26 rfl <| rfl
  rw [decode, f26_6]
  show decodeMajor16 x = _
  rw [decodeMajor16, f0_4]
  show mbz (fld x 4 22 == 0) (accept (.roam)) = _
  rw [f4_22]
  exact accept_wellFormed wf
theorem Laws.Encoding.anchor : Laws.Encoding.Statement .anchor := by
  intro x wf h
  have hx : x = (22 : BitVec 6) ++ (9 : BitVec 26) := (Option.some.inj h).symm
  have f26_6 : fld x 26 6 = (22 : BitVec 6) := hx ▸ fld_high 6 26 rfl <| rfl
  have f0_4 : fld x 0 4 = (9 : BitVec 4) := hx ▸ fld_low 6 26 rfl <| rfl
  have f4_22 : fld x 4 22 = (0 : BitVec 22) := hx ▸ fld_low 6 26 rfl <| rfl
  rw [decode, f26_6]
  show decodeMajor16 x = _
  rw [decodeMajor16, f0_4]
  show mbz (fld x 4 22 == 0) (accept (.anchor)) = _
  rw [f4_22]
  exact accept_wellFormed wf
theorem Laws.Encoding.flushf : Laws.Encoding.Statement .flushf := by
  intro x wf h
  have hx : x = (23 : BitVec 6) ++ (16387 : BitVec 26) := (Option.some.inj h).symm
  have f26_6 : fld x 26 6 = (23 : BitVec 6) := hx ▸ fld_high 6 26 rfl <| rfl
  have f13_3 : fld x 13 3 = (2 : BitVec 3) := hx ▸ fld_low 6 26 rfl <| rfl
  have f16_10 : fld x 16 10 = (0 : BitVec 10) := hx ▸ fld_low 6 26 rfl <| rfl
  have f0_13 : fld x 0 13 = (3 : BitVec 13) := hx ▸ fld_low 6 26 rfl <| rfl
  rw [decode, f26_6]
  show decodeMajor17 x = _
  rw [decodeMajor17, f13_3]
  rw [hx]; exact accept_wellFormed wf
theorem Laws.Encoding.nop : Laws.Encoding.Statement .nop := by
  intro x wf h
  have hx : x = (23 : BitVec 6) ++ (32768 : BitVec 26) := (Option.some.inj h).symm
  have f26_6 : fld x 26 6 = (23 : BitVec 6) := hx ▸ fld_high 6 26 rfl <| rfl
  have f13_3 : fld x 13 3 = (4 : BitVec 3) := hx ▸ fld_low 6 26 rfl <| rfl
  have f16_10 : fld x 16 10 = (0 : BitVec 10) := hx ▸ fld_low 6 26 rfl <| rfl
  have f0_13 : fld x 0 13 = (0 : BitVec 13) := hx ▸ fld_low 6 26 rfl <| rfl
  rw [decode, f26_6]
  show decodeMajor17 x = _
  rw [decodeMajor17, f13_3]
  show mbz (fld x 16 10 == 0 && fld x 0 13 == 0) (accept (.nop)) = _
  rw [f16_10, f0_13]
  exact accept_wellFormed wf
theorem Laws.Encoding.fenceAcq : Laws.Encoding.Statement .fenceAcq := by
  intro x wf h
  have hx : x = (34 : BitVec 6) ++ (0 : BitVec 26) := (Option.some.inj h).symm
  have f26_6 : fld x 26 6 = (34 : BitVec 6) := hx ▸ fld_high 6 26 rfl <| rfl
  have f0_2 : fld x 0 2 = (0 : BitVec 2) := hx ▸ fld_low 6 26 rfl <| rfl
  have f2_24 : fld x 2 24 = (0 : BitVec 24) := hx ▸ fld_low 6 26 rfl <| rfl
  rw [decode, f26_6]
  show decodeMajor22 x = _
  rw [decodeMajor22, f0_2]
  show mbz (fld x 2 24 == 0) (accept (.fenceAcq)) = _
  rw [f2_24]
  exact accept_wellFormed wf
theorem Laws.Encoding.fenceRel : Laws.Encoding.Statement .fenceRel := by
  intro x wf h
  have hx : x = (34 : BitVec 6) ++ (1 : BitVec 26) := (Option.some.inj h).symm
  have f26_6 : fld x 26 6 = (34 : BitVec 6) := hx ▸ fld_high 6 26 rfl <| rfl
  have f0_2 : fld x 0 2 = (1 : BitVec 2) := hx ▸ fld_low 6 26 rfl <| rfl
  have f2_24 : fld x 2 24 = (0 : BitVec 24) := hx ▸ fld_low 6 26 rfl <| rfl
  rw [decode, f26_6]
  show decodeMajor22 x = _
  rw [decodeMajor22, f0_2]
  show mbz (fld x 2 24 == 0) (accept (.fenceRel)) = _
  rw [f2_24]
  exact accept_wellFormed wf
theorem Laws.Encoding.fenceFull : Laws.Encoding.Statement .fenceFull := by
  intro x wf h
  have hx : x = (34 : BitVec 6) ++ (2 : BitVec 26) := (Option.some.inj h).symm
  have f26_6 : fld x 26 6 = (34 : BitVec 6) := hx ▸ fld_high 6 26 rfl <| rfl
  have f0_2 : fld x 0 2 = (2 : BitVec 2) := hx ▸ fld_low 6 26 rfl <| rfl
  have f2_24 : fld x 2 24 = (0 : BitVec 24) := hx ▸ fld_low 6 26 rfl <| rfl
  rw [decode, f26_6]
  show decodeMajor22 x = _
  rw [decodeMajor22, f0_2]
  show mbz (fld x 2 24 == 0) (accept (.fenceFull)) = _
  rw [f2_24]
  exact accept_wellFormed wf
theorem Laws.Encoding.rwait : Laws.Encoding.Statement .rwait := by
  intro x wf h
  have hx : x = (34 : BitVec 6) ++ (3 : BitVec 26) := (Option.some.inj h).symm
  have f26_6 : fld x 26 6 = (34 : BitVec 6) := hx ▸ fld_high 6 26 rfl <| rfl
  have f0_2 : fld x 0 2 = (3 : BitVec 2) := hx ▸ fld_low 6 26 rfl <| rfl
  have f2_24 : fld x 2 24 = (0 : BitVec 24) := hx ▸ fld_low 6 26 rfl <| rfl
  rw [decode, f26_6]
  show decodeMajor22 x = _
  rw [decodeMajor22, f0_2]
  show mbz (fld x 2 24 == 0) (accept (.rwait)) = _
  rw [f2_24]
  exact accept_wellFormed wf
theorem Laws.Encoding.xcommit : Laws.Encoding.Statement .xcommit := by
  intro x wf h
  have hx : x = (53 : BitVec 6) ++ (2 : BitVec 26) := (Option.some.inj h).symm
  have f26_6 : fld x 26 6 = (53 : BitVec 6) := hx ▸ fld_high 6 26 rfl <| rfl
  have f0_2 : fld x 0 2 = (2 : BitVec 2) := hx ▸ fld_low 6 26 rfl <| rfl
  have f2_24 : fld x 2 24 = (0 : BitVec 24) := hx ▸ fld_low 6 26 rfl <| rfl
  rw [decode, f26_6]
  show decodeMajor35 x = _
  rw [decodeMajor35, f0_2]
  show mbz (fld x 2 24 == 0) (accept (.xcommit)) = _
  rw [f2_24]
  exact accept_wellFormed wf
theorem Laws.Encoding.cleave : Laws.Encoding.Statement .cleave := by
  intro x wf h
  have hx : x = (55 : BitVec 6) ++ (1 : BitVec 26) := (Option.some.inj h).symm
  have f26_6 : fld x 26 6 = (55 : BitVec 6) := hx ▸ fld_high 6 26 rfl <| rfl
  have f0_3 : fld x 0 3 = (1 : BitVec 3) := hx ▸ fld_low 6 26 rfl <| rfl
  have f3_23 : fld x 3 23 = (0 : BitVec 23) := hx ▸ fld_low 6 26 rfl <| rfl
  rw [decode, f26_6]
  show decodeMajor37 x = _
  rw [decodeMajor37, f0_3]
  show mbz (fld x 3 23 == 0) (accept (.cleave)) = _
  rw [f3_23]
  exact accept_wellFormed wf
theorem Laws.Encoding.loopBack : Laws.Encoding.Statement .loopBack := fun _ _ h => nomatch h
theorem Laws.Encoding.illegalWord : Laws.Encoding.Statement .illegalWord := fun _ _ h => nomatch h
theorem Laws.Encoding.breakpointMatch : Laws.Encoding.Statement .breakpointMatch := fun _ _ h => nomatch h
theorem Laws.Encoding.rotationBoundary : Laws.Encoding.Statement .rotationBoundary := fun _ _ h => nomatch h
theorem Laws.Encoding.quantumExpiry : Laws.Encoding.Statement .quantumExpiry := fun _ _ h => nomatch h
theorem Laws.Encoding.agingPromotion : Laws.Encoding.Statement .agingPromotion := fun _ _ h => nomatch h
theorem Laws.Encoding.spillEviction : Laws.Encoding.Statement .spillEviction := fun _ _ h => nomatch h
theorem Laws.Encoding.spillMoveDone : Laws.Encoding.Statement .spillMoveDone := fun _ _ h => nomatch h
theorem Laws.Encoding.watchFire : Laws.Encoding.Statement .watchFire := fun _ _ h => nomatch h
theorem Laws.Encoding.sleepTimeout : Laws.Encoding.Statement .sleepTimeout := fun _ _ h => nomatch h
theorem Laws.Encoding.timerRecord : Laws.Encoding.Statement .timerRecord := fun _ _ h => nomatch h
theorem Laws.Encoding.storeGatherPost : Laws.Encoding.Statement .storeGatherPost := fun _ _ h => nomatch h
theorem Laws.Encoding.icacheFill : Laws.Encoding.Statement .icacheFill := fun _ _ h => nomatch h
theorem Laws.Encoding.tlbWalkDone : Laws.Encoding.Statement .tlbWalkDone := fun _ _ h => nomatch h
theorem Laws.Encoding.load : Laws.Encoding.Statement .load := fun _ _ h => nomatch h
theorem Laws.Encoding.store : Laws.Encoding.Statement .store := fun _ _ h => nomatch h
theorem Laws.Encoding.atomic : Laws.Encoding.Statement .atomic := fun _ _ h => nomatch h
theorem Laws.Encoding.reduce : Laws.Encoding.Statement .reduce := fun _ _ h => nomatch h
theorem Laws.Encoding.recall : Laws.Encoding.Statement .recall := fun _ _ h => nomatch h
theorem Laws.Encoding.migrate : Laws.Encoding.Statement .migrate := fun _ _ h => nomatch h
theorem Laws.Encoding.call : Laws.Encoding.Statement .call := fun _ _ h => nomatch h
theorem Laws.Encoding.threadop : Laws.Encoding.Statement .threadop := fun _ _ h => nomatch h
theorem Laws.Encoding.controlCancel : Laws.Encoding.Statement .controlCancel := fun _ _ h => nomatch h
theorem Laws.Encoding.controlTlbinv : Laws.Encoding.Statement .controlTlbinv := fun _ _ h => nomatch h
theorem Laws.Encoding.ticket : Laws.Encoding.Statement .ticket := fun _ _ h => nomatch h
theorem Laws.Encoding.ticketCallNotice : Laws.Encoding.Statement .ticketCallNotice := fun _ _ h => nomatch h
theorem Laws.Encoding.ticketExpiry : Laws.Encoding.Statement .ticketExpiry := fun _ _ h => nomatch h
theorem Laws.Encoding.bulk : Laws.Encoding.Statement .bulk := fun _ _ h => nomatch h
theorem Laws.Encoding.sideband : Laws.Encoding.Statement .sideband := fun _ _ h => nomatch h
theorem Laws.Encoding.sidebandTimeout : Laws.Encoding.Statement .sidebandTimeout := fun _ _ h => nomatch h
theorem Laws.Encoding.data : Laws.Encoding.Statement .data := fun _ _ h => nomatch h
theorem Laws.Encoding.ack : Laws.Encoding.Statement .ack := fun _ _ h => nomatch h
theorem Laws.Encoding.nack : Laws.Encoding.Statement .nack := fun _ _ h => nomatch h
theorem Laws.Encoding.transportTimeout : Laws.Encoding.Statement .transportTimeout := fun _ _ h => nomatch h
theorem Laws.Encoding.dedupRetryTimer : Laws.Encoding.Statement .dedupRetryTimer := fun _ _ h => nomatch h
theorem Laws.Encoding.dedupWindowIdle : Laws.Encoding.Statement .dedupWindowIdle := fun _ _ h => nomatch h
theorem Laws.Encoding.linkUp : Laws.Encoding.Statement .linkUp := fun _ _ h => nomatch h
theorem Laws.Encoding.laneChange : Laws.Encoding.Statement .laneChange := fun _ _ h => nomatch h
theorem Laws.Encoding.linkRetire : Laws.Encoding.Statement .linkRetire := fun _ _ h => nomatch h
theorem Laws.Encoding.vote : Laws.Encoding.Statement .vote := fun _ _ h => nomatch h
theorem Laws.Encoding.summary : Laws.Encoding.Statement .summary := fun _ _ h => nomatch h
theorem Laws.Encoding.verdict : Laws.Encoding.Statement .verdict := fun _ _ h => nomatch h
theorem Laws.Encoding.abortRequest : Laws.Encoding.Statement .abortRequest := fun _ _ h => nomatch h
theorem Laws.Encoding.collJoinRequest : Laws.Encoding.Statement .collJoinRequest := fun _ _ h => nomatch h
theorem Laws.Encoding.collLeaveRequest : Laws.Encoding.Statement .collLeaveRequest := fun _ _ h => nomatch h
theorem Laws.Encoding.deadlineExpiry : Laws.Encoding.Statement .deadlineExpiry := fun _ _ h => nomatch h
theorem Laws.Encoding.verdictApply : Laws.Encoding.Statement .verdictApply := fun _ _ h => nomatch h
theorem Laws.Encoding.heldStoreCommit : Laws.Encoding.Statement .heldStoreCommit := fun _ _ h => nomatch h
theorem Laws.Encoding.waveCreate : Laws.Encoding.Statement .waveCreate := fun _ _ h => nomatch h
theorem Laws.Encoding.waveEnd : Laws.Encoding.Statement .waveEnd := fun _ _ h => nomatch h
theorem Laws.Encoding.jobCompletion : Laws.Encoding.Statement .jobCompletion := fun _ _ h => nomatch h
theorem Laws.Encoding.engineAccept : Laws.Encoding.Statement .engineAccept := fun _ _ h => nomatch h
theorem Laws.Encoding.mmaComplete : Laws.Encoding.Statement .mmaComplete := fun _ _ h => nomatch h
theorem Laws.Encoding.nanStop : Laws.Encoding.Statement .nanStop := fun _ _ h => nomatch h
theorem Laws.Encoding.acczeroDone : Laws.Encoding.Statement .acczeroDone := fun _ _ h => nomatch h
theorem Laws.Encoding.accrdComplete : Laws.Encoding.Statement .accrdComplete := fun _ _ h => nomatch h
theorem Laws.Encoding.accsatComplete : Laws.Encoding.Statement .accsatComplete := fun _ _ h => nomatch h
theorem Laws.Encoding.accgetComplete : Laws.Encoding.Statement .accgetComplete := fun _ _ h => nomatch h
theorem Laws.Encoding.accaddComplete : Laws.Encoding.Statement .accaddComplete := fun _ _ h => nomatch h
theorem Laws.Encoding.copyAccept : Laws.Encoding.Statement .copyAccept := fun _ _ h => nomatch h
theorem Laws.Encoding.copyDelivery : Laws.Encoding.Statement .copyDelivery := fun _ _ h => nomatch h
theorem Laws.Encoding.copyArrival : Laws.Encoding.Statement .copyArrival := fun _ _ h => nomatch h
theorem Laws.Encoding.vtloadReplace : Laws.Encoding.Statement .vtloadReplace := fun _ _ h => nomatch h
theorem Laws.Encoding.reservationGrant : Laws.Encoding.Statement .reservationGrant := fun _ _ h => nomatch h
theorem Laws.Encoding.burstRequest : Laws.Encoding.Statement .burstRequest := fun _ _ h => nomatch h
theorem Laws.Encoding.burstArrival : Laws.Encoding.Statement .burstArrival := fun _ _ h => nomatch h
theorem Laws.Encoding.hreadComplete : Laws.Encoding.Statement .hreadComplete := fun _ _ h => nomatch h
theorem Laws.Encoding.stopComplete : Laws.Encoding.Statement .stopComplete := fun _ _ h => nomatch h
theorem Laws.Encoding.faultRecord : Laws.Encoding.Statement .faultRecord := fun _ _ h => nomatch h
theorem Laws.Encoding.coreLost : Laws.Encoding.Statement .coreLost := fun _ _ h => nomatch h
theorem Laws.Encoding.spareReplace : Laws.Encoding.Statement .spareReplace := fun _ _ h => nomatch h
theorem Laws.Encoding.uncorrectableError : Laws.Encoding.Statement .uncorrectableError := fun _ _ h => nomatch h
theorem Laws.Encoding.scrub : Laws.Encoding.Statement .scrub := fun _ _ h => nomatch h
theorem Laws.Encoding.saveDrained : Laws.Encoding.Statement .saveDrained := fun _ _ h => nomatch h
theorem Laws.Encoding.saveComplete : Laws.Encoding.Statement .saveComplete := fun _ _ h => nomatch h
theorem Laws.Encoding.restoreComplete : Laws.Encoding.Statement .restoreComplete := fun _ _ h => nomatch h
theorem Laws.Encoding.discardComplete : Laws.Encoding.Statement .discardComplete := fun _ _ h => nomatch h
theorem Laws.Encoding.resetDropWindow : Laws.Encoding.Statement .resetDropWindow := fun _ _ h => nomatch h
theorem Laws.Encoding.tileAssignDone : Laws.Encoding.Statement .tileAssignDone := fun _ _ h => nomatch h
theorem Laws.Encoding.keySlotWrite : Laws.Encoding.Statement .keySlotWrite := fun _ _ h => nomatch h
theorem Laws.Encoding.jobEntryWrite : Laws.Encoding.Statement .jobEntryWrite := fun _ _ h => nomatch h
theorem Laws.Encoding.tileAssignWrite : Laws.Encoding.Statement .tileAssignWrite := fun _ _ h => nomatch h
theorem Laws.Encoding.quantumWrite : Laws.Encoding.Statement .quantumWrite := fun _ _ h => nomatch h
theorem Laws.Encoding.admcapWrite : Laws.Encoding.Statement .admcapWrite := fun _ _ h => nomatch h
theorem Laws.Encoding.bkptWrite : Laws.Encoding.Statement .bkptWrite := fun _ _ h => nomatch h
theorem Laws.Encoding.pkgWrite : Laws.Encoding.Statement .pkgWrite := fun _ _ h => nomatch h
theorem Laws.Encoding.startokWrite : Laws.Encoding.Statement .startokWrite := fun _ _ h => nomatch h
theorem Laws.Encoding.resetgoWrite : Laws.Encoding.Statement .resetgoWrite := fun _ _ h => nomatch h
theorem Laws.Encoding.quoteWrite : Laws.Encoding.Statement .quoteWrite := fun _ _ h => nomatch h
theorem Laws.Encoding.quoteDone : Laws.Encoding.Statement .quoteDone := fun _ _ h => nomatch h
theorem Laws.Encoding.mrextWrite : Laws.Encoding.Statement .mrextWrite := fun _ _ h => nomatch h
theorem Laws.Encoding.sampleWrite : Laws.Encoding.Statement .sampleWrite := fun _ _ h => nomatch h
theorem Laws.Encoding.samplePulse : Laws.Encoding.Statement .samplePulse := fun _ _ h => nomatch h
theorem Laws.Encoding.registerWrite : Laws.Encoding.Statement .registerWrite := fun _ _ h => nomatch h
theorem Laws.Encoding.powerGood : Laws.Encoding.Statement .powerGood := fun _ _ h => nomatch h
theorem Laws.Encoding.startokTimeout : Laws.Encoding.Statement .startokTimeout := fun _ _ h => nomatch h
theorem Laws.Encoding.mgmtReset : Laws.Encoding.Statement .mgmtReset := fun _ _ h => nomatch h
theorem Laws.Encoding.mgmtReadFailrec : Laws.Encoding.Statement .mgmtReadFailrec := fun _ _ h => nomatch h
theorem Laws.Encoding.mgmtFlashWrite : Laws.Encoding.Statement .mgmtFlashWrite := fun _ _ h => nomatch h
theorem Laws.Encoding.resetDeadline : Laws.Encoding.Statement .resetDeadline := fun _ _ h => nomatch h
theorem Laws.Encoding.heartbeat : Laws.Encoding.Statement .heartbeat := fun _ _ h => nomatch h
theorem Laws.Encoding.heartbeatTimer : Laws.Encoding.Statement .heartbeatTimer := fun _ _ h => nomatch h
theorem Laws.Encoding.leaderTimeout : Laws.Encoding.Statement .leaderTimeout := fun _ _ h => nomatch h
theorem Laws.Encoding.overtempAlert : Laws.Encoding.Statement .overtempAlert := fun _ _ h => nomatch h
theorem Laws.Encoding.overtempShutdown : Laws.Encoding.Statement .overtempShutdown := fun _ _ h => nomatch h
theorem Laws.Encoding.watchRegistration : Laws.Encoding.Statement .watchRegistration := fun _ _ h => nomatch h
theorem Laws.Encoding.operandSlotCleared : Laws.Encoding.Statement .operandSlotCleared := fun _ _ h => nomatch h
theorem Laws.Encoding.keySlotWritebackDone : Laws.Encoding.Statement .keySlotWritebackDone := fun _ _ h => nomatch h
theorem Laws.Encoding.ingressDrop : Laws.Encoding.Statement .ingressDrop := fun _ _ h => nomatch h
theorem Laws.Encoding.linkLevelRetry : Laws.Encoding.Statement .linkLevelRetry := fun _ _ h => nomatch h

end Sys2Proof
end

