-- ==== Sys2Proof/Tests/Slice0.lean ====
section
/-!
SUPPORT. Tests.  Small states; ill-formed terms that WellFormed refuses; words written out from the spec's encodings; single steps with results taken
from the spec; and, for each statement with hypotheses, a theorem whose concrete states and operands meet them.
-/

namespace Sys2Proof.Tests

open Sys2Proof.Machine

set_option Elab.async false

/-! ## A small machine -/

/-- A thread of job 1 in context 0 of core 0: gN holds N · 0x10000, and its authority table has one entry with every right. -/
def thread : Thread :=
  { st := .bound, pos := some 0, pc := 0x1000, troot := 0x2000, tid := 0x1000000, job := 1, auth := 0x100001
    g := Vector.ofFn fun i => BitVec.ofNat 64 (0x10000 * i.val) }

/-- Core 0 with the identity map of Damask memory, of the scratchpads and of the device registers in its TLB. -/
def core : Core :=
  { ctxs := [(0, thread)]
    tlb := [{ root := 0x2000, va := 0, bits := 34, leaf := 0xE3F }, { root := 0x2000, va := 0xE000000000, bits := 25, leaf := 0xE000000EBD },
      { root := 0x2000, va := 0xF000000000, bits := 34, leaf := 0xF000000EDF }] }

/-- A package that runs: tile 0 is live and assigned to job 1, key slot 0 serves every job, and the translation table at 0x2000 maps the first 16 GiB to themselves. -/
def state : State :=
  { phase := .issue, cores := [(0, core)], tiles := [(0, { state := .live, assigned := true, job := 1 })]
    keys := [(0, { valid := true, anyJob := true })], jobs := [(0, { valid := true, job := 1, live := 1 })]
    mem := [(0x2000, 0x01), (0x2001, 0x40), (0x4000, 0x3F), (0x4001, 0x0E), (0x10000E, 0x1F)]
    sectors := [0x80, 0x100, 0x400, 0x800, 0x4000].map fun a => (a, { tag := 0, written := -1 }), health := { power := .running } }

/-- The small machine with its thread changed. -/
def on (f : Thread → Thread) : State := state.modCur f

/-- The small machine with g1 to g3 given. -/
def regs (x y z : Dword) : State := on fun t => ((t.wg 1 x).wg 2 y).wg 3 z

/-- The thread in run-ahead. -/
def ahead : State :=
  on fun t => { t with bank := some { ck := t.checkpoint, target := 0x2000, predicted := true, stores := [], fault := none, committing := false } }

/-- The thread with the last word of a loop body next. -/
def atEnd (n : Nat) : State :=
  on fun t => { t with loopst := 1, loopb := t.loopb.set 0 0x1000, loopc := t.loopc.set 0 (BitVec.ofNat 64 (n * 0x100000000 + 1)) }

/-- A scratchpad address of tile 0, and an access to it. -/
def pad : Dword := 0xE000000100
def padAccess : Access := { pa := 0xE000000100, key := 0, leaf := 0xE000000EBD }
def damaskAccess : Access := { pa := 0x10000, key := 0, leaf := 0xE3F }

/-- The small machine with a message of the thread in flight, and its number as the subject. -/
def withMsg (b : Body) : State :=
  { state with subject := { a := 7 }, flight := [{ id := 7, due := 0, origin := { core := 0, name := 0x1000000, job := 1 }, body := b }] }

/-- The small machine with package 1 in reach over port 0: g1 is on its scratchpad and g2 on its Damask memory. -/
def far : State :=
  { (((state.setCore 0 { core with tlb := core.tlb ++
        [{ root := 0x2000, va := 0x800000000, bits := 25, leaf := 0x1000000E000000E7D },
         { root := 0x2000, va := 0x400000000, bits := 34, leaf := 0x10000000000000E7F }] }).modCur fun t =>
      (t.wg 1 0x800000100).wg 2 0x400010000) : State) with
    ports := [(0, { up := true })], routes := [(0xF000404008, 1)] }
def farPad : Access := { pa := gpa 1 0xE000000100, key := 0, leaf := 0x1000000E000000E7D }
def farDamask : Access := { pa := gpa 1 0x10000, key := 0, leaf := 0x10000000000000E7F }

/-- The thread of `far` as a member of a wave on package 1. -/
def farWave : State := far.modCur fun t => { t with wid := 5, wavePkg := some 1 }

/-! ## Witnesses: words -/

theorem witness_IntegerResults : state.admits {} [1, 2, 3] = true ∧ state.admits {} [31, 0, 31] = true := by decide +kernel

theorem witness_MoveAndCountResults : state.admits {} [1, 2, 0] = true ∧ state.admits {} [0, 31] = true ∧ (7 : Nat) < 8 := by decide +kernel

theorem witness_ImmediateResults :
    state.admits { imm := true } [1, 2] = true ∧ (on fun t => { t with pfxst := 0x2000000005 }).admits { imm := true } [1] = true ∧
    state.admits {} [1, 2] = true ∧ (31 : BitVec 6).toNat < 32 ∧ state.admits {} [1] = true := by decide +kernel

theorem witness_ResultFrame : (3 : GReg) ≠ 0 ∧ (0 : GReg) ≠ 3 := by decide +kernel

theorem witness_BranchResults :
    state.admits { imm := true } [1] = true ∧ (regs (-1) 1 0).admits { imm := true } [1] = true ∧
    ((regs (-1) 1 0).rg 1).slt 0 = true ∧ ((regs (-1) 1 0).rg 2).slt 0 = false ∧ ((regs (-1) 1 0).rg 3 == 0) = true ∧
    (state.offsetTarget (state.cur.imm16 4)).toNat % 4 = 0 ∧ (state.offsetTarget (state.cur.imm16 4)).toNat < 0x10000000000000 ∧
    (state.offsetTarget (state.cur.imm21 (-1))).toNat % 4 = 0 ∧ (state.offsetTarget (state.cur.imm21 (-1))).toNat < 0x10000000000000 ∧
    (state.rg 1).toNat % 4 = 0 ∧ (state.rg 1).toNat < 0x10000000000000 ∧ (regs 0xFFFFFFFFFFFFC 0 0).rg 1 = 0xFFFFFFFFFFFFC ∧
    state.admits {} [1] = true ∧ state.admits {} [2, 1] = true ∧ state.admits { roam := true } [] = true ∧ state.admits { roam := true } [2] = true ∧
    state.admits { imm := true, roam := true } [] = true ∧
    (let s := on fun t => { t with pc := 0x1002 }
     s.admits { imm := true, roam := true } [] = true ∧ s.admits { imm := true } [3] = true ∧ ((s.rg 3) != 0) = true ∧
       (s.offsetTarget (s.cur.imm16 4)).toNat % 4 ≠ 0 ∧ (s.offsetTarget (s.cur.imm21 4)).toNat % 4 ≠ 0) ∧
    ((state.rg 3) != 0) = true ∧ (state.offsetTarget (state.cur.imm16 0x8000)).toNat % 4 = 0 ∧
    0x10000000000000 ≤ (state.offsetTarget (state.cur.imm16 0x8000)).toNat ∧ 0x10000000000000 ≤ (state.offsetTarget (state.cur.imm21 0x100000)).toNat ∧
    (state.offsetTarget (state.cur.imm21 0x100000)).toNat % 4 = 0 ∧ state.admits { roam := true } [1] = true ∧
    ((regs 0x10001 0 0).rg 1).toNat % 4 ≠ 0 ∧ (regs 0x10001 0 0).admits {} [1] = true ∧ (regs 0x10001 0 0).admits { roam := true } [1] = true ∧
    (regs 0x10000000000000 0 0).admits {} [2, 1] = true ∧ 0x10000000000000 ≤ ((regs 0x10000000000000 0 0).rg 1).toNat ∧
    ((regs 0x10000000000000 0 0).rg 1).toNat % 4 = 0 := by decide +kernel

theorem witness_LoopResults :
    state.cur.depth < 3 ∧ state.cur.depth = 0 ∧ state.admits { roam := true } [1] = true ∧ (state.rg 1).toNat < 0x100000000 ∧
    (regs 0 0 0).admits { roam := true } [1] = true ∧ ((regs 0xFFFFFFFF 0 0).rg 1).toNat < 0x100000000 ∧ state.admits { roam := true } [] = true ∧
    (on fun t => { t with loopst := 1, loopb := t.loopb.set 0 0x1000, loopc := t.loopc.set 0 0x300000010 }).cur.pc.toNat + 4 * 2 <
      (on fun t => { t with loopst := 1, loopb := t.loopb.set 0 0x1000, loopc := t.loopc.set 0 0x300000010 }).cur.loopEnd 0 ∧
    ((atEnd 1).modCur fun t => { t with retiring := true }).cur.retiring = true ∧ 0 < (atEnd 1).cur.remain 0 ∧ (atEnd 0).cur.remain 0 = 0 ∧
    (on fun t => { t with loopst := 3 }).cur.depth = 3 ∧ (atEnd 3).cur.depth ≠ 3 ∧ (atEnd 3).cur.loopEnd ((atEnd 3).cur.depth - 1) ≤ (atEnd 3).cur.pc.toNat + 4 * 1 ∧
    0x100000000 ≤ ((regs 0x100000000 0 0).rg 1).toNat ∧ (regs 0x100000000 0 0).admits { roam := true } [1] = true ∧
    state.admits {} [] = true ∧ state.cur.st = .bound ∧
    (on fun t => { t with word := some 0 }).cur.word = some ({ word := 0 } : Subject).word := by decide +kernel

theorem witness_PrefixResults :
    state.cur.atLoopEnd = false ∧ state.cur.pimm = false ∧ state.cur.pmod = false ∧ state.cur.phint = false ∧ state.cur.bank = none ∧
    (on fun t => { t with pfxst := 0x2000000000 }).cur.pimm = true ∧ (on fun t => { t with pfxst := 0x4000000000 }).cur.pmod = true ∧
    (on fun t => { t with pfxst := 0x8000000000 }).cur.phint = true ∧ (atEnd 0).cur.atLoopEnd = true ∧ (atEnd 0).cur.bank = none := by decide +kernel

theorem witness_SpecialRegisterResults :
    state.admits {} [1] = true ∧ state.cur.special state.cycle 0x000 = some 0x1000000 ∧ state.cur.special state.cycle 0x00D = none ∧
    state.cur.special state.cycle 0x01E = none ∧ state.cur.special state.cycle 0x3FF = none ∧
    (regs 1 0 0).admits { ahead := !waitsAhead 0x009 } [1] = true ∧ (regs 1 0 0).cur.special 0 0x009 = some 0 ∧
    ((regs 1 0 0).cur.writeOwn 0x009 ((regs 1 0 0).rg 1)).isSome = true ∧ (regs 2 0 0).cur.writeOwn 0x009 ((regs 2 0 0).rg 1) = none ∧
    ((regs 1 0 0).cur.writeOwn 0x009 (0 &&& ~~~(regs 1 0 0).rg 1)).isSome = true ∧
    (regs 1 0 0).cur.writeOwn 0x006 (0 &&& ~~~(regs 1 0 0).rg 1) = none ∧ (regs 1 0 0).cur.special 0 0x006 = some 0x2000 ∧
    ((regs 1 0 0).cur.writeOwn 0x009 (0 ||| (regs 1 0 0).rg 1)).isSome = true ∧ ¬((1 : GReg) = 0 ∧ (0x009 : BitVec 10) = 0x003) ∧
    state.admits { ahead := false } [] = true ∧ (state.cur.writeOwn 0x007 3).isSome = true ∧ (state.cur.writeOwn 0x00A 0xFFFFFFFFFFFFC).isSome = true ∧
    (state.cur.writeOwn 0x00B 0xFFFFFFFF).isSome = true ∧ (state.cur.writeOwn 0x003 0).isSome = true ∧ state.cur.writeOwn 0x003 (-1) = none ∧
    (∀ n ∈ ([0x003, 0x007, 0x009, 0x00A, 0x00B] : List (BitVec 10)), state.admits { ahead := !waitsAhead n } [1] = true) ∧
    (0x33F : Dword) &&& 0xFFFFFFFFFFFFFCC0 = 0 ∧ state.cur.prio.toNat ≤ (3 : Dword).toNat ∧ (0xFFFFFFFFFFFFC : Dword).toNat % 4 = 0 ∧
    state.cur.wavePkg = none ∧ farWave.cur.waveAfar = some (1, gpa 1 (wcbAddr 0 5)) ∧ farWave.cur.redpend < 16 ∧ farWave.netAdmits 1 = true ∧
    farWave.admits { ahead := false } [] = true := by
  decide +kernel

/-! ## Witnesses: memory -/

theorem witness_LoadResults :
    state.admits { imm := true, nol1 := true } [2, 1] = true ∧ state.checkCur (state.eaOffset 1 0) 8 true false = .ok damaskAccess ∧
    state.checkCur (state.eaOffset 1 0) 1 true false = .ok damaskAccess ∧ isDevice damaskAccess.pa = false ∧ state.stays damaskAccess.pa = true ∧
    state.admits { nol1 := true, ahead := true } [3, 1, 0] = true ∧ state.admits { nol1 := true, ahead := false } [3, 1, 0] = true ∧
    state.checkCur (state.eaIndex 1 0 3) 4 true false = .ok damaskAccess ∧
    (regs 0xF000000000 0 0).checkCur ((regs 0xF000000000 0 0).eaOffset 1 0) 4 true false = .ok { pa := 0xF000000000, key := 0, leaf := 0xF000000EDF } ∧
    state.loadNear 0 state.cur { lane := 0, pa := 0xE000000100, size := 8 } 0 = some 0 ∧
    state.loadNear 0 state.cur { lane := 0, pa := 0x10000, size := 8 } 0 = none ∧ state.cur.runsAhead = false ∧
    ahead.loadNear 0 ahead.cur { lane := 0, pa := 0x10000, size := 8 } 0 = none ∧ ahead.cur.runsAhead = true := by decide +kernel

theorem witness_AccessFaults :
    state.admits { imm := true, nol1 := true } [2, 1] = true ∧ (regs 0x10001 0 0).checkCur 0x10001 2 true false = .fault 0x03 0 ∧
    state.admits { imm := true } [2, 1] = true ∧ state.checkCur 0x10000000000000 1 false true = .fault 0x04 0 ∧
    2 ^ 52 ≤ (0x10000000000000 : Dword).toNat ∧ (0xFFFFFFFFFFFFF : Dword).toNat < 2 ^ 52 ∧ (0xFFFFFFFFFFFFF : Dword).toNat % 2 ≠ 0 ∧
    (on fun t => { t with troot := 0 }).cur.troot = 0 ∧ (8 : Dword).toNat % 8 = 0 ∧
    state.checkCur pad 8 true false = .ok padAccess ∧ isDevice padAccess.pa = false ∧ state.checkCur 0x10000000000000 8 true false = .fault 0x04 0 ∧
    (let s := state.setCore 0 { core with tlb := [{ root := 0x2000, va := 0, bits := 34, leaf := 0xC000000E3F },
       { root := 0x2000, va := 0x400000000, bits := 34, leaf := 0x10000000000000000E7F }] }
     s.checkCur 8 8 true false = .fault 0x04 0xC000000008 ∧ s.checkCur 0x400000000 8 true false = .fault 0x12 0x1000000) := by
  decide +kernel

theorem witness_StoreResults :
    state.admits { imm := true } [2, 1] = true ∧ state.checkCur (state.eaOffset 1 0) 8 false true = .ok damaskAccess ∧ state.stays damaskAccess.pa = true ∧
    state.cur.bank = none ∧ state.cur.storeAck < 64 ∧ (on fun t => { t with storeAck := 63 }).cur.storeAck < 64 ∧
    state.netAdmits (gpaPkg damaskAccess.pa) = true ∧ state.admits {} [3, 1, 0] = true ∧ state.checkCur (state.eaIndex 1 0 0) 8 false true = .ok damaskAccess ∧
    state.admits { ahead := false } [3, 1, 0] = true ∧ state.cur.storeAck = 0 ∧ state.cur.redpend = 0 ∧
    (on fun t => { t with storeAck := 1 }).cur.storeAck ≠ 0 ∧ (on fun t => { t with redpend := 1 }).cur.redpend ≠ 0 := by decide +kernel

theorem witness_StoreRequestFrame : gpaPkg 0x10000 = state.pkg ∧ gpaPkg 0xE000000100 = state.pkg := by decide +kernel

theorem witness_VectorMemoryResults :
    state.admits { nol1 := true, roam := true } [1, 0] = true ∧ state.admits { nol1 := true, roam := true } [1] = true ∧
    state.unitLanes 1 0 1 = [] ∧ state.strideLanes 1 0 8 1 = [] ∧ state.indexLanes 1 3 8 1 = [] ∧ state.unitLanes 1 0 0 ≠ [] ∧
    state.strideLanes 1 0 8 0 ≠ [] ∧ state.indexLanes 1 3 8 0 ≠ [] ∧
    state.checkLanes 8 true false true (state.unitLanes 1 0 0) = .ok ((List.range 8).map fun i =>
      ({ lane := i, pa := 0x10000 + 8 * i, size := 8, va := BitVec.ofNat 64 (0x10000 + 8 * i) }, 0)) ∧
    state.admits { roam := true } [1, 0] = true ∧
    state.checkLanes 8 false true true [(0, state.rg 1)] = .ok [({ lane := 0, pa := 0x10000, size := 8, va := 0x10000 }, 0)] := by decide +kernel

theorem witness_AtomicResults :
    state.admits { ahead := false } [3, 1, 2] = true ∧ state.checkCur (state.rg 1) 8 true true = .ok damaskAccess ∧
    state.atomicFault damaskAccess true = none ∧ state.atomicFault damaskAccess false = none ∧ state.stays damaskAccess.pa = true ∧
    state.netAdmits (gpaPkg damaskAccess.pa) = true ∧ state.admits { ahead := false } [1, 2] = true ∧ state.checkCur (state.rg 1) 4 true true = .ok damaskAccess ∧
    state.cur.redpend < 16 ∧ (on fun t => { t with redpend := 15 }).cur.redpend < 16 ∧ 16 ≤ (on fun t => { t with redpend := 16 }).cur.redpend ∧
    state.admits { ahead := false } [] = true ∧ state.cur.storeAck = 0 ∧ state.cur.redpend = 0 ∧
    (on fun t => { t with redpend := 1 }).cur.redpend ≠ 0 := by decide +kernel

/-! ## Witnesses: vectors -/

theorem witness_VectorIntegerResults :
    (4 : Nat) ∈ [1, 2, 4, 8] ∧ (0 : Nat) < 64 / 8 ∧ vfloat .i8 = none ∧ vfloat .n64 = none ∧ state.admits { roam := true } [] = true ∧
    vsigned .i8 = true := by decide +kernel

theorem witness_VectorFloatResults :
    vfloat .f32 = some fp32 ∧ state.admits { rmo := true, roam := true } [] = true ∧ fp32 ∈ [fp16, bf16, fp32, fp64] ∧ 0x3F800000 < 2 ^ fp32.width ∧
    fp32.decode 0x3F800000 = .fin false 0x800000 (-23) ∧ fp32.decode 1 = .fin false 1 (-149) := by decide +kernel

theorem witness_MinimumAndMaximum :
    fp16 ∈ [fp16, bf16, fp32, fp64] ∧ 0xFFFF < 2 ^ fp16.width ∧ 0x8000 < 2 ^ fp16.width ∧ vfloat .f16 = some fp16 ∧
    state.admits { rmo := true, roam := true } [] = true ∧ (fp16.decode 0xFFFF).isNan = true ∧ (fp16.decode 0x8000).isNan = false := by decide +kernel

theorem witness_RefusedWords :
    state.cur.handFor = none ∧ (vfloat .i8).isNone = true ∧ (vfloat .f32).isNone = false ∧ vunsigned .n8 = true ∧ vlanes .f64 ≤ (8 : BitVec 6).toNat ∧ vfloat .i8 = none ∧
    state.admits { roam := true, ahead := false, compute := encode .xcommit } [] = true ∧
    state.admits { roam := true, ahead := false, compute := encode (.mma 1 2 3 false .fp32) } [1, 2, 3] = true ∧
    (({ state with tiles := [(0, { state := .live })] } : State).tile 0).assigned = false ∧
    (({ state with tiles := [(0, { state := .live, assigned := true, job := 2 })] } : State).tile 0).job ≠ state.cur.job.setWidth 32 := by decide +kernel

theorem witness_CompareAndReduceResults :
    state.admits { roam := true } [] = true ∧ vfloat .i8 = none ∧ vfloat .f32 = some fp32 ∧ (fp32.decode 0x7FC00000).isNan = true ∧
    state.admits { rmo := (vfloat .f32).isSome, roam := true } [] = true ∧ state.admits { rmo := (vfloat .i8).isSome, roam := true } [] = true ∧
    [some 1, none].length = 2 ^ 1 := by decide +kernel

theorem witness_LaneMoveResults :
    state.admits { roam := true } [] = true ∧ (7 : BitVec 6).toNat < vlanes .f64 ∧ state.admits { roam := true } [1] = true ∧
    state.admits { roam := [(1 : KReg), 2, 3].any fun k => k != 0 } [] = true ∧ state.admits { roam := (1 : KReg) != 0 } [1] = true := by decide +kernel

theorem witness_ConversionResults :
    state.admits { rmo := true, roam := true } [] = true ∧ state.admits { rmo := false, roam := true } [] = true := by decide +kernel

theorem witness_VcvtToIntegerResults :
    state.admits { rmo := true, roam := true } [] = true ∧ fp32 ∈ [fp32, fp64] ∧ (fp32.decode 0x7FC00000).isNan = true ∧
    fp32.decode 0x7F800000 = .inf false ∧ fp32.decode 0xFF800000 = .inf true ∧ fp32.decode 0xCF000000 = .fin true 0x800000 8 ∧
    fp32.decode 0x3FC00000 = .fin false 0xC00000 (-23) := by decide +kernel

/-- A machine whose thread holds the 520 dwords of a table image of zeros for the VTLOAD at its PC. -/
def tableState (x : Nat) : State :=
  { on (fun t => { t with inHand := some (t.pc, x :: List.replicate 519 0) }) with subject := { name := 0x1000000 } }

theorem witness_TableResults :
    state.admits { roam := true, rmo := true, compute := encode (.vtab 1 2 0 0 .f32) } [] = true ∧ vfloat .f32 = some fp32 ∧
    state.admits { roam := true, ahead := false, compute := encode (.vtload 0 1) } [1] = true ∧ (state.rg 1).toNat % 64 = 0 ∧
    (tableState 0).cur.handFor.isSome = true ∧ state.cur.handFor = none ∧ state.cur.storeAck = 0 ∧ state.cur.redpend = 0 ∧
    (tableState 0).whereIs (tableState 0).subject.name = some (.ctx 0 0) ∧ ((tableState 0).at (.ctx 0 0)).handFor.isSome = true ∧
    ((tableState 0).at (.ctx 0 0)).ending = none ∧
    tableBad (0 :: List.replicate 519 0) = none ∧ tableBad (0x7F800000 :: List.replicate 519 0) = some 0 := by decide +kernel

/-! ## Witnesses: waiting -/

/-- Core 0 with all its timers armed. -/
def timersFull : State :=
  state.setCore 0 { core with timers := (List.range 64).map fun i => (i, ({ target := 9, pa := 0x10000, key := 0, name := 1, job := 1 } : Timer)) }

theorem witness_WatchResults :
    state.admits { roam := true, ahead := false } [1] = true ∧
    state.checkCur (BitVec.ofNat 64 ((state.rg 1).toNat / 256 * 256)) 1 true false = .ok damaskAccess ∧ isDevice damaskAccess.pa = false ∧
    gpaPkg damaskAccess.pa = state.pkg ∧ state.ownScratch state.focus.core damaskAccess.pa = false ∧ state.ownScratch state.focus.core 0xE000000100 = true ∧
    state.admits { roam := true, ahead := false } [] = true ∧
    ((on fun t => { t with w := t.w.set 0 0xC000000000000000 }).cur.w.toList.any fun w => w.getLsbD 63 && w.getLsbD 62) = true ∧
    (state.cur.w.toList.any fun w => w.getLsbD 63) = false ∧ (state.rg 0).toNat = 0 ∧
    ((on fun t => { t with w := t.w.set 0 0x8000000000000000 }).cur.w.toList.any fun w => w.getLsbD 63) = true ∧
    ((on fun t => { t with w := t.w.set 0 0x8000000000000000 }).cur.w.toList.any fun w => w.getLsbD 63 && w.getLsbD 62) = false ∧
    (state.rg 1).toNat ≠ 0 ∧ state.admits { ahead := false } [1, 2] = true ∧ state.checkCur (state.rg 1) 32 false true (tile := false) = .ok damaskAccess ∧
    Assoc.look (state.core state.focus.core).timers 0 = none ∧
    (∀ i < 64, Assoc.look (timersFull.core timersFull.focus.core).timers i ≠ none) ∧
    (on fun t => { t with roaming := true }).admits { ahead := false } [1] = true ∧ (on fun t => { t with roaming := true }).cur.roaming = true := by decide +kernel

theorem witness_WfiredReadsAndClears : state.admits { ahead := false } [0] = true ∧ state.cur.roaming = false ∧ (31 : GReg) ≠ 0 := by decide +kernel

/-- The small machine with g1 on a scratchpad address and g2 given. -/
def padState (y : Dword) : State := regs pad y 0

theorem witness_BarrierResults :
    (ownerCore (gpaLocal padAccess.pa)).isSome = true ∧ isMailbox (gpaLocal padAccess.pa) = false ∧
    (padState 1).checkCur ((padState 1).rg 1) 16 true true = .ok padAccess ∧ (padState 1).admits { ahead := false } [1, 2] = true ∧
    1 ≤ ((padState 1).rg 2).toNat ∧ ((padState 0x7FFFFF).rg 2).toNat ≤ 0x7FFFFF ∧ (padState 1).stays padAccess.pa = true ∧ (padState 1).cur.bank = none ∧
    (padState 1).cur.storeAck < 64 ∧ (padState 1).netAdmits (gpaPkg padAccess.pa) = true ∧ ((padState 0x7FFFFFFF).rg 2).toNat ≤ 0x7FFFFFFF ∧
    (padState 0x7FFFFFFF).cur.redpend < 16 ∧ 0x7FFFFF < ((padState 0x800000).rg 2).toNat ∧ ((padState 0).rg 2).toNat = 0 ∧
    0x7FFFFFFF < ((padState 0x80000000).rg 2).toNat ∧ (padState 1).admits { ahead := false } [1] = true ∧
    (padState 1).checkCur ((padState 1).rg 1) 16 true false = .ok padAccess ∧ gpaPkg padAccess.pa = (padState 1).pkg ∧
    (padState 1).tileStateAt (gpaLocal padAccess.pa) ≠ .reset ∧ (∀ y ∈ addrs (gpaLocal padAccess.pa) 16, (padState 1).poisoned y = false) ∧
    ((padState 1).countRedirect (gpaLocal padAccess.pa)).ownAhead 0x1000000 (.barrier (gpaLocal padAccess.pa) 0) = false ∧
    (TBar.ofNat ((padState 1).val (gpaLocal padAccess.pa) 16 0)).fault = false ∧
    (TBar.ofNat ((padState 1).val (gpaLocal padAccess.pa) 16 0)).phase = (0 : BitVec 4).toNat ∧
    (TBar.ofNat ((padState 1).val (gpaLocal padAccess.pa) 16 0)).phase ≠ (1 : BitVec 4).toNat ∧
    (padState 1).ownScratch (padState 1).focus.core padAccess.pa = true ∧ (padState 1).heldAtTile (gpaLocal padAccess.pa) = false ∧
    state.checkCur (state.rg 1) 16 true true = .ok damaskAccess ∧ state.checkCur (state.rg 1) 16 true false = .ok damaskAccess ∧
    (ownerCore (gpaLocal damaskAccess.pa)).isNone = true ∧ state.admits { ahead := false } [1, 2] = true ∧
    state.admits { ahead := false } [1] = true ∧ far.admits { ahead := false } [1] = true ∧ far.checkCur (far.rg 1) 16 true false = .ok farPad ∧
    (ownerCore (gpaLocal farPad.pa)).isSome = true ∧ isMailbox (gpaLocal farPad.pa) = false ∧ far.stays farPad.pa = true ∧ gpaPkg farPad.pa ≠ far.pkg ∧
    (let s := (regs 0xE000400100 0 0).setTile 1 { state := .live, assigned := true, job := 1 }
     s.checkCur (s.rg 1) 16 true false = .ok { padAccess with pa := 0xE000400100 } ∧ (ownerCore 0xE000400100).isSome = true ∧ isMailbox 0xE000400100 = false ∧
       (s.countRedirect 0xE000400100).ownAhead s.cur.name (.barrier 0xE000400100 1) = false ∧ s.ownScratch 0 0xE000400100 = false ∧
       s.tileStateAt 0xE000400100 ≠ .reset ∧ s.admits { ahead := false } [1] = true ∧ s.stays 0xE000400100 = true ∧
       (TBar.ofNat (s.val 0xE000400100 16 0)).phase ≠ (1 : BitVec 4).toNat) := by decide +kernel

/-- The small machine whose core has the endpoint of core 0 in g1, with mailbox counter 0. -/
def epState : State := regs (BitVec.ofNat 64 (endpoint 0 0)) 0 0

theorem witness_MailboxTicketResults :
    epState.endpointFor (epState.rg 1) 37 = some (0, 0) ∧ epState.endpointFor (epState.rg 1) 31 = some (0, 0) ∧
    epState.admits { ahead := false } [1, 2] = true ∧ epState.admits { ahead := false } [3, 1] = true ∧ epState.cur.redpend < 16 ∧
    epState.netAdmits (gpaPkg (counterAt 0 0 (epState.rg 1))) = true ∧ (0 : Nat) = epState.pkg ∧
    epState.tileStateAt (gpaLocal (counterAt 0 0 (epState.rg 1))) ≠ .reset ∧
    (∀ y ∈ addrs (gpaLocal (counterAt 0 0 (epState.rg 1))) 4, epState.poisoned y = false) ∧
    (epState.countRedirect (gpaLocal (counterAt 0 0 (epState.rg 1)))).ownAhead 0x1000000 (.mailbox (gpaLocal (counterAt 0 0 (epState.rg 1))) 1) = false ∧
    epState.heldAtTile (gpaLocal (counterAt 0 0 (epState.rg 1))) = false ∧
    mailboxMet (epState.val (gpaLocal (counterAt 0 0 (epState.rg 1))) 4 0) 0 = true ∧
    mailboxMet (epState.val (gpaLocal (counterAt 0 0 (epState.rg 1))) 4 0) 1 = false ∧
    epState.ownScratch epState.focus.core (counterAt 0 0 (epState.rg 1)) = true ∧ epState.netAdmits 0 = true ∧
    ({ epState with tickets := [((epState.rg 1).toNat, { called := 1 })] } : State).gate (epState.rg 1).toNat ≠ {} ∧
    (epState.gate (epState.rg 1).toNat).hasCalled 0 = true ∧ (epState.gate (epState.rg 1).toNat).hasCalled 1 = false ∧
    (regs (-1) 0 0).endpointFor ((regs (-1) 0 0).rg 1) 37 = none ∧ (regs (-1) 0 0).endpointFor ((regs (-1) 0 0).rg 1) 31 = none ∧
    mailboxMet 0x7FFFFFFF 0 = true ∧ mailboxMet 0x80000000 0 = false ∧
    (far.modCur fun t => t.wg 1 (BitVec.ofNat 64 (endpoint 1 0))).endpointFor (BitVec.ofNat 64 (endpoint 1 0)) 31 = some (0, 1) ∧ 1 ≠ far.pkg ∧
    far.netAdmits 1 = true ∧ far.admits { ahead := false } [1, 2] = true ∧ far.heardCalled (endpoint 1 0) 1 = false ∧
    ({ far with heardCalls := [(endpoint 1 0, 2)] } : State).heardCalled (endpoint 1 0) 1 = true := by decide +kernel

/-! ## Witnesses: threads -/

/-- The small machine whose job is as given. -/
def withJob (e : JobEntry) : State := { state with jobs := [(0, { e with valid := true, job := 1 })] }

/-- The small machine whose thread is in the wave of block 0 of core 0. -/
def inWave : State := on fun t => { t with wid := 0 }

theorem witness_SpawnResults :
    state.admits { roam := true, ahead := false } [1] = true ∧ state.cur.wave = none ∧ inWave.cur.wave.isSome = true ∧
    (∀ a, inWave.cur.wave = some a → inWave.waveSize a ≠ 64) ∧
    ({ state with jobs := [] } : State).jobIndex (state.cur.job.setWidth 32) = none ∧ state.jobIndex (state.cur.job.setWidth 32) = some 0 ∧
    ((withJob { cancelled := true }).jobEntry 0).cancelled = true ∧ (state.jobEntry 0).cancelled = false ∧ (state.jobEntry 0).allows 1 = true ∧
    ((withJob { limit := 1, live := 1 }).jobEntry 0).allows 1 = false ∧
    (state.create state.focus.core (state.spawned state.cur.b[0])).isSome = true ∧
    state.admits { roam := true, ahead := false } [1, 2] = true ∧ (state.rg 0).toNat = 0 ∧ 64 < (state.rg 1).toNat ∧
    (regs 0 64 0).admits { roam := true, ahead := false } [1, 2] = true ∧ ((regs 0 64 0).rg 2).toNat = 64 ∧ ((regs 0 64 0).jobEntry 0).allows 64 = true ∧
    (regs 0 64 0).freeBlock (regs 0 64 0).focus.core = some (wcbAddr 0 0) ∧
    state.admits { roam := true, ahead := false } [] = true ∧
    (state.pushTask state.focus.core (state.cur.taskEntry false state.cur.b[0] (state.cur.rg 2)) state.cur.identity state.forkEdge).isSome = true ∧
    (state.setCore 0 { core with dequeCount := 1023 }).pushTask 0 {} state.cur.identity none = none ∧
    state.admits { ahead := false } [1] = true ∧ (padState 0).checkCur ((padState 0).rg 1) 4 true false = .ok padAccess ∧ isDevice padAccess.pa = false ∧
    gpaPkg padAccess.pa = state.pkg ∧ state.tileStateAt (gpaLocal padAccess.pa) ≠ .reset ∧
    (∀ y ∈ addrs (gpaLocal padAccess.pa) 4, state.poisoned y = false) ∧
    state.ownAhead state.cur.name (.join (gpaLocal padAccess.pa) 0) = false ∧
    (padState 0).watchedValue (.join (gpaLocal padAccess.pa) 0) (gpaLocal padAccess.pa) 4 0 = some 0 ∧
    ({ state with mem := [(0x10000, 1)] } : State).watchedValue (.join 0x10000 0) 0x10000 4 0 ≠ some 0 ∧ state.heldAtTile (gpaLocal padAccess.pa) = false ∧
    (padState 0).val (gpaLocal padAccess.pa) 4 padAccess.key = 0 ∧
    (padState 0).ownScratch 0 padAccess.pa = true ∧ state.ownScratch 0 damaskAccess.pa = false ∧
    state.checkCur (state.rg 1) 4 true false = .ok damaskAccess ∧
    ({ state with mem := [(0x10000, 1)] } : State).val (gpaLocal damaskAccess.pa) 4 damaskAccess.key ≠ 0 ∧
    state.cur.waveAfar = none ∧ farWave.admits { roam := true, ahead := false } [3] = true ∧ farWave.cur.waveAfar = some (1, gpa 1 (wcbAddr 0 5)) ∧
    farWave.cur.handFor = none ∧ farWave.netAdmits 1 = true ∧
    (farWave.modCur fun t => { t with inHand := some (t.pc, [64]) }).cur.handFor = some [64] ∧
    (state.farPage damaskAccess.pa).getD (state.homeAddr damaskAccess.pa) = 0x10000 ∧ far.admits { ahead := false } [2] = true ∧
    far.checkCur (far.rg 2) 4 true false = .ok farDamask ∧ isDevice farDamask.pa = false ∧
    gpaPkg ((far.farPage farDamask.pa).getD (far.homeAddr farDamask.pa)) ≠ far.pkg ∧
    far.ownValue far.cur.name farDamask.pa 4 0 ≠ some 0 ∧
    ({ far with flight := [{ id := 3, due := 9, origin := far.curOrigin, dst := 1, body := .store (storeBytes farDamask.pa 4 0) 0 none false false }] } : State).ownValue
      far.cur.name farDamask.pa 4 0 = some 0 := by decide +kernel

/-- Whether a rights check finds an entry, and with these rights. -/
def found (r : Except Nat Nat) (n : Nat) : Bool := match r with | .ok x => x == n | .error _ => false

theorem witness_CallResults :
    epState.admits { roam := true, ahead := false } [4, 1] = true ∧ epState.endpointFor (epState.rg 1) 31 = some (0, 0) ∧
    epState.checkCur (epState.rg 4) 8 false true = .ok { pa := 0x40000, key := 0, leaf := 0xE3F } ∧ found (epState.rights epState.cur (coversCore (epState.rg 1).toNat)) 31 = true ∧
    31 &&& 16 = 16 ∧ epState.jobIndex (epState.cur.job.setWidth 32) = some 0 ∧ (epState.jobEntry 0).cancelled = false ∧ epState.netAdmits 0 = true ∧
    (regs (-1) 0 0).endpointFor ((regs (-1) 0 0).rg 1) 31 = none ∧ state.admits { ahead := false } [1, 2] = true ∧ state.cur.replyAddr = 0 ∧
    (on fun t => { t with replyAddr := 0x10000 }).cur.replyAddr ≠ 0 ∧
    (on fun t => { t with replyAddr := 0x10000 }).rg 1 = (on fun t => { t with replyAddr := 0x10000 }).cur.replyAddr ∧
    (on fun t => { t with replyAddr := 0x10000 }).admits { ahead := false } [1, 2] = true ∧
    (∀ y ∈ epState.cur.tableEntries, epState.entryFar y = false ∧ ∀ e ∈ epState.farEntries, e.1 ≠ y) ∧
    (on fun t => { t with replyAddr := 0x20000 }).rg 1 ≠ (on fun t => { t with replyAddr := 0x20000 }).cur.replyAddr := by decide +kernel

/-- The small machine with its thread roaming. -/
def roaming : State := on fun t => { t with roaming := true, admitted := true }

theorem witness_EndRoamResults :
    state.admits { ahead := false } [1] = true ∧ state.checkCur (state.rg 1) 4 true true = .ok damaskAccess ∧ state.atomicFault damaskAccess true = none ∧
    state.admits { roam := true, ahead := false } [] = true ∧ state.cur.burst = false ∧ state.cur.depth = 0 ∧ state.ownsSlot state.cur.name = false ∧
    0 < (atEnd 1).cur.depth ∧ (atEnd 1).admits { roam := true, ahead := false } [] = true ∧ state.admits { ahead := false } [] = true ∧
    state.cur.roaming = false ∧ roaming.cur.roaming = true ∧ roaming.admits { ahead := false } [1] = true ∧
    roaming.checkCur (roaming.rg 1) 1 true false = .ok damaskAccess ∧ isDamask padAccess.pa = false ∧
    (roaming.modCur fun t => t.wg 1 pad).checkCur ((roaming.modCur fun t => t.wg 1 pad).rg 1) 1 true false = .ok padAccess ∧ isDamask damaskAccess.pa = true ∧ gpaPkg damaskAccess.pa = roaming.pkg ∧
    channelCore (gpaLocal damaskAccess.pa) ≠ roaming.focus.core ∧ roaming.cur.storeAck = 0 ∧ roaming.cur.redpend = 0 ∧ roaming.netAdmits 0 = true ∧
    roaming.admits { ahead := false } [] = true ∧ endpointPkg (nameEp roaming.cur.name) = roaming.pkg ∧
    endpointPkg (nameEp (roaming.modCur fun t => { t with tid := 0x1000001000000 }).cur.name) ≠ roaming.pkg := by decide +kernel

/-- A launch descriptor of one wave of one thread on core 0, in hand for the word at the PC. -/
def inHand (ds : List Nat) : State := on fun t => { t with inHand := some (t.pc, ds) }
def launch : List Nat := [0x1000, 1 + 0x1000000 + 0x100000000, 0x10000, 0, 0, 0, 0, 0]

theorem witness_LaunchCancelResults :
    (inHand launch).admits { ahead := false } [1] = true ∧ (inHand launch).checkCur ((inHand launch).rg 1) 64 true false = .ok damaskAccess ∧
    (inHand launch).stays damaskAccess.pa = true ∧ (inHand launch).cur.handFor = some launch ∧ launchBad launch = none ∧
    (launchBad [1, 0, 0, 0, 0, 0, 0, 0]).isSome = true ∧ fieldOf (launch.getD 2 0) 16 10 = 1 ∧
    found ((inHand launch).rights (inHand launch).cur (coversCore (endpoint 0 (launchCore (launch.getD 2 0) 0)))) 31 = true ∧
    (inHand launch).jobIndex ((inHand launch).cur.job.setWidth 32) = some 0 ∧
    ((inHand launch).jobEntry 0).cancelled = false ∧ ((inHand launch).jobEntry 0).allows 1 = true ∧
    fieldOf (launch.getD 1 0) 0 24 ≤ fieldOf (launch.getD 2 0) 16 10 * fieldOf (launch.getD 1 0) 32 8 ∧
    launchBad [0x1000, 2 + 0x1000000 + 0x100000000, 0x10000, 0, 0, 0, 0, 0] = none ∧
    ((withJob { cancelled := true }).jobEntry 0).cancelled = true ∧ ((withJob { limit := 1, live := 1 }).jobEntry 0).allows 1 = false ∧
    (regs 1 0 0).admits { ahead := false } [1] = true ∧ ((regs 1 0 0).rg 1).setWidth 32 = (regs 1 0 0).cur.job.setWidth 32 ∧
    ((regs 2 0 0).rg 1).setWidth 32 ≠ (regs 2 0 0).cur.job.setWidth 32 ∧ found (state.rights state.cur fun mask _ => mask == 0) 31 = true ∧
    found (({ state with mem := [(0x10000E, 0x1E)] } : State).rights state.cur fun mask _ => mask == 0) 0x1E = true ∧
    (∀ y ∈ (inHand launch).cur.tableEntries, (inHand launch).entryFar y = false ∧ ∀ e ∈ (inHand launch).farEntries, e.1 ≠ y) ∧
    ((regs 1 0 0).jobIndex 1).map (fun i => ((withJob { cancelled := true }).jobEntry i).cancelled) = some true := by decide +kernel

theorem witness_LaunchCancelResults_room : state.niFull 0 (state.domainPeers 0).length = false := by
  have h : (state.domainPeers 0).length ≤ 4096 := Nat.le_trans (List.length_filter_le _ _) (by simp)
  have e : (state.netHeld 0).length = 0 := by decide +kernel
  simp only [State.niFull, netCap, e, decide_eq_false_iff_not]
  omega

/-- A second thread, of core 0 or of core 4, that the first names in g1. -/
def two (t : Thread) (core' : Nat) : State :=
  let n : Name := BitVec.ofNat 56 (endpoint 0 core' * 0x1000000 + 0x1000001)
  let u : Thread := { t with tid := n.setWidth 64, job := 1 }
  let s := regs (n.setWidth 64) 0 0
  let s := { s with dies := [(0, { names := [(n, core', 1)] })] }
  if core' = 0 then s.setCore 0 { s.core 0 with ctxs := (s.core 0).ctxs ++ [(1, u)] } else s.setCore core' { ctxs := [(1, u)] }

theorem witness_ThreadOpResults :
    (two { st := .stopped, prior := .ready } 0).admits { ahead := false } [1, 2, 3] = true ∧
    2 ^ 56 ≤ ((regs (-1) 0 0).rg 1).toNat ∧ ((two {} 0).rg 1).toNat < 2 ^ 56 ∧
    domainOf (endpointPkg (nameEp (((two {} 0).rg 1).setWidth 56))) = domainOf (two {} 0).pkg ∧
    domainOf (endpointPkg (nameEp 0xFF000000000000)) ≠ domainOf state.pkg ∧
    found ((two {} 0).rights (two {} 0).cur (coversName (two {} 0).cur.name (((two {} 0).rg 1).setWidth 56))) 31 = true ∧
    found (({ two {} 0 with mem := [(0x10000E, 0x10)] } : State).rights (two {} 0).cur (coversName (two {} 0).cur.name (((two {} 0).rg 1).setWidth 56))) 16 = true ∧
    (two { st := .stopped } 0).target (((two {} 0).rg 1).setWidth 56) = some (.ctx 0 1) ∧
    (two { st := .stopped } 0).opReady (.read 5) (.ctx 0 1) = true ∧ ((two { st := .stopped } 0).operate (.read 5) (.ctx 0 1) false []).1 = .value 0 ∧
    ((two { st := .ready } 0).operate (.read 5) (.ctx 0 1) false []).1 = .fault 0x07 2 ((two {} 0).rg 1) ∧
    (two { st := .stopped } 4).target (((two {} 4).rg 1).setWidth 56) = some (.ctx 4 1) ∧ (two {} 4).netAdmits 0 = true ∧
    (two { st := .waiting, wait := { k := 13, act := .done 0 } } 0).opReady .state (.ctx 0 1) = false ∧
    (∀ y ∈ (two {} 0).cur.tableEntries, (two {} 0).entryFar y = false ∧ ∀ f ∈ (two {} 0).farEntries, f.1 ≠ y) := by decide +kernel

theorem witness_ThreadImage :
    ((two { st := .ready } 0).at (.ctx 0 1)).halted = false ∧ ((two { st := .stopped } 0).at (.ctx 0 1)).halted = true ∧
    ((two { st := .stopped } 0).writeAt (.ctx 0 1) 5 7).isSome = true ∧ (two { st := .stopped } 0).writeAt (.ctx 0 1) 0xC0 7 = none ∧
    thread.roaming = false ∧ thread.retiring = false ∧ (thread.writeImage 0x1F (-1)).isSome = true ∧ (thread.writeImage 0xA0 5).isSome = true ∧
    (thread.writeImage 0xAF 4).isSome = true ∧ (thread.writeImage 0xB0 4).isSome = true ∧ (thread.writeImage 0xC3 1).isSome = true ∧
    (thread.writeImage 0xC9 1).isSome = true ∧
    ((two { st := .stopped, prior := .waiting, stopping := true } 0).at (.ctx 0 1)).stopping = true ∧
    ((two { st := .faulted, fcode := 0x0E, pcWritten := true } 0).at (.ctx 0 1)).stopping = false ∧ thread.st ≠ .free := by decide +kernel

/-! ## Witnesses: translation, tiles, engines, copies, collectives -/

/-- The small machine with pages 1 and 2 of Damask memory, those of g1 and g2, mapped by leaves of 64 KiB; and with page 1 moving as given. -/
def paged : State :=
  state.setCore 0 { core with tlb := [{ root := 0x2000, va := 0x10000, bits := 16, leaf := 0x10E3B }, { root := 0x2000, va := 0x20000, bits := 16, leaf := 0x20E3B }] }
def moving (target : Option Nat) : State := { paged with moves := [{ page := 1, target := target, since := 0 }] }

/-- The same with page 1 on package 1. -/
def farSmall : State :=
  { (far.setCore 0 { core with tlb := [{ root := 0x2000, va := 0x10000, bits := 16, leaf := 0x10000000000010E7B },
      { root := 0x2000, va := 0x20000, bits := 16, leaf := 0x20E3B }] }) with pkg := 0 }

theorem witness_TranslationResults :
    state.admits { ahead := false } [1, 2] = true ∧ tlbInvBad 3 = true ∧ tlbInvBad (state.rg 0) = false ∧ state.cur.handFor = none ∧
    state.cur.storeAck = 0 ∧ state.cur.redpend = 0 ∧ (inHand [1, 1]).cur.handFor = some [1, 1] ∧ (inHand [1, 1]).tlbinvOpen 0 (1, 1) = (false, (1, 1)) ∧
    ({ inHand [5, 5] with flight := [{ id := 3, due := 9, origin := (inHand []).curOrigin, body := .tlbinv { root := 0, allRoots := true, allPages := true, va := 0 } none, dst := 1 }] } : State).tlbinvOpen 2 (5, 5) = (true, (5, 5)) ∧
    state.admits { ahead := false } [1] = true ∧ state.cur.storeAck = 0 ∧ paged.admits { ahead := false } [1, 2] = true ∧ paged.checkCur (paged.rg 1) 1 false true = .ok { pa := 0x10000, key := 0, leaf := 0x10E3B } ∧ leafFixed 0x10E3B = false ∧
    (regs 0xF000000000 0 0).checkCur ((regs 0xF000000000 0 0).rg 1) 1 false true = .ok { pa := 0xF000000000, key := 0, leaf := 0xF000000EDF } ∧
    leafFixed 0xF000000EDF = true ∧ (paged.pageMove 1).isSome = false ∧
    ((moving none).pageMove 1).isSome = true ∧ gpaPkg damaskAccess.pa = state.pkg ∧
    (moving (some 5)).pageMove 1 = some { page := 1, target := some 5, since := 0 } ∧ state.rg 0 = 0 ∧ state.rg 2 ≠ 0 ∧
    (moving none).checkCur ((moving none).rg 2) 1 false true = .ok { pa := 0x20000, key := 0, leaf := 0x20E3B } ∧ leafFixed 0x20E3B = false ∧ ((moving none).rg 2).toNat % 0x10000 = 0 ∧
    (moving none).pageMove (gpaLocal 0x20000 / 0x10000) = none ∧
    state.checkCur (BitVec.ofNat 64 ((state.rg 1).toNat / 256 * 256)) 1 true false = .ok damaskAccess ∧ isDevice 0xF000000000 = true ∧
    isDevice damaskAccess.pa = false ∧ (ownerCore (gpaLocal padAccess.pa)).isSome = true ∧ ownerCore (gpaLocal damaskAccess.pa) = none ∧
    state.netAdmits (gpaPkg damaskAccess.pa) = true ∧ gpaPkg farDamask.pa ≠ far.pkg ∧ leafFixed farDamask.leaf = true ∧
    leafFixed 0x10000000000010E7B = false := by decide +kernel

theorem witness_TranslationResults_moves :
    (on fun t => { t with storeAck := 1 }).cur.storeAck ≠ 0 ∧
    (moving none).pageMove 1 = some { page := 1, target := none, since := 0 } ∧ ((moving (some 5)).pageMove 1).map (·.target.isSome) = some true ∧
    ({ paged with moves := [{ page := 1, target := none, since := 0, frame := true }] } : State).pageMove 1 =
      some { page := 1, target := none, since := 0, frame := true } ∧
    (farSmall.checkCur (farSmall.rg 1) 1 false true = .ok { pa := gpa 1 0x10000, key := 0, leaf := 0x10000000000010E7B }) ∧ gpaPkg (gpa 1 0x10000) ≠ farSmall.pkg ∧
    farSmall.netAdmits 1 = true ∧ farSmall.checkCur (farSmall.rg 2) 1 false true = .ok { pa := 0x20000, key := 0, leaf := 0x20E3B } ∧
    state.cur.targets[0] = [] ∧ (on fun t => { t with prepared := t.prepared.set 0 true, targets := t.targets.set 0 [(0x10004, 0)] }).cur.prepared[0] = true ∧
    ((on fun t => { t with prepared := t.prepared.set 0 true, targets := t.targets.set 0 [(0x10004, 0)] }).cur.targets[0].any fun y => y.1 / 256 == 0x100) = true := by decide +kernel

/-- The small machine with tile 9 as given, g1 on tile n and g2 given. -/
def tile9 (t : Tile) (n y : Dword) : State := (regs n y 0).setTile 9 t

theorem witness_TileSaveResults :
    (tile9 {} 9 0).admits { ahead := false } [1, 2] = true ∧ 159 < ((tile9 {} 160 0).rg 1).toNat ∧ ((tile9 {} 159 0).rg 1).toNat ≤ 159 ∧
    (∀ j < 4, found ((tile9 {} 9 0).rights (tile9 {} 9 0).cur (coversCore (endpoint 0 (4 * 9 + j)))) 31 = true) ∧
    (tile9 {} 0 0).focus.core < 640 ∧ (tile9 {} 0 0).here = 0 ∧ ((tile9 {} 9 0).tile 9).state ≠ .live ∧ ((tile9 { state := .live } 9 0).tile 9).state = .live ∧
    ((tile9 { state := .live } 9 0x100000).rg 2).toNat % 0x100000 = 0 ∧
    (match (tile9 { state := .live } 9 0x100000).imageWalk 0x100000 160 with | (_, some (.ok xs)) => xs.length == 160 | _ => false) = true ∧
    (∀ y ∈ (tile9 {} 9 0).cur.tableEntries, (tile9 {} 9 0).entryFar y = false ∧ ∀ e ∈ (tile9 {} 9 0).farEntries, e.1 ≠ y) ∧
    ((tile9 { state := .saved, image := 0x100000 } 9 0x100000).tile 9).image = 0x100000 ∧ ((tile9 { state := .saved } 9 0x100000).tile 9).image ≠ 0x100000 ∧
    ((tile9 { state := .restoring } 9 1).tile 9).state ≠ .saved ∧ ((tile9 { state := .restoring } 9 1).tile 9).state ≠ .reset ∧
    (let s := tile9 {} 9 0x200000
     let s : State := { s with mem := s.mem ++ [(0x200000, 0x53), (0x200001, 0x41), (0x200002, 0x56), (0x200003, 0x45), (0x200008, 9)], sectors := s.sectors ++ [(0x8000, { tag := 0, written := -1 })] }
     let u := (s.imageWalk 0x200000 160).1
     (u.setTile 9 { u.tile 9 with image := 0x200000, imagePages := [0x200000], imageKeys := [0] }).imageDword 9 0 = saveMagic ∧
       (u.setTile 9 { u.tile 9 with image := 0x200000, imagePages := [0x200000], imageKeys := [0] }).imageDword 9 8 = 9) ∧
    ((tile9 { state := .saved } 9 0).tile 9).state = .saved ∧ (tile9 {} 9 0).rg 2 = 0 ∧ (tile9 { state := .live } 9 1).rg 2 ≠ 0 := by decide +kernel

/-- The small machine with g1 to g3 given and operand slot 0 owned by the thread. -/
def owning (x y z : Dword) : State :=
  (regs x y z).setTile 0 { state.tile 0 with slots := [(0, { owner := some 0x1000000, lastJob := some 1 }), (1, { owner := some 9 })] }

theorem witness_SlotResults :
    (owning 0 0 0).tileAdmits (.oclaim 1 3) [1, 3] = true ∧ (owning 32 0 0).rg 1 ≠ allOnes ∧ 31 < ((owning 32 0 0).rg 1).toNat ∧
    (owning allOnes 0 0).rg 1 = allOnes ∧ ((owning 0 0 0).tile 0).freeOpSlot = some 2 ∧
    (({ slots := (List.range 32).map fun i => (i, { owner := some 9 }) } : Tile)).freeOpSlot = none ∧
    (((owning 0 0 0).tile 0).opSlot 0).owner = some (owning 0 0 0).cur.name ∧ (((owning 0 0 0).tile 0).opSlot 1).owner = some 9 ∧
    (9 : Name) ≠ (owning 0 0 0).cur.name ∧ (((owning 0 0 0).tile 0).opSlot 31).owner = none ∧ (((owning 0 0 0).tile 0).opSlot 31).lastJob = none ∧
    (owning 0 0 0).tileAdmits (.orelease 1) [1] = true ∧ (((owning 0 0 0).tile 0).opSlot 1).owner ≠ some (owning 0 0 0).cur.name ∧
    (owning 0 0 0).tileAdmits (.opput 1 2) [1, 2] = true ∧ designatorBad 0 = false ∧ (owning 0 0 0).mayFill (owning 0 0 0).cur (((owning 0 0 0).tile 0).opSlot 0) = true ∧
    designatorBad 0x20 = true ∧ opputBad 511 0 = false ∧ opputBad 511 0x10 = true ∧ opputBad 0 0x170 = false ∧ blockFault 0 = none ∧
    opputBad 0 0x100 = false ∧ fieldOf 0x100 8 1 = 1 ∧ (owning 64 0 0).tileAdmits (.accsat 1 3) [1, 3] = true ∧ 63 < ((owning 64 0 0).rg 1).toNat ∧
    (owning 63 0 0).cur.handFor = none ∧ ((owning 63 0 0).rg 1).toNat ≤ 63 ∧ ((owning 0 0 0).tile 0).engine.length < 32 ∧ ((owning 0 0 0).tile 0).slotBusy 63 0 = false := by decide +kernel

/-- The queued operation of the witnesses, and the small machine with a full engine queue. -/
def anOp : EngineOp :=
  { id := 3, kind := .acczero, issuer := 0x1000000, core := 0, job := 1, troot := 0x2000, nanStop := false, a := 0, b := pad, c := 0, wait := false
    bar := 0xE000000100, barKey := 0 }

theorem witness_EngineIssueResults :
    (owning 0 pad 0).tileAdmits (.mma 1 2 3 true .fp32) [1, 2, 3] = true ∧
    mmaBadA .fp32 ((owning 0 pad 0).rg 1).toNat = false ∧ mmaBadA .fp32 0x400000 = true ∧ mmaBadC .fp32 ((owning 0 pad 0).rg 3).toNat = false ∧
    mmaBadC .fp32 (2 ^ 60) = true ∧ (mmaArgs .fp32 0 0).aSlot = 0 ∧ (mmaArgs .fp32 0 0).bSlot = 0 ∧ (mmaArgs .fp32 0x101 0).aSlot = 1 ∧
    (((owning 0 pad 0).tile 0).opSlot 0).owner = some (owning 0 pad 0).cur.name ∧ (((owning 0 pad 0).tile 0).opSlot 0).clearing = none ∧
    (owning 0 pad 0).checkCur ((owning 0 pad 0).rg 2) 16 true true = .ok padAccess ∧ (ownerCore (gpaLocal padAccess.pa)).isSome = true ∧
    isMailbox (gpaLocal padAccess.pa) = false ∧ (owning 63 0 0).tileAdmits (.acczero 1) [1] = true ∧ 63 < ((owning 64 0 0).rg 1).toNat ∧
    (owning 0x800000 pad 0).tileAdmits (.accrd 1 2 3 false .fp32) [1, 2, 3] = true ∧ accrdBad .fp32 ((owning 0x800000 pad 0).rg 1).toNat = false ∧
    ((owning 0 pad 0).rg 3).toNat % accBytes .fp32 = 0 ∧ (owning 62 pad 0).tileAdmits (.accget 1 2 3) [1, 2, 3] = true ∧
    (owning 62 pad 0).tileAdmits (.accadd 1 2 3) [1, 2, 3] = true ∧ ((owning 62 pad 0).rg 1).toNat ≤ 63 ∧ ((owning 62 pad 0).rg 1).toNat % 2 = 0 ∧
    ((owning 62 pad 0).rg 3).toNat % 16 = 0 ∧
    32 ≤ (((owning 0 0 0).setTile 0 { state.tile 0 with engine := List.replicate 32 anOp }).tile 0).engine.length ∧
    ((owning 0 0 0).tile (owning 0 0 0).here).engine.length < 32 ∧ (owning 0 pad 0).cur.handFor = none ∧
    (let s := fun (ds : List Nat) => (owning 0 pad 0).modCur fun t => { t with inHand := some (t.pc, ds) }
     (s [0, 0xE000000100, 0, 0xE000000100, 0]).cur.handFor = some [0, 0xE000000100, 0, 0xE000000100, 0] ∧ (s [63, 0, 0]).cur.handFor = some [63, 0, 0] ∧
       (s [0, 0xE000000100, 0, 0xE000000100, 0]).admits { roam := true, ahead := false, compute := encode (.mma 1 2 3 true .fp32) } [1, 2, 3] = true ∧
       (s [63, 0, 0]).admits { roam := true, ahead := false, compute := encode (.acczero 1) } [1] = true ∧
       (s [63, 0, 0]).admits { roam := true, ahead := false, compute := encode (.accsat 1 3) } [1, 3] = true) := by decide +kernel

/-- A copy descriptor: one row of 64 bytes to the barrier at `pad`; and a handler-read descriptor of one burst of 64 bytes. -/
def copyDesc : List Nat := [0xE000000100, 0x4000010000, 0, 0]
def readDesc : List Nat := [0x10000, 0x4000010001, 0, 0x1000, 0, 0x10000, 0, 0]
/-- The small machine with g1 to g3 given and these dwords in hand. -/
def handed (ds : List Nat) (x y z : Dword) : State := (regs x y z).modCur fun t => { t with inHand := some (t.pc, ds) }

theorem witness_CopyReadResults :
    copyDesc.length = 4 ∧
    (handed copyDesc 0x10000 0x20000 0x30000).cur.handFor = some copyDesc ∧
    (handed copyDesc 0x10000 0x20000 0x30000).tileAdmits (.xcopy 1 2 3) [1, 2, 3] = true ∧
    (handed copyDesc 0x10000 0x20000 0x30000).tileAdmits (.xcopysp 1 2 3) [1, 2, 3] = true ∧
    (let s := handed (copyDesc ++ [0xE000000100, 0, 0x10000, 0x20000]) 0x10000 0x20000 0x30000
     s.cur.handFor = some [0xE000000100, 0x4000010000, 0, 0, 0xE000000100, 0, 0x10000, 0x20000] ∧ s.cur.openCopies ≠ 255 ∧
       s.admits { roam := true, ahead := false, compute := encode (.xcopy 1 2 3) } [1, 2, 3] = true ∧
       s.admits { roam := true, ahead := false, compute := encode (.xcopysp 1 2 3) } [1, 2, 3] = true) ∧
    copyBad false copyDesc = none ∧ copyBad true [0xE000000100, 0x4000010001, 0, 0x10000] = none ∧ copyBad false [0, 0, 0, 0] = some 0 ∧
    (handed copyDesc 0x10000 0x20000 0x30000).checkCur (BitVec.ofNat 64 (copyDesc.getD 0 0)) 16 true true = .ok padAccess ∧
    copyMisaligned false 0 0x10000 0x20000 = none ∧ copyMisaligned false 0 0x10001 0x20000 = some 0x10001 ∧ toSlot 0 = false ∧
    toSlot 2 = true ∧ accRegionBad 0 64 = false ∧ (handed copyDesc 0x10000 0x20000 0x30000).cur.openCopies ≠ 255 ∧
    state.tileAdmits .xcommit [] = true ∧ state.cur.openCopies = 0 ∧ (on fun t => { t with xbatch := 0x100 }).cur.openCopies ≠ 0 ∧
    (on fun t => { t with xbatch := 0x108 }).cur.closed = 8 ∧ (on fun t => { t with xbatch := 0x107 }).cur.closed ≠ 8 ∧
    state.tileAdmits (.xwait 0) [] = true ∧ state.cur.closed ≤ (0 : BitVec 3).toNat ∧ (0 : BitVec 3).toNat < (on fun t => { t with xbatch := 1 }).cur.closed ∧
    (handed readDesc pad 0 0).admits { roam := true, ahead := false } [1] = true ∧
    (handed readDesc 0xE000000100 0 0).checkCur ((handed readDesc pad 0 0).rg 1) 64 true false = .ok padAccess ∧ state.cur.burst = false ∧
    (handed readDesc pad 0 0).cur.handFor = some readDesc ∧ hreadBad readDesc = none ∧ hreadBad [1, 0, 0, 0, 0, 0, 0, 0] = some 0 ∧
    fieldOf (readDesc.getD 1 0) 0 7 ≤ 48 ∧
    48 < fieldOf ([0, 0x4000010031].getD 1 0) 0 7 ∧
    (handed readDesc pad 0 0).checkCur (BitVec.ofNat 64 (readDesc.getD 5 0)) 16 false true (tile := false) = .ok damaskAccess ∧
    (handed readDesc pad 0 0).actAper damaskAccess.leaf ≠ 1 ∧ state.jobIndex (state.cur.job.setWidth 32) = some 0 ∧
    (state.jobEntry 0).allows 1 = true ∧ ((withJob { limit := 1, live := 1 }).jobEntry 0).allows 1 = false ∧
    state.checkCur (state.rg 1) 64 true false = .ok damaskAccess ∧ (ownerCore (gpaLocal damaskAccess.pa)).isNone = true ∧
    (on fun t => { t with burst := true }).cur.burst = true ∧ (on fun t => { t with burst := true }).admits { roam := true, ahead := false } [1] = true ∧
    ({ state with jobs := [] } : State).jobIndex (state.cur.job.setWidth 32) = none := by
  decide +kernel

/-- The small machine in a wave whose collective status and identifier are as given. -/
def waveOf (status id epoch : Nat) : State :=
  let s := (inWave.setWcb (wcbAddr 0 0) 3 (id + 2 ^ 62 * status)).setWcb (wcbAddr 0 0) 4 (epoch * 2 ^ 32)
  s.modCur fun t => { t.wg 1 7 with cmem := memberWord 0 0 0 0 }

theorem witness_CollectiveResults :
    state.cur.wave = none ∧ state.admits { roam := true, ahead := false } [1] = true ∧ state.cur.burst = false ∧
    state.admits { roam := true, ahead := false } [] = true ∧ state.admits { roam := true } [2] = true ∧ inWave.cur.wave = some (wcbAddr 0 0) ∧
    inWave.admits { roam := true, ahead := false } [1] = true ∧ (inWave.rg 0).toNat = 0 ∧ 2 ^ 32 ≤ ((inWave.modCur fun t => t.wg 1 (-1)).rg 1).toNat ∧
    ((waveOf 0 7 0).rg 1).toNat = 7 ∧ (waveOf 0 7 0).cstat (wcbAddr 0 0) = 0 ∧ (waveOf 1 7 0).cstat (wcbAddr 0 0) = 1 ∧
    fieldOf ((waveOf 1 7 0).wcb (wcbAddr 0 0) 3) 0 32 = 7 ∧ fieldOf ((waveOf 1 8 0).wcb (wcbAddr 0 0) 3) 0 32 ≠ 7 ∧
    (waveOf 2 7 0).cstat (wcbAddr 0 0) = 2 ∧ fieldOf ((waveOf 2 7 0).wcb (wcbAddr 0 0) 4) 2 1 = 0 ∧
    fieldOf (((waveOf 2 7 0).setWcb (wcbAddr 0 0) 4 4).wcb (wcbAddr 0 0) 4) 2 1 = 1 ∧ (waveOf 3 7 0).cstat (wcbAddr 0 0) = 3 ∧
    (waveOf 2 7 0).cur.cmemEpoch = (waveOf 2 7 0).waveEpoch (wcbAddr 0 0) % 65536 ∧
    ((waveOf 2 7 0).core (waveOf 2 7 0).focus.core).banksHeld < 16 ∧ (waveOf 2 7 0).admits { roam := true, ahead := false } [1] = true ∧
    (waveOf 2 7 0).admits { roam := true } [2] = true ∧ (waveOf 2 7 0).admits { roam := true, ahead := false } [] = true ∧ state.cur.waveAfar = none ∧
    (waveOf 2 7 1).cur.cmemEpoch ≠ (waveOf 2 7 1).waveEpoch (wcbAddr 0 0) % 65536 ∧ (waveOf 2 7 1).cstat (wcbAddr 0 0) = 2 ∧
    farWave.cur.waveAfar = some (1, gpa 1 (wcbAddr 0 5)) ∧ farWave.cur.wave = none ∧ farWave.cur.handFor = none ∧ farWave.netAdmits 1 = true ∧
    farWave.admits { roam := true, ahead := false } [3] = true ∧ farWave.cur.burst = false ∧ 0 < (farWave.rg 3).toNat ∧ (farWave.rg 3).toNat < 2 ^ 32 ∧
    farWave.admits { roam := true, ahead := false } [] = true ∧ farWave.admits { roam := true } [2] = true ∧ farWave.cur.bank = none ∧
    (let s := fun (x : Nat) => farWave.modCur fun t => { t with inHand := some (t.pc, [x]) }
     (s 2).cur.handFor = some [2] ∧ (s 0).cur.handFor = some [0] ∧ (s 0).admits { roam := true, ahead := false } [3] = true ∧
       (s 0).admits { roam := true, ahead := false } [] = true ∧ (s 0).admits { roam := true } [2] = true ∧ (s 0).cur.bank = none) := by decide +kernel

/-! ## Witnesses: events -/

/-- The small machine with an event's subject, and its core with a second thread. -/
def about (a b : Nat) : State := { state with subject := { a := a, b := b, name := 0x1000000 } }
def beside (t : Thread) : State := { (about 0 1).setCore 0 { core with ctxs := [(0, thread), (1, { t with tid := 0x1000001 })] } with cycle := 0x200000 }
/-- The small machine whose core is full of sleepers and whose spill queue waits for one context. -/
def fullCore : State :=
  { (about 0 0).setCore 0 { core with
      ctxs := (List.range 256).map fun i => (i, { thread with st := .sleeping, pos := none, sleptAt := i }), spillQueue := [0x1000100] } with
    cycle := 0x200000, dies := [(0, { slots := [(0, { core := 0, thr := { thread with tid := 0x1000100, st := .spilled } })] })] }
/-- A context on its way out of or into slot 1 of die 0. -/
def spilling (out : Bool) : State :=
  { withMsg (.spillMove 0 1 0 out) with
    cores := [(0, { core with spillQueue := [0x1000100] })]
    dies := [(0, { slots := [(1, { core := 0, thr := { thread with tid := 0x1000100, st := .spilled }, moving := true })] })] }

theorem witness_RotationEvents :
    ((about 0 0).core (about 0 0).subject.a).lost = false ∧ (about 0 0).coreSaved 0 = false ∧
    (((about 0 0).setCore 0 { core with breakpoints := core.breakStores.foldl (fun bs x => Assoc.insert bs x.1 x.2) core.breakpoints, breakStores := [] }).startMoves
      0).coreSaved 0 = false ∧
    ((about 0 0).core 0).turn 0 = some 0 ∧ ((beside { st := .ready }).core 0).quantum ≤ (on fun t => { t with turns := 4096 }).cur.turns ∧
    (on fun t => { t with yielding := true }).cur.yielding = true ∧ thread.turns < core.quantum ∧ thread.yielding = false ∧
    ((beside { st := .ready }).core 0).ctxs.any (fun y => (beside { st := .ready }).bindable y.2 && decide (y.2.effPrio ≤ thread.effPrio) &&
      decide (y.2.readyTime < (beside { st := .ready }).cycle)) = true ∧
    ((beside { st := .ready, effPrio := 1 }).thread 0 1).st = .ready ∧ 0 < ((beside { st := .ready, effPrio := 1 }).thread 0 1).effPrio ∧
    ((beside { st := .ready, effPrio := 1 }).thread 0 1).agedAt + Config.agingRotations * 16 ≤ (beside {}).cycle ∧
    (beside { st := .ready }).nextBound 0 = some 1 ∧ (fullCore.core 0).spillQueue ≠ [] ∧ fullCore.coreSaved 0 = false ∧ fullCore.freeCount 0 = 0 ∧
    fullCore.moves' (spillDie 0) < 16 ∧ fullCore.longestSleeper 0 = some 0 ∧ fullCore.freeSlot (spillDie 0) = some 1 ∧
    ((spilling true).msg? 7).map (·.body) = some (.spillMove 0 1 0 true) ∧ (Assoc.look ((spilling false).die 0).slots 1).map (·.moving) = some true ∧
    (fullCore.gathering 0).isSome = false ∧
    ((spilling false).core 0).spillQueue.head? = (Assoc.look ((spilling false).die 0).slots 1).map (·.thr.name) := by decide +kernel

/-- The small machine with a timer that is due, and with a walk that is done. -/
def dueTimer : State := (about 0 3).setCore 0 { core with timers := [(3, { target := 0, pa := 0x10000, key := 0, name := 0x1000000, job := 1 })] }

theorem witness_WakeEvents :
    ((withMsg (.fire 0 0x100 [{ name := 0x1000000, reg := 0, line := 0x100, mask := 15, armed := 0 }])).msg? 7).isSome = true ∧
    (let s := (about 0 0).modCur fun t => { t with st := .sleeping, pos := none, wait := { k := 9, act := .sleep }, deadline := 1 }
     s.whereIs 0x1000000 = some (.ctx 0 0) ∧ (s.at (.ctx 0 0)).wait.act = .sleep ∧ (s.at (.ctx 0 0)).deadline ≠ 0 ∧
       (s.at (.ctx 0 0)).deadline ≤ ({ s with cycle := 1 } : State).cycle) ∧
    Assoc.look (dueTimer.core 0).timers 3 = some { target := 0, pa := 0x10000, key := 0, name := 0x1000000, job := 1 } ∧ 0 ≤ dueTimer.cycle ∧
    dueTimer.earlierOpen 0x1000000 0 = false ∧
    ({ dueTimer with flight := [{ id := 0, due := 9, origin := dueTimer.curOrigin, body := .store [] 0 none false false }] } : State).earlierOpen 0x1000000 1 = true ∧
    (dueTimer.deviceWrite 0x10000 0 (dwordBytes [0, 0, 0x1000000, 0]) { core := 0, job := 1, record := true }).storeOpen dueTimer.nextId = false ∧
    ({ target := 0, pa := 0x10000, key := 0, name := 0x1000000, job := 1, sent := some 3 } : Timer).sent = some 3 ∧ dueTimer.storeOpen 3 = false ∧
    ({ dueTimer with flight := [{ id := 3, due := 9, origin := dueTimer.curOrigin, body := .store [] 0 none false false }] } : State).storeOpen 3 = true ∧
    state.farPage (0x10 * 256) = none ∧
    ((withMsg (.icache 0 0x10 0)).msg? 7).isSome = true ∧ (withMsg (.icache 0 0x10 0)).heldAtTile (gpaLocal (0x10 * 256)) = false ∧
    ((withMsg (.icache 0 0x10 0)).drop 7).tileStateAt (gpaLocal (0x10 * 256)) ≠ .reset ∧
    (∀ x ∈ addrs (gpaLocal (0x10 * 256)) 256, ((withMsg (.icache 0 0x10 0)).drop 7).poisoned x = false) ∧
    ([{ id := 4, root := 0x2000, page := 1, reqs := [] }] : List Walk).findIdx? (fun k => k.id == 4) = some 0 ∧ 0 < Config.walkers ∧
    (⟨.waiting, .free⟩ : TState × TState).1 = .waiting ∧ thread.stopping = false ∧ thread.st = .bound := by decide +kernel

/-- A foreign thread's request with deduplication number 5, and a window that holds that number. -/
def foreign (b : Body) : State :=
  { state with
    subject := { a := 7 }
    flight := [{ id := 7, due := 0, origin := { pkg := 1, core := 0, name := 0x1000001000000, job := 1 }, body := b, dedup := some (5, 5) }]
    windows := [{ source := endpoint 1 0, gateway := b.gateway, lus := 5, entries := [(5, .ack true [] [] 0)], last := 0 }] }

theorem witness_HomeEvents :
    ((withMsg (.load [{ lane := 0, pa := 0x10000, size := 8 }] 0 true 0)).msg? 7).isSome = true ∧
    (withMsg (.load [{ lane := 0, pa := 0x10000, size := 8 }] 0 true 0)).heldAtTile (gpaLocal 0x10000) = false ∧
    (withMsg (.load [{ lane := 0, pa := 0x10000, size := 8 }] 0 true 0)).ownOpenAt { id := 7, due := 0, origin := { name := 0x1000000 }, body := .load [] 0 true 0 } 0x10000 8 = false ∧
    (withMsg (.load [{ lane := 0, pa := 0x10000, size := 8 }] 0 true 0)).behindUnits { lane := 0, pa := 0x10000, size := 8 } = false ∧ state.farPage 0x10000 = none ∧
    isDevice 0x10000 = false ∧ (withMsg (.load [{ lane := 0, pa := 0xF000000000, size := 8 }] 0 false 0)).deviceBefore
      { id := 7, due := 0, origin := { core := 0, name := 0x1000000, job := 1 }, body := .load [] 0 false 0 } = false ∧
    state.peerRefuses { id := 7, due := 0, origin := {}, body := .load [] 0 false 0 } 0x10000 0 = none ∧
    state.peerRefuses { id := 7, due := 0, origin := { pkg := 1, job := 2 }, body := .load [] 0 false 0 } 0x10000 0 = none ∧
    state.tileStateAt (gpaLocal 0x10000) ≠ .reset ∧ state.poisonIn [{ lane := 0, pa := 0x10000, size := 8 }] = none ∧
    ((withMsg (.store [(0x10000, 5)] 0 (some 3) true false)).msg? 7).isSome = true ∧
    ((withMsg (.store [(0x10000, 5)] 0 none true true)).msg? 7).isSome = true ∧
    (withMsg (.store [(0x10000, 5)] 0 none true true)).earlierOpen 0x1000000 7 = false ∧
    (withMsg (.store [(0x10000, 5)] 0 none true true)).ownBefore { id := 7, due := 0, origin := { core := 0, name := 0x1000000, job := 1 },
                                                                   body := .store [(0x10000, 5)] 0 none true true } = false ∧
    state.lockedFor 0x10000 3 = false ∧ (moving none).lockedFor 0x10000 3 = true ∧ ({} : Origin).dev = none ∧ state.locked 0x10000 = false ∧ state.heldAtTile 0x10000 = false ∧
    ((withMsg (.atomic .add 0x10000 8 1 0 0 false)).msg? 7).isSome = true ∧ (withMsg (.atomic .add 0x10000 8 1 0 0 false)).registeredAt 0x10000 8 = [] ∧
    ((withMsg (.reduce (.alu .add 4 1) 0x10000 0 true)).msg? 7).isSome = true ∧
    (withMsg (.reduce (.alu .add 4 1) 0x10000 0 true)).registeredAt 0x10000 4 = [] ∧
    (withMsg (.atomic .add 0x10000 8 1 0 0 false)).ownBefore { id := 7, due := 0, origin := { core := 0, name := 0x1000000, job := 1 },
                                                               body := .atomic .add 0x10000 8 1 0 0 false } = false ∧
    (withMsg (.atomic .add 0x10000 8 1 0 0 false)).lockedFor 0x10000 0 = false ∧ (withMsg (.atomic .add 0x10000 8 1 0 0 false)).aheadOf 0x10000 8 0 = [] ∧
    (withMsg (.store [(0x10000, 5)] 0 (some 3) false false)).aheadOf 0x10000 8 4 ≠ [] ∧
    (withMsg (.store [(0x10000, 5)] 0 (some 3) false false)).behindOthers [(0x10000, 5)] 3 = false ∧
    (withMsg (.store [(0x10000, 5)] 0 (some 3) false false)).behindOthers [(0x10000, 5)] 4 = true ∧
    (withMsg (.reduce (.alu .add 4 1) 0x10000 0 true)).aheadOf 0x10000 4 0 = [] ∧
    ((withMsg (.load [] 0 true 0)).msg? 7).map (·.regd) = some none ∧ ((withMsg (.load [] 0 true 0)).msg? 7).map (·.dedup) = some none ∧
    ({ id := 7, due := 0, origin := {}, body := .load [] 0 true 0, regd := some 4 } : Msg).regd = some 4 ∧
    (let b : Body := .atomic .add 0x10000 8 1 0 0 false
     ((foreign b).msg? 7).bind (·.dedup) = some (5, 5) ∧ (1 : Nat) ≠ (foreign b).pkg ∧ ((foreign b).window (endpoint 1 0) b.gateway).isSome = true) := by
  decide +kernel

/-- The small machine with a reply in flight and the request that it answers. -/
def replied (reply request : Body) : State :=
  let o : Origin := { core := 0, name := 0x1000000, job := 1 }
  { state with subject := { a := 8 }
               flight := [{ id := 7, due := 0, origin := o, body := request }, { id := 8, due := 0, origin := o, body := reply, req := some 7 }] }

theorem witness_AnswerEvents :
    ((withMsg (.recall 0x10000 0)).msg? 7).isSome = true ∧ ((withMsg (.arm 0 0x100 15 0 none)).msg? 7).isSome = true ∧
    ((foreign (.recall 0x10000 0)).msg? 7).map (·.origin.pkg) = some 1 ∧ ((withMsg (.arm 0 0x100 15 0 none)).whereIs 0x1000000).isSome = true ∧
    ((replied (.data [(0, 5)] [] 0) (.load [] 0 false 0)).msg? 8).isSome = true ∧
    (let m : Msg := { id := 8, due := 0, origin := { core := 0, name := 0x1000000, job := 1 }, body := .data [] [] 0, req := some 7 }
     let s := replied (.data [(0, 5)] [] 0) (.load [] 0 false 0)
     s.relayFor m = none ∧ m.origin.walker = false ∧ m.origin.dev = none ∧ m.origin.lastResort = none ∧ s.late (.ctx 0 0) m = false ∧
       (s.modCur fun t => { t with wait := { first := 8 } }).late (.ctx 0 0) m = true) ∧
    (((replied (.data [(0, 5)] [] 0) (.load [] 0 false 0)).dropBoth
      { id := 8, due := 0, origin := {}, body := .data [] [] 0, req := some 7 }).fillL1 0 [] 0).whereIs 0x1000000 = some (.ctx 0 0) ∧
    ((replied (.old 5 []) (.atomic .add 0x10000 8 1 0 0 false)).msg? 8).isSome = true ∧
    ((replied (.ack true [] [] 0) (.store [(0x10000, 5)] 0 none true false)).msg? 8).bind (·.req) = some 7 ∧
    ((replied (.nack 0 0 0 false) (.load [] 0 false 0)).msg? 8).isSome = true ∧
    ((replied (.nack 0x12 0 0 true) (.reduce .arrive 0xE000000100 0 true)).msg? 8).isSome = true ∧
    ((replied (.ack true [] [] 0) (.store [(0x10000, 5)] 0 none true false)).msg? 7).map (·.relay) = some none ∧
    (let m : Msg := { id := 7, due := 0, origin := {}, body := .old 0 [], req := some 3 }
     state.unasked m = false ∧ state.unasked { m with head := some { src := 0, dst := 0, chan := 0, seq := 0, vc := 0, flits := 1, port := none } } = true) ∧
    state.farPage (0x100 * 256) = none ∧
    (state.named 0x1000000).map (·.runsAhead) = some false ∧ (0x12 : BitVec 8) ≠ 0 := by decide +kernel

theorem witness_RegisterEvents :
    (let b : Body := .store (storeBytes 0xF000100000 8 1) 0 none true false
     ((withMsg b).msg? 7).map (·.body) = some b ∧ (withMsg b).deviceBefore { id := 7, due := 0, origin := { core := 0, name := 0x1000000, job := 1 }, body := b } = false ∧
       (withMsg b).earlierOpen 0x1000000 7 = false) ∧
    ((withMsg (.store [(0xF000200000, 0)] 0 none true false)).msg? 7).isSome = true ∧ (state.key 0).valid = true ∧
    ((state.key 0).store 0 0).valid = false ∧ (state.key 0).clearing = none := by decide +kernel

/-- A message of the thread to package 1, all of it sent, over port 0. -/
def abroad (tries : Nat) : State :=
  { state with subject := { a := 7 }, ports := [(0, { up := true })], routes := [(0xF000404008, 1)]
               flight := [{ id := 7, due := 0, origin := { core := 0, name := 0x1000000, job := 1 }, body := .load [] 0 false 0, dst := 1, sent := 2, tries := tries }] }

theorem witness_FabricEvents :
    ((about 31 8).modPort 31 fun p => p.withLanes 0).port 31 ≠ {} ∧ (3 : Nat) ≤ 8 ∧ (about 31 8).subject.a < 32 ∧ (about 31 8).subject.b ≤ 8 ∧ (about 0 0).subject.b = 0 ∧ (about 0 8).subject.b ≠ 0 ∧
    (let s : State := { about (endpoint 1 0) 2 with windows := [{ source := endpoint 1 0, gateway := 2, lus := 5, entries := [(4, .ack true [] [] 0)], last := 0 }], cycle := Config.second }
     (s.window s.subject.a s.subject.b).isSome = true ∧ numberBelow 4 5 = true ∧ 0 + Config.second / 1000 ≤ s.cycle) ∧
    ({ core with drops := [{ name := 1, code := 0x12, till := 0, count := 1, first := 0, place := 0, faultrec := 0, troot := 0, job := 1 }] } : Core).drops.length = 1 ∧
    ((abroad 0).msg? 7).isSome = true ∧ (7 : Nat) < 8 ∧ (abroad 8).msg? 7 ≠ none ∧ (abroad 0).reachable 0 1 = true ∧
    (let m : Msg := { id := 7, due := 0, origin := {}, body := .load [] 0 false 0 }
     (match m.body with | .mgmt _ => false | .unknown .. => false | _ => true) = true ∧ m.head = none) ∧
    (let s := fun (a : Nat) => ({ about a 8 with health := { power := .minimal } } : State)
     (s 0).health.power = .minimal ∧ (s 0).subject.a = 0 ∧ (s 1).subject.a ≠ 0) := by decide +kernel

/-- The small machine with a message and the thread as given. -/
def msgThread (b : Body) (f : Thread → Thread) : State := (withMsg b).modCur f

/-- A roaming thread on its way to core 648. -/
def traveller : Thread := { thread with st := .waiting, pos := none, roaming := true }

theorem witness_TravelEvents :
    (let s := msgThread (.migrate traveller 648 0) fun _ => { traveller with stub := some { ep := endpoint 0 0, ctx := 0 } }
     s.whereIs 0x1000000 = some (.ctx 0 0) ∧ (s.at (.ctx 0 0)).ending = none ∧ (s.core 648).lost = false ∧ (s.msg? 7).map (·.dedup) = some none ∧
       s.arrivalRefused 648 traveller.packet = none ∧ ({ s with jobs := [] } : State).arrivalRefused 648 traveller.packet = some 1) ∧
    (let s := foreign (.migrate traveller 648 0)
     (1 : Nat) ≠ s.pkg ∧ (s.core 648).lost = false ∧ s.jobIndex 1 = some 0 ∧ (s.jobEntry 0).cancelled = false ∧
       s.arrivalRefused 648 (traveller.fromAfar 0 1) = none ∧ (traveller.fromAfar 0 1).stub = none ∧
       ({ s with jobs := [] } : State).arrivalRefused 648 (traveller.fromAfar 0 1) = some 1) ∧
    (let s := withMsg (.call 0 {} {})
     (s.msg? 7).isSome = true ∧ s.earlierOpen 0x1000000 7 = false ∧ s.heldAtTile (dequeBase 0) = false ∧ s.tileStateAt (dequeBase 0) ≠ .reset ∧
       ((s.countRedirect (dequeBase 0)).takeCall 0 0x1000000 {} {}).pkg = s.pkg) ∧
    (let s := withMsg (.call 0 {} {})
     ((s.setCore 0 { core with lost := true }).core 0).lost = true ∧ (s.core 0).lost = false) ∧
    ((foreign (.call 0 {} {})).msg? 7).map (fun m => decide (m.origin.pkg ≠ 0)) = some true ∧
    ((withMsg (.cancelJob 1)).msg? 7).isSome = true ∧
    ((withMsg (.tlbinv { root := 0, allRoots := true, allPages := true, va := 0 } none)).msg? 7).isSome = true ∧
    ((withMsg (.tlbinv { root := 0, allRoots := true, allPages := true, va := 0 } (some (3, 3)))).dropOpen (3, 3) fun _ => true).1 = false ∧
    ((withMsg (.load [] 0 false 0)).dropOpen (8, 8) fun _ => true).1 = true ∧
    ((withMsg (.page .lock 1 0)).msg? 7).isSome = true ∧
    (withMsg (.page .lock 1 0)).peerRefuses { id := 7, due := 0, origin := { job := 1 }, body := .page .lock 1 0 } 0x10000 0 = none ∧
    ({ state with keys := [] } : State).peerRefuses { id := 7, due := 0, origin := { pkg := 1, job := 2 }, body := .page .lock 1 0 } 0x10000 0 = some 0x04 := by decide +kernel

theorem witness_TravelEvents_tickets :
    ((withMsg (.ticket (endpoint 0 0))).msg? 7).isSome = true ∧ (state.gate (endpoint 0 0)).hasCalled 1 = false ∧
    ({ called := 1 } : TicketGate).hasCalled 1 = true ∧
    (let s := withMsg (.ticketCall (endpoint 0 0) 1 0)
     (0 : Nat) = s.pkg ∧ endpointPkg (endpoint 0 0) = (s.drop 7).pkg ∧ ∀ p ∈ (s.drop 7).places, ((s.drop 7).at p).wait.k ≠ 8) ∧
    (let m : Msg := { id := 7, due := 0, origin := { pkg := 1 }, body := .ticketCall (endpoint 1 0) 1 0
                      head := some { src := 0, dst := 0, chan := 0, seq := 0, vc := 0, flits := 1, port := none } }
     let s : Nat → State := fun ep => ({ state with subject := { a := 7 }, flight := [m], tickets := [(endpoint 0 0, { called := 1 })] } : State).modCur fun t =>
       { t with st := .waiting, pos := none, wait := { k := 8, a := BitVec.ofNat 64 ep, v := 1, act := .done 0 } }
     let u : Nat → State := fun ep => (s ep).answer 1 m (.value 0)
     (let v := (s (endpoint 0 0)).drop 7
      v.places = [.ctx 0 0] ∧ (v.at (.ctx 0 0)).wait.k = 8 ∧ (v.gate (endpoint 0 0)).hasCalled 1 = true) ∧
     m.head.isSome = true ∧ (u (endpoint 1 0)).places = [.ctx 0 0] ∧ ((u (endpoint 1 0)).at (.ctx 0 0)).wait.k = 8 ∧
       ((u (endpoint 1 0)).at (.ctx 0 0)).wait.act = .done 0 ∧ ((u (endpoint 1 0)).at (.ctx 0 0)).wait.a.toNat = endpoint 1 0 ∧
       endpointPkg (endpoint 1 0) ≠ (u 0).pkg ∧ ((u (endpoint 1 0)).hearCall (endpoint 1 0) 1).heardCalled (endpoint 1 0) 1 = true ∧ endpointPkg (endpoint 0 0) = (u 0).pkg ∧
       ((u (endpoint 0 0)).gate (endpoint 0 0)).hasCalled 1 = true) := by decide +kernel

theorem witness_TravelEvents_threads :
    (let s := msgThread (.threadOp (.read 0) 0x1000000) fun t => { t with st := .stopped, pos := none }
     s.target 0x1000000 = some (.ctx 0 0) ∧ s.opReady (.read 0) (.ctx 0 0) = true ∧ (s.operate (.read 0) (.ctx 0 0) true []).1 = .value 0) ∧
    ((withMsg (.threadOp (.read 0) 0x1000000)).operate (.read 0) (.ctx 0 0) true []).1 = .fault 0x07 2 0x1000000 ∧
    ((withMsg (.threadOp (.stop false) 0x1000000)).operate (.stop false) (.ctx 0 0) true []).1 = .later ∧
    (withMsg (.threadOp (.read 0) 0x1000009)).target 0x1000009 = none ∧ (withMsg (.threadOp (.read 0) 0x1000009)).wentTo 0x1000009 = none ∧
    ({ withMsg (.threadOp (.read 0) 0x1000009) with dies := [(0, { names := [(0x1000009, endpoint 1 0, 0)] })] } : State).wentTo 0x1000009 = some 1 ∧
    ((withMsg (.news 0x1000000 .ended)).msg? 7).isSome = true ∧ (withMsg (.news 0x1000000 .ended)).newsReady 0x1000000 .ended = true ∧ News.ended.byThread = false ∧
    (News.flags 1 1).byThread = true ∧ (withMsg (.news 0x1000009 (.flags 1 1))).newsReady 0x1000009 (.flags 1 1) = true ∧
    (withMsg (.news 0x1000009 (.flags 1 1))).whereIs 0x1000009 = none ∧
    ((withMsg (.threadOp (.read 0) 0x1000009)).core (nameCore 0x1000009)).lost = false ∧ endpointPkg (nameEp 0x1000009) = 0 ∧
    (((withMsg (.threadOp (.read 0) 0x1000009)).setCore 0 { core with lost := true }).core (nameCore 0x1000009)).lost = true ∧
    endpointPkg (nameEp 0x1000001000000) ≠ 0 ∧ (about 0 1).subject.b = 1 ∧ (about 0 2).subject.b = 2 ∧ (about 0 0).subject.b ≠ 1 ∧
    ({ about 0 1 with health := { power := .running, rootName := 0x1000000 } } : State).health.rootName = (about 0 1).subject.name ∧
    (about 0 1).subject.name ≠ (about 0 1).health.rootName ∧
    (let t : Thread := { thread with st := .stopped, pos := none, stopping := true }
     t.ending = none ∧ t.stopping = true ∧ t.stopDone = true ∧ t.startAfter = false) ∧
    (let t : Thread := { thread with st := .faulted, pos := none, pending := some { code := 1, pc := 0x1000, w2 := 0, w4 := 0, w5 := 0 } }
     t.pending.isSome = true ∧ t.storeAck = 0 ∧ t.redpend = 0 ∧ t.bank = none) := by decide +kernel

/-- The package with its health as given. -/
def healthy (h : Health) (a : Nat) : State := { about a 0 with health := h }
/-- The encoded neutral point: a key under which the signature of this point and a zero scalar verifies whatever is signed. -/
def neutral : List Byte := 1 :: List.replicate 56 0
/-- A management frame for this package, and the package with it in hand. -/
def frame (kind counter : Nat) : MgmtFrame := { target := 0, kind := kind, counter := counter, data := [], signature := neutral ++ List.replicate 57 0 }
def framed (f : MgmtFrame) (p : Power) : State :=
  { withMsg (.mgmt f) with health := { (withMsg (.mgmt f)).health with power := p, anchor := { mgmtKey := neutral } } }

theorem witness_HealthEvents :
    (healthy {} 1).subject.a = 1 ∧ (healthy {} 1).health.power = .off ∧ (about 0 0).health.power = .running ∧ (about 0 0).health.startOk = false ∧
    (about 0 0).subject.a ≠ 1 ∧ (about 1 0).health.power ≠ .off ∧ (healthy { startOk := true } 0).health.startOk = true ∧
    (about 0 0).health.starts = (about 0 0).subject.a ∧ 895 < Config.allCores ∧ ((about 895 0).core 895).lost = false ∧
    ((about 0 0).core 0).lost = false ∧ ((about 0 0).core 0).ctxs ≠ [] ∧ Config.allCores ≤ 896 ∧
    (((about 0 0).loseArrivals 0).loseStub 0 0).health.power = .running ∧
    (({ about 0 0 with cores := [(0, { lost := true })] } : State).core 0).lost = true ∧ sparesOf 0 0 = (0, some 8) ∧ sparesOf 1 255 = (7, none) ∧
    sparesOf 2 255 = (15, some 2) ∧ Assoc.getD (about 0 0).health.spares 0 0 < 8 ∧ 8 ≤ Assoc.getD (healthy { spares := [(0, 8)] } 0).health.spares 0 0 ∧
    (({ about 0 0 with cores := [(895, { lost := true })] } : State).core (640 + 255)).lost = true := by decide +kernel

theorem witness_HealthEvents_service :
    (about 0 0).subject.b = 0 ∧ (about 0 2).subject.b = 2 ∧ 5 ≤ (about 0 5).subject.b ∧ (healthy { quote := some 0x1000 } 0x1000).health.quote = some 0x1000 ∧
    (about 0 0).health.quote ≠ some 0 ∧ (healthy {} 0).health.power ≠ .running ∧
    (({ withMsg (.heartbeat 1 5 1 true) with health := { power := .running } } : State).msg? 7).map (·.dedup) = some none ∧ domainOf 1 = domainOf 0 ∧
    domainOf 4096 ≠ domainOf 0 ∧ leaderWins 5 1 0 2 = true ∧ leaderWins 0 3 5 2 = false ∧
    (about 0 0).health.settled = false ∧ (about 0 0).health.isLeader = false ∧
    (about 0 0).health.heardLeader + leaderCycles ≤ ({ about 0 0 with cycle := leaderCycles } : State).cycle ∧ (about 0 0).health.heardLower = none ∧
    ({ about 0 0 with cycle := leaderCycles } : State).cycle < 1 + leaderCycles ∧ (healthy { isLeader := true } 0).health.isLeader = true ∧
    (healthy { sampleArmed := true, sample := 5 } 5).health.sample.toNat = 5 ∧ (healthy { sampleArmed := true } 5).health.trbase = 0 ∧
    (healthy { trbase := 0x40, trsize := 896 } 5).health.trbase ≠ 0 ∧ (healthy { trbase := 0x40, trsize := 896 } 5).health.trsize ≠ 0 := by decide +kernel

theorem witness_HealthEvents_frames :
    (11 : Nat) ∉ (about 11 0).health.alerts ∧ 12 ≤ (about 12 0).subject.a ∧ ((framed (frame 1 0) .running).drop 7).accepts (frame 1 0) = false ∧
    ((framed (frame 3 1) .minimal).drop 7).accepts (frame 3 1) = true ∧
    ((framed (frame 3 1) .minimal).msg? 7).isSome = true ∧ (framed (frame 3 1) .minimal).health.resetAt = none ∧
    (framed (frame 3 1) .minimal).health.power = .minimal ∧ (about 0 0).health.power ≠ .minimal ∧
    (healthy { resetAt := some 9 } 9).health.resetAt = some 9 ∧ (about 9 0).health.resetAt ≠ some 9 := by decide +kernel

/-- The small machine with a launch of its thread in progress. -/
def launching (e : JobEntry) : State :=
  { withJob e with
    subject := { a := 5 }
    launches := [{ id := 5, name := 0x1000000, who := { job := 1 }, core := 0, d0 := 0x1000, d1 := 0x101000001, d2 := 0x10000, d3 := 0, d4 := 0, d5 := 0, d6 := 0 }] }
/-- The package with tile 9 as given and the subject on it. -/
def aboutTile (t : Tile) : State := (about 9 0).setTile 9 t

theorem witness_TileWaveEvents :
    ((launching { cancelled := true }).launches.find? fun l => l.id == 5).isSome = true ∧ (launching {}).jobIndex 1 = some 0 ∧
    ((launching { cancelled := true }).jobEntry 0).cancelled = true ∧ ((launching {}).jobEntry 0).cancelled = false ∧
    ((launching {}).core 0).lost = false ∧ (((launching {}).setCore 0 { core with lost := true }).core 0).lost = true ∧ (launching {}).freeBlock 0 = some (wcbAddr 0 0) ∧ (launching {}).roomFor 0 1 = true ∧
    ([{ wcb := 0, name := 1, core := 0, faultrec := 0, troot := 0, job := 1 }] : List WaveEnd).length = 1 ∧ state.msg? 0 = none ∧
    (∀ m ∈ state.flight, m.origin.job ≠ 1) ∧ (launching {}).roomFor 0 100000 = false ∧
    (([{ job := 1, counter := 0x10000, key := 0 }] : List Completion).find? fun c => c.job == 1) = some { job := 1, counter := 0x10000, key := 0 } ∧
    isMailbox (gpaLocal 0x10000) = false ∧ isMailbox (gpaLocal (counterAt 0 0 0)) = true ∧
    ((aboutTile { state := .saving }).stopTile 9).quietTile 9 = true ∧ ((aboutTile { state := .saving }).tile 9).drained = false ∧
    ((aboutTile { state := .saving, drained := true }).tile 9).drained = true ∧ ((aboutTile { state := .restoring }).tile 9).state = .restoring ∧
    ((aboutTile { assigned := true }).tile 9).state = .reset ∧ ((aboutTile { state := .discarding }).tile 9).state = .discarding := by decide +kernel

/-- The small machine in a collective of identifier 7 whose entry is as given, with a message. -/
def collecting (status epoch : Nat) (c : Coll) (b : Body) : State :=
  { waveOf status 7 epoch with
    subject := { a := 7 }, colls := [(7 * 128, { c with valid := true, collid := 7 })]
    flight := [{ id := 7, due := 0, origin := { core := 0, name := 0x1000000, job := 1 }, body := b }] }

theorem witness_CollectiveEvents :
    (let s := ((collecting 1 0 { locals := 1 } (.collJoin (wcbAddr 0 0) 7)).setWcb (wcbAddr 0 0) 0 (1 * 2 ^ 16)).setWcb (wcbAddr 0 0) 4 (1 * 2 ^ 16)
     let u := s.drop 7
     u.cstat (wcbAddr 0 0) = 1 ∧ fieldOf (u.wcb (wcbAddr 0 0) 3) 0 32 = 7 ∧ u.voted (wcbAddr 0 0) = u.waveLive (wcbAddr 0 0) ∧
       (u.collEntry 7).map (·.1) = some (7 * 128)) ∧
    (let f : Flit := { collid := 7, epoch := 0, member := 0 }
     let u := (collecting 2 0 { locals := 1 } (.vote f)).drop 7
     (u.collEntry 7).map (·.2.epoch) = some 0 ∧ f.member ∉ ([] : List Nat) ∧ f.member ∈ [0]) ∧
    (let u := (collecting 1 0 {} (.collJoin (wcbAddr 0 0) 9)).drop 7
     u.collEntry 9 = none ∧ ((u.collEntry 7).map fun c => decide (c.2.locals.toNat ≤ c.2.joined.toNat)) = some true) ∧
    (1 : Nat) = ({ parent := 1, valid := true, collid := 7 } : Coll).parent ∧ ({ abortSent := true } : Coll).abortSent = true ∧
    ((collecting 2 0 { parent := 1 } (.verdict { collid := 7, epoch := 0 })).drop 7).collEntry 7 = some (7 * 128, { parent := 1, valid := true, collid := 7 }) ∧
    ((collecting 3 0 {} (.collLeave (wcbAddr 0 0) 7)).cstat (wcbAddr 0 0) = 3) ∧
    (let u := (collecting 2 0 { members := [(wcbAddr 0 0, 4)] } (.collLeave (wcbAddr 0 0) 7)).drop 7
     u.cstat (wcbAddr 0 0) ≠ 3 ∧ ((u.collEntry 7).bind fun c => c.2.members.find? fun m => m.1 == wcbAddr 0 0) = some (wcbAddr 0 0, 4)) ∧
    ((collecting 2 0 {} (.abortReq { collid := 7, epoch := 0 })).drop 7).collEntry 7 = some (7 * 128, { valid := true, collid := 7 }) ∧
    (let s := (waveOf 2 7 0).setWcb (wcbAddr 0 0) 5 99
     s.cstat (wcbAddr 0 0) = 2 ∧ s.wcb (wcbAddr 0 0) 5 = 99 ∧ (99 : Nat) ≠ 0) ∧
    (ahead.cur.bank.map (·.committing) = some false) ∧ (ahead.whereIs 0x1000000 = some (.ctx 0 0)) ∧
    (let s := (waveOf 2 7 0).setCore 0 { (waveOf 2 7 0).core 0 with verdicts := [(wcbAddr 0 0, { collid := 7, epoch := 0 })] }
     let u := s.setCore 0 { s.core 0 with verdicts := [] }
     u.cstat (wcbAddr 0 0) = 2 ∧ fieldOf (u.wcb (wcbAddr 0 0) 3) 0 32 = 7 ∧ u.waveEpoch (wcbAddr 0 0) = 0) := by decide +kernel

/-- A summary of the one child of package 0 in collective 7, what the entry's test asks of its sender, and the verdicts that a core has in hand. -/
theorem witness_CollectiveEvents_summary :
    (let u := (collecting 2 0 { children := 1 } (.summary { collid := 7, epoch := 0, sender := 1 })).drop 7
     (u.collEntry 7).map (fun c => decide (c.2.epoch = 0 ∧ 1 ∉ c.2.heard ∧ c.2.kids.length < c.2.children.toNat)) = some true) ∧
    (let f : Flit := { collid := 7, epoch := 0, far := some 0x1000000 }
     let s := (about 0 0).setCore 0 { core with verdicts := [(0, f)] }
     f.far = some 0x1000000 ∧ s.subject.name = 0x1000000 ∧ (s.core s.subject.a).verdicts = [(s.subject.b, f)]) ∧
    (let f : Flit := { collid := 7, epoch := 0 }
     f.far = none ∧ state.subject.name = 0) ∧
    (let s := (waveOf 3 7 0).setCore 0 { (waveOf 3 7 0).core 0 with verdicts := [] }
     s.cstat (wcbAddr 0 0) = 3 ∧ fieldOf (s.wcb (wcbAddr 0 0) 3) 0 32 = 7 ∧ s.waveEpoch (wcbAddr 0 0) = 0) := by decide +kernel

/-- The package with one operation in the queue of tile 0, and the subject on it. -/
def running (k : EngKind) : State :=
  { (state.setTile 0 { state.tile 0 with
      slots := [(0, { owner := some 0x1000000, lastJob := some 1, clearing := some 0x1000000 })]
      engine := [{ anOp with kind := k, accepted := true }] }) with subject := { a := 0, b := 3 } }

theorem witness_EngineEvents :
    (((running .acczero).tile 0).opSlot 0).clearing = some 0x1000000 ∧ (running .acczero).whereIs 0x1000000 = some (.ctx 0 0) ∧
    (on fun t => { t with st := .waiting, wait := { k := 14, act := .done 3 } }).cur.wait.act = .done 3 ∧
    ((running .acczero).op? 0 3).map (·.accepted) = some true ∧ anOp.accepted = false ∧ anOp.reports = false ∧ ({ anOp with kind := .accget } : EngineOp).reports = true ∧
    (running .accget).earlierOpen 0x1000000 3 = false ∧ (running .accget).atOnce anOp.bar = true ∧ (running .accget).atOnce (gpa 1 anOp.bar) = false ∧
    anOp.told = none ∧ ({ anOp with told := some [3] } : EngineOp).told = some [3] ∧ ((running .accget).tile 0).engine = [{ anOp with kind := .accget, accepted := true }] ∧ anOp.known = true ∧
    (let x := mmaArgs .fp32 0 0
     let a := (running (.mma .fp32)).operand 0 x.aSlot 0 0x1000000
     mmaPoison .fp32 x a a = none ∧ mmaAccPoison ((running (.mma .fp32)).tile 0) .fp32 x = false) ∧
    (let x := mmaArgs .tag 0 (2 ^ 32 + 2 ^ 40 + 2 ^ 48)
     let o : OpSlot := { tags := [(0, 0x10018)] }
     mmaTagFault x (mmaShape .tag x.e80).q o o = none) ∧
    ((running (.accrd .fp32)).tile 0).poisonedRow 0 0 (accCols 0) (accCols 0) = none ∧ ((running .accget).tile 0).poisonedRow 3 0 4 1024 = none ∧
    ((running (.accsat 3)).tile 0).slotBusy 0 3 = false ∧ (ahead.cur.nanStop = none) ∧
    (on fun t => { t with nanStop := some { pc := 0x1000, va := 0, w4 := 0, w5 := 0 } }).cur.nanStop = some { pc := 0x1000, va := 0, w4 := 0, w5 := 0 } ∧ ahead.cur.runsAhead = true ∧
    (on fun t => { t with nanStop := some { pc := 0x1000, va := 0, w4 := 0, w5 := 0 } }).cur.runsAhead = false := by decide +kernel

/-- A copy of one sector in tile 0, and a read of one burst by core 0. -/
def aCopy : Copy :=
  { id := 3, sparse := false, issuer := 0x1000000, core := 0, job := 1, troot := 0x2000, a := 0x10000, b := 0x20000, d0 := 0xE000000100, d1 := 0x4000010000, d2 := 0
    d3 := 0, bar := 0xE000000100, barKey := 0 }
def aRead : HRead :=
  { core := 0, issuer := 0x1000000, who := { job := 1, troot := 0x2000 }, addr := pad, desc := readDesc.map fun x => BitVec.ofNat 64 x
    state := .streaming, contexts := [5] }
def copying (c : Copy) : State := { (state.setTile 0 { state.tile 0 with copies := [c] }) with subject := { a := 0, b := 3 }, nextId := 10 }
def reading (h : HRead) : State :=
  { (state.setCore 0 { core with ctxs := core.ctxs ++ [(5, { Thread.idle with reserved := true, read := some 4 })] }) with
    subject := { a := 4 }, cycle := 9, reads := [(4, h)], nextId := 10 }

theorem witness_CopyReadEvents :
    (let s := withMsg (.bulk [(0x10000, 1)] 0)
     (s.msg? 7).isSome = true ∧ s.heldAtTile 0x10000 = false ∧ s.locked 0x10000 = false ∧ s.farPage 0x10000 = none) ∧
    (let m : Msg := { id := 7, due := 0, origin := { pkg := 1, job := 2 }, body := .bulk [(0xE000000100, 1)] 0 }
     state.peerRefuses m 0xE000000100 0 = some 0x05 ∧ ({ state with keys := [] } : State).peerRefuses m 0x10000 0 = some 0x04) ∧
    (moving none).locked 0x10000 = true ∧ (moving (some (2 ^ 24 + 5))).locked 0x10000 = false ∧ ((moving (some (2 ^ 24 + 5))).farPage 0x10000).isSome = true ∧
    ({ aCopy with sending := some 0 } : Copy).sending = some 0 ∧ Assoc.look (copying aCopy).fetched 3 = none ∧ aCopy.sending = none ∧
    (copying aCopy).findCopy 3 = some (0, aCopy) ∧ (let c : Copy := { aCopy with d1 := 0x6000010003 }
     c.mode = 3 ∧ c.sectorOf 0 = 0 ∧ (0 : Nat) % 65536 = c.done % 65536) ∧
    (copying aCopy).copy? 0 3 = some aCopy ∧ (copying aCopy).earlierOpen 0x1000000 3 = false ∧ fieldOf aCopy.d1.toNat 7 1 = 0 ∧ aCopy.sectors = 1 ∧
    (copying aCopy).agentBusy aCopy.agent = false ∧ aCopy.locate (copyRows aCopy.d1.toNat) 0 0 = (0, 0) ∧ (aCopy.parts 0).getD 0 (0, 0) = (0x10000, 64) ∧
    ((copying aCopy).tile 0).inProgress 3 = true ∧
    (match (copying aCopy).copyPart aCopy 0 (0x10000 - aCopy.rowTo 0) 64 with | (_, _, .bytes bs, _) => bs == List.replicate 64 0 | _ => false) = true ∧
    (let c : Copy := { aCopy with done := 1 }
     c.arrived = false ∧ c.sectors ≤ c.done ∧
       (((copying c).agentUpdate c.agent c.bar c.barKey .arrive).modCopy 0 3 fun c => { c with arrived := true }).agentBusy c.agent = false) ∧
    ({ aCopy with arrived := true } : Copy).arrived = true ∧ (0 : Word).toNat ∈ ({ aCopy with timers := [0] } : Copy).timers ∧ aCopy.done ≤ (0 : Word).toNat ∧ numberBelow 0 0 = false ∧
    Assoc.look (reading aRead).reads 4 = some aRead ∧ (reading aRead).readHeld aRead = false ∧ aRead.opened < aRead.conc ∧
    (reading aRead).earlierOpen aRead.issuer aRead.since = false ∧ (∀ p ∈ (reading aRead).reads, p.2.core = aRead.core → p.2.lastAt ≠ (reading aRead).cycle) ∧
    (let h : HRead := { aRead with asked := [{ seq := 0, id := 8 }], opened := 1 }
     let o := (reading h).agentReadRun (h.agent 8) [] (burstSource h.words 0) (burstLen h.words 0)
     (match o with | (_, _, .bytes bs) => bs == List.replicate 64 0 | _ => false) = true ∧ o.1.jobIndex h.who.job = some 0 ∧
       (o.1.jobEntry 0).cancelled = false ∧ o.1.reservedCtx 4 h = some 5) ∧
    (let h : HRead := { aRead with state := .draining }
     h.opened = 0 ∧ (reading h).readHeld h = false ∧
       ((reading h).checkWalk h.who.troot h.who.job (BitVec.ofNat 64 (h.words.getD 5 0)) 16 false true (tile := false)).2 = .ok damaskAccess ∧ h.closing = none ∧
       (reading h).msg? 3 = none ∧ ((reading h).deviceWrite 0x10000 0 (dwordBytes h.record) { core := 0, job := 1, record := true }).msg? 10 = none) := by
  decide +kernel

/-! ## Witnesses: encodings and the machine -/

theorem witness_DecodeOfEncode :
    (Instr.add 3 1 2 false).wellFormed = true ∧ encode (.add 3 1 2 false) = some 0b000001_00011_00001_00010_0000_0_000000 := by decide +kernel

theorem witness_EncodeOfDecode : decode 0xFC000000 = .ok (.pfxImm 0) := by decide +kernel

theorem witness_StepKeepsMemory : MemoryCanonical state ∧ MemoryCanonical State.reset :=
  ⟨(by decide +kernel : Memory.wf state.mem = true), (by decide +kernel : Memory.wf State.reset.mem = true)⟩

theorem witness_StepAnswers :
    state.health.power ≠ .shutdown ∧ (∀ x ∈ state.inputs, state.cycle < x.1) ∧ state.agenda = [] ∧ state.phase = .issue ∧ state.nextTurn = some (0, 0) ∧
    (state.thread 0 0).retiring = false ∧ (state.takeTurn 0 0).cur.commits = false ∧ (state.takeTurn 0 0).cur.stall = 0 ∧
    state.resumes = [] ∧ (state.takeTurn 0 0).stopDue (state.takeTurn 0 0).cur = false ∧ (state.takeTurn 0 0).breakpoint 0 (state.takeTurn 0 0).cur = none ∧
    (let s := state.setCore 0 { core with icache := [(0x10, 0xFC000000)] }
     (s.takeTurn 0 0).fetch 0 (s.takeTurn 0 0).cur = .word 0xFC000000) ∧ decode 0xFC000000 = .ok (.pfxImm 0) ∧
    (match decode 0 with | .reject _ => true | .ok _ => false) = true := by decide +kernel

theorem witness_TakingAFault :
    Memory.wf state.mem = true ∧ state.cur.bank = none ∧ state.cur.st = .bound ∧ 895 < 896 ∧ (state.core 0).recordQueue = [] ∧ state.recordOut 0 = false ∧
    (({ state with flight := [{ id := 3, due := 9, origin := { lastResort := some 0 }, body := .store [] 0 none false false }] } : State).recordOut 0 = true) := by
  decide +kernel

theorem witness_MemoryReadAfterWrite :
    Memory.wf state.mem = true ∧     isReserved 0x10000 = false ∧ isSaveBlock 0x10000 = false ∧ isMailbox 0x10000 = false ∧ isMailbox (gpaLocal (counterAt 0 0 0)) = true ∧
    (state.place 0x10040 0).1 / 64 ≠ (state.place 0x10000 0).1 / 64 ∧ (state.place 0x10001 0).1 ≠ (state.place 0x10000 0).1 ∧
    (Assoc.look (state.putByte 0x10000 0 5).sectors (((state.putByte 0x10000 0 5).place 0x10000 0).1 / 64)).map (·.tag) =
      some ((state.putByte 0x10000 0 5).tag ((state.putByte 0x10000 0 5).effKey ((state.putByte 0x10000 0 5).place 0x10000 0).2)) := by decide +kernel

theorem witness_EffectFrames :
    (match exec .linkUp (about 0 4) with | .next _ => true | _ => false) = true ∧
    (match exec .scrub (about 0 4) with | .next _ => true | _ => false) = true := by decide +kernel

/-! ## Words written out from the spec's encodings (R163 to R166): every instruction that has a word -/

/-- Whether each word of a list decodes to its instruction. -/
def decodesAll (l : List (Word × Instr)) : Bool := l.all fun x => match decode x.1 with | .ok i => i == x.2 | .reject _ => false

theorem test_decode_majors_01_02 : decodesAll [
    (0b000001_10101_01010_11011_0000_1_000000, .add 21 10 27 true),
    (0b000001_10101_01010_11011_0000_1_000001, .sub 21 10 27 true),
    (0b000001_10101_01010_11011_00000000010, .andg 21 10 27),
    (0b000001_10101_01010_11011_00000000011, .org 21 10 27),
    (0b000001_10101_01010_11011_00000000100, .xorg 21 10 27),
    (0b000001_10101_01010_11011_00000000101, .andn 21 10 27),
    (0b000001_10101_01010_11011_00000000110, .orn 21 10 27),
    (0b000001_10101_01010_11011_0000_1_000111, .sll 21 10 27 true),
    (0b000001_10101_01010_11011_0000_1_001000, .srl 21 10 27 true),
    (0b000001_10101_01010_11011_0000_1_001001, .sra 21 10 27 true),
    (0b000001_10101_01010_11011_0000_1_001010, .rol 21 10 27 true),
    (0b000001_10101_01010_11011_0000_1_001011, .mul 21 10 27 true),
    (0b000001_10101_01010_11011_0000_1_001100, .mulh 21 10 27 true),
    (0b000001_10101_01010_11011_0000_1_001101, .mulhu 21 10 27 true),
    (0b000001_10101_01010_11011_0000_1_001110, .div 21 10 27 true),
    (0b000001_10101_01010_11011_0000_1_001111, .divu 21 10 27 true),
    (0b000001_10101_01010_11011_0000_1_010000, .rem 21 10 27 true),
    (0b000001_10101_01010_11011_0000_1_010001, .remu 21 10 27 true),
    (0b000001_10101_01010_11011_00000010010, .min 21 10 27),
    (0b000001_10101_01010_11011_00000010011, .max 21 10 27),
    (0b000001_10101_01010_11011_00000010100, .minu 21 10 27),
    (0b000001_10101_01010_11011_00000010101, .maxu 21 10 27),
    (0b000001_10101_01010_11011_00000010110, .slt 21 10 27),
    (0b000001_10101_01010_11011_00000010111, .sltu 21 10 27),
    (0b000001_10101_01010_11011_00000011000, .seq 21 10 27),
    (0b000001_10101_01010_11011_00000011001, .sne 21 10 27),
    (0b000001_10101_01010_11011_00000011010, .cmovz 21 10 27),
    (0b000001_10101_01010_11011_00000011011, .cmovnz 21 10 27),
    (0b000001_10101_01010_0000000000011100, .clz 21 10),
    (0b000001_10101_01010_0000000000011101, .ctz 21 10),
    (0b000001_10101_01010_0000000000011110, .popc 21 10),
    (0b000001_10101_01010_0000000000011111, .bswap 21 10),
    (0b000001_10101_01010_11011_0_101_0100000, .lea 21 10 27 0x5),
    (0b000010_10101_01010_1001101001101011, .addi 21 10 0x9a6b)] = true := by decide +kernel

theorem test_decode_majors_03_15 : decodesAll [
    (0b000011_10101_01010_1001101001101011, .andi 21 10 0x9a6b),
    (0b000100_10101_01010_1001101001101011, .ori 21 10 0x9a6b),
    (0b000101_10101_01010_1001101001101011, .xori 21 10 0x9a6b),
    (0b000110_10101_01010_1001101001101011, .slti 21 10 0x9a6b),
    (0b000111_10101_01010_000000000_1_011101, .slli 21 10 true 29),
    (0b000111_10101_01010_000000001_1_011101, .srli 21 10 true 29),
    (0b000111_10101_01010_000000010_1_011101, .srai 21 10 true 29),
    (0b000111_10101_01010_000000011_1_011101, .roli 21 10 true 29),
    (0b001000_10101_101011010011010110101, .movi 21 0x15a6b5),
    (0b001001_10101_101011010011010110101, .movhi 21 0x15a6b5),
    (0b001010_10101_101011010011010110101, .addpc 21 0x15a6b5),
    (0b01000000000_10101_1001101001101011, .bcEqz 21 0x9a6b),
    (0b01000000001_10101_1001101001101011, .bcNez 21 0x9a6b),
    (0b01000000010_10101_1001101001101011, .bcLtz 21 0x9a6b),
    (0b01000000011_10101_1001101001101011, .bcGez 21 0x9a6b),
    (0b01000000100_10101_1001101001101011, .bcGtz 21 0x9a6b),
    (0b01000000101_10101_1001101001101011, .bcLez 21 0x9a6b),
    (0b010001_10101_101011010011010110101, .jl 21 0x15a6b5),
    (0b01001000_101_101011010011010110101, .prep 5 0x15a6b5),
    (0b01001100000_10101_0000000000000000, .jr 21),
    (0b010011_10101_01010_0000000000000001, .jlr 21 10),
    (0b010011000000000000_101_00000000010, .jb 5),
    (0b010011_10101_0000000_110_00000000011, .jbl 21 6),
    (0b010011_00011_10101_00_110_00000000100, .bcb .gez 21 6),
    (0b01001100000_10101_00_110_00000000101, .prepr 21 6),
    (0b01010000000_10101_1001101001101011, .loop 21 0x9a6b),
    (0b010101_1010100101_1001101001101011, .loopi 0x2a5 0x9a6b)] = true := by decide +kernel

theorem test_decode_majors_16_19 : decodesAll [
    (0b010110_10101_0000000_110_00000000000, .spawn 21 6),
    (0b010110_10101_01010_00_011_00000000001, .spawnn 21 10 3),
    (0b010110000000000000_101_00000000010, .fork 5),
    (0b01011000000_10101_0000000000000011, .join 21),
    (0b010110_10101_01010_00_011_00000000100, .callat 21 10 3),
    (0b01011000000_10101_01010_00000000101, .reply 21 10),
    (0b01011000000_10101_00000000000_1_0110, .endT 21 true),
    (0b01011000000000000000000000000111, .yieldT),
    (0b01011000000000000000000000001000, .roam),
    (0b01011000000000000000000000001001, .anchor),
    (0b01011000000_10101_0000000000001010, .gohome 21),
    (0b01011000000_10101_0000000000001011, .launch 21),
    (0b01011000000_10101_0000000000001100, .cancel 21),
    (0b010111_10101_00000000000_1010100101, .srd 21 0x2a5),
    (0b01011100000_10101_001000_1010100101, .swr 21 0x2a5),
    (0b01011100000_10101_010000_1010100101, .srset 21 0x2a5),
    (0b01011100000000000100000000000011, .flushf),
    (0b01011100000_10101_011000_1010100101, .srclr 21 0x2a5),
    (0b01011100000000001000000000000000, .nop),
    (0b011000_10101_01010_000_1101000110101, .ldB 21 10 0x1a35),
    (0b011000_10101_01010_001_1101000110101, .ldBn 21 10 0x1a35),
    (0b011000_10101_01010_010_1101000110101, .ldH 21 10 0x1a35),
    (0b011000_10101_01010_011_1101000110101, .ldHn 21 10 0x1a35),
    (0b011000_10101_01010_100_1101000110101, .ldW 21 10 0x1a35),
    (0b011000_10101_01010_101_1101000110101, .ldWn 21 10 0x1a35),
    (0b011000_10101_01010_110_1101000110101, .ldD 21 10 0x1a35),
    (0b011001_10101_01010_000_1101000110101, .stB 21 10 0x1a35),
    (0b011001_10101_01010_001_1101000110101, .stH 21 10 0x1a35),
    (0b011001_10101_01010_010_1101000110101, .stW 21 10 0x1a35),
    (0b011001_10101_01010_011_1101000110101, .stD 21 10 0x1a35)] = true := by decide +kernel

theorem test_decode_majors_1A_1B : decodesAll [
    (0b011010_10101_01010_11011_0000_101_0000, .ldxB 21 10 27 0x5),
    (0b011010_10101_01010_11011_0000_101_0001, .ldxBn 21 10 27 0x5),
    (0b011010_10101_01010_11011_0000_101_0010, .ldxH 21 10 27 0x5),
    (0b011010_10101_01010_11011_0000_101_0011, .ldxHn 21 10 27 0x5),
    (0b011010_10101_01010_11011_0000_101_0100, .ldxW 21 10 27 0x5),
    (0b011010_10101_01010_11011_0000_101_0101, .ldxWn 21 10 27 0x5),
    (0b011010_10101_01010_11011_0000_101_0110, .ldxD 21 10 27 0x5),
    (0b011010_10101_01010_11011_0000_101_0111, .stxB 21 10 27 0x5),
    (0b011010_10101_01010_11011_0000_101_1000, .stxH 21 10 27 0x5),
    (0b011010_10101_01010_11011_0000_101_1001, .stxW 21 10 27 0x5),
    (0b011010_10101_01010_11011_0000_101_1010, .stxD 21 10 27 0x5),
    (0b011010_10101_01010_11011_0000_101_1011, .ldAcqW 21 10 27 0x5),
    (0b011010_10101_01010_11011_0000_101_1100, .ldAcqWn 21 10 27 0x5),
    (0b011010_10101_01010_11011_0000_101_1101, .ldAcqD 21 10 27 0x5),
    (0b011010_10101_01010_11011_0000_101_1110, .stRelW 21 10 27 0x5),
    (0b011010_10101_01010_11011_0000_101_1111, .stRelD 21 10 27 0x5),
    (0b0110110_1001_10101_01010_00000_101_000, .vld 9 21 10 5),
    (0b0110110_1001_10101_01010_00000_101_001, .vst 9 21 10 5),
    (0b0110110_1001_10101_01010_000_10_101_010, .vlds 9 21 10 .w 5),
    (0b0110110_1001_10101_01010_000_10_101_011, .vsts 9 21 10 .w 5),
    (0b0110110_1001_10101_0_0110_000_10_101_100, .vgather 9 21 6 .w 5),
    (0b0110110_1001_10101_0_0110_000_10_101_101, .vscatter 9 21 6 .w 5),
    (0b0110110_1001_10101_01010_000_10_000110, .vbcld 9 21 10 .w)] = true := by decide +kernel

theorem test_decode_majors_20_24 : decodesAll [
    (0b100000_10101_01010_11011_0000_10_1_0000, .amoAdd 21 10 27 .rel true),
    (0b100000_10101_01010_11011_0000_10_1_0001, .amoAnd 21 10 27 .rel true),
    (0b100000_10101_01010_11011_0000_10_1_0010, .amoOr 21 10 27 .rel true),
    (0b100000_10101_01010_11011_0000_10_1_0011, .amoXor 21 10 27 .rel true),
    (0b100000_10101_01010_11011_0000_10_1_0100, .amoMin 21 10 27 .rel true),
    (0b100000_10101_01010_11011_0000_10_1_0101, .amoMax 21 10 27 .rel true),
    (0b100000_10101_01010_11011_0000_10_1_0110, .amoMinu 21 10 27 .rel true),
    (0b100000_10101_01010_11011_0000_10_1_0111, .amoMaxu 21 10 27 .rel true),
    (0b100000_10101_01010_11011_0000_10_1_1000, .amoSwap 21 10 27 .rel true),
    (0b100000_10101_01010_11011_0000_10_1_1001, .amoCas 21 10 27 .rel true),
    (0b100000_10101_01010_11011_0000_10_1_1010, .amoFadd 21 10 27 .rel true),
    (0b100000_10101_01010_11011_0000_10_1_1011, .amoFmin 21 10 27 .rel true),
    (0b100000_10101_01010_11011_0000_10_1_1100, .amoFmax 21 10 27 .rel true),
    (0b10000100000_10101_01010_0000_1_0_1_0000, .redAdd 21 10 true true),
    (0b10000100000_10101_01010_0000_1_0_1_0001, .redAnd 21 10 true true),
    (0b10000100000_10101_01010_0000_1_0_1_0010, .redOr 21 10 true true),
    (0b10000100000_10101_01010_0000_1_0_1_0011, .redXor 21 10 true true),
    (0b10000100000_10101_01010_0000_1_0_1_0100, .redMin 21 10 true true),
    (0b10000100000_10101_01010_0000_1_0_1_0101, .redMax 21 10 true true),
    (0b10000100000_10101_01010_0000_1_0_1_0110, .redMinu 21 10 true true),
    (0b10000100000_10101_01010_0000_1_0_1_0111, .redMaxu 21 10 true true),
    (0b10000100000_10101_01010_0000_1_0_1_1000, .redFadd 21 10 true true),
    (0b10000100000_10101_01010_0000_1_0_1_1001, .redFmin 21 10 true true),
    (0b10000100000_10101_01010_0000_1_0_1_1010, .redFmax 21 10 true true),
    (0b10001000000000000000000000000000, .fenceAcq),
    (0b10001000000000000000000000000001, .fenceRel),
    (0b10001000000000000000000000000010, .fenceFull),
    (0b10001000000000000000000000000011, .rwait),
    (0b100100000_10_10101_000000000_1011_000, .watch 2 21 0xb),
    (0b100100000_10_000000000000000000001, .unwatch 2),
    (0b10010000000_10101_0000000000000010, .sleep 21),
    (0b100100_10101_000000000000000000011, .wfired 21),
    (0b10010000000_10101_01010_00000000100, .tmarm 21 10)] = true := by decide +kernel

theorem test_decode_majors_25_29 : decodesAll [
    (0b100101_10101_01010_0000000000000000, .tbinit 21 10),
    (0b100101_10101_01010_0000000000000001, .tbexpect 21 10),
    (0b100101_10101_000000000000000000010, .tbarrive 21),
    (0b100101_10101_000000000000000_1011_11, .tbwait 21 0xb),
    (0b100110_10101_01010_0000000000000000, .mbadd 21 10),
    (0b100110_10101_00000_01010_00000000001, .mbrd 21 10),
    (0b100110_10101_01010_0000000000000010, .mbwait 21 10),
    (0b100110_10101_00000_01010_00000000011, .tktake 21 10),
    (0b100110_10101_01010_0000000000000100, .tkwait 21 10),
    (0b101000_1001_0110_1101_101_00_0101_00000, .vadd 9 6 13 5 .i16),
    (0b101000_1001_0110_1101_101_00_0101_00001, .vsub 9 6 13 5 .i16),
    (0b101000_1001_0110_1101_101_00_0101_00010, .vmul 9 6 13 5 .i16),
    (0b101000_1001_0110_1101_101_00_0010_00011, .vfma 9 6 13 5 .bf16),
    (0b101000_1001_0110_1101_101_00_0010_00100, .vfnma 9 6 13 5 .bf16),
    (0b101000_1001_0110_1101_101_00_0101_00101, .vmin 9 6 13 5 .i16),
    (0b101000_1001_0110_1101_101_00_0101_00110, .vmax 9 6 13 5 .i16),
    (0b101000_1001_0110_0000_011_00_0101_00111, .vabs 9 6 3 .i16),
    (0b101000_1001_0110_0000_011_00_0101_01000, .vneg 9 6 3 .i16),
    (0b101000_1001_0110_1101_101_00_0010_01001, .vdiv 9 6 13 5 .bf16),
    (0b101000_1001_0110_0000_011_00_0010_01010, .vsqrt 9 6 3 .bf16),
    (0b101000_1001_0110_1101_101_00_0101_01011, .vand 9 6 13 5 .i16),
    (0b101000_1001_0110_1101_101_00_0101_01100, .vor 9 6 13 5 .i16),
    (0b101000_1001_0110_1101_101_00_0101_01101, .vxor 9 6 13 5 .i16),
    (0b101000_1001_0110_0000_011_00_0101_01110, .vnot 9 6 3 .i16),
    (0b101000_1001_0110_1101_101_00_0101_01111, .vshl 9 6 13 5 .i16),
    (0b101000_1001_0110_1101_101_00_0101_10000, .vshr 9 6 13 5 .i16),
    (0b101000_1001_0110_1101_101_00_0101_10001, .vshra 9 6 13 5 .i16),
    (0b1010010_101_1001_0110_101_0000_0101_000, .vcmpEq 5 9 6 5 .i16),
    (0b1010010_101_1001_0110_101_0000_0101_001, .vcmpNe 5 9 6 5 .i16),
    (0b1010010_101_1001_0110_101_0000_0101_010, .vcmpLt 5 9 6 5 .i16),
    (0b1010010_101_1001_0110_101_0000_0101_011, .vcmpLe 5 9 6 5 .i16),
    (0b1010010_101_1001_0110_101_0000_0101_100, .vcmpGt 5 9 6 5 .i16),
    (0b1010010_101_1001_0110_101_0000_0101_101, .vcmpGe 5 9 6 5 .i16)] = true := by decide +kernel

theorem test_decode_majors_2A_2E : decodesAll [
    (0b101010_1001_0110_1101_101_0000_0101_000, .vsel 9 6 13 5 .i16),
    (0b101010_1001_10101_000_011_0000_0101_001, .vbcast 9 21 3 .i16),
    (0b101010_1001_10101_011011_0000_0101_010, .vins 9 21 27 .i16),
    (0b101010_10101_1001_011011_0000_0101_011, .vext 21 9 27 .i16),
    (0b101010_1001_0110_1101_101_0000_0101_100, .vperm 9 6 13 5 .i16),
    (0b101010_1001_0110_011011_00000_0101_101, .vslideUp 9 6 27 .i16),
    (0b101010_1001_0110_011011_10000_0101_101, .vslideDown 9 6 27 .i16),
    (0b101010_1001_0110_0000_011_00000000110, .vmov 9 6 3),
    (0b101011_1001_0110_0000_011_00000_0101_00, .vrsum 9 6 3 .i16),
    (0b101011_1001_0110_0000_011_00000_0101_01, .vrmax 9 6 3 .i16),
    (0b101011_1001_0110_0000_011_00000_0101_10, .vrmin 9 6 3 .i16),
    (0b101100_1001_0110_0000_011_00000000000, .vcvtF64F32 9 6 3),
    (0b101100_1001_0110_0000_011_00000000001, .vcvtF32F64 9 6 3),
    (0b101100_1001_0110_0000_011_00000000010, .vcvtF32Bf16 9 6 3),
    (0b101100_1001_0110_0000_011_00000000011, .vcvtBf16F32 9 6 3),
    (0b101100_1001_0110_0000_011_00000000100, .vcvtF32F16 9 6 3),
    (0b101100_1001_0110_0000_011_00000000101, .vcvtF16F32 9 6 3),
    (0b101100_1001_0110_0000_011_00000000110, .vcvtF32I32 9 6 3),
    (0b101100_1001_0110_0000_011_00000000111, .vcvtI32F32 9 6 3),
    (0b101100_1001_0110_0000_011_00000001000, .vcvtF64I64 9 6 3),
    (0b101100_1001_0110_0000_011_00000001001, .vcvtI64F64 9 6 3),
    (0b101100_1001_0110_0000_011_00000001010, .vcvtBf16Lns8 9 6 3),
    (0b101100_1001_0110_0000_011_00000001011, .vcvtLns8Bf16 9 6 3),
    (0b101100_1001_0110_0000_011_00000001100, .vcvtBf16Lns6 9 6 3),
    (0b101100_1001_0110_0000_011_00000001101, .vcvtLns6Bf16 9 6 3),
    (0b10110100_10_10101_00000000000000000, .vtload 2 21),
    (0b101101_1001_0110_10_00_011_000000_0011_1, .vtab 9 6 2 3 .f16),
    (0b10111000_101_00_110_00_011_00000000000, .kand 5 6 3),
    (0b10111000_101_00_110_00_011_00000000001, .kor 5 6 3),
    (0b10111000_101_00_110_00_011_00000000010, .kxor 5 6 3),
    (0b10111000_101_00_110_0000000000000011, .knot 5 6),
    (0b101110_10101_00_110_0000000000000100, .kpop 21 6),
    (0b10111000_101_01010_0000000000000101, .kset 5 10),
    (0b101110_10101_00_110_0000000000000110, .kget 21 6)] = true := by decide +kernel

theorem test_decode_majors_34_3D : decodesAll [
    (0b110100_10101_00000_01010_00000000000, .oclaim 21 10),
    (0b110100_10101_000000000000000000001, .orelease 21),
    (0b110100_10101_01010_0000000000000010, .opput 21 10),
    (0b110100_10101_01010_11011_00_1_0011_0011, .mma 21 10 27 true .fp16),
    (0b110100_10101_000000000000000000100, .acczero 21),
    (0b110100_10101_01010_11011_00_1_0100_0101, .accrd 21 10 27 true .i32),
    (0b110100_10101_00000_01010_00000000110, .accsat 21 10),
    (0b110100_10101_01010_11011_00000000111, .accget 21 10 27),
    (0b110100_10101_01010_11011_00000001000, .accadd 21 10 27),
    (0b110101_10101_01010_11011_00000000000, .xcopy 21 10 27),
    (0b110101_10101_01010_11011_00000000001, .xcopysp 21 10 27),
    (0b11010100000000000000000000000010, .xcommit),
    (0b110101000000000000000000000_101_11, .xwait 0x5),
    (0b110110_10101_000000000000000000000, .hread 21),
    (0b110110_10101_000000000000000000001, .hcancel 21),
    (0b11011100000_10101_0000000000000000, .cjoin 21),
    (0b11011100000000000000000000000001, .cleave),
    (0b11011100000_10101_00_110_00000000010, .cbrAny 21 6),
    (0b11011100000_10101_00_110_00000000011, .cbrAll 21 6),
    (0b110111_10101_000000000000000000100, .cstate 21),
    (0b111100_10101_000000000000000000000, .tstop 21),
    (0b111100_10101_000000000000000001000, .tstopH 21),
    (0b111100_10101_000000000000000000001, .tstart 21),
    (0b111100_10101_01010_11011_00000000010, .tread 21 10 27),
    (0b111100_10101_01010_11011_00000000011, .twrite 21 10 27),
    (0b111100_10101_00000_01010_00000000100, .tstate 21 10),
    (0b111100_10101_01010_0000000000000101, .tsave 21 10),
    (0b111100_10101_01010_0000000000000110, .trestore 21 10),
    (0b111101_10101_01010_0000000000000000, .tlbinv 21 10),
    (0b111101_10101_000000000000000000001, .pglock 21),
    (0b111101_10101_01010_0000000000000010, .pgswitch 21 10),
    (0b111101_10101_000000000000000000011, .clwb 21),
    (0b111101_10101_000000000000000000100, .clinv 21)] = true := by decide +kernel

theorem test_decode_majors_3F_3F : decodesAll [
    (0b11111100_100110100110101101011100, .pfxImm 0x9a6b5c),
    (0b11111101_100110100110101101011100, .pfxMod 0x9a6b5c),
    (0b11111110_100110100110101101011100, .pfxHint 0x9a6b5c)] = true := by decide +kernel

/-! ## Words of the spec's own examples -/

/-- The listing and the examples of chapters 05 to 09 and 11. -/
theorem test_decode_examples : decodesAll [
    (0xFCB3C4D5, .pfxImm 0xB3C4D5), (0x20BCDEF0, .movi 5 0x1CDEF0), (0x24A2468A, .movhi 5 0x2468A), (0x54100003, .loopi 16 3), (0x60E1C000, .ldD 7 1 0),
    (0x04C63800, .add 6 6 7 false), (0x08210008, .addi 1 1 8), (0x64C16000, .stD 6 1 0), (0x64A16008, .stD 5 1 8), (0x58000006, .endT 0 false),
    (0x046111A0, .lea 3 1 2 3), (0x04A6384E, .div 5 6 7 true), (0x1C840003, .slli 4 4 false 3), (0x1C85015F, .srai 4 5 true 31),
    (0x4023FFFC, .bcNez 3 0xFFFC), (0x47E00010, .jl 31 16), (0x48200008, .prep 1 8), (0x4C000802, .jb 1), (0x4C230804, .bcb .nez 3 1),
    (0xFC000001, .pfxImm 1), (0x08600000, .addi 3 0 0), (0x6C443008, .vld 2 4 6 1), (0xA048C820, .vadd 1 2 3 1 .f32), (0xA1158003, .vfma 4 5 6 0 .f64),
    (0xA048000A, .vsqrt 1 2 0 .f64), (0xA484800A, .vcmpLt 2 1 2 0 .f32), (0xA8481806, .vmov 1 2 3), (0xAC480004, .vrsum 1 2 0 .f32),
    (0xB084000C, .vcvtBf16Lns6 2 1 0), (0xB4C90005, .vtab 3 2 1 0 .bf16)] = true := by decide +kernel

/-- R162, R165, R166, R167: a word with a must-be-zero bit set, one beyond a limit, one of an unassigned major, and one of an unassigned code are
refused: minor[10] of the ADD of chapter 05, a `.w` shift by 32, a body of no words, an element type 12, a lane beyond the type's lanes. -/
theorem test_decode_refuses :
    ([0x04C63C00, 0x1C850160, 0x54100000, 0xA0000188, 0xA84A4002, 0x00000000, 0xC0000000] : List Word).all
      (fun w => match decode w with | .reject _ => true | .ok _ => false) = true := by decide +kernel

/-- The host's view of a word: the first example of chapter 05 decodes and, placed after reset, is what the next step runs. -/
theorem test_table_word : decodeTableWord 32 0x04C63800 = some (.add 6 6 7 false) := by decide +kernel

theorem test_step_runs_placed_word :
    (match step (State.reset.withFetchWord 32 0x20BCDEF0) with | .next s => s.rg 5 == 0xFFFFFFFFFFFCDEF0 | _ => false) = true := by decide +kernel

/-! ## Ill-formed terms: one for each check of WellFormed -/

theorem test_wellFormed_refuses :
    ([.slli 1 2 true 32, .srli 1 2 true 63, .srai 1 2 true 32, .roli 1 2 true 40, .loop 1 0, .loopi 5 0, .endT 3 false, .srset 0 3, .watch 1 2 0,
      .vfma 1 2 3 0 .i32, .vfnma 1 2 3 0 .n8, .vabs 1 2 0 .n32, .vneg 1 2 0 .n64, .vdiv 1 2 3 0 .i8, .vsqrt 1 2 0 .i64, .vand 1 2 3 0 .f32,
      .vor 1 2 3 0 .f64, .vxor 1 2 3 0 .f16, .vnot 1 2 0 .bf16, .vshl 1 2 3 0 .f32, .vshr 1 2 3 0 .f32, .vshra 1 2 3 0 .f64, .vins 1 2 8 .f64,
      .vext 1 2 16 .f32, .vslideUp 1 2 8 .i64, .vslideDown 1 2 32 .f16, .vtab 1 2 0 0 .f64] : List Instr).all
      (fun i => !i.wellFormed) = true := by decide +kernel

/-! ## The spec's worked examples -/

/-- The state that a word leaves, when it completes. -/
def after (i : Instr) (s : State) : State := match exec i s with | .next t => t | _ => State.reset

/-- R183's example: DIV.w of the most negative word by −1. -/
theorem test_div_w : (after (.div 5 1 2 true) (regs 0x180000000 (-1) 0)).rg 5 = 0xFFFFFFFF80000000 := by decide +kernel

/-- R185: a `.w` shift uses the low word and sign-extends. -/
theorem test_srai_w : (after (.srai 4 1 true 31) (regs 0x80000000 0 0)).rg 4 = -1 := by decide +kernel

/-- R183: division by zero gives all ones, and its remainder the dividend. -/
theorem test_div_zero :
    (after (.div 5 1 2 false) (regs 7 0 0)).rg 5 = -1 ∧ (after (.rem 5 1 2 false) (regs 7 0 0)).rg 5 = 7 := by decide +kernel

/-- R208's example: `pfx.imm 0x000001` and `addi g3, g0, 0` give 0x1_0000. -/
theorem test_pfx_imm : (after (.addi 3 0 0) (after (.pfxImm 1) state)).rg 3 = 0x10000 := by decide +kernel

/-- R208's example: a pending PFX.IMM before MOVHI gives PREFIX, with the prefix's address in word 4 and the register unchanged. -/
theorem test_pfx_imm_movhi :
    (let t := after (.movhi 3 0) (after (.pfxImm 1) state)
     t.cur.fcode = 0x02 ∧ (t.cur.pending.map (·.w4)) = some 0x1000 ∧ t.rg 3 = 0x30000) := by decide +kernel

/-- The listing of chapter 05: the constant built in three words. -/
theorem test_constant :
    (after (.movhi 5 0x2468A) (after (.movi 5 0x1CDEF0) (after (.pfxImm 0xB3C4D5) state))).rg 5 = 0x123456789ABCDEF0 := by decide +kernel

/-- R187: `bc.nez g3, -4` goes four words back. -/
theorem test_bc_back : (after (.bcNez 3 0xFFFC) state).cur.pc = 0xFF0 := by decide +kernel

/-- R190, R191: a LOOPI of three words sets level 0, and the count goes down at the end of its body. -/
theorem test_loopi :
    (let t := after (.loopi 16 3) state
     t.cur.loopst = 1 ∧ t.cur.loopb[0] = 0x1004 ∧ t.cur.loopc[0] = 0xF00000003) := by decide +kernel

/-- R183, R25: a source that is the destination too, and a write of g0. -/
theorem test_add_same : (after (.add 1 1 1 false) (regs (-1) 0 0)).rg 1 = -2 ∧ (after (.add 0 1 1 false) (regs 5 0 0)).rg 0 = 0 := by decide +kernel

/-- R209: a misaligned address comes before a translation miss. -/
theorem test_misaligned : (after (.ldD 2 1 0) (regs 0x10001 0 0)).cur.fcode = 0x03 := by decide +kernel

/-- R73's example: byte 0xE0_0065_0010 belongs to core 6. -/
theorem test_owner : ownerCore 0xE000650010 = some 6 := by decide +kernel

/-- R83's example: PA 0x12_3456_7800 is served by channel core 1 of the package. -/
theorem test_channel : channelCore 0x1234567800 = 641 := by decide +kernel

/-- R96's example: mb9 of package 5, die 2, core 17 lies at 0xE0_153F_D224. -/
theorem test_counter : gpaLocal (counterAt 5 337 0x148449) = 0xE0153FD224 ∧ state.endpointFor 0x148449 37 = some (337, 5) := by decide +kernel

/-- R94's example: two arrivals expected in phase 5, four sectors delivered with one arrival, and then the thread's arrival. -/
theorem test_barrier :
    (let b : TBar := { phase := 5, fault := false, low := 0, arrivals := 2, expected := 2, sectors := 4, fsect := 0, fcode := 0 }
     let c := ({ b with sectors := 0 } : TBar).arrive
     c.phase = 5 ∧ c.arrivals = 1 ∧ c.arrive.phase = 6 ∧ c.arrive.arrivals = 2) := by decide +kernel

/-- R126's example: BF16 3.0 becomes the LNS6 code 0x16, and NX is set. -/
theorem test_lns6 : toLns true 0x4040 = (0x16, { nx := true }) := by decide +kernel

/-- R120's and R121's examples: the pair entry (6, 0) takes (1,000, 2), and (2^62 − 1, 10) takes (2, 10). -/
theorem test_pair :
    addPair 6 0 (some (1000, 2)) = { m := 1002, x := 2, nx := true } ∧
    addPair (2 ^ 62 - 1) 10 (some (2, 10)) = { m := 2 ^ 61, x := 11, nx := true } ∧
    addPair (2 ^ 32) (-2) (some (2 ^ 32, 30)) = { m := 2 ^ 32 + 1, x := 30 } := by decide +kernel

/-- The example of chapter 08: 1.0, 1.0 and 2^24 sum to 16,777,218 exactly. -/
theorem test_vrsum :
    (let t := after (.vrsum 1 2 0 .f32) (on fun t => { t with v := t.v.set 2 (BitVec.ofNat 512 (0x3F800000 + 0x3F800000 * 2 ^ 32 + 0x4B800000 * 2 ^ 64)) })
     laneOf t.cur.v[1] 4 0 = 0x4B800001 ∧ t.cur.flags = 0) := by decide +kernel

/-- R247's example: lanes (1.0, NaN, −0) less than (2.0, 0.0, +0) give 1, 0, 0 and NV. -/
theorem test_vcmp :
    (let t := after (.vcmpLt 2 1 2 0 .f32) (on fun t => { t with
       v := (t.v.set 1 (BitVec.ofNat 512 (0x3F800000 + 0x7FC00000 * 2 ^ 32 + 0x80000000 * 2 ^ 64))).set 2 0x40000000 })
     t.cur.k[2].extractLsb' 0 3 = 1 ∧ t.cur.flags.getLsbD 0 = true) := by decide +kernel

/-- R257's example: the table lane of 0x3F08 is 0x3F18, with no flag. -/
theorem test_vtab :
    vtabLane bf16 .rne 0xC1000000 4 (fun g => if g = 136 then (0x3F000000, 0x3E800000, 0xBE000000) else (0, 0, 0)) 0x3F08 = (0x3F18, {}) := by decide +kernel

/-- R376's split of VA 0x0000_100C_0A07_1234: a walk through three tables and a leaf of 64 KiB, with FRAME and the entry of chapter 17's example. -/
theorem test_walk :
    (let s : State := { state with
       mem := [(0x2030, 0x01), (0x2031, 0x40), (0x4050, 0x01), (0x4051, 0x60), (0x6070, 0x1B), (0x6071, 0x06), (0x6072, 0x56), (0x6073, 0x34), (0x6074, 0x12),
         (0x200000020, 0x01), (0x200000021, 0x20)]
       sectors := [0x8000000, 0x80, 0x101, 0x181].map fun a => (a, { tag := 0, written := -1 }) }
     (s.walk 0x200000000 0x100C0A071234).map (fun e => (leafPa e.1 0x100C0A071234, e.2)) = some (0x1234561234, 0x6070)) := by decide +kernel

/-- R286's example: XBATCH after XCOMMIT of two copies, after one more, and after XWAIT closes it, while the copies have not arrived. -/
def twoBatches (x : Dword) (n : Nat) : State :=
  let s := (on fun t => { t with xbatch := x, batchNo := n })
  s.setTile 0 { s.tile 0 with copies := [{ aCopy with id := 1, batch := 0 }, { aCopy with id := 2, batch := 1 }] }
theorem test_xcommit :
    (after .xcommit (twoBatches 0x200 0)).cur.xbatch = 1 ∧ (after (.xwait 1) (twoBatches 0x101 1)).cur.xbatch = 2 := by
  decide +kernel

/-- R414: power comes on; with no image in flash the start fails and the package does not run. -/
theorem test_power : (match exec .powerGood { State.reset with subject := { a := 1 } } with | .next s => s.health.power != .running | _ => false) = true := by
  decide +kernel

/-- R430: at too much heat the package powers itself off, and takes no step after. -/
theorem test_shutdown :
    (match exec .overtempShutdown state with | .next s => s.health.power == .shutdown && (match step s with | .fault .poweredOff => true | _ => false) | _ => false) =
      true := by decide +kernel

end Sys2Proof.Tests
end

section
/-!
Every step answers (R1, R18, R430): no instruction, event or word stops a package that has power, and in the issue phase the word at the PC of the
thread whose turn it is is what runs (R27, R71, R167).
-/

namespace Sys2Proof.Machine

/-! ## Every execution answers -/

theorem laneWise_answers (i : Instr) (d a b : VReg) (k : KReg) (ty : VTy) (op : Option LaneOp) (s : State) :
    ∃ t, laneWise i d a b k ty op s = .next t := by
  cases op with
  | none => exact ⟨_, rfl⟩
  | some f => exact ⟨_, rfl⟩

theorem moveLanes_answers (i : Instr) (ok : Bool) (regs : List GReg) (s : State) (body : State → State) :
    ∃ t, moveLanes i ok regs s body = .next t := by
  cases ok with
  | false => exact ⟨_, rfl⟩
  | true => exact ⟨_, rfl⟩

theorem execSrset_answers (a : GReg) (n : BitVec 10) (s : State) : ∃ t, execSrset a n s = .next t := by
  unfold execSrset
  split <;> exact ⟨_, rfl⟩

theorem execVrsum_answers (d a : VReg) (k : KReg) (ty : VTy) (s : State) : ∃ t, execVrsum d a k ty s = .next t := by
  unfold execVrsum
  split <;> exact ⟨_, rfl⟩

theorem execVrmax_answers (d a : VReg) (k : KReg) (ty : VTy) (s : State) : ∃ t, execVrmax d a k ty s = .next t := by
  unfold execVrmax
  split <;> exact ⟨_, rfl⟩

theorem execVrmin_answers (d a : VReg) (k : KReg) (ty : VTy) (s : State) : ∃ t, execVrmin d a k ty s = .next t := by
  unfold execVrmin
  split <;> exact ⟨_, rfl⟩

theorem execVtab_answers (d a : VReg) (y : Fin 4) (k : KReg) (ty : VTy) (s : State) : ∃ t, execVtab d a y k ty s = .next t := by
  unfold execVtab
  split <;> exact ⟨_, rfl⟩

/-- Every instruction and every event answers a next state: only those that choose between two issues need a case split. -/
theorem exec_answers (i : Instr) (s : State) : ∃ t, exec i s = .next t := by
  cases i
  case srset => exact execSrset_answers _ _ s
  case vadd | vsub | vmul | vfma | vfnma | vmin | vmax | vabs | vneg | vdiv | vsqrt | vand | vor | vxor | vnot | vshl | vshr | vshra =>
    exact laneWise_answers _ _ _ _ _ _ _ s
  case vins | vext | vslideUp | vslideDown => exact moveLanes_answers _ _ _ s _
  case vrsum => exact execVrsum_answers _ _ _ _ s
  case vrmax => exact execVrmax_answers _ _ _ _ s
  case vrmin => exact execVrmin_answers _ _ _ _ s
  case vtab => exact execVtab_answers _ _ _ _ _ s
  all_goals exact ⟨_, rfl⟩

/-! ## Every step answers -/

theorem runEvent_answers (i : Instr) (s : State) : ∃ t, runEvent i s = .next t := by
  unfold runEvent
  split
  · exact exec_answers i s
  · exact ⟨_, rfl⟩

theorem runInput_answers (i : Instr) (on : Subject) (s : State) : ∃ t, runInput i on s = .next t := by
  unfold runInput
  split
  · exact exec_answers i _
  · exact ⟨_, rfl⟩

theorem issueWord_answers (s : State) : ∃ t, issueWord s = .next t := by
  unfold issueWord
  dsimp only
  split
  · exact ⟨_, rfl⟩
  split
  · exact ⟨_, rfl⟩
  split
  · exact exec_answers .nanStop _
  split
  · exact exec_answers .breakpointMatch _
  split
  · split
    · exact exec_answers _ _
    · exact exec_answers .illegalWord _
  all_goals exact ⟨_, rfl⟩

theorem issueStep_answers (s : State) : ∃ t, issueStep s = .next t := by
  unfold issueStep
  split
  · exact ⟨_, rfl⟩
  split
  · exact exec_answers .loopBack _
  · exact issueWord_answers _

theorem phaseStep_answers (s : State) : ∃ t, phaseStep s = .next t := by
  unfold phaseStep
  cases s.phase with
  | boundary => exact ⟨_, rfl⟩
  | issue => exact issueStep_answers s
  | deliver => exact ⟨_, rfl⟩
  | tick => exact ⟨_, rfl⟩

theorem agendaStep_answers (s : State) : ∃ t, agendaStep s = .next t := by
  unfold agendaStep
  split
  · exact runEvent_answers _ _
  · exact phaseStep_answers s

theorem resumeStep_answers (s : State) (core ctx : Nat) : ∃ t, resumeStep s core ctx = .next t := by
  unfold resumeStep
  dsimp only
  split
  · exact ⟨_, rfl⟩
  split
  · next i _ =>
    obtain ⟨t, ht⟩ := exec_answers i (s.resumed core ctx)
    rw [ht]
    exact ⟨_, rfl⟩
  · exact ⟨_, rfl⟩

/-- A package that has not powered itself off answers every step (R1, R430). -/
theorem step_answers {s : State} (h : s.health.power ≠ .shutdown) : Continues s := by
  unfold Continues step
  rw [if_neg h]
  split
  · exact resumeStep_answers _ _ _
  split
  · split
    · exact runInput_answers _ _ _
    · exact agendaStep_answers s
  · exact agendaStep_answers s

/-! ## The word at the PC -/

/-- With no event in hand and none due, the issue phase gives the next core its turn (R27). -/
theorem step_eq_issueStep {s : State} (hp : s.health.power ≠ .shutdown) (hr : s.resumes = []) (hi : ∀ x ∈ s.inputs, s.cycle < x.1)
    (ha : s.agenda = []) (hph : s.phase = .issue) : step s = issueStep s := by
  have hs : agendaStep s = issueStep s := by simp only [agendaStep, ha, phaseStep, hph]
  unfold step
  rw [if_neg hp, hr]
  dsimp only
  cases hin : s.inputs with
  | nil => exact hs
  | cons x rest =>
    have hx : s.cycle < x.1 := hi x (by rw [hin]; exact List.mem_cons_self)
    exact (if_neg (by omega)).trans hs

/-- A turn whose thread owes no loop-back issues its next word (R27, R191). -/
theorem issueStep_turn {s : State} {core ctx : Nat} (ht : s.nextTurn = some (core, ctx)) (hr : (s.thread core ctx).retiring = false) :
    issueStep s = issueWord (s.takeTurn core ctx) := by
  simp [issueStep, ht, hr]

/-- A thread that nothing holds, whose next word is in hand: what `issueWord` still asks about before the word issues. -/
structure State.ReadyWord (s : State) (w : Word) : Prop where
  commits : s.cur.commits = false
  stall : s.cur.stall = 0
  stop : s.stopDue s.cur = false
  noBreak : s.breakpoint s.focus.core s.cur = none
  fetch : s.fetch s.focus.core s.cur = .word w

/-- A word that decodes is executed (R71, R191). -/
theorem issueWord_decodes {s : State} {w : Word} {i : Instr} (h : s.ReadyWord w) (hd : decode w = .ok i) :
    issueWord s = exec i (s.issues w) := by
  simp [issueWord, h.commits, h.stall, h.stop, h.noBreak, h.fetch, hd]

/-- A word that does not decode is ILLEGAL (R167). -/
theorem issueWord_rejects {s : State} {w : Word} {r : Reject} (h : s.ReadyWord w) (hd : decode w = .reject r) :
    issueWord s = exec .illegalWord { s.issues w with subject := { word := w } } := by
  simp [issueWord, h.commits, h.stall, h.stop, h.noBreak, h.fetch, hd]

/-! ## The word placed after reset -/

/-- The leaf that `State.placeWord` puts into the TLB: the page at 0, with the boot map's rights and its A and D bits set (R414). -/
def placedLeaf : BitVec 128 := 0x63B

theorem placedLeaf_executes : placedLeaf[5] = true := by decide

theorem placedLeaf_accessed : placedLeaf[9] = true := by decide

/-- The placed leaf, under a valid key slot 0 of any job, gives the address 0 of the package to a fetch there. -/
theorem checkLeaf_placedLeaf {s : State} (h : s.key 0 = { valid := true, anyJob := true }) (job : Word) :
    s.checkLeaf job placedLeaf 0 false false true = .ok { pa := gpa s.pkg 0, key := 0, leaf := placedLeaf } := by
  have hkey : leafKey placedLeaf = 0 := rfl
  have haper : s.actAper placedLeaf = 0 := rfl
  have hpkg : s.leafPkg placedLeaf = s.pkg := rfl
  have hpa : leafPa placedLeaf 0 = 0 := rfl
  have hrange : aperAllows 0 0 = true := rfl
  simp [State.checkLeaf, State.ownerOk, h, hkey, haper, hpkg, hpa, hrange, placedLeaf_executes]

/-- The state after reset with a word placed, as its thread takes its turn. -/
def placedTurn (w : Word) : State := (State.reset.placeWord w).takeTurn 0 0

theorem placedTurn_tlb (w : Word) :
    ((placedTurn w).core 0).tlb = [{ root := 0x2000, va := 0, bits := 16, leaf := placedLeaf }] := rfl

/-- The instruction cache holds the placed word below zeros. -/
theorem placedTurn_icache (w : Word) : ((placedTurn w).core 0).icache = [(0, w.setWidth 2048)] := by
  have hcore : State.reset.core 0 = {} := rfl
  have hpc : (State.reset.thread 0 0).pc = 0 := rfl
  have hpkg : State.reset.pkg = 0 := rfl
  show ((State.reset.placeWord w).core 0).icache = _
  unfold State.placeWord
  dsimp only
  generalize hl : BitVec.ofNat 2048 _ = l
  have : l = w.setWidth 2048 := by
    rw [← hl]
    simp only [hcore, hpc, hpkg, gpa, Nat.zero_mul, BitVec.ofNat_eq_ofNat, BitVec.toNat_ofNat, Nat.zero_mod, Nat.zero_div, Nat.add_zero,
      Assoc.look, Option.getD_none, Nat.pow_zero, Nat.div_one, Nat.mul_one, Nat.sub_self, Nat.zero_add, BitVec.ofNat_toNat]
  subst this
  rfl

theorem lineWord_setWidth (w : Word) : lineWord (w.setWidth 2048) 0 = w := by
  apply BitVec.eq_of_getLsbD_eq
  intro i hi
  have : i < 2048 := by omega
  simp [lineWord, hi, this]

theorem placedTurn_check (w : Word) :
    (placedTurn w).check 0 0x2000 0 0 4 false false true = .ok { pa := 0, key := 0, leaf := placedLeaf } := by
  have hleaf := checkLeaf_placedLeaf (s := placedTurn w) rfl
  have hpkg : (placedTurn w).pkg = 0 := rfl
  have hfind : ((placedTurn w).core 0).tlbFind 0x2000 0 = some { root := 0x2000, va := 0, bits := 16, leaf := placedLeaf } := by
    simp [Core.tlbFind, placedTurn_tlb]
  simp [State.check, hfind, hleaf, hpkg, gpa, placedLeaf_accessed]

theorem placedTurn_fetch (w : Word) : (placedTurn w).fetch 0 (placedTurn w).cur = .word w := by
  have hcheck : (placedTurn w).check 0 (placedTurn w).cur.troot ((placedTurn w).cur.job.setWidth 32) (placedTurn w).cur.pc 4
      false false true = _ := placedTurn_check w
  have hbuffer : (placedTurn w).cur.buffer = [] := rfl
  simp [State.fetch, hcheck, hbuffer, placedTurn_icache, region, gpaLocal, Assoc.look, lineWord_setWidth]

theorem placedTurn_ready (w : Word) : (placedTurn w).ReadyWord w where
  commits := rfl
  stall := rfl
  stop := rfl
  noBreak := rfl
  fetch := placedTurn_fetch w

/-- The first step after a word is placed issues it. -/
theorem step_placeWord (w : Word) : step (State.reset.placeWord w) = issueWord (placedTurn w) := by
  have hpower : (State.reset.placeWord w).health.power = .off := rfl
  have hturn : (State.reset.placeWord w).nextTurn = some (0, 0) := rfl
  have hloop : ((State.reset.placeWord w).thread 0 0).retiring = false := rfl
  rw [step_eq_issueStep (by rw [hpower]; decide) rfl (by simp [State.placeWord]) rfl rfl]
  exact issueStep_turn hturn hloop

end Sys2Proof.Machine

section

open Sys2Proof Sys2Proof.Machine

/-- Settles O57: no case of `exec` or of `step` stops a package that has power, and a turn with nothing to do first issues the word at its PC. -/
theorem stepAnswers : Obligations.StepAnswers := by
  refine ⟨fun s h => step_answers h, ?_, ?_⟩
  · intro s core ctx w hpower hresumes hinputs hagenda hphase hturn hloop u hcommits hstall hstop hbreak hfetch
    have hready : u.ReadyWord w := ⟨hcommits, hstall, hstop, hbreak, hfetch⟩
    have hstep : step s = issueWord u := (step_eq_issueStep hpower hresumes hinputs hagenda hphase).trans (issueStep_turn hturn hloop)
    exact ⟨fun i hi => hstep.trans (issueWord_decodes hready hi), fun r hr => hstep.trans (issueWord_rejects hready hr)⟩
  · intro w i hi
    have hplace : State.reset.withFetchWord 32 w.toNat = State.reset.placeWord w := by simp [State.withFetchWord]
    rw [hplace, step_placeWord]
    exact issueWord_decodes (placedTurn_ready w) hi

end

end

section
/-!
What memory rests on. A byte of local memory is a function of the storage of the package (memory, the tags of its sectors, the key slots, the tiles,
the pages that move and the package number: R368, R371, R385, R393); an effect that leaves the storage leaves every byte. One equation per effect, of
which the proofs about whole events are made.
-/

namespace Sys2Proof.Machine

/-- What the bytes of local memory depend on, with the number of records that each core has sent to its last-resort line. -/
structure Storage where
  mem : List Host.Cell
  sectors : Assoc Sector
  keys : Assoc KeySlot
  tiles : Assoc Tile
  moves : List PageMove
  pkg : Nat
  lastResorts : Nat → Nat

/-- The storage of the package. -/
def State.storage (s : State) : Storage :=
  { mem := s.mem, sectors := s.sectors, keys := s.keys, tiles := s.tiles, moves := s.moves, pkg := s.pkg
    lastResorts := fun c => (s.core c).lastResorts }

theorem byte_of_storage {s t : State} (h : t.storage = s.storage) (a k : Nat) : t.byte a k = s.byte a k :=
  byte_congr (congrArg Storage.mem h) (congrArg Storage.sectors h) (congrArg Storage.keys h) (congrArg Storage.tiles h)
    (congrArg Storage.moves h) (congrArg Storage.pkg h) a k

theorem lastResorts_of_storage {s t : State} (h : t.storage = s.storage) (c : Nat) :
    (t.core c).lastResorts = (s.core c).lastResorts := congrFun (congrArg Storage.lastResorts h) c

/-! ## Cores, threads and dies -/

theorem storage_setCore {s : State} {i : Nat} {c : Core} (h : c.lastResorts = (s.core i).lastResorts) :
    (s.setCore i c).storage = s.storage := by
  have hr : (fun j => ((s.setCore i c).core j).lastResorts) = fun j => (s.core j).lastResorts := by
    funext j
    by_cases hj : j = i
    · rw [hj, core_setCore_same, h]
    · rw [core_setCore_other s c hj]
  simp [State.storage, hr]

@[simp] theorem storage_setThread (s : State) (i j : Nat) (t : Thread) : (s.setThread i j t).storage = s.storage := storage_setCore rfl

@[simp] theorem storage_modCur (s : State) (f : Thread → Thread) : (s.modCur f).storage = s.storage := storage_setThread _ _ _ _

@[simp] theorem storage_setDie (s : State) (i : Nat) (x : Die) : (s.setDie i x).storage = s.storage := rfl

@[simp] theorem storage_setAt (s : State) (p : Place) (t : Thread) : (s.setAt p t).storage = s.storage := by
  cases p with
  | ctx c x => exact storage_setThread _ _ _ _
  | slot d i => exact storage_setDie _ _ _

@[simp] theorem storage_acquire (s : State) (core : Nat) : (s.acquire core).storage = s.storage := storage_setCore rfl

@[simp] theorem storage_enqueue (s : State) (core : Nat) (n : Name) : (s.enqueue core n).storage = s.storage := storage_setCore rfl

/-! ## What is in flight -/

@[simp] theorem storage_notice (s : State) (c : Nat) (i : Instr) (on : Subject) : (s.notice c i on).storage = s.storage := rfl

@[simp] theorem storage_post (s : State) (d : Nat) (o : Origin) (b : Body) : (s.post d o b).storage = s.storage := rfl

@[simp] theorem storage_postOut (s : State) (d : Nat) (o : Origin) (b : Body) : (s.postOut d o b).storage = s.storage := rfl

@[simp] theorem storage_drop (s : State) (id : Nat) : (s.drop id).storage = s.storage := rfl

@[simp] theorem storage_modMsg (s : State) (id : Nat) (f : Msg → Msg) : (s.modMsg id f).storage = s.storage := rfl

@[simp] theorem storage_send (s : State) (d dst : Nat) (o : Origin) (b : Body) : (s.send d dst o b).storage = s.storage := by
  unfold State.send
  split
  · rfl
  split <;> rfl

@[simp] theorem storage_outward (s : State) (m : Msg) (src dst chan : Nat) (r : Bool) : (s.outward m src dst chan r).storage = s.storage := by
  unfold State.outward
  extract_lets key next seq numbered port pinned mode head
  have hnumbered : numbered.storage = s.storage := by
    unfold numbered
    split <;> rfl
  have hpinned : pinned.storage = numbered.storage := by
    unfold pinned
    clear_value port
    cases port with
    | none => rfl
    | some p => dsimp only; split <;> rfl
  exact hpinned.trans hnumbered

@[simp] theorem storage_reply (s : State) (d : Nat) (m : Msg) (b : Body) : (s.reply d m b).storage = s.storage := by
  unfold State.reply
  dsimp only
  split
  · rfl
  · rw [storage_outward]
    rfl

@[simp] theorem storage_postGathered (s : State) (p : Msg → Bool) : (s.postGathered p).storage = s.storage := rfl

@[simp] theorem storage_mask (s : State) (q : Nat) (as : List Nat) : (s.mask q as).storage = s.storage := rfl

@[simp] theorem storage_meetFar (s : State) (as : List Nat) : (s.meetFar as).storage = s.storage := rfl

/-! ## Effects on many things in turn -/

/-- A fold of effects that each leave the storage leaves it. -/
theorem storage_foldl {α : Type} {f : State → α → State} (h : ∀ s x, (f s x).storage = s.storage) (l : List α) (s : State) :
    (l.foldl f s).storage = s.storage := by
  induction l generalizing s with
  | nil => rfl
  | cons x l ih => rw [List.foldl_cons, ih, h]

/-! ## What a write brings about (R89, R140, R200, R237) -/

@[simp] theorem storage_useSector (s : State) (q : Nat) (f : SliceSector → SliceSector) : (s.useSector q f).storage = s.storage := rfl

@[simp] theorem storage_sliceWrite (s : State) (key : Nat) (as : List Nat) : (s.sliceWrite key as).storage = s.storage :=
  storage_foldl (fun _ _ => storage_useSector _ _ _) _ _

@[simp] theorem storage_unpoison (s : State) (as : List Nat) : (s.unpoison as).storage = s.storage := rfl

@[simp] theorem storage_fireLine (s : State) (w : Option Author) (line : Nat) (m : BitVec 4) : (s.fireLine w line m).storage = s.storage := by
  unfold State.fireLine
  dsimp only
  rw [storage_foldl fun _ _ => storage_post _ _ _ _, storage_foldl]
  intro s r
  cases r.away with
  | none => rfl
  | some p => exact storage_send _ _ _ _ _

@[simp] theorem storage_fireFor (s : State) (w : Option Author) (as : List Nat) : (s.fireFor w as).storage = s.storage :=
  storage_foldl (fun _ _ => storage_fireLine _ _ _ _) _ _

@[simp] theorem storage_newDeadlines (s : State) (as : List Nat) : (s.newDeadlines as).storage = s.storage := by
  refine storage_foldl (fun s w => ?_) _ _
  dsimp only
  split
  · split <;> rfl
  · rfl

@[simp] theorem storage_wakeThread (s : State) (p : Place) : (s.wakeThread p).storage = s.storage := by
  unfold State.wakeThread
  dsimp only
  split <;> split <;> simp

@[simp] theorem storage_completeAt (s : State) (p : Place) (f : Thread → Thread) : (s.completeAt p f).storage = s.storage := by
  simp [State.completeAt]

@[simp] theorem storage_testWait (s : State) (p : Place) : (s.testWait p).storage = s.storage := by
  unfold State.testWait
  dsimp only
  split
  · simp
  · rfl

@[simp] theorem storage_retest (s : State) (as : List Nat) : (s.retest as).storage = s.storage := by
  unfold State.retest
  rw [storage_foldl, storage_meetFar]
  intro s p
  split
  · exact storage_testWait s p
  · rfl

/-! ## Ports, windows and frames (R399, R409, R423) -/

@[simp] theorem storage_modPort (s : State) (p : Nat) (f : Port → Port) : (s.modPort p f).storage = s.storage := rfl

@[simp] theorem storage_unspray (s : State) (p : Nat) : (s.unspray p).storage = s.storage := by
  unfold State.unspray
  split <;> rfl

@[simp] theorem storage_setWindow (s : State) (w : Window) : (s.setWindow w).storage = s.storage := rfl

/-- Running a request once leaves the storage where the request itself does. -/
theorem storage_once {f : State → State} (h : ∀ s, (f s).storage = s.storage) (s : State) (m : Msg) : (s.once m f).storage = s.storage := by
  unfold State.once
  split
  · exact h s
  split
  · exact h s
  extract_lets src gw
  split
  · split
    · simp
    · exact h _
  · extract_lets lus w windowed
    have hw : windowed.storage = s.storage := rfl
    split
    · exact hw
    split
    · simp [hw]
    · exact (h windowed).trans hw

@[simp] theorem storage_answer (s : State) (d : Nat) (m : Msg) (b : Body) : (s.answer d m b).storage = s.storage := by
  unfold State.answer
  extract_lets replied kept
  have hreplied : replied.storage = s.storage := storage_reply s d m b
  have hkept : kept.storage = s.storage := by
    unfold kept
    split <;> exact hreplied
  split
  · split
    · exact hkept
    · split <;> exact hkept
  · exact hkept

theorem storage_onFrame {f : MgmtFrame → State → State} (h : ∀ x s, (f x s).storage = s.storage) (s : State) : (s.onFrame f).storage = s.storage := by
  unfold State.onFrame
  split
  · dsimp only
    split
    · simp
    · rw [h]
      rfl
  · rfl

end Sys2Proof.Machine

end

section
/-!
The frames of the shared effects: the thread in focus, completing, waiting, sending, an acquire, and the events that store nothing.
-/

namespace Sys2Proof.Machine

/-! ## Shared effects -/

theorem send_cores (s : State) (d dst : Nat) (o : Origin) (b : Body) : (s.send d dst o b).cores = s.cores := by
  unfold State.send
  split
  · rfl
  split <;> rfl

theorem thread_of_cores {s t : State} (h : t.cores = s.cores) (core ctx : Nat) : t.thread core ctx = s.thread core ctx := by
  simp [State.thread, State.core, h]

/-- A request adds to what is in flight, and takes nothing from it. -/
theorem send_flight (s : State) (d dst : Nat) (o : Origin) (b : Body) : ∃ l, (s.send d dst o b).flight = s.flight ++ l ∧ l ≠ [] := by
  unfold State.send
  split
  · exact ⟨_, rfl, List.cons_ne_nil _ _⟩
  split <;> exact ⟨_, rfl, List.cons_ne_nil _ _⟩

theorem thread_acquire (s : State) (core c ctx : Nat) : (s.acquire core).thread c ctx = s.thread c ctx := by
  unfold State.thread State.acquire
  by_cases h : c = core
  · subst h
    rw [core_setCore_same]
    rfl
  · rw [core_setCore_other s _ h]

/-- Completing changes the pending prefixes, and the PC or the mark of the end of a loop body. -/
theorem retire_eq (t : Thread) : t.retire = { t with
    pfxst := t.retire.pfxst, pfxAt := t.retire.pfxAt, modBad := t.retire.modBad, hintBad := t.retire.hintBad
    lastTag := t.retire.lastTag, yielding := t.retire.yielding, inHand := none
    pc := if t.atLoopEnd then t.pc else t.pc + 4, retiring := t.atLoopEnd || t.retiring } := by
  have hend : t.consume.atLoopEnd = t.atLoopEnd := rfl
  unfold Thread.retire
  dsimp only
  rw [hend]
  cases t.atLoopEnd <;> rfl

/-! ## Events that store nothing -/

/-- An event that leaves the storage, and with it every byte. -/
def StoresNothing (i : Instr) : Prop := ∀ s t : State, exec i s = .next t → t.storage = s.storage

theorem storesNothing_of {i : Instr} {f : State → State} (he : ∀ s, exec i s = .next (f s)) (hf : ∀ s, (f s).storage = s.storage) :
    StoresNothing i := by
  intro s t h
  rw [he s] at h
  cases h
  exact hf s

theorem linkUp_storesNothing : StoresNothing .linkUp := by
  refine storesNothing_of (fun _ => rfl) fun s => ?_
  split <;> simp

theorem laneChange_storesNothing : StoresNothing .laneChange := by
  refine storesNothing_of (fun _ => rfl) fun s => ?_
  split <;> simp

theorem linkRetire_storesNothing : StoresNothing .linkRetire := by
  refine storesNothing_of (fun _ => rfl) fun s => ?_
  split <;> simp

theorem linkLevelRetry_storesNothing : StoresNothing .linkLevelRetry := by
  refine storesNothing_of (fun _ => rfl) fun s => ?_
  split <;> simp

theorem ingressDrop_storesNothing : StoresNothing .ingressDrop := by
  refine storesNothing_of (fun _ => rfl) fun s => ?_
  dsimp only
  split <;> rfl

theorem dedupWindowIdle_storesNothing : StoresNothing .dedupWindowIdle := by
  refine storesNothing_of (fun _ => rfl) fun s => ?_
  split
  · split <;> rfl
  · rfl

theorem dedupRetryTimer_storesNothing : StoresNothing .dedupRetryTimer :=
  storesNothing_of (fun _ => rfl) fun _ => storage_modMsg _ _ _

theorem quantumExpiry_storesNothing : StoresNothing .quantumExpiry := by
  refine storesNothing_of (fun _ => rfl) fun s => ?_
  dsimp only
  split
  · rfl
  · split
    · rfl
    · split <;> exact storage_setThread _ _ _ _

theorem agingPromotion_storesNothing : StoresNothing .agingPromotion := by
  refine storesNothing_of (fun _ => rfl) fun s => ?_
  dsimp only
  split
  · exact storage_setThread _ _ _ _
  · rfl

theorem loopBack_storesNothing : StoresNothing .loopBack := by
  refine storesNothing_of (fun _ => rfl) fun s => ?_
  split
  · exact storage_modCur _ _
  · rfl

theorem storeGatherPost_storesNothing : StoresNothing .storeGatherPost :=
  storesNothing_of (fun _ => rfl) fun _ => storage_postGathered _ _

theorem heartbeatTimer_storesNothing : StoresNothing .heartbeatTimer := by
  refine storesNothing_of (fun _ => rfl) fun s => ?_
  split
  · rfl
  · rw [storage_notice, storage_foldl]
    intro s i
    dsimp only
    split <;> rfl

theorem heartbeat_storesNothing : StoresNothing .heartbeat := by
  refine storesNothing_of (fun _ => rfl) fun s => ?_
  split
  · next m _ =>
    split
    · refine storage_once (fun s => ?_) s m
      extract_lets answered
      have hanswered : answered.storage = s.storage := storage_answer s 1 m _
      split <;> exact hanswered
    · rfl
  · rfl

theorem leaderTimeout_storesNothing : StoresNothing .leaderTimeout := by
  refine storesNothing_of (fun _ => rfl) fun s => ?_
  extract_lets h lower
  split
  · rfl
  · split <;> rfl

theorem scrub_storesNothing : StoresNothing .scrub := by
  refine storesNothing_of (fun _ => rfl) fun s => ?_
  dsimp only
  split <;> rfl

theorem overtempAlert_storesNothing : StoresNothing .overtempAlert := by
  refine storesNothing_of (fun _ => rfl) fun s => ?_
  dsimp only
  split <;> rfl

theorem overtempShutdown_storesNothing : StoresNothing .overtempShutdown :=
  storesNothing_of (fun _ => rfl) fun _ => rfl

theorem mgmtReadFailrec_storesNothing : StoresNothing .mgmtReadFailrec := by
  refine storesNothing_of (fun _ => rfl) fun s => storage_onFrame (fun _ _ => ?_) s
  rfl

end Sys2Proof.Machine

section

open Sys2Proof Sys2Proof.Machine

/-- Settles O60, effect by effect: what each leaves is its frame lemma, and the events leave the storage that every byte depends on. -/
theorem effectFrames : Obligations.EffectFrames := by
  refine ⟨fun s f => ?_, retire_eq, fun s w => ?_, fun s d dst o b => ?_, fun s core => ?_, fun s t i hi h => byte_of_storage ?_⟩
  · exact ⟨cur_modCur s f, fun core ctx h => thread_modCur_other s f h, byte_modCur s f, rfl, rfl, rfl, rfl, rfl, rfl, rfl, rfl⟩
  · simp [Thread.leave, Thread.unbound]
  · have hstorage := storage_send s d dst o b
    exact ⟨thread_of_cores (send_cores s d dst o b), byte_of_storage hstorage, congrArg Storage.mem hstorage,
      congrArg Storage.tiles hstorage, congrArg Storage.keys hstorage, send_flight s d dst o b⟩
  · exact ⟨thread_acquire s core, byte_of_storage (storage_acquire s core), by simp [State.acquire, Core.discard],
      fun c hc => core_setCore_other s _ hc, rfl⟩
  · simp only [List.mem_cons, List.not_mem_nil, or_false] at hi
    rcases hi with rfl | rfl | rfl | rfl | rfl | rfl | rfl | rfl | rfl | rfl | rfl | rfl | rfl | rfl | rfl | rfl | rfl | rfl
    · exact linkUp_storesNothing s t h
    · exact laneChange_storesNothing s t h
    · exact linkRetire_storesNothing s t h
    · exact linkLevelRetry_storesNothing s t h
    · exact ingressDrop_storesNothing s t h
    · exact dedupWindowIdle_storesNothing s t h
    · exact dedupRetryTimer_storesNothing s t h
    · exact quantumExpiry_storesNothing s t h
    · exact agingPromotion_storesNothing s t h
    · exact loopBack_storesNothing s t h
    · exact storeGatherPost_storesNothing s t h
    · exact heartbeatTimer_storesNothing s t h
    · exact heartbeat_storesNothing s t h
    · exact leaderTimeout_storesNothing s t h
    · exact scrub_storesNothing s t h
    · exact overtempAlert_storesNothing s t h
    · exact overtempShutdown_storesNothing s t h
    · exact mgmtReadFailrec_storesNothing s t h

end

end

section
/-!
Reading after writing (R385, R386): a byte write fills its own place, leaves the other sectors, and leaves the rest of its sector where that was last
written under the writer's key.
-/

namespace Sys2Proof.Machine

/-! ## A sector under one key -/

theorem region_eq_damask_iff (a : Nat) : region a = .damask ↔ a < 0xC000000000 := by
  unfold region
  split
  · simp [*]
  split
  · simp [*]
  split
  · simp [*]
  split <;> simp [*]

/-- A sector lies in Damask memory as a whole. -/
theorem region_damask_of_sector {x a : Nat} (h : x / 64 = a / 64) (hx : region x = .damask) : region a = .damask := by
  rw [region_eq_damask_iff] at hx ⊢
  omega

/-- The sector of a place, where it is one of Damask memory, was last written under a key slot (R385). -/
def State.Tagged (s : State) (a k : Nat) : Prop :=
  region a = .damask → ∃ e, Assoc.look s.sectors (a / 64) = some e ∧ e.tag = s.tag (s.effKey k)

theorem tag_putRaw (s : State) (a k j : Nat) (b : Byte) : (s.putRaw a k b).tag ((s.putRaw a k b).effKey j) = s.tag (s.effKey j) := by
  rw [State.putRaw_eq]
  rfl

theorem sectors_putRaw_damask (s : State) (k : Nat) (b : Byte) {a : Nat} (h : region a = .damask) :
    (s.putRaw a k b).sectors = Assoc.insert s.sectors (a / 64)
      (Sector.write (Assoc.look s.sectors (a / 64)) (s.tag (s.effKey k)) (s.fresh + 1) (a % 64)) := by
  simp [State.putRaw, State.retag, h]

/-- A written sector is one under the writer's key. -/
theorem tagged_putRaw_same (s : State) (a k : Nat) (b : Byte) : (s.putRaw a k b).Tagged a k := by
  intro h
  rw [sectors_putRaw_damask s k b h, tag_putRaw]
  exact ⟨_, look_insert_same _ _ _, Sector.write_tag _ _ _ _⟩

/-- Further writes under the key of a sector keep it so. -/
theorem tagged_putRaw {s : State} {a x k : Nat} (b : Byte) (hx : s.Tagged x k) : (s.putRaw a k b).Tagged x k := by
  by_cases hsec : x / 64 = a / 64
  · intro hr
    have h := tagged_putRaw_same s a k b (region_damask_of_sector hsec hr)
    rwa [← hsec] at h
  · intro hr
    obtain ⟨e, he, htag⟩ := hx hr
    refine ⟨e, ?_, by rw [tag_putRaw, htag]⟩
    rw [← he]
    by_cases ha : region a = .damask
    · rw [sectors_putRaw_damask s k b ha, look_insert_other _ _ hsec]
    · have hs : (s.putRaw a k b).sectors = s.sectors := by
        unfold State.putRaw State.retag
        split
        · next h => exact absurd h ha
        · rfl
      rw [hs]

/-- A write under the key of a sector leaves its fill, and what is known of its other bytes. -/
theorem Sector.write_under (e : Sector) (fill : Nat) {i j : Nat} (h : j ≠ i) :
    (Sector.write (some e) e.tag fill i).fill = e.fill ∧
    (Sector.write (some e) e.tag fill i).written.getLsbD j = e.written.getLsbD j := by
  have hone : (1#64 <<< i).getLsbD j = false := by
    simp only [BitVec.getLsbD_shiftLeft, BitVec.getLsbD_one, Bool.and_eq_false_iff, Bool.not_eq_false', decide_eq_true_eq,
      decide_eq_false_iff_not]
    omega
  simp [Sector.write, hone]

/-- A write under the key of its sector leaves every other byte. -/
theorem rawByte_putRaw_other {s : State} {a k x : Nat} (j : Nat) (b : Byte) (h : x ≠ a) (ht : x / 64 = a / 64 → s.Tagged a k) :
    (s.putRaw a k b).rawByte x j = s.rawByte x j := by
  by_cases hsec : x / 64 = a / 64
  · have hm : Memory.read (s.putRaw a k b).mem x = Memory.read s.mem x := by
      show Memory.read (Memory.write (s.retag a _).mem a b) x = _
      rw [Memory.read_write_other _ _ _ _ h, State.retag_mem]
    cases hr : region x
    case damask =>
      have ha := region_damask_of_sector hsec hr
      obtain ⟨e, he, htag⟩ := ht hsec ha
      have hmod : x % 64 ≠ a % 64 := by omega
      obtain ⟨hfill, hwritten⟩ := Sector.write_under e (s.fresh + 1) hmod
      have hl : Assoc.look (s.putRaw a k b).sectors (x / 64) = some (Sector.write (some e) e.tag (s.fresh + 1) (a % 64)) := by
        rw [sectors_putRaw_damask s k b ha, hsec, look_insert_same, he, htag]
      rw [← hsec] at he
      simp only [State.rawByte, hr, hl, he, hm, tag_putRaw, Sector.write_tag, hfill, hwritten]
    all_goals simp only [State.rawByte, hr, hm]
  · exact State.rawByte_putRaw_far s a k x j b hsec

/-! ## Bytes of local memory -/

/-- A byte that is neither reserved nor a control block's is the one at its place. -/
theorem byte_eq_rawByte {s : State} {a : Nat} (k : Nat) (hr : isReserved a = false) (hs : isSaveBlock a = false) :
    s.byte a k = s.rawByte (s.place a k).1 (s.place a k).2 := by
  simp [State.byte, hr, hs]

/-- A write reaches the place of its byte, where no reserved region, control block or mailbox line drops it (R76, R97, R368). -/
theorem putByte_eq_putRaw {s : State} {a : Nat} (k : Nat) (b : Byte) (hr : isReserved a = false) (hs : isSaveBlock a = false)
    (hm : isMailbox a = false) : s.putByte a k b = s.putRaw (s.place a k).1 (s.place a k).2 b := by
  simp [State.putByte, hr, hs, hm]

theorem putByte_dropped {s : State} {a : Nat} (k : Nat) (b : Byte) (h : isReserved a = true ∨ isSaveBlock a = true ∨ isMailbox a = true) :
    s.putByte a k b = s := by
  unfold State.putByte
  rw [if_pos]
  simpa [or_assoc] using h

theorem byte_putByte_same {s : State} {a : Nat} (k : Nat) (b : Byte) (hmem : MemoryCanonical s) (hr : isReserved a = false)
    (hs : isSaveBlock a = false) (hm : isMailbox a = false) : (s.putByte a k b).byte a k = b := by
  rw [byte_eq_rawByte k hr hs, State.place_putByte, putByte_eq_putRaw k b hr hs hm]
  exact State.rawByte_putRaw_same s _ _ b hmem

/-- A byte stands through a write to another place, which leaves the raw byte at its own. -/
theorem byte_putByte_of_rawByte {s : State} {a k x j : Nat} {b : Byte}
    (h : (s.putRaw (s.place a k).1 (s.place a k).2 b).rawByte (s.place x j).1 (s.place x j).2 = s.rawByte (s.place x j).1 (s.place x j).2) :
    (s.putByte a k b).byte x j = s.byte x j := by
  unfold State.putByte
  split
  · rfl
  · have hplace : (s.putRaw (s.place a k).1 (s.place a k).2 b).place x j = s.place x j := by rw [State.putRaw_eq]; rfl
    have htile : ∀ i, (s.putRaw (s.place a k).1 (s.place a k).2 b).tile i = s.tile i := fun i => by rw [State.putRaw_eq]; rfl
    unfold State.byte
    simp only [hplace, htile, h]

theorem byte_putByte_far {s : State} {a k x j : Nat} (b : Byte) (h : (s.place x j).1 / 64 ≠ (s.place a k).1 / 64) :
    (s.putByte a k b).byte x j = s.byte x j :=
  byte_putByte_of_rawByte (State.rawByte_putRaw_far s _ _ _ _ b h)

theorem byte_putByte_other {s : State} {a k x j : Nat} (b : Byte) (h : (s.place x j).1 ≠ (s.place a k).1)
    (ht : (s.place x j).1 / 64 = (s.place a k).1 / 64 → s.Tagged (s.place a k).1 (s.place a k).2) :
    (s.putByte a k b).byte x j = s.byte x j :=
  byte_putByte_of_rawByte (rawByte_putRaw_other _ b h ht)

end Sys2Proof.Machine

section

open Sys2Proof Sys2Proof.Machine

/-- Settles O59: a byte is the one at its place, and what a write at a place does to the raw bytes is known sector by sector. -/
theorem memoryReadAfterWrite : Obligations.MemoryReadAfterWrite := by
  intro s a k x j b hmem
  refine ⟨byte_putByte_same k b hmem, putByte_dropped k b, byte_putByte_far b, fun hplace htag hlook => ?_⟩
  refine byte_putByte_other b hplace fun _ hr => ?_
  obtain ⟨e, he⟩ := Option.ne_none_iff_exists'.mp (hlook hr)
  exact ⟨e, he, htag e he⟩

end

end

section
/-!
A fault (R168, R355) and its record of last resort (R358): what raising a fault does to the thread and to the package, and that the last-resort line of
a core, wherever its bytes stand (R371), reads as the record that was written there.
-/

namespace Sys2Proof.Machine

/-! ## Taking a fault -/

/-- A fault of a thread without a shadow bank is taken at once: the thread stops, and its record is due (R355). -/
theorem raise_eq {s : State} (h : s.cur.bank = none) (code : BitVec 8) (w2 w4 w5 : Dword) :
    s.raise code w2 w4 w5 =
      (s.setCur (s.cur.stopAt { code := code, pc := s.cur.pc, w2 := w2, w4 := w4, w5 := w5 })).recordDue s.cur.name := by
  unfold State.raise State.raiseAt State.raiseFault
  rw [h]
  rfl

/-! ## The record of last resort -/

/-- A record that finds an earlier one of its core waiting, or on its way, waits behind it (R356). -/
theorem record_queued {s : State} {core : Nat} (h : (s.core core).recordQueue ≠ [] ∨ s.recordOut core = true)
    (faultrec troot : Dword) (job : Word) (w0 w1 w2 w3 w4 w5 : Nat) :
    s.record core faultrec troot job w0 w1 w2 w3 w4 w5 = s.setCore core { s.core core with recordQueue := (s.core core).recordQueue ++
      [{ faultrec := faultrec, troot := troot, job := job, words := [w0, w1, w2, w3, w4, w5, s.cycle] }] } := by
  unfold State.record
  dsimp only
  rw [if_neg]
  · rfl
  · rw [Bool.and_eq_true, List.isEmpty_iff, Bool.not_eq_true']
    rintro ⟨hq, ho⟩
    rcases h with h | h
    · exact h hq
    · rw [ho] at h
      exact absurd h (by decide)

/-- A record without a FAULTREC goes to the last-resort line at once, where none of its core is before it (R358). -/
theorem record_lastResort {s : State} {core : Nat} (hq : (s.core core).recordQueue = []) (ho : s.recordOut core = false)
    (troot : Dword) (job : Word) (w0 w1 w2 w3 w4 w5 : Nat) :
    s.record core 0 troot job w0 w1 w2 w3 w4 w5 = s.toLastResort core [w0, w1, w2, w3, w4, w5, s.cycle] := by
  simp [State.record, State.writeRecord, hq, ho]

/-! ## Little-endian values -/

theorem length_leBytes (n v : Nat) : (leBytes n v).length = n := by
  induction n generalizing v with
  | zero => rfl
  | succ n ih => simp [leBytes, ih]

theorem leValue_leBytes (n v : Nat) : leValue (leBytes n v) = v % 256 ^ n := by
  induction n generalizing v with
  | zero => simp [leBytes, leValue, Nat.mod_one]
  | succ n ih =>
    rw [Nat.pow_succ', Nat.mod_mul]
    simp [leBytes, leValue, ih]

theorem length_dwordBytes (ds : List Nat) : (dwordBytes ds).length = 8 * ds.length := by
  induction ds with
  | nil => rfl
  | cons d ds ih =>
    have hd : dwordBytes (d :: ds) = leBytes 8 d ++ dwordBytes ds := rfl
    rw [hd, List.length_append, length_leBytes, ih, List.length_cons]
    omega

/-- The bytes of a dword in a list of them. -/
theorem dwordBytes_slice {ds : List Nat} {j : Nat} (h : j < ds.length) : ((dwordBytes ds).drop (8 * j)).take 8 = leBytes 8 ds[j] := by
  induction ds generalizing j with
  | nil => simp at h
  | cons d ds ih =>
    have hd : dwordBytes (d :: ds) = leBytes 8 d ++ dwordBytes ds := rfl
    rw [hd]
    cases j with
    | zero => exact List.take_left' (length_leBytes 8 d)
    | succ j =>
      have hlen : 8 * (j + 1) = (leBytes 8 d).length + 8 * j := by rw [length_leBytes]; omega
      rw [hlen, List.drop_length_add_append]
      exact ih (Nat.lt_of_succ_lt_succ h)

/-! ## Many bytes at once -/

theorem length_addrs (a n : Nat) : (addrs a n).length = n := by simp [addrs]

theorem getElem_addrs {a n i : Nat} (h : i < (addrs a n).length) : (addrs a n)[i] = a + i := by simp [addrs]

theorem mem_atAddrs {a : Nat} {bs : List Byte} {p : Nat × Byte} (h : p ∈ atAddrs a bs) : ∃ i, ∃ hi : i < bs.length, p = (a + i, bs[i]) := by
  obtain ⟨i, hi, rfl⟩ := List.mem_iff_getElem.mp h
  simp only [atAddrs, List.length_zip, length_addrs, Nat.min_self] at hi
  exact ⟨i, hi, by simp [atAddrs, getElem_addrs]⟩

theorem atAddrs_mem {a : Nat} {bs : List Byte} {i : Nat} (h : i < bs.length) : (a + i, bs[i]) ∈ atAddrs a bs :=
  List.mem_iff_getElem.mpr ⟨i, by simp [atAddrs, length_addrs, h], by simp [atAddrs, getElem_addrs]⟩

/-- A byte that takes writes: no reserved region, control block or mailbox line holds it (R76, R97, R368). -/
def Settable (a : Nat) : Prop := isReserved a = false ∧ isSaveBlock a = false ∧ isMailbox a = false

/-- Writing under the key of a sector leaves it under that key. -/
theorem tagged_putByte {s : State} {a k x key : Nat} (b : Byte) (hkey : (s.place a k).2 = key) (hx : s.Tagged x key) :
    (s.putByte a k b).Tagged x key := by
  unfold State.putByte
  split
  · exact hx
  · dsimp only
    rw [hkey]
    exact tagged_putRaw b hx

theorem State.Tagged.of_sector {s : State} {a x k : Nat} (h : x / 64 = a / 64) (hx : s.Tagged x k) : s.Tagged a k := by
  intro ha
  rw [← h]
  exact hx (region_damask_of_sector h.symm ha)

theorem putByte_canonical {s : State} (a k : Nat) (b : Byte) (h : MemoryCanonical s) : MemoryCanonical (s.putByte a k b) :=
  State.putByte_wf s a k b h

/-- Writes to other places under the key of a byte's sector leave the byte. -/
theorem byte_putBytes_other {s : State} {k x key : Nat} {bs : List (Nat × Byte)} (hx : s.Tagged (s.place x k).1 key)
    (hkey : ∀ p ∈ bs, (s.place p.1 k).2 = key) (hne : ∀ p ∈ bs, (s.place x k).1 ≠ (s.place p.1 k).1) :
    (s.putBytes k bs).byte x k = s.byte x k := by
  induction bs generalizing s with
  | nil => rfl
  | cons q bs ih =>
    have hq := hkey q List.mem_cons_self
    have hrest : ((s.putByte q.1 k q.2).putBytes k bs).byte x k = (s.putByte q.1 k q.2).byte x k := by
      apply ih
      · rw [State.place_putByte]
        exact tagged_putByte q.2 hq hx
      · intro p hp
        rw [State.place_putByte]
        exact hkey p (List.mem_cons_of_mem _ hp)
      · intro p hp
        rw [State.place_putByte, State.place_putByte]
        exact hne p (List.mem_cons_of_mem _ hp)
    refine hrest.trans (byte_putByte_other q.2 (hne q List.mem_cons_self) fun hsec => ?_)
    rw [hq]
    exact hx.of_sector hsec

/-- Bytes written to distinct places under one key all read back. -/
theorem byte_putBytes {s : State} {k key : Nat} {bs : List (Nat × Byte)} (hmem : MemoryCanonical s) (hset : ∀ p ∈ bs, Settable p.1)
    (hkey : ∀ p ∈ bs, (s.place p.1 k).2 = key) (hne : bs.Pairwise fun p q => (s.place p.1 k).1 ≠ (s.place q.1 k).1) :
    ∀ p ∈ bs, (s.putBytes k bs).byte p.1 k = p.2 := by
  induction bs generalizing s with
  | nil => simp
  | cons q bs ih =>
    obtain ⟨hq, hbs⟩ := List.pairwise_cons.mp hne
    obtain ⟨hr, hs, hm⟩ := hset q List.mem_cons_self
    have hkey' : ∀ p ∈ bs, ((s.putByte q.1 k q.2).place p.1 k).2 = key := by
      intro p hp
      rw [State.place_putByte]
      exact hkey p (List.mem_cons_of_mem _ hp)
    intro p hp
    rcases List.mem_cons.mp hp with rfl | hp
    · refine (byte_putBytes_other (key := key) ?_ hkey' ?_).trans (byte_putByte_same k p.2 hmem hr hs hm)
      · rw [State.place_putByte, putByte_eq_putRaw k p.2 hr hs hm, ← hkey p List.mem_cons_self]
        exact tagged_putRaw_same _ _ _ _
      · intro q' hq'
        rw [State.place_putByte, State.place_putByte]
        exact hq q' hq'
    · refine ih (putByte_canonical _ _ _ hmem) (fun p hp => hset p (List.mem_cons_of_mem _ hp)) hkey' ?_ p hp
      simpa only [State.place_putByte] using hbs

/-! ## The last-resort line -/

/-- The bytes of a last-resort line lie in the system area of its tile or channel core, below the mailbox lines (R74, R75). -/
theorem region_lastResort {core i : Nat} (hc : core < 896) (hi : i < 64) :
    (core < 640 ∧ region (lastResort core + i) = .tileScratch (core / 4) (0x3FD000 + core % 4 * 64 + i)) ∨
    (640 ≤ core ∧ region (lastResort core + i) = .chanScratch (core - 640) (0x3B400 + i)) := by
  by_cases h : core < 640
  · have hl : lastResort core = 0xE000000000 + core / 4 * 0x400000 + 0x3F0000 + 0xD000 + core % 4 * 64 := by
      simp [lastResort, sysBase, tileBase, h]
    refine Or.inl ⟨h, ?_⟩
    unfold region
    rw [if_neg (by omega), if_pos (by omega)]
    exact congr (congrArg _ (by omega)) (by omega)
  · have hl : lastResort core = 0xE800000000 + (core - 640) * 0x40000 + 0x38000 + 0x3400 := by
      simp [lastResort, sysBase, chanBase, h]
    refine Or.inr ⟨by omega, ?_⟩
    unfold region
    rw [if_neg (by omega), if_neg (by omega), if_pos (by omega)]
    exact congr (congrArg _ (by omega)) (by omega)

theorem settable_lastResort {core i : Nat} (hc : core < 896) (hi : i < 64) : Settable (lastResort core + i) := by
  have hmod : core % 4 < 4 := Nat.mod_lt _ (by decide)
  unfold Settable isReserved isSaveBlock isMailbox
  rcases region_lastResort hc hi with ⟨-, h⟩ | ⟨-, h⟩
  · simp only [h, Bool.and_eq_false_iff, decide_eq_false_iff_not]
    omega
  · simp only [h, Bool.and_eq_false_iff, decide_eq_false_iff_not, true_and]
    omega

theorem writable_lastResort {core i : Nat} (hc : core < 896) (hi : i < 64) : writable (lastResort core + i) = true := by
  obtain ⟨hr, hs, hm⟩ := settable_lastResort hc hi
  unfold writable
  rw [hr, hs, hm]
  rcases region_lastResort hc hi with ⟨-, h⟩ | ⟨-, h⟩ <;> rw [h] <;> rfl

/-- Forwarding moves whole pages of 64 KiB (R393). -/
theorem forwarded_mod (s : State) (a : Nat) : s.forwarded a % 0x10000 = a % 0x10000 := by
  unfold State.forwarded
  split
  · next x hx =>
    obtain ⟨m, -, rfl⟩ := Option.map_eq_some_iff.mp hx
    split
    · unfold gpaLocal
      omega
    · rfl
  · rfl

/-- A last-resort line stands in one page, at consecutive offsets and under one key slot, be it in the scratchpad or in a saved image (R371). -/
theorem place_lastResort (s : State) {core : Nat} (hc : core < 896) :
    ∃ base key, ∀ i < 64, (s.place (lastResort core + i) 0).1 % 0x10000 = (base + i) % 0x10000 ∧ (s.place (lastResort core + i) 0).2 = key := by
  by_cases hsaved : core < 640 ∧ (s.tile (core / 4)).state = .saved
  · obtain ⟨hlt, hst⟩ := hsaved
    let page := (0x600000 + (0x3FD000 + core % 4 * 64)) / 0x10000
    refine ⟨(s.tile (core / 4)).imagePages.getD page 0 + 0xD000 + core % 4 * 64, (s.tile (core / 4)).imageKeys.getD page 0, fun i hi => ?_⟩
    obtain ⟨-, hr⟩ := (region_lastResort hc hi).resolve_right (by omega)
    have hpage : (0x600000 + (0x3FD000 + core % 4 * 64 + i)) / 0x10000 = page := by omega
    have hplace : s.place (lastResort core + i) 0 = (s.forwarded ((s.tile (core / 4)).imagePages.getD page 0 +
        (0x600000 + (0x3FD000 + core % 4 * 64 + i)) % 0x10000), (s.tile (core / 4)).imageKeys.getD page 0) := by
      unfold State.place
      rw [hr]
      dsimp only
      rw [if_pos ⟨hst, by omega⟩, Tile.imagePlace, hpage]
    rw [hplace]
    exact ⟨by rw [forwarded_mod]; omega, rfl⟩
  · refine ⟨lastResort core, 0, fun i hi => ?_⟩
    have hplace : s.place (lastResort core + i) 0 = (lastResort core + i, 0) := by
      unfold State.place
      rcases region_lastResort hc hi with ⟨hlt, h⟩ | ⟨-, h⟩
      · rw [h]
        dsimp only
        rw [if_neg fun hn => hsaved ⟨hlt, hn.1⟩]
      · rw [h]
    rw [hplace]
    exact ⟨rfl, rfl⟩

/-- Sixty-four bytes written to a last-resort line read back. -/
theorem byte_putBytes_lastResort {s : State} {core : Nat} (hmem : MemoryCanonical s) (hc : core < 896) {bs : List Byte} (hl : bs.length = 64)
    {i : Nat} (hi : i < bs.length) : (s.putBytes 0 (atAddrs (lastResort core) bs)).byte (lastResort core + i) 0 = bs[i] := by
  obtain ⟨base, key, hplace⟩ := place_lastResort s hc
  refine byte_putBytes (key := key) hmem ?_ ?_ ?_ _ (atAddrs_mem hi)
  · intro p hp
    obtain ⟨j, hj, rfl⟩ := mem_atAddrs hp
    exact settable_lastResort hc (hl ▸ hj)
  · intro p hp
    obtain ⟨j, hj, rfl⟩ := mem_atAddrs hp
    exact (hplace j (hl ▸ hj)).2
  · rw [List.pairwise_iff_getElem]
    intro m n hm hn hmn
    have hlen : (atAddrs (lastResort core) bs).length = 64 := by simp [atAddrs, length_addrs, hl]
    have hm' := (hplace m (by omega)).1
    have hn' := (hplace n (by omega)).1
    simp only [atAddrs, List.getElem_zip, getElem_addrs]
    omega

/-! ## Writing the record -/

/-- What an applied write leaves in the storage is what its bytes leave there: everything else that it brings about is no byte. -/
theorem storage_applyBytes {key : Nat} {bs : List (Nat × Byte)} (hw : ∀ b ∈ bs, writable b.1 = true) (s : State) (w : Option Author) :
    ∃ q as, (s.applyBytes w key bs).storage = ((s.mask q as).putBytes key bs).storage := by
  have hf : bs.filter (fun b => writable b.1) = bs := List.filter_eq_self.mpr hw
  unfold State.applyBytes
  dsimp only
  rw [hf]
  split
  · next h =>
    rw [List.isEmpty_iff.mp h]
    exact ⟨0, [], rfl⟩
  · exact ⟨_, _, (storage_retest _ _).trans <| (storage_newDeadlines _ _).trans <| (storage_fireFor _ _ _).trans <|
      (storage_unpoison _ _).trans (storage_sliceWrite _ _ _)⟩

theorem lastResorts_putBytes (s : State) (key : Nat) (bs : List (Nat × Byte)) (c : Nat) :
    ((s.putBytes key bs).core c).lastResorts = (s.core c).lastResorts := by
  rw [State.putBytes_eq]
  rfl

/-- The eight dwords of a record in the last-resort line: its words with LASTRESORT set, and one more than the count that the line held (R358). -/
def State.lastResortRecord (s : State) (core : Nat) (w : List Nat) : List Nat :=
  (w.headD 0 + 0x10000) :: w.drop 1 ++ [s.val (lastResort core + 56) 8 0 + 1]

/-- The state with one more record counted as one of the last-resort line. -/
def State.countLastResort (s : State) (core : Nat) : State :=
  s.setCore core { s.core core with lastResorts := (s.core core).lastResorts + 1 }

theorem storage_toLastResort (s : State) (core : Nat) (w : List Nat) :
    (s.toLastResort core w).storage =
      ((s.countLastResort core).applyBytes none 0 (atAddrs (lastResort core) (dwordBytes (s.lastResortRecord core w)))).storage := by
  unfold State.toLastResort
  extract_lets
  split
  · exact storage_notice _ _ _ _
  · rfl

/-- A record in the last-resort line: it counts, and the line's bytes are its own. -/
theorem toLastResort_spec {s : State} {core : Nat} (hmem : MemoryCanonical s) (hc : core < 896) {w : List Nat} (hl : w.length = 7) :
    ((s.toLastResort core w).core core).lastResorts = (s.core core).lastResorts + 1 ∧
    ∀ i (hi : i < (dwordBytes (s.lastResortRecord core w)).length),
      (s.toLastResort core w).byte (lastResort core + i) 0 = (dwordBytes (s.lastResortRecord core w))[i] := by
  have hlen : (dwordBytes (s.lastResortRecord core w)).length = 64 := by simp [length_dwordBytes, State.lastResortRecord, hl]
  have hw : ∀ b ∈ atAddrs (lastResort core) (dwordBytes (s.lastResortRecord core w)), writable b.1 = true := by
    intro b hb
    obtain ⟨i, hi, rfl⟩ := mem_atAddrs hb
    exact writable_lastResort hc (hlen ▸ hi)
  obtain ⟨q, as, happly⟩ := storage_applyBytes hw (s.countLastResort core) none (key := 0)
  have hstorage := (storage_toLastResort s core w).trans happly
  constructor
  · rw [lastResorts_of_storage hstorage, lastResorts_putBytes]
    show ((s.countLastResort core).core core).lastResorts = _
    simp [State.countLastResort]
  · intro i hi
    rw [byte_of_storage hstorage]
    exact byte_putBytes_lastResort (s := (s.countLastResort core).mask q as) hmem hc hlen hi

/-- A dword among bytes that stand at consecutive addresses. -/
theorem val_of_bytes {s : State} {a k : Nat} {ds : List Nat} (h : ∀ i (hi : i < (dwordBytes ds).length), s.byte (a + i) k = (dwordBytes ds)[i])
    {j : Nat} (hj : j < ds.length) : s.val (a + 8 * j) 8 k = ds[j] % 2 ^ 64 := by
  have hbytes : s.bytes (a + 8 * j) 8 k = leBytes 8 ds[j] := by
    rw [← dwordBytes_slice hj]
    have hlen := length_dwordBytes ds
    apply List.ext_getElem
    · simp only [State.bytes, List.length_map, length_addrs, List.length_take, List.length_drop]
      omega
    · intro i hi hi'
      simp only [State.bytes, List.length_map, length_addrs] at hi
      simp only [State.bytes, List.getElem_map, getElem_addrs, List.getElem_take, List.getElem_drop, Nat.add_assoc]
      exact h (8 * j + i) (by omega)
  exact (congrArg leValue hbytes).trans (leValue_leBytes 8 ds[j])

end Sys2Proof.Machine

section

open Sys2Proof Sys2Proof.Machine

/-- Settles O58: a fault without a shadow bank stops its thread alone, and the last-resort line reads as the record written there. -/
theorem takingAFault : Obligations.TakingAFault := by
  refine ⟨fun s code w2 w4 w5 hbank hst => ?_, fun s core troot job w0 w1 w2 w3 w4 w5 hmem hc => ⟨fun h => record_queued h .., fun hq ho => ?_⟩⟩
  · intro t
    have ht : t = _ := raise_eq hbank code w2 w4 w5
    have hcur : t.cur = _ := (congrArg State.cur ht).trans (cur_setCur s _)
    rw [hcur]
    refine ⟨rfl, rfl, rfl, by simp [Thread.stopAt, hst], rfl, rfl, rfl, rfl, rfl, rfl, rfl, rfl, rfl, rfl, rfl, rfl, rfl, rfl, ?_⟩
    rw [ht]
    exact ⟨⟨_, rfl, rfl, rfl⟩, rfl, byte_of_storage ((storage_notice _ _ _ _).trans (storage_setThread s _ _ _)), fun core ctx h =>
      thread_setThread_other s _ h⟩
  · obtain ⟨hcount, hbytes⟩ := toLastResort_spec (w := [w0, w1, w2, w3, w4, w5, s.cycle]) hmem hc rfl
    have hlen : (s.lastResortRecord core [w0, w1, w2, w3, w4, w5, s.cycle]).length = 8 := rfl
    have hval := fun j (hj : j < 8) => val_of_bytes hbytes (hlen ▸ hj : j < _)
    rw [record_lastResort hq ho]
    refine ⟨hcount, ?_⟩
    simp only [List.forall_mem_cons]
    exact ⟨hval 0 (by decide), hval 1 (by decide), hval 2 (by decide), hval 3 (by decide), hval 4 (by decide), hval 5 (by decide),
      hval 6 (by decide), hval 7 (by decide), by simp⟩

end

end

section
/-!
Mailbox counters and tickets (R96, R97, R239 to R244): what the register of a mailbox or ticket instruction names, a wait on watched words of this
package, and what each instruction then does.
-/

namespace Sys2Proof.Machine

variable {s : State} {a b d : GReg} {c p : Nat}

/-! ## The endpoint that a register names (R201, R239) -/

theorem withCounter_named {x : Dword} (h : s.endpointFor x 37 = some (c, p)) (f : Nat → Nat → Nat → State) :
    s.withCounter x f = f c p (counterAt p c x) := by
  unfold State.withCounter
  rw [h]

theorem withCounter_refused {x : Dword} (h : s.endpointFor x 37 = none) (f : Nat → Nat → Nat → State) :
    s.withCounter x f = s.raise 0x12 0 x 0 := by
  unfold State.withCounter
  rw [h]

theorem withEndpoint_named {x : Dword} (h : s.endpointFor x 31 = some (c, p)) (f : Nat → Nat → State) :
    s.withEndpoint x f = f x.toNat p := by
  unfold State.withEndpoint
  rw [h]

theorem withEndpoint_refused {x : Dword} (h : s.endpointFor x 31 = none) (f : Nat → Nat → State) :
    s.withEndpoint x f = s.raise 0x12 0 x 0 := by
  unfold State.withEndpoint
  rw [h]

/-! ## Counters -/

/-- Two numbers of 32 bits compare by their difference modulo 2^32 (R97). -/
theorem mailboxMet_eq_of_lt (v : Nat) {t : Nat} (ht : t < 2 ^ 32) : mailboxMet v t = decide ((v + 2 ^ 32 - t) % 2 ^ 32 < 2 ^ 31) := by
  show decide ((v + 2 ^ 32 - t % 2 ^ 32) % 2 ^ 32 < 2 ^ 31) = _
  rw [Nat.mod_eq_of_lt ht]

/-- A release reduction with room for it posts the thread's gathered stores and leaves, and its thread goes on (R143). -/
theorem issueRed_release_admits {pa : Nat} (hred : s.cur.redpend < 16) (hnet : s.netAdmits (gpaPkg pa) = true) (what : RedWhat) (ea : Dword) (key : Nat)
    (byName : Bool) : s.issueRed what ea pa key true byName =
      ((s.postOf s.cur.name).modCur fun t => Thread.retire { t with redpend := t.redpend + 1 }).sendReduce
        { s.curOrigin.ticketed s.cur with free := byName, ea := ea } what pa key true := by
  have hroom : ¬ Config.redCap ≤ s.cur.redpend := Nat.not_le.mpr hred
  unfold State.issueRed
  rw [if_neg hroom, viaNet_admits hnet]
  rfl

theorem mbadd_reduces (hep : s.endpointFor (s.rg a) 37 = some (c, p)) (h : s.admits { ahead := false } [a, b] = true) (hred : s.cur.redpend < 16)
    (hnet : s.netAdmits (gpaPkg (counterAt p c (s.rg a))) = true) :
    exec (.mbadd a b) s = .next (((s.postOf s.cur.name).modCur fun t => Thread.retire { t with redpend := t.redpend + 1 }).sendReduce
      { s.curOrigin.ticketed s.cur with free := true } (.alu .add 4 (low 4 (s.rg b))) (counterAt p c (s.rg a)) 0 true) :=
  (issue_admits h _).trans (next_eq ((withCounter_named hep _).trans (issueRed_release_admits hred hnet _ _ _ _)))

theorem mbrd_reads (hep : s.endpointFor (s.rg a) 37 = some (c, p)) (h : s.admits { ahead := false } [d, a] = true) :
    exec (.mbrd a d) s = .next (s.loadPieces (s.rg a) [({ lane := 0, pa := counterAt p c (s.rg a), size := 4 }, 0)] (.gpr d 4 false) false true
      (c == s.focus.core && p == s.pkg) true) :=
  (issue_admits h _).trans (next_eq (withCounter_named hep _))

/-! ## A wait on watched words of this package -/

theorem withWatched_readable {la size : Nat} (hreset : s.tileStateAt la ≠ .reset) (hpoison : ∀ y ∈ addrs la size, s.poisoned y = false) (ea : Dword)
    (f : State → State) : s.withWatched ea la size f = f (s.countRedirect la) := by
  unfold State.withWatched
  rw [if_neg hreset, if_neg]
  simpa using hpoison

theorem watchedValue_of_not_ownAhead {act : WaitAct} (h : s.ownAhead s.cur.name act = false) (la size key : Nat) :
    s.watchedValue act la size key = some (s.val la size key) := by
  unfold State.watchedValue
  rw [h]
  exact if_neg (by decide)

theorem watchWait_met {pa : Nat} (hown : s.ownScratch s.focus.core pa = true) (hheld : s.heldAtTile (gpaLocal pa) = false) (st : TState) (w : Wait) :
    s.watchWait true st pa w = (s.acquire s.focus.core).retire := by
  unfold State.watchWait
  simp only [hown, hheld]
  rfl

theorem watchWait_unmet {pa : Nat} (hheld : s.heldAtTile (gpaLocal pa) = false) (st : TState) (w : Wait) :
    s.watchWait false st pa w =
      (s.postOf s.cur.name).modCur fun t => { t.leave st { w with first := s.nextId } with sleptAt := s.cycle } := by
  unfold State.watchWait
  simp only [hheld]
  rfl

/-- Counting in REDIRECTED changes a tile, and nothing else (R371). -/
theorem countRedirect_eq (s : State) (la : Nat) : ∃ tiles, s.countRedirect la = { s with tiles := tiles } := by
  unfold State.countRedirect
  split
  · split
    · exact ⟨_, rfl⟩
    · exact ⟨s.tiles, rfl⟩
  · exact ⟨s.tiles, rfl⟩

theorem rg_countRedirect (s : State) (la : Nat) (r : GReg) : (s.countRedirect la).rg r = s.rg r := by
  obtain ⟨tiles, h⟩ := countRedirect_eq s la
  rw [h]
  rfl

/-- MBWAIT on a counter of this package that may be read tests its value as it stands at its home. -/
theorem mbwait_tests {la : Nat} (hep : s.endpointFor (s.rg a) 37 = some (c, s.pkg)) (h : s.admits { ahead := false } [a, b] = true)
    (hla : gpaLocal (counterAt s.pkg c (s.rg a)) = la) (hreset : s.tileStateAt la ≠ .reset) (hpoison : ∀ y ∈ addrs la 4, s.poisoned y = false)
    (hahead : (s.countRedirect la).ownAhead (s.countRedirect la).cur.name (.mailbox la ((s.rg b).setWidth 32)) = false) :
    exec (.mbwait a b) s = .next ((s.countRedirect la).watchWait
      (mailboxMet ((s.countRedirect la).val la 4 0) ((s.rg b).setWidth 32).toNat) .waiting (counterAt s.pkg c (s.rg a))
      { k := 8, a := s.rg a, v := ((s.rg b).setWidth 32).setWidth 64, act := .mailbox la ((s.rg b).setWidth 32) }) := by
  refine (issue_admits h _).trans (next_eq ((withCounter_named hep _).trans ?_))
  rw [if_neg (not_not_intro rfl), hla]
  dsimp only
  rw [withWatched_readable hreset hpoison, watchedValue_of_not_ownAhead hahead, rg_countRedirect]

/-! ## Tickets (R243, R244) -/

theorem tktake_asks (hep : s.endpointFor (s.rg a) 31 = some (c, p)) (h : s.admits { ahead := false } [d, a] = true) (hnet : s.netAdmits p = true) :
    exec (.tktake a d) s = .next ((s.wait { k := 14, a := s.rg a, act := .data 1 [] (.gpr d 8 false) false }).send 30 p s.curOrigin
      (.ticket (s.rg a).toNat)) :=
  (issue_admits h _).trans (next_eq ((withEndpoint_named hep _).trans (viaNet_admits hnet _ _)))

section
variable (hep : s.endpointFor (s.rg a) 31 = some (c, p)) (h : s.admits { ahead := false } [a, b] = true)
include hep h

theorem tkwait_called (hp : p = s.pkg) (hcalled : (s.gate (s.rg a).toNat).hasCalled ((s.rg b).setWidth 32) = true) :
    exec (.tkwait a b) s =
      .next (s.modCur fun t => (t.admission (s.gate (s.rg a).toNat) (s.rg a).toNat ((s.rg b).setWidth 32)).retire) :=
  (issue_admits h _).trans (next_eq ((withEndpoint_named hep _).trans (if_pos ⟨hp, hcalled⟩)))

theorem tkwait_uncalled (hp : p = s.pkg) (hcalled : (s.gate (s.rg a).toNat).hasCalled ((s.rg b).setWidth 32) = false) :
    exec (.tkwait a b) s = .next (s.wait { k := 8, a := s.rg a, v := ((s.rg b).setWidth 32).setWidth 64, act := .done 0 }) := by
  refine (issue_admits h _).trans (next_eq ((withEndpoint_named hep _).trans ?_))
  simp [hp, hcalled]

theorem tkwait_heard (hp : p ≠ s.pkg) (hheard : s.heardCalled (s.rg a).toNat ((s.rg b).setWidth 32) = true) :
    exec (.tkwait a b) s = .next (s.modCur fun t => Thread.retire { t with ticket := some ((s.rg a).toNat, (s.rg b).setWidth 32) }) := by
  refine (issue_admits h _).trans (next_eq ((withEndpoint_named hep _).trans ?_))
  simp [hp, hheard]

theorem tkwait_unheard (hp : p ≠ s.pkg) (hheard : s.heardCalled (s.rg a).toNat ((s.rg b).setWidth 32) = false) (hnet : s.netAdmits p = true) :
    exec (.tkwait a b) s = .next ((s.wait { k := 8, a := s.rg a, v := ((s.rg b).setWidth 32).setWidth 64, act := .done 0 }).send 30 p s.curOrigin
      (.ticketWait (s.rg a).toNat ((s.rg b).setWidth 32))) := by
  refine (issue_admits h _).trans (next_eq ((withEndpoint_named hep _).trans ?_))
  simp [hp, hheard, viaNet_admits hnet]

end

end Sys2Proof.Machine

section

open Sys2Proof Sys2Proof.Machine

/-- Settles O27, instruction by instruction: each goes through the endpoint that its register names, and MBWAIT through the test of its counter. -/
theorem mailboxTicketResults : Obligations.MailboxTicketResults := by
  refine ⟨⟨fun s a b d c p hep => ⟨mbadd_reduces hep, mbrd_reads hep, fun h hp hreset hpoison => ?_⟩,
    fun s a b d c p hep => ⟨tktake_asks hep, fun h => ?_⟩, fun s a b d hep => ⟨fun h => ⟨?_, ?_⟩, fun h => ?_⟩,
    fun s a b d hep => ⟨fun h => ?_, fun h => ?_⟩⟩, fun v t _ ht => mailboxMet_eq_of_lt v ht⟩
  · subst hp
    intro la u hahead hheld v
    have htest := mbwait_tests hep h rfl hreset hpoison hahead
    refine ⟨fun hmet hown => ?_, fun hunmet => ?_⟩
    · rw [hmet] at htest
      exact htest.trans (next_eq (watchWait_met hown hheld _ _))
    · rw [hunmet] at htest
      exact htest.trans (next_eq (watchWait_unmet hheld _ _))
  · exact ⟨tkwait_called hep h, tkwait_uncalled hep h, tkwait_heard hep h, tkwait_unheard hep h⟩
  · exact (issue_admits h _).trans (next_eq (withCounter_refused hep _))
  · exact (issue_admits h _).trans (next_eq (withCounter_refused hep _))
  · exact (issue_admits h _).trans (next_eq (withCounter_refused hep _))
  · exact (issue_admits h _).trans (next_eq (withEndpoint_refused hep _))
  · exact (issue_admits h _).trans (next_eq (withEndpoint_refused hep _))

end

end

section
/-!
Device registers (R85): a store of a register that nothing holds back runs the register's own effect on the dword it lies in.
-/

namespace Sys2Proof.Machine

variable {s : State} {m : Msg} {bs : List (Nat × Byte)} {key : Nat} {q : Option Nat}

theorem once_of_no_dedup (h : m.dedup = none) (f : State → State) : s.once m f = f s := by
  unfold State.once
  rw [h]

theorem onRegister_store {rel : Bool} (hmsg : s.msg? s.subject.a = some m) (hbody : m.body = .store bs key q true rel)
    (hbefore : s.deviceBefore m = false) (hopen : rel = false ∨ s.earlierOpen m.origin.name m.id = false ∨ m.origin.pkg ≠ s.pkg)
    (hdedup : m.dedup = none) (hpeer : s.peerRefuses m ((bs.headD (0, 0)).1) key = none) (f : Nat → Nat → Msg → State → State) :
    s.onRegister f = f (gpaLocal ((bs.headD (0, 0)).1) / 8 * 8) (s.merged bs) m s := by
  have hready : ¬ ((!true) = true ∨ s.deviceBefore m = true ∨ (rel = true ∧ s.earlierOpen m.origin.name m.id = true ∧ m.origin.pkg = s.pkg)) := by
    rintro (h | h | ⟨hr, he, hp⟩)
    · exact absurd h (by decide)
    · simp [hbefore] at h
    · simp [hr, he, hp] at hopen
  unfold State.onRegister
  rw [hmsg]
  dsimp only
  rw [hbody]
  refine (if_neg hready).trans ((once_of_no_dedup hdedup _).trans ?_)
  rw [hpeer]

/-- An effect on a register is known by what it does to each dword, value and request. -/
theorem onRegister_next {i : Instr} {f g : Nat → Nat → Msg → State → State} (he : exec i s = .next (s.onRegister f))
    (h : ∀ x v m u, f x v m u = g x v m u) : exec i s = .next (s.onRegister g) := by
  rwa [show f = g from funext fun x => funext fun v => funext fun m => funext fun u => h x v m u] at he

/-- PKG is written once, and a request of this package is acknowledged under its new number (R398). -/
theorem pkgWrite_effect : exec .pkgWrite s = .next (s.onRegister fun _ v m s => if s.pkgWritten then s.regDone m else
    (s.setPkg (v % 2 ^ 19)).regDone (if m.origin.pkg = s.pkg then { m with origin := { m.origin with pkg := v % 2 ^ 19 } } else m)) := by
  refine onRegister_next rfl fun x v m u => ?_
  cases hw : u.pkgWritten with
  | true => simp
  | false => by_cases hp : m.origin.pkg = u.pkg <;> simp [hp]

/-- A store that takes VALID from a key slot is acknowledged later, and any other at once (R384). -/
theorem keySlotWrite_effect : exec .keySlotWrite s = .next (s.onRegister fun a v m s =>
    let i := (a - 0xF000200000) / 128
    let k := (s.key i).store (a % 128 / 8) v
    if (s.key i).valid = true ∧ k.valid = false then
      (({ s with keys := Assoc.insert s.keys i { k with clearing := some m.origin } } : State).modMsg m.id fun x => { x with due := 2 ^ 64 }).notice
        (s.cycle + 1000) .keySlotWritebackDone { a := i, b := m.id }
    else ({ s with keys := Assoc.insert s.keys i k } : State).regDone m) := by
  refine onRegister_next rfl fun x v m u => ?_
  dsimp only
  simp only [Bool.not_eq_true']

/-- A store of 1 in STARTOK confirms the start; any other value stands in the register alone (R419). -/
theorem startokWrite_effect : exec .startokWrite s = .next (s.onRegister fun _ v m s =>
    let h := { s.health with startokReg := BitVec.ofNat 64 v }
    ({ s with health := if v = 1 then { h with startOk := true, anchor := { h.anchor with count := 0 } } else h } : State).regDone m) := by
  refine onRegister_next rfl fun x v m u => ?_
  dsimp only
  by_cases hv : v = 1
  · simp only [if_pos hv]
  · simp only [if_neg hv]

theorem keySlotWritebackDone_acknowledges {posted rel : Bool} (hmsg : s.msg? s.subject.b = some m) (hbody : m.body = .store bs key q posted rel) :
    exec .keySlotWritebackDone s =
      .next ((({ s with keys := Assoc.insert s.keys s.subject.a { s.key s.subject.a with clearing := none } } : State).dropTagged s.subject.a).regDone m) := by
  show execKeySlotWritebackDone s = _
  unfold execKeySlotWritebackDone event
  dsimp only
  rw [hmsg]
  dsimp only
  rw [hbody]

end Sys2Proof.Machine

section

open Sys2Proof Sys2Proof.Machine

/-- Settles O44, register by register: PKG, the key slots and STARTOK split on what is stored, and the others are their effects as the model has them. -/
theorem registerEvents : Obligations.RegisterEvents :=
  ⟨fun _ f _ _ _ _ _ hmsg hbody hbefore hopen hdedup hpeer => onRegister_store hmsg hbody hbefore hopen hdedup hpeer f,
    fun _ => ⟨rfl, rfl, rfl, rfl, rfl, rfl, pkgWrite_effect, keySlotWrite_effect, startokWrite_effect, rfl, rfl, rfl, rfl⟩,
    fun _ _ _ _ _ _ _ hmsg hbody => keySlotWritebackDone_acknowledges hmsg hbody⟩

end

end

section
/-!
minimumNumber and maximumNumber (R104): the numbers of a format are in the order of their patterns, the sign bit turned round. The magnitude of a
finite pattern, in units of the least one, rises with the pattern, and the infinities lie beyond every finite pattern.
-/

namespace Sys2Proof.Machine

/-! ## The magnitudes of the finite patterns -/

/-- The magnitude of a finite pattern without its sign bit, in units of the least subnormal (R101). -/
def FFmt.magnitude (f : FFmt) (p : Nat) : Nat :=
  if p / 2 ^ f.mb = 0 then p % 2 ^ f.mb else (2 ^ f.mb + p % 2 ^ f.mb) * 2 ^ (p / 2 ^ f.mb - 1)

theorem magnitude_subnormal (f : FFmt) {p : Nat} (h : p < 2 ^ f.mb) : f.magnitude p = p := by
  unfold FFmt.magnitude
  rw [if_pos (Nat.div_eq_of_lt h), Nat.mod_eq_of_lt h]

theorem magnitude_normal (f : FFmt) (k : Nat) {r : Nat} (h : r < 2 ^ f.mb) :
    f.magnitude (2 ^ f.mb * (k + 1) + r) = (2 ^ f.mb + r) * 2 ^ k := by
  have hdiv : (2 ^ f.mb * (k + 1) + r) / 2 ^ f.mb = k + 1 := by
    rw [Nat.mul_add_div (Nat.two_pow_pos _), Nat.div_eq_of_lt h, Nat.add_zero]
  unfold FFmt.magnitude
  rw [hdiv, if_neg (Nat.succ_ne_zero k), Nat.mul_add_mod, Nat.mod_eq_of_lt h, Nat.add_sub_cancel]

/-- The next pattern has a greater magnitude: within a binade by its quantum, and into the next binade from the last fraction to none. -/
theorem magnitude_lt_succ (f : FFmt) (p : Nat) : f.magnitude p < f.magnitude (p + 1) := by
  have hr : p % 2 ^ f.mb < 2 ^ f.mb := Nat.mod_lt _ (Nat.two_pow_pos _)
  have hp : 2 ^ f.mb * (p / 2 ^ f.mb) + p % 2 ^ f.mb = p := Nat.div_add_mod p _
  generalize p % 2 ^ f.mb = r at hr hp
  cases hq : p / 2 ^ f.mb with
  | zero =>
    rw [hq, Nat.mul_zero, Nat.zero_add] at hp
    rw [← hp, magnitude_subnormal f hr]
    by_cases hlast : r + 1 < 2 ^ f.mb
    · rw [magnitude_subnormal f hlast]
      exact Nat.lt_succ_self r
    · have hnext : r + 1 = 2 ^ f.mb * (0 + 1) + 0 := by omega
      rw [hnext, magnitude_normal f 0 (Nat.two_pow_pos _)]
      simpa using hr
  | succ k =>
    rw [hq] at hp
    rw [← hp, magnitude_normal f k hr]
    by_cases hlast : r + 1 < 2 ^ f.mb
    · rw [Nat.add_assoc, magnitude_normal f k hlast]
      exact Nat.mul_lt_mul_of_pos_right (by omega) (Nat.two_pow_pos k)
    · have hnext : 2 ^ f.mb * (k + 1) + r + 1 = 2 ^ f.mb * (k + 1 + 1) + 0 := by
        rw [Nat.mul_succ (2 ^ f.mb) (k + 1)]
        omega
      rw [hnext, magnitude_normal f (k + 1) (Nat.two_pow_pos _), Nat.add_zero, Nat.pow_succ 2 k, ← Nat.mul_assoc, Nat.mul_right_comm]
      exact Nat.mul_lt_mul_of_pos_right (by omega) (Nat.two_pow_pos k)

theorem magnitude_lt (f : FFmt) {p q : Nat} (h : p < q) : f.magnitude p < f.magnitude q := by
  induction h with
  | refl => exact magnitude_lt_succ f p
  | step _ ih => exact Nat.lt_trans ih (magnitude_lt_succ f _)

/-- The magnitudes are in the order of the patterns. -/
theorem magnitude_lt_iff (f : FFmt) (p q : Nat) : f.magnitude p < f.magnitude q ↔ p < q := by
  refine ⟨fun h => Nat.lt_of_not_le fun hle => ?_, magnitude_lt f⟩
  rcases Nat.lt_or_eq_of_le hle with hlt | rfl
  · exact Nat.lt_asymm h (magnitude_lt f hlt)
  · exact Nat.lt_irrefl _ h

/-! ## What a pattern decodes to -/

/-- The pattern without its sign bit. -/
def FFmt.unsigned (f : FFmt) (x : Nat) : Nat := x % 2 ^ (f.eb + f.mb)

/-- The sign bit of a pattern. -/
def FFmt.negative (f : FFmt) (x : Nat) : Bool := x / 2 ^ (f.eb + f.mb) % 2 == 1

theorem unsigned_exponent (f : FFmt) (x : Nat) : f.unsigned x / 2 ^ f.mb = x / 2 ^ f.mb % 2 ^ f.eb := by
  unfold FFmt.unsigned
  rw [Nat.add_comm, Nat.pow_add, Nat.mod_mul_right_div_self]

theorem unsigned_fraction (f : FFmt) (x : Nat) : f.unsigned x % 2 ^ f.mb = x % 2 ^ f.mb :=
  Nat.mod_mod_of_dvd x (Nat.pow_dvd_pow 2 (Nat.le_add_left _ _))

/-- The exponent of the least subnormal. -/
def FFmt.quantum (f : FFmt) : Int := f.emin - f.mb

/-- An infinity has the pattern of R101, whatever its sign. -/
theorem unsigned_of_inf {f : FFmt} {x : Nat} {neg : Bool} (h : f.decode x = .inf neg) :
    neg = f.negative x ∧ f.unsigned x = (2 ^ f.eb - 1) * 2 ^ f.mb := by
  unfold FFmt.decode at h
  dsimp only at h
  split at h
  · next hex =>
    split at h
    · next hfr =>
      refine ⟨(FVal.inf.inj h).symm, ?_⟩
      rw [← Nat.div_add_mod (f.unsigned x) (2 ^ f.mb), unsigned_exponent, unsigned_fraction, hex, hfr, Nat.add_zero, Nat.mul_comm]
    · cases h
  · split at h <;> cases h

/-- A finite pattern lies below the infinities, and its value is its magnitude in units of the least subnormal. -/
theorem magnitude_of_fin {f : FFmt} {x m : Nat} {neg : Bool} {e : Int} (h : f.decode x = .fin neg m e) :
    neg = f.negative x ∧ f.unsigned x < (2 ^ f.eb - 1) * 2 ^ f.mb ∧ f.quantum ≤ e ∧ m * 2 ^ (e - f.quantum).toNat = f.magnitude (f.unsigned x) := by
  unfold FFmt.magnitude
  rw [← Nat.div_lt_iff_lt_mul (Nat.two_pow_pos _), unsigned_exponent, unsigned_fraction]
  have hlt : x / 2 ^ f.mb % 2 ^ f.eb < 2 ^ f.eb := Nat.mod_lt _ (Nat.two_pow_pos _)
  unfold FFmt.decode at h
  dsimp only at h
  split at h
  · split at h <;> cases h
  · next hex =>
    split at h
    · next hzero =>
      obtain ⟨rfl, rfl, rfl⟩ := FVal.fin.inj h
      refine ⟨rfl, by omega, Int.le_refl _, ?_⟩
      rw [if_pos hzero, FFmt.quantum, Int.sub_self, Int.toNat_zero, Nat.pow_zero, Nat.mul_one]
    · next hpos =>
      obtain ⟨rfl, rfl, rfl⟩ := FVal.fin.inj h
      have hq : f.quantum = 1 - (f.bias : Int) - f.mb := rfl
      refine ⟨rfl, by omega, by omega, ?_⟩
      rw [if_neg hpos, show (((x / 2 ^ f.mb % 2 ^ f.eb : Nat) : Int) - f.bias - f.mb - f.quantum).toNat = x / 2 ^ f.mb % 2 ^ f.eb - 1 by omega]

/-! ## The order of the numbers -/

/-- The place of a pattern in the order of the numbers: the negative ones below zero, the greatest magnitude first. -/
def FFmt.place (f : FFmt) (x : Nat) : Int := if f.negative x then -1 - (f.unsigned x : Int) else f.unsigned x

theorem place_eq {f : FFmt} {x : Nat} (h : x < 2 ^ f.width) :
    f.place x = if x < 2 ^ (f.width - 1) then (x : Int) else 2 ^ (f.width - 1) - 1 - (x : Int) := by
  have hw : f.width - 1 = f.eb + f.mb := by unfold FFmt.width; omega
  have hx : x < 2 * 2 ^ (f.eb + f.mb) := by
    rwa [show f.width = f.eb + f.mb + 1 by unfold FFmt.width; omega, Nat.pow_succ'] at h
  have hcast : ((2 ^ (f.eb + f.mb) : Nat) : Int) = 2 ^ (f.eb + f.mb) := by norm_cast
  unfold FFmt.place FFmt.negative FFmt.unsigned
  rw [hw]
  by_cases hlow : x < 2 ^ (f.eb + f.mb)
  · simp [hlow, Nat.div_eq_of_lt, Nat.mod_eq_of_lt]
  · have hdiv : x / 2 ^ (f.eb + f.mb) = 1 := Nat.div_eq_of_lt_le (by omega) (by omega)
    have hmod := Nat.div_add_mod x (2 ^ (f.eb + f.mb))
    rw [hdiv, Nat.mul_one] at hmod
    simp only [hdiv, hlow, Nat.one_mod, beq_self_eq_true, if_true, if_false]
    omega

/-- A finite value in units of the least subnormal. -/
def FFmt.scaled (f : FFmt) (x : Nat) : Int := if f.negative x then -(f.magnitude (f.unsigned x) : Int) else f.magnitude (f.unsigned x)

theorem int_scaled {f : FFmt} {x m : Nat} {neg : Bool} {e : Int} (h : f.decode x = .fin neg m e) :
    (FVal.fin neg m e).int * 2 ^ (e - f.quantum).toNat = f.scaled x := by
  obtain ⟨rfl, _, _, hmag⟩ := magnitude_of_fin h
  have hcast : (m : Int) * 2 ^ (e - f.quantum).toNat = f.magnitude (f.unsigned x) := by rw [← hmag]; norm_cast
  unfold FFmt.scaled
  cases f.negative x with
  | true => exact (Int.neg_mul _ _).trans (congrArg Neg.neg hcast)
  | false => exact hcast

/-- An exact sum in units of a common quantum. -/
theorem exactSum_scaled (a b : Int × Int) {q : Int} (ha : q ≤ a.2) (hb : q ≤ b.2) :
    (exactSum a b).1 * 2 ^ (min a.2 b.2 - q).toNat = a.1 * 2 ^ (a.2 - q).toNat + b.1 * 2 ^ (b.2 - q).toNat := by
  have hea : (a.2 - q).toNat = (a.2 - min a.2 b.2).toNat + (min a.2 b.2 - q).toNat := by omega
  have heb : (b.2 - q).toNat = (b.2 - min a.2 b.2).toNat + (min a.2 b.2 - q).toNat := by omega
  rw [hea, heb, Int.pow_add, Int.pow_add, ← Int.mul_assoc, ← Int.mul_assoc, ← Int.add_mul]
  rfl

theorem neg_of_mul_two_pow {a b : Int} {k : Nat} (h : a * 2 ^ k = b) : (a < 0 ↔ b < 0) ∧ (a = 0 ↔ b = 0) := by
  have hk : (0 : Int) < 2 ^ k := Int.pow_pos (by decide)
  rcases Int.lt_trichotomy a 0 with ha | ha | ha
  · have := Int.mul_neg_of_neg_of_pos ha hk
    omega
  · rw [ha, Int.zero_mul] at h
    omega
  · have := Int.mul_pos ha hk
    omega

/-- Of finite values, one is below another where its scaled value is less, or where both are zeros and it alone is negative. -/
theorem below_fin_iff {f : FFmt} {x y m n : Nat} {a b : Bool} {d e : Int} (hx : f.decode x = .fin a m d) (hy : f.decode y = .fin b n e) :
    (f.decode x).below true (f.decode y) = true ↔
      f.scaled x < f.scaled y ∨ f.scaled x = f.scaled y ∧ f.scaled x = 0 ∧ f.negative x = true ∧ f.negative y = false := by
  obtain ⟨ha, _, hd, _⟩ := magnitude_of_fin hx
  obtain ⟨hb, _, he, _⟩ := magnitude_of_fin hy
  have hsx := int_scaled hx
  have hsy := int_scaled hy
  have hdiff := exactSum_scaled ((FVal.fin a m d).int, d) (-(FVal.fin b n e).int, e) hd he
  dsimp only at hdiff
  rw [Int.neg_mul, hsx, hsy] at hdiff
  obtain ⟨hlt, heq⟩ := neg_of_mul_two_pow hdiff
  obtain ⟨_, hzero⟩ := neg_of_mul_two_pow hsx
  have hless : f.scaled x + -f.scaled y < 0 ↔ f.scaled x < f.scaled y := by omega
  have hsame : f.scaled x + -f.scaled y = 0 ↔ f.scaled x = f.scaled y := by omega
  rw [hx, hy, ← ha, ← hb]
  simp only [FVal.below, FVal.exp, FVal.neg, Bool.or_eq_true, Bool.and_eq_true, decide_eq_true_eq, beq_iff_eq, Bool.not_eq_true', hlt, heq, hzero,
    hless, hsame, true_and, and_assoc]

/-- One place is before another where the signs differ so, or the magnitudes of like signs do. -/
theorem place_lt_iff (f : FFmt) (x y : Nat) : f.place x < f.place y ↔
    if f.negative x then (f.negative y = false ∨ f.unsigned y < f.unsigned x) else f.negative y = false ∧ f.unsigned x < f.unsigned y := by
  unfold FFmt.place
  cases f.negative x <;> cases f.negative y <;> simp <;> omega

/-- The order of numbers, −0 below +0, is that of their places. -/
theorem below_iff_place {f : FFmt} {x y : Nat} (hx : (f.decode x).isNan = false) (hy : (f.decode y).isNan = false) :
    (f.decode x).below true (f.decode y) = true ↔ f.place x < f.place y := by
  rw [place_lt_iff]
  cases hdx : f.decode x with
  | nan s => simp [hdx, FVal.isNan] at hx
  | inf a =>
    obtain ⟨rfl, hux⟩ := unsigned_of_inf hdx
    cases hdy : f.decode y with
    | nan s => simp [hdy, FVal.isNan] at hy
    | inf b =>
      obtain ⟨rfl, huy⟩ := unsigned_of_inf hdy
      simp [FVal.below, hux.trans huy.symm]
    | fin b n e =>
      obtain ⟨_, huy, _⟩ := magnitude_of_fin hdy
      rw [← hux] at huy
      simp [FVal.below, huy, Nat.lt_asymm huy]
  | fin a m d =>
    obtain ⟨_, hux, _⟩ := magnitude_of_fin hdx
    cases hdy : f.decode y with
    | nan s => simp [hdy, FVal.isNan] at hy
    | inf b =>
      obtain ⟨rfl, huy⟩ := unsigned_of_inf hdy
      rw [← huy] at hux
      simp [FVal.below, hux, Nat.lt_asymm hux]
    | fin b n e =>
      rw [← hdx, ← hdy, below_fin_iff hdx hdy, ← magnitude_lt_iff f (f.unsigned x), ← magnitude_lt_iff f (f.unsigned y)]
      unfold FFmt.scaled
      cases f.negative x with
      | false => cases f.negative y <;> simp
      | true =>
        cases f.negative y with
        | false => simp; omega
        | true => simp

/-! ## The operations -/

/-- A signalling operand sets NV, and no other flag is set (R104). -/
theorem minmax_flags (f : FFmt) (big : Bool) (x y : Nat) : (f.minmax big x y).2 = { nv := (f.decode x).isSig || (f.decode y).isSig } := by
  unfold FFmt.minmax
  dsimp only
  split <;> rfl

theorem isNan_eq_false {v : FVal} (h : ∀ s, v = .nan s → False) : v.isNan = false := by
  cases v with
  | nan s => exact (h s rfl).elim
  | inf n => rfl
  | fin n m e => rfl

/-- A NaN gives way to a number, two NaNs give the canonical one, and of two numbers the second is taken where it lies beyond the first. -/
theorem minmax_value (f : FFmt) (big : Bool) (x y : Nat) :
    (f.minmax big x y).1 =
      if (f.decode x).isNan && (f.decode y).isNan then f.nan
      else if (f.decode x).isNan then y
      else if (f.decode y).isNan then x
      else if (if big then f.place x < f.place y else f.place y < f.place x) then y else x := by
  unfold FFmt.minmax
  dsimp only
  split
  · next hx hy => simp [hx, hy, FVal.isNan]
  · next hx hy => rw [isNan_eq_false hy, hx]; rfl
  · next hy hx => rw [isNan_eq_false hx, hy]; rfl
  · next hx hy _ =>
    have hxy := below_iff_place (isNan_eq_false hx) (isNan_eq_false hy)
    have hyx := below_iff_place (isNan_eq_false hy) (isNan_eq_false hx)
    rw [isNan_eq_false hx, isNan_eq_false hy]
    cases big <;> simp [hxy, hyx]

/-- An admitted lane-wise operation computes its active lanes and ORs their flags into FLAGS (R245, R246). -/
theorem laneWise_admits {s : State} {i : Instr} {d a b : VReg} {k : KReg} {t : VTy} {op : LaneOp}
    (h : s.admits { rmo := (vfloat t).isSome, roam := true } [] = true) :
    laneWise i d a b k t (some op) s = .next (let th := s.cur
      let r := mapLanes (vsize t) (th.active k) th.v[d] fun j =>
        op th.issueRm (laneOf th.v[a] (vsize t) j) (laneOf th.v[b] (vsize t) j) (laneOf th.v[d] (vsize t) j)
      s.modCur fun th => Thread.retire ((th.wv d r.1).orFlags r.2)) := issue_admits h _

theorem bothOp_float {t : VTy} {f : FFmt} (h : vfloat t = some f) (ff : FFmt → LaneOp) (fi : (e a b : Nat) → Int) :
    bothOp t ff fi = some (ff f) := by
  unfold bothOp
  rw [h]

end Sys2Proof.Machine

section

open Sys2Proof Sys2Proof.Machine

/-- Settles O17: the results follow from the order of the patterns, and the vector and the atomic operations are these two functions. -/
theorem minimumAndMaximum : Obligations.MinimumAndMaximum := by
  refine ⟨?_, ?_, fun _ _ _ => ⟨rfl, rfl, rfl, rfl⟩⟩
  · intro f big x y _ hx hy
    refine ⟨minmax_flags f big x y, ?_⟩
    simp only [← place_eq hx, ← place_eq hy]
    exact minmax_value f big x y
  · intro s d a b k t f hf h
    have hadmits : s.admits { rmo := (vfloat t).isSome, roam := true } [] = true := by rwa [hf]
    refine List.forall_mem_cons.mpr ⟨?_, List.forall_mem_singleton.mpr ?_⟩
    · exact (congrArg (fun op => laneWise _ d a b k t op s) (bothOp_float hf _ _)).trans (laneWise_admits hadmits)
    · exact (congrArg (fun op => laneWise _ d a b k t op s) (bothOp_float hf _ _)).trans (laneWise_admits hadmits)

end

end

section
/-!
Conversion to signed integers (R124): rounding at the units keeps the rule of each mode, a conversion leaves each active lane the bits of its result,
and what lies beyond the range of the type is clamped.
-/

namespace Sys2Proof.Machine

/-! ## Rounding to an integer (R101, R124) -/

theorem roundAt_whole {rm : Rm} {neg : Bool} {m : Nat} {e : Int} (h : 0 ≤ e) : roundAt rm neg m e 0 false = (m * 2 ^ e.toNat, false) := by
  unfold roundAt
  rw [if_pos h, Int.sub_zero]

/-- Whether a fraction r of a unit of 2 × half above n is rounded up. -/
def roundsUp (rm : Rm) (neg : Bool) (n r half : Nat) : Bool :=
  match rm with
  | .rne => decide (half < r) || (r == half && n % 2 == 1)
  | .rtz => false
  | .rup => r != 0 && !neg
  | .rdn => r != 0 && neg

theorem roundAt_fraction {rm : Rm} {neg : Bool} {m : Nat} {e : Int} (h : e < 0) :
    roundAt rm neg m e 0 false =
      (m / 2 ^ (-e).toNat + (roundsUp rm neg (m / 2 ^ (-e).toNat) (m % 2 ^ (-e).toNat) (2 ^ ((-e).toNat - 1))).toNat, m % 2 ^ (-e).toNat != 0) := by
  unfold roundAt roundsUp
  rw [if_neg (by omega), Int.zero_sub]
  cases rm <;> simp [Bool.toNat, Bool.cond_eq_ite, apply_ite]

theorem two_pow_neg_eq {e : Int} (h : e < 0) : 2 ^ (-e).toNat = 2 * 2 ^ ((-e).toNat - 1) := by
  rw [← Nat.pow_succ', Nat.succ_eq_add_one, Nat.sub_add_cancel (by omega)]

/-- The multiple of a unit that a value rounds to, rounded up or not. -/
theorem rounded_mul (n unit : Nat) (up : Bool) : (n + up.toNat) * unit = n * unit + if up then unit else 0 := by
  cases up with
  | false => simp
  | true => simp [Nat.add_mul]

/-- Rounding at the units gives the integer that each mode asks for (R101). -/
theorem roundAt_roundsTo (rm : Rm) (neg : Bool) (m : Nat) (e : Int) : RoundsTo rm neg m e (roundAt rm neg m e 0 false).1 := by
  unfold RoundsTo
  by_cases h : 0 ≤ e
  · rw [if_pos h, roundAt_whole h]
  · rw [if_neg h, roundAt_fraction (by omega)]
    have hunit := two_pow_neg_eq (Int.not_le.mp h)
    have hm : m / 2 ^ (-e).toNat * 2 ^ (-e).toNat + m % 2 ^ (-e).toNat = m := Nat.div_add_mod' m _
    have hr : m % 2 ^ (-e).toNat < 2 ^ (-e).toNat := Nat.mod_lt _ (Nat.two_pow_pos _)
    dsimp only
    generalize m / 2 ^ (-e).toNat = n at hm ⊢
    generalize m % 2 ^ (-e).toNat = r at hm hr ⊢
    generalize 2 ^ ((-e).toNat - 1) = half at hunit ⊢
    generalize 2 ^ (-e).toNat = unit at hunit hm hr ⊢
    rw [Nat.add_mul _ 1, rounded_mul, Nat.one_mul]
    unfold roundsUp
    cases rm with
    | rtz => simp; omega
    | rup => cases neg <;> by_cases h0 : r = 0 <;> simp [h0] <;> omega
    | rdn => cases neg <;> by_cases h0 : r = 0 <;> simp [h0] <;> omega
    | rne =>
      rcases Nat.lt_trichotomy r half with hlt | heq | hgt
      · simp [Nat.ne_of_lt hlt, Nat.lt_asymm hlt]; omega
      · rcases Nat.mod_two_eq_zero_or_one n with hpar | hpar <;> simp [heq, hpar] <;> omega
      · simp [hgt]; omega

/-- A rounding is inexact where the integer differs from the value (R108). -/
theorem roundAt_inexact (rm : Rm) (neg : Bool) (m : Nat) (e : Int) :
    (roundAt rm neg m e 0 false).2 = decide (e < 0 ∧ (roundAt rm neg m e 0 false).1 * 2 ^ (-e).toNat ≠ m) := by
  by_cases h : 0 ≤ e
  · rw [roundAt_whole h, decide_eq_false (by omega)]
  · rw [roundAt_fraction (by omega)]
    have hhalf : 0 < 2 ^ ((-e).toNat - 1) := Nat.two_pow_pos _
    have hm : m / 2 ^ (-e).toNat * 2 ^ (-e).toNat + m % 2 ^ (-e).toNat = m := Nat.div_add_mod' m _
    have hr : m % 2 ^ (-e).toNat < 2 ^ (-e).toNat := Nat.mod_lt _ (Nat.two_pow_pos _)
    dsimp only
    rw [rounded_mul]
    generalize m / 2 ^ (-e).toNat = n at hm ⊢
    generalize m % 2 ^ (-e).toNat = r at hm hr ⊢
    generalize 2 ^ ((-e).toNat - 1) = half at hhalf ⊢
    by_cases h0 : r = 0
    · have hdown : roundsUp rm neg n 0 half = false := by
        unfold roundsUp
        cases rm <;> simp [Nat.ne_of_lt hhalf]
      subst h0
      rw [hdown]
      simpa using fun _ => hm
    · have hne : n * 2 ^ (-e).toNat + (if roundsUp rm neg n r half then 2 ^ (-e).toNat else 0) ≠ m := by
        split <;> omega
      rw [decide_eq_true ⟨Int.not_le.mp h, hne⟩]
      simpa using h0

/-! ## Values in and beyond the range (R124) -/

theorem toInt_nan {f : FFmt} {x : Nat} (rm : Rm) (n : Nat) (h : (f.decode x).isNan = true) : f.toInt rm n x = (0, { nv := true }) := by
  unfold FFmt.toInt
  cases hx : f.decode x with
  | nan s => rfl
  | inf a => simp [hx, FVal.isNan] at h
  | fin a m e => simp [hx, FVal.isNan] at h

theorem toInt_inf {f : FFmt} {x : Nat} {neg : Bool} (rm : Rm) (n : Nat) (h : f.decode x = .inf neg) :
    f.toInt rm n x = (if neg then 2 ^ (n - 1) else 2 ^ (n - 1) - 1, { nv := true, sat := true }) := by
  unfold FFmt.toInt
  rw [h]

/-- The pattern of a negative integer in the range. -/
theorem patOfInt_neg {n k : Nat} (h : k ≤ 2 ^ n) : patOfInt n (-(k : Int)) = (2 ^ n - k) % 2 ^ n := by
  have hcast : (2 : Int) ^ n = ((2 ^ n : Nat) : Int) := by norm_cast
  unfold patOfInt
  rw [← Int.add_emod_right, hcast, show -(k : Int) + ((2 ^ n : Nat) : Int) = ((2 ^ n - k : Nat) : Int) by omega]
  norm_cast

theorem patOfInt_of_lt {n k : Nat} (h : k < 2 ^ n) : patOfInt n k = k := by
  unfold patOfInt
  norm_cast
  exact Nat.mod_eq_of_lt h

theorem toInt_fin {f : FFmt} {x m : Nat} {neg : Bool} {e : Int} (rm : Rm) (n : Nat) (h : f.decode x = .fin neg m e) :
    f.toInt rm n x =
      let k := (roundAt rm neg m e 0 false).1
      let inexact : Sticky := { nx := decide (e < 0 ∧ k * 2 ^ (-e).toNat ≠ m) }
      if neg then (if 2 ^ (n - 1) < k then (2 ^ (n - 1), { nv := true, sat := true }) else ((2 ^ n - k) % 2 ^ n, inexact))
      else (if 2 ^ (n - 1) ≤ k then (2 ^ (n - 1) - 1, { nv := true, sat := true }) else (k, inexact)) := by
  unfold FFmt.toInt
  rw [h]
  dsimp only
  rw [← roundAt_inexact]
  have hpos : 0 < 2 ^ (n - 1) := Nat.two_pow_pos _
  have hhalf : 2 ^ (n - 1) ≤ 2 ^ n := Nat.pow_le_pow_right (by decide) (Nat.sub_le n 1)
  have hcast : (2 : Int) ^ (n - 1) = ((2 ^ (n - 1) : Nat) : Int) := by norm_cast
  generalize roundAt rm neg m e 0 false = r
  rw [hcast]
  cases neg with
  | true =>
    by_cases hk : 2 ^ (n - 1) < r.1
    · simp only [if_true, if_pos hk]
      rw [if_pos (by omega)]
    · simp only [if_true, if_neg hk]
      rw [if_neg (by omega), if_neg (by omega), patOfInt_neg (by omega)]
  | false =>
    by_cases hk : 2 ^ (n - 1) ≤ r.1
    · simp only [Bool.false_eq_true, if_false, if_pos hk]
      rw [if_neg (by omega), if_pos (by omega)]
    · simp only [Bool.false_eq_true, if_false, if_neg hk]
      rw [if_neg (by omega), if_neg (by omega), patOfInt_of_lt (by omega)]

theorem toInt_lt (f : FFmt) (rm : Rm) {n : Nat} (hn : 0 < n) (x : Nat) : (f.toInt rm n x).1 < 2 ^ n := by
  have hpos : 0 < 2 ^ (n - 1) := Nat.two_pow_pos _
  have hlimit : 2 ^ (n - 1) < 2 ^ n := Nat.pow_lt_pow_right (by decide) (Nat.sub_lt hn Nat.one_pos)
  cases hx : f.decode x with
  | nan s =>
    rw [toInt_nan rm n (by rw [hx]; rfl)]
    exact Nat.two_pow_pos n
  | inf neg =>
    rw [toInt_inf rm n hx]
    dsimp only
    split <;> omega
  | fin neg m e =>
    rw [toInt_fin rm n hx]
    dsimp only
    split <;> split
    · exact hlimit
    · exact Nat.mod_lt _ (Nat.two_pow_pos n)
    · dsimp only; omega
    · dsimp only; omega

/-! ## Fields (R100) -/

theorem testBit_fieldOf (v lo n j : Nat) : (fieldOf v lo n).testBit j = (decide (j < n) && v.testBit (lo + j)) := by
  unfold fieldOf
  rw [Nat.testBit_mod_two_pow, Nat.testBit_div_two_pow, Nat.add_comm]

theorem testBit_putField (v lo n x j : Nat) :
    (putField v lo n x).testBit j = if lo ≤ j ∧ j < lo + n then x.testBit (j - lo) else v.testBit j := by
  have hv : 2 ^ lo * (2 ^ n * (v / 2 ^ (lo + n)) + fieldOf v lo n) + v % 2 ^ lo = v := by
    unfold fieldOf
    rw [Nat.pow_add, ← Nat.div_div_eq_div_mul, Nat.div_add_mod, Nat.div_add_mod]
  have hput : putField v lo n x = 2 ^ lo * (2 ^ n * (v / 2 ^ (lo + n)) + x % 2 ^ n) + v % 2 ^ lo := by
    unfold putField
    rw [Nat.mul_add, Nat.mul_comm (2 ^ lo) (fieldOf v lo n)] at hv
    rw [Nat.mul_add, Nat.mul_comm (2 ^ lo) (x % 2 ^ n)]
    omega
  have hlow : v % 2 ^ lo < 2 ^ lo := Nat.mod_lt _ (Nat.two_pow_pos _)
  rw [hput, Nat.testBit_two_pow_mul_add _ hlow]
  by_cases h : j < lo
  · rw [if_pos h, if_neg (by omega), Nat.testBit_mod_two_pow, decide_eq_true h, Bool.true_and]
  · have hx : x % 2 ^ n < 2 ^ n := Nat.mod_lt _ (Nat.two_pow_pos _)
    rw [if_neg h, Nat.testBit_two_pow_mul_add _ hx]
    by_cases hj : j < lo + n
    · rw [if_pos (by omega), if_pos (by omega), Nat.testBit_mod_two_pow, decide_eq_true (by omega), Bool.true_and]
    · rw [if_neg (by omega), if_neg (by omega), Nat.testBit_div_two_pow]
      congr 1
      omega

theorem fieldOf_putField_same (v lo n x : Nat) : fieldOf (putField v lo n x) lo n = x % 2 ^ n := by
  refine Nat.eq_of_testBit_eq fun j => ?_
  rw [testBit_fieldOf, testBit_putField, Nat.testBit_mod_two_pow]
  by_cases h : j < n <;> simp [h]

theorem fieldOf_putField_other {v lo hi n x : Nat} (h : lo + n ≤ hi ∨ hi + n ≤ lo) : fieldOf (putField v lo n x) hi n = fieldOf v hi n := by
  refine Nat.eq_of_testBit_eq fun j => ?_
  rw [testBit_fieldOf, testBit_fieldOf, testBit_putField]
  by_cases hj : j < n
  · rw [if_neg (by omega)]
  · simp [hj]

theorem putField_lt {v lo n x w : Nat} (hv : v < 2 ^ w) (h : lo + n ≤ w) : putField v lo n x < 2 ^ w := by
  refine Nat.lt_pow_two_of_testBit _ fun j hj => ?_
  rw [testBit_putField, if_neg (by omega)]
  exact Nat.testBit_lt_two_pow (Nat.lt_of_lt_of_le hv (Nat.pow_le_pow_right (by decide) hj))

theorem toNat_mod_two_pow {w n : Nat} (x : BitVec w) (h : n = w) : x.toNat % 2 ^ n = x.toNat := by
  rw [h, BitVec.toNat_mod_cancel]

/-! ## The lanes of a conversion (R250) -/

/-- A lane of a conversion: an active lane's field is put, and its flags are ORed. -/
def convertLane (ws wd : Nat) (active : Nat → Bool) (src : VWord) (f : Nat → Nat × Sticky) (r : Nat × Sticky) (i : Nat) : Nat × Sticky :=
  if active i then (putField r.1 (wd * i) wd (f (fieldOf src.toNat (ws * i) ws)).1, r.2.or (f (fieldOf src.toNat (ws * i) ws)).2) else r

theorem convertLane_active {ws wd i : Nat} {active : Nat → Bool} {src : VWord} {f : Nat → Nat × Sticky} (h : active i = true) (r : Nat × Sticky) :
    convertLane ws wd active src f r i =
      (putField r.1 (wd * i) wd (f (fieldOf src.toNat (ws * i) ws)).1, r.2.or (f (fieldOf src.toNat (ws * i) ws)).2) := if_pos h

theorem convertLane_inactive {ws wd i : Nat} {active : Nat → Bool} {src : VWord} {f : Nat → Nat × Sticky} (h : ¬ active i = true) (r : Nat × Sticky) :
    convertLane ws wd active src f r i = r := if_neg h

theorem convertLanes_eq (c ws wd : Nat) (active : Nat → Bool) (old src : VWord) (f : Nat → Nat × Sticky) :
    convertLanes c ws wd active old src f =
      (BitVec.ofNat 512 ((List.range c).foldl (convertLane ws wd active src f) (old.toNat % 2 ^ (c * wd), {})).1,
        ((List.range c).foldl (convertLane ws wd active src f) (old.toNat % 2 ^ (c * wd), {})).2) := rfl

section

variable (ws wd : Nat) (active : Nat → Bool) (src : VWord) (f : Nat → Nat × Sticky) (v : Nat) (fl : Sticky) (n : Nat)

theorem convertLane_field (j : Nat) :
    fieldOf ((List.range n).foldl (convertLane ws wd active src f) (v, fl)).1 (wd * j) wd =
      if j < n ∧ active j = true then (f (fieldOf src.toNat (ws * j) ws)).1 % 2 ^ wd else fieldOf v (wd * j) wd := by
  induction n with
  | zero => simp
  | succ n ih =>
    have hsucc : j ≠ n → (j < n + 1 ↔ j < n) := fun h => by omega
    rw [List.range_succ, List.foldl_append, List.foldl_cons, List.foldl_nil]
    by_cases ha : active n = true
    · rw [convertLane_active ha]
      by_cases hj : j = n
      · subst hj
        rw [fieldOf_putField_same, if_pos ⟨Nat.lt_succ_self _, ha⟩]
      · have hapart : wd * n + wd ≤ wd * j ∨ wd * j + wd ≤ wd * n := by
          rw [← Nat.mul_succ, ← Nat.mul_succ]
          exact (Nat.lt_or_gt_of_ne hj).symm.imp (Nat.mul_le_mul_left wd) (Nat.mul_le_mul_left wd)
        simp only [fieldOf_putField_other hapart, ih, hsucc hj]
    · rw [convertLane_inactive ha, ih]
      by_cases hj : j = n
      · subst hj
        simp [ha]
      · simp only [hsucc hj]

theorem convertLane_lt {w : Nat} (hv : v < 2 ^ w) (h : wd * n ≤ w) :
    ((List.range n).foldl (convertLane ws wd active src f) (v, fl)).1 < 2 ^ w := by
  induction n with
  | zero => exact hv
  | succ n ih =>
    rw [Nat.mul_succ] at h
    rw [List.range_succ, List.foldl_append, List.foldl_cons, List.foldl_nil]
    by_cases ha : active n = true
    · rw [convertLane_active ha]
      exact putField_lt (ih (by omega)) h
    · rw [convertLane_inactive ha]
      exact ih (by omega)

/-- A register holds every lane of a conversion that fits into it. -/
theorem toNat_convertLane {w : Nat} (old : BitVec w) (h : wd * n ≤ w) :
    (BitVec.ofNat w ((List.range n).foldl (convertLane ws wd active src f) (old.toNat, fl)).1).toNat =
      ((List.range n).foldl (convertLane ws wd active src f) (old.toNat, fl)).1 := by
  rw [BitVec.toNat_ofNat]
  exact Nat.mod_eq_of_lt (convertLane_lt ws wd active src f old.toNat fl n old.isLt h)

theorem convertLane_flags :
    ((List.range n).foldl (convertLane ws wd active src f) (v, fl)).2 =
      ((List.range n).filter active).foldl (fun q i => q.or (f (fieldOf src.toNat (ws * i) ws)).2) fl := by
  rw [List.foldl_filter]
  induction n with
  | zero => rfl
  | succ n ih =>
    rw [List.range_succ, List.foldl_append, List.foldl_append, ← ih]
    simp only [List.foldl_cons, List.foldl_nil, convertLane]
    split <;> rfl

end

/-! ## VCVT to an integer (R124, R250) -/

section

variable {s : State} {d a : VReg} {k : KReg}

/-- The thread after a conversion in place, before it completes. -/
def Thread.converted (t : Thread) (d a : VReg) (k : KReg) (c w : Nat) (f : Nat → Nat × Sticky) : Thread :=
  (t.wv d (convertLanes c w w (t.active k) t.v[d] t.v[a] f).1).orFlags (convertLanes c w w (t.active k) t.v[d] t.v[a] f).2

theorem converted_flags (t : Thread) (d a : VReg) (k : KReg) (c w : Nat) (f : Nat → Nat × Sticky) :
    (t.converted d a k c w f).flags =
      (t.orFlags (((List.range c).filter (t.active k)).foldl (fun q i => q.or (f (fieldOf t.v[a].toNat (w * i) w)).2) {})).flags := by
  rw [← convertLane_flags w w]
  rfl

theorem converted_field (t : Thread) (d a : VReg) (k : KReg) {c w : Nat} {f : Nat → Nat × Sticky} (hw : w * c = 512) (hf : ∀ x, (f x).1 < 2 ^ w)
    {i : Nat} (hi : i < c) :
    fieldOf ((t.converted d a k c w f).v[d]).toNat (w * i) w =
      if t.active k i then (f (fieldOf t.v[a].toNat (w * i) w)).1 else fieldOf t.v[d].toNat (w * i) w := by
  have hreg : (t.converted d a k c w f).v[d] = (convertLanes c w w (t.active k) t.v[d] t.v[a] f).1 := by
    simp [Thread.converted, Thread.orFlags, Thread.wv]
  have hold : t.v[d].toNat % 2 ^ (c * w) = t.v[d].toNat := toNat_mod_two_pow _ (by rw [Nat.mul_comm, hw])
  rw [hreg, convertLanes_eq, hold]
  dsimp only
  rw [toNat_convertLane _ _ _ _ _ _ _ _ (Nat.le_of_eq hw), convertLane_field, Nat.mod_eq_of_lt (hf _)]
  simp only [hi, true_and]

/-- VCVT to an integer as wide as its format converts the active lanes in place: beside the vector registers FLAGS alone changes before it completes. -/
theorem vcvt_toInt {f : FFmt} {c size : Nat} (hwidth : f.width = 8 * size) (hc : 8 * size * c = 512)
    (h : s.admits { rmo := true, roam := true } [] = true) :
    ∃ u : Thread, vcvt d a k true c f.width f.width (fun rm x => f.toInt rm f.width x) s = .next (s.setCur u.retire) ∧
      (∀ i < c, laneOf u.v[d] size i =
        if s.cur.active k i then (f.toInt s.cur.issueRm f.width (laneOf s.cur.v[a] size i)).1 else laneOf s.cur.v[d] size i) ∧
      u = { s.cur with v := u.v, flags := (s.cur.orFlags (((List.range c).filter (s.cur.active k)).foldl
        (fun x i => x.or (f.toInt s.cur.issueRm f.width (laneOf s.cur.v[a] size i)).2) {})).flags } := by
  have hpos : 0 < f.width := by unfold FFmt.width; omega
  refine ⟨s.cur.converted d a k c f.width fun x => f.toInt s.cur.issueRm f.width x, issue_admits h _, fun i hi => ?_, ?_⟩
  · unfold laneOf
    rw [← hwidth]
    exact converted_field s.cur d a k (hwidth ▸ hc) (toInt_lt f _ hpos) hi
  · unfold laneOf
    rw [← hwidth, ← converted_flags]
    rfl

end

end Sys2Proof.Machine

section

open Sys2Proof Sys2Proof.Machine

/-- Settles O22: the lanes are those of a conversion in place, and a finite value is rounded at the units and then clamped. -/
theorem vcvtToIntegerResults : Obligations.VcvtToIntegerResults := by
  refine ⟨fun s d a k h => ?_, fun f rm x _ => ?_⟩
  · exact List.forall_mem_cons.mpr ⟨vcvt_toInt (f := fp32) rfl rfl h, List.forall_mem_singleton.mpr (vcvt_toInt (f := fp64) rfl rfl h)⟩
  · exact ⟨toInt_nan rm _, toInt_inf rm _, toInt_inf rm _, fun neg m e h => ⟨_, roundAt_roundsTo rm neg m e, toInt_fin rm _ h⟩⟩

end

end

section
/-!
What a store request is (R140): the words that it writes leave its core's L1 and the fills on their way there, one request joins what is in flight, and
nothing that a byte or a register depends on changes.
-/

namespace Sys2Proof.Machine

/-! ## Words that leave an L1 -/

theorem look_map_snd {α β : Type} (f : α → β) (l : Assoc α) (k : Nat) :
    Assoc.look (l.map fun p => (p.1, f p.2)) k = (Assoc.look l k).map f := by
  induction l with
  | nil => rfl
  | cons p l ih =>
    simp only [List.map_cons, Assoc.look, ih]
    split <;> rfl

theorem look_filter_removed {α : Type} {p : Nat × α → Bool} {k : Nat} (h : ∀ x, p (k, x) = false) (l : Assoc α) :
    Assoc.look (l.filter p) k = none := by
  induction l with
  | nil => rfl
  | cons q l ih =>
    obtain ⟨j, x⟩ := q
    by_cases hp : p (j, x) = true
    · have hj : j ≠ k := fun e => by simp [e, h] at hp
      rw [List.filter_cons_of_pos hp, Assoc.look, if_neg hj, ih]
    · rw [List.filter_cons_of_neg hp, ih]

/-- A core that loses words holds none of them in its L1. -/
theorem l1Word_loseWords (c : Core) {ws : List Nat} {w : Nat} (h : w ∈ ws) : (c.loseWords ws).l1Word w = none := by
  have hlook : ∀ q : Assoc L1Word, Assoc.look (q.filter fun p => !ws.contains p.1) w = none := look_filter_removed (by simp [h])
  unfold Core.l1Word Core.loseWords
  dsimp only
  rw [look_map_snd fun q : Assoc L1Word => q.filter fun p => !ws.contains p.1]
  cases Assoc.look c.l1 (w / 16) with
  | none => rfl
  | some q => exact hlook q

variable (s : State) (core : Nat) (ws : List Nat)

@[simp] theorem storage_dropWords : (s.dropWords core ws).storage = s.storage :=
  storage_setCore (s := s) (i := core) (c := (s.core core).loseWords ws) rfl

theorem core_dropWords_same : (s.dropWords core ws).core core = (s.core core).loseWords ws := core_setCore_same s core _

theorem thread_dropWords (c ctx : Nat) : (s.dropWords core ws).thread c ctx = s.thread c ctx := by
  show (s.setCore core ((s.core core).loseWords ws)).thread c ctx = _
  unfold State.thread
  by_cases h : c = core
  · subst h
    rw [core_setCore_same]
    rfl
  · rw [core_setCore_other s _ h]

/-- Of what is in flight only answers lose words: data, and acknowledgements. -/
theorem flight_dropWords : ∃ f : Msg → Msg, (s.dropWords core ws).flight = s.flight.map f ∧ ∀ m, (f m).id = m.id ∧
    (f m = m ∨ (∃ v l e, m.body = .data v l e) ∨ ∃ n us l e, m.body = .ack n us l e) := by
  refine ⟨_, rfl, fun m => ?_⟩
  split
  · exact ⟨rfl, .inl rfl⟩
  split
  · next v l e hbody => exact ⟨rfl, .inr (.inl ⟨v, l, e, hbody⟩)⟩
  · next n us l e hbody => exact ⟨rfl, .inr (.inr ⟨n, us, l, e, hbody⟩)⟩
  · exact ⟨rfl, .inl rfl⟩

/-! ## The request -/

/-- A store of this package posts one request; where its data are gathered first, a notice of when they are posted follows. -/
theorem sendStore_here {s : State} {a : Nat} (h : gpaPkg a = s.pkg) (o : Origin) (b : Byte) (bs : List (Nat × Byte)) (key : Nat) (now rel : Bool) :
    let u := (s.dropWords o.core ((((a, b) :: bs).map (·.1 / 4)).eraseDups)).post (s.latency o.core a / 2) o
      (.store ((a, b) :: bs) key none (now || postsAtOnce a) rel)
    ∃ n l, s.sendStore o ((a, b) :: bs) key now rel = { u with nextId := n, flight := u.flight ++ l } ∧ l.length ≤ 1 := by
  have hsend : ∀ v : State, v.pkg = s.pkg → ∀ d x, v.send d (gpaPkg a) o x = v.post d o x := fun v hv d x => if_pos (h.trans hv.symm)
  unfold State.sendStore
  dsimp only
  rw [hsend (s.dropWords o.core _) rfl]
  split
  · exact ⟨s.nextId + 1, [], by rw [List.append_nil]; rfl, Nat.zero_le _⟩
  · exact ⟨_, _, rfl, Nat.le_refl 1⟩

end Sys2Proof.Machine

section

open Sys2Proof Sys2Proof.Machine

/-- Settles O12: the request is posted behind what is in flight, from a state that differs in an L1 and in the fills on their way to it alone. -/
theorem storeRequestFrame : Obligations.StoreRequestFrame := by
  intro s o a b bs key now rel hpkg t
  let ws := (((a, b) :: bs).map (·.1 / 4)).eraseDups
  obtain ⟨n, l, ht, hl⟩ : ∃ n l, t = _ ∧ _ := sendStore_here hpkg o b bs key now rel
  obtain ⟨f, hflight, hf⟩ := flight_dropWords s o.core ws
  have hcore : t.core o.core = (s.core o.core).loseWords ws := by
    rw [ht]
    exact core_dropWords_same s o.core ws
  have hstorage : t.storage = s.storage := by
    rw [ht]
    exact storage_dropWords s o.core ws
  refine ⟨⟨s.flight.map f, l, ?_, hl, ?_, fun m hm => ?_⟩, fun w hw => ?_, byte_of_storage hstorage, congrArg Storage.mem hstorage, fun core ctx => ?_⟩
  · have hepoch : ((s.dropWords o.core ws).core o.core).l1Epoch = (s.core o.core).l1Epoch := by rw [core_dropWords_same]; rfl
    rw [ht]
    show ((s.dropWords o.core ws).flight ++ [_]) ++ l = _
    rw [hflight, hepoch, List.append_assoc]
    rfl
  · simp [hf]
  · rcases (hf m).2 with h | h
    · exact .inl (List.mem_map.mpr ⟨m, hm, h⟩)
    · exact .inr h
  · rw [hcore]
    exact l1Word_loseWords _ (List.mem_eraseDups.mpr hw)
  · rw [ht]
    exact thread_dropWords s o.core ws core ctx

end

end

section
/-!
Requests at their home (R133, R140, R143, R144, R409): when a load, a store, an atomic or a reduction has its turn, what it then does, and that a request
whose number its window holds is answered from the window.
-/

namespace Sys2Proof.Machine

variable {s u : State} {m : Msg} {key : Nat}

/-! ## What a turn waits for -/

/-- A release of this package waits for the earlier stores and reductions of its thread, and no other request does (R141). -/
theorem not_releaseHeld {rel : Bool} (h : rel = false ∨ s.earlierOpen m.origin.name m.id = false ∨ m.origin.pkg ≠ s.pkg) :
    ¬ (rel = true ∧ s.earlierOpen m.origin.name m.id = true ∧ m.origin.pkg = s.pkg) := by
  rintro ⟨hr, he, hp⟩
  simp [hr, he, hp] at h

theorem not_farPage {pa : Nat} (h : s.farPage pa = none) : ¬ (s.farPage pa).isSome = true := by simp [h]

/-! ## Loads -/

theorem load_serves {ps : List Piece} {fill : Bool} {epoch : Nat} (hmsg : s.msg? s.subject.a = some m) (hbody : m.body = .load ps key fill epoch)
    (hfree : ∀ p ∈ ps, s.heldAtTile (gpaLocal p.pa) = false ∧
      (isDevice p.pa = true ∨ s.ownOpenAt m (s.homeAddr p.pa) p.size = false ∧ s.behindUnits p = false))
    (hfar : s.farPage (((ps.head?).map (·.pa)).getD 0) = none) (hdev : (∀ p ∈ ps, isDevice p.pa = false) ∨ s.deviceBefore m = false) :
    exec .load s = .next (s.serveLoad m ps key fill epoch) := by
  have hwaits : ¬ (ps.any fun p => s.heldAtTile (gpaLocal p.pa) ||
      (!isDevice p.pa && (s.ownOpenAt m (s.homeAddr p.pa) p.size || s.behindUnits p))) = true := by
    rw [List.any_eq_true]
    rintro ⟨p, hp, h⟩
    obtain ⟨hheld, hd | ⟨hown, hunits⟩⟩ := hfree p hp
    · simp [hheld, hd] at h
    · simp [hheld, hown, hunits] at h
  have horder : ¬ (ps.any (fun p => isDevice p.pa) && s.deviceBefore m) = true := by
    rw [Bool.and_eq_true, List.any_eq_true]
    rintro ⟨⟨p, hp, h⟩, hb⟩
    rcases hdev with hd | hd
    · simp [hd p hp] at h
    · simp [hd] at hb
  show execLoad s = _
  simp only [execLoad, event, hmsg, hbody]
  rw [if_neg hwaits, if_neg (not_farPage hfar), if_neg horder]

/-- Only a tagged block that a copy reads leaves its header by the side band (R412). -/
theorem headerAside_of_no_block (h : m.origin.block = none) (vals : List (Nat × Nat)) : s.headerAside m vals = (s, vals) := by
  unfold State.headerAside
  rw [h]

theorem serveLoad_answers {p : Piece} {ps : List Piece} (hpeer : s.peerRefuses m p.pa key = none) (hreset : s.tileStateAt (gpaLocal p.pa) ≠ .reset)
    (hpoison : s.poisonIn (p :: ps) = none) (hblock : m.origin.block = none) (fill : Bool) (epoch : Nat) :
    let x := s.forwarded (gpaLocal p.pa)
    let d := s.latency m.origin.core p.pa / 2
    s.serveLoad m (p :: ps) key fill epoch = ((s.countRedirect (gpaLocal p.pa)).sliceRead x key).answer
      (if isDamask p.pa ∧ !s.sliceHolds x key then d + Config.sliceMiss else d) m
      (.data ((p :: ps).map fun q => (q.lane, s.homePiece key q)) (if fill then s.sectorWords key p.pa else []) epoch) := by
  unfold State.serveLoad
  dsimp only
  rw [hpeer]
  dsimp only
  rw [if_neg hreset, hpoison]
  dsimp only
  rw [headerAside_of_no_block hblock]

/-! ## Stores -/

section
variable {bs : List (Nat × Byte)} {q : Option Nat} {posted rel : Bool} (hmsg : s.msg? s.subject.a = some m) (hbody : m.body = .store bs key q posted rel)
  (hrel : rel = false ∨ s.earlierOpen m.origin.name m.id = false ∨ m.origin.pkg ≠ s.pkg) (hfar : s.farPage ((bs.headD (0, 0)).1) = none)
  (hdedup : m.dedup = none)
include hmsg hbody hrel hfar hdedup

/-- A store that may go on has its turn under its number, or takes one as it arrives, or is refused by the package it has come to. -/
theorem store_arrives :
    (∀ n, q = some n → exec .store s = .next (s.storeTurn m bs key n posted)) ∧
    (q = none → s.ownBefore m = false → s.peerRefuses m ((bs.headD (0, 0)).1) key = none →
      let u : State := { s with nextSeq := s.nextSeq + 1 }
      let cs := bs.map fun b => (u.homeAddr b.1, b.2)
      exec .store s = .next ((u.modMsg m.id fun m => { m with body := .store cs key (some s.nextSeq) posted rel }).storeTurn m cs key s.nextSeq posted)) ∧
    (∀ c, q = none → s.ownBefore m = false → s.peerRefuses m ((bs.headD (0, 0)).1) key = some c →
      exec .store s = .next (s.answer 1 m (.nack c 0 (BitVec.ofNat 64 (gpaLocal ((bs.headD (0, 0)).1))) true))) := by
  show (∀ n, _ → execStore s = _) ∧ (_ → _ → _ → execStore s = _) ∧ ∀ c, _ → _ → _ → execStore s = _
  simp only [execStore, event, hmsg, hbody]
  rw [if_neg (not_releaseHeld hrel), once_of_no_dedup hdedup, if_neg (not_farPage hfar)]
  refine ⟨fun n hq => ?_, fun hq hown hpeer => ?_, fun c hq hown hpeer => ?_⟩
  · subst hq
    exact next_eq (if_neg (by simp))
  · rw [hq, hpeer]
    exact next_eq (if_neg (by simp [hown]))
  · rw [hq, hpeer]
    exact next_eq (if_neg (by simp [hown]))

end

/-- A registered store is told of a lock, waits, or is applied (R140, R370, R372, R392). -/
theorem storeTurn_cases (s : State) (m : Msg) (bs : List (Nat × Byte)) (key n : Nat) (posted : Bool) :
    let locked := ∃ b ∈ bs, s.lockedFor (gpaLocal b.1) n = true
    let stays := posted = false ∨ (∃ b ∈ bs, s.heldAtTile (gpaLocal b.1) = true) ∨ s.behindOthers bs n = true
    (locked → s.storeTurn m bs key n posted = s.noteHeld m) ∧ (¬locked → stays → s.storeTurn m bs key n posted = s) ∧
    (¬locked → ¬stays → s.storeTurn m bs key n posted = s.applyStore m bs key n) := by
  unfold State.storeTurn
  simp only [List.any_eq_true, Bool.not_eq_true']
  exact ⟨fun hl => if_pos hl, fun hl hs => (if_neg hl).trans (if_pos hs), fun hl hs => (if_neg hl).trans (if_neg hs)⟩

/-! ## Operations of the atomic units -/

/-- An operation of the atomic units has its registration number, or takes the next one as it arrives, at the word as its home has it (R134, R393). -/
def State.Registers (s u : State) (m : Msg) (pa pa' no : Nat) : Prop :=
  m.regd = some no ∧ u = s ∧ pa' = pa ∨
  m.regd = none ∧ s.ownBefore m = false ∧ no = s.nextSeq ∧ pa' = ({ s with nextSeq := s.nextSeq + 1 } : State).homeAddr pa ∧
    u = ({ s with nextSeq := s.nextSeq + 1 } : State).modMsg m.id fun x => { x with regd := some no, body := x.body.rebase s.homeAddr }

section
variable {pa pa' no size : Nat}

theorem State.Registers.not_behind (h : s.Registers u m pa pa' no) : ¬ (m.regd.isNone && s.ownBefore m) = true := by
  rcases h with ⟨hr, -, -⟩ | ⟨-, hown, -⟩
  · simp [hr]
  · simp [hown]

theorem atHome_registers (h : s.Registers u m pa pa' no) (f : Author → State → State) : s.atHome m pa size f = u.homeTurn m no pa' size f := by
  rcases h with ⟨hr, rfl, rfl⟩ | ⟨hr, -, rfl, rfl, rfl⟩
  · unfold State.atHome
    rw [hr]
  · unfold State.atHome
    rw [hr]
    rfl

section
variable (hheld : s.heldAtTile (gpaLocal pa) = false) (hlock : s.lockedFor (gpaLocal pa) no = false)
include hheld hlock

theorem homeTurn_applies (hahead : s.aheadOf pa size no = []) (f : Author → State → State) : s.homeTurn m no pa size f = f (m.origin.writer no) s := by
  simp [State.homeTurn, hheld, hlock, hahead]

/-- What registered before it on its word is recalled, and it comes next (R144). -/
theorem homeTurn_recalls (hahead : s.aheadOf pa size no ≠ []) (f : Author → State → State) : s.homeTurn m no pa size f =
    { s.recallAt pa size no with flight := behindLast m.id ((s.aheadOf pa size no).map (·.id)) (s.recallAt pa size no).flight } := by
  simp [State.homeTurn, hheld, hlock, hahead]

end

end

section
variable {pa pa' no : Nat} {rel : Bool} (hmsg : s.msg? s.subject.a = some m)
  (hrel : rel = false ∨ s.earlierOpen m.origin.name m.id = false ∨ m.origin.pkg ≠ s.pkg) (hfar : s.farPage pa = none) (hdedup : m.dedup = none)
  (hregd : s.Registers u m pa pa' no) (hheld : u.heldAtTile (gpaLocal pa') = false) (hlock : u.lockedFor (gpaLocal pa') no = false)
  (hpeer : u.peerRefuses m pa key = none) (hreset : u.tileStateAt (gpaLocal pa) ≠ .reset)
include hmsg hrel hfar hdedup hregd hheld hlock hpeer hreset

theorem atomic_applies {op : AluOp} {size : Nat} {v cmp : Dword} (hbody : m.body = .atomic op pa size v cmp key rel)
    (hahead : u.aheadOf pa' size no = []) (hpoison : u.poisonIn [{ lane := 0, pa := pa, size := size }] = none) :
    let w := (u.countRedirect (gpaLocal pa)).ticketBytes m.origin pa size
    let r := w.amoAt (some (m.origin.writer no)) op (w.forwarded (gpaLocal pa)) size key v.toNat cmp.toNat
    exec .atomic s = .next ((r.2.answer (u.latency m.origin.core pa / 2) m (.old (BitVec.ofNat 64 r.1) (wordsOf pa size))).ownDone m.origin) := by
  show execAtomic s = _
  simp only [execAtomic, event, hmsg, hbody]
  rw [if_neg (not_releaseHeld hrel), if_neg hregd.not_behind, once_of_no_dedup hdedup, if_neg (not_farPage hfar), atHome_registers hregd,
    homeTurn_applies hheld hlock hahead, hpeer]
  dsimp only
  rw [if_neg hreset, hpoison]

theorem reduce_applies {what : RedWhat} (hbody : m.body = .reduce what pa key rel) (hahead : u.aheadOf pa' what.size no = [])
    (hdev : m.origin.dev = none) :
    let w := (u.countRedirect (gpaLocal pa)).ticketBytes m.origin pa what.size
    exec .reduce s = .next ((((w.reduceAt (some (m.origin.writer no)) what (w.forwarded (gpaLocal pa)) key).answer
      (u.latency m.origin.core pa / 2) m (.ack false (wordsOf pa what.size) [] 0)).ownDone m.origin).arrived m.id) := by
  show execReduce s = _
  simp only [execReduce, event, hmsg, hbody]
  rw [if_neg (not_releaseHeld hrel), if_neg hregd.not_behind, once_of_no_dedup hdedup, if_neg (not_farPage hfar), atHome_registers hregd,
    homeTurn_applies hheld hlock hahead, hpeer]
  dsimp only
  rw [if_neg hreset, hdev]
  cases what <;> rfl

end

/-! ## A request that its window holds (R409) -/

theorem cores_outward (s : State) (m : Msg) (src dst chan : Nat) (r : Bool) : (s.outward m src dst chan r).cores = s.cores := by
  unfold State.outward
  extract_lets key next seq numbered port pinned mode head
  have hnumbered : numbered.cores = s.cores := by
    unfold numbered
    split <;> rfl
  have hpinned : pinned.cores = numbered.cores := by
    unfold pinned
    clear_value port
    cases port with
    | none => rfl
    | some p => dsimp only; split <;> rfl
  exact hpinned.trans hnumbered

theorem cores_reply (s : State) (d : Nat) (m : Msg) (b : Body) : (s.reply d m b).cores = s.cores := by
  unfold State.reply
  dsimp only
  split
  · rfl
  · exact cores_outward _ _ _ _ _ _

/-- A request with a number that its window holds has its saved reply, or none where its source has passed it, and does nothing again. -/
theorem once_of_held {seq lus : Nat} {w : Window} (hdedup : m.dedup = some (seq, lus)) (hpkg : m.origin.pkg ≠ s.pkg)
    (hwindow : s.window (endpoint m.origin.pkg m.origin.core) m.body.gateway = some w) (hheld : ∃ e ∈ w.entries, e.1 = seq) :
    ∃ t : State, t.storage = s.storage ∧ t.cores = s.cores ∧ ∀ f, s.once m f = t := by
  unfold State.once
  rw [hdedup]
  dsimp only
  rw [hwindow]
  simp only [if_neg hpkg]
  generalize (if numberBelow w.lus lus = true then lus else w.lus) = lus'
  by_cases hpassed : numberBelow seq lus' = true
  · simp only [if_pos hpassed]
    refine ⟨_, ?_, ?_, fun f => rfl⟩
    · exact (storage_drop _ _).trans (storage_setWindow _ _)
    · rfl
  · simp only [if_neg hpassed]
    cases hfind : (w.entries.filter fun e => !numberBelow e.1 lus').find? fun e => e.1 == seq with
    | none =>
      obtain ⟨e, he, rfl⟩ := hheld
      have hkept : e ∈ w.entries.filter fun e => !numberBelow e.1 lus' := List.mem_filter.mpr ⟨he, by simpa using hpassed⟩
      exact absurd (List.find?_eq_none.mp hfind e hkept) (by simp)
    | some e =>
      dsimp only
      refine ⟨_, ?_, ?_, fun f => rfl⟩
      · exact (storage_drop _ _).trans ((storage_reply _ _ _ _).trans (storage_setWindow _ _))
      · exact cores_reply _ _ _ _

end Sys2Proof.Machine

section

open Sys2Proof Sys2Proof.Machine

/-- Settles O42, request by request: when each has its turn, and what it then does. -/
theorem homeEvents : Obligations.HomeEvents := by
  refine ⟨⟨fun s m ps key fill epoch => load_serves, fun s m p ps key fill epoch hpeer hreset hpoison hblock => ?_,
    fun s m bs key q posted rel => store_arrives, storeTurn_cases, ?_, ?_, ?_⟩, ?_⟩
  · exact serveLoad_answers hpeer hreset hpoison hblock fill epoch
  · intro s u m op pa pa' size no v cmp key rel hmsg hbody hrel hfar hdedup hregd hheld hlock hahead hpeer hreset hpoison
    exact atomic_applies hmsg hrel hfar hdedup hregd hheld hlock hpeer hreset hbody hahead hpoison
  · intro s u m what pa pa' no key rel hmsg hbody hrel hfar hdedup hdev hregd hheld hlock hahead hpeer hreset
    exact reduce_applies hmsg hrel hfar hdedup hregd hheld hlock hpeer hreset hbody hahead hdev
  · exact fun s m no pa size f hheld hlock hahead => homeTurn_recalls hheld hlock hahead f
  · intro s m f g seq lus w hdedup hpkg hwindow hheld
    obtain ⟨t, hstorage, hcores, ht⟩ := once_of_held hdedup hpkg hwindow hheld
    rw [ht, ht]
    exact ⟨rfl, congrArg Storage.mem hstorage, thread_of_cores hcores⟩

end

end

section
/-!
Scalar stores and release stores (R140, R213 to R215): a store that has passed its checks is one request of the low bytes of its source, and a release
store is made once what its thread has under way is acknowledged.
-/

namespace Sys2Proof.Machine

variable {s : State} {d a b : GReg} {sh : BitVec 3} {n : Nat} {x : Access} {ea : Dword}

/-- The state after the thread whose turn it is posts one scalar store, counted in its store acknowledgements. -/
def State.storePosted (s : State) (ea : Dword) (x : Access) (n : Nat) (v : Dword) (now : Bool) : State :=
  (s.modCur fun t => Thread.retire { t with storeAck := t.storeAck + 1 }).sendStore { s.curOrigin.ticketed s.cur with ea := ea }
    (storeBytes x.pa n v) x.key now false

/-- With room in the count, and in the network interface for another package, a scalar store leaves at once (R213). -/
theorem storeReqs_scalar (hn : n ∈ [1, 2, 4, 8]) (hbank : s.cur.bank = none) (hack : s.cur.storeAck < 64)
    (hnet : s.netAdmits (gpaPkg x.pa) = true) (v : Dword) (now : Bool) :
    let r : StoreReq := { bytes := storeBytes x.pa n v, key := x.key, ea := ea }
    s.storeReqs ea [r] [r] now = s.storePosted ea x n v now :=
  storeReqs_one hbank hack (by rw [storeBytes_head _ _ _ hn]; exact hnet) rfl _ _ _

/-! ## ST and STX -/

section
variable (hn : n ∈ [1, 2, 4, 8]) (hdev : isDevice x.pa = true → 4 ≤ n) (hstays : s.stays x.pa = true) (hbank : s.cur.bank = none)
  (hack : s.cur.storeAck < 64) (hnet : s.netAdmits (gpaPkg x.pa) = true)
include hn hdev hstays hbank hack hnet

theorem storeScalar_posts (hcheck : s.checkCur ea n false true = .ok x) (v : Dword) :
    s.storeScalar ea n v false = s.storePosted ea x n v false := by
  have hwide : ¬ (isDevice x.pa = true ∧ n < 4) := fun h => Nat.not_le.mpr h.2 (hdev h.1)
  unfold State.storeScalar
  rw [withAccess_ok hcheck, if_neg hwide, atOwner_stays hstays]
  exact storeReqs_scalar hn hbank hack hnet v false

theorem storeOffset_posts {o : BitVec 13} (h : s.admits { imm := true } [d, a] = true) (hcheck : s.checkCur (s.eaOffset a o) n false true = .ok x) :
    storeOffset d a o n s = .next (s.storePosted (s.eaOffset a o) x n (s.rg d) false) :=
  (issue_admits h _).trans (next_eq (storeScalar_posts hn hdev hstays hbank hack hnet hcheck _))

theorem storeIndex_posts (h : s.admits {} [d, a, b] = true) (hcheck : s.checkCur (s.eaIndex a b sh) n false true = .ok x) :
    storeIndex d a b sh n s = .next (s.storePosted (s.eaIndex a b sh) x n (s.rg d) false) :=
  (issue_admits h _).trans (next_eq (storeScalar_posts hn hdev hstays hbank hack hnet hcheck _))

end

/-! ## ST.REL (R141) -/

/-- Stores and reductions of the thread whose turn it is that are not acknowledged hold its release. -/
theorem released_open (h : s.cur.storeAck ≠ 0 ∨ s.cur.redpend ≠ 0) (f : State → State) :
    s.released f = (s.postOf s.cur.name).stallFor 4 0 0 .released :=
  if_neg fun hz => h.elim (· hz.1) (· hz.2)

theorem released_clear (hack : s.cur.storeAck = 0) (hred : s.cur.redpend = 0) (f : State → State) : s.released f = f s :=
  if_pos ⟨hack, hred⟩

section
variable (hn : n ∈ [4, 8]) (h : s.admits { ahead := false } [d, a, b] = true) (hcheck : s.checkCur (s.eaIndex a b sh) n false true = .ok x)
  (hstays : s.stays x.pa = true)
include hn h hcheck hstays

/-- A release store that has passed its checks is its release and then its request. -/
theorem storeRelease_checked : storeRelease d a b sh n s = .next (s.released fun s' =>
    let r : StoreReq := { bytes := storeBytes x.pa n (s'.rg d), key := x.key, ea := s.eaIndex a b sh }
    s'.storeReqs (s.eaIndex a b sh) [r] [r] true) := by
  have hwide : ¬ (isDevice x.pa = true ∧ n < 4) := by
    simp only [List.mem_cons, List.not_mem_nil, or_false] at hn
    omega
  refine (issue_admits h _).trans (next_eq ?_)
  dsimp only
  rw [withAccess_ok hcheck, if_neg hwide, atOwner_stays hstays]

theorem storeRelease_posts (hbank : s.cur.bank = none) (hack : s.cur.storeAck = 0) (hred : s.cur.redpend = 0)
    (hnet : s.netAdmits (gpaPkg x.pa) = true) :
    storeRelease d a b sh n s = .next (s.storePosted (s.eaIndex a b sh) x n (s.rg d) true) := by
  have hsize : n ∈ [1, 2, 4, 8] := List.mem_cons_of_mem _ (List.mem_cons_of_mem _ hn)
  rw [storeRelease_checked hn h hcheck hstays, released_clear hack hred]
  exact next_eq (storeReqs_scalar hsize hbank (by omega) hnet _ true)

theorem storeRelease_waits (hopen : s.cur.storeAck ≠ 0 ∨ s.cur.redpend ≠ 0) :
    storeRelease d a b sh n s = .next ((s.postOf s.cur.name).stallFor 4 0 0 .released) := by
  rw [storeRelease_checked hn h hcheck hstays, released_open hopen]

end

/-! ## The forms -/

theorem st_forms : ∀ e ∈ ([(.stB, 1), (.stH, 2), (.stW, 4), (.stD, 8)] : List ((GReg → GReg → BitVec 13 → Instr) × Nat)),
    e.2 ∈ [1, 2, 4, 8] ∧ ∀ d a o s, exec (e.1 d a o) s = storeOffset d a o e.2 s := by
  exact List.forall_mem_cons.mpr ⟨⟨by decide, fun _ _ _ _ => rfl⟩, List.forall_mem_cons.mpr ⟨⟨by decide, fun _ _ _ _ => rfl⟩,
    List.forall_mem_cons.mpr ⟨⟨by decide, fun _ _ _ _ => rfl⟩, List.forall_mem_singleton.mpr ⟨by decide, fun _ _ _ _ => rfl⟩⟩⟩⟩

theorem stx_forms : ∀ e ∈ ([(.stxB, 1), (.stxH, 2), (.stxW, 4), (.stxD, 8)] : List ((GReg → GReg → GReg → BitVec 3 → Instr) × Nat)),
    e.2 ∈ [1, 2, 4, 8] ∧ ∀ d a b sh s, exec (e.1 d a b sh) s = storeIndex d a b sh e.2 s := by
  exact List.forall_mem_cons.mpr ⟨⟨by decide, fun _ _ _ _ _ => rfl⟩, List.forall_mem_cons.mpr ⟨⟨by decide, fun _ _ _ _ _ => rfl⟩,
    List.forall_mem_cons.mpr ⟨⟨by decide, fun _ _ _ _ _ => rfl⟩, List.forall_mem_singleton.mpr ⟨by decide, fun _ _ _ _ _ => rfl⟩⟩⟩⟩

theorem stRel_forms : ∀ e ∈ ([(.stRelW, 4), (.stRelD, 8)] : List ((GReg → GReg → GReg → BitVec 3 → Instr) × Nat)),
    e.2 ∈ [4, 8] ∧ ∀ d a b sh s, exec (e.1 d a b sh) s = storeRelease d a b sh e.2 s := by
  exact List.forall_mem_cons.mpr ⟨⟨by decide, fun _ _ _ _ _ => rfl⟩, List.forall_mem_singleton.mpr ⟨by decide, fun _ _ _ _ _ => rfl⟩⟩

end Sys2Proof.Machine

section

open Sys2Proof Sys2Proof.Machine

/-- Settles O11, form by form: each instruction is its form at one size. -/
theorem storeResults : Obligations.StoreResults := by
  refine ⟨fun e he s d a o x h hcheck hdev hstays hbank hack hnet => ?_, fun e he s d a b sh x h hcheck hdev hstays hbank hack hnet => ?_,
    fun e he s d a b sh x h hcheck _ hstays hbank => ?_⟩
  · obtain ⟨hsize, hexec⟩ := st_forms e he
    rw [hexec]
    exact storeOffset_posts hsize hdev hstays hbank hack hnet h hcheck
  · obtain ⟨hsize, hexec⟩ := stx_forms e he
    rw [hexec]
    exact storeIndex_posts hsize hdev hstays hbank hack hnet h hcheck
  · obtain ⟨hsize, hexec⟩ := stRel_forms e he
    rw [hexec]
    exact ⟨storeRelease_posts hsize h hcheck hstays hbank, storeRelease_waits hsize h hcheck hstays⟩

end

end

section
/-!
Recalls, registrations and answers (R31, R140, R143, R144, R227, R406): what the owner of a word does on its recall, what an arm reads, and where an answer
goes.
-/

namespace Sys2Proof.Machine

variable {s : State} {m r : Msg}

/-! ## Recalls and registrations -/

/-- The requests of a core of this package, sent on their own account, that have a word registered or about to change (R144). -/
def State.ownersOf (s : State) (core pa : Nat) (x : Msg) : Bool :=
  x.origin.core == core && x.origin.pkg == s.pkg && x.relay.isNone && x.unacked.contains (pa / 4)

/-- The state after a word has been recalled from a core, before the recall is acknowledged: the data gathered for it are posted, those requests know of the
recall, and the core's L1 holds the word no more. -/
def State.recalled (s : State) (core pa : Nat) : State :=
  let u := s.postGathered (s.ownersOf core pa)
  (({ u with flight := u.flight.map fun x => if s.ownersOf core pa x then { x with recalled := pa / 4 :: x.recalled } else x } : State).dropWords
    core [pa / 4]).recallOn core (pa / 4)

theorem recall_eq {pa core : Nat} (hmsg : s.msg? s.subject.a = some m) (hbody : m.body = .recall pa core) :
    exec .recall s = .next (if m.origin.pkg = (s.recalled core pa).pkg then (s.recalled core pa).drop m.id
      else (s.recalled core pa).answer 1 m (.ack true [] [] 0)) := by
  show execRecall s = _
  simp only [execRecall, event, hmsg, hbody]
  rfl

theorem watchRegistration_arms {reg : WReg} {line key : Nat} {mask : BitVec 4} (hmsg : s.msg? s.subject.a = some m)
    (hbody : m.body = .arm reg line mask key none) (hfar : s.farPage (line * 256) = none) (hlives : (s.whereIs m.origin.name).isSome = true) :
    let pa := gpa s.pkg (s.forwarded (gpaLocal (line * 256)))
    let u := s.register m.origin.name m.origin.core reg (pa / 256) mask
    let fill := if isDamask pa then ((List.range 4).filter fun i => mask.getLsbD i).flatMap fun i => u.sectorWords key (line * 256 + 64 * i) else []
    exec .watchRegistration s = .next ((u.readMasked (s.forwarded (gpaLocal (line * 256))) key mask).answer (u.latency m.origin.core pa / 2) m
      (.data [] fill (u.core m.origin.core).l1Epoch)) := by
  show execWatchRegistration s = _
  simp only [execWatchRegistration, event, hmsg, hbody, hfar, if_pos hlives]

/-! ## Data -/

/-- Values for a living thread reach the wait that asked for them; a late answer does nothing. -/
theorem dataFor_whereIs {p : Place} (hplace : s.whereIs m.origin.name = some p) (vals : List (Nat × Nat)) :
    (s.late p m = false → s.dataFor m vals = (s.deliver p vals).settle m.origin.name) ∧ (s.late p m = true → s.dataFor m vals = s) := by
  unfold State.dataFor
  rw [hplace]
  exact ⟨fun h => if_neg (by simp [h]), fun h => if_pos h⟩

/-- A further reply from another package, to a request that has its answer, is dropped (R411). -/
theorem unasked_of_answered (hhead : m.head.isSome = true) (hreq : m.req.bind s.msg? = none) : s.unasked m = true := by
  simp [State.unasked, hhead, hreq]

section
variable (hmsg : s.msg? s.subject.a = some m)
include hmsg

theorem unasked_dropped (h : s.unasked m = true) : exec .data s = .next (s.drop m.id) ∧ exec .ack s = .next (s.drop m.id) := by
  constructor
  · show execData s = _
    simp only [execData, event, hmsg, if_pos h]
  · show execAck s = _
    simp only [execAck, event, hmsg, if_pos h]

section
variable (hasked : s.unasked m = false) (hrelay : s.relayFor m = none)
include hasked hrelay

/-- Data that are no table's entry, no line of code and no engine's fill the L1, and go to their thread. -/
theorem data_fills {vals : List (Nat × Nat)} {fill : List (Nat × L1Word)} {epoch : Nat} (hbody : m.body = .data vals fill epoch)
    (hwalker : m.origin.walker = false) (hcode : ∀ c l k, m.about.or ((m.req.bind s.msg?).map (·.body)) ≠ some (.icache c l k))
    (hdev : m.origin.dev = none) :
    exec .data s = .next ((((s.partArrived m).dropBoth m).fillL1 m.origin.core fill epoch).dataFor m vals) := by
  have hask : ¬ s.unasked m = true := ne_true_of_eq_false hasked
  have hwalk : ¬ m.origin.walker = true := ne_true_of_eq_false hwalker
  show execData s = _
  -- By `hcode` the request is not for a line of code.
  simp only [execData, event, hmsg, if_neg hask, hrelay, hbody, if_neg hwalk, hdev]

theorem data_old {v : Dword} {ws : List Nat} (hbody : m.body = .old v ws) :
    exec .data s = .next (((s.dropBoth m).outdate m.origin.core (m.req.getD m.id) ws).dataFor m [(0, v.toNat)]) := by
  have hask : ¬ s.unasked m = true := ne_true_of_eq_false hasked
  show execData s = _
  simp only [execData, event, hmsg, if_neg hask, hrelay, hbody]

end

/-! ## Acknowledgements and refusals -/

theorem ack_counts {store : Bool} {ws : List Nat} {fill : List (Nat × L1Word)} {epoch : Nat} (hbody : m.body = .ack store ws fill epoch)
    (hreq : m.req.bind s.msg? = some r) (hrelay : r.relay = none) (hlast : m.origin.lastResort = none) (hwalker : m.origin.walker = false) :
    let u := (((s.dropBoth m).outdate m.origin.core (m.req.getD m.id) ws).fillL1 m.origin.core fill epoch).acknowledge m.origin.name store
    ((∃ bs key q posted rel, r.body = .store bs key q posted rel) → exec .ack s = .next u) ∧
    ((∃ w pa key rel, r.body = .reduce w pa key rel) → exec .ack s = .next (u.arrived (m.req.getD m.id))) := by
  have hask : ¬ s.unasked m = true := by simp [State.unasked, hreq]
  have hrel : s.relayFor m = none := by simp [State.relayFor, hreq, hrelay]
  have hwalk : ¬ m.origin.walker = true := ne_true_of_eq_false hwalker
  show (_ → execAck s = _) ∧ (_ → execAck s = _)
  simp only [execAck, event, hmsg, if_neg hask, hbody, hrel, hlast, if_neg hwalk, hreq, Option.map_some]
  constructor
  · rintro ⟨bs, key, q, posted, rel, hr⟩
    rw [hr]
  · rintro ⟨w, pa, key, rel, hr⟩
    rw [hr]

theorem nack_refuses {code : BitVec 8} {w2 w4 : Dword} {post : Bool} (hbody : m.body = .nack code w2 w4 post)
    (hreq : (m.req.bind s.msg?).or (m.about.map fun b => { m with body := b }) = some r) :
    (code = 0 → exec .nack s = .next ((s.drop m.id).notice (s.cycle + 2600) .dedupRetryTimer { a := r.id })) ∧
    (code ≠ 0 → ¬(code = 0x12 ∧ r.dst ≠ s.pkg ∧ r.sent = 0) → (∀ t, s.named r.origin.name = some t → t.runsAhead = false) →
      exec .nack s = .next (((s.drop m.id).refuse r code w2 w4).netFreed r.origin.core)) := by
  show (_ → execNack s = _) ∧ (_ → _ → _ → execNack s = _)
  simp only [execNack, event, hmsg, hbody, hreq]
  refine ⟨fun h => next_eq (if_pos h), fun h hgone hahead => ?_⟩
  rw [if_neg h, if_neg hgone]
  cases hn : s.named r.origin.name with
  | none => simp
  | some t => simp [hahead t hn]

end

end Sys2Proof.Machine

section

open Sys2Proof Sys2Proof.Machine

/-- Settles O43, answer by answer: each goes to its thread, to a count, or back as a refusal. -/
theorem answerEvents : Obligations.AnswerEvents := by
  refine ⟨fun s m pa core hmsg hbody => ?_, fun s m reg line mask key => watchRegistration_arms, ?_, ?_, ?_, ?_, ?_⟩
  · intro ours u v
    rw [recall_eq hmsg hbody]
    exact ⟨fun h => next_eq (if_pos h), fun h => next_eq (if_neg h)⟩
  · intro s m p vals fill epoch hmsg hbody hasked hrelay hwalker hcode hdev u hplace
    rw [data_fills hmsg hasked hrelay hbody hwalker hcode hdev]
    obtain ⟨hnew, hlate⟩ := dataFor_whereIs hplace vals
    exact ⟨fun h => next_eq (hnew h), fun h => next_eq (hlate h)⟩
  · intro s m p v ws hmsg hbody hasked hrelay u hplace hnew
    rw [data_old hmsg hasked hrelay hbody]
    exact next_eq ((dataFor_whereIs hplace _).1 hnew)
  · exact fun s m r store ws fill epoch hmsg => ack_counts hmsg
  · exact fun s m hmsg hhead hreq => unasked_dropped hmsg (unasked_of_answered hhead hreq)
  · exact fun s m r code w2 w4 post hmsg => nack_refuses hmsg

end

end

section
/-!
Bulk packets, copies and reads that become threads (R133, R279 to R284, R296 to R303, R412): what each event does once nothing holds it back.
-/

namespace Sys2Proof.Machine

variable {s u : State} {m : Msg}

/-! ## Bulk packets (R279) -/

theorem bulk_arrives {bs : List (Nat × Byte)} {key : Nat} (hmsg : s.msg? s.subject.a = some m) (hbody : m.body = .bulk bs key) (hdedup : m.dedup = none) :
    let pa := (bs.headD (0, 0)).1
    let a := gpaLocal pa
    s.heldAtTile a = false →
    (s.locked a = true → exec .bulk s = .next (s.noteHeld m)) ∧
    (∀ x, s.locked a = false → s.farPage pa = some x → exec .bulk s = .next (s.passOn m pa)) ∧
    (s.locked a = false → s.farPage pa = none → s.peerRefuses m pa key = none → s.tileStateAt a ≠ .reset →
      exec .bulk s = .next ((((s.countRedirect a).ticketBytes m.origin pa bs.length).applyBytes none key (bs.map fun b => (s.forwarded (gpaLocal b.1), b.2))).answer
        (s.latency m.origin.core pa / 2) m (.ack true [] [] 0))) ∧
    (∀ code, s.locked a = false → s.farPage pa = none → s.peerRefuses m pa key = some code →
      exec .bulk s = .next (s.answer (s.latency m.origin.core pa / 2) m (.nack code 0 (BitVec.ofNat 64 a) true))) := by
  intro pa a hheld
  show (_ → execBulk s = _) ∧ (∀ x, _ → _ → execBulk s = _) ∧ (_ → _ → _ → _ → execBulk s = _) ∧ (∀ code, _ → _ → _ → execBulk s = _)
  simp only [execBulk, event, hmsg, hbody]
  rw [if_neg (ne_true_of_eq_false hheld), once_of_no_dedup hdedup]
  refine ⟨fun hlock => next_eq (if_pos hlock), fun x hlock hfar => ?_, fun hlock hfar hpeer hreset => ?_, fun code hlock hfar hpeer => ?_⟩
  · rw [if_neg (ne_true_of_eq_false hlock), if_pos (Option.isSome_of_eq_some hfar)]
  · rw [if_neg (ne_true_of_eq_false hlock), if_neg (not_farPage hfar), hpeer]
    exact next_eq (if_neg hreset)
  · rw [if_neg (ne_true_of_eq_false hlock), if_neg (not_farPage hfar), hpeer]

/-! ## Copies (R279 to R284) -/

variable {c : Copy}

/-- An accepted copy in progress with sectors to come has a next delivery (R279). -/
theorem not_copyDone {tile : Nat} (harrived : c.arrived = false) (haccepted : c.accepted = true) (hdone : c.done < c.sectors)
    (hprogress : (s.tile tile).inProgress c.id = true) :
    ¬ (c.arrived || !c.accepted || decide (c.sectors ≤ c.done) || !(s.tile tile).inProgress c.id) = true := by
  simp [harrived, haccepted, hdone, hprogress]

section
variable (hcopy : s.copy? s.subject.a s.subject.b = some c)
include hcopy

theorem copyAccept_expects (haccepted : c.accepted = false) (hopen : s.earlierOpen c.issuer c.id = false) :
    let u := (if fieldOf c.d1.toNat 7 1 = 1 then s.agentUpdate c.agent c.bar c.barKey (.expect c.sectors) else s).modCopy s.subject.a c.id
      fun c => { c with accepted := true }
    exec .copyAccept s = .next (if (u.tile s.subject.a).inProgress c.id then u.deliverNext s.subject.a c.id 1 else u) := by
  have hnew : ¬ c.accepted = true := ne_true_of_eq_false haccepted
  have hfirst : ¬ s.earlierOpen c.issuer c.id = true := ne_true_of_eq_false hopen
  show execCopyAccept s = _
  simp only [execCopyAccept, event, hcopy, if_neg hnew, if_neg hfirst]

section
variable (harrived : c.arrived = false) (haccepted : c.accepted = true) (hdone : c.done < c.sectors)
  (hprogress : (s.tile s.subject.a).inProgress c.id = true) (hbusy : s.agentBusy c.agent = false) {r k va len n : Nat}
  (hlocate : c.locate (copyRows c.d1.toNat) 0 c.done = (r, k)) (hpart : (c.parts r).getD k (0, 0) = (va, len))
include harrived haccepted hdone hprogress hbusy hlocate hpart

/-- The next sector of a copy in progress is read at its place in its row, and written. -/
theorem copyDelivery_writes {cache : Assoc Nat} {bs : List Byte} (hsending : c.sending = none)
    (hread : s.copyPart c r (va - (if toSlot c.mode then 0 else c.rowTo r)) len = (u, cache, .bytes bs, n)) :
    exec .copyDelivery s = .next ((u.modCopy s.subject.a c.id fun c => { c with cache := cache }).copySector s.subject.a c r
      (va - (if toSlot c.mode then 0 else c.rowTo r)) len n bs) := by
  have hidle : ¬ s.agentBusy c.agent = true := ne_true_of_eq_false hbusy
  show execCopyDelivery s = _
  simp only [execCopyDelivery, event, hcopy, if_neg (not_copyDone harrived haccepted hdone hprogress), if_neg hidle, hlocate, hpart, hsending, hread]

/-- A sector whose writes to other packages have been acknowledged is delivered. -/
theorem copyDelivery_delivers (hsending : c.sending = some n) (hfetched : Assoc.look s.fetched c.id = none) :
    exec .copyDelivery s =
      .next (s.copyDelivered s.subject.a c n (va - (if toSlot c.mode then 0 else c.rowTo r) + len == copyLen c.d1.toNat)) := by
  have hidle : ¬ s.agentBusy c.agent = true := ne_true_of_eq_false hbusy
  show execCopyDelivery s = _
  simp only [execCopyDelivery, event, hcopy, if_neg (not_copyDone harrived haccepted hdone hprogress), if_neg hidle, hlocate, hpart, hsending, hfetched]

end

theorem sidebandTimeout_faults (harrived : c.arrived = false) (htimer : s.subject.word.toNat ∈ c.timers) (hdone : c.done ≤ s.subject.word.toNat) :
    exec .sidebandTimeout s = .next (s.copyFault s.subject.a c 0x0C s.subject.word.toNat) := by
  have hlate : (!c.arrived) = true ∧ c.timers.contains s.subject.word.toNat = true ∧ c.done ≤ s.subject.word.toNat := by
    simp [harrived, htimer, hdone]
  show execSidebandTimeout s = _
  simp only [execSidebandTimeout, event, hcopy, if_pos hlate]

section
variable (hbusy : s.agentBusy c.agent = false)
include hbusy

theorem copyArrival_completes (harrived : c.arrived = true) :
    exec .copyArrival s = .next (({ s with fetched := Assoc.erase s.fetched c.id } : State).copyDone s.subject.a c) := by
  have hidle : ¬ s.agentBusy c.agent = true := ne_true_of_eq_false hbusy
  show execCopyArrival s = _
  simp only [execCopyArrival, event, hcopy, if_neg hidle, if_pos harrived]

/-- A copy whose last sector is delivered arrives at its barrier, and has completed once nothing of it is under way. -/
theorem copyArrival_arrives (harrived : c.arrived = false) (hdone : c.sectors ≤ c.done) :
    let u := (s.agentUpdate c.agent c.bar c.barKey .arrive).modCopy s.subject.a c.id fun c => { c with arrived := true }
    u.agentBusy c.agent = false → exec .copyArrival s = .next (u.copyDone s.subject.a c) := by
  intro u hend
  have hidle : ¬ s.agentBusy c.agent = true := ne_true_of_eq_false hbusy
  have hnew : ¬ c.arrived = true := ne_true_of_eq_false harrived
  show execCopyArrival s = _
  simp only [execCopyArrival, event, hcopy, if_neg hidle, if_neg hnew, if_pos hdone]
  exact next_eq (if_neg (ne_true_of_eq_false hend))

end

end

/-! ## The side band (R412) -/

theorem sideband_joins {copy index header tile : Nat} (hmsg : s.msg? s.subject.a = some m) (hbody : m.body = .sideband copy index header)
    (hcopy : (s.drop m.id).findCopy copy = some (tile, c)) (harrived : c.arrived = false) (hmode : c.mode = 3)
    (hahead : index % 65536 = c.done % 65536 ∨ numberBelow (index * 65536) (c.done * 65536) = false) :
    exec .sideband s = .next ((((s.drop m.id).modCopy tile c.id fun c => { c with headers := Assoc.insert c.headers (index % 65536) header }).awaitPart
      tile c (c.sectorOf index)).deliverNext tile c.id 1) := by
  have htakes : ¬ (c.arrived = true ∨ c.mode ≠ 3 ∨ (index % 65536 ≠ c.done % 65536 ∧ numberBelow (index * 65536) (c.done * 65536) = true)) := by
    rintro (h | h | ⟨hne, hbelow⟩)
    · simp [harrived] at h
    · exact h hmode
    · simp [hne, hbelow] at hahead
  show execSideband s = _
  simp only [execSideband, event, hmsg, hbody, hcopy, if_neg htakes]

/-! ## Reads that become threads (R296 to R303) -/

variable {h : HRead}

/-- A drained read whose bursts have all closed, and that nothing holds, may complete (R301, R305). -/
theorem not_readBusy (hstate : h.state = .draining) (hopened : h.opened = 0) (hheld : s.readHeld h = false) :
    ¬ (h.state ≠ .draining ∨ h.opened ≠ 0 ∨ s.readHeld h = true) := by
  simp [hstate, hopened, hheld]

section
variable (hread : Assoc.look s.reads s.subject.a = some h)
include hread

theorem burstRequest_asks (hstream : h.state = .streaming) (hheld : s.readHeld h = false) (hroom : h.opened < h.conc)
    (hopen : s.earlierOpen h.issuer h.since = false) (hturn : ∀ p ∈ s.reads, p.2.core = h.core → p.2.lastAt ≠ s.cycle) :
    let r := s.subject.a
    let h' : HRead := { h with next := h.next + 1, opened := h.opened + 1, lastAt := s.cycle, asked := h.asked ++ [{ seq := h.next, id := s.nextId }]
                               state := if h.next + 1 = hreadTotal h.words then .draining else .streaming }
    let u := ({ s with nextId := s.nextId + 1 } : State).setRead r h'
    let late := match (u.checkWalk h.who.troot h.who.job (BitVec.ofNat 64 (burstSource h.words h.next)) 4 true false).2 with
      | .ok x => u.latency h.core x.pa
      | _ => 1
    let v := u.notice (u.cycle + late) .burstArrival { a := r, b := h.next }
    exec .burstRequest s = .next (if h'.opened < h'.conc ∧ h'.state = .streaming then v.notice (v.cycle + 1) .burstRequest { a := r } else v) := by
  have hdrain : ¬ h.state = .draining := by simp [hstream]
  have hasks : ¬ (h.state = .reserving ∨ s.readHeld h = true ∨ h.conc ≤ h.opened) := by
    simp [hstream, hheld, hroom]
  have hfirst : ¬ s.earlierOpen h.issuer h.since = true := ne_true_of_eq_false hopen
  have hcycle : ¬ (s.reads.any fun p => p.2.core == h.core && p.2.lastAt == s.cycle) = true := by
    rw [List.any_eq_true]
    rintro ⟨p, hp, hc⟩
    simp only [Bool.and_eq_true, beq_iff_eq] at hc
    exact hturn p hp hc.1 hc.2
  intro r h' u late v
  show execBurstRequest s = _
  unfold execBurstRequest event
  dsimp only
  rw [hread]
  dsimp only
  exact next_eq ((if_neg hdrain).trans ((if_neg hasks).trans ((if_neg hfirst).trans (if_neg hcycle))))

theorem burstArrival_starts {b : OpenBurst} {cache : Assoc Nat} {bs : List Byte} {x i : Nat}
    (hasked : (h.asked.find? fun b => b.seq == s.subject.b) = some b)
    (hbytes : s.agentReadRun (h.agent b.id) b.cache (burstSource h.words s.subject.b) (burstLen h.words s.subject.b) = (u, cache, .bytes bs))
    (hjob : u.jobIndex h.who.job = some i) (hlive : (u.jobEntry i).cancelled = false) (hctx : u.reservedCtx s.subject.a h = some x) :
    let v := u.setRead s.subject.a { h with asked := h.asked.filter fun (b : OpenBurst) => b.seq != s.subject.b }
    exec .burstArrival s = .next ((v.takeName h.core x).2.setThread h.core x
      ((h.thread s.subject.a s.subject.b bs (v.takeName h.core x).1).toReady (v.takeName h.core x).2.cycle)) := by
  have hborn : ¬ (u.jobEntry i).cancelled = true := ne_true_of_eq_false hlive
  show execBurstArrival s = _
  simp only [execBurstArrival, event, hread, hasked, hbytes, hjob, if_neg hborn, hctx]

section
variable (hstate : h.state = .draining) (hopened : h.opened = 0) (hheld : s.readHeld h = false)
include hstate hopened hheld

/-- The record of a drained read is written where its address is checked, and the reservation is given back once it is. -/
theorem hreadComplete_records {x : Access} (hclosing : h.closing = none)
    (hcheck : s.checkWalk h.who.troot h.who.job (BitVec.ofNat 64 (h.words.getD 5 0)) 16 false true (tile := false) = (u, .ok x))
    (hdev : isDevice x.pa = false) (haper : u.actAper x.leaf ≠ 1) :
    let v := u.deviceWrite x.pa x.key (dwordBytes h.record) { core := h.core, job := h.who.job, record := true }
    (v.msg? u.nextId = none → exec .hreadComplete s = .next (v.freeRead s.subject.a h)) ∧
    (∀ m, v.msg? u.nextId = some m → exec .hreadComplete s =
      .next ((v.setRead s.subject.a { h with closing := some u.nextId }).notice
        ((v.setRead s.subject.a { h with closing := some u.nextId }).cycle + 1) .hreadComplete { a := s.subject.a })) := by
  have hwritable : ¬ (isDevice x.pa = true ∨ u.actAper x.leaf = 1) := by simp [hdev, haper]
  have hnew : ¬ h.closing.isSome = true := by simp [hclosing]
  intro v
  show (_ → execHreadComplete s = _) ∧ (∀ m, _ → execHreadComplete s = _)
  simp only [execHreadComplete, event, hread, if_neg (not_readBusy hstate hopened hheld), if_neg hnew, hcheck, if_neg hwritable]
  refine ⟨fun hnone => next_eq (if_pos (Option.isNone_iff_eq_none.mpr hnone)), fun m hsome => next_eq (if_neg fun hn => ?_)⟩
  exact Option.some_ne_none m (hsome.symm.trans (Option.isNone_iff_eq_none.mp hn))

theorem hreadComplete_closes {id : Nat} (hclosing : h.closing = some id) :
    exec .hreadComplete s = .next (if (s.msg? id).isSome then s.notice (s.cycle + 1) .hreadComplete { a := s.subject.a } else s.freeRead s.subject.a h) := by
  show execHreadComplete s = _
  simp only [execHreadComplete, event, hread, if_neg (not_readBusy hstate hopened hheld), hclosing, Option.isSome_some, if_true, Option.bind_some]

end

end

end Sys2Proof.Machine

section

open Sys2Proof Sys2Proof.Machine

/-- Settles O51, event by event: what each does once nothing of its copy or read holds it back. -/
theorem copyReadEvents : Obligations.CopyReadEvents := by
  refine ⟨fun s m bs key => bulk_arrives, fun s c hcopy => ?_, fun s m copy index header tile c => sideband_joins, fun s h hread => ?_⟩
  · intro tile
    refine ⟨copyAccept_expects hcopy, ?_, ?_, sidebandTimeout_faults hcopy, copyArrival_completes hcopy, copyArrival_arrives hcopy⟩
    · intro r k va len u cache bs n harrived haccepted hdone hprogress hbusy hsending hlocate hpart off hpiece
      exact copyDelivery_writes hcopy harrived haccepted hdone hprogress hbusy hlocate hpart hsending hpiece
    · intro r k va len n harrived haccepted hdone hprogress hbusy hsending hfetched hlocate hpart
      exact copyDelivery_delivers hcopy harrived haccepted hdone hprogress hbusy hlocate hpart hsending hfetched
  · intro r
    refine ⟨burstRequest_asks hread, fun b u cache bs x i => burstArrival_starts hread, ?_, ?_⟩
    · intro u x hstate hopened hheld hclosing hcheck hdev haper
      exact hreadComplete_records hread hstate hopened hheld hclosing hcheck hdev haper
    · exact fun id hstate hopened hheld hclosing => hreadComplete_closes hread hstate hopened hheld hclosing

end

end

section
/-!
The encoding (R155, R162 to R167). The decoder reads the encoder's word of a well-formed instruction as that instruction, by the law of each
constructor. The other way round, the fields that the decoder reads and the codes that it tests are together every bit of the word, so that the
encoder's word of what it answers is the word itself.
-/

namespace Sys2Proof

/-
One theorem is elaborated after the other: `faithful_accept` brings its own tactic, and a theorem that reads it waits for all before it.
-/
set_option Elab.async false

/-! ## A word as its fields (R155) -/

/-- The word holds these bits from bit `lo` up. -/
def Reads (w : Word) (lo : Nat) {n : Nat} (x : BitVec n) : Prop := fld w lo n = x

theorem fld_eq_iff_toNat {w : Word} {lo n : Nat} {x : BitVec n} : fld w lo n = x ↔ w.toNat / 2 ^ lo % 2 ^ n = x.toNat := by
  rw [BitVec.toNat_eq, fld, BitVec.extractLsb'_toNat, Nat.shiftRight_eq_div_pow]

theorem reads_iff_toNat {w : Word} {lo n : Nat} {x : BitVec n} : Reads w lo x ↔ w.toNat / 2 ^ lo % 2 ^ n = x.toNat := fld_eq_iff_toNat

theorem toNat_fld (w : Word) (lo n : Nat) : (fld w lo n).toNat = w.toNat / 2 ^ lo % 2 ^ n := (fld_eq_iff_toNat.mp rfl).symm

theorem reads_zero_iff {w u : Word} : Reads w 0 u ↔ u = w := by rw [Reads, fld, fld_whole, eq_comm]

/-- Neighbouring fields make up the field of both. -/
theorem fld_append_fld (w : Word) (lo m n : Nat) : fld w (lo + n) m ++ fld w lo n = fld w lo (m + n) :=
  BitVec.extractLsb'_append_extractLsb'_eq_extractLsb' rfl

/-- A word holds a concatenation where it holds its two parts. -/
theorem reads_append {w : Word} {lo m n : Nat} {x : BitVec m} {y : BitVec n} :
    Reads w lo (x ++ y) ↔ Reads w (lo + n) x ∧ Reads w lo y := by
  unfold Reads
  rw [← fld_append_fld]
  refine ⟨fun h => ⟨?_, ?_⟩, fun ⟨hx, hy⟩ => by rw [hx, hy]⟩
  · simpa [BitVec.extractLsb'_append_eq_of_le] using congrArg (BitVec.extractLsb' n m) h
  · simpa [BitVec.extractLsb'_append_eq_of_add_le] using congrArg (BitVec.extractLsb' 0 n) h

/-! ## What stands in a field -/

theorem reads_fld (w : Word) (lo n : Nat) : Reads w lo (fld w lo n) := rfl

/-- A field of one bit is the truth of its being one. -/
theorem reads_isOne (w : Word) (lo : Nat) : Reads w lo (BitVec.ofBool (fld w lo 1 == 1#1)) := by
  have hbit : ∀ b : BitVec 1, b = BitVec.ofBool (b == 1#1) := by decide
  exact hbit _

@[simp] theorem ESize.code_ofCode (c : BitVec 2) : (ESize.ofCode c).code = c := by
  revert c
  decide

@[simp] theorem Order.code_ofCode (c : BitVec 2) : (Order.ofCode c).code = c := by
  revert c
  decide

@[simp] theorem VTy.ofCode_eq_some {c : BitVec 4} {t : VTy} : VTy.ofCode c = some t ↔ c = t.code := by
  revert c
  cases t <;> decide

@[simp] theorem Cond.ofCode_eq_some {c : BitVec 5} {t : Cond} : Cond.ofCode c = some t ↔ c = t.code := by
  revert c
  cases t <;> decide

@[simp] theorem MmaFmt.ofCode_eq_some {c : BitVec 4} {t : MmaFmt} : MmaFmt.ofCode c = some t ↔ c = t.code := by
  revert c
  cases t <;> decide

@[simp] theorem AccFmt.ofCode_eq_some {c : BitVec 4} {t : AccFmt} : AccFmt.ofCode c = some t ↔ c = t.code := by
  revert c
  cases t <;> decide

/-! ## Faithful answers -/

/-- An answer of the decoder for a word: the instruction, if it is one, is well formed, and the word is its own. -/
def Faithful (w : Word) (d : Decoded) : Prop := ∀ i, d = .ok i → i.wellFormed = true ∧ encode i = some w

theorem faithful_reject (w : Word) (r : Reject) : Faithful w (.reject r) := fun _ h => nomatch h

theorem faithful_ite {w : Word} {p : Prop} [Decidable p] {d e : Decoded} (hd : p → Faithful w d) (he : ¬p → Faithful w e) :
    Faithful w (if p then d else e) := by
  split
  · exact hd ‹p›
  · exact he ‹¬p›

theorem faithful_mbz {w : Word} {z : Bool} {d : Decoded} (h : z = true → Faithful w d) : Faithful w (mbz z d) := by
  cases z with
  | false => exact faithful_reject w _
  | true => exact h rfl

theorem faithful_ofOption {α : Type} {w : Word} {c : Option α} {f : α → Instr} (h : ∀ a, c = some a → Faithful w (accept (f a))) :
    Faithful w (ofOption c f) := by
  cases c with
  | none => exact faithful_reject w _
  | some a => exact h a rfl

/-- An instruction is a faithful answer where the word holds the fields of its encoding. Its operands are fields of the word, and what the decoder has
tested, the codes and the zero bits, says what stands in the others: arithmetic joins those that the encoder writes as one. -/
theorem faithful_accept {w u : Word} {i : Instr} (hu : encode i = some u)
    (h : Reads w 0 u := by
      simp only [↓reads_append, Nat.reduceAdd, Nat.zero_add, BitVec.ofNat_eq_ofNat, BitVec.ofFin_toFin, reads_fld, reads_isOne, ESize.code_ofCode,
        Order.code_ofCode, VTy.ofCode_eq_some, Cond.ofCode_eq_some, MmaFmt.ofCode_eq_some, AccFmt.ofCode_eq_some, Bool.and_eq_true, beq_iff_eq,
        and_true, true_and] at *
      simp only [reads_iff_toNat, fld_eq_iff_toNat, BitVec.reduceToNat] at *
      simp only [and_true, true_and, *] <;> omega) :
    Faithful w (accept i) := by
  intro j hj
  unfold accept at hj
  split at hj
  · next hwf =>
    cases hj
    exact ⟨hwf, hu.trans (congrArg some (reads_zero_iff.mp h))⟩
  · cases hj

/-! ## The majors that select by a minor code (R164) -/

section

variable {w : Word}

theorem faithful_decodeMajor01 (hm : w.toNat / 2 ^ 26 % 2 ^ 6 = 0x01) : Faithful w (decodeMajor01 w) := by
  rw [decodeMajor01, toNat_fld]
  split
  case h_34 => exact faithful_reject w _
  all_goals exact faithful_mbz fun _ => faithful_accept rfl

theorem faithful_decodeMajor07 (hm : w.toNat / 2 ^ 26 % 2 ^ 6 = 0x07) : Faithful w (decodeMajor07 w) := by
  rw [decodeMajor07, toNat_fld]
  split
  case h_5 => exact faithful_reject w _
  all_goals exact faithful_mbz fun _ => faithful_accept rfl

theorem faithful_decodeMajor10 (hm : w.toNat / 2 ^ 26 % 2 ^ 6 = 0x10) : Faithful w (decodeMajor10 w) := by
  rw [decodeMajor10, toNat_fld]
  split
  case h_7 => exact faithful_reject w _
  all_goals exact faithful_accept rfl

theorem faithful_decodeMajor13 (hm : w.toNat / 2 ^ 26 % 2 ^ 6 = 0x13) : Faithful w (decodeMajor13 w) := by
  rw [decodeMajor13, toNat_fld]
  split
  case h_7 => exact faithful_reject w _
  case h_5 => exact faithful_mbz fun _ => faithful_ofOption fun _ _ => faithful_accept rfl
  all_goals exact faithful_mbz fun _ => faithful_accept rfl

theorem faithful_decodeMajor16 (hm : w.toNat / 2 ^ 26 % 2 ^ 6 = 0x16) : Faithful w (decodeMajor16 w) := by
  rw [decodeMajor16, toNat_fld]
  split
  case h_14 => exact faithful_reject w _
  all_goals exact faithful_mbz fun _ => faithful_accept rfl

theorem faithful_decodeMajor17 (hm : w.toNat / 2 ^ 26 % 2 ^ 6 = 0x17) : Faithful w (decodeMajor17 w) := by
  rw [decodeMajor17, toNat_fld]
  split
  case h_6 => exact faithful_reject w _
  case h_3 =>
    refine faithful_ite (fun h => ?_) fun _ => faithful_mbz fun _ => faithful_accept rfl
    rw [beq_iff_eq] at h
    subst h
    exact faithful_accept rfl (reads_zero_iff.mpr rfl)
  all_goals exact faithful_mbz fun _ => faithful_accept rfl

theorem faithful_decodeMajor18 (hm : w.toNat / 2 ^ 26 % 2 ^ 6 = 0x18) : Faithful w (decodeMajor18 w) := by
  rw [decodeMajor18, toNat_fld]
  split
  case h_8 => exact faithful_reject w _
  all_goals exact faithful_accept rfl

theorem faithful_decodeMajor19 (hm : w.toNat / 2 ^ 26 % 2 ^ 6 = 0x19) : Faithful w (decodeMajor19 w) := by
  rw [decodeMajor19, toNat_fld]
  split
  case h_5 => exact faithful_reject w _
  all_goals exact faithful_accept rfl

theorem faithful_decodeMajor1A (hm : w.toNat / 2 ^ 26 % 2 ^ 6 = 0x1A) : Faithful w (decodeMajor1A w) := by
  rw [decodeMajor1A, toNat_fld]
  split
  case h_17 => exact faithful_reject w _
  all_goals exact faithful_mbz fun _ => faithful_accept rfl

theorem faithful_decodeMajor1B (hm : w.toNat / 2 ^ 26 % 2 ^ 6 = 0x1B) : Faithful w (decodeMajor1B w) := by
  rw [decodeMajor1B, toNat_fld]
  split
  case h_8 => exact faithful_reject w _
  all_goals exact faithful_mbz fun _ => faithful_accept rfl

theorem faithful_decodeMajor20 (hm : w.toNat / 2 ^ 26 % 2 ^ 6 = 0x20) : Faithful w (decodeMajor20 w) := by
  rw [decodeMajor20, toNat_fld]
  split
  case h_14 => exact faithful_reject w _
  all_goals exact faithful_mbz fun _ => faithful_accept rfl

theorem faithful_decodeMajor21 (hm : w.toNat / 2 ^ 26 % 2 ^ 6 = 0x21) : Faithful w (decodeMajor21 w) := by
  rw [decodeMajor21, toNat_fld]
  split
  case h_12 => exact faithful_reject w _
  all_goals exact faithful_mbz fun _ => faithful_accept rfl

theorem faithful_decodeMajor22 (hm : w.toNat / 2 ^ 26 % 2 ^ 6 = 0x22) : Faithful w (decodeMajor22 w) := by
  rw [decodeMajor22, toNat_fld]
  split
  case h_5 => exact faithful_reject w _
  all_goals exact faithful_mbz fun _ => faithful_accept rfl

theorem faithful_decodeMajor24 (hm : w.toNat / 2 ^ 26 % 2 ^ 6 = 0x24) : Faithful w (decodeMajor24 w) := by
  rw [decodeMajor24, toNat_fld]
  split
  case h_6 => exact faithful_reject w _
  all_goals exact faithful_mbz fun _ => faithful_accept rfl

theorem faithful_decodeMajor25 (hm : w.toNat / 2 ^ 26 % 2 ^ 6 = 0x25) : Faithful w (decodeMajor25 w) := by
  rw [decodeMajor25, toNat_fld]
  split
  case h_5 => exact faithful_reject w _
  all_goals exact faithful_mbz fun _ => faithful_accept rfl

theorem faithful_decodeMajor26 (hm : w.toNat / 2 ^ 26 % 2 ^ 6 = 0x26) : Faithful w (decodeMajor26 w) := by
  rw [decodeMajor26, toNat_fld]
  split
  case h_6 => exact faithful_reject w _
  all_goals exact faithful_mbz fun _ => faithful_accept rfl

theorem faithful_decodeMajor28 (hm : w.toNat / 2 ^ 26 % 2 ^ 6 = 0x28) : Faithful w (decodeMajor28 w) := by
  rw [decodeMajor28, toNat_fld]
  split
  case h_19 => exact faithful_reject w _
  all_goals exact faithful_mbz fun _ => faithful_ofOption fun _ _ => faithful_accept rfl

theorem faithful_decodeMajor29 (hm : w.toNat / 2 ^ 26 % 2 ^ 6 = 0x29) : Faithful w (decodeMajor29 w) := by
  rw [decodeMajor29, toNat_fld]
  split
  case h_7 => exact faithful_reject w _
  all_goals exact faithful_mbz fun _ => faithful_ofOption fun _ _ => faithful_accept rfl

theorem faithful_decodeMajor2A (hm : w.toNat / 2 ^ 26 % 2 ^ 6 = 0x2A) : Faithful w (decodeMajor2A w) := by
  rw [decodeMajor2A, toNat_fld]
  split
  case h_8 => exact faithful_reject w _
  case h_6 =>
    exact faithful_ite (fun _ => faithful_mbz fun _ => faithful_ofOption fun _ _ => faithful_accept rfl)
      fun _ => faithful_mbz fun _ => faithful_ofOption fun _ _ => faithful_accept rfl
  case h_7 => exact faithful_mbz fun _ => faithful_accept rfl
  all_goals exact faithful_mbz fun _ => faithful_ofOption fun _ _ => faithful_accept rfl

theorem faithful_decodeMajor2B (hm : w.toNat / 2 ^ 26 % 2 ^ 6 = 0x2B) : Faithful w (decodeMajor2B w) := by
  rw [decodeMajor2B, toNat_fld]
  split
  case h_4 => exact faithful_reject w _
  all_goals exact faithful_mbz fun _ => faithful_ofOption fun _ _ => faithful_accept rfl

theorem faithful_decodeMajor2C (hm : w.toNat / 2 ^ 26 % 2 ^ 6 = 0x2C) : Faithful w (decodeMajor2C w) := by
  rw [decodeMajor2C, toNat_fld]
  split
  case h_15 => exact faithful_reject w _
  all_goals exact faithful_mbz fun _ => faithful_accept rfl

theorem faithful_decodeMajor2D (hm : w.toNat / 2 ^ 26 % 2 ^ 6 = 0x2D) : Faithful w (decodeMajor2D w) := by
  rw [decodeMajor2D, toNat_fld]
  split
  case h_3 => exact faithful_reject w _
  case h_1 => exact faithful_mbz fun _ => faithful_accept rfl
  all_goals exact faithful_mbz fun _ => faithful_ofOption fun _ _ => faithful_accept rfl

theorem faithful_decodeMajor2E (hm : w.toNat / 2 ^ 26 % 2 ^ 6 = 0x2E) : Faithful w (decodeMajor2E w) := by
  rw [decodeMajor2E, toNat_fld]
  split
  case h_8 => exact faithful_reject w _
  all_goals exact faithful_mbz fun _ => faithful_accept rfl

theorem faithful_decodeMajor34 (hm : w.toNat / 2 ^ 26 % 2 ^ 6 = 0x34) : Faithful w (decodeMajor34 w) := by
  rw [decodeMajor34, toNat_fld]
  split
  case h_10 => exact faithful_reject w _
  case h_4 | h_6 => exact faithful_mbz fun _ => faithful_ofOption fun _ _ => faithful_accept rfl
  all_goals exact faithful_mbz fun _ => faithful_accept rfl

theorem faithful_decodeMajor35 (hm : w.toNat / 2 ^ 26 % 2 ^ 6 = 0x35) : Faithful w (decodeMajor35 w) := by
  rw [decodeMajor35, toNat_fld]
  split
  case h_5 => exact faithful_reject w _
  all_goals exact faithful_mbz fun _ => faithful_accept rfl

theorem faithful_decodeMajor36 (hm : w.toNat / 2 ^ 26 % 2 ^ 6 = 0x36) : Faithful w (decodeMajor36 w) := by
  rw [decodeMajor36, toNat_fld]
  split
  case h_3 => exact faithful_reject w _
  all_goals exact faithful_mbz fun _ => faithful_accept rfl

theorem faithful_decodeMajor37 (hm : w.toNat / 2 ^ 26 % 2 ^ 6 = 0x37) : Faithful w (decodeMajor37 w) := by
  rw [decodeMajor37, toNat_fld]
  split
  case h_6 => exact faithful_reject w _
  all_goals exact faithful_mbz fun _ => faithful_accept rfl

theorem faithful_decodeMajor3C (hm : w.toNat / 2 ^ 26 % 2 ^ 6 = 0x3C) : Faithful w (decodeMajor3C w) := by
  rw [decodeMajor3C, toNat_fld]
  split
  case h_8 => exact faithful_reject w _
  case h_1 => exact faithful_ite (fun _ => faithful_mbz fun _ => faithful_accept rfl) fun _ => faithful_mbz fun _ => faithful_accept rfl
  all_goals exact faithful_mbz fun _ => faithful_accept rfl

theorem faithful_decodeMajor3D (hm : w.toNat / 2 ^ 26 % 2 ^ 6 = 0x3D) : Faithful w (decodeMajor3D w) := by
  rw [decodeMajor3D, toNat_fld]
  split
  case h_6 => exact faithful_reject w _
  all_goals exact faithful_mbz fun _ => faithful_accept rfl

theorem faithful_decodeMajor3F (hm : w.toNat / 2 ^ 26 % 2 ^ 6 = 0x3F) : Faithful w (decodeMajor3F w) := by
  rw [decodeMajor3F, toNat_fld]
  split
  case h_4 => exact faithful_reject w _
  all_goals exact faithful_accept rfl

end

/-- Every answer of the decoder is faithful. -/
theorem faithful_decode (w : Word) : Faithful w (decode w) := by
  rw [decode, toNat_fld]
  split
  case h_1 => exact faithful_decodeMajor01 ‹_›
  case h_7 => exact faithful_decodeMajor07 ‹_›
  case h_11 => exact faithful_decodeMajor10 ‹_›
  case h_14 => exact faithful_decodeMajor13 ‹_›
  case h_17 => exact faithful_decodeMajor16 ‹_›
  case h_18 => exact faithful_decodeMajor17 ‹_›
  case h_19 => exact faithful_decodeMajor18 ‹_›
  case h_20 => exact faithful_decodeMajor19 ‹_›
  case h_21 => exact faithful_decodeMajor1A ‹_›
  case h_22 => exact faithful_decodeMajor1B ‹_›
  case h_23 => exact faithful_decodeMajor20 ‹_›
  case h_24 => exact faithful_decodeMajor21 ‹_›
  case h_25 => exact faithful_decodeMajor22 ‹_›
  case h_26 => exact faithful_decodeMajor24 ‹_›
  case h_27 => exact faithful_decodeMajor25 ‹_›
  case h_28 => exact faithful_decodeMajor26 ‹_›
  case h_29 => exact faithful_decodeMajor28 ‹_›
  case h_30 => exact faithful_decodeMajor29 ‹_›
  case h_31 => exact faithful_decodeMajor2A ‹_›
  case h_32 => exact faithful_decodeMajor2B ‹_›
  case h_33 => exact faithful_decodeMajor2C ‹_›
  case h_34 => exact faithful_decodeMajor2D ‹_›
  case h_35 => exact faithful_decodeMajor2E ‹_›
  case h_36 => exact faithful_decodeMajor34 ‹_›
  case h_37 => exact faithful_decodeMajor35 ‹_›
  case h_38 => exact faithful_decodeMajor36 ‹_›
  case h_39 => exact faithful_decodeMajor37 ‹_›
  case h_40 => exact faithful_decodeMajor3C ‹_›
  case h_41 => exact faithful_decodeMajor3D ‹_›
  case h_42 => exact faithful_decodeMajor3F ‹_›
  case h_2 | h_3 | h_4 | h_5 | h_6 | h_8 | h_9 | h_10 | h_12 | h_16 => exact faithful_accept rfl
  case h_13 | h_15 => exact faithful_mbz fun _ => faithful_accept rfl
  case h_43 => exact faithful_reject w _

/-! ## The words of the instructions -/

namespace Laws.Encoding

/-- The law of every instruction, from those of the constructors in their order. -/
theorem of_instr (i : Instr) : Statement i :=
  Instr.rec (motive := Statement)
    add sub andg org xorg andn orn sll srl sra rol mul mulh mulhu div divu rem remu min max minu maxu slt sltu seq sne cmovz cmovnz clz ctz popc bswap
    lea addi andi ori xori slti slli srli srai roli movi movhi addpc bcEqz bcNez bcLtz bcGez bcGtz bcLez jl prep jr jlr jb jbl bcb prepr loop loopi
    spawn spawnn fork join callat reply endT gohome launch cancel srd swr srset srclr ldB ldBn ldH ldHn ldW ldWn ldD stB stH stW stD ldxB ldxBn ldxH
    ldxHn ldxW ldxWn ldxD stxB stxH stxW stxD ldAcqW ldAcqWn ldAcqD stRelW stRelD vld vst vlds vsts vgather vscatter vbcld amoAdd amoAnd amoOr amoXor
    amoMin amoMax amoMinu amoMaxu amoSwap amoCas amoFadd amoFmin amoFmax redAdd redAnd redOr redXor redMin redMax redMinu redMaxu redFadd redFmin
    redFmax watch unwatch sleep wfired tmarm tbinit tbexpect tbarrive tbwait mbadd mbrd mbwait tktake tkwait vadd vsub vmul vfma vfnma vmin vmax vabs
    vneg vdiv vsqrt vand vor vxor vnot vshl vshr vshra vcmpEq vcmpNe vcmpLt vcmpLe vcmpGt vcmpGe vsel vbcast vins vext vperm vslideUp vslideDown vmov
    vrsum vrmax vrmin vcvtF64F32 vcvtF32F64 vcvtF32Bf16 vcvtBf16F32 vcvtF32F16 vcvtF16F32 vcvtF32I32 vcvtI32F32 vcvtF64I64 vcvtI64F64 vcvtBf16Lns8
    vcvtLns8Bf16 vcvtBf16Lns6 vcvtLns6Bf16 vtload vtab kand kor kxor knot kpop kset kget oclaim orelease opput mma acczero accrd accsat accget accadd
    xcopy xcopysp xwait hread hcancel cjoin cbrAny cbrAll cstate tstop tstopH tstart tread twrite tstate tsave trestore tlbinv pglock pgswitch clwb
    clinv pfxImm pfxMod pfxHint yieldT roam anchor flushf nop fenceAcq fenceRel fenceFull rwait xcommit cleave loopBack illegalWord breakpointMatch
    rotationBoundary quantumExpiry agingPromotion spillEviction spillMoveDone watchFire sleepTimeout timerRecord storeGatherPost icacheFill
    tlbWalkDone load store atomic reduce Encoding.recall migrate call threadop controlCancel controlTlbinv ticket ticketCallNotice ticketExpiry bulk sideband
    sidebandTimeout data ack nack transportTimeout dedupRetryTimer dedupWindowIdle linkUp laneChange linkRetire vote summary verdict abortRequest
    collJoinRequest collLeaveRequest deadlineExpiry verdictApply heldStoreCommit waveCreate waveEnd jobCompletion engineAccept mmaComplete nanStop
    acczeroDone accrdComplete accsatComplete accgetComplete accaddComplete copyAccept copyDelivery copyArrival vtloadReplace reservationGrant
    burstRequest burstArrival hreadComplete stopComplete faultRecord coreLost spareReplace uncorrectableError scrub saveDrained saveComplete
    restoreComplete discardComplete resetDropWindow tileAssignDone keySlotWrite jobEntryWrite tileAssignWrite quantumWrite admcapWrite bkptWrite
    pkgWrite startokWrite resetgoWrite quoteWrite quoteDone mrextWrite sampleWrite samplePulse registerWrite powerGood startokTimeout mgmtReset
    mgmtReadFailrec mgmtFlashWrite resetDeadline heartbeat heartbeatTimer leaderTimeout overtempAlert overtempShutdown watchRegistration
    operandSlotCleared keySlotWritebackDone ingressDrop linkLevelRetry i

end Laws.Encoding

end Sys2Proof

section

open Sys2Proof

/-- Settles O52: each constructor has its law. -/
theorem decodeOfEncode : Obligations.DecodeOfEncode := Laws.Encoding.of_instr

/-- Settles O53: the decoder's answers are faithful, major by major and minor by minor. -/
theorem encodeOfDecode : Obligations.EncodeOfDecode := faithful_decode

/-- Settles O54: each word is the encoder's word of its instruction. -/
theorem wordsDecode : Obligations.WordsDecode :=
  ⟨Laws.Encoding.of_instr (.add 3 1 2 false) _ rfl rfl, Laws.Encoding.of_instr (.sub 3 1 2 true) _ rfl rfl,
    Laws.Encoding.of_instr (.addi 7 4 0xFFFF) _ rfl rfl⟩

end

end

section
/-!
Lane-wise results (R245, R246): a lane put into a vector register reads back as its low bits and leaves every other lane, so that the lanes of a
lane-wise operation are the results of the active ones; an operation of integer types sets no flag (R99).
-/

namespace Sys2Proof.Machine

/-! ## One lane put into a register (R156) -/

section

variable {v : VWord} {size l i x : Nat}

theorem toNat_ofNat_putField {w lo n : Nat} (v : BitVec w) (h : lo + n ≤ w) :
    (BitVec.ofNat w (putField v.toNat lo n x)).toNat = putField v.toNat lo n x := by
  rw [BitVec.toNat_ofNat, Nat.mod_eq_of_lt (putField_lt v.isLt h)]

theorem toNat_putLane (h : 8 * size * l + 8 * size ≤ 512) : (putLane v size l x).toNat = putField v.toNat (8 * size * l) (8 * size) x :=
  toNat_ofNat_putField v h

theorem laneOf_putLane_same (h : 8 * size * l + 8 * size ≤ 512) : laneOf (putLane v size l x) size l = x % 2 ^ (8 * size) := by
  rw [laneOf, toNat_putLane h, fieldOf_putField_same]

theorem laneOf_putLane_other (h : 8 * size * l + 8 * size ≤ 512) (hne : i ≠ l) : laneOf (putLane v size l x) size i = laneOf v size i := by
  have hapart : 8 * size * l + 8 * size ≤ 8 * size * i ∨ 8 * size * i + 8 * size ≤ 8 * size * l := by
    rw [← Nat.mul_succ, ← Nat.mul_succ]
    exact (Nat.lt_or_gt_of_ne hne).symm.imp (Nat.mul_le_mul_left _) (Nat.mul_le_mul_left _)
  rw [laneOf, toNat_putLane h, fieldOf_putField_other hapart, laneOf]

end

/-! ## The lanes one after the other -/

/-- One lane of a lane-wise operation: an active lane is put, and its flags are ORed. -/
def mapLane (size : Nat) (active : Nat → Bool) (f : Nat → Nat × Sticky) (r : VWord × Sticky) (i : Nat) : VWord × Sticky :=
  if active i then (putLane r.1 size i (f i).1, r.2.or (f i).2) else r

theorem mapLanes_eq (size : Nat) (active : Nat → Bool) (old : VWord) (f : Nat → Nat × Sticky) :
    mapLanes size active old f = (List.range (64 / size)).foldl (mapLane size active f) (old, {}) := rfl

section

variable {size : Nat} {active : Nat → Bool} {f : Nat → Nat × Sticky}

theorem mapLane_active {i : Nat} (h : active i = true) (r : VWord × Sticky) :
    mapLane size active f r i = (putLane r.1 size i (f i).1, r.2.or (f i).2) := if_pos h

theorem mapLane_inactive {i : Nat} (h : ¬ active i = true) (r : VWord × Sticky) : mapLane size active f r i = r := if_neg h

theorem laneOf_foldl_mapLane (r : VWord × Sticky) (i : Nat) {n : Nat} (hn : 8 * size * n ≤ 512) :
    laneOf ((List.range n).foldl (mapLane size active f) r).1 size i =
      if i < n ∧ active i = true then (f i).1 % 2 ^ (8 * size) else laneOf r.1 size i := by
  induction n with
  | zero => simp
  | succ n ih =>
    rw [Nat.mul_succ] at hn
    have hsucc : i ≠ n → (i < n + 1 ↔ i < n) := fun h => by omega
    rw [List.range_succ, List.foldl_append, List.foldl_cons, List.foldl_nil]
    by_cases ha : active n = true
    · rw [mapLane_active ha]
      by_cases hi : i = n
      · subst hi
        rw [laneOf_putLane_same hn, if_pos ⟨Nat.lt_succ_self _, ha⟩]
      · simp only [laneOf_putLane_other hn hi, ih (by omega), hsucc hi]
    · rw [mapLane_inactive ha, ih (by omega)]
      by_cases hi : i = n
      · subst hi
        simp [ha]
      · simp only [hsucc hi]

theorem flags_foldl_mapLane (r : VWord × Sticky) (n : Nat) :
    ((List.range n).foldl (mapLane size active f) r).2 = ((List.range n).filter active).foldl (fun x i => x.or (f i).2) r.2 := by
  rw [List.foldl_filter]
  induction n with
  | zero => rfl
  | succ n ih =>
    rw [List.range_succ, List.foldl_append, List.foldl_append, ← ih]
    simp only [List.foldl_cons, List.foldl_nil, mapLane]
    split <;> rfl

theorem laneOf_mapLanes (old : VWord) {i : Nat} (hi : i < 64 / size) :
    laneOf (mapLanes size active old f).1 size i = if active i then (f i).1 % 2 ^ (8 * size) else laneOf old size i := by
  have hfits : 8 * size * (64 / size) ≤ 512 := by
    rw [Nat.mul_assoc]
    exact Nat.mul_le_mul_left 8 (Nat.mul_div_le 64 size)
  rw [mapLanes_eq, laneOf_foldl_mapLane _ _ hfits]
  simp only [hi, true_and]

theorem flags_mapLanes (old : VWord) :
    (mapLanes size active old f).2 = ((List.range (64 / size)).filter active).foldl (fun x i => x.or (f i).2) {} := flags_foldl_mapLane _ _

end

/-! ## Operations of integer types (R99) -/

@[simp] theorem Sticky.or_none (x : Sticky) : x.or {} = x := by simp [Sticky.or]

theorem Thread.orFlags_none (t : Thread) : t.orFlags {} = t := by
  have hflags : Machine.orFlags t.flags {} = t.flags := BitVec.or_zero
  rw [Thread.orFlags, hflags]

/-- Lanes without flags leave no flag. -/
theorem flags_mapLanes_none (size : Nat) (active : Nat → Bool) (old : VWord) (f : Nat → Nat) :
    (mapLanes size active old fun i => (f i, {})).2 = {} := by
  rw [flags_mapLanes]
  generalize (List.range (64 / size)).filter active = lanes
  induction lanes with
  | nil => rfl
  | cons _ lanes ih => rw [List.foldl_cons, Sticky.or_none, ih]

section

variable {t : VTy}

theorem bothOp_integer (ht : vfloat t = none) (ff : FFmt → LaneOp) (fi : (e a b : Nat) → Int) : bothOp t ff fi = some (intOp t fi) := by
  unfold bothOp
  rw [ht]

theorem wordOp_integer (ht : vfloat t = none) (fi : (e a b : Nat) → Int) : wordOp t fi = some (intOp t fi) := by
  unfold wordOp
  rw [ht]

theorem vunsigned_of_vsigned (hs : vsigned t = true) : vunsigned t = false := by
  revert hs
  cases t <;> decide

theorem signedOp_integer (ht : vfloat t = none) (hs : vsigned t = true) (ff : FFmt → LaneOp) (fi : (e a b : Nat) → Int) :
    signedOp t ff fi = some (intOp t fi) := by
  unfold signedOp
  rw [vunsigned_of_vsigned hs]
  exact bothOp_integer ht ff fi

/-- An admitted operation of an integer type, with the register of its second operand and its exact result: the active lanes receive the low bits of
the result, and nothing else changes before it completes. -/
theorem exec_integer {s : State} {i : Instr} {d a : VReg} {k : KReg} {op : Option LaneOp} {fi : (e a b : Nat) → Int}
    (p : Instr × VReg × (Nat → Nat → Int)) (ht : vfloat t = none) (h : s.admits { roam := true } [] = true)
    (hexec : exec p.1 s = laneWise i d a p.2.1 k t op s) (hop : op = some (intOp t fi)) (hexact : ∀ x y, fi (8 * vsize t) x y = p.2.2 x y) :
    exec p.1 s = .next (s.modCur fun th => Thread.retire (th.wv d (mapLanes (vsize t) (th.active k) th.v[d] fun j =>
      ((p.2.2 (laneOf th.v[a] (vsize t) j) (laneOf th.v[p.2.1] (vsize t) j) % 2 ^ (8 * vsize t)).toNat, {})).1)) := by
  have hadmits : s.admits { rmo := (vfloat t).isSome, roam := true } [] = true := by rwa [ht]
  rw [hexec, hop, laneWise_admits hadmits]
  refine next_eq (congrArg s.setCur ?_)
  simp only [intOp, patOfInt, hexact, flags_mapLanes_none, Thread.orFlags_none]

end

end Sys2Proof.Machine

section

open Sys2Proof Sys2Proof.Machine

/-- Settles O15: the lanes are put one after the other, and each operation on integers is lane-wise with its exact result. -/
theorem vectorIntegerResults : Obligations.VectorIntegerResults := by
  refine ⟨fun size active old f _ => ⟨fun i hi => laneOf_mapLanes old hi, flags_mapLanes old⟩, fun s d a b k t ht h => ?_⟩
  intro e val
  refine List.forall_mem_append.mpr ⟨?_, ?_⟩
  · have hboth := bothOp_integer ht
    have hword := wordOp_integer ht
    have hshr : ∀ x y : Nat, (x : Int) / 2 ^ (y % e) = ((x / 2 ^ (y % e) : Nat) : Int) := fun x y => by push_cast; rfl
    iterate 5 refine List.forall_mem_cons.mpr ⟨exec_integer _ ht h rfl (hboth _ _) fun _ _ => rfl, ?_⟩
    iterate 5 refine List.forall_mem_cons.mpr ⟨exec_integer _ ht h rfl (hword _) fun _ _ => rfl, ?_⟩
    refine List.forall_mem_cons.mpr ⟨exec_integer _ ht h rfl (hword _) hshr, ?_⟩
    exact List.forall_mem_singleton.mpr (exec_integer _ ht h rfl (hword _) fun _ _ => rfl)
  · split
    · next hs =>
      have hsigned := signedOp_integer ht hs
      refine List.forall_mem_cons.mpr ⟨exec_integer _ ht h rfl (hsigned _ _) fun _ _ => rfl, ?_⟩
      exact List.forall_mem_singleton.mpr (exec_integer _ ht h rfl (hsigned _ _) fun x _ => Int.zero_sub x)
    · exact List.forall_mem_nil _

end

end

section
/-!
Prefixes and special registers (R158, R159, R169, R173): what a PFX word does by whether it may stay pending, and what a write of a special register
does by whether R158 accepts it.
-/

namespace Sys2Proof.Machine

/-! ## Prefixes (R169, R173) -/

section

variable {s : State} {kind : Nat} {p : BitVec 24}

/-- A PFX word that finds none of its kind pending, before the last word of a loop body, stays pending with its payload and its address. -/
theorem prefixWord_pends (hnone : s.cur.prefixPending kind = false) (hmid : s.cur.atLoopEnd = false) :
    s.prefixWord kind p = s.setCur { s.cur with
      pfxst := pendPrefix s.cur.pfxst kind p.toNat
      pfxAt := s.cur.pfxAt.setIfInBounds kind (some s.cur.pc)
      modBad := s.cur.modBad || (kind == 1 && p.toNat / 16 != 0)
      hintBad := s.cur.hintBad || (kind == 2 && p.toNat / 512 != 0)
      pc := s.cur.pc + 4 } := by
  simp only [State.prefixWord, hnone, hmid, Bool.false_eq_true, if_false]

/-- A second PFX word of a kind, and one that is the last word of a loop body, is a PREFIX fault. -/
theorem prefixWord_faults (h : s.cur.prefixPending kind = true ∨ s.cur.atLoopEnd = true) : ∃ w4, s.prefixWord kind p = s.prefixFault w4 := by
  unfold State.prefixWord
  by_cases hpending : s.cur.prefixPending kind = true
  · exact ⟨_, if_pos hpending⟩
  · exact ⟨_, (if_neg hpending).trans (if_pos (h.resolve_left hpending))⟩

/-- A PREFIX fault of a thread without a shadow bank stops it at its PC with PFXST cleared. -/
theorem prefixFault_stops (hbank : s.cur.bank = none) (w4 : Dword) :
    (s.prefixFault w4).cur.st = .faulted ∧ (s.prefixFault w4).cur.fcode = 0x02 ∧ (s.prefixFault w4).cur.pfxst = 0 ∧
      (s.prefixFault w4).cur.pc = s.cur.pc := by
  have hclear : ∀ f : Thread → Thread, (f s.cur).bank = none → (f s.cur).pfxst = 0 → (f s.cur).pc = s.cur.pc →
      let t := (s.modCur f).raise 0x02 0 w4 0
      t.cur.st = .faulted ∧ t.cur.fcode = 0x02 ∧ t.cur.pfxst = 0 ∧ t.cur.pc = s.cur.pc := by
    intro f hb hp hpc t
    have ht : t = _ := raise_eq ((congrArg Thread.bank (cur_modCur s f)).trans hb) 0x02 0 w4 0
    have hcur : t.cur = _ := (congrArg State.cur ht).trans (cur_setCur _ _)
    rw [hcur, cur_modCur]
    exact ⟨rfl, rfl, hp, hpc⟩
  exact hclear _ hbank rfl rfl

theorem prefixWord_stops (hbank : s.cur.bank = none) (h : s.cur.prefixPending kind = true ∨ s.cur.atLoopEnd = true) :
    let t := s.prefixWord kind p
    t.cur.st = .faulted ∧ t.cur.fcode = 0x02 ∧ t.cur.pfxst = 0 ∧ t.cur.pc = s.cur.pc := by
  obtain ⟨w4, hw4⟩ := prefixWord_faults (p := p) h
  rw [hw4]
  exact prefixFault_stops hbank w4

end

/-! ## Special registers (R158, R159) -/

section

variable {s : State} {d a : GReg} {n : BitVec 10}

theorem srd_reads (h : s.admits {} [d] = true) {x : Dword} (hx : s.cur.special s.cycle n.toNat = some x) :
    exec (.srd d n) s = .next (s.result d x) := by
  refine (issue_admits h _).trans (next_eq ?_)
  rw [hx]

theorem srd_reserved (h : s.admits {} [d] = true) (hx : s.cur.special s.cycle n.toNat = none) :
    exec (.srd d n) s = .next (s.raise 0x08 0 (n.setWidth 64) 0) := by
  refine (issue_admits h _).trans (next_eq ?_)
  rw [hx]

theorem srset_writes (h : ¬(a = 0 ∧ n = 0x003)) : exec (.srset a n) s = writeSpecial a n s fun x y => x ||| y := if_neg h

section

variable (h : s.admits { ahead := !waitsAhead n } [a] = true) {x : Dword} (hx : s.cur.special s.cycle n.toNat = some x) {f : Dword → Dword → Dword}
include h hx

theorem writeSpecial_accepted {t : Thread} (hw : s.cur.writeOwn n.toNat (f x (s.rg a)) = some t) : writeSpecial a n s f = .next (s.setCur t.retire) := by
  refine (issue_admits h _).trans (next_eq ?_)
  simp only [hx, hw]

theorem writeSpecial_refused (hw : s.cur.writeOwn n.toNat (f x (s.rg a)) = none) :
    writeSpecial a n s f = .next (s.raise 0x08 0 (n.setWidth 64) 0) := by
  refine (issue_admits h _).trans (next_eq ?_)
  simp only [hx, hw]

/-- SWR, SRCLR and SRSET of a register of which the values in `ok` are accepted. -/
theorem special_writes {ok : Dword → Prop} {put : Dword → Thread} (hput : ∀ y, ok y → s.cur.writeOwn n.toNat y = some (put y)) :
    (ok (s.rg a) → exec (.swr a n) s = .next (s.setCur (put (s.rg a)).retire)) ∧
    (ok (x &&& ~~~s.rg a) → exec (.srclr a n) s = .next (s.setCur (put (x &&& ~~~s.rg a)).retire)) ∧
    (ok (x ||| s.rg a) → ¬(a = 0 ∧ n = 0x003) → exec (.srset a n) s = .next (s.setCur (put (x ||| s.rg a)).retire)) :=
  ⟨fun hok => writeSpecial_accepted h hx (f := fun _ y => y) (hput _ hok),
    fun hok => writeSpecial_accepted h hx (f := fun x y => x &&& ~~~y) (hput _ hok),
    fun hok hflush => (srset_writes hflush).trans (writeSpecial_accepted h hx (hput _ hok))⟩

end

/-! ## What a thread may write (R158) -/

/-- FLAGS takes a value with no bit outside RM and the sticky bits (R106). -/
theorem flagsOk_of_mask {x : Dword} (h : x &&& 0xFFFFFFFFFFFFFCC0 = 0) : flagsOk x = true := by
  have hbit : ∀ i, x.getLsbD i = true → (0xFFFFFFFFFFFFFCC0 : Dword).getLsbD i = false := fun i hi => by
    simpa [BitVec.getLsbD_and, hi] using congrArg (BitVec.getLsbD · i) h
  have hfield : ∀ lo len, (∀ i < len, (0xFFFFFFFFFFFFFCC0 : Dword).getLsbD (lo + i) = true) → x.extractLsb' lo len = 0 := by
    intro lo len hmask
    refine BitVec.eq_of_getLsbD_eq fun i hi => ?_
    have hclear : x.getLsbD (lo + i) = false := by
      refine Bool.eq_false_iff.mpr fun hset => ?_
      have hzero := hbit _ hset
      rw [hmask i hi] at hzero
      exact absurd hzero (by decide)
    simp [hclear]
  simp only [flagsOk, hfield 10 54 (by decide), hfield 6 2 (by decide), beq_self_eq_true, Bool.and_self]

section

variable (t : Thread) {x : Dword}

theorem writeOwn_flags (h : x &&& 0xFFFFFFFFFFFFFCC0 = 0) : t.writeOwn 0x003 x = some { t with flags := x } := if_pos (flagsOk_of_mask h)

theorem writeOwn_prio (h : x.toNat < 4 ∧ t.prio.toNat ≤ x.toNat) : t.writeOwn 0x007 x = some { t with prio := x, effPrio := x.toNat } := if_pos h

theorem writeOwn_nanctl (h : x.toNat < 2) : t.writeOwn 0x009 x = some { t with nanctl := x } := if_pos h

theorem writeOwn_cabort (h : x.toNat < 2 ^ 52 ∧ x.toNat % 4 = 0) : t.writeOwn 0x00A x = some { t with cabort := x } := if_pos h

theorem writeOwn_ctimeout (h : x.toNat < 2 ^ 32) : t.writeOwn 0x00B x = some { t with ctimeout := x } := if_pos h

/-- An accepted write is of one of five registers, within its limits, and changes that register alone. -/
theorem writeOwn_cases {n : Nat} {u : Thread} (h : t.writeOwn n x = some u) :
    (n = 0x003 ∧ u = { t with flags := x }) ∨
    (n = 0x007 ∧ u = { t with prio := x, effPrio := x.toNat } ∧ x.toNat < 4 ∧ t.prio.toNat ≤ x.toNat) ∨
    (n = 0x009 ∧ u = { t with nanctl := x } ∧ x.toNat < 2) ∨
    (n = 0x00A ∧ u = { t with cabort := x } ∧ x.toNat < 2 ^ 52 ∧ x.toNat % 4 = 0) ∨
    (n = 0x00B ∧ u = { t with ctimeout := x } ∧ x.toNat < 2 ^ 32) := by
  unfold Thread.writeOwn at h
  split at h
  case h_6 => cases h
  all_goals
    obtain ⟨hok, hu⟩ := Option.ite_none_right_eq_some.mp h
    cases hu
  · exact .inl ⟨rfl, rfl⟩
  · exact .inr (.inl ⟨rfl, rfl, hok⟩)
  · exact .inr (.inr (.inl ⟨rfl, rfl, hok⟩))
  · exact .inr (.inr (.inr (.inl ⟨rfl, rfl, hok⟩)))
  · exact .inr (.inr (.inr (.inr ⟨rfl, rfl, hok⟩)))

theorem writeOwn_refused {n : Nat} (h : t.writeOwn n x = none) : n ≠ 0x003 ∨ flagsOk x = false := by
  by_cases hn : n = 0x003
  · subst hn
    refine .inr (Bool.eq_false_iff.mpr fun hok => ?_)
    exact Option.some_ne_none _ ((if_pos hok).symm.trans h)
  · exact .inl hn

end

/-! ## FLUSHF (R39, R159) -/

theorem flushf_here (h : s.admits { ahead := false } [] = true) (hpkg : s.cur.wavePkg = none) :
    exec .flushf s = .next (s.flushFlags s.cur).retire := by
  have hafar : s.cur.waveAfar = none := by simp [Thread.waveAfar, hpkg]
  refine (issue_admits h _).trans (next_eq ?_)
  simp only [hafar]

theorem flushf_reduces (h : s.admits { ahead := false } [] = true) {p w : Nat} (hafar : s.cur.waveAfar = some (p, w)) (hroom : s.cur.redpend < 16)
    (hnet : s.netAdmits p = true) :
    exec .flushf s = .next ((s.modCur fun t => Thread.retire { t with redpend := t.redpend + 1 }).tellWave s.focus.core s.cur
      (.flags (s.cur.flags.setWidth 6))) := by
  have hcap : ¬ Config.redCap ≤ s.cur.redpend := Nat.not_le_of_lt hroom
  refine (issue_admits h _).trans (next_eq ?_)
  simp only [hafar, if_neg hcap]
  exact viaNet_admits hnet _ _

end

end Sys2Proof.Machine

section

open Sys2Proof Sys2Proof.Machine

/-- Settles O7: a PFX word stays pending or faults, and the fault clears PFXST. -/
theorem prefixResults : Obligations.PrefixResults := by
  refine ⟨fun s p hmid => ⟨fun hnone => ?_, fun hnone => ?_, fun hnone => ?_⟩, fun s p hbank => ⟨fun h => ?_, fun h => ?_, fun h => ?_⟩⟩
  · exact (next_eq (prefixWord_pends (kind := 0) hnone hmid)).trans (by simp [pendPrefix])
  · exact (next_eq (prefixWord_pends (kind := 1) hnone hmid)).trans (by simp [pendPrefix])
  · exact (next_eq (prefixWord_pends (kind := 2) hnone hmid)).trans (by simp [pendPrefix])
  · exact ⟨_, rfl, prefixWord_stops (kind := 0) hbank h⟩
  · exact ⟨_, rfl, prefixWord_stops (kind := 1) hbank h⟩
  · exact ⟨_, rfl, prefixWord_stops (kind := 2) hbank h⟩

/-- Settles O8: each form is a read or a write of the register that its number names, and FLUSHF goes where the thread's wave lies. -/
theorem specialRegisterResults : Obligations.SpecialRegisterResults := by
  refine ⟨⟨fun s d n h => ⟨fun x => srd_reads h, srd_reserved h, fun e he => ?_⟩, fun s a n x h hx => ?_, fun s a => ?_, fun s h => ?_⟩,
    fun t n x => ⟨fun u => writeOwn_cases t, writeOwn_refused t⟩⟩
  · refine srd_reads h ?_
    revert e
    simp [Thread.special]
  · exact ⟨fun t => writeSpecial_accepted h hx (f := fun _ y => y), writeSpecial_refused h hx (f := fun _ y => y),
      fun t => writeSpecial_accepted h hx (f := fun x y => x &&& ~~~y), writeSpecial_refused h hx (f := fun x y => x &&& ~~~y),
      fun hflush => ⟨fun t hw => (srset_writes hflush).trans (writeSpecial_accepted h hx hw),
        fun hw => (srset_writes hflush).trans (writeSpecial_refused h hx hw)⟩⟩
  · refine List.forall_mem_cons.mpr ⟨fun h => special_writes h rfl fun y => writeOwn_flags _, ?_⟩
    refine List.forall_mem_cons.mpr ⟨fun h => special_writes h rfl fun y => writeOwn_prio _, ?_⟩
    refine List.forall_mem_cons.mpr ⟨fun h => special_writes h rfl fun y => writeOwn_nanctl _, ?_⟩
    refine List.forall_mem_cons.mpr ⟨fun h => special_writes h rfl fun y => writeOwn_cabort _, ?_⟩
    exact List.forall_mem_singleton.mpr fun h => special_writes h rfl fun y => writeOwn_ctimeout _
  · exact ⟨rfl, flushf_here h, fun p w => flushf_reduces h⟩

end

end

section
/-!
Integer results (R99, R183 to R186): an admitted operation writes the value of its function of the sources; the shift amounts of the word are in
range for their size, and what the counts and the byte swap find is said bit by bit and byte by byte.
-/

namespace Sys2Proof.Machine

/-! ## Shift amounts of the word (R185) -/

section

variable (n : BitVec 6)

theorem shiftAmount_setWidth_dword : shiftAmount (n.setWidth 64) = n.toNat := by
  have hn : n.toNat < 64 := n.isLt
  rw [shiftAmount, BitVec.toNat_setWidth]
  omega

theorem shiftAmount_setWidth_word (hn : n.toNat < 32) : shiftAmount ((n.setWidth 64).setWidth 32) = n.toNat := by
  rw [shiftAmount, BitVec.toNat_setWidth, BitVec.toNat_setWidth]
  omega

variable (s : State) (d : GReg) (x : Dword) (op : {w : Nat} → BitVec w → Nat → BitVec w)

/-- The result of a shift of a dword by the amount in the word. -/
theorem result_shift_dword :
    s.result d (sized false (fun x y => op x (shiftAmount y)) x (n.setWidth 64)) = s.result d (op x n.toNat) :=
  congrArg (fun k => s.result d (op x k)) (shiftAmount_setWidth_dword n)

/-- The result of a `.w` shift by the amount in the word. -/
theorem result_shift_word (hn : n.toNat < 32) :
    s.result d (sized true (fun x y => op x (shiftAmount y)) x (n.setWidth 64)) = s.result d ((op (x.setWidth 32) n.toNat).signExtend 64) :=
  congrArg (fun k => s.result d ((op (x.setWidth 32) k).signExtend 64)) (shiftAmount_setWidth_word n hn)

end

/-! ## Counts (R183) -/

section

variable {x : Dword} {n k : Nat}

theorem leadingZeros_succ_set (h : x.getLsbD n = true) : leadingZeros x (n + 1) = 0 := if_pos h

theorem leadingZeros_succ_clear (h : ¬ x.getLsbD n = true) : leadingZeros x (n + 1) = 1 + leadingZeros x n := if_neg h

theorem trailingZeros_succ_set (h : x.getLsbD k = true) : trailingZeros x (n + 1) k = 0 := if_pos h

theorem trailingZeros_succ_clear (h : ¬ x.getLsbD k = true) : trailingZeros x (n + 1) k = 1 + trailingZeros x n (k + 1) := if_neg h

/-- The leading zeros among n bits are all n, or end above the highest one bit. -/
theorem leadingZeros_cases (x : Dword) (n : Nat) :
    (leadingZeros x n = n ∧ ∀ i < n, x.getLsbD i = false) ∨
    (leadingZeros x n < n ∧ x.getLsbD (n - 1 - leadingZeros x n) = true ∧ ∀ i < n, n - 1 - leadingZeros x n < i → x.getLsbD i = false) := by
  induction n with
  | zero => exact .inl ⟨rfl, fun i hi => absurd hi (Nat.not_lt_zero i)⟩
  | succ n ih =>
    by_cases hbit : x.getLsbD n = true
    · rw [leadingZeros_succ_set hbit]
      exact .inr ⟨n.succ_pos, hbit, fun i hi hn => by omega⟩
    · rw [leadingZeros_succ_clear hbit]
      have hbelow : ∀ i < n + 1, (i < n → x.getLsbD i = false) → x.getLsbD i = false := fun i hi hlow => by
        rcases Nat.lt_succ_iff_lt_or_eq.mp hi with hin | rfl
        · exact hlow hin
        · exact Bool.eq_false_iff.mpr hbit
      obtain ⟨hall, hzero⟩ | ⟨hlt, hone, hzero⟩ := ih
      · exact .inl ⟨by omega, fun i hi => hbelow i hi (hzero i)⟩
      · have hplace : n + 1 - 1 - (1 + leadingZeros x n) = n - 1 - leadingZeros x n := by omega
        rw [hplace]
        exact .inr ⟨by omega, hone, fun i hi habove => hbelow i hi fun hin => hzero i hin habove⟩

/-- The trailing zeros among the n bits from bit k up are all n, or end below the lowest one bit there. -/
theorem trailingZeros_cases (x : Dword) (n k : Nat) :
    (trailingZeros x n k = n ∧ ∀ i < n, x.getLsbD (k + i) = false) ∨
    (trailingZeros x n k < n ∧ x.getLsbD (k + trailingZeros x n k) = true ∧ ∀ i < trailingZeros x n k, x.getLsbD (k + i) = false) := by
  induction n generalizing k with
  | zero => exact .inl ⟨rfl, fun i hi => absurd hi (Nat.not_lt_zero i)⟩
  | succ n ih =>
    by_cases hbit : x.getLsbD k = true
    · rw [trailingZeros_succ_set hbit]
      exact .inr ⟨n.succ_pos, hbit, fun i hi => absurd hi (Nat.not_lt_zero i)⟩
    · rw [trailingZeros_succ_clear hbit]
      have habove : ∀ m, (∀ i < m, x.getLsbD (k + 1 + i) = false) → ∀ i < 1 + m, x.getLsbD (k + i) = false := fun m hm i hi => by
        cases i with
        | zero => exact Bool.eq_false_iff.mpr hbit
        | succ i =>
          rw [Nat.add_comm i 1, ← Nat.add_assoc]
          exact hm i (by omega)
      obtain ⟨hall, hzero⟩ | ⟨hlt, hone, hzero⟩ := ih (k + 1)
      · rw [hall]
        exact .inl ⟨Nat.add_comm 1 n, Nat.add_comm 1 n ▸ habove n hzero⟩
      · rw [← Nat.add_assoc]
        exact .inr ⟨by omega, hone, habove _ hzero⟩

theorem eq_zero_of_clear (h : ∀ i < 64, x.getLsbD i = false) : x = 0 :=
  BitVec.eq_of_getLsbD_eq fun i hi => (h i hi).trans BitVec.getLsbD_zero.symm

/-- CLZ is 64 for zero, and else the place of the highest one bit, from the top. -/
theorem leadingZeros_highest (x : Dword) : (leadingZeros x 64 = 64 ∧ x = 0) ∨
    (leadingZeros x 64 < 64 ∧ x.getLsbD (63 - leadingZeros x 64) = true ∧ ∀ i, 63 - leadingZeros x 64 < i → x.getLsbD i = false) := by
  obtain ⟨hall, hzero⟩ | ⟨hlt, hone, hzero⟩ := leadingZeros_cases x 64
  · exact .inl ⟨hall, eq_zero_of_clear hzero⟩
  · refine .inr ⟨hlt, hone, fun i hi => ?_⟩
    by_cases h64 : i < 64
    · exact hzero i h64 hi
    · exact BitVec.getLsbD_of_ge x i (Nat.le_of_not_lt h64)

/-- CTZ is 64 for zero, and else the place of the lowest one bit. -/
theorem trailingZeros_lowest (x : Dword) : (trailingZeros x 64 0 = 64 ∧ x = 0) ∨
    (trailingZeros x 64 0 < 64 ∧ x.getLsbD (trailingZeros x 64 0) = true ∧ ∀ i < trailingZeros x 64 0, x.getLsbD i = false) := by
  have hcases := trailingZeros_cases x 64 0
  simp only [Nat.zero_add] at hcases
  exact hcases.imp_left fun ⟨hall, hzero⟩ => ⟨hall, eq_zero_of_clear hzero⟩

/-- BSWAP moves byte j to byte 7 − j: each byte is found by going up the concatenation to it. -/
theorem extractLsb'_byteSwap (x : Dword) {j : Nat} (hj : j < 8) : (byteSwap x).extractLsb' (8 * j) 8 = x.extractLsb' (8 * (7 - j)) 8 := by
  unfold byteSwap
  have hbytes : j = 0 ∨ j = 1 ∨ j = 2 ∨ j = 3 ∨ j = 4 ∨ j = 5 ∨ j = 6 ∨ j = 7 := by omega
  rcases hbytes with rfl | rfl | rfl | rfl | rfl | rfl | rfl | rfl <;>
    simp (disch := omega) only [BitVec.extractLsb'_append_eq_of_le, BitVec.extractLsb'_append_eq_of_add_le, BitVec.extractLsb'_eq_self,
      Nat.reduceSub, Nat.reduceMul]

end

end Sys2Proof.Machine

section

open Sys2Proof Sys2Proof.Machine

/-- Settles O1: an admitted operation writes the value of its function, in its size. -/
theorem integerResults : Obligations.IntegerResults := by
  refine ⟨fun s d a b h => ?_, fun s d a b h => ⟨issue_admits h _, issue_admits h _, issue_admits h _, issue_admits h _, ?_⟩⟩
  · simp only [List.forall_mem_cons]
    iterate 31 refine ⟨issue_admits h _, ?_⟩
    exact List.forall_mem_nil _
  · exact ⟨issue_admits h _, issue_admits h _, issue_admits h _, issue_admits h _⟩

/-- Settles O2: an admitted operation writes the value of its function, and what the counts and the swap find is `leadingZeros_highest`,
`trailingZeros_lowest` and `extractLsb'_byteSwap`. -/
theorem moveAndCountResults : Obligations.MoveAndCountResults :=
  ⟨⟨fun _ _ _ _ h => ⟨issue_admits h _, issue_admits h _, fun _ => issue_admits h _⟩,
      fun _ _ _ h => ⟨issue_admits h _, issue_admits h _, issue_admits h _, issue_admits h _⟩⟩,
    leadingZeros_highest, trailingZeros_lowest, fun x _ => extractLsb'_byteSwap x⟩

/-- Settles O3: an admitted operation writes the value of its function of the immediate, and a shift amount of the word is in range for its size. -/
theorem immediateResults : Obligations.ImmediateResults := by
  refine ⟨fun s d a i h => ?_, fun s d a n h => ?_, fun s d i => ⟨fun h => ⟨issue_admits h _, issue_admits h _⟩, fun h => issue_admits h _⟩⟩
  · exact ⟨issue_admits h _, issue_admits h _, issue_admits h _, issue_admits h _, issue_admits h _⟩
  · have hdword := fun op : {w : Nat} → BitVec w → Nat → BitVec w => next_eq (result_shift_dword n s d (s.rg a) op)
    have hword := fun (hn : n.toNat < 32) (op : {w : Nat} → BitVec w → Nat → BitVec w) => next_eq (result_shift_word n s d (s.rg a) op hn)
    refine ⟨(issue_admits h _).trans (hdword fun x k => x <<< k), (issue_admits h _).trans (hdword fun x k => x >>> k),
      (issue_admits h _).trans (hdword BitVec.sshiftRight), (issue_admits h _).trans (hdword BitVec.rotateLeft), fun hn => ?_⟩
    exact ⟨(issue_admits h _).trans (hword hn fun x k => x <<< k), (issue_admits h _).trans (hword hn fun x k => x >>> k),
      (issue_admits h _).trans (hword hn BitVec.sshiftRight), (issue_admits h _).trans (hword hn BitVec.rotateLeft)⟩

end

end

section
/-!
Branches and loops (R187 to R192): what a transfer does by its target, what opening a loop level does by the levels around it, and the two steps of an
issue that fault at the PC.
-/

namespace Sys2Proof.Machine

variable {s : State} {x : Dword}

/-! ## Targets (R188) -/

/-- A target that a transfer accepts: aligned, and below 2^52. -/
def TargetLegal (x : Dword) : Prop := x.toNat % 4 = 0 ∧ x.toNat < 0x10000000000000

/-- An outcome that faults by its target where the target is not accepted. -/
def TargetFaults (s : State) (x : Dword) (o : Host.Outcome State Fault Refusal) : Prop :=
  (x.toNat % 4 ≠ 0 → o = .next (s.raise 0x03 x 0 0)) ∧ (x.toNat % 4 = 0 → 0x10000000000000 ≤ x.toNat → o = .next (s.raise 0x04 x 0 0))

theorem withTarget_legal (h : TargetLegal x) (f : State → State) : s.withTarget x f = f s := by
  obtain ⟨halign, hlow⟩ := h
  have hhigh : ¬ x.toNat / 0x10000000000000 ≠ 0 := not_not_intro (Nat.div_eq_of_lt hlow)
  exact (if_neg (not_not_intro halign)).trans (if_neg hhigh)

theorem withTarget_misaligned (h : x.toNat % 4 ≠ 0) (f : State → State) : s.withTarget x f = s.raise 0x03 x 0 0 := if_pos h

theorem withTarget_high (halign : x.toNat % 4 = 0) (h : 0x10000000000000 ≤ x.toNat) (f : State → State) :
    s.withTarget x f = s.raise 0x04 x 0 0 := by
  have hhigh : x.toNat / 0x10000000000000 ≠ 0 := Nat.div_ne_zero_iff.mpr ⟨by decide, h⟩
  exact (if_neg (not_not_intro halign)).trans (if_pos hhigh)

/-- An outcome that transfers on a checked target faults by it. -/
theorem targetFaults_withTarget {o : Host.Outcome State Fault Refusal} {f : State → State} (h : o = .next (s.withTarget x f)) :
    TargetFaults s x o :=
  ⟨fun hmis => h.trans (next_eq (withTarget_misaligned hmis f)), fun halign hhigh => h.trans (next_eq (withTarget_high halign hhigh f))⟩

/-! ## BC (R187, R189) -/

section

variable {a : GReg} {i : BitVec 16}

theorem branchOn_fails (h : s.admits { imm := true } [a] = true) {c : Cond} (hc : Cond.holds c (s.rg a) = false) :
    branchOn c a i s = .next s.retire := by
  refine (issue_admits h _).trans (next_eq (if_neg ?_))
  rw [hc]
  exact Bool.false_ne_true

theorem branchOn_holds (h : s.admits { imm := true } [a] = true) {c : Cond} (hc : Cond.holds c (s.rg a) = true) :
    branchOn c a i s =
      .next (s.withTarget (s.offsetTarget (s.cur.imm16 i)) fun s' => s'.modCur fun t => t.jump (s.offsetTarget (s.cur.imm16 i)) 1) :=
  (issue_admits h _).trans (next_eq (if_pos hc))

/-- BC by its condition and its target. -/
theorem branchOn_cases (h : s.admits { imm := true } [a] = true) (i : BitVec 16) (c : Cond) :
    (Cond.holds c (s.rg a) = false → branchOn c a i s = .next s.retire) ∧
    (Cond.holds c (s.rg a) = true → TargetLegal (s.offsetTarget (s.cur.imm16 i)) →
      branchOn c a i s = .next (s.modCur fun t => t.jump (s.offsetTarget (s.cur.imm16 i)) 1)) ∧
    (Cond.holds c (s.rg a) = true → TargetFaults s (s.offsetTarget (s.cur.imm16 i)) (branchOn c a i s)) :=
  ⟨branchOn_fails h, fun hc hlegal => (branchOn_holds h hc).trans (next_eq (withTarget_legal hlegal _)),
    fun hc => targetFaults_withTarget (branchOn_holds h hc)⟩

end

/-! ## Loop levels (R190) -/

section

variable {c n : Nat}

theorem setLoop_full (h : s.cur.depth = 3) : s.setLoop c n = s.raise 0x0F 0 0 0 := if_pos h

theorem setLoop_overlaps (hroom : s.cur.depth ≠ 3) (hopen : 0 < s.cur.depth) (hend : s.cur.loopEnd (s.cur.depth - 1) ≤ s.cur.pc.toNat + 4 * n) :
    s.setLoop c n = s.raise 0x0F 0 (BitVec.ofNat 64 (s.cur.pc.toNat + 4 * n)) 0 := (if_neg hroom).trans (if_pos ⟨hopen, hend⟩)

/-- A level with room for it, whose body ends before the level around it, opens, or is passed over where its count is zero. -/
theorem setLoop_nested (hroom : s.cur.depth < 3) (hnest : s.cur.depth = 0 ∨ s.cur.pc.toNat + 4 * n < s.cur.loopEnd (s.cur.depth - 1)) :
    s.setLoop c n =
      if c = 0 then s.modCur fun t => { t.consume with pc := BitVec.ofNat 64 (t.pc.toNat + 4 * n + 4) }
      else s.modCur fun t =>
        { t.consume with
          loopb := t.loopb.setIfInBounds t.depth (t.pc + 4)
          loopc := t.loopc.setIfInBounds t.depth (BitVec.ofNat 64 ((c - 1) * 0x100000000 + n))
          loopst := BitVec.ofNat 64 (t.depth + 1)
          pc := t.pc + 4 } := by
  have hapart : ¬ (0 < s.cur.depth ∧ s.cur.loopEnd (s.cur.depth - 1) ≤ s.cur.pc.toNat + 4 * n) := by omega
  exact (if_neg (Nat.ne_of_lt hroom)).trans (if_neg hapart)

end

/-! ## Faults at the PC (R167, R430) -/

theorem exec_illegalWord_bound (hst : s.cur.st = .bound) (hword : s.cur.word = some s.subject.word) :
    exec .illegalWord s = .next (s.raise 0x01 0 (s.subject.word.setWidth 64) 0) := next_eq (if_pos ⟨hst, hword⟩)

theorem exec_breakpointMatch_bound (hst : s.cur.st = .bound) :
    exec .breakpointMatch s = .next (s.raise 0x0E 0 (BitVec.ofNat 64 s.subject.a) 0) := next_eq (if_pos hst)

end Sys2Proof.Machine

section

open Sys2Proof Sys2Proof.Machine

/-- Settles O5, form by form: a transfer on a checked target is made where the target is legal, and faults by it elsewhere. -/
theorem branchResults : Obligations.BranchResults := by
  unfold Obligations.BranchResults
  intro legal bad
  refine ⟨fun s a i h => ?_, fun s d i h hlegal => ?_, fun s d a hlegal => ⟨fun h => ?_, fun h => ?_⟩, fun s c d a k => ?_,
    fun s a k i => ⟨fun h hlegal => ?_, fun h hlegal => ?_⟩, fun s d a k i => ?_⟩
  · simp only [List.forall_mem_cons]
    exact ⟨branchOn_cases h i .eqz, branchOn_cases h i .nez, branchOn_cases h i .ltz, branchOn_cases h i .gez, branchOn_cases h i .gtz,
      branchOn_cases h i .lez, List.forall_mem_nil _⟩
  · exact (issue_admits h _).trans (next_eq (withTarget_legal hlegal _))
  · exact (issue_admits h _).trans (next_eq (withTarget_legal hlegal _))
  · exact (issue_admits h _).trans (next_eq (withTarget_legal hlegal _))
  · exact ⟨fun h => issue_admits h _, fun h => issue_admits h _, fun h => issue_admits h _⟩
  · exact (issue_admits h _).trans (next_eq (withTarget_legal hlegal _))
  · exact (issue_admits h _).trans (next_eq (withTarget_legal hlegal _))
  · exact ⟨fun h => targetFaults_withTarget (issue_admits h _), fun h => targetFaults_withTarget (issue_admits h _),
      fun h => targetFaults_withTarget (issue_admits h _), fun h => targetFaults_withTarget (issue_admits h _),
      fun h => targetFaults_withTarget (issue_admits h _)⟩

/-- Settles O6: LOOP and LOOPI are `setLoop` of their count, the loop-back is that of a completed body, and the faults at the PC are those of the
thread whose turn it is. -/
theorem loopResults : Obligations.LoopResults := by
  refine ⟨fun s c n => setLoop_nested, fun s c n => ⟨setLoop_full, setLoop_overlaps⟩, fun s a n h => ⟨fun hcount => ?_, fun hcount => ?_⟩,
    fun s c n h => issue_admits h _, fun s hretiring => next_eq (if_pos hretiring), fun s h => ⟨issue_admits h _, issue_admits h _⟩,
    fun s hst => ⟨exec_illegalWord_bound hst, exec_breakpointMatch_bound hst⟩⟩
  · exact (issue_admits h _).trans (next_eq (if_neg (Nat.not_le.mpr hcount)))
  · exact (issue_admits h _).trans (next_eq (if_pos hcount))

end

end

section
/-!
The end of a thread, and roaming (R60 to R64, R203, R204): what ROAM, ANCHOR and GOHOME do by the thread's residence and its operand.
-/

namespace Sys2Proof.Machine

variable {s : State} {a : GReg} {x : Access}

theorem atomicAccess_ok {ea : Dword} {size : Nat} {count : Bool} (hcheck : s.checkCur ea size true true = .ok x)
    (hfault : s.atomicFault x count = none) (f : Access → State) : s.atomicAccess ea size count f = f x := by
  unfold State.atomicAccess
  rw [hcheck]
  dsimp only
  rw [hfault]

/-! ## END (R203) -/

theorem endT_unnamed (h : s.admits { ahead := false } [a] = true) : exec (.endT a false) s = .next (s.endCur 0 none) := issue_admits h _

theorem endT_named (h : s.admits { ahead := false } [a] = true) (hcheck : s.checkCur (s.rg a) 4 true true = .ok x)
    (hfault : s.atomicFault x true = none) : exec (.endT a true) s = .next (s.endCur (s.rg a) (some (x.pa, x.key))) :=
  (issue_admits h _).trans (next_eq (atomicAccess_ok hcheck hfault _))

/-! ## ROAM (R60) -/

theorem notBurst_admits (h : s.cur.burst = false) (f : State → State) : s.notBurst f = f s := by
  unfold State.notBurst
  rw [h]
  exact if_neg Bool.false_ne_true

section
variable (h : s.admits { roam := true, ahead := false } [] = true) (hburst : s.cur.burst = false)
include h hburst

theorem roam_leaves (hdepth : s.cur.depth = 0) (hslot : s.ownsSlot s.cur.name = false) :
    exec .roam s = .next (((s.dropWatches s.cur.name).postOf s.cur.name).modCur fun t =>
      Thread.retire { t.shed with roaming := true, stub := some { ep := endpoint s.pkg s.focus.core, ctx := s.focus.ctx }
                                  xbatch := 0, batchNo := t.batchNo + 1 }) := by
  have hfree : ¬ (0 < s.cur.depth ∨ s.ownsSlot s.cur.name = true) := by simp [hdepth, hslot]
  exact (issue_admits h _).trans (next_eq ((notBurst_admits hburst _).trans (if_neg hfree)))

theorem roam_held (hheld : 0 < s.cur.depth ∨ s.ownsSlot s.cur.name = true) : exec .roam s = .next (s.raise 0x17 0 0 0) :=
  (issue_admits h _).trans (next_eq ((notBurst_admits hburst _).trans (if_pos hheld)))

end

/-! ## ANCHOR (R64) -/

section
variable (h : s.admits { ahead := false } [] = true)
include h

theorem anchor_anchored (hroam : s.cur.roaming = false) : exec .anchor s = .next s.retire := by
  refine (issue_admits h _).trans (next_eq (if_pos ?_))
  rw [hroam]
  rfl

/-- A roaming thread that anchors tells the package of its name where it stands. -/
theorem anchor_roaming (hroam : s.cur.roaming = true) :
    let here := endpoint s.pkg s.focus.core
    let home := endpointPkg (nameEp s.cur.name)
    let u := s.modCur fun t => t.anchor.retire
    exec .anchor s = .next (if home = s.pkg then u.anchored s.cur.name here s.focus.ctx s.cur.stub
      else u.tell s.focus.core home s.cur.name (.anchored here s.focus.ctx s.cur.stub)) := by
  refine (issue_admits h _).trans (next_eq (if_neg ?_))
  rw [hroam]
  decide

end

/-! ## GOHOME (R204) -/

/-- A thread with nothing unacknowledged, and room on its way, leaves for a core past the instruction that it completes (R61). -/
theorem depart_next {pkg core : Nat} (hack : s.cur.storeAck = 0) (hred : s.cur.redpend = 0) (hnet : s.netAdmits pkg = true) :
    s.depart pkg core true = (s.setCur (s.cur.leave .waiting { k := 13, act := .done 0, first := s.nextId })).send
      (if pkg = s.pkg then 100 else 234) pkg s.curOrigin (.migrate { s.cur.retire with yielding := false } core s.focus.core) := by
  have hclear : ¬ (s.cur.storeAck ≠ 0 ∨ s.cur.redpend ≠ 0) := by simp [hack, hred]
  exact (if_neg hclear).trans (viaNet_admits hnet _ _)

section
variable (h : s.admits { ahead := false } [a] = true) (hburst : s.cur.burst = false)
include h hburst

theorem gohome_anchored (hroam : s.cur.roaming = false) : exec (.gohome a) s = .next (s.raise 0x17 0 0 0) := by
  refine (issue_admits h _).trans (next_eq ((notBurst_admits hburst _).trans (if_pos ?_)))
  rw [hroam]
  rfl

/-- GOHOME of a roaming thread goes by the address that its check gives. -/
theorem gohome_roaming (hroam : s.cur.roaming = true) (hcheck : s.checkCur (s.rg a) 1 true false = .ok x) :
    exec (.gohome a) s = .next (if !isDamask x.pa then s.raise 0x05 (s.rg a) 0 0
      else if gpaPkg x.pa = s.pkg ∧ channelCore (gpaLocal x.pa) = s.focus.core then s.retire
      else s.depart (gpaPkg x.pa) (channelCore (gpaLocal x.pa)) true) := by
  refine (issue_admits h _).trans (next_eq ((notBurst_admits hburst _).trans ((if_neg ?_).trans (withAccess_ok hcheck _))))
  rw [hroam]
  decide

theorem gohome_elsewhere (hroam : s.cur.roaming = true) (hcheck : s.checkCur (s.rg a) 1 true false = .ok x) (hdamask : isDamask x.pa = false) :
    exec (.gohome a) s = .next (s.raise 0x05 (s.rg a) 0 0) := by
  rw [gohome_roaming h hburst hroam hcheck, hdamask]
  rfl

theorem gohome_damask (hroam : s.cur.roaming = true) (hcheck : s.checkCur (s.rg a) 1 true false = .ok x) (hdamask : isDamask x.pa = true) :
    exec (.gohome a) s = .next (if gpaPkg x.pa = s.pkg ∧ channelCore (gpaLocal x.pa) = s.focus.core then s.retire
      else s.depart (gpaPkg x.pa) (channelCore (gpaLocal x.pa)) true) := by
  rw [gohome_roaming h hburst hroam hcheck, hdamask]
  rfl

end

end Sys2Proof.Machine

section

open Sys2Proof Sys2Proof.Machine

/-- Settles O30, instruction by instruction: each goes by what holds the thread where it stands, and GOHOME by the address that its check gives. -/
theorem endRoamResults : Obligations.EndRoamResults := by
  refine ⟨fun s a h => ⟨endT_unnamed h, fun x => endT_named h⟩, fun s h hburst => ⟨roam_leaves h hburst, roam_held h hburst⟩,
    fun s h => ⟨anchor_anchored h, fun hroam => ?_⟩, fun s a x h hburst => ⟨gohome_anchored h hburst, gohome_elsewhere h hburst, ?_⟩⟩
  · exact ⟨fun hhome => (anchor_roaming h hroam).trans (next_eq (if_pos hhome)),
      fun hhome => (anchor_roaming h hroam).trans (next_eq (if_neg hhome))⟩
  · intro hroam hcheck hdamask
    have hgo := gohome_damask h hburst hroam hcheck hdamask
    refine ⟨fun hpkg hcore => hgo.trans (next_eq (if_pos ⟨hpkg, hcore⟩)), fun haway hack hred hnet => ?_⟩
    exact hgo.trans (next_eq ((if_neg haway).trans (depart_next hack hred hnet)))

end

end

section
/-!
Faults of an access (R209, R211): what the check of an address refuses before it asks for a translation, and that the first lane that fails its check decides
the fault of a vector access.
-/

namespace Sys2Proof.Machine

variable {s : State} {d a : GReg} {o : BitVec 13} {ea : Dword} {size : Nat} {r w : Bool} {c : BitVec 8} {w4 : Dword}

/-! ## Before translation (R209) -/

/-- An address that its virtual address space does not hold is outside every translation, aligned or not. -/
theorem checkCur_high (h : 2 ^ 52 ≤ ea.toNat) : s.checkCur ea size r w = .fault 0x04 0 := by
  have hhigh : ea.toNat / 0x10000000000000 ≠ 0 := Nat.div_ne_zero_iff.mpr ⟨by decide, h⟩
  exact if_pos hhigh

section
variable (hlow : ea.toNat < 2 ^ 52)
include hlow

theorem checkCur_misaligned (h : ea.toNat % size ≠ 0) : s.checkCur ea size r w = .fault 0x03 0 :=
  (if_neg (not_not_intro (Nat.div_eq_of_lt hlow))).trans (if_pos h)

theorem checkCur_rootless (halign : ea.toNat % size = 0) (hroot : s.cur.troot = 0) : s.checkCur ea size r w = .fault 0x04 0 :=
  (if_neg (not_not_intro (Nat.div_eq_of_lt hlow))).trans ((if_neg (not_not_intro halign)).trans (if_pos hroot))

end

/-! ## Scalar accesses -/

theorem loadOffset_faults {signed : Bool} (h : s.admits { imm := true, nol1 := true } [d, a] = true)
    (hcheck : s.checkCur (s.eaOffset a o) size true false = .fault c w4) :
    loadOffset d a o size signed s = .next (s.raise c (s.eaOffset a o) w4 0) :=
  (issue_admits h _).trans (next_eq (withAccess_fault hcheck _))

theorem storeOffset_faults (h : s.admits { imm := true } [d, a] = true) (hcheck : s.checkCur (s.eaOffset a o) size false true = .fault c w4) :
    storeOffset d a o size s = .next (s.raise c (s.eaOffset a o) w4 0) :=
  (issue_admits h _).trans (next_eq (withAccess_fault hcheck _))

/-- The loads at an offset (R214): each with its size, and whether it extends by the sign. -/
def ldForms : List ((GReg → GReg → BitVec 13 → Instr) × Nat × Bool) :=
  [(.ldB, 1, true), (.ldBn, 1, false), (.ldH, 2, true), (.ldHn, 2, false), (.ldW, 4, true), (.ldWn, 4, false), (.ldD, 8, false)]

theorem exec_ldForms : ∀ e ∈ ldForms, ∀ d a o s, exec (e.1 d a o) s = loadOffset d a o e.2.1 e.2.2 s := by
  simp only [ldForms, List.forall_mem_cons]
  exact ⟨fun _ _ _ _ => rfl, fun _ _ _ _ => rfl, fun _ _ _ _ => rfl, fun _ _ _ _ => rfl, fun _ _ _ _ => rfl, fun _ _ _ _ => rfl,
    fun _ _ _ _ => rfl, List.forall_mem_nil _⟩

/-! ## Lanes (R211) -/

/-- Behind lanes that pass, the lane that fails gives the outcome, whatever lanes come after it. -/
theorem checkLanes_fault {l : List (Nat × Dword)} (hl : ∀ p ∈ l, ∃ x, s.checkCur p.2 size r w = .ok x ∧ isDevice x.pa = false)
    (hcheck : s.checkCur ea size r w = .fault c w4) (i : Nat) (rest : List (Nat × Dword)) :
    s.checkLanes size r w true (l ++ (i, ea) :: rest) = .fault c ea (laneWord c w4 i) := by
  induction l with
  | nil => simp only [List.nil_append, State.checkLanes, hcheck]
  | cons p l ih =>
    obtain ⟨⟨x, hx, hdev⟩, hrest⟩ := List.forall_mem_cons.mp hl
    simp only [List.cons_append, State.checkLanes, hx, hdev, ih hrest]
    rfl

section
variable {ls : List (Nat × Dword)} (hne : ls ≠ []) (f : List (Piece × Nat) → State)
include hne

theorem withLanes_ok {xs : List (Piece × Nat)} (h : s.checkLanes size r w true ls = .ok xs) : s.withLanes size r w ls f = f xs := by
  unfold State.withLanes
  rw [if_neg (mt List.isEmpty_iff.mp hne), h]

theorem withLanes_refused {w5 : Dword} (h : s.checkLanes size r w true ls = .fault c ea w5) : s.withLanes size r w ls f = s.raise c ea w5 0 := by
  unfold State.withLanes
  rw [if_neg (mt List.isEmpty_iff.mp hne), h]

end

/-- No lane is performed: the fault does not name what the access does with its checked lanes. -/
theorem withLanes_fault {l : List (Nat × Dword)} (hl : ∀ p ∈ l, ∃ x, s.checkCur p.2 size r w = .ok x ∧ isDevice x.pa = false)
    (hcheck : s.checkCur ea size r w = .fault c w4) (i : Nat) (rest : List (Nat × Dword)) (f : List (Piece × Nat) → State) :
    s.withLanes size r w (l ++ (i, ea) :: rest) f = s.raise c ea (laneWord c w4 i) 0 :=
  withLanes_refused (by simp) f (checkLanes_fault hl hcheck i rest)

end Sys2Proof.Machine

section

open Sys2Proof Sys2Proof.Machine

/-- Settles O10: a scalar access is its check first, an address outside the space or with no root is refused before any leaf is asked for, and lanes are checked in
ascending order. -/
theorem accessFaults : Obligations.AccessFaults := by
  refine ⟨⟨fun e he s d a o c w4 h hcheck => ?_, fun e he s d a o c w4 h hcheck => ?_,
    fun s ea size r w => ⟨checkCur_high, checkCur_misaligned, checkCur_rootless⟩⟩,
    fun s size r w l i ea rest c w4 f hl hcheck => withLanes_fault hl hcheck i rest f⟩
  · obtain ⟨form, hform, rfl⟩ : ∃ form ∈ ldForms, (form.1, form.2.1) = e := List.mem_map.mp he
    rw [exec_ldForms form hform]
    exact loadOffset_faults h hcheck
  · obtain ⟨-, hexec⟩ := st_forms e he
    rw [hexec]
    exact storeOffset_faults h hcheck

end

end

section
/-!
Scalar loads (R31, R70, R209, R211, R214, R215, R319): a load that has passed its checks is one element, which the thread finds near within the turn, asks
its home for, or waits for the verdict of run-ahead with.
-/

namespace Sys2Proof.Machine

variable {s : State} {d a b : GReg} {o : BitVec 13} {sh : BitVec 3} {size : Nat} {signed acq nol1 : Bool} {x : Access}

/-! ## LD, LDX and LD.ACQ -/

/-- The loads at a scaled index (R214, R215): each with its size, whether it extends by the sign, and whether it acquires. -/
def ldxForms : List ((GReg → GReg → GReg → BitVec 3 → Instr) × Nat × Bool × Bool) :=
  [(.ldxB, 1, true, false), (.ldxBn, 1, false, false), (.ldxH, 2, true, false), (.ldxHn, 2, false, false), (.ldxW, 4, true, false),
    (.ldxWn, 4, false, false), (.ldxD, 8, false, false), (.ldAcqW, 4, true, true), (.ldAcqWn, 4, false, true), (.ldAcqD, 8, false, true)]

theorem exec_ldxForms : ∀ e ∈ ldxForms, ∀ d a b sh s, exec (e.1 d a b sh) s = loadIndex d a b sh e.2.1 e.2.2.1 e.2.2.2 s := by
  simp only [ldxForms, List.forall_mem_cons]
  exact ⟨fun _ _ _ _ _ => rfl, fun _ _ _ _ _ => rfl, fun _ _ _ _ _ => rfl, fun _ _ _ _ _ => rfl, fun _ _ _ _ _ => rfl, fun _ _ _ _ _ => rfl,
    fun _ _ _ _ _ => rfl, fun _ _ _ _ _ => rfl, fun _ _ _ _ _ => rfl, fun _ _ _ _ _ => rfl, List.forall_mem_nil _⟩

section
variable (hdev : isDevice x.pa = true → 4 ≤ size) (hstays : s.stays x.pa = true)
include hdev hstays

theorem loadOffset_loads (h : s.admits { imm := true, nol1 := true } [d, a] = true) (hcheck : s.checkCur (s.eaOffset a o) size true false = .ok x) :
    loadOffset d a o size signed s = .next (s.loadPieces (s.eaOffset a o)
      [({ lane := 0, pa := x.pa, size := size, va := s.eaOffset a o }, x.key)] (.gpr d size signed) false s.cur.nol1 true) :=
  (issue_admits h _).trans (next_eq (loadScalar_ok hcheck hdev hstays _ _ _))

theorem loadIndex_loads (h : s.admits { nol1 := true, ahead := !acq } [d, a, b] = true) (hcheck : s.checkCur (s.eaIndex a b sh) size true false = .ok x) :
    loadIndex d a b sh size signed acq s = .next (s.loadPieces (s.eaIndex a b sh)
      [({ lane := 0, pa := x.pa, size := size, va := s.eaIndex a b sh }, x.key)] (.gpr d size signed) acq s.cur.nol1 true) :=
  (issue_admits h _).trans (next_eq (loadScalar_ok hcheck hdev hstays _ _ _))

end

/-! ## One element -/

theorem sectorGroups_one (p : Piece) (k : Nat) : sectorGroups [(p, k)] = [([p], k)] := by
  simp [sectorGroups, List.eraseDups_cons]

section
variable {p : Piece} {k : Nat} (ea : Dword)

/-- A scalar element that the thread finds near is in gd within the turn. -/
theorem loadPieces_near {v : Nat} (hlane : p.lane = 0) (hnear : s.loadNear s.focus.core s.cur p k = some v) :
    s.loadPieces ea [(p, k)] (.gpr d size signed) false nol1 true =
      (s.touchL1 s.focus.core [(p, k)]).modCur fun t => (t.wg d (extend size signed v)).retire := by
  simp [State.loadPieces, hnear, Dest.put, hlane]

/-- A scalar element that the thread does not find near is asked for, behind the thread's own stores to it, which are posted first. -/
theorem loadPieces_far (hfar : s.loadNear s.focus.core s.cur p k = none) (hahead : s.cur.runsAhead = false) :
    let u := if (s.ownStores s.cur.name p.pa p.size s.nextId).isEmpty then s else s.postOf s.cur.name
    s.loadPieces ea [(p, k)] (.gpr d size signed) false nol1 true =
      (u.wait { k := if gpaPkg p.pa != s.pkg then 2 else 1, a := ea, act := .data 1 [] (.gpr d size signed) false }).sendLoads
        { u.curOrigin with free := false } [([p], k)] (!nol1) := by
  simp [State.loadPieces, hfar, hahead, sectorGroups_one]

end

/-- In run-ahead one element that is not near holds the whole load, which sends nothing (R319). -/
theorem loadPieces_ahead {ps : List (Piece × Nat)} {q : Piece × Nat} (hq : q ∈ ps) (hfar : s.loadNear s.focus.core s.cur q.1 q.2 = none)
    (hahead : s.cur.runsAhead = true) (ea : Dword) (dst : Dest) (short free : Bool) :
    s.loadPieces ea ps dst false nol1 short free = s.stallFor 12 0 0 .verdict := by
  have hlacks : q ∈ (ps.map fun p => (p, s.loadNear s.focus.core s.cur p.1 p.2)).filterMap fun f => if f.2.isNone then some f.1 else none :=
    List.mem_filterMap.mpr ⟨(q, none), List.mem_map.mpr ⟨q, hq, by rw [hfar]⟩, rfl⟩
  have hheld : ∀ b, ¬ (List.isEmpty _ && b) = true := fun b h =>
    List.ne_nil_of_mem hlacks (List.isEmpty_iff.mp (Bool.and_eq_true_iff.mp h).1)
  exact (if_neg (hheld _)).trans (if_pos hahead)

end Sys2Proof.Machine

section

open Sys2Proof Sys2Proof.Machine

/-- Settles O9: each load is its form at one size, and one element is near, at its home, or held for the verdict. -/
theorem loadResults : Obligations.LoadResults := by
  refine ⟨⟨fun e he s d a o x h hcheck hdev hstays => ?_, fun e he s d a b sh x h hcheck hdev hstays => ?_⟩,
    fun s ea ps d size signed nol1 => ⟨fun p k v hps hlane hnear => ?_, fun p k hps hfar hahead => ?_,
      fun q hq hfar hahead => loadPieces_ahead hq hfar hahead ea _ _ _⟩⟩
  · rw [exec_ldForms e he]
    exact loadOffset_loads hdev hstays h hcheck
  · rw [exec_ldxForms e he]
    exact loadIndex_loads hdev hstays h hcheck
  · subst hps
    exact loadPieces_near ea hlane hnear
  · subst hps
    exact loadPieces_far ea hfar hahead

end

end

section
/-!
Vector loads and stores (R211, R217, R218): a vector access is made on its active lanes, or on none.
-/

namespace Sys2Proof.Machine

variable {s : State} {v : VReg} {regs : List GReg} {size : Nat} (ls : State → List (Nat × Dword))

theorem withLanes_nil (r w : Bool) (f : List (Piece × Nat) → State) : s.withLanes size r w [] f = s.retire := rfl

/-- A vector load by its lanes: none, or those that its check gives. -/
theorem vectorLoad_cases (h : s.admits { nol1 := true, roam := true } regs = true) (spread : Bool) :
    (ls s = [] → vectorLoad v regs size spread ls s = .next s.retire) ∧
    (∀ xs, ls s ≠ [] → s.checkLanes size true false true (ls s) = .ok xs → vectorLoad v regs size spread ls s =
      .next (s.loadPieces (((ls s).headD (0, 0)).2) xs (.lanes v size) false s.cur.nol1 (!spread || fewSectors xs))) := by
  refine ⟨fun hnone => (issue_admits h _).trans (next_eq ?_), fun xs hsome hcheck => (issue_admits h _).trans (next_eq ?_)⟩
  · dsimp only
    rw [hnone, withLanes_nil]
  · exact withLanes_ok hsome _ hcheck

/-- A vector store by its lanes: none, or those that its check gives, each with its element. -/
theorem vectorStore_cases (h : s.admits { roam := true } regs = true) :
    (ls s = [] → vectorStore v regs size ls s = .next s.retire) ∧
    (∀ xs, ls s ≠ [] → s.checkLanes size false true true (ls s) = .ok xs →
      let ps := xs.map fun x => (x, laneOf s.cur.v[v] size x.1.lane)
      vectorStore v regs size ls s = .next (s.storeReqs (((ls s).headD (0, 0)).2) (vectorReqs ps)
        (ps.map fun p => { bytes := atAddrs p.1.1.pa (leBytes size p.2), key := p.1.2, ea := p.1.1.va, lane := p.1.1.lane }) false)) := by
  refine ⟨fun hnone => (issue_admits h _).trans (next_eq ?_), fun xs hsome hcheck => (issue_admits h _).trans (next_eq ?_)⟩
  · dsimp only
    rw [hnone, withLanes_nil]
  · exact withLanes_ok hsome _ hcheck

end Sys2Proof.Machine

section

open Sys2Proof Sys2Proof.Machine

/-- Settles O13: each form is a vector load or store of its lanes, and VBCLD is a load of one lane. -/
theorem vectorMemoryResults : Obligations.VectorMemoryResults := by
  refine ⟨fun s v x a b k e => ?_, fun s v x a b k e => ?_, fun s v a b e xs h hcheck => ?_⟩
  · simp only [List.forall_mem_cons]
    exact ⟨fun h => vectorLoad_cases (·.unitLanes a b k) h false, fun h => vectorLoad_cases (·.strideLanes a b (esize e) k) h true,
      fun h => vectorLoad_cases (·.indexLanes a x (esize e) k) h true, List.forall_mem_nil _⟩
  · simp only [List.forall_mem_cons]
    exact ⟨fun h => vectorStore_cases (·.unitLanes a b k) h, fun h => vectorStore_cases (·.strideLanes a b (esize e) k) h,
      fun h => vectorStore_cases (·.indexLanes a x (esize e) k) h, List.forall_mem_nil _⟩
  · exact (issue_admits h _).trans (next_eq (withLanes_ok (List.cons_ne_nil _ _) _ hcheck))

end

end

section
/-!
Atomics, reductions and fences (R141 to R143, R220 to R225): what an atomic or a reduction on a checked word sends, and what holds a fence.
-/

namespace Sys2Proof.Machine

variable {s : State} {d a b : GReg} {o : Order} {rel sz : Bool} {x : Access} {op : AluOp}

/-! ## Orders and sizes (R220) -/

theorem ordAcq_eq (o : Order) : ordAcq o = decide (o = .acq ∨ o = .ar) := by cases o <;> rfl

theorem ordRel_eq (o : Order) : ordRel o = decide (o = .rel ∨ o = .ar) := by cases o <;> rfl

/-- An integer ADD of size w is the one operation that a mailbox counter takes. -/
theorem countable_eq (op : AluOp) (sz : Bool) : (op == .add && atomicSize sz == 4) = (op == .add && !sz) := by cases sz <;> rfl

/-! ## AMO (R220 to R222) -/

/-- The state after the thread whose turn it is sends an atomic to the home of its word, past its acquire and its release. -/
def State.amoSent (s : State) (op : AluOp) (d : GReg) (ea : Dword) (x : Access) (size : Nat) (v cmp : Dword) (acq rel : Bool) : State :=
  let u := if acq then s.acquire s.focus.core else s
  let u := if rel then u.postOf s.cur.name else u
  let w := (u.wait { k := 3, a := ea, act := .data 1 [] (.gpr d size true) acq }).dropWords s.focus.core (wordsOf x.pa size)
  w.send ((if w.ownScratch s.focus.core x.pa then 20 else w.latency s.focus.core x.pa) / 2) (gpaPkg x.pa) (u.curOrigin.ticketed s.cur)
    (.atomic op x.pa size v cmp x.key rel)

theorem issueAmo_sends (hnet : s.netAdmits (gpaPkg x.pa) = true) (op : AluOp) (d : GReg) (ea : Dword) (size : Nat) (v cmp : Dword) (acq rel : Bool) :
    s.issueAmo op d ea x size v cmp acq rel = s.amoSent op d ea x size v cmp acq rel := viaNet_admits hnet _ _

theorem amo_sends (h : s.admits { ahead := false } [d, a, b] = true) (hcheck : s.checkCur (s.rg a) (atomicSize sz) true true = .ok x)
    (hfault : s.atomicFault x (op == .add && !sz) = none) (hstays : s.stays x.pa = true) (hnet : s.netAdmits (gpaPkg x.pa) = true) :
    amo op d a b o sz s = .next (s.amoSent op d (s.rg a) x (atomicSize sz) (low (atomicSize sz) (s.rg b)) (low (atomicSize sz) (s.rg d))
      (decide (o = .acq ∨ o = .ar)) (decide (o = .rel ∨ o = .ar))) := by
  refine (issue_admits h _).trans (next_eq ?_)
  dsimp only
  rw [countable_eq, atomicAccess_ok hcheck hfault, atOwner_stays hstays, issueAmo_sends hnet, ordAcq_eq, ordRel_eq]

/-- The atomics, each with the operation of its atomic unit (R220). -/
def amoForms : List ((GReg → GReg → GReg → Order → Bool → Instr) × AluOp) :=
  [(.amoAdd, .add), (.amoAnd, .and), (.amoOr, .or), (.amoXor, .xor), (.amoMin, .min), (.amoMax, .max), (.amoMinu, .minu), (.amoMaxu, .maxu),
    (.amoSwap, .swap), (.amoCas, .cas), (.amoFadd, .fadd), (.amoFmin, .fmin), (.amoFmax, .fmax)]

theorem exec_amoForms : ∀ e ∈ amoForms, ∀ d a b o sz s, exec (e.1 d a b o sz) s = amo e.2 d a b o sz s := by
  simp only [amoForms, List.forall_mem_cons]
  exact ⟨fun _ _ _ _ _ _ => rfl, fun _ _ _ _ _ _ => rfl, fun _ _ _ _ _ _ => rfl, fun _ _ _ _ _ _ => rfl, fun _ _ _ _ _ _ => rfl,
    fun _ _ _ _ _ _ => rfl, fun _ _ _ _ _ _ => rfl, fun _ _ _ _ _ _ => rfl, fun _ _ _ _ _ _ => rfl, fun _ _ _ _ _ _ => rfl,
    fun _ _ _ _ _ _ => rfl, fun _ _ _ _ _ _ => rfl, fun _ _ _ _ _ _ => rfl, List.forall_mem_nil _⟩

/-! ## RED (R143, R223) -/

/-- With 16 reductions pending, the next waits for room. -/
theorem issueRed_full (h : 16 ≤ s.cur.redpend) (what : RedWhat) (ea : Dword) (pa key : Nat) (rel byName : Bool) :
    s.issueRed what ea pa key rel byName = s.stallFor 5 0 0 .redRoom := if_pos h

/-- With room for it, a reduction through a leaf leaves and its thread goes on; the release form first posts the thread's gathered stores. -/
theorem issueRed_admits {pa : Nat} (hred : s.cur.redpend < 16) (hnet : s.netAdmits (gpaPkg pa) = true) (what : RedWhat) (ea : Dword) (key : Nat)
    (rel : Bool) : s.issueRed what ea pa key rel false =
      ((if rel then s.postOf s.cur.name else s).modCur fun t => Thread.retire { t with redpend := t.redpend + 1 }).sendReduce
        { s.curOrigin.ticketed s.cur with ea := ea } what pa key rel :=
  (if_neg (Nat.not_le.mpr hred)).trans (viaNet_admits hnet _ _)

section
variable (h : s.admits { ahead := false } [a, b] = true) (hcheck : s.checkCur (s.rg a) (atomicSize sz) true true = .ok x)
  (hfault : s.atomicFault x (op == .add && !sz) = none)
include h hcheck hfault

theorem red_checked : red op a b rel sz s =
    .next (s.issueRed (.alu op (atomicSize sz) (low (atomicSize sz) (s.rg b))) (s.rg a) x.pa x.key rel false) := by
  refine (issue_admits h _).trans (next_eq ?_)
  dsimp only
  rw [countable_eq, atomicAccess_ok hcheck hfault]

end

/-- The reductions, each with the operation of its atomic unit (R223). -/
def redForms : List ((GReg → GReg → Bool → Bool → Instr) × AluOp) :=
  [(.redAdd, .add), (.redAnd, .and), (.redOr, .or), (.redXor, .xor), (.redMin, .min), (.redMax, .max), (.redMinu, .minu), (.redMaxu, .maxu),
    (.redFadd, .fadd), (.redFmin, .fmin), (.redFmax, .fmax)]

theorem exec_redForms : ∀ e ∈ redForms, ∀ a b rel sz s, exec (e.1 a b rel sz) s = red e.2 a b rel sz s := by
  simp only [redForms, List.forall_mem_cons]
  exact ⟨fun _ _ _ _ _ => rfl, fun _ _ _ _ _ => rfl, fun _ _ _ _ _ => rfl, fun _ _ _ _ _ => rfl, fun _ _ _ _ _ => rfl, fun _ _ _ _ _ => rfl,
    fun _ _ _ _ _ => rfl, fun _ _ _ _ _ => rfl, fun _ _ _ _ _ => rfl, fun _ _ _ _ _ => rfl, fun _ _ _ _ _ => rfl, List.forall_mem_nil _⟩

/-! ## Fences (R142, R225) -/

section
variable (h : s.admits { ahead := false } [] = true)
include h

/-- RWAIT posts the thread's gathered stores before it looks at what is pending. -/
theorem rwait_cases : (s.cur.redpend = 0 → exec .rwait s = .next (s.postOf s.cur.name).retire) ∧
    (s.cur.redpend ≠ 0 → exec .rwait s = .next ((s.postOf s.cur.name).stallFor 5 0 0 .redZero)) :=
  ⟨fun hzero => (issue_admits h _).trans (next_eq (if_pos hzero)), fun hpending => (issue_admits h _).trans (next_eq (if_neg hpending))⟩

theorem fences_clear (hack : s.cur.storeAck = 0) (hred : s.cur.redpend = 0) :
    exec .fenceRel s = .next s.retire ∧ exec .fenceFull s = .next (s.acquire s.focus.core).retire :=
  ⟨(issue_admits h _).trans (next_eq (released_clear hack hred _)), (issue_admits h _).trans (next_eq (released_clear hack hred _))⟩

theorem fences_open (hopen : s.cur.storeAck ≠ 0 ∨ s.cur.redpend ≠ 0) :
    exec .fenceRel s = .next ((s.postOf s.cur.name).stallFor 4 0 0 .released) ∧
    exec .fenceFull s = .next ((s.postOf s.cur.name).stallFor 4 0 0 .released) :=
  ⟨(issue_admits h _).trans (next_eq (released_open hopen _)), (issue_admits h _).trans (next_eq (released_open hopen _))⟩

end

end Sys2Proof.Machine

section

open Sys2Proof Sys2Proof.Machine

/-- Settles O14: each atomic and each reduction is its operation on a checked word, and a fence goes by what its thread has under way. -/
theorem atomicResults : Obligations.AtomicResults := by
  refine ⟨fun e he s d a b o sz x h hcheck hfault hstays hnet => ?_, fun e he s a b rel sz x h hcheck hfault => ?_,
    fun s h => ⟨issue_admits h _, fences_clear h, fences_open h, rwait_cases h⟩⟩
  · rw [exec_amoForms e he]
    exact amo_sends h hcheck hfault hstays hnet
  · rw [exec_redForms e he, red_checked h hcheck hfault]
    exact ⟨fun hred hnet => next_eq (issueRed_admits hred hnet _ _ _ _), fun hfull => next_eq (issueRed_full hfull _ _ _ _ _ _)⟩

end

end

section
/-!
Watches, sleep and timers (R226 to R232): what WATCH and UNWATCH leave in a watch register, which bits WFIRED reads and clears, when SLEEP leaves the rotation,
and which timer TMARM takes.
-/

namespace Sys2Proof.Machine

variable {s : State} {d a b : GReg} {w : WReg} {m : BitVec 4} {x : Access}

/-! ## WATCH and UNWATCH (R227, R228) -/

/-- A watch on a line of this package is registered within the turn where the thread's own scratchpad holds the line, and elsewhere by its home. -/
theorem watch_arms (h : s.admits { roam := true, ahead := false } [a] = true) :
    let ea := BitVec.ofNat 64 ((s.rg a).toNat / 256 * 256)
    s.checkCur ea 1 true false = .ok x → isDevice x.pa = false → gpaPkg x.pa = s.pkg →
    let u := (s.withdraw s.cur.name w).modCur fun t => t.ww w (watchWord m ea)
    exec (.watch w a m) s = .next
      (if s.ownScratch s.focus.core x.pa then (u.register s.cur.name s.focus.core w (x.pa / 256) m).retire
       else (u.wait { k := 14, a := ea, act := .done 0 }).post (s.latency s.focus.core x.pa / 2) u.curOrigin (.arm w (x.pa / 256) m x.key none)) := by
  intro ea hcheck hdev hpkg u
  have hplace : ¬ (isDevice x.pa = true ∨ gpaPkg x.pa ≠ s.pkg) := by simp [hdev, hpkg]
  exact (issue_admits h _).trans (next_eq ((withAccess_ok hcheck _).trans (if_neg hplace)))

/-- Clearing ARMED and FIRED keeps the low 62 bits of a watch register. -/
theorem low62_eq_and (x : Dword) : BitVec.ofNat 64 (x.toNat % 2 ^ 62) = x &&& 0x3FFFFFFFFFFFFFFF := by
  apply BitVec.eq_of_toNat_eq
  rw [BitVec.toNat_and, BitVec.toNat_ofNat, Nat.mod_eq_of_lt (by omega)]
  exact (Nat.and_two_pow_sub_one_eq_mod x.toNat 62).symm

theorem unwatch_disarms (h : s.admits { roam := true, ahead := false } [] = true) :
    exec (.unwatch w) s = .next ((s.withdraw s.cur.name w).modCur fun t =>
      Thread.retire { t with w := t.w.set w.val (t.w[w] &&& 0x3FFFFFFFFFFFFFFF) w.isLt }) := by
  simp only [← low62_eq_and]
  exact issue_admits h _

/-! ## WFIRED (R230) -/

/-- The bits of WFIRED's value, from the lowest: FIRED of the four watch registers, then ARMED. -/
def Thread.watchBits (t : Thread) : List Bool :=
  [fired t.w[0], fired t.w[1], fired t.w[2], fired t.w[3], armed t.w[0], armed t.w[1], armed t.w[2], armed t.w[3]]

theorem ite_eq_mul_toNat (c : Bool) (k : Nat) : (if c then k else 0) = k * c.toNat := by
  cases c
  · rfl
  · exact (Nat.mul_one k).symm

theorem watchReg_getD (t : Thread) (i : Nat) (h : i < 4) : (t.w[i]?).getD 0 = t.w[i] := by
  rw [Vector.getElem?_eq_getElem h, Option.getD_some]

theorem toNat_ofBoolListLE_cons (b : Bool) (bs : List Bool) :
    (BitVec.ofBoolListLE (b :: bs)).toNat = (BitVec.ofBoolListLE bs).toNat * 2 + b.toNat := BitVec.toNat_concat _ _

/-- WFIRED's value is the number whose bits are those of the watch registers: each is added at its weight. -/
theorem firedWord_eq (t : Thread) : t.firedWord = (BitVec.ofBoolListLE t.watchBits).setWidth 64 := by
  have hrange : List.range 4 = [0, 1, 2, 3] := rfl
  have hnil : (BitVec.ofBoolListLE []).toNat = 0 := rfl
  apply BitVec.eq_of_toNat_eq
  rw [Thread.firedWord, BitVec.toNat_ofNat, BitVec.toNat_setWidth]
  refine congrArg (· % 2 ^ 64) ?_
  simp only [hrange, List.foldl_cons, List.foldl_nil, watchReg_getD t 0 (by decide), watchReg_getD t 1 (by decide), watchReg_getD t 2 (by decide),
    watchReg_getD t 3 (by decide), ite_eq_mul_toNat, Thread.watchBits, toNat_ofBoolListLE_cons, hnil]
  omega

theorem getLsbD_firedWord (t : Thread) (j : Nat) : t.firedWord.getLsbD j = (decide (j < 64) && t.watchBits.getD j false) := by
  rw [firedWord_eq, BitVec.getLsbD_setWidth, BitVec.getLsbD_ofBoolListLE]

theorem getLsbD_firedWord_fired (t : Thread) (j : Fin 4) : t.firedWord.getLsbD j.val = t.w[j].getLsbD 62 := by
  rw [getLsbD_firedWord]
  match j with
  | 0 | 1 | 2 | 3 => rfl

theorem getLsbD_firedWord_armed (t : Thread) (j : Fin 4) : t.firedWord.getLsbD (4 + j.val) = t.w[j].getLsbD 63 := by
  rw [getLsbD_firedWord]
  match j with
  | 0 | 1 | 2 | 3 => rfl

theorem getLsbD_firedWord_high (t : Thread) {j : Nat} (h : 8 ≤ j) : t.firedWord.getLsbD j = false := by
  have hout : t.watchBits[j]? = none := List.getElem?_eq_none h
  rw [getLsbD_firedWord, List.getD_eq_getElem?_getD, hout, Option.getD_none, Bool.and_false]

/-- A watch register with FIRED cleared. -/
def unfired (x : Dword) : Dword := x &&& ~~~(BitVec.ofNat 64 (2 ^ 62))

theorem getLsbD_unfired (x : Dword) (n : Nat) : (unfired x).getLsbD n = (x.getLsbD n && decide (n ≠ 62)) := by
  have hmask : (BitVec.ofNat 64 (2 ^ 62)).getLsbD n = decide (n = 62) := by
    rw [BitVec.getLsbD_ofNat, Nat.testBit_two_pow, ← Bool.decide_and, decide_eq_decide]
    omega
  unfold unfired
  rw [BitVec.getLsbD_and, BitVec.getLsbD_not, hmask]
  by_cases hn : n < 64
  · simp [hn]
  · simp [BitVec.getLsbD_of_ge x n (by omega)]

/-- What WFIRED makes of its thread, before it completes. -/
def Thread.readFired (t : Thread) (d : GReg) : Thread := { t.wg d t.firedWord with w := t.w.map unfired }

theorem wfired_reads (h : s.admits { ahead := false } [d] = true) : exec (.wfired d) s = .next (s.setCur (s.cur.readFired d).retire) :=
  issue_admits h _

theorem rg_readFired (t : Thread) (d r : GReg) : (t.readFired d).rg r = if r = d ∧ d ≠ 0 then t.firedWord else t.rg r := rg_wg t d r t.firedWord

theorem w_readFired (t : Thread) (d : GReg) (j : Fin 4) : (t.readFired d).w[j] = unfired t.w[j] := Vector.getElem_map _ _

theorem readFired_frame (t : Thread) (d : GReg) : t.readFired d = { t with g := (t.readFired d).g, w := (t.readFired d).w } := by
  unfold Thread.readFired Thread.wg
  split <;> rfl

/-- WFIRED reads the FIRED and ARMED bits into gd and clears the FIRED bits, and nothing else of its thread changes. -/
theorem wfired_spec (h : s.admits { ahead := false } [d] = true) :
    ∃ u : Thread, exec (.wfired d) s = .next (s.setCur u.retire) ∧
      (∀ r : GReg, r ≠ d ∨ d = 0 → u.rg r = s.cur.rg r) ∧
      (d ≠ 0 → (∀ j : Fin 4, (u.rg d).getLsbD j.val = s.cur.w[j].getLsbD 62 ∧ (u.rg d).getLsbD (4 + j.val) = s.cur.w[j].getLsbD 63) ∧
        ∀ j, 8 ≤ j → (u.rg d).getLsbD j = false) ∧
      (∀ j : Fin 4, u.w[j].getLsbD 62 = false ∧ ∀ n, n ≠ 62 → u.w[j].getLsbD n = s.cur.w[j].getLsbD n) ∧
      u = { s.cur with g := u.g, w := u.w } := by
  refine ⟨s.cur.readFired d, wfired_reads h, fun r hr => ?_, fun hd => ?_, fun j => ?_, readFired_frame _ d⟩
  · rw [rg_readFired, if_neg fun hsame => hr.elim (· hsame.1) hsame.2]
  · rw [rg_readFired, if_pos ⟨rfl, hd⟩]
    exact ⟨fun j => ⟨getLsbD_firedWord_fired _ j, getLsbD_firedWord_armed _ j⟩, fun j => getLsbD_firedWord_high _⟩
  · rw [w_readFired]
    exact ⟨by rw [getLsbD_unfired]; simp, fun n hn => by simp [getLsbD_unfired, hn]⟩

/-! ## SLEEP (R229, R231) -/

section
variable (h : s.admits { roam := true, ahead := false } [a] = true)
include h

/-- A thread whose watch has fired does not sleep, nor does one that nothing would wake. -/
theorem sleep_completes (hwake : s.cur.w.toList.any (fun w => armed w && fired w) = true ∨
    s.cur.w.toList.any armed = false ∧ (s.rg a).toNat = 0) : exec (.sleep a) s = .next s.retire := by
  refine (issue_admits h _).trans (next_eq ?_)
  by_cases hfired : s.cur.w.toList.any (fun w => armed w && fired w) = true
  · exact if_pos hfired
  · obtain ⟨harmed, hnever⟩ := hwake.resolve_left hfired
    exact (if_neg hfired).trans (if_pos ⟨by rw [harmed]; rfl, hnever⟩)

section
variable (hfired : s.cur.w.toList.any (fun w => armed w && fired w) = false)
include hfired

/-- A thread that nothing has woken yet leaves the rotation, past its SLEEP. -/
theorem sleep_leaves (hwakes : ¬ ((!(s.cur.w.toList.any armed)) = true ∧ (s.rg a).toNat = 0)) :
    exec (.sleep a) s = .next (
      let dl := if (s.rg a).toNat = 0 then 0 else s.cycle + (s.rg a).toNat
      let u := s.modCur fun t => { t.retire.leave .sleeping { k := 9, act := .sleep, first := s.nextId } with deadline := dl, sleptAt := s.cycle }
      if (s.rg a).toNat = 0 then u else u.notice dl .sleepTimeout { name := s.cur.name }) :=
  (issue_admits h _).trans (next_eq ((if_neg (Bool.eq_false_iff.mp hfired)).trans (if_neg hwakes)))

theorem sleep_untimed (harmed : s.cur.w.toList.any armed = true) (hnever : (s.rg a).toNat = 0) :
    exec (.sleep a) s = .next (s.modCur fun t =>
      { t.retire.leave .sleeping { k := 9, act := .sleep, first := s.nextId } with deadline := 0, sleptAt := s.cycle }) := by
  rw [sleep_leaves h hfired (by simp [harmed])]
  simp only [if_pos hnever]

theorem sleep_timed (hdeadline : (s.rg a).toNat ≠ 0) :
    exec (.sleep a) s = .next ((s.modCur fun t =>
      { t.retire.leave .sleeping { k := 9, act := .sleep, first := s.nextId } with deadline := s.cycle + (s.rg a).toNat, sleptAt := s.cycle }).notice
        (s.cycle + (s.rg a).toNat) .sleepTimeout { name := s.cur.name }) := by
  rw [sleep_leaves h hfired fun hw => hdeadline hw.2]
  simp only [if_neg hdeadline]

end

end

/-! ## TMARM (R232) -/

/-- The free timer that a core takes is the lowest. -/
theorem freeTimer_lowest {c : Core} {i : Nat} (hi : i < 64) (hfree : Assoc.look c.timers i = none)
    (hlower : ∀ j < i, Assoc.look c.timers j ≠ none) : c.freeTimer = some i := by
  unfold Core.freeTimer
  rw [List.find?_range_eq_some]
  refine ⟨by rw [hfree]; rfl, List.mem_range.mpr hi, fun j hj => ?_⟩
  simpa [Option.isSome_iff_ne_none] using hlower j hj

theorem freeTimer_none {c : Core} (h : ∀ i < 64, Assoc.look c.timers i ≠ none) : c.freeTimer = none := by
  unfold Core.freeTimer
  refine List.find?_eq_none.mpr fun i hi => ?_
  simpa using h i (List.mem_range.mp hi)

/-- A core keeps its threads where its contexts stand. -/
theorem thread_setCore_of_ctxs {i : Nat} {c : Core} (h : c.ctxs = (s.core i).ctxs) (core ctx : Nat) :
    (s.setCore i c).thread core ctx = s.thread core ctx := by
  unfold State.thread
  by_cases hi : core = i
  · subst hi
    rw [core_setCore_same, h]
  · rw [core_setCore_other s _ hi]

/-- An access whose check passes is made, with the tile test or without it. -/
theorem withAccess_place {ea : Dword} {size : Nat} {r w tile : Bool} (h : s.checkCur ea size r w tile = .ok x) (f : Access → State) :
    s.withAccess ea size r w f tile = f x := by
  unfold State.withAccess
  rw [h]

section
variable (h : s.admits { ahead := false } [a, b] = true) (hcheck : s.checkCur (s.rg a) 32 false true (tile := false) = .ok x)
  (hdev : isDevice x.pa = false) (hpkg : gpaPkg x.pa = s.pkg)
include h hcheck hdev hpkg

theorem tmarm_full (hfull : (s.core s.focus.core).freeTimer = none) : exec (.tmarm a b) s = .next (s.stallFor 14 (s.rg a) 0 .timerRoom) := by
  have hplace : ¬ (isDevice x.pa = true ∨ gpaPkg x.pa ≠ s.pkg) := by simp [hdev, hpkg]
  refine (issue_admits h _).trans (next_eq ((withAccess_place hcheck _).trans ((if_neg hplace).trans ?_)))
  dsimp only
  rw [hfull]

theorem tmarm_takes {i : Nat} (hfree : (s.core s.focus.core).freeTimer = some i) :
    let c := s.focus.core
    let e : Timer := { target := (s.rg b).toNat, pa := x.pa, key := x.key, name := s.cur.name, job := s.cur.job.setWidth 32, since := s.nextId }
    exec (.tmarm a b) s = .next (((s.setCore c { s.core c with timers := Assoc.insert (s.core c).timers i e }).notice
      (max (s.cycle + 1) (s.rg b).toNat) .timerRecord { a := c, b := i }).retire) := by
  intro c e
  have hplace : ¬ (isDevice x.pa = true ∨ gpaPkg x.pa ≠ s.pkg) := by simp [hdev, hpkg]
  have htarget : (s.setCore c { s.core c with timers := Assoc.insert (s.core c).timers i e }).rg b = s.rg b :=
    congrArg (Thread.rg · b) (thread_setCore_of_ctxs (c := { s.core c with timers := Assoc.insert (s.core c).timers i e }) rfl c s.focus.ctx)
  rw [← htarget]
  refine (issue_admits h _).trans (next_eq ((withAccess_place hcheck _).trans ((if_neg hplace).trans ?_)))
  dsimp only
  rw [hfree]
  rfl

end

end Sys2Proof.Machine

section

open Sys2Proof Sys2Proof.Machine

/-- Settles O24, instruction by instruction: WATCH and TMARM go by their checked place, SLEEP by the watch registers and its deadline. -/
theorem watchResults : Obligations.WatchResults := by
  refine ⟨⟨fun s w a m x h => watch_arms h, fun s w h => unwatch_disarms h, fun s d h _ => wfired_spec h⟩, fun s a h => ?_,
    fun s a b x h hcheck hdev hpkg => ⟨fun i hi hfree hlower => ?_, fun hfull => ?_⟩⟩
  · exact ⟨sleep_completes h, sleep_untimed h, sleep_timed h⟩
  · exact tmarm_takes h hcheck hdev hpkg (freeTimer_lowest hi hfree hlower)
  · exact tmarm_full h hcheck hdev hpkg (freeTimer_none hfull)

/-- Settles O25: an anchored thread reads and clears as any other. -/
theorem wfiredReadsAndClears : Obligations.WfiredReadsAndClears := fun _ _ h _ => wfired_spec h

end

end

section
/-!
Transaction barriers (R233 to R237): where a barrier may lie, what TBINIT, TBEXPECT and TBARRIVE send, and when TBWAIT completes.
-/

namespace Sys2Proof.Machine

variable {s : State} {a b : GReg} {p : BitVec 4} {x : Access} {ea : Dword} {w : Bool}

/-! ## The place of a barrier (R93, R233) -/

theorem barrierAccess_elsewhere (hcheck : s.checkCur ea 16 true w = .ok x)
    (hplace : (ownerCore (gpaLocal x.pa)).isNone = true ∨ isMailbox (gpaLocal x.pa) = true) (f : Access → State) :
    s.barrierAccess ea w f = s.raise 0x15 0 (BitVec.ofNat 64 (gpaLocal x.pa)) 0 :=
  (withAccess_ok hcheck _).trans (if_pos hplace)

/-- The bytes of a value that is not empty begin at its address. -/
theorem atAddrs_leBytes_head (pa n v : Nat) : ((atAddrs pa (leBytes (n + 1) v)).headD (0, 0)).1 = pa := by
  simp [atAddrs, addrs, leBytes, List.range_succ_eq_map]

section
variable (hscratch : (ownerCore (gpaLocal x.pa)).isSome = true) (hmail : isMailbox (gpaLocal x.pa) = false)
include hscratch hmail

theorem barrierAccess_scratch (hcheck : s.checkCur ea 16 true w = .ok x) (f : Access → State) : s.barrierAccess ea w f = f x := by
  have hplace : ¬ ((ownerCore (gpaLocal x.pa)).isNone = true ∨ isMailbox (gpaLocal x.pa) = true) := by
    simp [hmail, Option.ne_none_iff_isSome, hscratch]
  exact (withAccess_ok hcheck _).trans (if_neg hplace)

/-! ## TBINIT, TBEXPECT and TBARRIVE (R234 to R236) -/

section
variable (hcheck : s.checkCur (s.rg a) 16 true true = .ok x)
include hcheck

theorem tbinit_refused (h : s.admits { ahead := false } [a, b] = true) (hcount : 0x7FFFFF < (s.rg b).toNat ∨ (s.rg b).toNat = 0) :
    exec (.tbinit a b) s = .next (s.raise 0x15 0 (s.rg b) 0) :=
  (issue_admits h _).trans (next_eq ((barrierAccess_scratch hscratch hmail hcheck _).trans (if_pos (by omega))))

/-- TBINIT stores the 16 bytes of a new barrier, posted at once. -/
theorem tbinit_stores (h : s.admits { ahead := false } [a, b] = true) (hlow : 1 ≤ (s.rg b).toNat) (hhigh : (s.rg b).toNat ≤ 0x7FFFFF)
    (hstays : s.stays x.pa = true) (hbank : s.cur.bank = none) (hack : s.cur.storeAck < 64) (hnet : s.netAdmits (gpaPkg x.pa) = true) :
    exec (.tbinit a b) s = .next ((s.modCur fun t => Thread.retire { t with storeAck := t.storeAck + 1 }).sendStore
      { s.curOrigin.ticketed s.cur with ea := s.rg a } (atAddrs x.pa (leBytes 16 (TBar.init (s.rg b).toNat).toNat)) x.key true false) := by
  refine (issue_admits h _).trans (next_eq ((barrierAccess_scratch hscratch hmail hcheck _).trans ((if_neg (by omega)).trans ?_)))
  rw [atOwner_stays hstays]
  exact storeReqs_one hbank hack (by rw [atAddrs_leBytes_head]; exact hnet) rfl _ _ _

theorem tbexpect_refused (h : s.admits { ahead := false } [a, b] = true) (hcount : 0x7FFFFFFF < (s.rg b).toNat) :
    exec (.tbexpect a b) s = .next (s.raise 0x15 0 (s.rg b) 0) :=
  (issue_admits h _).trans (next_eq ((barrierAccess_scratch hscratch hmail hcheck _).trans (if_pos hcount)))

theorem tbexpect_reduces (h : s.admits { ahead := false } [a, b] = true) (hcount : (s.rg b).toNat ≤ 0x7FFFFFFF) (hred : s.cur.redpend < 16)
    (hnet : s.netAdmits (gpaPkg x.pa) = true) :
    exec (.tbexpect a b) s = .next ((s.modCur fun t => Thread.retire { t with redpend := t.redpend + 1 }).sendReduce
      { s.curOrigin.ticketed s.cur with ea := s.rg a } (.expect (s.rg b).toNat) x.pa x.key false) :=
  (issue_admits h _).trans (next_eq ((barrierAccess_scratch hscratch hmail hcheck _).trans ((if_neg (Nat.not_lt.mpr hcount)).trans
    (issueRed_admits hred hnet _ _ _ false))))

/-- TBARRIVE is a reduction in its release form. -/
theorem tbarrive_reduces (h : s.admits { ahead := false } [a] = true) (hred : s.cur.redpend < 16) (hnet : s.netAdmits (gpaPkg x.pa) = true) :
    exec (.tbarrive a) s = .next (((s.postOf s.cur.name).modCur fun t => Thread.retire { t with redpend := t.redpend + 1 }).sendReduce
      { s.curOrigin.ticketed s.cur with ea := s.rg a } .arrive x.pa x.key true) :=
  (issue_admits h _).trans (next_eq ((barrierAccess_scratch hscratch hmail hcheck _).trans (issueRed_admits hred hnet _ _ _ true)))

end

/-! ## TBWAIT (R237) -/

section
variable (h : s.admits { ahead := false } [a] = true) (hcheck : s.checkCur (s.rg a) 16 true false = .ok x) (hstays : s.stays x.pa = true)
include h hcheck hstays

/-- TBWAIT on a barrier of this package that may be read tests it as it stands at its home. -/
theorem tbwait_tests (hpkg : gpaPkg x.pa = s.pkg) (hreset : s.tileStateAt (gpaLocal x.pa) ≠ .reset)
    (hpoison : ∀ y ∈ addrs (gpaLocal x.pa) 16, s.poisoned y = false) :
    let u := s.countRedirect (gpaLocal x.pa)
    u.ownAhead u.cur.name (.barrier (gpaLocal x.pa) p) = false →
    let b := TBar.ofNat (u.val (gpaLocal x.pa) 16 0)
    exec (.tbwait a p) s = .next (u.watchWait (b.fault || b.phase != p.toNat) .waiting x.pa
      { k := 8, a := s.rg a, v := p.setWidth 64, act := .barrier (gpaLocal x.pa) p }) := by
  intro u hahead b
  refine (issue_admits h _).trans (next_eq ((barrierAccess_scratch hscratch hmail hcheck _).trans ?_))
  rw [atOwner_stays hstays, if_neg (not_not_intro hpkg)]
  dsimp only
  rw [withWatched_readable hreset hpoison, watchedValue_of_not_ownAhead hahead]

/-- TBWAIT on a barrier of another package leaves the rotation, and its home answers. -/
theorem tbwait_far (hpkg : gpaPkg x.pa ≠ s.pkg) :
    let u := s.postOf s.cur.name
    exec (.tbwait a p) s = .next ((u.modCur fun t =>
      { t.leave .waiting { k := 8, a := s.rg a, v := p.setWidth 64, act := .far, first := u.nextId } with sleptAt := u.cycle }).send
        (u.latency u.focus.core x.pa / 2) (gpaPkg x.pa) { u.curOrigin with ea := s.rg a }
        (.await (.barrier (gpaLocal x.pa) p) x.pa x.key false false)) := by
  refine (issue_admits h _).trans (next_eq ((barrierAccess_scratch hscratch hmail hcheck _).trans ?_))
  rw [atOwner_stays hstays, if_pos hpkg]
  rfl

end

end

/-- A satisfied wait on words of another scratchpad completes when its read has made the way there and back. -/
theorem watchWait_met_far {pa : Nat} (hown : s.ownScratch s.focus.core pa = false) (w : Wait) :
    s.watchWait true .waiting pa w = ((s.postOf s.cur.name).modCur fun t =>
      { t.leave .waiting { w with first := s.nextId } with sleptAt := s.cycle }).post (s.latency s.focus.core pa) s.curOrigin (.value 0) := by
  unfold State.watchWait
  simp only [hown]
  rfl

/-- A barrier whose phase differs, or with FAULT set, satisfies a wait (R237). -/
theorem barrier_met {t : TBar} (h : t.fault = true ∨ t.phase ≠ p.toNat) : (t.fault || t.phase != p.toNat) = true := by simpa using h

theorem barrier_unmet {t : TBar} (hfault : t.fault = false) (hphase : t.phase = p.toNat) : (t.fault || t.phase != p.toNat) = false := by
  simp [hfault, hphase]

end Sys2Proof.Machine

section

open Sys2Proof Sys2Proof.Machine

/-- Settles O26, instruction by instruction: each goes through the place of its barrier, and TBWAIT through the test of its phase. -/
theorem barrierResults : Obligations.BarrierResults := by
  refine ⟨fun s a b x hscratch hmail hcheck => ⟨fun h => ⟨?_, ?_, ?_, ?_⟩, tbarrive_reduces hscratch hmail hcheck⟩,
    fun s a p x h hcheck hscratch hmail hstays hpkg hreset hpoison => ?_,
    fun s a p x h hcheck hscratch hmail hstays => tbwait_far hscratch hmail h hcheck hstays, fun s a b p x hplace => ⟨fun hcheck => ?_, fun hcheck h => ?_⟩⟩
  · exact tbinit_stores hscratch hmail hcheck h
  · exact tbexpect_reduces hscratch hmail hcheck h
  · exact tbinit_refused hscratch hmail hcheck h
  · exact tbexpect_refused hscratch hmail hcheck h
  · intro u hahead b left
    have htest : exec (.tbwait a p) s = .next (u.watchWait (b.fault || b.phase != p.toNat) .waiting _ _) :=
      tbwait_tests hscratch hmail h hcheck hstays hpkg hreset hpoison hahead
    refine ⟨fun hmet hown hheld => ?_, fun hmet hown => ?_, fun hfault hphase hheld => ?_⟩
    · rw [barrier_met hmet] at htest
      exact htest.trans (next_eq (watchWait_met hown hheld _ _))
    · rw [barrier_met hmet] at htest
      exact htest.trans (next_eq (watchWait_met_far hown _))
    · rw [barrier_unmet hfault hphase] at htest
      exact htest.trans (next_eq (watchWait_unmet hheld _ _))
  · exact ⟨fun h => ⟨(issue_admits h _).trans (next_eq (barrierAccess_elsewhere hcheck hplace _)),
      (issue_admits h _).trans (next_eq (barrierAccess_elsewhere hcheck hplace _))⟩,
      fun h => (issue_admits h _).trans (next_eq (barrierAccess_elsewhere hcheck hplace _))⟩
  · exact (issue_admits h _).trans (next_eq (barrierAccess_elsewhere hcheck hplace _))

end

end

section
/-!
Float lanes and the rounding of representable values (R101, R103, R246): a finite pattern is its sign bit, an exponent step and an integer significand,
and rounding puts those back, exactly and with no flag; the operations on floats are lane-wise, each with its operation of the format.
-/

namespace Sys2Proof.Machine

/-! ## The parts of a finite pattern (R101) -/

section

variable {f : FFmt} {x m : Nat} {neg : Bool} {e : Int}

theorem signBit_add_unsigned (h : x < 2 ^ f.width) : f.signBit (f.negative x) + f.unsigned x = x := by
  have hx : x < 2 ^ (f.eb + f.mb) * 2 := by
    rwa [show f.width = f.eb + f.mb + 1 by unfold FFmt.width; omega, Nat.pow_succ] at h
  have hdiv : x / 2 ^ (f.eb + f.mb) < 2 := Nat.div_lt_of_lt_mul hx
  have hparts := Nat.div_add_mod x (2 ^ (f.eb + f.mb))
  unfold FFmt.signBit FFmt.negative FFmt.unsigned
  generalize x / 2 ^ (f.eb + f.mb) = top at hdiv hparts
  obtain rfl | rfl : top = 0 ∨ top = 1 := by omega
  · simpa using hparts
  · simpa using hparts

/-- A finite pattern is k steps of the exponent above the least subnormal's and a significand: a subnormal at step 0, or a normal whose exponent is not
the greatest. -/
theorem parts_of_fin (h : f.decode x = .fin neg m e) :
    neg = f.negative x ∧ ∃ k : Nat, f.unsigned x = k * 2 ^ f.mb + m ∧ e = f.quantum + k ∧
      (k = 0 ∧ m < 2 ^ f.mb ∨ k + 2 < 2 ^ f.eb ∧ 2 ^ f.mb ≤ m ∧ m < 2 ^ (f.mb + 1)) := by
  have hfr : x % 2 ^ f.mb < 2 ^ f.mb := Nat.mod_lt _ (Nat.two_pow_pos _)
  have hlt : x / 2 ^ f.mb % 2 ^ f.eb < 2 ^ f.eb := Nat.mod_lt _ (Nat.two_pow_pos _)
  have hparts : f.unsigned x = x / 2 ^ f.mb % 2 ^ f.eb * 2 ^ f.mb + x % 2 ^ f.mb := by
    rw [← unsigned_exponent, ← unsigned_fraction, Nat.div_add_mod']
  unfold FFmt.decode at h
  dsimp only at h
  split at h
  · split at h <;> cases h
  · next hfinite =>
    split at h
    · next hzero =>
      obtain ⟨rfl, rfl, rfl⟩ := FVal.fin.inj h
      rw [hzero] at hparts
      exact ⟨rfl, 0, hparts, (Int.add_zero _).symm, .inl ⟨rfl, hfr⟩⟩
    · next hpos =>
      obtain ⟨rfl, rfl, rfl⟩ := FVal.fin.inj h
      obtain ⟨k, hk⟩ := Nat.exists_eq_succ_of_ne_zero hpos
      rw [hk] at hparts hlt hfinite ⊢
      have hquantum : f.quantum = 1 - (f.bias : Int) - f.mb := rfl
      refine ⟨rfl, k, ?_, by omega, .inr ⟨by omega, Nat.le_add_right _ _, ?_⟩⟩
      · rw [hparts, Nat.succ_mul, Nat.add_assoc]
      · rw [Nat.pow_succ]
        omega

/-! ## Rounding a value that the format holds (R103, R107, R108) -/

/-- A value in units of the quantum that it is rounded at stands. -/
theorem roundAt_same (rm : Rm) (neg : Bool) (m : Nat) (e : Int) (rest : Bool) : roundAt rm neg m e e rest = (m, rest) := by
  unfold roundAt
  rw [if_pos (Int.le_refl e), Int.sub_self, Int.toNat_zero, Nat.pow_zero, Nat.mul_one]

/-- The step of a normal pattern is at most that of the greatest finite value. -/
theorem step_le_bias {k : Nat} (h : k + 2 < 2 ^ f.eb) : k + 1 ≤ 2 * f.bias := by
  unfold FFmt.bias
  cases heb : f.eb with
  | zero =>
    rw [heb] at h
    omega
  | succ n =>
    rw [heb, Nat.pow_succ] at h
    rw [Nat.add_sub_cancel]
    omega

/-- The parts of a finite pattern are packed into the pattern. -/
theorem pack_parts {k : Nat} (hrange : k = 0 ∧ m < 2 ^ f.mb ∨ 2 ^ f.mb ≤ m ∧ m < 2 ^ (f.mb + 1)) :
    f.pack neg m (f.quantum + k) = f.signBit neg + (k * 2 ^ f.mb + m) := by
  unfold FFmt.pack
  rcases hrange with ⟨rfl, hm⟩ | ⟨hlow, hhigh⟩
  · rw [if_pos hm, Nat.zero_mul, Nat.zero_add]
  · have hquantum : f.quantum = 1 - (f.bias : Int) - f.mb := rfl
    have hexp : (f.quantum + k + f.mb + f.bias).toNat = k + 1 := by omega
    rw [if_neg (Nat.not_lt.mpr hlow)]
    simp only [if_pos hhigh, hexp, Nat.succ_mul]
    omega

/-- The value of a pattern rounds to the pattern, exactly. -/
theorem round_decode (rm : Rm) (hx : x < 2 ^ f.width) (h : f.decode x = .fin neg m e) : f.round rm neg m e false = (x, {}) := by
  obtain ⟨rfl, k, hunsigned, rfl, hrange⟩ := parts_of_fin h
  have hsum := signBit_add_unsigned hx
  rw [hunsigned] at hsum
  unfold FFmt.round
  split
  · next hm =>
    have hk : k = 0 := by
      have := Nat.two_pow_pos f.mb
      omega
    rw [hk, hm, Nat.zero_mul] at hsum
    exact Prod.ext hsum rfl
  · next hm =>
    have hemin : f.emin = 1 - (f.bias : Int) := rfl
    have hquantum : f.quantum = f.emin - f.mb := rfl
    have hlog : k = 0 ∧ Nat.log2 m < f.mb ∨ k + 1 ≤ 2 * f.bias ∧ Nat.log2 m = f.mb :=
      hrange.imp (.imp_right (Nat.log2_lt hm).mpr) fun ⟨hk, hbits⟩ => ⟨step_le_bias hk, (Nat.log2_eq_iff hm).mpr hbits⟩
    have hplace : max (f.quantum + k + Nat.log2 m - f.mb) (f.emin - f.mb) = f.quantum + k := by omega
    have hfits : ¬ ((f.bias : Int) < f.quantum + k + Nat.log2 m ∧ m ≠ 0) := by omega
    simp only [hplace, roundAt_same, if_neg hfits, pack_parts (hrange.imp_right And.right), hsum, Bool.and_false]

end

/-! ## Lane-wise operations on floats (R246) -/

section

variable {t : VTy} {f : FFmt}

theorem floatOp_float (h : vfloat t = some f) (ff : FFmt → LaneOp) : floatOp t ff = some (ff f) := congrArg (Option.map ff) h

theorem vunsigned_of_float (h : vfloat t = some f) : vunsigned t = false := by
  cases t
  case f64 | f32 | bf16 | f16 => rfl
  all_goals cases h

theorem signedOp_float (h : vfloat t = some f) (ff : FFmt → LaneOp) (fi : (e a b : Nat) → Int) : signedOp t ff fi = some (ff f) := by
  unfold signedOp
  rw [vunsigned_of_float h]
  exact bothOp_float h ff fi

/-- An admitted operation on floats, with the register of its second operand and its operation in the mode at issue. -/
theorem exec_float {s : State} {i : Instr} {d a : VReg} {k : KReg} {op : Option LaneOp} {fop : LaneOp}
    (p : Instr × VReg × (Nat → Nat → Nat → Nat × Sticky)) (ht : vfloat t = some f) (h : s.admits { rmo := true, roam := true } [] = true)
    (hexec : exec p.1 s = laneWise i d a p.2.1 k t op s) (hop : op = some fop) (hmode : fop s.cur.issueRm = p.2.2) :
    exec p.1 s = .next (let th := s.cur
      let r := mapLanes (vsize t) (th.active k) th.v[d] fun j =>
        p.2.2 (laneOf th.v[a] (vsize t) j) (laneOf th.v[p.2.1] (vsize t) j) (laneOf th.v[d] (vsize t) j)
      s.modCur fun th => Thread.retire ((th.wv d r.1).orFlags r.2)) := by
  rw [hexec, hop, laneWise_admits (by rwa [ht]), ← hmode]

end

end Sys2Proof.Machine

section

open Sys2Proof Sys2Proof.Machine

/-- Settles O16: each operation is lane-wise with its operation of the format, and rounding puts the parts of a finite pattern back. -/
theorem vectorFloatResults : Obligations.VectorFloatResults := by
  refine ⟨fun s d a b k t f ht h => ?_, fun f rm x neg m e _ => round_decode rm⟩
  intro rm
  have hboth := bothOp_float ht
  have hfloat := floatOp_float ht
  have hsigned := signedOp_float ht
  iterate 3 refine List.forall_mem_cons.mpr ⟨exec_float _ ht h rfl (hboth _ _) rfl, ?_⟩
  iterate 2 refine List.forall_mem_cons.mpr ⟨exec_float _ ht h rfl (hfloat _) rfl, ?_⟩
  iterate 2 refine List.forall_mem_cons.mpr ⟨exec_float _ ht h rfl (hboth _ _) rfl, ?_⟩
  iterate 2 refine List.forall_mem_cons.mpr ⟨exec_float _ ht h rfl (hsigned _ _) rfl, ?_⟩
  refine List.forall_mem_cons.mpr ⟨exec_float _ ht h rfl (hfloat _) rfl, ?_⟩
  exact List.forall_mem_singleton.mpr (exec_float _ ht h rfl (hfloat _) rfl)

end

end

section
/-!
Comparisons of lanes (R247) and the tree of a reduction (R249): the mask of a comparison has the outcome of each active lane as its bit, a NaN settles a
comparison of floats, and a tree over twice the lanes is a node over the trees of the halves.
-/

namespace Sys2Proof.Machine

/-! ## The mask of a comparison (R247) -/

/-- A bit beyond a value is added to it. -/
theorem testBit_add_two_pow {v n : Nat} (hv : v < 2 ^ n) (b : Bool) (j : Nat) :
    (v + if b then 2 ^ n else 0).testBit j = (v.testBit j || (b && decide (n = j))) := by
  cases b with
  | false => simp
  | true =>
    have hor := Nat.two_pow_add_eq_or_of_lt hv 1
    rw [Nat.mul_one] at hor
    rw [if_pos rfl, Nat.add_comm, hor, Nat.testBit_or, Nat.testBit_two_pow, Bool.or_comm, Bool.true_and]

/-- One lane of a comparison: the outcome of an active lane is its bit, and its flags are ORed. -/
def compareLane (active : Nat → Bool) (f : Nat → Bool × Sticky) (r : Nat × Sticky) (i : Nat) : Nat × Sticky :=
  if active i then (r.1 + (if (f i).1 then 2 ^ i else 0), r.2.or (f i).2) else r

section

variable {active : Nat → Bool} {f : Nat → Bool × Sticky}

theorem value_compareLane (r : Nat × Sticky) (i : Nat) : (compareLane active f r i).1 = r.1 + if active i && (f i).1 then 2 ^ i else 0 := by
  unfold compareLane
  cases active i <;> rfl

/-- The lanes below n give the bits below n. -/
theorem bits_foldl_compareLane (fl : Sticky) (n : Nat) :
    ((List.range n).foldl (compareLane active f) (0, fl)).1 < 2 ^ n ∧
    ∀ j, ((List.range n).foldl (compareLane active f) (0, fl)).1.testBit j = (decide (j < n) && active j && (f j).1) := by
  induction n with
  | zero => simp
  | succ n ih =>
    obtain ⟨hlt, hbits⟩ := ih
    rw [List.range_succ, List.foldl_append, List.foldl_cons, List.foldl_nil, value_compareLane]
    refine ⟨?_, fun j => ?_⟩
    · rw [Nat.pow_succ]
      split <;> omega
    · rw [testBit_add_two_pow hlt, hbits]
      by_cases hj : n = j
      · simp [hj]
      · have hlast : j < n + 1 ↔ j < n := by omega
        simp [hj, hlast]

theorem flags_foldl_compareLane (r : Nat × Sticky) (n : Nat) :
    ((List.range n).foldl (compareLane active f) r).2 = ((List.range n).filter active).foldl (fun q j => q.or (f j).2) r.2 := by
  rw [List.foldl_filter]
  induction n with
  | zero => rfl
  | succ n ih =>
    rw [List.range_succ, List.foldl_append, List.foldl_append, ← ih]
    simp only [List.foldl_cons, List.foldl_nil, compareLane]
    split <;> rfl

end

theorem vlanes_le (t : VTy) : vlanes t ≤ 64 := by cases t <;> decide

/-- An admitted comparison writes the outcomes of its active lanes into kd and zero into every other bit. -/
theorem vcmp_admits {s : State} (h : s.admits { roam := true } [] = true) (c : Cmp) (d : KReg) (a b : VReg) (k : KReg) (t : VTy) :
    let r := fun j => c.lane t (laneOf s.cur.v[a] (vsize t) j) (laneOf s.cur.v[b] (vsize t) j)
    ∃ (x : Dword) (fl : Sticky), vcmp c d a b k t s = .next (s.modCur fun th => Thread.retire ((th.wk d x).orFlags fl)) ∧
      (∀ j, x.getLsbD j = (decide (j < vlanes t) && s.cur.active k j && (r j).1)) ∧
      fl = ((List.range (vlanes t)).filter (s.cur.active k)).foldl (fun q j => q.or (r j).2) {} := by
  intro r
  have hbits := (bits_foldl_compareLane (active := s.cur.active k) (f := r) {} (vlanes t)).2
  refine ⟨_, _, issue_admits h _, fun j => ?_, flags_foldl_compareLane (f := r) (0, {}) (vlanes t)⟩
  rw [BitVec.getLsbD_ofNat]
  refine (congrArg _ (hbits j)).trans ?_
  have hj : j < vlanes t → j < 64 := fun hj => Nat.lt_of_lt_of_le hj (vlanes_le t)
  by_cases hl : j < vlanes t <;> simp [hl, hj]

/-- The comparisons, each with its test (R247). -/
def vcmpForms : List ((KReg → VReg → VReg → KReg → VTy → Instr) × Cmp) :=
  [(.vcmpEq, .eq), (.vcmpNe, .ne), (.vcmpLt, .lt), (.vcmpLe, .le), (.vcmpGt, .gt), (.vcmpGe, .ge)]

theorem exec_vcmpForms : ∀ p ∈ vcmpForms, ∀ d a b k t s, exec (p.1 d a b k t) s = vcmp p.2 d a b k t s := by
  simp only [vcmpForms, List.forall_mem_cons]
  exact ⟨fun _ _ _ _ _ _ => rfl, fun _ _ _ _ _ _ => rfl, fun _ _ _ _ _ _ => rfl, fun _ _ _ _ _ _ => rfl, fun _ _ _ _ _ _ => rfl,
    fun _ _ _ _ _ _ => rfl, List.forall_mem_nil _⟩

/-! ## The outcome in a lane -/

theorem lane_integer {t : VTy} (ht : vfloat t = none) (c : Cmp) (x y : Nat) :
    c.lane t x y = (c.ints (laneInt t (8 * vsize t) x) (laneInt t (8 * vsize t) y), {}) := by
  unfold Cmp.lane
  rw [ht]

theorem lane_float {t : VTy} {f : FFmt} (ht : vfloat t = some f) (c : Cmp) (x y : Nat) : c.lane t x y = c.floats f x y := by
  unfold Cmp.lane
  rw [ht]

/-- No number is below a NaN, and a NaN is below none. -/
theorem below_of_nan {x y : FVal} (h : x.isNan = true ∨ y.isNan = true) (zeros : Bool) : x.below zeros y = false := by
  rcases h with h | h
  · cases x with
    | nan => rfl
    | inf | fin => cases h
  · cases y with
    | nan => cases x <;> rfl
    | inf | fin => cases h

theorem same_of_nan {x y : FVal} (h : x.isNan = true ∨ y.isNan = true) : x.same y = false := by
  unfold FVal.same
  rcases h with h | h <;> simp [h]

section

variable {t : VTy} {f : FFmt} {x y : Nat} (ht : vfloat t = some f) (hnan : (f.decode x).isNan = true ∨ (f.decode y).isNan = true)
include ht hnan

/-- With a NaN two floats are unequal, and a signalling one sets NV. -/
theorem lane_equality_nan : let sig := (f.decode x).isSig || (f.decode y).isSig
    Cmp.lane .eq t x y = (false, { nv := sig }) ∧ Cmp.lane .ne t x y = (true, { nv := sig }) := by
  simp only [lane_float ht, Cmp.floats, same_of_nan hnan, Bool.not_false, and_self]

/-- An ordered comparison with a NaN fails and sets NV. -/
theorem lane_order_nan : ∀ c ∈ [Cmp.lt, .le, .gt, .ge], Cmp.lane c t x y = (false, { nv := true }) := by
  have hxy := below_of_nan hnan false
  have hyx := below_of_nan hnan.symm false
  have hnv : ((f.decode x).isNan || (f.decode y).isNan) = true := by simpa using hnan
  simp [lane_float ht, Cmp.floats, same_of_nan hnan, hxy, hyx, hnv]

end

/-! ## The tree of a reduction (R249) -/

/-- One node of the tree. -/
def treeNode (op : Nat → Nat → Nat × Sticky) (x y : Option Nat) : Option Nat :=
  match x, y with
  | none, y => y
  | x, none => x
  | some x, some y => some (op x y).1

section

variable (op : Nat → Nat → Nat × Sticky)

theorem treeLevel_cons_cons (x y : Option Nat) (l : List (Option Nat)) :
    (treeLevel op (x :: y :: l)).1 = treeNode op x y :: (treeLevel op l).1 := by
  cases x <;> cases y <;> rfl

theorem treeFold_zero (x : Option Nat) : (treeFold op 0 [x]).1 = x := rfl

theorem treeFold_succ (n : Nat) (l : List (Option Nat)) : (treeFold op (n + 1) l).1 = (treeFold op n (treeLevel op l).1).1 := rfl

/-- A level of the tree over a list of whole pairs has a node for each, before the nodes of what follows. -/
theorem treeLevel_append (r : List (Option Nat)) {k : Nat} {l : List (Option Nat)} (h : l.length = 2 * k) :
    (treeLevel op (l ++ r)).1 = (treeLevel op l).1 ++ (treeLevel op r).1 ∧ (treeLevel op l).1.length = k := by
  induction k generalizing l with
  | zero =>
    rw [List.length_eq_zero_iff.mp h]
    exact ⟨rfl, rfl⟩
  | succ k ih =>
    match l, h with
    | x :: y :: l, h =>
      obtain ⟨happend, hlength⟩ := ih (l := l) (by simp only [List.length_cons] at h; omega)
      simp only [List.cons_append, treeLevel_cons_cons, happend, List.length_cons, hlength, and_self]

theorem treeFold_append {n : Nat} {l r : List (Option Nat)} (hl : l.length = 2 ^ n) (hr : r.length = 2 ^ n) :
    (treeFold op (n + 1) (l ++ r)).1 = treeNode op (treeFold op n l).1 (treeFold op n r).1 := by
  induction n generalizing l r with
  | zero =>
    obtain ⟨x, rfl⟩ := List.length_eq_one_iff.mp hl
    obtain ⟨y, rfl⟩ := List.length_eq_one_iff.mp hr
    rw [treeFold_zero, treeFold_zero, treeFold_succ, List.singleton_append, treeLevel_cons_cons]
    rfl
  | succ n ih =>
    rw [Nat.pow_succ'] at hl hr
    obtain ⟨hlevel, hleft⟩ := treeLevel_append op r hl
    have hright := (treeLevel_append op [] hr).2
    rw [treeFold_succ, hlevel, ih hleft hright]
    rfl

end

/-! ## Reductions (R249) -/

section

variable {s : State} {d a : VReg} {k : KReg} {t : VTy} {f : FFmt}

/-- An admitted reduction, with its node operation in the mode at issue: lane 0 receives the root of the tree over the active lanes. -/
theorem exec_reduction {i : Instr} {nodes : Rm → Nat → Nat → Nat × Sticky} {op : Nat → Nat → Nat × Sticky} {empty : Nat}
    (h : s.admits { rmo := (vfloat t).isSome, roam := true } [] = true) (hexec : exec i s = reduction d a k t nodes empty s)
    (hmode : nodes s.cur.issueRm = op) :
    let r := treeFold op (Nat.log2 (vlanes t))
      ((List.range (vlanes t)).map fun j => if s.cur.active k j then some (laneOf s.cur.v[a] (vsize t) j) else none)
    exec i s = .next (s.modCur fun th => Thread.retire ((th.wv d (putLane 0 (vsize t) 0 (r.1.getD empty))).orFlags r.2)) := by
  rw [hexec, ← hmode]
  exact issue_admits h _

theorem execVrsum_float (ht : vfloat t = some f) : execVrsum d a k t s = reduction d a k t (fun rm x y => f.add rm x y) 0 s := by
  unfold execVrsum
  rw [ht]

theorem execVrmax_float (ht : vfloat t = some f) : execVrmax d a k t s = reduction d a k t (fun _ x y => f.minmax true x y) (f.inf true) s := by
  unfold execVrmax
  rw [ht]

theorem execVrmin_float (ht : vfloat t = some f) : execVrmin d a k t s = reduction d a k t (fun _ x y => f.minmax false x y) (f.inf false) s := by
  unfold execVrmin
  rw [ht]

theorem execVrsum_integer (ht : vfloat t = none) :
    execVrsum d a k t s = reduction d a k t (fun _ x y => ((x + y) % 2 ^ (8 * vsize t), {})) 0 s := by
  unfold execVrsum
  rw [ht]

theorem execVrmax_integer (ht : vfloat t = none) : execVrmax d a k t s =
    reduction d a k t (fun _ x y => (extremeInt true t x y, {})) (if vsigned t then 2 ^ (8 * vsize t - 1) else 0) s := by
  unfold execVrmax
  rw [ht]

theorem execVrmin_integer (ht : vfloat t = none) : execVrmin d a k t s =
    reduction d a k t (fun _ x y => (extremeInt false t x y, {})) (if vsigned t then 2 ^ (8 * vsize t - 1) - 1 else 2 ^ (8 * vsize t) - 1) s := by
  unfold execVrmin
  rw [ht]

end

end Sys2Proof.Machine

section

open Sys2Proof Sys2Proof.Machine

/-- Settles O19: a comparison goes lane by lane, and a reduction is the tree of its node operation, level by level. -/
theorem compareAndReduceResults : Obligations.CompareAndReduceResults := by
  refine ⟨⟨fun s d a b k t h p hp => ?_, fun t x y ht => ?_, fun t f x y ht hnan => ?_⟩, fun s d a k t op empty i h hi => ?_,
    fun op n l r hl hr => treeFold_append op hl hr⟩
  · rw [exec_vcmpForms p hp]
    exact vcmp_admits h p.2 d a b k t
  · simp only [lane_integer ht]
    exact ⟨rfl, congrArg (·, _) (decide_not).symm, rfl, rfl, rfl, rfl⟩
  · obtain ⟨heq, hne⟩ := lane_equality_nan ht hnan
    exact ⟨heq, hne, lane_order_nan ht hnan⟩
  · split at hi
    · next f ht =>
      simp only [List.mem_cons, Prod.mk.injEq, List.not_mem_nil, or_false] at hi
      rcases hi with ⟨rfl, rfl, rfl⟩ | ⟨rfl, rfl, rfl⟩ | ⟨rfl, rfl, rfl⟩
      · exact exec_reduction h (execVrsum_float ht) rfl
      · exact exec_reduction h (execVrmax_float ht) rfl
      · exact exec_reduction h (execVrmin_float ht) rfl
    · next ht =>
      simp only [List.mem_cons, Prod.mk.injEq, List.not_mem_nil, or_false] at hi
      rcases hi with ⟨rfl, rfl, rfl⟩ | ⟨rfl, rfl, rfl⟩ | ⟨rfl, rfl, rfl⟩
      · exact exec_reduction h (execVrsum_integer ht) rfl
      · exact exec_reduction h (execVrmax_integer ht) rfl
      · exact exec_reduction h (execVrmin_integer ht) rfl

end

end

section
/-!
What an operation refuses: a type that it does not accept or a lane that does not exist is ILLEGAL (R167, R246, R248), and on a tile that the thread's
job is not assigned every matrix, copy and slot instruction is SLOT (R259).
-/

namespace Sys2Proof.Machine

/-! ## Types and lanes (R246, R248) -/

section

variable {s : State} {d a b : VReg} {k : KReg} {t : VTy}

/-- An operation without a meaning on its type is refused whole. -/
theorem laneWise_refused {i : Instr} {op : Option LaneOp} (hexec : exec i s = laneWise i d a b k t op s) (hop : op = none) :
    exec i s = .next (s.raise 0x01 0 (((encode i).getD 0).setWidth 64) 0) := by
  rw [hexec, hop]
  rfl

theorem floatOp_refused (ht : vfloat t = none) (ff : FFmt → LaneOp) : floatOp t ff = none := congrArg (Option.map ff) ht

theorem wordOp_refused (ht : vfloat t ≠ none) (fi : (e a b : Nat) → Int) : wordOp t fi = none := by
  unfold wordOp
  cases hf : vfloat t with
  | none => exact absurd hf ht
  | some f => rfl

theorem signedOp_refused (ht : vunsigned t = true) (ff : FFmt → LaneOp) (fi : (e a b : Nat) → Int) : signedOp t ff fi = none := if_pos ht

/-- A move that names a lane beyond its type's is refused. -/
theorem moveLanes_refused {i : Instr} {l : BitVec 6} (regs : List GReg) (hlane : vlanes t ≤ l.toNat) (body : State → State) :
    moveLanes i (decide (l.toNat < vlanes t)) regs s body = .next (s.raise 0x01 0 (((encode i).getD 0).setWidth 64) 0) := by
  rw [decide_eq_false (Nat.not_lt.mpr hlane)]
  rfl

theorem vtab_refused (y : Fin 4) (ht : t = .f64 ∨ vfloat t = none) :
    exec (.vtab d a y k t) s = .next (s.raise 0x01 0 (((encode (.vtab d a y k t)).getD 0).setWidth 64) 0) := by
  have hformat : (if t = .f64 then none else vfloat t) = none := by
    split
    · rfl
    · next hne => exact ht.resolve_left hne
  show execVtab d a y k t s = _
  unfold execVtab
  simp only [hformat]
  rfl

end

/-! ## Tiles (R259) -/

/-- The matrix, copy and slot instructions, each with the general registers that it names. -/
def tileForms (a b c : GReg) (w : Bool) (mf : MmaFmt) (af : AccFmt) (n : BitVec 3) : List (Instr × List GReg) :=
  [(.oclaim a c, [a, c]), (.orelease a, [a]), (.opput a b, [a, b]), (.mma a b c w mf, [a, b, c]), (.acczero a, [a]),
    (.accrd a b c w af, [a, b, c]), (.accsat a c, [a, c]), (.accget a b c, [a, b, c]), (.accadd a b c, [a, b, c]),
    (.xcopy a b c, [a, b, c]), (.xcopysp a b c, [a, b, c]), (.xcommit, []), (.xwait n, [])]

theorem exec_tileForms (a b c : GReg) (w : Bool) (mf : MmaFmt) (af : AccFmt) (n : BitVec 3) (s : State) :
    ∀ i ∈ tileForms a b c w mf af n, ∃ body, exec i.1 s = onTile i.1 i.2 s body := by
  simp only [tileForms, List.forall_mem_cons]
  exact ⟨⟨_, rfl⟩, ⟨_, rfl⟩, ⟨_, rfl⟩, ⟨_, rfl⟩, ⟨_, rfl⟩, ⟨_, rfl⟩, ⟨_, rfl⟩, ⟨_, rfl⟩, ⟨_, rfl⟩, ⟨_, rfl⟩, ⟨_, rfl⟩, ⟨_, rfl⟩, ⟨_, rfl⟩,
    List.forall_mem_nil _⟩

/-- On a tile of another job, or of none, an admitted instruction faults with the tile's number. -/
theorem onTile_unassigned {s : State} {i : Instr} {regs : List GReg} (h : s.admits { roam := true, ahead := false, compute := encode i } regs = true)
    (hhand : s.cur.handFor = none) (htile : (s.tile s.here).assigned = false ∨ (s.tile s.here).job ≠ s.cur.job.setWidth 32) (body : State → State) :
    onTile i regs s body = .next (s.raise 0x09 0 (BitVec.ofNat 64 s.here) 0) := by
  refine (issue_admits h _).trans (next_eq (if_neg ?_))
  rintro (hsome | ⟨hassigned, hjob⟩)
  · rw [hhand] at hsome
    cases hsome
  · rcases htile with hfree | hother
    · rw [hfree] at hassigned
      cases hassigned
    · exact hother hjob

end Sys2Proof.Machine

section

open Sys2Proof Sys2Proof.Machine

/-- Settles O18: the type or the lane is refused before anything is issued, and the tile is the first thing that the instructions of R259 ask about. -/
theorem refusedWords : Obligations.RefusedWords := by
  refine ⟨fun s d a b g l k t => ⟨?_, fun hu => ?_, fun hlane => ?_, fun y ht => vtab_refused y ht⟩, ?_⟩
  · split
    · next ht =>
      have hrefused := floatOp_refused (Option.isNone_iff_eq_none.mp ht)
      simp only [List.forall_mem_cons]
      exact ⟨laneWise_refused rfl (hrefused _), laneWise_refused rfl (hrefused _), laneWise_refused rfl (hrefused _),
        laneWise_refused rfl (hrefused _), List.forall_mem_nil _⟩
    · next ht =>
      have hrefused := wordOp_refused fun hnone => ht (Option.isNone_iff_eq_none.mpr hnone)
      simp only [List.forall_mem_cons]
      exact ⟨laneWise_refused rfl (hrefused _), laneWise_refused rfl (hrefused _), laneWise_refused rfl (hrefused _),
        laneWise_refused rfl (hrefused _), laneWise_refused rfl (hrefused _), laneWise_refused rfl (hrefused _),
        laneWise_refused rfl (hrefused _), List.forall_mem_nil _⟩
  · have hrefused := signedOp_refused hu
    exact List.forall_mem_cons.mpr ⟨laneWise_refused rfl (hrefused _ _), List.forall_mem_singleton.mpr (laneWise_refused rfl (hrefused _ _))⟩
  · simp only [List.forall_mem_cons]
    exact ⟨moveLanes_refused _ hlane _, moveLanes_refused _ hlane _, moveLanes_refused _ hlane _, moveLanes_refused _ hlane _,
      List.forall_mem_nil _⟩
  · intro s a b c w mf af n i hi h hhand htile
    obtain ⟨body, hexec⟩ := exec_tileForms a b c w mf af n s i hi
    exact hexec.trans (onTile_unassigned h hhand htile body)

end

end

section
/-!
Moves of lanes (R248) and the mask instructions (R258): each is issued and is its effect, and counting the one bits of a mask counts the lanes that it
names.
-/

namespace Sys2Proof.Machine

/-- Two updates that agree on the thread whose turn it is give the same state. -/
theorem next_modCur {s : State} {f g : Thread → Thread} (h : f s.cur = g s.cur) :
    (Host.Outcome.next (s.modCur f) : Host.Outcome State Fault Refusal) = .next (s.modCur g) := next_eq (congrArg s.setCur h)

/-- An admitted move whose lane exists has its own effect. -/
theorem moveLanes_admits {s : State} {i : Instr} {l : BitVec 6} {t : VTy} {regs : List GReg} (hlane : l.toNat < vlanes t)
    (h : s.admits { roam := true } regs = true) (body : State → State) : moveLanes i (decide (l.toNat < vlanes t)) regs s body = .next (body s) := by
  rw [decide_eq_true hlane]
  exact issue_admits h body

theorem foldl_count (p : Nat → Bool) (l : List Nat) (n : Nat) : l.foldl (fun n i => n + (if p i then 1 else 0)) n = n + (l.filter p).length := by
  induction l generalizing n with
  | nil => rfl
  | cons i l ih =>
    rw [List.foldl_cons, ih]
    cases hp : p i <;> simp [hp]
    omega

/-- The one bits of a mask are as many as the lanes that it names. -/
theorem ones_eq_length (x : Dword) : ones x = ((List.range 64).filter fun j => x.getLsbD j).length :=
  (foldl_count x.getLsbD _ 0).trans (Nat.zero_add _)

theorem maskOp_admits {s : State} {ks : List KReg} {gs : List GReg} (h : s.admits { roam := ks.any fun k => k != 0 } gs = true) (body : Thread → Thread) :
    maskOp ks gs s body = .next (s.modCur fun t => (body t).retire) := issue_admits h _

theorem admits_single {s : State} {k : KReg} {gs : List GReg} (h : s.admits { roam := k != 0 } gs = true) :
    s.admits { roam := [k].any fun k => k != 0 } gs = true := by simpa only [List.any_cons, List.any_nil, Bool.or_false] using h

end Sys2Proof.Machine

section

open Sys2Proof Sys2Proof.Machine

/-- Settles O20: each move and each mask instruction is its own effect once it is admitted. -/
theorem laneMoveResults : Obligations.LaneMoveResults := by
  refine ⟨fun s d a b k t g l => ?_, fun s d a b g => ?_⟩
  · intro n x put
    refine ⟨fun h => ⟨?_, ?_, ?_⟩, fun h hlane => ⟨?_, ?_⟩, fun h => ⟨?_, fun hlane => ⟨?_, moveLanes_admits hlane h _⟩⟩⟩
    · have hsel : ∀ j, (if s.cur.active k j then x a j else x b j) = laneOf (if s.cur.active k j then s.cur.v[a] else s.cur.v[b]) n j :=
        fun j => (apply_ite (laneOf · n j) _ _ _).symm
      rw [funext hsel]
      exact (issue_admits h _).trans (next_modCur rfl)
    · exact (issue_admits h _).trans (next_modCur rfl)
    · exact (issue_admits h _).trans (next_modCur rfl)
    · exact (moveLanes_admits hlane h _).trans (next_modCur rfl)
    · exact (moveLanes_admits hlane h _).trans (next_modCur rfl)
    · exact (issue_admits h _).trans (next_modCur rfl)
    · exact (moveLanes_admits hlane h _).trans (next_modCur rfl)
  · refine ⟨fun h => ⟨maskOp_admits h _, maskOp_admits h _, maskOp_admits h _⟩, fun h => maskOp_admits h _, fun h => ⟨?_, ?_⟩, fun h => ?_⟩
    · exact (maskOp_admits (admits_single h) _).trans (next_modCur rfl)
    · rw [← ones_eq_length]
      exact (maskOp_admits (admits_single h) _).trans (next_modCur rfl)
    · exact (maskOp_admits (admits_single h) _).trans (next_modCur rfl)

end

end

section
/-!
Conversions between lane formats (R250, R251): each VCVT converts the lanes of its shorter side.
-/

namespace Sys2Proof.Machine

/-- A form of VCVT: whether it rounds, its lanes, the widths of their fields before and after, and the conversion of one lane. -/
abbrev VcvtForm : Type := (VReg → VReg → KReg → Instr) × Bool × Nat × Nat × Nat × (Rm → Nat → Nat × Sticky)

/-- The forms of VCVT (R250, R251). -/
def vcvtForms : List VcvtForm :=
  [(.vcvtF64F32, true, 8, 64, 32, fp64.convert fp32), (.vcvtF32F64, true, 8, 32, 64, fp32.convert fp64),
    (.vcvtF32Bf16, true, 16, 32, 16, fp32.convert bf16), (.vcvtBf16F32, true, 16, 16, 32, bf16.convert fp32),
    (.vcvtF32F16, true, 16, 32, 16, fp32.convert fp16), (.vcvtF16F32, true, 16, 16, 32, fp16.convert fp32),
    (.vcvtF32I32, true, 16, 32, 32, fun rm x => fp32.toInt rm 32 x), (.vcvtI32F32, true, 16, 32, 32, fun rm x => fp32.ofInt rm (signedField 32 x)),
    (.vcvtF64I64, true, 8, 64, 64, fun rm x => fp64.toInt rm 64 x), (.vcvtI64F64, true, 8, 64, 64, fun rm x => fp64.ofInt rm (signedField 64 x)),
    (.vcvtBf16Lns8, false, 32, 16, 8, fun _ x => toLns false x), (.vcvtLns8Bf16, true, 32, 8, 16, fromLns false),
    (.vcvtBf16Lns6, false, 32, 16, 6, fun _ x => toLns true x), (.vcvtLns6Bf16, true, 32, 6, 16, fromLns true)]

theorem exec_vcvtForms (d a : VReg) (k : KReg) (s : State) :
    ∀ p ∈ vcvtForms, exec (p.1 d a k) s = vcvt d a k p.2.1 p.2.2.1 p.2.2.2.1 p.2.2.2.2.1 p.2.2.2.2.2 s := by
  simp only [vcvtForms, List.forall_mem_cons]
  exact ⟨rfl, rfl, rfl, rfl, rfl, rfl, rfl, rfl, rfl, rfl, rfl, rfl, rfl, rfl, List.forall_mem_nil _⟩

end Sys2Proof.Machine

section

open Sys2Proof Sys2Proof.Machine

/-- Settles O21: each form is one conversion of lanes, which an admitted one computes. -/
theorem conversionResults : Obligations.ConversionResults :=
  fun s d a k p hp h => (exec_vcvtForms d a k s p hp).trans (issue_admits h _)

end

end

section
/-!
The table engine (R253 to R257): VTAB on an accepted type, VTLOAD before and after its image is read, and the replacement of a table by whether the
image is good.
-/

namespace Sys2Proof.Machine

section

variable {s : State} {d a : VReg} {y : Fin 4} {k : KReg} {t : VTy} {f : FFmt} {g : GReg}

/-- An admitted VTAB on a float type other than FP64 evaluates the tile's table in each active lane (R257). -/
theorem vtab_admits (hwide : t ≠ .f64) (ht : vfloat t = some f)
    (h : s.admits { rmo := true, roam := true, compute := encode (.vtab d a y k t) } [] = true) :
    let w := fun i => s.tableDword (tileOf s.focus.core) y.val i
    let r := mapLanes (vsize t) (s.cur.active k) s.cur.v[d] fun j =>
      vtabLane f s.cur.issueRm (w 0 % 2 ^ 32) (signedField 8 (fieldOf (w 0) 32 8))
        (fun g => (w (8 + 2 * g) % 2 ^ 32, w (8 + 2 * g) / 2 ^ 32, w (9 + 2 * g) % 2 ^ 32)) (laneOf s.cur.v[a] (vsize t) j)
    exec (.vtab d a y k t) s = .next (s.modCur fun th => Thread.retire ((th.wv d r.1).orFlags r.2)) := by
  have hformat : (if t = .f64 then none else vfloat t) = some f := (if_neg hwide).trans ht
  show execVtab d a y k t s = _
  unfold execVtab
  simp only [hformat]
  exact issue_admits h _

section

variable (h : s.admits { roam := true, ahead := false, compute := encode (.vtload y g) } [g] = true) (halign : (s.rg g).toNat % 64 = 0)
include h halign

/-- With its image in hand, VTLOAD waits for the replacement (R255). -/
theorem vtload_inHand {v : List Nat} (hhand : s.cur.handFor = some v) :
    exec (.vtload y g) s = .next
      ((s.wait { k := 14, a := s.rg g, act := .done 0 }).notice (s.cycle + 1) .vtloadReplace { name := s.cur.name, a := y.val }) := by
  refine (issue_admits h _).trans (next_eq ((if_neg (not_not_intro halign)).trans ?_))
  rw [hhand]
  rfl

/-- Without it, VTLOAD reads the 520 dwords of the image, with nothing of its thread unacknowledged (R255). -/
theorem vtload_reads {xs : List (Piece × Nat)} (hhand : s.cur.handFor = none)
    (hcheck : s.checkLanes 64 true false false ((List.range 65).map fun j => (j, s.rg g + BitVec.ofNat 64 (64 * j))) = .ok xs)
    (hmem : ∀ x ∈ xs, isDevice x.1.pa = false) (hack : s.cur.storeAck = 0) (hred : s.cur.redpend = 0) :
    exec (.vtload y g) s = .next (s.loadPieces (s.rg g) (xs.flatMap fun x => (List.range 8).map fun i =>
      ({ lane := 8 * x.1.lane + i, pa := x.1.pa + 8 * i, size := 8, va := x.1.va }, x.2)) .none false true false) := by
  have hfind : xs.find? (fun x => isDevice x.1.pa) = none := List.find?_eq_none.mpr fun x hx => Bool.eq_false_iff.mp (hmem x hx)
  refine (issue_admits h _).trans (next_eq ((if_neg (not_not_intro halign)).trans ?_))
  rw [hhand, hcheck]
  dsimp only
  rw [hfind]
  exact released_clear hack hred _

end

section

variable {p : Place} {ds : List Nat} (hplace : s.whereIs s.subject.name = some p) (hhand : (s.at p).handFor = some ds)
  (hending : (s.at p).ending = none)
include hplace hhand hending

/-- A good image replaces the table whole, and its VTLOAD completes (R255). -/
theorem vtloadReplace_good (hgood : tableBad ds = none) :
    exec .vtloadReplace s = .next (((s.setTable (tileOf (s.coreAt p)) s.subject.a ds).completeAt p id).settle s.subject.name) := by
  show execVtloadReplace s = _
  simp [execVtloadReplace, event, hplace, hhand, hending, hgood]

/-- An image that breaks R254 faults with the offset of its first bad dword. -/
theorem vtloadReplace_bad {o : Nat} (hbad : tableBad ds = some o) :
    exec .vtloadReplace s = .next ((s.faultNamed s.subject.name 0x0A 0 (BitVec.ofNat 64 o) 0).settle s.subject.name) := by
  show execVtloadReplace s = _
  simp [execVtloadReplace, event, hplace, hhand, hending, hbad]

end

end

end Sys2Proof.Machine

section

open Sys2Proof Sys2Proof.Machine

/-- Settles O23: VTAB is lane-wise, VTLOAD goes by whether its image is in hand, and the replacement by whether the image is good. -/
theorem tableResults : Obligations.TableResults :=
  ⟨fun _ _ _ _ _ _ _ hwide ht h => vtab_admits hwide ht h,
    fun _ _ _ _ h halign => ⟨fun _ hhand => vtload_inHand h halign hhand, fun hhand hcheck hmem => vtload_reads h halign hhand hcheck hmem⟩,
    fun _ _ _ hplace hhand hending => ⟨vtloadReplace_good hplace hhand hending, fun _ => vtloadReplace_bad hplace hhand hending⟩⟩

end

end

section
/-!
Operand slots (R259, R265 to R268, R275): what the instructions of a tile do once their thread may issue there, and how a slot is claimed, released,
filled and counted.
-/

namespace Sys2Proof.Machine

/-! ## Issue on a tile (R259) -/

section

variable {s : State} {i : Instr} {regs : List GReg}

theorem tileAdmits_iff : s.tileAdmits i regs = true ↔ s.admits { roam := true, ahead := false, compute := encode i } regs = true ∧
    (s.tile s.here).assigned = true ∧ (s.tile s.here).job = s.cur.job.setWidth 32 := by
  simp only [State.tileAdmits, Bool.and_eq_true, decide_eq_true_eq, and_assoc]

/-- On a tile that its job is assigned, an admitted instruction has its own effect. -/
theorem onTile_admits (h : s.tileAdmits i regs = true) (body : State → State) : onTile i regs s body = .next (body s) := by
  obtain ⟨hadmits, htile⟩ := tileAdmits_iff.mp h
  exact (issue_admits hadmits _).trans (next_eq (if_pos (Or.inr htile)))

/-- An instruction that has values in hand has passed the check of its tile. -/
theorem onTile_inHand (h : s.admits { roam := true, ahead := false, compute := encode i } regs = true) {vs : List Nat}
    (hhand : s.cur.handFor = some vs) (body : State → State) : onTile i regs s body = .next (body s) :=
  (issue_admits h _).trans (next_eq (if_pos (Or.inl (Option.isSome_of_eq_some hhand))))

end

variable {s : State} {a b c : GReg}

/-! ## OCLAIM and ORELEASE (R265, R266) -/

section
variable (h : s.tileAdmits (.oclaim a c) [a, c] = true)
include h

theorem oclaim_refused (hnamed : s.rg a ≠ allOnes) (hhigh : 31 < (s.rg a).toNat) : exec (.oclaim a c) s = .next (s.raise 0x09 0 (s.rg a) 0) :=
  (onTile_admits h _).trans (next_eq (if_pos ⟨hnamed, hhigh⟩))

theorem oclaim_full (hany : s.rg a = allOnes) (hfull : (s.tile s.here).freeOpSlot = none) : exec (.oclaim a c) s = .next (s.result c allOnes) := by
  refine (onTile_admits h _).trans (next_eq ((if_neg fun hbad => hbad.1 hany).trans ?_))
  rw [if_pos hany, hfull]

/-- A claim of the slot named, or of the lowest free one, goes by who owns it. -/
theorem oclaim_slot {n : Nat} (hslot : (s.rg a = allOnes ∧ (s.tile s.here).freeOpSlot = some n) ∨
      (s.rg a ≠ allOnes ∧ (s.rg a).toNat ≤ 31 ∧ n = (s.rg a).toNat)) :
    (((s.tile s.here).opSlot n).owner = some s.cur.name → exec (.oclaim a c) s = .next (s.result c (BitVec.ofNat 64 n))) ∧
    (∀ w, ((s.tile s.here).opSlot n).owner = some w → w ≠ s.cur.name → exec (.oclaim a c) s = .next (s.result c allOnes)) ∧
    (((s.tile s.here).opSlot n).owner = none → exec (.oclaim a c) s = .next (s.claim c n)) := by
  have hlegal : ¬ (s.rg a ≠ allOnes ∧ 31 < (s.rg a).toNat) := by
    rintro ⟨hnamed, hhigh⟩
    obtain ⟨hany, -⟩ | ⟨-, hlow, -⟩ := hslot
    · exact hnamed hany
    · omega
  have hfound : (if s.rg a = allOnes then (s.tile s.here).freeOpSlot else some (s.rg a).toNat) = some n := by
    obtain ⟨hany, hfree⟩ | ⟨hnamed, -, hn⟩ := hslot
    · rw [if_pos hany, hfree]
    · rw [if_neg hnamed, hn]
  show (_ → execOclaim a c s = _) ∧ (∀ w, _ → _ → execOclaim a c s = _) ∧ (_ → execOclaim a c s = _)
  simp only [execOclaim, onTile_admits h, if_neg hlegal, hfound]
  refine ⟨fun howner => ?_, fun w howner hother => ?_, fun howner => ?_⟩
  · rw [howner]
    exact next_eq (if_pos rfl)
  · rw [howner]
    exact next_eq (if_neg hother)
  · rw [howner]

end

@[simp] theorem opSlot_setOpSlot_same (s : State) (i n : Nat) (o : OpSlot) : ((s.setOpSlot i n o).tile i).opSlot n = o := by
  rw [State.setOpSlot, tile_setTile_same]
  exact getD_insert_same _ _ _ _

theorem rg_result_same (s : State) (d : GReg) (x : Dword) : (s.result d x).cur.rg d = if d = 0 then 0 else x := by
  rw [cur_result, rg_retire, rg_wg]
  by_cases hzero : d = 0 <;> simp [hzero]

/-- A slot that no other job has used since it was cleared is the thread's at once (R78, R265). -/
theorem claim_of_job {n : Nat} (hjob : ((s.tile s.here).opSlot n).lastJob = none ∨
      ((s.tile s.here).opSlot n).lastJob = some (s.cur.job.setWidth 32)) :
    (((s.claim c n).tile s.here).opSlot n).owner = some s.cur.name ∧ (s.claim c n).cur.rg c = if c = 0 then 0 else BitVec.ofNat 64 n := by
  unfold State.claim
  obtain hnew | hsame := hjob
  · simp only [hnew]
    exact ⟨congrArg OpSlot.owner (opSlot_setOpSlot_same _ _ _ _), rg_result_same _ _ _⟩
  · simp only [hsame, ne_eq, not_true, if_false]
    exact ⟨congrArg OpSlot.owner (opSlot_setOpSlot_same _ _ _ _), rg_result_same _ _ _⟩

section
variable (h : s.tileAdmits (.orelease a) [a] = true)
include h

theorem orelease_releases (hlow : (s.rg a).toNat ≤ 31) (howner : ((s.tile s.here).opSlot (s.rg a).toNat).owner = some s.cur.name) :
    exec (.orelease a) s =
      .next (s.setOpSlot s.here (s.rg a).toNat { (s.tile s.here).opSlot (s.rg a).toNat with owner := none }).retire :=
  (onTile_admits h _).trans (next_eq (if_neg (not_or.mpr ⟨Nat.not_lt.mpr hlow, not_not_intro howner⟩)))

theorem orelease_refused (hbad : 31 < (s.rg a).toNat ∨ ((s.tile s.here).opSlot (s.rg a).toNat).owner ≠ some s.cur.name) :
    exec (.orelease a) s = .next (s.raise 0x09 0 (s.rg a) 0) :=
  (onTile_admits h _).trans (next_eq (if_pos hbad))

end

/-! ## OPPUT (R267, R268) -/

section
variable (h : s.tileAdmits (.opput a b) [a, b] = true)
include h

theorem opput_unfillable (hbad : designatorBad (s.rg a).toNat = true ∨
      s.mayFill s.cur ((s.tile s.here).opSlot ((s.rg a).toNat % 32)) = false) :
    exec (.opput a b) s = .next (s.raise 0x09 0 (s.rg a) 0) :=
  (onTile_admits h _).trans (next_eq (if_pos (hbad.imp_right fun hfill => by rw [hfill]; rfl)))

/-- A slot that the thread may fill takes the registers as they stand, or as tagged blocks where none of them is refused. -/
theorem opput_fills (hdesignator : designatorBad (s.rg a).toNat = false)
    (hfill : s.mayFill s.cur ((s.tile s.here).opSlot ((s.rg a).toNat % 32)) = true) :
    let ga := (s.rg a).toNat
    let gb := (s.rg b).toNat
    let o := (s.tile s.here).opSlot (ga % 32)
    let off := fieldOf ga 8 9
    let regs := (List.range (fieldOf gb 4 3 + 1)).map fun j => (j, (s.cur.v[gb % 16 + j]?.getD 0).toNat)
    (opputBad off gb = true → exec (.opput a b) s = .next (s.raise 0x09 0 (s.rg b) 0)) ∧
    (opputBad off gb = false → fieldOf gb 8 1 = 0 →
      exec (.opput a b) s = .next (s.setOpSlot s.here (ga % 32) (regs.foldl (fun o r => o.put (off + r.1) r.2 0) o)).retire) ∧
    (opputBad off gb = false → fieldOf gb 8 1 = 1 → (∀ r ∈ regs, blockFault r.2 = none) →
      exec (.opput a b) s = .next (s.setOpSlot s.here (ga % 32) (regs.foldl (fun o r => o.putBlock (off + r.1) r.2) o)).retire) := by
  intro ga gb o off regs
  have hmay : ¬ (designatorBad ga = true ∨ (!s.mayFill s.cur o) = true) := by simp [ga, o, hdesignator, hfill]
  have hexec : ∀ {u : State}, _ = u → exec (.opput a b) s = .next u := fun hu => (onTile_admits h _).trans (next_eq ((if_neg hmay).trans hu))
  refine ⟨fun hbad => hexec (if_pos hbad), fun hgood hplain => ?_, fun hgood htagged hblocks => ?_⟩
  · exact hexec ((if_neg (ne_true_of_eq_false hgood)).trans (if_neg (by rw [hplain]; decide)))
  · have hnone : (regs.findSome? fun r => (blockFault r.2).map fun c => (r.1, c)) = none :=
      List.findSome?_eq_none_iff.mpr fun r hr => by rw [hblocks r hr]; rfl
    refine hexec ((if_neg (ne_true_of_eq_false hgood)).trans ((if_pos htagged).trans ?_))
    rw [hnone]

end

/-! ## ACCSAT (R275) -/

theorem readSat_now {x : Dword} (hroom : (s.tile s.here).engine.length < 32) (hidle : (s.tile s.here).slotBusy x.toNat s.nextId = false) (c : GReg) :
    s.readSat x c = s.result c (((s.tile s.here).accSlot x.toNat).sat.setWidth 64) :=
  if_neg (not_or.mpr ⟨Nat.not_le.mpr hroom, ne_true_of_eq_false hidle⟩)

section
variable (h : s.tileAdmits (.accsat a c) [a, c] = true) (hhand : s.cur.handFor = none)
include h hhand

theorem accsat_checked : exec (.accsat a c) s = .next (if 63 < (s.rg a).toNat then s.slotFault (s.rg a) else s.readSat (s.rg a) c) := by
  refine (onTile_admits h _).trans (next_eq ?_)
  rw [hhand]

theorem accsat_refused (hhigh : 63 < (s.rg a).toNat) : exec (.accsat a c) s = .next (s.raise 0x09 0 (s.rg a) 0) :=
  (accsat_checked h hhand).trans (next_eq (if_pos hhigh))

theorem accsat_reads (hlow : (s.rg a).toNat ≤ 63) (hroom : (s.tile s.here).engine.length < 32)
    (hidle : (s.tile s.here).slotBusy (s.rg a).toNat s.nextId = false) :
    exec (.accsat a c) s = .next (s.result c (((s.tile s.here).accSlot (s.rg a).toNat).sat.setWidth 64)) :=
  (accsat_checked h hhand).trans (next_eq ((if_neg (Nat.not_lt.mpr hlow)).trans (readSat_now hroom hidle c)))

end

end Sys2Proof.Machine

section

open Sys2Proof Sys2Proof.Machine

/-- Settles O36, instruction by instruction: each goes by the slot that its operand names, and by who owns it. -/
theorem slotResults : Obligations.SlotResults := by
  refine ⟨fun s a c h => ⟨oclaim_refused h, oclaim_full h, fun n => oclaim_slot h⟩, fun s c n => claim_of_job, fun s a h => ?_, fun s a b h => ?_,
    fun s a c h hhand => ⟨accsat_refused h hhand, accsat_reads h hhand⟩⟩
  · exact ⟨orelease_releases h, orelease_refused h⟩
  · exact ⟨opput_unfillable h, opput_fills h⟩

end

end

section
/-!
Instructions of the engine queue (R260 to R262, R269 to R276): their checks, made once, and the place that an operation takes in the queue of its tile or
waits for with its checked operands in hand.
-/

namespace Sys2Proof.Machine

variable {s : State} {a b c : GReg}

/-! ## The checks of an operation (R260) -/

section
variable (kind : EngKind) (w : Option (GReg × Bool)) (f : State → State)

theorem opChecks_new (hhand : s.cur.handFor = none) : s.opChecks kind w f = f s := by
  unfold State.opChecks
  rw [hhand]

/-- An operation that waited for a place with its barrier takes it as it was checked. -/
theorem opChecks_checked {x y z pa key : Nat} (hhand : s.cur.handFor = some [x, y, z, pa, key]) :
    s.opChecks kind w f = s.enqueueOp kind (BitVec.ofNat 64 x) (BitVec.ofNat 64 y) (BitVec.ofNat 64 z) w (some (pa, key)) := by
  unfold State.opChecks
  rw [hhand]

theorem opChecks_unreporting {x y z : Nat} (hhand : s.cur.handFor = some [x, y, z]) :
    s.opChecks kind w f = s.enqueueOp kind (BitVec.ofNat 64 x) (BitVec.ofNat 64 y) (BitVec.ofNat 64 z) w none := by
  unfold State.opChecks
  rw [hhand]

end

/-! ## Operations that report to a barrier (R269, R274, R276) -/

/-- Whether an operand slot of an MMA is the thread's, and cleared for it (R265, R269). -/
def State.holdsSlot (s : State) (n : Nat) : Prop :=
  ((s.tile s.here).opSlot n).owner = some s.cur.name ∧ ((s.tile s.here).opSlot n).clearing = none

theorem not_holdsSlot_iff (s : State) (n : Nat) : ¬ s.holdsSlot n ↔
    (!(((s.tile s.here).opSlot n).owner == some s.cur.name && ((s.tile s.here).opSlot n).clearing.isNone)) = true := by
  rw [State.holdsSlot, Bool.not_eq_true', ← Bool.not_eq_true, Bool.and_eq_true, beq_iff_eq, Option.isNone_iff_eq_none]

section
variable {y : Access} (hscratch : (ownerCore (gpaLocal y.pa)).isSome = true) (hmail : isMailbox (gpaLocal y.pa) = false)
  (hcheck : s.checkCur (s.rg b) 16 true true = .ok y)

section
variable {w : Bool} {f : MmaFmt} (h : s.tileAdmits (.mma a b c w f) [a, b, c] = true) (hhand : s.cur.handFor = none)
include h hhand

theorem mma_refusedA (hbad : mmaBadA f (s.rg a).toNat = true ∨ ¬ s.holdsSlot (mmaArgs f (s.rg a).toNat (s.rg c).toNat).aSlot ∨
      ¬ s.holdsSlot (mmaArgs f (s.rg a).toNat (s.rg c).toNat).bSlot) :
    exec (.mma a b c w f) s = .next (s.raise 0x09 0 (s.rg a) 0) := by
  rw [not_holdsSlot_iff, not_holdsSlot_iff] at hbad
  exact (onTile_admits h _).trans (next_eq ((opChecks_new _ _ _ hhand).trans (if_pos hbad)))

section
variable (hgood : mmaBadA f (s.rg a).toNat = false) (ha : s.holdsSlot (mmaArgs f (s.rg a).toNat (s.rg c).toNat).aSlot)
  (hb : s.holdsSlot (mmaArgs f (s.rg a).toNat (s.rg c).toNat).bSlot)
include hgood ha hb

theorem mma_checkedA : exec (.mma a b c w f) s = .next (if mmaBadC f (s.rg c).toNat then s.slotFault (s.rg c) else
    s.barrierAccess (s.rg b) true fun y =>
      s.enqueueOp (.mma f) (s.rg a) (s.rg b) (s.rg c) (if w then some (0, true) else none) (some (y.pa, y.key))) := by
  refine (onTile_admits h _).trans (next_eq ((opChecks_new _ _ _ hhand).trans (if_neg ?_)))
  rintro (hbad | hbad | hbad)
  · exact ne_true_of_eq_false hgood hbad
  · exact (not_holdsSlot_iff s _).mpr hbad ha
  · exact (not_holdsSlot_iff s _).mpr hbad hb

theorem mma_refusedC (hbad : mmaBadC f (s.rg c).toNat = true) : exec (.mma a b c w f) s = .next (s.raise 0x09 0 (s.rg c) 0) :=
  (mma_checkedA h hhand hgood ha hb).trans (next_eq (if_pos hbad))

include hscratch hmail hcheck in
theorem mma_joins (hlegal : mmaBadC f (s.rg c).toNat = false) :
    exec (.mma a b c w f) s =
      .next (s.enqueueOp (.mma f) (s.rg a) (s.rg b) (s.rg c) (if w then some (0, true) else none) (some (y.pa, y.key))) :=
  (mma_checkedA h hhand hgood ha hb).trans
    (next_eq ((if_neg (ne_true_of_eq_false hlegal)).trans (barrierAccess_scratch hscratch hmail hcheck _)))

end

end

include hscratch hmail hcheck

theorem accrd_joins {w : Bool} {f : AccFmt} (h : s.tileAdmits (.accrd a b c w f) [a, b, c] = true) (hhand : s.cur.handFor = none)
    (hgood : accrdBad f (s.rg a).toNat = false) (halign : (s.rg c).toNat % accBytes f = 0) :
    exec (.accrd a b c w f) s =
      .next (s.enqueueOp (.accrd f) (s.rg a) (s.rg b) (s.rg c) (if w then some (0, true) else none) (some (y.pa, y.key))) :=
  (onTile_admits h _).trans (next_eq ((opChecks_new _ _ _ hhand).trans ((if_neg (ne_true_of_eq_false hgood)).trans
    ((if_neg (not_not_intro halign)).trans (barrierAccess_scratch hscratch hmail hcheck _)))))

/-- ACCGET and ACCADD name an even slot and an image at a multiple of 16 bytes (R276). -/
theorem pairOp_joins {i : Instr} (h : s.tileAdmits i [a, b, c] = true) (hhand : s.cur.handFor = none) (hlow : (s.rg a).toNat ≤ 63)
    (heven : (s.rg a).toNat % 2 = 0) (halign : (s.rg c).toNat % 16 = 0) (kind : EngKind) :
    pairOp i kind a b c s = .next (s.enqueueOp kind (s.rg a) (s.rg b) (s.rg c) none (some (y.pa, y.key))) :=
  (onTile_admits h _).trans (next_eq ((opChecks_new _ _ _ hhand).trans ((if_neg (by omega)).trans
    ((if_neg (not_not_intro halign)).trans (barrierAccess_scratch hscratch hmail hcheck _)))))

end

/-! ## Operations that report to none (R273, R275) -/

theorem acczero_issues (h : s.tileAdmits (.acczero a) [a] = true) (hhand : s.cur.handFor = none) :
    exec (.acczero a) s = .next (if 63 < (s.rg a).toNat then s.raise 0x09 0 (s.rg a) 0 else s.enqueueOp .acczero (s.rg a) 0 0 none none) :=
  (onTile_admits h _).trans (next_eq (opChecks_new _ _ _ hhand))

/-! ## Operations with their checks made (R260) -/

/-- The operations that report to a barrier, each with its kind and what a wait form waits for. -/
def reportingForms (a b c : GReg) (w : Bool) (f : MmaFmt) (g : AccFmt) : List (Instr × EngKind × Option (GReg × Bool)) :=
  let on := if w then some ((0 : GReg), true) else none
  [(.mma a b c w f, .mma f, on), (.accrd a b c w g, .accrd g, on), (.accget a b c, .accget, none), (.accadd a b c, .accadd, none)]

theorem exec_reportingForms (a b c : GReg) (w : Bool) (f : MmaFmt) (g : AccFmt) (s : State) :
    ∀ e ∈ reportingForms a b c w f g, ∃ checks, exec e.1 s = onTile e.1 [a, b, c] s fun s => s.opChecks e.2.1 e.2.2 checks := by
  simp only [reportingForms, List.forall_mem_cons]
  exact ⟨⟨_, rfl⟩, ⟨_, rfl⟩, ⟨_, rfl⟩, ⟨_, rfl⟩, List.forall_mem_nil _⟩

section
variable {x y z : Nat}

theorem reportingForms_inHand {pa key : Nat} (hhand : s.cur.handFor = some [x, y, z, pa, key]) (w : Bool) (f : MmaFmt) (g : AccFmt) :
    ∀ e ∈ reportingForms a b c w f g, s.admits { roam := true, ahead := false, compute := encode e.1 } [a, b, c] = true →
      exec e.1 s = .next (s.enqueueOp e.2.1 (BitVec.ofNat 64 x) (BitVec.ofNat 64 y) (BitVec.ofNat 64 z) e.2.2 (some (pa, key))) := by
  intro e he h
  obtain ⟨checks, hexec⟩ := exec_reportingForms a b c w f g s e he
  exact hexec.trans ((onTile_inHand h hhand _).trans (next_eq (opChecks_checked _ _ _ hhand)))

theorem acczero_inHand (hhand : s.cur.handFor = some [x, y, z])
    (h : s.admits { roam := true, ahead := false, compute := encode (.acczero a) } [a] = true) :
    exec (.acczero a) s = .next (s.enqueueOp .acczero (BitVec.ofNat 64 x) (BitVec.ofNat 64 y) (BitVec.ofNat 64 z) none none) :=
  (onTile_inHand h hhand _).trans (next_eq (opChecks_unreporting _ _ _ hhand))

theorem accsat_inHand (hhand : s.cur.handFor = some [x, y, z])
    (h : s.admits { roam := true, ahead := false, compute := encode (.accsat a c) } [a, c] = true) :
    exec (.accsat a c) s = .next (s.readSat (BitVec.ofNat 64 x) c) := by
  refine (onTile_inHand h hhand _).trans (next_eq ?_)
  rw [hhand]

end

/-! ## The place in the queue (R260, R262) -/

section
variable (kind : EngKind) (a b c : Dword) (w : Option (GReg × Bool)) (bar : Option (Nat × Nat))

theorem enqueueOp_full (hfull : 32 ≤ (s.tile s.here).engine.length) :
    s.enqueueOp kind a b c w bar = (s.modCur fun t => { t with inHand := some (t.pc, opInHand a b c bar) }).stallFor 14 0 0 .engineRoom :=
  if_pos hfull

/-- The operation that the thread whose turn it is adds to the queue. -/
def State.newOp (s : State) (kind : EngKind) (a b c : Dword) (w : Option (GReg × Bool)) (bar : Option (Nat × Nat)) : EngineOp :=
  let claim := fun (sh : Nat) => ((s.tile s.here).opSlot (fieldOf a.toNat sh 5)).claims
  { id := s.nextId, kind := kind, issuer := s.cur.name, core := s.focus.core, job := s.cur.job.setWidth 32, troot := s.cur.troot
    faultrec := s.cur.faultrec, nanStop := s.cur.nanctl.getLsbD 0, a := a, b := b, c := c, wait := (w.map (·.2)).getD false
    bar := (bar.map (·.1)).getD 0, barKey := (bar.map (·.2)).getD 0, pc := s.cur.pc, barVa := b, claimA := claim 0, claimB := claim 8 }

/-- The state with that operation in the queue, and the stores of its thread that come before its reports on their way (R262). -/
def State.queued (s : State) (kind : EngKind) (a b c : Dword) (w : Option (GReg × Bool)) (bar : Option (Nat × Nat)) : State :=
  let u := ({ s with nextId := s.nextId + 1 } : State).setTile s.here
    { s.tile s.here with engine := (s.tile s.here).engine ++ [s.newOp kind a b c w bar] }
  if bar.isSome then u.postOf s.cur.name else u

theorem tile_queued : ((s.queued kind a b c w bar).tile s.here).engine = (s.tile s.here).engine ++ [s.newOp kind a b c w bar] := by
  have hset : ∀ (u : State) (t : Tile), ((u.setTile s.here t).tile s.here).engine = t.engine := fun u t =>
    congrArg Tile.engine (tile_setTile_same u s.here t)
  unfold State.queued
  split
  · exact hset _ _
  · exact hset _ _

theorem cur_queued : (s.queued kind a b c w bar).cur = s.cur := by
  unfold State.queued
  split <;> rfl

/-- With room in the queue the thread goes on, or waits in a wait form. -/
theorem enqueueOp_room (hroom : (s.tile s.here).engine.length < 32) :
    s.enqueueOp kind a b c w bar =
      (match w with
        | some (d, y) => (s.queued kind a b c w bar).wait { k := if y then 6 else 14, a := b, act := .done d }
        | none => (s.queued kind a b c w bar).retire).notice (s.cycle + 1) .engineAccept { a := s.here, b := s.nextId } := by
  refine (if_neg (Nat.not_le.mpr hroom)).trans ?_
  obtain _ | ⟨d, y⟩ := w <;> obtain _ | ⟨pa, key⟩ := bar <;> rfl

theorem enqueueOp_joins (hroom : (s.tile s.here).engine.length < 32) : ∃ op : EngineOp,
    ((s.enqueueOp kind a b c w bar).tile s.here).engine = (s.tile s.here).engine ++ [op] ∧ op.kind = kind ∧ op.issuer = s.cur.name ∧
    op.a = a ∧ op.b = b ∧ op.c = c ∧ op.bar = (bar.map (·.1)).getD 0 ∧
    (w = none → (s.enqueueOp kind a b c w bar).cur.st = s.cur.st) ∧
    (∀ d y, w = some (d, y) → (s.enqueueOp kind a b c w bar).cur.st = .waiting) := by
  have hqueue := tile_queued (s := s) kind a b c w bar
  have hcur := cur_queued (s := s) kind a b c w bar
  refine ⟨s.newOp kind a b c w bar, ?_, rfl, rfl, rfl, rfl, rfl, rfl, ?_, ?_⟩
  · rw [enqueueOp_room _ _ _ _ _ _ hroom]
    obtain _ | ⟨d, y⟩ := w <;> exact hqueue
  · rintro rfl
    rw [enqueueOp_room _ _ _ _ _ _ hroom]
    show (s.queued kind a b c none bar).retire.cur.st = _
    rw [cur_retire, retire_st, hcur]
  · rintro d y rfl
    rw [enqueueOp_room _ _ _ _ _ _ hroom]
    exact congrArg Thread.st (cur_wait _ _)

end

end Sys2Proof.Machine

section

open Sys2Proof Sys2Proof.Machine

/-- Settles O37: an operation is checked once, and then takes its place or waits for one with what its checks gave in hand. -/
theorem engineIssueResults : Obligations.EngineIssueResults := by
  refine ⟨fun s a b c w f y h hhand => ⟨mma_refusedA h hhand, fun hgood ha hb => ⟨mma_refusedC h hhand hgood ha hb, ?_⟩⟩,
    fun s a h hhand => acczero_issues h hhand, ?_, ?_, ?_, fun s kind a b c w bar => ⟨enqueueOp_full kind a b c w bar, enqueueOp_joins kind a b c w bar⟩⟩
  · exact fun hlegal hcheck hscratch hmail => mma_joins hscratch hmail hcheck h hhand hgood ha hb hlegal
  · exact fun s a b c w f y h hhand hgood halign hcheck hscratch hmail => accrd_joins hscratch hmail hcheck h hhand hgood halign
  · intro s a b c y hlow heven halign hcheck hscratch hmail hhand
    exact ⟨fun h => pairOp_joins hscratch hmail hcheck h hhand hlow heven halign .accget,
      fun h => pairOp_joins hscratch hmail hcheck h hhand hlow heven halign .accadd⟩
  · intro s a b c w f g x y z pa key v on
    exact ⟨fun hhand => reportingForms_inHand hhand w f g, acczero_inHand, accsat_inHand⟩

end

end

section
/-!
Copies at issue (R277, R278, R283 to R285), and HREAD and HCANCEL (R287 to R293): the order of the checks, the batch that a copy joins, and the reads
that a thread may cancel.
-/

namespace Sys2Proof.Machine

/-! ## The checks of a copy (R278) -/

section

variable {s : State} {sparse : Bool} {ga gb : Dword} {d : List Nat}

theorem copyChecks_descriptor {k : Nat} (hbad : copyBad sparse d = some k) : s.copyChecks sparse ga gb d = s.raise 0x01 0 (BitVec.ofNat 64 k) 0 := by
  unfold State.copyChecks
  rw [hbad]

section
variable {y : Access} (hgood : copyBad sparse d = none) (hcheck : s.checkCur (BitVec.ofNat 64 (d.getD 0 0)) 16 true true = .ok y)
  (hscratch : (ownerCore (gpaLocal y.pa)).isSome = true) (hmail : isMailbox (gpaLocal y.pa) = false)
include hgood hcheck hscratch hmail

theorem copyChecks_misaligned {m : Dword} (hbad : copyMisaligned sparse (copyMode (d.getD 1 0)) ga gb = some m) :
    s.copyChecks sparse ga gb d = s.raise 0x03 m 0 0 := by
  unfold State.copyChecks
  rw [hgood]
  dsimp only
  rw [barrierAccess_scratch hscratch hmail hcheck, hbad]

/-- Past its descriptor, its barrier and its alignment, a copy is accepted where its slot or its accumulator region has the room. -/
theorem copyChecks_accepts (halign : copyMisaligned sparse (copyMode (d.getD 1 0)) ga gb = none)
    (hslot : toSlot (copyMode (d.getD 1 0)) = false ∨ (designatorBad ga.toNat = false ∧
      s.mayFill s.cur ((s.tile s.here).opSlot (ga.toNat % 32)) = true ∧
      fieldOf ga.toNat 8 9 + copyRows (d.getD 1 0) * copyLen (d.getD 1 0) / 64 ≤ 512))
    (hregion : copyMode (d.getD 1 0) ≠ 4 ∨ accRegionBad gb.toNat (copyRows (d.getD 1 0) * copyLen (d.getD 1 0)) = false) :
    s.copyChecks sparse ga gb d = s.acceptCopy sparse ga gb d (y.pa, y.key) := by
  unfold State.copyChecks
  rw [hgood]
  dsimp only
  rw [barrierAccess_scratch hscratch hmail hcheck, halign]
  refine (if_neg ?_).trans (if_neg ?_)
  · rintro ⟨hto, hbad⟩
    obtain hfrom | ⟨hdesignator, hfill, hfits⟩ := hslot
    · exact ne_true_of_eq_false hfrom hto
    · obtain hbad | hbad | hbad := hbad
      · exact ne_true_of_eq_false hdesignator hbad
      · rw [hfill] at hbad
        cases hbad
      · exact Nat.not_lt.mpr hfits hbad
  · rintro ⟨hmode, hbad⟩
    exact hregion.elim (fun hother => hother hmode) fun hfits => ne_true_of_eq_false hfits hbad

end

/-- A copy joins its open batch at once where the batch has room, with what was checked in hand (R278, R284). -/
theorem acceptCopy_joins (hroom : s.cur.openCopies ≠ 255) (bar : Nat × Nat) :
    s.acceptCopy sparse ga gb d bar =
      (s.modCur fun t => { t with inHand := some (t.pc, d.take 4 ++ [bar.1, bar.2, ga.toNat, gb.toNat]) }).enqueueCopy sparse ga gb d bar := by
  refine if_neg fun hfull => hroom ?_
  rwa [State.keep, cur_modCur] at hfull

end

/-! ## XCOPY and XCOPYSP (R278) -/

section

variable {s : State} {a b c : GReg}

/-- XCOPY and XCOPYSP, and whether the copy is sparse. -/
def copyForms (a b c : GReg) : List (Instr × Bool) := [(.xcopy a b c, false), (.xcopysp a b c, true)]

theorem exec_copyForms (a b c : GReg) (s : State) : ∀ e ∈ copyForms a b c, exec e.1 s = copyOp e.1 e.2 a b c s := by
  simp only [copyForms, List.forall_mem_cons]
  exact ⟨rfl, rfl, List.forall_mem_nil _⟩

/-- The four dwords of a copy descriptor. -/
theorem eq_dwords_of_length {ds : List Nat} (h : ds.length = 4) : ∃ d0 d1 d2 d3, ds = [d0, d1, d2, d3] :=
  match ds, h with
  | [d0, d1, d2, d3], _ => ⟨d0, d1, d2, d3, rfl⟩

/-- With its descriptor in hand, a copy goes on with its checks. -/
theorem copy_checks {d0 d1 d2 d3 : Nat} (hhand : s.cur.handFor = some [d0, d1, d2, d3]) {e : Instr × Bool} (he : e ∈ copyForms a b c)
    (h : s.tileAdmits e.1 [a, b, c] = true) : exec e.1 s = .next (s.copyChecks e.2 (s.rg a) (s.rg b) [d0, d1, d2, d3]) := by
  refine (exec_copyForms a b c s e he).trans ((onTile_admits h _).trans (next_eq ?_))
  rw [hhand]

/-- A copy that waited with its checks made joins its batch as it was checked. -/
theorem copy_inHand {d0 d1 d2 d3 pa key ga gb : Nat} (hhand : s.cur.handFor = some [d0, d1, d2, d3, pa, key, ga, gb])
    (hroom : s.cur.openCopies ≠ 255) {e : Instr × Bool} (he : e ∈ copyForms a b c)
    (h : s.admits { roam := true, ahead := false, compute := encode e.1 } [a, b, c] = true) :
    exec e.1 s = .next ((s.modCur fun t => { t with inHand := some (t.pc, [d0, d1, d2, d3, pa, key, ga % 2 ^ 64, gb % 2 ^ 64]) }).enqueueCopy e.2
      (BitVec.ofNat 64 ga) (BitVec.ofNat 64 gb) [d0, d1, d2, d3] (pa, key)) := by
  refine (exec_copyForms a b c s e he).trans ((onTile_inHand h hhand _).trans (next_eq ?_))
  rw [hhand]
  exact acceptCopy_joins hroom (pa, key)

end

/-! ## XCOMMIT and XWAIT (R283 to R285) -/

section

variable {s : State} {n : BitVec 3} (f : State → State)

theorem commit_empty (hopen : s.cur.openCopies = 0) : s.commit f = f s := if_pos hopen

theorem commit_full (hopen : s.cur.openCopies ≠ 0) (hclosed : s.cur.closed = 8) : s.commit f = s.stallFor 7 0 7 (.batches 7) :=
  (if_neg hopen).trans (if_pos hclosed)

theorem commit_closes (hopen : s.cur.openCopies ≠ 0) (hclosed : s.cur.closed ≠ 8) :
    s.commit f = f ((s.modCur Thread.closeBatch).countBatches s.cur.name 9) :=
  (if_neg hopen).trans (if_neg hclosed)

section
variable (h : s.tileAdmits (.xwait n) [] = true) (hopen : s.cur.openCopies = 0)
include h hopen

theorem xwait_completes (hfew : s.cur.closed ≤ n.toNat) : exec (.xwait n) s = .next (s.acquire s.focus.core).retire :=
  (onTile_admits h _).trans (next_eq ((commit_empty _ hopen).trans (if_neg (Nat.not_lt.mpr hfew))))

theorem xwait_leaves (hmany : n.toNat < s.cur.closed) : exec (.xwait n) s = .next (s.stallFor 7 0 (n.setWidth 64) (.batches n.toNat)) :=
  (onTile_admits h _).trans (next_eq ((commit_empty _ hopen).trans (if_pos hmany)))

end

end

/-! ## HREAD (R287 to R293) -/

section

variable {s : State} {a : GReg} {x : Access} {ds : List Nat}

theorem withDwords_inHand (hhand : s.cur.handFor = some ds) (ea : Dword) (n : Nat) (f : List Nat → State → State) :
    s.withDwords ea x n f = f ds s := by
  unfold State.withDwords
  rw [hhand]

theorem not_isNone_of_isSome {o : Option Nat} (ho : o.isSome = true) : ¬ o.isNone = true := by
  rw [Option.isNone_iff_eq_none]
  exact Option.isSome_iff_ne_none.mp ho

variable (h : s.admits { roam := true, ahead := false } [a] = true) (hcheck : s.checkCur (s.rg a) 64 true false = .ok x)

include h hcheck in
theorem hread_elsewhere (hplace : (ownerCore (gpaLocal x.pa)).isNone = true) : exec (.hread a) s = .next (s.raise 0x16 0 8 0) :=
  (issue_admits h _).trans (next_eq ((withAccess_ok hcheck _).trans (if_pos hplace)))

variable (hscratch : (ownerCore (gpaLocal x.pa)).isSome = true)

include h hcheck hscratch in
theorem hread_burst (hburst : s.cur.burst = true) : exec (.hread a) s = .next (s.raise 0x16 0 9 0) :=
  (issue_admits h _).trans (next_eq ((withAccess_ok hcheck _).trans ((if_neg (not_isNone_of_isSome hscratch)).trans (if_pos hburst))))

variable (hburst : s.cur.burst = false) (hhand : s.cur.handFor = some ds)

include hcheck hscratch hburst hhand in
/-- A thread that is no burst thread, with the descriptor at its scratchpad address in hand, goes on with it (R291). -/
theorem hreadDescriptor_inHand (f : List Nat → State → State) :
    (s.withAccess (s.rg a) 64 true false fun x => if (ownerCore (gpaLocal x.pa)).isNone then s.raise 0x16 0 8 0 else
      s.notBurst fun s' => s'.withDwords (s.rg a) x 8 f) = f ds s :=
  (withAccess_ok hcheck _).trans ((if_neg (not_isNone_of_isSome hscratch)).trans
    ((notBurst_admits hburst _).trans (withDwords_inHand hhand _ _ _)))

section
include h hcheck hscratch hburst hhand

theorem hread_descriptor {i : Nat} (hbad : hreadBad ds = some i) : exec (.hread a) s = .next (s.raise 0x16 0 (BitVec.ofNat 64 i) 0) := by
  refine (issue_admits h _).trans (next_eq ((hreadDescriptor_inHand hcheck hscratch hburst hhand _).trans ?_))
  rw [hbad]

variable (hgood : hreadBad ds = none)
include hgood

theorem hread_narrow (hchannel : 640 ≤ s.focus.core) (hconc : 48 < fieldOf (ds.getD 1 0) 0 7) :
    exec (.hread a) s = .next (s.raise 0x16 0 10 0) := by
  refine (issue_admits h _).trans (next_eq ((hreadDescriptor_inHand hcheck hscratch hburst hhand _).trans ?_))
  rw [hgood]
  exact if_pos ⟨hchannel, hconc⟩

/-- A legal descriptor whose completion line can take a record goes by its job's admission (R48, R293). -/
theorem hread_admission {y : Access} (hwide : s.focus.core < 640 ∨ fieldOf (ds.getD 1 0) 0 7 ≤ 48)
    (hline : s.checkCur (BitVec.ofNat 64 (ds.getD 5 0)) 16 false true (tile := false) = .ok y) (hdev : isDevice y.pa = false)
    (haper : s.actAper y.leaf ≠ 1) :
    let conc := fieldOf (ds.getD 1 0) 0 7
    (∀ i, s.jobIndex (s.cur.job.setWidth 32) = some i → (s.jobEntry i).allows conc = true → exec (.hread a) s = .next (s.reserve (s.rg a) ds)) ∧
    (s.jobIndex (s.cur.job.setWidth 32) = none → exec (.hread a) s = .next (s.raise 0x11 0 (BitVec.ofNat 64 conc) 0)) ∧
    (∀ i, s.jobIndex (s.cur.job.setWidth 32) = some i → (s.jobEntry i).allows conc = false →
      exec (.hread a) s = .next (s.raise 0x11 0 (BitVec.ofNat 64 conc) 0)) := by
  intro conc
  have hfits : ¬ (640 ≤ s.focus.core ∧ 48 < fieldOf (ds.getD 1 0) 0 7) := by omega
  have hplace : ¬ (isDevice y.pa = true ∨ s.actAper y.leaf = 1) := not_or.mpr ⟨ne_true_of_eq_false hdev, haper⟩
  show (∀ i, _ → _ → execHread a s = _) ∧ (_ → execHread a s = _) ∧ (∀ i, _ → _ → execHread a s = _)
  simp only [execHread, issue_admits h, hreadDescriptor_inHand hcheck hscratch hburst hhand, hgood, if_neg hfits, withAccess_place hline, if_neg hplace]
  refine ⟨fun i hjob hroom => ?_, fun hjob => ?_, fun i hjob hroom => ?_⟩
  · rw [hjob]
    exact next_eq (if_pos hroom)
  · rw [hjob]
  · rw [hjob]
    exact next_eq (if_neg (ne_true_of_eq_false hroom))

end

end

end Sys2Proof.Machine

section

open Sys2Proof Sys2Proof.Machine

/-- Settles O38: a copy goes through its checks in order or joins as it was checked, a batch is closed where there is one, and HREAD goes by its
descriptor, its completion line and its job. -/
theorem copyReadResults : Obligations.CopyReadResults := by
  refine ⟨⟨?_, ?_, ?_, ?_⟩, ?_, ?_, ?_⟩
  · intro s a b c ds hhand hlength e he h mode n
    obtain ⟨d0, d1, d2, d3, rfl⟩ := eq_dwords_of_length hlength
    have hexec := copy_checks hhand he h
    refine ⟨fun k hbad => hexec.trans (next_eq (copyChecks_descriptor hbad)), fun y hgood hcheck hscratch hmail => ⟨fun m hbad => ?_, ?_⟩⟩
    · exact hexec.trans (next_eq (copyChecks_misaligned hgood hcheck hscratch hmail hbad))
    · intro halign hslot hregion hroom
      exact hexec.trans (next_eq ((copyChecks_accepts hgood hcheck hscratch hmail halign hslot hregion).trans (acceptCopy_joins hroom _)))
  · exact fun s a b c d0 d1 d2 d3 pa key ga gb hhand hroom e he h => copy_inHand hhand hroom he h
  · intro s h
    exact ⟨fun hopen => (onTile_admits h _).trans (next_eq (commit_empty _ hopen)),
      fun hopen hclosed => (onTile_admits h _).trans (next_eq (commit_full _ hopen hclosed)),
      fun hopen hclosed => (onTile_admits h _).trans (next_eq (commit_closes _ hopen hclosed))⟩
  · exact fun s n h hopen => ⟨xwait_completes h hopen, xwait_leaves h hopen⟩
  · intro s a x ds h hcheck hscratch hburst hhand conc cl
    exact ⟨fun i => hread_descriptor h hcheck hscratch hburst hhand, hread_narrow h hcheck hscratch hburst hhand,
      fun y hgood hwide hline hdev haper => hread_admission h hcheck hscratch hburst hhand hgood hwide hline hdev haper⟩
  · exact fun s a x h hcheck => ⟨hread_elsewhere h hcheck, hread_burst h hcheck⟩
  · exact fun s a h => issue_admits h _

end

end

section
/-!
The events of the matrix engine (R130, R261, R262, R268 to R276): a slot that was cleared, an operation accepted, and the oldest operation of a queue
completed.
-/

namespace Sys2Proof.Machine

variable {s : State} {op : EngineOp}

/-! ## A cleared operand slot (R78, R265) -/

theorem operandSlotCleared_completes {name : Name} {p : Place} {c : GReg} {o : OpSlot} (hslot : (s.tile s.subject.a).opSlot s.subject.b = o)
    (hclearing : o.clearing = some name) (hplace : s.whereIs name = some p) :
    let u := s.setOpSlot s.subject.a s.subject.b
      { o with sectors := [], tags := [], undef := none, clearing := none, claims := o.claims + 1, poison := [], lastJob := some ((s.at p).job.setWidth 32) }
    (u.at p).wait.act = .done c → exec .operandSlotCleared s = .next (u.completeAt p fun t => t.wg c (BitVec.ofNat 64 s.subject.b)) := by
  intro u hwait
  show execOperandSlotCleared s = _
  simp only [execOperandSlotCleared, event, hslot, hclearing, hplace]
  dsimp only [u] at hwait
  rw [hwait]

/-! ## Acceptance (R260, R262) -/

section
variable (hop : s.op? s.subject.a s.subject.b = some op) (hnew : op.accepted = false)
include hop hnew

theorem engineAccept_unreporting (hreports : op.reports = false) :
    exec .engineAccept s = .next ((s.modOp s.subject.a op.id fun op => { op with accepted := true }).kick s.subject.a) := by
  have haccepted : ¬ op.accepted = true := ne_true_of_eq_false hnew
  have hsilent : (!op.reports) = true := by rw [hreports]; rfl
  show execEngineAccept s = _
  simp only [execEngineAccept, event, hop, if_neg haccepted, if_pos hsilent]

/-- After its issuer's earlier stores, a reporting operation makes its expectation, at once or by a message to its barrier. -/
theorem engineAccept_expects (hreports : op.reports = true) (hfirst : s.earlierOpen op.issuer op.id = false) :
    (s.atOnce op.bar = true → exec .engineAccept s = .next (s.expectAt s.subject.a op)) ∧
    (s.atOnce op.bar = false →
      let u := (s.agentUpdate op.agent op.bar op.barKey (.expect op.sectors)).modOp s.subject.a op.id fun op => { op with accepted := true, known := false }
      exec .engineAccept s = .next (u.notice (u.cycle + 4) .engineAccept { a := s.subject.a, b := op.id })) := by
  have haccepted : ¬ op.accepted = true := ne_true_of_eq_false hnew
  have hloud : ¬ (!op.reports) = true := by simp [hreports]
  have hopen : ¬ s.earlierOpen op.issuer op.id = true := ne_true_of_eq_false hfirst
  show (_ → execEngineAccept s = _) ∧ (_ → execEngineAccept s = _)
  simp only [execEngineAccept, event, hop, if_neg haccepted, if_neg hloud, if_neg hopen]
  exact ⟨fun hnow => next_eq (if_pos hnow), fun hlater => next_eq (if_neg (ne_true_of_eq_false hlater))⟩

end

/-! ## The head of a queue (R262) -/

section
variable {rest : List EngineOp} (hqueue : (s.tile s.subject.a).engine = op :: rest) (hid : op.id = s.subject.b)
  (haccepted : op.accepted = true) (hknown : op.known = true)
include hqueue hid haccepted hknown

/-- The oldest operation of a queue, whose issuer has nothing to be told, completes. -/
theorem completing_head (htold : op.told = none) (f : Nat → EngineOp → State) : s.completing f = f s.subject.a op := by
  unfold State.completing
  simp only [hqueue, htold, if_pos (And.intro hid (And.intro haccepted hknown))]

/-- One whose issuer on another package has been told of its flags arrives with the answers (R109). -/
theorem completing_told {ids : List Nat} (htold : op.told = some ids) (f : Nat → EngineOp → State) :
    s.completing f = if s.anyOpen ids then s.opAgain s.subject.a op else s.opFinish s.subject.a op none := by
  unfold State.completing
  simp only [hqueue, htold, if_pos (And.intro hid (And.intro haccepted hknown))]

end

/-- The events that complete the oldest operation of a queue. -/
def completions : List Instr := [.mmaComplete, .acczeroDone, .accrdComplete, .accgetComplete, .accaddComplete]

theorem exec_completions (s : State) : ∀ i ∈ completions, ∃ f, exec i s = .next (s.completing f) := by
  simp only [completions, List.forall_mem_cons]
  exact ⟨⟨_, rfl⟩, ⟨_, rfl⟩, ⟨_, rfl⟩, ⟨_, rfl⟩, ⟨_, rfl⟩, List.forall_mem_nil _⟩

/-! ## Completions (R271, R273 to R276) -/

section
variable {tile : Nat} (hcompletes : ∀ f : Nat → EngineOp → State, s.completing f = f tile op)
include hcompletes

theorem mmaComplete_adds {f : MmaFmt} (hkind : op.kind = .mma f) :
    let x := mmaArgs f op.a.toNat op.c.toNat
    let a := s.operand tile x.aSlot op.claimA op.issuer
    let b := s.operand tile x.bSlot op.claimB op.issuer
    let u : State := { s with fresh := s.fresh + slotValues * 32 }
    (f ≠ .tag ∨ mmaTagFault x (mmaShape f x.e80).q a b = none) → mmaPoison f x a b = none → mmaAccPoison (s.tile tile) f x = false →
    let r := runMma (s.tile tile) f x a b
    exec .mmaComplete s = .next ((u.setTile tile (r.tile.saturate x.cSlot r.sats)).opArriveWith tile op r.flags (op.stopOf x.cSlot r.nan)) := by
  intro x a b u htag hpoison hacc r
  have htags : (if f = .tag then mmaTagFault x (mmaShape f x.e80).q a b else none) = none :=
    htag.elim (fun hfloat => if_neg hfloat) fun hgood => by rw [hgood, ite_self]
  refine next_eq ((hcompletes _).trans ?_)
  dsimp only
  rw [hkind]
  dsimp only
  rw [htags, hpoison]
  exact if_neg (ne_true_of_eq_false hacc)

theorem acczeroDone_clears (hkind : op.kind = .acczero) :
    exec .acczeroDone s = .next ((s.setTile tile ((s.tile tile).zeroAcc (op.a.toNat % 64))).opDone tile op.id) := by
  refine next_eq ((hcompletes _).trans ?_)
  rw [hkind]

theorem accrdComplete_writes {f : AccFmt} (hkind : op.kind = .accrd f)
    (hpoison : (s.tile tile).poisonedRow (fieldOf op.a.toNat 8 2) (op.a.toNat % 64) (accCols (fieldOf op.a.toNat 8 2))
      (accCols (fieldOf op.a.toNat 8 2)) = none) :
    let kind := fieldOf op.a.toNat 8 2
    let slot := op.a.toNat % 64
    let total := fun (s : State) (op : EngineOp) => (s.tile tile).accTotals f kind slot op.done
    let count := fun (s : State) (op : EngineOp) => s.setTile tile ((s.tile tile).saturate slot (total s op).2)
    exec .accrdComplete s = .next (State.writeRows tile
      (fun s r => (op.c.toNat + r * accPitch f op.a.toNat, ((s.tile tile).accRow f kind slot r).flatMap fun e => leBytes (accBytes f) e.1))
      (accCols kind) (fun s op => (count s op).opArrive tile op (total s op).1)
      (fun s op code => (((count s op).flagsTo op (total s op).1).1).opFault tile op code op.done) 65 s op) := by
  refine next_eq ((hcompletes _).trans ?_)
  dsimp only
  rw [hkind]
  dsimp only
  rw [hpoison]

theorem accgetComplete_writes (hkind : op.kind = .accget) (hpoison : (s.tile tile).poisonedRow 3 (op.a.toNat % 64) 4 1024 = none) :
    exec .accgetComplete s = .next (State.writeRows tile
      (fun s i => (op.c.toNat + 64 * i, (s.tile tile).pairSector (op.a.toNat % 64) i)) 1024 (fun s op => s.opArrive tile op {})
      (fun s op code => s.opFault tile op code op.done) 1025 s op) := by
  refine next_eq ((hcompletes _).trans ?_)
  rw [hkind]
  dsimp only
  rw [hpoison]

/-- ACCADD reads its whole image, its dwords given as `d`, before it adds anything. -/
theorem accaddComplete_adds {u : State} {c : Assoc Nat} {bs : List Byte} {n : Nat} {d : Nat → Nat} (hkind : op.kind = .accadd)
    (himage : s.readImage op.agent op.cache op.c.toNat 1024 = (u, c, .bytes bs, n)) (hd : (fun i => leValue ((bs.drop (8 * i)).take 8)) = d)
    (hgood : pairImageBad d = none) (hpoison : (u.tile tile).poisonedRow 3 (op.a.toNat % 64) 4 1024 = none) :
    let r := runAccadd (u.tile tile) (op.a.toNat % 64) d
    exec .accaddComplete s = .next ((u.setTile tile (r.tile.saturate (op.a.toNat % 64) r.sats)).opArrive tile op r.flags) := by
  refine next_eq ((hcompletes _).trans ?_)
  rw [hkind]
  dsimp only
  rw [himage]
  dsimp only
  rw [hd, hgood, hpoison]

end

theorem accsatComplete_answers {p : Place} {d : GReg} (hop : s.op? s.subject.a s.subject.b = some op) (hkind : op.kind = .accsat d)
    (hplace : s.whereIs op.issuer = some p) (hidle : (s.tile s.subject.a).slotBusy (op.a.toNat % 64) op.id = false)
    (hwait : (s.at p).wait.act = .done d) :
    exec .accsatComplete s =
      .next ((s.completeAt p fun t => t.wg d (((s.tile s.subject.a).accSlot (op.a.toNat % 64)).sat.setWidth 64)).opDone s.subject.a op.id) := by
  have hfree : ¬ (s.tile s.subject.a).slotBusy (op.a.toNat % 64) op.id = true := ne_true_of_eq_false hidle
  show execAccsatComplete s = _
  simp only [execAccsatComplete, event, hop, if_neg hfree, hkind, hplace, if_pos hwait]

/-! ## The NaN stop (R130) -/

theorem nanStop_cases {n : NanStop} (hstop : s.cur.nanStop = some n) :
    (s.cur.runsAhead = false → exec .nanStop s = .next ((s.modCur fun t => { t with nanStop := none }).raiseFault
      { code := 0x0D, pc := s.cur.pc, w2 := n.va, w4 := n.w4, w5 := n.w5, recordPc := some n.pc })) ∧
    (s.cur.runsAhead = true → exec .nanStop s = .next (s.stallFor 12 0 0 .verdict)) := by
  show (_ → execNanStop s = _) ∧ (_ → execNanStop s = _)
  simp only [execNanStop, event, hstop]
  exact ⟨fun hown => next_eq (if_neg (ne_true_of_eq_false hown)), fun hahead => next_eq (if_pos hahead)⟩

end Sys2Proof.Machine

section

open Sys2Proof Sys2Proof.Machine

/-- Settles O50, event by event: what each does with the operation at the head of its queue, or with the slot or the thread that it is about. -/
theorem engineEvents : Obligations.EngineEvents := by
  refine ⟨fun s name p c o hslot hclearing hplace _ => operandSlotCleared_completes hslot hclearing hplace,
    fun s op hop hnew => ⟨engineAccept_unreporting hop hnew, engineAccept_expects hop hnew⟩, ?_,
    fun s op p d => accsatComplete_answers, fun s n => nanStop_cases⟩
  rintro s op rest _ rfl hqueue hid haccepted hknown
  have hhead := completing_head hqueue hid haccepted hknown
  refine ⟨fun ids htold i hi => ?_, fun htold f hkind => mmaComplete_adds (hhead htold) hkind, fun htold hkind => acczeroDone_clears (hhead htold) hkind,
    fun htold f hkind hpoison => accrdComplete_writes (hhead htold) hkind hpoison,
    fun htold hkind hpoison => accgetComplete_writes (hhead htold) hkind hpoison,
    fun htold u c bs n hkind himage => accaddComplete_adds (hhead htold) hkind himage rfl⟩
  obtain ⟨f, hexec⟩ := exec_completions s i hi
  exact hexec.trans (next_eq (completing_told hqueue hid haccepted hknown htold f))

end

end

section
/-!
Where CBR departs from O39 (R315). The model's CBR writes DEADLINE of its wave's block before it counts the thread in VOTED; the statement, as R315, after.
The two orders leave one block, and send what the two writes bring about in another order: the fire of a watch on the block's line for the one, the
notice of the expiry for the other.
-/

namespace Sys2Proof.Machine

/-- A thread of the first wave of core 0 whose votes have a timeout of 1024 cycles. -/
def timedVoter : Thread := { st := .bound, pos := some 0, tid := 0x1000000, wid := 0, ctimeout := 1 }

/-- Its package: the wave has two live threads and is a member of a collective (CSTAT = 2), and the thread watches the sector of the wave's block. -/
def watchedWave : State :=
  { cores := [(0, { ctxs := [(0, timedVoter)] })]
    mem := [(wcbAddr 0 0 + 2, 2), (wcbAddr 0 0 + 31, 0x80)]
    waves := [wcbAddr 0 0]
    watches := [{ name := 0x1000000, reg := 0, line := wcbAddr 0 0 / 256, mask := 1, armed := 0 }] }

/-- The thread's CBR passes every test of R315. -/
theorem watchedWave_votes :
    watchedWave.cur.wave = some (wcbAddr 0 0) ∧ watchedWave.admits { roam := true, ahead := false } [0] = true ∧
    watchedWave.cstat (wcbAddr 0 0) = 2 ∧ watchedWave.cur.cmemEpoch = watchedWave.waveEpoch (wcbAddr 0 0) % 65536 := by decide +kernel

/-- The numbers of the notices of an expiry that a step leaves in flight. -/
def expiryNumbers : Host.Outcome State Fault Refusal → List Nat
  | .next s => (s.flight.filter fun m => match m.body with | .notice .deadlineExpiry _ => true | _ => false).map (·.id)
  | _ => []

/-- The notice is the third message: the fire of the count comes after it. -/
theorem expiryNumbers_cbrAny : expiryNumbers (exec (.cbrAny 0 0) watchedWave) = [2] := by decide +kernel

end Sys2Proof.Machine

section

open Sys2Proof Sys2Proof.Machine

/-- Refutes O39: where the thread watches the block of its wave, the model's CBR gives the notice of its deadline a lower number than the fire of its count in
VOTED, and the statement, which counts the thread first, a higher one. -/
theorem not_collectiveResults : ¬ Obligations.CollectiveResults := by
  rintro ⟨-, hmember, -⟩
  obtain ⟨hwave, hadmits, hcstat, hepoch⟩ := watchedWave_votes
  obtain ⟨-, -, hcbr, -⟩ := hmember watchedWave 0 0 0 (wcbAddr 0 0) hwave
  obtain ⟨-, -, hvote, -⟩ := hcbr hadmits (.cbrAny 0 0, false) List.mem_cons_self
  have hnumbers := expiryNumbers_cbrAny.symm.trans (congrArg expiryNumbers (hvote hcstat hepoch))
  exact absurd hnumbers (by decide +kernel)

end

end

section
/-!
The events of collectives (R310 to R323): join and leave requests, votes and summaries at an entry of the home gateway, verdicts on their way and applied,
and the two ways to an abort.
-/

namespace Sys2Proof.Machine

variable {s : State} {m : Msg} {a j : Nat} {id : Word} {f : Flit} {c : Coll}

/-! ## At an entry (R317, R323, R407) -/

/-- A message of the entry's epoch is the entry's. -/
theorem onEntry_epoch (hentry : s.collEntry f.collid = some (j, c)) (hepoch : c.epoch = f.epoch) (g : Nat → Coll → State) : s.onEntry f g = g j c := by
  unfold State.onEntry
  rw [hentry]
  exact if_pos hepoch

theorem mayHear_iff (c : Coll) (pkg : Nat) : c.mayHear pkg = true ↔ pkg ∈ c.kids ∨ c.kids.length < c.children.toNat := by
  simp [Coll.mayHear]

theorem hears_eq (c : Coll) (pkg : Nat) : ∃ kids, c.hears pkg = { c with kids := kids } := by
  unfold Coll.hears
  split
  · exact ⟨c.kids, rfl⟩
  · exact ⟨c.kids ++ [pkg], rfl⟩

/-- An entry that may have heard of a child differs in its children alone. -/
theorem ite_hears_eq (p : Prop) [Decidable p] (c : Coll) (pkg : Nat) : ∃ kids, (if p then c.hears pkg else c) = { c with kids := kids } := by
  split
  · exact hears_eq c pkg
  · exact ⟨c.kids, rfl⟩

/-- A join request whose wave is joining with every live thread is still the wave's (R314). -/
theorem not_joinStale (hstatus : s.cstat a = 1) (hid : fieldOf (s.wcb a 3) 0 32 = id.toNat) (hall : s.voted a = s.waveLive a) :
    ¬ (s.cstat a ≠ 1 ∨ fieldOf (s.wcb a 3) 0 32 ≠ id.toNat ∨ s.voted a ≠ s.waveLive a) :=
  not_or.mpr ⟨not_not.mpr hstatus, not_or.mpr ⟨not_not.mpr hid, not_not.mpr hall⟩⟩

section
variable (hmsg : s.msg? s.subject.a = some m)
include hmsg

theorem verdict_queued (hbody : m.body = .verdict f) (hblock : f.block = some a) :
    let u := s.drop m.id
    exec .verdict s = .next (u.setCore (coreOfBlock a) { u.core (coreOfBlock a) with verdicts := (u.core (coreOfBlock a)).verdicts ++ [(a, f)] }) := by
  show execVerdict s = _
  simp only [execVerdict, event, hmsg, hbody, hblock]

section
variable (hentry : (s.drop m.id).collEntry f.collid = some (j, c)) (hepoch : c.epoch = f.epoch)
include hentry hepoch

theorem vote_gathers (hbody : m.body = .vote f) :
    (f.member ∉ c.voted → exec .vote s = .next ((s.drop m.id).collCheck j { c.merge f with voted := c.voted ++ [f.member] })) ∧
    (f.member ∈ c.voted → exec .vote s = .next (s.drop m.id)) := by
  show (_ → execVote s = _) ∧ (_ → execVote s = _)
  simp only [execVote, event, hmsg, hbody, onEntry_epoch hentry hepoch, List.contains_iff_mem]
  exact ⟨fun hnew => next_eq (if_neg hnew), fun hold => next_eq (if_pos hold)⟩

theorem summary_gathers (hbody : m.body = .summary f) :
    exec .summary s = .next (if f.sender ∉ c.heard ∧ (f.sender ∈ c.kids ∨ c.kids.length < c.children.toNat) then
        (s.drop m.id).collCheck j { (c.hears f.sender).merge f with heard := c.heard ++ [f.sender] }
      else s.drop m.id) := by
  have hdropped : (c.heard.contains f.sender = true ∨ (!c.mayHear f.sender) = true) ↔
      ¬ (f.sender ∉ c.heard ∧ (f.sender ∈ c.kids ∨ c.kids.length < c.children.toNat)) := by
    rw [← mayHear_iff, List.contains_iff_mem, Bool.not_eq_true', ← Bool.not_eq_true]
    tauto
  show execSummary s = _
  simp only [execSummary, event, hmsg, hbody, onEntry_epoch hentry hepoch, hdropped, ite_not]

theorem verdict_passes (hbody : m.body = .verdict f) (hblock : f.block = none) (hchild : c.parent ≠ (s.drop m.id).pkg) (hsender : f.sender = c.parent) :
    exec .verdict s = .next ((s.drop m.id).verdictAt j c f.result f.reason) := by
  have hparent : ¬ (c.parent = (s.drop m.id).pkg ∨ f.sender ≠ c.parent) := not_or.mpr ⟨hchild, not_not.mpr hsender⟩
  show execVerdict s = _
  simp only [execVerdict, event, hmsg, hbody, hblock, onEntry_epoch hentry hepoch, if_neg hparent]

theorem abortRequest_rises (hbody : m.body = .abortReq f) :
    let u := s.drop m.id
    let c' := if f.sender ≠ u.pkg ∧ c.mayHear f.sender then c.hears f.sender else c
    (c.parent = u.pkg → exec .abortRequest s = .next (u.verdictAt j c' 2 1)) ∧
    (c.parent ≠ u.pkg → c.abortSent = true → exec .abortRequest s = .next u) ∧
    (c.parent ≠ u.pkg → c.abortSent = false → exec .abortRequest s = .next ((u.setColl j { c' with abortSent := true }).send 100 c.parent
      (u.fromGateway (homeGateway c.collid)) (.abortReq { f with sender := u.pkg }))) := by
  intro u c'
  obtain ⟨kids, hkids⟩ : ∃ kids, c' = { c with kids := kids } := ite_hears_eq _ c f.sender
  have hexec : exec .abortRequest s = .next (if c'.parent = u.pkg then u.verdictAt j c' 2 1 else if c'.abortSent then u
      else (u.setColl j { c' with abortSent := true }).send 100 c'.parent (u.fromGateway (homeGateway c'.collid)) (.abortReq { f with sender := u.pkg })) := by
    show execAbortRequest s = _
    simp only [execAbortRequest, event, hmsg, hbody, onEntry_epoch hentry hepoch, c', u]
  rw [hexec, hkids]
  exact ⟨fun hroot => next_eq (if_pos hroot), fun hchild hsent => next_eq ((if_neg hchild).trans (if_pos hsent)),
    fun hchild hsent => next_eq ((if_neg hchild).trans (if_neg (ne_true_of_eq_false hsent)))⟩

end

/-! ## Joining and leaving (R314, R316) -/

section
variable (hbody : m.body = .collJoin a id) (hstatus : (s.drop m.id).cstat a = 1) (hid : fieldOf ((s.drop m.id).wcb a 3) 0 32 = id.toNat)
  (hall : (s.drop m.id).voted a = (s.drop m.id).waveLive a)
include hbody hstatus hid hall

theorem collJoin_accepted (hentry : (s.drop m.id).collEntry id = some (j, c)) (hroom : c.joined.toNat < c.locals.toNat) :
    let u := s.drop m.id
    let index := (c.base + c.joined).toNat
    let v := (((((u.setColl j { c with joined := c.joined + 1, members := c.members ++ [(a, index)] }).setWcb a 3
      (id.toNat + at' 32 index + at' 48 1 + at' 62 2)).setWcb a 4 (epochDword c.epoch.toNat 0 3)).setWcb a 5 0).tellVoters a
        (.joined (memberWord c.epoch.toNat index c.totalm1.toNat j)))
    exec .collJoinRequest s = .next (v.forVoters a fun s p => s.inImage p fun s =>
      (s.setAt p { s.at p with voted := false, cmem := memberWord c.epoch.toNat index c.totalm1.toNat j }).completeAt p fun t => t) := by
  show execCollJoinRequest s = _
  simp only [execCollJoinRequest, event, hmsg, hbody, if_neg (not_joinStale hstatus hid hall), hentry, if_neg (Nat.not_le.mpr hroom)]

theorem collJoin_refused {why : Nat} (hwhy : ((s.drop m.id).collEntry id = none ∧ why = 3) ∨
      (∃ j c, (s.drop m.id).collEntry id = some (j, c) ∧ c.locals.toNat ≤ c.joined.toNat ∧ why = 4)) :
    exec .collJoinRequest s = .next (((((s.drop m.id).forVoters a fun s p => s.inImage p fun s =>
      (s.setAt p { s.at p with voted := false }).faultAt p { code := 0x10, pc := (s.at p).pc, w2 := 0, w4 := BitVec.ofNat 64 why, w5 := 0 }).tellVoters
        a (.refused why)).wcbField a 3 62 2 0).wcbField a 4 16 7 0) := by
  show execCollJoinRequest s = _
  obtain ⟨hnone, rfl⟩ | ⟨j, c, hentry, hfull, rfl⟩ := hwhy
  · simp only [execCollJoinRequest, event, hmsg, hbody, if_neg (not_joinStale hstatus hid hall), hnone]
  · simp only [execCollJoinRequest, event, hmsg, hbody, if_neg (not_joinStale hstatus hid hall), hentry, if_pos hfull]

end

theorem collLeave_counts {i : Nat} (hbody : m.body = .collLeave a id) :
    let u := s.drop m.id
    let w := if u.cstat a = 3 ∧ fieldOf (u.wcb a 3) 0 32 = id.toNat then
        ((((u.setWcb a 3 0).setWcb a 4 (epochDword 0 0 3)).setWcb a 5 0).tellVoters a .left).forVoters a fun s p =>
          s.inImage p fun s => (s.setAt p { s.at p with voted := false, cmem := 0 }).completeAt p fun t => t
      else u
    w.collEntry id = some (j, c) → (c.members.find? fun m => m.1 == a) = some (a, i) →
    exec .collLeaveRequest s = .next (w.collCheck j
      { c with left := c.left + 1, members := c.members.filter fun m => m.1 != a, votedLeft := c.votedLeft + (if c.voted.contains i then 1 else 0) }) := by
  intro u w hentry hmember
  show execCollLeaveRequest s = _
  simp only [execCollLeaveRequest, event, hmsg, hbody]
  rw [hentry]
  dsimp only
  rw [hmember]

end

/-! ## Deadlines and held stores (R321, R323) -/

theorem deadlineExpiry_asks (hstatus : s.cstat s.subject.a = 2) (hnow : s.wcb s.subject.a 5 = s.subject.b) (hset : s.subject.b ≠ 0) :
    let id := BitVec.ofNat 32 (s.wcb s.subject.a 3)
    exec .deadlineExpiry s = .next (s.post (gatewayDelay (coreOfBlock s.subject.a) (homeGateway id)) { pkg := s.pkg, core := coreOfBlock s.subject.a }
      (.abortReq { collid := id, epoch := BitVec.ofNat 32 (s.waveEpoch s.subject.a), sender := s.pkg })) := by
  have hdue : ¬ (s.cstat s.subject.a ≠ 2 ∨ s.wcb s.subject.a 5 ≠ s.subject.b ∨ s.wcb s.subject.a 5 = 0) :=
    not_or.mpr ⟨not_not.mpr hstatus, not_or.mpr ⟨not_not.mpr hnow, fun hzero => hset (hnow.symm.trans hzero)⟩⟩
  exact next_eq (if_neg hdue)

theorem heldStoreCommit_posts {p : Place} {b : Bank} (hplace : s.whereIs s.subject.name = some p) (hbank : (s.at p).bank = some b)
    (hcommit : b.committing = true) : exec .heldStoreCommit s = .next ((State.postHeld p 16 s).settle s.subject.name) := by
  show execHeldStoreCommit s = _
  simp only [execHeldStoreCommit, event, hplace, hbank, if_pos hcommit]

/-! ## Applying a verdict (R321) -/

theorem verdictApply_far {n : Name} (hfar : f.far = some n) (hname : s.subject.name = n) (hverdicts : (s.core s.subject.a).verdicts = [(s.subject.b, f)]) :
    exec .verdictApply s = .next (s.verdictFar s.subject.a n f) := by
  show execVerdictApply s = _
  simp [execVerdictApply, event, hverdicts, hfar, hname]

/-- A wave in the epoch of a verdict, with the verdict applied to its voters and to its block; a wave that is leaving keeps its votes (log 59). -/
def State.takeVerdict (u : State) (a : Nat) (f : Flit) (leaving : Bool) : State :=
  let s := if leaving then u else
    (u.forVoters a fun s p => s.inImage p fun s => (s.applyVerdict f p).settle (s.at p).name).tellVoters a (.verdict f)
  let voted := if leaving then s.voted a else 0
  let s := s.setWcb a 4 (epochDword (s.waveEpoch a + 1) (fieldOf (s.wcb a 4) 5 1) f.result + at' 16 voted)
  if leaving then s else s.setWcb a 5 0

theorem takeVerdict_member (u : State) (a : Nat) (f : Flit) :
    let v := (u.forVoters a fun s p => s.inImage p fun s => (s.applyVerdict f p).settle (s.at p).name).tellVoters a (.verdict f)
    u.takeVerdict a f false = (v.setWcb a 4 (epochDword (v.waveEpoch a + 1) (fieldOf (v.wcb a 4) 5 1) f.result)).setWcb a 5 0 := by
  simp only [State.takeVerdict, Bool.false_eq_true, if_false, at', Nat.zero_mul, Nat.add_zero]

theorem takeVerdict_leaving (u : State) (a : Nat) (f : Flit) : u.takeVerdict a f true =
    u.setWcb a 4 (epochDword (u.waveEpoch a + 1) (fieldOf (u.wcb a 4) 5 1) f.result + at' 16 (u.voted a)) := by
  simp only [State.takeVerdict, if_true]

section
variable (hverdicts : (s.core s.subject.a).verdicts = [(s.subject.b, f)]) (hhome : f.far = none) (hname : s.subject.name = 0)
include hverdicts hhome hname

/-- The one verdict that waits at the core of a wave's block leaves the core, and is taken where the block is in the collective and in the epoch. -/
theorem verdictApply_takes :
    let a := s.subject.b
    let u := s.setCore s.subject.a { s.core s.subject.a with verdicts := [] }
    2 ≤ u.cstat a → fieldOf (u.wcb a 3) 0 32 = f.collid.toNat → u.waveEpoch a = f.epoch.toNat →
    exec .verdictApply s = .next (u.takeVerdict a f (u.cstat a == 3)) := by
  intro a u hstatus hid hepoch
  have hfind : ((s.core s.subject.a).verdicts.find? fun v => v.1 == s.subject.b && v.2.far.getD 0 == s.subject.name) = some (s.subject.b, f) := by
    simp [hverdicts, hhome, hname]
  have htaken : ((s.core s.subject.a).verdicts.filter fun v => !(v.1 == s.subject.b && v.2.far.isNone && v.2.epoch == f.epoch)) = [] := by
    simp [hverdicts, hhome]
  have hlocal : ¬ f.far.isSome = true := by simp [hhome]
  have hcurrent : ¬ (u.cstat a < 2 ∨ fieldOf (u.wcb a 3) 0 32 ≠ f.collid.toNat ∨ u.waveEpoch a ≠ f.epoch.toNat) :=
    not_or.mpr ⟨Nat.not_lt.mpr hstatus, not_or.mpr ⟨not_not.mpr hid, not_not.mpr hepoch⟩⟩
  show execVerdictApply s = _
  simp only [execVerdictApply, event, hfind, if_neg hlocal, htaken]
  exact next_eq (if_neg hcurrent)

theorem verdictApply_home :
    let a := s.subject.b
    let u := s.setCore s.subject.a { s.core s.subject.a with verdicts := [] }
    fieldOf (u.wcb a 3) 0 32 = f.collid.toNat → u.waveEpoch a = f.epoch.toNat →
    let v := (u.forVoters a fun s p => s.inImage p fun s => (s.applyVerdict f p).settle (s.at p).name).tellVoters a (.verdict f)
    (u.cstat a = 2 → exec .verdictApply s =
      .next ((v.setWcb a 4 (epochDword (v.waveEpoch a + 1) (fieldOf (v.wcb a 4) 5 1) f.result)).setWcb a 5 0)) ∧
    (u.cstat a = 3 → exec .verdictApply s =
      .next (u.setWcb a 4 (epochDword (u.waveEpoch a + 1) (fieldOf (u.wcb a 4) 5 1) f.result + at' 16 (u.voted a)))) := by
  intro a u hid hepoch v
  have htakes (hstatus : 2 ≤ u.cstat a) : exec .verdictApply s = .next (u.takeVerdict a f (u.cstat a == 3)) :=
    verdictApply_takes hverdicts hhome hname hstatus hid hepoch
  refine ⟨fun hmember => ?_, fun hleaving => ?_⟩
  · rw [htakes hmember.ge, hmember]
    exact next_eq (takeVerdict_member u a f)
  · rw [htakes (by omega), hleaving]
    exact next_eq (takeVerdict_leaving u a f)

end

end Sys2Proof.Machine

section

open Sys2Proof Sys2Proof.Machine

/-- Settles O49, event by event: what a message asks of its entry or wave, and what an expiry, a commit and a verdict at a core do. -/
theorem collectiveEvents : Obligations.CollectiveEvents := by
  intro s
  refine ⟨fun m hmsg => ⟨?_, ?_, ?_, ?_, ?_, ?_, ?_, ?_⟩, deadlineExpiry_asks, fun p b => heldStoreCommit_posts, fun f n => verdictApply_far,
    fun f => verdictApply_home⟩
  · exact fun a id j c hbody hstatus hid hall hentry hroom => collJoin_accepted hmsg hbody hstatus hid hall hentry hroom
  · exact fun a id why hbody hstatus hid hall hwhy => collJoin_refused hmsg hbody hstatus hid hall hwhy
  · exact fun f j c hbody hentry hepoch => vote_gathers hmsg hentry hepoch hbody
  · exact fun f j c hbody hentry hepoch => summary_gathers hmsg hentry hepoch hbody
  · exact fun f a hbody hblock => verdict_queued hmsg hbody hblock
  · exact fun f j c hbody hblock hentry hepoch hchild hsender => verdict_passes hmsg hentry hepoch hbody hblock hchild hsender
  · exact fun a id j c i hbody => collLeave_counts hmsg hbody
  · exact fun f j c hbody hentry hepoch => abortRequest_rises hmsg hentry hepoch hbody

end

end


-- ---- Memory stays canonical (O56) ----
section
/-!
PROOFS. Every step keeps memory canonical. Memory changes in three ways only: a byte is written, a page is pasted, a page is cleared; each keeps
the list of cells rising and free of zeros. What follows says so once for each operation on the state, in the order of the model, so that the lemma
about an operation is the chain of the lemmas about those that it calls.
-/

open Sys2Proof.Machine

namespace Sys2Proof

/-! ## How the property passes through a term -/

theorem MemoryCanonical.of_storage {s t : State} (h : MemoryCanonical s) (e : t.storage = s.storage) : MemoryCanonical t := by
  have hmem : t.mem = s.mem := congrArg Storage.mem e
  unfold MemoryCanonical
  rw [hmem]
  exact h

theorem MemoryCanonical.ite {c : Prop} [Decidable c] {s t : State} (hs : MemoryCanonical s) (ht : MemoryCanonical t) :
    MemoryCanonical (if c then s else t) := by split <;> assumption

theorem MemoryCanonical.foldl {α : Type} {f : State → α → State} {l : List α} {s : State} (h : MemoryCanonical s)
    (hf : ∀ s x, MemoryCanonical s → MemoryCanonical (f s x)) : MemoryCanonical (l.foldl f s) :=
  List.foldlRecOn l f h fun s hs x _ => hf s x hs

section

variable {s : State} {cycle cursor nextId nextSeq fresh pkg : Nat} {phase : Phase} {focus : Focus} {subject : Subject}
  {inputs : List (Nat × Instr × Subject)} {agenda : List (Instr × Subject)} {resumes numbers : List (Nat × Nat × Nat)} {flight egress : List Msg}
  {images : Assoc SavedImage} {sending receiving pinned : List ((Nat × Nat × Nat) × Nat)} {trail : List (Name × Nat)}
  {heardCalls : List (Nat × Word)} {farEntries : List (Nat × Nat)} {pkgWritten : Bool} {cores : Assoc Core} {tiles : Assoc Tile}
  {dies : Assoc Die} {sectors : Assoc Sector} {slices : Assoc (List (Nat × Assoc SliceSector))} {dirs : Assoc Directory}
  {walkCaches : Assoc (List TablePtr)} {poison slicePoison waves : List Nat} {moves : List PageMove} {watches : List Registration}
  {jobs : Assoc JobEntry} {keys : Assoc KeySlot} {colls : Assoc Coll} {ports : Assoc Port} {routes : Assoc Word} {tickets : Assoc TicketGate}
  {windows : List Window} {launches : List Launch} {reads : Assoc HRead} {waveEnds : List WaveEnd} {farVoters : List (Nat × Name × Nat)}
  {completions : List Completion} {fetched : Assoc Fetch} {health : Health}

/-- A state put together around the memory of another one. -/
theorem MemoryCanonical.update (h : MemoryCanonical s) : MemoryCanonical
    ⟨cycle, phase, cursor, focus, subject, inputs, agenda, resumes, nextId, nextSeq, fresh, flight, egress, numbers, images, sending, receiving,
    trail, heardCalls, farEntries, pinned, pkg, pkgWritten, cores, tiles, dies, s.mem, sectors, slices, dirs, walkCaches, poison, slicePoison, moves,
    watches, jobs, keys, colls, ports, routes, tickets, windows, launches, reads, waves, waveEnds, farVoters, completions, fetched, health⟩ :=
  h

end

theorem MemoryCanonical.foldl_fst {α β : Type} {f : State × β → α → State × β} {l : List α} {x : State × β} (h : MemoryCanonical x.1)
    (hf : ∀ x y, MemoryCanonical x.1 → MemoryCanonical (f x y).1) : MemoryCanonical (l.foldl f x).1 :=
  List.foldlRecOn (motive := fun x => MemoryCanonical x.1) l f h fun x hx y _ => hf x y hx

theorem MemoryCanonical.of_eq {s t : State} (h : MemoryCanonical s) (e : s = t) : MemoryCanonical t := e ▸ h

theorem MemoryCanonical.fst {α : Type} {p : State × α} {t : State} {x : α} (h : MemoryCanonical p.1) (e : p = (t, x)) : MemoryCanonical t := by
  rw [e] at h
  exact h

theorem MemoryCanonical.snd {α : Type} {p : α × State} {t : State} {x : α} (h : MemoryCanonical p.2) (e : p = (x, t)) : MemoryCanonical t := by
  rw [e] at h
  exact h

/-! ## The operations on the state -/

section

variable {s t : State} {i a k v core ctx delay id size line key pkg slot pa no ep tile off j page target newKey reason : Nat}
  {bs : List Byte} {n : Name} {as d : List Nat} {p : Place} {o : Origin} {b : Body} {m : Msg} {code : BitVec 8} {w2 w4 w5 ea x gb : Dword}
  {r w now rel : Bool} {what : RedWhat} {job : Word} {vals : List (Nat × Nat)} {c : Copy} {g : Agent} {op : EngineOp}

/-! ### The stores: bytes, tags, cores, tiles and dies -/

theorem MemoryCanonical.setCore {c : Core} (h : MemoryCanonical s) : MemoryCanonical (s.setCore i c) := h.update

theorem MemoryCanonical.setTile {t : Nat} {x : Tile} (h : MemoryCanonical s) : MemoryCanonical (s.setTile t x) := h.update

theorem MemoryCanonical.setDie {d : Nat} {x : Die} (h : MemoryCanonical s) : MemoryCanonical (s.setDie d x) := h.update

theorem MemoryCanonical.putRaw {a k : Nat} {b : Byte} (h : MemoryCanonical s) : MemoryCanonical (s.putRaw a k b) :=
  Memory.write_wf _ a b (State.retag_wf s a _ h)

theorem MemoryCanonical.putByte {a k : Nat} {b : Byte} (h : MemoryCanonical s) : MemoryCanonical (s.putByte a k b) := putByte_canonical a k b h

theorem MemoryCanonical.putBytes {bs : List (Nat × Byte)} (h : MemoryCanonical s) : MemoryCanonical (s.putBytes k bs) :=
  .foldl h (fun _ _ h => h.putByte)

theorem MemoryCanonical.putVal {n : Nat} (h : MemoryCanonical s) : MemoryCanonical (s.putVal a n k v) := h.putBytes

theorem MemoryCanonical.putMailbox (h : MemoryCanonical s) : MemoryCanonical (s.putMailbox a v) := .foldl h (fun _ _ h => h.putRaw)

theorem MemoryCanonical.unpoison (h : MemoryCanonical s) : MemoryCanonical (s.unpoison as) := h.update

theorem MemoryCanonical.markPoison (h : MemoryCanonical s) : MemoryCanonical (s.markPoison a) := .ite h h.update

theorem MemoryCanonical.markHome (h : MemoryCanonical s) : MemoryCanonical (s.markHome a) := .ite h.markPoison (.ite h h.update)

/-! ### Threads, waits, records and the network -/

theorem MemoryCanonical.setThread {t : Thread} (h : MemoryCanonical s) : MemoryCanonical (s.setThread core ctx t) := h.setCore

theorem MemoryCanonical.setCur {t : Thread} (h : MemoryCanonical s) : MemoryCanonical (s.setCur t) := h.setThread

theorem MemoryCanonical.modCur {f : Thread → Thread} (h : MemoryCanonical s) : MemoryCanonical (s.modCur f) := h.setCur

theorem MemoryCanonical.setAt {t : Thread} (h : MemoryCanonical s) : MemoryCanonical (s.setAt p t) := by
  unfold State.setAt
  split
  · exact h.setThread
  · exact h.setDie

theorem MemoryCanonical.modNamed {f : Thread → Thread} (h : MemoryCanonical s) : MemoryCanonical (s.modNamed n f) := by
  unfold State.modNamed
  split
  · exact h.setAt
  · exact h

theorem MemoryCanonical.post (h : MemoryCanonical s) : MemoryCanonical (s.post delay o b) := h.update

theorem MemoryCanonical.postOut {dst : Nat} (h : MemoryCanonical s) : MemoryCanonical (s.postOut dst o b) := h.update

theorem MemoryCanonical.send {dst : Nat} (h : MemoryCanonical s) : MemoryCanonical (s.send delay dst o b) := .ite h.post (.ite h.postOut h.update)

theorem MemoryCanonical.notice {cycle : Nat} {i : Instr} {on : Subject} (h : MemoryCanonical s) : MemoryCanonical (s.notice cycle i on) := h.update

theorem MemoryCanonical.outward {m : Msg} {src dst chan : Nat} {r : Bool} (h : MemoryCanonical s) : MemoryCanonical (s.outward m src dst chan r) :=
  h.of_storage (storage_outward s m src dst chan r)

theorem MemoryCanonical.reply (h : MemoryCanonical s) : MemoryCanonical (s.reply delay m b) := .ite h.update h.update.outward

theorem MemoryCanonical.drop (h : MemoryCanonical s) : MemoryCanonical (s.drop id) := h.update

theorem MemoryCanonical.modMsg {f : Msg → Msg} (h : MemoryCanonical s) : MemoryCanonical (s.modMsg id f) := h.update

theorem MemoryCanonical.wait {w : Wait} (h : MemoryCanonical s) : MemoryCanonical (s.wait w) := h.modCur

theorem MemoryCanonical.stallFor {a v : Dword} {c : WaitCond} (h : MemoryCanonical s) : MemoryCanonical (s.stallFor k a v c) := h.wait

theorem MemoryCanonical.retire (h : MemoryCanonical s) : MemoryCanonical (s.retire) := h.modCur

theorem MemoryCanonical.recordDue (h : MemoryCanonical s) : MemoryCanonical (s.recordDue n) := h.notice

theorem MemoryCanonical.faultAt {f : PendingFault} (h : MemoryCanonical s) : MemoryCanonical (s.faultAt p f) := h.setAt.recordDue

theorem MemoryCanonical.raiseFault {f : PendingFault} (h : MemoryCanonical s) : MemoryCanonical (s.raiseFault f) := by
  unfold State.raiseFault
  split
  · exact .ite h.faultAt h.modCur
  · exact h.faultAt

theorem MemoryCanonical.raiseAt {pc : Dword} (h : MemoryCanonical s) : MemoryCanonical (s.raiseAt pc code w2 w4 w5) := h.raiseFault

theorem MemoryCanonical.raise (h : MemoryCanonical s) : MemoryCanonical (s.raise code w2 w4 w5) := h.raiseAt

theorem MemoryCanonical.cacheTables {ts : List TablePtr} (h : MemoryCanonical s) : MemoryCanonical (s.cacheTables core ts) := h.update

theorem MemoryCanonical.walkFor {x : Bool} {red : Option Bool} (h : MemoryCanonical s) : MemoryCanonical (s.walkFor ea size r w x red w4) :=
  .ite h.stallFor (.ite h.wait.setCore h.wait.setCore.notice)

theorem MemoryCanonical.startWalk {x : Bool} (h : MemoryCanonical s) : MemoryCanonical (s.startWalk ea size r w x) := h.walkFor

theorem MemoryCanonical.withAccess {f : Access → State} {tile : Bool} (h : MemoryCanonical s) (hf : ∀ x, MemoryCanonical (f x)) : MemoryCanonical
    (s.withAccess ea size r w f tile) := by
  unfold State.withAccess
  split
  · exact hf _
  · exact h.raise
  · exact h.startWalk

/-! ### Translation and fetch -/

theorem MemoryCanonical.fetchMiss (h : MemoryCanonical s) : MemoryCanonical (s.fetchMiss line key) := .ite h.stallFor h.stallFor.send

theorem MemoryCanonical.deliverPacket (h : MemoryCanonical s) : MemoryCanonical (s.deliverPacket id) := by
  unfold State.deliverPacket
  split
  · exact h
  split
  · exact h
  · exact .ite h (.ite h.modMsg.update (.ite h.modMsg h))

theorem MemoryCanonical.absorb (h : MemoryCanonical s) : MemoryCanonical (s.absorb m) := by
  unfold State.absorb
  refine .ite h ?_
  split
  · exact .ite h h.modMsg.drop
  · exact h

theorem MemoryCanonical.arrivals (h : MemoryCanonical s) : MemoryCanonical (s.arrivals) :=
  .foldl (.foldl h (fun _ _ h => .foldl h (fun _ _ h => h.deliverPacket))) (fun _ _ h => .ite h.absorb h)

theorem MemoryCanonical.dropNotices (h : MemoryCanonical s) : MemoryCanonical (s.dropNotices) := h.update

theorem MemoryCanonical.takeTurn (h : MemoryCanonical s) : MemoryCanonical (s.takeTurn core ctx) := h.update.modCur

theorem MemoryCanonical.issues {w : Word} (h : MemoryCanonical s) : MemoryCanonical (s.issues w) := h.modCur

/-! ### Operands and faults -/

theorem MemoryCanonical.prefixFault (h : MemoryCanonical s) : MemoryCanonical (s.prefixFault w4) := h.modCur.raise

theorem MemoryCanonical.issueWith {a : Attrs} {regs : List GReg} {body : State → State} (h : MemoryCanonical s) (hbody : ∀ s, MemoryCanonical s →
    MemoryCanonical (body s)) : MemoryCanonical (s.issueWith a regs body) :=
  .ite h.prefixFault (.ite h.raise (.ite h.stallFor (.ite h.raise (hbody _ h))))

theorem MemoryCanonical.result {d : GReg} (h : MemoryCanonical s) : MemoryCanonical (s.result d x) := h.modCur

theorem MemoryCanonical.withTarget {f : State → State} (h : MemoryCanonical s) (hf : ∀ s, MemoryCanonical s → MemoryCanonical (f s)) :
    MemoryCanonical (s.withTarget x f) :=
  .ite h.raise (.ite h.raise (hf _ h))

/-! ### Stores in order, gathered and posted -/

theorem MemoryCanonical.enqueue (h : MemoryCanonical s) : MemoryCanonical (s.enqueue core n) := h.setCore

theorem MemoryCanonical.resumeAt (h : MemoryCanonical s) : MemoryCanonical (s.resumeAt core ctx) := h.setThread.update

theorem MemoryCanonical.wakeThread (h : MemoryCanonical s) : MemoryCanonical (s.wakeThread p) := by
  unfold State.wakeThread
  extract_lets _ _ s'18
  have hs'18 : MemoryCanonical s'18 := .ite h.setAt.notice h.setAt
  exact .ite hs'18.enqueue hs'18

theorem MemoryCanonical.wakeAt (h : MemoryCanonical s) : MemoryCanonical (s.wakeAt p) := by
  unfold State.wakeAt
  extract_lets
  split
  · exact .ite (.ite h h.resumeAt) h.wakeThread
  · exact h.wakeThread

theorem MemoryCanonical.resumed (h : MemoryCanonical s) : MemoryCanonical (s.resumed core ctx) := h.setThread.update

theorem MemoryCanonical.afterResume {old : Thread} (h : MemoryCanonical s) : MemoryCanonical (s.afterResume core ctx old) := by
  unfold State.afterResume
  refine .ite h ?_
  split
  · exact h.setAt.wakeThread
  · exact h.setAt
  · exact h.setAt
  · exact h

theorem MemoryCanonical.completeAt {f : Thread → Thread} (h : MemoryCanonical s) : MemoryCanonical (s.completeAt p f) := h.setAt.wakeThread

theorem MemoryCanonical.acquire (h : MemoryCanonical s) : MemoryCanonical (s.acquire core) := h.setCore

theorem MemoryCanonical.meetFar (h : MemoryCanonical s) : MemoryCanonical (s.meetFar as) := h.update

theorem MemoryCanonical.testWait (h : MemoryCanonical s) : MemoryCanonical (s.testWait p) := .ite h.acquire.completeAt h

theorem MemoryCanonical.retest (h : MemoryCanonical s) : MemoryCanonical (s.retest as) := .foldl h.meetFar (fun _ _ h => .ite h.testWait h)

theorem MemoryCanonical.ownDone (h : MemoryCanonical s) : MemoryCanonical (s.ownDone o) := by
  unfold State.ownDone
  refine .ite h ?_
  split
  · exact h.testWait
  · exact h

theorem MemoryCanonical.armLine (h : MemoryCanonical s) : MemoryCanonical (s.armLine core line) := h.update

theorem MemoryCanonical.watchFor {r : Registration} (h : MemoryCanonical s) : MemoryCanonical (s.watchFor pkg r) := h.update

theorem MemoryCanonical.fireLine {author : Option Author} {sectors : BitVec 4} (h : MemoryCanonical s) : MemoryCanonical (s.fireLine author line
    sectors) := by
  unfold State.fireLine
  extract_lets _ _ _ u
  have hu : MemoryCanonical u := by
    unfold u
    refine .foldl h (fun _ _ h => ?_)
    split
    · exact h.send
    · exact h
  exact .foldl hu (fun _ _ h => h.post)

theorem MemoryCanonical.fireFor {author : Option Author} (h : MemoryCanonical s) : MemoryCanonical (s.fireFor author as) :=
  .foldl h (fun _ _ h => h.fireLine)

theorem MemoryCanonical.useSector {q : Nat} {f : SliceSector → SliceSector} (h : MemoryCanonical s) : MemoryCanonical (s.useSector q f) := h.update

theorem MemoryCanonical.sliceRead (h : MemoryCanonical s) : MemoryCanonical (s.sliceRead a key) := .ite h.useSector h

theorem MemoryCanonical.sliceWrite (h : MemoryCanonical s) : MemoryCanonical (s.sliceWrite key as) := .foldl h (fun _ _ h => h.useSector)

theorem MemoryCanonical.cleanLine (h : MemoryCanonical s) : MemoryCanonical (s.cleanLine line) := h.update

theorem MemoryCanonical.dropTagged (h : MemoryCanonical s) : MemoryCanonical (s.dropTagged slot) := h.update

theorem MemoryCanonical.mask {seq : Nat} (h : MemoryCanonical s) : MemoryCanonical (s.mask seq as) := h.update

theorem MemoryCanonical.newDeadlines (h : MemoryCanonical s) : MemoryCanonical (s.newDeadlines as) := .foldl h (fun _ _ h => .ite (.ite h h.notice) h)

theorem MemoryCanonical.applyBytes {author : Option Author} {bs : List (Nat × Byte)} (h : MemoryCanonical s) : MemoryCanonical (s.applyBytes author
    key bs) :=
  .ite h h.mask.putBytes.sliceWrite.unpoison.fireFor.newDeadlines.retest

theorem MemoryCanonical.applyVal {w : Option Author} {n : Nat} (h : MemoryCanonical s) : MemoryCanonical (s.applyVal w a n key v) := h.applyBytes

theorem MemoryCanonical.applyMailbox {w : Option Author} (h : MemoryCanonical s) : MemoryCanonical (s.applyMailbox w a v) :=
  h.putMailbox.fireFor.retest

theorem MemoryCanonical.updateBar {w : Option Author} {f : TBar → TBar} (h : MemoryCanonical s) : MemoryCanonical (s.updateBar w a f) :=
  .ite h h.applyVal

theorem MemoryCanonical.countRedirect (h : MemoryCanonical s) : MemoryCanonical (s.countRedirect a) := by
  unfold State.countRedirect
  split
  · exact .ite h.setTile h
  · exact h

theorem MemoryCanonical.amoAt {w : Option Author} {op : AluOp} {cmp : Nat} (h : MemoryCanonical s) : MemoryCanonical ((s.amoAt w op a size key v
    cmp).2) := by
  unfold State.amoAt
  extract_lets
  split
  · exact h.sliceRead
  · exact .ite h.sliceRead.applyMailbox h.sliceRead.applyVal

theorem MemoryCanonical.reduceAt {w : Option Author} (h : MemoryCanonical s) : MemoryCanonical (s.reduceAt w what a key) := by
  unfold State.reduceAt
  split
  · exact h.amoAt
  · exact h.updateBar
  · exact h.updateBar
  · exact h.updateBar
  · exact h.updateBar
  · exact h.updateBar

theorem MemoryCanonical.dropWords {ws : List Nat} (h : MemoryCanonical s) : MemoryCanonical (s.dropWords core ws) := h.setCore.update

theorem MemoryCanonical.sendStore {bytes : List (Nat × Byte)} (h : MemoryCanonical s) : MemoryCanonical (s.sendStore o bytes key now rel) := by
  unfold State.sendStore
  split
  · exact h
  · exact .ite h.dropWords.send h.dropWords.send.notice

theorem MemoryCanonical.sendReduce (h : MemoryCanonical s) : MemoryCanonical (s.sendReduce o what pa key rel) := h.dropWords.send

theorem MemoryCanonical.postGathered {p : Msg → Bool} (h : MemoryCanonical s) : MemoryCanonical (s.postGathered p) := h.update

theorem MemoryCanonical.postOf (h : MemoryCanonical s) : MemoryCanonical (s.postOf n) := h.postGathered

theorem MemoryCanonical.recallAt {n : Nat} (h : MemoryCanonical s) : MemoryCanonical (s.recallAt a n no) := by
  unfold State.recallAt
  refine .foldl h (fun _ _ h => ?_)
  split
  · exact .foldl h (fun _ _ h => .ite h h.modMsg.send)
  · exact h

theorem MemoryCanonical.walkerSends {b : Nat → Body} (h : MemoryCanonical s) : MemoryCanonical (s.walkerSends a b) := by
  unfold State.walkerSends
  split
  · exact h
  · exact .ite h h.send

theorem MemoryCanonical.farRead (h : MemoryCanonical s) : MemoryCanonical (s.farRead a) := h.walkerSends

theorem MemoryCanonical.farMark (h : MemoryCanonical s) : MemoryCanonical (s.farMark a w) := h.walkerSends

theorem MemoryCanonical.walked {path : List Nat} (h : MemoryCanonical s) : MemoryCanonical (s.walked path) :=
  .update (.foldl h (fun _ _ h => h.sliceRead))

theorem MemoryCanonical.checkWalk {troot : Dword} {tile : Bool} (h : MemoryCanonical s) : MemoryCanonical ((s.checkWalk troot job ea size r w
    tile).1) := by
  unfold State.checkWalk
  split
  · exact h
  split
  · exact h
  split
  · exact h.farRead
  extract_lets
  split
  · exact h.walked
  split
  · extract_lets
    split
    · exact h.walked
    split
    · exact h.farMark
    split
    · exact h.recallAt
    · exact h.walked.applyVal
  · exact h.walked

theorem MemoryCanonical.viaNets {n : Nat} {f : State → State} (h : MemoryCanonical s) (hf : ∀ s, MemoryCanonical s → MemoryCanonical (f s)) :
    MemoryCanonical (s.viaNets n ea f) :=
  .ite h.stallFor (hf _ h)

theorem MemoryCanonical.viaNet {f : State → State} (h : MemoryCanonical s) (hf : ∀ s, MemoryCanonical s → MemoryCanonical (f s)) : MemoryCanonical
    (s.viaNet pkg ea f) :=
  .viaNets h (fun _ h => hf _ h)

theorem MemoryCanonical.numberFor (h : MemoryCanonical s) : MemoryCanonical ((s.numberFor m).2) := by
  unfold State.numberFor
  split
  · exact h
  split
  · exact h
  · exact h.update

theorem MemoryCanonical.emitOne (h : MemoryCanonical s) : MemoryCanonical (s.emitOne m) :=
  .ite h (.ite (.ite h.update (.ite h h.update)) (.ite h h.numberFor.outward.update))

theorem MemoryCanonical.emit (h : MemoryCanonical s) : MemoryCanonical (s.emit) := .foldl h (fun _ _ h => h.emitOne)

theorem MemoryCanonical.deviceWrite (h : MemoryCanonical s) : MemoryCanonical (s.deviceWrite pa key bs o) :=
  .ite h.send (.ite h h.countRedirect.applyBytes)

/-! ### The life of a thread -/

theorem MemoryCanonical.wakeWhere {p : Thread → Bool} (h : MemoryCanonical s) : MemoryCanonical (s.wakeWhere core p) :=
  .foldl h (fun _ _ h => .ite h.wakeAt h)

theorem MemoryCanonical.wakeCond {k : WaitCond} (h : MemoryCanonical s) : MemoryCanonical (s.wakeCond k) := .foldl h (fun _ _ h => h.wakeWhere)

theorem MemoryCanonical.toLastResort {w : List Nat} (h : MemoryCanonical s) : MemoryCanonical (s.toLastResort core w) :=
  .ite h.setCore.applyBytes.notice h.setCore.applyBytes

theorem MemoryCanonical.writeRecord {q : RecordReq} (h : MemoryCanonical s) : MemoryCanonical (s.writeRecord core q) := by
  unfold State.writeRecord
  split
  next u c e =>
    have hu : MemoryCanonical u := by
      split at e
      · exact h.of_eq (congrArg Prod.fst e)
      · exact h.checkWalk.fst e
    split
    · exact hu.setCore.notice
    · exact hu.toLastResort
    · exact .ite hu.toLastResort (.deviceWrite (.ite hu hu.setCore))

theorem MemoryCanonical.record {faultrec troot : Dword} {w0 w1 w2 w3 w4 w5 : Nat} {raised : Option Nat} (h : MemoryCanonical s) : MemoryCanonical
    (s.record core faultrec troot job w0 w1 w2 w3 w4 w5 raised) :=
  .ite h.writeRecord h.setCore

theorem MemoryCanonical.nextRecords {k : Nat} (h : MemoryCanonical s) : MemoryCanonical (State.nextRecords core k s) := by
  induction k generalizing s with
  | zero => exact h
  | succ k ih =>
    unfold State.nextRecords
    split
    · exact h
    · exact .ite h (.ite (ih h.setCore.writeRecord) h.setCore.writeRecord)

theorem MemoryCanonical.drainRecords (h : MemoryCanonical s) : MemoryCanonical (s.drainRecords core) := h.nextRecords

theorem MemoryCanonical.recordWritten (h : MemoryCanonical s) : MemoryCanonical (s.recordWritten core) := h.setCore.drainRecords

theorem MemoryCanonical.modJob {f : JobEntry → JobEntry} (h : MemoryCanonical s) : MemoryCanonical (s.modJob i f) := h.update

theorem MemoryCanonical.liveUp {n : Nat} (h : MemoryCanonical s) : MemoryCanonical (s.liveUp job n) := by
  unfold State.liveUp
  split
  · exact h.modJob
  · exact h

theorem MemoryCanonical.liveDown {n : Nat} (h : MemoryCanonical s) : MemoryCanonical (s.liveDown job n) := by
  unfold State.liveDown
  split
  · exact .ite h.modJob.update.notice h.modJob
  · exact h

theorem MemoryCanonical.takeName (h : MemoryCanonical s) : MemoryCanonical ((s.takeName core ctx).2) := h.setCore

theorem MemoryCanonical.create {x : Thread} {n : Name} (h : MemoryCanonical s) (e : s.create core x = some (n, t)) : MemoryCanonical t := by
  simp only [State.create, State.takeName] at e
  split at e
  · cases e
    exact h.setCore.setThread
  split at e
  · cases e
  · cases e
    exact h.setCore.setCore.setDie.enqueue

theorem MemoryCanonical.tellWave {t : Thread} {op : WaveOp Thread} (h : MemoryCanonical s) : MemoryCanonical (s.tellWave core t op) := by
  unfold State.tellWave
  split
  · exact h.send
  · exact h

theorem MemoryCanonical.setWcb (h : MemoryCanonical s) : MemoryCanonical (s.setWcb a i v) := h.applyVal

theorem MemoryCanonical.wcbField {lo n x : Nat} (h : MemoryCanonical s) : MemoryCanonical (s.wcbField a i lo n x) := h.setWcb

theorem MemoryCanonical.initBlock {count : Nat} {counter troot : Dword} (h : MemoryCanonical s) : MemoryCanonical (s.initBlock a count counter troot
    job) := by
  unfold State.initBlock
  exact h.update.applyBytes

theorem MemoryCanonical.waveTest (h : MemoryCanonical s) : MemoryCanonical (s.waveTest a) := by
  unfold State.waveTest
  extract_lets
  split
  · exact .ite h.post h
  · exact .ite (.post (.wcbField (.ite h.wcbField.post h))) (.ite h.wcbField.post h)
  · exact .ite h.post h
  · exact h

theorem MemoryCanonical.flushFlags {t : Thread} (h : MemoryCanonical s) : MemoryCanonical (s.flushFlags t) := by
  unfold State.flushFlags
  extract_lets
  split
  · exact h.setWcb
  refine .ite h ?_
  split
  · exact h.modJob
  · exact h

theorem MemoryCanonical.leaveWave {t : Thread} (h : MemoryCanonical s) : MemoryCanonical (s.leaveWave core t a) := by
  unfold State.leaveWave
  extract_lets _ _ u
  have hu : MemoryCanonical u := .wcbField (.ite h.wcbField h)
  exact .ite hu.waveTest.wcbField.update.notice hu.waveTest

theorem MemoryCanonical.leaveAny {t : Thread} (h : MemoryCanonical s) : MemoryCanonical (s.leaveAny core t) := by
  unfold State.leaveAny
  split
  · exact h.leaveWave
  · exact h.tellWave

theorem MemoryCanonical.pushDeque {e : List Nat} {after : Option (Name × Nat)} (h : MemoryCanonical s) : MemoryCanonical (s.pushDeque core e after) :=
  h.applyBytes.setCore

theorem MemoryCanonical.setDeque {es : List (List Nat × Option (Name × Nat))} (h : MemoryCanonical s) : MemoryCanonical (s.setDeque core es) :=
  .foldl h.setCore (fun _ _ h => h.pushDeque)

theorem MemoryCanonical.setIdent {w : Identity} {refs : Nat} (h : MemoryCanonical s) : MemoryCanonical (s.setIdent core i w refs) := by
  unfold State.setIdent
  split
  · exact h.applyBytes
  · exact h

theorem MemoryCanonical.dropIdent (h : MemoryCanonical s) : MemoryCanonical (s.dropIdent core i) := h.setIdent

theorem MemoryCanonical.pushTask {x : TaskEntry} {w : Identity} {after : Option (Name × Nat)} (h : MemoryCanonical s)
    (e : s.pushTask core x w after = some t) : MemoryCanonical t := by
  unfold State.pushTask at e
  split at e
  · cases e
  split at e
  · cases e
  · next i _ =>
    have hpushed : MemoryCanonical ((s.setIdent core i w (s.identRefs core i + 1)).pushDeque core (x.dwords i) after) := h.setIdent.pushDeque
    exact hpushed.of_eq (Option.some.inj e)

theorem MemoryCanonical.dropTasks (h : MemoryCanonical s) : MemoryCanonical (s.dropTasks core job) :=
  .ite h (.setDeque (.foldl h (fun _ _ h => h.dropIdent)))

theorem MemoryCanonical.releaseSlots (h : MemoryCanonical s) : MemoryCanonical (s.releaseSlots n) := h.update

theorem MemoryCanonical.dropWatches (h : MemoryCanonical s) : MemoryCanonical (s.dropWatches n) := h.update

theorem MemoryCanonical.tell {x : News} (h : MemoryCanonical s) : MemoryCanonical (s.tell core pkg n x) := .ite h h.send

theorem MemoryCanonical.poisonAt (h : MemoryCanonical s) : MemoryCanonical (s.poisonAt core pa) := .ite h.markHome h.tell

theorem MemoryCanonical.freeStub {u : StubRef} (h : MemoryCanonical s) : MemoryCanonical (s.freeStub n u) := by
  unfold State.freeStub
  refine .ite h.tell ?_
  split
  · exact .ite h.setThread h
  · exact h

theorem MemoryCanonical.fillNames {die : Nat} (h : MemoryCanonical s) : MemoryCanonical (s.fillNames die) :=
  .foldl h.setDie (fun _ _ h => .foldl h (fun _ _ h => h.freeStub))

theorem MemoryCanonical.dropName (h : MemoryCanonical s) : MemoryCanonical (s.dropName n) :=
  .ite h (.fillNames (.foldl h.setDie (fun _ _ h => h.freeStub)))

theorem MemoryCanonical.anchored {stub : Option StubRef} (h : MemoryCanonical s) : MemoryCanonical (s.anchored n ep ctx stub) :=
  .ite (.foldl h.setDie.setDie (fun _ _ h => h.freeStub)) (.ite (.fillNames (.foldl h.setDie (fun _ _ h => h.freeStub)))
    h.setDie.fillNames.setDie.fillNames)

theorem MemoryCanonical.dropStub (h : MemoryCanonical s) : MemoryCanonical (s.dropStub n) := h.update.dropName

theorem MemoryCanonical.forget {t : Thread} (h : MemoryCanonical s) : MemoryCanonical (s.forget core t) := .foldl h.dropStub (fun _ _ h => h.tell)

theorem MemoryCanonical.vacate (h : MemoryCanonical s) : MemoryCanonical (s.vacate p) := by
  unfold State.vacate
  split
  · extract_lets
    split
    · extract_lets
      split
      · exact h.setThread.update.notice
      · exact h.setThread
    · exact h.setThread
  · exact h.setDie.setCore

theorem MemoryCanonical.finishEnd (h : MemoryCanonical s) : MemoryCanonical (s.finishEnd p) := by
  unfold State.finishEnd
  extract_lets _ _ u
  have hu : MemoryCanonical u := h.releaseSlots.dropWatches.forget
  exact .notice (.vacate (.ite hu.flushFlags.leaveAny hu.flushFlags.leaveAny.liveDown))

theorem MemoryCanonical.beginEnd {counter : Option (Nat × Nat)} (h : MemoryCanonical s) : MemoryCanonical (s.beginEnd p counter) :=
  h.setAt.setCore.postOf

theorem MemoryCanonical.settle (h : MemoryCanonical s) : MemoryCanonical (s.settle n) := by
  unfold State.settle
  split
  · exact h
  extract_lets _ u
  have hu : MemoryCanonical u := by
    unfold u
    split
    · exact .ite h.wakeAt h
    · exact h
  split
  · exact .ite hu.setAt.sendReduce hu
  · exact .ite hu.finishEnd hu
  · exact .ite (.notice (.ite hu.recordDue hu)) (.ite hu.recordDue hu)

theorem MemoryCanonical.acknowledge {store : Bool} (h : MemoryCanonical s) : MemoryCanonical (s.acknowledge n store) := h.modNamed.settle

theorem MemoryCanonical.dropTimers (h : MemoryCanonical s) : MemoryCanonical (s.dropTimers core job) := h.setCore.wakeWhere

theorem MemoryCanonical.cancelRead {r : Nat} (h : MemoryCanonical s) : MemoryCanonical (s.cancelRead r job) := by
  unfold State.cancelRead
  split
  · exact h
  · exact .ite h (.ite h.setCore.update h.update.notice)

theorem MemoryCanonical.cancelAt (h : MemoryCanonical s) : MemoryCanonical (s.cancelAt p) := by
  unfold State.cancelAt
  refine .ite h.setAt ?_
  split
  · exact .ite h h.drop.beginEnd
  · exact h.beginEnd

theorem MemoryCanonical.cancelJob (h : MemoryCanonical s) : MemoryCanonical (s.cancelJob job) := by
  unfold State.cancelJob
  split
  · exact h
  · exact .ite h (.foldl (.foldl (.foldl (.foldl (.foldl (.foldl h.modJob (fun _ _ h => .ite h.cancelAt h)) (fun _ _ h => h.dropTasks)) (fun _ _ h =>
      h.dropTimers)) (fun _ _ h => h.cancelRead)) (fun _ _ h => .ite h.notice h)) (fun _ _ h => h.settle))

/-! ### Prefixes and special registers -/

theorem MemoryCanonical.prefixWord {kind : Nat} {payload : BitVec 24} (h : MemoryCanonical s) : MemoryCanonical (s.prefixWord kind payload) :=
  .ite h.prefixFault (.ite h.prefixFault h.setCur)

/-! ### The image of a thread -/

theorem MemoryCanonical.putImage (h : MemoryCanonical s) : MemoryCanonical (s.putImage tile off bs) :=
  .ite h.deviceWrite (.foldl h (fun _ _ h => h.applyBytes))

theorem MemoryCanonical.refresh (h : MemoryCanonical s) : MemoryCanonical (s.refresh p) := by
  unfold State.refresh
  split
  · exact .ite h.setThread h
  · exact h

theorem MemoryCanonical.writeBack (h : MemoryCanonical s) : MemoryCanonical (s.writeBack p) := by
  unfold State.writeBack
  split
  · exact .ite h.putImage h
  · exact h

/-! ### Loads, stores and atomics -/

theorem MemoryCanonical.keep {vs : List Nat} (h : MemoryCanonical s) : MemoryCanonical (s.keep vs) := h.modCur

theorem MemoryCanonical.sendLoads {groups : List (List Piece × Nat)} {fill : Bool} (h : MemoryCanonical s) : MemoryCanonical (s.sendLoads o groups
    fill) := by
  unfold State.sendLoads
  refine .foldl h (fun _ _ h => ?_)
  split
  · exact h
  · exact h.send

theorem MemoryCanonical.touchL1 {ps : List (Piece × Nat)} (h : MemoryCanonical s) : MemoryCanonical (s.touchL1 core ps) := h.setCore

theorem MemoryCanonical.loadPieces {ps : List (Piece × Nat)} {dst : Dest} {acq nol1 short free : Bool} (h : MemoryCanonical s) : MemoryCanonical
    (s.loadPieces ea ps dst acq nol1 short free) := by
  unfold State.loadPieces
  refine .ite ?_ (.ite (.stallFor (.ite h.acquire h)) (.sendLoads (.wait (.ite (.postOf (.ite h.acquire h)) (.ite h.acquire h)))))
  extract_lets
  split <;> exact .modCur (.ite (.acquire (.ite h.acquire h)) (.touchL1 (.ite h.acquire h)))

theorem MemoryCanonical.depart {next : Bool} (h : MemoryCanonical s) : MemoryCanonical (s.depart pkg core next) :=
  .ite h.postOf.stallFor (.viaNet h (fun _ h => h.setCur.send))

theorem MemoryCanonical.atOwner {f : State → State} (h : MemoryCanonical s) (hf : ∀ s, MemoryCanonical s → MemoryCanonical (f s)) : MemoryCanonical
    (s.atOwner pa f) := by
  unfold State.atOwner
  refine .ite ?_ (hf _ h)
  split
  · exact .ite (hf _ h) h.depart
  · exact hf _ h

theorem MemoryCanonical.loadScalar {dst : Dest} {acq nol1 : Bool} (h : MemoryCanonical s) : MemoryCanonical (s.loadScalar ea size dst acq nol1) :=
  .withAccess h (fun _ => .ite h.raise (.atOwner h (fun _ h => h.loadPieces)))

theorem MemoryCanonical.storeReqs {reqs held : List StoreReq} (h : MemoryCanonical s) : MemoryCanonical (s.storeReqs ea reqs held now) := by
  unfold State.storeReqs
  extract_lets
  split
  · exact .ite h.stallFor (.ite h.stallFor h.modCur)
  · exact .ite h.postOf.stallFor (.viaNets h (fun _ h => .foldl h.modCur (fun _ _ h => h.sendStore)))

theorem MemoryCanonical.storeScalar (h : MemoryCanonical s) : MemoryCanonical (s.storeScalar ea size x now) :=
  .withAccess h (fun _ => .ite h.raise (.atOwner h (fun _ h => h.storeReqs)))

theorem MemoryCanonical.atomicAccess {count : Bool} {f : Access → State} (h : MemoryCanonical s) (hf : ∀ x, MemoryCanonical (f x)) : MemoryCanonical
    (s.atomicAccess ea size count f) := by
  unfold State.atomicAccess
  split
  · exact h.raise
  · split
    · exact h.raise
    · exact hf _
  split
  · exact h.raise
  · exact h.walkFor

theorem MemoryCanonical.issueAmo {op : AluOp} {d : GReg} {x : Access} {v cmp : Dword} {acq : Bool} (h : MemoryCanonical s) : MemoryCanonical
    (s.issueAmo op d ea x size v cmp acq rel) :=
  .viaNet h (fun _ h => .send (.dropWords (.wait (.ite (.postOf (.ite h.acquire h)) (.ite h.acquire h)))))

theorem MemoryCanonical.issueRed {byName : Bool} (h : MemoryCanonical s) : MemoryCanonical (s.issueRed what ea pa key rel byName) :=
  .ite h.stallFor (.viaNet h (fun _ h => .sendReduce (.modCur (.ite h.postOf h))))

theorem MemoryCanonical.released {f : State → State} (h : MemoryCanonical s) (hf : ∀ s, MemoryCanonical s → MemoryCanonical (f s)) : MemoryCanonical
    (s.released f) :=
  .ite (hf _ h) h.postOf.stallFor

theorem MemoryCanonical.withTable {f : State → State} (h : MemoryCanonical s) (hf : ∀ s, MemoryCanonical s → MemoryCanonical (f s)) : MemoryCanonical
    (s.withTable f) := by
  unfold State.withTable
  extract_lets
  split
  · exact h.stallFor.farRead
  · exact .ite (.update (hf _ h)) (hf _ h)

theorem MemoryCanonical.coreRights {eps : List Nat} {need : Nat} {f : State → State} (h : MemoryCanonical s)
    (hf : ∀ s, MemoryCanonical s → MemoryCanonical (f s)) : MemoryCanonical (s.coreRights eps need f) := by
  induction eps with
  | nil => exact hf s h
  | cons ep eps ih =>
    unfold State.coreRights
    split
    · exact h.raise
    · exact .ite h.raise ih

theorem MemoryCanonical.withCoreRight {eps : List Nat} {need : Nat} {f : State → State} (h : MemoryCanonical s) (hf : ∀ s, MemoryCanonical s →
    MemoryCanonical (f s)) : MemoryCanonical (s.withCoreRight eps need f) := by
  unfold State.withCoreRight
  split
  · exact hf _ h
  · exact .withTable h (fun _ h => .coreRights h (fun _ h => hf _ h))

/-! ### Lanes of vector accesses -/

theorem MemoryCanonical.withLanes {ls : List (Nat × Dword)} {f : List (Piece × Nat) → State} (h : MemoryCanonical s) (hf : ∀ x, MemoryCanonical (f
    x)) : MemoryCanonical (s.withLanes size r w ls f) := by
  unfold State.withLanes
  refine .ite h.retire ?_
  split
  · exact hf _
  · exact h.raise
  · exact h.walkFor

/-! ### Watches and waits -/

theorem MemoryCanonical.withdraw {r : WReg} (h : MemoryCanonical s) : MemoryCanonical (s.withdraw n r) := h.update

theorem MemoryCanonical.armPoint {m : BitVec 4} (h : MemoryCanonical s) : MemoryCanonical (s.armPoint n line m) := h.update

theorem MemoryCanonical.register {r : WReg} {m : BitVec 4} (h : MemoryCanonical s) : MemoryCanonical (s.register n core r line m) :=
  h.dropWords.armPoint.armLine.update

theorem MemoryCanonical.barrierAccess {f : Access → State} (h : MemoryCanonical s) (hf : ∀ x, MemoryCanonical (f x)) : MemoryCanonical
    (s.barrierAccess ea w f) :=
  .withAccess h (fun _ => .ite h.raise (hf _))

theorem MemoryCanonical.awaitFar {st : TState} {x : Access} {act : WaitAct} {w : Wait} (h : MemoryCanonical s) : MemoryCanonical (s.awaitFar st x act
    w) :=
  h.postOf.modCur.send

theorem MemoryCanonical.acquireRetire (h : MemoryCanonical s) : MemoryCanonical (s.acquireRetire) := h.acquire.retire

theorem MemoryCanonical.withWatched {la : Nat} {f : State → State} (h : MemoryCanonical s) (hf : ∀ s, MemoryCanonical s → MemoryCanonical (f s)) :
    MemoryCanonical (s.withWatched ea la size f) :=
  .ite h.raise (.ite h.raise (hf _ h.countRedirect))

theorem MemoryCanonical.watchWait {st : TState} {w : Wait} (h : MemoryCanonical s) : MemoryCanonical (s.watchWait now st pa w) :=
  .ite h.acquireRetire (.ite h.postOf.modCur.post h.postOf.modCur)

theorem MemoryCanonical.withCounter {f : Nat → Nat → Nat → State} (h : MemoryCanonical s) (hf : ∀ x y z, MemoryCanonical (f x y z)) : MemoryCanonical
    (s.withCounter x f) := by
  unfold State.withCounter
  split
  · exact hf _ _ _
  · exact h.raise

theorem MemoryCanonical.withEndpoint {f : Nat → Nat → State} (h : MemoryCanonical s) (hf : ∀ x y, MemoryCanonical (f x y)) : MemoryCanonical
    (s.withEndpoint x f) := by
  unfold State.withEndpoint
  split
  · exact hf _ _
  · exact h.raise

theorem MemoryCanonical.hearCall {n : Word} (h : MemoryCanonical s) : MemoryCanonical (s.hearCall ep n) := .ite h h.update

/-! ### Creation of threads and calls -/

theorem MemoryCanonical.capacity {w4 w5 : Nat} (h : MemoryCanonical s) : MemoryCanonical (s.capacity w4 w5) := h.raise

theorem MemoryCanonical.withJob {n : Nat} {gone f : State → State} (h : MemoryCanonical s) (hgone : ∀ s, MemoryCanonical s → MemoryCanonical (gone
    s)) (hf : ∀ s, MemoryCanonical s → MemoryCanonical (f s)) : MemoryCanonical (s.withJob n gone f) := by
  unfold State.withJob
  split
  · exact h.capacity
  · exact .ite (hgone _ h) (.ite h.capacity (hf _ h))

theorem MemoryCanonical.growWave (h : MemoryCanonical s) : MemoryCanonical (s.growWave a) := h.setWcb

theorem MemoryCanonical.createOne {t : Thread} {f : Name → State → State} (h : MemoryCanonical s) (hf : ∀ x s, MemoryCanonical s → MemoryCanonical (f
    x s)) : MemoryCanonical (s.createOne t f) := by
  unfold State.createOne
  split
  · exact h.capacity
  rename_i _ t e
  have ht : MemoryCanonical t := h.create e
  exact hf _ _ ht.liveUp

theorem MemoryCanonical.spawnAfar {d : GReg} {pc : Dword} (h : MemoryCanonical s) : MemoryCanonical (spawnAfar d pc pkg s) := by
  unfold Machine.spawnAfar
  extract_lets
  split
  · refine .ite h.result (.withJob h.tellWave (fun _ h => h.result) fun _ _ => ?_)
    split
    · exact h.tellWave.capacity
    · next e => exact (h.create e).liveUp.result
  · exact .viaNet h fun _ h => h.wait.tellWave

theorem MemoryCanonical.createWave {mk : Nat → Thread} {n i : Nat} {first : Name} (h : MemoryCanonical s) :
    MemoryCanonical (s.createWave core mk n i first).2.2 := by
  induction n generalizing s i first with
  | zero => exact h
  | succ n ih =>
    unfold State.createWave
    split
    · exact h
    · next e => exact ih (h.create e)

theorem MemoryCanonical.endCur {counter : Option (Nat × Nat)} (h : MemoryCanonical s) : MemoryCanonical (s.endCur ea counter) :=
  h.beginEnd.modCur.settle

theorem MemoryCanonical.notBurst {f : State → State} (h : MemoryCanonical s) (hf : ∀ s, MemoryCanonical s → MemoryCanonical (f s)) : MemoryCanonical
    (s.notBurst f) :=
  .ite h.raise (hf _ h)

theorem MemoryCanonical.withDwords {x : Access} {n : Nat} {f : List Nat → State → State} (h : MemoryCanonical s) (hf : ∀ x s, MemoryCanonical s →
    MemoryCanonical (f x s)) : MemoryCanonical (s.withDwords ea x n f) := by
  unfold State.withDwords
  split
  · exact hf _ _ h
  extract_lets
  split
  · exact hf _ _ h.loadPieces
  · exact h.loadPieces

theorem MemoryCanonical.startLaunch (h : MemoryCanonical s) : MemoryCanonical (s.startLaunch d) := h.liveUp.retire.update.notice

theorem MemoryCanonical.cancelFrom (h : MemoryCanonical s) : MemoryCanonical (s.cancelFrom o job) := by
  unfold State.cancelFrom
  split
  · exact h
  · exact .ite h (.cancelJob (.foldl h (fun _ _ h => h.send)))

/-! ### The rotation -/

theorem MemoryCanonical.moveStub (h : MemoryCanonical s) : MemoryCanonical (s.moveStub n ep ctx) := h.update

theorem MemoryCanonical.settleIn {t : Thread} (h : MemoryCanonical s) : MemoryCanonical (s.settleIn core ctx t) := h.setThread.moveStub

theorem MemoryCanonical.setMoving {die : Nat} {b : Bool} (h : MemoryCanonical s) : MemoryCanonical (s.setMoving die slot b) := by
  unfold State.setMoving
  split
  · exact h.setDie
  · exact h

theorem MemoryCanonical.startMoves (h : MemoryCanonical s) : MemoryCanonical (s.startMoves core) := by
  unfold State.startMoves
  refine .ite h ?_
  refine .foldl h (fun _ _ h => ?_)
  split
  · exact .ite h h.setMoving.post
  · exact h

theorem MemoryCanonical.readmit {die : Nat} {x : Spilled} (h : MemoryCanonical s) : MemoryCanonical (s.readmit die slot core x) := by
  unfold State.readmit
  split
  · exact h.setMoving
  · exact h.setDie.setCore.settleIn

theorem MemoryCanonical.grant {r : Nat} {x : HRead} (h : MemoryCanonical s) : MemoryCanonical (s.grant r x) := by
  unfold State.grant
  extract_lets c u₁ u₂ u₃ u₄
  have h3 : MemoryCanonical u₃ := h.setCore.update.liveUp
  have h4 : MemoryCanonical u₄ := by
    unfold u₄
    split
    · exact .ite h3.completeAt h3
    · exact h3
  exact h4.notice

theorem MemoryCanonical.gather {n : Nat} (h : MemoryCanonical s) : MemoryCanonical (State.gather n s core) := by
  induction n generalizing s with
  | zero => exact h
  | succ n ih =>
    unfold State.gather
    split
    · exact h
    split
    · exact h
    · have hgot {r : Nat} {got : List Nat} :
          MemoryCanonical (got.foldl (fun s x => s.setThread core x { reserved := true, read := some r }) s) := .foldl h fun _ _ h => h.setThread
      exact .ite hgot.update (ih hgot.grant)

theorem MemoryCanonical.bind {pos : Nat} (h : MemoryCanonical s) : MemoryCanonical (s.bind core ctx pos) := .setThread (.ite h.acquire h)

theorem MemoryCanonical.fill {ps : List Nat} (h : MemoryCanonical s) : MemoryCanonical (State.fill core ps s) := by
  induction ps generalizing s with
  | nil => exact h
  | cons p ps ih =>
    unfold State.fill
    split
    · exact ih h.bind
    · exact h

theorem MemoryCanonical.resumeHeld (h : MemoryCanonical s) : MemoryCanonical (s.resumeHeld core) :=
  .foldl h (fun _ _ h => .ite (.setThread (.ite h.acquire h)) h)

theorem MemoryCanonical.startTask (h : MemoryCanonical s) : MemoryCanonical (s.startTask core) := by
  unfold State.startTask
  extract_lets
  split
  · refine .ite h ?_
    split
    · exact h
    · exact h.dropIdent.setDeque.takeName.setThread.liveUp.bind
  · exact h

theorem MemoryCanonical.fireAt {r : Registration} (h : MemoryCanonical s) : MemoryCanonical (s.fireAt r) := by
  unfold State.fireAt
  refine .ite h ?_
  split
  · exact h
  extract_lets _ _ u
  have hu : MemoryCanonical u := h.refresh.setAt.writeBack
  exact .ite hu.wakeAt hu

theorem MemoryCanonical.fillLine (h : MemoryCanonical s) : MemoryCanonical (s.fillLine core line bs n) := by
  unfold State.fillLine
  extract_lets
  split
  · exact .ite h.setCore.wakeAt h.setCore
  · exact h.setCore

theorem MemoryCanonical.faultNamed (h : MemoryCanonical s) : MemoryCanonical (s.faultNamed n code w2 w4 w5) := by
  unfold State.faultNamed
  split
  · exact h.faultAt
  · exact h

theorem MemoryCanonical.fillTlb {e : TlbEntry} (h : MemoryCanonical s) : MemoryCanonical (s.fillTlb core e) := h.setCore

theorem MemoryCanonical.finishWalk {w : Walk} (h : MemoryCanonical s) : MemoryCanonical (s.finishWalk core w) := by
  unfold State.finishWalk
  extract_lets va done wake later
  have hdone {s : State} (h : MemoryCanonical s) : MemoryCanonical (done s) := h.setCore
  have hlater {s : State} (h : MemoryCanonical s) : MemoryCanonical (later s) := h.notice
  have hwake {s : State} (h : MemoryCanonical s) : MemoryCanonical (wake s) := by
    refine .foldl h fun _ _ h => ?_
    split
    · exact .ite h.wakeAt h
    · exact h
  split
  extract_lets
  split
  · exact hlater h.farRead
  split
  · exact .foldl (hdone h.walked) fun _ _ h => h.faultNamed
  · exact .ite (hwake (hdone h.cacheTables.walked).fillTlb) (.ite (hlater h.cacheTables.farMark)
      (.ite (hlater h.cacheTables.recallAt) (hwake (hdone h.cacheTables.walked).applyVal.fillTlb)))

/-! ### Device registers -/

theorem MemoryCanonical.storeJob (h : MemoryCanonical s) : MemoryCanonical (s.storeJob j i v) := by
  unfold State.storeJob
  extract_lets
  split
  · exact .ite h (.ite h.modJob h.modJob)
  · exact h.modJob
  · exact h.modJob
  · exact h.modJob

theorem MemoryCanonical.setTileState {t : Nat} {x : TileState} (h : MemoryCanonical s) : MemoryCanonical (s.setTileState t x) := h.setTile.fireFor

theorem MemoryCanonical.storeAssign {t : Nat} (h : MemoryCanonical s) : MemoryCanonical (s.storeAssign t v) :=
  .ite (.ite h.setTile.notice h.setTile) (.ite h.setTile h.setTile)

theorem MemoryCanonical.storeBlock (h : MemoryCanonical s) : MemoryCanonical (s.storeBlock core off v) :=
  .ite (.ite h h.setCore) (.ite (.ite h h.setCore) (.ite h.setCore h))

theorem MemoryCanonical.storePlain (h : MemoryCanonical s) : MemoryCanonical (s.storePlain a v) :=
  .ite (.ite h.update (.ite h.update (.ite h.update h))) (.ite h.update (.ite h.update (.ite h.update h)))

theorem MemoryCanonical.setPkg {new : Nat} (h : MemoryCanonical s) : MemoryCanonical (s.setPkg new) := h.update

/-! ### Ports and the transport -/

theorem MemoryCanonical.modPort {p : Nat} {f : Port → Port} (h : MemoryCanonical s) : MemoryCanonical (s.modPort p f) := h.update

theorem MemoryCanonical.unspray {p : Nat} (h : MemoryCanonical s) : MemoryCanonical (s.unspray p) := .ite h.update h

theorem MemoryCanonical.setWindow {w : Window} (h : MemoryCanonical s) : MemoryCanonical (s.setWindow w) := h.update

theorem MemoryCanonical.once {f : State → State} (h : MemoryCanonical s) (hf : ∀ s, MemoryCanonical s → MemoryCanonical (f s)) : MemoryCanonical
    (s.once m f) := by
  unfold State.once
  split
  · exact hf _ h
  refine .ite (hf _ h) ?_
  extract_lets
  split
  · exact .ite h.reply.drop (hf _ h.setWindow)
  refine .ite h.setWindow.drop ?_
  split
  · exact h.setWindow.reply.drop
  · exact hf _ h.setWindow

theorem MemoryCanonical.answer (h : MemoryCanonical s) : MemoryCanonical (s.answer delay m b) := by
  unfold State.answer
  extract_lets _ u
  have hu : MemoryCanonical u := .ite h.reply.drop.modMsg h.reply.drop
  split
  · refine .ite hu ?_
    split
    · exact hu.setWindow.notice
    · exact hu
  · exact hu

theorem MemoryCanonical.passOn (h : MemoryCanonical s) : MemoryCanonical (s.passOn m pa) := by
  unfold State.passOn
  split
  · exact h
  extract_lets
  split
  · split
    · exact h.modMsg
    · exact h
  split
  · exact h.answer
  · exact h.send.modMsg

theorem MemoryCanonical.headerAside (h : MemoryCanonical s) : MemoryCanonical ((s.headerAside m vals).1) := by
  unfold State.headerAside
  split
  · split
    · exact h
    · exact h.update.outward
  · exact h

theorem MemoryCanonical.relayed {r : Msg} (h : MemoryCanonical s) : MemoryCanonical (s.relayed r b) := by
  unfold State.relayed
  extract_lets
  split
  · exact h.drop
  split
  · exact h.drop.headerAside.answer
  · exact h.drop.answer
  · exact h.drop.answer
  · exact h.drop.answer
  · exact h.drop.answer

theorem MemoryCanonical.countDrop {first place : Nat} (h : MemoryCanonical s) : MemoryCanonical (s.countDrop o code first place) :=
  .ite h.setCore h.setCore.notice

theorem MemoryCanonical.refusePosted {store : Bool} {first place : Nat} (h : MemoryCanonical s) : MemoryCanonical (s.refusePosted m code store first
    place) :=
  h.drop.countDrop.acknowledge.ownDone

theorem MemoryCanonical.refuseAtPeer {store : Bool} (h : MemoryCanonical s) : MemoryCanonical (s.refuseAtPeer m code store) := by
  unfold State.refuseAtPeer
  extract_lets _ _ u
  have hu : MemoryCanonical u := by
    unfold u
    split
    · exact .ite h.drop h.drop.setAt.faultAt
    · exact h.drop
  exact hu.acknowledge.ownDone

theorem MemoryCanonical.migrateRefused {t : Thread} (h : MemoryCanonical s) : MemoryCanonical (s.migrateRefused t code w4 w5) := by
  unfold State.migrateRefused
  extract_lets
  split
  · exact h
  · exact .ite h (.ite h.beginEnd.settle h.faultNamed)

theorem MemoryCanonical.netFreed (h : MemoryCanonical s) : MemoryCanonical (s.netFreed core) := h.wakeWhere

theorem MemoryCanonical.arrived (h : MemoryCanonical s) : MemoryCanonical (s.arrived id) := by
  unfold State.arrived
  refine .foldl h (fun _ _ h => ?_)
  extract_lets
  split
  · exact h
  · exact h.setAt

theorem MemoryCanonical.refuse (h : MemoryCanonical s) : MemoryCanonical (s.refuse m code w2 w4) := by
  unfold State.refuse
  refine .ite h.relayed ?_
  refine .ite h.drop.update.wakeCond ?_
  split
  · exact h.drop.toLastResort.drainRecords
  split
  · exact h.drop
  · exact h.drop
  · exact h.drop
  · exact h.drop
  · exact h.drop
  split
  · exact h.drop.arrived.update
  split
  · exact .ite h.refusePosted h.refuseAtPeer
  · exact .ite h.refusePosted h.refuseAtPeer
  · exact h.refusePosted
  · exact h.drop.faultNamed
  · exact h.drop.faultNamed
  · exact h.drop.faultNamed
  · exact h.drop.faultNamed
  · exact h.drop.faultNamed
  · exact h.drop.countDrop
  · exact h.drop.migrateRefused
  · exact h.drop
  · exact h.drop
  · exact h.drop.faultNamed

theorem MemoryCanonical.giveUp (h : MemoryCanonical s) : MemoryCanonical (s.giveUp m) := h.refuse

/-! ### Messages between cores and packages -/

theorem MemoryCanonical.leaveContext (h : MemoryCanonical s) : MemoryCanonical (s.leaveContext p ep ctx) := by
  unfold State.leaveContext
  split
  · exact h.setThread
  · exact h.vacate

theorem MemoryCanonical.arrive {t : Thread} (h : MemoryCanonical s) : MemoryCanonical (s.arrive core t) := by
  unfold State.arrive
  split
  · exact h.settleIn
  extract_lets
  split
  · exact h
  · exact h.setDie.moveStub.enqueue

theorem MemoryCanonical.departed {t : Thread} (h : MemoryCanonical s) : MemoryCanonical (s.departed m t core) := by
  unfold State.departed
  split
  · exact h
  extract_lets _ _ u₁ _ u₂
  have hu₁ : MemoryCanonical u₁ := h.leaveContext.moveStub.liveDown
  have hu₂ : MemoryCanonical u₂ := .ite hu₁.update hu₁.update.tell
  split
  · exact .ite hu₂.tell hu₂
  · exact hu₂

theorem MemoryCanonical.refuseCall {caller : Name} {who : Identity} {cause : Nat} (h : MemoryCanonical s) : MemoryCanonical (s.refuseCall core caller
    who cause) :=
  h.record

theorem MemoryCanonical.takeCall {caller : Name} {e : TaskEntry} {who : Identity} (h : MemoryCanonical s) :
    MemoryCanonical (s.takeCall core caller e who) := by
  unfold State.takeCall
  split
  · exact h.refuseCall
  refine .ite h ?_
  split
  · next e => exact h.pushTask e
  refine .ite h.refuseCall ?_
  split
  · exact h.refuseCall
  · next e => exact (h.create e).liveUp

theorem MemoryCanonical.forgetEntries (h : MemoryCanonical s) : MemoryCanonical (s.forgetEntries) := h.update.wakeCond

theorem MemoryCanonical.invalidateAll {i : TlbInv} (h : MemoryCanonical s) : MemoryCanonical (s.invalidateAll i) := h.forgetEntries.update

theorem MemoryCanonical.deviceFill {cells : List Host.Cell} (h : MemoryCanonical s) : MemoryCanonical (s.deviceFill a size key cells) := by
  unfold State.deviceFill
  extract_lets _ _ _ _ u₁ u₂
  have h2 : MemoryCanonical u₁ := .foldl h.mask fun _ _ h => h.sliceWrite
  have h3 : MemoryCanonical u₂ := Memory.paste_wf _ _ _ _ h2
  exact h3.fireFor.retest

theorem MemoryCanonical.setMove {x : PageMove} (h : MemoryCanonical s) : MemoryCanonical (s.setMove x) := h.update

theorem MemoryCanonical.releaseHeld (h : MemoryCanonical s) : MemoryCanonical (s.releaseHeld page) := h.update

theorem MemoryCanonical.moveWaits (h : MemoryCanonical s) : MemoryCanonical (s.moveWaits page target newKey) :=
  .foldl h.update (fun _ _ h => .ite h (.ite h.setAt h.setAt.send))

theorem MemoryCanonical.moveRequests (h : MemoryCanonical s) : MemoryCanonical (s.moveRequests page target) := .ite h h.update

theorem MemoryCanonical.watchMoved {r : Registration} {home : Nat} (h : MemoryCanonical s) : MemoryCanonical (s.watchMoved r home) := by
  unfold State.watchMoved
  refine .ite h.watchFor ?_
  refine .ite h ?_
  extract_lets
  split
  · exact h.update.armLine
  · exact h.update

theorem MemoryCanonical.moveWatches (h : MemoryCanonical s) : MemoryCanonical (s.moveWatches page target).1 := by
  unfold State.moveWatches
  extract_lets
  split
  · refine .foldl h.update fun _ _ h => ?_
    split
    · exact h.armLine
    · exact h
  · exact .foldl_fst h.update fun _ _ h => h.tell

theorem MemoryCanonical.switched {x : PageMove} (h : MemoryCanonical s) : MemoryCanonical (s.switched m x target newKey) := by
  unfold State.switched
  extract_lets _ _ u
  have hu : MemoryCanonical u := h.moveWaits.setMove.releaseHeld
  exact .ite hu.moveRequests (.foldl hu (fun _ _ h => h.passOn))

theorem MemoryCanonical.moveStep {x : PageMove} {oldKey : Nat} (h : MemoryCanonical s) : MemoryCanonical (s.moveStep m x target oldKey newKey) :=
  h.setMove.send

theorem MemoryCanonical.releaseFrame (h : MemoryCanonical s) : MemoryCanonical (s.releaseFrame m page target newKey) := h.send

theorem MemoryCanonical.movePage {x : PageMove} {oldKey : Nat} (h : MemoryCanonical s) : MemoryCanonical (s.movePage m x target oldKey newKey) := by
  unfold State.movePage
  refine .ite h.postGathered ?_
  refine .ite h.deviceFill.moveWatches.switched ?_
  split
  · exact h
  · exact .answer (.ite h.update.setMove h.update.setMove.releaseFrame)
  refine .ite h.update.moveStep ?_
  refine .ite h.update ?_
  refine .ite h.update.moveWatches.setMove ?_
  extract_lets _ u
  have hu : MemoryCanonical u := h.update.releaseFrame.switched
  split
  · exact hu.setMove
  · exact hu

theorem MemoryCanonical.pageAt {op : PageOp} (h : MemoryCanonical s) : MemoryCanonical (s.pageAt m op page) := by
  unfold State.pageAt
  extract_lets
  split
  · exact .ite h.answer h.setMove.answer
  · exact .ite h.answer h.setMove.answer
  · exact h.update.answer
  · split
    · exact .ite h.answer (.ite (.ite h.answer (.ite h h.setMove.answer)) (.ite h.answer h.movePage))
    · exact h.answer
  · split
    · exact .ite h.answer (.ite h h.update.answer)
    · exact h.answer
  · exact .ite h.passOn h.cleanLine.answer

theorem MemoryCanonical.modCopy {f : Copy → Copy} (h : MemoryCanonical s) : MemoryCanonical (s.modCopy tile id f) := h.setTile

theorem MemoryCanonical.awaitPart (h : MemoryCanonical s) : MemoryCanonical (s.awaitPart tile c k) := .ite h h.modCopy.notice

theorem MemoryCanonical.partArrived (h : MemoryCanonical s) : MemoryCanonical (s.partArrived m) := by
  unfold State.partArrived
  split
  · refine .ite h ?_
    split
    · exact h.awaitPart
    · exact h
  · exact h

theorem MemoryCanonical.callNumber {n : Word} (h : MemoryCanonical s) : MemoryCanonical (s.callNumber ep n) :=
  .foldl h.update.notice.post (fun _ _ h => h.send)

theorem MemoryCanonical.callTickets {k ep : Nat} (h : MemoryCanonical s) : MemoryCanonical (State.callTickets k s ep) := by
  induction k generalizing s with
  | zero => exact h
  | succ k ih => exact .ite (ih h.callNumber) h

theorem MemoryCanonical.retireTicket {n : Word} (h : MemoryCanonical s) : MemoryCanonical (s.retireTicket ep n) := .ite h.update.callTickets h

theorem MemoryCanonical.ticketBytes {n : Nat} (h : MemoryCanonical s) : MemoryCanonical (s.ticketBytes o pa n) := by
  unfold State.ticketBytes
  split
  · exact .ite (.ite h.update.retireTicket h.update) h
  · exact h

/-! ### The home of an address -/

theorem MemoryCanonical.serveLoad {ps : List Piece} {fill : Bool} {epoch : Nat} (h : MemoryCanonical s) : MemoryCanonical (s.serveLoad m ps key fill
    epoch) := by
  unfold State.serveLoad
  split
  · exact h.drop
  extract_lets
  split
  · exact h.answer
  refine .ite h.answer ?_
  split
  · exact h.answer
  · exact h.headerAside.countRedirect.sliceRead.answer

theorem MemoryCanonical.noteHeld (h : MemoryCanonical s) : MemoryCanonical (s.noteHeld m) := .ite h h.reply.modMsg

theorem MemoryCanonical.serveAwait {w : WaitAct} (h : MemoryCanonical s) : MemoryCanonical (s.serveAwait m w pa key) := by
  unfold State.serveAwait
  extract_lets
  split
  · exact h.answer
  refine .ite h.answer ?_
  split
  · exact h.answer
  · exact .ite h.countRedirect.answer h.countRedirect.noteHeld.modMsg

theorem MemoryCanonical.applyStore {bs : List (Nat × Byte)} {seq : Nat} (h : MemoryCanonical s) : MemoryCanonical (s.applyStore m bs key seq) := by
  unfold State.applyStore
  split
  · exact h.answer
  · exact .ite h.setTile.answer h.countRedirect.ticketBytes.applyBytes.answer.ownDone

theorem MemoryCanonical.storeTurn {bs : List (Nat × Byte)} {posted : Bool} (h : MemoryCanonical s) : MemoryCanonical (s.storeTurn m bs key no posted)
    :=
  .ite h.noteHeld (.ite h h.applyStore)

theorem MemoryCanonical.homeTurn {f : Author → State → State} (h : MemoryCanonical s) (hf : ∀ x s, MemoryCanonical s → MemoryCanonical (f x s)) :
    MemoryCanonical (s.homeTurn m no pa size f) :=
  .ite h.noteHeld (.ite h (.ite h.recallAt.update (hf _ _ h)))

theorem MemoryCanonical.atHome {f : Author → State → State} (h : MemoryCanonical s) (hf : ∀ x s, MemoryCanonical s → MemoryCanonical (f x s)) :
    MemoryCanonical (s.atHome m pa size f) := by
  unfold State.atHome
  split
  · exact .homeTurn h (fun _ _ h => hf _ _ h)
  · exact .homeTurn h.update.modMsg (fun _ _ h => hf _ _ h)

theorem MemoryCanonical.setDeadline {timeout : Nat} (h : MemoryCanonical s) : MemoryCanonical (s.setDeadline a timeout) := .ite h (.ite h.setWcb h)

theorem MemoryCanonical.joinAt {w id : Nat} (h : MemoryCanonical s) (e : s.joinAt w id = .ok t) : MemoryCanonical t := by
  unfold State.joinAt at e
  extract_lets at e
  split at e
  · cases e
  · cases e
    exact .ite h.wcbField.wcbField.wcbField h

theorem MemoryCanonical.leaveAt {w : Nat} (h : MemoryCanonical s) (e : s.leaveAt w = .ok t) : MemoryCanonical t := by
  unfold State.leaveAt at e
  extract_lets at e
  split at e
  · cases e
  split at e
  · cases e
  · cases e
    exact .ite h.wcbField.wcbField h

theorem MemoryCanonical.countVote {w : Nat} (h : MemoryCanonical s) : MemoryCanonical (s.countVote w) := h.wcbField

theorem MemoryCanonical.castAt {w : Nat} {all p : Bool} {timeout : Nat} (h : MemoryCanonical s) : MemoryCanonical (s.castAt w all p timeout) :=
  h.setWcb.setDeadline

theorem MemoryCanonical.countAfar {w : Nat} (h : MemoryCanonical s) : MemoryCanonical (s.countAfar m w) := h.countVote.update.waveTest

theorem MemoryCanonical.waveAt {op : WaveOp Thread} (h : MemoryCanonical s) : MemoryCanonical (s.waveAt m op a) := by
  unfold State.waveAt
  refine .ite h.answer ?_
  extract_lets
  split
  · exact h.setWcb.answer
  · exact h.setWcb.leaveWave.update.answer
  · exact .answer (.ite h.countRedirect h.countRedirect.growWave)
  · exact h.countRedirect.setWcb.answer
  · split
    · exact h.countRedirect.answer
    rename_i t e
    have ht : MemoryCanonical t := h.countRedirect.joinAt e
    exact ht.countAfar.answer
  · split
    · exact h.countRedirect.answer
    rename_i t e
    have ht : MemoryCanonical t := h.countRedirect.leaveAt e
    exact ht.countAfar.answer
  · exact .ite h.countRedirect.answer (.ite h.countRedirect.answer h.countRedirect.castAt.countAfar.answer)
  · exact h.countRedirect.answer

theorem MemoryCanonical.recallOn {w : Nat} (h : MemoryCanonical s) : MemoryCanonical (s.recallOn core w) := by
  unfold State.recallOn
  refine .foldl h (fun _ _ h => ?_)
  split
  · exact h.send
  · exact h

theorem MemoryCanonical.serveLine (h : MemoryCanonical s) : MemoryCanonical (s.serveLine m line key) := by
  unfold State.serveLine
  extract_lets
  split
  · exact h.answer
  · exact .ite h.answer (.ite h.answer (.answer (.foldl h.countRedirect (fun _ _ h => h.sliceRead))))

theorem MemoryCanonical.readMasked {mask : BitVec 4} (h : MemoryCanonical s) : MemoryCanonical (s.readMasked a key mask) :=
  .foldl h (fun _ _ h => h.sliceRead)

theorem MemoryCanonical.armOn {reg : WReg} {mask : BitVec 4} {token : Option Nat} {x : Nat} (h : MemoryCanonical s) : MemoryCanonical (s.armOn m reg
    line mask key token x) :=
  .ite h (.ite h.passOn h.dropWords.update.modMsg.passOn)

theorem MemoryCanonical.onRegister {f : Nat → Nat → Msg → State → State} (h : MemoryCanonical s) (hf : ∀ x y z s, MemoryCanonical s → MemoryCanonical
    (f x y z s)) : MemoryCanonical (s.onRegister f) := by
  unfold State.onRegister
  split
  · split
    · refine .ite h ?_
      refine .once h (fun _ h => ?_)
      extract_lets
      split
      · exact h.answer
      · exact hf _ _ _ _ h
    · exact h
  · exact h

theorem MemoryCanonical.regDone (h : MemoryCanonical s) : MemoryCanonical (s.regDone m) := h.answer

theorem MemoryCanonical.fillL1 {fill : List (Nat × L1Word)} {epoch : Nat} (h : MemoryCanonical s) : MemoryCanonical (s.fillL1 core fill epoch) :=
  .ite h h.dropWords.setCore

theorem MemoryCanonical.ticketAnswer {status : Nat} (h : MemoryCanonical s) : MemoryCanonical (s.ticketAnswer p status) :=
  .ite h h.hearCall.completeAt

theorem MemoryCanonical.deliver (h : MemoryCanonical s) : MemoryCanonical (s.deliver p vals) := by
  unfold State.deliver
  extract_lets
  split
  · refine .ite h.setAt ?_
    extract_lets
    split
    · exact .wakeAt (.setAt (.ite h.acquire h))
    · exact .completeAt (.ite h.acquire h)
  · exact h.wakeAt
  · exact h.acquire.completeAt
  · exact .ite h.ticketAnswer h.completeAt
  · exact h

theorem MemoryCanonical.dropBoth (h : MemoryCanonical s) : MemoryCanonical (s.dropBoth m) := by
  unfold State.dropBoth
  extract_lets
  split
  · exact .ite h.drop.drop.netFreed h.drop.drop
  · exact h.drop

theorem MemoryCanonical.outdate {ws : List Nat} (h : MemoryCanonical s) : MemoryCanonical (s.outdate core no ws) := h.dropWords.update

theorem MemoryCanonical.jobFlags {f : BitVec 6} (h : MemoryCanonical s) : MemoryCanonical (s.jobFlags job f) := by
  unfold State.jobFlags
  split
  · exact h.modJob
  · exact h

theorem MemoryCanonical.entryRead (h : MemoryCanonical s) : MemoryCanonical (s.entryRead a vals) := h.update.wakeCond

theorem MemoryCanonical.dataFor (h : MemoryCanonical s) : MemoryCanonical (s.dataFor m vals) := by
  unfold State.dataFor
  split
  · exact .ite h h.deliver.settle
  · exact h

theorem MemoryCanonical.toldHeld {r : Msg} (h : MemoryCanonical s) : MemoryCanonical (s.toldHeld m r) := by
  unfold State.toldHeld
  extract_lets
  split
  · exact h.drop.modMsg.noteHeld.modMsg
  · exact h.drop.modMsg

/-! ### Waves -/

theorem MemoryCanonical.endLaunch {l : Launch} (h : MemoryCanonical s) : MemoryCanonical (s.endLaunch l) := h.update.liveDown

theorem MemoryCanonical.stopLaunch {l : Launch} (h : MemoryCanonical s) : MemoryCanonical (s.stopLaunch l) := h.record.endLaunch

theorem MemoryCanonical.makeWave {l : Launch} {block : Nat} (h : MemoryCanonical s) : MemoryCanonical (s.makeWave l block) :=
  .ite (.notice (.update (.initBlock h.createWave))) (.update (.initBlock h.createWave))

theorem MemoryCanonical.lostLaunch {l : Launch} (h : MemoryCanonical s) : MemoryCanonical (s.lostLaunch l) := h.record.endLaunch

theorem MemoryCanonical.freeWave (h : MemoryCanonical s) : MemoryCanonical (s.freeWave a) := .foldl h.update.wakeCond (fun _ _ h => h.notice)

theorem MemoryCanonical.counterFault {e : WaveEnd} {counter : Nat} (h : MemoryCanonical s) : MemoryCanonical (s.counterFault e counter code w4) :=
  h.record.freeWave

theorem MemoryCanonical.countWave {e : WaveEnd} (h : MemoryCanonical s) : MemoryCanonical (s.countWave e) := by
  unfold State.countWave
  refine .ite h.freeWave ?_
  extract_lets
  split
  · exact h.counterFault
  · rename_i t e
    have ht : MemoryCanonical t := h.checkWalk.fst e
    exact ht.notice
  rename_i t _ e
  have ht : MemoryCanonical t := h.checkWalk.fst e
  split
  · exact h.counterFault
  · exact ht.update.sendReduce.notice

/-! ### Operations on other threads -/

theorem MemoryCanonical.writeWatch {r : WReg} {x : Dword} (h : MemoryCanonical s) (e : s.writeWatch p r x = some t) : MemoryCanonical t := by
  unfold State.writeWatch at e
  extract_lets at e
  split at e
  · cases e
  split at e
  · cases e
    exact h.withdraw.setAt
  split at e
  · next u a hu =>
    split at e
    · cases e
    · cases e
      exact (h.checkWalk.fst hu).withdraw.setAt.register
  · cases e

theorem MemoryCanonical.writeJob {x : Dword} (h : MemoryCanonical s) (e : s.writeJob p x = some t) : MemoryCanonical t := by
  unfold State.writeJob at e
  extract_lets at e
  split at e
  · cases e
  · cases e
    exact .ite h.setAt h.setAt.liveUp.liveDown

theorem MemoryCanonical.writeAt {i : Nat} {x : Dword} (h : MemoryCanonical s) (e : s.writeAt p i x = some t) : MemoryCanonical t := by
  unfold State.writeAt at e
  split at e
  · split at e
    · cases e
      exact h.beginEnd.settle
    · cases e
  split at e
  · exact h.writeWatch e
  split at e
  · exact h.writeJob e
  · obtain ⟨u, -, rfl⟩ := Option.map_eq_some_iff.mp e
    exact h.setAt

theorem MemoryCanonical.stopThread {hold : Bool} (h : MemoryCanonical s) : MemoryCanonical (s.stopThread p hold) := by
  unfold State.stopThread
  extract_lets
  split
  · exact h.setAt
  · exact h.setAt
  · exact h.setAt
  · exact .ite h.setAt h.setAt
  · exact .ite h.setAt h.setAt
  · exact h.setAt.setCore
  · exact h.setAt

theorem MemoryCanonical.startThread {far : Bool} {after : List (Name × Nat)} (h : MemoryCanonical s) : MemoryCanonical (s.startThread p far after) :=
    by
  unfold State.startThread
  refine .ite h.setAt ?_
  split
  · exact h.setAt
  · exact h.setAt
  · split
    · exact h.setAt
    · exact h.setAt
    · exact .ite h.setAt h.setAt.enqueue
    · exact h.setAt
  · exact h

theorem MemoryCanonical.operateAt {op : ThreadOp} {far : Bool} {after : List (Name × Nat)} (h : MemoryCanonical s) : MemoryCanonical ((s.operateAt op
    p far after).2) := by
  unfold State.operateAt
  extract_lets
  split
  · exact h.stopThread.settle
  · exact h.startThread
  · split
    · exact h
    · exact h
  · split
    · exact h
    split
    · rename_i t e
      have ht : MemoryCanonical t := h.writeAt e
      exact ht
    · exact h
  · exact h

theorem MemoryCanonical.operate {op : ThreadOp} {far : Bool} {after : List (Name × Nat)} (h : MemoryCanonical s) : MemoryCanonical ((s.operate op p
    far after).2) :=
  h.refresh.operateAt.writeBack

theorem MemoryCanonical.armCheck {op : ThreadOp} {c : Checked} (h : MemoryCanonical s) (e : s.armCheck op p = some (t, c)) : MemoryCanonical t := by
  unfold State.armCheck at e
  extract_lets at e
  split at e
  · split at e
    · exact h.checkWalk.fst (Option.some.inj e)
    · cases e
  · cases e

theorem MemoryCanonical.opWaits {op : ThreadOp} (h : MemoryCanonical s) : MemoryCanonical (s.opWaits op p) := by
  unfold State.opWaits
  split
  · rename_i t e
    have ht : MemoryCanonical t := h.armCheck e
    exact ht
  · exact h

theorem MemoryCanonical.modContext {f : Thread → Thread} (h : MemoryCanonical s) : MemoryCanonical (s.modContext n f) := by
  unfold State.modContext
  split
  · exact h.refresh.setAt.writeBack
  · exact h

theorem MemoryCanonical.lateFlags {f : BitVec 6} (h : MemoryCanonical s) : MemoryCanonical (s.lateFlags core n job f).1 := by
  unfold State.lateFlags
  extract_lets
  split
  · exact h
  split
  · dsimp only
    exact h.modContext
  · exact h.tell
  · exact h.jobFlags

theorem MemoryCanonical.lateStop {x : NanStop} (h : MemoryCanonical s) : MemoryCanonical ((s.lateStop core n x).1) := by
  unfold State.lateStop
  split
  · exact h.modNamed
  · exact h.tell
  · exact h

theorem MemoryCanonical.heard {x : News} (h : MemoryCanonical s) : MemoryCanonical (s.heard n x) := by
  unfold State.heard
  split
  · exact h.moveStub
  · exact h.dropStub
  · exact h.anchored
  · exact h.freeStub
  · exact h.lateFlags
  · exact h.lateStop
  · exact h.watchMoved
  · exact h.poisonAt
  split
  · exact h
  refine .ite h ?_
  split
  · exact h.setCore
  · exact h.refresh.setAt.completeAt.writeBack
  · exact h.refresh.setAt.completeAt.writeBack
  · exact h.refresh.setAt.faultAt.writeBack

theorem MemoryCanonical.goesOn (h : MemoryCanonical s) : MemoryCanonical (s.goesOn m pkg) := .ite h.modMsg h.drop.outward

/-! ### Invalidation and page moves -/

theorem MemoryCanonical.pollWith {after : Nat} {vs : List Nat} (h : MemoryCanonical s) : MemoryCanonical (s.pollWith after ea vs) :=
  h.keep.stallFor.post

theorem MemoryCanonical.startTlbinv {scope : Nat} {i : TlbInv} (h : MemoryCanonical s) : MemoryCanonical (s.startTlbinv scope i) :=
  .ite h.forgetEntries.setCore.update (.ite h.invalidateAll (.foldl h.invalidateAll (fun _ _ h => h.send)))

theorem MemoryCanonical.askPage {eb : Dword} {op : PageOp} (h : MemoryCanonical s) : MemoryCanonical (s.askPage ea eb pa key op) :=
  .released h (fun _ h => .viaNet h (fun _ h => h.wait.send))

/-! ### The tables of a tile -/

theorem MemoryCanonical.setTable {y : Nat} {ds : List Nat} (h : MemoryCanonical s) : MemoryCanonical (s.setTable tile y ds) := h.setTile

/-! ### The matrix engine -/

theorem MemoryCanonical.agentRead {cache : Assoc Nat} {va n : Nat} (h : MemoryCanonical s) : MemoryCanonical ((s.agentRead g cache va n).1) := by
  unfold State.agentRead
  split
  · rename_i t _ _ e
    have ht : MemoryCanonical t := h.checkWalk.fst e
    exact ht
  · rename_i t e
    have ht : MemoryCanonical t := h.checkWalk.fst e
    exact ht
  rename_i t _ e
  have ht : MemoryCanonical t := h.checkWalk.fst e
  extract_lets
  split
  · exact ht
  split
  · split
    · exact ht
    split
    · exact ht.update
    · exact ht.update
    split
    · exact ht
    · exact ht.send
  split
  · exact ht
  split
  · exact ht
  split
  · exact ht
  · exact ht.countRedirect.sliceRead

theorem MemoryCanonical.agentReadRun {cache : Assoc Nat} {va n : Nat} (h : MemoryCanonical s) : MemoryCanonical (s.agentReadRun g cache va n).1 := by
  unfold State.agentReadRun
  split
  · exact h
  · refine .foldl_fst h fun r _ h => ?_
    split
    · split
      · next e => exact h.agentRead.fst e
      · exact h.agentRead
    · exact h

theorem MemoryCanonical.agentCheck {scratch : Bool} {va : Nat} (h : MemoryCanonical s) : MemoryCanonical ((s.agentCheck g scratch va).1) := by
  unfold State.agentCheck
  split
  · rename_i t _ _ e
    have ht : MemoryCanonical t := h.checkWalk.fst e
    exact ht
  · rename_i t e
    have ht : MemoryCanonical t := h.checkWalk.fst e
    exact ht
  rename_i t _ e
  have ht : MemoryCanonical t := h.checkWalk.fst e
  extract_lets
  split
  · exact ht
  split
  · exact ht
  · exact ht

theorem MemoryCanonical.agentChecks {scratch : Bool} {l : List (Nat × Nat)} (h : MemoryCanonical s) :
    MemoryCanonical (s.agentChecks g scratch l).1 := by
  induction l generalizing s with
  | nil => exact h
  | cons q l ih =>
    unfold State.agentChecks
    split
    · next e => exact h.agentCheck.fst e
    · next e =>
      have hchecked := h.agentCheck.fst e
      split
      · next e => exact (ih hchecked).fst e
      · exact ih hchecked

theorem MemoryCanonical.agentPut {x : Access} (h : MemoryCanonical s) : MemoryCanonical (s.agentPut g x bs) :=
  .ite h.send h.countRedirect.ticketBytes.applyBytes

theorem MemoryCanonical.agentWrite {scratch : Bool} {va : Nat} (h : MemoryCanonical s) : MemoryCanonical (s.agentWrite g scratch va bs).1 := by
  unfold State.agentWrite
  split
  · next e => exact h.agentChecks.fst e
  · next e =>
    have hchecked := h.agentChecks.fst e
    split
    · exact hchecked
    · exact .foldl_fst hchecked fun _ _ h => h.agentPut

theorem MemoryCanonical.agentUpdate (h : MemoryCanonical s) : MemoryCanonical (s.agentUpdate g pa key what) :=
  .ite (.ite h.setTile.countDrop h.countRedirect.reduceAt) h.send

theorem MemoryCanonical.flagsTo {f : Sticky} (h : MemoryCanonical s) : MemoryCanonical ((s.flagsTo op f).1) := h.lateFlags

theorem MemoryCanonical.slotFault (h : MemoryCanonical s) : MemoryCanonical (s.slotFault x) := h.raise

theorem MemoryCanonical.setOpSlot {n : Nat} {o : OpSlot} (h : MemoryCanonical s) : MemoryCanonical (s.setOpSlot tile n o) := h.setTile

theorem MemoryCanonical.claim {c : GReg} {n : Nat} (h : MemoryCanonical s) : MemoryCanonical (s.claim c n) := by
  unfold State.claim
  extract_lets
  split
  · exact .ite h.setOpSlot.wait.notice h.setOpSlot.update.result
  · exact h.setOpSlot.update.result

theorem MemoryCanonical.modOp {f : EngineOp → EngineOp} (h : MemoryCanonical s) : MemoryCanonical (s.modOp tile id f) := h.setTile

theorem MemoryCanonical.kick (h : MemoryCanonical s) : MemoryCanonical (s.kick tile) := by
  unfold State.kick
  extract_lets _ u
  have hu : MemoryCanonical u := by
    unfold u
    split
    · exact h
    · exact .ite h.modOp.notice h
  refine .foldl hu (fun _ _ h => ?_)
  split
  · exact .ite h.modOp.notice h
  · exact h

theorem MemoryCanonical.opDone (h : MemoryCanonical s) : MemoryCanonical (s.opDone tile id) := .kick (.foldl h.setTile (fun _ _ h => h.wakeWhere))

theorem MemoryCanonical.enqueueOp {kind : EngKind} {a b c : Dword} {w : Option (GReg × Bool)} {bar : Option (Nat × Nat)} (h : MemoryCanonical s) :
    MemoryCanonical (s.enqueueOp kind a b c w bar) := by
  unfold State.enqueueOp
  refine .ite h.keep.stallFor ?_
  extract_lets _ _ _ _ _ _ u₁ u₂
  have hu₁ : MemoryCanonical u₁ := .ite h.update.setTile.postOf h.update.setTile
  have hu₂ : MemoryCanonical u₂ := by
    unfold u₂
    split
    · exact hu₁.wait
    · exact hu₁.retire
  exact hu₂.notice

theorem MemoryCanonical.opChecks {kind : EngKind} {w : Option (GReg × Bool)} {f : State → State} (h : MemoryCanonical s) (hf : ∀ s, MemoryCanonical s
    → MemoryCanonical (f s)) : MemoryCanonical (s.opChecks kind w f) := by
  unfold State.opChecks
  extract_lets
  split
  · exact h.enqueueOp
  · exact h.enqueueOp
  · exact hf _ h

theorem MemoryCanonical.waitPhase {p0 : Nat} (h : MemoryCanonical s) : MemoryCanonical (s.waitPhase op p0) := by
  unfold State.waitPhase
  split
  · exact h
  · exact .ite h (.ite h.setAt.send (.ite h.setAt.post h.setAt.retest))

theorem MemoryCanonical.expectAt (h : MemoryCanonical s) : MemoryCanonical (s.expectAt tile op) := h.agentUpdate.modOp.waitPhase.kick

theorem MemoryCanonical.expectRefused (h : MemoryCanonical s) : MemoryCanonical (s.expectRefused tile op code w4) :=
  .kick (.ite h.update.modOp.faultNamed h.update.modOp.countDrop)

theorem MemoryCanonical.learnPhase (h : MemoryCanonical s) : MemoryCanonical (s.learnPhase tile op) := by
  unfold State.learnPhase
  refine .ite h.notice ?_
  split
  · exact h.expectRefused
  · exact h.update.modOp.waitPhase.kick
  · exact h.modOp.kick

theorem MemoryCanonical.readSat {c : GReg} (h : MemoryCanonical s) : MemoryCanonical (s.readSat x c) := .ite h.enqueueOp h.result

theorem MemoryCanonical.opAgain (h : MemoryCanonical s) : MemoryCanonical (s.opAgain tile op) := h.notice

theorem MemoryCanonical.opFinish {stop : Option NanStop} (h : MemoryCanonical s) : MemoryCanonical (s.opFinish tile op stop) := by
  unfold State.opFinish
  extract_lets _ _ _ u
  have hu : MemoryCanonical u := by
    unfold u
    split
    · exact .ite h.agentUpdate.lateStop h.agentUpdate
    · exact h.agentUpdate
  exact hu.opDone

theorem MemoryCanonical.completing {f : Nat → EngineOp → State} (h : MemoryCanonical s) (hf : ∀ x y, MemoryCanonical (f x y)) : MemoryCanonical
    (s.completing f) := by
  unfold State.completing
  extract_lets
  split
  · refine .ite ?_ h
    split
    · exact .ite h.opAgain h.opFinish
    · exact hf _ _
  · exact h

theorem MemoryCanonical.opFault {code sect : Nat} (h : MemoryCanonical s) : MemoryCanonical (s.opFault tile op code sect) := h.agentUpdate.opDone

theorem MemoryCanonical.opArriveWith {f : Sticky} {stop : Option NanStop} (h : MemoryCanonical s) :
    MemoryCanonical (s.opArriveWith tile op f stop) := by
  unfold State.opArriveWith
  split
  next u a hu =>
  split
  next v b hv =>
    have hflags := h.flagsTo.fst hu
    have hstop : MemoryCanonical v := by
      split at hv
      · exact hflags.of_eq (congrArg Prod.fst hv)
      split at hv
      · exact hflags.lateStop.fst hv
      · exact hflags.of_eq (congrArg Prod.fst hv)
    split
    · exact hstop.opFinish
    · exact hstop.modOp.opAgain

theorem MemoryCanonical.opArrive {f : Sticky} (h : MemoryCanonical s) : MemoryCanonical (s.opArrive tile op f) := h.opArriveWith

theorem MemoryCanonical.writeRows {row : State → Nat → Nat × List Byte} {n fuel : Nat} {finish : State → EngineOp → State}
    {fail : State → EngineOp → Nat → State} (h : MemoryCanonical s) (hfinish : ∀ s op, MemoryCanonical s → MemoryCanonical (finish s op))
    (hfail : ∀ s op n, MemoryCanonical s → MemoryCanonical (fail s op n)) : MemoryCanonical (State.writeRows tile row n finish fail fuel s op) := by
  induction fuel generalizing s op with
  | zero => exact h.opAgain
  | succ fuel ih =>
    unfold State.writeRows
    extract_lets save
    have hsave {s : State} {op : EngineOp} (h : MemoryCanonical s) : MemoryCanonical (save s op) := h.modOp
    refine .ite (hsave h).opAgain ?_
    split
    · exact hfail _ _ _ (hsave h.update)
    refine .ite (hfinish _ _ (hsave h)) ?_
    split
    split
    · next e => exact hfail _ _ _ (hsave (h.agentWrite.fst e))
    · next e => exact (hsave (h.agentWrite.fst e)).opAgain
    · next e =>
      have hwritten := h.agentWrite.fst e
      exact .ite (hsave hwritten).opAgain (ih hwritten)

theorem MemoryCanonical.readImage {cache : Assoc Nat} {va n : Nat} (h : MemoryCanonical s) : MemoryCanonical (s.readImage g cache va n).1 := by
  induction n with
  | zero => exact h
  | succ n ih =>
    unfold State.readImage
    split
    · next e =>
      have hread := ih.fst e
      split
      · next e => exact hread.agentReadRun.fst e
      · next e => exact hread.agentReadRun.fst e
    · exact ih

/-! ### Copies -/

theorem MemoryCanonical.countBatches {n : Name} {k : Nat} (h : MemoryCanonical s) : MemoryCanonical (s.countBatches n k) := by
  induction k generalizing s with
  | zero => exact h
  | succ k ih =>
    unfold State.countBatches
    split
    · exact .ite h (ih h.modContext)
    · exact h

theorem MemoryCanonical.commit {f : State → State} (h : MemoryCanonical s) (hf : ∀ s, MemoryCanonical s → MemoryCanonical (f s)) : MemoryCanonical
    (s.commit f) :=
  .ite (hf _ h) (.ite h.stallFor (hf _ h.modCur.countBatches))

theorem MemoryCanonical.enqueueCopy {sparse : Bool} {ga : Dword} {bar : Nat × Nat} (h : MemoryCanonical s) : MemoryCanonical (s.enqueueCopy sparse ga
    gb d bar) :=
  .ite h.stallFor h.update.setTile.postOf.modCur.notice

theorem MemoryCanonical.acceptCopy {sparse : Bool} {ga : Dword} {bar : Nat × Nat} (h : MemoryCanonical s) : MemoryCanonical (s.acceptCopy sparse ga
    gb d bar) :=
  .ite (.commit h.keep (fun _ h => h.enqueueCopy)) h.keep.enqueueCopy

theorem MemoryCanonical.copyChecks {sparse : Bool} {ga : Dword} (h : MemoryCanonical s) : MemoryCanonical (s.copyChecks sparse ga gb d) := by
  unfold State.copyChecks
  split
  · exact h.raise
  refine .barrierAccess h (fun _ => ?_)
  split
  · exact h.raise
  · exact .ite h.slotFault (.ite h.slotFault h.acceptCopy)

theorem MemoryCanonical.sparsePart {r off len : Nat} (h : MemoryCanonical s) : MemoryCanonical (s.sparsePart c r off len).1 := by
  unfold State.sparsePart
  extract_lets
  split
  · next e =>
    have hbits := h.agentReadRun.fst e
    extract_lets
    split
    · next e => exact hbits.agentReadRun.fst e
    · next e => exact hbits.agentReadRun.fst e
  · next e => exact h.agentReadRun.fst e

theorem MemoryCanonical.copyPart {r len : Nat} (h : MemoryCanonical s) : MemoryCanonical ((s.copyPart c r off len).1) := by
  unfold State.copyPart
  split
  · exact h.sparsePart
  split
  · split
    · extract_lets
      split
      · exact h
      · exact h
    · exact h
  · exact h.agentReadRun

theorem MemoryCanonical.deliverNext {after : Nat} (h : MemoryCanonical s) : MemoryCanonical (s.deliverNext tile id after) := h.notice

theorem MemoryCanonical.copyFault {code : Nat} (h : MemoryCanonical s) : MemoryCanonical (s.copyFault tile c code k) := h.agentUpdate.modCopy.notice

theorem MemoryCanonical.copyDelivered {setInRow : Nat} {rowEnds : Bool} (h : MemoryCanonical s) : MemoryCanonical (s.copyDelivered tile c setInRow
    rowEnds) :=
  .ite h.agentUpdate.modCopy.notice h.agentUpdate.modCopy.deliverNext

theorem MemoryCanonical.fillSlot {f : OpSlot → OpSlot} {sector : Nat} (h : MemoryCanonical s) : MemoryCanonical (s.fillSlot tile c f sector) :=
  .ite h.setOpSlot h.setOpSlot.update

theorem MemoryCanonical.writeBlock (h : MemoryCanonical s) : MemoryCanonical (s.writeBlock tile c v) := by
  unfold State.writeBlock
  extract_lets
  split
  · exact h.copyFault
  · exact h.fillSlot.copyDelivered

theorem MemoryCanonical.copySector {r len setInRow : Nat} (h : MemoryCanonical s) : MemoryCanonical (s.copySector tile c r off len setInRow bs) := by
  unfold State.copySector
  refine .ite ?_ ?_
  · refine .ite ?_ h.writeBlock
    split
    · exact h
    · exact h.modCopy.writeBlock
  · refine .ite h.fillSlot.copyDelivered ?_
    split
    · rename_i t _ e
      have ht : MemoryCanonical t := h.agentWrite.fst e
      exact ht.copyFault
    · rename_i t e
      have ht : MemoryCanonical t := h.agentWrite.fst e
      exact ht.deliverNext
    rename_i t _ e
    have ht : MemoryCanonical t := h.agentWrite.fst e
    exact .ite ht.modCopy.deliverNext ht.copyDelivered

theorem MemoryCanonical.copyDone (h : MemoryCanonical s) : MemoryCanonical (s.copyDone tile c) := by
  unfold State.copyDone
  extract_lets _ _ u
  have hu : MemoryCanonical u := by
    unfold u
    split
    · exact .ite h.setTile.deliverNext h.setTile
    · exact h.setTile
  exact .settle (.countBatches (.foldl hu (fun _ _ h => h.wakeWhere)))

/-! ### Burst reads -/

theorem MemoryCanonical.reserve (h : MemoryCanonical s) : MemoryCanonical (s.reserve ea d) := by
  unfold State.reserve
  extract_lets _ _ _ _ _ _ _ u
  have hu : MemoryCanonical u := h.update.setCore.postOf.gather
  split
  · exact .ite hu.wait hu.retire
  · exact hu.retire

theorem MemoryCanonical.setRead {r : Nat} {x : HRead} (h : MemoryCanonical s) : MemoryCanonical (s.setRead r x) := h

theorem MemoryCanonical.burstClosed {r q : Nat} {x : HRead} (h : MemoryCanonical s) : MemoryCanonical (s.burstClosed r x q) := h.setRead.notice

theorem MemoryCanonical.freeRead {r : Nat} {x : HRead} (h : MemoryCanonical s) : MemoryCanonical (s.freeRead r x) := h.setCore.update.liveDown

/-! ### Branches and loops -/

theorem MemoryCanonical.prepare {k : BReg} (h : MemoryCanonical s) : MemoryCanonical (s.prepare k x) := h.modCur

theorem MemoryCanonical.setLoop {c n : Nat} (h : MemoryCanonical s) : MemoryCanonical (s.setLoop c n) :=
  .ite h.raise (.ite h.raise (.ite h.modCur h.modCur))

/-! ### Collectives -/

theorem MemoryCanonical.forVoters {f : State → Place → State} (h : MemoryCanonical s) (hf : ∀ s y, MemoryCanonical s → MemoryCanonical (f s y)) :
    MemoryCanonical (s.forVoters a f) :=
  .foldl h (fun _ _ h => .ite h.setAt (hf _ _ h))

theorem MemoryCanonical.inImage {f : State → State} (h : MemoryCanonical s) (hf : ∀ s, MemoryCanonical s → MemoryCanonical (f s)) : MemoryCanonical
    (s.inImage p f) :=
  .writeBack (hf _ h.refresh)

theorem MemoryCanonical.collFault (h : MemoryCanonical s) : MemoryCanonical (s.collFault reason) := h.raise

theorem MemoryCanonical.withWave {f : Nat → State} (h : MemoryCanonical s) (hf : ∀ x, MemoryCanonical (f x)) : MemoryCanonical (s.withWave f) := by
  unfold State.withWave
  split
  · exact hf _
  · exact h.collFault

theorem MemoryCanonical.countVoter (h : MemoryCanonical s) : MemoryCanonical (s.countVoter a) := h.countVote.modCur

theorem MemoryCanonical.askWave {op : WaveOp Thread} {f : Nat → State → State} (h : MemoryCanonical s) (hf : ∀ x s, MemoryCanonical s →
    MemoryCanonical (f x s)) : MemoryCanonical (s.askWave op f) := by
  unfold State.askWave
  split
  · exact h.collFault
  · exact hf _ _ h
  · exact .viaNet h (fun _ h => h.wait.tellWave)

theorem MemoryCanonical.askedWave {x : Nat} (h : MemoryCanonical s) : MemoryCanonical (State.askedWave x s) := .ite h.collFault h.modCur.wait

theorem MemoryCanonical.abortAt {extra : Nat} (h : MemoryCanonical s) : MemoryCanonical (s.abortAt p reason extra) :=
  .ite h.setAt.faultAt h.setAt.wakeAt

theorem MemoryCanonical.missed {e : Nat} (h : MemoryCanonical s) : MemoryCanonical (s.missed e) := h.modCur.abortAt

theorem MemoryCanonical.predict {p : Bool} {k : BReg} {seen : Dword} (h : MemoryCanonical s) : MemoryCanonical (s.predict p k seen) :=
  .ite h.modCur h.modCur.wait

theorem MemoryCanonical.setColl {c : Coll} (h : MemoryCanonical s) : MemoryCanonical (s.setColl j c) := h.update

theorem MemoryCanonical.tellVoters {x : CollNews} (h : MemoryCanonical s) : MemoryCanonical (s.tellVoters a x) :=
  .update (.foldl h (fun _ _ h => h.tell))

theorem MemoryCanonical.sendSummary {c : Coll} (h : MemoryCanonical s) : MemoryCanonical (s.sendSummary j c) := h.setColl.send

theorem MemoryCanonical.abortRecord {c : Coll} (h : MemoryCanonical s) : MemoryCanonical (s.abortRecord c reason) := h.deviceWrite

theorem MemoryCanonical.verdictAt {c : Coll} {result : Nat} (h : MemoryCanonical s) : MemoryCanonical (s.verdictAt j c result reason) := by
  unfold State.verdictAt
  extract_lets _ _ u₁ _ _ _ _ u₂ u₃ u₄
  have h2 : MemoryCanonical u₂ := .setColl (.ite h.abortRecord h)
  have h3 : MemoryCanonical u₃ := .foldl h2 fun _ _ h => h.post
  have h4 : MemoryCanonical u₄ := .foldl h3 fun _ _ h => h.send
  exact .ite h4.sendSummary h4

theorem MemoryCanonical.collCheck {c : Coll} (h : MemoryCanonical s) : MemoryCanonical (s.collCheck j c) :=
  .ite h.setColl (.ite h.setColl.sendSummary (.ite h.setColl (.ite h.setColl.verdictAt h.setColl.verdictAt)))

theorem MemoryCanonical.onEntry {f : Flit} {g : Nat → Coll → State} (h : MemoryCanonical s) (hg : ∀ x y, MemoryCanonical (g x y)) : MemoryCanonical
    (s.onEntry f g) := by
  unfold State.onEntry
  split
  · exact .ite (hg _ _) h
  · exact h

theorem MemoryCanonical.endRunAhead {f : Option PendingFault} (h : MemoryCanonical s) : MemoryCanonical (s.endRunAhead p f) := by
  unfold State.endRunAhead
  extract_lets
  split
  · exact h.setAt.faultAt
  · exact h.setAt.wakeAt

theorem MemoryCanonical.postHeld {n : Nat} (h : MemoryCanonical s) : MemoryCanonical (State.postHeld p n s) := by
  induction n generalizing s with
  | zero => exact h
  | succ n ih =>
    unfold State.postHeld
    extract_lets
    split
    · exact h
    split
    · exact h.endRunAhead
    · have hsent {t : Thread} {o : Origin} {bs : List (Nat × Byte)} {k : Nat} : MemoryCanonical ((s.setAt p t).sendStore o bs k false false) :=
        h.setAt.sendStore
      exact .ite h.postOf (.ite hsent.endRunAhead (ih hsent))

theorem MemoryCanonical.applyVerdict {f : Flit} (h : MemoryCanonical s) : MemoryCanonical (s.applyVerdict f p) := by
  unfold State.applyVerdict
  refine .ite h.setAt.abortAt ?_
  extract_lets
  split
  · exact .ite h.setAt.postHeld h.setAt.wakeAt
  · exact h.setAt.wakeAt

theorem MemoryCanonical.verdictFar {f : Flit} (h : MemoryCanonical s) : MemoryCanonical (s.verdictFar core n f) := by
  unfold State.verdictFar
  extract_lets
  split
  · exact h.setCore
  · exact .ite h.setCore (.ite h.setCore.setAt (.inImage h.setCore (fun _ h => h.applyVerdict.settle)))

theorem MemoryCanonical.withTarget' {f : Nat → State} (h : MemoryCanonical s) (hf : ∀ x, MemoryCanonical (f x)) : MemoryCanonical (s.withTarget' x f)
    :=
  .ite h.slotFault (.withCoreRight h (fun _ h => .ite h.raise (hf _)))

/-! ### Saving and restoring a tile -/

theorem MemoryCanonical.tileStateFault {t : Nat} (h : MemoryCanonical s) : MemoryCanonical (s.tileStateFault t) := h.raise

theorem MemoryCanonical.imageWalk {va n : Nat} (h : MemoryCanonical s) : MemoryCanonical (s.imageWalk va n).1 := by
  induction n with
  | zero => exact h
  | succ n ih =>
    unfold State.imageWalk
    split
    · next e =>
      have hwalked := ih.fst e
      extract_lets
      split
      · next e =>
        have hchecked := hwalked.checkWalk.fst e
        split
        · exact hchecked
        · exact hchecked
      · next e => exact hwalked.checkWalk.fst e
      · next e => exact hwalked.checkWalk.fst e
    · exact ih

theorem MemoryCanonical.withImagePages {f : State → List (Nat × Nat) → State} (h : MemoryCanonical s) (hf : ∀ s y, MemoryCanonical s →
    MemoryCanonical (f s y)) : MemoryCanonical (s.withImagePages gb f) := by
  unfold State.withImagePages
  refine .ite h.raise ?_
  split
  · rename_i t _ _ _ e
    have ht : MemoryCanonical t := h.imageWalk.fst e
    exact ht.raise
  · rename_i t _ e
    have ht : MemoryCanonical t := h.imageWalk.fst e
    exact hf _ _ ht
  rename_i t e
  have ht : MemoryCanonical t := h.imageWalk.fst e
  exact ht.stallFor.post

theorem MemoryCanonical.afterChecks (h : MemoryCanonical s) : MemoryCanonical (s.afterChecks ea) := h.wait.post

theorem MemoryCanonical.stopTile (h : MemoryCanonical s) : MemoryCanonical (s.stopTile tile) :=
  .foldl h (fun _ _ h => .ite (.stopThread (.setAt (.ite h h.postOf.setAt))) (.ite h h.postOf.setAt))

theorem MemoryCanonical.writePages {pages : List Nat} {cells : Nat → List Host.Cell} (h : MemoryCanonical s) : MemoryCanonical (s.writePages tile
    pages cells) :=
  .foldl h (fun _ _ h => h.deviceFill)

theorem MemoryCanonical.saveReads {saved : Bool} (h : MemoryCanonical s) : MemoryCanonical (s.saveReads tile saved) :=
  .foldl h (fun _ _ h => h.setRead)

theorem MemoryCanonical.poisonImage (h : MemoryCanonical s) : MemoryCanonical (s.poisonImage tile) := h.update

theorem MemoryCanonical.poisonPad {marks : List Nat} (h : MemoryCanonical s) : MemoryCanonical (s.poisonPad tile marks) := h.update

theorem MemoryCanonical.zeroTile {i : Nat} (h : MemoryCanonical s) : MemoryCanonical (s.zeroTile i) := by
  unfold State.zeroTile
  extract_lets _ u₁ _ u₂
  have h2 : MemoryCanonical u₂ := Memory.clear_wf _ _ _ h
  exact .foldl h2 fun _ _ h => h.setCore

theorem MemoryCanonical.endWithTile (h : MemoryCanonical s) : MemoryCanonical (s.endWithTile p) := by
  unfold State.endWithTile
  extract_lets _ _ u₁ u₂ u₃ u₄
  have hu₁ : MemoryCanonical u₁ := h.releaseSlots.dropWatches.forget
  have hu₂ : MemoryCanonical u₂ := .ite hu₁ hu₁.flushFlags.leaveAny
  have hu₃ : MemoryCanonical u₃ := .ite hu₂ hu₂.liveDown
  have hu₄ : MemoryCanonical u₄ := by
    unfold u₄
    split
    · exact hu₃.setThread
    · exact hu₃.vacate
  exact hu₄.notice

theorem MemoryCanonical.restoreGen {tid state : Dword} (h : MemoryCanonical s) : MemoryCanonical (s.restoreGen core ctx tid state) := .ite h h.setCore

theorem MemoryCanonical.restoreContext {fresh : Bool} (h : MemoryCanonical s) : MemoryCanonical (s.restoreContext core ctx fresh) := by
  unfold State.restoreContext
  refine .ite h.restoreGen ?_
  have hset {c : Prop} [Decidable c] {x y : Nat} {t : Thread} {a b : Dword} :
      MemoryCanonical (if c then s.restoreGen x y a b else (s.restoreGen x y a b).setThread x y t) := .ite h.restoreGen h.restoreGen.setThread
  exact .ite hset hset.liveUp

theorem MemoryCanonical.resumeReads {fresh : Bool} (h : MemoryCanonical s) : MemoryCanonical (s.resumeReads tile fresh) :=
  .foldl h.update (fun _ _ h => .notice (.setRead (.ite h.setCore.liveUp h)))

theorem MemoryCanonical.resumeSaved (h : MemoryCanonical s) : MemoryCanonical (s.resumeSaved core ctx) := by
  unfold State.resumeSaved
  refine .ite h ?_
  extract_lets _ u₁ _ _ u₂ u₃ u₄ u₅ u₆
  have h3 : MemoryCanonical u₃ := .ite h.startThread.setAt.acquire.completeAt h.startThread.setAt
  have h4 : MemoryCanonical u₄ := .ite h3.notice h3
  have h5 : MemoryCanonical u₅ := by
    unfold u₅
    split
    · exact h4.wakeAt
    · exact h4
  exact .settle (.ite h5.wakeAt h5)

theorem MemoryCanonical.reawait (h : MemoryCanonical s) : MemoryCanonical (s.reawait core ctx) := by
  unfold State.reawait
  refine .ite h ?_
  split
  · rename_i t _ e
    have ht : MemoryCanonical t := h.checkWalk.fst e
    exact ht.setAt.send
  · rename_i t _ _ e
    have ht : MemoryCanonical t := h.checkWalk.fst e
    exact ht.faultNamed
  rename_i t e
  have ht : MemoryCanonical t := h.checkWalk.fst e
  exact ht

theorem MemoryCanonical.restoreArea {t : Nat} (h : MemoryCanonical s) : MemoryCanonical (s.restoreArea t) := .foldl h.update (fun _ _ h => h.setCore)

theorem Memory.foldl_paste_wf {α : Type} {l : List α} {m : List Host.Cell} {lo n : α → Nat} {src : α → List Host.Cell} (h : Memory.wf m = true) :
    Memory.wf (l.foldl (fun m x => Memory.paste m (lo x) (n x) (src x)) m) = true :=
  List.foldlRecOn (motive := fun m => Memory.wf m = true) l _ h fun m hm _ _ => Memory.paste_wf m _ _ _ hm

theorem MemoryCanonical.restoreTile {i : Nat} (h : MemoryCanonical s) : MemoryCanonical (s.restoreTile i) := by
  unfold State.restoreTile
  extract_lets _ _ _ _ _ u₁ u₂ u₃ _ u₄
  have h3 : MemoryCanonical u₃ := .foldl (.foldl h.setTile fun _ _ h => h.setCore) fun _ _ h => h.restoreContext
  have h4 : MemoryCanonical u₄ := by
    simp only [MemoryCanonical, u₄]
    exact Memory.foldl_paste_wf h3
  exact .setTileState (.poisonPad (.ite h4.restoreArea h4))

theorem MemoryCanonical.resumeTile {t : Nat} {fresh : Bool} (h : MemoryCanonical s) : MemoryCanonical (s.resumeTile t fresh) := by
  unfold State.resumeTile
  extract_lets u
  have hu : MemoryCanonical u := .foldl h.resumeReads (fun _ _ h => h.resumeSaved)
  exact .ite (.foldl hu (fun _ _ h => h.reawait)) hu

/-! ### Reset and start -/

theorem MemoryCanonical.afterReset {keepKeys : Bool} (h : MemoryCanonical s) : MemoryCanonical (s.afterReset keepKeys) := Memory.clear_wf _ _ _ h

theorem MemoryCanonical.startAgain (h : MemoryCanonical s) : MemoryCanonical (s.startAgain) := h.notice

theorem MemoryCanonical.minimalMode (h : MemoryCanonical s) : MemoryCanonical (s.minimalMode) := h.modJob.takeName.setThread.update

theorem MemoryCanonical.afterFailure (h : MemoryCanonical s) : MemoryCanonical (s.afterFailure) :=
  .ite h.afterReset.minimalMode h.afterReset.startAgain

theorem MemoryCanonical.failStart (h : MemoryCanonical s) : MemoryCanonical (s.failStart reason) := h.update.afterFailure

theorem MemoryCanonical.failFlash (h : MemoryCanonical s) : MemoryCanonical (s.failFlash) := h.update.afterFailure

theorem MemoryCanonical.loadKeys (h : MemoryCanonical s) : MemoryCanonical (s.loadKeys) := h.update

theorem MemoryCanonical.bootMaps (h : MemoryCanonical s) : MemoryCanonical (s.bootMaps) := .putVal (.foldl h.deviceFill (fun _ _ h => h.putVal))

theorem MemoryCanonical.createRoot {pc : Nat} (h : MemoryCanonical s) : MemoryCanonical (s.createRoot pc) := h.modJob.takeName.setThread.update

theorem MemoryCanonical.replacePart {kind part : Nat} (h : MemoryCanonical s) : MemoryCanonical (s.replacePart kind part) := by
  unfold State.replacePart
  split
  refine .ite h ?_
  extract_lets _ u c
  have h1 : MemoryCanonical u := h.update
  clear_value c
  cases c with
  | some c => exact .ite h1.setCore h1
  | none => exact h1

theorem MemoryCanonical.selfTest (h : MemoryCanonical s) : MemoryCanonical (s.selfTest) := .foldl h (fun _ _ h => h.replacePart)

theorem MemoryCanonical.schedule (h : MemoryCanonical s) : MemoryCanonical (s.schedule) := h.notice.notice.notice.notice.notice

theorem MemoryCanonical.startImage (h : MemoryCanonical s) : MemoryCanonical (s.startImage slot) :=
  .schedule (.createRoot (.selfTest (.bootMaps (.unpoison (.putBytes (.ite h.update h.update.loadKeys))))))

theorem MemoryCanonical.tried (h : MemoryCanonical s) : MemoryCanonical (s.tried slot) := h.update

theorem MemoryCanonical.startSlots {slots : List Nat} (h : MemoryCanonical s) : MemoryCanonical (s.startSlots slots) := by
  induction slots generalizing s with
  | nil => exact h.failStart
  | cons slot slots ih => exact .ite h.startImage (ih h.tried)

theorem MemoryCanonical.start (h : MemoryCanonical s) : MemoryCanonical (s.start) := by
  unfold State.start
  refine .ite h.update.failFlash ?_
  extract_lets
  split
  · exact h.update.update.failStart
  · exact h.update.update.startSlots

theorem MemoryCanonical.onFrame {f : MgmtFrame → State → State} (h : MemoryCanonical s) (hf : ∀ x s, MemoryCanonical s → MemoryCanonical (f x s)) :
    MemoryCanonical (s.onFrame f) := by
  unfold State.onFrame
  split
  · exact .ite h.drop.modPort (hf _ _ h.drop.update)
  · exact h

theorem MemoryCanonical.resetRecord {f : MgmtFrame} (h : MemoryCanonical s) : MemoryCanonical (s.resetRecord f) := .ite h.applyBytes h.deviceWrite

/-! ### Health -/

theorem MemoryCanonical.rootFailed (h : MemoryCanonical s) : MemoryCanonical (s.rootFailed n) := .ite h.failStart h

theorem MemoryCanonical.loseThread (h : MemoryCanonical s) : MemoryCanonical (s.loseThread core ctx) := by
  unfold State.loseThread
  extract_lets _ _ _ _ u
  have hu : MemoryCanonical u := h.record.update.releaseSlots.dropWatches.forget
  exact .notice (.setThread (.ite hu.leaveAny hu.leaveAny.liveDown))

theorem MemoryCanonical.loseStub (h : MemoryCanonical s) : MemoryCanonical (s.loseStub core ctx) := by
  unfold State.loseStub
  split
  · exact h
  · exact .ite h.setThread.modNamed.anchored h.setThread.modNamed.tell

theorem MemoryCanonical.loseReads (h : MemoryCanonical s) : MemoryCanonical (s.loseReads core) :=
  .foldl h (fun _ _ h => .ite h.update h.update.liveDown)

theorem MemoryCanonical.loseArrivals (h : MemoryCanonical s) : MemoryCanonical (s.loseArrivals core) := .foldl h (fun _ _ h => h.giveUp)

theorem MemoryCanonical.contextError {index : Word} (h : MemoryCanonical s) : MemoryCanonical (s.contextError core ctx index) :=
  .ite h (.faultAt (.ite h h.setThread))

theorem MemoryCanonical.l1Error {w : Nat} (h : MemoryCanonical s) : MemoryCanonical (s.l1Error core w) := .ite h.dropWords.poisonAt h.dropWords

end

/-! ## What an instruction or an event answers -/

def NextCanonical (o : Host.Outcome State Fault Refusal) : Prop := ∀ t, o = .next t → MemoryCanonical t

theorem NextCanonical.next {t : State} (h : MemoryCanonical t) : NextCanonical (.next t) :=
  fun _ e => h.of_eq (Host.Outcome.next.inj e)

theorem NextCanonical.fault {f : Fault} : NextCanonical (.fault f) := fun _ e => by cases e

theorem NextCanonical.ite {c : Prop} [Decidable c] {o o' : Host.Outcome State Fault Refusal} (h : NextCanonical o) (h' : NextCanonical o') :
    NextCanonical (if c then o else o') := by
  split
  · exact h
  · exact h'

section

variable {s t : State} {core ctx : Nat} {p : Place} {d a b c : GReg} {k : BReg} {m : KReg}

/-! ### Operands and faults -/


theorem NextCanonical.issue {a : Attrs} {regs : List GReg} {body : State → State} (h : MemoryCanonical s) (hbody : ∀ s, MemoryCanonical s →
    MemoryCanonical (body s)) : NextCanonical (issue a regs s body) :=
  .next (.issueWith h (fun _ h => hbody _ h))

/-! ### Prefixes and special registers -/

theorem NextCanonical.execSrd {n : BitVec 10} (h : MemoryCanonical s) : NextCanonical (execSrd d n s) := by
  unfold Machine.execSrd
  refine .issue h (fun _ h => ?_)
  split
  · exact h.result
  · exact h.raise

theorem NextCanonical.writeSpecial {n : BitVec 10} {f : Dword → Dword → Dword} (h : MemoryCanonical s) : NextCanonical (writeSpecial a n s f) := by
  unfold Machine.writeSpecial
  refine .issue h (fun _ h => ?_)
  split
  · split
    · exact h.setCur
    · exact h.raise
  · exact h.raise

theorem NextCanonical.flushNow (h : MemoryCanonical s) : NextCanonical (flushNow s) := by
  unfold Machine.flushNow
  refine .issue h (fun _ h => ?_)
  extract_lets
  split
  · exact h.flushFlags.retire
  · exact .ite h.stallFor (.viaNet h (fun _ h => h.modCur.tellWave))

theorem NextCanonical.execSrset {n : BitVec 10} (h : MemoryCanonical s) : NextCanonical (execSrset a n s) := .ite (.flushNow h) (.writeSpecial h)

/-! ### Lanes of vector accesses -/

theorem NextCanonical.loadOffset {o : BitVec 13} {size : Nat} {signed : Bool} (h : MemoryCanonical s) : NextCanonical (loadOffset d a o size signed
    s) :=
  .issue h (fun _ h => h.loadScalar)

theorem NextCanonical.loadIndex {sh : BitVec 3} {size : Nat} {signed acq : Bool} (h : MemoryCanonical s) : NextCanonical (loadIndex d a b sh size
    signed acq s) :=
  .issue h (fun _ h => h.loadScalar)

theorem NextCanonical.storeOffset {o : BitVec 13} {size : Nat} (h : MemoryCanonical s) : NextCanonical (storeOffset d a o size s) :=
  .issue h (fun _ h => h.storeScalar)

theorem NextCanonical.storeIndex {sh : BitVec 3} {size : Nat} (h : MemoryCanonical s) : NextCanonical (storeIndex d a b sh size s) :=
  .issue h (fun _ h => h.storeScalar)

theorem NextCanonical.storeRelease {sh : BitVec 3} {size : Nat} (h : MemoryCanonical s) : NextCanonical (storeRelease d a b sh size s) :=
  .issue h (fun _ h => .withAccess h (fun _ => .ite h.raise (.atOwner h (fun _ h => .released h (fun _ h => h.storeReqs)))))

theorem NextCanonical.vectorLoad {v : VReg} {regs : List GReg} {size : Nat} {spread : Bool} {ls : State → List (Nat × Dword)} (h : MemoryCanonical s)
    : NextCanonical (vectorLoad v regs size spread ls s) :=
  .issue h (fun _ h => .withLanes h (fun _ => h.loadPieces))

theorem NextCanonical.vectorStore {v : VReg} {regs : List GReg} {size : Nat} {ls : State → List (Nat × Dword)} (h : MemoryCanonical s) :
    NextCanonical (vectorStore v regs size ls s) :=
  .issue h (fun _ h => .withLanes h (fun _ => h.storeReqs))

theorem NextCanonical.execVbcld {v : VReg} {e : ESize} (h : MemoryCanonical s) : NextCanonical (execVbcld v a b e s) :=
  .issue h (fun _ h => .withLanes h (fun _ => h.loadPieces))

theorem NextCanonical.amo {op : AluOp} {o : Order} {sz : Bool} (h : MemoryCanonical s) : NextCanonical (amo op d a b o sz s) :=
  .issue h (fun _ h => .atomicAccess h (fun _ => .atOwner h (fun _ h => h.issueAmo)))

theorem NextCanonical.red {op : AluOp} {rel sz : Bool} (h : MemoryCanonical s) : NextCanonical (red op a b rel sz s) :=
  .issue h (fun _ h => .atomicAccess h (fun _ => h.issueRed))

theorem NextCanonical.execFenceAcq (h : MemoryCanonical s) : NextCanonical (execFenceAcq s) := .issue h (fun _ h => h.acquire.retire)

theorem NextCanonical.execFenceRel (h : MemoryCanonical s) : NextCanonical (execFenceRel s) := .issue h (fun _ h => .released h (fun _ h => h.retire))

theorem NextCanonical.execFenceFull (h : MemoryCanonical s) : NextCanonical (execFenceFull s) :=
  .issue h (fun _ h => .released h (fun _ h => h.acquire.retire))

theorem NextCanonical.execRwait (h : MemoryCanonical s) : NextCanonical (execRwait s) := .issue h (fun _ h => .ite h.postOf.retire h.postOf.stallFor)

/-! ### Watches and waits -/

theorem NextCanonical.execWatch {w : WReg} {m : BitVec 4} (h : MemoryCanonical s) : NextCanonical (execWatch w a m s) :=
  .issue h (fun _ h => .withAccess h (fun _ => .ite h.raise (.ite h.withdraw.modCur.register.retire h.withdraw.modCur.wait.post)))

theorem NextCanonical.execUnwatch {w : WReg} (h : MemoryCanonical s) : NextCanonical (execUnwatch w s) := .issue h (fun _ h => h.withdraw.modCur)

theorem NextCanonical.execSleep (h : MemoryCanonical s) : NextCanonical (execSleep a s) :=
  .issue h (fun _ h => .ite h.retire (.ite h.retire (.ite h.modCur h.modCur.notice)))

theorem NextCanonical.execTmarm (h : MemoryCanonical s) : NextCanonical (execTmarm a b s) := by
  unfold Machine.execTmarm
  refine .issue h (fun _ h => ?_)
  refine .withAccess h (fun _ => ?_)
  refine .ite h.raise ?_
  extract_lets
  split
  · exact h.stallFor
  · exact h.setCore.notice.retire

theorem NextCanonical.execTbinit (h : MemoryCanonical s) : NextCanonical (execTbinit a b s) :=
  .issue h (fun _ h => .barrierAccess h (fun _ => .ite h.raise (.atOwner h (fun _ h => h.storeReqs))))

theorem NextCanonical.execTbexpect (h : MemoryCanonical s) : NextCanonical (execTbexpect a b s) :=
  .issue h (fun _ h => .barrierAccess h (fun _ => .ite h.raise h.issueRed))

theorem NextCanonical.execTbarrive (h : MemoryCanonical s) : NextCanonical (execTbarrive a s) :=
  .issue h (fun _ h => .barrierAccess h (fun _ => h.issueRed))

theorem NextCanonical.execTbwait {p : BitVec 4} (h : MemoryCanonical s) : NextCanonical (execTbwait a p s) :=
  .issue h (fun _ h => .barrierAccess h (fun _ => .atOwner h (fun _ h => .ite h.awaitFar (.withWatched h (fun _ h => h.watchWait)))))

theorem NextCanonical.execMbadd (h : MemoryCanonical s) : NextCanonical (execMbadd a b s) :=
  .issue h (fun _ h => .withCounter h (fun _ _ _ => h.issueRed))

theorem NextCanonical.execMbrd (h : MemoryCanonical s) : NextCanonical (execMbrd a d s) :=
  .issue h (fun _ h => .withCounter h (fun _ _ _ => h.loadPieces))

theorem NextCanonical.execMbwait (h : MemoryCanonical s) : NextCanonical (execMbwait a b s) :=
  .issue h (fun _ h => .withCounter h (fun _ _ _ => .ite h.raise (.withWatched h (fun _ h => h.watchWait))))

theorem NextCanonical.execTktake (h : MemoryCanonical s) : NextCanonical (execTktake a d s) :=
  .issue h (fun _ h => .withEndpoint h (fun _ _ => .viaNet h (fun _ h => h.wait.send)))

theorem NextCanonical.execTkwait (h : MemoryCanonical s) : NextCanonical (execTkwait a b s) :=
  .issue h (fun _ h => .withEndpoint h (fun _ _ => .ite h.modCur (.ite h.modCur (.ite h.wait (.viaNet h (fun _ h => h.wait.send))))))

/-! ### Creation of threads and calls -/

theorem NextCanonical.execSpawn (h : MemoryCanonical s) : NextCanonical (execSpawn d k s) := by
  unfold Machine.execSpawn
  refine .issue h (fun _ h => ?_)
  extract_lets
  split
  · exact h.spawnAfar
  refine .ite h.result ?_
  refine .withJob h (fun _ h => h.result) (fun _ h => ?_)
  refine .createOne h (fun _ _ h => ?_)
  extract_lets u
  have hu : MemoryCanonical u := by
    unfold u
    split
    · exact h.growWave
    · exact h
  exact hu.result

theorem NextCanonical.execSpawnn {d a : GReg} {k : BReg} (h : MemoryCanonical s) : NextCanonical (execSpawnn d a k s) := by
  unfold Machine.execSpawnn
  refine .issue h fun s h => ?_
  dsimp only
  refine .ite h.result (.ite h.capacity (.withJob h (fun _ h => h.result) fun s h => ?_))
  split
  · exact h.stallFor
  · exact .ite h.capacity (.ite h.createWave.initBlock.liveUp.capacity h.createWave.initBlock.liveUp.result)

theorem NextCanonical.execFork (h : MemoryCanonical s) : NextCanonical (execFork k s) := by
  unfold Machine.execFork
  refine .issue h (fun _ h => ?_)
  extract_lets
  split
  · exact h.capacity
  refine .ite h.retire ?_
  split
  · rename_i t e
    have ht : MemoryCanonical t := h.pushTask e
    exact ht.retire
  · exact .withJob h (fun _ h => h.retire) (fun _ h => .createOne h (fun _ _ h => h.retire))

theorem NextCanonical.execJoin (h : MemoryCanonical s) : NextCanonical (execJoin a s) :=
  .issue h (fun _ h => .withAccess h (fun _ => .ite h.raise (.ite (.ite h.acquireRetire h.awaitFar) (.withWatched h (fun _ h => h.watchWait)))))

theorem NextCanonical.execCallat (h : MemoryCanonical s) : NextCanonical (execCallat d a k s) := by
  unfold Machine.execCallat
  refine .issue h (fun _ h => ?_)
  extract_lets
  split
  · exact h.raise
  · exact .withAccess h (fun _ => .withCoreRight h (fun _ h => .ite h.retire (.viaNet h (fun _ h => h.retire.send))))

theorem NextCanonical.execReply (h : MemoryCanonical s) : NextCanonical (execReply a b s) :=
  .issue h (fun _ h => .ite h.raise (.ite h.postOf.stallFor (.viaNet h (fun _ h => h.postOf.modCur.sendStore))))

theorem NextCanonical.execEndT {named : Bool} (h : MemoryCanonical s) : NextCanonical (execEndT a named s) :=
  .issue h (fun _ h => .ite (.atomicAccess h (fun _ => h.endCur)) h.endCur)

theorem NextCanonical.execRoam (h : MemoryCanonical s) : NextCanonical (execRoam s) :=
  .issue h (fun _ h => .notBurst h (fun _ h => .ite h.raise h.dropWatches.postOf.modCur))

theorem NextCanonical.execAnchor (h : MemoryCanonical s) : NextCanonical (execAnchor s) :=
  .issue h (fun _ h => .ite h.retire (.ite h.modCur.anchored h.modCur.tell))

theorem NextCanonical.execGohome (h : MemoryCanonical s) : NextCanonical (execGohome a s) :=
  .issue h (fun _ h => .notBurst h (fun _ h => .ite h.raise (.withAccess h (fun _ => .ite h.raise (.ite h.retire h.depart)))))

theorem NextCanonical.execLaunch (h : MemoryCanonical s) : NextCanonical (execLaunch a s) := by
  unfold Machine.execLaunch
  refine .issue h (fun _ h => ?_)
  refine .withAccess h (fun _ => ?_)
  refine .ite h.raise ?_
  refine .atOwner h (fun _ h => ?_)
  refine .withDwords h (fun _ _ h => ?_)
  split
  · exact h.raise
  refine .withCoreRight h (fun _ h => ?_)
  split
  · exact h.capacity
  · exact .ite h.retire (.ite h.capacity (.ite h.capacity h.startLaunch))

theorem NextCanonical.execCancel {a : GReg} (h : MemoryCanonical s) : NextCanonical (execCancel a s) := by
  unfold Machine.execCancel
  refine .issue h fun s h => ?_
  extract_lets t job o live via
  have cancels : ∀ s, MemoryCanonical s → MemoryCanonical (via s) := fun s h => by
    unfold via
    exact .ite (.viaNets h fun _ h => h.retire.cancelFrom) h.retire
  refine .ite (cancels _ h) (.withTable h fun s h => ?_)
  split
  · exact h.raise
  · exact .ite h.raise (cancels _ h)

/-! ### The rotation -/

theorem NextCanonical.event {f : State → State} (h : MemoryCanonical s) (hf : ∀ s, MemoryCanonical s → MemoryCanonical (f s)) : NextCanonical (event
    s f) :=
  .next (hf _ h)

theorem NextCanonical.execSpillMoveDone (h : MemoryCanonical s) : NextCanonical (execSpillMoveDone s) := by
  unfold Machine.execSpillMoveDone
  refine .event h (fun _ h => ?_)
  split
  · split
    · exact .ite h.drop (.ite h.drop.setMoving (.ite h.drop.readmit (.ite h h.drop.setMoving)))
    · exact h.drop
  · exact h

theorem NextCanonical.execSpillEviction (h : MemoryCanonical s) : NextCanonical (execSpillEviction s) := by
  unfold Machine.execSpillEviction
  refine .event h (fun _ h => ?_)
  refine .ite h ?_
  split
  · exact h.setThread.setDie.post
  · exact h

theorem NextCanonical.execReservationGrant (h : MemoryCanonical s) : NextCanonical (execReservationGrant s) := .event h (fun _ h => h.gather)

theorem NextCanonical.execRotationBoundary (h : MemoryCanonical s) : NextCanonical (execRotationBoundary s) :=
  .event h (fun _ h => .ite h (.ite h.setCore.startMoves h.setCore.startMoves.resumeHeld.fill.startTask))

theorem NextCanonical.execQuantumExpiry (h : MemoryCanonical s) : NextCanonical (execQuantumExpiry s) := by
  unfold Machine.execQuantumExpiry
  refine .event h (fun _ h => ?_)
  extract_lets
  split
  · exact h
  · exact .ite h (.ite h.setThread h.setThread)

theorem NextCanonical.execAgingPromotion (h : MemoryCanonical s) : NextCanonical (execAgingPromotion s) := .event h (fun _ h => .ite h.setThread h)

theorem NextCanonical.execWatchFire (h : MemoryCanonical s) : NextCanonical (execWatchFire s) := by
  unfold Machine.execWatchFire
  refine .event h (fun _ h => ?_)
  split
  · exact .foldl h.drop (fun _ _ h => h.fireAt)
  · exact h

theorem NextCanonical.execSleepTimeout (h : MemoryCanonical s) : NextCanonical (execSleepTimeout s) := by
  unfold Machine.execSleepTimeout
  refine .event h (fun _ h => ?_)
  split
  · exact h
  · exact .ite h.wakeAt h

theorem NextCanonical.execTimerRecord (h : MemoryCanonical s) : NextCanonical (execTimerRecord s) := by
  unfold Machine.execTimerRecord
  refine .event h (fun _ h => ?_)
  extract_lets
  split
  · exact h
  · exact .ite h (.ite (.ite h.notice h.setCore.wakeWhere) (.ite h.notice (.ite h.deviceWrite.setCore.wakeWhere h.deviceWrite.setCore.notice)))

theorem NextCanonical.execStoreGatherPost (h : MemoryCanonical s) : NextCanonical (execStoreGatherPost s) := .event h (fun _ h => h.postGathered)

theorem NextCanonical.execTlbWalkDone (h : MemoryCanonical s) : NextCanonical (execTlbWalkDone s) := by
  unfold Machine.execTlbWalkDone
  refine .event h (fun _ h => ?_)
  extract_lets
  split
  · exact h
  refine .ite h.notice ?_
  split
  · exact h.finishWalk
  · exact h

/-! ### Ports and the transport -/

theorem NextCanonical.execLinkUp (h : MemoryCanonical s) : NextCanonical (execLinkUp s) := .event h (fun _ h => .ite h.modPort.unspray h)

theorem NextCanonical.execLaneChange (h : MemoryCanonical s) : NextCanonical (execLaneChange s) := .event h (fun _ h => .ite h.modPort.unspray h)

theorem NextCanonical.execLinkRetire (h : MemoryCanonical s) : NextCanonical (execLinkRetire s) := .event h (fun _ h => .ite h.modPort.unspray h)

theorem NextCanonical.execLinkLevelRetry (h : MemoryCanonical s) : NextCanonical (execLinkLevelRetry s) := .event h (fun _ h => .ite h.modPort h)

theorem NextCanonical.execIngressDrop (h : MemoryCanonical s) : NextCanonical (execIngressDrop s) :=
  .event h (fun _ h => .ite h.update.modPort h.update)

theorem NextCanonical.execDedupWindowIdle (h : MemoryCanonical s) : NextCanonical (execDedupWindowIdle s) := by
  unfold Machine.execDedupWindowIdle
  refine .event h (fun _ h => ?_)
  split
  · exact .ite h.update h
  · exact h

theorem NextCanonical.execDedupRetryTimer (h : MemoryCanonical s) : NextCanonical (execDedupRetryTimer s) := .event h (fun _ h => h.modMsg)

theorem NextCanonical.execResetDropWindow (h : MemoryCanonical s) : NextCanonical (execResetDropWindow s) :=
  .event h (fun _ h => .foldl h.setCore (fun _ _ h => h.record))

theorem NextCanonical.execTransportTimeout (h : MemoryCanonical s) : NextCanonical (execTransportTimeout s) := by
  unfold Machine.execTransportTimeout
  refine .event h (fun _ h => ?_)
  split
  · exact h
  · exact .ite h (.ite h.giveUp.netFreed h.modMsg)

/-! ### Messages between cores and packages -/

theorem NextCanonical.execMigrate (h : MemoryCanonical s) : NextCanonical (execMigrate s) := by
  unfold Machine.execMigrate
  refine .event h (fun _ h => ?_)
  split
  · split
    · refine .once h (fun _ h => ?_)
      refine .ite ?_ ?_
      · split
        · exact h.drop
        refine .ite h.drop ?_
        refine .ite h.giveUp ?_
        extract_lets
        split
        · exact h.refuse
        · exact h.drop.leaveContext.arrive
      · refine .ite h.answer.forget.flushFlags.leaveAny ?_
        refine .ite h.answer ?_
        split
        · exact h.answer
        extract_lets _ u
        have hu : MemoryCanonical u := h.answer.arrive.liveUp.update
        split
        · exact hu.tell
        · exact hu
    · exact h
  · exact h

theorem NextCanonical.execCall (h : MemoryCanonical s) : NextCanonical (execCall s) := by
  unfold Machine.execCall
  refine .event h (fun _ h => ?_)
  split
  · split
    · exact .ite h (.ite h (.once h (fun _ h => .ite (.ite h.refuse h.answer) (.ite (.ite h.setTile.refuse h.setTile.answer) (.ite
        h.countRedirect.takeCall.drop h.countRedirect.takeCall.answer)))))
    · exact h
  · exact h

theorem NextCanonical.execControlCancel (h : MemoryCanonical s) : NextCanonical (execControlCancel s) := by
  unfold Machine.execControlCancel
  refine .event h (fun _ h => ?_)
  split
  · split
    · exact .once h (fun _ h => h.cancelJob.answer)
    · exact h
  · exact h

theorem NextCanonical.execControlTlbinv (h : MemoryCanonical s) : NextCanonical (execControlTlbinv s) := by
  unfold Machine.execControlTlbinv
  refine .event h (fun _ h => ?_)
  split
  · split
    · exact .once h (fun _ h => h.invalidateAll.modMsg)
    · split
      · exact h.modMsg
      · exact h.answer
    · refine .once h (fun _ h => ?_)
      split
      · exact h.answer
      · exact h.pageAt
    · exact h
  · exact h

theorem NextCanonical.execTicket (h : MemoryCanonical s) : NextCanonical (execTicket s) := by
  unfold Machine.execTicket
  refine .event h (fun _ h => ?_)
  split
  · split
    · exact .once h (fun _ h => h.update.answer.callTickets)
    · exact .once h (fun _ h => .ite h.answer h.update.answer)
    · exact h
  · exact h

theorem NextCanonical.execTicketExpiry (h : MemoryCanonical s) : NextCanonical (execTicketExpiry s) := .event h (fun _ h => h.retireTicket)

theorem NextCanonical.execTicketCallNotice (h : MemoryCanonical s) : NextCanonical (execTicketCallNotice s) := by
  unfold Machine.execTicketCallNotice
  refine .event h (fun _ h => ?_)
  split
  · split
    · exact .once h (fun _ h => .foldl (.ite (.hearCall (.ite h.drop h.answer)) (.ite h.drop h.answer)) (fun _ _ h => .ite h.completeAt h))
    · exact h
  · exact h

/-! ### The home of an address -/

theorem NextCanonical.execLoad (h : MemoryCanonical s) : NextCanonical (execLoad s) := by
  unfold Machine.execLoad
  refine .event h (fun _ h => ?_)
  split
  · split
    · exact .ite h (.ite h.passOn (.ite h h.serveLoad))
    · exact .ite h.answer (.ite h (.ite h.passOn h.serveAwait))
    · exact h
  · exact h

theorem NextCanonical.execStore (h : MemoryCanonical s) : NextCanonical (execStore s) := by
  unfold Machine.execStore
  refine .event h (fun _ h => ?_)
  split
  · split
    · refine .ite h ?_
      refine .ite h ?_
      refine .once h (fun _ h => ?_)
      refine .ite h.passOn ?_
      split
      · split
        · exact h.answer
        · exact h.update.modMsg.storeTurn
      · exact h.storeTurn
    · exact h
  · exact h

theorem NextCanonical.execAtomic (h : MemoryCanonical s) : NextCanonical (execAtomic s) := by
  unfold Machine.execAtomic
  refine .event h (fun _ h => ?_)
  split
  · split
    · refine .ite h ?_
      refine .ite h ?_
      refine .once h (fun _ h => ?_)
      refine .ite h.passOn ?_
      refine .atHome h (fun _ _ h => ?_)
      extract_lets
      split
      · exact h.answer
      refine .ite h.answer ?_
      split
      · exact h.answer
      · exact h.countRedirect.ticketBytes.amoAt.answer.ownDone
    · exact h
  · exact h

theorem NextCanonical.execReduce (h : MemoryCanonical s) : NextCanonical (execReduce s) := by
  unfold Machine.execReduce
  refine .event h (fun _ h => ?_)
  split
  · split
    · refine .ite h ?_
      refine .ite h ?_
      refine .once h (fun _ h => ?_)
      refine .ite h.passOn ?_
      refine .atHome h (fun _ _ h => ?_)
      extract_lets
      split
      · exact h.answer
      · exact .ite h.setTile.answer h.countRedirect.ticketBytes.reduceAt.answer.ownDone.arrived
    · exact .ite h (.once h (fun _ h => h.waveAt))
    · exact h
  · exact h

theorem NextCanonical.execRecall (h : MemoryCanonical s) : NextCanonical (execRecall s) := by
  unfold Machine.execRecall
  refine .event h (fun _ h => ?_)
  split
  · split
    · extract_lets _ _ _ _ u
      have hu : MemoryCanonical u := h.postGathered.update.dropWords.recallOn
      exact .ite hu.drop hu.answer
    · exact h
  · exact h

theorem NextCanonical.execIcacheFill (h : MemoryCanonical s) : NextCanonical (execIcacheFill s) := by
  unfold Machine.execIcacheFill
  refine .event h (fun _ h => ?_)
  split
  · split
    · exact .ite h.passOn (.ite h (.ite h.serveLine (.ite h.drop.faultNamed (.ite h.drop.faultNamed (.fillLine (.foldl h.drop.countRedirect (fun _ _
        h => h.sliceRead)))))))
    · exact h
  · exact h

theorem NextCanonical.execWatchRegistration (h : MemoryCanonical s) : NextCanonical (execWatchRegistration s) := by
  unfold Machine.execWatchRegistration
  refine .event h (fun _ h => ?_)
  split
  · split
    · split
      · exact h.armOn
      extract_lets _ _ u
      have hu : MemoryCanonical u := by
        unfold u
        split
        · exact h.watchMoved
        · exact .ite h.register h
      exact hu.readMasked.answer
    · exact h
  · exact h

theorem NextCanonical.execJobEntryWrite (h : MemoryCanonical s) : NextCanonical (execJobEntryWrite s) :=
  .event h (fun _ h => .onRegister h (fun _ _ _ _ h => h.storeJob.regDone))

theorem NextCanonical.execKeySlotWrite (h : MemoryCanonical s) : NextCanonical (execKeySlotWrite s) :=
  .event h (fun _ h => .onRegister h (fun _ _ _ _ h => .ite h.update.modMsg.notice h.update.regDone))

theorem NextCanonical.execKeySlotWritebackDone (h : MemoryCanonical s) : NextCanonical (execKeySlotWritebackDone s) := by
  unfold Machine.execKeySlotWritebackDone
  refine .event h (fun _ h => ?_)
  split
  · split
    · exact h.update.dropTagged.regDone
    · exact h
  · exact h

theorem NextCanonical.execTileAssignWrite (h : MemoryCanonical s) : NextCanonical (execTileAssignWrite s) :=
  .event h (fun _ h => .onRegister h (fun _ _ _ _ h => h.storeAssign.regDone))

theorem NextCanonical.execQuantumWrite (h : MemoryCanonical s) : NextCanonical (execQuantumWrite s) := by
  unfold Machine.execQuantumWrite
  refine .event h (fun _ h => ?_)
  refine .onRegister h (fun _ _ _ _ h => ?_)
  split
  · exact h.storeBlock.regDone
  · exact h.regDone

theorem NextCanonical.execAdmcapWrite (h : MemoryCanonical s) : NextCanonical (execAdmcapWrite s) := by
  unfold Machine.execAdmcapWrite
  refine .event h (fun _ h => ?_)
  refine .onRegister h (fun _ _ _ _ h => ?_)
  split
  · exact h.storeBlock.regDone
  · exact h.regDone

theorem NextCanonical.execBkptWrite (h : MemoryCanonical s) : NextCanonical (execBkptWrite s) := by
  unfold Machine.execBkptWrite
  refine .event h (fun _ h => ?_)
  refine .onRegister h (fun _ _ _ _ h => ?_)
  split
  · exact h.storeBlock.regDone
  · exact h.regDone

theorem NextCanonical.execPkgWrite (h : MemoryCanonical s) : NextCanonical (execPkgWrite s) :=
  .event h (fun _ h => .onRegister h (fun _ _ _ _ h => .regDone (.ite h h.setPkg)))

theorem NextCanonical.execRegisterWrite (h : MemoryCanonical s) : NextCanonical (execRegisterWrite s) :=
  .event h (fun _ h => .onRegister h (fun _ _ _ _ h => h.storePlain.regDone))

theorem NextCanonical.execData (h : MemoryCanonical s) : NextCanonical (execData s) := by
  unfold Machine.execData
  refine .event h fun s h => ?_
  split
  · refine .ite h.drop ?_
    split
    · exact h.drop.relayed
    dsimp only
    split
    · refine .ite h.dropBoth.entryRead ?_
      split
      · exact h.partArrived.dropBoth.fillL1.fillLine
      split
      · exact h.partArrived.dropBoth.fillL1.update
      · exact h.partArrived.dropBoth.fillL1.dataFor
    · exact h.dropBoth.outdate.dataFor
    · split
      · exact .ite h.dropBoth h.dropBoth.update
      · exact h.dropBoth.jobFlags
      split
      · exact h.dropBoth
      · exact .ite h.dropBoth (.ite h (.ite h.dropBoth.deliver.settle h.dropBoth.testWait.settle))
    · exact h
  · exact h

theorem NextCanonical.execAck (h : MemoryCanonical s) : NextCanonical (execAck s) := by
  unfold Machine.execAck
  refine .event h fun s h => ?_
  split
  · refine .ite h.drop ?_
    split
    · split
      · exact h.toldHeld
      · exact h.drop
    · split
      · exact h.drop.relayed
      extract_lets req body core u₁ u₂
      have filled : MemoryCanonical u₂ := h.dropBoth.outdate.fillL1
      split
      · exact filled.recordWritten
      refine .ite filled.update ?_
      dsimp only [body, req]
      split
      · split
        · exact filled.departed
        · exact filled
      · exact filled.acknowledge
      · exact filled.acknowledge.arrived
      · exact filled.acknowledge
      · exact filled
      · exact filled.acknowledge
    · exact h
  · exact h

theorem NextCanonical.execNack (h : MemoryCanonical s) : NextCanonical (execNack s) := by
  unfold Machine.execNack
  refine .event h (fun _ h => ?_)
  split
  · split
    · split
      · exact h.drop
      · exact .ite h.drop.notice (.ite h.drop.giveUp.netFreed (.ite h h.drop.refuse.netFreed))
    · exact h
  · exact h

/-! ### Waves -/

theorem NextCanonical.execWaveCreate (h : MemoryCanonical s) : NextCanonical (execWaveCreate s) := by
  unfold Machine.execWaveCreate
  refine .event h (fun _ h => ?_)
  split
  · exact h
  refine .ite h.endLaunch ?_
  refine .ite h.lostLaunch ?_
  split
  · exact h
  · exact .ite h.makeWave h.stopLaunch

theorem NextCanonical.execWaveEnd (h : MemoryCanonical s) : NextCanonical (execWaveEnd s) := by
  unfold Machine.execWaveEnd
  refine .event h (fun _ h => ?_)
  split
  · exact h
  split
  · exact h.countWave
  · exact .ite h.notice h.freeWave

theorem NextCanonical.execJobCompletion (h : MemoryCanonical s) : NextCanonical (execJobCompletion s) := by
  unfold Machine.execJobCompletion
  refine .event h (fun _ h => ?_)
  extract_lets
  split
  · exact h
  · exact .ite h.notice (.ite h.update h.update.sendReduce)

/-! ### Operations on other threads -/

theorem NextCanonical.execStopComplete (h : MemoryCanonical s) : NextCanonical (execStopComplete s) := by
  unfold Machine.execStopComplete
  refine .event h (fun _ h => ?_)
  extract_lets
  split
  · exact .foldl h (fun _ _ h => h.answer)
  refine .ite h ?_
  refine .ite (.foldl h (fun _ _ h => h.answer)) ?_
  refine .ite h ?_
  extract_lets u
  have hu : MemoryCanonical u := .foldl h.setAt (fun _ _ h => h.answer)
  exact .ite hu.startThread hu

theorem NextCanonical.execThreadop (h : MemoryCanonical s) : NextCanonical (execThreadop s) := by
  unfold Machine.execThreadop
  refine .event h (fun _ h => ?_)
  split
  · split
    · extract_lets
      split
      · refine .ite h.opWaits ?_
        refine .once h (fun _ h => ?_)
        split
        · rename_i _ t e
          have ht : MemoryCanonical t := h.operate.snd e
          exact ht.answer
        · rename_i _ _ _ t e
          have ht : MemoryCanonical t := h.operate.snd e
          exact ht.answer
        rename_i t e
        have ht : MemoryCanonical t := h.operate.snd e
        exact ht.modMsg.settle
      split
      · exact .once h (fun _ h => h.goesOn)
      · exact .once h (fun _ h => .ite h.answer h.answer)
    · refine .ite h ?_
      split
      · exact .once h (fun _ h => h.goesOn)
      · exact .once h (fun _ h => h.answer)
      · exact .once h (fun _ h => h.heard.answer)
    · exact h
  · exact h

theorem NextCanonical.threadStateOp {a : GReg} {regs : List GReg} {need : Nat} {index : State → Dword} {dst : GReg} {op : State → ThreadOp}
    (h : MemoryCanonical s) : NextCanonical (threadStateOp a regs need index dst op s) := by
  unfold Machine.threadStateOp
  refine .issue h fun s h => ?_
  dsimp only
  refine .ite h.raise (.ite h.raise (.withTable h fun s h => ?_))
  split
  · exact h.raise
  refine .ite h.raise (.ite h.raise ?_)
  split
  · split
    · next e => exact (h.operate.snd e).result
    · next e => exact (h.operate.snd e).raise
    · next e => exact h.operate.snd e
  · exact .viaNet h fun _ h => h.wait.send

/-! ### Invalidation and page moves -/

theorem NextCanonical.execTlbinv (h : MemoryCanonical s) : NextCanonical (execTlbinv a b s) := by
  unfold Machine.execTlbinv
  refine .issue h (fun _ h => ?_)
  refine .ite h.raise ?_
  split
  · split
    · exact h.pollWith
    · exact h.retire
  · exact .released h (fun _ h => h.startTlbinv.pollWith)

theorem NextCanonical.execPglock (h : MemoryCanonical s) : NextCanonical (execPglock a s) :=
  .issue h (fun _ h => .withAccess h (fun _ => .ite h.raise h.askPage))

theorem NextCanonical.execPgswitch (h : MemoryCanonical s) : NextCanonical (execPgswitch a b s) :=
  .issue h (fun _ h => .withAccess h (fun _ => .ite (.ite h.raise h.askPage) (.ite h.raise (.withAccess h (fun _ => .ite h.raise h.askPage)))))

theorem NextCanonical.execClwb (h : MemoryCanonical s) : NextCanonical (execClwb a s) :=
  .issue h (fun _ h => .withAccess h (fun _ => .ite h.raise (.ite h.retire (.viaNet h (fun _ h => h.postGathered.wait.send)))))

theorem NextCanonical.execClinv (h : MemoryCanonical s) : NextCanonical (execClinv a s) :=
  .issue h (fun _ h => .withAccess h (fun _ => .ite h.raise h.setCore.retire))

/-! ### Vectors -/

theorem NextCanonical.illegal {i : Instr} (h : MemoryCanonical s) : NextCanonical (illegal i s) := .next h.raise

theorem NextCanonical.laneWise {i : Instr} {d a b : VReg} {k : KReg} {t : VTy} {op : Option LaneOp} (h : MemoryCanonical s) : NextCanonical (laneWise
    i d a b k t op s) := by
  unfold Machine.laneWise
  split
  · exact .illegal h
  · exact .issue h (fun _ h => h.modCur)

theorem NextCanonical.vcmp {c : Cmp} {d : KReg} {a b : VReg} {k : KReg} {t : VTy} (h : MemoryCanonical s) : NextCanonical (vcmp c d a b k t s) :=
  .issue h (fun _ h => h.modCur)

theorem NextCanonical.moveLanes {i : Instr} {ok : Bool} {regs : List GReg} {body : State → State} (h : MemoryCanonical s) (hbody : ∀ s,
    MemoryCanonical s → MemoryCanonical (body s)) : NextCanonical (moveLanes i ok regs s body) :=
  .ite (.issue h (fun _ h => hbody _ h)) (.illegal h)

theorem NextCanonical.reduction {d a : VReg} {k : KReg} {t : VTy} {op : Rm → Nat → Nat → Nat × Sticky} {empty : Nat} (h : MemoryCanonical s) :
    NextCanonical (reduction d a k t op empty s) :=
  .issue h (fun _ h => h.modCur)

theorem NextCanonical.execVrsum {d a : VReg} {k : KReg} {t : VTy} (h : MemoryCanonical s) : NextCanonical (execVrsum d a k t s) := by
  unfold Machine.execVrsum
  split <;> exact .reduction h

theorem NextCanonical.execVrmax {d a : VReg} {k : KReg} {t : VTy} (h : MemoryCanonical s) : NextCanonical (execVrmax d a k t s) := by
  unfold Machine.execVrmax
  split <;> exact .reduction h

theorem NextCanonical.execVrmin {d a : VReg} {k : KReg} {t : VTy} (h : MemoryCanonical s) : NextCanonical (execVrmin d a k t s) := by
  unfold Machine.execVrmin
  split <;> exact .reduction h

theorem NextCanonical.maskOp {ks : List KReg} {gs : List GReg} {body : Thread → Thread} (h : MemoryCanonical s) : NextCanonical (maskOp ks gs s body)
    :=
  .issue h (fun _ h => h.modCur)

/-! ### Conversions -/

theorem NextCanonical.vcvt {d a : VReg} {k : KReg} {rmo : Bool} {c ws wd : Nat} {f : Rm → Nat → Nat × Sticky} (h : MemoryCanonical s) : NextCanonical
    (vcvt d a k rmo c ws wd f s) :=
  .issue h (fun _ h => h.modCur)

/-! ### The tables of a tile -/

theorem NextCanonical.execVtload {y : Fin 4} {g : GReg} (h : MemoryCanonical s) : NextCanonical (execVtload y g s) := by
  unfold Machine.execVtload
  refine .issue h (fun _ h => ?_)
  refine .ite h.raise ?_
  split
  · exact h.wait.notice
  split
  · exact h.raise
  · exact h.walkFor
  split
  · exact h.raise
  · exact .released h (fun _ h => h.loadPieces)

theorem NextCanonical.execVtloadReplace (h : MemoryCanonical s) : NextCanonical (execVtloadReplace s) := by
  unfold Machine.execVtloadReplace
  refine .event h (fun _ h => ?_)
  extract_lets
  split
  · exact h
  split
  · refine .ite h ?_
    split
    · exact h.faultNamed.settle
    · exact h.setTable.completeAt.settle
  · exact h

theorem NextCanonical.execVtab {d a : VReg} {y : Fin 4} {k : KReg} {t : VTy} (h : MemoryCanonical s) : NextCanonical (execVtab d a y k t s) := by
  unfold Machine.execVtab
  extract_lets
  split
  · exact .illegal h
  · exact .issue h (fun _ h => h.modCur)

/-! ### The matrix engine -/

theorem NextCanonical.execBulk (h : MemoryCanonical s) : NextCanonical (execBulk s) := by
  unfold Machine.execBulk
  refine .event h (fun _ h => ?_)
  split
  · split
    · refine .ite h ?_
      refine .once h (fun _ h => ?_)
      refine .ite h.noteHeld ?_
      refine .ite h.passOn ?_
      extract_lets
      split
      · exact h.answer
      · exact .ite h.answer h.countRedirect.ticketBytes.applyBytes.answer
    · exact h
  · exact h

theorem NextCanonical.onTile {i : Instr} {regs : List GReg} {body : State → State} (h : MemoryCanonical s) (hbody : ∀ s, MemoryCanonical s →
    MemoryCanonical (body s)) : NextCanonical (onTile i regs s body) :=
  .issue h (fun _ h => .ite (hbody _ h) h.raise)

theorem NextCanonical.execOclaim (h : MemoryCanonical s) : NextCanonical (execOclaim a c s) := by
  unfold Machine.execOclaim
  refine .onTile h (fun _ h => ?_)
  refine .ite h.slotFault ?_
  split
  · exact h.result
  split
  · exact .ite h.result h.result
  · exact h.claim

theorem NextCanonical.execOperandSlotCleared (h : MemoryCanonical s) : NextCanonical (execOperandSlotCleared s) := by
  unfold Machine.execOperandSlotCleared
  refine .event h (fun _ h => ?_)
  extract_lets
  split
  · exact h
  split
  · exact h
  extract_lets
  split
  · exact h.setOpSlot.completeAt
  · exact h.setOpSlot

theorem NextCanonical.execOrelease (h : MemoryCanonical s) : NextCanonical (execOrelease a s) :=
  .onTile h (fun _ h => .ite h.slotFault h.setOpSlot.retire)

theorem NextCanonical.execOpput (h : MemoryCanonical s) : NextCanonical (execOpput a b s) := by
  unfold Machine.execOpput
  refine .onTile h (fun _ h => ?_)
  refine .ite h.slotFault ?_
  refine .ite h.slotFault ?_
  refine .ite ?_ h.setOpSlot.retire
  split
  · exact h.raise
  · exact h.setOpSlot.retire

theorem NextCanonical.execEngineAccept (h : MemoryCanonical s) : NextCanonical (execEngineAccept s) := by
  unfold Machine.execEngineAccept
  refine .event h (fun _ h => ?_)
  extract_lets
  split
  · exact h
  · exact .ite (.ite h h.learnPhase) (.ite h.modOp.kick (.ite h.notice (.ite h.expectAt h.agentUpdate.modOp.notice)))

theorem NextCanonical.execMma {w : Bool} {f : MmaFmt} (h : MemoryCanonical s) : NextCanonical (execMma a b c w f s) :=
  .onTile h (fun _ h => .opChecks h (fun _ h => .ite h.slotFault (.ite h.slotFault (.barrierAccess h (fun _ => h.enqueueOp)))))

theorem NextCanonical.execAcczero (h : MemoryCanonical s) : NextCanonical (execAcczero a s) :=
  .onTile h (fun _ h => .opChecks h (fun _ h => .ite h.slotFault h.enqueueOp))

theorem NextCanonical.execAccrd {w : Bool} {f : AccFmt} (h : MemoryCanonical s) : NextCanonical (execAccrd a b c w f s) :=
  .onTile h (fun _ h => .opChecks h (fun _ h => .ite h.slotFault (.ite h.raise (.barrierAccess h (fun _ => h.enqueueOp)))))

theorem NextCanonical.execAccsat (h : MemoryCanonical s) : NextCanonical (execAccsat a c s) := by
  unfold Machine.execAccsat
  refine .onTile h (fun _ h => ?_)
  split
  · exact h.readSat
  · exact .ite h.slotFault h.readSat

theorem NextCanonical.pairOp {i : Instr} {kind : EngKind} (h : MemoryCanonical s) : NextCanonical (pairOp i kind a b c s) :=
  .onTile h (fun _ h => .opChecks h (fun _ h => .ite h.slotFault (.ite h.raise (.barrierAccess h (fun _ => h.enqueueOp)))))

theorem NextCanonical.execMmaComplete (h : MemoryCanonical s) : NextCanonical (execMmaComplete s) := by
  unfold Machine.execMmaComplete
  refine .event h (fun _ h => ?_)
  refine .completing h (fun _ _ => ?_)
  split
  · extract_lets
    split
    · exact h.update.opFault
    · exact h.update.opFault
    · exact .ite h.update.opFault h.update.setTile.opArriveWith
  · exact h

theorem NextCanonical.execAcczeroDone (h : MemoryCanonical s) : NextCanonical (execAcczeroDone s) := by
  unfold Machine.execAcczeroDone
  refine .event h (fun _ h => ?_)
  refine .completing h (fun _ _ => ?_)
  split
  · exact h.setTile.opDone
  · exact h

theorem NextCanonical.execAccrdComplete (h : MemoryCanonical s) : NextCanonical (execAccrdComplete s) := by
  unfold Machine.execAccrdComplete
  refine .event h fun s h => .completing h fun tile op => ?_
  split
  · extract_lets kind slot count row finish fail
    have counts : ∀ s op, MemoryCanonical s → MemoryCanonical (count s op).1 := fun _ _ h => h.setTile
    have finishes : ∀ s op, MemoryCanonical s → MemoryCanonical (finish s op) := fun s op h => (counts s op h).opArrive
    have fails : ∀ s op n, MemoryCanonical s → MemoryCanonical (fail s op n) := fun s op _ h => (counts s op h).flagsTo.opFault
    split
    · exact .writeRows h (fun s op h => fails s op _ h) fails
    · exact .writeRows h finishes fails
  · exact h

theorem NextCanonical.execAccsatComplete (h : MemoryCanonical s) : NextCanonical (execAccsatComplete s) := by
  unfold Machine.execAccsatComplete
  refine .event h (fun _ h => ?_)
  extract_lets
  split
  · exact h
  refine .ite h ?_
  extract_lets _ u
  have hu : MemoryCanonical u := by
    unfold u
    split
    · exact .ite h.completeAt h
    · exact h
  exact hu.opDone

theorem NextCanonical.execAccgetComplete (h : MemoryCanonical s) : NextCanonical (execAccgetComplete s) := by
  unfold Machine.execAccgetComplete
  refine .event h (fun _ h => ?_)
  refine .completing h (fun _ _ => ?_)
  split
  · extract_lets
    split
    · exact .writeRows h (fun _ _ h => h.opFault) (fun _ _ _ h => h.opFault)
    · exact .writeRows h (fun _ _ h => h.opArrive) (fun _ _ _ h => h.opFault)
  · exact h

theorem NextCanonical.execAccaddComplete (h : MemoryCanonical s) : NextCanonical (execAccaddComplete s) := by
  unfold Machine.execAccaddComplete
  refine .event h (fun _ h => ?_)
  refine .completing h (fun _ _ => ?_)
  split
  · split
    · rename_i t _ _ _ e
      have ht : MemoryCanonical t := h.readImage.fst e
      exact ht.opFault
    · rename_i t _ _ e
      have ht : MemoryCanonical t := h.readImage.fst e
      exact ht.modOp.opAgain
    rename_i t _ _ _ e
    have ht : MemoryCanonical t := h.readImage.fst e
    extract_lets
    split
    · exact ht.opFault
    · exact ht.opFault
    · exact ht.setTile.opArrive
  · exact h

theorem NextCanonical.execNanStop (h : MemoryCanonical s) : NextCanonical (execNanStop s) := by
  unfold Machine.execNanStop
  refine .event h (fun _ h => ?_)
  split
  · exact h
  · exact .ite h.stallFor h.modCur.raiseFault

/-! ### Copies -/

theorem NextCanonical.execXcommit (h : MemoryCanonical s) : NextCanonical (execXcommit s) := .onTile h (fun _ h => .commit h (fun _ h => h.retire))

theorem NextCanonical.execXwait {n : BitVec 3} (h : MemoryCanonical s) : NextCanonical (execXwait n s) :=
  .onTile h (fun _ h => .commit h (fun _ h => .ite h.stallFor h.acquireRetire))

theorem NextCanonical.copyOp {i : Instr} {sparse : Bool} (h : MemoryCanonical s) : NextCanonical (copyOp i sparse a b c s) := by
  unfold Machine.copyOp
  refine .onTile h (fun _ h => ?_)
  split
  · exact h.acceptCopy
  · exact h.copyChecks
  · exact .withAccess h (fun _ => .ite h.raise (.withDwords h (fun _ _ h => h.copyChecks)))

theorem NextCanonical.execCopyAccept (h : MemoryCanonical s) : NextCanonical (execCopyAccept s) := by
  unfold Machine.execCopyAccept
  refine .event h (fun _ h => ?_)
  extract_lets
  split
  · exact h
  refine .ite h ?_
  refine .ite h.notice ?_
  extract_lets _ u
  have hu : MemoryCanonical u := .modCopy (.ite h.agentUpdate h)
  exact .ite hu.deliverNext hu

theorem NextCanonical.execCopyDelivery (h : MemoryCanonical s) : NextCanonical (execCopyDelivery s) := by
  unfold Machine.execCopyDelivery
  refine .event h fun s h => ?_
  extract_lets tile
  split
  · exact h
  extract_lets again
  have later : ∀ s, MemoryCanonical s → MemoryCanonical (again s) := fun _ h => h.deliverNext
  refine .ite h (.ite (later _ h) ?_)
  dsimp only
  split
  · exact h.update.copyFault
  · exact h.copyDelivered
  split
  · next e => exact (h.copyPart.fst e).copyFault
  · next e => exact later _ (h.copyPart.fst e).modCopy
  · next e => exact (h.copyPart.fst e).modCopy.copySector

theorem NextCanonical.execSideband (h : MemoryCanonical s) : NextCanonical (execSideband s) := by
  unfold Machine.execSideband
  refine .event h (fun _ h => ?_)
  split
  · split
    · extract_lets
      split
      · exact h.drop
      · exact .ite h.drop h.drop.modCopy.awaitPart.deliverNext
    · exact h
  · exact h

theorem NextCanonical.execSidebandTimeout (h : MemoryCanonical s) : NextCanonical (execSidebandTimeout s) := by
  unfold Machine.execSidebandTimeout
  refine .event h (fun _ h => ?_)
  extract_lets
  split
  · exact h
  · exact .ite h.copyFault h

theorem NextCanonical.execCopyArrival (h : MemoryCanonical s) : NextCanonical (execCopyArrival s) := by
  unfold Machine.execCopyArrival
  refine .event h (fun _ h => ?_)
  extract_lets
  split
  · exact h
  · exact .ite h.notice (.ite h.update.copyDone (.ite (.ite h.agentUpdate.modCopy.notice h.agentUpdate.modCopy.copyDone) h))

/-! ### Burst reads -/

theorem NextCanonical.execHread (h : MemoryCanonical s) : NextCanonical (execHread a s) := by
  unfold Machine.execHread
  refine .issue h (fun _ h => ?_)
  refine .withAccess h (fun _ => ?_)
  refine .ite h.raise ?_
  refine .notBurst h (fun _ h => ?_)
  refine .withDwords h (fun _ _ h => ?_)
  extract_lets
  split
  · exact h.raise
  refine .ite h.raise ?_
  refine .withAccess h (fun _ => ?_)
  refine .ite h.raise ?_
  split
  · exact .ite h.reserve h.raise
  · exact h.raise

theorem NextCanonical.execHcancel (h : MemoryCanonical s) : NextCanonical (execHcancel a s) :=
  .issue h (fun _ h => .retire (.foldl h (fun _ _ h => .ite h.update.notice h)))

theorem NextCanonical.execBurstRequest (h : MemoryCanonical s) : NextCanonical (execBurstRequest s) := by
  unfold Machine.execBurstRequest
  refine .event h (fun _ h => ?_)
  extract_lets
  split
  · exact h
  · exact .ite h.notice (.ite h (.ite h.notice (.ite h.notice (.ite h.update.setRead.notice.notice h.update.setRead.notice))))

theorem NextCanonical.execBurstArrival (h : MemoryCanonical s) : NextCanonical (execBurstArrival s) := by
  unfold Machine.execBurstArrival
  refine .event h (fun _ h => ?_)
  extract_lets
  split
  · exact h
  split
  · exact h
  extract_lets
  split
  · rename_i t _ e
    have ht : MemoryCanonical t := h.agentReadRun.fst e
    exact ht.setRead.notice
  · rename_i t _ _ e
    have ht : MemoryCanonical t := h.agentReadRun.fst e
    exact ht.burstClosed
  rename_i t _ _ e
  have ht : MemoryCanonical t := h.agentReadRun.fst e
  refine .ite ht.burstClosed ?_
  split
  · exact ht.burstClosed
  · exact ht.setRead.takeName.setThread

theorem NextCanonical.execHreadComplete (h : MemoryCanonical s) : NextCanonical (execHreadComplete s) := by
  unfold Machine.execHreadComplete
  refine .event h (fun _ h => ?_)
  extract_lets
  split
  · exact h
  refine .ite h ?_
  refine .ite (.ite h.notice h.freeRead) ?_
  extract_lets
  split
  · rename_i t e
    have ht : MemoryCanonical t := h.checkWalk.fst e
    exact ht.notice
  · rename_i t _ _ e
    have ht : MemoryCanonical t := h.checkWalk.fst e
    exact ht.record.freeRead
  rename_i t _ e
  have ht : MemoryCanonical t := h.checkWalk.fst e
  exact .ite ht.record.freeRead (.ite ht.deviceWrite.freeRead ht.deviceWrite.setRead.notice)

/-! ### Branches and loops -/

theorem NextCanonical.branchOn {c : Cond} {i : BitVec 16} (h : MemoryCanonical s) : NextCanonical (branchOn c a i s) :=
  .issue h (fun _ h => .ite (.withTarget h (fun _ h => h.modCur)) h.retire)

theorem NextCanonical.execJl {i : BitVec 21} (h : MemoryCanonical s) : NextCanonical (execJl d i s) :=
  .issue h (fun _ h => .withTarget h (fun _ h => h.modCur))

theorem NextCanonical.execJr (h : MemoryCanonical s) : NextCanonical (execJr a s) := .issue h (fun _ h => .withTarget h (fun _ h => h.modCur))

theorem NextCanonical.execJlr (h : MemoryCanonical s) : NextCanonical (execJlr d a s) := .issue h (fun _ h => .withTarget h (fun _ h => h.modCur))

theorem NextCanonical.execBcb {c : Cond} (h : MemoryCanonical s) : NextCanonical (execBcb c a k s) := .issue h (fun _ h => .ite h.modCur h.retire)

theorem NextCanonical.execPrep {i : BitVec 21} (h : MemoryCanonical s) : NextCanonical (execPrep k i s) :=
  .issue h (fun _ h => .withTarget h (fun _ h => h.prepare))

theorem NextCanonical.execPrepr (h : MemoryCanonical s) : NextCanonical (execPrepr a k s) :=
  .issue h (fun _ h => .withTarget h (fun _ h => h.prepare))

theorem NextCanonical.execLoop {n : BitVec 16} (h : MemoryCanonical s) : NextCanonical (execLoop a n s) :=
  .issue h (fun _ h => .ite h.raise h.setLoop)

theorem NextCanonical.execLoopi {c : BitVec 10} {n : BitVec 16} (h : MemoryCanonical s) : NextCanonical (execLoopi c n s) :=
  .issue h (fun _ h => h.setLoop)

theorem NextCanonical.execNop (h : MemoryCanonical s) : NextCanonical (execNop s) := .issue h (fun _ h => h.retire)

theorem NextCanonical.execLoopBack (h : MemoryCanonical s) : NextCanonical (execLoopBack s) := .next (.ite h.modCur h)

theorem NextCanonical.execIllegalWord (h : MemoryCanonical s) : NextCanonical (execIllegalWord s) := .next (.ite h.raise h)

theorem NextCanonical.execBreakpointMatch (h : MemoryCanonical s) : NextCanonical (execBreakpointMatch s) := .next (.ite h.raise h)

/-! ### Collectives -/

theorem NextCanonical.execCjoin (h : MemoryCanonical s) : NextCanonical (execCjoin a s) := by
  unfold Machine.execCjoin
  refine .issue h (fun _ h => ?_)
  refine .notBurst h (fun _ h => ?_)
  refine .ite h.collFault ?_
  refine .ite h.collFault ?_
  refine .ite (.askWave h (fun _ _ h => h.askedWave)) ?_
  refine .withWave h (fun _ => ?_)
  split
  · exact h.collFault
  rename_i t e
  have ht : MemoryCanonical t := h.joinAt e
  exact ht.countVoter.wait.waveTest

theorem NextCanonical.execCleave (h : MemoryCanonical s) : NextCanonical (execCleave s) := by
  unfold Machine.execCleave
  refine .issue h (fun _ h => ?_)
  refine .ite (.askWave h (fun _ _ h => h.askedWave)) ?_
  refine .withWave h (fun _ => ?_)
  split
  · exact h.collFault
  rename_i t e
  have ht : MemoryCanonical t := h.leaveAt e
  exact ht.countVoter.wait.waveTest

theorem NextCanonical.execCstate (h : MemoryCanonical s) : NextCanonical (execCstate d s) := by
  unfold Machine.execCstate
  refine .issue h (fun _ h => ?_)
  extract_lets
  split
  · exact h.result
  · exact h.result
  · exact h.result
  · exact .askWave h (fun _ _ h => h.result)

theorem NextCanonical.cbr {all : Bool} (h : MemoryCanonical s) : NextCanonical (cbr all a k s) := by
  unfold Machine.cbr
  refine .issue h (fun _ h => ?_)
  refine .ite ?_ (.withWave h (fun _ => .ite h.collFault (.ite h.missed h.castAt.countVoter.waveTest.predict)))
  refine .askWave h (fun _ _ h => ?_)
  split
  · exact h.modCur.predict
  · exact h.missed
  · exact h.collFault

theorem NextCanonical.execCollJoinRequest (h : MemoryCanonical s) : NextCanonical (execCollJoinRequest s) := by
  unfold Machine.execCollJoinRequest
  refine .event h (fun _ h => ?_)
  split
  · split
    · refine .ite h.drop ?_
      extract_lets
      split
      · exact .wcbField (.wcbField (.tellVoters (.forVoters h.drop (fun _ _ h => .inImage h (fun _ h => h.setAt.faultAt)))))
      · exact .ite (.wcbField (.wcbField (.tellVoters (.forVoters h.drop (fun _ _ h => .inImage h (fun _ h => h.setAt.faultAt)))))) (.forVoters
          h.drop.setColl.setWcb.setWcb.setWcb.tellVoters (fun _ _ h => .inImage h (fun _ h => h.setAt.completeAt)))
    · exact h
  · exact h

theorem NextCanonical.execVote (h : MemoryCanonical s) : NextCanonical (execVote s) := by
  unfold Machine.execVote
  refine .event h (fun _ h => ?_)
  split
  · split
    · exact .onEntry h.drop (fun _ _ => .ite h.drop h.drop.collCheck)
    · exact h
  · exact h

theorem NextCanonical.execSummary (h : MemoryCanonical s) : NextCanonical (execSummary s) := by
  unfold Machine.execSummary
  refine .event h (fun _ h => ?_)
  split
  · split
    · exact .onEntry h.drop (fun _ _ => .ite h.drop h.drop.collCheck)
    · exact h
  · exact h

theorem NextCanonical.execVerdict (h : MemoryCanonical s) : NextCanonical (execVerdict s) := by
  unfold Machine.execVerdict
  refine .event h (fun _ h => ?_)
  split
  · split
    · extract_lets
      split
      · exact h.drop.setCore
      · exact .onEntry h.drop (fun _ _ => .ite h.drop h.drop.verdictAt)
    · exact h
  · exact h

theorem NextCanonical.execCollLeaveRequest (h : MemoryCanonical s) : NextCanonical (execCollLeaveRequest s) := by
  unfold Machine.execCollLeaveRequest
  refine .event h fun s h => ?_
  split
  · split
    · extract_lets dropped _ left
      have hleft : MemoryCanonical left :=
        .ite (.forVoters h.drop.setWcb.setWcb.setWcb.tellVoters fun _ _ h => .inImage h fun _ h => h.setAt.completeAt) h.drop
      split
      · exact hleft
      split
      · exact hleft
      · exact hleft.collCheck
    · exact h
  · exact h

theorem NextCanonical.execDeadlineExpiry (h : MemoryCanonical s) : NextCanonical (execDeadlineExpiry s) := .event h (fun _ h => .ite h h.post)

theorem NextCanonical.execAbortRequest (h : MemoryCanonical s) : NextCanonical (execAbortRequest s) := by
  unfold Machine.execAbortRequest
  refine .event h (fun _ h => ?_)
  split
  · split
    · exact .onEntry h.drop (fun _ _ => .ite h.drop.verdictAt (.ite h.drop h.drop.setColl.send))
    · exact h
  · exact h

theorem NextCanonical.execHeldStoreCommit (h : MemoryCanonical s) : NextCanonical (execHeldStoreCommit s) := by
  unfold Machine.execHeldStoreCommit
  refine .event h (fun _ h => ?_)
  split
  · exact h
  split
  · exact .ite h.postHeld.settle h
  · exact h

theorem NextCanonical.execVerdictApply (h : MemoryCanonical s) : NextCanonical (execVerdictApply s) := by
  unfold Machine.execVerdictApply
  refine .event h (fun _ h => ?_)
  extract_lets
  split
  · exact h
  refine .ite h.verdictFar ?_
  refine .ite h.setCore ?_
  extract_lets _ u
  have hu : MemoryCanonical u := .ite h.setCore (.tellVoters (.forVoters h.setCore (fun _ _ h => .inImage h (fun _ h => h.applyVerdict.settle))))
  exact .ite hu.setWcb hu.setWcb.setWcb

/-! ### Saving and restoring a tile -/

theorem NextCanonical.execTsave (h : MemoryCanonical s) : NextCanonical (execTsave a b s) :=
  .issue h (fun _ h => .withTarget' h (fun _ => .ite h.tileStateFault (.withImagePages h (fun _ _ h =>
    h.setTile.setTileState.stopTile.afterChecks.notice))))

theorem NextCanonical.execSaveDrained (h : MemoryCanonical s) : NextCanonical (execSaveDrained s) :=
  .event h (fun _ h => .ite h (.ite h.stopTile.notice h.stopTile.saveReads.writePages.setTile.notice))

theorem NextCanonical.execSaveComplete (h : MemoryCanonical s) : NextCanonical (execSaveComplete s) :=
  .event h (fun _ h => .ite h (.setTileState (.setTile (.foldl h.writePages.writePages.poisonImage.update (fun _ _ h => h.setThread)))))

theorem NextCanonical.execTileAssignDone (h : MemoryCanonical s) : NextCanonical (execTileAssignDone s) :=
  .event h (fun _ h => .ite h.zeroTile.setTileState h)

theorem NextCanonical.execTrestore (h : MemoryCanonical s) : NextCanonical (execTrestore a b s) :=
  .issue h (fun _ h => .withTarget' h (fun _ => .ite (.ite h.tileStateFault h.setTileState.afterChecks.notice) (.ite h.tileStateFault
    (.withImagePages h (fun _ _ h => .ite h.tileStateFault (.ite h.raise h.setTile.setTileState.afterChecks.notice))))))

theorem NextCanonical.execDiscardComplete (h : MemoryCanonical s) : NextCanonical (execDiscardComplete s) :=
  .event h (fun _ h => .ite h (.setTileState (.setTile (.zeroTile (.foldl (.update (.foldl (.foldl h.update (fun _ _ h => h.endWithTile)) (fun _ _ h
    => h.liveDown))) (fun _ _ h => h.setCore))))))

theorem NextCanonical.execRestoreComplete (h : MemoryCanonical s) : NextCanonical (execRestoreComplete s) :=
  .event h (fun _ h => .ite h h.restoreTile.resumeTile)

/-! ### Reset and start -/

theorem NextCanonical.execPowerGood (h : MemoryCanonical s) : NextCanonical (execPowerGood s) :=
  .event h (fun _ h => .ite (.ite h.start h) h.afterReset.update.start)

theorem NextCanonical.execStartokWrite (h : MemoryCanonical s) : NextCanonical (execStartokWrite s) :=
  .event h (fun _ h => .onRegister h (fun _ _ _ _ h => .regDone (.ite h.update.update h.update)))

theorem NextCanonical.execStartokTimeout (h : MemoryCanonical s) : NextCanonical (execStartokTimeout s) := .event h (fun _ h => .ite h.failStart h)

theorem NextCanonical.execMgmtReset (h : MemoryCanonical s) : NextCanonical (execMgmtReset s) :=
  .event h (fun _ h => .ite h.drop (.onFrame h (fun _ _ h => h.resetRecord.update.notice)))

theorem NextCanonical.execResetgoWrite (h : MemoryCanonical s) : NextCanonical (execResetgoWrite s) := by
  unfold Machine.execResetgoWrite
  refine .event h (fun _ h => ?_)
  refine .onRegister h (fun _ _ _ _ h => ?_)
  extract_lets
  split
  · exact .ite h.update.regDone.notice h.update.regDone
  · exact h.update.regDone

theorem NextCanonical.execResetDeadline (h : MemoryCanonical s) : NextCanonical (execResetDeadline s) :=
  .event h (fun _ h => .ite h.afterReset.startAgain h)

theorem NextCanonical.execMgmtReadFailrec (h : MemoryCanonical s) : NextCanonical (execMgmtReadFailrec s) :=
  .event h (fun _ h => .onFrame h (fun _ _ h => h.update))

theorem NextCanonical.execMgmtFlashWrite (h : MemoryCanonical s) : NextCanonical (execMgmtFlashWrite s) :=
  .event h (fun _ h => .ite h.drop.modPort (.onFrame h (fun _ _ h => h.update)))

/-! ### Health -/

theorem NextCanonical.execFaultRecord (h : MemoryCanonical s) : NextCanonical (execFaultRecord s) := by
  unfold Machine.execFaultRecord
  refine .event h (fun _ h => ?_)
  refine .ite h.rootFailed ?_
  refine .ite h.drainRecords ?_
  split
  · exact h
  extract_lets
  split
  · exact h
  · exact .ite h h.setAt.record.settle

theorem NextCanonical.execCoreLost (h : MemoryCanonical s) : NextCanonical (execCoreLost s) :=
  .event h (fun _ h => .ite (.ite h h.update.notice) (.ite h (.notice (.setCore (.loseReads (.foldl (.foldl h.loseArrivals (fun _ _ h => h.loseStub))
    (fun _ _ h => h.loseThread)))))))

theorem NextCanonical.execSpareReplace (h : MemoryCanonical s) : NextCanonical (execSpareReplace s) := .event h (fun _ h => h.replacePart)

theorem NextCanonical.execUncorrectableError (h : MemoryCanonical s) : NextCanonical (execUncorrectableError s) := by
  unfold Machine.execUncorrectableError
  refine .event h (fun _ h => ?_)
  extract_lets
  split
  · exact h.update.contextError
  · exact h.update.l1Error.setCore
  · exact h.update.markPoison
  · exact h.update.setTile
  · exact h.update.markHome
  · exact h.update.setTile
  · exact h.update

theorem NextCanonical.execScrub (h : MemoryCanonical s) : NextCanonical (execScrub s) := by
  unfold Machine.execScrub
  refine .event h (fun _ h => ?_)
  extract_lets
  split
  · exact h.update.notice
  · exact h.update.notice
  · exact h.update

theorem NextCanonical.execQuoteWrite (h : MemoryCanonical s) : NextCanonical (execQuoteWrite s) :=
  .event h (fun _ h => .onRegister h (fun _ _ _ _ h => .ite h.regDone h.regDone.update.notice))

theorem NextCanonical.execQuoteDone (h : MemoryCanonical s) : NextCanonical (execQuoteDone s) := by
  unfold Machine.execQuoteDone
  refine .event h (fun _ h => ?_)
  split
  · exact .ite h h.update.deviceWrite
  · exact h

theorem NextCanonical.execMrextWrite (h : MemoryCanonical s) : NextCanonical (execMrextWrite s) :=
  .event h (fun _ h => .onRegister h (fun _ _ _ _ h => .ite h.regDone h.regDone.update))

theorem NextCanonical.execHeartbeatTimer (h : MemoryCanonical s) : NextCanonical (execHeartbeatTimer s) :=
  .event h (fun _ h => .ite h (.notice (.foldl h (fun _ _ h => .ite h.postOut h))))

theorem NextCanonical.execHeartbeat (h : MemoryCanonical s) : NextCanonical (execHeartbeat s) := by
  unfold Machine.execHeartbeat
  refine .event h (fun _ h => ?_)
  split
  · split
    · exact .once h (fun _ h => .ite h.answer h.answer.update.notice)
    · exact h
  · exact h

theorem NextCanonical.execLeaderTimeout (h : MemoryCanonical s) : NextCanonical (execLeaderTimeout s) :=
  .event h (fun _ h => .ite h (.ite h.update h.update))

theorem NextCanonical.execSampleWrite (h : MemoryCanonical s) : NextCanonical (execSampleWrite s) :=
  .event h (fun _ h => .onRegister h (fun _ _ _ _ h => h.regDone.update.notice))

theorem NextCanonical.execSamplePulse (h : MemoryCanonical s) : NextCanonical (execSamplePulse s) :=
  .event h (fun _ h => .ite h (.ite h.update (.foldl h.update (fun _ _ h => .ite h.deviceWrite h))))

theorem NextCanonical.execOvertempAlert (h : MemoryCanonical s) : NextCanonical (execOvertempAlert s) := .event h (fun _ h => .ite h h.update)

theorem NextCanonical.execOvertempShutdown (h : MemoryCanonical s) : NextCanonical (execOvertempShutdown s) := .event h (fun _ h => h.update)

/-! ### Scalar operations -/

theorem NextCanonical.alu {f : Dword → Dword → Dword} (h : MemoryCanonical s) : NextCanonical (alu d a b s f) := .issue h (fun _ h => h.result)

theorem NextCanonical.alu1 {f : Dword → Dword} (h : MemoryCanonical s) : NextCanonical (alu1 d a s f) := .issue h (fun _ h => h.result)

theorem NextCanonical.aluImm {i : BitVec 16} {f : Dword → Dword → Dword} (h : MemoryCanonical s) : NextCanonical (aluImm d a i s f) :=
  .issue h (fun _ h => h.result)

end

/-- Whatever is executed, its next state keeps memory canonical: one lemma per meaning (R11). The last arm is that of RECALL, whose name a
command of Mathlib holds. -/
theorem exec_canonical (i : Instr) {s : State} (h : MemoryCanonical s) : NextCanonical (exec i s) := by
  cases i with dsimp only [exec]
  | add | sub | andg | org | xorg | andn | orn | sll | srl | sra | rol | mul | mulh | mulhu | div | divu | rem | remu | min | max | minu | maxu | slt
    | sltu | seq | sne | cmovz | cmovnz | lea =>
    exact .alu h
  | clz | ctz | popc | bswap | slli | srli | srai | roli => exact .alu1 h
  | addi | andi | ori | xori | slti => exact .aluImm h
  | movi | movhi | addpc => exact .issue h fun _ h => h.result
  | bcEqz | bcNez | bcLtz | bcGez | bcGtz | bcLez => exact .branchOn h
  | jl => exact .execJl h
  | prep => exact .execPrep h
  | jr => exact .execJr h
  | jlr => exact .execJlr h
  | jb | jbl | wfired | yieldT => exact .issue h fun _ h => h.modCur
  | bcb => exact .execBcb h
  | prepr => exact .execPrepr h
  | loop => exact .execLoop h
  | loopi => exact .execLoopi h
  | spawn => exact .execSpawn h
  | spawnn => exact .execSpawnn h
  | fork => exact .execFork h
  | join => exact .execJoin h
  | callat => exact .execCallat h
  | reply => exact .execReply h
  | endT => exact .execEndT h
  | gohome => exact .execGohome h
  | launch => exact .execLaunch h
  | cancel => exact .execCancel h
  | srd => exact .execSrd h
  | swr | srclr => exact .writeSpecial h
  | srset => exact .execSrset h
  | ldB | ldBn | ldH | ldHn | ldW | ldWn | ldD => exact .loadOffset h
  | stB | stH | stW | stD => exact .storeOffset h
  | ldxB | ldxBn | ldxH | ldxHn | ldxW | ldxWn | ldxD | ldAcqW | ldAcqWn | ldAcqD => exact .loadIndex h
  | stxB | stxH | stxW | stxD => exact .storeIndex h
  | stRelW | stRelD => exact .storeRelease h
  | vld | vlds | vgather => exact .vectorLoad h
  | vst | vsts | vscatter => exact .vectorStore h
  | vbcld => exact .execVbcld h
  | amoAdd | amoAnd | amoOr | amoXor | amoMin | amoMax | amoMinu | amoMaxu | amoSwap | amoCas | amoFadd | amoFmin | amoFmax => exact .amo h
  | redAdd | redAnd | redOr | redXor | redMin | redMax | redMinu | redMaxu | redFadd | redFmin | redFmax => exact .red h
  | watch => exact .execWatch h
  | unwatch => exact .execUnwatch h
  | sleep => exact .execSleep h
  | tmarm => exact .execTmarm h
  | tbinit => exact .execTbinit h
  | tbexpect => exact .execTbexpect h
  | tbarrive => exact .execTbarrive h
  | tbwait => exact .execTbwait h
  | mbadd => exact .execMbadd h
  | mbrd => exact .execMbrd h
  | mbwait => exact .execMbwait h
  | tktake => exact .execTktake h
  | tkwait => exact .execTkwait h
  | vadd | vsub | vmul | vfma | vfnma | vmin | vmax | vabs | vneg | vdiv | vsqrt | vand | vor | vxor | vnot | vshl | vshr | vshra => exact .laneWise h
  | vcmpEq | vcmpNe | vcmpLt | vcmpLe | vcmpGt | vcmpGe => exact .vcmp h
  | vsel | vbcast | vins | vperm | vslideUp | vslideDown | vmov => exact .moveLanes h fun _ h => h.modCur
  | vext => exact .moveLanes h fun _ h => h.result
  | vrsum => exact .execVrsum h
  | vrmax => exact .execVrmax h
  | vrmin => exact .execVrmin h
  | vcvtF64F32 | vcvtF32F64 | vcvtF32Bf16 | vcvtBf16F32 | vcvtF32F16 | vcvtF16F32 | vcvtF32I32 | vcvtI32F32 | vcvtF64I64 | vcvtI64F64 | vcvtBf16Lns8
    | vcvtLns8Bf16 | vcvtBf16Lns6 | vcvtLns6Bf16 =>
    exact .vcvt h
  | vtload => exact .execVtload h
  | vtab => exact .execVtab h
  | kand | kor | kxor | knot | kpop | kset | kget => exact .maskOp h
  | oclaim => exact .execOclaim h
  | orelease => exact .execOrelease h
  | opput => exact .execOpput h
  | mma => exact .execMma h
  | acczero => exact .execAcczero h
  | accrd => exact .execAccrd h
  | accsat => exact .execAccsat h
  | accget | accadd => exact .pairOp h
  | xcopy | xcopysp => exact .copyOp h
  | xwait => exact .execXwait h
  | hread => exact .execHread h
  | hcancel => exact .execHcancel h
  | cjoin => exact .execCjoin h
  | cbrAny | cbrAll => exact .cbr h
  | cstate => exact .execCstate h
  | tstop | tstopH | tstart | tread | twrite | tstate => exact .threadStateOp h
  | tsave => exact .execTsave h
  | trestore => exact .execTrestore h
  | tlbinv => exact .execTlbinv h
  | pglock => exact .execPglock h
  | pgswitch => exact .execPgswitch h
  | clwb => exact .execClwb h
  | clinv => exact .execClinv h
  | pfxImm | pfxMod | pfxHint => exact .next h.prefixWord
  | roam => exact .execRoam h
  | anchor => exact .execAnchor h
  | flushf => exact .flushNow h
  | nop => exact .execNop h
  | fenceAcq => exact .execFenceAcq h
  | fenceRel => exact .execFenceRel h
  | fenceFull => exact .execFenceFull h
  | rwait => exact .execRwait h
  | xcommit => exact .execXcommit h
  | cleave => exact .execCleave h
  | loopBack => exact .execLoopBack h
  | illegalWord => exact .execIllegalWord h
  | breakpointMatch => exact .execBreakpointMatch h
  | rotationBoundary => exact .execRotationBoundary h
  | quantumExpiry => exact .execQuantumExpiry h
  | agingPromotion => exact .execAgingPromotion h
  | spillEviction => exact .execSpillEviction h
  | spillMoveDone => exact .execSpillMoveDone h
  | watchFire => exact .execWatchFire h
  | sleepTimeout => exact .execSleepTimeout h
  | timerRecord => exact .execTimerRecord h
  | storeGatherPost => exact .execStoreGatherPost h
  | icacheFill => exact .execIcacheFill h
  | tlbWalkDone => exact .execTlbWalkDone h
  | load => exact .execLoad h
  | store => exact .execStore h
  | atomic => exact .execAtomic h
  | reduce => exact .execReduce h
  | migrate => exact .execMigrate h
  | call => exact .execCall h
  | threadop => exact .execThreadop h
  | controlCancel => exact .execControlCancel h
  | controlTlbinv => exact .execControlTlbinv h
  | ticket => exact .execTicket h
  | ticketCallNotice => exact .execTicketCallNotice h
  | ticketExpiry => exact .execTicketExpiry h
  | bulk => exact .execBulk h
  | sideband => exact .execSideband h
  | sidebandTimeout => exact .execSidebandTimeout h
  | data => exact .execData h
  | ack => exact .execAck h
  | nack => exact .execNack h
  | transportTimeout => exact .execTransportTimeout h
  | dedupRetryTimer => exact .execDedupRetryTimer h
  | dedupWindowIdle => exact .execDedupWindowIdle h
  | linkUp => exact .execLinkUp h
  | laneChange => exact .execLaneChange h
  | linkRetire => exact .execLinkRetire h
  | vote => exact .execVote h
  | summary => exact .execSummary h
  | verdict => exact .execVerdict h
  | abortRequest => exact .execAbortRequest h
  | collJoinRequest => exact .execCollJoinRequest h
  | collLeaveRequest => exact .execCollLeaveRequest h
  | deadlineExpiry => exact .execDeadlineExpiry h
  | verdictApply => exact .execVerdictApply h
  | heldStoreCommit => exact .execHeldStoreCommit h
  | waveCreate => exact .execWaveCreate h
  | waveEnd => exact .execWaveEnd h
  | jobCompletion => exact .execJobCompletion h
  | engineAccept => exact .execEngineAccept h
  | mmaComplete => exact .execMmaComplete h
  | nanStop => exact .execNanStop h
  | acczeroDone => exact .execAcczeroDone h
  | accrdComplete => exact .execAccrdComplete h
  | accsatComplete => exact .execAccsatComplete h
  | accgetComplete => exact .execAccgetComplete h
  | accaddComplete => exact .execAccaddComplete h
  | copyAccept => exact .execCopyAccept h
  | copyDelivery => exact .execCopyDelivery h
  | copyArrival => exact .execCopyArrival h
  | vtloadReplace => exact .execVtloadReplace h
  | reservationGrant => exact .execReservationGrant h
  | burstRequest => exact .execBurstRequest h
  | burstArrival => exact .execBurstArrival h
  | hreadComplete => exact .execHreadComplete h
  | stopComplete => exact .execStopComplete h
  | faultRecord => exact .execFaultRecord h
  | coreLost => exact .execCoreLost h
  | spareReplace => exact .execSpareReplace h
  | uncorrectableError => exact .execUncorrectableError h
  | scrub => exact .execScrub h
  | saveDrained => exact .execSaveDrained h
  | saveComplete => exact .execSaveComplete h
  | restoreComplete => exact .execRestoreComplete h
  | discardComplete => exact .execDiscardComplete h
  | resetDropWindow => exact .execResetDropWindow h
  | tileAssignDone => exact .execTileAssignDone h
  | keySlotWrite => exact .execKeySlotWrite h
  | jobEntryWrite => exact .execJobEntryWrite h
  | tileAssignWrite => exact .execTileAssignWrite h
  | quantumWrite => exact .execQuantumWrite h
  | admcapWrite => exact .execAdmcapWrite h
  | bkptWrite => exact .execBkptWrite h
  | pkgWrite => exact .execPkgWrite h
  | startokWrite => exact .execStartokWrite h
  | resetgoWrite => exact .execResetgoWrite h
  | quoteWrite => exact .execQuoteWrite h
  | quoteDone => exact .execQuoteDone h
  | mrextWrite => exact .execMrextWrite h
  | sampleWrite => exact .execSampleWrite h
  | samplePulse => exact .execSamplePulse h
  | registerWrite => exact .execRegisterWrite h
  | powerGood => exact .execPowerGood h
  | startokTimeout => exact .execStartokTimeout h
  | mgmtReset => exact .execMgmtReset h
  | mgmtReadFailrec => exact .execMgmtReadFailrec h
  | mgmtFlashWrite => exact .execMgmtFlashWrite h
  | resetDeadline => exact .execResetDeadline h
  | heartbeat => exact .execHeartbeat h
  | heartbeatTimer => exact .execHeartbeatTimer h
  | leaderTimeout => exact .execLeaderTimeout h
  | overtempAlert => exact .execOvertempAlert h
  | overtempShutdown => exact .execOvertempShutdown h
  | watchRegistration => exact .execWatchRegistration h
  | operandSlotCleared => exact .execOperandSlotCleared h
  | keySlotWritebackDone => exact .execKeySlotWritebackDone h
  | ingressDrop => exact .execIngressDrop h
  | linkLevelRetry => exact .execLinkLevelRetry h
  | _ => exact .execRecall h

/-! ## Every step keeps memory canonical -/

theorem runEvent_canonical (i : Instr) {s : State} (h : MemoryCanonical s) : NextCanonical (runEvent i s) :=
  .ite (exec_canonical i h) (.next h)

theorem runInput_canonical (i : Instr) (on : Subject) {s : State} (h : MemoryCanonical s) : NextCanonical (runInput i on s) :=
  .ite (exec_canonical i h.update) (.next h)

theorem issueWord_canonical {s : State} (h : MemoryCanonical s) : NextCanonical (issueWord s) := by
  unfold issueWord
  refine .ite (.next h) (.ite (.next h.modCur) (.ite (exec_canonical .nanStop h.update) ?_))
  split
  · exact exec_canonical .breakpointMatch h.update
  split
  · dsimp only
    split
    · exact exec_canonical _ h.issues
    · exact exec_canonical .illegalWord h.issues.update
  · exact .next h.raise
  · exact .next h.startWalk
  · exact .next h.fetchMiss

theorem issueStep_canonical {s : State} (h : MemoryCanonical s) : NextCanonical (issueStep s) := by
  unfold issueStep
  split
  · exact .next h.update
  · exact .ite (exec_canonical .loopBack h.update) (issueWord_canonical h.takeTurn)

theorem phaseStep_canonical {s : State} (h : MemoryCanonical s) : NextCanonical (phaseStep s) := by
  unfold phaseStep
  cases s.phase with
  | boundary => exact .next h.update
  | issue => exact issueStep_canonical h
  | deliver => exact .next h.arrivals.emit.dropNotices.update
  | tick => exact .next h.update

theorem agendaStep_canonical {s : State} (h : MemoryCanonical s) : NextCanonical (agendaStep s) := by
  unfold agendaStep
  split
  · exact runEvent_canonical _ h.update
  · exact phaseStep_canonical h

theorem resumeStep_canonical {s : State} (core ctx : Nat) (h : MemoryCanonical s) : NextCanonical (resumeStep s core ctx) := by
  unfold resumeStep
  refine .ite (.next h) ?_
  split
  · next i _ =>
    obtain ⟨t, ht⟩ := exec_answers i (s.resumed core ctx)
    rw [ht]
    exact .next (exec_canonical i h.resumed t ht).afterResume
  · exact .next h.wakeThread

theorem step_canonical {s : State} (h : MemoryCanonical s) : NextCanonical (step s) := by
  unfold step
  refine .ite ?_ ?_
  · split
    · exact exec_canonical .powerGood h.update
    · exact .fault
  split
  · exact resumeStep_canonical _ _ h.update
  split
  · exact .ite (runInput_canonical _ _ h.update) (agendaStep_canonical h)
  · exact agendaStep_canonical h

end Sys2Proof

section

open Sys2Proof Sys2Proof.Machine

/-- Settles O56: whatever a step does, it changes memory by single bytes, page copies and page clears, each of which keeps the list of cells rising
and free of zeros. -/
theorem stepKeepsMemory : Obligations.StepKeepsMemory := by
  unfold Obligations.StepKeepsMemory
  exact fun _ t h e => step_canonical h t e

end

end

-- ---- The image of a thread (O33) ----
section
/-!
PROOFS. The image of a thread. What each word of an image reads comes first, once; an index written and read again, and a thread put back from its
image, are then those equations applied to the write and to the read.
-/

open Sys2Proof.Machine

namespace Sys2Proof.Machine

/-! ## The words of a context image -/

theorem Thread.looped_of_settled {t : Thread} (h : t.retiring = false) : t.looped = t := by
  simp [Thread.looped, h]

section

variable {t : Thread} {cycle : Nat} (ht : t.retiring = false)
include ht

theorem imageWord_g {i : Nat} (hi : i < 0x20) : t.imageWord cycle i = t.rg (Fin.ofNat 32 i) := by
  simp only [Thread.imageWord, Thread.looped_of_settled ht, if_pos hi]

theorem imageWord_v {i j : Nat} (hi : i < 16) (hj : j < 8) :
    t.imageWord cycle (0x20 + 8 * i + j) = t.v[i].extractLsb' (64 * j) 64 := by
  have hlow : ¬ 0x20 + 8 * i + j < 0x20 := by omega
  have hhigh : 0x20 + 8 * i + j < 0xA0 := by omega
  have hreg : (0x20 + 8 * i + j - 0x20) / 8 = i := by omega
  have hlane : (0x20 + 8 * i + j - 0x20) % 8 = j := by omega
  simp only [Thread.imageWord, Thread.looped_of_settled ht, if_neg hlow, if_pos hhigh, hreg, hlane, Vector.getElem?_eq_getElem hi,
    Option.getD_some]

theorem imageWord_k {i : Nat} (hi : i < 8) : t.imageWord cycle (0xA0 + i) = t.k[i] := by
  have hv : ¬ 0xA0 + i < 0xA0 := by omega
  have hg : ¬ 0xA0 + i < 0x20 := by omega
  have hk : 0xA0 + i < 0xA8 := by omega
  simp only [Thread.imageWord, Thread.looped_of_settled ht, if_neg hg, if_neg hv, if_pos hk, Nat.add_sub_cancel_left,
    Vector.getElem?_eq_getElem hi, Option.getD_some]

theorem imageWord_b {i : Nat} (hi : i < 8) : t.imageWord cycle (0xA8 + i) = t.b[i] := by
  have hv : ¬ 0xA8 + i < 0xA0 := by omega
  have hg : ¬ 0xA8 + i < 0x20 := by omega
  have hk : ¬ 0xA8 + i < 0xA8 := by omega
  have hb : 0xA8 + i < 0xB0 := by omega
  simp only [Thread.imageWord, Thread.looped_of_settled ht, if_neg hg, if_neg hv, if_neg hk, if_pos hb, Nat.add_sub_cancel_left,
    Vector.getElem?_eq_getElem hi, Option.getD_some]

theorem imageWord_w {i : Nat} (hi : i < 4) : t.imageWord cycle (0xB2 + i) = t.w[i] := by
  have hv : ¬ 0xB2 + i < 0xA0 := by omega
  have hg : ¬ 0xB2 + i < 0x20 := by omega
  have hk : ¬ 0xB2 + i < 0xA8 := by omega
  have hb : ¬ 0xB2 + i < 0xB0 := by omega
  have hw : 0xB2 ≤ 0xB2 + i ∧ 0xB2 + i < 0xB6 := by omega
  simp only [Thread.imageWord, Thread.looped_of_settled ht, if_neg hg, if_neg hv, if_neg hk, if_neg hb, if_pos hw, Nat.add_sub_cancel_left,
    Vector.getElem?_eq_getElem hi, Option.getD_some]

theorem imageWord_pc : t.imageWord cycle 0xB0 = t.pc := by
  simp [Thread.imageWord, Thread.looped_of_settled ht]

theorem imageWord_state : t.imageWord cycle 0xB1 = t.st.code.setWidth 64 := by
  simp [Thread.imageWord, Thread.looped_of_settled ht]

theorem imageWord_waitA : t.imageWord cycle 0xBA = t.wait.a := by
  simp [Thread.imageWord, Thread.looped_of_settled ht]

theorem imageWord_waitV : t.imageWord cycle 0xBB = t.wait.v := by
  simp [Thread.imageWord, Thread.looped_of_settled ht]

theorem imageWord_special {n : Nat} : t.imageWord cycle (0xC0 + n) = (t.special cycle n).getD 0 := by
  have hg : ¬ 0xC0 + n < 0x20 := by omega
  have hv : ¬ 0xC0 + n < 0xA0 := by omega
  have hk : ¬ 0xC0 + n < 0xA8 := by omega
  have hb : ¬ 0xC0 + n < 0xB0 := by omega
  have hw : ¬ (0xB2 ≤ 0xC0 + n ∧ 0xC0 + n < 0xB6) := by omega
  have hs : 0xC0 ≤ 0xC0 + n := by omega
  simp only [Thread.imageWord, Thread.looped_of_settled ht, if_neg hg, if_neg hv, if_neg hk, if_neg hb, if_neg hw, if_pos hs,
    Nat.add_sub_cancel_left]

end

/-! ## An index written and read again -/

/-- A word put into a register and read there. -/
theorem rg_wg_same (t : Thread) (r : GReg) (x : Dword) : (t.wg r x).rg r = if r = 0 then 0 else x := by
  by_cases hr : r = 0 <;> simp [rg_wg, hr]

section

variable {t u : Thread} {cycle i : Nat} {x : Dword} (ht : t.retiring = false) (hroam : t.roaming = false) (hwrite : t.writeImage i x = some u)
include ht hwrite

include hroam in
theorem writeImage_g (hi : i < 0x20) : u.imageWord cycle i = if i = 0 then 0 else x := by
  simp only [Thread.writeImage, Thread.looped_of_settled ht, if_pos hi, hroam, Bool.false_eq_true, false_and, if_false,
    Option.some.injEq] at hwrite
  subst hwrite
  have hzero : Fin.ofNat 32 i = 0 ↔ i = 0 := by simp [Fin.ext_iff, Nat.mod_eq_of_lt hi]
  rw [imageWord_g (by simpa using ht) hi, rg_wg_same]
  simp only [hzero]

include hroam in
theorem writeImage_mask (hlow : 0xA0 ≤ i) (hi : i < 0xA8) : u.imageWord cycle i = x := by
  obtain ⟨n, rfl⟩ := Nat.exists_eq_add_of_le hlow
  have hg : ¬ 0xA0 + n < 0x20 := by omega
  have hv : ¬ 0xA0 + n < 0xA0 := by omega
  have hn : n < 8 := by omega
  simp only [Thread.writeImage, Thread.looped_of_settled ht, if_neg hg, if_neg hv, if_pos hi, hroam, Bool.false_eq_true, if_false,
    Option.some.injEq, Nat.add_sub_cancel_left] at hwrite
  subst hwrite
  exact (imageWord_k (by exact ht) hn).trans (Vector.getElem_setIfInBounds_self _)

theorem writeImage_base (hlow : 0xA8 ≤ i) (hi : i < 0xB0) : u.imageWord cycle i = x := by
  obtain ⟨n, rfl⟩ := Nat.exists_eq_add_of_le hlow
  have hg : ¬ 0xA8 + n < 0x20 := by omega
  have hv : ¬ 0xA8 + n < 0xA0 := by omega
  have hk : ¬ 0xA8 + n < 0xA8 := by omega
  have hn : n < 8 := by omega
  simp only [Thread.writeImage, Thread.looped_of_settled ht, if_neg hg, if_neg hv, if_neg hk, if_pos hi, Nat.add_sub_cancel_left] at hwrite
  split at hwrite
  · obtain rfl := Option.some.inj hwrite
    exact (imageWord_b (by exact ht) hn).trans (Vector.getElem_setIfInBounds_self _)
  · cases hwrite

theorem writeImage_pc (hi : i = 0xB0) : u.imageWord cycle i = x := by
  subst hi
  simp only [Thread.writeImage, Thread.looped_of_settled ht] at hwrite
  norm_num at hwrite
  obtain ⟨-, rfl⟩ := hwrite
  exact imageWord_pc (by exact ht)

end

/-- The special registers that TWRITE writes and that an image names (R354): FLAGS to PRIO, NANCTL to CTIMEOUT, PFXST, DEPTH and the loop levels. -/
def writableSpecials : List Nat := [3, 4, 5, 6, 7, 9, 0xA, 0xB, 0x16, 0x17, 0x18, 0x19, 0x1A, 0x1B, 0x1C, 0x1D]

theorem writeSpecialBy_reads {t u : Thread} {cycle n : Nat} {x : Dword} (hn : n ∈ writableSpecials) (hwrite : t.writeSpecialBy n x = some u) :
    u.special cycle n = some x ∧ u.retiring = t.retiring := by
  simp only [writableSpecials, List.mem_cons, List.not_mem_nil, or_false] at hn
  rcases hn with rfl | rfl | rfl | rfl | rfl | rfl | rfl | rfl | rfl | rfl | rfl | rfl | rfl | rfl | rfl | rfl <;>
    simp only [Thread.writeSpecialBy, Option.ite_none_right_eq_some, Option.some.injEq] at hwrite <;>
    obtain ⟨hok, rfl⟩ := hwrite <;>
    simp [Thread.special, Thread.withDepth]

theorem writeImage_special {t u : Thread} {cycle n : Nat} {x : Dword} (ht : t.retiring = false) (hn : n ∈ writableSpecials)
    (hwrite : t.writeImage (0xC0 + n) x = some u) : u.imageWord cycle (0xC0 + n) = x := by
  have hby : t.writeSpecialBy n x = some u := by
    have hg : ¬ 0xC0 + n < 0x20 := by omega
    have hv : ¬ 0xC0 + n < 0xA0 := by omega
    have hk : ¬ 0xC0 + n < 0xA8 := by omega
    have hb : ¬ 0xC0 + n < 0xB0 := by omega
    have hpc : ¬ 0xC0 + n = 0xB0 := by omega
    have hreply : ¬ 0xC0 + n = 0xB6 := by omega
    have hkey : ¬ 0xC0 + n = 0xBE := by omega
    have hs : 0xC0 ≤ 0xC0 + n := by omega
    simpa only [Thread.writeImage, Thread.looped_of_settled ht, if_neg hg, if_neg hv, if_neg hk, if_neg hb, if_neg hpc, if_neg hreply,
      if_neg hkey, if_pos hs, Nat.add_sub_cancel_left] using hwrite
  obtain ⟨hread, hsame⟩ := writeSpecialBy_reads (cycle := cycle) hn hby
  rw [imageWord_special (hsame.trans ht), hread, Option.getD_some]

/-! ## Starting a thread -/

section

variable {s : State} {core ctx : Nat} {far : Bool} {after : List (Name × Nat)}

theorem startThread_stopping (h : (s.thread core ctx).stopping = true) :
    let u := (s.startThread (.ctx core ctx) far after).thread core ctx
    u.st = (s.thread core ctx).st ∧ u.startAfter = true := by
  simp [State.startThread, State.at, State.setAt, h]

theorem startThread_held (h : (s.thread core ctx).stopping = false) (hst : (s.thread core ctx).st = .held) :
    let u := (s.startThread (.ctx core ctx) far after).thread core ctx
    u.st = .held ∧ u.startAfter = true := by
  simp [State.startThread, State.at, State.setAt, h, hst]

theorem startThread_faulted (h : (s.thread core ctx).stopping = false) (hst : (s.thread core ctx).st = .faulted) :
    let t := s.thread core ctx
    let u := (s.startThread (.ctx core ctx) far after).thread core ctx
    u.st = .ready ∧ u.fcode = 0 ∧ u.pc = t.pc ∧ u.g = t.g ∧ (u.skipBreak = (decide (t.fcode = 0x0E) && !t.pcWritten)) := by
  simp [State.startThread, State.at, State.setAt, h, hst, Thread.resumeFault, Thread.toReady, Thread.unbound]
  rfl

theorem startThread_stopped (h : (s.thread core ctx).stopping = false) (hst : (s.thread core ctx).st = .stopped)
    (hprior : (s.thread core ctx).prior ≠ .spilled) :
    let t := s.thread core ctx
    let u := (s.startThread (.ctx core ctx) far after).thread core ctx
    u.st = (if t.prior = .waiting then .waiting else if t.prior = .sleeping then .sleeping else .ready) ∧ u.pc = t.pc ∧ u.g = t.g := by
  cases hp : (s.thread core ctx).prior <;> simp_all [State.startThread, State.at, State.setAt, Thread.toReady]

end

/-! ## A thread from its image -/

theorem ofCode_code (st : TState) : TState.ofCode (st.code.setWidth 64).toNat = st := by
  cases st <;> rfl

theorem code_toNat_ne_zero {st : TState} (h : st ≠ .free) : (st.code.setWidth 64).toNat % 16 ≠ 0 := by
  cases st with
  | free => exact absurd rfl h
  | _ => decide

/-- The lanes of 64 bits of a number, put together again. -/
theorem foldl_lanes (x n : Nat) :
    (List.range n).foldl (fun acc j => acc + x / 2 ^ (64 * j) % 2 ^ 64 * 2 ^ (64 * j)) 0 = x % 2 ^ (64 * n) := by
  induction n with
  | zero => simp [Nat.mod_one]
  | succ n ih =>
    rw [List.range_succ, List.foldl_append, ih, List.foldl_cons, List.foldl_nil, Nat.mul_succ, Nat.pow_add, Nat.mod_mul, Nat.mul_comm (_ % _)]

theorem ofNat_lanes (x : VWord) :
    BitVec.ofNat 512 ((List.range 8).foldl (fun n j => n + (x.extractLsb' (64 * j) 64).toNat * 2 ^ (64 * j)) 0) = x := by
  simp only [BitVec.extractLsb'_toNat, Nat.shiftRight_eq_div_pow, foldl_lanes]
  rw [show 64 * 8 = 512 from rfl, Nat.mod_eq_of_lt x.isLt, BitVec.ofNat_toNat, BitVec.setWidth_eq]

section

variable {t old : Thread} {cycle : Nat} (ht : t.retiring = false)
include ht

/-- A free context takes every register of the image, over an empty thread. -/
theorem ofImage_free (hfree : old.st = .free) (hst : t.st ≠ .free) :
    old.ofImage (t.imageWord cycle) = (Thread.withImage {} (t.imageWord cycle)).withState (t.imageWord cycle) := by
  have hlive : ¬ (t.imageWord cycle 0xB1).toNat % 16 = 0 := by
    rw [imageWord_state ht]
    exact code_toNat_ne_zero hst
  have hempty : ¬ (old.st ≠ .free ∧ old.tid = t.imageWord cycle 0xC0) := fun h => h.1 hfree
  simp only [Thread.ofImage, if_neg hlive, if_neg hempty]

theorem withImage_rg (base : Thread) (r : GReg) : (base.withImage (t.imageWord cycle)).rg r = t.rg r := by
  unfold Thread.withImage Thread.rg
  by_cases hr : r = 0
  · simp [hr]
  · simp [hr, imageWord_g ht r.isLt, Thread.rg]

theorem withImage_v (base : Thread) : (base.withImage (t.imageWord cycle)).v = t.v := by
  refine Vector.ext fun i hi => ?_
  have hlanes : ∀ n j, j ∈ List.range 8 → n + (t.imageWord cycle (0x20 + 8 * i + j)).toNat * 2 ^ (64 * j) =
      n + (t.v[i].extractLsb' (64 * j) 64).toNat * 2 ^ (64 * j) := fun n j hj => by
    rw [imageWord_v ht hi (List.mem_range.mp hj)]
  simp only [Thread.withImage, Vector.getElem_ofFn, List.foldl_ext _ _ _ hlanes, ofNat_lanes]

theorem withImage_k (base : Thread) : (base.withImage (t.imageWord cycle)).k = t.k := by
  refine Vector.ext fun i hi => ?_
  simp only [Thread.withImage, Vector.getElem_ofFn, imageWord_k ht hi]

theorem withImage_b (base : Thread) : (base.withImage (t.imageWord cycle)).b = t.b := by
  refine Vector.ext fun i hi => ?_
  simp only [Thread.withImage, Vector.getElem_ofFn, imageWord_b ht hi]

theorem withImage_w (base : Thread) : (base.withImage (t.imageWord cycle)).w = t.w := by
  refine Vector.ext fun i hi => ?_
  simp only [Thread.withImage, Vector.getElem_ofFn, imageWord_w ht hi]

theorem withImage_loopb (base : Thread) : (base.withImage (t.imageWord cycle)).loopb = t.loopb := by
  refine Vector.ext fun i hi => ?_
  have hread : t.imageWord cycle (0xD8 + 2 * i) = (t.special cycle (0x18 + 2 * i)).getD 0 := by
    rw [← imageWord_special ht, ← Nat.add_assoc]
  simp only [Thread.withImage, Vector.getElem_ofFn, hread]
  interval_cases i <;> rfl

theorem withImage_loopc (base : Thread) : (base.withImage (t.imageWord cycle)).loopc = t.loopc := by
  refine Vector.ext fun i hi => ?_
  have hread : t.imageWord cycle (0xD9 + 2 * i) = (t.special cycle (0x19 + 2 * i)).getD 0 := by
    rw [← imageWord_special ht, ← Nat.add_assoc]
  simp only [Thread.withImage, Vector.getElem_ofFn, hread]
  interval_cases i <;> rfl

theorem withState_st (base : Thread) : (base.withState (t.imageWord cycle)).st = t.st := by
  have hmod : (t.st.code.setWidth 64).toNat % 16 = (t.st.code.setWidth 64).toNat := Nat.mod_eq_of_lt (by cases t.st <;> decide)
  simp only [Thread.withState, imageWord_state ht, hmod, ofCode_code]

end

end Sys2Proof.Machine

section

open Sys2Proof Sys2Proof.Machine

/-- Settles O33, part by part: a halted thread answers, an index written reads back, a start gives back the state, an image gives back the thread. -/
theorem threadImage : Obligations.ThreadImage := by
  refine ⟨fun s p i x far after => ⟨fun h => ?_, fun h => ?_, fun h => ?_, rfl⟩,
    fun t u cycle i x hroam ht hwrite => ⟨?_, fun hlow hi => ?_, ?_, fun hi => ?_⟩,
    fun s core ctx far after => ⟨startThread_stopping, fun h => ⟨startThread_faulted h, startThread_stopped h, startThread_held h⟩⟩,
    fun t old cycle hfree hst ht hroam => ?_⟩
  · simp [State.operateAt, h]
  · simp [State.operateAt, h]
  · exact ⟨fun u hu => by simp [State.operateAt, h, hu], fun hnone => by simp [State.operateAt, h, hnone]⟩
  · exact writeImage_g ht hroam hwrite
  · rcases Nat.lt_or_ge i 0xA8 with hmask | hbase
    · exact writeImage_mask ht hroam hwrite hlow hmask
    · exact writeImage_base ht hwrite hbase hi
  · exact writeImage_pc ht hwrite
  · obtain ⟨n, hn, rfl⟩ := List.mem_map.mp (show i ∈ writableSpecials.map (0xC0 + ·) from hi)
    exact writeImage_special ht hn hwrite
  · intro u
    have hu : u = (Thread.withImage {} (t.imageWord cycle)).withState (t.imageWord cycle) := ofImage_free ht hfree hst
    have special (n : Nat) := imageWord_special (cycle := cycle) ht (n := n)
    rw [hu]
    exact ⟨withImage_rg ht {}, withImage_v ht {}, withImage_k ht {}, withImage_b ht {}, withImage_w ht {},
      imageWord_pc (cycle := cycle) ht, withState_st ht _, special 0x03, special 0x04, special 0x05, special 0x06,
      special 0x07, special 0x09, special 0x00, special 0x01, special 0x02, special 0x0C,
      withImage_loopb ht {}, withImage_loopc ht {}, imageWord_waitA (cycle := cycle) ht, imageWord_waitV (cycle := cycle) ht⟩

end

end

-- ---- Operations on other threads (O32) ----
section
/-!
PROOFS. Operations on other threads. The six words share one chain of checks, each of which is a lemma here; what stands after the checks is
`State.operateOn`.
-/

open Sys2Proof.Machine

namespace Sys2Proof.Machine

/-- Rights that stand in near memory alone, none of them being fetched, are read at once. -/
theorem withTable_near {s : State} (h : ∀ y ∈ s.cur.tableEntries, s.entryFar y = false ∧ ∀ f ∈ s.farEntries, f.1 ≠ y) (f : State → State) :
    s.withTable f = f s := by
  have hfar : s.cur.tableEntries.find? s.entryFar = none := List.find?_eq_none.mpr fun y hy => by simp [(h y hy).1]
  have hopen : ¬ (s.cur.tableEntries.any fun y => s.farEntries.any fun e => e.1 == y) = true := by
    simp only [List.any_eq_true, beq_iff_eq, not_exists, not_and]
    exact fun y hy e he => (h y hy).2 e he
  simp only [State.withTable, hfar, if_neg hopen]

/-! ## Operations on other threads -/

/-- Whether an operation is a stop, which answers when the stop is complete (R365). -/
def ThreadOp.isStop : ThreadOp → Bool
  | .stop _ => true
  | _ => false

/-- The place of the thread that an operation acts on within its turn, if it does (R348). -/
def State.actsHere (s : State) (op : ThreadOp) (n : Name) : Option Place :=
  match s.target n with
  | some p => if s.coreAt p = s.focus.core ∧ s.opReady op p ∧ !op.isStop then some p else none
  | none => none

/-- An operation whose rights and index stand: it acts within the turn, or travels while the issuer waits. -/
def State.operateOn (s : State) (x : Dword) (dst : GReg) (op : ThreadOp) : State :=
  let n : Name := x.setWidth 56
  let pkg := endpointPkg (nameEp n)
  match s.actsHere op n with
  | some p =>
    match s.operate op p false [(s.cur.name, s.nextId)] with
    | (.value v, s) => s.result dst v
    | (.fault code w4 w5, s) => s.raise code 0 w4 w5
    | (.later, s) => s
  | none =>
    s.viaNet pkg 0 fun s =>
      let far := (endpointCore (nameEp n)).getD 0
      (s.wait { k := 14, a := x, act := if op.isStop then .far else .done dst }).send
        (if pkg ≠ s.pkg then 234 else if far = s.curOrigin.core then 1 else if spillDie far = spillDie s.curOrigin.core then 30 else 55) pkg
        s.curOrigin (.threadOp op n)

section

variable {s : State} {x v : Dword} {dst : GReg} {op : ThreadOp} {p : Place} {u : State}

theorem actsHere_eq {n : Name} (htarget : s.target n = some p) (hcore : s.coreAt p = s.focus.core) (hready : s.opReady op p = true)
    (hstop : ∀ h, op ≠ .stop h) : s.actsHere op n = some p := by
  have hgoes : op.isStop = false := by
    cases op with
    | stop hold => exact absurd rfl (hstop hold)
    | _ => rfl
  simp [State.actsHere, htarget, hcore, hready, hgoes]

theorem actsHere_none {n : Name}
    (haway : (∀ p, s.target n = some p → s.coreAt p ≠ s.focus.core ∨ s.opReady op p = false) ∨ ∃ h, op = .stop h) :
    s.actsHere op n = none := by
  unfold State.actsHere
  split
  · next p htarget =>
    refine if_neg fun hhere => ?_
    obtain ⟨hcore, hready, hstop⟩ := hhere
    rcases haway with haway | ⟨hold, rfl⟩
    · rcases haway p htarget with hcore' | hready'
      · exact hcore' hcore
      · simp [hready'] at hready
    · simp [ThreadOp.isStop] at hstop
  · rfl

theorem operateOn_value (hhere : s.actsHere op (x.setWidth 56) = some p)
    (hop : s.operate op p false [(s.cur.name, s.nextId)] = (.value v, u)) : s.operateOn x dst op = u.result dst v := by
  simp only [State.operateOn, hhere, hop]

theorem operateOn_fault {code : BitVec 8} {w4 w5 : Dword} (hhere : s.actsHere op (x.setWidth 56) = some p)
    (hop : s.operate op p false [(s.cur.name, s.nextId)] = (.fault code w4 w5, u)) : s.operateOn x dst op = u.raise code 0 w4 w5 := by
  simp only [State.operateOn, hhere, hop]

theorem operateOn_travels (haway : s.actsHere op (x.setWidth 56) = none) (hnet : s.netAdmits (endpointPkg (nameEp (x.setWidth 56))) = true) :
    ∃ d, s.operateOn x dst op = (s.wait { k := 14, a := x, act := match op with | .stop _ => .far | _ => .done dst }).send
      d (endpointPkg (nameEp (x.setWidth 56))) s.curOrigin (.threadOp op (x.setWidth 56)) := by
  simp only [State.operateOn, haway, viaNet_admits hnet]
  cases op <;> exact ⟨_, rfl⟩

end

section

variable {s : State} {a dst : GReg} {regs : List GReg} {need : Nat} {index : State → Dword} {op : State → ThreadOp}

theorem threadStateOp_unclean (h : s.admits { ahead := false } regs = true) (hname : 2 ^ 56 ≤ (s.rg a).toNat) :
    threadStateOp a regs need index dst op s = .next (s.raise 0x07 0 4 (s.rg a)) := by
  have hbits : (s.rg a).toNat / 2 ^ 56 ≠ 0 := (Nat.div_pos hname (by decide)).ne'
  exact (issue_admits h _).trans (next_eq (if_pos hbits))

variable (h : s.admits { ahead := false } regs = true) (hname : (s.rg a).toNat < 2 ^ 56)
include h hname

theorem threadStateOp_foreign (hdom : domainOf (endpointPkg (nameEp ((s.rg a).setWidth 56))) ≠ domainOf s.pkg) :
    threadStateOp a regs need index dst op s = .next (s.raise 0x12 0 (s.rg a) 0) := by
  have hbits : ¬ (s.rg a).toNat / 2 ^ 56 ≠ 0 := not_not.mpr (Nat.div_eq_of_lt hname)
  exact (issue_admits h _).trans (next_eq ((if_neg hbits).trans (if_pos hdom)))

variable (hdom : domainOf (endpointPkg (nameEp ((s.rg a).setWidth 56))) = domainOf s.pkg)
  (hnear : ∀ y ∈ s.cur.tableEntries, s.entryFar y = false ∧ ∀ f ∈ s.farEntries, f.1 ≠ y)
include hdom hnear

theorem threadStateOp_unreadable {r : Nat} (hrights : s.rights s.cur (coversName s.cur.name ((s.rg a).setWidth 56)) = .error r) :
    threadStateOp a regs need index dst op s = .next (s.raise 0x07 0 3 (BitVec.ofNat 64 r)) := by
  have hbits : ¬ (s.rg a).toNat / 2 ^ 56 ≠ 0 := not_not.mpr (Nat.div_eq_of_lt hname)
  refine (issue_admits h _).trans (next_eq ((if_neg hbits).trans ((if_neg (not_not.mpr hdom)).trans ((withTable_near hnear _).trans ?_))))
  simp only [hrights]

variable {r : Nat} (hrights : s.rights s.cur (coversName s.cur.name ((s.rg a).setWidth 56)) = .ok r)
include hrights

theorem threadStateOp_denied (hneed : r &&& need = 0) :
    threadStateOp a regs need index dst op s = .next (s.raise 0x07 0 1 (s.rg a)) := by
  have hbits : ¬ (s.rg a).toNat / 2 ^ 56 ≠ 0 := not_not.mpr (Nat.div_eq_of_lt hname)
  refine (issue_admits h _).trans (next_eq ((if_neg hbits).trans ((if_neg (not_not.mpr hdom)).trans ((withTable_near hnear _).trans ?_))))
  simp only [hrights, if_pos hneed]

variable (hneed : r &&& need ≠ 0)
include hneed

theorem threadStateOp_badIndex (hindex : 0x100 ≤ (index s).toNat) :
    threadStateOp a regs need index dst op s = .next (s.raise 0x08 0 (index s) 0) := by
  have hbits : ¬ (s.rg a).toNat / 2 ^ 56 ≠ 0 := not_not.mpr (Nat.div_eq_of_lt hname)
  refine (issue_admits h _).trans (next_eq ((if_neg hbits).trans ((if_neg (not_not.mpr hdom)).trans ((withTable_near hnear _).trans ?_))))
  simp only [hrights, if_neg hneed, if_pos hindex]

theorem threadStateOp_allowed (hindex : (index s).toNat < 0x100) :
    threadStateOp a regs need index dst op s = .next (s.operateOn (s.rg a) dst (op s)) := by
  have hbits : ¬ (s.rg a).toNat / 2 ^ 56 ≠ 0 := not_not.mpr (Nat.div_eq_of_lt hname)
  refine (issue_admits h _).trans (next_eq ((if_neg hbits).trans ((if_neg (not_not.mpr hdom)).trans ((withTable_near hnear _).trans ?_))))
  simp only [hrights, if_neg hneed, if_neg (Nat.not_le.mpr hindex)]
  rfl

end

end Sys2Proof.Machine

section

open Sys2Proof Sys2Proof.Machine

/-- Settles O32: each of the six words is one operation with its own right and index, whose checks come in one order and which then acts or travels. -/
theorem threadOpResults : Obligations.ThreadOpResults := by
  intro s a b c e he h x n pkg hnear
  obtain ⟨index, op, hexec, hindex, hop⟩ : ∃ (index : State → Dword) (op : State → ThreadOp),
      exec e.1 s = threadStateOp a e.2.1 e.2.2.1 index e.2.2.2.2.1 op s ∧ index s = e.2.2.2.1 ∧ op s = e.2.2.2.2.2 := by
    simp only [List.mem_cons, List.not_mem_nil, or_false] at he
    rcases he with rfl | rfl | rfl | rfl | rfl | rfl <;> exact ⟨_, _, rfl, rfl, rfl⟩
  rw [hexec, ← hindex, ← hop]
  refine ⟨threadStateOp_unclean h, fun hname hdom => threadStateOp_foreign h hname hdom,
    fun r hname hdom hrights => threadStateOp_unreadable h hname hdom hnear hrights, fun r hname hdom hrights =>
    ⟨threadStateOp_denied h hname hdom hnear hrights, fun hneed hi => threadStateOp_badIndex h hname hdom hnear hrights hneed hi,
      fun hneed hi => ?_⟩⟩
  rw [threadStateOp_allowed h hname hdom hnear hrights hneed hi]
  refine ⟨fun p v u htarget hcore hready hanswer hstop => next_eq (operateOn_value (actsHere_eq htarget hcore hready hstop) hanswer),
    fun p c4 w4 w5 u htarget hcore hready hanswer hstop => next_eq (operateOn_fault (actsHere_eq htarget hcore hready hstop) hanswer),
    fun haway hnet => ?_⟩
  obtain ⟨d, hd⟩ := operateOn_travels (x := x) (dst := e.2.2.2.2.1) (actsHere_none haway) hnet
  exact ⟨d, next_eq hd⟩

end

end

-- ---- TSAVE and TRESTORE (O35) ----
section
/-!
PROOFS. TSAVE and TRESTORE. Both words check the tile, the rights over its cores and their own place first, and the pages of the image last; those two
chains of checks are a lemma each, and what a word does is read off between them.
-/

open Sys2Proof.Machine

namespace Sys2Proof.Machine

/-! ## The checks that both words share -/

/-- Rights over every endpoint of a range let a word that needs them go on. -/
theorem coreRights_held {s : State} {eps : List Nat} {need : Nat}
    (h : ∀ ep ∈ eps, ∃ r, s.rights s.cur (coversCore ep) = .ok r ∧ r &&& need = need) (f : State → State) :
    s.coreRights eps need f = f s := by
  induction eps with
  | nil => rfl
  | cons ep rest ih =>
    obtain ⟨r, hr, hneed⟩ := h ep (List.mem_cons_self ..)
    simp only [State.coreRights, hr, hneed, ne_eq, not_true_eq_false, if_false]
    exact ih fun e he => h e (List.mem_cons_of_mem _ he)

section

variable {s : State} {x : Dword}

theorem withTarget'_high (h : 159 < x.toNat) (f : Nat → State) : s.withTarget' x f = s.raise 0x09 0 x 0 := if_pos h

variable (htile : x.toNat ≤ 159) (hnear : ∀ y ∈ s.cur.tableEntries, s.entryFar y = false ∧ ∀ e ∈ s.farEntries, e.1 ≠ y)
  (hrights : ∀ j < 4, ∃ r, s.rights s.cur (coversCore (endpoint s.pkg (4 * x.toNat + j))) = .ok r ∧ r &&& 15 = 15)
include htile hnear hrights

theorem withTarget'_allowed (f : Nat → State) :
    s.withTarget' x f = if s.focus.core < 640 ∧ s.here = x.toNat then s.raise 0x07 0 5 0 else f x.toNat := by
  have hheld : ∀ ep ∈ (List.range 4).map fun c => endpoint s.pkg (4 * x.toNat + c), ∃ r, s.rights s.cur (coversCore ep) = .ok r ∧
      r &&& (rightStop + rightStart + rightRead + rightRewrite) = rightStop + rightStart + rightRead + rightRewrite := by
    intro ep hep
    obtain ⟨j, hj, rfl⟩ := List.mem_map.mp hep
    exact hrights j (List.mem_range.mp hj)
  unfold State.withTarget'
  rw [if_neg (Nat.not_lt.mpr htile)]
  exact (withTable_near hnear fun s => s.coreRights _ _ _).trans (coreRights_held hheld _)

theorem withTarget'_own (hown : s.focus.core < 640 ∧ s.here = x.toNat) (f : Nat → State) : s.withTarget' x f = s.raise 0x07 0 5 0 :=
  (withTarget'_allowed htile hnear hrights f).trans (if_pos hown)

theorem withTarget'_other (hother : ¬ (s.focus.core < 640 ∧ s.here = x.toNat)) (f : Nat → State) : s.withTarget' x f = f x.toNat :=
  (withTarget'_allowed htile hnear hrights f).trans (if_neg hother)

end

theorem withImagePages_ok {s u : State} {gb : Dword} {xs : List (Nat × Nat)} (halign : gb.toNat % 0x100000 = 0)
    (hwalk : s.imageWalk gb.toNat 160 = (u, some (.ok xs))) (f : State → List (Nat × Nat) → State) : s.withImagePages gb f = f u xs := by
  simp only [State.withImagePages, if_neg (not_not.mpr halign), imagePageCount, hwalk]

end Sys2Proof.Machine

section

open Sys2Proof Sys2Proof.Machine

/-- Settles O35: past the checks, each word asks the state of the tile, then the image, and begins what that state allows. -/
theorem tileSaveResults : Obligations.TileSaveResults := by
  intro s a b h
  have tsave (o : State) (ho : s.withTarget' (s.rg a) _ = o) : exec (.tsave a b) s = .next o := (issue_admits h _).trans (next_eq ho)
  have trestore (o : State) (ho : s.withTarget' (s.rg a) _ = o) : exec (.trestore a b) s = .next o := (issue_admits h _).trans (next_eq ho)
  refine ⟨fun hhigh => ⟨tsave _ (withTarget'_high hhigh _), trestore _ (withTarget'_high hhigh _)⟩, ?_⟩
  intro htile hnear hrights n refuse
  refine ⟨fun hcore hhere => ⟨tsave _ (withTarget'_own htile hnear hrights ⟨hcore, hhere⟩ _),
    trestore _ (withTarget'_own htile hnear hrights ⟨hcore, hhere⟩ _)⟩, fun hother => ?_⟩
  have past (f : Nat → State) : s.withTarget' (s.rg a) f = f n := withTarget'_other htile hnear hrights hother f
  refine ⟨fun hstate => tsave _ ((past _).trans (if_pos hstate)),
    fun hstate u xs halign hwalk => tsave _ ((past _).trans ((if_neg (not_not.mpr hstate)).trans (withImagePages_ok halign hwalk _))),
    fun hzero hstate => trestore _ ((past _).trans ((if_pos hzero).trans (if_pos hstate))),
    fun hzero hstate => trestore _ ((past _).trans ((if_pos hzero).trans ((if_neg (not_not.mpr hstate)).trans (by rw [hzero])))),
    fun himage hsaved hreset => trestore _ ((past _).trans ((if_neg himage).trans (if_pos ⟨hsaved, hreset⟩))), ?_⟩
  intro u xs himage halign hstate hwalk own v
  have hlive : ¬ ((s.tile n).state ≠ .saved ∧ (s.tile n).state ≠ .reset) := fun hneither => hstate.elim hneither.1 hneither.2
  have paged (o : State) (ho : _ = o) : exec (.trestore a b) s = .next o :=
    trestore o ((past _).trans ((if_neg himage).trans ((if_neg hlive).trans ((withImagePages_ok halign hwalk _).trans ho))))
  refine ⟨fun hsaved hforeign => paged _ (if_pos ⟨hsaved, hforeign⟩), fun hallowed => ?_⟩
  have hown : ¬ ((s.tile n).state = .saved ∧ (u.tile n).image ≠ (xs.headD (0, 0)).1) := fun hno =>
    hallowed.elim (fun hreset => by simp [hno.1] at hreset) hno.2
  exact ⟨fun hnames => paged _ ((if_neg hown).trans (if_neg (not_or.mpr ⟨not_not.mpr hnames.1, not_not.mpr hnames.2⟩))),
    fun hother' => paged _ ((if_neg hown).trans (if_pos hother'))⟩

end

end

-- ---- Translation instructions (O34) ----
section
/-!
PROOFS. Translation instructions. TLBINV, PGLOCK, PGSWITCH and CLWB are read off their checks; CLINV changes one core's caches and the buffers of its
threads, so its effect is stated on the core and on one thread first.
-/

open Sys2Proof.Machine

namespace Sys2Proof.Machine

/-! ## A table with every value changed -/

theorem look_mapVals {α : Type} (f : Nat → α → α) (l : Assoc α) (k : Nat) : Assoc.look (Assoc.mapVals f l) k = (Assoc.look l k).map (f k) := by
  induction l with
  | nil => rfl
  | cons p l ih =>
    have htail : Assoc.look (List.map (fun p => (p.1, f p.1 p.2)) l) k = (Assoc.look l k).map (f k) := ih
    by_cases h : p.1 = k
    · simp [Assoc.mapVals, Assoc.look, h]
    · simp [Assoc.mapVals, Assoc.look, h, htail]

theorem getD_mapVals {α : Type} {f : Nat → α → α} (l : Assoc α) {k : Nat} {d : α} (hd : f k d = d) :
    Assoc.getD (Assoc.mapVals f l) k d = f k (Assoc.getD l k d) := by
  unfold Assoc.getD
  rw [look_mapVals]
  cases Assoc.look l k with
  | none => exact hd.symm
  | some x => rfl

/-! ## Waiting for the stores -/

theorem released_now {s : State} (hack : s.cur.storeAck = 0) (hred : s.cur.redpend = 0) (f : State → State) : s.released f = f s :=
  if_pos ⟨hack, hred⟩

theorem released_later {s : State} (hopen : s.cur.storeAck ≠ 0 ∨ s.cur.redpend ≠ 0) (f : State → State) :
    s.released f = (s.postOf s.cur.name).stallFor 4 0 0 .released :=
  if_neg fun hnone => hopen.elim (fun h => h hnone.1) (fun h => h hnone.2)

theorem askPage_asks {s : State} {pa : Nat} (hack : s.cur.storeAck = 0) (hred : s.cur.redpend = 0) (hnet : s.netAdmits (gpaPkg pa) = true)
    (ea eb : Dword) (key : Nat) (op : PageOp) :
    s.askPage ea eb pa key op = (s.wait { k := 14, a := ea, v := eb, act := .done 0 }).send (if gpaPkg pa = s.pkg then 50 else 234) (gpaPkg pa)
      s.curOrigin (.page op (gpaLocal pa / 0x10000) key) :=
  (released_now hack hred _).trans (viaNet_admits hnet _ _)

/-! ## TLBINV (R391) -/

section

variable {s : State} {a b : GReg} (h : s.admits { ahead := false } [a, b] = true)
include h

theorem tlbinv_bad (hbad : tlbInvBad (s.rg b) = true) : exec (.tlbinv a b) s = .next (s.raise 0x01 0 (s.rg b) 0) :=
  (issue_admits h _).trans (next_eq (if_pos hbad))

variable (hgood : tlbInvBad (s.rg b) = false)
include hgood

theorem tlbinv_starts (hhand : s.cur.handFor = none) (hack : s.cur.storeAck = 0) (hred : s.cur.redpend = 0) :
    exec (.tlbinv a b) s = .next ((s.startTlbinv ((s.rg b).toNat % 4) (tlbInvOf s.cur.troot (s.rg a) (s.rg b))).pollWith
      (if (s.rg b).toNat % 4 = 0 then 32 else 1000) (s.rg a) [s.nextId, s.nextId]) := by
  refine (issue_admits h _).trans (next_eq ((if_neg (by simp [hgood])).trans ?_))
  simp only [hhand]
  exact released_now hack hred _

variable {i j : Nat} {q : Nat × Nat} (hhand : s.cur.handFor = some [i, j])
include hhand

theorem tlbinv_closed (hclosed : s.tlbinvOpen ((s.rg b).toNat % 4) (i, j) = (false, q)) : exec (.tlbinv a b) s = .next s.retire := by
  refine (issue_admits h _).trans (next_eq ((if_neg (by simp [hgood])).trans ?_))
  simp only [hhand, hclosed]

theorem tlbinv_polls (hopen : s.tlbinvOpen ((s.rg b).toNat % 4) (i, j) = (true, q)) :
    exec (.tlbinv a b) s = .next (s.pollWith 16 (s.rg a) [q.1, q.2]) := by
  refine (issue_admits h _).trans (next_eq ((if_neg (by simp [hgood])).trans ?_))
  simp only [hhand, hopen]

end

/-! ## PGLOCK and PGSWITCH (R392, R393) -/

section

variable {s : State} {a : GReg} {x : Access} (h : s.admits { ahead := false } [a] = true) (hx : s.checkCur (s.rg a) 1 false true = .ok x)
include h hx

theorem pglock_refused (hrefused : leafFixed x.leaf = true ∨ (gpaPkg x.pa = s.pkg ∧ (s.pageMove (gpaLocal x.pa / 0x10000)).isSome = true)) :
    exec (.pglock a) s = .next (s.raise 0x05 (s.rg a) 0 0) :=
  (issue_admits h _).trans (next_eq ((withAccess_ok hx _).trans (if_pos hrefused)))

theorem pglock_asks (hfree : ¬ (leafFixed x.leaf = true ∨ (gpaPkg x.pa = s.pkg ∧ (s.pageMove (gpaLocal x.pa / 0x10000)).isSome = true))) :
    exec (.pglock a) s = .next (s.askPage (s.rg a) 0 x.pa x.key .lock) :=
  (issue_admits h _).trans (next_eq ((withAccess_ok hx _).trans (if_neg hfree)))

end

section

variable {s : State} {a b : GReg} {x : Access} (h : s.admits { ahead := false } [a, b] = true)
  (hx : s.checkCur (s.rg a) 1 false true = .ok x)
include h hx

theorem pgswitch_finish_refused (hzero : s.rg b = 0)
    (hphase : (gpaPkg x.pa == s.pkg && !((s.pageMove (gpaLocal x.pa / 0x10000)).any fun m => m.target.isSome)) = true) :
    exec (.pgswitch a b) s = .next (s.raise 0x05 (s.rg a) 0 0) :=
  (issue_admits h _).trans (next_eq ((withAccess_ok hx _).trans ((if_pos hzero).trans (if_pos hphase))))

theorem pgswitch_finish_asks (hzero : s.rg b = 0)
    (hphase : (gpaPkg x.pa == s.pkg && !((s.pageMove (gpaLocal x.pa / 0x10000)).any fun m => m.target.isSome)) = false) :
    exec (.pgswitch a b) s = .next (s.askPage (s.rg a) 0 x.pa x.key .finish) :=
  (issue_admits h _).trans (next_eq ((withAccess_ok hx _).trans ((if_pos hzero).trans (if_neg (by simp [hphase])))))

theorem pgswitch_refused (hframe : s.rg b ≠ 0)
    (hphase : (gpaPkg x.pa == s.pkg && !((s.pageMove (gpaLocal x.pa / 0x10000)).any fun m => m.target.isNone && !m.frame)) = true) :
    exec (.pgswitch a b) s = .next (s.raise 0x05 (s.rg a) 0 0) :=
  (issue_admits h _).trans (next_eq ((withAccess_ok hx _).trans ((if_neg hframe).trans (if_pos hphase))))

variable {y : Access} (hframe : s.rg b ≠ 0)
  (hphase : (gpaPkg x.pa == s.pkg && !((s.pageMove (gpaLocal x.pa / 0x10000)).any fun m => m.target.isNone && !m.frame)) = false)
  (hy : s.checkCur (s.rg b) 1 false true = .ok y)
include hframe hphase hy

/-- Whether the new frame that PGSWITCH names may not take the page (R393). -/
def State.frameRefused (s : State) (eb : Dword) (x y : Access) : Prop :=
  eb.toNat % 0x10000 ≠ 0 ∨ leafFixed y.leaf = true ∨ y.pa / 0x10000 = x.pa / 0x10000 ∨
    (gpaPkg y.pa = s.pkg ∧ (s.pageMove (gpaLocal y.pa / 0x10000)).isSome = true)

theorem pgswitch_frame_refused (hrefused : s.frameRefused (s.rg b) x y) : exec (.pgswitch a b) s = .next (s.raise 0x05 (s.rg b) 0 0) :=
  (issue_admits h _).trans (next_eq ((withAccess_ok hx _).trans ((if_neg hframe).trans ((if_neg (by simp [hphase])).trans
    ((withAccess_ok hy _).trans (if_pos hrefused))))))

theorem pgswitch_asks (hfree : ¬ s.frameRefused (s.rg b) x y) :
    exec (.pgswitch a b) s = .next (s.askPage (s.rg a) (s.rg b) x.pa x.key (.switch (y.pa / 0x10000) x.key y.key)) :=
  (issue_admits h _).trans (next_eq ((withAccess_ok hx _).trans ((if_neg hframe).trans ((if_neg (by simp [hphase])).trans
    ((withAccess_ok hy _).trans (if_neg hfree))))))

end

/-! ## CLWB and CLINV (R395, R396) -/

/-- A thread whose buffers hold nothing loses nothing with a line. -/
theorem unprepare_bare {t : Thread} (hbuffer : t.buffer = []) (htargets : ∀ i (hi : i < 8), t.targets[i] = []) (line : Nat) :
    t.unprepare line = t := by
  have hprepared : (Vector.ofFn fun (i : Fin 8) => t.prepared[i] && !t.bufferHolds line i) = t.prepared :=
    Vector.ext fun i hi => by simp [Thread.bufferHolds, htargets]
  have htargets' : (Vector.ofFn fun (i : Fin 8) => if t.bufferHolds line i then [] else t.targets[i]) = t.targets :=
    Vector.ext fun i hi => by simp [Thread.bufferHolds, htargets]
  unfold Thread.unprepare
  rw [hprepared, htargets', hbuffer, List.filter_nil, ← hbuffer]

theorem unprepare_empty (line : Nat) : ({} : Thread).unprepare line = {} := unprepare_bare rfl (fun _ _ => Vector.getElem_replicate _) line

theorem unprepare_prepared (t : Thread) (line : Nat) (i : Fin 8) :
    (t.unprepare line).prepared[i] = true ↔ t.prepared[i] = true ∧ ∀ y ∈ t.targets[i], y.1 / 256 ≠ line := by
  simp [Thread.unprepare, Thread.bufferHolds]

theorem unprepare_targets (t : Thread) (line : Nat) (i : Fin 8) :
    (t.unprepare line).targets[i] = if t.targets[i].any (fun y => y.1 / 256 == line) then [] else t.targets[i] := by
  simp only [Thread.unprepare, Thread.bufferHolds, Fin.getElem_fin, Vector.getElem_ofFn]
  rfl

/-- The state after a line has left a core's caches and the buffers of its threads. -/
def State.dropLineAt (s : State) (core line : Nat) : State :=
  s.setCore core { (s.core core).dropLine line with
    ctxs := Assoc.mapVals (fun _ (t : Thread) => t.unprepare line) ((s.core core).dropLine line).ctxs }

theorem thread_dropLineAt (s : State) (core line ctx : Nat) : (s.dropLineAt core line).thread core ctx = (s.thread core ctx).unprepare line := by
  unfold State.dropLineAt State.thread
  rw [core_setCore_same]
  exact getD_mapVals (f := fun _ (t : Thread) => t.unprepare line) _ (unprepare_empty line)

section

variable {s : State} {a : GReg} {x : Access} (h : s.admits { ahead := false } [a] = true)
  (hx : s.checkCur (BitVec.ofNat 64 ((s.rg a).toNat / 256 * 256)) 1 true false = .ok x)
include h hx

theorem clwb_device (hdev : isDevice x.pa = true) :
    exec (.clwb a) s = .next (s.raise 0x05 (BitVec.ofNat 64 ((s.rg a).toNat / 256 * 256)) 0 0) :=
  (issue_admits h _).trans (next_eq ((withAccess_ok hx _).trans (if_pos hdev)))

theorem clinv_device (hdev : isDevice x.pa = true) :
    exec (.clinv a) s = .next (s.raise 0x05 (BitVec.ofNat 64 ((s.rg a).toNat / 256 * 256)) 0 0) :=
  (issue_admits h _).trans (next_eq ((withAccess_ok hx _).trans (if_pos hdev)))

variable (hmem : isDevice x.pa = false)
include hmem

theorem clwb_scratch (howner : (ownerCore (gpaLocal x.pa)).isSome = true) : exec (.clwb a) s = .next s.retire :=
  (issue_admits h _).trans (next_eq ((withAccess_ok hx _).trans ((if_neg (by simp [hmem])).trans (if_pos howner))))

theorem clwb_sends (howner : ownerCore (gpaLocal x.pa) = none) (hnet : s.netAdmits (gpaPkg x.pa) = true) :
    exec (.clwb a) s = .next (((s.postGathered fun m => m.origin.core == s.focus.core && m.origin.pkg == s.pkg &&
        m.unacked.any fun w => w / 64 == x.pa / 256).wait
          { k := 14, a := BitVec.ofNat 64 ((s.rg a).toNat / 256 * 256), act := .done 0 }).send (s.latency s.focus.core x.pa / 2) (gpaPkg x.pa)
        s.curOrigin (.page (.clean (gpaLocal x.pa / 256)) (gpaLocal x.pa / 0x10000) x.key)) :=
  (issue_admits h _).trans (next_eq ((withAccess_ok hx _).trans ((if_neg (by simp [hmem])).trans ((if_neg (by simp [howner])).trans
    (viaNet_admits hnet _ _)))))

theorem clinv_drops : exec (.clinv a) s = .next (s.dropLineAt s.focus.core (x.pa / 256)).retire :=
  (issue_admits h _).trans (next_eq ((withAccess_ok hx _).trans (if_neg (by simp [hmem]))))

end

section

variable (s : State) (line : Nat)

theorem core_dropLineAt_retire_icache :
    ((s.dropLineAt s.focus.core line).retire.core s.focus.core).icache = (s.core s.focus.core).icache.filter (fun l => l.1 != line) := by
  simp [State.dropLineAt, State.retire, State.modCur, State.setCur, State.setThread, Core.dropLine]

theorem core_dropLineAt_retire_l1 :
    ((s.dropLineAt s.focus.core line).retire.core s.focus.core).l1 = (s.core s.focus.core).l1.filter (fun q => q.1 / 4 != line) := by
  simp [State.dropLineAt, State.retire, State.modCur, State.setCur, State.setThread, Core.dropLine]

theorem core_dropLineAt_retire_other {i : Nat} (hi : i ≠ s.focus.core) : (s.dropLineAt s.focus.core line).retire.core i = s.core i :=
  (core_setCore_other _ _ hi).trans (core_setCore_other _ _ hi)

theorem cur_dropLineAt_retire : (s.dropLineAt s.focus.core line).retire.cur = (s.cur.unprepare line).retire :=
  (cur_retire _).trans (congrArg Thread.retire (thread_dropLineAt s s.focus.core line s.focus.ctx))

theorem thread_dropLineAt_retire (ctx : Nat) : (s.dropLineAt s.focus.core line).retire.thread s.focus.core ctx =
    if ctx = s.focus.ctx then ((s.thread s.focus.core ctx).unprepare line).retire else (s.thread s.focus.core ctx).unprepare line := by
  split
  · next hctx =>
    subst hctx
    exact cur_dropLineAt_retire s line
  · next hctx =>
    exact (thread_modCur_other (s.dropLineAt s.focus.core line) _ fun e => hctx (congrArg Prod.snd e)).trans (thread_dropLineAt s _ line ctx)

end

end Sys2Proof.Machine

section

open Sys2Proof Sys2Proof.Machine

/-- Settles O34, word by word. -/
theorem translationResults : Obligations.TranslationResults := by
  refine ⟨fun s a b h => ⟨tlbinv_bad h, fun hgood => ⟨tlbinv_starts h hgood, fun i j q => tlbinv_closed h hgood,
    fun i j q => tlbinv_polls h hgood⟩⟩, ⟨?_, ?_⟩, ?_⟩
  · intro s a x h hx moving
    have hmoving : moving = true ↔ gpaPkg x.pa = s.pkg ∧ (s.pageMove (gpaLocal x.pa / 0x10000)).isSome = true := by
      simp only [moving, Bool.and_eq_true, decide_eq_true_eq]
    have asks (hleaf : leafFixed x.leaf = false) (hstill : moving = false) := pglock_asks h hx fun hrefused =>
      hrefused.elim (by simp [hleaf]) fun hmove => by simp [hmoving.mpr hmove] at hstill
    refine ⟨fun hrefused => pglock_refused h hx (hrefused.imp_right hmoving.mp), fun hleaf hstill hack hred hnet => ?_,
      fun hleaf hstill hopen => ?_⟩
    · exact (asks hleaf hstill).trans (next_eq (askPage_asks hack hred hnet _ _ _ _))
    · exact (asks hleaf hstill).trans (next_eq (released_later hopen _))
  · intro s a b x h hx old asks
    refine ⟨fun hzero => ⟨fun hmay hack hred hnet => ?_, fun hhere hphase => ?_⟩,
      fun hframe => ⟨fun hhere hphase => ?_, fun y hmay hy => ?_⟩⟩
    · refine (pgswitch_finish_asks h hx hzero ?_).trans (next_eq (askPage_asks hack hred hnet _ _ _ _))
      rcases hmay with hfar | ⟨m, hold, htarget⟩
      · simp [hfar]
      · simp [show s.pageMove (gpaLocal x.pa / 0x10000) = some m from hold, htarget]
    · refine pgswitch_finish_refused h hx hzero ?_
      cases hold : s.pageMove (gpaLocal x.pa / 0x10000) with
      | none => simp [hhere]
      | some m => simp [hhere, hphase m hold]
    · refine pgswitch_refused h hx hframe ?_
      cases hold : s.pageMove (gpaLocal x.pa / 0x10000) with
      | none => simp [hhere]
      | some m => rcases hphase m hold with htarget | hlocked <;> simp_all
    · have hphase : (gpaPkg x.pa == s.pkg && !((s.pageMove (gpaLocal x.pa / 0x10000)).any fun m => m.target.isNone && !m.frame)) = false := by
        rcases hmay with hfar | ⟨m, hold, htarget, hlocked⟩
        · simp [hfar]
        · simp [show s.pageMove (gpaLocal x.pa / 0x10000) = some m from hold, htarget, hlocked]
      exact ⟨pgswitch_frame_refused h hx hframe hphase hy, fun hfree hack hred hnet =>
        (pgswitch_asks h hx hframe hphase hy hfree).trans (next_eq (askPage_asks hack hred hnet _ _ _ _))⟩
  · intro s a x h ea hx
    refine ⟨fun hdev => ⟨clwb_device h hx hdev, clinv_device h hx hdev⟩, clwb_scratch h hx,
      fun hmem howner hnet => ⟨_, clwb_sends h hx hmem howner hnet, rfl⟩, fun hmem => ⟨_, clinv_drops h hx hmem, ?_⟩⟩
    refine ⟨core_dropLineAt_retire_icache s _, core_dropLineAt_retire_l1 s _, ?_, ?_, fun ctx => ?_,
      fun i hi => core_dropLineAt_retire_other s _ hi, rfl, rfl, fun y k => ?_⟩
    · rw [cur_dropLineAt_retire, retire_pfxst]
    · rw [cur_dropLineAt_retire, retire_pc]
      rfl
    · exact ⟨_, thread_dropLineAt_retire s _ ctx, fun i => ⟨unprepare_prepared _ _ i, unprepare_targets _ _ i⟩, rfl, rfl⟩
    · exact (byte_modCur _ _ y k).trans (byte_setCore s _ _ y k)

end

end

-- ---- Ports and the transport (O45) ----
section
/-!
PROOFS. Ports and the transport. An event of a port is its change of the port's record; what leaves the spray sets is read off the port's mode.
-/

open Sys2Proof.Machine

namespace Sys2Proof.Machine

section

variable {s : State}

/-! ## Ports (R399, R402, R410, R424) -/

theorem portOn_eq {i : Nat} (hi : i < 32) (hpower : s.health.power ≠ .minimal ∨ i = 0) : s.portOn i = true := by
  rcases hpower with hpower | rfl <;> simp [State.portOn, *]

theorem portOn_minimal {i : Nat} (hpower : s.health.power = .minimal) (hi : i ≠ 0) : s.portOn i = false := by
  simp [State.portOn, hpower, hi]

theorem linkUp_sets (hon : s.portOn s.subject.a = true) (hn : s.subject.b ≤ 8) : exec .linkUp s =
    .next ((s.modPort s.subject.a fun p => ({ p with up := true } : Port).withLanes s.subject.b).unspray s.subject.a) :=
  next_eq (if_pos ⟨hon, hn⟩)

theorem laneChange_sets (hon : s.portOn s.subject.a = true) (hn : s.subject.b ≤ 8) :
    exec .laneChange s = .next ((s.modPort s.subject.a fun p => p.withLanes s.subject.b).unspray s.subject.a) :=
  next_eq (if_pos ⟨hon, hn⟩)

theorem linkUp_off (hoff : s.portOn s.subject.a = false) : exec .linkUp s = .next s :=
  next_eq (if_neg fun h => by simp [hoff] at h)

theorem laneChange_off (hoff : s.portOn s.subject.a = false) : exec .laneChange s = .next s :=
  next_eq (if_neg fun h => by simp [hoff] at h)

@[simp] theorem port_modPort_same (i : Nat) (f : Port → Port) : (s.modPort i f).port i = f (s.port i) := getD_insert_same _ _ _ _

theorem withLanes_vcmode (p : Port) {n : Nat} (hn : 3 ≤ n) : (p.withLanes n).vcmode ≠ 3 := by
  unfold Port.withLanes
  dsimp only
  rcases Nat.lt_or_ge n 6 with hlow | hhigh
  · rw [if_neg (by omega), if_pos hn]
    decide
  · rw [if_pos hhigh]
    decide

theorem unspray_wide {i n : Nat} (hn : 3 ≤ n) : (s.modPort i fun p => p.withLanes n).unspray i = s.modPort i fun p => p.withLanes n :=
  if_neg (by rw [port_modPort_same]; exact withLanes_vcmode _ hn)

theorem look_unspray (i r : Nat) : Assoc.look (s.unspray i).routes r = (Assoc.look s.routes r).map fun x =>
    if (s.port i).vcmode = 3 then x &&& ~~~(1#32 <<< i) else x := by
  unfold State.unspray
  split
  · exact look_mapVals (fun _ x => x &&& ~~~(1#32 <<< i)) s.routes r
  · exact Option.map_id'.symm

theorem linkRetire_sets (hi : s.subject.a < 32) : exec .linkRetire s =
    .next ((s.modPort s.subject.a fun p => p.withLanes (if p.lanes.toNat ≤ 1 then p.lanes.toNat else 0)).unspray s.subject.a) :=
  next_eq (if_pos hi)

theorem linkLevelRetry_counts (hi : s.subject.a < 32) :
    exec .linkLevelRetry s = .next (s.modPort s.subject.a fun p => { p with retries := countUp p.retries }) :=
  next_eq (if_pos hi)

/-! ## Frames that do not arrive (R404, R424) -/

theorem ingressDrop_drops (hi : s.subject.a < 32) : exec .ingressDrop s =
    .next (({ s with flight := s.flight.filter fun m => !(m.id + 1 == s.subject.b && s.droppable m) } : State).modPort s.subject.a fun p =>
      { p with errors := countUp p.errors }) :=
  next_eq (if_pos hi)

theorem ingressDrop_unnamed (hi : s.subject.a < 32) (hb : s.subject.b = 0) :
    exec .ingressDrop s = .next (s.modPort s.subject.a fun p => { p with errors := countUp p.errors }) := by
  have hall : (s.flight.filter fun m => !(m.id + 1 == s.subject.b && s.droppable m)) = s.flight :=
    List.filter_eq_self.mpr fun m _ => by simp [hb]
  rw [ingressDrop_drops hi, hall]

theorem droppable_own {m : Msg} (hmgmt : ∀ f, m.body ≠ .mgmt f) (hknown : ∀ src port, m.body ≠ .unknown src port)
    (haway : m.dst ≠ s.pkg ∨ m.delivered = true ∨ m.head = none) : s.droppable m = false := by
  have hport : s.atPort m = false := by
    rcases haway with h | h | h <;> simp [State.atPort, h]
  unfold State.droppable
  rw [hport, Bool.false_or]
  split
  · next f hbody => exact absurd hbody (hmgmt f)
  · next src port hbody => exact absurd hbody (hknown src port)
  · rfl

/-! ## The transport (R405, R406, R409, R430) -/

theorem dedupWindowIdle_frees {w : Window} (hw : s.window s.subject.a s.subject.b = some w) (hbelow : ∀ e ∈ w.entries, numberBelow e.1 w.lus = true)
    (hidle : w.last + Config.second / 1000 ≤ s.cycle) : exec .dedupWindowIdle s =
      .next { s with windows := s.windows.filter fun (x : Window) => !(x.source == w.source && x.gateway == w.gateway) } := by
  have hfree : (w.entries.all (fun e => numberBelow e.1 w.lus) && decide (w.last + Config.second / 1000 ≤ s.cycle)) = true := by
    rw [List.all_eq_true.mpr hbelow, decide_eq_true hidle]
    rfl
  show execDedupWindowIdle s = _
  simp only [execDedupWindowIdle, event, hw, if_pos hfree]

theorem resetDropWindow_records {d : DropWindow} (hdrops : (s.core s.subject.a).drops = [d]) (hended : d.till ≤ s.cycle) :
    exec .resetDropWindow s = .next ((s.setCore s.subject.a { s.core s.subject.a with drops := [] }).record s.subject.a d.faultrec d.troot d.job
      (d.code.toNat + nostopBit) 0 d.first d.name.toNat d.place d.count) := by
  show execResetDropWindow s = _
  simp [execResetDropWindow, event, hdrops, hended]

section

variable {m : Msg} (hmsg : s.msg? s.subject.a = some m) (hdst : m.dst ≠ s.pkg) (hsent : m.sent ≠ 0)
include hmsg hdst hsent

theorem transportTimeout_resends (htries : m.tries < 8) (hreach : s.reachable m.origin.core m.dst = true) :
    exec .transportTimeout s = .next (s.modMsg m.id fun m => { m with tries := m.tries + 1, sent := 0 }) := by
  have hgo : ¬ (8 ≤ m.tries ∨ (!s.reachable m.origin.core m.dst) = true) := by simp [hreach, htries]
  show execTransportTimeout s = _
  simp only [execTransportTimeout, event, hmsg, if_neg (not_or.mpr ⟨hdst, hsent⟩), if_neg hgo]

theorem transportTimeout_givesUp (hlost : 8 ≤ m.tries ∨ s.reachable m.origin.core m.dst = false) :
    exec .transportTimeout s = .next ((s.refuse m 0x12 0 (BitVec.ofNat 64 (m.body.target m.dst))).netFreed m.origin.core) := by
  have hstop : 8 ≤ m.tries ∨ (!s.reachable m.origin.core m.dst) = true := by simpa using hlost
  show execTransportTimeout s = _
  simp only [execTransportTimeout, event, hmsg, if_neg (not_or.mpr ⟨hdst, hsent⟩), if_pos hstop]
  rfl

end

end

end Sys2Proof.Machine

section

open Sys2Proof Sys2Proof.Machine

/-- Settles O45, event by event. -/
theorem fabricEvents : Obligations.FabricEvents := by
  intro s
  refine ⟨fun i n ha hb hi hpower hn => ?_, fun hpower ha => ?_, fun hi => ?_, fun m => droppable_own, look_unspray,
    fun w => dedupWindowIdle_frees, rfl, fun d => resetDropWindow_records, fun m hmsg hdst hsent => ?_⟩
  · subst ha hb
    exact ⟨linkUp_sets (portOn_eq hi hpower) hn, laneChange_sets (portOn_eq hi hpower) hn, unspray_wide⟩
  · exact ⟨linkUp_off (portOn_minimal hpower ha), laneChange_off (portOn_minimal hpower ha)⟩
  · exact ⟨linkRetire_sets hi, linkLevelRetry_counts hi, ingressDrop_unnamed hi, fun _ => ingressDrop_drops hi⟩
  · exact ⟨transportTimeout_resends hmsg hdst hsent, transportTimeout_givesUp hmsg hdst hsent⟩

end

end

-- ---- Health, leadership and management frames (O47) ----
section
/-!
PROOFS. Health, leadership and management frames. Each event is an equation per case of what it asks; those of one event stand together, in the order
of the model.
-/

open Sys2Proof.Machine

namespace Sys2Proof.Machine

section

variable {s : State}

/-! ## Starts (R414, R419) -/

theorem powerGood_starts (ha : s.subject.a = 1) (hoff : s.health.power = .off) : exec .powerGood s = .next s.start :=
  next_eq ((if_pos ha).trans (if_pos hoff))

theorem powerGood_on (ha : s.subject.a = 1) (hon : s.health.power ≠ .off) : exec .powerGood s = .next s :=
  next_eq ((if_pos ha).trans (if_neg hon))

theorem powerGood_cold (ha : s.subject.a ≠ 1) : exec .powerGood s = .next
    ({ s.afterReset false with health :=
      { (s.afterReset false).health with bootCount := 0, bootReasons := 0, mirrorOn := false, keyed := false } } : State).start :=
  next_eq (if_neg ha)

theorem startokTimeout_fails (hpower : s.health.power = .running) (hok : s.health.startOk = false) (ha : s.health.starts = s.subject.a) :
    exec .startokTimeout s = .next (s.failStart 4) :=
  next_eq (if_pos ⟨hpower, by simp [hok], ha⟩)

theorem startokTimeout_confirmed (hok : s.health.startOk = true) : exec .startokTimeout s = .next s :=
  next_eq (if_neg fun h => by simp [hok] at h)

/-! ## Lost cores and spares (R425, R426) -/

theorem partFailed_core {part : Nat} (hpart : part < Config.allCores) (hlost : (s.core part).lost = true) : s.partFailed 0 part = true := by
  simp [State.partFailed, hpart, hlost]

theorem partFailed_other {kind part : Nat} (hkind : kind ≠ 0) : s.partFailed kind part = true ↔ (kind, part) ∈ s.health.failed := by
  simp [State.partFailed, hkind]

theorem coreLost_core (hkind : s.subject.b = 0) (hcore : s.subject.a < Config.allCores) (hin : (s.core s.subject.a).lost = false) :
    let core := s.subject.a
    let ctxs := Assoc.keys (s.core core).ctxs
    let u := ctxs.foldl (fun (u : State) x => u.loseStub core x) (s.loseArrivals core)
    let live := ctxs.filter fun x => (u.thread core x).st != .free
    let w := (live.foldl (fun (v : State) x => v.loseThread core x) u).loseReads core
    let c := w.core core
    exec .coreLost s = .next ((w.setCore core
      { gens := live.foldl (fun g x => Assoc.insert g x (Assoc.getD g x 0 + 1)) c.gens
        namePtr := c.namePtr, quantum := c.quantum, admcap := c.admcap, breakpoints := c.breakpoints, breakStores := c.breakStores
        dequeTop := c.dequeTop, dequeCount := c.dequeCount, dequeAfter := c.dequeAfter, spillQueue := c.spillQueue, records := c.records
        lastResorts := c.lastResorts, l1Epoch := c.l1Epoch + 1, verdicts := c.verdicts, lost := true }).notice
      (w.cycle + 1000000) .spareReplace { a := core }) :=
  next_eq ((if_neg (by omega)).trans (if_neg (by simp [hkind, hin, hcore])))

theorem coreLost_again (hkind : s.subject.b = 0) (hgone : Config.allCores ≤ s.subject.a ∨ (s.core s.subject.a).lost = true) :
    exec .coreLost s = .next s :=
  next_eq ((if_neg (by omega)).trans (if_pos (Or.inr hgone)))

theorem coreLost_part (hkind : s.subject.b = 1 ∨ s.subject.b = 2) (hpart : s.subject.a < 256)
    (hnew : (s.subject.b, s.subject.a) ∉ s.health.failed) : exec .coreLost s =
      .next (({ s with health := { s.health with failed := s.health.failed ++ [(s.subject.b, s.subject.a)] } } : State).notice
        (s.cycle + 1000000) .spareReplace { a := s.subject.a, b := s.subject.b }) := by
  have hstands : ¬ s.partFailed s.subject.b s.subject.a = true := fun h => hnew ((partFailed_other (by omega)).mp h)
  exact next_eq ((if_pos hkind).trans (if_neg (not_or.mpr ⟨Nat.not_le.mpr hpart, hstands⟩)))

theorem coreLost_part_again (hkind : s.subject.b = 1 ∨ s.subject.b = 2)
    (hknown : 256 ≤ s.subject.a ∨ (s.subject.b, s.subject.a) ∈ s.health.failed) : exec .coreLost s = .next s :=
  next_eq ((if_pos hkind).trans (if_pos (hknown.imp_right (partFailed_other (by omega)).mpr)))

/-- The state after a spare is taken for a part: it is counted, and the part is no longer among the failed ones. -/
def State.spareTaken (s : State) (kind part k : Nat) : State :=
  { s with health :=
    { s.health with spares := Assoc.insert s.health.spares k (Assoc.getD s.health.spares k 0 + 1), spared := s.health.spared + 1
                    failed := s.health.failed.filter fun x => x != (kind, part) } }

/-- The state after a lost core, or the core of a lost channel, that a spare stands for is in service again. -/
def State.backInService (s : State) (kind part : Nat) : State :=
  match if kind = 0 then some part else if kind = 2 then some (640 + part) else none with
  | some c => if (s.core c).lost then s.setCore c { s.core c with lost := false } else s
  | none => s

theorem replacePart_none_left {kind part k n : Nat} (hspares : sparesOf kind part = (k, some n)) (hused : n ≤ Assoc.getD s.health.spares k 0) :
    s.replacePart kind part = s := by
  simp [State.replacePart, hspares, hused]

theorem replacePart_takes {kind part k : Nat} {most : Option Nat} (hspares : sparesOf kind part = (k, most))
    (hfailed : s.partFailed kind part = true) (hleft : ∀ n, most = some n → Assoc.getD s.health.spares k 0 < n) :
    s.replacePart kind part = (s.spareTaken kind part k).backInService kind part := by
  cases most with
  | none =>
    simp only [State.replacePart, hspares]
    exact if_neg (by simp [hfailed])
  | some n =>
    simp only [State.replacePart, hspares]
    exact if_neg (by simp [hfailed, hleft n rfl])

theorem backInService_core {part : Nat} (hlost : (s.core part).lost = true) :
    s.backInService 0 part = s.setCore part { s.core part with lost := false } := if_pos hlost

theorem backInService_slice (part : Nat) : s.backInService 1 part = s := rfl

theorem backInService_channel {part : Nat} (hlost : (s.core (640 + part)).lost = true) :
    s.backInService 2 part = s.setCore (640 + part) { s.core (640 + part) with lost := false } := if_pos hlost

theorem backInService_channel_in {part : Nat} (hin : (s.core (640 + part)).lost = false) : s.backInService 2 part = s :=
  if_neg (by simp [hin])

theorem spareReplace_none_left {k n : Nat} (hspares : sparesOf s.subject.b s.subject.a = (k, some n))
    (hused : n ≤ Assoc.getD s.health.spares k 0) : exec .spareReplace s = .next s :=
  next_eq (replacePart_none_left hspares hused)

theorem spareReplace_takes {k : Nat} {most : Option Nat} (hspares : sparesOf s.subject.b s.subject.a = (k, most))
    (hfailed : s.partFailed s.subject.b s.subject.a = true) (hleft : ∀ n, most = some n → Assoc.getD s.health.spares k 0 < n) :
    exec .spareReplace s = .next ((s.spareTaken s.subject.b s.subject.a k).backInService s.subject.b s.subject.a) :=
  next_eq (replacePart_takes hspares hfailed hleft)

/-! ## Storage errors (R427) -/

/-- The state with one more uncorrectable error counted. -/
def State.countedError (s : State) : State := { s with health := { s.health with uncorrected := s.health.uncorrected + 1 } }

theorem uncorrectableError_context (hb : s.subject.b = 0) : exec .uncorrectableError s =
    .next (s.countedError.contextError (s.subject.a / 256) (s.subject.a % 256) s.subject.word) := by
  show execUncorrectableError s = _
  simp only [execUncorrectableError, event, hb]
  rfl

theorem uncorrectableError_l1 (hb : s.subject.b = 1) : exec .uncorrectableError s =
    .next (let v := s.countedError.l1Error s.subject.word.toNat s.subject.a
           let c := v.core s.subject.word.toNat
           v.setCore s.subject.word.toNat { c with icache := c.icache.filter fun x => x.1 != s.subject.a / 64 }) := by
  show execUncorrectableError s = _
  simp only [execUncorrectableError, event, hb]
  rfl

theorem uncorrectableError_memory (hb : s.subject.b = 2) : exec .uncorrectableError s = .next (s.countedError.markPoison s.subject.a) := by
  show execUncorrectableError s = _
  simp only [execUncorrectableError, event, hb]
  rfl

theorem uncorrectableError_operand (hb : s.subject.b = 3) : exec .uncorrectableError s =
    .next (let t := s.countedError.tile (s.subject.a / 32)
           let o := t.opSlot (s.subject.a % 32)
           s.countedError.setTile (s.subject.a / 32)
             (t.setOpSlot (s.subject.a % 32) { o with poison := o.poison ++ [s.subject.word.toNat % 4096] })) := by
  show execUncorrectableError s = _
  simp only [execUncorrectableError, event, hb]
  rfl

theorem uncorrectableError_accumulator (hb : s.subject.b = 4) : exec .uncorrectableError s =
    .next (s.countedError.setTile (s.subject.a / 64) ((s.countedError.tile (s.subject.a / 64)).modAcc (s.subject.a % 64) fun x =>
      { x with poison := x.poison ++ [s.subject.word.toNat % 4096] })) := by
  show execUncorrectableError s = _
  simp only [execUncorrectableError, event, hb]
  rfl

theorem uncorrectableError_home (hb : s.subject.b = 5) : exec .uncorrectableError s = .next (s.countedError.markHome s.subject.a) := by
  show execUncorrectableError s = _
  simp only [execUncorrectableError, event, hb]
  rfl

theorem uncorrectableError_unknown (hb : 5 < s.subject.b) : exec .uncorrectableError s = .next s.countedError := by
  obtain ⟨n, hn⟩ : ∃ n, s.subject.b = n + 6 := ⟨s.subject.b - 6, by omega⟩
  show execUncorrectableError s = _
  simp only [execUncorrectableError, event, hn]
  rfl

/-- The state with the errors that a scrub corrected counted. -/
def State.countedScrub (s : State) : State :=
  { s with health := { s.health with corrected := s.health.corrected + BitVec.ofNat 64 s.subject.a } }

theorem scrub_slices (hb : s.subject.b = 1) :
    exec .scrub s = .next (s.countedScrub.notice (s.cycle + Config.second) .scrub { b := 1 }) := by
  show execScrub s = _
  simp only [execScrub, event, hb]
  rfl

theorem scrub_memory (hb : s.subject.b = 2) :
    exec .scrub s = .next (s.countedScrub.notice (s.cycle + 86400 * Config.second) .scrub { b := 2 }) := by
  show execScrub s = _
  simp only [execScrub, event, hb]
  rfl

theorem scrub_other (hslices : s.subject.b ≠ 1) (hmemory : s.subject.b ≠ 2) : exec .scrub s = .next s.countedScrub := by
  show execScrub s = _
  simp only [execScrub, event]
  rfl

/-! ## Quotes (R418) -/

theorem quoteDone_writes (hquote : s.health.quote = some s.subject.a) : exec .quoteDone s =
    .next (({ s with health := { s.health with quote := none } } : State).deviceWrite (gpa s.pkg s.subject.a) 0
      (s.quoteBytes.take (0xC000000000 - s.subject.a))) := by
  show execQuoteDone s = _
  simp only [execQuoteDone, event, hquote]
  exact next_eq (if_neg (not_not.mpr rfl))

theorem quoteDone_other (hquote : s.health.quote ≠ some s.subject.a) : exec .quoteDone s = .next s := by
  show execQuoteDone s = _
  simp only [execQuoteDone, event]
  split
  · next a ha => exact next_eq (if_pos fun he => hquote (ha.trans (congrArg some he)))
  · rfl

/-! ## The election (R422) -/

theorem heartbeatTimer_off (hpower : s.health.power ≠ .running) : exec .heartbeatTimer s = .next s := next_eq (if_pos hpower)

/-- The state after a package has sent its heartbeats. -/
def State.heartbeats (s : State) : State :=
  (List.range 4096).foldl (fun (u : State) i =>
    if domainOf s.pkg * 4096 + i ≠ u.pkg ∧ u.reachable 0 (domainOf s.pkg * 4096 + i) = true then
      u.postOut (domainOf s.pkg * 4096 + i) { pkg := u.pkg }
        (.heartbeat u.pkg s.health.term.toNat (if s.health.settled then s.health.leader else u.pkg) s.health.isLeader)
    else u) s

theorem heartbeatTimer_sends (hpower : s.health.power = .running) :
    exec .heartbeatTimer s = .next (s.heartbeats.notice (s.heartbeats.cycle + heartbeatCycles) .heartbeatTimer {}) :=
  next_eq (if_neg (not_not.mpr hpower))

/-- What a package notes of any heartbeat of its domain. -/
def State.healthHearing (s : State) (pkg term : Nat) : Health :=
  { s.health with maxTerm := BitVec.ofNat 32 (max s.health.maxTerm.toNat term)
                  heardLower := if pkg < s.pkg then some s.cycle else s.health.heardLower }

/-- What a package notes that follows the sender of a heartbeat. -/
def Health.following (h : Health) (pkg term cycle : Nat) : Health :=
  { h with isLeader := false, settled := true, leader := pkg, term := BitVec.ofNat 32 term, heardLeader := cycle }

/-- The state after a heartbeat is heard: what the package notes of it stands, and its silence is due again. -/
def State.hears (s : State) (h : Health) : State := ({ s with health := h }).notice (s.cycle + leaderCycles) .leaderTimeout {}

/-- Whether a package follows the sender of a heartbeat. -/
def Health.follows (h : Health) (pkg term : Nat) (isLeader : Bool) : Bool :=
  isLeader && (if h.settled then h.leader == pkg && !h.isLeader || leaderWins term pkg h.term.toNat h.leader else true)

theorem follows_leader {h : Health} {pkg term : Nat}
    (hwins : h.settled = true → (h.leader = pkg ∧ h.isLeader = false) ∨ leaderWins term pkg h.term.toNat h.leader = true) :
    h.follows pkg term true = true := by
  unfold Health.follows
  cases hs : h.settled with
  | false => rfl
  | true => simpa using hwins hs

theorem follows_not {h : Health} {pkg term : Nat} {isLeader : Bool}
    (hstays : isLeader = false ∨
      h.settled = true ∧ (h.leader ≠ pkg ∨ h.isLeader = true) ∧ leaderWins term pkg h.term.toNat h.leader = false) :
    h.follows pkg term isLeader = false := by
  unfold Health.follows
  rcases hstays with rfl | ⟨hsettled, hother, hloses⟩
  · rfl
  · rcases hother with hother | hown <;> simp [*]

section

variable {m : Msg} {pkg term lead : Nat} {isLeader : Bool} (hmsg : s.msg? s.subject.a = some m)
  (hbody : m.body = .heartbeat pkg term lead isLeader) (hdedup : m.dedup = none)
include hmsg hbody hdedup

theorem heartbeat_ignored (hout : (s.answer 1 m (.ack true [] [] 0)).health.power ≠ .running ∨
      domainOf pkg ≠ domainOf (s.answer 1 m (.ack true [] [] 0)).pkg) :
    exec .heartbeat s = .next (s.answer 1 m (.ack true [] [] 0)) := by
  show execHeartbeat s = _
  simp only [execHeartbeat, event, hmsg, hbody, once_of_no_dedup hdedup]
  exact next_eq (if_pos hout)

variable (hpower : (s.answer 1 m (.ack true [] [] 0)).health.power = .running)
  (hdom : domainOf pkg = domainOf (s.answer 1 m (.ack true [] [] 0)).pkg)
include hpower hdom

theorem heartbeat_heard : exec .heartbeat s =
    let u := s.answer 1 m (.ack true [] [] 0)
    let h := u.healthHearing pkg term
    .next (u.hears (if (h.follows pkg term isLeader) = true then h.following pkg term u.cycle else h)) := by
  show execHeartbeat s = _
  simp only [execHeartbeat, event, hmsg, hbody, once_of_no_dedup hdedup]
  exact next_eq (if_neg (not_or.mpr ⟨not_not.mpr hpower, not_not.mpr hdom⟩))

theorem heartbeat_followed (hfollow : ((s.answer 1 m (.ack true [] [] 0)).healthHearing pkg term).follows pkg term isLeader = true) :
    exec .heartbeat s =
      let u := s.answer 1 m (.ack true [] [] 0)
      .next (u.hears ((u.healthHearing pkg term).following pkg term u.cycle)) :=
  (heartbeat_heard hmsg hbody hdedup hpower hdom).trans (next_eq (congrArg _ (if_pos hfollow)))

theorem heartbeat_noted (hstays : ((s.answer 1 m (.ack true [] [] 0)).healthHearing pkg term).follows pkg term isLeader = false) :
    exec .heartbeat s =
      let u := s.answer 1 m (.ack true [] [] 0)
      .next (u.hears (u.healthHearing pkg term)) :=
  (heartbeat_heard hmsg hbody hdedup hpower hdom).trans (next_eq (congrArg _ (if_neg (by simp [hstays]))))

end

theorem leaderTimeout_stands (hpower : s.health.power = .running) (hfollows : s.health.isLeader = false)
    (hsilent : s.health.heardLeader + leaderCycles ≤ s.cycle) (hlower : ∀ c, s.health.heardLower = some c → c + leaderCycles ≤ s.cycle) :
    exec .leaderTimeout s = .next { s with health :=
      { s.health with isLeader := true, settled := true, leader := s.pkg, term := s.health.maxTerm + 1, maxTerm := s.health.maxTerm + 1 } } := by
  have hdue : ¬ (s.health.power ≠ .running ∨ s.health.isLeader = true ∨ s.cycle < s.health.heardLeader + leaderCycles) := by
    simp [hpower, hfollows, hsilent]
  refine next_eq ((if_neg hdue).trans (if_neg ?_))
  cases hheard : s.health.heardLower with
  | none => simp
  | some c => simp [hlower c hheard]

theorem leaderTimeout_yields (hpower : s.health.power = .running) (hfollows : s.health.isLeader = false)
    (hsilent : s.health.heardLeader + leaderCycles ≤ s.cycle) {c : Nat} (hheard : s.health.heardLower = some c)
    (hlower : s.cycle < c + leaderCycles) : exec .leaderTimeout s = .next { s with health := { s.health with settled := false } } := by
  have hdue : ¬ (s.health.power ≠ .running ∨ s.health.isLeader = true ∨ s.cycle < s.health.heardLeader + leaderCycles) := by
    simp [hpower, hfollows, hsilent]
  exact next_eq ((if_neg hdue).trans (if_pos (by simp [hheard, hlower])))

theorem leaderTimeout_early (hearly : s.health.power ≠ .running ∨ s.health.isLeader = true ∨ s.cycle < s.health.heardLeader + leaderCycles) :
    exec .leaderTimeout s = .next s := next_eq (if_pos hearly)

/-! ## Sampling and temperature (R428, R430) -/

/-- The state after a pulse is counted. -/
def State.pulsed (s : State) : State := { s with health := { s.health with sampleArmed := false, pulses := s.health.pulses + 1 } }

theorem samplePulse_other (hother : s.health.sampleArmed = false ∨ s.health.sample.toNat ≠ s.subject.a) : exec .samplePulse s = .next s :=
  next_eq (if_pos (hother.imp_left fun h => by simp [h]))

section

variable (harmed : s.health.sampleArmed = true) (hpulse : s.health.sample.toNat = s.subject.a)
include harmed hpulse

theorem samplePulse_untraced (hnone : s.health.trbase = 0 ∨ s.health.trsize = 0) : exec .samplePulse s = .next s.pulsed := by
  have htrace : s.health.trbase.toNat = 0 ∨ s.health.trsize.toNat = 0 := hnone.imp (congrArg BitVec.toNat) (congrArg BitVec.toNat)
  exact next_eq ((if_neg (by simp [harmed, hpulse])).trans (if_pos htrace))

theorem samplePulse_traces (hbase : s.health.trbase ≠ 0) (hsize : s.health.trsize ≠ 0) : exec .samplePulse s = .next
    (((List.range Config.allCores).map fun i =>
      (s.health.trbase.toNat + 192 * ((896 * s.health.pulses.toNat + i) % s.health.trsize.toNat),
        dwordBytes (s.snapshotRecord i s.health.pulses.toNat))).foldl
      (fun (v : State) r => if r.1 + 192 ≤ 0xC000000000 then v.deviceWrite (gpa v.pkg r.1) 0 r.2 else v) s.pulsed) := by
  have htrace : ¬ (s.health.trbase.toNat = 0 ∨ s.health.trsize.toNat = 0) :=
    not_or.mpr ⟨fun h => hbase (BitVec.eq_of_toNat_eq h), fun h => hsize (BitVec.eq_of_toNat_eq h)⟩
  exact next_eq ((if_neg (by simp [harmed, hpulse])).trans (if_neg htrace))

end

theorem overtempAlert_tells (hdie : s.subject.a < 12) (hnew : s.subject.a ∉ s.health.alerts) :
    exec .overtempAlert s = .next { s with health := { s.health with alerts := s.health.alerts ++ [s.subject.a] } } :=
  next_eq (if_neg (by simp [hdie, hnew]))

theorem overtempAlert_known (hknown : 12 ≤ s.subject.a ∨ s.subject.a ∈ s.health.alerts) : exec .overtempAlert s = .next s :=
  next_eq (if_pos (by simpa using hknown))

/-! ## Management frames and resets (R423, R424) -/

/-- The state after a frame is taken: its message is gone, and its counter stands in the anchor. -/
def State.takenFrame (s : State) (m : Msg) (f : MgmtFrame) : State :=
  { s.drop m.id with health := { (s.drop m.id).health with anchor := { (s.drop m.id).health.anchor with counter := f.counter } } }

/-- The state after a frame is refused: its message is gone, and its port counts an error. -/
def State.refusedFrame (s : State) (m : Msg) : State := (s.drop m.id).modPort 0 fun p => { p with errors := countUp p.errors }

section

variable {m : Msg} {f : MgmtFrame} (hmsg : s.msg? s.subject.a = some m) (hbody : m.body = .mgmt f)
include hmsg hbody

theorem frame?_eq : s.frame? = some (m, f) := by
  simp [State.frame?, hmsg, hbody]

theorem onFrame_takes (hok : (s.drop m.id).accepts f = true) (g : MgmtFrame → State → State) : s.onFrame g = g f (s.takenFrame m f) := by
  simp only [State.onFrame, frame?_eq hmsg hbody]
  exact if_neg (by simp [hok])

theorem onFrame_refuses (hbad : (s.drop m.id).accepts f = false) (g : MgmtFrame → State → State) : s.onFrame g = s.refusedFrame m := by
  simp only [State.onFrame, frame?_eq hmsg hbody]
  exact if_pos (by simp [hbad])

theorem mgmtReset_dropped (hdue : s.health.resetAt ≠ none) (hok : (s.drop m.id).accepts f = true) :
    exec .mgmtReset s = .next (s.drop s.subject.a) := by
  have hsame : s.accepts f = true := hok
  have hreset : s.health.resetAt.isSome = true := Option.isSome_iff_ne_none.mpr hdue
  show execMgmtReset s = _
  simp only [execMgmtReset, event, frame?_eq hmsg hbody, hsame, hreset, Bool.and_self, if_true]

/-- A reset frame that is not the one dropped while a reset waits is a frame as any other. -/
theorem mgmtReset_onFrame (hother : s.health.resetAt = none ∨ (s.drop m.id).accepts f = false) :
    exec .mgmtReset s = .next (s.onFrame fun f s =>
      let s := s.resetRecord f
      ({ s with health := { s.health with resetAt := some (s.cycle + 2 * Config.second), anchor := { s.health.anchor with count := 0 } } } :
        State).notice (s.cycle + 2 * Config.second) .resetDeadline { a := s.cycle + 2 * Config.second }) := by
  show execMgmtReset s = _
  simp only [execMgmtReset, event, frame?_eq hmsg hbody]
  refine next_eq (if_neg ?_)
  rcases hother with hnone | hbad
  · simp [hnone]
  · simp [show s.accepts f = false from hbad]

end

theorem mgmtFlashWrite_minimal (hpower : s.health.power = .minimal) :
    exec .mgmtFlashWrite s = .next (s.onFrame fun f s =>
      { s with health := { s.health with flash := (f.data.zipIdx).foldl (fun (c : List Host.Cell) b =>
        Memory.write c (0x100000 + (Config.flashPlace f.data + b.2) % (2 * imageSlotBytes)) b.1) s.health.flash } }) :=
  next_eq (if_neg (not_not.mpr hpower))

theorem mgmtFlashWrite_running (hpower : s.health.power ≠ .minimal) :
    exec .mgmtFlashWrite s = .next ((s.drop s.subject.a).modPort 0 fun p => { p with errors := countUp p.errors }) :=
  next_eq (if_pos hpower)

theorem resetDeadline_due (hdue : s.health.resetAt = some s.subject.a) : exec .resetDeadline s = .next (s.afterReset true).startAgain :=
  next_eq (if_pos hdue)

theorem resetDeadline_other (hother : s.health.resetAt ≠ some s.subject.a) : exec .resetDeadline s = .next s := next_eq (if_neg hother)

end

end Sys2Proof.Machine

section

open Sys2Proof Sys2Proof.Machine

/-- Settles O47, event by event, in the order of the statement. -/
theorem healthEvents : Obligations.HealthEvents := by
  refine ⟨fun s => ⟨powerGood_starts, powerGood_on, powerGood_cold, startokTimeout_fails, startokTimeout_confirmed, ?_, ?_, ?_, ?_,
    ⟨uncorrectableError_context, uncorrectableError_l1, uncorrectableError_memory, uncorrectableError_operand,
      uncorrectableError_accumulator, uncorrectableError_home, uncorrectableError_unknown⟩,
    ⟨scrub_slices, scrub_memory, scrub_other⟩, quoteDone_writes, quoteDone_other, heartbeatTimer_sends, heartbeatTimer_off, ?_,
    fun hpower hfollows hsilent => ⟨leaderTimeout_stands hpower hfollows hsilent, fun c => leaderTimeout_yields hpower hfollows hsilent⟩,
    leaderTimeout_early, fun harmed hpulse => ⟨samplePulse_untraced harmed hpulse, samplePulse_traces harmed hpulse⟩,
    samplePulse_other, overtempAlert_tells, overtempAlert_known, rfl⟩,
    fun s => ⟨?_, mgmtFlashWrite_running, resetDeadline_due, resetDeadline_other⟩⟩
  · rintro core rfl
    exact coreLost_core
  · rintro core rfl
    exact coreLost_again
  · rintro kind part rfl rfl hkind
    exact ⟨coreLost_part hkind, coreLost_part_again hkind⟩
  · intro kind part k most hpart hkind hspares hcase
    subst hpart hkind
    have hfailed : s.partFailed s.subject.b s.subject.a = true := by
      rcases hcase with ⟨hzero, hcore, hlost⟩ | ⟨hkind, hin⟩
      · rw [hzero]
        exact partFailed_core hcore hlost
      · exact (partFailed_other hkind).mpr hin
    refine ⟨fun n hmost hused => spareReplace_none_left (hmost ▸ hspares) hused, fun hleft => ?_⟩
    have htakes := spareReplace_takes hspares hfailed hleft
    refine ⟨fun hzero => ?_, fun hone => ?_, fun htwo hlost => ?_, fun htwo hin => ?_⟩
    · have hlost : (s.core s.subject.a).lost = true := hcase.elim (fun h => h.2.2) fun h => absurd hzero h.1
      rw [htakes, hzero]
      exact next_eq (backInService_core hlost)
    · rw [htakes, hone]
      exact next_eq (backInService_slice _)
    · rw [htakes, htwo]
      exact next_eq (backInService_channel hlost)
    · rw [htakes, htwo]
      exact next_eq (backInService_channel_in hin)
  · intro m pkg term lead isLeader hmsg hbody hdedup u
    refine ⟨heartbeat_ignored hmsg hbody hdedup, fun hpower hdom => ?_⟩
    refine ⟨fun hleads hwins => ?_, fun hstays => heartbeat_noted hmsg hbody hdedup hpower hdom (follows_not hstays)⟩
    subst hleads
    exact heartbeat_followed hmsg hbody hdedup hpower hdom (follows_leader hwins)
  · intro m f hmsg hbody taken refused
    refine ⟨fun hnone hok => ?_, fun hnone hbad => ?_, mgmtReset_dropped hmsg hbody, fun hdue hbad => ?_, fun hok => ?_, fun hbad => ?_,
      fun hpower hok => ?_, fun hpower hbad => ?_⟩
    · exact (mgmtReset_onFrame hmsg hbody (.inl hnone)).trans (next_eq (onFrame_takes hmsg hbody hok _))
    · exact (mgmtReset_onFrame hmsg hbody (.inl hnone)).trans (next_eq (onFrame_refuses hmsg hbody hbad _))
    · exact (mgmtReset_onFrame hmsg hbody (.inr hbad)).trans (next_eq (onFrame_refuses hmsg hbody hbad _))
    · exact next_eq (onFrame_takes hmsg hbody hok _)
    · exact next_eq (onFrame_refuses hmsg hbody hbad _)
    · exact (mgmtFlashWrite_minimal hpower).trans (next_eq (onFrame_takes hmsg hbody hok _))
    · exact (mgmtFlashWrite_minimal hpower).trans (next_eq (onFrame_refuses hmsg hbody hbad _))

end

end

-- ---- What completing with a result changes (O4) ----
section
/-!
PROOFS. Completing with a result. The thread changes by a register write and by what it retires with, and nothing outside its context changes.
-/

namespace Sys2Proof.Machine

variable {s : State}

/-! ## The thread that completes (R25, R169, R191) -/

theorem rg_result (d r : GReg) (x : Dword) : (s.result d x).rg r = if r = d ∧ d ≠ 0 then x else s.rg r := by
  show (s.result d x).cur.rg r = _
  rw [cur_result, rg_retire, rg_wg]
  rfl

theorem result_pfxst (d : GReg) (x : Dword) : (s.result d x).cur.pfxst = 0 := by
  rw [cur_result, retire_pfxst]

theorem result_pc (d : GReg) (x : Dword) : (s.result d x).cur.pc = if s.cur.atLoopEnd then s.cur.pc else s.cur.pc + 4 := by
  rw [cur_result, retire_pc, atLoopEnd_wg, wg_pc]

theorem result_retiring (d : GReg) (x : Dword) : (s.result d x).cur.retiring = (s.cur.atLoopEnd || s.cur.retiring) := by
  rw [cur_result, retire_retiring, atLoopEnd_wg, wg_retiring]

/-! ## What stands (R183) -/

theorem thread_result_other (d : GReg) (x : Dword) {core ctx : Nat} (h : (core, ctx) ≠ (s.focus.core, s.focus.ctx)) :
    (s.result d x).thread core ctx = s.thread core ctx := thread_modCur_other s _ h

end Sys2Proof.Machine

section

open Sys2Proof Sys2Proof.Machine

/-- Settles O4: the registers, the PC and the prefixes by their lemmas, and the rest field by field from the frames of a register write and of
completing. -/
theorem resultFrame : Obligations.ResultFrame := by
  refine ⟨fun s d x => ?_, fun t r d x => ⟨rg_zero t, ?_, fun hd => ?_, fun hr => ?_⟩⟩
  · refine ⟨fun r => rg_result d r x, result_pfxst d x, result_pc d x, result_retiring d x, ?_⟩
    have hothers : ∀ core ctx, (core, ctx) ≠ (s.focus.core, s.focus.ctx) → (s.result d x).thread core ctx = s.thread core ctx :=
      fun _ _ h => thread_result_other d x h
    simpa using hothers
  · rw [wg_zero]
  · rw [rg_wg, if_pos ⟨rfl, hd⟩]
  · rw [rg_wg, if_neg fun h => hr h.1]

end

end

-- ---- SPAWN, SPAWNN, FORK and JOIN (O28) ----
section
/-!
PROOFS. Creation and joining. SPAWN, SPAWNN and FORK pass the same tests of their job before they create; JOIN reads its counter where it lies, and either
completes or leaves the rotation.
-/

namespace Sys2Proof.Machine

/-! ## The tests of a creation (R46 to R48, R58) -/

section

variable {s : State} {n i : Nat} {gone f : State → State}

theorem withJob_missing (hjob : s.jobIndex (s.cur.job.setWidth 32) = none) : s.withJob n gone f = s.raise 0x11 0 0 0 := by
  simp only [State.withJob, hjob]
  rfl

variable (hjob : s.jobIndex (s.cur.job.setWidth 32) = some i)
include hjob

theorem withJob_cancelled (hcancelled : (s.jobEntry i).cancelled = true) : s.withJob n gone f = gone s := by
  simp only [State.withJob, hjob, hcancelled, if_true]

variable (hlive : (s.jobEntry i).cancelled = false)
include hlive

theorem withJob_full (hfull : (s.jobEntry i).allows n = false) : s.withJob n gone f = s.raise 0x11 0 0 0 := by
  simp [State.withJob, hjob, hlive, hfull, State.capacity]

theorem withJob_allows (hroom : (s.jobEntry i).allows n = true) : s.withJob n gone f = f s := by
  simp [State.withJob, hjob, hlive, hroom]

end

section

variable {s : State} {t : Thread} {f : Name → State → State}

theorem createOne_full (hfull : s.create s.focus.core t = none) :
    s.createOne t f = s.raise 0x11 0 (BitVec.ofNat 64 (spillDie s.focus.core)) 0 := by
  simp only [State.createOne, hfull]
  rfl

theorem createOne_created {n : Name} {u : State} (hmade : s.create s.focus.core t = some (n, u)) :
    s.createOne t f = f n (u.liveUp (t.job.setWidth 32) 1) := by
  simp only [State.createOne, hmade]

end

/-- A new thread has the job of its identity (R43). -/
theorem newThread_job (who : Identity) (pc g1 g2 g3 g4 : Dword) : (newThread who pc g1 g2 g3 g4).job.setWidth 32 = who.job :=
  BitVec.setWidth_setWidth_of_le who.job (by decide)

/-! ## SPAWN (R196, R197) -/

/-- The state with a new member counted in the block of a thread's wave, where it has one here. -/
def State.countMember (s : State) (t : Thread) : State := match t.wave with | some a => s.growWave a | none => s

section

variable {s : State} {d : GReg} {k : BReg}
variable (h : s.admits { roam := true, ahead := false } [d] = true)
include h

section

variable (hhere : s.cur.waveAfar = none)
include hhere

theorem spawn_fullWave {a : Nat} (hwave : s.cur.wave = some a) (hsize : s.waveSize a = 64) : exec (.spawn d k) s = .next (s.result d 0) := by
  refine (issue_admits h _).trans (next_eq ?_)
  simp [hhere, hwave, hsize]

/-- SPAWN into a wave with room, or into none, passes the tests of its job and creates one thread. -/
theorem spawn_creates (hroom : ∀ a, s.cur.wave = some a → s.waveSize a ≠ 64) :
    exec (.spawn d k) s = .next (s.withJob 1 (fun u => u.result d 0) fun u =>
      u.createOne (u.spawned s.cur.b[k]) fun n v => (v.countMember s.cur).result d (n.setWidth 64)) := by
  refine (issue_admits h _).trans (next_eq ?_)
  dsimp only
  rw [hhere]
  refine if_neg ?_
  cases hwave : s.cur.wave with
  | none => exact Bool.false_ne_true
  | some a => simpa using hroom a hwave

end

section

variable {p a : Nat} (hafar : s.cur.waveAfar = some (p, a))
include hafar

/-- A member of a wave on another package first asks that package to count the new one. -/
theorem spawn_asks (hhand : s.cur.handFor = none) (hnet : s.netAdmits p = true) :
    exec (.spawn d k) s = .next ((s.wait { k := 14, act := .data 1 [] .none false }).tellWave s.focus.core s.cur .grow) := by
  refine (issue_admits h _).trans (next_eq ?_)
  simp only [hafar, spawnAfar, hhand, viaNet_admits hnet]

theorem spawn_refusedAfar {x : Nat} {xs : List Nat} (hhand : s.cur.handFor = some (x :: xs)) (hfull : x % 128 = 64) :
    exec (.spawn d k) s = .next (s.result d 0) := by
  refine (issue_admits h _).trans (next_eq ?_)
  simp only [hafar, spawnAfar, hhand, hfull, if_true]

end

end

theorem spawned_job (s : State) (pc : Dword) : (s.spawned pc).job.setWidth 32 = s.cur.job.setWidth 32 :=
  newThread_job s.cur.identity pc 0 0 0 0

/-! ## SPAWNN (R198) -/

section

variable {s : State} {d a : GReg} {k : BReg}
variable (h : s.admits { roam := true, ahead := false } [d, a] = true)
include h

theorem spawnn_none (hcount : (s.rg a).toNat = 0) : exec (.spawnn d a k) s = .next (s.result d 0) :=
  (issue_admits h _).trans (next_eq (if_pos hcount))

theorem spawnn_tooMany (hcount : 64 < (s.rg a).toNat) :
    exec (.spawnn d a k) s = .next (s.raise 0x11 0 (BitVec.ofNat 64 (s.rg a).toNat) 0) :=
  (issue_admits h _).trans (next_eq ((if_neg (by omega)).trans (if_pos hcount)))

/-- SPAWNN of a job with room takes a free block, and creates a wave of all its threads there. -/
theorem spawnn_creates {n i w : Nat} (hn : (s.rg a).toNat = n) (hlow : 0 < n) (hhigh : n ≤ 64)
    (hjob : s.jobIndex (s.cur.job.setWidth 32) = some i) (hlive : (s.jobEntry i).cancelled = false) (hroom : (s.jobEntry i).allows n = true)
    (hblock : s.freeBlock s.focus.core = some w) {first : Name} {u : State}
    (hmade : s.createWave s.focus.core (fun j => waveThread s.cur.identity s.cur.b[k] (s.cur.rg 1) s.focus.core (blockIndex s.focus.core w) 0 j n
      s.forkEdge) n 0 0 = (n, first, u)) :
    exec (.spawnn d a k) s =
      .next (((u.initBlock w n 0 s.cur.troot (s.cur.job.setWidth 32)).liveUp (s.cur.job.setWidth 32) n).result d (first.setWidth 64)) := by
  refine (issue_admits h _).trans (next_eq ?_)
  rw [hn]
  refine (if_neg (by omega)).trans ((if_neg (by omega)).trans ((withJob_allows hjob hlive hroom).trans ?_))
  simp only [hblock, hmade, if_neg (Nat.ne_of_gt hlow), if_neg (Nat.lt_irrefl n)]

end

/-! ## FORK (R199) -/

section

variable {s : State} {k : BReg} {i : Nat}
variable (h : s.admits { roam := true, ahead := false } [] = true) (hjob : s.jobIndex (s.cur.job.setWidth 32) = some i)
include h hjob

theorem fork_cancelled (hcancelled : (s.jobEntry i).cancelled = true) : exec (.fork k) s = .next s.retire := by
  refine (issue_admits h _).trans (next_eq ?_)
  simp only [hjob, hcancelled, if_true]

variable (hlive : (s.jobEntry i).cancelled = false)
include hlive

theorem fork_pushes {u : State}
    (hpush : s.pushTask s.focus.core (s.cur.taskEntry false s.cur.b[k] (s.cur.rg 2)) s.cur.identity s.forkEdge = some u) :
    exec (.fork k) s = .next u.retire := by
  refine (issue_admits h _).trans (next_eq ?_)
  simp only [hjob, hlive, hpush, Bool.false_eq_true, if_false]

/-- A FORK that finds no place on its deque creates a thread without a wave. -/
theorem fork_creates (hpush : s.pushTask s.focus.core (s.cur.taskEntry false s.cur.b[k] (s.cur.rg 2)) s.cur.identity s.forkEdge = none)
    (hroom : (s.jobEntry i).allows 1 = true) {n : Name} {u : State}
    (hmade : s.create s.focus.core { newThread s.cur.identity s.cur.b[k] (s.cur.rg 1) 0 0 1 with after := s.forkEdge.toList } = some (n, u)) :
    exec (.fork k) s = .next (u.liveUp (s.cur.job.setWidth 32) 1).retire := by
  refine (issue_admits h _).trans (next_eq ?_)
  simp only [hjob, hlive, hpush, withJob_allows hjob hlive hroom, createOne_created hmade]
  exact congrArg (fun job => (u.liveUp job 1).retire) (newThread_job _ _ _ _ _ _)

end

/-! ## JOIN (R200) -/

/-- The state after the thread whose turn it is sleeps until its counter is zero, its gathered stores posted. -/
def State.sleepFor (s : State) (ea : Dword) (act : WaitAct) : State :=
  (s.postOf s.cur.name).modCur fun t =>
    { t.leave .sleeping { k := 9, a := ea, act := act, first := (s.postOf s.cur.name).nextId } with sleptAt := s.cycle }

/-- A join counter that its tile does not hold completes JOIN wherever it lies (R53). -/
theorem watchWait_joined {s : State} {pa : Nat} (hheld : s.heldAtTile (gpaLocal pa) = false) (w : Wait) :
    s.watchWait true .sleeping pa w = (s.acquire s.focus.core).retire := by
  simp [State.watchWait, hheld, State.acquireRetire]

section

variable {s : State} {a : GReg} {x : Access}
variable (h : s.admits { ahead := false } [a] = true) (hcheck : s.checkCur (s.rg a) 4 true false = .ok x) (hplace : isDevice x.pa = false)
include h hcheck hplace

/-- JOIN goes by where its counter lies now. -/
theorem join_checked : exec (.join a) s = .next (
    let pa := (s.farPage x.pa).getD (s.homeAddr x.pa)
    let la := gpaLocal pa
    if gpaPkg pa ≠ s.pkg then
      if s.ownValue s.cur.name pa 4 x.key = some 0 then s.acquireRetire
      else s.awaitFar .sleeping { x with pa := pa } (.join la x.key) { k := 9, a := s.rg a }
    else
      s.withWatched (s.rg a) la 4 fun u =>
        u.watchWait (u.watchedValue (.join la x.key) la 4 x.key == some 0) .sleeping pa { k := 9, a := s.rg a, act := .join la x.key }) := by
  refine (issue_admits h _).trans (next_eq ((withAccess_ok hcheck _).trans (if_neg ?_)))
  rw [hplace]
  exact Bool.false_ne_true

variable {pa : Nat} (hpa : (s.farPage x.pa).getD (s.homeAddr x.pa) = pa)
include hpa

section

variable (hhere : gpaPkg pa = s.pkg) (hreset : s.tileStateAt (gpaLocal pa) ≠ .reset) (hpoison : ∀ y ∈ addrs (gpaLocal pa) 4, s.poisoned y = false)
  (hheld : (s.countRedirect (gpaLocal pa)).heldAtTile (gpaLocal pa) = false)
include hhere hreset hpoison hheld

theorem join_zero
    (hzero : (s.countRedirect (gpaLocal pa)).watchedValue (.join (gpaLocal pa) x.key) (gpaLocal pa) 4 x.key = some 0) :
    let u := s.countRedirect (gpaLocal pa)
    exec (.join a) s = .next (u.acquire u.focus.core).retire := by
  intro u
  refine (join_checked h hcheck hplace).trans (next_eq ?_)
  dsimp only
  rw [hpa, if_neg (not_not_intro hhere), withWatched_readable hreset hpoison, hzero]
  exact watchWait_joined hheld _

theorem join_sleeps
    (hcount : (s.countRedirect (gpaLocal pa)).watchedValue (.join (gpaLocal pa) x.key) (gpaLocal pa) 4 x.key ≠ some 0) :
    exec (.join a) s = .next ((s.countRedirect (gpaLocal pa)).sleepFor (s.rg a) (.join (gpaLocal pa) x.key)) := by
  refine (join_checked h hcheck hplace).trans (next_eq ?_)
  dsimp only
  rw [hpa, if_neg (not_not_intro hhere), withWatched_readable hreset hpoison, beq_eq_false_iff_ne.mpr hcount]
  exact watchWait_unmet hheld _ _

end

section

variable (haway : gpaPkg pa ≠ s.pkg)
include haway

theorem join_zeroAfar (hzero : s.ownValue s.cur.name pa 4 x.key = some 0) : exec (.join a) s = .next (s.acquire s.focus.core).retire := by
  refine (join_checked h hcheck hplace).trans (next_eq ?_)
  dsimp only
  rw [hpa]
  exact (if_pos haway).trans (if_pos hzero)

/-- A counter on another package is watched there. -/
theorem join_sleepsAfar (hcount : s.ownValue s.cur.name pa 4 x.key ≠ some 0) :
    exec (.join a) s = .next ((s.sleepFor (s.rg a) .far).send (s.latency s.focus.core pa / 2) (gpaPkg pa)
      { (s.postOf s.cur.name).curOrigin with ea := s.rg a } (.await (.join (gpaLocal pa) x.key) pa x.key false false)) := by
  refine (join_checked h hcheck hplace).trans (next_eq ?_)
  dsimp only
  rw [hpa]
  exact (if_pos haway).trans (if_neg hcount)

end

end

end Sys2Proof.Machine

section

open Sys2Proof Sys2Proof.Machine

/-- Settles O28, instruction by instruction: SPAWN, SPAWNN and FORK by the tests of their job, and JOIN by where its counter lies. -/
theorem spawnResults : Obligations.SpawnResults := by
  refine ⟨⟨fun s d k h hhere => ⟨fun a => spawn_fullWave h hhere, fun hroom => ?_⟩,
      fun s d k p a h hafar => ⟨spawn_asks h hafar, fun x xs => spawn_refusedAfar h hafar⟩,
      fun s d a k h => ⟨spawnn_none h, spawnn_tooMany h, fun i w hlow hhigh hjob hlive hallows hblock => ?_⟩⟩,
    fun s k i h hjob => ⟨fork_cancelled h hjob, fun hlive => ⟨fun u => fork_pushes h hjob hlive,
      fun n u hpush hroom => fork_creates h hjob hlive hpush hroom⟩⟩,
    fun s a x h hcheck hplace => ⟨fun hhere hreset hpoison hheld => ⟨?_, ?_, fun hahead => ?_⟩, fun haway => ⟨?_, ?_⟩⟩⟩
  · have hspawn := spawn_creates (k := k) h hhere hroom
    refine ⟨fun hjob => hspawn.trans (next_eq (withJob_missing hjob)), fun i hjob => ⟨fun hc => hspawn.trans (next_eq (withJob_cancelled hjob hc)),
      fun hlive hfull => hspawn.trans (next_eq (withJob_full hjob hlive hfull)), fun hlive hallows hfull => ?_,
      fun n u hlive hallows hmade => ?_⟩⟩
    · exact hspawn.trans (next_eq ((withJob_allows hjob hlive hallows).trans (createOne_full hfull)))
    · refine hspawn.trans (next_eq ((withJob_allows hjob hlive hallows).trans ((createOne_created hmade).trans ?_)))
      rw [spawned_job]
      rfl
  · intro r hall
    have hmade : r = ((s.rg a).toNat, r.2.1, r.2.2) := by rw [← hall]
    exact spawnn_creates h rfl hlow hhigh hjob hlive hallows hblock hmade
  · exact join_zero h hcheck hplace rfl hhere hreset hpoison hheld
  · exact join_sleeps h hcheck hplace rfl hhere hreset hpoison hheld
  · exact watchedValue_of_not_ownAhead hahead _ _ _
  · exact join_zeroAfar h hcheck hplace rfl haway
  · exact join_sleepsAfar h hcheck hplace rfl haway

end

end

-- ---- CALLAT and REPLY (O29) ----
section
/-!
PROOFS. Calls. CALLAT goes by the endpoint that its register names, the leaf of its reply slot and its right, and REPLY by the name of its slot.
-/

namespace Sys2Proof.Machine

/-- A right over one core, read near memory, lets what needs it go on (R42, R351). -/
theorem withCoreRight_held {s : State} {eps : List Nat} {need : Nat}
    (hnear : ∀ y ∈ s.cur.tableEntries, s.entryFar y = false ∧ ∀ e ∈ s.farEntries, e.1 ≠ y)
    (hrights : ∀ e ∈ eps, ∃ r, s.rights s.cur (coversCore e) = .ok r ∧ r &&& need = need) (f : State → State) :
    s.withCoreRight eps need f = f s := by
  cases eps with
  | nil => rfl
  | cons ep rest => exact (withTable_near hnear fun u => u.coreRights (ep :: rest) need f).trans (coreRights_held hrights f)

section

variable {s : State} {d a : GReg} {k : BReg}
variable (h : s.admits { roam := true, ahead := false } [d, a] = true)
include h

theorem callat_nowhere (hep : s.endpointFor (s.rg a) 31 = none) : exec (.callat d a k) s = .next (s.raise 0x12 0 (s.rg a) 0) := by
  refine (issue_admits h _).trans (next_eq ?_)
  simp only [hep]

/-- CALLAT with its right, for a job that is not cancelled, sends its task with the physical address of the reply slot, and goes on. -/
theorem callat_calls {c p r : Nat} {x : Access} (hep : s.endpointFor (s.rg a) 31 = some (c, p)) (hslot : s.checkCur (s.rg d) 8 false true = .ok x)
    (hnear : ∀ y ∈ s.cur.tableEntries, s.entryFar y = false ∧ ∀ e ∈ s.farEntries, e.1 ≠ y)
    (hrights : s.rights s.cur (coversCore (s.rg a).toNat) = .ok r) (hlaunch : r &&& rightLaunch = rightLaunch)
    (hlive : ∀ i, s.jobIndex (s.cur.job.setWidth 32) = some i → (s.jobEntry i).cancelled = false) (hnet : s.netAdmits p = true) :
    exec (.callat d a k) s = .next (s.retire.send (if p = s.pkg then 60 else 234) p s.curOrigin
      (.call c (s.cur.taskEntry true s.cur.b[k] (BitVec.ofNat 64 x.pa)) { s.cur.identity with key := x.key })) := by
  have hheld : ∀ e ∈ [(s.rg a).toNat], ∃ r, s.rights s.cur (coversCore e) = .ok r ∧ r &&& rightLaunch = rightLaunch := by
    intro e he
    rw [List.mem_singleton.mp he]
    exact ⟨r, hrights, hlaunch⟩
  refine (issue_admits h _).trans (next_eq ?_)
  simp only [hep]
  refine (withAccess_ok hslot _).trans ((withCoreRight_held hnear hheld _).trans ((if_neg ?_).trans (viaNet_admits hnet _ _)))
  split
  · next i hjob => simp [hlive i hjob]
  · exact Bool.false_ne_true

end

section

variable {s : State} {a b : GReg}
variable (h : s.admits { ahead := false } [a, b] = true)
include h

theorem reply_refused (hname : s.cur.replyAddr = 0 ∨ s.rg a ≠ s.cur.replyAddr) :
    exec (.reply a b) s = .next (s.raise 0x05 (s.rg a) 0 0) := (issue_admits h _).trans (next_eq (if_pos hname))

/-- REPLY of a called thread that names its slot stores the reply behind the thread's earlier stores. -/
theorem reply_stores (hcalled : s.cur.replyAddr ≠ 0) (hname : s.rg a = s.cur.replyAddr) (hack : s.cur.storeAck < 64)
    (hnet : s.netAdmits (gpaPkg (s.rg a).toNat) = true) :
    exec (.reply a b) s = .next (((s.postOf s.cur.name).modCur fun t => Thread.retire { t with storeAck := t.storeAck + 1 }).sendStore
      { s.curOrigin with free := true } (storeBytes (s.rg a).toNat 8 (s.rg b)) s.cur.replyKey true true) := by
  have hagrees : ¬ (s.cur.replyAddr = 0 ∨ s.rg a ≠ s.cur.replyAddr) := not_or.mpr ⟨hcalled, not_not.mpr hname⟩
  have hroom : ¬ Config.storeCap < s.cur.storeAck + 1 := Nat.not_lt.mpr hack
  exact (issue_admits h _).trans (next_eq ((if_neg hagrees).trans ((if_neg hroom).trans (viaNet_admits hnet _ _))))

end

end Sys2Proof.Machine

section

open Sys2Proof Sys2Proof.Machine

/-- Settles O29: a call leaves past its checks or names no endpoint, and a reply is stored or refused by the name of its slot. -/
theorem callResults : Obligations.CallResults :=
  ⟨fun _ _ _ _ _ _ _ _ h hep hslot hnear hrights hlaunch hlive hnet => callat_calls h hep hslot hnear hrights hlaunch hlive hnet,
    fun _ _ _ _ h hep => callat_nowhere h hep, fun _ _ _ h => ⟨reply_refused h, reply_stores h⟩⟩

end

end

-- ---- LAUNCH and CANCEL (O31) ----
section
/-!
PROOFS. Launches and their end. LAUNCH with its descriptor in hand passes the limits of R41, its right over every core and the tests of its job; CANCEL
acts at once, where its messages have room.
-/

namespace Sys2Proof.Machine

/-! ## LAUNCH (R41, R42, R205) -/

/-- What a thread's job lets a LAUNCH with a right over all its cores do: nothing once it is cancelled, a CAPACITY fault where it, or the range, has no room
for the threads, and otherwise the launch. -/
def State.launchInJob (s : State) (i : Nat) (ds : List Nat) : State :=
  let waves := fieldOf (ds.getD 1 0) 0 24
  let n := waves * fieldOf (ds.getD 1 0) 24 7
  if (s.jobEntry i).cancelled then s.retire
  else if !(s.jobEntry i).allows n then s.capacity n 3
  else if fieldOf (ds.getD 2 0) 16 10 * fieldOf (ds.getD 1 0) 32 8 < waves then s.capacity waves 4
  else s.startLaunch ds

section

variable {s : State} {a : GReg} {x : Access} {ds : List Nat}
variable (h : s.admits { ahead := false } [a] = true) (hcheck : s.checkCur (s.rg a) 64 true false = .ok x) (hplace : isDevice x.pa = false)
  (hstays : s.stays x.pa = true) (hhand : s.cur.handFor = some ds)
include h hcheck hplace hstays hhand

/-- LAUNCH of a descriptor that breaks a limit names the first dword that does. -/
theorem launch_bad {n : Nat} (hbad : launchBad ds = some n) : exec (.launch a) s = .next (s.raise 0x01 0 (BitVec.ofNat 64 n) 0) := by
  refine (issue_admits h _).trans (next_eq ((withAccess_ok hcheck _).trans ((if_neg (Bool.eq_false_iff.mp hplace)).trans ?_)))
  rw [atOwner_stays hstays, withDwords_inHand hhand]
  simp only [hbad]

theorem launch_allowed {i : Nat} (hgood : launchBad ds = none)
    (hnear : ∀ y ∈ s.cur.tableEntries, s.entryFar y = false ∧ ∀ e ∈ s.farEntries, e.1 ≠ y)
    (hrights : ∀ j < fieldOf (ds.getD 2 0) 16 10,
      ∃ r, s.rights s.cur (coversCore (endpoint s.pkg (launchCore (ds.getD 2 0) j))) = .ok r ∧ r &&& rightLaunch = rightLaunch)
    (hjob : s.jobIndex (s.cur.job.setWidth 32) = some i) : exec (.launch a) s = .next (s.launchInJob i ds) := by
  have hheld : ∀ e ∈ (List.range (fieldOf (ds.getD 2 0) 16 10)).map fun j => endpoint s.pkg (launchCore (ds.getD 2 0) j),
      ∃ r, s.rights s.cur (coversCore e) = .ok r ∧ r &&& rightLaunch = rightLaunch := by
    intro e he
    obtain ⟨j, hj, rfl⟩ := List.mem_map.mp he
    exact hrights j (List.mem_range.mp hj)
  refine (issue_admits h _).trans (next_eq ((withAccess_ok hcheck _).trans ((if_neg (Bool.eq_false_iff.mp hplace)).trans ?_)))
  rw [atOwner_stays hstays, withDwords_inHand hhand]
  simp only [hgood]
  refine (withCoreRight_held hnear hheld _).trans ?_
  rw [hjob]
  rfl

end

section

variable {s : State} {i : Nat} {ds : List Nat}

theorem launchInJob_cancelled (hcancelled : (s.jobEntry i).cancelled = true) : s.launchInJob i ds = s.retire := if_pos hcancelled

variable (hlive : (s.jobEntry i).cancelled = false)
include hlive

theorem launchInJob_full (hfull : (s.jobEntry i).allows (fieldOf (ds.getD 1 0) 0 24 * fieldOf (ds.getD 1 0) 24 7) = false) :
    s.launchInJob i ds = s.raise 0x11 0 (BitVec.ofNat 64 (fieldOf (ds.getD 1 0) 0 24 * fieldOf (ds.getD 1 0) 24 7)) 3 := by
  simp only [State.launchInJob, hlive, hfull]
  rfl

variable (hroom : (s.jobEntry i).allows (fieldOf (ds.getD 1 0) 0 24 * fieldOf (ds.getD 1 0) 24 7) = true)
include hroom

theorem launchInJob_narrow (hrange : fieldOf (ds.getD 2 0) 16 10 * fieldOf (ds.getD 1 0) 32 8 < fieldOf (ds.getD 1 0) 0 24) :
    s.launchInJob i ds = s.raise 0x11 0 (BitVec.ofNat 64 (fieldOf (ds.getD 1 0) 0 24)) 4 := by
  simp only [State.launchInJob, hlive, hroom, if_pos hrange]
  rfl

theorem launchInJob_starts (hrange : fieldOf (ds.getD 1 0) 0 24 ≤ fieldOf (ds.getD 2 0) 16 10 * fieldOf (ds.getD 1 0) 32 8) :
    s.launchInJob i ds = s.startLaunch ds := by
  simp only [State.launchInJob, hlive, hroom, if_neg (Nat.not_lt.mpr hrange)]
  rfl

end

/-! ## CANCEL (R48, R206) -/

/-- Whether a job has a valid entry that is not cancelled. -/
def State.jobLive (s : State) (job : Word) : Bool := match s.jobIndex job with | some i => !(s.jobEntry i).cancelled | none => false

/-- The state after a thread that may cancel a job does so: with messages to the other packages where the job lives, and otherwise with no effect. -/
def State.cancelAllowed (s : State) (job : Word) : State :=
  if s.jobLive job then s.viaNets (s.domainPeers s.focus.core).length 0 fun u => u.retire.cancelFrom s.curOrigin job else s.retire

section

variable {s : State} {job : Word}

theorem cancelAllowed_gone (h : s.jobLive job = false) : s.cancelAllowed job = s.retire := if_neg (Bool.eq_false_iff.mp h)

/-- CANCEL of a job that has no entry, or is cancelled, changes nothing. -/
theorem cancelFrom_gone (h : s.jobLive job = false) (o : Origin) : s.cancelFrom o job = s := by
  unfold State.jobLive at h
  unfold State.cancelFrom
  split
  · rfl
  · next i hjob =>
    rw [hjob] at h
    exact if_pos (by simpa using h)

/-- With room for its messages, CANCEL cancels the job from where its thread stands, whatever the job's entry says. -/
theorem cancelAllowed_sends
    (hnet : s.domainPeers s.focus.core = [] ∨ s.niFull s.focus.core (s.domainPeers s.focus.core).length = false) :
    s.cancelAllowed job = s.retire.cancelFrom s.curOrigin job := by
  by_cases hlive : s.jobLive job = true
  · refine (if_pos hlive).trans (if_neg ?_)
    rintro ⟨hpeers, hfull⟩
    rcases hnet with hnone | hroom
    · exact hpeers (by rw [hnone]; rfl)
    · rw [hroom] at hfull
      exact Bool.false_ne_true hfull
  · have hgone : s.jobLive job = false := Bool.eq_false_iff.mpr hlive
    rw [cancelAllowed_gone hgone, cancelFrom_gone (show s.retire.jobLive job = false from hgone)]

end

section

variable {s : State} {a : GReg}
variable (h : s.admits { ahead := false } [a] = true)
include h

theorem cancel_own (hown : (s.rg a).setWidth 32 = s.cur.job.setWidth 32) :
    exec (.cancel a) s = .next (s.cancelAllowed ((s.rg a).setWidth 32)) := (issue_admits h _).trans (next_eq (if_pos hown))

section

variable (hother : (s.rg a).setWidth 32 ≠ s.cur.job.setWidth 32)
  (hnear : ∀ y ∈ s.cur.tableEntries, s.entryFar y = false ∧ ∀ e ∈ s.farEntries, e.1 ≠ y)
  {r : Nat} (hrights : s.rights s.cur (fun mask _ => mask == 0) = .ok r)
include hother hnear hrights

theorem cancel_denied (hstop : r % 2 = 0) : exec (.cancel a) s = .next (s.raise 0x07 0 1 0) := by
  refine (issue_admits h _).trans (next_eq ((if_neg hother).trans ((withTable_near hnear _).trans ?_)))
  simp only [hrights, if_pos hstop]

theorem cancel_other (hstop : r % 2 = 1) : exec (.cancel a) s = .next (s.cancelAllowed ((s.rg a).setWidth 32)) := by
  refine (issue_admits h _).trans (next_eq ((if_neg hother).trans ((withTable_near hnear _).trans ?_)))
  simp only [hrights, if_neg (show ¬ r % 2 = 0 by omega)]
  rfl

end

end

end Sys2Proof.Machine

section

open Sys2Proof Sys2Proof.Machine

/-- Settles O31: LAUNCH goes by its descriptor, its rights and its job, and CANCEL by whose job it names. -/
theorem launchCancelResults : Obligations.LaunchCancelResults := by
  refine ⟨fun s a x ds i h hcheck hplace hstays hhand => ⟨fun n => launch_bad h hcheck hplace hstays hhand, fun hgood => ?_⟩,
    fun s a h hnet hnear => ⟨fun hown => ?_, fun hother => ⟨fun r hrights hstop => ?_, fun r => cancel_denied h hother hnear⟩⟩,
    fun s a h hown hgone => ?_⟩
  · intro d1 d2 n hnear hrights hjob
    have hlaunch := launch_allowed h hcheck hplace hstays hhand hgood hnear hrights hjob
    exact ⟨fun hc => hlaunch.trans (next_eq (launchInJob_cancelled hc)), fun hl hfull => hlaunch.trans (next_eq (launchInJob_full hl hfull)),
      fun hl hroom hrange => hlaunch.trans (next_eq (launchInJob_narrow hl hroom hrange)),
      fun hl hroom hrange => hlaunch.trans (next_eq (launchInJob_starts hl hroom hrange))⟩
  · exact (cancel_own h hown).trans (next_eq (cancelAllowed_sends hnet))
  · exact (cancel_other h hother hnear hrights hstop).trans (next_eq (cancelAllowed_sends hnet))
  · refine (cancel_own h hown).trans (next_eq (cancelAllowed_gone ?_))
    rw [hown, State.jobLive]
    split
    · next i hjob => simp [hgone i hjob]
    · rfl

end

end

-- ---- The package right after reset (O55) ----
section
/-!
PROOFS. Reset. Every table is empty, so each entry is the one that its type gives, and a byte that does not depend on a key is one that nothing has
written.
-/

namespace Sys2Proof.Machine

/-- No tile is SAVED right after reset, so that a byte is held at its own address (R371). -/
theorem place_reset (a k : Nat) : (State.reset.place a k).1 = a := by
  unfold State.place
  cases region a <;> rfl

/-- Outside Damask memory nothing is left undefined: what nothing has written reads as zero (log 7). -/
theorem rawByte_reset {a : Nat} (h : region a ≠ .damask) (k : Nat) : State.reset.rawByte a k = 0 := by
  unfold State.rawByte
  split
  · next hdamask => exact absurd hdamask h
  · rfl

theorem byte_reset {a : Nat} (h : region a ≠ .damask ∨ isReserved a = true) (hsave : isSaveBlock a = false) (k : Nat) :
    State.reset.byte a k = 0 := by
  by_cases hreserved : isReserved a = true
  · exact if_pos hreserved
  · have hregion : region a ≠ .damask := h.resolve_right hreserved
    rw [byte_eq_rawByte k (Bool.eq_false_iff.mpr hreserved) hsave, place_reset]
    exact rawByte_reset hregion _

end Sys2Proof.Machine

section

open Sys2Proof Sys2Proof.Machine

/-- Settles O55: an entry of an empty table is its type's default, and `byte_reset` reads the bytes. -/
theorem resetState : Obligations.ResetState :=
  ⟨rfl, rfl, rfl, rfl, rfl, fun _ _ => rfl, fun _ => ⟨rfl, rfl, rfl⟩, fun _ => ⟨rfl, rfl⟩, fun _ => rfl, fun _ => rfl, rfl, rfl, rfl, rfl,
    fun _ k hplace hsave => byte_reset hplace hsave k⟩

end

end

-- ---- The rotation, the binder and the spill engine (O40) ----
section
/-!
PROOFS. The rotation. The binder's order is that of numbers, compared one after another, so that what it takes has the least of them; the events of a
boundary and of the spill engine are read off once what holds them back does not.
-/

namespace Sys2Proof.Machine

/-! ## The binder's order (R32) -/

/-- What the binder orders ready threads by: effective priority, then ready time, then context number. -/
def bindRank (a : Nat × Thread) : ℕ ×ₗ ℕ ×ₗ ℕ := toLex (a.2.effPrio, toLex (a.2.readyTime, a.1))

theorem bindsBefore_iff {a b : Nat × Thread} : bindsBefore a b = true ↔ bindRank a < bindRank b := by
  simp [bindsBefore, bindRank, Prod.Lex.toLex_lt_toLex]

theorem bindsBefore_eq_false_iff {a b : Nat × Thread} : bindsBefore a b = false ↔ bindRank b ≤ bindRank a := by
  rw [← Bool.not_eq_true, bindsBefore_iff, not_lt]

/-- The earlier of a thread found so far and another. -/
def earlierBound (b : Option (Nat × Thread)) (x : Nat × Thread) : Option (Nat × Thread) :=
  match b with | some y => if bindsBefore x y then some x else b | none => some x

/-- Of a list of threads behind a first, the binder takes one of them, which has the least rank. -/
theorem foldl_earlierBound (l : List (Nat × Thread)) (y : Nat × Thread) :
    ∃ r, l.foldl earlierBound (some y) = some r ∧ r ∈ y :: l ∧ ∀ z ∈ y :: l, bindRank r ≤ bindRank z := by
  induction l generalizing y with
  | nil => exact ⟨y, rfl, List.mem_cons_self, fun z hz => (congrArg bindRank (List.mem_singleton.mp hz)).ge⟩
  | cons x l ih =>
    by_cases hx : bindsBefore x y = true
    · obtain ⟨r, hfold, hmem, hleast⟩ := ih x
      have hstep : earlierBound (some y) x = some x := if_pos hx
      refine ⟨r, by rw [List.foldl_cons, hstep, hfold], List.mem_cons_of_mem _ hmem, fun z hz => ?_⟩
      rcases List.mem_cons.mp hz with rfl | hz
      · exact (hleast x List.mem_cons_self).trans (bindsBefore_iff.mp hx).le
      · exact hleast z hz
    · obtain ⟨r, hfold, hmem, hleast⟩ := ih y
      have hstep : earlierBound (some y) x = some y := if_neg hx
      have hy : bindRank r ≤ bindRank y := hleast y List.mem_cons_self
      refine ⟨r, by rw [List.foldl_cons, hstep, hfold], ?_, fun z hz => ?_⟩
      · rcases List.mem_cons.mp hmem with rfl | hmem
        · exact List.mem_cons_self
        · exact List.mem_cons_of_mem _ (List.mem_cons_of_mem _ hmem)
      · rcases List.mem_cons.mp hz with rfl | hz
        · exact hy
        · rcases List.mem_cons.mp hz with rfl | hz
          · exact hy.trans (bindsBefore_eq_false_iff.mp (Bool.eq_false_iff.mpr hx))
          · exact hleast z (List.mem_cons_of_mem _ hz)

section

variable {s : State} {core x : Nat}

theorem nextBound_eq (s : State) (core : Nat) :
    s.nextBound core = ((((s.core core).ctxs.filter fun x => s.bindable x.2).foldl earlierBound none).map (·.1)) := rfl

/-- What the binder takes next may be bound, and no thread that may be bound comes before it. -/
theorem nextBound_first (h : s.nextBound core = some x) : ∃ t, (x, t) ∈ (s.core core).ctxs ∧ s.bindable t = true ∧
    ∀ y ∈ (s.core core).ctxs, s.bindable y.2 = true → bindsBefore y (x, t) = false := by
  rw [nextBound_eq] at h
  cases hready : (s.core core).ctxs.filter fun x => s.bindable x.2 with
  | nil => simp [hready] at h
  | cons y l =>
    obtain ⟨⟨c, t⟩, hfold, hmem, hleast⟩ := foldl_earlierBound l y
    have hx : c = x := by
      have hfirst : (y :: l).foldl earlierBound none = some (c, t) := hfold
      rw [hready, hfirst] at h
      exact Option.some.inj h
    subst hx
    rw [← hready] at hmem hleast
    obtain ⟨hctx, hbindable⟩ := List.mem_filter.mp hmem
    exact ⟨t, hctx, hbindable, fun z hz hzb => bindsBefore_eq_false_iff.mpr (hleast z (List.mem_filter.mpr ⟨hz, hzb⟩))⟩

theorem fill_cons (h : s.nextBound core = some x) (p : Nat) (ps : List Nat) : State.fill core (p :: ps) s = State.fill core ps (s.bind core x p) := by
  simp only [State.fill, h]

theorem bind_st (s : State) (core x p : Nat) : ((s.bind core x p).thread core x).st = .bound := by
  unfold State.bind
  dsimp only
  rw [thread_setThread_same]

end

/-! ## The boundary (R32, R430) -/

/-- The state with the breakpoint writes of a core applied. -/
def State.applyBreakStores (s : State) (core : Nat) : State :=
  s.setCore core { s.core core with
    breakpoints := (s.core core).breakStores.foldl (fun bs x => Assoc.insert bs x.1 x.2) (s.core core).breakpoints, breakStores := [] }

section

variable {s : State}

/-- A core in service, whose tile stays in service over its spill moves, does all that a boundary has. -/
theorem rotationBoundary_serves (hlost : (s.core s.subject.a).lost = false)
    (hserved : ((s.applyBreakStores s.subject.a).startMoves s.subject.a).coreSaved s.subject.a = false) :
    let core := s.subject.a
    let w := ((s.applyBreakStores core).startMoves core).resumeHeld core
    exec .rotationBoundary s = .next ((State.fill core (w.core core).emptyPositions w).startTask core) := by
  intro core w
  have hin : ¬ (s.core s.subject.a).lost = true := Bool.eq_false_iff.mp hlost
  exact next_eq ((if_neg hin).trans (if_neg (Bool.eq_false_iff.mp hserved)))

/-! ## Quantum, YIELD and aging (R33, R34) -/

/-- Whether a ready thread may take the place of a bound one: of equal or higher priority, and ready before this cycle. -/
def State.hasWaiter (s : State) (core : Nat) (t : Thread) : Bool :=
  (s.core core).ctxs.any fun y => s.bindable y.2 && decide (y.2.effPrio ≤ t.effPrio) && decide (y.2.readyTime < s.cycle)

section

variable {x : Nat} (hturn : (s.core s.subject.a).turn s.subject.b = some x)
include hturn

theorem quantumExpiry_early (hturns : (s.thread s.subject.a x).turns < (s.core s.subject.a).quantum)
    (hyield : (s.thread s.subject.a x).yielding = false) : exec .quantumExpiry s = .next s := by
  refine next_eq ?_
  simp only [hturn]
  exact if_pos ⟨hturns, by rw [hyield]; rfl⟩

variable (hdue : (s.core s.subject.a).quantum ≤ (s.thread s.subject.a x).turns ∨ (s.thread s.subject.a x).yielding = true)
include hdue

/-- A thread whose quantum has expired, or that has yielded, gives way where a thread waits, and counts its turns anew elsewhere. -/
theorem quantumExpiry_due :
    let core := s.subject.a
    let t := s.thread core x
    exec .quantumExpiry s = .next (if s.hasWaiter core t then s.setThread core x (t.unbound.toReady s.cycle)
      else s.setThread core x { t with turns := if (s.core core).quantum ≤ t.turns then 0 else t.turns, yielding := false }) := by
  intro core t
  refine next_eq ?_
  simp only [hturn]
  refine if_neg ?_
  rintro ⟨hturns, hyield⟩
  rcases hdue with hquantum | hyielded
  · exact absurd hturns (Nat.not_lt.mpr hquantum)
  · rw [hyielded] at hyield
    exact absurd hyield (by decide)

theorem quantumExpiry_gives (hwaiter : s.hasWaiter s.subject.a (s.thread s.subject.a x) = true) :
    exec .quantumExpiry s = .next (s.setThread s.subject.a x ((s.thread s.subject.a x).unbound.toReady s.cycle)) :=
  (quantumExpiry_due hturn hdue).trans (next_eq (if_pos hwaiter))

theorem quantumExpiry_keeps (hwaiter : s.hasWaiter s.subject.a (s.thread s.subject.a x) = false) :
    let t := s.thread s.subject.a x
    exec .quantumExpiry s = .next (s.setThread s.subject.a x
      { t with turns := if (s.core s.subject.a).quantum ≤ t.turns then 0 else t.turns, yielding := false }) :=
  (quantumExpiry_due hturn hdue).trans (next_eq (if_neg (Bool.eq_false_iff.mp hwaiter)))

end

theorem agingPromotion_rises (hst : (s.thread s.subject.a s.subject.b).st = .ready) (hprio : 0 < (s.thread s.subject.a s.subject.b).effPrio)
    (haged : (s.thread s.subject.a s.subject.b).agedAt + Config.agingRotations * 16 ≤ s.cycle) :
    let t := s.thread s.subject.a s.subject.b
    exec .agingPromotion s = .next (s.setThread s.subject.a s.subject.b { t with effPrio := t.effPrio - 1, agedAt := s.cycle }) :=
  next_eq (if_pos ⟨hst, hprio, haged⟩)

/-! ## The spill engine (R57, R59, R367) -/

/-- A sleeping thread of a core as its spill slot holds it while it moves out. -/
def State.evicted (s : State) (core x : Nat) : Spilled :=
  { core := core, thr := { s.thread core x with st := .spilled, spSleep := true, ticket := none, pfxAt := Vector.replicate 3 none }, moving := true }

theorem spillEviction_evicts {x i : Nat} (hwanted : (s.core s.subject.a).spillQueue ≠ [] ∨ (s.gathering s.subject.a).isSome = true)
    (hserved : s.coreSaved s.subject.a = false) (hfull : s.freeCount s.subject.a = 0) (hmoves : s.moves' (spillDie s.subject.a) < 16)
    (hsleeper : s.longestSleeper s.subject.a = some x) (hslot : s.freeSlot (spillDie s.subject.a) = some i) :
    let core := s.subject.a
    let d := spillDie core
    let u := s.setThread core x Thread.idle
    exec .spillEviction s = .next ((u.setDie d { u.die d with slots := Assoc.insert (u.die d).slots i (s.evicted core x) }).post 200 {}
      (.spillMove d i core true)) := by
  intro core d u
  refine next_eq ?_
  dsimp only
  refine (if_neg ?_).trans ?_
  · simp only [hserved, hfull, not_or, Nat.not_le, Bool.not_eq_true', Bool.not_eq_false, Bool.or_eq_true, List.isEmpty_eq_false_iff]
    exact ⟨hwanted, Bool.false_ne_true, not_not_intro rfl, hmoves⟩
  · rw [hsleeper, hslot]
    rfl

section

variable {m : Msg} {die slot core : Nat} {e : Spilled}
variable (hmsg : s.msg? s.subject.a = some m) (hlook : Assoc.look (s.die die).slots slot = some e) (hmoving : e.moving = true)
include hmsg hlook hmoving

theorem spillMoveDone_out (hbody : m.body = .spillMove die slot core true) :
    exec .spillMoveDone s = .next ((s.drop m.id).setMoving die slot false) := by
  obtain ⟨⟩ := m
  cases hbody
  refine next_eq ?_
  simp [hmsg, hlook, hmoving]

theorem spillMoveDone_in (hbody : m.body = .spillMove die slot core false) (hhead : (s.core core).spillQueue.head? = some e.thr.name) :
    exec .spillMoveDone s = .next ((s.drop m.id).readmit die slot core e) := by
  obtain ⟨⟩ := m
  cases hbody
  refine next_eq ?_
  simp [hmsg, hlook, hmoving, hhead]

end

end

end Sys2Proof.Machine

section

open Sys2Proof Sys2Proof.Machine

/-- Settles O40: the events of a boundary, the order of the binder, and the moves of the spill engine. -/
theorem rotationEvents : Obligations.RotationEvents := by
  refine ⟨⟨fun s hlost _ => ?_, fun s x hturn => ?_, fun s hst hprio haged => agingPromotion_rises hst hprio haged⟩,
    fun s core x hnext => ⟨?_, fill_cons hnext, bind_st s core x 0⟩,
    fun s x i hwanted hserved hfull hmoves hsleeper hslot => spillEviction_evicts hwanted hserved hfull hmoves hsleeper hslot,
    fun s m die slot core out e hmsg hbody hlook hmoving => ⟨?_, ?_⟩, fun s => rfl⟩
  · intro core c u v hserved
    exact rotationBoundary_serves hlost hserved
  · intro c t waiter
    refine ⟨fun hdue => ⟨fun hwaiter => ?_, fun hwaiter => ?_⟩, quantumExpiry_early hturn⟩
    · exact ⟨_, quantumExpiry_gives hturn hdue hwaiter, by rw [thread_setThread_same]; exact ⟨rfl, rfl, rfl, rfl⟩⟩
    · exact ⟨_, quantumExpiry_keeps hturn hdue hwaiter, by simp [t]⟩
  · obtain ⟨t, hmem, hbindable, hfirst⟩ := nextBound_first hnext
    exact ⟨t, hmem, hbindable, fun y hy hyb => .inl (hfirst y hy hyb)⟩
  · rintro rfl
    exact spillMoveDone_out hmsg hlook hmoving hbody
  · rintro rfl hhead
    exact spillMoveDone_in hmsg hlook hmoving hbody hhead

end

end

-- ---- Wakes, timers, fills and walks (O41) ----
section
/-!
PROOFS. The events of wakes, timers, fills and walks. Each is read off its branch; the two that read the state again after they have changed it turn on what
the change keeps: a write of the device keeps the subject of the event, and the reads of a line keep the places that its addresses forward to.
-/

namespace Sys2Proof.Machine

/-! ## What keeps the subject of an event -/

/-- A fold of effects that each leave the subject leaves it. -/
theorem subject_foldl {α : Type} {f : State → α → State} (h : ∀ s x, (f s x).subject = s.subject) (l : List α) (s : State) :
    (l.foldl f s).subject = s.subject := by
  induction l generalizing s with
  | nil => rfl
  | cons x l ih => rw [List.foldl_cons, ih, h]

@[simp] theorem subject_setAt (s : State) (p : Place) (t : Thread) : (s.setAt p t).subject = s.subject := by
  cases p <;> rfl

@[simp] theorem subject_send (s : State) (d dst : Nat) (o : Origin) (b : Body) : (s.send d dst o b).subject = s.subject := by
  unfold State.send
  split
  · rfl
  split <;> rfl

@[simp] theorem subject_putBytes (s : State) (key : Nat) (bs : List (Nat × Byte)) : (s.putBytes key bs).subject = s.subject := by
  rw [State.putBytes_eq]

@[simp] theorem subject_sliceWrite (s : State) (key : Nat) (as : List Nat) : (s.sliceWrite key as).subject = s.subject := by
  refine subject_foldl (fun s q => ?_) _ _
  rfl

@[simp] theorem subject_fireLine (s : State) (w : Option Author) (line : Nat) (m : BitVec 4) : (s.fireLine w line m).subject = s.subject := by
  unfold State.fireLine
  dsimp only
  rw [subject_foldl fun _ _ => post_subject _ _ _ _, subject_foldl]
  intro s r
  cases r.away with
  | none => rfl
  | some p => exact subject_send _ _ _ _ _

@[simp] theorem subject_fireFor (s : State) (w : Option Author) (as : List Nat) : (s.fireFor w as).subject = s.subject :=
  subject_foldl (fun _ _ => subject_fireLine _ _ _ _) _ _

@[simp] theorem subject_newDeadlines (s : State) (as : List Nat) : (s.newDeadlines as).subject = s.subject := by
  refine subject_foldl (fun s w => ?_) _ _
  dsimp only
  split
  · split <;> rfl
  · rfl

@[simp] theorem subject_wakeThread (s : State) (p : Place) : (s.wakeThread p).subject = s.subject := by
  unfold State.wakeThread State.enqueue
  dsimp only
  split <;> split <;> simp

@[simp] theorem subject_testWait (s : State) (p : Place) : (s.testWait p).subject = s.subject := by
  unfold State.testWait State.completeAt State.acquire
  dsimp only
  split
  · simp
  · rfl

@[simp] theorem subject_retest (s : State) (as : List Nat) : (s.retest as).subject = s.subject := by
  refine (subject_foldl (fun s p => ?_) _ _).trans rfl
  split
  · exact subject_testWait s p
  · rfl

@[simp] theorem subject_applyBytes (s : State) (w : Option Author) (key : Nat) (bs : List (Nat × Byte)) :
    (s.applyBytes w key bs).subject = s.subject := by
  unfold State.applyBytes
  dsimp only
  split
  · rfl
  · rw [subject_retest, subject_newDeadlines, subject_fireFor]
    exact (subject_sliceWrite _ _ _).trans (subject_putBytes _ _ _)

@[simp] theorem subject_countRedirect (s : State) (a : Nat) : (s.countRedirect a).subject = s.subject := by
  obtain ⟨tiles, hcount⟩ := countRedirect_eq s a
  rw [hcount]

/-- A write of the device is made for the same event. -/
@[simp] theorem subject_deviceWrite (s : State) (pa key : Nat) (bs : List Byte) (o : Origin) : (s.deviceWrite pa key bs o).subject = s.subject := by
  unfold State.deviceWrite
  dsimp only
  split
  · exact subject_send _ _ _ _ _
  split
  · rfl
  · rw [subject_applyBytes, subject_countRedirect]

/-! ## What keeps the place that an address forwards to (R393) -/

theorem forwarded_congr {s s' : State} (hmoves : s'.moves = s.moves) (hpkg : s'.pkg = s.pkg) (a : Nat) : s'.forwarded a = s.forwarded a := by
  unfold State.forwarded State.forwardsTo
  rw [hmoves, hpkg]

theorem forwarded_countRedirect (s : State) (la a : Nat) : (s.countRedirect la).forwarded a = s.forwarded a := by
  obtain ⟨tiles, hcount⟩ := countRedirect_eq s la
  exact forwarded_congr (by rw [hcount]) (by rw [hcount]) a

theorem forwarded_sliceRead (s : State) (x key a : Nat) : (s.sliceRead x key).forwarded a = s.forwarded a := by
  unfold State.sliceRead
  split <;> rfl

/-- The reads of a line's sectors, each at the place that its address forwards to as the read before has left it, go to the same places throughout. -/
theorem foldl_sliceRead_forwarded (a key : Nat) (l : List Nat) (s : State) :
    l.foldl (fun s i => s.sliceRead (s.forwarded a + 64 * i) key) s = l.foldl (fun v i => v.sliceRead (s.forwarded a + 64 * i) key) s := by
  suffices h : ∀ s' : State, s'.forwarded a = s.forwarded a →
      l.foldl (fun (s : State) i => s.sliceRead (s.forwarded a + 64 * i) key) s' =
        l.foldl (fun (v : State) i => v.sliceRead (s.forwarded a + 64 * i) key) s' from h s rfl
  induction l with
  | nil => exact fun _ _ => rfl
  | cons i l ih =>
    intro s' hs'
    rw [List.foldl_cons, List.foldl_cons, hs']
    exact ih _ ((forwarded_sliceRead _ _ _ _).trans hs')

/-! ## Wakes and timers (R92, R229, R232) -/

section

variable {s : State}

theorem watchFire_eq {m : Msg} {x y : Nat} {hits : List Registration} (hmsg : s.msg? s.subject.a = some m) (hbody : m.body = .fire x y hits) :
    exec .watchFire s = .next (hits.foldl (fun s r => s.fireAt r) (s.drop m.id)) := by
  obtain ⟨⟩ := m
  cases hbody
  refine next_eq ?_
  simp [hmsg]

theorem sleepTimeout_eq {p : Place} (hp : s.whereIs s.subject.name = some p) (hsleep : (s.at p).wait.act = .sleep) (hset : (s.at p).deadline ≠ 0)
    (hdue : (s.at p).deadline ≤ s.cycle) : exec .sleepTimeout s = .next (s.wakeAt p) := by
  refine next_eq ?_
  simp only [hp]
  exact if_pos ⟨hsleep, hset, hdue⟩

/-- The state with the entry of the timer that an event is about free, and the threads of its core that wait for one going on (R232). -/
def State.freeTimer (s u : State) : State :=
  (u.setCore s.subject.a { u.core s.subject.a with
    timers := Assoc.erase (u.core s.subject.a).timers s.subject.b }).wakeWhere s.subject.a fun t => t.wait.act == .again .timerRoom

/-- The write of a timer's record: its target, the cycle and the name of its thread (R232). -/
def State.writeTimer (s : State) (e : Timer) : State :=
  s.deviceWrite e.pa e.key (dwordBytes [e.target, s.cycle, e.name.toNat, 0]) { core := s.subject.a, job := e.job, record := true }

section

variable {e : Timer} (htimer : Assoc.look (s.core s.subject.a).timers s.subject.b = some e) (hdue : e.target ≤ s.cycle)

include htimer hdue

/-- A record waits for the earlier stores of its thread (R146). -/
theorem timerRecord_behind (hsent : e.sent = none) (hopen : s.earlierOpen e.name e.since = true) :
    exec .timerRecord s = .next (s.notice (s.cycle + 1) .timerRecord s.subject) := by
  refine next_eq ?_
  simp [htimer, not_lt.mpr hdue, hsent, hopen]

theorem timerRecord_writes (hsent : e.sent = none) (hopen : s.earlierOpen e.name e.since = false)
    (happlied : (s.writeTimer e).storeOpen s.nextId = false) : exec .timerRecord s = .next (s.freeTimer (s.writeTimer e)) := by
  refine next_eq ?_
  have hfree : (!(s.writeTimer e).storeOpen s.nextId) = true := by rw [happlied, Bool.not_false]
  simp only [htimer, if_neg (not_lt.mpr hdue), hsent, hopen, Option.isSome_none, Bool.false_eq_true, if_false]
  refine (if_pos hfree).trans ?_
  rw [subject_deviceWrite]
  rfl

theorem timerRecord_sent {i : Nat} (hsent : e.sent = some i) :
    exec .timerRecord s = .next (if s.storeOpen i then s.notice (s.cycle + 1) .timerRecord s.subject else s.freeTimer s) := by
  refine next_eq ?_
  simp [htimer, not_lt.mpr hdue, hsent, State.freeTimer]

end

/-! ## Fills and walks (R71, R380) -/

theorem icacheFill_eq {m : Msg} {core line key : Nat} (hmsg : s.msg? s.subject.a = some m) (hbody : m.body = .icache core line key)
    (hfar : s.farPage (line * 256) = none) (hheld : s.heldAtTile (gpaLocal (line * 256)) = false) (hpkg : m.origin.pkg = s.pkg)
    (hreset : (s.drop m.id).tileStateAt (gpaLocal (line * 256)) ≠ .reset)
    (hpoison : ∀ x ∈ addrs (gpaLocal (line * 256)) 256, (s.drop m.id).poisoned x = false) :
    let u := s.drop m.id
    let a := gpaLocal (line * 256)
    exec .icacheFill s = .next (((addrs 0 4).foldl (fun v i => v.sliceRead (u.forwarded a + 64 * i) key) (u.countRedirect a)).fillLine core line
      (u.bytes (u.forwarded a) 256 key) m.origin.name) := by
  have hclean : ((addrs (gpaLocal (line * 256)) 256).any fun x => (s.drop m.id).poisoned x) = false := by
    rw [List.any_eq_false]
    exact fun x hx => by rw [hpoison x hx]; decide
  have hfold := foldl_sliceRead_forwarded (gpaLocal (line * 256)) key (addrs 0 4) ((s.drop m.id).countRedirect (gpaLocal (line * 256)))
  rw [forwarded_countRedirect] at hfold
  refine next_eq ?_
  simp only [hmsg, hbody, hfar, hheld, hpkg, Option.isSome_none, Bool.false_eq_true, if_false, ne_eq, not_true, hreset, hclean]
  rw [hfold]

theorem tlbWalkDone_eq {i : Nat} {w : Walk} (hfind : (s.core s.subject.a).walks.findIdx? (fun k => k.id == s.subject.b) = some i)
    (hwalker : i < Config.walkers) (hw : (s.core s.subject.a).walks[i]? = some w) :
    exec .tlbWalkDone s = .next (s.finishWalk s.subject.a w) := by
  refine next_eq ?_
  simp only [hfind, hw]
  exact if_neg (not_le.mpr hwalker)

end

/-! ## The wake of a thread (R36) -/

section

variable (t : Thread) (cycle : Nat)

/-- A wake leaves the registers, the PC and the flags. -/
theorem wake_keeps_registers : (t.wake cycle).g = t.g ∧ (t.wake cycle).v = t.v ∧ (t.wake cycle).pc = t.pc ∧ (t.wake cycle).flags = t.flags := by
  unfold Thread.wake Thread.toReady
  split
  · split <;> exact ⟨rfl, rfl, rfl, rfl⟩
  · split <;> exact ⟨rfl, rfl, rfl, rfl⟩
  · split
    · exact ⟨rfl, rfl, rfl, rfl⟩
    · split <;> exact ⟨rfl, rfl, rfl, rfl⟩
  · split
    · exact ⟨rfl, rfl, rfl, rfl⟩
    · split <;> exact ⟨rfl, rfl, rfl, rfl⟩
  · exact ⟨rfl, rfl, rfl, rfl⟩
  · exact ⟨rfl, rfl, rfl, rfl⟩

variable {t}

theorem wake_of_waits (h : t.st = .waiting ∨ t.st = .sleeping) (hstop : t.stopping = false) : t.wake cycle = t.toReady cycle := by
  rcases h with h | h <;> simp [Thread.wake, h, hstop]

theorem wake_of_stopped (h : t.st = .stopped) (hprior : t.prior = .waiting ∨ t.prior = .sleeping) :
    t.wake cycle = { t with prior := .ready, wait := {}, deadline := 0 } := by
  simp only [Thread.wake, h]
  exact if_pos hprior

theorem wake_of_runs (h : t.st = .bound ∨ t.st = .ready ∨ t.st = .faulted) : t.wake cycle = t := by
  rcases h with h | h | h <;> simp [Thread.wake, h]

end

end Sys2Proof.Machine

section

open Sys2Proof Sys2Proof.Machine

/-- Settles O41: each event is read off its branch, the record of a timer and the fill of a line by what a write and a read keep. -/
theorem wakeEvents : Obligations.WakeEvents := by
  unfold Obligations.WakeEvents
  refine ⟨⟨fun s m x y hits => watchFire_eq, fun s p => sleepTimeout_eq, fun s e htimer hdue => ⟨timerRecord_behind htimer hdue, ?_⟩, fun s => rfl,
    fun s m core line key => icacheFill_eq, fun s i w => tlbWalkDone_eq⟩, fun t cycle => ?_⟩
  · refine ⟨timerRecord_writes htimer hdue, fun i hsent => ⟨fun happlied => ?_, fun hopen => ?_⟩⟩
    · rw [timerRecord_sent htimer hdue hsent, if_neg (by simp [happlied])]
      rfl
    · rw [timerRecord_sent htimer hdue hsent, if_pos hopen]
  · obtain ⟨hg, hv, hpc, hflags⟩ := wake_keeps_registers t cycle
    refine ⟨hg, hv, hpc, hflags, fun h hstop => ?_, fun h hprior => ?_, wake_of_runs cycle⟩
    · rw [wake_of_waits cycle h hstop]
      exact ⟨rfl, rfl⟩
    · rw [wake_of_stopped cycle h hprior]
      exact ⟨h, rfl⟩

end
end

-- ---- Messages for threads and packages, stops and fault records (O46) ----
section
/-!
PROOFS. What arrives for a thread, an endpoint or a package, and the events of tickets, stops and fault records. A message without a packet of its own has its
effect at once, so that each event is the branch that its body and the state choose.
-/

namespace Sys2Proof.Machine

variable {s : State} {m : Msg}

/-- Whether a job of a domain has an entry here that says that it is cancelled. -/
def State.jobGone (s : State) (job : Word) : Bool := match s.jobIndex job with | some i => (s.jobEntry i).cancelled | none => false

section

variable (hmsg : s.msg? s.subject.a = some m) (hdedup : m.dedup = none)

include hmsg hdedup

/-! ## Migration (R58, R61, R63) -/

section

variable {t : Thread} {core c0 : Nat} (hbody : m.body = .migrate t core c0) (hlost : (s.core core).lost = false)

include hbody hlost

/-- A thread that migrates on its package goes with the flags and the notes of its source, and is taken or refused. -/
theorem migrate_here (hpkg : m.origin.pkg = s.pkg) {p : Place} (hp : s.whereIs t.name = some p) (hend : (s.at p).ending = none) :
    let u := ({ t with flags := (s.at p).flags, nanStop := (s.at p).nanStop, nanLater := (s.at p).nanLater } : Thread).packet
    (s.arrivalRefused core u = none → exec .migrate s = .next (((s.drop m.id).leaveContext p (endpoint s.pkg core) 0).arrive core u)) ∧
    (∀ why, s.arrivalRefused core u = some why →
      exec .migrate s = .next (s.refuse m 0x11 (BitVec.ofNat 64 why) (BitVec.ofNat 64 (endpoint s.pkg core)))) := by
  refine ⟨fun htaken => next_eq ?_, fun why hwhy => next_eq ?_⟩
  · simp only [hmsg, hbody, once_of_no_dedup hdedup, hpkg, if_true, hp, hend, Option.isSome_none, Bool.false_eq_true, if_false, hlost, htaken]
  · simp only [hmsg, hbody, once_of_no_dedup hdedup, hpkg, if_true, hp, hend, Option.isSome_none, Bool.false_eq_true, if_false, hlost, hwhy]

/-- A thread that comes from another package is counted here when it is taken. -/
theorem migrate_fromAfar (hpkg : m.origin.pkg ≠ s.pkg)
    (hlive : ∀ i, s.jobIndex (t.job.setWidth 32) = some i → (s.jobEntry i).cancelled = false) :
    let u := t.fromAfar s.pkg m.origin.pkg
    (s.arrivalRefused core u = none → u.stub = none →
      let v := ((s.answer 1 m (.ack true [] [] 0)).arrive core u).liveUp (u.job.setWidth 32) 1
      exec .migrate s = .next { v with trail := v.trail.filter fun (e : Name × Nat) => e.1 != u.name }) ∧
    (∀ why, s.arrivalRefused core u = some why →
      exec .migrate s = .next (s.answer 1 m (.nack 0x11 (BitVec.ofNat 64 why) (BitVec.ofNat 64 (endpoint s.pkg core)) false))) := by
  have hgone : ¬s.jobGone (t.job.setWidth 32) = true := by
    unfold State.jobGone
    cases hjob : s.jobIndex (t.job.setWidth 32) with
    | none => exact Bool.false_ne_true
    | some i => exact Bool.eq_false_iff.mp (hlive i hjob)
  refine ⟨fun htaken hstub => next_eq ?_, fun why hwhy => next_eq ?_⟩
  · simp only [hmsg, hbody, once_of_no_dedup hdedup, if_neg hpkg]
    refine (if_neg hgone).trans ?_
    simp only [hlost, Bool.false_eq_true, if_false, htaken, hstub]
  · simp only [hmsg, hbody, once_of_no_dedup hdedup, if_neg hpkg]
    refine (if_neg hgone).trans ?_
    simp only [hlost, Bool.false_eq_true, if_false, hwhy]

end

/-! ## Calls (R54, R201, R425) -/

section

variable {core : Nat} {e : TaskEntry} {who : Identity} (hbody : m.body = .call core e who)
  (hopen : m.origin.pkg ≠ s.pkg ∨ s.earlierOpen m.origin.name m.id = false) (hheld : s.heldAtTile (dequeBase core) = false)

omit hmsg hdedup in
/-- A call from another package, or one behind no store of its caller, has its turn. -/
theorem not_behind_store (hopen : m.origin.pkg ≠ s.pkg ∨ s.earlierOpen m.origin.name m.id = false) :
    ¬(m.origin.pkg = s.pkg ∧ s.earlierOpen m.origin.name m.id = true) := by
  rintro ⟨hpkg, hearlier⟩
  rcases hopen with h | h
  · exact h hpkg
  · rw [h] at hearlier
    exact Bool.noConfusion hearlier

include hbody hopen hheld

theorem call_lost (hlost : (s.core core).lost = true) :
    let ep := BitVec.ofNat 64 (endpoint s.pkg core)
    exec .call s = .next (if m.origin.pkg = s.pkg then s.refuse m 0x12 0 ep else s.answer 1 m (.nack 0x12 0 ep true)) := by
  refine next_eq ?_
  simp only [hmsg, hbody, if_neg (not_behind_store hopen), hheld, Bool.false_eq_true, if_false, once_of_no_dedup hdedup, hlost, if_true]

theorem call_taken (hlost : (s.core core).lost = false) (hreset : s.tileStateAt (dequeBase core) ≠ .reset) :
    let u := (s.countRedirect (dequeBase core)).takeCall core m.origin.name e who
    exec .call s = .next (if m.origin.pkg = u.pkg then u.drop m.id else u.answer 1 m (.ack true [] [] 0)) := by
  refine next_eq ?_
  simp only [hmsg, hbody, if_neg (not_behind_store hopen), hheld, Bool.false_eq_true, if_false, once_of_no_dedup hdedup, hlost, if_neg hreset]

end

/-! ## Jobs, translations and pages (R48, R391, R393) -/

theorem controlCancel_eq {job : Word} (hbody : m.body = .cancelJob job) :
    exec .controlCancel s = .next ((s.cancelJob job).answer 1 m (.ack true [] [] 0)) := by
  refine next_eq ?_
  simp only [hmsg, hbody, once_of_no_dedup hdedup]

theorem controlTlbinv_drops {i : TlbInv} (hbody : m.body = .tlbinv i none) :
    exec .controlTlbinv s = .next ((s.invalidateAll i).modMsg m.id fun m => { m with body := .tlbinv i (some (s.nextId, s.nextId)) }) := by
  refine next_eq ?_
  simp only [hmsg, hbody, once_of_no_dedup hdedup]

omit hdedup in
/-- Between the drop and the answer of an invalidation stand the accesses that are open (R154). -/
theorem controlTlbinv_waits {i : TlbInv} {ids : Nat × Nat} (hbody : m.body = .tlbinv i (some ids)) :
    exec .controlTlbinv s = .next (if (s.dropOpen ids fun _ => true).1 then
      s.modMsg m.id fun m => { m with body := .tlbinv i (some (s.dropOpen ids fun _ => true).2) }
      else s.answer 1 m (.ack true [] [] 0)) := by
  refine next_eq ?_
  simp only [hmsg, hbody]
  obtain ⟨opened, ids'⟩ := s.dropOpen ids fun _ => true
  cases opened <;> rfl

section

variable {op : PageOp} {page key : Nat} (hbody : m.body = .page op page key)

include hbody

theorem controlTlbinv_page (hrefuses : s.peerRefuses m (gpa s.pkg (page * 0x10000)) key = none) :
    exec .controlTlbinv s = .next (s.pageAt m op page) := by
  refine next_eq ?_
  simp only [hmsg, hbody, once_of_no_dedup hdedup, hrefuses]

theorem controlTlbinv_refuses {code : BitVec 8} (hrefuses : s.peerRefuses m (gpa s.pkg (page * 0x10000)) key = some code) :
    exec .controlTlbinv s = .next (s.answer 1 m (.nack code 0 0 false)) := by
  refine next_eq ?_
  simp only [hmsg, hbody, once_of_no_dedup hdedup, hrefuses]

end

/-! ## Tickets (R98, R243, R244, R408) -/

theorem ticket_given {ep : Nat} (hbody : m.body = .ticket ep) :
    let n := (s.gate ep).next + 1
    exec .ticket s = .next ((({ s with tickets := Assoc.insert s.tickets ep { s.gate ep with next := n } } : State).answer 30 m
      (.value (n.setWidth 64))).callTickets 4 ep) := by
  refine next_eq ?_
  simp only [hmsg, hbody, once_of_no_dedup hdedup]

section

variable {ep : Nat} {n : Word} (hbody : m.body = .ticketWait ep n)

include hbody

theorem ticket_called (hcalled : (s.gate ep).hasCalled n = true) :
    exec .ticket s = .next (s.answer 30 m (.value (if (s.gate ep).isActive n then 2 else 1))) := by
  refine next_eq ?_
  simp only [hmsg, hbody, once_of_no_dedup hdedup, hcalled, if_true]

theorem ticket_notCalled (hcalled : (s.gate ep).hasCalled n = false) :
    let taker := (n, m.origin.pkg, m.origin.core)
    exec .ticket s = .next (({ s with tickets := Assoc.insert s.tickets ep { s.gate ep with
      takers := (s.gate ep).takers.filter (· != taker) ++ [taker] } } : State).answer 30 m (.value 0)) := by
  refine next_eq ?_
  simp only [hmsg, hbody, once_of_no_dedup hdedup, hcalled, Bool.false_eq_true, if_false]

end

/-- The state after the notice of a called number is taken. -/
def State.takeNotice (s : State) (m : Msg) : State :=
  if m.origin.pkg = s.pkg ∨ m.head.isNone = true then s.drop m.id else s.answer 1 m (.value 0)

/-- The state after a notice of a number of an endpoint, another package's where `far` holds, comes to the context at a place: where it waits in TKWAIT for one
that is called by then, its instruction completes. -/
def State.noticeTo (ep : Nat) (far : Bool) (g : TicketGate) (s : State) (p : Place) : State :=
  let t := s.at p
  let waits := t.wait.k == 8 && t.wait.act == .done 0 && t.wait.a.toNat == ep
  let called := if far then s.heardCalled ep (t.wait.v.setWidth 32) else g.hasCalled (t.wait.v.setWidth 32)
  if waits && called then
    s.completeAt p fun t => if far then { t with ticket := some (ep, t.wait.v.setWidth 32) } else t.admission g ep (t.wait.v.setWidth 32)
  else s

/-- The state after a gateway's notice of a number is taken, and noted where another package's gateway sent it. -/
def State.heardNotice (s : State) (m : Msg) (ep : Nat) (n : Word) : State :=
  if endpointPkg ep ≠ (s.takeNotice m).pkg then (s.takeNotice m).hearCall ep n else s.takeNotice m

/-- The notice of a number goes to every context in turn. -/
theorem ticketCallNotice_eq {ep c : Nat} {n : Word} (hbody : m.body = .ticketCall ep n c) :
    exec .ticketCallNotice s = .next ((s.heardNotice m ep n).places.foldl
      (State.noticeTo ep (endpointPkg ep != (s.takeNotice m).pkg) ((s.takeNotice m).gate ep)) (s.heardNotice m ep n)) := by
  have hnoted : (if (endpointPkg ep != (s.takeNotice m).pkg) = true then (s.takeNotice m).hearCall ep n else s.takeNotice m) = s.heardNotice m ep n := by
    by_cases hfar : endpointPkg ep = (s.takeNotice m).pkg <;> simp [State.heardNotice, hfar]
  rw [← hnoted]
  refine next_eq ?_
  simp only [hmsg, hbody, once_of_no_dedup hdedup]
  rfl

omit hmsg hdedup in
theorem noticeTo_of_other {ep : Nat} {far : Bool} {g : TicketGate} {u : State} {p : Place} (hk : (u.at p).wait.k ≠ 8) : u.noticeTo ep far g p = u :=
  if_neg (by simp [hk])

omit hmsg hdedup in
/-- Contexts of which none waits in TKWAIT take no notice. -/
theorem foldl_noticeTo_of_others {ep : Nat} {far : Bool} {g : TicketGate} {u : State} (l : List Place) (hk : ∀ p ∈ l, (u.at p).wait.k ≠ 8) :
    l.foldl (State.noticeTo ep far g) u = u := by
  induction l with
  | nil => rfl
  | cons p l ih =>
    rw [List.foldl_cons, noticeTo_of_other (hk p List.mem_cons_self)]
    exact ih fun q hq => hk q (List.mem_cons_of_mem p hq)

section

variable {ep : Nat} {g : TicketGate} {u : State} {p : Place} (hk : (u.at p).wait.k = 8) (hact : (u.at p).wait.act = .done 0)
  (hep : (u.at p).wait.a.toNat = ep)

omit hmsg hdedup
include hk hact hep

theorem noticeTo_far (hcalled : u.heardCalled ep ((u.at p).wait.v.setWidth 32) = true) :
    State.noticeTo ep true g u p = u.completeAt p fun t => { t with ticket := some (ep, t.wait.v.setWidth 32) } :=
  if_pos (by simp [hk, hact, hep, hcalled])

theorem noticeTo_near (hcalled : g.hasCalled ((u.at p).wait.v.setWidth 32) = true) :
    State.noticeTo ep false g u p = u.completeAt p fun t => t.admission g ep (t.wait.v.setWidth 32) :=
  if_pos (by simp [hk, hact, hep, hcalled])

end

/-! ## Operations and news (R360, R365) -/

section

variable {op : ThreadOp} {n : Name} (hbody : m.body = .threadOp op n)

include hbody

section

variable {p : Place} (htarget : s.target n = some p) (hready : s.opReady op p = true)

include htarget hready

theorem threadop_value {v : Dword} {u : State} (hop : s.operate op p true [(m.origin.name, m.id)] = (.value v, u)) :
    exec .threadop s = .next (u.answer ((s.latency m.origin.core (sysBase ((endpointCore (nameEp n)).getD 0))) / 2) m (.value v)) := by
  refine next_eq ?_
  simp only [hmsg, hbody, htarget, hready, Bool.not_true, Bool.false_eq_true, if_false, once_of_no_dedup hdedup, hop]

theorem threadop_fault {code : BitVec 8} {w4 w5 : Dword} {u : State}
    (hop : s.operate op p true [(m.origin.name, m.id)] = (.fault code w4 w5, u)) :
    exec .threadop s = .next (u.answer ((s.latency m.origin.core (sysBase ((endpointCore (nameEp n)).getD 0))) / 2) m (.nack code w5 w4 false)) := by
  refine next_eq ?_
  simp only [hmsg, hbody, htarget, hready, Bool.not_true, Bool.false_eq_true, if_false, once_of_no_dedup hdedup, hop]

theorem threadop_later {u : State} (hop : s.operate op p true [(m.origin.name, m.id)] = (.later, u)) :
    exec .threadop s = .next ((u.modMsg m.id fun m => { m with due := 2 ^ 64 }).settle n) := by
  refine next_eq ?_
  simp only [hmsg, hbody, htarget, hready, Bool.not_true, Bool.false_eq_true, if_false, once_of_no_dedup hdedup, hop]

end

variable (htarget : s.target n = none)

include htarget

theorem threadop_goesOn {pkg : Nat} (hwent : s.wentTo n = some pkg) : exec .threadop s = .next (s.goesOn m pkg) := by
  refine next_eq ?_
  simp only [hmsg, hbody, htarget, hwent, once_of_no_dedup hdedup]

theorem threadop_stale (hwent : s.wentTo n = none) :
    let d := (s.latency m.origin.core (sysBase ((endpointCore (nameEp n)).getD 0))) / 2
    exec .threadop s = .next (if endpointPkg (nameEp n) = s.pkg ∧ (s.core (nameCore n)).lost = true then
      s.answer d m (.nack 0x12 0 (BitVec.ofNat 64 (nameEp n)) false) else s.answer d m (.value 0)) := by
  refine next_eq ?_
  simp only [hmsg, hbody, htarget, hwent, once_of_no_dedup hdedup]

end

section

variable {n : Name} {x : News} (hbody : m.body = .news n x) (hready : s.newsReady n x = true)

include hbody hready

/-- News stays where the thread stands, and that of a place stays where it came. -/
theorem news_heard (hhere : x.byThread = false ∨ (s.whereIs n).isSome = true) :
    exec .threadop s = .next ((s.heard n x).answer 1 m (.ack true [] [] 0)) := by
  refine next_eq ?_
  simp only [hmsg, hbody, hready, Bool.not_true, Bool.false_eq_true, if_false]
  rcases hhere with hplace | hthread
  · simp only [hplace, once_of_no_dedup hdedup]
  · obtain ⟨p, hp⟩ := Option.isSome_iff_exists.mp hthread
    simp only [hp, once_of_no_dedup hdedup]
    cases x.byThread <;> rfl

variable (hthread : x.byThread = true) (hnowhere : s.whereIs n = none)

include hthread hnowhere

theorem news_goesOn {pkg : Nat} (hwent : s.wentTo n = some pkg) : exec .threadop s = .next (s.goesOn m pkg) := by
  refine next_eq ?_
  simp only [hmsg, hbody, hready, Bool.not_true, Bool.false_eq_true, if_false, hthread, hnowhere, hwent, once_of_no_dedup hdedup]

theorem news_stale (hwent : s.wentTo n = none) : exec .threadop s = .next (s.answer 1 m (.value 0)) := by
  refine next_eq ?_
  simp only [hmsg, hbody, hready, Bool.not_true, Bool.false_eq_true, if_false, hthread, hnowhere, hwent, once_of_no_dedup hdedup]

end

end

/-! ## Stops and fault records (R355, R358, R361) -/

theorem stopComplete_eq {p : Place} (hp : s.whereIs s.subject.name = some p) (hend : (s.at p).ending = none) (hstopping : (s.at p).stopping = true)
    (hdone : (s.at p).stopDone = true) (hstart : (s.at p).startAfter = false) :
    let u := s.setAt p { s.at p with stopping := false, startAfter := false }
    exec .stopComplete s = .next ((u.flight.filter fun m => m.awaitsStop s.subject.name).foldl
      (fun v m => v.answer (v.latency m.origin.core (sysBase (nameCore s.subject.name)) / 2) m (.value 0)) u) := by
  refine next_eq ?_
  simp only [hp, hend, Option.isSome_none, Bool.false_eq_true, if_false, hstopping, hdone, Bool.not_true, hstart]

/-- The root supervisor's record at a last-resort line fails the start, where the package still waits for STARTOK. -/
theorem faultRecord_root (hb : s.subject.b = 1) : exec .faultRecord s = .next (s.rootFailed s.subject.name) :=
  next_eq (if_pos hb)

theorem rootFailed_fails {n : Name} (hroot : n = s.health.rootName) (hstart : s.health.startOk = false) (hpower : s.health.power = .running) :
    s.rootFailed n = s.failStart 5 :=
  if_pos ⟨hroot, by rw [hstart, Bool.not_false], hpower⟩

theorem rootFailed_stays {n : Name} (h : n ≠ s.health.rootName ∨ s.health.startOk = true ∨ s.health.power ≠ .running) : s.rootFailed n = s := by
  refine if_neg fun ⟨hroot, hstart, hpower⟩ => ?_
  rcases h with h | h | h
  · exact h hroot
  · simp [h] at hstart
  · exact h hpower

theorem faultRecord_drains (hb : s.subject.b = 2) : exec .faultRecord s = .next (s.drainRecords s.subject.a) :=
  next_eq ((if_neg (by omega)).trans (if_pos hb))

theorem faultRecord_writes {p : Place} {f : PendingFault} (hroot : s.subject.b ≠ 1) (hdrain : s.subject.b ≠ 2)
    (hp : s.whereIs s.subject.name = some p) (hpending : (s.at p).pending = some f) (hstores : (s.at p).storeAck = 0) (hreds : (s.at p).redpend = 0)
    (hbank : (s.at p).bank = none) :
    let t := s.at p
    exec .faultRecord s = .next (((s.setAt p { t with pending := none }).record (s.coreAt p) t.faultrec t.troot (t.job.setWidth 32) (f.word0 t)
      (f.recordPc.getD f.pc).toNat f.w2.toNat t.name.toNat f.w4.toNat f.w5.toNat f.raised).settle t.name) := by
  refine next_eq ?_
  simp only [if_neg hroot, if_neg hdrain, hp, hpending, hstores, hreds, hbank, Option.isSome_none, ne_eq, not_true, Bool.false_eq_true, or_self, if_false]

end Sys2Proof.Machine
section

open Sys2Proof Sys2Proof.Machine

/-- Settles O46: each event takes the branch that its message, its thread or its record chooses, and a notice of a number changes the contexts that wait for it. -/
theorem travelEvents : Obligations.TravelEvents := by
  unfold Obligations.TravelEvents
  refine ⟨fun s m hmsg hdedup => ⟨?_, ?_, ?_, ?_, ?_, ?_, ?_, ?_, ?_, ?_, ?_, ?_, ?_, ?_, ?_⟩, fun s => ⟨rfl, ?_, ?_, faultRecord_drains, ?_⟩⟩
  · intro t core c0 p hbody hpkg hp hend hlost
    exact migrate_here hmsg hdedup hbody hlost hpkg hp hend
  · intro t core c0 hbody hpkg hlost hlive
    exact migrate_fromAfar hmsg hdedup hbody hlost hpkg hlive
  · intro core e who hbody hopen hheld hlost
    have hcall := call_lost hmsg hdedup hbody hopen hheld hlost
    exact ⟨fun hpkg => hcall.trans (next_eq (if_pos hpkg)), fun hpkg => hcall.trans (next_eq (if_neg hpkg))⟩
  · intro core e who hbody hopen hheld hlost hreset
    have hcall := call_taken hmsg hdedup hbody hopen hheld hlost hreset
    exact ⟨fun hpkg hu => hcall.trans (next_eq (if_pos (hpkg.trans hu.symm))),
      fun hpkg hu => hcall.trans (next_eq (if_neg fun h => hpkg (h.trans hu)))⟩
  · exact fun job => controlCancel_eq hmsg hdedup
  · exact fun i => controlTlbinv_drops hmsg hdedup
  · intro i ids hbody
    have hwaits := controlTlbinv_waits hmsg hbody
    exact ⟨fun hopen => hwaits.trans (next_eq (if_pos hopen)), fun hopen => hwaits.trans (next_eq (if_neg (Bool.eq_false_iff.mp hopen)))⟩
  · exact fun op page key hbody => ⟨controlTlbinv_page hmsg hdedup hbody, fun code => controlTlbinv_refuses hmsg hdedup hbody⟩
  · exact fun ep => ticket_given hmsg hdedup
  · exact fun ep n hbody => ⟨ticket_called hmsg hdedup hbody, ticket_notCalled hmsg hdedup hbody⟩
  · intro ep n c hbody taken u
    have hnotice : exec .ticketCallNotice s = .next (u.places.foldl (State.noticeTo ep (endpointPkg ep != taken.pkg) (taken.gate ep)) u) :=
      ticketCallNotice_eq hmsg hdedup hbody
    refine ⟨fun hothers => ?_, fun p hplaces hk hact hep => ?_⟩
    · rw [hnotice, foldl_noticeTo_of_others u.places hothers]
    · rw [hplaces, List.foldl_cons, List.foldl_nil] at hnotice
      refine ⟨fun hfar hcalled => ?_, fun hnear hcalled => ?_⟩
      · rw [hnotice, bne_iff_ne.mpr hfar, noticeTo_far hk hact hep hcalled]
      · rw [hnotice, hnear, bne_self_eq_false, noticeTo_near hk hact hep hcalled]
  · exact fun op n p hbody htarget hready => ⟨fun v u => threadop_value hmsg hdedup hbody htarget hready,
      fun code w4 w5 u => threadop_fault hmsg hdedup hbody htarget hready, fun u => threadop_later hmsg hdedup hbody htarget hready⟩
  · intro op n pkg hbody htarget hwent hpkg
    rw [threadop_goesOn hmsg hdedup hbody htarget hwent]
    exact next_eq (if_pos hpkg)
  · exact fun n x hbody hready => ⟨news_heard hmsg hdedup hbody hready, fun pkg hthread hnowhere => news_goesOn hmsg hdedup hbody hready hthread hnowhere,
      fun hthread hnowhere => news_stale hmsg hdedup hbody hready hthread hnowhere⟩
  · intro op n hbody htarget hwent
    have hstale := threadop_stale hmsg hdedup hbody htarget hwent
    refine ⟨fun hserves => hstale.trans (next_eq (if_neg ?_)), fun hpkg hlost => hstale.trans (next_eq (if_pos ⟨hpkg, hlost⟩))⟩
    rintro ⟨hpkg, hlost⟩
    rcases hserves with h | h
    · exact h hpkg
    · exact Bool.eq_false_iff.mp h hlost
  · exact fun p => stopComplete_eq
  · exact fun hb => ⟨fun hroot hstart hpower => (faultRecord_root hb).trans (next_eq (rootFailed_fails hroot hstart hpower)),
      fun h => (faultRecord_root hb).trans (next_eq (rootFailed_stays h))⟩
  · exact fun p f => faultRecord_writes

end
end

-- ---- Waves, jobs and tiles (O48) ----
section
/-!
PROOFS. The events of waves, jobs and tiles, each read off the branch that its conditions choose. A job whose stores are all acknowledged has nothing of its own in
flight, so that its completion waits for nothing.
-/

namespace Sys2Proof.Machine

variable {s : State}

/-! ## Waves (R40, R42, R44) -/

section

variable {l : Launch} {i : Nat} (hlaunch : (s.launches.find? fun l => l.id == s.subject.a) = some l) (hjob : s.jobIndex l.who.job = some i)

include hlaunch hjob

theorem waveCreate_cancelled (hcancelled : (s.jobEntry i).cancelled = true) : exec .waveCreate s = .next (s.endLaunch l) := by
  refine next_eq ?_
  simp only [hlaunch, hjob, hcancelled, if_true]

theorem waveCreate_lost (hcancelled : (s.jobEntry i).cancelled = false) (hlost : (s.core l.nextCore).lost = true) :
    exec .waveCreate s = .next (s.lostLaunch l) := by
  refine next_eq ?_
  simp only [hlaunch, hjob, hcancelled, hlost, Bool.false_eq_true, if_false, if_true]

theorem waveCreate_block (hcancelled : (s.jobEntry i).cancelled = false) (hlost : (s.core l.nextCore).lost = false) {w : Nat}
    (hblock : s.freeBlock l.nextCore = some w) :
    exec .waveCreate s = .next (if s.roomFor l.nextCore l.size then s.makeWave l w else s.stopLaunch l) := by
  refine next_eq ?_
  simp only [hlaunch, hjob, hcancelled, hlost, hblock, Bool.false_eq_true, if_false]

end

section

variable {e : WaveEnd} (hend : (s.waveEnds.find? fun e => e.wcb == s.subject.a) = some e)

include hend

theorem waveEnd_counts (hred : e.red = none) : exec .waveEnd s = .next (s.countWave e) := by
  refine next_eq ?_
  simp only [hend, hred]

theorem waveEnd_frees {r : Nat} (hred : e.red = some r) (happlied : s.msg? r = none) : exec .waveEnd s = .next (s.freeWave e.wcb) := by
  refine next_eq ?_
  simp only [hend, hred, happlied, Option.isSome_none, Bool.false_eq_true, if_false]

end

/-! ## Jobs (R47) -/

/-- Whether a message is a store or a reduction of a job of this package, or the acknowledgement of one. -/
def State.opensJob (s : State) (job : Word) (m : Msg) : Bool :=
  m.origin.pkg == s.pkg && m.origin.job == job && (match m.body with | .store .. => true | .reduce .. => true | .ack .. => true | _ => false)

theorem opensJob_of_other {job : Word} {m : Msg} (h : m.origin.job ≠ job) : s.opensJob job m = false := by
  unfold State.opensJob
  rw [beq_eq_false_iff_ne.mpr h, Bool.and_false, Bool.false_and]

/-- The completion of a job none of whose requests is in flight. -/
theorem jobCompletion_eq {c : Completion} (hjob : (s.completions.find? fun c => c.job == s.subject.word) = some c)
    (hquiet : ∀ m ∈ s.flight, m.origin.job ≠ s.subject.word) :
    let u : State := { s with completions := s.completions.filter fun x => x != c }
    exec .jobCompletion s = .next (if isMailbox (gpaLocal c.counter) then u
      else u.sendReduce { pkg := s.pkg, job := s.subject.word, free := true } (.alu .add 8 1) c.counter c.key true) := by
  have hopened : s.flight.any (s.opensJob s.subject.word) = false :=
    List.any_eq_false.mpr fun m hm => Bool.eq_false_iff.mp (opensJob_of_other (hquiet m hm))
  refine next_eq ?_
  simp only [hjob]
  exact if_neg (Bool.eq_false_iff.mp hopened)

/-! ## Saves (R370, R371) -/

theorem saveDrained_eq (hstate : (s.tile s.subject.a).state = .saving) (hdrained : (s.tile s.subject.a).drained = false)
    (hquiet : (s.stopTile s.subject.a).quietTile s.subject.a = true) :
    let u := (s.stopTile s.subject.a).saveReads s.subject.a true
    let v := u.writePages s.subject.a (List.range 96) (pageCells (u.imageChunks s.subject.a))
    exec .saveDrained s = .next ((v.setTile s.subject.a { v.tile s.subject.a with drained := true }).notice (v.cycle + 90000) .saveComplete
      { a := s.subject.a }) := by
  refine next_eq ?_
  simp only [hstate, hdrained, hquiet, ne_eq, not_true, Bool.false_eq_true, or_self, if_false, Bool.not_true]

/-- The state with what a save notes beside the image of a tile. -/
def State.noteImage (s : State) (t : Nat) : State := { s with images := Assoc.insert s.images (s.tile t).image (s.imageNote t) }

/-- The state in which the threads of some contexts hold no ticket. -/
def State.endTickets (s : State) (xs : List (Nat × Nat)) : State :=
  xs.foldl (fun (v : State) x => v.setThread x.1 x.2 { v.thread x.1 x.2 with ticket := none }) s

/-- The state in which a tile whose image is written is SAVED. -/
def State.closeSave (s : State) (t : Nat) : State :=
  (s.setTile t { s.tile t with savedAt := s.cycle, redirected := 0, drained := false }).setTileState t .saved

theorem tileContexts_noteImage (s : State) (t : Nat) : (s.noteImage t).tileContexts t = s.tileContexts t := rfl

theorem saveComplete_eq (hstate : (s.tile s.subject.a).state = .saving) (hdrained : (s.tile s.subject.a).drained = true) :
    let t := s.subject.a
    let pad := s.writePages t ((List.range 64).map (96 + ·)) fun i => Memory.slice s.mem (tileBase t + 0x10000 * (i - 96)) 0x10000
    let u := (pad.writePages t (0 :: (List.range 32).map (64 + ·)) (pageCells (pad.imageChunks t))).poisonImage t
    let v := (u.noteImage t).endTickets (u.tileContexts t)
    exec .saveComplete s = .next (v.closeSave t) := by
  intro t pad u v
  have hwritten : exec .saveComplete s = .next (((u.noteImage t).endTickets ((u.noteImage t).tileContexts t)).closeSave t) :=
    next_eq (if_neg (by simp [hstate, hdrained]))
  rw [hwritten, tileContexts_noteImage]

/-! ## Restores, assignments and discards (R372, R373, R388) -/

theorem restoreComplete_eq (hstate : (s.tile s.subject.a).state = .restoring) :
    exec .restoreComplete s = .next ((s.restoreTile s.subject.a).resumeTile s.subject.a (s.tile s.subject.a).drained) :=
  next_eq (if_neg (not_not_intro hstate))

theorem tileAssignDone_eq (hstate : (s.tile s.subject.a).state = .reset) (hassigned : (s.tile s.subject.a).assigned = true) :
    exec .tileAssignDone s = .next ((s.zeroTile s.subject.a).setTileState s.subject.a .live) :=
  next_eq (if_pos ⟨hstate, hassigned⟩)

end Sys2Proof.Machine

section

open Sys2Proof Sys2Proof.Machine

/-- Settles O48: each event takes the branch that the state of its launch, wave, job or tile chooses. -/
theorem tileWaveEvents : Obligations.TileWaveEvents := by
  unfold Obligations.TileWaveEvents
  refine fun s => ⟨fun l i hlaunch hjob => ⟨waveCreate_cancelled hlaunch hjob, waveCreate_lost hlaunch hjob, fun hcancelled hlost w =>
    waveCreate_block hlaunch hjob hcancelled hlost⟩, fun e hend => ⟨waveEnd_counts hend, fun r => waveEnd_frees hend⟩,
    fun c hjob hquiet => ?_, ?_, ?_, ?_, ?_, ?_⟩
  · exact ⟨fun hplain => (jobCompletion_eq hjob hquiet).trans (next_eq (if_neg (Bool.eq_false_iff.mp hplain))),
      fun hmailbox => (jobCompletion_eq hjob hquiet).trans (next_eq (if_pos hmailbox))⟩
  · rintro t rfl hstate hdrained hquiet
    exact saveDrained_eq hstate hdrained hquiet
  · rintro t rfl hstate hdrained
    exact saveComplete_eq hstate hdrained
  · rintro t rfl hstate
    exact restoreComplete_eq hstate
  · rintro t rfl hstate hassigned
    exact tileAssignDone_eq hstate hassigned
  · rintro t rfl hstate
    exact next_eq (if_neg (not_not_intro hstate))

end
end
